-- ==== Sys2Proof/Word.lean ====
section
/-! DEFINITION. The word types of the LX-40 and their widths (spec/00_scope.md R14, spec/03_translation.md R75). -/

namespace Sys2Proof

/-- A byte of a payload, a structure in memory or a DRAM burst (R14). -/
abbrev Byte := BitVec 8

/-- The 64 data bytes of a line; byte k is bits [8k+7 : 8k] (R14, R159). -/
abbrev Line := BitVec 512

/-- The ten 64-bit device words of a line on the module: D0 to D7 in bits [511:0], Dc in [575:512],
Dp in [639:576] (R159). -/
abbrev Burst := BitVec 640

/-- A number of the 48-bit beat counter (R17). -/
abbrev Beat := BitVec 48

/-- The 8-bit label of a request: class in [7:6], budget group in [5:0] (R48). -/
abbrev Label := BitVec 8

/-- A DPA: 44 bits (R75). -/
abbrev Dpa := BitVec 44

/-- A pool address: device index [48:44], pool page [43:12], byte [11:0] (R75). -/
abbrev PoolAddr := BitVec 49

/-- A media address: 43 bits (R75). -/
abbrev Media := BitVec 43

end Sys2Proof
end

