-- ==== Sys2Proof/Syntax.lean ====
section
/-! DEFINITION. The commands of the LX-40: one constructor of `Instr` for each row of spec/opcode_table.json, with the
operands its rule gives it. Operands that the outside world decides (a sensor's reading, the bits a DRAM device got
wrong, a host's answer, which accesses DDR5 timing lets into a slot) are operands of the command that reports them. -/

namespace Sys2Proof

/-- A host link: H0 (or H0a), H0b, H1 (or H1a), H1b, in the order of LdLink's values 0 to 3 (R247, R342). -/
inductive Link | h0a | h0b | h1a | h1b
  deriving DecidableEq, Repr, Inhabited

/-- A host port (R247). -/
inductive HPort | h0 | h1
  deriving DecidableEq, Repr, Inhabited

/-- The two mailboxes of an LD (R329). -/
inductive Box | primary | secondary
  deriving DecidableEq, Repr, Inhabited

/-- Who issues a mailbox command (R13, R332, R338): one mailbox of one LD, or the management controller's endpoint,
which may name an LD through the FM API's LD addressing. -/
inductive Issuer
  | host (ld : Fin 32) (box : Box)
  | mc (ld : Option (Fin 32))
  deriving DecidableEq, Repr, Inhabited

/-- A service class (R48). -/
inductive Cls | c0 | c1 | c2 | c3
  deriving DecidableEq, Repr, Inhabited

/-- The MetaValue of a request to HDM-DB memory (R231): what the host wants to hold afterwards. -/
inductive Meta | i | s | a
  deriving DecidableEq, Repr, Inhabited

/-- A serial lane (R276). -/
inductive Lane
  | host (hp : HPort) (n : Fin 16)
  | tether (p : Fin 3) (n : Fin 8)
  deriving DecidableEq, Repr, Inhabited

/-- The margins of one eye as a periodic scan found them (R288, R290). -/
structure EyeMargins where
  left : Nat
  right : Nat
  up : Nat
  down : Nat
  deriving DecidableEq, Repr, Inhabited

/-- A module type as SPD gives it (R197). -/
inductive ModType | rdimm | mrdimm | other
  deriving DecidableEq, Repr, Inhabited

/-- What a module's SPD says (R197, R437). Capacity in GiB, die density in Gb, times in ns, speed in MT/s. -/
structure Spd where
  kind : ModType
  ecc80 : Bool
  width : Nat
  ranks : Nat
  dies : Nat
  gib : Nat
  density : Nat
  trfcNs : Nat
  thermal : Bool
  rfm : Bool
  rfmNs : Nat
  speed : Nat
  serial : BitVec 32
  deriving DecidableEq, Repr, Inhabited

/-- An HDM decoder as a host commits it (R252): HPA base and size, first DPA, 2^iw ways of 2^ig bytes. -/
structure Decoder where
  hpaBase : Nat
  size : Nat
  dpaBase : Nat
  ig : Nat
  iw : Nat
  deriving DecidableEq, Repr, Inhabited

/-- A word of the counter store (R424, R425): a live counter by its number in the model, a word of an LD's snapshot
bank, or a watch register. -/
inductive CtrWord
  | live (ctr : Nat)
  | snap (ld : Fin 32) (event : Nat)
  | watch (w : Fin 32)
  deriving DecidableEq, Repr, Inhabited

/-- What a coalescing timer belongs to (R412). -/
inductive Coalesced
  | source (n : Nat)
  | vector (ld : Fin 32) (v : Fin 8)
  deriving DecidableEq, Repr, Inhabited

/-- A register space of an LD that a host writes (R268 to R273). `cfgMsix` is the enable bit of the MSI-X capability, `aer` the AER
extended capability. -/
inductive Space | bar0 | bar2 | dvsec | cfgMsix | aer
  deriving DecidableEq, Repr, Inhabited

/-- A register write: space, byte offset, size in bytes, value (R15, R270, R271). -/
structure Reg where
  space : Space
  off : Nat
  size : Nat
  value : BitVec 64
  deriving DecidableEq, Repr, Inhabited

/-- A Tether training set (R281), symbols 3 to 7. -/
structure TrainSet where
  rates : BitVec 8
  width : BitVec 8
  reset : BitVec 8
  port : BitVec 8
  nonce : BitVec 8
  deriving DecidableEq, Repr, Inhabited

/-- A transmitter coefficient (R283). -/
inductive Coef | pre | main | post
  deriving DecidableEq, Repr, Inhabited

/-- The payload of a LINKUP control flit (R311). -/
structure LinkUp where
  resume : Bool
  nextExpected : BitVec 12
  crTotals : BitVec 40
  index : BitVec 5
  assigned : Bool
  port : BitVec 2
  rootStrap : Bool
  synced : Bool
  uniqueId : BitVec 64
  epoch : BitVec 16
  deriving DecidableEq, Repr, Inhabited

/-- The link header of a flit (R298). Kind 00b idle, 01b request, 10b response, 11b control. -/
structure FlitHdr where
  seq : BitVec 12 := 0
  ack : BitVec 12 := 0
  crTotal : BitVec 10 := 0
  crClass : BitVec 2 := 0
  kind : BitVec 2 := 0
  flitClass : BitVec 2 := 0
  nak : Bool := false
  mark : Bool := false
  deriving DecidableEq, Repr, Inhabited

/-- A beat marker (R324). Lag in units of 1/8 ns. -/
structure Marker where
  beat : Beat
  depth : BitVec 5
  synced : Bool
  lag : BitVec 8
  deriving DecidableEq, Repr, Inhabited

/-- The Tether messages (R301). -/
inductive MsgOp | rd | wr | wrp | inv | evct | snp | mgmt | rsp | srsp | swb | mrsp
  deriving DecidableEq, Repr, Inhabited

/-- A Tether message: the common header of R300 and the fields of R301 that its Op uses (the others are 0). -/
structure Msg where
  op : MsgOp
  label : Label := 0
  tag : BitVec 16 := 0
  origin : BitVec 5 := 0
  braid : Bool := false
  dir : Bool := false
  poison : Bool := false
  braidSeq : BitVec 16 := 0
  line : BitVec 43 := 0
  mv : BitVec 2 := 0
  data : Line := 0
  mask : BitVec 64 := 0
  dest : BitVec 5 := 0
  ld : BitVec 5 := 0
  snpType : BitVec 2 := 0
  dpaLine : BitVec 38 := 0
  pathMode : Bool := false
  path : BitVec 62 := 0
  subOp : BitVec 8 := 0
  body : List Byte := []
  status : BitVec 3 := 0
  level : BitVec 3 := 0
  load : BitVec 2 := 0
  srspType : BitVec 2 := 0
  deriving DecidableEq, Repr, Inhabited

/-- A sequenced flit: header, marker if Mark is set, messages in slot order (R296 to R299). -/
structure Flit where
  hdr : FlitHdr
  marker : Option Marker
  msgs : List Msg
  deriving DecidableEq, Repr, Inhabited

/-- One Tether port as a PROBE answer reports it (R305). -/
structure ProbePort where
  state : BitVec 8
  width : BitVec 8
  rate : BitVec 8
  partnerPort : BitVec 8
  partnerUid : BitVec 64
  deriving DecidableEq, Repr, Inhabited

/-- The answer of the device that a PROBE's path reaches (R305, R316). -/
structure ProbeAnswer where
  path : List (Fin 3)
  uid : BitVec 64
  pinned : Option (Fin 32)
  stepping : BitVec 8
  ports : List ProbePort
  deriving DecidableEq, Repr, Inhabited

/-- Why a device wakes (R454); the codes of WakeCause. -/
inductive WakeCause | host | i3c | latch | tether | thermal | fault | trip
  deriving DecidableEq, Repr, Inhabited

/-- How a powered module is lost (R435, R445). -/
inductive LossCause | removal | trip | latchOff
  deriving DecidableEq, Repr, Inhabited

/-- The power state of a host link (R447). -/
inductive LState | l0 | l1 | l2
  deriving DecidableEq, Repr, Inhabited

/-- The straps sampled at the RST_N rise (R477) and the cores that fail their boot self-test (R395). -/
structure Straps where
  tetherRoot : Bool
  i3cAddr : BitVec 2
  failedCores : BitVec 16
  deriving DecidableEq, Repr, Inhabited

/-- A supply rail other than VAUX (R470). -/
inductive Rail | core | sram | sda | sdh | vddq | io
  deriving DecidableEq, Repr, Inhabited

/-- The commands of the block, in the order of spec/opcode_table.json. -/
inductive Instr
  /-- BEAT_BOUNDARY (R46). -/
  | beatBoundary
  /-- MEMRD (R22). -/
  | memrd (l : Link) (ldId : BitVec 16) (hpa : BitVec 64) (mv : Meta) (tag : BitVec 16)
  /-- MEMWR (R29). -/
  | memwr (l : Link) (ldId : BitVec 16) (hpa : BitVec 64) (mv : Meta) (tag : BitVec 16) (data : Line) (mask : BitVec 64) (poison : Bool)
  /-- MEMINV (R231). -/
  | meminv (l : Link) (ldId : BitVec 16) (hpa : BitVec 64) (tag : BitVec 16)
  /-- MEMCLNEVCT (R231). -/
  | memclnevct (l : Link) (ldId : BitVec 16) (hpa : BitVec 64) (tag : BitVec 16)
  /-- INGRESS_ENTRY_GRANT (R255). -/
  | ingressEntryGrant (l : Link) (cls : Cls)
  /-- REGULATOR_ADMIT (R66). -/
  | regulatorAdmit
  /-- AGE_PROMOTION (R67). -/
  | agePromotion (req : Nat)
  /-- TABLE_WALK_COMPLETE (R87). -/
  | tableWalkComplete (walk : Nat) (errs : List Burst)
  /-- KNOT_BLOCK_FILL_DONE (R92). -/
  | knotBlockFillDone (block : Nat) (errs : List Burst)
  /-- DRAM_SLOT_FILL (R205). -/
  | dramSlotFill (ch : Fin 8) (sub : Fin 2) (slot : Nat) (eligible : List (Nat × Bool)) (turnaround : Bool)
  /-- DRAM_READ_DATA_RETURN (R163). -/
  | dramReadDataReturn (acc : Nat) (err : Burst)
  /-- PRISM_SUBBLOCK_DECODE_DONE (R142). -/
  | prismSubblockDecodeDone (dec : Nat)
  /-- PROMOTION_DONE (R118). -/
  | promotionDone (entry : Fin 32)
  /-- MINOR_OVERFLOW (R172). -/
  | minorOverflow (entry : Nat)
  /-- COUNTER_TREE_FETCH_DONE (R178). -/
  | counterTreeFetchDone (fetch : Nat) (errs : List Burst)
  /-- COUNTER_WRITEBACK_COUNT (R179). -/
  | counterWritebackCount (line : Nat)
  /-- REFRESH_WINDOW_START (R208). -/
  | refreshWindowStart (half : Bool)
  /-- REFRESH_WINDOW_END (R209). -/
  | refreshWindowEnd (ch : Fin 8)
  /-- ROW_DISTURBANCE_TRIP (R212). -/
  | rowDisturbanceTrip (ch : Fin 8) (rank : Fin 4) (sub : Fin 2) (bank : Fin 32) (group : Nat)
  /-- ROW_CAP_EXPIRY (R213). -/
  | rowCapExpiry (ch : Fin 8) (rank : Fin 4) (sub : Fin 2) (bank : Fin 32)
  /-- MODULE_THERMAL_READ (R210). -/
  | moduleThermalRead (celsius : List Nat)
  /-- DRIFT_CHECK (R215). -/
  | driftCheck (readings : List Nat)
  /-- PATROL_SCRUB_READ (R216). -/
  | patrolScrubRead
  /-- SCRUB_LATE (R216). -/
  | scrubLate
  /-- POST_PACKAGE_REPAIR (R217). -/
  | postPackageRepair (ch : Fin 8) (rank : Fin 4) (sub : Fin 2) (row : Nat) (spare : Bool) (errs : List Burst)
  /-- RANK_COPY_STEP (R220). -/
  | rankCopyStep (ch : Fin 8)
  /-- RANK_COPY_COMPLETE (R220). -/
  | rankCopyComplete (ch : Fin 8)
  /-- RANK_DRAIN (R222). -/
  | rankDrain (ch : Fin 8) (rank : Fin 4)
  /-- BIRSP (R233). -/
  | birsp (l : Link) (ldId : BitVec 16) (hpa : BitVec 64) (keepsShared : Bool)
  /-- BICONFLICT (R236). -/
  | biconflict (l : Link) (ldId : BitVec 16) (hpa : BitVec 64)
  /-- BI_TIMEOUT (R238). -/
  | biTimeout (slot : Fin 32)
  /-- SHARER_SWEEP (R239). -/
  | sharerSweep (slot : Fin 32)
  /-- DIRECTORY_ERROR (R242). -/
  | directoryError (set : Nat) (way : Fin 16)
  /-- CHANGE_DRAINED (R98). -/
  | changeDrained (change : Nat)
  /-- MOVE_COPY_DRAINED (R361). -/
  | moveCopyDrained (move : Nat)
  /-- EXTENT_MOVE_PAGE (R362). -/
  | extentMovePage (reg : Fin 8)
  /-- EXTENT_MOVE_SWITCH (R362). -/
  | extentMoveSwitch (reg : Fin 8)
  /-- ZERO_FILL_DONE (R113). -/
  | zeroFillDone (fill : Nat)
  /-- TIER_EPOCH_END (R122). -/
  | tierEpochEnd
  /-- DEMOTION_VERIFY_DONE (R141). -/
  | demotionVerifyDone (page : BitVec 32) (image : List Byte)
  /-- READ_PROMOTION (R123). -/
  | readPromotion
  /-- ADD_OFFER_TIMER (R126). -/
  | addOfferTimer (ld : Fin 32) (entry : Fin 16)
  /-- CAPACITY_RECORD_INTERVAL (R127). -/
  | capacityRecordInterval (ld : Fin 32) (entry : Fin 16)
  /-- FIRST_LEVEL_EXPIRY (R91). -/
  | firstLevelExpiry (buf : Option Link) (ld : Fin 32) (ext : Nat)
  /-- OVERLOAD (R72). -/
  | overload (cls : Cls) (group : Fin 64)
  /-- STREAM_SLICE_EXPIRY (R157). -/
  | streamSliceExpiry (slot : Nat)
  /-- STREAM_DESCRIPTOR_DONE (R152). -/
  | streamDescriptorDone (slot : Nat) (coded : List Byte)
  /-- REKEY_PAGE (R194). -/
  | rekeyPage (reg : Fin 8)
  /-- SANITIZE_RANGE_DONE (R365). -/
  | sanitizeRangeDone (slot : Nat)
  /-- COPY_BATCH_DONE (R367). -/
  | copyBatchDone (slot : Nat) (lines : Nat)
  /-- FILL_BATCH_DONE (R367). -/
  | fillBatchDone (slot : Nat) (lines : Nat)
  /-- SCRUB_BATCH_DONE (R367). -/
  | scrubBatchDone (slot : Nat) (lines : Nat)
  /-- POOL_ADD_FILL_DONE (R369). -/
  | poolAddFillDone (slot : Nat)
  /-- POOL_RELEASE_TIMEOUT (R369). -/
  | poolReleaseTimeout (slot : Nat)
  /-- MODULE_REPLACE_PHASE_END (R441). -/
  | moduleReplacePhaseEnd (slot : Nat) (spd : Option Spd)
  /-- TRAINING_WINDOW_OPEN (R440). -/
  | trainingWindowOpen (ch : Fin 8)
  /-- TRAINING_WINDOW_CLOSE (R440). -/
  | trainingWindowClose (ch : Fin 8) (trained : Bool)
  /-- FAULT_REACTION_START (R399). -/
  | faultReactionStart (source : BitVec 16)
  /-- FAULT_N_PULSE_END (R402). -/
  | faultNPulseEnd
  /-- CORE_EXCEPTION (R395). -/
  | coreException (core : Fin 16) (pc : BitVec 36) (addr : BitVec 36)
  /-- CORE_HEARTBEAT_LOSS (R395). -/
  | coreHeartbeatLoss (core : Fin 16)
  /-- CORE_RESTART_DONE (R395). -/
  | coreRestartDone (core : Fin 16) (selfTest : Bool)
  /-- SRAM_ERROR (R196). -/
  | sramError (part : Fin 14) (word : BitVec 32) (bit : BitVec 8) (correctable : Bool)
  /-- COUNTER_STORE_ERROR (R425). -/
  | counterStoreError (where_ : CtrWord)
  /-- COUNTER_INVALID_CLEAR (R425). -/
  | counterInvalidClear (ctr : Nat)
  /-- INTERRUPT_DOORBELL (R409). -/
  | interruptDoorbell (source : BitVec 10)
  /-- INTERRUPT_ACKNOWLEDGE (R409). -/
  | interruptAcknowledge (core : Fin 16) (source : Nat)
  /-- COALESCE_TIME_EXPIRY (R412). -/
  | coalesceTimeExpiry (what : Coalesced)
  /-- RECORD_DELIVERY (R406). -/
  | recordDelivery
  /-- DIE_MONITOR_READ (R480). -/
  | dieMonitorRead (celsius : List Nat) (millivolt : List Nat)
  /-- THROTTLE_END (R480). -/
  | throttleEnd
  /-- THERMTRIP (R481). -/
  | thermtrip
  /-- VDD_CORE_TRIM (R473). -/
  | vddCoreTrim (mv : Nat) (answered : Bool)
  /-- DIAG_UNLOCK_EXPIRY (R386). -/
  | diagUnlockExpiry
  /-- SHEET_EXPIRED (R339). -/
  | sheetExpired
  /-- CINCH_PREPARE_DONE (R346). -/
  | cinchPrepareDone
  /-- CINCH_BANK_WRITE (R346). -/
  | cinchBankWrite
  /-- CHAIN_CINCH_DECISION (R347). -/
  | chainCinchDecision
  /-- FW_PAIR_HANDOVER (R350). -/
  | fwPairHandover (selfCheck : Bool)
  /-- LD_RESET_END (R274). -/
  | ldResetEnd (ld : Fin 32)
  /-- HOST_LINK_UP (R279). -/
  | hostLinkUp (l : Link) (cxl : Bool) (flit256 : Bool) (mld : Bool) (width : Nat) (rate : BitVec 8) (ndr drs bisnp : Nat)
  /-- HOST_LINK_DOWN (R274). -/
  | hostLinkDown (l : Link)
  /-- HOST_HOT_RESET (R274). -/
  | hostHotReset (l : Link)
  /-- HOST_LINK_ERROR (R273). -/
  | hostLinkError (l : Link) (correctable : Bool) (bit : BitVec 5)
  /-- IDE_INTEGRITY_FAILURE (R263). -/
  | ideIntegrityFailure (l : Link) (cxlIo : Bool)
  /-- S2M_CREDIT_RETURN (R256). -/
  | s2mCreditReturn (l : Link) (ndr drs bisnp : Nat)
  /-- HOST_WIDTH_RESET_DONE (R292). -/
  | hostWidthResetDone (l : Link)
  /-- FUNCTION_LEVEL_RESET (R274). -/
  | functionLevelReset (ld : Fin 32)
  /-- HDM_DECODER_COMMIT (R252). -/
  | hdmDecoderCommit (ld : Fin 32) (n : Fin 4) (dec : Decoder)
  /-- BI_ENABLE_WRITE (R254). -/
  | biEnableWrite (l : Link) (enable : Bool)
  /-- MSIX_VECTOR_UNMASK (R413). -/
  | msixVectorUnmask (ld : Fin 32) (vec : Fin 8)
  /-- DOE_CDAT_READ (R265). -/
  | doeCdatRead (ld : Fin 32) (entry : Nat)
  /-- IDE_KM_KEY_PROGRAMMING (R263). -/
  | ideKmKeyProgramming (l : Link) (cxlIo : Bool) (containment : Bool) (key : BitVec 256)
  /-- LANE_MARGINING_COMMAND (R286). -/
  | laneMarginingCommand (lane : Lane) (start : Bool)
  /-- MAILBOX_DOORBELL (R329). -/
  | mailboxDoorbell (ld : Fin 32) (box : Box)
  /-- BEAT_LO_READ (R331). -/
  | beatLoRead (ld : Fin 32) (box : Box)
  /-- PENDING_LO_READ (R331). -/
  | pendingLoRead (ld : Fin 32) (box : Box)
  /-- SNAP_DOORBELL (R421). -/
  | snapDoorbell (ld : Fin 32)
  /-- SNAP_READY_CLEAR (R422). -/
  | snapReadyClear (ld : Fin 32)
  /-- WATCH_OVF_CLEAR (R422). -/
  | watchOvfClear (ld : Fin 32) (bits : BitVec 32)
  /-- REGISTER_WRITE (R15). -/
  | registerWrite (ld : Fin 32) (reg : Reg)
  /-- UNSUPPORTED_OPCODE (R334). -/
  | unsupportedOpcode (iss : Issuer) (opcode : BitVec 16) (inp : List Byte)
  /-- IDENTIFY (R333). -/
  | identify (iss : Issuer) (inp : List Byte)
  /-- BACKGROUND_OPERATION_STATUS (R333). -/
  | backgroundOperationStatus (iss : Issuer) (inp : List Byte)
  /-- GET_RESPONSE_MESSAGE_LIMIT (R333). -/
  | getResponseMessageLimit (iss : Issuer) (inp : List Byte)
  /-- SET_RESPONSE_MESSAGE_LIMIT (R333). -/
  | setResponseMessageLimit (iss : Issuer) (inp : List Byte)
  /-- REQUEST_ABORT_BACKGROUND_OPERATION (R330). -/
  | requestAbortBackgroundOperation (iss : Issuer) (inp : List Byte)
  /-- GET_EVENT_RECORDS (R333). -/
  | getEventRecords (iss : Issuer) (inp : List Byte)
  /-- CLEAR_EVENT_RECORDS (R333). -/
  | clearEventRecords (iss : Issuer) (inp : List Byte)
  /-- GET_EVENT_INTERRUPT_POLICY (R272). -/
  | getEventInterruptPolicy (iss : Issuer) (inp : List Byte)
  /-- SET_EVENT_INTERRUPT_POLICY (R272). -/
  | setEventInterruptPolicy (iss : Issuer) (inp : List Byte)
  /-- GET_MCTP_EVENT_INTERRUPT_POLICY (R333). -/
  | getMctpEventInterruptPolicy (iss : Issuer) (inp : List Byte)
  /-- SET_MCTP_EVENT_INTERRUPT_POLICY (R333). -/
  | setMctpEventInterruptPolicy (iss : Issuer) (inp : List Byte)
  /-- EVENT_NOTIFICATION (R333). -/
  | eventNotification (iss : Issuer) (inp : List Byte)
  /-- GET_FW_INFO (R333). -/
  | getFwInfo (iss : Issuer) (inp : List Byte)
  /-- TRANSFER_FW (R463). -/
  | transferFw (iss : Issuer) (inp : List Byte)
  /-- ACTIVATE_FW (R350). -/
  | activateFw (iss : Issuer) (inp : List Byte)
  /-- GET_TIMESTAMP (R333). -/
  | getTimestamp (iss : Issuer) (inp : List Byte)
  /-- SET_TIMESTAMP (R333). -/
  | setTimestamp (iss : Issuer) (inp : List Byte)
  /-- GET_SUPPORTED_LOGS (R333). -/
  | getSupportedLogs (iss : Issuer) (inp : List Byte)
  /-- GET_LOG (R333). -/
  | getLog (iss : Issuer) (inp : List Byte)
  /-- GET_SUPPORTED_FEATURES (R333). -/
  | getSupportedFeatures (iss : Issuer) (inp : List Byte)
  /-- GET_FEATURE (R333). -/
  | getFeature (iss : Issuer) (inp : List Byte)
  /-- SET_FEATURE (R333). -/
  | setFeature (iss : Issuer) (inp : List Byte)
  /-- IDENTIFY_MEMORY_DEVICE (R333). -/
  | identifyMemoryDevice (iss : Issuer) (inp : List Byte)
  /-- GET_HEALTH_INFO (R333). -/
  | getHealthInfo (iss : Issuer) (inp : List Byte)
  /-- GET_ALERT_CONFIGURATION (R333). -/
  | getAlertConfiguration (iss : Issuer) (inp : List Byte)
  /-- SET_ALERT_CONFIGURATION (R333). -/
  | setAlertConfiguration (iss : Issuer) (inp : List Byte)
  /-- GET_POISON_LIST (R333). -/
  | getPoisonList (iss : Issuer) (inp : List Byte)
  /-- INJECT_POISON (R333). -/
  | injectPoison (iss : Issuer) (inp : List Byte)
  /-- CLEAR_POISON (R333). -/
  | clearPoison (iss : Issuer) (inp : List Byte)
  /-- SANITIZE_COMMAND (R333). -/
  | sanitizeCommand (iss : Issuer) (inp : List Byte)
  /-- GET_DYNAMIC_CAPACITY_CONFIGURATION (R257). -/
  | getDynamicCapacityConfiguration (iss : Issuer) (inp : List Byte)
  /-- GET_DYNAMIC_CAPACITY_EXTENT_LIST (R260). -/
  | getDynamicCapacityExtentList (iss : Issuer) (inp : List Byte)
  /-- ADD_DYNAMIC_CAPACITY_RESPONSE (R258). -/
  | addDynamicCapacityResponse (iss : Issuer) (inp : List Byte)
  /-- RELEASE_DYNAMIC_CAPACITY (R258). -/
  | releaseDynamicCapacity (iss : Issuer) (inp : List Byte)
  /-- TUNNEL_MANAGEMENT_COMMAND (R333). -/
  | tunnelManagementCommand (iss : Issuer) (inp : List Byte)
  /-- GET_LD_INFO (R251). -/
  | getLdInfo (iss : Issuer) (inp : List Byte)
  /-- GET_LD_ALLOCATIONS (R251). -/
  | getLdAllocations (iss : Issuer) (inp : List Byte)
  /-- SET_LD_ALLOCATIONS (R251). -/
  | setLdAllocations (iss : Issuer) (inp : List Byte)
  /-- GET_QOS_CONTROL (R251). -/
  | getQosControl (iss : Issuer) (inp : List Byte)
  /-- SET_QOS_CONTROL (R251). -/
  | setQosControl (iss : Issuer) (inp : List Byte)
  /-- GET_QOS_STATUS (R251). -/
  | getQosStatus (iss : Issuer) (inp : List Byte)
  /-- GET_QOS_ALLOCATED_BW (R251). -/
  | getQosAllocatedBw (iss : Issuer) (inp : List Byte)
  /-- SET_QOS_ALLOCATED_BW (R251). -/
  | setQosAllocatedBw (iss : Issuer) (inp : List Byte)
  /-- GET_QOS_BW_LIMIT (R251). -/
  | getQosBwLimit (iss : Issuer) (inp : List Byte)
  /-- SET_QOS_BW_LIMIT (R251). -/
  | setQosBwLimit (iss : Issuer) (inp : List Byte)
  /-- SHEET_OPEN (R338). -/
  | sheetOpen (iss : Issuer) (inp : List Byte)
  /-- SHEET_SET (R340). -/
  | sheetSet (iss : Issuer) (inp : List Byte)
  /-- SHEET_READ (R343). -/
  | sheetRead (iss : Issuer) (inp : List Byte)
  /-- SHEET_CHECK (R344). -/
  | sheetCheck (iss : Issuer) (inp : List Byte)
  /-- SHEET_CINCH (R345). -/
  | sheetCinch (iss : Issuer) (inp : List Byte)
  /-- SHEET_SLIP (R348). -/
  | sheetSlip (iss : Issuer) (inp : List Byte)
  /-- REGION_STAGE (R371). -/
  | regionStage (iss : Issuer) (inp : List Byte)
  /-- REGION_REMOVE (R372). -/
  | regionRemove (iss : Issuer) (inp : List Byte)
  /-- REGION_READ (R373). -/
  | regionRead (iss : Issuer) (inp : List Byte)
  /-- POOL_ADD (R369). -/
  | poolAdd (iss : Issuer) (inp : List Byte)
  /-- POOL_RELEASE (R369). -/
  | poolRelease (iss : Issuer) (inp : List Byte)
  /-- JOB_STATUS (R358). -/
  | jobStatus (iss : Issuer) (inp : List Byte)
  /-- JOB_CANCEL (R359). -/
  | jobCancel (iss : Issuer) (inp : List Byte)
  /-- SANITIZE (R365). -/
  | sanitize (iss : Issuer) (inp : List Byte)
  /-- MIGRATE (R363). -/
  | migrate (iss : Issuer) (inp : List Byte)
  /-- COPY (R367). -/
  | copy (iss : Issuer) (inp : List Byte)
  /-- FILL (R367). -/
  | fill (iss : Issuer) (inp : List Byte)
  /-- TIER (R364). -/
  | tier (iss : Issuer) (inp : List Byte)
  /-- SCRUB (R367). -/
  | scrub (iss : Issuer) (inp : List Byte)
  /-- COUNT_READ (R374). -/
  | countRead (iss : Issuer) (inp : List Byte)
  /-- COUNT_WATCH (R375). -/
  | countWatch (iss : Issuer) (inp : List Byte)
  /-- FAULT_READ (R376). -/
  | faultRead (iss : Issuer) (inp : List Byte)
  /-- FAULT_PIN (R377). -/
  | faultPin (iss : Issuer) (inp : List Byte)
  /-- TETHER_PORT (R378). -/
  | tetherPort (iss : Issuer) (inp : List Byte)
  /-- TETHER_CHAIN (R379). -/
  | tetherChain (iss : Issuer) (inp : List Byte)
  /-- SEAL_KEY_LOAD (R190). -/
  | sealKeyLoad (iss : Issuer) (inp : List Byte)
  /-- SEAL_KEY_GEN (R191). -/
  | sealKeyGen (iss : Issuer) (inp : List Byte)
  /-- SEAL_KEY_RETIRE (R193). -/
  | sealKeyRetire (iss : Issuer) (inp : List Byte)
  /-- SEAL_KEY_STATUS (R380). -/
  | sealKeyStatus (iss : Issuer) (inp : List Byte)
  /-- SEAL_REKNOT (R185). -/
  | sealReknot (iss : Issuer) (inp : List Byte)
  /-- SEAL_QUARANTINE (R381). -/
  | sealQuarantine (iss : Issuer) (inp : List Byte)
  /-- REKEY (R366). -/
  | rekey (iss : Issuer) (inp : List Byte)
  /-- HITCH_STATUS (R382). -/
  | hitchStatus (iss : Issuer) (inp : List Byte)
  /-- HITCH_SET (R383). -/
  | hitchSet (iss : Issuer) (inp : List Byte)
  /-- MODULE_REPLACE (R368). -/
  | moduleReplace (iss : Issuer) (inp : List Byte)
  /-- POWER_ENTER (R384). -/
  | powerEnter (iss : Issuer) (inp : List Byte)
  /-- POWER_STATUS (R385). -/
  | powerStatus (iss : Issuer) (inp : List Byte)
  /-- PRISM_STREAM (R370). -/
  | prismStream (iss : Issuer) (inp : List Byte)
  /-- DIAG_UNLOCK (R386). -/
  | diagUnlock (iss : Issuer) (inp : List Byte)
  /-- DIAG_LOCK (R387). -/
  | diagLock (iss : Issuer) (inp : List Byte)
  /-- DIAG_POKE (R103). -/
  | diagPoke (iss : Issuer) (inp : List Byte)
  /-- TABLE_INVAL (R106). -/
  | tableInval (iss : Issuer) (inp : List Byte)
  /-- GLINT_START (R287). -/
  | glintStart (iss : Issuer) (inp : List Byte)
  /-- GLINT_RESULT (R288). -/
  | glintResult (iss : Issuer) (inp : List Byte)
  /-- GLINT_POINT_DONE (R285). -/
  | glintPointDone (disagree : BitVec 32)
  /-- GLINT_PERIODIC_SCAN (R290). -/
  | glintPeriodicScan (lane : Lane) (eyes : List EyeMargins)
  /-- LANE_LOSS_OF_LOCK (R388). -/
  | laneLossOfLock (lane : Lane)
  /-- LANE_FEC_SYMBOL_COUNT (R388). -/
  | laneFecSymbolCount (lane : Lane)
  /-- TETHER_RECEIVER_DETECTED (R280). -/
  | tetherReceiverDetected (p : Fin 3) (lanes : BitVec 8)
  /-- TTS1 (R281). -/
  | tts1 (p : Fin 3) (lane : Fin 8) (set : TrainSet)
  /-- TTS2 (R281). -/
  | tts2 (p : Fin 3) (lane : Fin 8) (set : TrainSet)
  /-- TETHER_SPEED_LOCK (R280). -/
  | tetherSpeedLock (p : Fin 3)
  /-- EQUALISATION_REQUEST (R283). -/
  | equalisationRequest (p : Fin 3) (coef : Coef) (up : Bool) (done : Bool)
  /-- TETHER_TRAIN_STATE_TIMEOUT (R280). -/
  | tetherTrainStateTimeout (p : Fin 3)
  /-- TETHER_WIDTH_RESET_DONE (R293). -/
  | tetherWidthResetDone (p : Fin 3)
  /-- SKIP_BLOCK (R278). -/
  | skipBlock (p : Fin 3) (lane : Fin 8) (units : Int)
  /-- LINKUP (R311). -/
  | linkup (p : Fin 3) (m : LinkUp)
  /-- LINKACK (R312). -/
  | linkack (p : Fin 3)
  /-- PING (R313). -/
  | ping (p : Fin 3) (index : Fin 8) (t1 t2 t3 : BitVec 48)
  /-- PONG (R313). -/
  | pong (p : Fin 3) (index : Fin 8) (t1 t2 t3 t4 : BitVec 48)
  /-- PING_RESEND (R313). -/
  | pingResend (p : Fin 3) (index : Fin 8) (t1 : BitVec 48)
  /-- RETRAIN (R310). -/
  | retrain (p : Fin 3)
  /-- HANDSHAKE_TIMEOUT (R312). -/
  | handshakeTimeout (p : Fin 3)
  /-- REQUEST_FLIT (R307). -/
  | requestFlit (p : Fin 3) (flit : Flit)
  /-- RESPONSE_FLIT (R307). -/
  | responseFlit (p : Fin 3) (flit : Flit)
  /-- IDLE_FLIT (R298). -/
  | idleFlit (p : Fin 3) (hdr : FlitHdr)
  /-- BAD_FLIT (R307). -/
  | badFlit (p : Fin 3)
  /-- NAK (R308). -/
  | nak (p : Fin 3) (ack : BitVec 12)
  /-- TETHER_REPLAY_TIMER_EXPIRY (R308). -/
  | tetherReplayTimerExpiry (p : Fin 3)
  /-- TETHER_RECEIVE_SILENCE (R309). -/
  | tetherReceiveSilence (p : Fin 3)
  /-- BEAT_MARKER (R325). -/
  | beatMarker (p : Fin 3) (m : Marker) (offset : Int)
  /-- BEAT_HOLDOVER (R326). -/
  | beatHoldover
  /-- BEAT_SOURCE_LOSS (R326). -/
  | beatSourceLoss
  /-- NO_ROOT (R315). -/
  | noRoot
  /-- TETHER_DISCOVERY_WALK (R316). -/
  | tetherDiscoveryWalk (answers : List ProbeAnswer)
  /-- RD (R37). -/
  | rd (p : Fin 3)
  /-- WR (R37). -/
  | wr (p : Fin 3)
  /-- WRP (R37). -/
  | wrp (p : Fin 3)
  /-- INV (R301). -/
  | inv (p : Fin 3)
  /-- EVCT (R301). -/
  | evct (p : Fin 3)
  /-- SNP (R232). -/
  | snp (p : Fin 3)
  /-- RSP (R38). -/
  | rsp (p : Fin 3)
  /-- SRSP (R301). -/
  | srsp (p : Fin 3)
  /-- SWB (R302). -/
  | swb (p : Fin 3)
  /-- MGMT (R302). -/
  | mgmt (p : Fin 3)
  /-- MRSP (R304). -/
  | mrsp (p : Fin 3)
  /-- MGMT_RESPONSE_TIMEOUT (R304). -/
  | mgmtResponseTimeout (tag : BitVec 16)
  /-- DOZE_TIMEOUT (R453). -/
  | dozeTimeout (p : Fin 3)
  /-- POWER_ENTRY_STEP_DONE (R450). -/
  | powerEntryStepDone
  /-- WAKE_EVENT (R454). -/
  | wakeEvent (cause : WakeCause)
  /-- WAKE_STEP_READY (R459). -/
  | wakeStepReady (untrained : List (Fin 8 × Fin 4))
  /-- WAKE_STEP_TIMEOUT (R460). -/
  | wakeStepTimeout (stuck : BitVec 8)
  /-- BROWN_OUT (R457). -/
  | brownOut
  /-- VDDQ_D_LOSS (R457). -/
  | vddqDLoss
  /-- VAUX_CHANGE (R461). -/
  | vauxChange (good : Bool)
  /-- RST_N_ASSERT (R461). -/
  | rstNAssert
  /-- COLD_BOOT (R462). -/
  | coldBoot (straps : Straps)
  /-- FIRMWARE_BOOT (R466). -/
  | firmwareBoot (spds : List (Option Spd)) (untrained : List (Fin 8 × Fin 4))
  /-- PERST_N_ASSERT (R461). -/
  | perstNAssert (hp : HPort)
  /-- PERST_N_DEASSERT (R461). -/
  | perstNDeassert (hp : HPort) (x8 : Bool)
  /-- CORE_PG_CHANGE (R474). -/
  | corePgChange (good : Bool)
  /-- RAIL_FAULT (R475). -/
  | railFault (rail : Rail)
  /-- PIN_SOURCE_EVENT (R411). -/
  | pinSourceEvent (pin : Fin 24) (high : Bool)
  /-- I3C_PRIVATE_WRITE (R454). -/
  | i3cPrivateWrite (ld : Option (Fin 32)) (opcode : BitVec 16) (inp : List Byte)
  /-- VIN_PG_ASSERT (R430). -/
  | vinPgAssert
  /-- PRECHARGE_DONE (R430). -/
  | prechargeDone
  /-- PRECHARGE_TIMEOUT (R430). -/
  | prechargeTimeout (vbulk vmon : BitVec 16)
  /-- SLOT_OUTPUT_GOOD (R429). -/
  | slotOutputGood (slot : Fin 16)
  /-- SLOT_RAMP_TIMEOUT (R429). -/
  | slotRampTimeout (slot : Fin 16)
  /-- PMIC_POWER_GOOD (R429). -/
  | pmicPowerGood (slot : Fin 16)
  /-- PMIC_TIMEOUT (R429). -/
  | pmicTimeout (slot : Fin 16)
  /-- HITCH_LIMIT_HELD (R431). -/
  | hitchLimitHeld (ch : Fin 17) (sense vout : BitVec 16)
  /-- HITCH_FAST_TRIP (R431). -/
  | hitchFastTrip (ch : Fin 17) (sense vout : BitVec 16)
  /-- HITCH_RETRY_TIMER (R432). -/
  | hitchRetryTimer (ch : Fin 17)
  /-- HITCH_ON_60S (R432). -/
  | hitchOn60s (ch : Fin 17)
  /-- MODULE_REMOVED (R434). -/
  | moduleRemoved (slot : Fin 16)
  /-- MODULE_INSERTED (R434). -/
  | moduleInserted (slot : Fin 16) (spd : Option Spd)
  /-- SPD_READ_RETRY (R434). -/
  | spdReadRetry (slot : Fin 16) (spd : Option Spd)
  /-- MODULE_LOST (R435). -/
  | moduleLost (slot : Fin 16) (cause : LossCause)
  /-- FET_DAMAGED (R436). -/
  | fetDamaged (ch : Fin 17) (mv : BitVec 16)
  /-- SPDM_SECURE_SESSION (R190). -/
  | spdmSecureSession (who : Option (Fin 32)) (session : BitVec 32) (established : Bool)
  /-- FM_API_RESET_COMMAND (R274). -/
  | fmApiResetCommand (lds : BitVec 32)
  /-- HOST_LINK_POWER_STATE_CHANGE (R449). -/
  | hostLinkPowerStateChange (l : Link) (dest : LState)
  /-- PARTNER_LEAVES_ELECTRICAL_IDLE (R280). -/
  | partnerLeavesElectricalIdle (p : Fin 3)
  /-- TA_LOCK_WINDOW_EXPIRY (R280). -/
  | taLockWindowExpiry (p : Fin 3)
  /-- EQUALISATION_TIME_LIMIT (R283). -/
  | equalisationTimeLimit (p : Fin 3) (mine : Bool)
  /-- TH_DESKEW_DONE (R280). -/
  | thDeskewDone (p : Fin 3)
  /-- VIN_PRE_OFF (R430). -/
  | vinPreOff
  /-- CORE_EN_RELEASE (R474). -/
  | coreEnRelease
  deriving DecidableEq, Repr, Inhabited

end Sys2Proof
end

