-- ==== Sys2Proof/Decode.lean ====
section
/-! DEFINITION. The command that a table word spells. spec/opcode_table.json gives no row bits or fields: the commands
arrive at ports, registers and pins, so no word spells one. -/

namespace Sys2Proof

/-- The command that the low nbits of w spell: none, for the table gives no row bits. -/
def decodeTableWord (_nbits _w : Nat) : Option Instr := none

end Sys2Proof
end

