-- ==== Sys2Proof/Config.lean ====
section
/-! DEFINITION. What one part fixes (fuses, the random source) and the free values of the model: opaque constants,
so that no proof can see a value of them. -/

namespace Sys2Proof

/-- The fused 64-bit UniqueId of this device (R311). Fused; no value is stated. -/
opaque Config.uniqueId : BitVec 64

/-- The fused stepping (R269). -/
opaque Config.stepping : BitVec 8

/-- The fused SHA-384 hash of the image signing key (R464). -/
opaque Config.keyHash : BitVec 384

/-- The fused minimum security version (R464). -/
opaque Config.secMin : BitVec 16

/-- The fused target of VDD_CORE in mV (R473). -/
opaque Config.vddTarget : Nat

/-- Neryan's PCI-SIG vendor ID (R268, R269): named, its number is not stated. -/
opaque Config.vendorId : BitVec 16

/-- Subsystem vendor and subsystem ID, and the serial number, that Identify returns (R333; the spec states neither). -/
opaque Config.subsystem : BitVec 32
opaque Config.serial : BitVec 64

/-- What Identify Memory Device reports of limits that the spec does not state: most poison list records, most injected poisons, poison
handling and QoS telemetry capabilities (R333). -/
opaque Config.poisonRecords : BitVec 24
opaque Config.poisonInjects : BitVec 16
opaque Config.poisonCaps : BitVec 8
opaque Config.qosCaps : BitVec 8

/-- Critical thresholds of Get Alert Configuration: life used, over temperature, under temperature (R333; not stated). -/
opaque Config.alertCritical : BitVec 40

/-- UUID of the Neryan vendor log (R333; not stated). -/
opaque Config.vendorLog : BitVec 128

/-- Command effects word of an opcode in the command effects log (R333; not stated). -/
opaque Config.effects : Nat → BitVec 16

/-- The device's random source (R180, R191, R281): draw n of w bits. -/
opaque Config.random : (w : Nat) → Nat → BitVec w

/-- A free value for draw n, of a place where the spec states no value. -/
opaque Config.free : (w : Nat) → Nat → BitVec w

/-- How many event records awaiting delivery their storage holds (R406, R45): of the 1 MiB that sheets and events share,
what 16,384 entries of 16 bytes (R340) leave, at 128 bytes a record (R404). DESIGN CHOICE (log 14). -/
def Config.recordStore : Nat := (1048576 - 16384 * 16) / 128

/-- Requests per beat that a per-LD bandwidth limit lets ingress grant (R251): the standard states the limit in 256ths of a
bandwidth, and the spec states no figure of requests for it (log 11). -/
opaque Config.bwRequests : (limit : BitVec 8) → Nat

/-- The row of an SRAM part in which a word lies (R396 withdraws rows; the spec gives no layout of the parts). -/
opaque Config.sramRow : (part : Nat) → (word : Nat) → Nat

/-- Entries that a row of an SRAM part holds, and, for a row of the port and Tether buffers, the pool they belong to: 0 to 3 the ingress of
a host link, 4 to 6 the transmit queue of a Tether port (R396; the spec gives no layout of the parts). -/
opaque Config.sramRowEntries : (part : Nat) → (row : Nat) → Nat
opaque Config.sramRowPool : (row : Nat) → Fin 7

/-- Spare rows of an SRAM part in the eFuse map (R196, R396). -/
opaque Config.spareRows : (part : Nat) → Nat

/-- New delay value of a rank's registers from the old one, the reading of its DQS interval oscillator at training and the present reading
(R215). The spec names the step, not its arithmetic. -/
opaque Config.driftDelay : (old : BitVec 64) → (trained reading : Nat) → BitVec 64

/-- What an engine has written for the part of an encode descriptor that it had coded when it gave the job up (R156): of the window, oldest
first, and the input coded. Which tokens it chose is the engine's own (R141, R147); it stands only where it is a coding of that input. -/
opaque Config.codedPart : List Byte × List Byte → List Byte

/-- Maintenance slots that firmware asks for to apply soft PPR to a row (R204, R217): the spec gives no number. -/
opaque Config.pprSlots : Nat

/-- Export master secret of an SPDM session (R190): the SPDM layer's, outside this block. -/
opaque Config.exportSecret : (session : BitVec 32) → List Byte

/-- The hash that an SPDM session has negotiated (R190), and the bytes of its block. -/
opaque Config.sessionHash : (session : BitVec 32) → List Byte → List Byte
opaque Config.hashBlock : (session : BitVec 32) → Nat

/-- Bytes of the CXL component and device registers from an offset of BAR0 below 11000h on (R270): their layout and contents are those of
the CXL specification, which the spec does not repeat. -/
opaque Config.cxlRegs : (ld off : Nat) → List Byte

/-- SHA-384 (R463, R464, R451), named by the spec and defined elsewhere. -/
opaque Config.sha384 : List Byte → BitVec 384

/-- ECDSA P-384 with SHA-384 (R463): does the signature of these bytes verify under the key? -/
opaque Config.ecdsaVerify : (pubKey : List Byte) → (msg : List Byte) → (sig : List Byte) → Bool

/-- Whether a firmware image implements a setting (R350): the spec gives no form in which an image says so. -/
opaque Config.implements : (image : List Byte) → (setting : Nat) → Bool

/-- The bytes of the block that firmware saves on entry to P3 (R451): the spec lists what it holds and not its layout. -/
opaque Config.savedBlock : Nat → List Byte

end Sys2Proof
end

