-- ==== Sys2Proof/Machine/State.lean ====
section
/-! DEFINITION. The state of the LX-40 as plain data, and the state right after reset. Every field names its width, the
rule that gives it and its reset value; "DC n" marks a value the spec does not state (DESIGN CHOICE, log entry n) and
"MODEL" a field that is the model's own bookkeeping. -/

namespace Sys2Proof.Machine

open Sys2Proof

/-- A sparse table of like things, sorted by index: an index not listed holds the default its reader names. -/
abbrev Tab (α : Type) := List (Nat × α)

/-! ### Enumerations of the state -/

/-- How far the device has come up (R461, R462, R465, R466). -/
inductive Boot | held | rom | recovery | firmware | running
  deriving DecidableEq, Repr, Inhabited

/-- CXL return codes that R336 and the standard commands use. -/
inductive Ret
  | success | bgStarted | invalidInput | unsupported | internal | retry | busy | activationFailed | invalidPa
  | resources | invalidSecurity | invalidLength | aborted | invalidHandle | fwVerifyFailed | fwOutOfOrder
  | fwInProgress | invalidSlot | invalidLog | invalidExtentList | unsupportedFeature
  deriving DecidableEq, Repr, Inhabited

/-- The five event logs of an LD (R272). -/
inductive LogKind | info | warning | failure | fatal | dc
  deriving DecidableEq, Repr, Inhabited

/-- Region kinds (R77, R107). -/
inductive RKind | firm | elastic | shared
  deriving DecidableEq, Repr, Inhabited

/-- Protection levels (R77, R167). -/
inductive Prot | plain | veiled | sealed
  deriving DecidableEq, Repr, Inhabited

/-- Pressure states of an elastic region on the device (R124). -/
inductive Pressure | normal | pressed | exhausted
  deriving DecidableEq, Repr, Inhabited

/-- Key ID states (R188). -/
inductive KState | free | active | failed | retiring
  deriving DecidableEq, Repr, Inhabited

/-- Power states (R447). -/
inductive PState | p0 | p1 | p2 | p3
  deriving DecidableEq, Repr, Inhabited

/-- Job kinds (R356). -/
inductive JKind | sanitize | migrate | copy | fill | tier | scrub | poolAdd | poolRelease | rekey | moduleReplace | prismStream
  deriving DecidableEq, Repr, Inhabited

/-- Job states (R358). -/
inductive JState | queued | active | done | failed | cancelled
  deriving DecidableEq, Repr, Inhabited

/-- Job reasons (R358). -/
inductive JReason | none | deferred | throttled | waiting | host
  deriving DecidableEq, Repr, Inhabited

/-- Tether training and link states (R280, R315, R378, R453). -/
inductive TState | td | ta | tc | ts | te | th | handshake | active | retraining | standby | heldDown
  deriving DecidableEq, Repr, Inhabited

/-- Hitch channel states, in the order of their codes (R382). -/
inductive HState | off | ramping | on | tripped | latchedOff | retired | unqualified
  deriving DecidableEq, Repr, Inhabited

/-- Jalend core states (R395). -/
inductive CoreSt | running | restarting | retired
  deriving DecidableEq, Repr, Inhabited

/-! ### Records, responses and everything the device sends out -/

/-- An event record (R404, R414): type, source, class, reaction, flags, LD (none: device scope), beat, detail,
window count; `gm` marks a CXL General Media record, whose detail is the DPA and whether a read. -/
structure Rec where
  type : BitVec 16
  log : LogKind
  gm : Bool := false
  source : BitVec 16 := 0xFFFF
  cls : BitVec 8 := 0xFF
  reaction : BitVec 8 := 0
  flags : BitVec 8 := 0
  ld : Option Nat
  /-- for the management controller alone -/
  mcOnly : Bool := false
  beat : Beat
  detail : BitVec 128
  window : BitVec 32 := 0
  /-- of a dynamic-capacity record: whether a release, More, extents (start, length in 2 MiB units), tag (09 R258 to R260) -/
  dc : Option (Bool × Bool × List (Nat × Nat) × BitVec 16) := none
  /-- of a capacity record: device and cause code; 14 R404's layout gives them no bytes (04 R127, log 80) -/
  cap : Option (Nat × Nat) := none
  deriving DecidableEq, Repr, Inhabited

/-- What a CXL.mem response carries (R22, R261): data, poison or a completion. -/
inductive Answer | data (d : Line) | poison | cmp
  deriving DecidableEq, Repr, Inhabited

/-- A CXL.mem response at egress (R22, R56, R264): LD (none for an LD-ID the link does not present), host tag, class of
its label, answer, DevLoad, viral indication. -/
structure Resp where
  ld : Option Nat
  tag : BitVec 16
  cls : Cls
  answer : Answer
  load : BitVec 2
  viral : Bool
  conflictAck : Bool := false
  deriving DecidableEq, Repr, Inhabited

/-- A response waiting at egress (02 R56): when its request's last bit arrived, in fabric clocks since the cold boot, the
bound of R58 it falls under in ns (0: none), and whether it is one of R417's accepted reads. -/
structure Owed where
  r : Resp
  start : Nat := 0
  bound : Nat := 0
  read : Bool := false
  deriving DecidableEq, Repr, Inhabited

/-- A back-invalidate snoop at egress (R231, R253): LD, kind 0 Cur, 1 Data, 2 Inv, HPA of the line. -/
structure Snp where
  ld : Nat
  kind : BitVec 2
  hpa : BitVec 64
  /-- label of the request that caused it (R232) -/
  label : Label := 0
  deriving DecidableEq, Repr, Inhabited

/-- A Tether unit other than a sequenced flit: idle and control flits (R298, R310 to R313). -/
inductive Ctl
  | idle (hdr : FlitHdr) (marker : Option Marker)
  | linkup (m : LinkUp)
  | linkack
  | ping (index : Nat) (t1 : BitVec 48)
  | pong (index : Nat) (t1 t2 t3 : BitVec 48)
  | retrain
  | tts (kind : Nat) (set : TrainSet)
  | coefStep (coef : Coef) (up : Bool)
  | electricalIdle
  deriving DecidableEq, Repr, Inhabited

/-- One thing the device sends out, in order. -/
inductive Out
  | resp (l : Link) (r : Resp)
  | snoop (l : Link) (s : Snp)
  | credit (l : Link) (rwd : Bool)
  | msix (ld : Nat) (vec : Nat)
  | mctp (r : Rec)
  | mailbox (box : Nat) (ret : Ret) (out : List Byte)
  | read (value : BitVec 64)
  | cdat (entry : List Nat)
  | flit (p : Nat) (f : Flit)
  | ctl (p : Nat) (c : Ctl)
  | pin (name : String) (high : Bool)
  | pmbus (mv : Nat)
  | watchNotice (w : Nat)
  | i3cNack
  deriving DecidableEq, Repr, Inhabited

/-! ### Clock and settings -/

/-- The beat and its clock. -/
structure Clock where
  /-- 48 bits. 02 R46, 00 R17. Reset 0 (DC 3). The beat counter. -/
  beat : Beat := 0
  /-- 0 to 500. 02 R46. Reset 0 (DC 3). Fabric clocks of the beat that have passed (DC 5: how they do). -/
  clk : Nat := 0
  /-- MODEL. Boundaries passed since the cold boot, unwrapped: what the rules count durations in (00 R18). -/
  bnd : Nat := 0
  /-- MODEL. Draws made from the random source and the free values (log 11). -/
  draw : Nat := 0
  deriving DecidableEq, Repr, Inhabited

/-- A region in force or staged (13 R371): 16 ingress entries per LD. `floor` lists V_d of devices 0 to 31. -/
structure Region where
  ld : Nat
  entry : Nat
  kind : RKind
  knotted : Bool
  prot : Prot
  reflected : Bool
  key : Nat
  label : Label
  set : BitVec 16
  /-- first 2 MiB unit of the LD's DPA space -/
  base : Nat
  /-- 2 MiB units -/
  size : Nat
  floor : List Nat
  /-- the device whose LD it is, for a region that a chain sheet brought (11 R305); none: this device's -/
  home : Option Nat := none
  deriving DecidableEq, Repr, Inhabited

/-- A staged entry of the open sheet (12 R340, R371, R372), in staging order. -/
inductive Staged
  | setting (id index dev value : Nat)
  | region (r : Region)
  | remove (ld entry : Nat)
  deriving DecidableEq, Repr, Inhabited

/-- What a cinch is doing (12 R346, R347). -/
inductive CinchPhase | preparing | prepared | decided (commit : Bool) | banked
  deriving DecidableEq, Repr, Inhabited

/-- A pending cinch (12 R345 to R347). -/
structure Cinch where
  box : Nat
  mode : Nat
  named : Beat
  phase : CinchPhase
  fills : List Nat := []
  ready : List Nat := []
  refused : List (Nat × Nat × Nat) := []
  reports : List (Nat × List Byte) := []
  applied : List Nat := []
  outcomes : List Nat := []
  /-- MODEL. boundary at which the preparation began; of a cinch whose outcomes are being collected, the boundary N -/
  preparedAt : Nat := 0
  /-- devices to which every part was sent a second time (11 R305) -/
  resent : List Nat := []
  /-- on a peer: the PREPARE that waits for its answer, and the port it came from (12 R347) -/
  ask : Option (Nat × Msg) := none
  deriving DecidableEq, Repr, Inhabited

/-- The open sheet (12 R338 to R348). `owner` is the mailbox number (2 LD + box, 64 for the management controller). -/
structure Sheet where
  id : BitVec 16
  chain : Bool
  owner : Nat
  ownerDev : Nat
  lease : Nat
  /-- boundary of the owner's last SHEET command, from which the lease counts -/
  leaseFrom : Nat
  staged : List Staged := []
  cinch : Option Cinch := none
  /-- a peer's sheet: parts received, in order of their numbers (11 R305) -/
  parts : List (Nat × List Byte) := []
  deriving DecidableEq, Repr, Inhabited

/-- A chain SHEET.OPEN that waits for the LOCK answers of the other devices (12 R338): owner's interface, lease, those asked
and not heard, those that gave their lock, the first refusal. -/
structure Opening where
  box : Nat
  counts : Nat
  lease : Nat
  id : BitVec 16
  waits : List Nat
  locked : List Nat := []
  busy : Bool := false
  /-- a device did not answer within 1 ms -/
  slow : Bool := false
  deriving DecidableEq, Repr, Inhabited

/-- Settings, regions and the sheet. -/
structure Conf where
  /-- 64 bits each, by id * 65536 + index. 12 R341 and the settings tables. Reset: nothing listed, so every default. -/
  cur : Tab Nat := []
  /-- Same form. 12 R346 step 3. Reset none. The next banks of the sheet registers, named for a beat. -/
  next : Option (Beat × Tab Nat × List Staged) := none
  /-- 12 R371, 01 R23. Reset empty (00 R3: no region after a cold boot). -/
  regions : List Region := []
  /-- 12 R338. Reset none. The one open sheet. -/
  sheet : Option Sheet := none
  /-- 12 R347. Reset none. A chain cinch past its boundary N whose outcomes the coordinator still collects. -/
  collect : Option Cinch := none
  /-- 12 R338. Reset none. A chain SHEET.OPEN under way. -/
  opening : Option Opening := none
  /-- 16 bits. 11 R305. Reset 0 (DC 3). SheetId of the next chain sheet. -/
  sheetId : BitVec 16 := 0
  /-- MODEL. Boxes whose sheet expired or was slipped by force: their next SHEET command returns NOT_OPEN (12 R339). -/
  expired : List Nat := []
  deriving DecidableEq, Repr, Inhabited

/-! ### Host ports, links and LDs -/

/-- State of a host link (09). -/
inductive HLinkSt | down | up | l1 | l2
  deriving DecidableEq, Repr, Inhabited

/-- IDE state of a stream (09 R263). -/
inductive Ide | off | skid | containment | secure | insecure | failed
  deriving DecidableEq, Repr, Inhabited

/-- One host link (09). -/
structure HLink where
  /-- 10 R279, 17 R447. Reset down. -/
  st : HLinkSt := .down
  /-- 1 bit. 09 R246. Reset 0 (DC 3). The link negotiated CXL; otherwise PCIe alone. -/
  cxl : Bool := false
  /-- 1 bit. 09 R245. Reset 0 (DC 3). 256-byte flits. -/
  flit256 : Bool := false
  /-- 1 bit. 09 R250. Reset 0 (DC 3). The partner is a switch port with MLD support. -/
  mld : Bool := false
  /-- 5 bits. 09 R248. Reset 0. Trained width. -/
  width : Nat := 0
  /-- 8 bits. 10 R288 rate codes. Reset 0. -/
  rate : BitVec 8 := 0
  /-- 1 bit. 10 R282. Reset 0. Lane order from the top lane downward. -/
  reversed : Bool := false
  /-- 1 bit. 09 R254. Reset 0 (DC 3). BI Enable. -/
  bi : Bool := false
  /-- 1 bit. 09 R262. Reset 0. The link is in viral. -/
  viral : Bool := false
  /-- MODEL. viral entered, in force from the next boundary (09 R262). -/
  viralDue : Bool := false
  /-- 09 R256. Reset 0. S2M NDR credits of the host. -/
  ndr : Nat := 0
  /-- 09 R256. Reset 0. S2M DRS credits. -/
  drs : Nat := 0
  /-- 09 R256. Reset 0. S2M BISnp credits. -/
  bisnp : Nat := 0
  /-- 01 R27. Reset empty. Responses packed for egress, waiting for S2M credits, C0 first (02 R56). -/
  egress : List Owed := []
  /-- 09 R256. Reset empty. Snoops waiting for BISnp credits. -/
  snoops : List Snp := []
  /-- 32 bits. 09 R273, 14 R391. Reset 0. AER correctable error status. -/
  aerCor : BitVec 32 := 0
  /-- 32 bits. 09 R273. Reset 0. AER uncorrectable error status. -/
  aerUnc : BitVec 32 := 0
  /-- 09 R263. Reset off. CXL.io link IDE stream. -/
  ideIo : Ide := .off
  /-- 09 R263. Reset off. CXL.cachemem IDE stream. -/
  ideMem : Ide := .off
  /-- 256 bits each. 09 R263. Reset 0. Stream keys: CXL.io, CXL.cachemem. -/
  ideKeys : BitVec 256 × BitVec 256 := (0, 0)
  /-- 17 R450 step 3. Reset 0. ASPM L1 permitted. -/
  aspm : Bool := false
  /-- FM QoS control word of the MLD (09 R245, R251). Reset 0 (DC 3). -/
  qosControl : List Byte := []
  /-- 12 R333 5402h. Reset none. Allocations of the LDs of the link. -/
  ldAlloc : List Byte := []
  /-- 12 R333 5407h. Reset none. Allocated bandwidth of the LDs of the link. -/
  qosBw : List Byte := []
  /-- 10 R291. Reset 0. A width reset starts at the next boundary. -/
  widthDue : Bool := false
  /-- 10 R292, R294. Reset none. A width reset is running, with its restarts. -/
  widthReset : Option Nat := none
  /-- 16 bits. 10 R282. Reset 0. Lanes of the link that have a partner. -/
  lanes : BitVec 16 := 0
  deriving DecidableEq, Repr, Inhabited

/-- One host port (09 R247). -/
structure HPortSt where
  /-- 1 bit. 09 R247. Reset 0 (18 R477: an open strap reads 0). Two x8 links. -/
  halves : Bool := false
  /-- 1 bit. 17 R461. Reset 1 (DC 3). PERST_N is asserted. -/
  perst : Bool := true
  /-- 16 bits. 10 R291. Reset 0. Retired-lane mask, in AO storage. -/
  retired : BitVec 16 := 0
  deriving DecidableEq, Repr, Inhabited

/-- Where a DC extent of an LD stands (09 R258 to R260, 13 R369): being filled, offered, accepted by the host and valid from
the next boundary on, held, released from the next boundary on, its release draining. -/
inductive ExtSt | filling | offered | accepted | held | releasing | draining
  deriving DecidableEq, Repr, Inhabited

/-- A DC extent: a run of whole 2 MiB units of one region on one device (09 R260). -/
structure Extent where
  start : Nat
  len : Nat
  entry : Nat
  dev : Nat
  st : ExtSt
  /-- 2 MiB frames of a local direct extent, or pool ranges otherwise, one per unit (03 R77) -/
  place : List Nat
  tag : BitVec 16 := 0
  /-- job slot that offered it, or 512 + region entry for the device's own offer (04 R126) -/
  job : Option Nat := none
  deriving DecidableEq, Repr, Inhabited

/-- One MSI-X vector (09 R272, 15 R412, R413). -/
structure Vec where
  /-- 1 bit. Reset 1, masked (DC 3). -/
  masked : Bool := true
  /-- 1 bit. Reset 0. -/
  pending : Bool := false
  /-- message address 64, data 32. Reset 0 (DC 3). -/
  addr : BitVec 64 := 0
  data : BitVec 32 := 0
  /-- 15 R412. Reset 0. Events since the last delivery. -/
  count : Nat := 0
  /-- 15 R412. Reset none. Boundary of the first event since the last delivery. -/
  first : Option Nat := none
  deriving DecidableEq, Repr, Inhabited

/-- One event log (15 R414): at most 128 records, oldest first, with handles. -/
structure Log where
  recs : List (Nat × Rec) := []
  /-- records not stored since the log was full -/
  lost : Nat := 0
  next : Nat := 1
  deriving DecidableEq, Repr, Inhabited

/-- An LD's snapshot (15 R420 to R422). -/
structure Snap where
  /-- 32 bits. Reset 0. -/
  seq : BitVec 32 := 0
  /-- 48 bits. Reset 0. -/
  beat : Beat := 0
  /-- counters as captured, by number; flag set marks an uncorrectable word. Reset empty. -/
  vals : Tab (BitVec 48 × Bool) := []
  /-- RW1C. Reset 0. -/
  ready : Bool := false
  /-- requested in the current beat (Pending of R422) -/
  asked : Bool := false
  deriving DecidableEq, Repr, Inhabited

/-- One logical device (09). -/
structure Ld where
  /-- 02 R51. Reset 0, the default ContractRate. C0 allowance left in the beat. -/
  allowance : Nat := 0
  /-- 09 R274. Reset 0. The LD is resetting. -/
  resetting : Bool := false
  /-- MODEL. boundary at which the reset began -/
  resetFrom : Nat := 0
  /-- 09 R254. Reset 0. BI-ID assigned. -/
  biId : Bool := false
  /-- 09 R252. Reset empty. Committed HDM decoders, by number 0 to 3. -/
  hdm : Tab Decoder := []
  /-- 09 R260. Reset empty. DC extents, in order of start. -/
  exts : List Extent := []
  /-- 09 R258. Reset empty. Offers that the host has not answered, oldest first: the job slot; 512 + region entry for the device's own. -/
  offers : List Nat := []
  /-- 8 bits. 09 R251. Reset 0: no limit (DC 3). Bandwidth limit, in 256ths. -/
  bwLimit : BitVec 8 := 0
  /-- MODEL. requests that the limit has let through in the beat (09 R251). -/
  bwUsed : Nat := 0
  /-- 8 bits. 02 R60, 09 R269. Reset 0. Lapsed conditions of R57 (bit n: condition n; bit 0: refault or rate drop). -/
  lapsed : BitVec 8 := 0
  /-- 32 bits. 09 R267. Reset 0 (DC 3). CDAT sequence number. -/
  cdatSeq : BitVec 32 := 0
  /-- 1 bit. 09 R267. Reset 0. Table Changed of the DOE. -/
  cdatChanged : Bool := false
  /-- 1 bit. 15 R413. Reset 0. MSI-X enabled. -/
  msixOn : Bool := false
  /-- 8 vectors. 09 R272. -/
  vecs : Tab Vec := []
  /-- 5 logs. 15 R414. -/
  logs : Tab Log := []
  /-- 5 bits. 09 R272. Reset: none signals (DC 3). Logs whose interrupt is MSI-X. -/
  evtMsix : List LogKind := []
  /-- 15 R421. -/
  snap : Snap := {}
  /-- 06 R190. Reset none. SPDM session of the LD's DOE. -/
  session : Option (BitVec 32) := none
  /-- 32 bits. 12 R333 4801h. Reset 0. Extent list generation number. -/
  extGen : BitVec 32 := 0
  deriving DecidableEq, Repr, Inhabited

/-- A background command of a mailbox (12 R330). -/
structure Bg where
  opcode : BitVec 16
  running : Bool
  ret : Ret
  out : List Byte
  /-- job slot of a standard Sanitize -/
  job : Option Nat := none
  /-- asked to stop at the next boundary (R330) -/
  abort : Bool := false
  /-- LD whose counters the command counts in; 32: no LD's (15 R489) -/
  counts : Nat := 32
  deriving DecidableEq, Repr, Inhabited

/-- A mailbox, or the management controller's endpoint (12 R329 to R332). -/
structure Mbox where
  /-- 32 KiB. 12 R329, 09 R270. Reset 0: empty (DC 3). Command payload. -/
  inp : List Byte := []
  /-- 16 bits. Reset 0. Opcode of the command register (log 8). -/
  opcode : BitVec 16 := 0
  /-- Reset 0. Payload length of the command register (log 8). -/
  len : Nat := 0
  /-- Last output payload. Reset empty. -/
  out : List Byte := []
  /-- Last return code. Reset success (DC 3). -/
  ret : Ret := .success
  /-- 16 bits. 12 R331. Reset 0. -/
  lastStatus : BitVec 16 := 0
  /-- 12 R330. Reset none. Background command running or last completed. -/
  bg : Option Bg := none
  /-- 16 bits. 12 R331. Reset 0 (DC 3). -/
  beatHi : BitVec 16 := 0
  /-- 16 bits. 12 R331. Reset 0. -/
  pendingHi : BitVec 16 := 0
  /-- 12 R333. Reset 32768 (log 3). Response message limit in force. -/
  respLimit : Nat := 32768
  deriving DecidableEq, Repr, Inhabited

/-- A COUNT.READ that waits for its boundary (13 R374): interface, LD it counts in, range, LD read (none: device scope). -/
structure CountAsk where
  box : Nat
  counts : Nat
  first : Nat
  number : Nat
  ld : Option Nat
  /-- device-scope values are permitted (R416) -/
  dev : Bool
  deriving DecidableEq, Repr, Inhabited

/-- Host side of the device. -/
structure HostSide where
  /-- Links by number 0 to 3 (09). -/
  links : Tab HLink := []
  /-- Ports 0, 1 (09 R247). -/
  ports : Tab HPortSt := []
  /-- LDs 0 to 31 (09 R250). -/
  lds : Tab Ld := []
  /-- Mailboxes: 2 LD + box, and 64 for the management controller (12 R329, R332). -/
  boxes : Tab Mbox := []
  /-- 13 R374. Reset none. COUNT.READ commands that wait for the next boundary. -/
  asks : List CountAsk := []
  /-- 06 R190, 13 R386. Reset none. SPDM session of the management controller. -/
  mcSession : Option (BitVec 32) := none
  /-- 16 bits. 12 R333 0104h, 0105h. Reset: all logs (DC 3). MCTP event interrupt policy. -/
  mctpPolicy : BitVec 16 := 0x1F
  /-- 64 bits. 12 R333 0300h. Reset 0 (DC 3). Timestamp as set. -/
  timestamp : BitVec 64 := 0
  /-- MODEL. boundary at which the timestamp was set -/
  timestampAt : Nat := 0
  /-- 12 R333 4202h. Reset 0 (DC 3). Alert configuration as set. -/
  alerts : List Byte := []
  /-- 17 R454. Reset none. I3C private writes taken in P2, with their opcode and payload, which firmware meets at P0. -/
  i3cHeld : List (Option Nat × BitVec 16 × List Byte) := []
  /-- 13 R386. Reset locked. Boundary at which the unlock's Duration ends. -/
  diagUntil : Option Nat := none
  deriving DecidableEq, Repr, Inhabited

/-! ### The request path -/

/-- Who a request belongs to (01 R22, R37, R40). -/
inductive Src
  | host (l : Link) (ld : Nat) (tag : BitVec 16)
  | peer (p : Nat) (origin : BitVec 5) (tag : BitVec 16) (braid : Bool) (dir : Bool)
  | job (slot : Nat)
  | scrub
  deriving DecidableEq, Repr, Inhabited

/-- What a request asks for (01, 08 R231). -/
inductive ReqOp | read | write | inv | evct
  deriving DecidableEq, Repr, Inhabited

/-- Where a request stands (01 R20, R26): each waiting place of the path. -/
inductive Stage
  | store | ingress | service | peerIn
  | walk1 (w : Nat) | slot1 | router | walk2 (w : Nat) | slot2
  | remote | header (f : Nat) | promo (e : Nat) | moving
  | lsWait | home | snoop (line : Nat) | sched | issued | image (d : Nat) | remoteSnoop
  deriving DecidableEq, Repr, Inhabited

/-- Attributes of the entry that the request resolved through (03 R83). -/
structure Attr where
  prot : Prot := .plain
  key : Nat := 0
  shared : Bool := false
  reflected : Bool := false
  /-- set for a knotted range: the page has a header (04 R115) -/
  knotted : Bool := false
  /-- media address of the range unit of a knotted range (04 R110) -/
  base : Nat := 0
  deriving DecidableEq, Repr, Inhabited

/-- A request in flight. -/
structure Req where
  id : Nat
  src : Src
  op : ReqOp
  mv : Meta := .i
  dpa : Nat := 0
  label : Label
  data : Line := 0
  mask : BitVec 64 := BitVec.allOnes 64
  poison : Bool := false
  stage : Stage
  /-- pool address after stage 1 (03 R87) -/
  pool : Nat := 0
  /-- media byte address after stage 2 -/
  media : Nat := 0
  attr : Attr := {}
  /-- shade knot: class and first slot -/
  shade : Option (Nat × Nat) := none
  movingMark : Bool := false
  /-- the knot it resolved through, zero for a direct extent, and the token of a moving one (03 R82) -/
  knot : BitVec 36 := 0
  token : Nat := 0
  /-- boundary and clock of acceptance at ingress, or of admission for jobs and peers (02 R63) -/
  atBnd : Nat := 0
  atClk : Nat := 0
  /-- boundary of admission (02 R67) -/
  admitBnd : Nat := 0
  step : Nat := 0
  promoted : Bool := false
  /-- state of the load of the answering device, for a forwarded request (02 R70) -/
  load : BitVec 2 := 0
  granted : Bool := false
  /-- its link went down or took a hot reset: taken out of its queue at the next boundary (01 R28) -/
  dead : Bool := false
  /-- it has waited in stage 2, in a promotion entry or behind a moving knot (01 R30) -/
  waited : Bool := false
  /-- its access is in the page's tiering record (04 R120) -/
  heated : Bool := false
  /-- of a service engine's request: the LD whose DPA it names (01 R40), and the LD that owns its job (15 R489; 32: none) -/
  ldn : Nat := 0
  owner : Nat := 32
  /-- what the links of its route add to its bound (02 R58) -/
  cost : Nat := 0
  /-- of a SCRUB job's read: the home line it reads (13 R367) -/
  scrub : Option Nat := none
  deriving DecidableEq, Repr, Inhabited

/-- A C1 group of the regulator (02 R63). Completions of the last 64 beats: boundary, ns, LD (32: none). -/
structure C1 where
  done : List (Nat × Nat × Nat) := []
  step : Nat := 0
  /-- LDs whose completions the last step was computed from (02 R71) -/
  lds : List Nat := []
  deriving DecidableEq, Repr, Inhabited

/-- A C2 group of the regulator (02 R64). -/
structure C2 where
  /-- sixteenths of a request per beat -/
  r : Nat
  a : Nat := 0
  /-- levels of the channels its requests used in the beat: local channels, and levels that came with responses -/
  used : List Nat := []
  levels : List Nat := []
  /-- L of the last boundary -/
  level : Nat := 0
  deriving DecidableEq, Repr, Inhabited

/-- A group's run in Severe Overload (02 R72). -/
structure Over where
  run : Nat := 0
  cause : Nat := 0
  /-- boundaries outside a run since the last record; none: no record raised -/
  outside : Option Nat := none
  deriving DecidableEq, Repr, Inhabited

/-- The regulator (02). -/
structure Regul where
  /-- All requests in flight, oldest first (01). Reset empty. -/
  reqs : List Req := []
  /-- MODEL. Number of the next request. -/
  next : Nat := 1
  /-- C1 groups 0 to 63 (02 R63). Reset: no completions, step 0. -/
  c1 : Tab C1 := []
  /-- C2 groups 0 to 63 (02 R64). Reset: r = 16 x the default C2Cap. -/
  c2 : Tab C2 := []
  /-- 6 bits. 02 R66. Reset 0 (DC 3). Last C2 group served, for round robin. -/
  rr : Nat := 0
  /-- 02 R65. Reset open (DC 3). The C3 gate. -/
  gate : Bool := true
  /-- MODEL. why the gate is closed: by levels, by throttling (02 R72) -/
  gateWhy : Bool × Bool := (false, false)
  /-- MODEL. last boundary at which the gate was closed (02 R69). -/
  gateClosed : Option Nat := none
  /-- 3 bits each. 02 R62. Reset 0. Levels of channels 0 to 7 at the last boundary. -/
  level : Tab Nat := []
  /-- 02 R65. Reset empty. Remote levels received during the beat. -/
  remote : List Nat := []
  /-- C0 groups in which a demotion took place in the last beat (02 R69). Reset empty. -/
  demoted : List Nat := []
  /-- C0 groups with a demotion in the present beat. -/
  demotedNow : List Nat := []
  /-- Severe Overload runs by class * 64 + group (02 R72). -/
  overs : Tab Over := []
  /-- 2 bits each. 02 R69. Load state by class * 64 + group, set at each boundary. Reset 0 (Light). -/
  load : Tab Nat := []
  /-- 14 R396. Reset 0. Entries of the withdrawn rows of SRAM parts 0 to 7 and 12, by 16 * part, and of part 7 by 112 + link. -/
  withdrawn : Tab Nat := []
  deriving DecidableEq, Repr, Inhabited

/-! ### Translation -/

/-- A first-level buffer entry (03 R90, R91): LD, 2 MiB index, the extent entry, boundary of its fill. -/
structure Flb where
  ld : Nat
  ext : Nat
  entry : BitVec 64
  filled : Nat
  deriving DecidableEq, Repr, Inhabited

/-- Kinds of extent-cache entries (03 R90). -/
inductive XKind | s1l1 | s1l2 | s2l1 | s2l2
  deriving DecidableEq, Repr, Inhabited

/-- An extent-cache entry: kind, LD (stage 1), index, value, media address it was read from. Most recent first. -/
structure XEntry where
  kind : XKind
  ld : Nat
  index : Nat
  value : BitVec 64
  addr : Nat
  pinned : Bool := false
  deriving DecidableEq, Repr, Inhabited

/-- A knot-cache slot (03 R90, R92): leaf block address, valid lines, knots' block, tiering records, records present. -/
structure KSlot where
  block : Nat
  valid : BitVec 36
  knots : BitVec 18432
  recs : BitVec 10240
  recsValid : Bool
  /-- the rest of the block is being filled -/
  filling : Bool
  deriving DecidableEq, Repr, Inhabited

/-- What a walk looks for (03 R87). -/
inductive Target
  | stage1 (ld ext : Nat)
  | stage2 (page : Nat)
  deriving DecidableEq, Repr, Inhabited

/-- A walk running or waiting for its table lines (03 R87, R94). -/
structure Walk where
  id : Nat
  target : Target
  label : Label
  prefetch : Bool
  deriving DecidableEq, Repr, Inhabited

/-- What a posted invalidation covers (03 R97, R106). -/
inductive Scope
  | all
  | stage1 (ld first count : Nat)
  | stage2 (first count : Nat)
  /-- a directory entry alone: the S1L1 entry of an LD, the S2L1 entry (03 R84, R97) -/
  | dir1 (ld index : Nat)
  | dir2 (index : Nat)
  deriving DecidableEq, Repr, Inhabited

/-- What follows the drain of a change (03 R98). -/
inductive After
  | nothing
  | inval (box : Nat) (dropped reloaded : Nat)
  | release (ld start len : Nat)
  | move (m : Nat)
  | extentMove (reg : Nat)
  | rekey (reg : Nat)
  | region (r : Region)
  /-- the S2L2 entry of a pool range is gone: its unit and the range are free (03 R98, 06 R176) -/
  | unit (range : Nat)
  /-- a table that a directory entry named is free: of extents, of pool ranges (03 R98) -/
  | table1 (t : Nat)
  | table2 (t : Nat)
  | sanitized (slot : Nat)
  deriving DecidableEq, Repr, Inhabited

/-- A change of tables (03 R97, R98): posted, then applied at boundary B, then draining. -/
structure Change where
  id : Nat
  scope : Scope
  applied : Bool
  /-- requests translated under the old entry that still have to pass the line station or be answered -/
  waits : List Nat
  after : After
  /-- entries that cease to name a key ID with this change, by key ID: references until its drain (06 R189) -/
  keys : List (Nat × Nat) := []
  deriving DecidableEq, Repr, Inhabited

/-- A loss-table entry (04 R128). -/
structure Loss where
  page : Nat
  lost : BitVec 64
  deriving DecidableEq, Repr, Inhabited

/-- Translation. -/
structure Xlate where
  /-- 256 or 128 entries per link (keys 0 to 3), 64 for service (key 4). 03 R90. Reset empty. Most recent first. -/
  flb : Tab (List Flb) := []
  /-- 65,536 entries. 03 R90, R93. Reset empty. -/
  xc : List XEntry := []
  /-- 16,384 slots. 03 R90, 01 R43. Reset empty. Most recent first. -/
  kc : List KSlot := []
  /-- 48 walks per stage. 03 R94. Reset empty. -/
  walks : List Walk := []
  /-- MODEL. number of the next walk, change, fetch, move or access -/
  next : Nat := 1
  /-- last 2 MiB range in which each LD's requests missed (03 R95), stage-2 misses at key 32. Reset none. -/
  lastMiss : Tab Nat := []
  /-- 03 R97, R98. Reset empty. -/
  changes : List Change := []
  /-- 4,096 entries. 04 R128. Reset empty. -/
  loss : List Loss := []
  /-- 04 R131. Reset 0. The loss table overflowed: forwarded requests answer poison until a reset. -/
  lossOver : Bool := false
  /-- MODEL. boundary of the last record of each kind and place (15 R414, 03 R89) -/
  lastRec : Tab Nat := []
  deriving DecidableEq, Repr, Inhabited

/-! ### Line station, media, keys, counter tree -/

/-- What a write-buffer entry does when it drains (01 R31 to R34, 06 R194, 07 R220, 13 R361). -/
inductive WKind
  | full
  | masked
  | convert (reg : Nat)
  | copy (dest : Nat) (attr : Attr) (move : Nat)
  | remote (dev dest : Nat) (reg : Nat)
  | rankCopy (ch : Nat)
  /-- the line's own bits again, repaired (06 R164) -/
  | rewrite
  deriving DecidableEq, Repr, Inhabited

/-- Phase of a write-buffer entry. -/
inductive WPhase | queued | reading | merged
  deriving DecidableEq, Repr, Inhabited

/-- A write-buffer entry (01 R26, R31): media line address, kind, data, mask, stored-poison mark, label, source. -/
structure Wb where
  id : Nat
  line : Nat
  kind : WKind
  data : Line := 0
  mask : BitVec 64 := 0
  poison : Bool := false
  label : Label
  attr : Attr := {}
  /-- pool page of a knotted line -/
  page : Nat := 0
  admitBnd : Nat
  promoted : Bool := false
  /-- step stamped at admission (02 R63) -/
  step : Nat := 0
  phase : WPhase := .queued
  /-- bits of a rank copy or rewrite -/
  burst : Burst := 0
  /-- image line index of a slot line of a coded image (06 R162) -/
  image : Option Nat := none
  /-- copies whose write has still to issue (07 R207) -/
  left : List Nat := [0]
  /-- requester of R211, as in `Acc` -/
  who : Nat := 64
  /-- the entry of the same write at the line's other place while its page moves (13 R361) -/
  twin : Option Nat := none
  /-- the write is already counted in its line's minor (06 R171) -/
  counted : Bool := false
  deriving DecidableEq, Repr, Inhabited

/-- A key ID (06 R188). Material: Kx1, Kx2, Km of 32 bytes each. -/
structure Key where
  st : KState := .free
  material : BitVec 768 := 0
  /-- 0 none, 1 loaded, 2 generated (13 R380) -/
  source : Nat := 0
  deriving DecidableEq, Repr, Inhabited

/-- A line of the counter-tree and page-header cache (06 R178, R179). -/
structure CtLine where
  line : Nat
  data : Line
  dirty : Bool := false
  /-- increments since its last write-back -/
  incs : Nat := 0
  pinned : Bool := false
  /-- checked by a tree MAC: a node, or a header of a sealed range -/
  tree : Bool := false
  deriving DecidableEq, Repr, Inhabited

/-- A fetch of a header or node with its uncached ancestors (06 R178). -/
structure CtFetch where
  id : Nat
  line : Nat
  attr : Attr
  page : Nat
  deriving DecidableEq, Repr, Inhabited

/-- A quarantine entry (06 R182, 13 R381): level 0 to 10 or 255 for the whole device, unit or node, page or node in unit. -/
structure Quar where
  level : Nat
  unit : Nat
  index : Nat
  deriving DecidableEq, Repr, Inhabited

/-- A re-key register (06 R194). -/
structure Rekey where
  unit2m : Nat
  knotted : Bool
  old : Nat
  new : Nat
  cursor : Nat := 0
  job : Nat
  deriving DecidableEq, Repr, Inhabited

/-- Line station and what it holds. -/
structure LineSt where
  /-- The DRAM contents, data and sideband, canonical (06 R159; log 4 says what an unlisted byte reads as). Reset empty. -/
  mem : List Host.Cell := []
  /-- 65,536 entries. 01 R31. Reset empty. Acceptance order. -/
  wb : List Wb := []
  /-- 06 R164, 07 R207. Reset empty. Rewrites of repaired lines that wait for an entry of the write buffer. -/
  repairs : List Wb := []
  /-- 64 key IDs. 06 R188. Reset FREE (AO storage cleared, 17 R461). -/
  keys : Tab Key := []
  /-- 256 bits. 06 R180. Reset 0 (DC 3) until drawn at the cold boot. -/
  kt : BitVec 256 := 0
  /-- 512 bits, three copies. 06 R180. Reset 0. -/
  roots : BitVec 512 × BitVec 512 × BitVec 512 := (0, 0, 0)
  /-- 131,072 lines. 01 R43, 06 R178. Reset empty. Most recent first. -/
  ct : List CtLine := []
  /-- 06 R178. Reset empty. Fetches under way. -/
  fetches : List CtFetch := []
  /-- 06 R180. Reset 0. The seal tree area has been written since the cold boot. -/
  treeReady : Bool := false
  /-- 256 entries. 06 R182. Reset none. -/
  quar : Tab Quar := []
  /-- 8 registers. 06 R194. Reset none. -/
  rekey : Tab Rekey := []
  /-- MODEL. media lines judged stored poison since the last scrub pass (12 R333 4300h). -/
  poisonSeen : List Nat := []
  deriving DecidableEq, Repr, Inhabited

/-! ### Tiers and Prism -/

/-- The dynamic state of an elastic region on the device (04 R121 to R127), by LD * 16 + entry. -/
structure Elastic where
  /-- KiB. 04 R121. -/
  use : Nat := 0
  st : Pressure := .normal
  /-- an unplaced write in the present beat (04 R124) -/
  unplaced : Bool := false
  /-- use at the last request of the episode, or at its first boundary (04 R125) -/
  mark : Option Nat := none
  /-- the device has sent a release request in this episode (02 R69) -/
  asked : Bool := false
  /-- start units of the extents named in the episode -/
  named : List Nat := []
  /-- boundary since which the region has been Normal (04 R126) -/
  since : Nat := 0
  offered : Bool := false
  /-- boundary of the last capacity record, lines lost since it (04 R127) -/
  lastRec : Option Nat := none
  lostSince : Nat := 0
  /-- the last unplaced write here: beat, page with region entry and LD (14 R391), cause code (04 R127) -/
  lastLost : Option (Beat × Nat × Nat) := none
  deriving DecidableEq, Repr, Inhabited

/-- A promotion entry (04 R118). -/
structure Promo where
  page : Nat
  knot : BitVec 36
  /-- the new knot: a bright frame or a raw slot group -/
  dest : BitVec 36
  attr : Attr
  deriving DecidableEq, Repr, Inhabited

/-- A page move (13 R361): page, attributes, source and destination knots, direction of R81, job slot, drained yet. -/
structure Move where
  id : Nat
  page : Nat
  src : BitVec 36
  dst : BitVec 36
  dir : Nat
  slot : Nat
  attr : Attr
  /-- copy entries placed (step 3) -/
  placed : Bool := false
  /-- destination knot set (step 4) -/
  switched : Bool := false
  recallSlot : Option Nat := none
  /-- token of its moving knot and move record (03 R82) -/
  token : Nat := 0
  /-- coded image of a demotion (05 R141) -/
  image : List Byte := []
  deriving DecidableEq, Repr, Inhabited

/-- An extent move register (13 R362). -/
structure ExtMove where
  src : Nat
  dst : Nat
  dstDev : Nat
  cursor : Nat := 0
  job : Nat
  ld : Nat
  ext : Nat
  attr : Attr
  label : Label := 0xC0
  recallSlot : Option Nat := none
  /-- the entries name the destination -/
  switched : Bool := false
  deriving DecidableEq, Repr, Inhabited

/-- Tiers and space. -/
structure Tiers where
  /-- 4 KiB frames taken, by frame number (04 R109). Reset empty. -/
  frames : List Nat := []
  /-- 2 MiB frames taken. Reset empty. -/
  big : List Nat := []
  /-- 1 KiB shade slots taken. Reset empty. -/
  slots : List Nat := []
  /-- range units taken, by pool 2 MiB range (06 R176). Reset empty. -/
  units : Tab Nat := []
  /-- 2 MiB frame ranges taken out of the free lists by a drain: first frame and count (07 R222). Reset empty. -/
  outOf : List (Nat × Nat) := []
  /-- elastic regions (04 R121). Reset: as `Elastic`'s own defaults. -/
  elastic : Tab Elastic := []
  /-- 32 entries. 04 R118. Reset empty. -/
  promo : Tab Promo := []
  /-- 1,024 entries. 04 R123. Reset empty. Pool pages in posting order. -/
  readQ : List Nat := []
  /-- MODEL. boundary from which TierEpoch counts (04 R122). Reset 0. -/
  epochFrom : Nat := 0
  /-- pages chosen for demotion, in order, each with the engine its encode is queued at (04 R122, 05 R490). Reset empty. -/
  demote : List (Nat × Nat) := []
  /-- 13 R361. Reset empty. -/
  moves : List Move := []
  /-- 8 registers. 13 R362. Reset none. -/
  extMoves : Tab ExtMove := []
  /-- Region (`regionKey`) and DPA unit that each pool 2 MiB range in use belongs to (04 R110, R121). Reset empty. -/
  owner : Tab (Nat × Nat) := []
  /-- S1L2 tables by LD * 16,384 + S1L1 index (03 R76, R84). Reset empty. -/
  s1tabs : Tab Nat := []
  /-- S2L2 tables by S2L1 index (03 R76, R84). Reset empty. -/
  s2tabs : Tab Nat := []
  /-- S1L2 and S2L2 tables that no directory entry names any more and that a drain still holds (03 R98). Reset none. -/
  s1held : List Nat := []
  s2held : List Nat := []
  /-- Units whose lines are tree lines (06 R175): the last range they served was sealed. Reset empty. -/
  treeUnits : List Nat := []
  /-- pages whose frame or slots stay out of the free lists (04 R491). Reset empty. -/
  stuck : List Nat := []
  deriving DecidableEq, Repr, Inhabited

/-- A staged sub-block (05 R143). Most recent first. -/
structure Staging where
  engine : Nat
  first : Nat
  sub : Nat
  data : List Byte
  deriving DecidableEq, Repr, Inhabited

/-- A decode under way (05 R142): engine, page, knot, sub-block, and what its image line reads carry for the request that started it. -/
structure Decode where
  id : Nat
  engine : Nat
  page : Nat
  knot : BitVec 36
  sub : Nat
  attr : Attr
  label : Label
  who : Nat := 64
  /-- requester number of its faults (14 R390) -/
  from_ : BitVec 8 := 0x40
  step : Nat := 0
  promoted : Bool := false
  admitBnd : Nat := 0
  /-- image lines still to be asked for, and those asked for whose data has not returned: first the index line, then the sub-block's -/
  want : List Nat := [0]
  asked : List Nat := []
  indexed : Bool := false
  /-- image bytes of the lines that have returned -/
  img : List Byte := []
  /-- a line released no data; one of them was uncorrectable (06 R164) -/
  bad : Bool := false
  lost : Bool := false
  /-- the knot has changed since (05 R143) -/
  stale : Bool := false
  deriving DecidableEq, Repr, Inhabited

/-- A Prism stream's state (05 R154): window oldest first, totals, CRC register, what is held of a token. -/
structure Stream where
  decode : Bool := false
  valid : Bool := false
  closed : Bool := false
  joined : Bool := false
  window : List Byte := []
  /-- 12 bits. next window position to write -/
  pos : Nat := 0
  blockFill : Nat := 0
  uncoded : Nat := 0
  coded : Nat := 0
  crc : BitVec 32 := 0xFFFFFFFF
  inDone : Nat := 0
  outDone : Nat := 0
  pend : List Byte := []
  remain : Nat := 0
  deriving DecidableEq, Repr, Inhabited

/-- Prism (05). -/
structure Prism where
  /-- 512 per engine. 05 R143, 01 R44. Reset empty. -/
  staging : List Staging := []
  /-- 05 R142. Reset empty. -/
  decodes : List Decode := []
  /-- engines 0 to 7 retired (14 R394). Reset none. -/
  retired : List Nat := []
  /-- stream job of each engine and the boundary it took it (05 R156, R157, R490). Reset none. -/
  stream : Tab (Nat × Nat) := []
  /-- stream jobs that yield their engine at the next boundary (05 R156, R157). Reset none. -/
  yields : List Nat := []
  deriving DecidableEq, Repr, Inhabited

/-! ### DRAM -/

/-- What an access in a channel's queue is for (07 R205, 15 R418). -/
inductive AKind
  | read (req : Nat)
  /-- the read of the other copy of a reflected line (R207) -/
  | other (req : Nat)
  /-- the read of a masked or empty-mask write-buffer entry (R32) -/
  | merge (wb : Nat)
  | write (wb : Nat)
  /-- rewrite under R164 or R207, an entry of the write buffer too -/
  | rewrite (wb : Nat)
  /-- the read of an image line of a coded page for a decode (05 R142) -/
  | image (decode line : Nat)
  | scrub
  deriving DecidableEq, Repr, Inhabited

/-- An access queued at, or issued by, a channel's scheduler (07 R205). Rank is physical; the location is R202's. -/
structure Acc where
  id : Nat
  kind : AKind
  /-- home media line number m[42:6] -/
  line : Nat
  ch : Nat
  rank : Nat
  sub : Nat
  bank : Nat
  row : Nat
  label : Label
  /-- requester of R211: 0 to 31 an LD, 32 + i a forwarding device, 64 the service engines -/
  who : Nat
  step : Nat := 0
  promoted : Bool := false
  admitBnd : Nat := 0
  /-- copy of a reflected line (07 R203) -/
  copy : Nat := 0
  reflected : Bool := false
  issued : Bool := false
  /-- a read's entries of the write buffer that stand before it in the order of its line (01 R34, R35) -/
  behind : List Nat := []
  deriving DecidableEq, Repr, Inhabited

/-- A copy register (07 R220). `cursor` counts rank lines placed; `ended` once the remap is changed. -/
structure CopyReg where
  src : Nat
  shadow : Nat
  cursor : Nat := 0
  ended : Bool := false
  /-- 16 R435. The source's physical rank, whose module was lost during the copy. -/
  lost : Option Nat := none
  deriving DecidableEq, Repr, Inhabited

/-- A marker of a slot in the beat plan (07 R204). -/
inductive Mark | blocked | maint | c0 | unmarked
  deriving DecidableEq, Repr, Inhabited

/-- One channel (07). -/
structure Chan where
  /-- 07 R200. Physical rank of each logical rank; unlisted is the identity. Reset identity. -/
  remap : Tab Nat := []
  /-- 07 R200, R201. Physical ranks that count as shadows. Reset none. -/
  shadows : List Nat := []
  /-- 07 R222. Logical ranks retired without a remap. Reset none. -/
  retired : List Nat := []
  /-- 07 R220, R221. Physical ranks retired. Reset none. -/
  retiredPhys : List Nat := []
  /-- 07 R222. Logical ranks draining. Reset none. -/
  draining : List Nat := []
  /-- logical ranks waiting for a retirement to start at a boundary (07 R219, 14 R399). Reset none. -/
  toRetire : List Nat := []
  /-- 07 R220. Reset none. The copy register. -/
  copy : Option CopyReg := none
  /-- 07 R218. (physical rank, subchannel, device) marked erased. Reset none. -/
  erased : List (Nat × Nat × Nat) := []
  /-- erasures that take effect at the next boundary (07 R218). -/
  toErase : List (Nat × Nat × Nat) := []
  /-- 07 R208. In a refresh window. Reset 0. -/
  window : Bool := false
  /-- 07 R206. Subchannel s is in write mode, and the writes it has issued since it switched. Reset reads. -/
  writeMode : Tab Nat := []
  /-- beat plan in force by subchannel * 256 + slot (07 R204). Reset empty: nothing planned before the first boundary. -/
  plan : List Mark := []
  /-- slots of the beat already filled or accounted, per subchannel (07 R205). -/
  slot : Tab Nat := []
  /-- maintenance requested for the next beat: slots from 0 on (07 R204). Reset 0. -/
  maintNext : Nat := 0
  /-- rows under soft PPR, their lines in the row holding buffer: key of place, and whether the present plan holds the maintenance slots of
  the repair (07 R217). Reset none. -/
  ppr : List (Nat × Bool) := []
  /-- 16 R439. A training window is open. Reset 0. -/
  training : Bool := false
  /-- 64 bits each, by rank: fixed delay registers (07 R214). Reset 0 (DC 3). -/
  delay : Tab (BitVec 64) := []
  /-- readings of the ranks' DQS interval oscillators at training (07 R215). Reset 0. -/
  osc : Tab Nat := []
  /-- staged delay values (07 R215). Reset none. -/
  staged : Tab (BitVec 64) := []
  /-- RFMs issued in the beat: banks, numbered as in `Dram.banks` (07 R213). Reset none. -/
  rfm : List Nat := []
  /-- RFMs that wait: bank * 2^15 + row group (07 R213). Reset none. -/
  rfmDue : List Nat := []
  deriving DecidableEq, Repr, Inhabited

/-- A contributor of a bank (07 R211), in order of entry. -/
structure Contrib where
  who : Nat
  label : Label
  count : Nat
  deriving DecidableEq, Repr, Inhabited

/-- A cap on a bank's activates (07 R212): requester, boundaries it still holds, activates of the beat. -/
structure Cap where
  who : Nat
  label : Label
  left : Nat
  used : Nat := 0
  deriving DecidableEq, Repr, Inhabited

/-- A bank's defence state (07 R211): counters by row group, contributor table of 8, caps. -/
structure Bank where
  /-- row that the last activate opened, none once the bank is closed (07 R209) -/
  opened : Option Nat := none
  groups : Tab Nat := []
  contrib : List Contrib := []
  caps : List Cap := []
  deriving DecidableEq, Repr, Inhabited

/-- DRAM (07). -/
structure Dram where
  /-- Modules by slot 2c + (0 A, 1 B) as read at boot or integration (07 R197). Reset none. -/
  mods : Tab Spd := []
  /-- 07 R198. Media formed. Reset 0. -/
  formed : Bool := false
  /-- Physical ranks per channel (07 R200). Reset 0. -/
  ranks : Nat := 0
  /-- Logical ranks U per channel (07 R200). Reset 0. -/
  logical : Nat := 0
  /-- Lines per rank P = Cr / 64 (07 R202). Reset 0. -/
  lines : Nat := 0
  /-- MT/s (07 R199). Reset 0. -/
  rate : Nat := 0
  /-- Slots per subchannel and beat, S (07 R199). Reset 0. -/
  slots : Nat := 0
  /-- tRP + tRFC1 of each channel's slowest die, ns (07 R209). Reset 0. -/
  trfc : Tab Nat := []
  /-- Channels 0 to 7 (07). -/
  chans : Tab Chan := []
  /-- Accesses queued and issued, oldest first (07 R205). Reset empty. -/
  accs : List Acc := []
  /-- 02 R60, 16. Channels under module integration: the 5-beat bound is in force. Reset none. -/
  wide : List Nat := []
  /-- 07 R208. Refresh phase counter. Reset 0 (DC 3). -/
  phase : Nat := 0
  /-- 07 R210. Hot mode. Reset normal. -/
  hot : Bool := false
  /-- 07 R210. Mode that the counter takes at its next 0. Reset normal. -/
  hotNext : Bool := false
  /-- Banks by chip ID * 2048 + channel * 256 + rank * 64 + subchannel * 32 + bank (07 R202, R211). Reset empty. -/
  banks : Tab Bank := []
  /-- The ranks are in self-refresh (17 R448). Reset 0. -/
  selfRefresh : Bool := false
  /-- Boundary of the last drift check (07 R215). Reset 0. -/
  driftFrom : Nat := 0
  /-- Next line of the patrol scrub pass (07 R216). Reset 0. -/
  scrubPos : Nat := 0
  /-- Beat and boundary at which the pass began (07 R216). Reset 0. -/
  scrubFrom : Beat × Nat := (0, 0)
  /-- SCRUB_LATE raised for the pass (07 R216). Reset 0. -/
  scrubLate : Bool := false
  /-- Corrected lines of a row by device since the pass began: key of place and device, columns (07 R217). Reset empty. -/
  rowCorr : Tab (List Nat) := []
  /-- Hard-failed rows waiting for repair (07 R217): key of place. Reset none. -/
  hardRows : List Nat := []
  /-- Recorded repairs, applied as hard PPR at the next training (07 R217). Reset none. -/
  repairs : List Nat := []
  /-- Rows that hard PPR has replaced (07 R217). Reset none. -/
  hardDone : List Nat := []
  /-- Erased marks and retired ranks of the fault log by module serial number (14 R398): serial, rank in module,
  subchannel, device (10: the rank is retired). In flash: survives a cold boot. Reset none. -/
  faultLog : List (BitVec 32 × Nat × Nat × Nat) := []
  deriving DecidableEq, Repr, Inhabited

/-! ### Coherence home -/

/-- What a back-invalidate flow ends in (08 R231, R237, R240). -/
inductive FlowFor
  | request (req : Nat)
  | evict (req : Nat)
  | recalled (reg : Nat)
  | job
  deriving DecidableEq, Repr, Inhabited

/-- A flow (08 R232): line, its directory place, slots still to answer, what for, boundary it started (R238). -/
structure Flow where
  line : Nat
  set : Nat
  way : Nat
  wait : List Nat
  kind : BitVec 2
  for_ : FlowFor
  from_ : Nat
  deriving DecidableEq, Repr, Inhabited

/-- A recall register (08 R240): source and destination media range, lines still to recall, done. -/
structure Recall where
  src : Nat
  dst : Nat
  /-- the device the range moves to; none: this one -/
  dstDev : Option Nat := none
  bytes : Nat
  label : Label
  done : Bool := false
  deriving DecidableEq, Repr, Inhabited

/-- A snoop of another device for an LD of this one (08 R232, 11 R302): the LD, the line of its DPA, the port the SNP came
by, its origin and tag. -/
structure Foreign where
  ld : Nat
  dpaLine : Nat
  port : Nat
  origin : BitVec 5
  tag : BitVec 16
  kind : BitVec 2
  /-- the host's BIRsp, which waits for the writes it sent before (R233): 0 BIRspI, 1 BIRspS -/
  answer : Option Nat := none
  deriving DecidableEq, Repr, Inhabited

/-- Coherence home (08). -/
structure Home where
  /-- 64 bits each, by set * 16 + way: 08 R229, R230. Reset empty: all Invalid. -/
  dir : Tab (BitVec 64) := []
  /-- 08 R232. Reset none. -/
  flows : List Flow := []
  /-- 08 R235. Wait entries by slot * 4 + class (128 and above: service engines): the request each holds. Reset none. -/
  waits : Tab Nat := []
  /-- requests that the home holds unserved, in the order they reached it, those with a wait entry among them (08 R235, R239, R240).
  Reset empty. -/
  queue : List Nat := []
  /-- snoops to peers that wait for a Tether tag: line, slot, kind, label (08 R232, 11 R303). Reset none. -/
  unsent : List (Nat × Nat × Nat × Label) := []
  /-- 08 R238, R239. Slots gone, until their sweep completes. Reset none. -/
  gone : List Nat := []
  /-- 08 R233. BIRsps that wait for writes their slot sent before: slot, line, whether it keeps Shared. Reset none. -/
  heldRsp : List (Nat × Nat × Bool) := []
  /-- 08 R236. BIConflictAcks that wait for responses: slot, line, the granted requests. Reset none. -/
  acks : List (Nat × Nat × List Nat) := []
  /-- 08 R234. Lines a BISnpCur for a job has answered, until the job reads them. Reset none. -/
  cur : List Nat := []
  /-- slots gone from the next boundary on, with the cause 0 link, 1 reset, 2 timeout (08 R238). -/
  going : List (Nat × Nat) := []
  /-- 8 registers. 08 R240. Reset none. -/
  recalls : Tab Recall := []
  /-- 08 R242. A directory entry failed: shared requests fail. Reset 0. -/
  failed : Bool := false
  /-- as `failed`, from the next boundary (08 R242). -/
  failing : Bool := false
  /-- 08 R232, 11 R302. Reset none. Snoops of other devices forwarded to LDs of this one and not yet answered. -/
  foreign : List Foreign := []
  /-- snoops sent to peers, waiting for SRSP: tag, line, slot (08 R232). Reset none. -/
  sent : List (Nat × Nat × Nat) := []
  deriving DecidableEq, Repr, Inhabited

/-! ### Faults, interrupts, records and counters -/

/-- The 32-byte last-error register (14 R390). -/
structure LastErr where
  code : BitVec 8 := 0
  valid : Bool := false
  overrun : Bool := false
  hard : Bool := false
  since : Nat := 0
  beat : Beat := 0
  label : Label := 0
  requester : BitVec 8 := 0xFF
  detail : BitVec 128 := 0
  deriving DecidableEq, Repr, Inhabited

/-- A fault source (14 R389 to R394). -/
structure Source where
  /-- 1 bit. 14 R389. Reset 0. -/
  sticky : Bool := false
  /-- 48 bits. 14 R389. Reset 0. -/
  stickyBeat : Beat := 0
  /-- 1 bit. 14 R392. Reset 0. -/
  severe : Bool := false
  /-- 1 bit. 14 R394. Reset 0. -/
  retired : Bool := false
  /-- boundary at which the window opened; none: closed (14 R392). -/
  opened : Option Nat := none
  /-- events of the window (14 R392). -/
  count : Nat := 0
  /-- the window has made the source severe (14 R392). -/
  made : Bool := false
  /-- events of the present beat, counted at the next boundary (14 R392). -/
  fresh : Nat := 0
  /-- a hard signature among them (14 R393). -/
  hard : Bool := false
  /-- 14 R390. -/
  last : LastErr := {}
  deriving DecidableEq, Repr, Inhabited

/-- A Jalend core (14 R395, 12 R350). -/
structure Core where
  st : CoreSt := .running
  /-- code bank it runs from, 0 or 1 (12 R350) -/
  bank : Nat := 0
  /-- 128 KiB. 01 R45. Reset: nothing listed. Core data memory; its words are the firmware's own, and no command reads or writes one. -/
  data : Tab (BitVec 64) := []
  deriving DecidableEq, Repr, Inhabited

/-- Faults (14). -/
structure Faults where
  /-- By number of R388. Reset: all fields 0. -/
  src : Tab Source := []
  /-- 1 bit. 14 R402. Reset 0. -/
  hold : Bool := false
  /-- FAULT_N is in a pulse (14 R402). Reset 0. -/
  pulse : Bool := false
  /-- FAULT_N is driven low (14 R402). Reset 0: released. -/
  low : Bool := false
  /-- Reactions due or waiting, ascending (14 R399). Reset none. -/
  due : List Nat := []
  /-- Corrections by part * 2^32 + row (14 R396). Reset 0. -/
  rowCorr : Tab Nat := []
  /-- Rows withdrawn by part (14 R396). In flash's fault log too. Reset none. -/
  rows : Tab (List Nat) := []
  /-- 14 R396. Reset 0. Rows of that list, the first ones, that spare rows cover since the cold boot, by part. -/
  covered : Tab Nat := []
  /-- Cores 0 to 15 (14 R395). Reset running. -/
  cores : Tab Core := []
  /-- Last readings of the on-die monitors: degrees C and mV by monitor (14 R388, 18 R480). Reset none. -/
  monitors : Tab (Nat × Nat) := []
  deriving DecidableEq, Repr, Inhabited

/-- A doorbell or pin source of the interrupt controller (15 R409 to R412). Pins are 1024 + n. -/
structure IntSrc where
  /-- 8 bits. 15 R409. Reset 0. -/
  pending : Nat := 0
  /-- 15 R409. Reset 0. -/
  saturated : Bool := false
  /-- core that holds it (15 R409). Reset none. -/
  holder : Option Nat := none
  /-- core that last received it (15 R409). Reset 15, so that J0 is next (DC 15). -/
  lastCore : Nat := 15
  /-- events since the last delivery and boundary of the first (15 R412). Reset 0. -/
  count : Nat := 0
  first : Option Nat := none
  /-- 16 bits. 15 R409. Reset: every core (DC 15). -/
  mask : BitVec 16 := 0xFFFF
  /-- 15 R412. Reset 1 and 0 (14 R390 for fault sources; DC 15 for the others). -/
  cn : Nat := 1
  tm : Nat := 0
  deriving DecidableEq, Repr, Inhabited

/-- A pin (15 R410, R411): filtered level, beat of its last edge. -/
structure Pin where
  high : Bool := true
  edge : Beat := 0
  deriving DecidableEq, Repr, Inhabited

/-- A watch counter (15 R422, R423). Owner: 0 to 31 an LD, 32 the management controller. -/
structure Watch where
  owner : Nat
  event : Nat
  signal : Bool
  preset : BitVec 48
  value : BitVec 48
  invalid : Bool := false
  overflows : BitVec 32 := 0
  deriving DecidableEq, Repr, Inhabited

/-- Interrupts, records and counters (15). -/
structure Events where
  /-- 15 R409. -/
  ints : Tab IntSrc := []
  /-- 15 R410. Reset high (DC 3). -/
  pins : Tab Pin := []
  /-- Records awaiting delivery, oldest first (14 R406). Reset empty. -/
  recQ : List Rec := []
  /-- MODEL. Boundary of the last record by type and LD or place (15 R414). -/
  lastRec : Tab Nat := []
  /-- 48 bits each. LD-scope event e of LD d at 256 d + e (d = 32: unattributed, 15 R489), device-scope event e at
  16384 + e. 15 R416. Reset 0. -/
  ctr : Tab (BitVec 48) := []
  /-- Boundary at which an invalid flag was set (15 R425). Reset none. -/
  invalid : Tab Nat := []
  /-- 06 R196. Reset none. Counters hit in the present beat: they read all ones and restart from 0 at the next boundary. -/
  dead : List Nat := []
  /-- 32 watches. 15 R423. Reset free. -/
  watches : Tab Watch := []
  /-- 13 R375. Reset none. Watches programmed in the present beat: each loads at the next boundary. -/
  progs : Tab Watch := []
  /-- 32 bits. 15 R422. Reset 0. WatchOvf bits. -/
  watchOvf : BitVec 32 := 0
  /-- MODEL. Watches whose overflow has still to be signalled (log 16). Reset none. -/
  owed : List Nat := []
  deriving DecidableEq, Repr, Inhabited


/-! ### Tether ports and the chain (10 R280 to R283, 11) -/

/-- A transit entry (11 R303): whose request crossed the port, from which port it came (none: this device), the
request's operation and class. -/
structure Transit where
  origin : BitVec 5
  tag : BitVec 16
  dir : Bool
  braid : Bool := false
  from_ : Option Nat
  op : MsgOp
  cls : Nat
  deriving DecidableEq, Repr, Inhabited

/-- A Tether port (10, 11). -/
structure TPort where
  /-- 10 R280. Reset TD. -/
  st : TState := .td
  /-- 10 R280. Reset 0. Returns to TD without a link between. -/
  returns : Nat := 0
  /-- 10 R280. The last state reached, for TETHER_TRAIN_FAIL. Reset 0. -/
  reached : Nat := 0
  /-- 14 R394. Reset 0. Link retired: held down until a cinch touches the port. -/
  retiredLink : Bool := false
  /-- 8 bits. 10 R280. Reset 0. Lanes with a receiver. -/
  present : BitVec 8 := 0
  /-- 8 bits. 10 R280. Reset 0. Lanes with symbol lock. -/
  lock : BitVec 8 := 0
  /-- 10 R280. Reset 0. Trained width. -/
  width : Nat := 0
  /-- 10 R280. Reset 0. Trained rate: 1 is 64 GT/s, 2 is 128 GT/s. -/
  rate : Nat := 0
  /-- 10 R282. Reset 0. Lanes numbered from the top. -/
  reversed : Bool := false
  /-- 8 bits. 10 R281. Reset 0. Rates the partner advertises. -/
  partnerRates : BitVec 8 := 0
  /-- 8 bits. 10 R281. Reset 0. Width the partner offers. -/
  partnerWidth : BitVec 8 := 0
  /-- 8 bits. 10 R281. Reset 0. Own nonce. -/
  nonce : BitVec 8 := 0
  /-- 8 bits. 10 R293. Reset 0. Retired-lane mask, in AO storage. -/
  retired : BitVec 8 := 0
  /-- 8 bits. 10 R280. Reset 0. Lanes on which the partner's TTS2 have matched. -/
  cfg : BitVec 8 := 0
  /-- 10 R281. Reset none. Nonce that each lane has brought. -/
  laneNonce : Tab (BitVec 8) := []
  /-- 10 R283. Reset 0. Requests that the partner's receiver has made. -/
  eqAsks : Nat := 0
  /-- 13 R378. Reset 0. The last link-up was Resume. -/
  resumed : Bool := false
  /-- 10 R293. Reset 0. A width reset is due at the next boundary, or running. -/
  resetDue : Bool := false
  resetting : Bool := false
  /-- 10 R294. Reset 0. Width resets since the last success. -/
  resets : Nat := 0
  /-- 10 R283. Reset 0. Coefficients pre, main, post; equalisation done: own receiver, partner's. -/
  coefs : Int × Int × Int := (0, 0, 0)
  eqDone : Bool × Bool := (false, false)
  /-- 10 R283. Reset 0. Rate at which the coefficients were found. -/
  coefRate : Nat := 0
  /-- 10 R278. Reset 0 per lane. Skip units inserted or deleted. -/
  skips : Tab Int := []
  /-- 12 bits. 11 R307. Reset 0. Next sequence number to send. -/
  seq : BitVec 12 := 0
  /-- 12 bits. 11 R307. Reset 0. Next expected. -/
  ne : BitVec 12 := 0
  /-- 11 R307. Reset 0. A Nak for this NE is outstanding. -/
  nak : Bool := false
  /-- 256 flits. 11 R308. Reset empty. Oldest first. -/
  replay : List Flit := []
  /-- 11 R309. Reset 0. Failures of the oldest unacknowledged flit. -/
  failures : Nat := 0
  /-- 11 R306. Reset 0. Credits debited per class since the last Fresh. -/
  debits : Tab Nat := []
  /-- 11 R306. Reset 0. Credits the partner returned, per class, unwrapped. -/
  returned : Tab Nat := []
  /-- 11 R306. Reset 0. Credits this side returned, per class, unwrapped. -/
  crTotal : Tab Nat := []
  /-- 2 bits. 11 R298. Reset 0. Class that the next flit's CrTotal names. -/
  crNext : Nat := 0
  /-- 512 buffers. 11 R306. Reset empty. Request flits held: class and the messages left. -/
  pool : List (Nat × List Msg) := []
  /-- Response-channel messages received and not yet handled. Reset empty. -/
  rsps : List Msg := []
  /-- 256 entries. 01 R26. Reset empty. Messages waiting to be sent, with the port each came from (none: this device). -/
  tx : List (Msg × Option Nat) := []
  /-- 14 R396. Reset 0. Entries withdrawn from the shared part of the transmit queue. -/
  withdrawn : Nat := 0
  /-- 2,048 entries. 11 R303. Reset empty. -/
  transit : List Transit := []
  /-- 64 bits. 11 R311. Reset 0. Partner's UniqueId. -/
  uid : BitVec 64 := 0
  /-- 11 R311. Reset 0. Partner's index, assigned, port, root strap, synced. -/
  partner : BitVec 5 := 0
  partnerAssigned : Bool := false
  partnerPort : BitVec 2 := 0
  partnerRoot : Bool := false
  partnerSynced : Bool := false
  /-- 11 R324. Depth of the partner as its markers give it. Reset 0. -/
  partnerDepth : Nat := 0
  /-- 16 bits. 11 R311. Reset 0. Link epoch. -/
  epoch : BitVec 16 := 0
  /-- 11 R312. Reset 0. Sequence state is kept with that partner. -/
  kept : Bool := false
  /-- 11 R312. Handshake: the partner's LINKUP is here, it resumes, own LINKACK sent, the partner's is here. Reset 0. -/
  gotUp : Bool := false
  resume : Bool := false
  sentAck : Bool := false
  gotAck : Bool := false
  /-- 11 R312. Samples of D by PING index, in 1/16 ns. Reset none. -/
  samples : Tab Nat := []
  /-- 11 R312. Reset 0. Hop delay D in 1/16 ns. -/
  delay : Nat := 0
  /-- 11 R324. A marker is due in the next flit. Reset 0. -/
  mark : Bool := false
  /-- 17 R453. Link dozing: 2 Dusk, 3 Dark, 0 not. Reset 0. -/
  doze : Nat := 0
  /-- 11 R315, R317. The link is to be held in standby. Reset 0. -/
  standby : Bool := false
  /-- 13 R378. Reset 0. Since the cold boot: 0 retrains, 1 replays, 2 bad flits. -/
  counts : Tab Nat := []
  /-- 11 R327. Highest rate at which C0 extents were placed over the link. Reset 0. -/
  placedRate : Nat := 0
  deriving DecidableEq, Repr, Inhabited

/-- What a tag of this device is held for (11 R303, R322): a request with what its two directions ended in (braided:
outcomes so far), a snoop of the home (line, slot), a management message. -/
inductive TagUse
  | req (id : Nat) (braid : Bool) (ends : List Nat)
  | spent (ends : List Nat)
  | snoop (line slot : Nat)
  | conflict (line slot : Nat)
  | mgmt (subOp dest : Nat) (body : List Byte)
  deriving DecidableEq, Repr, Inhabited

/-- A record of the topology (13 R379, 11 R305): index, UniqueId, depth, parent port, ports' state and partners. -/
structure Topo where
  index : Nat
  uid : BitVec 64
  depth : Nat
  parent : Nat
  /-- partner index of each port (32: none, or none with an index), and whether the link is a ring link -/
  links : List (Nat × Bool)
  /-- rate code of each port's link (10 R288) -/
  rates : List Nat := []
  synced : Bool := false
  pinned : Bool := false
  deriving DecidableEq, Repr, Inhabited

/-- The device's place in its chain (11). -/
structure Chain where
  /-- T0 to T2. -/
  ports : Tab TPort := []
  /-- 5 bits. 11 R316. Reset 0 (DC 3). Device index. -/
  index : Nat := 0
  /-- 11 R316. Reset 0. An index is assigned. -/
  assigned : Bool := false
  /-- 11 R315, R317. Reset 0. The device runs alone. -/
  alone : Bool := false
  /-- 11 R315. Reset 0. TETHER_ROOT strap. -/
  rootStrap : Bool := false
  /-- 5 bits. 11 R324. Reset 0. Links to the root. -/
  depth : Nat := 0
  /-- 11 R305 ASSIGN. Port toward the parent; none at the root. Reset none. -/
  parent : Option Nat := none
  /-- 16 bits. 11 R305. Reset 0. Number of the last walk. -/
  walk : Nat := 0
  /-- 11 R316, 13 R379. Reset empty. Topology of the last walk. -/
  topo : List Topo := []
  /-- 12 R347, 11 R305. Reset none. PREPARE answers by device, as this device had them of the last chain sheet that it coordinated and
  committed. -/
  reports : Tab (List Byte) := []
  /-- 16 bits. 11 R305. Reset 0. Walk that the topology is of. -/
  topoWalk : Nat := 0
  /-- 11 R492. Default ranges become due at the next boundary. Reset 0. -/
  rangesDue : Bool := false
  /-- 11 R492. Ports whose ranges a cinch has set since the cold boot. Reset none. -/
  rangesSet : List Nat := []
  /-- Tags in use (11 R303). Reset none. -/
  tags : Tab TagUse := []
  /-- BraidSeq of the next request to each target (11 R321). Reset 0. -/
  braidSeq : Tab Nat := []
  /-- Targets that answered BRAID_SYNC (11 R323). Reset none. -/
  braidOk : List Nat := []
  /-- h0, h1 by synchronised origin (11 R321, R323). Reset none. -/
  braidAt : Tab (Nat × Nat) := []
  /-- 11 R325. Reset 0. Beat source port. -/
  source : Option Nat := none
  /-- 11 R325. Reset 0. Synced. -/
  synced : Bool := false
  /-- boundary of the last marker from the source (11 R326). -/
  lastMark : Nat := 0
  /-- 11 R325. Slew applied so far and last rate correction, in 1/16 ns. Reset 0. -/
  slew : Int := 0
  /-- enumeration has just happened: one step is allowed (11 R325). Reset 0. -/
  mayStep : Bool := false
  /-- 11 R305 PRESSURE. Reset none. State, U_d in KiB and C_d in 2 MiB units that the last message of a device gave, by
  (LD * 16 + entry) * 32 + device. -/
  pressures : Tab (Nat × Nat × Nat) := []
  /-- boundary of the first link-up (11 R315). Reset none. -/
  firstUp : Option Nat := none
  deriving DecidableEq, Repr, Inhabited

/-! ### Jobs (13 R352 to R370) -/

/-- A job. -/
structure Job where
  /-- generation of its slot (R353) -/
  gen : Nat := 0
  kind : JKind
  label : Label
  quiet : Bool := false
  cookie : BitVec 64 := 0
  /-- LD that submitted it; none: the management controller (R355) -/
  owner : Option Nat
  /-- mailbox whose standard Sanitize it is (R333) -/
  box : Option Nat := none
  /-- order of submission -/
  seq : Nat := 0
  st : JState := .queued
  reason : JReason := .none
  body : List Byte := []
  entries : List (List Byte) := []
  /-- units still to do, in order: 2 MiB units of the LD, pages, or ranges, by kind -/
  todo : List Nat := []
  /-- position within the unit, or lines done (COPY, FILL, SCRUB), or phase -/
  pos : Nat := 0
  total : Nat := 0
  done : Nat := 0
  detail0 : Nat := 0
  detail1 : Nat := 0
  deferred : Nat := 0
  throttled : Nat := 0
  waiting : Nat := 0
  /-- Jalend status it ends with, NoWork -/
  result : Nat := 0
  noWork : Bool := false
  /-- JOB.CANCEL has been taken (R359) -/
  cancel : Bool := false
  /-- its work has ended: it leaves its slot at the next boundary (R354) -/
  ending : Bool := false
  /-- it issued requests since the last boundary (R73) -/
  issued : Bool := false
  /-- the C3 gate was closed at the last boundary at which it had requests to issue (02 R73) -/
  late : Bool := false
  /-- boundary at which it became Active, or at which its phase began -/
  from_ : Nat := 0
  /-- LDs whose hosts still have to answer its offer (R369) -/
  asked : List Nat := []
  /-- key IDs whose last range it converts, or NewKey (R365, R366) -/
  key : Option Nat := none
  /-- state it ends in -/
  fin : JState := .done
  /-- answer to its request that went through the coherence home, a promotion or another device -/
  buf : Option Answer := none
  /-- that request is on its way -/
  sent : Bool := false
  /-- line of a COPY read and not yet written; none inside: poison -/
  hold : Option (Option Line) := none
  /-- pool ranges a SANITIZE has reset (06 R186) -/
  marks : List Nat := []
  /-- lines of a PRISM.STREAM job's buffer read so far; none: poison -/
  lines : List (Option Line) := []
  /-- its writes still to go: DPA, data, mask -/
  outs : List (Nat × Line × BitVec 64) := []
  /-- stream state of a PRISM.STREAM job (05 R154) -/
  stream : Option Stream := none
  deriving DecidableEq, Repr, Inhabited

/-- A finished record (R354): JobId, owner, its 64 bytes as JOB.STATUS returns them. -/
structure Finished where
  id : Nat
  owner : Option Nat
  st : JState
  bytes : List Byte
  deriving DecidableEq, Repr, Inhabited

/-- The jobs. -/
structure Jobs where
  /-- 256 slots. 13 R353, 00 R45. Reset none. -/
  slots : Tab Job := []
  /-- 24 bits each. 13 R353. Reset 0. Generation that each slot's next job takes. -/
  gens : Tab Nat := []
  /-- MODEL. Jobs submitted. -/
  seq : Nat := 0
  /-- 4,096 records. 13 R354. Reset empty. Finished records, oldest first. -/
  ring : List Finished := []
  deriving DecidableEq, Repr, Inhabited

/-! ### Glint scans (10 R285 to R290) -/

/-- What a scan found of one eye (10 R288). -/
structure EyeScan where
  left : Nat := 0
  right : Nat := 0
  up : Nat := 0
  down : Nat := 0
  disagree : Nat := 0
  points : Nat := 0
  /-- mode 00h: counts that are not 0, by 64 (v + 32) + t + 32 -/
  grid : Tab Nat := []
  deriving DecidableEq, Repr, Inhabited

/-- The commanded scan (10 R287, R288): running, or as it ended. -/
structure Scan where
  port : Nat
  lane : Nat
  mode : Nat
  dwell : Nat
  mask : Nat
  /-- interface whose command it is; none once it has ended -/
  box : Option Nat
  rate : Nat
  width : Nat
  nrz : Bool
  start : Beat
  /-- voltage step, a free value (log 11) -/
  step : BitVec 16
  complete : Bool := false
  paused : Bool := false
  ended : Bool := false
  /-- eyes still to scan, the present one first -/
  todo : List Nat := []
  /-- point within the eye: index of the grid, or leg * 64 + steps of the walk outward -/
  at_ : Nat := 0
  eyes : Tab EyeScan := []
  deriving DecidableEq, Repr, Inhabited

/-- The lanes' offset samplers. -/
structure Glint where
  /-- 10 R287, R288. Reset none. The last commanded scan. -/
  scan : Option Scan := none
  /-- 10 R286. Reset none. Host lanes, by source number of R388, under PCIe margining. -/
  margin : List Nat := []
  /-- 10 R290. Reset 0. Failing periodic scans in a row, by source number of the lane. -/
  fails : Tab Nat := []
  deriving DecidableEq, Repr, Inhabited

/-! ### Hitch channels (16) -/

/-- A hitch channel: 0 to 15 the slots, 16 the input (16 R427, R428, 13 R382). -/
structure HChan where
  /-- 13 R382. Reset off. -/
  st : HState := .off
  /-- 8 bits. 16 R432. Reset 0. Retries. -/
  retries : Nat := 0
  /-- 16 R434. Reset 0. Module present, its SPD hub having answered. -/
  present : Bool := false
  /-- 16 R436. Reset 0. Damaged-FET alarm. -/
  damaged : Bool := false
  /-- 8 bits. 13 R382. Reset 0. Cause of the last trip. -/
  cause : Nat := 0
  /-- 16 bits. 13 R382. Reset 0. Shunt voltage in 10 uV. -/
  sense : BitVec 16 := 0
  /-- 16 bits. 13 R382. Reset 0. Output voltage in mV. -/
  vout : BitVec 16 := 0
  /-- 16 R432. Reset none. Boundary at which the retry timer ends. -/
  timer : Option Nat := none
  /-- 16 R432. Reset none. Boundary since which the channel has been on. -/
  onFrom : Option Nat := none
  /-- 16 R429. Reset 0. The output is good and the module's PMIC has still to report. -/
  good : Bool := false
  /-- 14 R397. Reset 0. The channel is unmonitored. -/
  unmon : Bool := false
  /-- 16 R434. Reset 0. A removal was judged, and no insertion since. -/
  removed : Bool := false
  /-- 16 R434. Reset 0. The latch has closed after a removal and the SPD hub has not answered. -/
  spdWait : Bool := false
  /-- 16 R434, 07 R197. Reset none. The module in the slot as SPD gives it. -/
  mod : Option Spd := none
  deriving DecidableEq, Repr, Inhabited

/-- A slot record (16 R437). -/
structure SlotRec where
  density : Nat
  ranks : Nat
  width : Nat
  dies : Nat
  speed : Nat
  deriving DecidableEq, Repr, Inhabited

/-- A training window, announced or open (16 R439, R440): its channel, boundary and beat at which it opens, slot that is commanded off
when it opens, MODULE.REPLACE job it belongs to. -/
structure Window where
  ch : Nat
  opens : Nat
  beat : Beat
  isOpen : Bool := false
  /-- beat at which it closed, until the next boundary -/
  closed : Option Beat := none
  slotOff : Option Nat := none
  job : Option Nat := none
  deriving DecidableEq, Repr, Inhabited

/-- The hitch channels and what firmware keeps of them. -/
structure Hitch where
  /-- 16 R427. 17 channels. -/
  chans : Tab HChan := []
  /-- 16 R437. Reset none. AO storage, and the fault log in flash. -/
  records : Tab SlotRec := []
  /-- 16 R430. Reset off. VIN_PRE is on. -/
  pre : Bool := false
  /-- 16 R430. Reset off. VIN_GATE is on. -/
  gate : Bool := false
  /-- 15 R410. Reset 0. VIN_PG is asserted. -/
  vinGood : Bool := false
  /-- 16 R439, R440. Reset none. -/
  window : Option Window := none
  /-- 16 R435. Reset none. Slots that have lost their module's power or the module, with the cause: acted on at the next boundary, in
  P2 and P3 at the wake. -/
  lost : List (Nat × LossCause) := []
  /-- 13 R383, 16 R439. Reset none. Slots commanded off that wait for a training window. -/
  offs : List Nat := []
  deriving DecidableEq, Repr, Inhabited

/-! ### Power, reset and boot (17, 18) -/

/-- An entry to a lower state (17 R450): target, Wake, the next point 0 to 5 for E0 to E5 (6: settle). -/
structure Entry where
  target : PState
  wake : BitVec 8
  next : Nat := 0
  /-- ports whose doze notice the partner has not answered (17 R453) -/
  dozing : List Nat := []
  deriving DecidableEq, Repr, Inhabited

/-- A wake (17 R459): the state left, its WakeCause, the step under way (1 to 7 for 1, 2, 3a to 3d, 4), and, at its second attempt,
the channels stuck at the first. -/
structure Waking where
  from_ : PState
  cause : Nat
  step : Nat
  /-- channels that the first timeout named -/
  again : Option (BitVec 8) := none
  deriving DecidableEq, Repr, Inhabited

/-- Supplies, power states, heat. -/
structure Power where
  /-- 17 R447. Reset P0 (DC 3). -/
  st : PState := .p0
  /-- 17 R450. Reset none. -/
  entry : Option Entry := none
  /-- 17 R459. Reset none. -/
  waking : Option Waking := none
  /-- 8 bits. 17 R450. Reset 0. Wake of the state in force or being entered. -/
  wake : BitVec 8 := 0
  /-- 17 R452, R454. Reset none. Wake events that wait for the sequencer, by WakeCause. -/
  pending : List Nat := []
  /-- 17 R450 step 1. Reset 0. No entry is granted to any class. -/
  quiet : Bool := false
  /-- 8 bits. 13 R385. Reset 0. WakeCause of the last wake. -/
  lastWake : Nat := 0
  /-- interface whose POWER.ENTER runs (13 R384). Reset none. -/
  box : Option Nat := none
  /-- 17 R448. LDs for which condition 4 lapsed at E0. Reset 0. -/
  suspended : Bool := false
  /-- 384 bits. 17 R451. Reset none. Digest of the saved block, in AO storage. -/
  digest : Option (BitVec 384) := none
  /-- the saved block itself holds its bytes as saved (17 R451, R459); it is discarded when an entry is abandoned. Reset none. -/
  saved : Option (List Byte) := none
  /-- 2 bits. 18 R477, R478. Reset 0. I3C_ADDR straps: the static address is 30h + these. -/
  i3cAddr : BitVec 2 := 0
  /-- 17 R458. Reset 0. Pads are latched. -/
  latched : Bool := false
  /-- 17 R456. Reset 0: full mode. AO regulator in low-power mode. -/
  aoLow : Bool := false
  /-- 17 R457, R467. Reset none. Reset-cause register: cause 1 to 4, and wake step. -/
  cause : Option (Nat × Nat) := none
  /-- 18 R473. Reset 800: the regulator's boot value. VDD_CORE set point in mV. -/
  vdd : Nat := 800
  /-- 18 R473. Reset none. Boundary of the last change of the set point. -/
  trimAt : Option Nat := none
  /-- 18 R480. Reset 0. Throttling; due at the next boundary. -/
  throttle : Bool := false
  throttleDue : Bool := false
  /-- 18 R480. Reset none. Boundary since which every monitor has read 97 C or below. -/
  coolFrom : Option Nat := none
  /-- 18 R481. Reset 0. THERMTRIP_N is driven low. -/
  thermtrip : Bool := false
  /-- 17 R461, 18 R474. Reset 0: off. VAUX above 1.6 V; CORE_EN released; CORE_PG asserted; RST_N low. -/
  vaux : Bool := false
  coreEn : Bool := false
  corePg : Bool := false
  rst : Bool := true
  deriving DecidableEq, Repr, Inhabited

/-- A firmware activation (12 R350): flash slot, next pair to hand over 0 to 7, pairs handed over, code bank it fills, interface. -/
structure Activation where
  slot : Nat
  pair : Nat := 0
  bank : Nat
  box : Nat
  deriving DecidableEq, Repr, Inhabited

/-- Flash and firmware (17 R463 to R466, 12 R350). -/
structure Flash where
  /-- 17 R463. Reset none (DC 3). Boot control blocks 0 and 1: Sequence and ActiveSlot, of the valid ones. -/
  bcb : Tab (Nat × Nat) := []
  /-- 4 MiB each. 17 R463. Reset empty (DC 3). Image slots 0 (A) and 1 (B), as far as written. -/
  slots : Tab (List Byte) := []
  /-- 12 R333 0201h. Reset none. A transfer in parts: slot, bytes received. -/
  xfer : Option (Nat × List Byte) := none
  /-- flash slot of the running image. Reset 0 (DC 3). -/
  running : Nat := 0
  /-- 09 R269. Reset 0 (DC 3). FwVersion of the running image. -/
  version : BitVec 32 := 0
  /-- code bank the running image stands in (12 R350). Reset 0 (DC 3). -/
  bank : Nat := 0
  /-- 1.5 MiB each. 01 R45, 17 R463. Reset empty: as an image is loaded at boot. The two code banks' contents: the body of the image
  loaded into each. -/
  banks : Tab (List Byte) := []
  /-- 17 R464. Reset none. Slot booted in place of the active one, and the first check the other failed. -/
  fallback : Option (Nat × Nat) := none
  /-- 12 R350. Reset none. -/
  act : Option Activation := none
  /-- 17 R466. Reset 0. Memory Active. -/
  memActive : Bool := false
  deriving DecidableEq, Repr, Inhabited
/-! ### The whole device -/

/-- Everything the block holds but its queue of commands. -/
structure Dev where
  boot : Boot := .held
  clk : Clock := {}
  conf : Conf := {}
  host : HostSide := {}
  path : Regul := {}
  xl : Xlate := {}
  line : LineSt := {}
  tiers : Tiers := {}
  prism : Prism := {}
  dram : Dram := {}
  home : Home := {}
  fault : Faults := {}
  ev : Events := {}
  chain : Chain := {}
  jobs : Jobs := {}
  glint : Glint := {}
  hitch : Hitch := {}
  power : Power := {}
  flash : Flash := {}
  out : List Out := []
  deriving DecidableEq, Repr, Inhabited

/-- The state: the device and the commands waiting for it, first in first out. -/
structure State where
  dev : Dev := {}
  pending : List Instr := []
  deriving DecidableEq, Repr, Inhabited

/-- Reasons the machine stops with a fault. -/
inductive Fault
  /-- A media byte outside the media address space was asked for. No meaning answers it: every address a command forms is
  tested first (R86, R111, R202). Safe. -/
  | outsideMedia (address : Nat)
  deriving DecidableEq, Repr, Inhabited

/-- Reasons a command is refused without a meaning. -/
inductive Refusal
  /-- Raised by Dispatch.lean alone, for a row of the table that has no meaning yet. Safe. -/
  | notModelled (mnemonic : String)
  deriving DecidableEq, Repr, Inhabited

/-- The machine before power is applied: held in reset, no command waiting, every field at the value its own line gives
(log 2, log 3). COLD_BOOT and FIRMWARE_BOOT bring it up (R462, R466). -/
def State.reset : State := {}

end Sys2Proof.Machine
end

