-- ==== Sys2Proof/Machine/Tab.lean ====
section
/-! DEFINITION. The operations on sparse tables and on lists. -/

namespace Sys2Proof.Machine

open Sys2Proof

/-! ### Sparse tables -/

/-- The entry of index k, if one is listed. -/
def Tab.look {α : Type} : Tab α → Nat → Option α
  | [], _ => none
  | (k', v) :: t, k => if k = k' then some v else Tab.look t k

/-- The entry of index k, or d where none is listed. -/
def Tab.val {α : Type} (t : Tab α) (k : Nat) (d : α) : α := (t.look k).getD d

/-- Whether index k is listed. -/
def Tab.has {α : Type} (t : Tab α) (k : Nat) : Bool := (t.look k).isSome

/-- The table with v at index k, in rising order of index. -/
def Tab.put {α : Type} : Tab α → Nat → α → Tab α
  | [], k, v => [(k, v)]
  | (k', v') :: t, k, v =>
    if k < k' then (k, v) :: (k', v') :: t
    else if k = k' then (k, v) :: t
    else (k', v') :: Tab.put t k v

/-- The table without index k. -/
def Tab.del {α : Type} (t : Tab α) (k : Nat) : Tab α := t.filter fun e => e.1 ≠ k

/-- The indices listed. -/
def Tab.keys {α : Type} (t : Tab α) : List Nat := t.map (·.1)

/-- The first number from k on, within n steps, that the list does not hold. -/
def firstFree (used : List Nat) : Nat → Nat → Option Nat
  | 0, _ => none
  | n + 1, k => if used.contains k then firstFree used n (k + 1) else some k

/-- The lowest number below n that is not in the list (log 7). -/
def lowestFree (used : List Nat) (n : Nat) : Option Nat := firstFree used n 0

/-! ### Lists -/

/-- Replace the first element that satisfies p. -/
def replaceFirst {α : Type} (p : α → Bool) (f : α → α) : List α → List α
  | [] => []
  | a :: t => if p a then f a :: t else a :: replaceFirst p f t

/-- Left fold with the state last, in the order of the list. -/
def each {α σ : Type} (l : List α) (s : σ) (f : σ → α → σ) : σ := l.foldl f s

end Sys2Proof.Machine
end

