-- ==== Sys2Proof/Machine/Operands.lean ====
section
/-! DEFINITION. Operand forms: how the bytes of a payload or of a structure spell numbers, little-endian and by bit fields
(spec/00_scope.md R9, R14). -/

namespace Sys2Proof.Machine

open Sys2Proof

/-! ### Bits and bytes -/

/-- Bits [hi:lo] of a number. -/
def bits (v hi lo : Nat) : Nat := v / 2 ^ lo % 2 ^ (hi + 1 - lo)

/-- Bit n of a number. -/
def bit (v n : Nat) : Bool := v / 2 ^ n % 2 = 1

/-- 1 for true. -/
def flag (b : Bool) : Nat := if b then 1 else 0

/-- The number a little-endian byte string holds (R14). -/
def leNat : List Byte → Nat
  | [] => 0
  | b :: t => b.toNat + 256 * leNat t

/-- The n low bytes of v, little-endian (R14). -/
def leBytes : Nat → Nat → List Byte
  | 0, _ => []
  | n + 1, v => BitVec.ofNat 8 v :: leBytes n (v / 256)

/-- n zero bytes. -/
def zeros (n : Nat) : List Byte := List.replicate n 0

/-- The bytes at offset off, n long, as they stand (short where the string ends). -/
def slice (inp : List Byte) (off n : Nat) : List Byte := (inp.drop off).take n

/-- A little-endian field of n bytes at offset off; bytes beyond the end count as 0. -/
def field (inp : List Byte) (off n : Nat) : Nat := leNat (slice inp off n)

/-- Whether the n bytes at off are all 0: an Rsvd field as R9 wants it. -/
def rsvd (inp : List Byte) (off n : Nat) : Bool := (slice inp off n).all (· == 0)

/-- Ceiling division. -/
def ceilDiv (a b : Nat) : Nat := (a + b - 1) / b

/-- Overwrite the bytes at offset off. -/
def overlay (base : List Byte) (off : Nat) (new : List Byte) : List Byte :=
  base.take off ++ zeros (off - base.length) ++ new ++ base.drop (off + new.length)

end Sys2Proof.Machine
end

