-- ==== Sys2Proof/Machine/Crypto.lean ====
section
/-! DEFINITION. The codes and ciphers the spec names: CRC-64/WE (R161), CRC-32 of the stream framing and of images,
AES-256 (R162, R168, R169), GHASH (R162), XTS (R168), and the unwrap of RFC 5649 (R190). The spec names these standards;
their arithmetic is theirs (PRESUMED, log 9). -/

namespace Sys2Proof.Machine

open Sys2Proof

/-! ### CRCs -/

/-- n applications of f. -/
def times {α : Type} (f : α → α) : Nat → α → α
  | 0, a => a
  | n + 1, a => times f n (f a)

/-- One bit step of a non-reflected CRC of width w. -/
def crcBit {w : Nat} (poly : BitVec w) (r : BitVec w) : BitVec w :=
  if r.msb then (r <<< 1) ^^^ poly else r <<< 1

/-- CRC-64/WE over a byte string: polynomial 42F0E1EBA9EA3693h, ones in, not reflected, complemented (R161). -/
def crc64 (bytes : List Byte) : BitVec 64 :=
  ~~~ (each bytes (BitVec.allOnes 64) fun r b =>
    times (crcBit 0x42F0E1EBA9EA3693) 8 (r ^^^ (b.setWidth 64 <<< 56)))

/-- One byte into a reflected CRC-32 register (polynomial EDB88320h). -/
def crc32Step (r : BitVec 32) (b : Byte) : BitVec 32 :=
  times (fun r : BitVec 32 => if r.getLsbD 0 then (r >>> 1) ^^^ 0xEDB88320 else r >>> 1) 8 (r ^^^ b.setWidth 32)

/-- CRC-32 register after a byte string. -/
def crc32Reg (r : BitVec 32) (bytes : List Byte) : BitVec 32 := each bytes r crc32Step

/-- CRC-32 over a byte string: ones in, reflected, complemented. -/
def crc32 (bytes : List Byte) : BitVec 32 := ~~~ crc32Reg (BitVec.allOnes 32) bytes

/-! ### AES-256 -/

/-- A 256-entry byte table as eight words of 32 entries. -/
def byteTable (t : List Nat) (x : Byte) : Byte := BitVec.ofNat 8 ((t.getD (x.toNat / 32) 0) / 2 ^ (8 * (x.toNat % 32)))

/-- The AES S-box. -/
def sbox : Byte → Byte := byteTable
  [0xC072A49CAFA2D4ADF04759FA7DC982CA76ABD7FE2B670130C56F6BF27B777C63,
   0x75B227EBE28012079A059618C323C7041531D871F1E5A534CCF73F362693FDB7,
   0xCF584C4A39BECB6A5BB1FC20ED00D153842FE329B3D63B52A05A6E1B1A2C8309,
   0xD2F3FF1021DAB6BCF5389D928F40A351A89F3C507F02F94585334D43FBAAEFD0,
   0xDB0B5EDE14B8EE4688902A22DC4F816073195D643D7EA7C41744975FEC130CCD,
   0x08AE7A65EAF4566CA94ED58D6D37C8E779E4959162ACD3C25C2406490A3A32E0,
   0x9E1DC186B95735610EF6034866B53E708A8BBD4B1F74DDE8C6B4A61C2E2578BA,
   0x16BB54B00F2D99416842E6BF0D89A18CDF2855CEE9871E9B948ED9691198F8E1]

/-- The inverse S-box. -/
def sboxInv : Byte → Byte := byteTable
  [0xCBE9DEC444438E3487FF2F9B8239E37CFBD7F3819EA340BF38A53630D56A0952,
   0x25D18B6D49A25B76B224D92866A12E084EC3FA420B954CEE3D23C2A632947B54,
   0x849D8DA75746155EDAB9EDFD5048706C92B6655DCC5CA4D41698688664F6F872,
   0x6B8A130103BDAFC1020F3FCA8F1E2CD00645B3B80558E4F70AD3BC8C00ABD890,
   0x6EDF751CE837F9E28535ADE72274AC9673E6B4F0CECFF297EADC674F4111913A,
   0xF45ACD78FEC0DB9A2079D2C64B3E56FC1BBE18AA0E62B76F89C5291D711AF147,
   0xEF9CC9939F7AE52D0D4AB519A97F51605FEC8027591012B131C7078833A8DD1F,
   0x7D0C2155631469E126D677BA7E042B17619953833CBBEBC8B0F52AAE4D3BE0A0]

/-- Multiplication by x in GF(2^8). -/
def xtime (b : Byte) : Byte := if b.msb then (b <<< 1) ^^^ 0x1B else b <<< 1

/-- Multiplication in GF(2^8). -/
def gmul (a b : Byte) : Byte :=
  ((List.range 8).foldl (fun (acc : Byte × Byte) i =>
    (if b.getLsbD i then acc.1 ^^^ acc.2 else acc.1, xtime acc.2)) (0, a)).1

/-- Bytewise exclusive or. -/
def xorBytes (a b : List Byte) : List Byte := List.zipWith (· ^^^ ·) a b

/-- The 4-byte words of the AES-256 key schedule, newest first, from those already made. -/
def keyWords : Nat → List (List Byte) → List (List Byte)
  | 0, ws => ws
  | n + 1, ws =>
    let i := ws.length
    let t := ws.headD []
    let t :=
      if i % 8 = 0 then xorBytes ((t.drop 1 ++ t.take 1).map sbox) [times xtime (i / 8 - 1) 1, 0, 0, 0]
      else if i % 8 = 4 then t.map sbox else t
    keyWords n (xorBytes (ws.getD 7 []) t :: ws)

/-- The first eight words of the schedule, newest first. -/
def keyHead (key : List Byte) : List (List Byte) := ((List.range 8).map fun i => slice key (4 * i) 4).reverse

/-- The fifteen round keys of a 32-byte key, 16 bytes each, in order. -/
def roundKeys (key : List Byte) : List (List Byte) :=
  let ws := (keyWords 52 (keyHead key)).reverse
  (List.range 15).map fun r => ((ws.drop (4 * r)).take 4).flatten

/-- ShiftRows by the given step of rows (1 forward, 3 backward); byte 4c + r is row r of column c. -/
def shiftRows (k : Nat) (b : List Byte) : List Byte :=
  (List.range 16).map fun i => b.getD ((4 * (i / 4 + k * (i % 4)) + i % 4) % 16) 0

/-- One column times the circulant matrix with first row m. -/
def mixColumn (m : List Byte) (c : List Byte) : List Byte :=
  (List.range 4).map fun r => (List.range 4).foldl (fun a j => a ^^^ gmul (m.getD ((j + 4 - r) % 4) 0) (c.getD j 0)) 0

/-- MixColumns with first row m. -/
def mixColumns (m : List Byte) (b : List Byte) : List Byte :=
  ((List.range 4).map fun c => mixColumn m (slice b (4 * c) 4)).flatten

/-- AES-256 encipherment of one block. -/
def aesEnc (key block : List Byte) : List Byte :=
  let rk := roundKeys key
  let b := xorBytes block (rk.getD 0 [])
  let b := (List.range 13).foldl
    (fun b i => xorBytes (mixColumns [2, 3, 1, 1] (shiftRows 1 (b.map sbox))) (rk.getD (i + 1) [])) b
  xorBytes (shiftRows 1 (b.map sbox)) (rk.getD 14 [])

/-- AES-256 decipherment of one block. -/
def aesDec (key block : List Byte) : List Byte :=
  let rk := roundKeys key
  let b := xorBytes block (rk.getD 14 [])
  let b := (List.range 13).foldl
    (fun b i => mixColumns [14, 11, 13, 9] (xorBytes ((shiftRows 3 b).map sboxInv) (rk.getD (13 - i) []))) b
  xorBytes ((shiftRows 3 b).map sboxInv) (rk.getD 0 [])

/-! ### GHASH and XTS -/

/-- A 16-byte block as a number whose most significant bit is the block's first. -/
def blockBits (b : List Byte) : BitVec 128 := BitVec.ofNat 128 (leNat b.reverse)

/-- The block of such a number. -/
def bitsBlock (x : BitVec 128) : List Byte := (leBytes 16 x.toNat).reverse

/-- The product of the field of GHASH (SP 800-38D). -/
def ghashMul (x y : BitVec 128) : BitVec 128 :=
  ((List.range 128).foldl (fun (acc : BitVec 128 × BitVec 128) i =>
    (if x.getMsbD i then acc.1 ^^^ acc.2 else acc.1,
     if acc.2.getLsbD 0 then (acc.2 >>> 1) ^^^ (0xE1#128 <<< 120) else acc.2 >>> 1)) (0, y)).1

/-- GHASH of a list of blocks under H (SP 800-38D). -/
def ghash (h : BitVec 128) (blocks : List (List Byte)) : BitVec 128 :=
  each blocks 0 fun y b => ghashMul (y ^^^ blockBits b) h

/-- The MAC of R162 over blocks B0 to B4: bytes 0 to 7 of AES(GHASH), little-endian. -/
def macOf (key : List Byte) (blocks : List (List Byte)) : BitVec 64 :=
  let h := blockBits (aesEnc key (zeros 16))
  BitVec.ofNat 64 (leNat ((aesEnc key (bitsBlock (ghash h blocks))).take 8))

/-- The tweak of the next block of an XTS data unit. -/
def tweakNext (t : List Byte) : List Byte :=
  let v := BitVec.ofNat 128 (leNat t)
  leBytes 16 (if v.msb then (v <<< 1) ^^^ 0x87#128 else v <<< 1).toNat

/-- The tweaks of n blocks. -/
def tweaks : Nat → List Byte → List (List Byte)
  | 0, _ => []
  | n + 1, t => t :: tweaks n (tweakNext t)

/-- XTS over one 64-byte data unit with block cipher f (IEEE 1619, R168): data key kx1, tweak key kx2, sequence number. -/
def xts (f : List Byte → List Byte → List Byte) (kx1 kx2 : List Byte) (seq : Nat) (data : List Byte) : List Byte :=
  ((tweaks 4 (aesEnc kx2 (leBytes 16 seq))).zipIdx.map fun (t, j) =>
    xorBytes (f kx1 (xorBytes (slice data (16 * j) 16) t)) t).flatten

/-! ### RFC 5649 -/

/-- One step of the unwrap: integrity register A, semiblocks R (1-based index i), step count t. -/
def unwrapStep (kek : List Byte) (n : Nat) (acc : List Byte × List (List Byte)) (s : Nat) : List Byte × List (List Byte) :=
  let j := 5 - s / n
  let i := n - s % n
  let t := (leBytes 8 (n * j + i)).reverse
  let b := aesDec kek (xorBytes acc.1 t ++ acc.2.getD (i - 1) [])
  (b.take 8, acc.2.set (i - 1) (b.drop 8))

/-- Unwrap of a 104-byte RFC 5649 string under a 32-byte key: the 96 bytes, if the integrity check passes and they are
96 (R190). -/
def unwrapKey (kek wrapped : List Byte) : Option (List Byte) :=
  let n := 12
  let rs := (List.range n).map fun i => slice wrapped (8 + 8 * i) 8
  let (a, rs) := (List.range (6 * n)).foldl (unwrapStep kek n) (wrapped.take 8, rs)
  if a = [0xA6, 0x59, 0x59, 0xA6, 0, 0, 0, 96] then some rs.flatten else none

/-! ### The device key (R190) -/

/-- HMAC with a hash of the given block size, for a key no longer than the block. -/
def hmac (hash : List Byte → List Byte) (block : Nat) (key msg : List Byte) : List Byte :=
  let pad (v : Byte) : List Byte := (key ++ zeros (block - key.length)).map (· ^^^ v)
  hash (pad 0x5C ++ hash (pad 0x36 ++ msg))

/-- "lx40 kek" in ASCII. -/
def kekLabel : List Byte := [0x6C, 0x78, 0x34, 0x30, 0x20, 0x6B, 0x65, 0x6B]

/-- The device key of an SPDM session: HKDF-Expand, with the session's hash, of its export master secret, 32 bytes under the label. Every
SPDM hash gives 32 bytes at least, so the first block of the expansion holds the key (R190). -/
def deviceKek (session : BitVec 32) : List Byte :=
  (hmac (Config.sessionHash session) (Config.hashBlock session) (Config.exportSecret session) (kekLabel ++ [1])).take 32

end Sys2Proof.Machine
end

