-- ==== Sys2Proof/Machine/Flags.lean ====
section
/-! DEFINITION. Status codes: the Jalend statuses of R336 with the CXL return code each travels with, the numbers of the
CXL return codes (log 8), the encodings of load states (R264), and of the kinds a payload names. -/

namespace Sys2Proof.Machine

open Sys2Proof

/-- The Jalend statuses (R336). -/
inductive Status
  | success | invalidInput | invalidLength | busy | unsupported | internal
  | notOpen | notOwner | settingUnknown | valueRange | ruleFailed | beatTooNear | notSynced | peerTimeout | sheetFull
  | cinchPending | cinchSplit | diagLocked
  | jobSlotsFull | stateBad | streamCheck | decodeError
  | noKeyId | keyInUse | keyState | noSession | unwrapFailed | policyDenied | notQuarantined
  | glintBusy | linkIdle | noResult | activateFailed
  deriving DecidableEq, Repr, Inhabited

/-- Code[11:0] of a status (R336). -/
def Status.code : Status → Nat
  | .success => 0x000 | .invalidInput => 0x001 | .invalidLength => 0x002 | .busy => 0x003
  | .unsupported => 0x004 | .internal => 0x005 | .notOpen => 0x010 | .notOwner => 0x011
  | .settingUnknown => 0x012 | .valueRange => 0x013 | .ruleFailed => 0x014 | .beatTooNear => 0x015
  | .notSynced => 0x016 | .peerTimeout => 0x017 | .sheetFull => 0x018 | .cinchPending => 0x019
  | .cinchSplit => 0x01A | .diagLocked => 0x01B | .jobSlotsFull => 0x020 | .stateBad => 0x021
  | .streamCheck => 0x022 | .decodeError => 0x023 | .noKeyId => 0x030 | .keyInUse => 0x031
  | .keyState => 0x032 | .noSession => 0x033 | .unwrapFailed => 0x034 | .policyDenied => 0x035
  | .notQuarantined => 0x036 | .glintBusy => 0x040 | .linkIdle => 0x041 | .noResult => 0x042
  | .activateFailed => 0x050

/-- The CXL return code a status travels with (R336). The two job-only statuses never answer a command. -/
def Status.ret : Status → Ret
  | .success => .success
  | .invalidInput | .notOpen | .notOwner | .settingUnknown | .valueRange | .ruleFailed | .beatTooNear => .invalidInput
  | .stateBad | .keyInUse | .keyState | .unwrapFailed | .notQuarantined | .linkIdle | .noResult => .invalidInput
  | .invalidLength => .invalidLength
  | .busy | .cinchPending | .glintBusy => .busy
  | .unsupported => .unsupported
  | .internal | .cinchSplit | .streamCheck | .decodeError => .internal
  | .notSynced | .peerTimeout => .retry
  | .sheetFull | .jobSlotsFull | .noKeyId => .resources
  | .diagLocked | .noSession | .policyDenied => .invalidSecurity
  | .activateFailed => .activationFailed

/-- The status with a given code, as a peer sends it (R305). -/
def Status.ofCode (c : Nat) : Status :=
  ([.success, .invalidInput, .invalidLength, .busy, .unsupported, .internal, .notOpen, .notOwner, .settingUnknown,
    .valueRange, .ruleFailed, .beatTooNear, .notSynced, .peerTimeout, .sheetFull, .cinchPending, .cinchSplit,
    .diagLocked, .jobSlotsFull, .stateBad, .streamCheck, .decodeError, .noKeyId, .keyInUse, .keyState, .noSession,
    .unwrapFailed, .policyDenied, .notQuarantined, .glintBusy, .linkIdle, .noResult, .activateFailed] : List Status).find?
      (·.code = c) |>.getD .internal

/-- The numbers of the CXL return codes (log 8). -/
def Ret.code : Ret → Nat
  | .success => 0x00 | .bgStarted => 0x01 | .invalidInput => 0x02 | .unsupported => 0x03 | .internal => 0x04
  | .retry => 0x05 | .busy => 0x06 | .fwInProgress => 0x08 | .fwOutOfOrder => 0x09 | .fwVerifyFailed => 0x0A
  | .invalidSlot => 0x0B | .activationFailed => 0x0C | .invalidHandle => 0x0E | .invalidPa => 0x0F
  | .aborted => 0x12 | .invalidSecurity => 0x13 | .invalidLength => 0x16 | .invalidLog => 0x17
  | .unsupportedFeature => 0x19 | .resources => 0x1D | .invalidExtentList => 0x1E

/-- Jalend status for the LastStatus of a standard command (R331 records one for standard commands too): the status whose
CXL return code it is, by meaning (log 8). -/
def Ret.status : Ret → Status
  | .success | .bgStarted => .success
  | .invalidLength => .invalidLength
  | .busy => .busy
  | .unsupported => .unsupported
  | .internal => .internal
  | .invalidSecurity => .diagLocked
  | .activationFailed => .activateFailed
  | _ => .invalidInput

/-- The status word: Code in [11:0], NoWork in [12] (R335). -/
def statusWord (st : Status) (noWork : Bool := false) : List Byte := leBytes 2 (st.code + 4096 * flag noWork)

/-- Class numbers (R48). -/
def clsNum : Cls → Nat | .c0 => 0 | .c1 => 1 | .c2 => 2 | .c3 => 3

/-- The class with a number. -/
def clsOf : Nat → Cls | 0 => .c0 | 1 => .c1 | 2 => .c2 | _ => .c3

/-- Class of a label: bits [7:6] (R48). -/
def labelCls (l : Label) : Cls := clsOf (l.toNat / 64)

/-- Budget group of a label: bits [5:0] (R48). -/
def labelGroup (l : Label) : Nat := l.toNat % 64

/-- A label of a class and group (R48). -/
def mkLabel (c : Cls) (g : Nat) : Label := BitVec.ofNat 8 (clsNum c * 64 + g % 64)

/-- Number of a link: H0 or H0a, H0b, H1 or H1a, H1b (R342). -/
def linkNum : Link → Nat | .h0a => 0 | .h0b => 1 | .h1a => 2 | .h1b => 3

/-- The link with a number. -/
def linkOf : Nat → Link | 0 => .h0a | 1 => .h0b | 2 => .h1a | _ => .h1b

/-- The port of a link, 0 or 1 (R247). -/
def linkPort (l : Nat) : Nat := l / 2

/-- Number of a host port. -/
def hportNum : HPort → Nat | .h0 => 0 | .h1 => 1

/-- Number of an issuer's mailbox: 2 LD + box, and 64 for the management controller's endpoint (R329, R332). -/
def issuerBox : Issuer → Nat
  | .host ld .primary => 2 * ld.val
  | .host ld .secondary => 2 * ld.val + 1
  | .mc _ => 64

/-- The LD a command is issued by or about (R332); none: it acts on the device. -/
def issuerLd : Issuer → Option Nat
  | .host ld _ => some ld.val
  | .mc ld => ld.map (·.val)

/-- Whether the management controller issues. -/
def issuerMc : Issuer → Bool
  | .mc _ => true
  | _ => false

/-- The LD in whose counters an issuer's LD-scope events count; 32: no LD's (R489). -/
def issuerCounts (iss : Issuer) : Nat := (issuerLd iss).getD 32

/-- A log's number in the order of the vectors of R272, from 0. -/
def logNum : LogKind → Nat | .info => 0 | .warning => 1 | .failure => 2 | .fatal => 3 | .dc => 4

/-- The log with a number. -/
def logOf : Nat → Option LogKind
  | 0 => some .info | 1 => some .warning | 2 => some .failure | 3 => some .fatal | 4 => some .dc | _ => none

end Sys2Proof.Machine
end

