-- ==== Sys2Proof/Machine/Settings.lean ====
section
/-! DEFINITION. The settings of R341: identifiers, how many instances each has, ranges, defaults, and the value in
force (R74, R85, R133, R157, R184, R224, R244, R295, R319, R328, R342, R407, R426, R446, R468). -/

namespace Sys2Proof.Machine

open Sys2Proof

/-! ### Identifiers (R341, R407, R426, R446, R468) -/

def idContractRate : Nat := 0x0100
def idC0Share : Nat := 0x0101
def idC0ChainBound : Nat := 0x0102
def idC1Target : Nat := 0x0103
def idC2Cap : Nat := 0x0104
def idLowWater : Nat := 0x0105
def idHighWater : Nat := 0x0106
def idC3Gate : Nat := 0x0107
def idAgeLimit : Nat := 0x0108
def idKnotReach : Nat := 0x0200
def idShadeSize : Nat := 0x0201
def idRatioFloor : Nat := 0x0202
def idReleaseAt : Nat := 0x0203
def idClearAt : Nat := 0x0204
def idDemoteAfter : Nat := 0x0205
def idPromoteHeat : Nat := 0x0206
def idTierEpoch : Nat := 0x0207
def idStreamSlice : Nat := 0x0300
def idAcceptMediaOnLoss : Nat := 0x0301
def idShadowRank : Nat := 0x0400
def idRhThreshold : Nat := 0x0401
def idRhCap : Nat := 0x0402
def idRhHold : Nat := 0x0403
def idScrubHours : Nat := 0x0404
def idDriftPeriod : Nat := 0x0405
def idSharerSlot : Nat := 0x0500
def idBiTimeout : Nat := 0x0501
def idLdLink : Nat := 0x0600
def idUserRead : Nat := 0x0601
def idDevScopeRead : Nat := 0x0602
def idGlintPeriod : Nat := 0x0700
def idGlintMinWidth : Nat := 0x0701
def idGlintMinHeight : Nat := 0x0702
def idTetherRate : Nat := 0x0703
def idReachRange : Nat := 0x0704
def idPinnedIndex : Nat := 0x0705
def idTetherEnable : Nat := 0x0706
def idFaultWindow : Nat := 0x0800
def idFaultThreshold : Nat := 0x0801
def idFaultPinMask : Nat := 0x0802
def idFaultPinHold : Nat := 0x0803
def idMsixCount : Nat := 0x0900
def idMsixTime : Nat := 0x0901
def idCounterMode : Nat := 0x0902
def idPinSense : Nat := 0x0903
def idHitchRamp : Nat := 0x0A00
def idHitchSense : Nat := 0x0A01
def idHitchTlim : Nat := 0x0A02
def idHitchRetries : Nat := 0x0A03
def idIntegrateNotice : Nat := 0x0A04
def idDimIdle : Nat := 0x0B00
def idDarkImage : Nat := 0x0B01

/-- A row of the settings tables whose range is an interval: identifier, instances, least and greatest value. -/
structure SettingRow where
  id : Nat
  count : Nat
  lo : Nat
  hi : Nat
  deriving DecidableEq, Repr

/-- The settings with interval ranges, in the order of R341. FaultWindow and FaultThreshold have no class 10 (R407);
LdLink, SharerSlot, ReachRange, PinnedIndex and FaultPinMask have conditions of their own in `settingLegal`. -/
def settingRows : List SettingRow :=
  [⟨idContractRate, 32, 0, 3⟩, ⟨idC0Share, 1, 0, 4⟩, ⟨idC0ChainBound, 1, 0, 16000⟩, ⟨idC1Target, 64, 0, 65535⟩,
   ⟨idC2Cap, 64, 1, 4095⟩, ⟨idLowWater, 1, 0, 7⟩, ⟨idHighWater, 1, 1, 7⟩, ⟨idC3Gate, 1, 1, 8⟩,
   ⟨idAgeLimit, 1, 1, 255⟩, ⟨idKnotReach, 1, 0, 16384⟩, ⟨idShadeSize, 1, 0, 4096⟩, ⟨idRatioFloor, 512, 16, 64⟩,
   ⟨idReleaseAt, 512, 0, 63⟩, ⟨idClearAt, 512, 0, 62⟩, ⟨idDemoteAfter, 512, 0, 127⟩, ⟨idPromoteHeat, 1, 0, 255⟩,
   ⟨idTierEpoch, 1, 0, 65535⟩] ++
  [⟨idStreamSlice, 1, 1, 255⟩, ⟨idAcceptMediaOnLoss, 1, 0, 1⟩, ⟨idShadowRank, 1, 0, 1⟩,
   ⟨idRhThreshold, 1, 256, 65535⟩, ⟨idRhCap, 1, 1, 15⟩, ⟨idRhHold, 1, 1, 4096⟩, ⟨idScrubHours, 1, 0, 168⟩,
   ⟨idDriftPeriod, 1, 0, 65535⟩, ⟨idSharerSlot, 32, 0, 0x400⟩, ⟨idBiTimeout, 1, 1, 65535⟩, ⟨idLdLink, 32, 0, 7⟩,
   ⟨idUserRead, 32, 0, 1⟩, ⟨idDevScopeRead, 32, 0, 1⟩, ⟨idGlintPeriod, 1, 0, 65535⟩, ⟨idGlintMinWidth, 1, 1, 63⟩,
   ⟨idGlintMinHeight, 1, 1, 63⟩, ⟨idTetherRate, 3, 1, 2⟩, ⟨idReachRange, 48, 0, 2 ^ 64 - 1⟩,
   ⟨idPinnedIndex, 1, 0, 0x20⟩, ⟨idTetherEnable, 3, 0, 1⟩] ++
  [⟨idFaultWindow, 12, 1, 4294967295⟩, ⟨idFaultThreshold, 12, 1, 65535⟩, ⟨idFaultPinMask, 12, 0, 1⟩,
   ⟨idFaultPinHold, 1, 0, 1⟩, ⟨idMsixCount, 256, 0, 255⟩, ⟨idMsixTime, 256, 0, 65535⟩, ⟨idCounterMode, 32, 0, 1⟩,
   ⟨idPinSense, 24, 0, 3⟩, ⟨idHitchRamp, 16, 1, 32⟩, ⟨idHitchSense, 17, 5, 50⟩, ⟨idHitchTlim, 17, 1, 100⟩,
   ⟨idHitchRetries, 17, 0, 7⟩, ⟨idIntegrateNotice, 1, 1, 65535⟩, ⟨idDimIdle, 1, 1, 255⟩, ⟨idDarkImage, 1, 0, 1⟩]

/-- The row of a setting; none: SETTING_UNKNOWN (R341). -/
def settingRow (id : Nat) : Option SettingRow := settingRows.find? (·.id = id)

/-- Fields of a reach range value (R341, R319). -/
def rrValid (v : Nat) : Bool := bit v 0
def rrBraid (v : Nat) : Bool := bit v 1
def rrHops (v : Nat) : Nat := bits v 6 2
def rrBase (v : Nat) : Nat := bits v 34 7
def rrCount (v : Nat) : Nat := bits v 63 35

/-- What R340 tests of one entry before it stages any: Index within scope, value within range, and the conditions
that R319, R341, R342 and R407 add. -/
def settingLegal (row : SettingRow) (index value : Nat) : Bool :=
  index < row.count && row.lo ≤ value && value ≤ row.hi &&
  (if row.id = idC0ChainBound then value = 0 || 500 ≤ value
   else if row.id = idSharerSlot then value ≤ 0x400
   else if row.id = idLdLink then value ≤ 3 || value = 7
   else if row.id = idReachRange then !rrValid value || (rrHops value ≠ 0 && rrCount value ≠ 0 && rrCount value ≤ 2 ^ 28)
   else if row.id = idFaultWindow || row.id = idFaultThreshold then index ≠ 10
   else if row.id = idFaultPinMask then index ≠ 10 || value = 1
   else true)

/-- Default of FaultWindow by class (R407). -/
def defaultWindow (cls : Nat) : Nat :=
  if cls ≤ 2 || cls = 8 then 84375000 else if cls = 3 || cls = 4 then 1024 else 16384

/-- Default of FaultThreshold by class (R407). -/
def defaultThreshold (cls : Nat) : Nat :=
  match cls with
  | 0 => 1024 | 1 => 4 | 2 => 256 | 3 => 4 | 4 => 64 | 5 => 4 | 6 => 3 | 7 => 4 | 8 => 4 | 9 => 8 | _ => 1

/-- The default of a setting's instance (the tables of each chapter). -/
def settingDefault (id index : Nat) : Nat :=
  match id with
  | 0x0101 => 4 | 0x0104 => 4095 | 0x0105 => 3 | 0x0106 => 6 | 0x0107 => 4 | 0x0108 => 8
  | 0x0202 => 16 | 0x0203 => 56 | 0x0204 => 48 | 0x0205 => 8 | 0x0206 => 16 | 0x0207 => 256
  | 0x0300 => 16 | 0x0401 => 2048 | 0x0402 => 1 | 0x0403 => 64 | 0x0404 => 24 | 0x0405 => 16
  | 0x0500 => 0x400 | 0x0501 => 16 | 0x0600 => 7
  | 0x0700 => 256 | 0x0701 => 12 | 0x0702 => 8 | 0x0703 => 2 | 0x0705 => 0x20 | 0x0706 => 1
  | 0x0800 => defaultWindow index | 0x0801 => defaultThreshold index
  | 0x0802 => if index ≤ 1 || (5 ≤ index && index ≤ 7) || index = 10 then 1 else 0
  | 0x0803 => 1 | 0x0900 => 1
  | 0x0903 => if index ≤ 17 || index = 19 then 3 else 2
  | 0x0A00 => 4 | 0x0A01 => 25 | 0x0A02 => 20 | 0x0A03 => 3 | 0x0A04 => 1
  | 0x0B00 => 4 | 0x0B01 => 1
  | _ => 0

/-- Where a setting's instance stands in a table of settings. -/
def settingKey (id index : Nat) : Nat := id * 65536 + index

/-- A setting's value in a table of settings, its default where none is listed. -/
def settingIn (t : Tab Nat) (id index : Nat) : Nat := t.val (settingKey id index) (settingDefault id index)

/-- The value in force. -/
def Dev.setting (d : Dev) (id index : Nat) : Nat := settingIn d.conf.cur id index

end Sys2Proof.Machine
end

