-- ==== Sys2Proof/Machine/Ops.lean ====
section
/-! DEFINITION. The named operations every command uses: access to the numbered parts of the device, what it sends out,
the random source, counters with their watches (R416, R423, R489), MSI-X (R412, R413), the interrupt controller
(R408 to R412), event records (R404 to R406, R414) and fault events (R388 to R391). -/

namespace Sys2Proof.Machine

open Sys2Proof

/-! ### Access to numbered parts -/

def Dev.ld (d : Dev) (n : Nat) : Ld := d.host.lds.val n {}
def Dev.setLd (d : Dev) (n : Nat) (x : Ld) : Dev := { d with host.lds := d.host.lds.put n x }
def Dev.modLd (d : Dev) (n : Nat) (f : Ld → Ld) : Dev := d.setLd n (f (d.ld n))

def Dev.link (d : Dev) (n : Nat) : HLink := d.host.links.val n {}
def Dev.setLink (d : Dev) (n : Nat) (x : HLink) : Dev := { d with host.links := d.host.links.put n x }
def Dev.modLink (d : Dev) (n : Nat) (f : HLink → HLink) : Dev := d.setLink n (f (d.link n))

def Dev.port (d : Dev) (n : Nat) : HPortSt := d.host.ports.val n {}
def Dev.modPort (d : Dev) (n : Nat) (f : HPortSt → HPortSt) : Dev :=
  { d with host.ports := d.host.ports.put n (f (d.port n)) }

def Dev.mbox (d : Dev) (n : Nat) : Mbox := d.host.boxes.val n {}
def Dev.modBox (d : Dev) (n : Nat) (f : Mbox → Mbox) : Dev :=
  { d with host.boxes := d.host.boxes.put n (f (d.mbox n)) }

def Dev.chan (d : Dev) (n : Nat) : Chan := d.dram.chans.val n {}
def Dev.setChan (d : Dev) (n : Nat) (x : Chan) : Dev := { d with dram.chans := d.dram.chans.put n x }
def Dev.modChan (d : Dev) (n : Nat) (f : Chan → Chan) : Dev := d.setChan n (f (d.chan n))

def Dev.key (d : Dev) (n : Nat) : Key := d.line.keys.val n {}
def Dev.setKey (d : Dev) (n : Nat) (k : Key) : Dev := { d with line.keys := d.line.keys.put n k }

def Dev.source (d : Dev) (n : Nat) : Source := d.fault.src.val n {}
def Dev.modSource (d : Dev) (n : Nat) (f : Source → Source) : Dev :=
  { d with fault.src := d.fault.src.put n (f (d.source n)) }

def Dev.core (d : Dev) (n : Nat) : Core := d.fault.cores.val n {}
def Dev.setCore (d : Dev) (n : Nat) (c : Core) : Dev := { d with fault.cores := d.fault.cores.put n c }

/-! ### What the device sends out, and draws -/

/-- Send one thing out (log 13). -/
def Dev.say (d : Dev) (o : Out) : Dev := { d with out := d.out ++ [o] }

/-- A draw of w bits from the random source (log 11). -/
def Dev.random (d : Dev) (w : Nat) : BitVec w × Dev :=
  (Config.random w d.clk.draw, { d with clk.draw := d.clk.draw + 1 })

/-- A free value of w bits: the spec states no value there (log 11). -/
def Dev.free (d : Dev) (w : Nat) : BitVec w × Dev :=
  (Config.free w d.clk.draw, { d with clk.draw := d.clk.draw + 1 })

/-- A physical rank is trained: its delay registers hold what the sweeps found, and its DQS interval oscillator is read
(R214, R215). The spec states neither value (log 11). -/
def Dev.trainRank (d : Dev) (ch rank : Nat) : Dev :=
  let (delay, d) := d.free 64
  let (osc, d) := d.free 32
  d.modChan ch fun c => { c with delay := c.delay.put rank delay, osc := c.osc.put rank osc.toNat, staged := c.staged.del rank }

/-- Every rank of a channel is trained. -/
def Dev.trainChan (d : Dev) (ch : Nat) : Dev :=
  let mine := d.dram.repairs.filter (· % 8 = ch)
  let d := { d with dram.repairs := d.dram.repairs.filter (· % 8 ≠ ch), dram.hardDone := d.dram.hardDone ++ mine }
  each (List.range d.dram.ranks) d fun d r => d.trainRank ch r

/-! ### LDs and links -/

/-- The link LdLink gives an LD; none for value 7 (R250, R342). -/
def Dev.ldLink (d : Dev) (ld : Nat) : Option Nat :=
  let v := d.setting idLdLink ld
  if v ≤ 3 then some v else none

/-- The LDs that LdLink gives a link, ascending (R250). -/
def Dev.linkLds (d : Dev) (l : Nat) : List Nat := (List.range 32).filter fun ld => d.ldLink ld = some l

/-- The device LD that an LD-ID on a link names: the n-th LD of an MLD link in ascending order, the single LD of any
other link (R250). None: the link does not present it. -/
def Dev.ldOnLink (d : Dev) (l ldId : Nat) : Option Nat :=
  if (d.link l).mld then (d.linkLds l)[ldId]? else if ldId = 0 then (d.linkLds l)[0]? else none

/-- Whether a shared region can reach an LD's host: its link runs 256-byte flits with BI Enable set, and on an MLD link
the LD has its BI-ID (R254). -/
def Dev.biEnabled (d : Dev) (ld : Nat) : Bool :=
  match d.ldLink ld with
  | none => false
  | some l => (d.link l).cxl && (d.link l).flit256 && (d.link l).bi && (!(d.link l).mld || (d.ld ld).biId)

/-! ### Counters and watches (R416, R423, R489) -/

/-- Index of LD-scope event e of LD ld (32: increments that no LD counted). -/
def ctrLd (ld e : Nat) : Nat := ld * 256 + e

/-- Index of device-scope event e. -/
def ctrDev (e : Nat) : Nat := 16384 + e

/-- The event number and, for an LD-scope one, the LD (32: none) of a counter index. -/
def ctrEvent (i : Nat) : Nat × Option Nat := if i < 16384 then (i % 256, some (i / 256)) else (i - 16384, none)

/-- Whether an event number is assigned (R417). -/
def eventAssigned (e : Nat) : Bool :=
  e ≤ 0x029 || (0x100 ≤ e && e ≤ 0x16C) || (0x170 ≤ e && e ≤ 0x183) || (0x188 ≤ e && e ≤ 0x1A4)

/-- Whether a watch counts an increment of counter i: its owner's LD-scope event, every LD's and the unattributed ones
for the management controller's watch, or a device-scope event (R423). -/
def Watch.counts (w : Watch) (i : Nat) : Bool :=
  match ctrEvent i with
  | (e, some ld) => w.event = e && (w.owner = 32 || w.owner = ld)
  | (e, none) => w.event = e

/-- Advance a watch by n; true when it passes its top: it reloads Preset plus the rest and adds 1 to Overflows. -/
def Watch.advance (w : Watch) (n : Nat) : Watch × Bool :=
  let v := w.value.toNat + n
  if v < 2 ^ 48 then ({ w with value := BitVec.ofNat 48 v }, false)
  else ({ w with value := w.preset + BitVec.ofNat 48 (v - 2 ^ 48), overflows := w.overflows + 1, invalid := false }, true)

/-- Add n to counter i, wrapping at 48 bits, and to the watches on it. A counter hit by a memory error keeps its reading until it
restarts at the next boundary (R196). An overflow sets WatchOvf at once; what it
signals is owed until `settle` (log 16). -/
def Dev.count (d : Dev) (i n : Nat) : Dev :=
  let d := if d.ev.dead.contains i then d else { d with ev.ctr := d.ev.ctr.put i (d.ev.ctr.val i 0 + BitVec.ofNat 48 n) }
  each d.ev.watches d fun d (k, w) =>
    if w.counts i then
      let (w', wrapped) := w.advance n
      let d := { d with ev.watches := d.ev.watches.put k w' }
      if wrapped then { d with ev.watchOvf := d.ev.watchOvf ||| BitVec.ofNat 32 (2 ^ k), ev.owed := d.ev.owed ++ [k] } else d
    else d

/-! ### Delivery (R409, R412, R413) -/

/-- A source's events are due at once: its count criterion is met, or both criteria are off (R412). -/
def dueNow (cn tm count : Nat) : Bool := (cn ≠ 0 && cn ≤ count) || (cn = 0 && tm = 0)

/-- Tm boundaries have passed since the first event since the last delivery (R412, R18). -/
def dueTime (tm bnd : Nat) (first : Option Nat) : Bool :=
  match first with
  | some b => tm ≠ 0 && b + tm ≤ bnd
  | none => false

/-- A core in service: neither retired nor restarting (R395). -/
def Dev.coreUp (d : Dev) (n : Nat) : Bool := (d.core n).st = .running

/-- The next target of a source: the cores of its mask in ascending number after the one that last received it, wrapping,
skipping those not in service; else the lowest-numbered core in service (R409). -/
def Dev.target (d : Dev) (s : IntSrc) : Option Nat :=
  let order := (List.range 16).map fun k => (s.lastCore + 1 + k) % 16
  match order.find? fun c => s.mask.getLsbD c && d.coreUp c with
  | some c => some c
  | none => (List.range 16).find? fun c => d.coreUp c

/-- Deliver a due source to its next target; it then stays there until acknowledged (R409). -/
def Dev.deliver (d : Dev) (n : Nat) : Dev :=
  let s := d.ev.ints.val n {}
  match d.target s with
  | none => d
  | some c =>
    let d := { d with ev.ints := d.ev.ints.put n { s with holder := some c, lastCore := c, count := 0, first := none } }
    d.count (ctrDev 0x1A3) 1

/-- One doorbell write, or one pin event, of a source: pending count and Saturated flag, then delivery when due and not
held by a target (R409, R412). -/
def Dev.ring (d : Dev) (n : Nat) : Dev :=
  let s := d.ev.ints.val n {}
  let s := { s with
    pending := min 255 (s.pending + 1), saturated := s.saturated || 255 < s.pending + 1
    count := s.count + 1, first := s.first.orElse fun _ => some d.clk.bnd }
  let d := { d with ev.ints := d.ev.ints.put n s }
  if s.holder.isNone && dueNow s.cn s.tm s.count then d.deliver n else d

/-- An LD's MSI-X events are discarded: MSI-X disabled, the LD resetting, or on no link (R413). -/
def Dev.vecsDead (d : Dev) (ld : Nat) : Bool :=
  !(d.ld ld).msixOn || (d.ld ld).resetting || (d.ldLink ld).isNone

def Dev.vec (d : Dev) (ld v : Nat) : Vec := (d.ld ld).vecs.val v {}
def Dev.setVec (d : Dev) (ld v : Nat) (x : Vec) : Dev := d.modLd ld fun l => { l with vecs := l.vecs.put v x }

/-- Send a vector's message and count it in 020h to 027h of the LD (R413, R417). -/
def Dev.msix (d : Dev) (ld v : Nat) : Dev := (d.say (.msix ld v)).count (ctrLd ld (0x20 + v)) 1

/-- A vector becomes due: masked, it sets its pending bit; otherwise it sends. The criteria restart (R412, R413). -/
def Dev.fireVec (d : Dev) (ld v : Nat) : Dev :=
  let x := d.vec ld v
  let d := d.setVec ld v { x with count := 0, first := none, pending := x.pending || x.masked }
  if x.masked then d else d.msix ld v

/-- One event that advances a vector (R413). -/
def Dev.vecEvent (d : Dev) (ld v : Nat) : Dev :=
  if d.vecsDead ld then d.setVec ld v { d.vec ld v with count := 0, first := none }
  else
    let x := d.vec ld v
    let x := { x with count := x.count + 1, first := x.first.orElse fun _ => some d.clk.bnd }
    let d := d.setVec ld v x
    if dueNow (d.setting idMsixCount (ld * 8 + v)) (d.setting idMsixTime (ld * 8 + v)) x.count then d.fireVec ld v else d

/-- Signal the watch overflows owed: doorbell 38Fh, and, where Ctl[1] is set, one event of the owner's vector 7 or a
notice to the management controller (R423, R408). -/
def Dev.settle (d : Dev) : Dev :=
  let owed := d.ev.owed
  each owed { d with ev.owed := [] } fun d k =>
    let d := d.ring 0x38F
    match d.ev.watches.look k with
    | some w => if w.signal then (if w.owner = 32 then d.say (.watchNotice k) else d.vecEvent w.owner 7) else d
    | none => d

/-- Count n of a device-scope event. -/
def Dev.bump (d : Dev) (e : Nat) (n : Nat := 1) : Dev := if n = 0 then d else (d.count (ctrDev e) n).settle

/-- Count n of an LD-scope event of an LD (32: no LD's, R489). -/
def Dev.bumpLd (d : Dev) (ld e : Nat) (n : Nat := 1) : Dev := if n = 0 then d else (d.count (ctrLd ld e) n).settle

/-- A unit's doorbell write, with what it makes owed. -/
def Dev.doorbell (d : Dev) (n : Nat) : Dev := (d.ring n).settle

/-! ### Event records (R404 to R406, R414, R415) -/

/-- Put a record among those awaiting delivery. When their storage is full the oldest Informational record is dropped
first, else the oldest of all (log 14), and the drop is counted (R406). -/
def Dev.record (d : Dev) (r : Rec) : Dev :=
  let d :=
    if d.ev.recQ.length < Config.recordStore then d
    else
      let q := if d.ev.recQ.any (·.log = .info) then d.ev.recQ.eraseP (·.log = .info) else d.ev.recQ.drop 1
      { d with ev.recQ := q }.bump 0x167
  { d with ev.recQ := d.ev.recQ ++ [r] }

/-- Whether the limit of one record in any 4,096 consecutive boundaries lets another of this key through (R414). -/
def Dev.mayRecord (d : Dev) (key : Nat) : Bool :=
  match d.ev.lastRec.look key with
  | none => true
  | some b => b + 4096 ≤ d.clk.bnd

/-- Note that a record of this key was raised now. -/
def Dev.noteRecord (d : Dev) (key : Nat) : Dev := { d with ev.lastRec := d.ev.lastRec.put key d.clk.bnd }

/-- Key of the default limit: once per type and LD, or once for the device (R414). -/
def recordKey (type : Nat) (ld : Option Nat) : Nat := type * 2 ^ 64 + ld.getD 32

/-- Key of a limit that counts per place. -/
def placeKey (type place : Nat) : Nat := type * 2 ^ 64 + 64 + place

/-- A vendor record without a source, as R414 lays it out. -/
def Dev.plainRec (d : Dev) (type : Nat) (log : LogKind) (ld : Option Nat) (detail : Nat) : Rec :=
  { type := BitVec.ofNat 16 type, log := log, ld := ld, beat := d.clk.beat, detail := BitVec.ofNat 128 detail }

/-- Raise a vendor record whose rule sets a limit of its own or none. -/
def Dev.raiseAlways (d : Dev) (type : Nat) (log : LogKind) (ld : Option Nat) (detail : Nat) : Dev :=
  d.record (d.plainRec type log ld detail)

/-- Raise a vendor record at most once per type and LD in any 4,096 consecutive boundaries (R414). -/
def Dev.raise (d : Dev) (type : Nat) (log : LogKind) (ld : Option Nat) (detail : Nat) : Dev :=
  if d.mayRecord (recordKey type ld) then (d.noteRecord (recordKey type ld)).raiseAlways type log ld detail else d

/-- Raise a vendor record at most once per place in any 4,096 consecutive boundaries. -/
def Dev.raiseAt (d : Dev) (place type : Nat) (log : LogKind) (ld : Option Nat) (detail : Nat) : Dev :=
  if d.mayRecord (placeKey type place) then (d.noteRecord (placeKey type place)).raiseAlways type log ld detail else d

/-! ### Fault sources (R388 to R391) -/

/-- Class of a source number; none outside the table (R388). -/
def sourceClass (n : Nat) : Option Nat :=
  if n ≤ 0x27F then some 0 else if n ≤ 0x29F then some 1
  else if 0x300 ≤ n && n ≤ 0x30D then some 2
  else if 0x400 ≤ n && n ≤ 0x437 then some 3
  else if 0x440 ≤ n && n ≤ 0x443 then some 4
  else if 0x444 ≤ n && n ≤ 0x446 then some 5
  else if 0x500 ≤ n && n ≤ 0x50F then some 6
  else if 0x600 ≤ n && n ≤ 0x610 then some 7
  else if 0x700 ≤ n && n ≤ 0x707 then some 8
  else if 0x800 ≤ n && n ≤ 0x817 then some 9
  else if 0x900 ≤ n && n ≤ 0x903 then some 10
  else if n = 0xA00 then some 11 else none

/-- Source numbers of the table (R388). -/
def srcDevice (c r s k : Nat) : Nat := 80 * c + 20 * r + 10 * s + k
def srcRank (c r : Nat) : Nat := 0x280 + 4 * c + r
def srcHostLane (p lane : Nat) : Nat := 0x400 + 16 * p + lane
def srcTetherLane (t lane : Nat) : Nat := 0x420 + 8 * t + lane
def srcHostLink (l : Nat) : Nat := 0x440 + l
def srcTether (t : Nat) : Nat := 0x444 + t
def srcCore (c : Nat) : Nat := 0x500 + c
def srcHitch (ch : Nat) : Nat := 0x600 + ch
def srcEngine (e : Nat) : Nat := 0x700 + e
def srcMonitor (m : Nat) : Nat := 0x800 + m

/-- Doorbell number of a fault source (R408). -/
def sourceDoorbell (n : Nat) : Nat :=
  if n ≤ 0x29F then n
  else if n ≤ 0x30D then 0x2A0 + (n - 0x300)
  else if n ≤ 0x41F then 0x2B0 + (n - 0x400)
  else if n ≤ 0x437 then 0x2D0 + (n - 0x420)
  else if n ≤ 0x446 then 0x2E8 + (n - 0x440)
  else if n ≤ 0x50F then 0x2F0 + (n - 0x500)
  else if n ≤ 0x610 then 0x300 + (n - 0x600)
  else if n ≤ 0x707 then 0x318 + (n - 0x700)
  else if n ≤ 0x817 then 0x320 + (n - 0x800)
  else if n ≤ 0x903 then 0x338 + (n - 0x900)
  else 0x33C

/-- The fault source a doorbell number belongs to, if any (R408). -/
def doorbellSource (i : Nat) : Option Nat :=
  if i ≤ 0x29F then some i
  else if i ≤ 0x2AD then some (0x300 + (i - 0x2A0))
  else if i ≤ 0x2AF then none
  else if i ≤ 0x2CF then some (0x400 + (i - 0x2B0))
  else if i ≤ 0x2E7 then some (0x420 + (i - 0x2D0))
  else if i ≤ 0x2EE then some (0x440 + (i - 0x2E8))
  else if i ≤ 0x2EF then none
  else if i ≤ 0x2FF then some (0x500 + (i - 0x2F0))
  else if i ≤ 0x310 then some (0x600 + (i - 0x300))
  else if i ≤ 0x317 then none
  else if i ≤ 0x31F then some (0x700 + (i - 0x318))
  else if i ≤ 0x337 then some (0x800 + (i - 0x320))
  else if i ≤ 0x33B then some (0x900 + (i - 0x338))
  else if i = 0x33C then some 0xA00 else none

/-- Requester byte of R390 for an LD. -/
def reqLd (ld : Nat) : BitVec 8 := BitVec.ofNat 8 ld

/-- Requester byte of R390 for a forwarding device's index. -/
def reqDev (i : Nat) : BitVec 8 := BitVec.ofNat 8 (32 + i)

/-- No requester (R390). -/
def reqNone : BitVec 8 := 0xFF

/-- An event of a fault source: sticky bit and StickyBeat at the first, last-error register overwritten, event counted at
the next boundary, doorbell rung (R389, R390, R392, R408). -/
def Dev.faultEvent (d : Dev) (n code detail : Nat) (label : Label := 0) (who : BitVec 8 := 0xFF) (hard : Bool := false) : Dev :=
  let s := d.source n
  let s := { s with
    sticky := true
    stickyBeat := if s.sticky then s.stickyBeat else d.clk.beat
    fresh := s.fresh + 1
    hard := s.hard || hard
    last := { code := BitVec.ofNat 8 code, valid := true, overrun := s.last.valid && s.last.since ≠ 0, hard := hard,
              since := min 0xFFFF (s.last.since + 1), beat := d.clk.beat, label := label, requester := who,
              detail := BitVec.ofNat 128 detail } }
  { d with fault.src := d.fault.src.put n s }.doorbell (sourceDoorbell n)

/-- Firmware reads a source's last-error register: Since and Overrun return to 0 (R390). -/
def Dev.readLastError (d : Dev) (n : Nat) : Dev :=
  d.modSource n fun s => { s with last := { s.last with since := 0, overrun := false } }

/-- A vendor record of a fault source: Source, Class, flags, Detail of the last-error register, window count (R404). -/
def Dev.faultRec (d : Dev) (type : Nat) (log : LogKind) (n : Nat) (reaction : Nat) (ld : Option Nat) : Rec :=
  let s := d.source n
  { type := BitVec.ofNat 16 type, log := log, source := BitVec.ofNat 16 n
    cls := BitVec.ofNat 8 ((sourceClass n).getD 0xFF), reaction := BitVec.ofNat 8 reaction
    flags := BitVec.ofNat 8 (flag s.severe + 2 * flag s.last.hard + 4 * flag s.last.overrun +
      8 * flag (s.sticky && s.stickyBeat = s.last.beat))
    ld := ld, beat := s.last.beat, detail := s.last.detail, window := BitVec.ofNat 32 s.count }

/-- Raise a fault record of R405. The limit of R414 belongs to the records that R405 does not list (log 17). -/
def Dev.raiseFault (d : Dev) (type : Nat) (log : LogKind) (n reaction : Nat) (ld : Option Nat := none) : Dev :=
  d.record (d.faultRec type log n reaction ld)

/-- Cores in service (R395). -/
def Dev.coresUp (d : Dev) : Nat := ((List.range 16).filter fun c => d.coreUp c).length

/-! ### Power and boot (spec/17) -/

/-- The fabric clock runs: P0 or P1, until the PLLs stop at step 4 of an entry (R447, R450). -/
def Dev.clocked (d : Dev) : Bool := d.boot = .running && (d.power.st = .p0 || d.power.st = .p1) && !d.dram.selfRefresh

/-- Firmware takes new commands: the clock runs, and no entry to P2 or P3 has passed its step 3 (R447, R450). -/
def Dev.awake (d : Dev) : Bool :=
  d.clocked && match d.power.entry with | some e => e.target = .p1 || e.next ≤ 3 | none => true

/-! ### How a command ends -/

/-- A command's outcome: the device it leaves, the queue as it was. -/
def ok (d : Dev) (s : State) : Host.Outcome State Fault Refusal := .next { s with dev := d }

end Sys2Proof.Machine
end

