-- ==== Sys2Proof/Machine/Place.lean ====
section
/-! DEFINITION. Where things lie: the media space and its table area (R84, R109, R110, R175, R201), the decode of a media
address to channel, rank, subchannel, bank and row (R202, R203), and the place a logical rank's lines have at the moment
(R200, R220). -/

namespace Sys2Proof.Machine

open Sys2Proof

def kib : Nat := 1024
def mib : Nat := 1048576
def gib : Nat := 1073741824

/-- 2 MiB, the size of an extent (R75). -/
def mib2 : Nat := 2097152

/-! ### The media space -/

/-- MediaTop = 8 x U x Cr (R201); 0 where no media is formed (R198). -/
def Dev.mediaTop (d : Dev) : Nat := if d.dram.formed then 8 * d.dram.logical * d.dram.lines * 64 else 0

/-- TableSize under a KnotReach in GiB (R84); none where no media is formed (R85). -/
def Dev.tableSizeOf (d : Dev) (reach : Nat) : Nat := if d.dram.formed then gib + 40 * kib * (reach * 512) else 0

/-- TableBase under the settings in force (R84). -/
def Dev.tableBase (d : Dev) : Nat := d.mediaTop - d.tableSizeOf (d.setting idKnotReach 0)

/-- ShadeBase = TableBase - ShadeSize: the frame area is [0, ShadeBase) (R109). -/
def Dev.shadeBase (d : Dev) : Nat := d.tableBase - d.setting idShadeSize 0 * gib

/-- Shade slots of 1 KiB (R109). -/
def Dev.shadeSlots (d : Dev) : Nat := (d.tableBase - d.shadeBase) / kib

/-- S1Base of an LD (R84). -/
def Dev.s1Base (d : Dev) (ld : Nat) : Nat := d.tableBase + ld * 128 * kib

/-- The S2L1 directory (R84). -/
def Dev.s2Base (d : Dev) : Nat := d.tableBase + 4 * mib

/-- The S1L2 tables' part (R84). -/
def Dev.s1l2Base (d : Dev) : Nat := d.tableBase + 4 * mib + 128 * kib

/-- The S2L2 tables' part (R84). -/
def Dev.s2l2Base (d : Dev) : Nat := d.tableBase + 260 * mib + 128 * kib

/-- MoveBase (R84). -/
def Dev.moveBase (d : Dev) : Nat := d.tableBase + 324 * mib + 128 * kib

/-- SealBase (R175). -/
def Dev.sealBase (d : Dev) : Nat := d.tableBase + 580 * mib + 128 * kib

/-- The range units' part (R84). -/
def Dev.unitBase (d : Dev) : Nat := d.tableBase + gib

/-- Media address of range unit u (R175). -/
def Dev.unitAddr (d : Dev) (u : Nat) : Nat := d.unitBase + u * 40 * kib

/-- A structure of n bytes at an address lies wholly in the table area (R86). -/
def Dev.inTable (d : Dev) (addr n : Nat) : Bool := d.tableBase ≤ addr && addr + n ≤ d.mediaTop

/-- Parts of a range unit (R110). -/
def unitLeaf : Nat := 32768
def unitRecords : Nat := 35072
def unitNodes1 : Nat := 36352
def unitNodes2 : Nat := 40448

/-! ### R202 and R203 -/

/-- A place on the modules: channel, rank, subchannel, bank (bank group + 8 x bank), row, line within the row. -/
structure Place where
  ch : Nat
  rank : Nat
  sub : Nat
  bank : Nat
  row : Nat
  col : Nat
  deriving DecidableEq, Repr, Inhabited

/-- Channel and channel-local line of a media line number m[42:6] outside a reflected extent (R202). -/
def chanLine (n : Nat) : Nat × Nat := (n / 4 % 8, n / 32 * 4 + n % 4)

/-- Channel and channel-local line of copy c (0: CH0 to CH3) of a line of a reflected extent, from its media line number
(R203): bit 0 of the frame number is taken as 0. -/
def mirrorLine (n c : Nat) : Nat × Nat :=
  let o := n % 32768
  let frame := n / 32768 / 2 * 2
  (4 * c + o / 4 % 4, (frame * 1024 + o / 16) * 4 + o % 4)

/-- The media line number whose R202 decode is a given channel and channel-local line. -/
def homeLine (ch l : Nat) : Nat := l / 4 * 32 + ch * 4 + l % 4

/-- The place of a channel-local line on a rank of P lines (R202). -/
def placeOf (ch p l : Nat) : Place :=
  let r := l % p
  let q := r / 2
  { ch := ch, rank := l / p, sub := r % 2, bank := q % 8 + 8 * (q / 1024 % 4), row := q / 4096, col := q / 8 % 128 }

/-- Every line of a physical rank is written with zero data and a fresh check and parity, as an unlisted line reads (R201; log 4). -/
def Dev.blankRank (d : Dev) (ch phys : Nat) : Dev :=
  let p := max 1 d.dram.lines
  let mine (h : Nat) : Bool := h / 4 % 8 = ch && (h / 32 * 4 + h % 4) / p = phys
  { d with line.mem := d.line.mem.filter fun c => !mine (c.1 / 128) }

/-- Physical rank of a logical rank's line: the shadow below the cursor of a copy register, else the remap (R200, R220).
`src` asks for the source of a copy whatever the cursor. -/
def Chan.physRank (c : Chan) (logical line : Nat) (src : Bool) : Nat :=
  let own := c.remap.val logical logical
  match c.copy with
  | some r =>
    if r.src ≠ logical then own
    else if src then r.lost.getD own
    else if line < r.cursor && !r.ended then r.shadow else own
  | none => own

/-- Where a media line lies now: the home line number of its physical line, and its place with the physical rank. Copy 0
or 1 matters for a reflected line alone. -/
def Dev.locate (d : Dev) (n : Nat) (reflected : Bool) (copy : Nat := 0) (src : Bool := false) : Nat × Place :=
  let (ch, l) := if reflected then mirrorLine n copy else chanLine n
  let p := max 1 d.dram.lines
  let phys := (d.chan ch).physRank (l / p) (l % p) src
  (homeLine ch (phys * p + l % p), { placeOf ch p l with rank := phys })

/-- Logical rank of a media line (R202). -/
def Dev.logicalRank (d : Dev) (n : Nat) (reflected : Bool) (copy : Nat := 0) : Nat :=
  (if reflected then mirrorLine n copy else chanLine n).2 / max 1 d.dram.lines

/-- The line's logical rank is retired without a remap (R222), or its module was lost during the copy of the rank and the copy has
not passed the line (R435). `src`: the source of the copy is asked for. -/
def Dev.rankGone (d : Dev) (n : Nat) (reflected : Bool) (copy : Nat := 0) (src : Bool := false) : Bool :=
  let (ch, l) := if reflected then mirrorLine n copy else chanLine n
  let lr := d.logicalRank n reflected copy
  (d.chan ch).retired.contains lr ||
    match (d.chan ch).copy with
    | some r => r.lost.isSome && r.src = lr && (src || r.cursor ≤ l % max 1 d.dram.lines)
    | none => false

/-- The device erased at a place, if any (R163, R218). -/
def Dev.erasedAt (d : Dev) (p : Place) : Option Nat :=
  ((d.chan p.ch).erased.find? fun (r, s, _) => r = p.rank && s = p.sub).map (·.2.2)

/-- The media line that a home line serves now, if any (R200, R202, R220). -/
def Dev.mediaOf (d : Dev) (h : Nat) : Option Nat :=
  let ch := h / 4 % 8
  let l := h / 32 * 4 + h % 4
  let p := max 1 d.dram.lines
  ((List.range d.dram.logical).find? fun r => (d.chan ch).physRank r (l % p) false = l / p).map
    fun r => homeLine ch (r * p + l % p)

/-- Every channel serves each logical rank from the physical rank of the same number. -/
def Dev.plainRanks (d : Dev) : Bool :=
  (List.range 8).all fun ch => (d.chan ch).copy.isNone && (d.chan ch).remap.all fun e => e.1 = e.2

/-- A number that names a row: channel, physical rank, subchannel, bank and row. -/
def rowKey (p : Place) : Nat := (((p.row * 32 + p.bank) * 2 + p.sub) * 4 + p.rank) * 8 + p.ch

end Sys2Proof.Machine
end

