-- ==== Sys2Proof/Machine/Media.lean ====
section
/-! DEFINITION. The media as memory: a list of (address, byte) pairs in one canonical form. The physical line with home
line number n holds its 80 bytes (64 data, 8 Dc, 8 Dp; R159) at addresses 128 n to 128 n + 79. What an unlisted address
reads as is the byte of a clean plain line of zeros bound to the line's home address (DESIGN CHOICE, log 4). -/

namespace Sys2Proof.Machine

open Sys2Proof

/-- The plain check of a line under a binding address (R161): CRC-64 over the address with bits [5:0] cleared, then the
64 line bytes. -/
def plainCheck (addr : Nat) (data : Line) : BitVec 64 :=
  crc64 (leBytes 8 (addr / 64 * 64) ++ leBytes 64 data.toNat)

/-- What an unlisted address reads as: 0 for a data byte, and the matching byte of the check of a line of zeros for a
sideband byte (its parity equals its check). -/
def Memory.blank (a : Nat) : Byte :=
  let b := a % 128
  if b < 64 then 0
  else if b < 80 then BitVec.ofNat 8 ((plainCheck (a / 128 * 64) 0).toNat / 2 ^ (8 * (b % 8)))
  else 0

/-- The byte at an address. -/
def Memory.read : List Host.Cell → Nat → Byte
  | [], a => Memory.blank a
  | (k, v) :: t, a => if a = k then v else if a < k then Memory.blank a else Memory.read t a

/-- Insert or replace one byte, keeping the canonical form: the entry goes when its value is what an unlisted address
reads as. -/
def Memory.write : List Host.Cell → Nat → Byte → List Host.Cell
  | [], a, v => if v = Memory.blank a then [] else [(a, v)]
  | (k, w) :: t, a, v =>
    if a < k then (if v = Memory.blank a then (k, w) :: t else (a, v) :: (k, w) :: t)
    else if a = k then (if v = Memory.blank a then t else (a, v) :: t)
    else (k, w) :: Memory.write t a v

/-- Canonical form: addresses strictly rising from a lower bound, and no entry equal to what an unlisted address reads
as. -/
def Memory.wfFrom : Nat → List Host.Cell → Bool
  | _, [] => true
  | lo, (k, v) :: t => lo ≤ k && v ≠ Memory.blank k && Memory.wfFrom (k + 1) t

/-- The memory is in its canonical form. -/
def Memory.wf (m : List Host.Cell) : Bool := Memory.wfFrom 0 m

/-- Write a run of bytes. -/
def Memory.writeRun : List Host.Cell → Nat → List Byte → List Host.Cell
  | m, _, [] => m
  | m, a, b :: t => Memory.writeRun (Memory.write m a b) (a + 1) t

/-- The bytes at addresses a to a + n - 1. -/
def Memory.readRun (m : List Host.Cell) (a n : Nat) : List Byte := (List.range n).map fun i => Memory.read m (a + i)

/-- Every address from lo to hi - 1 reads as unlisted. -/
def Memory.erase (m : List Host.Cell) (lo hi : Nat) : List Host.Cell := m.filter fun c => c.1 < lo || hi ≤ c.1

/-- The 640 bits of the physical line with a home line number. -/
def Memory.burst (m : List Host.Cell) (n : Nat) : Burst := BitVec.ofNat 640 (leNat (Memory.readRun m (128 * n) 80))

/-- Store the 640 bits of a physical line. -/
def Memory.setBurst (m : List Host.Cell) (n : Nat) (b : Burst) : List Host.Cell :=
  Memory.writeRun m (128 * n) (leBytes 80 b.toNat)

/-- The burst of a physical line. -/
def Dev.burstAt (d : Dev) (n : Nat) : Burst := Memory.burst d.line.mem n

/-- Store a burst at a physical line. -/
def Dev.setBurst (d : Dev) (n : Nat) (b : Burst) : Dev := { d with line.mem := Memory.setBurst d.line.mem n b }

/-- Nothing has been written to a physical line since it was last blank. -/
def Dev.isBlank (d : Dev) (n : Nat) : Bool :=
  d.line.mem.all fun c => c.1 < 128 * n || 128 * n + 80 ≤ c.1

end Sys2Proof.Machine
end

