-- ==== Sys2Proof/Machine/Protect.lean ====
section
/-! DEFINITION. Line protection (spec/06_line_protection.md): the check of a line by its kind (R160 to R162), the
judgment of a burst (R163), encipherment (R168, R169), and the key a line takes (R188, R195). -/

namespace Sys2Proof.Machine

open Sys2Proof

/-! ### Keys -/

/-- Kx1, Kx2 and Km of a key's material, 32 bytes each (R188). -/
def Key.kx1 (k : Key) : List Byte := leBytes 32 (bits k.material.toNat 255 0)
def Key.kx2 (k : Key) : List Byte := leBytes 32 (bits k.material.toNat 511 256)
def Key.km (k : Key) : List Byte := leBytes 32 (bits k.material.toNat 767 512)

/-- The re-key register, if any, that holds a line's 2 MiB range: by pool range for a knotted line, by frame for a
direct one (R194). -/
def Dev.rekeyOf (d : Dev) (knotted : Bool) (unit2m : Nat) : Option Rekey :=
  (d.line.rekey.find? fun (_, r) => r.knotted = knotted && r.unit2m = unit2m).map (·.2)

/-- The key ID of a line: in a range that a re-key register holds, the new one below the cursor and the old one
otherwise (R195); else its entry's. `old` asks for the old one, as a read that finds an unissued conversion entry does. -/
def Dev.lineKeyId (d : Dev) (attr : Attr) (unit2m page : Nat) (old : Bool := false) : Nat :=
  match d.rekeyOf attr.knotted unit2m with
  | some r => if page < r.cursor && !old then r.new else r.old
  | none => attr.key

/-! ### The kinds of R160 -/

/-- What binds a line's check: its kind with the binding of R160. -/
inductive Bind
  /-- CRC over the media address -/
  | plain (addr : Nat)
  /-- line MAC over the media address -/
  | veiled (addr keyId : Nat)
  /-- line MAC over pool page, index byte, minor and Major -/
  | sealed (page index minor keyId major : Nat)
  /-- tree MAC over the media address and the parent's counter -/
  | tree (addr parent : Nat)
  deriving DecidableEq, Repr, Inhabited

/-- B1 to B4: the 64 stored bytes (R162). -/
def lineBlocks (data : Line) : List (List Byte) :=
  let b := leBytes 64 data.toNat
  (List.range 4).map fun i => slice b (16 * i) 16

/-- B0 (R162). -/
def bindBlock : Bind → List Byte
  | .plain _ => []
  | .veiled addr keyId => leBytes 8 (addr / 64 * 64) ++ [BitVec.ofNat 8 keyId, 1] ++ zeros 6
  | .sealed page index minor keyId major =>
    leBytes 4 page ++ [BitVec.ofNat 8 index, BitVec.ofNat 8 minor, BitVec.ofNat 8 keyId, 2] ++ leBytes 8 major
  | .tree addr parent => leBytes 8 addr ++ leBytes 8 parent

/-- The check of the stored bits of a line (R160 to R162). -/
def Dev.check (d : Dev) (b : Bind) (data : Line) : BitVec 64 :=
  match b with
  | .plain addr => plainCheck addr data
  | .veiled _ k => macOf (d.key k).km (bindBlock b :: lineBlocks data)
  | .sealed _ _ _ k _ => macOf (d.key k).km (bindBlock b :: lineBlocks data)
  | .tree _ _ => macOf (leBytes 32 d.line.kt.toNat) (bindBlock b :: lineBlocks data)

/-- The keystream of a sealed line (R169). -/
def keystream (k : Key) (page index minor major : Nat) : List Byte :=
  ((List.range 4).map fun b =>
    aesEnc k.kx1 (leBytes 4 page ++
      [BitVec.ofNat 8 index, BitVec.ofNat 8 minor, BitVec.ofNat 8 b, 0] ++ leBytes 8 major)).flatten

/-- Encipher a line's bytes (R168, R169); plain and tree lines are stored as they are. -/
def Dev.encipher (d : Dev) (b : Bind) (data : Line) : Line :=
  match b with
  | .veiled addr k =>
    BitVec.ofNat 512 (leNat (xts aesEnc (d.key k).kx1 (d.key k).kx2 (addr / 64) (leBytes 64 data.toNat)))
  | .sealed page index minor k major =>
    data ^^^ BitVec.ofNat 512 (leNat (keystream (d.key k) page index minor major))
  | _ => data

/-- Decipher a line's stored bytes (R168, R169). -/
def Dev.decipher (d : Dev) (b : Bind) (data : Line) : Line :=
  match b with
  | .veiled addr k =>
    BitVec.ofNat 512 (leNat (xts aesDec (d.key k).kx1 (d.key k).kx2 (addr / 64) (leBytes 64 data.toNat)))
  | .sealed .. => d.encipher b data
  | _ => data

/-! ### The line on the module (R159) and its judgment (R163) -/

/-- The poison mark (R163). -/
def poisonMark : BitVec 64 := 0xA5C396E15A3C691E

/-- Device word k of a burst: D0 to D7, Dc (8), Dp (9) (R159). -/
def burstWord (b : Burst) (k : Nat) : BitVec 64 := (b >>> (64 * k)).setWidth 64

/-- The exclusive or of D0 to D7 and Dc. -/
def parityOf (b : Burst) : BitVec 64 := (List.range 9).foldl (fun x k => x ^^^ burstWord b k) 0

/-- A burst of data, check and the parity of R159. -/
def mkBurst (data : Line) (dc : BitVec 64) : Burst :=
  let b : Burst := data.setWidth 640 ||| (dc.setWidth 640 <<< 512)
  b ||| ((parityOf b).setWidth 640 <<< 576)

/-- The burst with device word k (0 to 8) rebuilt from the parity and every other word. -/
def rebuild (b : Burst) (k : Nat) : Burst :=
  let w := burstWord b 9 ^^^ parityOf b ^^^ burstWord b k
  let hole : Burst := (BitVec.allOnes 64).setWidth 640 <<< (64 * k)
  (b &&& ~~~hole) ||| (w.setWidth 640 <<< (64 * k))

/-- The outcomes of R163; an uncorrectable one carries whether the parity was consistent. -/
inductive Verdict
  | clean | parity | corrected (k : Nat) | poison | lost (consistent : Bool)
  deriving DecidableEq, Repr, Inhabited

/-- A judged line: its outcome and its stored data words after repair. -/
structure Judged where
  v : Verdict
  data : Line
  deriving DecidableEq, Repr, Inhabited

def burstData (b : Burst) : Line := b.setWidth 512

/-- Whether a trial matches: 1 by check, 2 by the poison mark, 0 not (R163). -/
def trial (check : Line → BitVec 64) (b : Burst) : Nat :=
  let c := check (burstData b)
  let dc := burstWord b 8
  if c = dc then 1 else if c = dc ^^^ poisonMark then 2 else 0

/-- Judgment on a rank and subchannel with erased device e (R163). -/
def judgeErased (check : Line → BitVec 64) (e : Nat) (b : Burst) : Judged :=
  let b := if e = 9 then b else rebuild b e
  match trial check b with
  | 1 => ⟨.clean, burstData b⟩
  | 2 => ⟨.poison, burstData b⟩
  | _ => ⟨.lost false, burstData b⟩

/-- Judgment with every device in use (R163). -/
def judgeFull (check : Line → BitVec 64) (b : Burst) : Judged :=
  let parityOk := burstWord b 9 = parityOf b
  match trial check b with
  | 1 => ⟨if parityOk then .clean else .parity, burstData b⟩
  | t =>
    if t = 2 && parityOk then ⟨.poison, burstData b⟩
    else
      match (List.range 9).filter fun k => trial check (rebuild b k) ≠ 0 with
      | [k] =>
        let r := rebuild b k
        if trial check r = 1 then ⟨.corrected k, burstData r⟩ else ⟨.poison, burstData r⟩
      | _ => ⟨.lost parityOk, burstData b⟩

/-- The judgment of R163. -/
def judge (check : Line → BitVec 64) (erased : Option Nat) (b : Burst) : Judged :=
  match erased with
  | some e => judgeErased check e b
  | none => judgeFull check b

/-- The burst a line is stored as: data enciphered under its binding, its check and parity, with the poison mark in Dc
for stored poison (R159, R165). -/
def Dev.seal (d : Dev) (b : Bind) (data : Line) (poison : Bool := false) : Burst :=
  let stored := d.encipher b data
  let dc := d.check b stored
  mkBurst stored (if poison then dc ^^^ poisonMark else dc)

/-- The verdict releases data (R164). -/
def Verdict.good : Verdict → Bool
  | .clean | .parity | .corrected _ => true
  | _ => false

end Sys2Proof.Machine
end

