-- ==== Sys2Proof/Machine/Buffer.lean ====
section
/-! DEFINITION. Pools of queues (spec/01 R25) and the entries of the write buffer (R26, R31): acceptance, merging, and the rewrites of
repaired lines that wait for an entry (spec/06 R164). -/

namespace Sys2Proof.Machine

open Sys2Proof

/-- A number no request, entry or access has had. -/
def Dev.fresh (d : Dev) : Nat × Dev := (d.path.next, { d with path.next := d.path.next + 1 })

/-! ### Pools of queues (R25) -/

/-- A queue grants an entry to class c: below its minimum, or the shared part has room (R25). -/
def grants (mins : List Nat) (shared : Nat) (occ : List Nat) (c : Nat) : Bool :=
  let used := ((List.range 4).map fun k => occ.getD k 0 - mins.getD k 0).foldl (· + ·) 0
  occ.getD c 0 < mins.getD c 0 || used < shared

/-- Occupancy by class of a list of labels. -/
def occupancy (labels : List Label) : List Nat :=
  (List.range 4).map fun c => (labels.filter fun l => l.toNat / 64 = c).length

/-! ### The write buffer (R26, R31) -/

def wbMins : List Nat := [8192, 4096, 2048, 2048]
def wbShared : Nat := 49152

/-- The write buffer grants a class one entry more. -/
def Dev.wbRoom (d : Dev) (c : Nat) : Bool :=
  grants wbMins (wbShared - d.path.withdrawn.val 64 0) (occupancy (d.line.wb.map (·.label))) c

/-- The write buffer grants a label n entries more, one after the other. -/
def Dev.wbRoomFor (d : Dev) (label : Label) (n : Nat) : Bool :=
  grants wbMins (wbShared - d.path.withdrawn.val 64 0)
    (occupancy (d.line.wb.map (·.label) ++ List.replicate (n - 1) label)) (label.toNat / 64)

/-- The entries of a line that have not been released, in acceptance order. -/
def Dev.wbOn (d : Dev) (n : Nat) : List Wb := d.line.wb.filter (·.line = n)

def Dev.setWb (d : Dev) (w : Wb) : Dev := { d with line.wb := replaceFirst (·.id = w.id) (fun _ => w) d.line.wb }

def Dev.dropWb (d : Dev) (id : Nat) : Dev := { d with line.wb := d.line.wb.filter (·.id ≠ id) }

/-- Append an entry. -/
def Dev.addWb (d : Dev) (w : Wb) : Dev := { d with line.wb := d.line.wb ++ [w] }

/-- Copies of a line that writes go to: both of a reflected one (R114), but none on a rank that is gone (R222). -/
def Dev.copiesOf (d : Dev) (a : Attr) (n : Nat) : List Nat :=
  (if a.reflected then [0, 1] else [0]).filter fun c => !d.rankGone n a.reflected c

/-- An entry is unissued in every place of its write. -/
def Dev.unissued (d : Dev) (o : Wb) : Bool :=
  o.left = d.copiesOf o.attr o.line && !o.counted &&
    (match o.twin with | some t => d.line.wb.any (·.id = t) | none => true)

/-- A full write takes the place of an entry: the last of its line, full too, that has not issued (R31). -/
def Dev.mergesWith (d : Dev) (w : Wb) : Option Wb :=
  match (d.wbOn w.line).getLast? with
  | some o => if o.kind = .full && w.kind = .full && d.unissued o then some o else none
  | none => none

/-- Accept data for a line: merged into the entry it takes the place of, else as a new entry (R31). A rewrite of the line that has not
been accepted is dropped (R164). -/
def Dev.acceptWb (d : Dev) (w : Wb) : Dev :=
  let d := { d with line.repairs := d.line.repairs.filter (·.line ≠ w.line) }
  match d.mergesWith w with
  | some o => d.setWb { o with data := w.data, poison := w.poison, promoted := o.promoted || w.promoted }
  | none => d.addWb w

/-- Entries of lines that a write of the whole line in one step takes the place of: they are gone with their accesses and rewrites (R31,
R35). A rank copy's entry stays. -/
def Dev.dropEntries (d : Dev) (p : Nat → Bool) : Dev :=
  let out (w : Wb) : Bool := p w.line && (match w.kind with | .rankCopy _ => false | _ => true)
  let ids := (d.line.wb.filter out).map (·.id)
  { d with
    line.wb := d.line.wb.filter fun w => !out w, line.repairs := d.line.repairs.filter fun w => !p w.line
    dram.accs := d.dram.accs.filter fun a => match a.kind with | .merge w | .write w | .rewrite w => !ids.contains w | _ => true }

def Dev.supersede (d : Dev) (n : Nat) : Dev := d.dropEntries (· = n)

/-- Rewrites of a line are gone: its bits have been written anew meanwhile. -/
def Dev.dropRewrites (d : Dev) (n : Nat) : Dev :=
  let out (w : Wb) : Bool := w.line = n && w.kind = .rewrite
  let ids := (d.line.wb.filter out).map (·.id)
  { d with
    line.wb := d.line.wb.filter fun w => !out w, line.repairs := d.line.repairs.filter (·.line ≠ n)
    dram.accs := d.dram.accs.filter fun a => match a.kind with | .rewrite w | .write w => !ids.contains w | _ => true }

/-- An entry that writes the line it stands for: not one that copies the line elsewhere. -/
def Wb.own (w : Wb) : Bool := match w.kind with | .copy .. | .remote .. | .rankCopy _ => false | _ => true

/-- A rewrite under label C0h enters the write buffer, or waits for an entry; it is dropped where the buffer holds a write of the line
(R164, R207). -/
def Dev.repair (d : Dev) (w : Wb) : Dev :=
  if (d.wbOn w.line).any Wb.own then d
  else if d.wbRoom (w.label.toNat / 64) then d.addWb w
  else { d with line.repairs := d.line.repairs.filter (·.line ≠ w.line) ++ [w] }

/-- The rewrites that waited enter, as far as there is room. -/
def Dev.takeRepairs (d : Dev) : Dev := each d.line.repairs { d with line.repairs := [] } Dev.repair

/-! ### Lines of zeros (R113, R180) -/

/-- Write zero data with a fresh check and parity at the media lines lo to hi - 1 (R113): where every rank stands at its own place,
the lines an unlisted address reads as (log 4). What the write buffer held for them is gone. -/
def Dev.blankLines (d : Dev) (lo hi : Nat) : Dev :=
  let d := d.dropEntries fun n => lo ≤ n && n < hi
  if d.plainRanks then
    { d with line.mem := d.line.mem.filter fun c =>
        match d.mediaOf (c.1 / 128) with
        | some n => n < lo || hi ≤ n
        | none => true }
  else each (List.range (hi - lo)) d fun d i =>
    d.setBurst (d.locate (lo + i) false 0).1 (mkBurst 0 (plainCheck ((lo + i) * 64) 0))

/-- Write every line of a direct frame range with zero data and a fresh check and parity; a reflected one in both copies
(R113). -/
def Dev.zeroFill (d : Dev) (n count : Nat) (reflected : Bool) : Dev :=
  if d.plainRanks && !reflected then d.blankLines n (n + count)
  else
    each (List.range count) (d.dropEntries fun k => n ≤ k && k < n + count) fun d i =>
      let b := mkBurst 0 (plainCheck ((n + i) * 64) 0)
      let d := d.setBurst (d.locate (n + i) reflected 0).1 b
      if reflected then d.setBurst (d.locate (n + i) reflected 1).1 b else d

end Sys2Proof.Machine
end

