-- ==== Sys2Proof/Machine/Line.lean ====
section
/-! DEFINITION. What follows a judgment (R164, R219, R388, R391, R403), reads and writes of table lines (R41, R86),
lost lines (R128, R129, R131) and viral entry (R262). -/

namespace Sys2Proof.Machine

open Sys2Proof

/-! ### Security alarms (R403) -/

/-- LDs whose region names a key ID (R403). -/
def Dev.keyLds (d : Dev) (key : Nat) : List Nat :=
  ((d.conf.regions.filter fun r => r.prot ≠ .plain && r.key = key).map (·.ld)).eraseDups

/-- LDs whose region holds a media line by a local direct extent (R403). -/
def Dev.lineLds (d : Dev) (n : Nat) : List Nat :=
  (List.range 32).filter fun ld => (d.ld ld).exts.any fun x => x.place.contains (n / 32768)

/-- A class-10 alarm: counted, its source severe at the next boundary, a record in the Failure log of every LD concerned
(the management controller alone where there is none), one for each media line in any 4,096 boundaries (R403, R393). -/
def Dev.alarm (d : Dev) (source code : Nat) (addr key level : Nat) (lds : List Nat) : Dev :=
  let detail := addr % 2 ^ 43 + key % 64 * 2 ^ 43 + level % 16 * 2 ^ 49
  let d := d.faultEvent source code detail (hard := true)
  let lk := placeKey 0x0D (addr / 64)
  if d.mayRecord lk then
    let d := d.noteRecord lk
    match lds with
    | [] => d.record { d.faultRec 0x0D .failure source 0 none with mcOnly := true }
    | _ => each lds d fun d ld => d.raiseFault 0x0D .failure source 0 (some ld)
  else d

/-! ### Judged lines -/

/-- Detail of a class 0 or 1 event (R391). -/
def dramDetail (n : Nat) (p : Place) (dev : Nat) (scrub : Bool) : Nat :=
  n * 64 + p.sub * 2 ^ 43 + dev * 2 ^ 44 + p.rank * 2 ^ 48 + p.ch * 2 ^ 50 + flag scrub * 2 ^ 53

/-- Who and what a judged read was for. -/
structure Reader where
  label : Label := 0xC0
  who : BitVec 8 := 0xFF
  scrub : Bool := false
  /-- key ID of a veiled or sealed line -/
  key : Option Nat := none
  /-- level of a tree line -/
  level : Option Nat := none
  deriving DecidableEq, Repr, Inhabited

/-- A row with a line lost to hardware, or with four columns corrected for one device, is hard-failed (R217). -/
def Dev.hardRow (d : Dev) (p : Place) : Dev :=
  if d.dram.hardRows.contains (rowKey p) then d else { d with dram.hardRows := d.dram.hardRows ++ [rowKey p] }

/-- Note a column of a row corrected for device k within the scrub period (R217). -/
def Dev.corrColumn (d : Dev) (p : Place) (k : Nat) : Dev :=
  let key := rowKey p * 16 + k
  let cols := d.dram.rowCorr.val key []
  let cols := if cols.contains p.col then cols else p.col :: cols
  let d := { d with dram.rowCorr := d.dram.rowCorr.put key cols }
  if 4 ≤ cols.length then d.hardRow p else d

/-- A physical rank to be retired from the next boundary on (R219). -/
def Dev.retireRank (d : Dev) (ch rank : Nat) : Dev :=
  d.modChan ch fun c => if c.toRetire.contains rank then c else { c with toRetire := c.toRetire ++ [rank] }

/-- The events of a judgment of media line n at a place (R164, R217, R219, R388, R391, R417). -/
def Dev.noteVerdict (d : Dev) (n : Nat) (p : Place) (v : Verdict) (r : Reader) : Dev :=
  if (d.chan p.ch).retiredPhys.contains p.rank then d
  else match v with
  | .clean => d
  | .parity =>
    (d.bump 0x161).faultEvent (srcDevice p.ch p.rank p.sub 9) 2 (dramDetail n p 9 r.scrub) r.label r.who
  | .corrected k =>
    ((d.bump 0x160).faultEvent (srcDevice p.ch p.rank p.sub k) 1 (dramDetail n p k r.scrub) r.label r.who).corrColumn p k
  | .poison =>
    let d := d.bump 0x163
    if d.line.poisonSeen.contains n then d else { d with line.poisonSeen := d.line.poisonSeen ++ [n] }
  | .lost consistent =>
    let d := d.bump 0x162
    let d := d.faultEvent (srcRank p.ch p.rank) (if consistent then 4 else 3) (dramDetail n p 15 r.scrub) r.label r.who
      (hard := !consistent)
    let d := if consistent then d else (d.hardRow p).retireRank p.ch p.rank
    if r.key.isSome || r.level.isSome || consistent then
      d.alarm (if r.level.isSome then 0x901 else 0x900) (if r.level.isSome then 2 else 1) (n * 64) (r.key.getD 0)
        (r.level.getD 15) (if r.level.isSome then [] else match r.key with | some k => d.keyLds k | none => d.lineLds n)
    else d

/-! ### Table lines (R41, R86, R87) -/

/-- The full write of a table line that the write buffer holds: what a read of the line is answered from (R35). -/
def Dev.tableEntry (d : Dev) (n : Nat) : Option Wb := ((d.wbOn n).filter fun w => w.kind = .full || w.kind = .rewrite).getLast?

/-- Judge a plain line of the table area as read with the bits `err` wrong, or answer it from the write buffer (R35); a line of a retired
rank is lost (R222). -/
def Dev.judgeTable (d : Dev) (n : Nat) (err : Burst) : Judged :=
  match d.tableEntry n with
  | some w => ⟨if w.poison then .poison else .clean, w.data⟩
  | none =>
    let (h, p) := d.locate n false
    if d.rankGone n false then ⟨.lost true, 0⟩
    else judge (plainCheck (n * 64)) (d.erasedAt p) (d.burstAt h ^^^ err)

/-- Queue the rewrite of a repaired line in one copy, with the check and the content given; a corrected line of a rank with an erased device is not
rewritten (R164). -/
def Dev.rewriteAs (d : Dev) (check : Line → BitVec 64) (n : Nat) (a : Attr) (page copy : Nat) (j : Judged) (p : Place)
    (data : Line := j.data) : Dev :=
  let wanted := match j.v with | .parity => true | .corrected _ => (d.erasedAt p).isNone | _ => false
  if wanted then
    let (id, d) := d.fresh
    d.repair { id := id, line := n, kind := .rewrite, label := 0xC0, attr := a, page := page, admitBnd := d.clk.bnd
               data := data, burst := mkBurst j.data (check j.data), left := [copy] }
  else d

/-- Read and judge a table line, with the events of its judgment and the rewrite of a repaired one (R164). -/
def Dev.readTable (d : Dev) (n : Nat) (err : Burst) (r : Reader) : Judged × Dev :=
  let j := d.judgeTable n err
  let p := (d.locate n false).2
  (j, (d.noteVerdict n p j.v r).rewriteAs (plainCheck (n * 64)) n {} 0 0 j p)

/-- A table line's data as media holds it, judged without errors; zeros where it is lost. -/
def Dev.tableData (d : Dev) (n : Nat) : Line :=
  let j := d.judgeTable n 0
  if j.v.good then j.data else 0

/-- Label of firmware's writes of tables, knots and page headers: C1, group 63 (R41, R49). -/
def tableLabel : Label := 0x7F

/-- Write a whole table line through the table-write port, which refuses addresses outside the table area: a full write under label 7Fh
in the write buffer, ordered under R35 (R41). Where the buffer grants it no entry firmware waits, and the line is then written in this
same step (log 74). -/
def Dev.writeTable (d : Dev) (n : Nat) (data : Line) : Dev :=
  if !d.inTable (n * 64) 64 then d
  else
    let (id, d) := d.fresh
    let w : Wb := { id := id, line := n, kind := .full, data := data, mask := BitVec.allOnes 64, label := tableLabel, admitBnd := d.clk.bnd
                    left := d.copiesOf {} n }
    if w.left.isEmpty then d
    else if (d.mergesWith w).isSome || d.wbRoom (tableLabel.toNat / 64) then d.acceptWb w
    else (d.supersede n).setBurst (d.locate n false).1 (mkBurst data (plainCheck (n * 64) data))

/-- The n bytes of a line at a byte offset, as a number. -/
def lineField (data : Line) (off n : Nat) : Nat := bits data.toNat (8 * (off + n) - 1) (8 * off)

/-- A line with w bits at bit offset `at_` replaced. -/
def lineSetBits (data : Line) (at_ w v : Nat) : Line :=
  let hole : Line := BitVec.ofNat 512 ((2 ^ w - 1) * 2 ^ at_)
  (data &&& ~~~hole) ||| BitVec.ofNat 512 (v % 2 ^ w * 2 ^ at_)

/-- An 8-byte table entry as media holds it. -/
def Dev.entryAt (d : Dev) (addr : Nat) : BitVec 64 := BitVec.ofNat 64 (lineField (d.tableData (addr / 64)) (addr % 64) 8)

/-- Write an 8-byte table entry through the table-write port. -/
def Dev.writeEntry (d : Dev) (addr : Nat) (v : BitVec 64) : Dev :=
  d.writeTable (addr / 64) (lineSetBits (d.tableData (addr / 64)) (addr % 64 * 8) 64 v.toNat)

/-- A run of w bits at a bit offset of a structure at an address, crossing at most one line boundary (R80). -/
def Dev.bitsAt (d : Dev) (addr bitOff w : Nat) : Nat :=
  let n := addr / 64 + bitOff / 512
  let both := (d.tableData n).toNat + (d.tableData (n + 1)).toNat * 2 ^ 512
  bits both (bitOff % 512 + w - 1) (bitOff % 512)

/-- Write a run of w bits at a bit offset of a structure at an address, in its line or two lines (R80, R92). -/
def Dev.writeBits (d : Dev) (addr bitOff w v : Nat) : Dev :=
  let n := addr / 64 + bitOff / 512
  let o := bitOff % 512
  if o + w ≤ 512 then d.writeTable n (lineSetBits (d.tableData n) o w v)
  else
    let lo := 512 - o
    let d := d.writeTable n (lineSetBits (d.tableData n) o lo v)
    d.writeTable (n + 1) (lineSetBits (d.tableData (n + 1)) 0 (w - lo) (v / 2 ^ lo))

/-- Write a run of bytes into the table area. -/
def Dev.writeTableBytes (d : Dev) (addr : Nat) (bytes : List Byte) : Dev :=
  each bytes.zipIdx d fun d e => d.writeBits addr (8 * e.2) 8 e.1.toNat

/-! ### Viral (R262) and lost lines (R128, R129, R131) -/

/-- A link enters viral, in force from the next boundary (R262). -/
def Dev.enterViral (d : Dev) (l : Nat) : Dev :=
  if (d.link l).viral then d else d.modLink l fun x => { x with viralDue := true }

/-- Lines of a page marked lost (R128). -/
def Dev.lostOf (d : Dev) (page : Nat) : BitVec 64 := ((d.xl.loss.find? (·.page = page)).map (·.lost)).getD 0

/-- A line is marked lost (R129). -/
def Dev.isLost (d : Dev) (page idx : Nat) : Bool := (d.lostOf page).getLsbD idx

/-- Mark lines of a page lost. Where the table has neither the page's entry nor a free one, the device enters viral on
its host links and forwarded requests answer poison from then on (R131). -/
def Dev.markLost (d : Dev) (page : Nat) (mask : BitVec 64) : Dev :=
  if d.xl.loss.any (·.page = page) then
    { d with xl.loss := replaceFirst (·.page = page) (fun x => { x with lost := x.lost ||| mask }) d.xl.loss }
  else if d.xl.loss.length < 4096 then { d with xl.loss := d.xl.loss ++ [{ page := page, lost := mask }] }
  else each [0, 1, 2, 3] { d with xl.lossOver := true } Dev.enterViral

/-- A full write that is placed clears its line's mark; the entry is freed when none remains (R129). -/
def Dev.clearLost (d : Dev) (page : Nat) (mask : BitVec 64) : Dev :=
  let unmark (x : Loss) : Loss := if x.page = page then { x with lost := x.lost &&& ~~~mask } else x
  { d with xl.loss := (d.xl.loss.map unmark).filter (·.lost ≠ 0) }

end Sys2Proof.Machine
end

