-- ==== Sys2Proof/Machine/Tree.lean ====
section
/-! DEFINITION. Page headers (R110, R115, R116) and the counter tree above the headers of sealed pages (R175 to R183):
the cache of both, fetching with verification, write-back, minors and Major, quarantine. -/

namespace Sys2Proof.Machine

open Sys2Proof

/-! ### Places (R175) -/

/-- F of levels 3 to 10 (R175). -/
def treeFirst (lvl : Nat) : Nat :=
  [0, 4194304, 4718592, 4784128, 4792320, 4793344, 4793472, 4793488].getD (lvl - 3) 0

/-- Nodes at a level of the seal tree area (R175). -/
def treeCount (lvl : Nat) : Nat := [4194304, 524288, 65536, 8192, 1024, 128, 16, 2].getD (lvl - 3) 0

/-- Line number of node idx of a level; level 0 is header idx = 512 u + page (R175). -/
def Dev.nodeLine (d : Dev) (lvl idx : Nat) : Nat :=
  match lvl with
  | 0 => (d.unitAddr (idx / 512) + 64 * (idx % 512)) / 64
  | 1 => (d.unitAddr (idx / 64) + unitNodes1 + 64 * (idx % 64)) / 64
  | 2 => (d.unitAddr (idx / 8) + unitNodes2 + 64 * (idx % 8)) / 64
  | _ => (d.sealBase + 64 * (treeFirst lvl + idx)) / 64

/-- Level and index of the node a line holds, if it holds one (R175, R110). -/
def Dev.nodeOfLine (d : Dev) (n : Nat) : Option (Nat × Nat) :=
  let a := n * 64
  if d.unitBase ≤ a then
    let u := (a - d.unitBase) / (40 * kib)
    let o := (a - d.unitBase) % (40 * kib)
    if o < unitLeaf then some (0, 512 * u + o / 64)
    else if unitNodes1 ≤ o && o < unitNodes2 then some (1, 64 * u + (o - unitNodes1) / 64)
    else if unitNodes2 ≤ o && o < unitNodes2 + 512 then some (2, 8 * u + (o - unitNodes2) / 64)
    else none
  else if d.sealBase ≤ a then
    let k := (a - d.sealBase) / 64
    ([3, 4, 5, 6, 7, 8, 9, 10].find? fun lvl => treeFirst lvl ≤ k && k < treeFirst lvl + treeCount lvl).map
      fun lvl => (lvl, k - treeFirst lvl)
  else none

/-- Unit index of a range unit's address (R175). -/
def Dev.unitIndex (d : Dev) (base : Nat) : Nat := (base - d.unitBase) / (40 * kib)

/-- Line number of a page's header in the unit at `base` (R110). -/
def headerLine (base page : Nat) : Nat := (base + 64 * (page % 512)) / 64

/-! ### Headers (R115) -/

def hdrMajor (h : Line) : Nat := bits h.toNat 63 0
def hdrMinor (h : Line) (i : Nat) : Nat := bits h.toNat (64 + 7 * i + 6) (64 + 7 * i)
def hdrSetMajor (h : Line) (v : Nat) : Line := lineSetBits h 0 64 v
def hdrSetMinor (h : Line) (i v : Nat) : Line := lineSetBits h (64 + 7 * i) 7 v

/-- Sum of a page's minors: its write heat (R116, R122). -/
def hdrHeat (h : Line) : Nat := (List.range 64).foldl (fun a i => a + hdrMinor h i) 0

/-! ### The root (R180) -/

/-- The root as read: bitwise majority of its three copies. -/
def Dev.root (d : Dev) : BitVec 512 :=
  let (a, b, c) := d.line.roots
  (a &&& b) ||| (a &&& c) ||| (b &&& c)

/-- The line station reads the root and rewrites every copy that differs from the majority. -/
def Dev.setRoot (d : Dev) (r : BitVec 512) : Dev := { d with line.roots := (r, r, r) }

/-! ### The counter-tree and page-header cache (R178, R179) -/

def Dev.ctLook (d : Dev) (n : Nat) : Option CtLine := d.line.ct.find? (·.line = n)

/-- Lines the cache holds (R43). -/
def ctSize : Nat := 131072

/-- Put a line into the cache as its most recent, replacing its old copy. -/
def Dev.ctPut (d : Dev) (x : CtLine) : Dev :=
  { d with line.ct := x :: d.line.ct.filter (·.line ≠ x.line) }

/-- Drop a line from the cache. -/
def Dev.ctDrop (d : Dev) (n : Nat) : Dev := { d with line.ct := d.line.ct.filter (·.line ≠ n) }

/-- The parent's counter for a node, from the cache or the root; none while the parent is not cached (R175, R177). -/
def Dev.parentCounter (d : Dev) (lvl idx : Nat) : Option Nat :=
  if 10 ≤ lvl then some (bits d.root.toNat (64 * idx + 63) (64 * idx))
  else (d.ctLook (d.nodeLine (lvl + 1) (idx / 8))).map fun x => lineField x.data (8 * (idx % 8)) 8

/-- The bits of tree line n at its physical line. Its area is initialised with zero counters and their tree MAC under a parent counter of
0 (R180); the model keeps such a line as the blank line, and reads it with its MAC (log 4). -/
def Dev.treeBurst (d : Dev) (n h : Nat) : Burst :=
  let b := d.burstAt h
  if b = mkBurst 0 (plainCheck (n * 64) 0) then mkBurst 0 (d.check (.tree (n * 64) 0) 0) else b

/-- Judge a tree line under its parent's counter (R163, R177). -/
def Dev.judgeTree (d : Dev) (n parent : Nat) (err : Burst) : Judged :=
  let (h, p) := d.locate n false
  if d.rankGone n false then ⟨.lost true, 0⟩
  else judge (d.check (.tree (n * 64) parent)) (d.erasedAt p) (d.treeBurst n h ^^^ err)

/-- Ancestors of a node from itself up to the first one whose parent is cached or the root (R178), lowest first. -/
def Dev.treePath (d : Dev) : Nat → Nat → Nat → List (Nat × Nat)
  | 0, _, _ => []
  | fuel + 1, lvl, idx =>
    if (d.ctLook (d.nodeLine lvl idx)).isSome then []
    else if 10 ≤ lvl then [(lvl, idx)]
    else (lvl, idx) :: d.treePath fuel (lvl + 1) (idx / 8)

/-- Verify one node under its parent and cache it; false where it judges other than clean, parity repaired or corrected,
which raises an alarm naming the level (R178). A repaired line is rewritten (R164). -/
def Dev.fetchNode (d : Dev) (lvl idx : Nat) (err : Burst) : Bool × Dev :=
  let n := d.nodeLine lvl idx
  match d.parentCounter lvl idx with
  | none => (false, d)
  | some c =>
    let j := d.judgeTree n c err
    let p := (d.locate n false).2
    let d := d.noteVerdict n p j.v { level := some lvl }
    if j.v.good then
      (true, (d.rewriteAs (d.check (.tree (n * 64) c)) n {} 0 0 j p).ctPut
        { line := n, data := j.data, pinned := 9 ≤ lvl, tree := true })
    else (false, if j.v = .poison then d.alarm 0x901 2 (n * 64) 0 lvl [] else d)

/-- Verify a path from the top down; the first line that fails ends it (R178). -/
def Dev.fetchPath (d : Dev) : List (Nat × Nat) → List Burst → Bool × Dev
  | [], _ => (true, d)
  | (lvl, idx) :: t, errs =>
    let (good, d) := d.fetchNode lvl idx (errs.headD 0)
    if good then d.fetchPath t (errs.drop 1) else (false, d)

/-- Bring a header or node of a sealed range into the cache with its uncached ancestors; where one fails no line of the path is cached
(R178). Errors are given for the lines from the top down. -/
def Dev.fetchTree (d : Dev) (lvl idx : Nat) (errs : List Burst) : Bool × Dev :=
  match d.fetchPath (d.treePath 11 lvl idx).reverse errs with
  | (true, e) => (true, e)
  | (false, e) => (false, { e with line.ct := d.line.ct })

/-- Bring a header of a plain or veiled range into the cache: a table line under its CRC (R160). -/
def Dev.fetchPlainHeader (d : Dev) (n : Nat) (err : Burst) : Bool × Dev :=
  if (d.ctLook n).isSome then (true, d)
  else
    let (j, d) := d.readTable n err {}
    if j.v.good then (true, d.ctPut { line := n, data := j.data }) else (false, d)

/-- Add 1 to the parent's counter for a node (R179). The parent is fetched first if it is not cached. -/
def Dev.bumpParent (d : Dev) (lvl idx : Nat) : Dev :=
  if 10 ≤ lvl then d.setRoot (lineSetBits d.root (64 * idx) 64 (bits d.root.toNat (64 * idx + 63) (64 * idx) + 1))
  else
    let n := d.nodeLine (lvl + 1) (idx / 8)
    let d := if (d.ctLook n).isSome then d else (d.fetchTree (lvl + 1) (idx / 8) []).2
    match d.ctLook n with
    | none => d
    | some x =>
      let v := lineField x.data (8 * (idx % 8)) 8 + 1
      d.ctPut { x with data := lineSetBits x.data (64 * (idx % 8)) 64 v, dirty := true, incs := x.incs + 1 }

/-- Write a tree line with its MAC under a counter of its parent (R177). -/
def Dev.putTree (d : Dev) (n : Nat) (data : Line) (counter : Nat) : Dev :=
  (d.supersede n).setBurst (d.locate n false).1 (mkBurst data (d.check (.tree (n * 64) counter) data))

/-- Write a cached header or node back: the parent's counter first, then the line with its new check. A pinned parent is
itself written through (R179). -/
def Dev.writeBack : Nat → Dev → Nat → Nat → Dev
  | 0, d, _, _ => d
  | fuel + 1, d, lvl, idx =>
    let n := d.nodeLine lvl idx
    match d.ctLook n with
    | none => d
    | some x =>
      if x.tree then
        let d := d.bumpParent lvl idx
        let d := if 9 ≤ lvl + 1 && lvl < 10 then Dev.writeBack fuel d (lvl + 1) (idx / 8) else d
        match d.parentCounter lvl idx with
        | none => d
        | some c =>
          let d := d.putTree n x.data c
          d.ctPut { x with dirty := false, incs := 0 }
      else (d.writeTable n x.data).ctPut { x with dirty := false, incs := 0 }

/-- Write a cached line back by its line number. -/
def Dev.writeBackLine (d : Dev) (n : Nat) : Dev :=
  (d.nodeOfLine n).elim d fun e => Dev.writeBack 12 d e.1 e.2

/-- Evict beyond the cache's size: the least recent unpinned line, written back if dirty (R179). -/
def Dev.ctEvict (d : Dev) : Dev :=
  if d.line.ct.length ≤ ctSize - d.path.withdrawn.val 16 0 then d
  else
    match d.line.ct.reverse.find? fun x => !x.pinned with
    | none => d
    | some x => ((if x.dirty then d.writeBackLine x.line else d).ctDrop x.line)

/-- Every dirty header and node written back (R181, R451). -/
def Dev.flushTree (d : Dev) : Dev :=
  each (d.line.ct.filter (·.dirty)) d fun d x => d.writeBackLine x.line

/-- Before the first sealed range after a cold boot the seal tree area is initialised: zero counters, the root zero, the
top two levels pinned (R43, R179, R180). -/
def Dev.initTree (d : Dev) : Dev :=
  if d.line.treeReady then d
  else
    let top := ((List.range 16).map fun i => (9, i)) ++ [(10, 0), (10, 1)]
    let first := d.sealBase / 64
    let d := ({ d with line.treeReady := true }.blankLines first (first + 4793490)).setRoot 0
    each top d fun d e => d.ctPut { line := d.nodeLine e.1 e.2, data := 0, pinned := true, tree := true }

/-! ### Headers through the cache -/

/-- Whether a page's header is in the cache. -/
def Dev.headerCached (d : Dev) (a : Attr) (page : Nat) : Bool := (d.ctLook (headerLine a.base page)).isSome

/-- A line of the table area as media holds it, a tree line without verification: its bits as read where no plain check fits them. -/
def Dev.rawLine (d : Dev) (n : Nat) : Line :=
  let j := d.judgeTable n 0
  if j.v.good then j.data else burstData (d.burstAt (d.locate n false).1)

/-- A page's header as cached, else as media holds it without verification. -/
def Dev.header (d : Dev) (base page : Nat) : Line :=
  match d.ctLook (headerLine base page) with
  | some x => x.data
  | none => d.rawLine (headerLine base page)

/-- Bring a page's header into the cache (R178); false: it failed. -/
def Dev.fetchHeader (d : Dev) (a : Attr) (page : Nat) (errs : List Burst) : Bool × Dev :=
  if d.headerCached a page then (true, d)
  else
    let (good, d) :=
      if a.prot = .sealed then d.fetchTree 0 (512 * d.unitIndex a.base + page % 512) errs
      else d.fetchPlainHeader (headerLine a.base page) (errs.headD 0)
    (good, d.ctEvict)

/-- Store a page's header in the cache, dirty, `incs` increments more. -/
def Dev.setHeader (d : Dev) (a : Attr) (page : Nat) (h : Line) (incs : Nat) : Dev :=
  let n := headerLine a.base page
  let old := (d.ctLook n).getD { line := n, data := 0, tree := a.prot = .sealed }
  (d.ctPut { old with data := h, dirty := true, incs := old.incs + incs }).ctEvict

/-- Store a page's header and write it through to media, as every change of Major is (R173). -/
def Dev.throughHeader (d : Dev) (a : Attr) (page : Nat) (h : Line) : Dev :=
  (d.setHeader a page h 1).writeBackLine (headerLine a.base page)

/-- Count one write placed on a line (R115, R171): the minor rises and stops at 127 on plain and veiled pages. On a
sealed page a minor of 127 overflows first, and this is not called. -/
def Dev.placeMinor (d : Dev) (a : Attr) (page idx : Nat) : Dev :=
  let h := d.header a.base page
  d.setHeader a page (hdrSetMinor h idx (min 127 (hdrMinor h idx + 1))) 1

/-- Change a sealed page's Major by a step (R173). At the top no change is made: the key ID becomes FAILED and an alarm is
raised (R174). -/
def Dev.raiseMajor (d : Dev) (a : Attr) (page : Nat) (key : Nat) (h : Line) : Option Line × Dev :=
  if hdrMajor h + 1 < 2 ^ 64 then (some (hdrSetMajor h (hdrMajor h + 1)), d)
  else
    let d := d.setKey key { d.key key with st := .failed }
    (none, d.alarm 0x902 4 (headerLine a.base page * 64) key 15 (d.keyLds key))

/-- Reset of a page (R116): every minor 0, and for a sealed page one more on Major. The header is fetched first; one that does not verify,
or is lost under quarantine, takes Major from its media value (R173, R178, R186). -/
def Dev.resetHeader (d : Dev) (a : Attr) (page : Nat) : Dev :=
  let d := (d.fetchHeader a page []).2
  let h := (d.header a.base page) &&& (BitVec.allOnes 64).setWidth 512
  if a.prot = .sealed then
    match d.raiseMajor a page a.key h with
    | (some h, d) => d.throughHeader a page h
    | (none, d) => d
  else d.throughHeader a page h

/-! ### Quarantine (R182, R183) -/

/-- Whether a quarantine entry covers a page of a unit: its header, or an ancestor of it, or the whole device. -/
def Quar.covers (q : Quar) (u page : Nat) : Bool :=
  let h := 512 * u + page % 512
  if q.level = 255 then true
  else if q.level = 0 then q.unit = u && q.index = page % 512
  else if q.level ≤ 2 then q.unit = u && q.index = h / 8 ^ q.level % (512 / 8 ^ q.level)
  else q.index = h / 8 ^ q.level

/-- A page of a sealed range is quarantined (R183). -/
def Dev.quarantined (d : Dev) (a : Attr) (page : Nat) : Bool :=
  a.knotted && a.prot = .sealed && d.line.quar.any fun e => e.2.covers (d.unitIndex a.base) page

/-- An uncorrectable SRAM error in a dirty header or node: an entry naming it, the line dropped, an alarm; beyond 256
entries every sealed range becomes one entry at the root level, which the alarm then names by address 0 and level Fh (R182; log 27). -/
def Dev.quarantine (d : Dev) (n : Nat) : Dev :=
  (d.nodeOfLine n).elim (d.ctDrop n) fun e =>
    let (lvl, idx) := e
    let q : Quar :=
      if lvl = 0 then ⟨0, idx / 512, idx % 512⟩ else if lvl = 1 then ⟨1, idx / 64, idx % 64⟩
      else if lvl = 2 then ⟨2, idx / 8, idx % 8⟩ else ⟨lvl, 0, idx⟩
    let slot := lowestFree d.line.quar.keys 256
    let tab := match slot with
      | some k => d.line.quar.put k q
      | none => [(0, ⟨255, 0, 0⟩)]
    let d := ({ d with line.quar := tab }.ctDrop n).bump 0x165
    if slot.isSome then d.alarm 0x901 3 (n * 64) 0 lvl [] else d.alarm 0x901 3 0 0 15 []

end Sys2Proof.Machine
end

