-- ==== Sys2Proof/Machine/Tables.lean ====
section
/-! DEFINITION. Two-stage translation (spec/03_translation.md): table entries and their format rules (R76 to R82), walks
and their faults (R86 to R89), the look-aside structures (R90 to R93, R95), knot changes (R92, R96) and heat (R119, R120). -/

namespace Sys2Proof.Machine

open Sys2Proof

/-! ### Entries (R76, R77, R79, R81) -/

def dirValid (e : BitVec 64) : Bool := e.getLsbD 0
def dirTable (e : BitVec 64) : Nat := bits e.toNat 42 12 * 4096
def dirRsvd (e : BitVec 64) : Bool := bits e.toNat 11 1 = 0 && bits e.toNat 63 43 = 0
/-- A directory entry that points to a table (R76). -/
def mkDir (table : Nat) : BitVec 64 := BitVec.ofNat 64 (1 + table / 4096 * 4096)

def extValid (e : BitVec 64) : Bool := e.getLsbD 0
def extKind (e : BitVec 64) : Nat := bits e.toNat 2 1
def extKnotted (e : BitVec 64) : Bool := e.getLsbD 3
def extProt (e : BitVec 64) : Nat := bits e.toNat 5 4
def extKey (e : BitVec 64) : Nat := bits e.toNat 11 6
def extLabel (e : BitVec 64) : Nat := bits e.toNat 19 12
def extRefl (e : BitVec 64) : Bool := e.getLsbD 20
def extDev (e : BitVec 64) : Nat := bits e.toNat 25 21
def extBase (e : BitVec 64) : Nat := bits e.toNat 48 26

/-- Encodings of Kind and Prot (R77). -/
def kindNum : RKind → Nat | .firm => 0 | .elastic => 1 | .shared => 2
def protNum : Prot → Nat | .plain => 0 | .veiled => 1 | .sealed => 2
def protOf : Nat → Prot | 1 => .veiled | 2 => .sealed | _ => .plain
def kindOf : Nat → RKind | 1 => .elastic | 2 => .shared | _ => .firm

/-- An extent entry (R77). -/
def mkExt (kind : RKind) (knotted : Bool) (prot : Prot) (key : Nat) (label : Label) (refl : Bool) (dev base : Nat) : BitVec 64 :=
  BitVec.ofNat 64 (1 + kindNum kind * 2 + flag knotted * 8 + protNum prot * 16 + key % 64 * 64 + label.toNat * 2 ^ 12 +
    flag refl * 2 ^ 20 + dev % 32 * 2 ^ 21 + base % 2 ^ 23 * 2 ^ 26)

def s2Valid (e : BitVec 64) : Bool := e.getLsbD 0
def s2Direct (e : BitVec 64) : Bool := e.getLsbD 1
def s2Prot (e : BitVec 64) : Nat := bits e.toNat 3 2
def s2Shared (e : BitVec 64) : Bool := e.getLsbD 4
def s2Refl (e : BitVec 64) : Bool := e.getLsbD 5
/-- Addr as a byte address: bits [42:6] stand in place. -/
def s2Addr (e : BitVec 64) : Nat := bits e.toNat 42 6 * 64
def s2Key (e : BitVec 64) : Nat := bits e.toNat 48 43

/-- An S2L2 entry (R79). -/
def mkS2 (direct : Bool) (prot : Prot) (shared refl : Bool) (addr key : Nat) : BitVec 64 :=
  BitVec.ofNat 64 (1 + flag direct * 2 + protNum prot * 4 + flag shared * 16 + flag refl * 32 + addr / 64 * 64 % 2 ^ 43 +
    key % 64 * 2 ^ 43)

def knotState (k : BitVec 36) : Nat := bits k.toNat 35 34
def knotClass (k : BitVec 36) : Nat := bits k.toNat 33 32
def knotBody (k : BitVec 36) : Nat := bits k.toNat 31 0
def zeroKnot : BitVec 36 := 0
def brightKnot (frame : Nat) : BitVec 36 := BitVec.ofNat 36 (2 ^ 34 + frame % 2 ^ 32)
def shadeKnot (cls slot : Nat) : BitVec 36 := BitVec.ofNat 36 (2 * 2 ^ 34 + cls % 4 * 2 ^ 32 + slot % 2 ^ 32)
def movingKnot (dir token : Nat) : BitVec 36 := BitVec.ofNat 36 (3 * 2 ^ 34 + dir % 4 * 2 ^ 32 + token % 2 ^ 32)

/-- Address of a move record (R82). -/
def Dev.moveRec (d : Dev) (token : Nat) : Nat := d.moveBase + bits token 31 24 * mib + bits token 15 0 * 16

/-- Media address of the S1L1 entry of an extent index. -/
def Dev.s1Dir (d : Dev) (ld ext : Nat) : Nat := d.s1Base ld + ext / 512 * 8

/-- Media address of the S1L2 entry of an extent index; none: the directory names no table. -/
def Dev.extAddr (d : Dev) (ld ext : Nat) : Option Nat :=
  let e := d.entryAt (d.s1Dir ld ext)
  if dirValid e then some (dirTable e + ext % 512 * 8) else none

/-- The S1L2 entry of an extent index as media holds it; 0 where there is no table. -/
def Dev.extEntry (d : Dev) (ld ext : Nat) : BitVec 64 := match d.extAddr ld ext with | some a => d.entryAt a | none => 0

/-! ### Format rules, as causes in the order of R88: 0 uncorrectable, 1 not valid, 2 integrity failure, 3 outside -/

/-- Directory entries of either stage (R76, R86). -/
def Dev.dirCause (d : Dev) (v : Verdict) (e : BitVec 64) : Option Nat :=
  if !v.good then some 0 else if !dirValid e then some 1 else if !dirRsvd e then some 2
  else if !d.inTable (dirTable e) 4096 then some 3 else none

/-- Extent entries (R78). -/
def Dev.extCause (d : Dev) (v : Verdict) (e : BitVec 64) : Option Nat :=
  if !v.good then some 0
  else if !extValid e then some 1
  else if extKind e = 3 || extProt e = 3 || (!extKnotted e && extKind e = 1) || (extProt e = 2 && !extKnotted e) ||
      (extRefl e && (extKind e ≠ 0 || extKnotted e)) || (extProt e = 0 && extKey e ≠ 0) || bits e.toNat 63 49 ≠ 0 ||
      (extDev e = d.chain.index && !extKnotted e &&
        (bit (extBase e) 22 || d.tableBase < (extBase e + 1) * mib2)) then some 2
  else none

/-- S2L2 entries (R79, R86, R110). -/
def Dev.s2Cause (d : Dev) (v : Verdict) (e : BitVec 64) : Option Nat :=
  if !v.good then some 0
  else if !s2Valid e then some 1
  else if s2Prot e = 3 || (s2Prot e = 2 && s2Direct e) || (s2Refl e && !s2Direct e) || (s2Prot e = 0 && s2Key e ≠ 0) ||
      bits e.toNat 63 49 ≠ 0 || (s2Direct e && bits e.toNat 20 6 ≠ 0) ||
      (s2Direct e && d.tableBase < s2Addr e + mib2) then some 2
  else if !s2Direct e && !(unitLeaf ≤ s2Addr e && d.inTable (s2Addr e - unitLeaf) (40 * kib)) then some 3
  else none

/-- Whether a knot breaks R81. -/
def Dev.knotBad (d : Dev) (k : BitVec 36) : Bool :=
  match knotState k with
  | 0 => bits k.toNat 33 0 ≠ 0
  | 1 => knotClass k ≠ 0 || d.tableBase < (knotBody k + 1) * 4096
  | 2 => d.shadeSlots < knotBody k + knotClass k + 1
  | _ => knotClass k = 3

/-! ### The caches (R90 to R93) -/

def extentCacheSize : Nat := 65536
def knotCacheSize : Nat := 16384
def serviceBuf : Nat := 4

/-- Size of a first-level buffer: 256 for an x16 port, 128 for an x8 link, 64 for the service engines (R90). -/
def Dev.flbSize (d : Dev) (buf : Nat) : Nat :=
  if buf = serviceBuf then 64 else if (d.port (linkPort buf)).halves then 128 else 256

/-- Look a first-level entry up and make it the most recent. -/
def Dev.flbLook (d : Dev) (buf ld ext : Nat) : Option (BitVec 64 × Dev) :=
  let l := d.xl.flb.val buf []
  match l.find? fun x => x.ld = ld && x.ext = ext with
  | some x => some (x.entry,
      { d with xl.flb := d.xl.flb.put buf (x :: l.filter fun y => !(y.ld = ld && y.ext = ext)) })
  | none => none

/-- Fill a first-level buffer, evicting its least recently used entry (R91). -/
def Dev.flbFill (d : Dev) (buf ld ext : Nat) (e : BitVec 64) : Dev :=
  let l := (d.xl.flb.val buf []).filter fun y => !(y.ld = ld && y.ext = ext)
  { d with xl.flb := d.xl.flb.put buf (({ ld := ld, ext := ext, entry := e, filled := d.clk.bnd } :: l).take (d.flbSize buf)) }

/-- The same entry of the extent cache: kind, LD and index. -/
def XEntry.same (x : XEntry) (k : XKind) (ld i : Nat) : Bool := x.kind = k && x.ld = ld && x.index = i

/-- Look an extent-cache entry up and make it the most recent. Stage-2 entries have LD 0. -/
def Dev.xcLook (d : Dev) (k : XKind) (ld i : Nat) : Option (BitVec 64 × Dev) :=
  match d.xl.xc.find? fun x => x.same k ld i with
  | some x => some (x.value, { d with xl.xc := x :: d.xl.xc.filter fun y => !y.same k ld i })
  | none => none

/-- Fill the extent cache, evicting the least recently used unpinned entry (R91). A pinned entry stays pinned. -/
def Dev.xcFill (d : Dev) (k : XKind) (ld i : Nat) (v : BitVec 64) (addr : Nat) (pin : Bool := false) : Dev :=
  let was := d.xl.xc.any fun x => x.same k ld i && x.pinned
  let l := { kind := k, ld := ld, index := i, value := v, addr := addr, pinned := pin || was } ::
    d.xl.xc.filter fun y => !y.same k ld i
  let l :=
    if l.length ≤ extentCacheSize - d.path.withdrawn.val 192 0 then l
    else match l.reverse.find? fun x => !x.pinned with
      | some x => l.filter fun y => !(y.same x.kind x.ld x.index)
      | none => l
  { d with xl.xc := l }

/-- Fill an entry that stands beside a walked one. A pinned entry keeps its value until firmware or TABLE.INVAL replaces it (R100). -/
def Dev.xcBeside (d : Dev) (k : XKind) (ld i : Nat) (v : BitVec 64) (addr : Nat) : Dev :=
  if d.xl.xc.any fun x => x.same k ld i && x.pinned then d else d.xcFill k ld i v addr

/-- The knot of a page as its block's slot holds it. -/
def KSlot.knot (s : KSlot) (i : Nat) : BitVec 36 := (s.knots >>> (36 * i)).setWidth 36

/-- The lines of a block that a knot lies in (R80). -/
def knotLines (i : Nat) : List Nat :=
  let a := 36 * i / 512
  if 476 < 36 * i % 512 then [a, a + 1] else [a]

/-- The slot holds the line or lines of a knot. -/
def KSlot.has (s : KSlot) (i : Nat) : Bool := (knotLines i).all fun l => s.valid.getLsbD l

def Dev.kslot (d : Dev) (block : Nat) : Option KSlot := d.xl.kc.find? (·.block = block)

/-- Record lines of an evicted slot are written back to the range unit (R120). -/
def Dev.kcWriteRecs (d : Dev) (s : KSlot) : Dev :=
  if s.recsValid then
    each (List.range 20) d fun d l =>
      d.writeTable ((s.block - unitLeaf + unitRecords) / 64 + l) ((s.recs >>> (512 * l)).setWidth 512)
  else d

/-- Store a slot as the most recent, evicting the least recent beyond the size. -/
def Dev.kcPut (d : Dev) (s : KSlot) : Dev :=
  let l := s :: d.xl.kc.filter (·.block ≠ s.block)
  let d := each (l.drop (knotCacheSize - d.path.withdrawn.val 0 0)) d Dev.kcWriteRecs
  { d with xl.kc := l.take (knotCacheSize - d.path.withdrawn.val 0 0) }

/-- Store one line of a block in its slot. -/
def KSlot.withLine (s : KSlot) (l : Nat) (data : Line) : KSlot :=
  let hole : BitVec 18432 := (BitVec.allOnes 512).setWidth 18432 <<< (512 * l)
  { s with knots := (s.knots &&& ~~~hole) ||| (data.setWidth 18432 <<< (512 * l)) }

def KSlot.setLine (s : KSlot) (l : Nat) (data : Line) : KSlot :=
  { s.withLine l data with valid := s.valid ||| (1 <<< l) }

/-- A block's knots with knot i replaced. -/
def KSlot.withKnot (s : KSlot) (i : Nat) (k : BitVec 36) : KSlot :=
  let hole : BitVec 18432 := (BitVec.allOnes 36).setWidth 18432 <<< (36 * i)
  { s with knots := (s.knots &&& ~~~hole) ||| (k.setWidth 18432 <<< (36 * i)) }

def emptySlot (block : Nat) : KSlot :=
  { block := block, valid := 0, knots := 0, recs := 0, recsValid := false, filling := true }

/-! ### Walks (R87 to R89) -/

/-- A walk fault: stage 2?, level, cause, media address of the entry. -/
structure WFault where
  stage2 : Bool
  level : Nat
  cause : Nat
  addr : Nat
  deriving DecidableEq, Repr, Inhabited

/-- The other entries of an entry's line that pass their check, for the line fill (R95). -/
def lineOthers (addr index : Nat) (data : Line) : List (Nat × BitVec 64) :=
  let k := addr % 64 / 8
  ((List.range 8).filter (· ≠ k)).map fun j => (index - k + j, BitVec.ofNat 64 (lineField data (8 * j) 8))

/-- The stage-1 walk of an LD and extent index (R87): the extent entry, or the fault; caches filled. -/
def Dev.walk1 (d : Dev) (ld ext : Nat) (errs : List Burst) (r : Reader) : Except WFault (BitVec 64) × Dev :=
  let a1 := d.s1Base ld + ext / 512 * 8
  let (found, d) := match d.xcLook .s1l1 ld (ext / 512) with
    | some (v, d) => (some v, d)
    | none => (none, d)
  let (dir, v1, errs, d) := match found with
    | some v => (v, Verdict.clean, errs, d)
    | none =>
      let (j, d) := d.readTable (a1 / 64) (errs.headD 0) r
      (BitVec.ofNat 64 (lineField j.data (a1 % 64) 8), j.v, errs.drop 1, d)
  match d.dirCause v1 dir with
  | some c => (.error ⟨false, 1, c, a1⟩, d)
  | none =>
    let a2 := dirTable dir + ext % 512 * 8
    let (j, d) := d.readTable (a2 / 64) (errs.headD 0) r
    let e := BitVec.ofNat 64 (lineField j.data (a2 % 64) 8)
    match d.extCause j.v e with
    | some c => (.error ⟨false, 2, c, a2⟩, d)
    | none =>
      let d := if found.isNone then d.xcFill .s1l1 ld (ext / 512) dir a1 else d
      let d := each (lineOthers a2 ext j.data) d fun d (i, x) =>
        if (d.extCause j.v x).isNone then d.xcBeside .s1l2 ld i x (a2 / 64 * 64 + i % 8 * 8) else d
      (.ok e, d.xcFill .s1l2 ld ext e a2)

/-- What stage 2 resolves a pool page to (R87): a direct frame, or a knot with its moving mark. -/
structure Found2 where
  entry : BitVec 64
  knot : Option (BitVec 36)
  moving : Bool := false
  /-- token of the moving knot -/
  token : Nat := 0
  dir : Nat := 0
  deriving DecidableEq, Repr, Inhabited

/-- A knot checked, and resolved through its move record when it is moving (R81, R82). -/
def Dev.resolveKnot (d : Dev) (s : BitVec 64) (k : BitVec 36) (addr : Nat) (err : Burst) (r : Reader) : Except WFault Found2 × Dev :=
  if d.knotBad k then (.error ⟨true, 3, 2, addr⟩, d)
  else if knotState k = 3 then
    let t := knotBody k
    let ra := d.moveRec t
    if bits t 23 16 ≠ 0 || !d.inTable ra 16 then (.error ⟨true, 3, 2, addr⟩, d)
    else
      let (j, d) := d.readTable (ra / 64) err r
      let rec_ := lineField j.data (ra % 64) 16
      let k' := BitVec.ofNat 36 rec_
      if !j.v.good then (.error ⟨true, 3, 0, ra⟩, d)
      else if knotState k' = 3 || d.knotBad k' || bits rec_ 127 72 ≠ 0 then (.error ⟨true, 3, 2, ra⟩, d)
      else (.ok { entry := s, knot := some k', moving := true, token := t, dir := knotClass k }, d)
  else (.ok { entry := s, knot := some k }, d)

/-- Read lines of a leaf block into its slot; the first that judges uncorrectable or stored poison ends it with its
number (R92). -/
def Dev.kcFillLines (d : Dev) (block : Nat) : List Nat → List Burst → Reader → Option Nat × Dev
  | [], _, _ => (none, d)
  | l :: t, errs, r =>
    let (j, d) := d.readTable (block / 64 + l) (errs.headD 0) r
    if !j.v.good then (some l, d)
    else
      let s := (d.kslot block).getD (emptySlot block)
      (d.kcPut (s.setLine l j.data)).kcFillLines block t (errs.drop 1) r

/-- The S2L2 entry of a pool page by the extent cache or a walk of levels 1 and 2 (R87), with the errors left. -/
def Dev.walkS2 (d : Dev) (page : Nat) (errs : List Burst) (r : Reader) : Except WFault (BitVec 64) × List Burst × Dev :=
  match d.xcLook .s2l2 0 (page / 512) with
  | some (s, d) => (.ok s, errs, d)
  | none =>
    let a1 := d.s2Base + page / 262144 * 8
    let (found, d) := match d.xcLook .s2l1 0 (page / 262144) with
      | some (v, d) => (some v, d)
      | none => (none, d)
    let (dir, v1, errs, d) := match found with
      | some v => (v, Verdict.clean, errs, d)
      | none =>
        let (j, d) := d.readTable (a1 / 64) (errs.headD 0) r
        (BitVec.ofNat 64 (lineField j.data (a1 % 64) 8), j.v, errs.drop 1, d)
    match d.dirCause v1 dir with
    | some c => (.error ⟨true, 1, c, a1⟩, errs, d)
    | none =>
      let a2 := dirTable dir + page / 512 % 512 * 8
      let (j, d) := d.readTable (a2 / 64) (errs.headD 0) r
      let s := BitVec.ofNat 64 (lineField j.data (a2 % 64) 8)
      match d.s2Cause j.v s with
      | some c => (.error ⟨true, 2, c, a2⟩, errs.drop 1, d)
      | none =>
        let d := if found.isNone then d.xcFill .s2l1 0 (page / 262144) dir a1 else d
        let d := each (lineOthers a2 (page / 512) j.data) d fun d (i, x) =>
          if (d.s2Cause j.v x).isNone then d.xcBeside .s2l2 0 i x (a2 / 64 * 64 + i % 8 * 8) else d
        (.ok s, errs.drop 1, d.xcFill .s2l2 0 (page / 512) s a2)

/-- A knot that faults stays in no cache: its lines leave the slot (R89). -/
def Dev.kcForget (d : Dev) (block i : Nat) : Dev :=
  { d with xl.kc := d.xl.kc.map fun s =>
      if s.block = block then { s with valid := (knotLines i).foldl (fun v l => if v / 2 ^ l % 2 = 1 then v - 2 ^ l else v) s.valid } else s }

/-- The stage-2 walk of a pool page (R87). The record of a knot that crosses two lines names the first where the format is broken, and
the line that failed where one did (DESIGN CHOICE, log 44). -/
def Dev.walk2 (d : Dev) (page : Nat) (errs : List Burst) (r : Reader) : Except WFault Found2 × Dev :=
  match d.walkS2 page errs r with
  | (.error f, _, d) => (.error f, d)
  | (.ok s, errs, d) =>
    if s2Direct s then (.ok { entry := s, knot := none }, d)
    else
      let block := s2Addr s
      let i := page % 512
      let ka := block + 36 * i / 512 * 64
      let need := match d.kslot block with
        | some sl => if sl.has i then [] else knotLines i
        | none => knotLines i
      match d.kcFillLines block need errs r with
      | (some l, d) => (.error ⟨true, 3, 0, block + 64 * l⟩, d)
      | (none, d) =>
        let k := ((d.kslot block).map (·.knot i)).getD 0
        match d.resolveKnot s k ka ((errs.drop need.length).headD 0) r with
        | (.error f, d) => (.error f, d.kcForget block i)
        | ok => ok

/-- Stage 1 without a walk: first-level buffer, then extent cache (R87). -/
def Dev.look1 (d : Dev) (buf ld ext : Nat) : Option (BitVec 64 × Dev) :=
  match d.flbLook buf ld ext with
  | some r => some r
  | none =>
    match d.xcLook .s1l2 ld ext with
    | some (e, d) => some (e, d.flbFill buf ld ext e)
    | none => none

/-- Stage 2 without a walk: extent cache, then knot cache (R87). A cached knot whose move record breaks R82 is walked again. -/
def Dev.look2 (d : Dev) (page : Nat) : Option (Found2 × Dev) :=
  match d.xcLook .s2l2 0 (page / 512) with
  | none => none
  | some (s, d) =>
    if s2Direct s then some ({ entry := s, knot := none }, d)
    else
      match d.kslot (s2Addr s) with
      | none => none
      | some sl =>
        let i := page % 512
        if !sl.has i then none
        else
          match d.resolveKnot s (sl.knot i) (s2Addr s) 0 {} with
          | (.ok f, _) => some (f, d.kcPut sl)
          | (.error _, _) => none

/-! ### Knot changes (R92, R96) -/

/-- Write a knot through in one step: the lines of it that the cached block holds as whole lines of that block, and any other line of it
with its bits changed in media (R92, R104). -/
def Dev.setKnot (d : Dev) (block i : Nat) (k : BitVec 36) : Dev :=
  let s := (d.kslot block).getD (emptySlot block)
  let cached := (knotLines i).any fun l => s.valid.getLsbD l
  let s := (knotLines i).foldl (fun s l => if s.valid.getLsbD l then s else s.withLine l (d.tableData (block / 64 + l))) s
  let s := s.withKnot i k
  each (knotLines i) (if cached then d.kcPut s else d) fun d l =>
    d.writeTable (block / 64 + l) ((s.knots >>> (512 * l)).setWidth 512)

/-- The knot of a page as the cache or media holds it. -/
def Dev.knotAt (d : Dev) (block i : Nat) : BitVec 36 :=
  match d.kslot block with
  | some s => if s.has i then s.knot i else BitVec.ofNat 36 (d.bitsAt block (36 * i) 36)
  | none => BitVec.ofNat 36 (d.bitsAt block (36 * i) 36)

/-- The line or lines of a knot judge good, or the slot holds them (R491). -/
def Dev.knotReadable (d : Dev) (block i : Nat) : Bool :=
  match d.kslot block with
  | some s => s.has i || (knotLines i).all fun l => (d.judgeTable (block / 64 + l) 0).v.good
  | none => (knotLines i).all fun l => (d.judgeTable (block / 64 + l) 0).v.good

/-- Firmware's compare-and-set (R96): the change is made if the knot is still the one expected. -/
def Dev.casKnot (d : Dev) (block i : Nat) (expected new : BitVec 36) : Bool × Dev :=
  if d.knotAt block i = expected then (true, d.setKnot block i new) else (false, d)

/-! ### Tiering records (R119, R120) -/

def recHeat (r : Nat) : Nat := bits r 7 0
def recIdle (r : Nat) : Nat := bits r 14 8
def recIncompressible (r : Nat) : Bool := bit r 15
def recQueued (r : Nat) : Bool := bit r 16
def mkRec (heat idle : Nat) (incompressible queued : Bool) : Nat :=
  min 255 heat + min 127 idle * 256 + flag incompressible * 2 ^ 15 + flag queued * 2 ^ 16

/-- The record of a page in a slot. -/
def KSlot.recOf (s : KSlot) (i : Nat) : Nat := bits s.recs.toNat (20 * i + 19) (20 * i)

def KSlot.setRec (s : KSlot) (i v : Nat) : KSlot :=
  let hole : BitVec 10240 := (BitVec.allOnes 20).setWidth 10240 <<< (20 * i)
  { s with recs := (s.recs &&& ~~~hole) ||| (BitVec.ofNat 10240 (v % 2 ^ 20) <<< (20 * i)) }

/-- A page's record, in its slot or its unit. -/
def Dev.tierRec (d : Dev) (block i : Nat) : Nat :=
  match d.kslot block with
  | some s => if s.recsValid then s.recOf i else d.bitsAt (block - unitLeaf + unitRecords) (20 * i) 20
  | none => d.bitsAt (block - unitLeaf + unitRecords) (20 * i) 20

/-- Store a page's record where it is held. -/
def Dev.setTierRec (d : Dev) (block i v : Nat) : Dev :=
  match d.kslot block with
  | some s =>
    if s.recsValid then { d with xl.kc := d.xl.kc.map fun x => if x.block = block then x.setRec i v else x }
    else d.writeBits (block - unitLeaf + unitRecords) (20 * i) 20 v
  | none => d.writeBits (block - unitLeaf + unitRecords) (20 * i) 20 v

/-- Heat of one access that stage 2 resolves through a page's knot: 1 more on Heat, Idle 0, Incompressible cleared by a
write. An access whose record line is not yet in the cache leaves it unchanged (R120). -/
def Dev.heat (d : Dev) (block i : Nat) (write : Bool) : Dev :=
  match d.kslot block with
  | some s =>
    if s.recsValid then
      let r := s.recOf i
      d.setTierRec block i (mkRec (recHeat r + 1) 0 (recIncompressible r && !write) (recQueued r))
    else d
  | none => d

end Sys2Proof.Machine
end

