-- ==== Sys2Proof/Machine/Links.lean ====
section
/-! DEFINITION. Sending on a Tether port: routing by reach range (R319, R320), credits (R306), transit entries (R303),
sequenced flits with replay (R298, R307, R308), tags, and failing a message that finds no route. -/

namespace Sys2Proof

/-- Request-channel messages (R301). -/
def MsgOp.isRequest : MsgOp → Bool
  | .rd | .wr | .wrp | .inv | .evct | .snp | .mgmt => true
  | _ => false

/-- Class of a message. -/
def Msg.cls (m : Msg) : Nat := m.label.toNat / 64

/-- Pool unit (2 MiB) a message is routed by: of its line, or of Dest's first address for SNP and index-mode MGMT (R320). -/
def Msg.unit2m (m : Msg) : Nat :=
  match m.op with
  | .snp | .mgmt => m.dest.toNat * 2 ^ 23
  | _ => m.line.toNat / 32768

/-- Device index a message goes to. -/
def Msg.target (m : Msg) : Nat := m.unit2m / 2 ^ 23

end Sys2Proof

namespace Sys2Proof.Machine

open Sys2Proof

def Dev.tport (d : Dev) (p : Nat) : TPort := d.chain.ports.val p {}
def Dev.setTport (d : Dev) (p : Nat) (x : TPort) : Dev := { d with chain.ports := d.chain.ports.put p x }
def Dev.modTport (d : Dev) (p : Nat) (f : TPort → TPort) : Dev := d.setTport p (f (d.tport p))

/-- Device-scope Tether event k of port t (R417). -/
def evTether (t k : Nat) : Nat := 0x188 + 8 * t + k

/-- Reserved minimums and shared parts of the Tether pools (R26, R303, R306). -/
def txMins : List Nat := [32, 16, 8, 8]
def txShared : Nat := 192
def poolMins : List Nat := [64, 32, 16, 16]
def poolShared : Nat := 384
def transitMins : List Nat := [256, 128, 64, 64]
def transitShared : Nat := 1536

/-- Buffers of the partner's receive pool this side holds, by class: debits less returns (R306). -/
def TPort.mirror (x : TPort) : List Nat := (List.range 4).map fun c => x.debits.val c 0 - x.returned.val c 0

/-- The header of the next flit of a port, naming CrTotal of the next class in turn (R298). -/
def TPort.header (x : TPort) (kind : Nat) (cls : Nat) (nak mark : Bool) : FlitHdr :=
  { seq := x.seq, ack := x.ne - 1, crTotal := BitVec.ofNat 10 (x.crTotal.val x.crNext 0), crClass := BitVec.ofNat 2 x.crNext
    kind := BitVec.ofNat 2 kind, flitClass := if kind = 1 then BitVec.ofNat 2 cls else 0, nak := nak, mark := mark }

/-- The marker that a flit started now carries (R324). -/
def Dev.marker (d : Dev) : Marker :=
  { beat := d.clk.beat, depth := BitVec.ofNat 5 d.chain.depth, synced := d.chain.synced
    lag := BitVec.ofNat 8 (d.clk.clk * 4) }

/-- Send an idle flit with the port's acknowledgement, and a Nak where asked (R298, R307). -/
def Dev.sendIdle (d : Dev) (p : Nat) (nak : Bool := false) : Dev :=
  let x := d.tport p
  let h := x.header 0 0 nak x.mark
  let d := d.setTport p { x with crNext := (x.crNext + 1) % 4, mark := false }
  (d.say (.ctl p (.idle h (if x.mark then some d.marker else none)))).bump (evTether p 0)

/-- Send one message in a sequenced flit of its own (log 18), and hold the flit for replay. -/
def Dev.sendFlit (d : Dev) (p : Nat) (m : Msg) : Dev :=
  let x := d.tport p
  let req := m.op.isRequest
  let f : Flit := { hdr := x.header (if req then 1 else 2) m.cls false x.mark
                    marker := if x.mark then some d.marker else none, msgs := [m] }
  let x := { x with
    seq := x.seq + 1, replay := x.replay ++ [f], crNext := (x.crNext + 1) % 4, mark := false
    debits := if req then x.debits.put m.cls (x.debits.val m.cls 0 + 1) else x.debits }
  ((d.setTport p x).say (.flit p f)).bump (evTether p 0)

/-- A link that is up: active, or in a retrain or a width reset, which do not take it down and whose messages wait (R293, R310). Standby
and doze carry no traffic (R315, R317, R453). -/
def TPort.up (x : TPort) : Bool := (x.st = .active || x.kept) && x.st ≠ .standby && !x.standby && x.doze = 0

/-- A port that sends sequenced flits now. -/
def TPort.canSend (x : TPort) : Bool := x.st = .active && x.replay.length < 256

/-- Whether a message may go now: a response needs nothing; a request needs a buffer of the partner's pool and a transit
entry of its class (R303, R306). -/
def TPort.maySend (x : TPort) (m : Msg) : Bool :=
  x.canSend && (!m.op.isRequest ||
    (grants poolMins poolShared x.mirror m.cls &&
     grants transitMins transitShared ((List.range 4).map fun c => (x.transit.filter (·.cls = c)).length) m.cls))

/-- The transit entry of a request-channel message sent on a port (R303). -/
def transitOf (m : Msg) (from_ : Option Nat) : Transit :=
  { origin := m.origin, tag := m.tag, dir := m.dir, braid := m.braid, from_ := from_, op := m.op, cls := m.cls }

/-- Send one message that may go: a request-channel message takes its transit entry (R303). -/
def Dev.launch (d : Dev) (p : Nat) (m : Msg) (from_ : Option Nat) : Dev :=
  (if m.op.isRequest then d.modTport p fun x => { x with transit := x.transit ++ [transitOf m from_] } else d).sendFlit p m

/-- Send every waiting message that may go, in order; within a channel and class none passes another (R302). -/
def Dev.pumpList (d : Dev) (p : Nat) : List (Msg × Option Nat) → List (Bool × Nat) → List (Msg × Option Nat) → Dev
  | [], _, left => d.modTport p fun x => { x with tx := left }
  | (m, from_) :: t, blocked, left =>
    let key := (m.op.isRequest, m.cls)
    if blocked.contains key || !(d.tport p).maySend m then d.pumpList p t (key :: blocked) (left ++ [(m, from_)])
    else (d.launch p m from_).pumpList p t blocked left

/-- Send what a port can send now. -/
def Dev.pump (d : Dev) (p : Nat) : Dev := d.pumpList p (d.tport p).tx [] []

/-- Queue a message on a port and send what can go. -/
def Dev.sendMsg (d : Dev) (p : Nat) (m : Msg) (from_ : Option Nat := none) : Dev :=
  (d.modTport p fun x => { x with tx := x.tx ++ [(m, from_)] }).pump p

/-- The transmit queue of a port grants an entry to a class (R25, R26). -/
def TPort.txRoom (x : TPort) (c : Nat) : Bool :=
  grants txMins (txShared - x.withdrawn) ((List.range 4).map fun k => (x.tx.filter fun e => e.1.op.isRequest && e.1.cls = k).length) c

/-! ### Routing (R319, R320) -/

/-- The reach ranges of a port that are valid and contain a 2 MiB pool unit, as values. -/
def Dev.ranges (d : Dev) (p unit2m : Nat) : List Nat :=
  ((List.range 16).map fun n => d.setting idReachRange (p * 16 + n)).filter fun v =>
    rrValid v && rrBase v ≤ unit2m && unit2m < rrBase v + rrCount v

/-- Candidate ports for a pool address unit, other than the arrival port, with the fewest hops of a matching range. -/
def Dev.routes (d : Dev) (unit2m : Nat) (q : Option Nat) : List (Nat × Nat) :=
  (List.range 3).filterMap fun p =>
    if some p = q || !(d.tport p).up then none
    else
      match (d.ranges p unit2m).map rrHops with
      | [] => none
      | h :: t => some (t.foldl min h, p)

/-- The port a message takes: fewest hops, then the lower number (R320). -/
def Dev.route (d : Dev) (unit2m : Nat) (q : Option Nat) : Option Nat :=
  (((d.routes unit2m q).mergeSort fun a b => a.1 < b.1 || (a.1 = b.1 && a.2 ≤ b.2)).head?).map (·.2)

/-- The two ports of a braid to a pool unit, the lower-numbered first (R320). -/
def Dev.braidPorts (d : Dev) (unit2m : Nat) : Option (Nat × Nat) :=
  match (List.range 3).filter fun p => (d.tport p).up && (d.ranges p unit2m).any rrBraid with
  | a :: b :: _ => some (a, b)
  | _ => none

/-- Event NO_ROUTE: counted, recorded once per 4,096 boundaries for each origin (R320). -/
def Dev.noRoute (d : Dev) (addr origin : Nat) : Dev :=
  (d.bump 0x1A0).raiseAt origin 0x116 .failure none (addr + origin * 2 ^ 49)

/-- A tag that is free (R303). -/
def Dev.freeTag (d : Dev) : Option Nat := lowestFree d.chain.tags.keys 65536

/-- A response that answers a request message (R301). -/
def rspTo (m : Msg) (status level load : Nat) (data : Option Line) : Msg :=
  { op := .rsp, label := m.label, tag := m.tag, origin := m.origin, braid := m.braid, dir := m.dir
    status := BitVec.ofNat 3 status, level := BitVec.ofNat 3 level, load := BitVec.ofNat 2 load, data := data.getD 0 }

end Sys2Proof.Machine
end

