-- ==== Sys2Proof/Machine/Topo.lean ====
section
/-! DEFINITION. Hop counts and link costs over the topology of the last walk (spec/02 R58, R59; spec/11 R305, R316, R492; spec/13 R379). -/

namespace Sys2Proof.Machine

open Sys2Proof

/-- The partners of a device in the topology. -/
def neighbours (t : List Topo) (i : Nat) : List Nat :=
  match t.find? (·.index = i) with
  | some r => (r.links.map (·.1)).filter (· < 32)
  | none => []

/-- Devices reached from one, with their links away from it, over paths that keep out of another. -/
def hopsFrom (t : List Topo) (out src : Nat) : List (Nat × Nat) :=
  (List.range 32).foldl (fun seen n =>
    let next := ((seen.filter (·.2 = n)).flatMap fun e => neighbours t e.1).eraseDups.filter fun i => i ≠ out && !seen.any (·.1 = i)
    seen ++ next.map fun i => (i, n + 1)) [(src, 0)]

/-- Links between two devices over paths that keep out of a third (32: through none). -/
def hopsBetween (t : List Topo) (out a b : Nat) : Option Nat := ((hopsFrom t out a).find? (·.1 = b)).map (·.2)

/-- Hop cost h of a link at a rate: 40 ns at 128 GT/s, 56 ns at 64 GT/s (R59). -/
def hopCost (rate : Nat) : Nat := if rate = 2 then 40 else 56

/-- Sum of the hop costs of a shortest path between two devices, at each device by the lower-numbered port on a tie (R320); none: the
topology holds no such path. -/
def pathCost (t : List Topo) (out dest : Nat) : Nat → Nat → Option Nat
  | 0, _ => none
  | fuel + 1, i =>
    if i = dest then some 0
    else
      match t.find? (·.index = i), hopsBetween t out i dest with
      | some r, some (k + 1) =>
        match r.links.zipIdx.find? fun e => e.1.1 < 32 && e.1.1 ≠ out && hopsBetween t out e.1.1 dest = some k with
        | some (l, p) => (pathCost t out dest fuel l.1).map (· + hopCost (r.rates.getD p 0))
        | none => none
      | _, _ => none

/-- Links from this device to another through one of its ports (R492). -/
def Dev.hopsThrough (d : Dev) (p dev : Nat) : Option Nat :=
  match d.chain.topo.find? (·.index = d.chain.index) with
  | some r =>
    let q := (r.links.getD p (32, false)).1
    if q < 32 then (hopsBetween d.chain.topo d.chain.index q dev).map (· + 1) else none
  | none => none

/-- Hop costs of the links from this device to another through one of its ports, the first at the rate the port runs at; none: the
topology holds no path. -/
def Dev.costThrough (d : Dev) (p dev : Nat) : Option Nat :=
  match d.chain.topo.find? (·.index = d.chain.index) with
  | some r =>
    let q := (r.links.getD p (32, false)).1
    if q < 32 then (pathCost d.chain.topo d.chain.index dev 32 q).map (· + hopCost (d.tport p).rate) else none
  | none => none

/-- The other enumerated devices of the chain, by the last walk. -/
def Dev.others (d : Dev) : List Nat := (d.chain.topo.map (·.index)).filter (· ≠ d.chain.index)

/-- A shortest route between two other enumerated devices crosses this one, and none keeps out of it (R449). -/
def Dev.crossed (d : Dev) : Bool :=
  d.others.any fun a => d.others.any fun b =>
    a ≠ b && match hopsBetween d.chain.topo 32 a b with
      | none => false
      | some n => match hopsBetween d.chain.topo d.chain.index a b with | some k => n < k | none => true

end Sys2Proof.Machine
end

