-- ==== Sys2Proof/Machine/Egress.lean ====
section
/-! DEFINITION. How a request ends (spec/01 R22, R27; spec/02 R56, R58 to R60, R63, R69 to R71; spec/09 R256, R261, R262,
R264): its response at egress or on its Tether port, DevLoad, latencies and the counters of R417. -/

namespace Sys2Proof.Machine

open Sys2Proof

/-! ### Requests by number -/

def Dev.req (d : Dev) (id : Nat) : Option Req := d.path.reqs.find? (·.id = id)

/-- Replace a request by its new form. -/
def Dev.setReq (d : Dev) (q : Req) : Dev := { d with path.reqs := replaceFirst (·.id = q.id) (fun _ => q) d.path.reqs }

/-- Move a request to a stage. -/
def Dev.stageReq (d : Dev) (q : Req) (st : Stage) : Dev := d.setReq { q with stage := st }

/-- Whether the class of a label is C0, C1, C2 or C3, as its number (R48). -/
def Req.cls (q : Req) : Nat := q.label.toNat / 64

def Req.isRead (q : Req) : Bool := q.op = .read
def Req.isWrite (q : Req) : Bool := q.op = .write

/-- A partial write: its mask does not cover the line (R32). -/
def Req.partial_ (q : Req) : Bool := q.mask ≠ BitVec.allOnes 64

/-- The LD of a host request. -/
def Req.hostLd (q : Req) : Option Nat := match q.src with | .host _ ld _ => some ld | _ => none

/-- The LD in whose counters a request counts: a host request's LD, the LD that owns a job; 32, no LD's, for the management controller's
jobs (R489) and for a forwarded request (log 43). -/
def Req.counts (q : Req) : Nat :=
  match q.src with
  | .host _ ld _ => ld
  | .job _ => q.owner
  | _ => 32

/-- The LD whose DPA a request names at stage 1 (R40, R87). -/
def Req.dpaLd (q : Req) : Option Nat :=
  match q.src with
  | .host _ ld _ => some ld
  | .job _ => some q.ldn
  | _ => none

/-- Requester of R390. -/
def Req.who (q : Req) : BitVec 8 :=
  match q.src with
  | .host _ ld _ => reqLd ld
  | .peer _ o _ _ _ => reqDev o.toNat
  | _ => reqNone

/-- Requester of R211: an LD, 32 + i a forwarding device, 64 the service engines. -/
def Req.hammer (q : Req) : Nat :=
  match q.src with
  | .host _ ld _ => ld
  | .peer _ o _ _ _ => 32 + o.toNat
  | _ => 64

/-- Pool page of a request past stage 1. -/
def Req.page (q : Req) : Nat := q.pool / 4096 % 2 ^ 32

/-- Line of the page a request addresses. -/
def Req.lineIdx (q : Req) : Nat := q.pool / 64 % 64

/-- Fabric clocks since the cold boot (log 5). -/
def Dev.now (d : Dev) : Nat := d.clk.bnd * 500 + d.clk.clk

/-! ### Regions and their use (R23, R69, R121, R124) -/

/-- Number of a region on this device: LD * 16 + entry, above 512 for the region of another device's LD. -/
def regionKey (r : Region) : Nat := (match r.home with | none => 0 | some h => (h + 1) * 512) + r.ld * 16 + r.entry

/-- The region that a DPA of an LD of this device falls in (R23). -/
def Dev.regionAt (d : Dev) (ld dpa : Nat) : Option Region :=
  d.conf.regions.find? fun r => r.home.isNone && r.ld = ld && r.base ≤ dpa / mib2 && dpa / mib2 < r.base + r.size

def Dev.regionOf (d : Dev) (key : Nat) : Option Region := d.conf.regions.find? fun r => regionKey r = key

def Dev.elastic (d : Dev) (key : Nat) : Elastic := d.tiers.elastic.val key {}

def Dev.modElastic (d : Dev) (key : Nat) (f : Elastic → Elastic) : Dev :=
  { d with tiers.elastic := d.tiers.elastic.put key (f (d.elastic key)) }

/-- The region a pool page of this device belongs to, if any. -/
def Dev.pageRegion (d : Dev) (page : Nat) : Option Nat := (d.tiers.owner.look (page / 512)).map (·.1)

/-- Load state that pressure raises a request's to (R69, R124): of the region of a knotted page of this device. -/
def Dev.pressLoad (d : Dev) (q : Req) : Nat :=
  if q.pool / 2 ^ 44 ≠ d.chain.index || !q.attr.knotted then 0
  else match (d.pageRegion q.page).bind d.regionOf with
    | some r =>
      let e := d.elastic (regionKey r)
      if r.kind ≠ .elastic then 0 else if e.st = .exhausted then 3 else if e.st = .pressed || e.asked then 2 else 0
    | none => 0

/-- DevLoad of a request: the highest of its group's state, of what came with the target's response, and of its region's
pressure (R69, R70). -/
def Dev.devLoad (d : Dev) (q : Req) : BitVec 2 :=
  BitVec.ofNat 2 (max (max (d.path.load.val q.label.toNat 0) q.load.toNat) (d.pressLoad q))

/-! ### Bounds (R58, R59) -/

/-- Links to a device by its route, and the port it takes (R320); none: no route. -/
def Dev.routeTo (d : Dev) (dev : Nat) : Option (Nat × Nat) :=
  ((d.routes (dev * 2 ^ 23) none).mergeSort fun a b => a.1 < b.1 || (a.1 = b.1 && a.2 ≤ b.2)).head?

/-- What the links crossed to a device by one of its ports add to a bound: 2 x h for each, by the topology of the last walk; where that
holds no such path, the range's Hops at the port's own rate (R58; log 20). -/
def Dev.portCost (d : Dev) (p dev hops : Nat) : Nat := 2 * (d.costThrough p dev).getD (hops * hopCost (d.tport p).rate)

/-- What the links of the route to a device add to a bound (R58, R61). -/
def Dev.routeCost (d : Dev) (dev : Nat) : Option Nat :=
  if dev = d.chain.index then some 0
  else (d.routeTo dev).map fun e => d.portCost e.2 dev e.1

/-- Local bound of an access to a direct extent in ns (R58, R60): reads 500 reflected, 1,000 otherwise and 1,250 on a
channel under integration; writes 250. -/
def Dev.localBound (d : Dev) (reflected write : Bool) (media : Nat) : Nat :=
  if write then 250 else if reflected then 500
  else if d.dram.wide.contains (media / 256 % 8) then 1250 else 1000

/-- The bound a request's response is held against: none unless it carries C0 (R58, R60). The links are those of the route that it was
sent by, whatever has become of them since. -/
def Dev.boundOf (d : Dev) (q : Req) : Nat :=
  if q.cls = 0 && q.hostLd.isSome then d.localBound q.attr.reflected (!q.isRead) q.media + q.cost else 0

/-! ### Egress (R56, R256, R262, R264) -/

/-- A response that goes in the DRS credit class. -/
def Resp.drs (r : Resp) : Bool := match r.answer with | .cmp => false | _ => true

def HLink.hasCredit (x : HLink) (r : Resp) : Bool := if r.drs then 0 < x.drs else 0 < x.ndr

/-- A link that carries flits: up, and in no width reset (R292). -/
def HLink.carries (x : HLink) : Bool := x.st = .up && x.widthReset.isNone

/-- The next response a link can send: the oldest C0 one with a credit, else the oldest other. A BIConflictAck passes none
before it (R56, R236, R256). -/
def HLink.pick (x : HLink) : Option Owed :=
  let can (o : Owed) : Bool := x.hasCredit o.r && (!o.r.conflictAck || x.egress.head? = some o)
  match x.egress.find? fun o => o.r.cls = .c0 && can o with
  | some o => some o
  | none => x.egress.find? can

/-- What a response looks like at the pins: on a link in viral, poison for a read, Severe Overload and the viral
indication (R262, R264). -/
def HLink.shape (x : HLink) (r : Resp) : Resp :=
  if x.viral then { r with viral := true, load := 3, answer := if r.drs then .poison else .cmp } else r

/-- Count a response as it leaves (R417, R60). -/
def Dev.countResp (d : Dev) (o : Owed) (r : Resp) : Dev :=
  match r.ld with
  | none => d
  | some ld =>
    let ns := (d.now - o.start) / 2
    let d := if r.answer = .poison then d.bumpLd ld 0x1C else d
    let d := if o.read then d.bumpLd ld (0x18 + clsNum r.cls) ns else d
    if o.bound ≠ 0 && o.bound < ns then d.bumpLd ld 3 else d

/-- Send what a link's S2M credits let out (R56, R256). -/
def Dev.flushEgress : Nat → Dev → Nat → Dev
  | 0, d, _ => d
  | n + 1, d, l =>
    let x := d.link l
    match (if x.carries then x.pick else none) with
    | none => d
    | some o =>
      let r := x.shape o.r
      let x := { x with
        egress := x.egress.erase o
        drs := if o.r.drs then x.drs - 1 else x.drs, ndr := if o.r.drs then x.ndr else x.ndr - 1 }
      Dev.flushEgress n (((d.setLink l x).say (.resp (linkOf l) r)).countResp o r) l

/-- Send snoops against BISnp credits; a link in viral sends none (R256, R262). -/
def Dev.flushSnoops : Nat → Dev → Nat → Dev
  | 0, d, _ => d
  | n + 1, d, l =>
    let x := d.link l
    match x.snoops with
    | [] => d
    | s :: t =>
      if !x.carries || x.bisnp = 0 || x.viral then d
      else Dev.flushSnoops n ((d.setLink l { x with snoops := t, bisnp := x.bisnp - 1 }).say (.snoop (linkOf l) s)) l

/-- Everything a link can send now. -/
def Dev.flush (d : Dev) (l : Nat) : Dev :=
  let d := Dev.flushEgress (d.link l).egress.length d l
  Dev.flushSnoops (d.link l).snoops.length d l

/-- Hand a response to a link's egress. A link that is down discards it (R274). -/
def Dev.owe (d : Dev) (l : Nat) (o : Owed) : Dev :=
  if (d.link l).st = .down then d else (d.modLink l fun x => { x with egress := x.egress ++ [o] }).flush l

/-- An answer that ingress gives itself, with Light (R23, R250, R264): poison for a read, else a completion. -/
def Dev.answerAtIngress (d : Dev) (l : Nat) (ld : Option Nat) (tag : BitVec 16) (read : Bool) : Dev :=
  d.owe l { r := { ld := ld, tag := tag, cls := .c3, answer := if read then .poison else .cmp, load := 0, viral := false }
            start := d.now }

/-! ### Ends of requests -/

/-- A request has passed the line station or has its response: it holds up no change's drain (R98). -/
def Dev.passed (d : Dev) (id : Nat) : Dev :=
  { d with xl.changes := d.xl.changes.map fun c => { c with waits := c.waits.filter (· ≠ id) } }

/-- A channel that a C2 group's request used in the beat (R64). -/
def Dev.useChannel (d : Dev) (label : Label) (ch : Nat) : Dev :=
  if label.toNat / 64 = 2 then
    let g := label.toNat % 64
    let c := d.path.c2.val g { r := 16 * d.setting idC2Cap g }
    if c.used.contains ch then d else { d with path.c2 := d.path.c2.put g { c with used := ch :: c.used } }
  else d

/-- A completion of a C1 group: latency from acceptance or admission, and whose request it was (R63, R71). -/
def Dev.completeC1 (d : Dev) (q : Req) : Dev :=
  if q.cls = 1 then
    let g := q.label.toNat % 64
    let c := d.path.c1.val g {}
    let ns := (d.now - (q.atBnd * 500 + q.atClk)) / 2
    { d with path.c1 := d.path.c1.put g { c with done := c.done ++ [(d.clk.bnd, ns, q.counts)] } }
  else d

/-- Level of the channel that served a request, for its RSP (R62). -/
def Dev.levelOf (d : Dev) (q : Req) : Nat :=
  if q.media = 0 && q.attr.knotted && knotState q.knot = 0 then 0 else d.path.level.val (q.media / 256 % 8) 0

/-- Response that a request on a Tether port gets (R38, R301). -/
def peerRsp (label : Label) (origin : BitVec 5) (tag : BitVec 16) (braid dir : Bool) (status level : Nat)
    (load : BitVec 2) (data : Option Line) : Msg :=
  { op := .rsp, label := label, tag := tag, origin := origin, braid := braid, dir := dir, status := BitVec.ofNat 3 status
    level := BitVec.ofNat 3 level, load := load, data := data.getD 0 }

/-- End a request with its answer. A failed one answers a peer with Status 001b (R301); the response owed for a request whose
link has gone down since is discarded (R274, R314). -/
def Dev.answer (d : Dev) (q : Req) (a : Answer) (failed : Bool := false) : Dev :=
  let d := ({ d with path.reqs := d.path.reqs.filter (·.id ≠ q.id) }.passed q.id).completeC1 q
  match q.src with
  | .host l ld tag =>
    if q.dead then d
    else d.owe (linkNum l)
      { r := { ld := some ld, tag := tag, cls := labelCls q.label, answer := a, load := d.devLoad q, viral := false }
        start := q.atBnd * 500 + q.atClk, bound := d.boundOf q, read := q.isRead }
  | .peer p origin tag braid dir =>
    if q.dead then d
    else
    let (st, data) := match a with
      | .data x => (0, some x)
      | .poison => (1, none)
      | .cmp => (if failed then 1 else 0, none)
    d.sendMsg p (peerRsp q.label origin tag braid dir st (d.levelOf q) (d.devLoad q) data)
  | .job slot =>
    let d : Dev := { d with jobs.slots := d.jobs.slots.map fun e => if e.1 = slot then (e.1, { e.2 with buf := some a, sent := false }) else e }
    d.doorbell 0x381
  | .scrub => d

/-- A stage cannot carry a request out: poison for a read, a completion with no effect for the rest (R22). -/
def Dev.fail (d : Dev) (q : Req) : Dev := d.answer q (if q.isRead then .poison else .cmp) true

end Sys2Proof.Machine
end

