-- ==== Sys2Proof/Machine/Space.lean ====
section
/-! DEFINITION. Media space (spec/04_tiers_and_capacity.md): the free lists of frames, slots and range units (R109, R112,
R117, R176), commitments and quotas (R107, R111, R121), unplaced writes (R127), and freeing a page's space (R130). -/

namespace Sys2Proof.Machine

open Sys2Proof

/-! ### Ownership of knotted ranges -/

/-- A region of the device whose pages are charged under a key. -/
def Dev.regionKind (d : Dev) (key : Nat) : RKind := ((d.regionOf key).map (·.kind)).getD .firm

/-- Ranges of a region on this device, as pool 2 MiB ranges. -/
def Dev.regionRanges (d : Dev) (key : Nat) : List Nat := (d.tiers.owner.filter fun e => e.2.1 = key).map (·.1)

/-- C_d of an elastic region in 2 MiB units: its V_d on this device x 16 / RatioFloor, rounded up (R121). -/
def Dev.quotaUnits (d : Dev) (r : Region) : Nat :=
  ceilDiv (r.floor.getD d.chain.index 0 * 16) (d.setting idRatioFloor (r.ld * 16 + r.entry))

/-- Places of extents whose media is not taken yet stand from here on: commitments count them, frames and ranges lie below. -/
def placeLater : Nat := 2 ^ 40

/-- Ranges of firm and shared knotted regions that are committed on this device and not opened yet, one for every member of a shared set
(R111, R112). -/
def Dev.unopened (d : Dev) : Nat :=
  ((d.host.lds.flatMap fun e => e.2.exts.flatMap fun x =>
    match d.regionAt e.1 (x.start * mib2) with
    | some r => if x.dev = d.chain.index && r.knotted && r.kind ≠ .elastic then x.place.filter (placeLater ≤ ·) else []
    | none => []).eraseDups).length

/-- Frames that firm and shared knotted regions have committed and not yet used (R112). -/
def Dev.reserve (d : Dev) : Nat :=
  512 * d.unopened + (d.conf.regions.filter fun r => r.knotted && r.kind ≠ .elastic).foldl
    (fun n r => n + ((d.regionRanges (regionKey r)).length * 512 - (d.elastic (regionKey r)).use / 4)) 0

/-! ### Free lists (R109, R112; the lowest free number, log 7) -/

/-- 4 KiB frames of the frame area. -/
def Dev.frameTotal (d : Dev) : Nat := d.shadeBase / 4096

/-- A 4 KiB frame taken out of the free lists by a drain (R222). -/
def Dev.frameOut (d : Dev) (n : Nat) : Bool := d.tiers.outOf.any fun e => e.1 ≤ n && n < e.1 + e.2

def Dev.frameFree (d : Dev) (n : Nat) : Bool :=
  n < d.frameTotal && !d.tiers.frames.contains n && !d.tiers.big.contains (n / 512) && !d.frameOut n

/-- 4 KiB frames that a drain took out of a run of them. -/
def Dev.outWithin (d : Dev) (first n : Nat) : Nat :=
  d.tiers.outOf.foldl (fun m e => m + (min (first + n) (e.1 + e.2) - max first e.1)) 0

/-- Frames taken or out of the free lists, counted in 4 KiB frames, each once. -/
def Dev.frameUsed (d : Dev) : Nat :=
  (d.tiers.frames.filter fun n => !d.frameOut n).length + d.tiers.big.foldl (fun m b => m + (512 - d.outWithin (512 * b) 512)) 0 +
    d.outWithin 0 d.frameTotal

/-- Free 4 KiB frames of the frame area. -/
def Dev.framesLeft (d : Dev) : Nat := d.frameTotal - d.frameUsed

/-- The first n from k on, within fuel steps, for which p holds. -/
def firstFrom (p : Nat → Bool) : Nat → Nat → Option Nat
  | 0, _ => none
  | n + 1, k => if p k then some k else firstFrom p n (k + 1)

/-- The lowest free 4 KiB frame. -/
def Dev.freeFrame (d : Dev) : Option Nat := firstFrom d.frameFree (d.frameUsed + 1) 0

/-- A whole 2 MiB frame is free. -/
def Dev.bigFree (d : Dev) (n : Nat) : Bool :=
  512 * (n + 1) ≤ d.frameTotal && !d.tiers.big.contains n && !(d.tiers.frames.any fun f => f / 512 = n) &&
    !(d.tiers.outOf.any fun e => e.1 < 512 * (n + 1) && 512 * n < e.1 + e.2)

/-- The lowest free 2 MiB frame; an even pair of two for a reflected extent (R203). -/
def Dev.freeBig (d : Dev) (reflected : Bool) : Option Nat :=
  let fuel := d.tiers.frames.length + d.tiers.big.length + d.tiers.outOf.foldl (fun n e => n + e.2 / 512 + 2) 0 + 1
  if reflected then (firstFrom (fun p => d.bigFree (2 * p) && d.bigFree (2 * p + 1)) fuel 0).map (2 * ·)
  else firstFrom d.bigFree fuel 0

/-- k + 1 consecutive slots of one group are free from slot s on (R117). -/
def Dev.slotsFree (d : Dev) (k s : Nat) : Bool :=
  s % 4 + k < 4 && s + k < d.shadeSlots && (List.range (k + 1)).all (fun i => !d.tiers.slots.contains (s + i)) &&
    !(d.frameOut ((d.shadeBase + s * kib) / 4096))

/-- The lowest run of k + 1 free slots within a group. -/
def Dev.freeSlots (d : Dev) (k : Nat) : Option Nat :=
  firstFrom (d.slotsFree k) (4 * d.tiers.slots.length + 4 + d.tiers.outOf.foldl (fun n e => n + 4 * e.2) 0) 0

def Dev.takeFrame (d : Dev) (n : Nat) : Dev := { d with tiers.frames := n :: d.tiers.frames }
def Dev.takeSlots (d : Dev) (k s : Nat) : Dev :=
  { d with tiers.slots := (List.range (k + 1)).map (s + ·) ++ d.tiers.slots }

/-- Entries of the write buffer for which p holds are gone with their accesses; a rank copy's entries stay. -/
def Dev.dropWrites (d : Dev) (p : Wb → Bool) : Dev :=
  let out (w : Wb) : Bool := p w && (match w.kind with | .rankCopy _ => false | _ => true)
  let ids := (d.line.wb.filter out).map (·.id)
  { d with
    line.wb := d.line.wb.filter fun w => !out w
    dram.accs := d.dram.accs.filter fun a => match a.kind with | .merge w | .write w | .rewrite w => !ids.contains w | _ => true }

/-- What the write buffer holds of a page goes with the page. -/
def Dev.dropPage (d : Dev) (page : Nat) : Dev := d.dropWrites fun w => w.attr.knotted && w.page = page

/-- 2 MiB frames a direct extent at frame n takes: a reflected one the pair (R203). -/
def bigFrames (n : Nat) (reflected : Bool) : List Nat := if reflected then [n / 2 * 2, n / 2 * 2 + 1] else [n]

def Dev.takeBig (d : Dev) (n : Nat) (reflected : Bool) : Dev :=
  { d with tiers.big := bigFrames n reflected ++ d.tiers.big }
def Dev.freeBigFrame (d : Dev) (n : Nat) (reflected : Bool) : Dev :=
  { d with tiers.big := d.tiers.big.filter fun f => !(bigFrames n reflected).contains f }.dropWrites fun w =>
    !w.attr.knotted && (bigFrames n reflected).contains (w.line / 32768)

/-- KiB that a knot's space takes: 4 for a bright frame, k + 1 for shade slots (R121). -/
def knotKib (k : BitVec 36) : Nat :=
  match knotState k with | 1 => 4 | 2 => knotClass k + 1 | _ => 0

/-- Return a knot's frame or slots to the free lists. -/
def Dev.freeKnot (d : Dev) (k : BitVec 36) : Dev :=
  match knotState k with
  | 1 => { d with tiers.frames := d.tiers.frames.filter (· ≠ knotBody k) }
  | 2 => { d with tiers.slots := d.tiers.slots.filter fun s => !(knotBody k ≤ s && s ≤ knotBody k + knotClass k) }
  | _ => d

/-- Media line of line i of a page at a bright or raw knot. -/
def Dev.knotLine (d : Dev) (k : BitVec 36) (i : Nat) : Nat :=
  if knotState k = 1 then knotBody k * 64 + i else (d.shadeBase + knotBody k * kib) / 64 + i

/-! ### Range units (R176) -/

/-- Range units of the table area. -/
def Dev.unitTotal (d : Dev) : Nat := d.setting idKnotReach 0 * 512

/-- The unit a new knotted range takes: the lowest free one for a sealed range, below 4,194,304; the highest for any other
(R176). -/
def Dev.freeUnit (d : Dev) (sealed_ : Bool) : Option Nat :=
  let used := d.tiers.units.map (·.2)
  let n := used.length + 1
  if sealed_ then (firstFree used n 0).filter fun u => u < min d.unitTotal 4194304
  else if d.unitTotal = 0 then none
  else (firstFrom (fun i => !used.contains (d.unitTotal - 1 - i)) (min n d.unitTotal) 0).map fun i => d.unitTotal - 1 - i

/-! ### Charging (R121, R127) -/

def Dev.use (d : Dev) (key : Nat) (n : Nat) : Dev := d.modElastic key fun e => { e with use := e.use + n }
def Dev.credit (d : Dev) (key : Nat) (n : Nat) : Dev := d.modElastic key fun e => { e with use := e.use - n }

/-- Whether a charge of n KiB stays within an elastic region's C_d; firm and shared regions have no quota (R107, R121). -/
def Dev.within (d : Dev) (key n : Nat) : Bool :=
  match d.regionOf key with
  | some r => r.kind ≠ .elastic || (d.elastic key).use + n ≤ d.quotaUnits r * 2048
  | none => true

/-- Why a write finds no space (R127, codes of R391). -/
inductive NoSpace | quota | space
  deriving DecidableEq, Repr, Inhabited

/-- Frame or slot group for one whole page: a frame, for an elastic page only beyond the reserve, else for an elastic page
a free slot group as raw (R30, R112, R118). -/
def Dev.pageSpace (d : Dev) (elastic : Bool) : Option (BitVec 36) :=
  match (if elastic && d.framesLeft ≤ d.reserve then none else d.freeFrame) with
  | some f => some (brightKnot f)
  | none => if elastic then (d.freeSlots 3).map (shadeKnot 3) else none

/-- Take a knot's frame or slots out of the free lists. -/
def Dev.takeKnot (d : Dev) (k : BitVec 36) : Dev :=
  if knotState k = 1 then d.takeFrame (knotBody k) else d.takeSlots (knotClass k) (knotBody k)

/-- Charge n KiB to a page's region and take space for the whole page (R30, R118). -/
def Dev.allocPage (d : Dev) (page n : Nat) : Except NoSpace (BitVec 36 × Dev) :=
  let key := d.pageRegion page
  let elastic := match key with | some k => d.regionKind k = .elastic | none => false
  if !(match key with | some k => d.within k n | none => true) then .error .quota
  else
    (d.pageSpace elastic).elim (.error .space) fun k =>
      .ok (k, (match key with | some r => d.use r n | none => d).takeKnot k)

/-! ### Unplaced writes (R124, R127, R391, R405) -/

/-- LD and entry of a region key. -/
def keyLd (key : Nat) : Nat := key % 512 / 16
def keyEntry (key : Nat) : Nat := key % 16

/-- Raise the CAPACITY_EXHAUSTED record of a region, of its own last lost line: the count of lines lost stands as the record's window
count (R127; log 80). -/
def Dev.capacityRecord (d : Dev) (key lines : Nat) : Dev :=
  let r := d.faultRec 0x0F .failure 0xA00 0 (some (keyLd key))
  let r := match (d.elastic key).lastLost with
    | some (beat, detail, cause) => { r with beat := beat, detail := BitVec.ofNat 128 detail, cap := some (d.chain.index, cause) }
    | none => r
  (d.record { r with window := BitVec.ofNat 32 lines }).modElastic key fun e =>
    { e with lastRec := some d.clk.bnd, lostSince := 0 }

/-- An unplaced write: its line is lost, the event is counted and reported, the region is marked for Exhausted, and a
record is raised at once when none was in the last 4,096 boundaries (R127). -/
def Dev.unplaced (d : Dev) (page idx : Nat) (why : NoSpace) (label : Label) (who : BitVec 8) : Dev :=
  let key := (d.pageRegion page).getD 0
  let code := match why with | .quota => 1 | .space => 2
  let d := (d.markLost page (1 <<< idx)).bump 0x1A2
  let detail := page + keyEntry key * 2 ^ 32 + keyLd key * 2 ^ 36
  let d := d.faultEvent 0xA00 code detail label who
  let d := d.modElastic key fun e => { e with unplaced := true, lastLost := some (d.clk.beat, detail, code) }
  match (d.elastic key).lastRec with
  | some b => if b + 4096 ≤ d.clk.bnd then d.capacityRecord key ((d.elastic key).lostSince + 1)
              else d.modElastic key fun e => { e with lostSince := e.lostSince + 1 }
  | none => d.capacityRecord key 1

/-- CAPACITY_RECORD_INTERVAL: 4,096 boundaries after a region's record, further lost lines raise one more (R127). -/
def Dev.capacityInterval (d : Dev) (ld entry : Nat) : Dev :=
  let key := ld * 16 + entry
  let e := d.elastic key
  match e.lastRec with
  | some b => if b + 4096 ≤ d.clk.bnd && 0 < e.lostSince then d.capacityRecord key e.lostSince else d
  | none => d

/-! ### Pages -/

/-- Drop staged sub-blocks and mark decodes of a knot stale, in the step that changes it (R143). -/
def Dev.unstage (d : Dev) (k : BitVec 36) : Dev :=
  if knotState k = 2 then
    { d with
      prism.staging := d.prism.staging.filter fun s => s.first ≠ knotBody k
      prism.decodes := d.prism.decodes.map fun c => if c.knot = k then { c with stale := true } else c }
  else d

/-- Change a page's knot, with what the change drops (R92, R143). -/
def Dev.changeKnot (d : Dev) (block page : Nat) (old new : BitVec 36) : Dev :=
  (d.setKnot block (page % 512) new).unstage old

/-- Attributes that a knotted S2L2 entry gives (R83, R110). -/
def s2Attr (s : BitVec 64) : Attr :=
  { prot := protOf (s2Prot s), key := s2Key s, shared := s2Shared s, reflected := s2Refl s, knotted := !s2Direct s
    base := if s2Direct s then 0 else s2Addr s - unitLeaf }

/-- The S2L2 entry of a pool page as media holds it, if its directory entry and itself are valid. -/
def Dev.s2At (d : Dev) (page : Nat) : Option (BitVec 64) :=
  let dir := d.entryAt (d.s2Base + page / 262144 * 8)
  if dirValid dir then
    let s := d.entryAt (dirTable dir + page / 512 % 512 * 8)
    if s2Valid s then some s else none
  else none

/-- Reset of a page (R116, R130): minors and, for a sealed page, Major; record zeroed; knot zero with its space freed and
credited; loss entry cleared. -/
def Dev.resetPage (d : Dev) (a : Attr) (page : Nat) : Dev :=
  let block := a.base + unitLeaf
  let k := d.knotAt block (page % 512)
  let d := (((d.dropPage page).resetHeader a page).setTierRec block (page % 512) 0).changeKnot block page k zeroKnot
  let d := match d.pageRegion page with | some key => d.credit key (knotKib k) | none => d
  (d.freeKnot k).clearLost page (BitVec.allOnes 64)

/-- A page whose knot cannot be read (R491): every line lost, a walk-fault record raised by the caller, its space held. -/
def Dev.stickPage (d : Dev) (page : Nat) : Dev :=
  let d := d.markLost page (BitVec.allOnes 64)
  if d.tiers.stuck.contains page then d else { d with tiers.stuck := d.tiers.stuck ++ [page] }

/-- What keeps a page's knot from being read, as its walk fault names it: an uncorrectable or poisoned line, a break of R81 or R82; of the
knot, or of its move record (R82, R88, R491). -/
def Dev.knotFails (d : Dev) (a : Attr) (page : Nat) : Option WFault :=
  let block := a.base + unitLeaf
  let i := page % 512
  let first := block + 36 * i / 512 * 64
  if !d.knotReadable block i then
    let bad := (knotLines i).find? fun l => !(d.judgeTable (block / 64 + l) 0).v.good
    some { stage2 := true, level := 3, cause := 0, addr := (bad.map fun l => block + l * 64).getD first }
  else
    let k := d.knotAt block i
    let ra := d.moveRec (knotBody k)
    if d.knotBad k then some { stage2 := true, level := 3, cause := 2, addr := first }
    else if knotState k ≠ 3 then none
    else if bits (knotBody k) 23 16 ≠ 0 || !d.inTable ra 16 then some { stage2 := true, level := 3, cause := 2, addr := first }
    else
      let j := d.judgeTable (ra / 64) 0
      let r := lineField j.data (ra % 64) 16
      let k' := BitVec.ofNat 36 r
      if !j.v.good then some { stage2 := true, level := 3, cause := 0, addr := ra }
      else if knotState k' = 3 || d.knotBad k' || bits r 127 72 ≠ 0 then some { stage2 := true, level := 3, cause := 2, addr := ra }
      else none

/-- A knot that a release, SANITIZE or MIGRATE can take: readable, and within R81 and R82 (R491). -/
def Dev.knotTakes (d : Dev) (a : Attr) (page : Nat) : Bool := (d.knotFails a page).isNone

/-- The walk fault of a knot that cannot be taken. -/
def Dev.knotFault (d : Dev) (a : Attr) (page : Nat) : WFault :=
  (d.knotFails a page).getD { stage2 := true, level := 3, cause := 2, addr := a.base + unitLeaf }

end Sys2Proof.Machine
end

