-- ==== Sys2Proof/Machine/Station.lean ====
section
/-! DEFINITION. The line station: the write buffer and the order of accesses to one line (spec/01 R31 to R35), reads with
their judgment (R163 to R165, R207), page headers (R115, R116, R178), the accesses it puts to the channels' schedulers
(R26, R207) and the writes it places (R165, R171, R194, R195, R220, R361). -/

namespace Sys2Proof.Machine

open Sys2Proof

/-! ### Bytes of a line -/

/-- A line with FFh in every byte a mask names. -/
def maskLine (m : BitVec 64) : Line :=
  BitVec.ofNat 512 (leNat ((List.range 64).map fun i => if m.getLsbD i then 0xFF else 0))

/-- The masked bytes of `new` over `old` (R32). -/
def mergeBytes (old new : Line) (m : BitVec 64) : Line := (old &&& ~~~(maskLine m)) ||| (new &&& maskLine m)

/-! ### Bindings (R160, R195) -/

/-- Whether a line stands in DRAM under the old key: a conversion entry of it has not issued (R195). What is written ahead of that entry
is enciphered under the old key too, since the entry's own read deciphers under it (R35; DEDUCED, log 78). -/
def Dev.oldKey (d : Dev) (n : Nat) : Bool :=
  (d.wbOn n).any fun w => match w.kind with | .convert _ => true | _ => false

/-- Key of a line with its attributes: by its re-key register (R195). -/
def Dev.keyOf (d : Dev) (a : Attr) (n page : Nat) (old : Bool := false) : Nat :=
  if a.knotted then d.lineKeyId a (page / 512) (page % 512) old else d.lineKeyId a (n / 32768) (n / 64 % 512) old

/-- Binding of media line n (R160): of a page line under a minor, or of an image line. -/
def Dev.bindOf (d : Dev) (a : Attr) (n page minor : Nat) (image : Option Nat) (old : Bool := false) : Bind :=
  let key := d.keyOf a n page old
  match a.prot with
  | .plain => .plain (n * 64)
  | .veiled => .veiled (n * 64) key
  | .sealed =>
    let major := hdrMajor (d.header a.base page)
    match image with
    | some i => .sealed page (64 + i) 0 key major
    | none => .sealed page (n % 64) minor key major

/-- Writes of media line n that its minor counts already while their entries have not issued (R171, R361; log 77). -/
def Dev.lag (d : Dev) (n : Nat) : Nat := ((d.wbOn n).filter (·.counted)).length

/-- Minor under which DRAM holds media line n of a knotted page. -/
def Dev.minorOf (d : Dev) (a : Attr) (n page : Nat) : Nat :=
  if a.knotted then hdrMinor (d.header a.base page) (n % 64) - d.lag n else 1

/-- Key ID whose state stands against a request: FAILED fails sealed regions, RETIRING every one (R174, R188). -/
def Dev.keyDead (d : Dev) (a : Attr) (n page : Nat) : Bool :=
  a.prot ≠ .plain &&
    match (d.key (d.keyOf a n page)).st with
    | .retiring => true
    | .failed => a.prot = .sealed
    | _ => false

/-! ### The write buffer (R31 to R35) -/

/-- What the write buffer holds of a line: its content where a full entry gives it, with the masked entries after it laid over (none
inside: stored poison); and the bytes that masked entries lay over what the entries before them, or DRAM, hold. -/
structure Held where
  base : Option (Option Line) := none
  /-- a masked entry stands after the last full one, if any -/
  masked : Bool := false
  data : Line := 0
  mask : BitVec 64 := 0
  poison : Bool := false
  /-- the line's entries up to the last full one -/
  behind : List Nat := []
  /-- all of the line's entries -/
  seen : List Nat := []
  deriving DecidableEq, Repr, Inhabited

/-- One entry more, in acceptance order (R34). A rewrite is a full write (R164). Entries with an empty mask carry no data of their own,
and a read goes before them (R36, R195, R220). -/
def Held.add (h : Held) (w : Wb) : Held :=
  let h := { h with seen := h.seen ++ [w.id] }
  match w.kind with
  | .full | .rewrite => { base := some (if w.poison then none else some w.data), behind := h.seen, seen := h.seen }
  | .masked =>
    { h with
      base := h.base.map fun b => b.bind fun x => if w.poison then none else some (mergeBytes x w.data w.mask)
      masked := true, data := mergeBytes h.data w.data w.mask, mask := h.mask ||| w.mask, poison := h.poison || w.poison }
  | _ => h

/-- What the write buffer holds of media line n. -/
def Dev.held (d : Dev) (n : Nat) : Held := (d.wbOn n).foldl Held.add {}

/-- A line's data from DRAM, or zeros, with the masked bytes of the write buffer over it (R33, R34). -/
def Held.onto (h : Held) (x : Option Line) : Answer :=
  match x with
  | some x => if h.poison then .poison else .data (mergeBytes x h.data h.mask)
  | none => .poison

/-- An access of the write buffer's entry stands at a scheduler. -/
def Dev.wbBusy (d : Dev) (id : Nat) : Bool :=
  d.dram.accs.any fun a => match a.kind with | .merge w | .write w | .rewrite w => w = id | _ => false

/-- The write-buffer entry of a write of a request at media line n. -/
def Req.entry (q : Req) (id n : Nat) (copies : List Nat) : Wb :=
  { id := id, line := n, kind := if q.partial_ then .masked else .full, data := q.data, mask := q.mask, poison := q.poison
    label := q.label, attr := q.attr, page := q.page, admitBnd := q.admitBnd, promoted := q.promoted, step := q.step
    left := copies, who := q.hammer }

/-! ### Accesses at the schedulers (R26, R205, R207) -/

def schedMins : List Nat := [64, 32, 16, 16]
def schedShared : Nat := 128

/-- Occupancy of a channel's queue (R62). -/
def Dev.queueOf (d : Dev) (ch : Nat) : List Acc := d.dram.accs.filter fun a => a.ch = ch && !a.issued

def Dev.schedRoom (d : Dev) (ch c : Nat) : Bool := grants schedMins schedShared (occupancy ((d.queueOf ch).map (·.label))) c

/-- A rank of a channel is refused for a copy read of a reflected line, one in a maintenance run of a training window too (R207, R439). -/
def Dev.copyBad (d : Dev) (n c : Nat) : Bool :=
  let (_, p) := d.locate n true c
  let lr := d.logicalRank n true c
  let x := d.chan p.ch
  let run := x.training && x.plan.getD (x.slot.val p.sub 0) .unmarked = .maint
  x.window || run || (x.ppr.any (·.1 = rowKey p)) || (d.erasedAt p).isSome || (x.copy.map (·.src)) = some lr || x.draining.contains lr || x.retired.contains lr

/-- The copy a read of a reflected line goes to (R207). -/
def Dev.pickCopy (d : Dev) (n : Nat) : Nat :=
  match [0, 1].filter fun c => !d.copyBad n c with
  | [c] => c
  | [] => 0
  | _ =>
    let len (c : Nat) : Nat := (d.queueOf (d.locate n true c).2.ch).length
    if len 1 < len 0 then 1 else 0

/-- An access of media line n, in its copy, where it lies at the moment. -/
def Dev.accOf (d : Dev) (id : Nat) (kind : AKind) (n : Nat) (a : Attr) (copy : Nat) (src : Bool) (label : Label) (who step : Nat)
    (promoted : Bool) (admitBnd : Nat) : Acc :=
  let (_, p) := d.locate n a.reflected copy src
  { id := id, kind := kind, line := n, ch := p.ch, rank := p.rank, sub := p.sub, bank := p.bank, row := p.row, label := label
    who := who, step := step, promoted := promoted, admitBnd := admitBnd, copy := copy, reflected := a.reflected }

def Dev.addAcc (d : Dev) (a : Acc) : Dev := ({ d with dram.accs := d.dram.accs ++ [a] }.useChannel a.label a.ch)

def Dev.dropAcc (d : Dev) (id : Nat) : Dev := { d with dram.accs := d.dram.accs.filter (·.id ≠ id) }

/-! ### Headers on demand (R178) -/

/-- The fetch of a page's header, under way or started now. -/
def Dev.wantHeader (d : Dev) (a : Attr) (page : Nat) : Nat × Dev :=
  let n := headerLine a.base page
  match d.line.fetches.find? (·.line = n) with
  | some f => (f.id, d)
  | none =>
    let (id, d) := d.fresh
    (id, { d with line.fetches := d.line.fetches ++ [{ id := id, line := n, attr := a, page := page }] })

/-! ### Reads (R34, R35, R116, R142, R222) -/

/-- Count an LD-scope event of a request: for its host's LD, for the LD that owns its job, or for no LD (R417, R489; log 43). -/
def Dev.countLd (d : Dev) (q : Req) (e : Nat) : Dev := d.bumpLd q.counts e

/-- The staged sub-block that holds a line of a coded page, made the most recent of its engine's part (R143). -/
def Dev.stagedHit (d : Dev) (first sub : Nat) : Option (List Byte × Dev) :=
  (d.prism.staging.find? fun s => s.first = first && s.sub = sub).map fun s =>
    (s.data, { d with prism.staging := s :: d.prism.staging.filter fun t => t ≠ s })

/-- The engine a sub-block's decode goes to: its home engine, or the next in service (R490). -/
def Dev.engineFor (d : Dev) (first sub : Nat) : Nat :=
  let h := (first + sub) % 8
  (((List.range 8).map fun k => (h + k) % 8).find? fun e => !d.prism.retired.contains e).getD h

/-- A read of a coded shade page's line: from staging, or in the decode of its sub-block (R142). -/
def Dev.readShade (d : Dev) (q : Req) (cls first : Nat) : Dev :=
  let sub := q.lineIdx / 4
  let d := d.countLd q 0x1E
  match d.stagedHit first sub with
  | some (x, d) =>
    (d.bump 0x171).answer q (.data (BitVec.ofNat 512 (leNat (slice x (64 * (q.lineIdx % 4)) 64))))
  | none =>
    let k := shadeKnot cls first
    match d.prism.decodes.find? fun c => c.knot = k && c.sub = sub && c.page = q.page && !c.stale with
    | some c => d.stageReq q (.image c.id)
    | none =>
      let (id, d) := d.fresh
      let c : Decode :=
        { id := id, engine := d.engineFor first sub, page := q.page, knot := k, sub := sub, attr := q.attr, label := q.label
          who := q.hammer, from_ := q.who, step := q.step, promoted := q.promoted, admitBnd := q.admitBnd }
      { d with prism.decodes := d.prism.decodes ++ [c] }.stageReq q (.image id)

/-- A copy entry of the line's rank has not issued: an access of the line that is ordered before it goes to the source (R35, R220). -/
def Dev.fromSource (d : Dev) (n : Nat) (reflected : Bool) (copy : Nat) : Bool :=
  (d.wbOn n).any fun w => match w.kind with | .rankCopy _ => !reflected || w.left.contains copy | _ => false

/-- A read that needs DRAM: to the scheduler where its queue grants an entry, else it waits in the station. -/
def Dev.readDram (d : Dev) (q : Req) (n : Nat) : Dev :=
  if d.rankGone n q.attr.reflected 0 && (!q.attr.reflected || d.rankGone n true 1) then d.answer q .poison
  else
    let c := if q.attr.reflected then d.pickCopy n else 0
    let src := d.fromSource n q.attr.reflected c
    let h := d.held n
    let a := d.accOf 0 (.read q.id) n q.attr c src q.label q.hammer q.step q.promoted q.admitBnd
    if d.schedRoom a.ch q.cls then
      let (id, d) := d.fresh
      (d.addAcc { a with id := id, behind := h.behind }).setReq
        { q with stage := .sched, data := h.data, mask := h.mask, poison := h.poison }
    else d.stageReq q .lsWait

/-- A line that reads as zeros without a DRAM access (R116), masked entries laid over (R33). -/
def Dev.readZeros (d : Dev) (q : Req) (n : Nat) : Dev := (d.countLd q 0x1F).answer q ((d.held n).onto (some 0))

/-- A read at the line station, past the coherence home where its region is shared. A line with a full-write entry and no masked one after
it is answered from the entry; with a masked one the read goes to DRAM behind the full write, and the masked bytes are laid over (R34,
R35). A zero knot reads as zeros (R228). -/
def Dev.stationRead (d : Dev) (q : Req) : Dev :=
  let n := q.media / 64
  if d.keyDead q.attr n q.page || d.quarantined q.attr q.page then d.answer q .poison
  else if q.attr.knotted && knotState q.knot = 0 then (d.countLd q 0x1F).answer q (.data 0)
  else
    let h := d.held n
    match (if q.shade.isSome || h.masked then none else h.base) with
    | some (some x) => d.answer q (.data x)
    | some none => d.answer q .poison
    | none =>
      if q.attr.knotted && !d.headerCached q.attr q.page then
        let (f, d) := d.wantHeader q.attr q.page
        d.stageReq q (.header f)
      else if q.attr.knotted && hdrMinor (d.header q.attr.base q.page) q.lineIdx - d.lag n = 0 && (q.shade.isSome || h.base.isNone) then
        if q.shade.isSome then (d.countLd q 0x1F).answer q (.data 0) else d.readZeros q n
      else
        match q.shade with
        | some (cls, first) => d.readShade q cls first
        | none => d.readDram q n

/-! ### Writes (R29, R31, R32, R129, R183, R361, R362) -/

/-- The copy entry of a page or extent move that a line still has (R361). -/
def Dev.copyEntry (d : Dev) (n : Nat) : Option Wb :=
  (d.wbOn n).find? fun w => match w.kind with | .copy .. | .remote .. => true | _ => false

/-- Where a write to a moving page or extent also goes: the line's place in the destination, once its copy entry has issued
its destination write; none where nothing moves, the entry carries it, or its page is not copied yet (R361, R362). -/
def Dev.alsoAt (d : Dev) (q : Req) (n : Nat) : Option (Nat × Nat × Attr) :=
  if q.movingMark then
    match d.tiers.moves.find? fun m => m.page = q.page && m.placed with
    | some m => if m.dir = 0 && (d.copyEntry n).isNone then some (d.chain.index, d.knotLine m.dst (n % 64), q.attr) else none
    | none => none
  else if q.attr.knotted then none
  else
    match d.tiers.extMoves.find? fun e => (bigFrames e.2.src e.2.attr.reflected).contains (n / 32768) with
    | some (_, m) =>
      if n / 64 % 512 < m.cursor && (d.copyEntry n).isNone then
        some (m.dstDev, m.dst * 32768 + n % 32768, m.attr)
      else none
    | none => none

/-- The copy entry of a line carries a write accepted before its destination write issues (R361). -/
def Dev.carry (d : Dev) (q : Req) (n : Nat) : Dev :=
  match d.copyEntry n with
  | some w =>
    if q.partial_ then
      d.setWb { w with data := mergeBytes w.data q.data q.mask, mask := w.mask ||| q.mask, poison := w.poison || q.poison }
    else d.setWb { w with data := q.data, mask := BitVec.allOnes 64, poison := q.poison }
  | none => d

/-- Send a copy of a line to another device as a WR under a label; its RSP only frees the tag (R362). -/
def Dev.remoteWrite (d : Dev) (label : Label) (dev line : Nat) (data : Line) (mask : BitVec 64) (poison : Bool) : Dev :=
  match d.freeTag, d.route (dev * 2 ^ 23) none with
  | some t, some p =>
    let op : MsgOp := if mask = BitVec.allOnes 64 then .wr else .wrp
    { d with chain.tags := d.chain.tags.put t (.spent []) }.sendMsg p
      { op := op, label := label, tag := BitVec.ofNat 16 t, origin := BitVec.ofNat 5 d.chain.index
        line := BitVec.ofNat 43 (dev * 2 ^ 38 + line), data := data, mask := mask, poison := poison }
  | _, _ => d

/-- Place a write that the station accepts: in the write buffer, and where its page or extent moves also at the
destination. -/
def Dev.placeWrite (d : Dev) (q : Req) (n : Nat) : Dev :=
  let w := q.entry q.id n (d.copiesOf q.attr n)
  match d.alsoAt q n with
  | none => (d.carry q n).acceptWb w
  | some (dev, dest, a) =>
    if dev = d.chain.index then
      let (id, d) := d.fresh
      let other : Wb := { q.entry id dest (d.copiesOf a dest) with attr := a }
      if q.attr.knotted then (d.acceptWb { w with twin := some id }).acceptWb { other with twin := some w.id }
      else (d.acceptWb w).acceptWb other
    else (d.acceptWb w).remoteWrite q.label dev dest q.data q.mask q.poison

/-- Entries of the write buffer that a write takes: a second one where its page or extent moves on this device (R26, R361, R362). -/
def Dev.entriesFor (d : Dev) (q : Req) (n : Nat) : Nat :=
  match d.alsoAt q n with
  | some (dev, _, _) => if dev = d.chain.index then 2 else 1
  | none => 1

/-- A host's write whose link is in viral completes without effect, wherever it stands (R262). -/
def Dev.viralWrite (d : Dev) (q : Req) : Bool :=
  q.isWrite && (match q.src with | .host l _ _ => (d.link (linkNum l)).viral | _ => false)

/-- A write at the line station: completed when the write buffer takes it (R29). -/
def Dev.stationWrite (d : Dev) (q : Req) : Dev :=
  let n := q.media / 64
  if d.viralWrite q then d.answer q .cmp
  else if d.keyDead q.attr n q.page || d.quarantined q.attr q.page then d.fail q
  else if q.attr.knotted && d.isLost q.page q.lineIdx && q.partial_ then d.answer q .cmp
  else if (d.copiesOf q.attr n).isEmpty then d.answer q .cmp
  else if d.wbRoomFor q.label (d.entriesFor q n) then
    let d := d.placeWrite q n
    let d := if q.attr.knotted && !q.partial_ then d.clearLost q.page (1 <<< q.lineIdx) else d
    (if q.partial_ then d.countLd q 0x1D else d).answer q .cmp
  else d.stageReq q .lsWait

/-- A request whose turn at the line station has come. -/
def Dev.station (d : Dev) (q : Req) : Dev :=
  match q.op with
  | .read => d.stationRead q
  | .write => d.stationWrite q
  | _ => d.answer q .cmp

/-! ### Draining the write buffer (R31, R32, R172) -/

/-- An entry waits for its page's minor overflow: a sealed line at 127 (R172). -/
def Dev.overflowing (d : Dev) (w : Wb) : Bool :=
  w.attr.knotted && !w.counted && w.attr.prot = .sealed && (w.kind = .full || w.kind = .masked) &&
    hdrMinor (d.header w.attr.base w.page) (w.line % 64) = 127

/-- An entry whose minor, Major or base needs the page's header. -/
def Wb.needsHeader (w : Wb) : Bool :=
  w.attr.knotted && (match w.kind with | .rankCopy _ | .rewrite => false | _ => true)

/-- Ask a scheduler for an access of an entry; nothing where its queue has no room. -/
def Dev.askWb (d : Dev) (w : Wb) (kind : AKind) (n : Nat) (a : Attr) (copy : Nat) (src : Bool) : Dev :=
  let x := d.accOf 0 kind n a copy src w.label w.who w.step w.promoted w.admitBnd
  if d.schedRoom x.ch (w.label.toNat / 64) then
    let (id, d) := d.fresh
    d.addAcc { x with id := id }
  else d

/-- Home line of the shadow's copy of a media line, of one copy of a reflected line (R220). -/
def Dev.shadowLine (d : Dev) (n : Nat) (reflected : Bool) (copy shadow : Nat) : Nat :=
  let (ch, l) := if reflected then mirrorLine n copy else chanLine n
  let p := max 1 d.dram.lines
  homeLine ch (shadow * p + l % p)

/-- Give the first entry of a line its next access: the read of a merge, or the writes of its data. Entries behind it wait
(R34, R35). -/
def Dev.feedWb (d : Dev) (w : Wb) : Dev :=
  if d.wbBusy w.id || (d.wbOn w.line).head? ≠ some w then d
  else if w.needsHeader && !d.headerCached w.attr w.page then (d.wantHeader w.attr w.page).2
  else if d.overflowing w then d
  else
    match w.kind, w.phase with
    | .full, _ | _, .merged => each w.left d fun d c =>
        match w.kind with
        | .copy dest a _ => d.askWb w (.write w.id) dest a c false
        | .remote .. | .rankCopy _ => d.askWb w (.write w.id) w.line w.attr c false
        | _ => d.askWb w (.write w.id) w.line w.attr c (d.fromSource w.line w.attr.reflected c)
    | .rewrite, _ => each w.left d fun d c => d.askWb w (.rewrite w.id) w.line w.attr c (d.fromSource w.line w.attr.reflected c)
    | .copy .., .queued =>
      if w.attr.knotted && w.image.isNone && d.minorOf w.attr w.line w.page = 0 then
        d.setWb { w with phase := .merged, data := mergeBytes 0 w.data w.mask }
      else
        (d.setWb { w with phase := .reading }).askWb w (.merge w.id) w.line w.attr
          (if w.attr.reflected then d.pickCopy w.line else 0) false
    | .masked, .queued =>
      if d.minorOf w.attr w.line w.page = 0 then
        d.setWb { w with phase := .merged, data := mergeBytes 0 w.data w.mask }
      else (d.setWb { w with phase := .reading }).askWb w (.merge w.id) w.line w.attr (w.left.headD 0) false
    | .rankCopy _, .queued => (d.setWb { w with phase := .reading }).askWb w (.merge w.id) w.line w.attr (w.left.headD 0) true
    | _, .queued =>
      (d.setWb { w with phase := .reading }).askWb w (.merge w.id) w.line w.attr
        (if w.attr.reflected then d.pickCopy w.line else 0) false
    | _, .reading =>
      match w.kind with
      | .rankCopy _ => d.askWb w (.merge w.id) w.line w.attr (w.left.headD 0) true
      | _ => d.askWb w (.merge w.id) w.line w.attr (if w.attr.reflected then d.pickCopy w.line else 0) false

/-- Ask for what the write buffer can drain now, in acceptance order. -/
def Dev.feed (d : Dev) : Dev := each d.line.wb d fun d w => d.feedWb w

/-- A move's line is copied as stored poison: counted in Detail1 of its MIGRATE job (13 R370). -/
def Dev.poisonIn (d : Dev) (slot : Nat) : Dev :=
  { d with jobs.slots := d.jobs.slots.map fun e =>
      if e.1 = slot && e.2.kind = .migrate then (e.1, { e.2 with detail1 := e.2.detail1 + 1 }) else e }

def Dev.poisonMoved (d : Dev) (reg : Nat) : Dev :=
  match d.tiers.extMoves.look reg with | some x => d.poisonIn x.job | none => d

/-- Numbers of copy entries from here on are those of extent move registers. -/
def extentCopy : Nat := 2 ^ 64

def Dev.poisonCopied (d : Dev) (m : Nat) : Dev :=
  if extentCopy ≤ m then d.poisonMoved (m - extentCopy)
  else match d.tiers.moves.find? (·.id = m) with | some x => d.poisonIn x.slot | none => d

/-- Count a write of an entry in its line's minor, once for all its places (R115, R171). -/
def Dev.countMinor (d : Dev) (w : Wb) : Dev :=
  if !w.attr.knotted || w.counted then d
  else
    let d := d.placeMinor w.attr w.page (w.line % 64)
    match w.twin.bind fun t => d.line.wb.find? (·.id = t) with
    | some o => d.setWb { o with counted := true }
    | none => d

/-- The writes of a sealed line that its copy entry carries are counted as it issues, so that the destination holds the line under the
minor that they leave; past the top of the minor each goes to the destination too (R171, R361; log 77). -/
def Dev.countCarried (d : Dev) (w : Wb) (a : Attr) (dest : Nat) : Dev :=
  if !a.knotted || a.prot ≠ .sealed || w.image.isSome then d
  else
    let mine := (d.wbOn w.line).filter fun o => (o.kind = .full || o.kind = .masked) && !o.counted && o.twin.isNone
    each mine d fun d o =>
      if hdrMinor (d.header a.base w.page) (w.line % 64) < 127 then
        (d.placeMinor a w.page (w.line % 64)).setWb { o with counted := true }
      else
        let (id, d) := d.fresh
        (d.setWb { o with twin := some id }).addWb { o with id := id, line := dest, twin := some o.id }

/-- An entry whose line can take no write any more: its page is quarantined, or the header does not verify (R178, R183). -/
def Dev.entryFails (d : Dev) (w : Wb) : Bool × Dev :=
  if !w.needsHeader then (false, d)
  else
    let (good, d) := d.fetchHeader w.attr w.page []
    (!good || d.quarantined w.attr w.page, d)

/-- The write of an entry issues, in one copy: the line's bits with fresh protection, and for data of a write the line's
counter (R159, R165, R171). A line with a copy entry of its rank behind is written at the source (R35, R220). The entry is released
after its last copy (R31). -/
def Dev.issueWrite (d : Dev) (w : Wb) (copy : Nat) : Dev :=
  let first := w.left.head? = some copy || w.left.length = (if w.attr.reflected then 2 else 1)
  let (fails, d) := d.entryFails w
  let here := (d.locate w.line w.attr.reflected copy (d.fromSource w.line w.attr.reflected copy)).1
  let bind (d : Dev) (old : Bool) : Bind :=
    (d.dropWb w.id).bindOf w.attr w.line w.page ((d.dropWb w.id).minorOf w.attr w.line w.page) w.image old
  let d := match w.kind with
    | .full | .masked =>
      if fails then d
      else
        let d := d.countMinor w
        d.setBurst here (d.seal (bind d (d.oldKey w.line)) w.data w.poison)
    | .convert _ => if fails then d else d.setBurst here (d.seal (bind d false) w.data w.poison)
    | .copy dest a m =>
      let bad := w.poison || fails
      let d := if fails then d else d.countCarried w a dest
      let b := d.bindOf a dest w.page (d.minorOf a dest w.page) w.image
      (if bad && first then d.poisonCopied m else d).setBurst (d.locate dest a.reflected copy).1 (d.seal b w.data bad)
    | .remote dev dest reg =>
      (if w.poison then d.poisonMoved reg else d).remoteWrite w.label dev dest w.data (BitVec.allOnes 64) w.poison
    | .rankCopy ch =>
      match (d.chan ch).copy with
      | some r =>
        d.setBurst (d.shadowLine w.line w.attr.reflected copy r.shadow)
          (if w.poison then mkBurst (burstData w.burst) (burstWord w.burst 8 ^^^ poisonMark) else w.burst)
      | none => d
    | .rewrite => d.setBurst here (if w.poison then mkBurst (burstData w.burst) (burstWord w.burst 8 ^^^ poisonMark) else w.burst)
  let left := w.left.filter (· ≠ copy)
  if left.isEmpty then d.dropWb w.id else d.setWb { w with left := left }

/-! ### Whose line is this (R216, R217, R220: reads of media bits) -/

/-- Whose content a media line holds: its attributes, pool page, and image line of a coded page; none: no page, extent or
table holds it. Lines with minor 0 hold no data (R116). -/
def Dev.ownerOf (d : Dev) (n : Nat) : Option (Attr × Nat × Option Nat) :=
  if d.tableBase ≤ n * 64 then some ({}, 0, none)
  else
    let frame := n / 32768
    match (d.host.lds.flatMap fun e => e.2.exts.map fun x => (e.1, x)).find?
        fun e => e.2.dev = d.chain.index && (e.2.place.any fun f => f = frame) &&
          (match d.regionAt e.1 (e.2.start * mib2) with | some r => !r.knotted | none => false) with
    | some (ld, x) =>
      (d.regionAt ld (x.start * mib2)).map fun r =>
        let e := d.extEntry ld (x.start + x.place.idxOf frame)
        let e := if extValid e && extBase e = frame then extKey e else r.key
        ({ prot := r.prot, key := e, reflected := r.reflected }, 0, none)
    | none =>
      let inKnot (k : BitVec 36) : Option (Option Nat) :=
        if knotState k = 1 && knotBody k = n / 64 then some none
        else if knotState k = 2 then
          let a := (d.shadeBase + knotBody k * kib) / 64
          if a ≤ n && n < a + 16 * (knotClass k + 1) then some (if knotClass k = 3 then none else some (n - a)) else none
        else none
      d.tiers.units.findSome? fun e =>
        let base := d.unitAddr e.2
        let a := match d.s2At (e.1 * 512) with | some s => s2Attr s | none => { knotted := true, base := base }
        (List.range 512).findSome? fun i =>
          (inKnot (d.knotAt (base + unitLeaf) i)).bind fun im =>
            if im.isSome || d.minorOf a n (e.1 * 512 + i) ≠ 0 then some (a, e.1 * 512 + i, im) else none

/-- The line of a reflected extent, and its copy, that lies where R202 puts a media line (R203). -/
def mirrorOf (n : Nat) : Nat × Nat :=
  let (ch, l) := chanLine n
  (l / 4 / 2048 * 2 * 32768 + l / 4 % 2048 * 16 + ch % 4 * 4 + l % 4, ch / 4)

/-- Whether a range unit serves a sealed range. -/
def Dev.unitSealed (d : Dev) (u : Nat) : Bool :=
  match d.tiers.units.find? (·.2 = u) with
  | some e => (match d.s2At (e.1 * 512) with | some s => s2Prot s = 2 | none => false)
  | none => false

/-- What the place of a media line under R202 holds. -/
structure Content where
  bind : Bind
  attr : Attr := {}
  page : Nat := 0
  /-- the media line itself: another one for a line of a reflected extent -/
  line : Nat
  copy : Nat := 0
  deriving DecidableEq, Repr, Inhabited

/-- Content of the place of a media line, with what binds its check; none: no page, extent or table holds it, or its check hangs
on a tree counter that is not cached. -/
def Dev.contentAt (d : Dev) (n : Nat) : Option Content :=
  let (m, c) := mirrorOf n
  match d.ownerOf m with
  | some (a, page, im) =>
    if a.reflected then some { bind := d.bindOf a m page 1 im (d.oldKey m), attr := a, page := page, line := m, copy := c }
    else plainAt n
  | none => plainAt n
where
  plainAt (n : Nat) : Option Content :=
    match d.ownerOf n with
    | none => none
    | some (a, page, im) =>
      if n * 64 < d.tableBase then
        if a.reflected then none
        else some { bind := d.bindOf a n page (d.minorOf a n page) im (d.oldKey n), attr := a, page := page, line := n }
      else
        match d.nodeOfLine n with
        | none => some { bind := .plain (n * 64), line := n }
        | some (lvl, idx) =>
          if !d.line.treeReady || (lvl ≤ 2 && !d.unitSealed (idx / ([512, 64, 8].getD lvl 1))) then some { bind := .plain (n * 64), line := n }
          else (d.parentCounter lvl idx).map fun p => { bind := .tree (n * 64) p, line := n }

/-- The line that the place of a home line holds stands in the write buffer: scrub skips it (R216). -/
def Dev.scrubSkips (d : Dev) (h : Nat) : Bool :=
  match d.mediaOf h with
  | some n => (match d.contentAt n with | some c => !(d.wbOn c.line).isEmpty | none => !(d.wbOn n).isEmpty)
  | none => false

/-- Bring into the cache what the check of the place of media line n hangs on: the header of a sealed page, or the parent of a tree
line (R178). -/
def Dev.wantContent (d : Dev) (n : Nat) : Dev :=
  match d.contentAt n with
  | some c => if c.attr.knotted && c.attr.prot = .sealed then (d.fetchHeader c.attr c.page []).2 else d
  | none =>
    match d.nodeOfLine n with
    | some (lvl, idx) => if lvl < 10 then (d.fetchTree (lvl + 1) (idx / 8) []).2.ctEvict else d
    | none => d

/-- The judgment of a place's content as read at a home line with the bits `err` wrong (R163). -/
def Dev.judgeContent (d : Dev) (c : Content) (p : Place) (h : Nat) (err : Burst) : Judged :=
  let b := match c.bind with | .tree .. => d.treeBurst c.line h | _ => d.burstAt h
  judge (d.check c.bind) (d.erasedAt p) (b ^^^ err)

/-! ### Data that returns (R163 to R165, R207) -/

/-- The judgment of one copy of a media line as read with the bits `err` wrong. -/
def Dev.judgeLine (d : Dev) (b : Bind) (n : Nat) (reflected : Bool) (copy : Nat) (src : Bool) (err : Burst) : Judged × Place :=
  let (h, p) := d.locate n reflected copy src
  (if d.rankGone n reflected copy src then ⟨.lost true, 0⟩ else judge (d.check b) (d.erasedAt p) (d.burstAt h ^^^ err), p)

/-- Queue the rewrite of a repaired line in one copy under its binding (R164). -/
def Dev.rewrite (d : Dev) (b : Bind) (n : Nat) (a : Attr) (page copy : Nat) (j : Judged) (p : Place) : Dev :=
  d.rewriteAs (d.check b) n a page copy j p (d.decipher b j.data)

/-- Events of a judged data line (R164, R403). -/
def Dev.noteLine (d : Dev) (a : Attr) (n page : Nat) (p : Place) (v : Verdict) (label : Label) (who : BitVec 8) (scrub : Bool) : Dev :=
  d.noteVerdict n p v
    { label := label, who := who, scrub := scrub, key := if a.prot = .plain then none else some (d.keyOf a n page) }

/-- The General Media record of a host read that returns poison after an uncorrectable outcome (R404). -/
def Dev.mediaRecord (d : Dev) (q : Req) : Dev :=
  match q.hostLd with
  | some ld => d.record { type := 0, log := .failure, gm := true, ld := some ld, beat := d.clk.beat
                          detail := BitVec.ofNat 128 q.dpa }
  | none => d

/-- The UNCORRECTABLE record of a line that no read returned to a host (R405). -/
def Dev.uncorrectable (d : Dev) (p : Place) : Dev := d.raiseFault 0x0E .failure (srcRank p.ch p.rank) 0

/-- Data of a read returns from one copy (R163, R164, R207): the other copy of a reflected line answers where the first is
uncorrectable, and both are then rewritten as a full write under label C0h. -/
def Dev.returnRead (d : Dev) (q : Req) (copy : Nat) (second : Bool) (err : Burst) : Dev :=
  let n := q.media / 64
  let (fetched, d) := if q.attr.knotted then d.fetchHeader q.attr q.page [] else (true, d)
  if !fetched || d.quarantined q.attr q.page then d.answer q .poison else
  let b := d.bindOf q.attr n q.page (d.minorOf q.attr n q.page) none (d.oldKey n)
  let (j, p) := d.judgeLine b n q.attr.reflected copy (d.fromSource n q.attr.reflected copy) err
  let d := d.noteLine q.attr n q.page p j.v q.label q.who false
  let h : Held := { data := q.data, mask := q.mask, poison := q.poison }
  if j.v.good then
    let x := d.decipher b j.data
    let d :=
      if second then
        let (id, d) := d.fresh
        d.repair { id := id, line := n, kind := .full, data := x, mask := BitVec.allOnes 64, label := 0xC0, attr := q.attr
                   page := q.page, admitBnd := d.clk.bnd, left := d.copiesOf q.attr n }
      else d.rewrite b n q.attr q.page copy j p
    d.answer q (h.onto (some x))
  else
    match j.v with
    | .lost _ =>
      if q.attr.reflected && !second && !d.rankGone n true (1 - copy) then
        let (id, d) := d.fresh
        let x := d.accOf id (.other q.id) n q.attr (1 - copy) (d.fromSource n true (1 - copy)) q.label q.hammer q.step q.promoted q.admitBnd
        { d with dram.accs := x :: d.dram.accs }.useChannel x.label x.ch
      else (d.mediaRecord q).answer q .poison
    | _ => d.answer q .poison

/-- Data of a rank copy's read: the line's bits as judged, stored poison where they release no data (R165, R220). A line that no page,
extent or table holds is judged as the plain line it was written as (R201; log 73). -/
def Dev.returnCopy (d : Dev) (w : Wb) (err : Burst) : Dev :=
  let n := w.line
  let place := w.left.headD 0
  let b : Option (Bind × Attr × Nat) :=
    if w.attr.reflected then (d.ownerOf n).map fun (a, page, im) => (d.bindOf a n page 1 im (d.oldKey n), a, page)
    else (d.contentAt n).map fun x => (x.bind, x.attr, x.page)
  let (b, a, page) := b.getD (.plain (n * 64), {}, 0)
  let (h, p) := d.locate n w.attr.reflected place true
  let j := match b with
    | .tree .. => judge (d.check b) (d.erasedAt p) (d.treeBurst n h ^^^ err)
    | _ => (d.judgeLine b n w.attr.reflected place true err).1
  let d := d.noteLine a n page p j.v w.label reqNone false
  let d := match j.v with | .lost _ => d.uncorrectable p | _ => d
  d.setWb { w with phase := .merged, burst := mkBurst j.data (d.check b j.data), poison := w.poison || !j.v.good }

/-- Data of the read that an entry of the write buffer needs (R32, R165, R194, R195, R220, R361): a repaired line of it is rewritten
where the entry itself does not (R164). -/
def Dev.returnMerge (d : Dev) (w : Wb) (copy : Nat) (err : Burst) : Dev :=
  match w.kind with
  | .rankCopy _ => (d.wantContent w.line).returnCopy w err
  | _ =>
    let (fetched, d) := if w.attr.knotted then d.fetchHeader w.attr w.page [] else (true, d)
    let b := d.bindOf w.attr w.line w.page (d.minorOf w.attr w.line w.page) w.image (d.oldKey w.line)
    let (j, p) := d.judgeLine b w.line w.attr.reflected copy (d.fromSource w.line w.attr.reflected copy) err
    let d := d.noteLine w.attr w.line w.page p j.v w.label reqNone false
    let d := match j.v with | .lost _ => d.uncorrectable p | _ => d
    let d := match w.kind with
      | .copy .. | .remote .. => d.rewrite b w.line w.attr w.page copy j p
      | _ => d
    let full := w.mask = BitVec.allOnes 64
    let bad := ((!fetched || !j.v.good) && !(full && w.kind ≠ .masked)) || w.poison
    let x := mergeBytes (d.decipher b j.data) w.data w.mask
    d.setWb { w with phase := .merged, data := x, poison := bad }

/-! ### The reads of a decode (R137, R138, R142, R143) -/

/-- End[i] and Start[i] of an index (R137). -/
def imgEnd (index : List Byte) (i : Nat) : Nat := field index (2 * i) 2
def imgStart (index : List Byte) (i : Nat) : Nat := if i = 0 then 32 else imgEnd index (i - 1)

/-- The index is valid for an image of a number of bytes (R138). -/
def indexValid (index : List Byte) (size : Nat) : Bool :=
  (List.range 16).all (fun i => imgStart index i + 2 ≤ imgEnd index i) && imgEnd index 15 ≤ size

/-- The image lines that hold a byte of a sub-block. -/
def subLines (index : List Byte) (i : Nat) : List Nat :=
  (List.range 64).filter fun l => imgStart index i < 64 * (l + 1) && 64 * l < imgEnd index i && l ≠ 0

/-- Every line of a decode is there: its engine can take it. -/
def Decode.ready (c : Decode) : Bool := c.indexed && c.want.isEmpty && c.asked.isEmpty && !c.bad

/-- Media line of an image line of a decode (R140). -/
def Dev.imageAt (d : Dev) (c : Decode) (i : Nat) : Nat := (d.shadeBase + knotBody c.knot * kib) / 64 + i

/-- A decode is gone, and what it had asked for with it. -/
def Dev.dropDecode (d : Dev) (id : Nat) : Dev :=
  { d with prism.decodes := d.prism.decodes.filter (·.id ≠ id)
           dram.accs := d.dram.accs.filter fun a => match a.kind with | .image c _ => c ≠ id | _ => true }

/-- Requests that a decode answers. -/
def Dev.decodeReqs (d : Dev) (id : Nat) : List Req := d.path.reqs.filter (·.stage = .image id)

/-- What a decode wants next once an image line is there: past the index line, where it is valid, the sub-block's other lines; a line
that released no data ends its reads (R138, R142, R164). -/
def Decode.onward (c : Decode) : Decode :=
  if c.bad then { c with want := [] }
  else if c.indexed || c.asked ≠ [] || c.want ≠ [] then c
  else
    let size := 1024 * (knotClass c.knot + 1)
    { c with indexed := true, want := if indexValid c.img size then subLines c.img c.sub else [] }

/-- An image line of a decode as it reads with the bits `err` wrong (R142, R163, R164). Where one released no data, the requests are
answered with poison once no other line is under way. -/
def Dev.imageLine (d : Dev) (c : Decode) (i : Nat) (err : Burst) : Dev :=
  let n := d.imageAt c i
  let (fetched, d) := d.fetchHeader c.attr c.page []
  let b := d.bindOf c.attr n c.page 0 (some i) (d.oldKey n)
  let (j, p) := d.judgeLine b n false 0 (d.fromSource n false 0) err
  let d := d.noteLine c.attr n c.page p j.v c.label c.from_ false
  let good := fetched && j.v.good && !d.quarantined c.attr c.page
  let d := if good then d.rewrite b n c.attr c.page 0 j p else d
  let gone := match j.v with | .lost _ => true | _ => false
  let img := if c.img.isEmpty then zeros (1024 * (knotClass c.knot + 1)) else c.img
  let c : Decode :=
    { c with want := c.want.filter (· ≠ i), asked := c.asked.filter (· ≠ i), bad := c.bad || !good, lost := c.lost || gone
             img := if good then overlay img (64 * i) (leBytes 64 (d.decipher b j.data).toNat) else img }.onward
  if c.bad && c.asked.isEmpty then
    each (d.decodeReqs c.id) (d.dropDecode c.id) fun d q => (if c.lost then d.mediaRecord q else d).answer q .poison
  else { d with prism.decodes := replaceFirst (·.id = c.id) (fun _ => c) d.prism.decodes }

/-- Data of an image line's read returns. -/
def Dev.returnImage (d : Dev) (id i : Nat) (err : Burst) : Dev :=
  match d.prism.decodes.find? (·.id = id) with
  | some c => d.imageLine c i err
  | none => d

/-- Put the reads that a decode wants to the schedulers, under its label (R142); one whose rank is gone returns at once. -/
def Dev.feedImage (d : Dev) (id i : Nat) : Dev :=
  match d.prism.decodes.find? (·.id = id) with
  | none => d
  | some c =>
    if !c.want.contains i then d
    else
      let n := d.imageAt c i
      if d.rankGone n false 0 then d.imageLine c i 0
      else
        let a := d.accOf 0 (.image id i) n c.attr 0 (d.fromSource n false 0) c.label c.who c.step c.promoted c.admitBnd
        if d.schedRoom a.ch (c.label.toNat / 64) then
          let (x, d) := d.fresh
          let c := { c with want := c.want.filter (· ≠ i), asked := c.asked ++ [i] }
          let d := { d with prism.decodes := replaceFirst (·.id = id) (fun _ => c) d.prism.decodes }
          d.addAcc { a with id := x, behind := (d.held n).behind }
        else d

/-- What the decodes under way want goes to the schedulers as they have room (R26, R142). -/
def Dev.feedImages (d : Dev) : Dev := each d.prism.decodes d fun d c => each c.want d fun d i => d.feedImage c.id i

/-- Decodes under way for a knot whose slots are freed have their image as it stood (R143). -/
def Dev.drawDecodes (d : Dev) (k : BitVec 36) : Dev :=
  let round (d : Dev) (c : Decode) : Dev := match d.prism.decodes.find? (·.id = c.id) with
    | some c =>
      let d := { d with dram.accs := d.dram.accs.filter fun a => match a.kind with | .image x _ => x ≠ c.id | _ => true }
      each (c.asked ++ c.want) d fun d i => d.returnImage c.id i 0
    | none => d
  let mine := d.prism.decodes.filter (·.knot = k)
  each (mine ++ mine) d round

/-! ### Lines read and written in one step (jobs, tiering; R40) -/

/-- Read a line whole: from the write buffer, as zeros, or judged from DRAM, in the order of a read. None: poison. -/
def Dev.readLine (d : Dev) (a : Attr) (n page : Nat) (label : Label) : Option Line × Dev :=
  let h := d.held n
  match h.base with
  | some x => (x, d)
  | none =>
    if d.keyDead a n page || d.quarantined a page then (none, d)
    else
      let (good, d) := if a.knotted then d.fetchHeader a page [] else (true, d)
      if !good then (none, d)
      else
        let wrap (x : Option Line) : Option Line := match h.onto x with | .data y => some y | _ => none
        if a.knotted && d.minorOf a n page = 0 then (wrap (some 0), d)
        else if d.rankGone n a.reflected 0 then (none, d)
        else
          let copy := if a.reflected then d.pickCopy n else 0
          let b := d.bindOf a n page (d.minorOf a n page) none (d.oldKey n)
          let (j, p) := d.judgeLine b n a.reflected copy (d.fromSource n a.reflected copy) 0
          let d := d.noteLine a n page p j.v label reqNone false
          if j.v.good then (wrap (some (d.decipher b j.data)), d.rewrite b n a page copy j p)
          else
            let d := match j.v with | .lost _ => d.uncorrectable p | _ => d
            (none, d)

/-- Accept a full write of a line from a job or from firmware (R31). -/
def Dev.writeLine (d : Dev) (a : Attr) (n page : Nat) (label : Label) (x : Option Line) : Dev :=
  let (id, d) := d.fresh
  d.acceptWb { id := id, line := n, kind := .full, data := x.getD 0, poison := x.isNone, mask := BitVec.allOnes 64, label := label
               attr := a, page := page, admitBnd := d.clk.bnd, left := d.copiesOf a n }

/-- Read the image bytes of a coded shade page, line by line; none where a line does not release data (R140). -/
def Dev.readImage (d : Dev) (a : Attr) (page : Nat) (k : BitVec 36) (label : Label) : List (Option Line) × Dev :=
  let first := (d.shadeBase + knotBody k * kib) / 64
  each (List.range (16 * (knotClass k + 1))) ([], d) fun (l, d) i =>
    let b := d.bindOf a (first + i) page 0 (some i) (d.oldKey (first + i))
    let (j, p) := d.judgeLine b (first + i) false 0 (d.fromSource (first + i) false 0) 0
    let d := (d.noteLine a (first + i) page p j.v label reqNone false).rewrite b (first + i) a page 0 j p
    (l ++ [if j.v.good then some (d.decipher b j.data) else none], d)

end Sys2Proof.Machine
end

