-- ==== Sys2Proof/Machine/Home.lean ====
section
/-! DEFINITION. The coherence home (spec/08_coherence.md): the directory (R229, R230), flows (R231 to R234), conflicts
(R235, R236), evictions (R237), lost hosts (R238, R239) and recalls (R240). -/

namespace Sys2Proof

/-- HPA of a DPA under a decoder (R252, R253). The ways of an interleave set take 2^ig bytes in turn; the first way is
this device's place (log 8). -/
def Decoder.hpaOf (k : Decoder) (dpa : Nat) : Option Nat :=
  let g := 2 ^ k.ig
  let ways := 2 ^ k.iw
  if k.dpaBase ≤ dpa && dpa < k.dpaBase + k.size / ways then
    let o := dpa - k.dpaBase
    some (k.hpaBase + o / g * (g * ways) + o % g)
  else none

/-- DPA an HPA has under a decoder (R252). -/
def Decoder.dpaOf (k : Decoder) (hpa : Nat) : Option Nat :=
  let g := 2 ^ k.ig
  let ways := 2 ^ k.iw
  if k.hpaBase ≤ hpa && hpa < k.hpaBase + k.size then
    let o := hpa - k.hpaBase
    some (k.dpaBase + o / (g * ways) * g + o % g)
  else none

end Sys2Proof

namespace Sys2Proof.Machine

open Sys2Proof

/-! ### The directory (R229, R230) -/

def dirSet (n : Nat) : Nat := (n % 2 ^ 17) ^^^ (n / 2 ^ 17 % 2 ^ 17)
def dirTag (n : Nat) : Nat := n / 2 ^ 17 % 2 ^ 20

def deSharers (e : BitVec 64) : BitVec 32 := e.setWidth 32
def deTag (e : BitVec 64) : Nat := bits e.toNat 51 32
def deState (e : BitVec 64) : Nat := bits e.toNat 53 52
def deBusy (e : BitVec 64) : Bool := e.getLsbD 54
def deAge (e : BitVec 64) : Nat := bits e.toNat 58 55

/-- An entry: sharers, tag, state (0 Invalid, 1 Shared, 2 Exclusive), busy, age. -/
def mkDe (sharers : BitVec 32) (tag st : Nat) (busy : Bool) (age : Nat) : BitVec 64 :=
  BitVec.ofNat 64 (sharers.toNat + tag % 2 ^ 20 * 2 ^ 32 + st % 4 * 2 ^ 52 + flag busy * 2 ^ 54 + age % 16 * 2 ^ 55)

/-- An entry that breaks R230. While a flow is outstanding the Sharers are those whose answers are still due. -/
def deBroken (e : BitVec 64) : Bool :=
  deState e = 3 || bits e.toNat 63 59 ≠ 0 ||
    (!deBusy e && deState e = 2 && ((List.range 32).filter fun s => (deSharers e).getLsbD s).length ≠ 1) ||
    (!deBusy e && deState e = 1 && deSharers e = 0)

def Dev.de (d : Dev) (set way : Nat) : BitVec 64 := d.home.dir.val (set * 16 + way) 0

/-- Store an entry; an Invalid one that is not Busy is free and not listed. -/
def Dev.setDe (d : Dev) (set way : Nat) (e : BitVec 64) : Dev :=
  { d with home.dir := if deState e = 0 && !deBusy e then d.home.dir.del (set * 16 + way) else d.home.dir.put (set * 16 + way) e }

/-- A way of a line's set whose entry breaks R230, as the lookup of the set reads it. -/
def Dev.brokenWay (d : Dev) (n : Nat) : Option Nat :=
  (List.range 16).find? fun w => d.home.dir.has (dirSet n * 16 + w) && deBroken (d.de (dirSet n) w)

/-- The way that names a line. -/
def Dev.dirWay (d : Dev) (n : Nat) : Option Nat :=
  (List.range 16).find? fun w =>
    let e := d.de (dirSet n) w
    d.home.dir.has (dirSet n * 16 + w) && deTag e = dirTag n

/-- The media line that an entry of a set names. -/
def lineOfDe (set : Nat) (e : BitVec 64) : Nat := deTag e * 2 ^ 17 + (set ^^^ (deTag e % 2 ^ 17))

/-- Make a way the most recent of its set. -/
def Dev.touchDir (d : Dev) (set way : Nat) : Dev :=
  let a := deAge (d.de set way)
  each (List.range 16) d fun d w =>
    let e := d.de set w
    if !d.home.dir.has (set * 16 + w) then d
    else if w = way then d.setDe set w (mkDe (deSharers e) (deTag e) (deState e) (deBusy e) 0)
    else if deAge e ≤ a then d.setDe set w (mkDe (deSharers e) (deTag e) (deState e) (deBusy e) (min 15 (deAge e + 1)))
    else d

/-! ### Sharer slots (R225) -/

/-- The slot that names an LD of a device. -/
def Dev.slotOf (d : Dev) (dev ld : Nat) : Option Nat :=
  (List.range 32).find? fun s => d.setting idSharerSlot s = dev * 32 + ld

/-- The slot of a request: of the host's LD; of a forwarded request, the lowest slot that names its origin device, for its
message names no LD (R301; log 21); none for the service engines (R234). -/
def Dev.reqSlot (d : Dev) (q : Req) : Option Nat :=
  match q.src with
  | .host _ ld _ => d.slotOf d.chain.index ld
  | .peer _ o _ _ _ => (List.range 32).find? fun s => d.setting idSharerSlot s ≠ 0x400 && d.setting idSharerSlot s / 32 = o.toNat
  | _ => none

/-- Device index and LD a slot names. -/
def Dev.slotName (d : Dev) (s : Nat) : Nat × Nat := (d.setting idSharerSlot s / 32, d.setting idSharerSlot s % 32)

/-- The holders a lookup counts: gone slots' bits are 0 (R238). -/
def Dev.holders (d : Dev) (e : BitVec 64) : List Nat :=
  (List.range 32).filter fun s => (deSharers e).getLsbD s && !d.home.gone.contains s

/-- Bits of a list of slots. -/
def slotBits (l : List Nat) : BitVec 32 := BitVec.ofNat 32 (l.foldl (fun n s => n + 2 ^ s) 0)

/-! ### Snoops (R232, R253) -/

/-- DPA of an HPA of an LD's host, by its committed decoders; none where none covers it (R252). -/
def Dev.dpaOf (d : Dev) (ld hpa : Nat) : Option Nat := (d.ld ld).hdm.findSome? fun e => e.2.dpaOf hpa

def Dev.hpaOf (d : Dev) (ld dpa : Nat) : Option Nat := (d.ld ld).hdm.findSome? fun e => e.2.hpaOf dpa

/-- DPA of a media line in an LD of this device: through a direct extent, or through the pool range of a knotted page. -/
def Dev.dpaIn (d : Dev) (ld n : Nat) : Option Nat :=
  (d.ld ld).exts.findSome? fun x =>
    x.place.zipIdx.findSome? fun e =>
      let unit := (x.start + e.2) * mib2
      match d.regionAt ld unit with
      | none => none
      | some r =>
        if !r.knotted then (if x.dev = d.chain.index && e.1 = n / 32768 then some (unit + n % 32768 * 64) else none)
        else
          match d.tiers.units.look e.1 with
          | none => none
          | some u =>
            ((List.range 512).find? fun i =>
              let k := d.knotAt (d.unitAddr u + unitLeaf) i
              knotState k = 1 && knotBody k = n / 64).map fun i => unit + i * 4096 + n % 64 * 64

/-- Region of an LD of another device that a chain sheet brought, of one set (R226). -/
def Dev.foreignRegion (d : Dev) (dev ld : Nat) (set : BitVec 16) : Option Region :=
  d.conf.regions.find? fun r => r.home = some dev && r.ld = ld && r.kind = .shared && r.set = set

/-- DPA line of a media line in the LD of another device, for a SNP (R232): the same offset in that LD's region of the set as in the region
of an LD of this device, for the regions of a set have the same extents (R226); else through the owner of its pool range; a free value
where the allocation came from another device in no message of R305 (log 32). -/
def Dev.remoteDpa (d : Dev) (n dev ld : Nat) : BitVec 38 × Dev :=
  let own := (List.range 32).findSome? fun l =>
    (d.dpaIn l n).bind fun a => (d.regionAt l a).bind fun r =>
      (d.foreignRegion dev ld r.set).map fun x => (x.base * mib2 + (a - r.base * mib2)) / 64
  match own with
  | some x => (BitVec.ofNat 38 x, d)
  | none =>
    match d.ownerOf n with
    | some (a, page, _) =>
      match (if a.knotted then d.tiers.owner.look (page / 512) else none) with
      | some (_, unit) => (BitVec.ofNat 38 (unit * 32768 + page % 512 * 64 + n % 64), d)
      | none => d.free 38
    | none => d.free 38

/-- Send a SNP to the device of a slot's LD: kind 0 to 2, or 3 for a BIConflictAck. False: no tag is free. Without a route none goes out,
and the slot does not answer (R232, R238, R303). -/
def Dev.sendSnp (d : Dev) (n s k : Nat) (label : Label) : Bool × Dev :=
  let (dev, ld) := d.slotName s
  match d.freeTag, d.route (dev * 2 ^ 23) none with
  | some t, some p =>
    let (dpaLine, d) := d.remoteDpa n dev ld
    let for_ := if k = 3 then TagUse.conflict n s else .snoop n s
    (true, ({ d with chain.tags := d.chain.tags.put t for_ }.sendMsg p
      { op := .snp, label := label, tag := BitVec.ofNat 16 t, origin := BitVec.ofNat 5 d.chain.index
        dest := BitVec.ofNat 5 dev, ld := BitVec.ofNat 5 ld, snpType := BitVec.ofNat 2 k, dpaLine := dpaLine }))
  | none, _ => (false, d)
  | _, none => (true, d.noRoute (dev * 2 ^ 44) d.chain.index)

/-- Send one snoop of kind k for a line to a slot: BISnp on the LD's link, or SNP to its device, which may have to wait for a tag. False:
no decoder of the LD gives the line an address, so the slot counts as having answered BIRspI (R232, R253). -/
def Dev.snoopSlot (d : Dev) (n s k : Nat) (label : Label) : Bool × Dev :=
  let (dev, ld) := d.slotName s
  if dev = d.chain.index then
    match d.ldLink ld, (d.dpaIn ld n).bind (d.hpaOf ld) with
    | some l, some hpa =>
      (true, ((d.bump (0x178 + k)).modLink l fun x =>
        { x with snoops := x.snoops ++ [{ ld := ld, kind := BitVec.ofNat 2 k, hpa := BitVec.ofNat 64 hpa, label := label }] }).flush l)
    | _, _ => (false, d.bump 0x183)
  else
    let (sent, d) := (d.bump (0x178 + k)).sendSnp n s k label
    (true, if sent then d else { d with home.unsent := d.home.unsent ++ [(n, s, k, label)] })

/-- The snoops that waited for a tag, in order. -/
def Dev.sendUnsent (d : Dev) : Dev :=
  each d.home.unsent { d with home.unsent := [] } fun d e =>
    let (sent, d) := d.sendSnp e.1 e.2.1 e.2.2.1 e.2.2.2
    if sent then d else { d with home.unsent := d.home.unsent ++ [e] }

/-- Start a flow: the entry Busy, a snoop to each slot (R232). Slots that no snoop can reach are not waited for. -/
def Dev.startFlow (d : Dev) (n set way : Nat) (slots : List Nat) (k : Nat) (what : FlowFor) (label : Label) : Dev :=
  let e := d.de set way
  let d := d.setDe set way (mkDe (deSharers e) (deTag e) (deState e) true (deAge e))
  let (wait, d) := each slots ([], d) fun (w, d) s =>
    let (sent, d) := d.snoopSlot n s k label
    (if sent then w ++ [s] else w, d)
  { d with home.flows := d.home.flows ++
      [({ line := n, set := set, way := way, wait := wait, kind := BitVec.ofNat 2 k, for_ := what, from_ := d.clk.bnd } : Flow)] }

def Dev.flowOn (d : Dev) (n : Nat) : Option Flow := d.home.flows.find? (·.line = n)

/-! ### Directory errors (R241, R242) -/

/-- Send an index-mode management message; its tag waits for the MRSP, or for the 1 ms after which the destination counts as not
answering; without a route it goes nowhere (R302, R304, R320). -/
def Dev.mgmt (d : Dev) (dest subOp : Nat) (body : List Byte) : Dev :=
  match d.freeTag with
  | none => d
  | some t =>
    let d := { d with chain.tags := d.chain.tags.put t (.mgmt subOp dest body) }
    match d.route (dest * 2 ^ 23) none with
    | some p => d.sendMsg p
        { op := .mgmt, label := 0x7F, tag := BitVec.ofNat 16 t, origin := BitVec.ofNat 5 d.chain.index
          dest := BitVec.ofNat 5 dest, subOp := BitVec.ofNat 8 subOp, body := body }
    | none => d.noRoute (dest * 2 ^ 44) d.chain.index

/-- A host link of this device enters viral for an LD that holds a slot. -/
def Dev.viralLd (d : Dev) (ld : Nat) : Dev := match d.ldLink ld with | some l => d.enterViral l | none => d

/-- A directory entry beyond DEC-TED, or one that breaks R230: a record; viral on the links of the LDs that hold slots, here and, by a VIRAL
message, on every peer; requests to shared media fail from the next boundary on (R242, R305). It is a hard signature (R393). -/
def Dev.directoryError (d : Dev) (set way : Nat) : Dev :=
  let d := { d with home.failing := true }.raise 0x10E .fatal none (set * 16 + way)
  let d := (d.faultEvent 0x303 2 (set * 16 + way + 0xFF * 2 ^ 32) 0 reqNone true).doorbell 0x389
  let names := (List.range 32).filterMap fun s => if d.setting idSharerSlot s = 0x400 then none else some (d.slotName s)
  let own := (names.filter (·.1 = d.chain.index)).map (·.2)
  let peers := ((names.filter (·.1 ≠ d.chain.index)).map (·.1)).eraseDups
  let d := each own d Dev.viralLd
  each peers d fun d dev =>
    let mask := (names.filter (·.1 = dev)).foldl (fun n e => n + 2 ^ e.2) 0
    d.mgmt dev 0x21 ([BitVec.ofNat 8 d.chain.index] ++ leBytes 4 mask)

/-! ### Grants (R227, R231) -/

/-- Whether a request asks for a host copy (R228, R231). -/
def Req.wantsCopy (q : Req) : Bool := q.op = .inv || (q.op = .read && q.mv ≠ .i)

/-- A recall register covers a media line (R240). -/
def Dev.recalled (d : Dev) (n : Nat) : Bool :=
  d.home.recalls.any fun e => e.2.src ≤ n * 64 && n * 64 < e.2.src + e.2.bytes

/-- Put a request among those that the home holds, in the order they reached it (R235). -/
def Dev.queueHome (d : Dev) (q : Req) : Dev :=
  let d := if d.home.queue.contains q.id then d else { d with home.queue := d.home.queue ++ [q.id] }
  d.stageReq q .home

/-- A request leaves what the home holds, and its wait entry. -/
def Dev.leaveHome (d : Dev) (id : Nat) : Dev :=
  { d with home.queue := d.home.queue.filter (· ≠ id), home.waits := d.home.waits.filter fun e => e.2 ≠ id }

/-- Hand a granted request back to the line station (R227). -/
def Dev.grant (d : Dev) (q : Req) : Dev :=
  let q := { q with granted := true }
  ((d.leaveHome q.id).setReq q).station q

/-- Wait entry of a request: by slot and class, and by class for the service engines (R235). -/
def Dev.waitKey (d : Dev) (q : Req) : Nat := (match d.reqSlot q with | some s => s * 4 | none => 128) + q.cls

/-- A request that finds its line Busy takes its wait entry, or stays in the input queue (R235). -/
def Dev.waitBusy (d : Dev) (q : Req) : Dev :=
  let k := d.waitKey q
  let d := d.queueHome q
  if d.home.waits.has k then d else { d with home.waits := d.home.waits.put k q.id }.bump 0x17D

/-- Write a line as stored poison for the data an Exclusive holder that is gone may have held (R239). -/
def Dev.poisonLine (d : Dev) (a : Attr) (n page : Nat) : Dev := (d.writeLine a n page 0xC0 none).bump 0x180

/-- The least recently used way of a set that is not Busy (R237). -/
def Dev.victim (d : Dev) (set : Nat) : Option Nat :=
  ((List.range 16).filter fun w => !deBusy (d.de set w)).foldl
    (fun best w => match best with
      | none => some w
      | some b => if deAge (d.de set b) < deAge (d.de set w) then some w else some b) none

/-- A way lies in a row of the directory that is withdrawn (R396): it takes no new entry. -/
def Dev.wayOff (d : Dev) (set way : Nat) : Bool := ((d.fault.rows.val 3 []).drop (d.fault.covered.val 3 0)).contains (Config.sramRow 3 (set * 16 + way))

/-- The lowest age that no entry of a set has: a new entry's, before it becomes the most recent, so that ages stay distinct (R230, R237). -/
def Dev.newAge (d : Dev) (set : Nat) : Nat :=
  ((List.range 16).find? fun a => !((List.range 16).any fun w => d.home.dir.has (set * 16 + w) && deAge (d.de set w) = a)).getD 15

/-- Allocate an entry for a line, or evict, or wait (R237); `st` and the requester's slot are what it then holds. -/
def Dev.allocDir (d : Dev) (q : Req) (n st slot : Nat) : Dev :=
  let set := dirSet n
  match (List.range 16).find? fun w => !d.home.dir.has (set * 16 + w) && !d.wayOff set w with
  | some w =>
    ((d.setDe set w (mkDe (slotBits [slot]) (dirTag n) st false (d.newAge set))).touchDir set w).grant q
  | none =>
    match d.victim set with
    | none => d.queueHome q
    | some w =>
      let e := d.de set w
      let d := (d.leaveHome q.id).bump 0x17E
      (d.stageReq q (.snoop n)).startFlow (lineOfDe set e) set w (d.holders e) 2 (.evict q.id) q.label

/-- Act on a request by the table of R231; the line's entry, if any, is not Busy. -/
def Dev.serveHome (d : Dev) (q : Req) (n : Nat) : Dev :=
  let slot := d.reqSlot q
  let set := dirSet n
  match d.dirWay n with
  | none =>
    match slot with
    | some s => if q.wantsCopy then d.allocDir q n (if q.op = .read && q.mv = .s then 1 else 2) s else d.grant q
    | none => d.grant q
  | some w =>
    let e := d.de set w
    let hs := d.holders e
    let others := hs.filter fun s => some s ≠ slot
    let mine := match slot with | some s => hs.contains s | none => false
    let keep (sharers : List Nat) (st : Nat) : Dev :=
      ((d.setDe set w (mkDe (slotBits sharers) (dirTag n) st false (deAge e))).touchDir set w).grant q
    let snoop (dest : List Nat) (k : Nat) : Dev :=
      ((d.leaveHome q.id).stageReq q (.snoop n)).startFlow n set w dest k (.request q.id) q.label
    let excl := deState e = 2
    match q.op, slot with
    | .read, some s =>
      if q.mv = .i then (if excl && !others.isEmpty then snoop others 0 else (d.touchDir set w).grant q)
      else if q.mv = .s then
        if excl && !others.isEmpty then snoop others 1
        else keep (s :: others) 1
      else if others.isEmpty then keep [s] 2 else snoop others 2
    | .read, none => if excl && !others.isEmpty then snoop others 0 else (d.touchDir set w).grant q
    | .inv, some s => if others.isEmpty then keep [s] 2 else snoop others 2
    | .inv, none => d.grant q
    | .write, _ =>
      if excl && mine then
        match q.mv with
        | .i => keep [] 0
        | .s => keep (slot.toList) 1
        | .a => (d.touchDir set w).grant q
      else if hs.isEmpty then keep [] 0 else snoop hs 2
    | .evct, _ => keep others (if others.isEmpty then 0 else deState e)

/-- Present a request to the coherence home (R227, R235, R239, R240, R242). A write waits until the write buffer can take it at its grant
(R26, R227); a request whose lookup reads an entry that breaks R230 fails with the directory (DEDUCED, log 27). -/
def Dev.presentHome (d : Dev) (q : Req) : Dev :=
  let n := q.media / 64
  let slot := d.reqSlot q
  let gone := match slot with | some s => d.home.gone.contains s | none => false
  if d.home.failed then (d.leaveHome q.id).fail q
  else if q.isWrite && !d.wbRoomFor q.label (d.entriesFor q n) then d.queueHome q
  else match d.brokenWay n with
  | some w => ((d.directoryError (dirSet n) w).leaveHome q.id).fail q
  | none =>
  if (d.recalled n || gone) && (q.wantsCopy || q.isWrite) then
    -- a writeback that a flow waits for is taken at once (R233)
    match d.flowOn n with
    | some f => if q.isWrite && (match slot with | some s => f.wait.contains s | none => false) then d.grant q else d.queueHome q
    | none => d.queueHome q
  else
    match d.dirWay n with
    | some w =>
      let e := d.de (dirSet n) w
      if deBusy e then
        match d.flowOn n with
        | some f =>
          if q.isWrite && (match slot with | some s => f.wait.contains s | none => false) then d.grant q else d.waitBusy q
        | none => d.waitBusy q
      else if deState e = 2 && (d.holders e).isEmpty then
        -- its Exclusive holder is gone: stored poison first (R239)
        let d := (d.poisonLine q.attr n q.page).setDe (dirSet n) w 0
        d.serveHome q n
      else d.serveHome q n
    | none => d.serveHome q n

/-! ### Ends of flows (R233, R237, R238, R240) -/

/-- Entries of a recall register's range that still name holders and are not Busy are snooped (R240). -/
def Dev.scanRecall (d : Dev) (reg : Nat) (r : Recall) : Dev :=
  let inRange (set : Nat) (e : BitVec 64) : Bool :=
    r.src ≤ lineOfDe set e * 64 && lineOfDe set e * 64 < r.src + r.bytes
  let hit := d.home.dir.filter fun x => inRange (x.1 / 16) x.2
  let d := each (hit.filter fun x => !deBusy x.2) d fun d x =>
    let n := lineOfDe (x.1 / 16) x.2
    d.startFlow n (x.1 / 16) (x.1 % 16) (d.holders x.2) 2 (.recalled reg) r.label
  if hit.isEmpty then { d with home.recalls := d.home.recalls.put reg { r with done := true } } else d

/-- Present again the requests that the home holds, in the order they reached it (R235, R239, R240). -/
def Dev.wakeHome (d : Dev) : Dev :=
  each d.home.queue d fun d id =>
    match d.req id with
    | some q => if q.stage = .home then d.presentHome q else d
    | none => d.leaveHome id

/-- A line whose Exclusive holder is gone is written as stored poison, and counted, before anything is granted for it (R239). -/
def Dev.poisonLost (d : Dev) (n : Nat) : Dev :=
  match d.ownerOf n with
  | some (a, page, _) => d.poisonLine a n page
  | none => d.bump 0x180

/-- A flow whose last answer is in ends: the entry is free of its mark, and what the flow was for goes on. -/
def Dev.endFlow (d : Dev) (f : Flow) : Dev :=
  let d := { d with home.flows := d.home.flows.filter (· ≠ f) }
  let e := d.de f.set f.way
  let gone := deState e = 2 && (d.holders e).isEmpty && deSharers e ≠ 0
  let d := if gone then d.poisonLost f.line else d
  let free := mkDe (deSharers e) (deTag e) (if gone || deSharers e = 0 then 0 else deState e) false (deAge e)
  match f.for_ with
  | .request id =>
    let d := d.setDe f.set f.way free
    match d.req id with
    | some q => if f.kind = 0 && !gone then d.grant q else d.presentHome q
    | none => d
  | .evict id =>
    let d := d.setDe f.set f.way 0
    match d.req id with
    | some q => d.presentHome q
    | none => d
  | .recalled reg =>
    let d := d.setDe f.set f.way 0
    match d.home.recalls.look reg with
    | some r => d.scanRecall reg r
    | none => d
  | .job =>
    let d := d.setDe f.set f.way free
    if f.kind = 0 && !gone then { d with home.cur := f.line :: d.home.cur } else d

/-- Recalls that are not done look again for entries in their range that a flow kept Busy (R240). -/
def Dev.scanRecalls (d : Dev) : Dev :=
  each (d.home.recalls.filter fun e => !e.2.done) d fun d e => d.scanRecall e.1 e.2

/-- End every flow that waits for no slot any more, and present what waited (R235). -/
def Dev.endFlows : Nat → Dev → Dev
  | 0, d => d
  | fuel + 1, d =>
    match d.home.flows.find? fun f => f.wait.isEmpty with
    | some f => Dev.endFlows fuel (((d.endFlow f).scanRecalls).wakeHome)
    | none => d

def Dev.settleHome (d : Dev) : Dev := Dev.endFlows (d.home.flows.length + d.path.reqs.length + 1) d

/-- A slot's answer to a snoop of a line: BIRspI takes its bit out, BIRspS keeps it as Shared; a BISnpCur changes nothing
(R231, R233). -/
def Dev.answerSnoop (d : Dev) (s n : Nat) (keeps : Bool) : Dev :=
  match d.flowOn n with
  | none => d
  | some f =>
    if !f.wait.contains s then d
    else
      let f' := { f with wait := f.wait.filter (· ≠ s) }
      let d := { d with home.flows := replaceFirst (· = f) (fun _ => f') d.home.flows }
      let e := d.de f.set f.way
      if f.kind = 0 then d
      else if keeps then d.setDe f.set f.way (mkDe (deSharers e) (deTag e) 1 true (deAge e))
      else d.setDe f.set f.way
        (mkDe (slotBits ((List.range 32).filter fun x => (deSharers e).getLsbD x && x ≠ s)) (deTag e) (deState e) true (deAge e))

/-- A request names a line: by its media address, or, untranslated, by its LD's DPA or by its pool address (R233). -/
def Dev.namesLine (d : Dev) (q : Req) (n : Nat) : Bool :=
  if q.media ≠ 0 then q.media / 64 = n
  else match q.hostLd with
    | some ld => (d.dpaIn ld n).map (· / 64) = some (q.dpa / 64)
    | none => match d.ownerOf n with
      | some (_, page, _) => q.pool / 4096 % 2 ^ 32 = page && q.pool / 64 % 64 = n % 64
      | none => false

/-- A write of the slot for the line has not been accepted yet (R233). -/
def Dev.writesAhead (d : Dev) (s n : Nat) : Bool :=
  d.path.reqs.any fun q => q.isWrite && d.reqSlot q = some s && d.namesLine q n

/-- A BIRsp arrives: acted on once every earlier write of the slot has been accepted (R233). -/
def Dev.takeBirsp (d : Dev) (s n : Nat) (keeps : Bool) : Dev :=
  if d.writesAhead s n then { d with home.heldRsp := d.home.heldRsp ++ [(s, n, keeps)] }
  else (d.answerSnoop s n keeps).settleHome

/-- Act on the BIRsps held whose writes have now been accepted. -/
def Dev.releaseRsps (d : Dev) : Dev :=
  each d.home.heldRsp d fun d e =>
    if d.writesAhead e.1 e.2.1 then d
    else ({ d with home.heldRsp := d.home.heldRsp.erase e }.answerSnoop e.1 e.2.1 e.2.2).settleHome

/-! ### Conflicts (R236) -/

/-- A BIConflictAck at a link's egress. -/
def Dev.ackOn (d : Dev) (l : Nat) (ld : Option Nat) : Dev :=
  d.owe l { r := { ld := ld, tag := 0, cls := .c3, answer := .cmp, load := 0, viral := false, conflictAck := true }, start := d.now }

/-- Send a BIConflictAck to a slot's host. -/
def Dev.sendAck (d : Dev) (s n : Nat) : Dev :=
  let (dev, ld) := d.slotName s
  if dev = d.chain.index then
    match d.ldLink ld with
    | some l => d.ackOn l (some ld)
    | none => d
  else (d.sendSnp n s 3 0x40).2

/-- A BIConflict of a slot for a line: the Ack follows the responses of the slot's granted requests for the line, and goes
ahead of those not yet granted (R236). -/
def Dev.takeConflict (d : Dev) (s n : Nat) : Dev :=
  let d := d.bump 0x17B
  let outstanding := match d.flowOn n with | some f => f.wait.contains s | none => false
  if !outstanding then (d.bump 0x17C).sendAck s n
  else
    let ids := (d.path.reqs.filter fun q => q.granted && q.media / 64 = n && d.reqSlot q = some s).map (·.id)
    if ids.isEmpty then d.sendAck s n else { d with home.acks := d.home.acks ++ [(s, n, ids)] }

/-- Send the Acks whose requests have all been answered. -/
def Dev.releaseAcks (d : Dev) : Dev :=
  each d.home.acks d fun d e =>
    if e.2.2.any fun id => (d.req id).isSome then d
    else { d with home.acks := d.home.acks.erase e }.sendAck e.1 e.2.1

/-! ### Lost hosts (R238, R239) -/

/-- A slot is to be gone from the next boundary on: cause 0 link, 1 reset, 2 timeout. -/
def Dev.losing (d : Dev) (s cause : Nat) : Dev :=
  if d.home.gone.contains s || d.home.going.any (·.1 = s) then d
  else { d with home.going := d.home.going ++ [(s, cause)] }

/-- The slots of an LD of this device are to be gone. -/
def Dev.loseLd (d : Dev) (ld cause : Nat) : Dev :=
  match d.slotOf d.chain.index ld with
  | some s => d.losing s cause
  | none => d

/-- At the boundary: the slots are gone, one record each, and no flow waits on them (R238). -/
def Dev.applyGone (d : Dev) : Dev :=
  let going := d.home.going
  let d := { d with home.going := [], home.gone := d.home.gone ++ going.map (·.1) }
  let d := each going d fun d e =>
    let (dev, ld) := d.slotName e.1
    let d := d.raiseAlways 0x10D .warning (if dev = d.chain.index then some ld else none)
      (e.1 + dev * 2 ^ 5 + ld * 2 ^ 10 + e.2 * 2 ^ 15)
    { d with home.flows := d.home.flows.map fun f => { f with wait := f.wait.filter (· ≠ e.1) } }
  if going.isEmpty then d else (d.doorbell 0x389).settleHome

/-- SHARER_SWEEP: every entry visited; the slot is in service again (R239). -/
def Dev.sweep (d : Dev) (s : Nat) : Dev :=
  if !d.home.gone.contains s then d
  else
    let d := each d.home.dir d fun d x =>
      let e := d.de (x.1 / 16) (x.1 % 16)
      if !(deSharers e).getLsbD s then d
      else
        let n := lineOfDe (x.1 / 16) e
        let d := if deState e = 2 then d.poisonLost n else d
        let rest := (List.range 32).filter fun y => (deSharers e).getLsbD y && y ≠ s
        d.setDe (x.1 / 16) (x.1 % 16)
          (mkDe (slotBits rest) (deTag e) (if rest.isEmpty then 0 else deState e) (deBusy e) (deAge e))
    ({ d with home.gone := d.home.gone.filter (· ≠ s) }.wakeHome).settleHome

/-- Recall registers (R240): load one for a source and destination; none where all 8 are loaded, which is counted. -/
def Dev.loadRecall (d : Dev) (src dst bytes : Nat) (label : Label) (dstDev : Option Nat := none) : Option Nat × Dev :=
  match lowestFree d.home.recalls.keys 8 with
  | none => (none, d.bump 0x182)
  | some r =>
    let x : Recall := { src := src, dst := dst, dstDev := dstDev, bytes := bytes, label := label }
    (some r, ({ d with home.recalls := d.home.recalls.put r x }.scanRecall r x).settleHome)

/-- A request that a recall register held, at the same offset of the destination: on this device at the home still, for another one back
at the router (R240). -/
def Recall.moved (r : Recall) (q : Req) : Req :=
  let n := r.dst + (q.media - r.src)
  match r.dstDev with
  | none => { q with media := n, knot := if q.attr.knotted then brightKnot (n / 4096) else q.knot }
  | some dev => { q with stage := .router, pool := dev * 2 ^ 44 + n, media := 0, attr := {} }

/-- Clear a recall register: the requests it held move to the destination and are presented there, in arrival order (R240). -/
def Dev.clearRecall (d : Dev) (reg : Nat) : Dev :=
  match d.home.recalls.look reg with
  | none => d
  | some r =>
    let mine (q : Req) : Bool := q.stage = .home && r.src ≤ q.media && q.media < r.src + r.bytes
    let gone := if r.dstDev.isSome then (d.path.reqs.filter mine).map (·.id) else []
    let d := { d with home.recalls := d.home.recalls.del reg
                      path.reqs := d.path.reqs.map fun q => if mine q then r.moved q else q }
    ((each gone d fun d id => d.leaveHome id).wakeHome).settleHome

end Sys2Proof.Machine
end

