-- ==== Sys2Proof/Machine/Path.lean ====
section
/-! DEFINITION. The path of a request from ingress to the line station (spec/01 R20 to R42; spec/02 R51, R66, R67; spec/03
R87 to R95; spec/04 R118, R123, R129; spec/09 R250 to R255): receive store and ingress queue, regulator, stage 1, router,
stage 2. A request passes every stage that lets it through in one step (log 12). -/

namespace Sys2Proof.Machine

open Sys2Proof

/-! ### Queues of the path (R25, R26) -/

def inStage1 : Stage → Bool | .walk1 _ | .slot1 => true | _ => false
def inRouter : Stage → Bool | .router => true | _ => false
def inStage2 : Stage → Bool | .walk2 _ | .slot2 | .promo _ | .moving => true | _ => false
def inStation : Stage → Bool | .lsWait | .header _ | .image _ => true | _ => false
def inHome : Stage → Bool | .home | .snoop _ => true | _ => false

/-- Minimums and shared part of the queues before stage 1 and the router, and of those of stage 2, the line station and the
coherence home (R26). -/
def smallMins : List Nat := [32, 16, 8, 8]
def smallShared : Nat := 192
def stage2Mins : List Nat := [64, 32, 16, 16]
def stage2Shared : Nat := 384
def stationMins : List Nat := [128, 64, 32, 32]
def stationShared : Nat := 768

/-- A queue of the path grants an entry to class c. -/
def Dev.room (d : Dev) (held : Stage → Bool) (mins : List Nat) (shared c : Nat) : Bool :=
  grants mins shared (occupancy ((d.path.reqs.filter fun q => held q.stage).map (·.label))) c

/-! ### Line station and coherence home -/

/-- A request at the line station: a shared one that is not granted goes to the coherence home first (R227). -/
def Dev.lineStation (d : Dev) (q : Req) : Dev :=
  if q.attr.shared && !q.granted then
    if d.room inHome stage2Mins stage2Shared q.cls then d.presentHome q else d.stageReq q .lsWait
  else d.station q

/-- Enter the line station, or wait in the stage before it. -/
def Dev.enterStation (d : Dev) (q : Req) (back : Stage) : Dev :=
  if d.room inStation stationMins stationShared q.cls then d.lineStation q else d.stageReq q back

/-! ### Stage 2 (R30, R36, R118, R120, R123, R129, R361) -/

/-- Accesses that count in a page's tiering record (R120): hosts' and chain peers', not those of service engines. -/
def Req.heats (q : Req) : Bool := match q.src with | .host .. | .peer .. => true | _ => false

/-- A demotion of a page that is written is abandoned: the knot is its source again, the destination is free and credited, and
its copy entries are gone (R122, R361). -/
def Dev.abandonMove (d : Dev) (m : Move) : Dev :=
  let mine (w : Wb) : Bool := match w.kind with | .copy _ _ id => id = m.id | _ => false
  let ids := (d.line.wb.filter mine).map (·.id)
  let accs := d.dram.accs.filter fun a => match a.kind with | .merge w | .write w => !ids.contains w | _ => true
  let d := { d with line.wb := d.line.wb.filter fun w => !mine w, dram.accs := accs
                    tiers.moves := d.tiers.moves.filter (·.id ≠ m.id) }
  let block := m.attr.base + unitLeaf
  let d := d.changeKnot block m.page (d.knotAt block (m.page % 512)) m.src
  let d := match d.pageRegion m.page with | some key => d.credit key (knotKib m.dst) | none => d
  d.freeKnot m.dst

/-- A write, or a shared request for a copy, at a zero knot: a frame for the page, the knot bright and written through
(R30, R228). -/
def Dev.allocZero (d : Dev) (q : Req) (block : Nat) : Dev :=
  if q.waited && q.isWrite then d.answer q .cmp
  else
    match d.allocPage q.page 4 with
    | .error why =>
      if q.isWrite then (d.unplaced q.page q.lineIdx why q.label q.who).answer q .cmp else d.fail q
    | .ok (k, d) =>
      let d := d.changeKnot block q.page zeroKnot k
      let base := if knotState k = 1 then knotBody k * 4096 else d.shadeBase + knotBody k * kib
      d.enterStation { q with knot := k, media := base + q.pool % 4096 } .slot2

/-- A write at a coded shade page: charge and space, then it waits for the page's promotion, which it starts; without a promotion entry
it waits for one in stage 2 (R118). A write of a quarantined page has no effect, and the page stays (R183). -/
def Dev.promoteWrite (d : Dev) (q : Req) (k : BitVec 36) : Dev :=
  if d.quarantined q.attr q.page then d.fail q else
  match d.allocPage q.page (4 - knotKib k) with
  | .error why => (d.unplaced q.page q.lineIdx why q.label q.who).answer q .cmp
  | .ok (dest, d') =>
    match lowestFree d.tiers.promo.keys 32 with
    | none => d.stageReq q .slot2
    | some e =>
      let p : Promo := { page := q.page, knot := k, dest := dest, attr := q.attr }
      { d' with tiers.promo := d'.tiers.promo.put e p }.stageReq q (.promo e)

/-- A read of a shade page posts the page for promotion (R123). -/
def Dev.postPromotion (d : Dev) (q : Req) (block : Nat) : Dev :=
  let r := d.tierRec block (q.page % 512)
  let limit := d.setting idPromoteHeat 0
  if limit = 0 || recHeat r < limit || recQueued r || !((d.kslot block).map (·.recsValid)).getD false then d
  else if 1024 ≤ d.tiers.readQ.length then d.bump 0x176
  else { d with tiers.readQ := d.tiers.readQ ++ [q.page] }.setTierRec block (q.page % 512)
    (mkRec (recHeat r) (recIdle r) (recIncompressible r) true)

/-- A request whose page resolves to a knot that is bright, shade or zero (R81), not lost, and not waiting for a promotion. `counts`: the
access has just counted in the page's record, and a read of a shade page may post it for promotion (R120, R123). -/
def Dev.throughKnot (d : Dev) (q : Req) (block : Nat) (k : BitVec 36) (counts : Bool) : Dev :=
  let off := q.pool % 4096
  match knotState k with
  | 0 =>
    if q.isWrite || (q.attr.shared && q.wantsCopy) then d.allocZero q block
    else d.enterStation { q with media := 0, granted := true } .slot2
  | 1 => d.enterStation { q with media := knotBody k * 4096 + off } .slot2
  | _ =>
    let d := if counts && q.isRead then d.postPromotion q block else d
    if knotClass k = 3 then d.enterStation { q with media := d.shadeBase + knotBody k * kib + off } .slot2
    else if q.isWrite then d.promoteWrite q k
    else d.enterStation { q with shade := some (knotClass k, knotBody k), media := d.shadeBase + knotBody k * kib } .slot2

/-- A write to a page that is queued for demotion: the tiering service abandons it (R122). -/
def Dev.forgetDemotion (d : Dev) (page : Nat) : Dev := { d with tiers.demote := d.tiers.demote.filter (·.1 ≠ page) }

/-- What stage 2 does with a request whose page it has resolved. One to a line marked lost is answered before the page's record is touched,
so it counts in no Heat (DESIGN CHOICE, log 23: R120 is silent). -/
def Dev.stage2Found (d : Dev) (q : Req) (f : Found2) : Dev :=
  let q := { q with attr := s2Attr f.entry }
  match f.knot with
  | none => d.enterStation { q with media := s2Addr f.entry + q.page % 512 * 4096 + q.pool % 4096 } .slot2
  | some k =>
    let block := s2Addr f.entry
    let lost := d.isLost q.page q.lineIdx
    if lost && q.isRead then d.answer q .poison
    else if lost && q.isWrite && q.partial_ then d.answer q .cmp
    else
      let counts := q.heats && !q.heated
      let d := if counts then d.heat block (q.page % 512) q.isWrite else d
      let d := if q.isWrite then d.forgetDemotion q.page else d
      let q := { q with heated := true, knot := k, movingMark := f.moving, token := f.token }
      match d.tiers.promo.find? fun e => e.2.page = q.page with
      | some (e, _) => d.stageReq q (.promo e)
      | none =>
        if f.moving && q.isWrite then
          match f.dir, d.tiers.moves.find? fun m => m.page = q.page with
          | 2, _ => d.stageReq q .moving
          | 1, some m => (d.abandonMove m).throughKnot { q with movingMark := false } block k counts
          | _, _ => d.throughKnot q block k counts
        else d.throughKnot q block k counts

/-! ### Walks (R87 to R89, R94, R95) -/

/-- Reserved minimums and shared part of the walk slots of a stage (R94). -/
def walkMins : List Nat := [0, 8, 4, 4]
def walkShared : Nat := 32

def isStage1 : Target → Bool | .stage1 .. => true | _ => false

/-- Demand walks of one stage by class. -/
def Dev.walkOcc (d : Dev) (one : Bool) : List Nat :=
  occupancy ((d.xl.walks.filter fun w => isStage1 w.target = one && !w.prefetch).map (·.label))

/-- Shared walk slots of a stage that prefetch walks leave to the demand walks (R95). -/
def Dev.walkShare (d : Dev) (one : Bool) : Nat :=
  walkShared - (d.xl.walks.filter fun w => isStage1 w.target = one && w.prefetch).length

/-- Shared walk slots of a stage that are free. -/
def Dev.walkFree (d : Dev) (one : Bool) : Nat :=
  let o := d.walkOcc one
  d.walkShare one - ((List.range 4).map fun c => o.getD c 0 - walkMins.getD c 0).foldl (· + ·) 0

/-- A walk under way fetches what a target misses: the same entry, or, of another page, the S2L2 entry of its range that is in no cache,
or the line or lines of its knot (R87). -/
def Dev.walkServes (d : Dev) (w t : Target) : Bool :=
  match w, t with
  | .stage2 p, .stage2 p' =>
    p = p' || (p / 512 = p' / 512 &&
      (!(d.xl.xc.any fun x => x.same .s2l2 0 (p / 512)) || knotLines (p % 512) = knotLines (p' % 512)))
  | _, _ => w = t

/-- A demand walk for a target: the one under way that serves it, or a new one where a slot is granted; none: no slot. -/
def Dev.wantWalk (d : Dev) (t : Target) (label : Label) : Option (Nat × Dev) :=
  match d.xl.walks.find? fun w => d.walkServes w.target t with
  | some w => some (w.id, d)
  | none =>
    if grants walkMins (d.walkShare (isStage1 t)) (d.walkOcc (isStage1 t)) (label.toNat / 64) then
      let (id, d) := d.fresh
      let w : Walk := { id := id, target := t, label := label, prefetch := false }
      some (id, { d with xl.walks := d.xl.walks ++ [w] }.bump (if isStage1 t then 0x168 else 0x169))
    else none

/-- A prefetch walk under label C0h, in a shared slot while at least 16 of those are free (R95). -/
def Dev.prefetch (d : Dev) (t : Target) : Dev :=
  if 16 ≤ d.walkFree (isStage1 t) && !(d.xl.walks.any (·.target = t)) then
    let (id, d) := d.fresh
    let w : Walk := { id := id, target := t, label := 0xC0, prefetch := true }
    { d with xl.walks := d.xl.walks ++ [w] }.bump (if isStage1 t then 0x168 else 0x169)
  else d

/-- Misses in two consecutive ranges start the walks ahead (R95): the next two 2 MiB ranges of an LD. -/
def Dev.noteMiss1 (d : Dev) (ld ext : Nat) : Dev :=
  let last := d.xl.lastMiss.look ld
  let d := { d with xl.lastMiss := d.xl.lastMiss.put ld ext }
  if last = some (ext - 1) && 0 < ext then
    each [ext + 1, ext + 2] d fun d e =>
      if e < 2 ^ 23 && !(d.xl.xc.any fun x => x.same .s1l2 ld e) then d.prefetch (.stage1 ld e) else d
  else d

/-- Misses in two consecutive leaf blocks: the next block (R95). -/
def Dev.noteMiss2 (d : Dev) (range : Nat) : Dev :=
  let last := d.xl.lastMiss.look 32
  let d := { d with xl.lastMiss := d.xl.lastMiss.put 32 range }
  if last = some (range - 1) && 0 < range && range + 1 < 2 ^ 23 then d.prefetch (.stage2 ((range + 1) * 512)) else d

/-- A walk fault of one request: counted, recorded once per entry address in 4,096 boundaries, and failed (R89). -/
def Dev.walkFault (d : Dev) (q : Req) (f : WFault) : Dev :=
  let (ld, addr, origin) := match q.src with
    | .peer _ o _ _ _ => (none, q.pool, o.toNat)
    | _ => (q.dpaLd, q.dpa, d.chain.index)
  let detail := addr % 2 ^ 49 + origin * 2 ^ 49 + flag f.stage2 * 2 ^ 54 + f.level * 2 ^ 55 + f.cause * 2 ^ 57 + f.addr * 2 ^ 59
  ((((d.bumpLd q.counts 0x0D).doorbell 0x382).raiseAt f.addr 0x105 .failure ld detail).fail q)

/-- Stage 2: caches, else a walk (R87, R94). -/
def Dev.stage2 (d : Dev) (q : Req) : Dev :=
  let fromPeer := match q.src with | .peer .. => true | _ => false
  if fromPeer && d.xl.lossOver then d.fail q
  else
    match d.look2 q.page with
    | some (f, d) => d.stage2Found q f
    | none =>
      let known := d.xl.xc.any fun x => x.same .s2l2 0 (q.page / 512)
      let d := (d.bump (if known then 0x16B else 0x16A)).noteMiss2 (q.page / 512)
      match d.wantWalk (.stage2 q.page) q.label with
      | some (w, d) => d.stageReq q (.walk2 w)
      | none => d.stageReq q .slot2

/-! ### Router (R37, R320, R321, R323) -/

/-- MetaValue as CXL encodes it (log 8). -/
def metaCode : Meta → Nat | .i => 0 | .a => 2 | .s => 3
def metaOf (n : Nat) : Meta := if n = 2 then .a else if n = 3 then .s else .i

/-- The message a forwarded request travels as (R301). -/
def Req.message (q : Req) (tag index : Nat) (braid : Option (Nat × Bool)) : Msg :=
  let op : MsgOp := match q.op with
    | .read => .rd | .write => if q.partial_ then .wrp else .wr | .inv => .inv | .evct => .evct
  { op := op, label := q.label, tag := BitVec.ofNat 16 tag, origin := BitVec.ofNat 5 index
    braid := braid.isSome, dir := match braid with | some (_, b) => b | none => false
    braidSeq := BitVec.ofNat 16 (match braid with | some (s, _) => s | none => 0)
    poison := q.isWrite && q.poison, line := BitVec.ofNat 43 (q.pool / 64)
    mv := if op = .evct then 0 else BitVec.ofNat 2 (metaCode q.mv)
    data := if q.isWrite then q.data else 0, mask := if op = .wrp then q.mask else 0 }

/-- Send a BRAID_SYNC message to a target, unless one is under way (R323). -/
def Dev.braidSync (d : Dev) (dev : Nat) : Dev :=
  let waiting := d.chain.tags.any fun e => match e.2 with | .mgmt s t _ => s = 6 && t = dev | _ => false
  if waiting then d
  else
    match d.freeTag, d.route (dev * 2 ^ 23) none with
    | some t, some p =>
      let body := leBytes 2 (d.chain.braidSeq.val dev 0)
      { d with chain.tags := d.chain.tags.put t (.mgmt 6 dev body) }.sendMsg p
        { op := .mgmt, label := 0x7F, tag := BitVec.ofNat 16 t, origin := BitVec.ofNat 5 d.chain.index
          dest := BitVec.ofNat 5 dev, subOp := 6, body := body }
    | _, _ => d

/-- A write of a host for a line that another device has snooped from its LD (R302). -/
def Dev.snooped (d : Dev) (q : Req) : Option Foreign :=
  if q.isWrite then d.home.foreign.find? fun f => some f.ld = q.hostLd && f.dpaLine = q.dpa / 64 else none

/-- Such a write travels to the snoop's home as SWB, on the way back of the SNP, and completes here (R302). -/
def Dev.snoopWriteback (d : Dev) (q : Req) (f : Foreign) : Dev :=
  (d.sendMsg f.port { op := .swb, label := q.label, tag := f.tag, origin := f.origin, line := BitVec.ofNat 43 (q.pool / 64)
                      data := q.data, poison := q.poison }).answer q .cmp

/-- A request for another device goes to its Tether port, or both ways round a braid (R320, R321, R323). -/
def Dev.forward (d : Dev) (q : Req) : Dev :=
  let unit := q.pool / mib2
  let dev := q.pool / 2 ^ 44
  let q := { q with cost := (d.routeCost dev).getD q.cost }
  match d.route unit none, d.freeTag with
  | none, _ => (d.noRoute q.pool d.chain.index).fail q
  | some _, none => d.stageReq q .router
  | some p, some t =>
    match (if q.cls = 0 then d.braidPorts unit else none) with
    | some (a, b) =>
      if d.chain.braidOk.contains dev then
        if (d.tport a).txRoom 0 && (d.tport b).txRoom 0 then
          let s := d.chain.braidSeq.val dev 0
          let d := { d with chain.tags := d.chain.tags.put t (.req q.id true [])
                            chain.braidSeq := d.chain.braidSeq.put dev ((s + 1) % 65536) }.stageReq q .remote
          (d.sendMsg a (q.message t d.chain.index (some (s, false)))).sendMsg b (q.message t d.chain.index (some (s, true)))
        else d.stageReq q .router
      else if (d.tport p).txRoom 0 then
        let d := { d with chain.tags := d.chain.tags.put t (.req q.id false []) }.stageReq q .remote
        (d.sendMsg p (q.message t d.chain.index none)).braidSync dev
      else d.stageReq q .router
    | none =>
      if (d.tport p).txRoom q.cls then
        ({ d with chain.tags := d.chain.tags.put t (.req q.id false []) }.stageReq q .remote).sendMsg p
          (q.message t d.chain.index none)
      else d.stageReq q .router

/-- The router: another device's Tether port, stage 2, or past it for a local direct extent, whose media address stage 1
gave. -/
def Dev.router (d : Dev) (q : Req) : Dev :=
  if d.viralWrite q then d.answer q .cmp
  else if q.pool / 2 ^ 44 ≠ d.chain.index then
    match d.snooped q with
    | some f => d.snoopWriteback q f
    | none => d.forward q
  else if q.media ≠ 0 || !q.attr.knotted then d.enterStation q .router
  else if d.room inStage2 stage2Mins stage2Shared q.cls then d.stage2 q
  else d.stageReq q .router

/-! ### Stage 1 (R49, R54, R77, R87) -/

/-- The first-level buffer of a request (R40, R90). -/
def Req.buf (q : Req) : Nat := match q.src with | .host l _ _ => linkNum l | _ => serviceBuf

/-- A host request accepted is counted by its final class (R417). -/
def Dev.countAccepted (d : Dev) (q : Req) : Dev :=
  if q.hostLd.isNone then d
  else if q.isRead then d.bumpLd q.counts (0x10 + q.cls)
  else if q.isWrite then d.bumpLd q.counts (0x14 + q.cls)
  else d

/-- What stage 1 does with a request whose extent entry it has: it waits where the router's queue grants it no entry (R26), and a C0
request to a shared region becomes C1 (R49, R54). -/
def Dev.stage1Found (d : Dev) (q : Req) (e : BitVec 64) : Dev :=
  let demote := extKind e = 2 && q.cls = 0
  if !d.room inRouter smallMins smallShared (if demote then 1 else q.cls) then d.stageReq q .slot1
  else
    let q := if demote then { q with label := mkLabel .c1 (labelGroup q.label) } else q
    let d := if demote then d.bumpLd q.counts 2 else d
    let d := d.countAccepted q
    if extDev e = d.chain.index && !extKnotted e then
      let a : Attr := { prot := protOf (extProt e), key := extKey e, shared := extKind e = 2, reflected := extRefl e }
      d.router { q with attr := a, media := extBase e % 2 ^ 22 * mib2 + q.dpa % mib2, pool := d.chain.index * 2 ^ 44 }
    else
      d.router { q with attr := { knotted := true, reflected := extRefl e }, pool := extDev e * 2 ^ 44 + extBase e * mib2 + q.dpa % mib2 }

/-- Stage 1: first-level buffer, extent cache, else a walk (R87, R94). -/
def Dev.stage1 (d : Dev) (q : Req) : Dev :=
  match q.dpaLd with
  | none => d
  | some ld =>
    let ext := q.dpa / mib2
    match d.look1 q.buf ld ext with
    | some (e, d) => d.stage1Found q e
    | none =>
      let d := (d.bump 0x16A).noteMiss1 ld ext
      match d.wantWalk (.stage1 ld ext) q.label with
      | some (w, d) => d.stageReq q (.walk1 w)
      | none => d.stageReq q .slot1

/-! ### The regulator (R28, R63 to R66) -/

/-- Minimums and shared part of the queue from the service engines (R26). -/
def serviceMins : List Nat := [16, 16, 16, 16]
def serviceShared : Nat := 64

/-- The service engines' queue grants a class an entry; a closed gate leaves C3 its minimum (R25, R40, R65). -/
def Dev.serviceRoom (d : Dev) (c : Nat) : Bool :=
  let occ := occupancy ((d.path.reqs.filter (·.stage = .service)).map (·.label))
  grants serviceMins serviceShared occ c && (c ≠ 3 || d.path.gate || occ.getD 3 0 < serviceMins.getD 3 0)

/-- A request that the regulator holds. -/
def Req.regulated (q : Req) : Bool :=
  !q.dead && (match q.stage with | .ingress | .service | .peerIn => true | _ => false)

/-- A downstream credit for a request: stage 1's queue, or stage 2's for a forwarded one (R25, R26). -/
def Dev.downstream (d : Dev) (q : Req) : Bool :=
  match q.stage with
  | .peerIn => d.room inStage2 stage2Mins stage2Shared q.cls
  | _ => d.room inStage1 smallMins smallShared q.cls

/-- C1 step of a group (R63). -/
def Dev.c1Step (d : Dev) (g : Nat) : Nat := (d.path.c1.val g {}).step

/-- The C2 group's state, at its cap before anything changes it (R64). -/
def Dev.c2Of (d : Dev) (g : Nat) : C2 := d.path.c2.val g { r := 16 * d.setting idC2Cap g }

/-- The candidate the regulator admits in a fabric clock (R66). -/
def Dev.candidate (d : Dev) : Option Req :=
  let ws := d.path.reqs.filter fun q => q.regulated && d.downstream q
  let best (l : List Req) : Option Req :=
    l.foldl (fun b q => match b with
      | none => some q
      | some x => if d.c1Step (labelGroup x.label) < d.c1Step (labelGroup q.label) then some q else some x) none
  match ws.find? (·.cls = 0) with
  | some q => some q
  | none =>
    match best (ws.filter (·.cls = 1)) with
    | some q => some q
    | none =>
      let groups := (List.range 64).map fun k => (d.path.rr + 1 + k) % 64
      match groups.findSome? fun g =>
          if 16 ≤ (d.c2Of g).a then ws.find? fun q => q.cls = 2 && labelGroup q.label = g else none with
      | some q => some q
      | none => if d.path.gate then ws.find? (·.cls = 3) else none

/-- A SCRUB job's read goes to its channel's scheduler where that grants an entry, else it waits in the station; a line that the write
buffer holds is not read (R216, R367). -/
def Dev.scrubSend (d : Dev) (q : Req) (h : Nat) : Dev :=
  let p := placeOf (h / 4 % 8) (max 1 d.dram.lines) (h / 32 * 4 + h % 4)
  if d.scrubSkips h then d.answer q .cmp
  else if d.schedRoom p.ch q.cls then
    let (id, d) := d.fresh
    (d.addAcc { id := id, kind := .read q.id, line := h, ch := p.ch, rank := p.rank, sub := p.sub, bank := p.bank, row := p.row
                label := q.label, who := 64, step := q.step, promoted := q.promoted, admitBnd := q.admitBnd }).stageReq q .sched
  else d.stageReq q .lsWait

/-- Admit one request (R37, R63, R66). -/
def Dev.letIn (d : Dev) (q : Req) : Dev :=
  let g := labelGroup q.label
  let d := if q.cls = 2 then
      let c := d.c2Of g
      { d with path.c2 := d.path.c2.put g { c with a := c.a - 16 }, path.rr := g }
    else d
  let mine := match q.src with | .host .. => true | _ => false
  let q := { q with
    admitBnd := d.clk.bnd, step := if q.cls = 1 then d.c1Step g else 0
    atBnd := if mine then q.atBnd else d.clk.bnd, atClk := if mine then q.atClk else d.clk.clk }
  match q.scrub, q.stage with
  | some h, _ => d.scrubSend q h
  | none, .peerIn => d.stage2 q
  | none, _ => d.stage1 q

/-! ### Requests that wait for room -/

/-- Order of the waiting places: the later stages first. -/
def waitRank : Stage → Nat | .lsWait => 0 | .slot2 => 1 | .router => 2 | .slot1 => 3 | _ => 4

/-- A request that waits for room is presented again where it waits. -/
def Dev.again (d : Dev) (q : Req) : Dev :=
  match q.stage with
  | .lsWait => match q.scrub with | some h => d.scrubSend q h | none => d.lineStation q
  | .slot2 => d.stage2 q
  | .router => d.router q
  | .slot1 => d.stage1 q
  | _ => d

/-- Present the waiting requests again: later stages first, then class order, C1 by step, then age (R63, R94). -/
def Dev.retry (d : Dev) : Dev :=
  let key (q : Req) : Nat := (waitRank q.stage * 4 + q.cls) * 8 + (7 - q.step)
  let ws := (d.path.reqs.filter fun q => waitRank q.stage < 4).mergeSort fun a b => key a ≤ key b
  each ws d fun d w =>
    match d.req w.id with
    | some q => if q.stage = w.stage then d.again q else d
    | none => d

/-- Writes that the coherence home holds for room in the write buffer are presented again once there is room (R26, R227). -/
def Dev.retryHome (d : Dev) : Dev :=
  let fits (id : Nat) : Bool := match d.req id with
    | some q => q.isWrite && q.stage = .home && d.wbRoomFor q.label (d.entriesFor q (q.media / 64))
    | none => false
  if d.home.queue.any fits then d.wakeHome.settleHome else d

/-- A response-channel answer to a snoop of another device, on the way back of its SNP (R302). -/
def Dev.snoopAnswer (d : Dev) (f : Foreign) (type : Nat) : Dev :=
  d.sendMsg f.port { op := .srsp, label := 0x40, tag := f.tag, origin := f.origin, srspType := BitVec.ofNat 2 type }

/-- A snoop of another device that reaches no host: it fails at its target, and the slot does not answer (R238, R301). -/
def Dev.snoopFails (d : Dev) (f : Foreign) : Dev :=
  d.sendMsg f.port { op := .rsp, label := 0x40, tag := f.tag, origin := f.origin, status := 1 }

/-- A host's writes for a line stand before its answer until the home has accepted them: those of the request channel until their
responses (R233). -/
def Dev.writesBefore (d : Dev) (ld dpaLine : Nat) : Bool :=
  d.path.reqs.any fun q => q.isWrite && q.hostLd = some ld && q.dpa / 64 = dpaLine

/-- Answer the snoops of other devices whose host has answered and whose earlier writes have gone ahead (R233, R302). -/
def Dev.releaseForeign (d : Dev) : Dev :=
  each d.home.foreign d fun d f =>
    match f.answer with
    | some t =>
      if d.writesBefore f.ld f.dpaLine then d else { d with home.foreign := d.home.foreign.erase f }.snoopAnswer f t
    | none => d

/-- What goes on by itself once something has been freed: snoop answers and acknowledgements that waited, requests that
waited for room, and drains of the write buffer (R31, R233, R236). -/
def Dev.flow (d : Dev) : Dev := d.sendUnsent.releaseRsps.releaseAcks.retryHome.retry.releaseForeign.takeRepairs.feed.feedImages

/-! ### Ingress (R22, R23, R51, R250 to R255, R262, R275) -/

/-- Minimums and shared part of a link's ingress queue (R26). -/
def Dev.ingressMins (d : Dev) (l : Nat) : List Nat := if (d.port (linkPort l)).halves then [32, 16, 8, 8] else [64, 32, 16, 16]
def Dev.ingressShared (d : Dev) (l : Nat) : Nat := (if (d.port (linkPort l)).halves then 192 else 384) - d.path.withdrawn.val (7 * 16 + l) 0

/-- Classes of a link's entries in the ingress queue. -/
def Dev.ingressOcc (d : Dev) (l : Nat) : List Nat :=
  occupancy ((d.path.reqs.filter fun q => q.stage = .ingress &&
    (match q.src with | .host k _ _ => linkNum k = l | _ => false)).map (·.label))

/-- The ingress queue of a link grants class c an entry; a closed gate leaves C3 its minimum (R25, R65, R255). -/
def Dev.ingressRoom (d : Dev) (l c : Nat) : Bool :=
  let occ := d.ingressOcc l
  grants (d.ingressMins l) (d.ingressShared l) occ c && (c ≠ 3 || d.path.gate || occ.getD 3 0 < (d.ingressMins l).getD 3 0)

/-- The bandwidth limit of an LD lets one more request of classes C1 to C3 through in the beat (R251). -/
def Dev.underLimit (d : Dev) (ld c : Nat) : Bool :=
  c = 0 || (d.ld ld).bwLimit = 0 || (d.ld ld).bwUsed < Config.bwRequests (d.ld ld).bwLimit

/-- The oldest request of a class in a link's receive store whose LD is under its limit. -/
def Dev.stored (d : Dev) (l c : Nat) : Option Req :=
  d.path.reqs.find? fun q => q.stage = .store && q.cls = c &&
    (match q.src with | .host k ld _ => linkNum k = l && d.underLimit ld c | _ => false)

/-- Grant the oldest stored request of a class an entry; its credit goes back to the host (R255). None is granted while the device
is quiet for a lower power state (R450). -/
def Dev.grantIngress (d : Dev) (l c : Nat) : Dev :=
  match (if d.ingressRoom l c && !d.power.quiet then d.stored l c else none) with
  | none => d
  | some q =>
    let d := if c = 0 then d else d.modLd q.counts fun x => { x with bwUsed := x.bwUsed + 1 }
    (d.stageReq q .ingress).say (.credit (linkOf l) (q.op = .write))

/-- A request answered as unmapped (R23, R275). A request that no decoder covers has no DPA: that Detail is free (log 11). -/
def Dev.unmapped (d : Dev) (l ld : Nat) (dpa : Option Nat) (tag : BitVec 16) (read : Bool) : Dev :=
  let d := (d.bumpLd ld 0x0E).doorbell 0x383
  let (x, d) := match dpa with
    | some a => (a, d)
    | none => let (v, d) := d.free 44; (v.toNat, d)
  (d.raise 0x100 .warning (some ld) x).answerAtIngress l (some ld) tag read

/-- A host has accepted the extent that covers a DPA (R132). -/
def Dev.mapped (d : Dev) (ld dpa : Nat) : Bool :=
  (d.ld ld).exts.any fun x =>
    (x.st = .held || x.st = .releasing) && x.start ≤ dpa / mib2 && dpa / mib2 < x.start + x.len

/-- A request of an LD that its region table takes: label, contract, receive store, and an entry at once where its class has
none waiting before it (R23, R51, R255). -/
def Dev.accept (d : Dev) (r : Region) (q : Req) (ld : Nat) (l : Nat) : Dev :=
  let cls := labelCls r.label
  let beam := cls = .c0 && 0 < (d.ld ld).allowance
  let demote := cls = .c0 && !beam
  let label := if demote then mkLabel .c1 (labelGroup r.label) else r.label
  let d := if beam then (d.modLd ld fun x => { x with allowance := x.allowance - 1 }).bumpLd ld 0
    else if demote then d.bumpLd ld 1 else d
  let g := labelGroup r.label
  let d := if demote then { d with path.demotedNow := if d.path.demotedNow.contains g then d.path.demotedNow
                                                     else d.path.demotedNow ++ [g] } else d
  let (id, d) := d.fresh
  let q := { q with id := id, label := label, stage := .store, pool := d.chain.index * 2 ^ 44
                    atBnd := d.clk.bnd, atClk := d.clk.clk }
  { d with path.reqs := d.path.reqs ++ [q] }.grantIngress l q.cls

/-- A request arrives at a host port. Nothing arrives on a link that is down or runs PCIe alone (R246). -/
def Dev.arrive (d : Dev) (k : Link) (ldId : BitVec 16) (hpa : BitVec 64) (q : Req) (tag : BitVec 16) : Dev :=
  let l := linkNum k
  let x := d.link l
  let read := q.isRead
  if !x.carries || !x.cxl then d
  else
    match d.ldOnLink l ldId.toNat with
    | none => (d.bump 0x1A4).answerAtIngress l none tag read
    | some ld =>
      let q := { q with src := .host k ld tag }
      if x.viral then d.answerAtIngress l (some ld) tag read
      else
        let dpa := d.dpaOf ld hpa.toNat
        if (d.ld ld).resetting then d.unmapped l ld dpa tag read
        else
          match dpa with
          | none => d.unmapped l ld none tag read
          | some a =>
            match d.regionAt ld a with
            | some r => if d.mapped ld a then d.accept r { q with dpa := a } ld l else d.unmapped l ld (some a) tag read
            | none => d.unmapped l ld (some a) tag read

/-! ### The commands -/

/-- A request of a host as it arrives. -/
def hostReq (op : ReqOp) (mv : Meta) : Req :=
  { id := 0, src := .scrub, op := op, mv := mv, label := 0, stage := .store }

/-- MEMRD (R22). -/
def execMemrd (l : Link) (ldId : BitVec 16) (hpa : BitVec 64) (mv : Meta) (tag : BitVec 16) (s : State) :
    Host.Outcome State Fault Refusal :=
  ok (s.dev.arrive l ldId hpa (hostReq .read mv) tag) s

/-- MEMWR (R29, R302). -/
def Dev.memwr (d : Dev) (l : Link) (ldId : BitVec 16) (hpa : BitVec 64) (mv : Meta) (tag : BitVec 16) (data : Line)
    (mask : BitVec 64) (poison : Bool) : Dev :=
  d.arrive l ldId hpa { hostReq .write mv with data := data, mask := mask, poison := poison } tag

def execMemwr (l : Link) (ldId : BitVec 16) (hpa : BitVec 64) (mv : Meta) (tag : BitVec 16) (data : Line) (mask : BitVec 64)
    (poison : Bool) (s : State) : Host.Outcome State Fault Refusal :=
  ok (s.dev.memwr l ldId hpa mv tag data mask poison) s

/-- MEMINV (R231). -/
def execMeminv (l : Link) (ldId : BitVec 16) (hpa : BitVec 64) (tag : BitVec 16) (s : State) :
    Host.Outcome State Fault Refusal :=
  ok (s.dev.arrive l ldId hpa (hostReq .inv .a) tag) s

/-- MEMCLNEVCT (R231). -/
def execMemclnevct (l : Link) (ldId : BitVec 16) (hpa : BitVec 64) (tag : BitVec 16) (s : State) :
    Host.Outcome State Fault Refusal :=
  ok (s.dev.arrive l ldId hpa (hostReq .evct .i) tag) s

/-- INGRESS_ENTRY_GRANT: the oldest stored request of a class gets an entry, where one is free for it (R255). -/
def execIngressEntryGrant (l : Link) (cls : Cls) (s : State) : Host.Outcome State Fault Refusal :=
  ok (s.dev.grantIngress (linkNum l) (clsNum cls)) s

/-- One fabric clock of the regulator (R66; log 5). -/
def Dev.regulate (d : Dev) : Dev :=
  if d.clk.clk < 500 then
    let d := match d.candidate with
      | some q => (d.letIn q).flow
      | none => d
    { d with clk.clk := d.clk.clk + 1 }
  else d

/-- REGULATOR_ADMIT (R66). -/
def execRegulatorAdmit (s : State) : Host.Outcome State Fault Refusal := ok s.dev.regulate s

/-- A request and what it has queued go to the head of their queues, AgeLimit boundaries after its admission (R67). -/
def Dev.promoteAge (d : Dev) (id : Nat) : Dev :=
  let due (from_ : Nat) : Bool := from_ + d.setting idAgeLimit 0 ≤ d.clk.bnd
  let mine (a : Acc) : Bool :=
    due a.admitBnd && (match a.kind with
      | .read q | .other q => q = id
      | .merge w | .write w | .rewrite w => w = id
      | .image c _ => (d.decodeReqs c).any (·.id = id)
      | .scrub => false)
  { d with
    path.reqs := d.path.reqs.map fun q =>
      if q.id = id && !q.regulated && q.stage ≠ .store && due q.admitBnd then { q with promoted := true } else q
    line.wb := d.line.wb.map fun w => if w.id = id && due w.admitBnd then { w with promoted := true } else w
    dram.accs := d.dram.accs.map fun a => if mine a then { a with promoted := true } else a }

/-- AGE_PROMOTION (R67). -/
def execAgePromotion (req : Nat) (s : State) : Host.Outcome State Fault Refusal := ok (s.dev.promoteAge req) s

/-! ### Walks end (R87 to R89, R92) -/

/-- The rest of a leaf block starts to fill once a walk has brought lines of it (R92). -/
def Dev.markFilling (d : Dev) (block : Nat) : Dev :=
  { d with xl.kc := d.xl.kc.map fun s =>
      if s.block = block && (s.valid ≠ BitVec.allOnes 36 || !s.recsValid) then { s with filling := true } else s }

/-- The requests that wait for a walk, in arrival order. -/
def Dev.walkers (d : Dev) (st : Stage) : List Nat := (d.path.reqs.filter (·.stage = st)).map (·.id)

/-- Every request of a list goes on as `f` says, in order. -/
def Dev.eachReq (d : Dev) (ids : List Nat) (f : Dev → Req → Dev) : Dev :=
  each ids d fun d id => match d.req id with | some q => f d q | none => d

/-- TABLE_WALK_COMPLETE: the walk's lines arrive; its requests go on, or fault together (R87, R89). A request of another page that was
merged into the walk for its S2L2 entry or knot line is presented again, and a fault of that entry is its own. A prefetch fills what
passes its checks, or is dropped (R95). -/
def Dev.walkDone (d : Dev) (id : Nat) (errs : List Burst) : Dev :=
  match d.xl.walks.find? (·.id = id) with
  | none => d
  | some w =>
    let d := { d with xl.walks := d.xl.walks.filter (·.id ≠ id) }
    let dropped (d : Dev) (ids : List Nat) : Dev := if w.prefetch && ids.isEmpty then d.bump 0x16C else d
    match w.target with
    | .stage1 ld ext =>
      let ids := d.walkers (.walk1 id)
      let r : Reader := { label := w.label, who := reqLd ld }
      match d.walk1 ld ext errs r with
      | (.ok e, d) => d.eachReq ids fun d q => (d.flbFill q.buf ld ext e).stage1Found q e
      | (.error f, d) => (dropped d ids).eachReq ids fun d q => (d.countAccepted q).walkFault q f
    | .stage2 page =>
      let ids := d.walkers (.walk2 id)
      match d.walk2 page errs { label := w.label } with
      | (.ok f, d) =>
        let d := if f.knot.isSome then d.markFilling (s2Addr f.entry) else d
        d.eachReq ids fun d q => if q.page = page then d.stage2Found q f else d.stage2 q
      | (.error f, d) =>
        (dropped d ids).eachReq ids fun d q => if q.page = page || f.level ≤ 2 then d.walkFault q f else d.stage2 q

def execTableWalkComplete (walk : Nat) (errs : List Burst) (s : State) : Host.Outcome State Fault Refusal :=
  ok (s.dev.walkDone walk errs).flow s

/-- Bring a block's record lines into its slot: a line that does not judge good counts as zeros (R120). -/
def Dev.fillRecs (d : Dev) (block : Nat) (errs : List Burst) : Dev :=
  let first := (block - unitLeaf + unitRecords) / 64
  let (v, d) := each ((List.range 20).zip (errs ++ List.replicate 20 0)) (0, d) fun (v, d) (i, e) =>
    let (j, d) := d.readTable (first + i) e {}
    if j.v.good then (v + j.data.toNat * 2 ^ (512 * i), d) else (v, d.bump 0x177)
  { d with xl.kc := d.xl.kc.map fun s =>
      if s.block = block then { s with recs := BitVec.ofNat 10240 v, recsValid := true } else s }

/-- KNOT_BLOCK_FILL_DONE: the other lines of a block and its record lines arrive (R92). A line that does not judge good stays
absent. -/
def Dev.blockFill (d : Dev) (block : Nat) (errs : List Burst) : Dev :=
  match d.kslot block with
  | none => d
  | some s =>
    if !s.filling then d
    else
      let need := (List.range 36).filter fun l => !s.valid.getLsbD l
      let d := each (need.zip (errs ++ List.replicate 36 0)) d fun d (l, e) => (d.kcFillLines block [l] [e] {}).2
      let d := if s.recsValid then d else d.fillRecs block (errs.drop need.length)
      { d with xl.kc := d.xl.kc.map fun x => if x.block = block then { x with filling := false } else x }

def execKnotBlockFillDone (block : Nat) (errs : List Burst) (s : State) : Host.Outcome State Fault Refusal :=
  ok (s.dev.blockFill block errs).flow s

/-- COUNTER_TREE_FETCH_DONE: a header or node arrives with its ancestors; the requests and drains that need it go on, or
fail (R178). -/
def Dev.fetchDone (d : Dev) (id : Nat) (errs : List Burst) : Dev :=
  match d.line.fetches.find? (·.id = id) with
  | none => d
  | some f =>
    let d := { d with line.fetches := d.line.fetches.filter (·.id ≠ id) }
    let ids := d.walkers (.header id)
    match d.fetchHeader f.attr f.page errs with
    | (true, d) => d.eachReq ids Dev.station
    | (false, d) => d.eachReq ids Dev.fail

def execCounterTreeFetchDone (fetch : Nat) (errs : List Burst) (s : State) : Host.Outcome State Fault Refusal :=
  ok (s.dev.fetchDone fetch errs).flow s

/-- COUNTER_WRITEBACK_COUNT: a cached header or node whose counters have risen 65,535 times in all is written back (R179). -/
def Dev.writebackCount (d : Dev) (n : Nat) : Dev :=
  match d.ctLook n with
  | some x => if x.dirty && 65535 ≤ x.incs then d.writeBackLine n else d
  | none => d

def execCounterWritebackCount (line : Nat) (s : State) : Host.Outcome State Fault Refusal :=
  ok (s.dev.writebackCount line) s

/-- FIRST_LEVEL_EXPIRY: an entry leaves its buffer at the 4,096th boundary after it was filled (R91). -/
def Dev.flbExpiry (d : Dev) (buf ld ext : Nat) : Dev :=
  let old (x : Flb) : Bool := x.ld = ld && x.ext = ext && x.filled + 4096 ≤ d.clk.bnd
  { d with xl.flb := d.xl.flb.put buf ((d.xl.flb.val buf []).filter fun x => !old x) }

def execFirstLevelExpiry (buf : Option Link) (ld : Fin 32) (ext : Nat) (s : State) : Host.Outcome State Fault Refusal :=
  ok (s.dev.flbExpiry (match buf with | some l => linkNum l | none => serviceBuf) ld.val ext) s

end Sys2Proof.Machine
end

