-- ==== Sys2Proof/Machine/Prism.lean ====
section
/-! DEFINITION. Prism (spec/05_prism.md): tokens (R134 to R136), the page framing (R137 to R140), the line path (R142 to R145,
R490), the stream framing and its state (R146 to R155); and the two line-station steps that rewrite a page: promotion (R118) and
minor overflow (R172). -/

namespace Sys2Proof.Machine

open Sys2Proof

/-! ### Tokens (R134, R135) -/

/-- Bytes a token takes before its output: tag and fields, and of a literal run the tag alone; none: a reserved tag. -/
def tokenLen (tag : Nat) : Option Nat :=
  if tag ≤ 0x7F then some 1 else if tag ≤ 0x8F then some 3 else if tag = 0x90 then some 2
  else if 0xA0 ≤ tag && tag ≤ 0xBF then some 9 else if tag = 0xFE then some 16 else if tag = 0xFF then some 1 else none

/-- Output bytes of a complete token. -/
def tokenOut (t : List Byte) : Nat :=
  let tag := (t.headD 0).toNat
  if tag ≤ 0x7F then tag + 1
  else if tag ≤ 0x8F then (t.getD 2 0).toNat + 4
  else if tag = 0x90 then (t.getD 1 0).toNat + 1
  else if 0xA0 ≤ tag && tag ≤ 0xBF then 8 * (tag % 32 + 1)
  else 0

/-- Offset of a match (R134). -/
def matchOffset (t : List Byte) : Nat := (t.headD 0).toNat % 16 * 256 + (t.getD 1 0).toNat + 1

/-- The next output byte of a held token other than a literal run, with `remain` bytes still due; the history newest first. -/
def tokenByte (t : List Byte) (remain : Nat) (hist : List Byte) : Byte :=
  let tag := (t.headD 0).toNat
  if tag ≤ 0x8F then hist.getD (matchOffset t - 1) 0
  else if tag = 0x90 then 0
  else t.getD ((tokenOut t - remain) % 8 + 1) 0

/-- A token is legal where it stands: no reserved tag, and a match within the history (R135, R136). -/
def tokenLegal (t : List Byte) (fill : Nat) : Bool :=
  let tag := (t.headD 0).toNat
  (tokenLen tag).isSome && (!(0x80 ≤ tag && tag ≤ 0x8F) || matchOffset t ≤ min 4096 fill)

/-- n bytes of a token's output put before a history that is newest first. -/
def emit (t : List Byte) : Nat → List Byte → List Byte
  | 0, h => h
  | n + 1, h => emit t n (tokenByte t (n + 1) h :: h)

/-! ### Page framing (R137, R138) -/

/-- Decode a sub-block to exactly `size` bytes; the output so far newest first. None: a decode error (R136, R138). -/
def decodeUnit (size : Nat) : Nat → List Byte → List Byte → Option (List Byte)
  | _, [], out => if out.length = size then some out.reverse else none
  | 0, _, _ => none
  | fuel + 1, b :: rest, out =>
    let tag := b.toNat
    match tokenLen tag with
    | none => none
    | some n =>
      if 0xFE ≤ tag || rest.length + 1 < n then none
      else if tag ≤ 0x7F then
        let k := tag + 1
        if rest.length < k || size < out.length + k then none
        else decodeUnit size fuel (rest.drop k) ((rest.take k).reverse ++ out)
      else
        let t := b :: rest.take (n - 1)
        if !tokenLegal t out.length || size < out.length + tokenOut t then none
        else decodeUnit size fuel (rest.drop (n - 1)) (emit t (tokenOut t) out)

/-- Sub-block i of an image (R137, R138). -/
def decodeSub (image : List Byte) (size i : Nat) : Option (List Byte) :=
  let index := image.take 32
  if indexValid index size then
    let c := slice image (imgStart index i) (imgEnd index i - imgStart index i)
    decodeUnit 256 (c.length + 1) c []
  else none

/-- Size class of a coded size; none: above 3 KiB (R139). -/
def sizeClass (t : Nat) : Option Nat :=
  if t ≤ 1024 then some 0 else if t ≤ 2048 then some 1 else if t ≤ 3072 then some 2 else none

/-! ### The line path (R142 to R145) -/

/-- Detail of a class 8 event (R391). -/
def prismDetail (page sub : Nat) (k : BitVec 36) : Nat := page + sub % 16 * 2 ^ 32 + k.toNat * 2 ^ 36

/-- A Prism fault: event of the engine's source and record (R141, R144). -/
def Dev.prismFault (d : Dev) (engine code page sub : Nat) (k : BitVec 36) : Dev :=
  (d.faultEvent (srcEngine engine) code (prismDetail page sub k)).raise 0x106 .failure none (prismDetail page sub k)

/-- Read image lines of a coded page: their bytes in place (zeros for the lines not read), and whether each released data. -/
def Dev.readImageLines (d : Dev) (a : Attr) (page : Nat) (k : BitVec 36) (lines : List Nat) (label : Label) (who : BitVec 8) :
    List Byte × Bool × Bool × Dev :=
  let first := (d.shadeBase + knotBody k * kib) / 64
  each lines (zeros (1024 * (knotClass k + 1)), true, false, d) fun (img, good, lost, d) i =>
    let b := d.bindOf a (first + i) page 0 (some i) (d.oldKey (first + i))
    let (j, p) := d.judgeLine b (first + i) false 0 false 0
    let d := d.noteLine a (first + i) page p j.v label who false
    if j.v.good then
      (overlay img (64 * i) (leBytes 64 (d.decipher b j.data).toNat), good, lost, d.rewrite b (first + i) a page 0 j p)
    else (img, false, lost || (match j.v with | .lost _ => true | _ => false), d)

/-- Keep a decoded sub-block in its engine's part of staging (R143). -/
def Dev.stage (d : Dev) (x : Staging) : Dev :=
  let all := x :: d.prism.staging.filter fun s => !(s.first = x.first && s.sub = x.sub)
  let mine := (all.filter (·.engine = x.engine)).take 512
  { d with prism.staging := all.filter fun s => s.engine ≠ x.engine || mine.contains s }

/-- Work of an engine for the line path that goes before every other: the decode whose lines are all there, in class order and, within a
class, oldest first (R145). -/
def Dev.engineNext (d : Dev) (e : Nat) : Option Decode :=
  (d.prism.decodes.filter fun c => c.engine = e && c.ready).foldl
    (fun b c => match b with | none => some c | some x => if c.label.toNat / 64 < x.label.toNat / 64 then some c else some x) none

/-- PRISM_SUBBLOCK_DECODE_DONE: the engine's next decode ends: the sub-block is staged, unless its knot has changed since, and its
requests are answered; a decode error answers poison (R142 to R145). -/
def Dev.decodeDone (d : Dev) (id : Nat) : Dev :=
  match d.prism.decodes.find? (·.id = id) with
  | none => d
  | some c =>
    if d.engineNext c.engine ≠ some c then d
    else
      let ids := d.walkers (.image id)
      let d := (d.dropDecode id).bump 0x170
      match decodeSub c.img (1024 * (knotClass c.knot + 1)) c.sub with
      | none =>
        let d := (d.bump 0x172).prismFault c.engine 2 c.page c.sub c.knot
        d.eachReq ids fun d q => d.answer q .poison
      | some x =>
        let d := if c.stale then d else d.stage { engine := c.engine, first := knotBody c.knot, sub := c.sub, data := x }
        d.eachReq ids fun d q => d.answer q (.data (BitVec.ofNat 512 (leNat (slice x (64 * (q.lineIdx % 4)) 64))))

def execPrismSubblockDecodeDone (dec : Nat) (s : State) : Host.Outcome State Fault Refusal := ok (s.dev.decodeDone dec).flow s

/-! ### Promotion (R118, R144) -/

/-- Write a page's line at its new place with the protection it calls for, its minor as it was; none: stored poison. -/
def Dev.putLine (d : Dev) (a : Attr) (n page minor : Nat) (x : Option Line) : Dev :=
  let d := d.supersede n
  d.setBurst (d.locate n false).1 (d.seal (d.bindOf a n page minor none) (x.getD 0) x.isNone)

/-- Decode the sub-blocks that hold written lines and write those lines at the new place: a sub-block in error loses its written
lines, one whose image lines release no data leaves stored poison (R118 step 3, R144, R165). -/
def Dev.placePromotion (d : Dev) (p : Promo) (h : Line) : Dev :=
  let size := 1024 * (knotClass p.knot + 1)
  let (img0, good0, _, d) := d.readImageLines p.attr p.page p.knot [0] 0xC0 reqNone
  each (List.range 16) d fun d sub =>
    let written := ((List.range 4).map fun j => 4 * sub + j).filter fun i => hdrMinor h i ≠ 0
    if written.isEmpty then d
    else
      let (img, good, _, d) :=
        if good0 && indexValid img0 size then
          let (more, g, l, d) := d.readImageLines p.attr p.page p.knot (subLines img0 sub) 0xC0 reqNone
          (overlay more 0 (img0.take 64), g, l, d)
        else (img0, good0, false, d)
      if !good then each written d fun d i => d.putLine p.attr (d.knotLine p.dest i) p.page (hdrMinor h i) none
      else
        match decodeSub img size sub with
        | some x => each written d fun d i => d.putLine p.attr (d.knotLine p.dest i) p.page (hdrMinor h i)
            (some (BitVec.ofNat 512 (leNat (slice x (64 * (i % 4)) 64))))
        | none =>
          let e := d.engineFor (knotBody p.knot) sub
          (((d.bump 0x172).prismFault e 2 p.page sub p.knot).markLost p.page
            (BitVec.ofNat 64 (written.foldl (fun n i => n + 2 ^ i) 0)))

/-- PROMOTION_DONE (R118 steps 3 to 5): the lines are at their
new place, the knot changes, the old slots are free, and the requests of the entry follow in order. A header that fails its
check fails the requests that need it, and nothing moves (R178). -/
def Dev.promotionDone (d : Dev) (e : Nat) : Dev :=
  match d.tiers.promo.look e with
  | none => d
  | some p =>
    let ids := d.walkers (.promo e)
    let key := d.pageRegion p.page
    let give (d : Dev) (n : Nat) : Dev := match key with | some k => d.credit k n | none => d
    let (good, d) := d.fetchHeader p.attr p.page []
    let d := { d with tiers.promo := d.tiers.promo.del e }
    if !good then ((give d (4 - knotKib p.knot)).freeKnot p.dest).eachReq ids Dev.fail
    else
      let block := p.attr.base + unitLeaf
      let (same, d) :=
        if d.knotAt block (p.page % 512) = p.knot then
          let d := d.placePromotion p (d.header p.attr.base p.page)
          (true, ((d.drawDecodes p.knot).changeKnot block p.page p.knot p.dest).freeKnot p.knot)
        else (false, (give d (4 - knotKib p.knot)).freeKnot p.dest)
      let d := if same then d.bump 0x175 else d
      d.eachReq ids fun d q => d.stage2 { q with waited := true }

def execPromotionDone (entry : Fin 32) (s : State) : Host.Outcome State Fault Refusal := ok (s.dev.promotionDone entry.val).flow s

/-! ### Minor overflow (R172, R173) -/

/-- Where line i of a page stands: its own place, and the destination of a move once its copy entry has issued (R361). -/
def Dev.linePlaces (d : Dev) (w : Wb) (i : Nat) : List Nat :=
  match d.tiers.moves.find? fun m => m.page = w.page && m.placed && m.dir = 0 with
  | some m =>
    let n := d.knotLine m.src i
    if (d.copyEntry n).isSome then [n] else [n, d.knotLine m.dst i]
  | none => [w.line / 64 * 64 + i]

/-- The written lines of an overflowing page, each with its index and what it released under the old Major; the overflowing line itself
only where its write is masked (R172). -/
def Dev.overflowLines (d : Dev) (w : Wb) (h : Line) : List (Nat × Nat × Option Line) × Dev :=
  let used := (List.range 64).filter fun i => hdrMinor h i ≠ 0
  let all := used.flatMap fun i => (d.linePlaces w i).map fun n => (i, n)
  each (all.filter fun e => e.2 ≠ w.line || w.kind = .masked) ([], d) fun (l, d) (i, n) =>
    let m := hdrMinor h i - d.lag n
    if m = 0 then (l ++ [(i, n, some 0)], d)
    else
      let b := d.bindOf w.attr n w.page m none (d.oldKey n)
      let (j, p) := d.judgeLine b n false 0 (d.fromSource n false 0) 0
      let d := d.noteLine w.attr n w.page p j.v w.label reqNone false
      (l ++ [(i, n, if j.v.good then some (d.decipher b j.data) else none)], d)

/-- The data of the write that met minor 127; none: it leaves stored poison (R165, R172). -/
def overflowOwn (w : Wb) (lines : List (Nat × Nat × Option Line)) : Option Line :=
  if w.poison then none
  else if w.kind = .masked then ((lines.find? (·.2.1 = w.line)).bind (·.2.2)).map fun x => mergeBytes x w.data w.mask
  else some w.data

/-- Re-encipher a line of a page under the header as it stands. -/
def Dev.reseal (d : Dev) (w : Wb) (n : Nat) (x : Option Line) : Dev :=
  let b := d.bindOf w.attr n w.page (d.minorOf w.attr n w.page) none (d.oldKey n)
  (d.dropRewrites n).setBurst (d.locate n false 0 (d.fromSource n false 0)).1 (d.seal b (x.getD 0) x.isNone)

/-- The header with its new Major and every written line's minor at 1, past the writes that a move has counted already; the lines
re-enciphered under it, and the write placed (R172, R173). -/
def Dev.placeOverflow (d : Dev) (w : Wb) (h : Line) (lines : List (Nat × Nat × Option Line)) : Dev :=
  let d := match w.twin.bind fun t => d.line.wb.find? (·.id = t) with
    | some o => d.setWb { o with counted := true }
    | none => d
  let d := d.dropWb w.id
  let top (i : Nat) : Nat := 1 + (d.linePlaces w i).foldl (fun m n => max m (d.lag n)) 0
  let h := each (List.range 64) h fun h i => if hdrMinor h i ≠ 0 then hdrSetMinor h i (top i) else h
  let d := (d.bump 0x164).throughHeader w.attr w.page h
  let d := each (lines.filter (·.2.1 ≠ w.line)) d fun d e => d.reseal w e.2.1 e.2.2
  d.reseal w w.line (overflowOwn w lines)

/-- MINOR_OVERFLOW: Major rises; every other written line of the page is re-enciphered under it with minor 1, and the write that
met minor 127 is placed with minor 1. A line that releases no data stays stored poison. Where Major is at its top the key ID has
failed and the write has no effect (R174). Every line is read under the old Major before the header changes. -/
def Dev.minorOverflow (d : Dev) (id : Nat) : Dev :=
  match d.line.wb.find? (·.id = id) with
  | none => d
  | some w =>
    if !(d.overflowing w && d.headerCached w.attr w.page && (d.wbOn w.line).head? = some w && !d.wbBusy id) then d
    else
      let h := d.header w.attr.base w.page
      let (lines, d) := d.overflowLines w h
      match d.raiseMajor w.attr w.page (d.keyOf w.attr w.line w.page) h with
      | (none, d) => d.dropWb id
      | (some h, d) => d.placeOverflow w h lines

def execMinorOverflow (entry : Nat) (s : State) : Host.Outcome State Fault Refusal := ok (s.dev.minorOverflow entry).flow s

/-! ### Stream framing (R146 to R155) -/

/-- How the decoding of a descriptor's input ends. -/
inductive StreamEnd
  | done | full | check | error (offset : Nat)
  deriving DecidableEq, Repr, Inhabited

/-- One uncompressed byte into a stream's window, totals and CRC (R154). -/
def Stream.take (s : Stream) (b : Byte) : Stream :=
  { s with
    window := (if s.window.length < 4096 then s.window else s.window.drop 1) ++ [b]
    pos := (s.pos + 1) % 4096, uncoded := s.uncoded + 1, crc := crc32Step s.crc b }

/-- Reset of the history (R149). -/
def Stream.flushed (s : Stream) : Stream := { s with window := [], blockFill := 0 }

/-- The trailer's totals agree (R150). -/
def Stream.trailerGood (s : Stream) (t : List Byte) : Bool :=
  rsvd t 12 4 && (s.joined || (field t 1 7 = s.uncoded && field t 8 4 = (~~~ s.crc).toNat))

/-- One step of the decoder: a byte taken or a byte written; `none` for the end when it goes on. Output newest first. Output past the Length
that a later trailer declares ends there as STREAM_CHECK (DESIGN CHOICE, log 47: R136 and R150 both apply); output that is full at a token
boundary ends the descriptor before a following FFh or FEh is read (DESIGN CHOICE, log 50: R152 is silent). -/
def streamStep (s : Stream) (inp out : List Byte) (room : Nat) : Stream × List Byte × List Byte × Nat × Option StreamEnd :=
  if s.remain ≠ 0 then
    if (s.pend.headD 0).toNat ≤ 0x7F then
      match inp with
      | [] => (s, inp, out, room, some .done)
      | b :: rest =>
        if room = 0 then (s, inp, out, room, some .full)
        else
          let s := { s.take b with remain := s.remain - 1, coded := s.coded + 1 }
          ((if s.remain = 0 then { s with pend := [] } else s), rest, b :: out, room - 1, none)
    else if room = 0 then (s, inp, out, room, some .full)
    else
      let b := tokenByte s.pend s.remain s.window.reverse
      let s := { s.take b with remain := s.remain - 1 }
      ((if s.remain = 0 then { s with pend := [] } else s), inp, b :: out, room - 1, none)
  else
    match inp with
    | [] => (s, inp, out, room, some .done)
    | b :: rest =>
      if s.closed then (s, inp, out, room, some .check)
      else if room = 0 then (s, inp, out, room, some .full)
      else
        let s := { s with pend := s.pend ++ [b], coded := s.coded + 1 }
        let bad := StreamEnd.error (s.coded - s.pend.length)
        match tokenLen (s.pend.headD 0).toNat with
        | none => ({ s with valid := false }, rest, out, room, some bad)
        | some n =>
          if s.pend.length < n then (s, rest, out, room, none)
          else if !tokenLegal s.pend s.window.length then ({ s with valid := false }, rest, out, room, some bad)
          else if s.pend.headD 0 = 0xFF then ({ s.flushed with pend := [] }, rest, out, room, none)
          else if s.pend.headD 0 = 0xFE then
            let good := s.trailerGood s.pend && rest.isEmpty
            ({ s with closed := true, pend := [] }, rest, out, room, some (if good then .done else .check))
          else ({ s with remain := tokenOut s.pend }, rest, out, room, none)

/-- Decode until the input is used up or the output is full (R152). -/
def streamDecode : Nat → Stream → List Byte → List Byte → Nat → Stream × List Byte × List Byte × StreamEnd
  | 0, s, inp, out, _ => (s, inp, out.reverse, .done)
  | fuel + 1, s, inp, out, room =>
    match streamStep s inp out room with
    | (s, inp, out, _, some e) => (s, inp, out.reverse, e)
    | (s, inp, out, room, none) => streamDecode fuel s inp out room

/-- The decoder's work on a descriptor up to the first token end after at least `least` tokens, or to where the descriptor would end: the
stream, the input left, the output newest first (R156). -/
def streamGo : Nat → Nat → Stream → List Byte → List Byte → Nat → Stream × List Byte × List Byte
  | 0, _, s, inp, out, _ => (s, inp, out)
  | fuel + 1, least, s, inp, out, room =>
    let ends := s.remain = 0 && s.pend.isEmpty
    if ends && least = 0 then (s, inp, out)
    else
      match streamStep s inp out room with
      | (_, _, _, _, some _) => (s, inp, out)
      | (s, inp, out, room, none) => streamGo fuel (if ends then least - 1 else least) s inp out room

/-- Output bound of an encode descriptor (R148). -/
def outMax (len : Nat) (flush end_ : Bool) : Nat :=
  len + 8 * max (ceilDiv len 256) (flag (flush || end_)) + 16 * flag end_

/-- Whether a byte string is a coding of an input under R147: tokens whose outputs, joined, are the input, none across a 256-byte
block of the descriptor, none reserved, every match within the history. The window newest first; `done` input bytes coded. -/
def codesTokens : Nat → List Byte → List Byte → List Byte → Nat → Bool
  | _, [], inp, _, _ => inp.isEmpty
  | 0, _, _, _, _ => false
  | fuel + 1, b :: rest, inp, hist, done =>
    let tag := b.toNat
    match tokenLen tag with
    | none => false
    | some n =>
      if 0xFE ≤ tag || rest.length + 1 < n then false
      else
        let k := tokenOut (b :: rest.take (n - 1))
        if inp.length < k || 256 < done % 256 + k then false
        else if tag ≤ 0x7F then
          rest.take k = inp.take k &&
            codesTokens fuel (rest.drop k) (inp.drop k) (((inp.take k).reverse ++ hist).take 4096) (done + k)
        else
          let t := b :: rest.take (n - 1)
          tokenLegal t hist.length && (emit t k hist).take k = (inp.take k).reverse &&
            codesTokens fuel (rest.drop (n - 1)) (inp.drop k) ((emit t k hist).take 4096) (done + k)

/-- The trailer of a stream (R150). -/
def Stream.trailer (s : Stream) : List Byte := 0xFE :: leBytes 7 s.uncoded ++ leBytes 4 (~~~ s.crc).toNat ++ zeros 4

/-- State after the whole input of an encode descriptor. -/
def Stream.takeAll (s : Stream) (inp : List Byte) : Stream := each inp s Stream.take

/-- What an encode descriptor must end with: FFh at FLUSH or END, then the trailer at END (R149, R150). -/
def Stream.tail (s : Stream) (flush end_ : Bool) : List Byte :=
  (if flush || end_ then [0xFF] else []) ++ (if end_ then s.trailer else [])

/-- An encode descriptor's output, as the engine chose it, is a coding of its input with the tail its flags call for and within
the bound (R147 to R150); a descriptor resumed under R155 counts its blocks and its bound from its first byte. -/
def Stream.encodes (s : Stream) (inp coded : List Byte) (flush end_ : Bool) : Bool :=
  let t := (s.takeAll inp).tail flush end_
  let body := coded.take (coded.length - t.length)
  s.outDone + coded.length ≤ outMax (s.inDone + inp.length) flush end_ && t.length ≤ coded.length && coded.drop (coded.length - t.length) = t &&
    codesTokens (body.length + 1) body inp s.window.reverse s.inDone

/-- State after an encode descriptor. Without FLUSH, a last block that has ended leaves BlockFill at the bytes coded of the block that
follows (DESIGN CHOICE, log 51: R154 is silent). -/
def Stream.encoded (s : Stream) (inp coded : List Byte) (flush end_ : Bool) : Stream :=
  let s := s.takeAll inp
  let s := if flush || end_ then s.flushed else s
  { s with coded := s.coded + coded.length, closed := end_, blockFill := if flush || end_ then 0 else (s.inDone + inp.length) % 256 }

/-- The 4,160 bytes of a stream state (R154). Window bytes the stream has not written are 0. -/
def Stream.bytes (s : Stream) : List Byte :=
  let fill := s.window.length
  let w := (List.range 4096).map fun i =>
    let back := (s.pos + 4096 - 1 - i) % 4096
    if back < fill then s.window.getD (fill - 1 - back) 0 else 0
  let body := w ++ [0x01, BitVec.ofNat 8 (flag s.decode + 2 * flag s.valid + 4 * flag s.closed + 8 * flag s.joined)] ++
    leBytes 2 fill ++ leBytes 2 s.pos ++ leBytes 2 s.blockFill ++ leBytes 8 s.uncoded ++ leBytes 8 s.coded ++
    leBytes 4 s.crc.toNat ++ leBytes 4 s.inDone ++ leBytes 4 s.outDone ++ leBytes 1 s.pend.length ++ [0] ++
    leBytes 2 s.remain ++ s.pend ++ zeros (16 - s.pend.length) ++ zeros 4
  body ++ leBytes 4 (crc32 body).toNat

/-- A stream state as loaded; none: STATE_BAD (R155). The direction is compared by the job. -/
def Stream.load (b : List Byte) : Option Stream :=
  let at_ (o n : Nat) : Nat := field b o n
  let flags := at_ 0x1001 1
  let fill := at_ 0x1002 2
  let pos := at_ 0x1004 2
  let block := at_ 0x1006 2
  let pend := at_ 0x1024 1
  let remain := at_ 0x1026 2
  let decode := bit flags 0
  if b.length ≠ 4160 || at_ 0x1000 1 ≠ 1 || crc32 (b.take 0x103C) ≠ BitVec.ofNat 32 (at_ 0x103C 4) then none
  else if flags / 16 ≠ 0 || 4096 < fill || 4095 < pos || 255 < block || (decode && block ≠ 0) || 16 < pend || 259 < remain ||
      (!decode && (pend ≠ 0 || remain ≠ 0)) || !rsvd b 0x1025 1 || !rsvd b 0x1038 4 then none
  else
    some { decode := decode, valid := bit flags 1, closed := bit flags 2, joined := bit flags 3
           window := (List.range fill).map fun i => b.getD ((pos + 4096 - fill + i) % 4096) 0
           pos := pos, blockFill := block, uncoded := at_ 0x1008 8, coded := at_ 0x1010 8
           crc := BitVec.ofNat 32 (at_ 0x1018 4), inDone := at_ 0x101C 4, outDone := at_ 0x1020 4
           pend := slice b 0x1028 pend, remain := remain }

end Sys2Proof.Machine
end

