-- ==== Sys2Proof/Machine/Extents.lean ====
section
/-! DEFINITION. DC extents and the tables behind them (spec/03 R76 to R86, R93; spec/04 R107 to R113; spec/09 R257 to R260):
extent entries, range units and their pool ranges, pins, commitments, and the CDAT notice (R267). -/

namespace Sys2Proof.Machine

open Sys2Proof

/-! ### Table entries written by firmware (R41, R84) -/

/-- Post an invalidation, with what follows its drain, and the key IDs that entries cease to name (R97, R98, R189). -/
def Dev.post (d : Dev) (s : Scope) (a : After) (keys : List (Nat × Nat) := []) : Dev :=
  let (id, d) := d.fresh
  { d with xl.changes := d.xl.changes ++ [{ id := id, scope := s, applied := false, waits := [], after := a, keys := keys }] }

/-- Media address of the S2L1 entry of a pool 2 MiB range. -/
def Dev.s2Dir (d : Dev) (range : Nat) : Nat := d.s2Base + range / 512 * 8

/-- Media address of the S2L2 entry of a pool range. -/
def Dev.s2Addr (d : Dev) (range : Nat) : Option Nat :=
  let e := d.entryAt (d.s2Dir range)
  if dirValid e then some (dirTable e + range % 512 * 8) else none

/-- A blank 4 KiB table at an address. -/
def Dev.blankTable (d : Dev) (addr : Nat) : Dev := d.blankLines (addr / 64) (addr / 64 + 64)

/-- The S1L2 table of an extent index, made where there is none: the lowest free one (log 7). None: all 65,536 are in use
(R85). -/
def Dev.makeS1 (d : Dev) (ld ext : Nat) : Option Dev :=
  let key := ld * 16384 + ext / 512
  if d.tiers.s1tabs.has key then some d
  else
    (lowestFree (d.tiers.s1tabs.map (·.2) ++ d.tiers.s1held) 65536).map fun t =>
      let a := d.s1l2Base + t * 4096
      (({ d with tiers.s1tabs := d.tiers.s1tabs.put key t }.blankTable a).writeEntry (d.s1Dir ld ext) (mkDir a)).post (.dir1 ld (ext / 512)) .nothing

/-- The S2L2 table of a pool range, made where there is none. -/
def Dev.makeS2 (d : Dev) (range : Nat) : Option Dev :=
  if d.tiers.s2tabs.has (range / 512) then some d
  else
    (lowestFree (d.tiers.s2tabs.map (·.2) ++ d.tiers.s2held) 16384).map fun t =>
      let a := d.s2l2Base + t * 4096
      (({ d with tiers.s2tabs := d.tiers.s2tabs.put (range / 512) t }.blankTable a).writeEntry (d.s2Dir range) (mkDir a)).post (.dir2 (range / 512)) .nothing

/-- Write the S1L2 entry of an extent index, where a table holds it. -/
def Dev.setExt (d : Dev) (ld ext : Nat) (v : BitVec 64) : Dev :=
  (d.extAddr ld ext).elim d fun a => d.writeEntry a v

/-- Write the S2L2 entry of a pool range, where a table holds it. -/
def Dev.setS2 (d : Dev) (range : Nat) (v : BitVec 64) : Dev :=
  (d.s2Addr range).elim d fun a => d.writeEntry a v

/-- The extent entry of unit i of an extent (R77). -/
def extEntryOf (r : Region) (x : Extent) (i : Nat) : BitVec 64 :=
  mkExt r.kind r.knotted r.prot r.key r.label r.reflected x.dev (x.place.getD i 0)

/-- An entry with another KeyID: of an extent entry, of an S2L2 entry (R77, R79). -/
def extWithKey (e : BitVec 64) (key : Nat) : BitVec 64 :=
  BitVec.ofNat 64 (e.toNat - extKey e * 64 + key % 64 * 64)
def s2WithKey (e : BitVec 64) (key : Nat) : BitVec 64 :=
  BitVec.ofNat 64 (e.toNat - s2Key e * 2 ^ 43 + key % 64 * 2 ^ 43)

/-! ### Range units (R110, R175, R176) -/

/-- Initialise the unit of a new knotted range: knots zero, records zero, headers reset (R116). A sealed range's headers and
nodes are tree lines: where the unit last served a sealed range each Major rises by 1; otherwise they are written anew. -/
def Dev.initUnit (d : Dev) (u : Nat) (a : Attr) : Dev :=
  let base := d.unitAddr u
  let lines := (base + unitLeaf) / 64
  let d := d.blankLines lines ((base + unitNodes1) / 64)
  if a.prot ≠ .sealed then
    { d with tiers.treeUnits := d.tiers.treeUnits.filter (· ≠ u)
             line.ct := d.line.ct.filter fun x => x.line * 64 < base || base + 40 * kib ≤ x.line * 64 }.blankLines (base / 64)
      ((base + 40 * kib) / 64)
  else
    let d := d.initTree
    if d.tiers.treeUnits.contains u then each (List.range 512) d fun d i => ((d.fetchHeader a i []).2).resetHeader a i
    else
      let d := { d with tiers.treeUnits := u :: d.tiers.treeUnits }
      let fresh (d : Dev) (lvl idx : Nat) : Dev :=
        ((d.ctPut { line := d.nodeLine lvl idx, data := 0, dirty := true, tree := true }).writeBackLine (d.nodeLine lvl idx)).ctEvict
      let d := each (List.range 8) d fun d i => fresh d 2 (8 * u + i)
      let d := each (List.range 64) d fun d i => fresh d 1 (64 * u + i)
      let d := each (List.range 512) d fun d i => fresh d 0 (512 * u + i)
      each (List.range 512) d fun d i => ((d.fetchHeader a i []).2).resetHeader a i

/-- The lowest free pool 2 MiB range (log 7). -/
def Dev.freeRange (d : Dev) : Option Nat := lowestFree (d.tiers.owner.keys ++ d.tiers.units.keys) (2 ^ 23)

/-- Take a pool range and a unit for a knotted range of a region at a DPA unit, and write its S2L2 entry (R79, R110, R176). -/
def Dev.openRange (d : Dev) (r : Region) (unit : Nat) : Option (Nat × Dev) :=
  match d.freeRange, d.freeUnit (r.prot = .sealed) with
  | some range, some u =>
    (d.makeS2 range).map fun d =>
      let a : Attr := { prot := r.prot, key := r.key, shared := r.kind = .shared, knotted := true, base := d.unitAddr u }
      let d := { d with tiers.owner := d.tiers.owner.put range (regionKey r, unit), tiers.units := d.tiers.units.put range u }
      let e := mkS2 false r.prot (r.kind = .shared) false (d.unitAddr u + unitLeaf) r.key
      (range, ((d.initUnit u a).setS2 range e).post (.stage2 range 1) .nothing)
  | _, _ => none

/-- Attributes of a knotted range by its S2L2 entry. -/
def Dev.rangeAttr (d : Dev) (range : Nat) : Attr :=
  match d.s2At (range * 512) with
  | some s => s2Attr s
  | none => { knotted := true, base := d.unitAddr (d.tiers.units.val range 0) }

/-! ### Extents of LDs (R108, R258 to R260) -/

/-- Part of an extent: units a to b - 1 of it. -/
def Extent.part (x : Extent) (a b : Nat) : Extent :=
  { x with start := x.start + a, len := b - a, place := (x.place.drop a).take (b - a) }

/-- Lengths of the runs of units of an extent over which p, asked for the DPA unit, does not change. -/
def runs (p : Nat → Bool) (start : Nat) : Nat → List Nat
  | 0 => []
  | n + 1 =>
    match runs p (start + 1) n with
    | [] => [1]
    | k :: t => if p start = p (start + 1) then (k + 1) :: t else 1 :: k :: t

/-- An extent cut at the places where p changes. -/
def Extent.cut (x : Extent) (p : Nat → Bool) : List Extent :=
  ((runs p x.start x.len).foldl (fun (a : Nat × List Extent) k => (a.1 + k, a.2 ++ [x.part a.1 (a.1 + k)])) (0, [])).2

/-- Extents of an LD whose units satisfy p and stand in one state go to another; other units keep theirs. -/
def Dev.markUnits (d : Dev) (ld : Nat) (p : Nat → Bool) (from_ dest : ExtSt) : Dev :=
  d.modLd ld fun l => { l with
    exts := l.exts.flatMap fun x =>
      if x.st = from_ then (x.cut p).map fun y => if p y.start then { y with st := dest } else y else [x] }

/-- Put an extent into an LD's list, in order of start. -/
def Dev.addExtent (d : Dev) (ld : Nat) (x : Extent) : Dev :=
  d.modLd ld fun l => { l with exts := (l.exts.filter fun y => y.start < x.start) ++ x :: l.exts.filter fun y => x.start < y.start }

/-- The extent of an LD that holds a DPA unit, and the unit's number in it. -/
def Dev.extentAt (d : Dev) (ld unit : Nat) : Option (Extent × Nat) :=
  ((d.ld ld).exts.find? fun x => x.start ≤ unit && unit < x.start + x.len).map fun x => (x, unit - x.start)

/-- The place of a DPA unit of an LD: its extent, and the frame or pool range of the unit. -/
def Dev.placeAt (d : Dev) (ld unit : Nat) : Option (Extent × Nat) :=
  (d.extentAt ld unit).map fun e => (e.1, e.1.place.getD e.2 0)

/-- Replace the place of a DPA unit of an LD. -/
def Dev.setPlace (d : Dev) (ld unit place : Nat) : Dev :=
  d.modLd ld fun l => { l with
    exts := l.exts.map fun x =>
      if x.start ≤ unit && unit < x.start + x.len then { x with place := x.place.set (unit - x.start) place } else x }

/-- Extents of a region of this device's LD. -/
def Dev.regionExts (d : Dev) (r : Region) : List Extent :=
  (d.ld r.ld).exts.filter fun x => x.entry = r.entry

/-- Units of a region on this device whose extent entries name a key ID; extents not yet held name none (R189). -/
def Dev.entriesNaming (d : Dev) (r : Region) (key : Nat) : Nat :=
  if r.prot = .plain || r.home.isSome then 0
  else (d.regionExts r).foldl (fun n x =>
    if x.dev ≠ d.chain.index || x.st = .filling || x.st = .offered || x.st = .accepted then n
    else n + ((List.range x.len).filter fun i =>
      let e := d.extEntry r.ld (x.start + i)
      (if extValid e then extKey e else r.key) = key).length) 0

/-- The key IDs that a region's entries name, each with how often. -/
def Dev.keysNamed (d : Dev) (r : Region) : List (Nat × Nat) :=
  ((List.range 64).map fun k => (k, d.entriesNaming r k)).filter (·.2 ≠ 0)

/-- The regions of one shared set on LDs of this device, else the region alone (R226, R259). -/
def Dev.members (d : Dev) (r : Region) : List Region :=
  if r.kind = .shared then d.conf.regions.filter fun m => m.kind = .shared && m.set = r.set && m.home.isNone else [r]

/-- Every (LD, DPA unit) of this device's LDs whose extent names a place: of a knotted range, or of a direct frame. -/
def Dev.namers (d : Dev) (knotted : Bool) (place : Nat) : List (Nat × Nat) :=
  d.conf.regions.flatMap fun r =>
    if r.knotted = knotted && r.home.isNone then
      (d.regionExts r).flatMap fun x =>
        if x.dev = d.chain.index then x.place.zipIdx.filterMap fun e => if e.1 = place then some (r.ld, x.start + e.2) else none
        else []
    else []

/-- 2 MiB units of a region accepted by the host, on one device or on all (R132, R373). -/
def Dev.visible (d : Dev) (r : Region) (dev : Option Nat) : Nat :=
  ((d.regionExts r).filter fun x => (x.st = .held || x.st = .releasing) && (dev.isNone || dev = some x.dev)).foldl
    (fun n x => n + x.len) 0

/-! ### Commitments (R107, R111, R121) -/

/-- F: bytes of the frame area in the free lists or in use; the frames a drain took out do not count (R109, R222). -/
def Dev.frameArea (d : Dev) : Nat :=
  d.shadeBase - 4096 * d.outWithin 0 d.frameTotal

/-- Media that firm and shared extents commit on this device, in 2 MiB units: a reflected one twice; media of a shared set
once (R107). -/
def Dev.firmUnits (d : Dev) : Nat :=
  let l := d.conf.regions.flatMap fun r =>
    if r.kind = .elastic || r.home.isSome then []
    else (d.regionExts r).flatMap fun x =>
      if x.dev = d.chain.index then x.place.map fun p => (r.knotted, p, if r.reflected then 2 else 1) else []
  (l.eraseDups).foldl (fun n e => n + e.2.2) 0

/-- Sum of the commitments C of elastic regions on this device, in 2 MiB units (R111, R121). -/
def Dev.elasticUnits (d : Dev) : Nat :=
  (d.conf.regions.filter (·.kind = .elastic)).foldl (fun n r => n + d.quotaUnits r) 0

/-- The tests of R111 with n more 2 MiB units of firm or shared media. -/
def Dev.commits (d : Dev) (n : Nat) : Bool :=
  let firm := (d.firmUnits + n) * mib2
  let shade := d.setting idShadeSize 0 * gib
  firm ≤ d.frameArea && 16 * (firm + d.elasticUnits * mib2) ≤ 16 * d.frameArea + 15 * shade

/-! ### The C0 bound (R60) and pins (R93, R106) -/

/-- A condition of R57, or 0 for a refault or a rate drop, lapses for an LD (R60). -/
def Dev.suspend (d : Dev) (ld cond : Nat) : Dev :=
  if (d.ld ld).lapsed.getLsbD cond then d
  else
    (d.modLd ld fun x => { x with lapsed := x.lapsed ||| BitVec.ofNat 8 (2 ^ cond) }).raise 0x101 .warning (some ld) cond

/-- The condition returns (R60). -/
def Dev.restore (d : Dev) (ld cond : Nat) : Dev :=
  if !(d.ld ld).lapsed.getLsbD cond then d
  else
    (d.modLd ld fun x => { x with lapsed := x.lapsed &&& ~~~(BitVec.ofNat 8 (2 ^ cond)) }).raise 0x102 .info (some ld) cond

/-- Regions that a cinch past its preparation is about to put in force: what it pins stays pinned (R93, R346 step 2). -/
def Dev.cinchRegions (d : Dev) : List Region :=
  match d.conf.sheet with
  | some x =>
    match x.cinch with
    | some c => if c.phase = .preparing then [] else x.staged.filterMap fun e => match e with | .region r => some r | _ => none
    | none => []
  | none => []

/-- The extent entries to be pinned: every valid extent of a region whose default label has class C0 (R93). -/
def Dev.pinTargets (d : Dev) : List (Nat × Nat) :=
  (d.conf.regions ++ d.cinchRegions).flatMap fun r =>
    if labelCls r.label = .c0 && r.home.isNone then
      (d.regionExts r).flatMap fun x =>
        if x.st = .held || x.st = .releasing || x.st = .accepted then (List.range x.len).map fun i => (r.ld, x.start + i) else []
    else []

/-- The record of a walk fault that no request met (R89, R106, R491). -/
def Dev.faultRecord (d : Dev) (ld : Option Nat) (addr : Nat) (f : WFault) : Dev :=
  let detail := addr % 2 ^ 49 + d.chain.index * 2 ^ 49 + flag f.stage2 * 2 ^ 54 + f.level * 2 ^ 55 + f.cause * 2 ^ 57 + f.addr * 2 ^ 59
  (d.raiseAt f.addr 0x105 .failure ld detail).doorbell 0x382

/-- The cause for which a table entry of a kind is refused (R76, R78, R79). -/
def Dev.entryCause (d : Dev) (k : XKind) (v : Verdict) (e : BitVec 64) : Option Nat :=
  match k with
  | .s1l1 | .s2l1 => d.dirCause v e
  | .s1l2 => d.extCause v e
  | .s2l2 => d.s2Cause v e

/-- The place of an entry as a walk fault names it. -/
def XEntry.fault (x : XEntry) (cause : Nat) : WFault :=
  { stage2 := x.kind = .s2l1 || x.kind = .s2l2, level := if x.kind = .s1l1 || x.kind = .s2l1 then 1 else 2, cause := cause, addr := x.addr }

/-- First DPA or pool address an entry covers. -/
def XEntry.first (x : XEntry) (index : Nat) : Nat :=
  match x.kind with
  | .s1l1 => x.index * gib
  | .s1l2 => x.index * mib2
  | .s2l1 => index * 2 ^ 44 + x.index * gib
  | .s2l2 => index * 2 ^ 44 + x.index * mib2

/-- Load an entry from the tables into the extent cache, pinned. An entry that faults is not pinned: its record is raised, and
the C0 regions it covers lose their bound (R93, R106). -/
def Dev.pinEntry (d : Dev) (x : XEntry) : Bool × Dev :=
  let (j, d) := d.readTable (x.addr / 64) 0 {}
  let v := BitVec.ofNat 64 (lineField j.data (x.addr % 64) 8)
  match d.entryCause x.kind j.v v with
  | none => (true, d.xcFill x.kind x.ld x.index v x.addr true)
  | some c =>
    let d := { d with xl.xc := d.xl.xc.filter fun y => !y.same x.kind x.ld x.index }
    let stage1 := x.kind = .s1l1 || x.kind = .s1l2
    let d := d.faultRecord (if stage1 then some x.ld else none) (x.first d.chain.index) (x.fault c)
    (false, if stage1 then d.suspend x.ld 0 else d)

/-- Pin the S1L2 entry of an extent, and its S1L1 entry (R93). -/
def Dev.pinExt (d : Dev) (ld ext : Nat) : Dev :=
  let (_, d) := d.pinEntry { kind := .s1l1, ld := ld, index := ext / 512, value := 0, addr := d.s1Dir ld ext }
  match d.extAddr ld ext with
  | some a => (d.pinEntry { kind := .s1l2, ld := ld, index := ext, value := 0, addr := a }).2
  | none => d

/-- Pin what is to be pinned and is not; unpin the rest (R93). -/
def Dev.repin (d : Dev) : Dev :=
  let t := d.pinTargets
  let keep (x : XEntry) : Bool :=
    match x.kind with
    | .s1l2 => t.contains (x.ld, x.index)
    | .s1l1 => t.any fun e => e.1 = x.ld && e.2 / 512 = x.index
    | _ => x.pinned
  let d := { d with xl.xc := d.xl.xc.map fun x => { x with pinned := x.pinned && keep x } }
  each t d fun d e => if d.xl.xc.any fun x => x.same .s1l2 e.1 e.2 && x.pinned then d else d.pinExt e.1 e.2

/-! ### CDAT notice (R267) -/

/-- An LD's CDAT changes: its number rises, Table Changed is set, and a record is raised at each such change (R267). -/
def Dev.cdat (d : Dev) (ld : Nat) : Dev :=
  let d := d.modLd ld fun x => { x with cdatSeq := x.cdatSeq + 1, cdatChanged := true }
  d.raiseAlways 0x10F .info (some ld) (d.ld ld).cdatSeq.toNat

/-! ### Dynamic-capacity records (R258 to R260) -/

/-- Event records of an add or a release: at most 32 extents each, linked by More (R260). -/
def Dev.dcRecords : Nat → Dev → Nat → Bool → List (Nat × Nat) → BitVec 16 → Dev
  | 0, d, _, _, _, _ => d
  | fuel + 1, d, ld, release, exts, tag =>
    if exts.isEmpty then d
    else
      let more := 32 < exts.length
      let d := d.record { type := 0, log := .dc, ld := some ld, beat := d.clk.beat, detail := 0
                          dc := some (release, more, exts.take 32, tag) }
      Dev.dcRecords fuel d ld release (exts.drop 32) tag

/-- Send the records for a list of extents of an LD. -/
def Dev.dcEvent (d : Dev) (ld : Nat) (release : Bool) (exts : List (Nat × Nat)) (tag : BitVec 16) : Dev :=
  Dev.dcRecords (exts.length + 1) d ld release exts tag

/-- A contiguous list of units as (start, length) runs. -/
def unitRuns (l : List Nat) : List (Nat × Nat) :=
  l.foldr (fun u acc => match acc with
    | (s, n) :: t => if s = u + 1 then (u, n + 1) :: t else (u, 1) :: (s, n) :: t
    | [] => [(u, 1)]) []

end Sys2Proof.Machine
end

