-- ==== Sys2Proof/Machine/Mail.lean ====
section
/-! DEFINITION. How commands end on their interfaces (spec/12 R329 to R337): replies, refusals, background commands, and the
gate that the boot puts before them (R465). -/

namespace Sys2Proof.Machine

open Sys2Proof

/-- A command has completed on an interface: its return code, status and output (R329, R331), counted in 028h (R417). The output takes the
place of the input in the payload registers (log 8). -/
def Dev.finish (d : Dev) (box counts st : Nat) (ret : Ret) (out : List Byte) : Dev :=
  ((d.modBox box fun b => { b with inp := overlay b.inp 0 out, out := out, ret := ret, lastStatus := BitVec.ofNat 16 st }).say
    (.mailbox box ret out)).bumpLd counts 0x28

/-- A Jalend command answers with its status and the rest of its output (R335, R336). -/
def Dev.reply (d : Dev) (iss : Issuer) (st : Status) (body : List Byte) (noWork : Bool := false) : Dev :=
  d.finish (issuerBox iss) (issuerCounts iss) (st.code + 4096 * flag noWork) st.ret (statusWord st noWork ++ body)

/-- A Jalend command fails with an output of n bytes whose other fields read 0 (R335). -/
def Dev.refuse (d : Dev) (iss : Issuer) (st : Status) (n : Nat) : Dev := d.reply iss st (zeros (n - 2))

/-- The input length is wrong: an 8-byte output (R335). -/
def Dev.badLength (d : Dev) (iss : Issuer) : Dev := d.refuse iss .invalidLength 8

/-- A standard command answers. LastStatus takes the status that goes with its return code (R331; log 8). -/
def Dev.answerStd (d : Dev) (iss : Issuer) (ret : Ret) (out : List Byte) : Dev :=
  d.finish (issuerBox iss) (issuerCounts iss) ret.status.code ret out

/-- The interface runs a background command (R330). -/
def Dev.bgBusy (d : Dev) (iss : Issuer) : Bool := ((d.mbox (issuerBox iss)).bg.map (·.running)).getD false

/-- A background command starts (R330, R336). -/
def Dev.startBg (d : Dev) (iss : Issuer) (opcode : Nat) (job : Option Nat := none) : Dev :=
  let b : Bg := { opcode := BitVec.ofNat 16 opcode, running := true, ret := .success, out := [], job := job, counts := issuerCounts iss }
  (d.modBox (issuerBox iss) fun x => { x with bg := some b, ret := .bgStarted }).say (.mailbox (issuerBox iss) .bgStarted [])

/-- The background command of an interface ends: its result, LastStatus, and one event of an LD's vector 0 (R330, R413). -/
def Dev.endBgRet (d : Dev) (box : Nat) (ret : Ret) (st : Nat) (out : List Byte) : Dev :=
  match (d.mbox box).bg with
  | none => d
  | some b =>
    if !b.running then d
    else
      let d := d.modBox box fun x => { x with bg := some { b with running := false, ret := ret, out := out, job := none } }
      let d := d.finish box b.counts st ret out
      if box < 64 then d.vecEvent (box / 2) 0 else d

/-- It ends with a Jalend status and the rest of its output. -/
def Dev.endBg (d : Dev) (box : Nat) (st : Status) (body : List Byte) (noWork : Bool := false) : Dev :=
  d.endBgRet box st.ret (st.code + 4096 * flag noWork) (statusWord st noWork ++ body)

/-- The doorbell of an interface (R408). -/
def mailDoorbell (iss : Issuer) : Nat :=
  match iss with
  | .host ld .primary => 0x340 + ld.val
  | .host ld .secondary => 0x360 + ld.val
  | .mc _ => 0x380

/-- A command reaches firmware (R329, R332, R465): once it runs, every command; in recovery, the firmware commands of the
management controller, every other answered with Unsupported; before that, and in P2 and P3 with their entries, none (R447). -/
def Dev.command (d : Dev) (iss : Issuer) (opcode : Nat) (f : Dev → Dev) : Dev :=
  match d.boot with
  | .running => if d.awake then f (d.doorbell (mailDoorbell iss)) else d
  | .recovery =>
    if !issuerMc iss then d
    else if 0x200 ≤ opcode && opcode ≤ 0x202 then f d
    else d.finish 64 32 Status.unsupported.code .unsupported (if 0xC000 ≤ opcode then statusWord .unsupported ++ zeros 6 else [])
  | _ => d

/-- Diagnostics are unlocked (13 R386). -/
def Dev.unlocked (d : Dev) : Bool := d.host.diagUntil.isSome

end Sys2Proof.Machine
end

