-- ==== Sys2Proof/Machine/Changes.lean ====
section
/-! DEFINITION. Changes of tables (spec/03 R93, R96 to R106): invalidations posted and applied at a boundary, the drain of the
requests translated before, what follows it (R98, R130, R491), and the commands DIAG.POKE and TABLE.INVAL. -/

namespace Sys2Proof.Machine

open Sys2Proof

/-! ### Scopes -/

/-- A request has its stage-1 translation. -/
def Req.past1 (q : Req) : Bool :=
  match q.stage with | .store | .ingress | .service | .peerIn | .walk1 _ | .slot1 => false | _ => true

/-- A request has its stage-2 translation, and does not look it up again. -/
def Req.past2 (q : Req) : Bool :=
  match q.stage with
  | .header _ | .lsWait | .home | .snoop _ | .sched | .issued | .image _ | .remoteSnoop => true
  | _ => false

def Req.fromPeer (q : Req) : Bool := match q.src with | .peer .. => true | _ => false

/-- A request was translated through an entry of a scope. Ranges are 2 MiB: of an LD's DPA, of the pool (R97, R106). -/
def Dev.under (d : Dev) (s : Scope) (q : Req) : Bool :=
  match s with
  | .all => (q.dpaLd.isSome && q.past1) || q.past2
  | .stage1 ld first count =>
    q.dpaLd = some ld && q.past1 && first ≤ q.dpa / mib2 &&
      q.dpa / mib2 < first + count
  | .stage2 first count =>
    q.past2 && (q.attr.knotted || q.fromPeer) && q.pool / 2 ^ 44 = d.chain.index && first ≤ q.page / 512 && q.page / 512 < first + count
  | .dir1 ld index => q.dpaLd = some ld && q.past1 && q.dpa / gib = index
  | .dir2 index => q.past2 && (q.attr.knotted || q.fromPeer) && q.pool / 2 ^ 44 = d.chain.index && q.page / 512 / 512 = index

/-- A request that a recall register holds up no drain (R98, R240). -/
def Dev.inRecall (d : Dev) (q : Req) : Bool := q.stage = .home && d.recalled (q.media / 64)

/-- An extent-cache entry lies in a scope; a directory entry where a range of the scope stands below it. -/
def XEntry.inScope (x : XEntry) (s : Scope) : Bool :=
  let low (first : Nat) : Bool := first ≤ x.index
  match s, x.kind with
  | .all, _ => true
  | .stage1 ld first count, .s1l1 => x.ld = ld && low (first / 512) && x.index * 512 < first + count
  | .stage1 ld first count, .s1l2 => x.ld = ld && low first && x.index < first + count
  | .stage2 first count, .s2l1 => low (first / 512) && x.index * 512 < first + count
  | .stage2 first count, .s2l2 => low first && x.index < first + count
  | .dir1 ld index, .s1l1 => x.ld = ld && x.index = index
  | .dir2 index, .s2l1 => x.index = index
  | _, _ => false

def Flb.inScope (x : Flb) (s : Scope) : Bool :=
  match s with
  | .all => true
  | .stage1 ld first count => x.ld = ld && first ≤ x.ext && x.ext < first + count
  | _ => false

/-- Leaf blocks of the pool ranges of a scope, as their units and the cached entries name them. -/
def Dev.blocksIn (d : Dev) (first count : Nat) : List Nat :=
  ((d.tiers.units.filter fun e => first ≤ e.1 && e.1 < first + count).map fun e => d.unitAddr e.2 + unitLeaf) ++
  ((d.xl.xc.filter fun x => x.kind = .s2l2 && x.inScope (.stage2 first count)).map fun x => Machine.s2Addr x.value)

def Dev.blockInScope (d : Dev) (s : Scope) (block : Nat) : Bool :=
  match s with
  | .all => true
  | .stage2 first count => (d.blocksIn first count).contains block
  | _ => false

/-- An entry is one of those to be pinned (R93). -/
def Dev.pinned (d : Dev) (x : XEntry) : Bool :=
  match x.kind with
  | .s1l2 => d.pinTargets.contains (x.ld, x.index)
  | .s1l1 => d.pinTargets.any fun e => e.1 = x.ld && e.2 / 512 = x.index
  | _ => true

/-- Drop a scope from every cache: entries and slots removed, and their number; pinned entries loaded anew from the tables, and how many
were: one that faults is dropped (R97, R106), and one that is to be pinned no more just goes. -/
def Dev.dropScope (d : Dev) (s : Scope) : Nat × Nat × Dev :=
  let out := d.xl.kc.filter fun k => d.blockInScope s k.block
  let flb := d.xl.flb.foldl (fun n e => n + (e.2.filter (·.inScope s)).length) 0
  let hit := d.xl.xc.filter (·.inScope s)
  let pinned := (hit.filter fun x => x.pinned && d.pinned x).reverse
  let d := each out d Dev.kcWriteRecs
  let d := { d with
    xl.flb := d.xl.flb.map fun e => (e.1, e.2.filter fun x => !x.inScope s)
    xl.xc := d.xl.xc.filter fun x => !x.inScope s || pinned.contains x
    xl.kc := d.xl.kc.filter fun k => !(out.any (·.block = k.block)) }
  let (n, d) := each pinned (0, d) fun (n, d) x =>
    let x := if x.kind = .s1l2 then { x with addr := (d.extAddr x.ld x.index).getD x.addr } else x
    let (good, d) := d.pinEntry x
    (n + flag good, d)
  (flb + (hit.length - n) + out.length, n, d)

/-- At the boundary: the changes posted apply, and the requests that their drains wait for are known (R97, R98). -/
def Dev.applyChanges (d : Dev) : Dev :=
  let new := d.xl.changes.filter fun c => !c.applied
  each new d fun d c =>
    let (dropped, reloaded, d) := d.dropScope c.scope
    let waits := (d.path.reqs.filter fun q => d.under c.scope q && !d.inRecall q).map (·.id)
    let a := match c.after with | .inval box _ _ => After.inval box dropped reloaded | a => a
    { d with xl.changes := d.xl.changes.map fun x => if x.id = c.id then { x with applied := true, waits := waits, after := a } else x }

/-! ### Freed space (R98, R130, R491) -/

/-- The bit of an LD's slot leaves the entries of the lines of a media range: it stops being a sharer (R259). -/
def Dev.dropSharer (d : Dev) (ld lo hi : Nat) : Dev :=
  match d.slotOf d.chain.index ld with
  | none => d
  | some s =>
    let d := each d.home.dir d fun d x =>
      let set := x.1 / 16
      let e := d.de set (x.1 % 16)
      let n := lineOfDe set e
      if !(lo ≤ n && n < hi && (deSharers e).getLsbD s) then d
      else
        let rest := (List.range 32).filter fun y => (deSharers e).getLsbD y && y ≠ s
        d.setDe set (x.1 % 16) (mkDe (slotBits rest) (deTag e) (if rest.isEmpty then 0 else deState e) (deBusy e) (deAge e))
    let flows := d.home.flows.map fun f => if lo ≤ f.line && f.line < hi then { f with wait := f.wait.filter (· ≠ s) } else f
    { d with home.flows := flows }.settleHome

/-- Media line ranges of a unit of an extent on this device: of its frame, or of the pages of its range. -/
def Dev.unitLines (d : Dev) (knotted : Bool) (place : Nat) : List (Nat × Nat) :=
  if !knotted then [(place * 32768, place * 32768 + 32768)]
  else
    match d.tiers.units.look place with
    | none => []
    | some u => (List.range 512).filterMap fun i =>
        let k := d.knotAt (d.unitAddr u + unitLeaf) i
        if knotState k = 1 then some (knotBody k * 64, knotBody k * 64 + 64) else none

/-- Reset or hold a page of a range (R116, R130, R491): true where it could be taken. -/
def Dev.takePage (d : Dev) (a : Attr) (page : Nat) : Bool × Dev :=
  if d.knotTakes a page then (true, { d.resetPage a page with tiers.stuck := d.tiers.stuck.filter (· ≠ page) })
  else
    let d := d.faultRecord none (d.chain.index * 2 ^ 44 + page * 4096) (d.knotFault a page)
    (false, d.stickPage page)

/-- Reset or hold every page of a range: true where each could be taken. -/
def Dev.takePages (d : Dev) (range : Nat) : Bool × Dev :=
  let a := d.rangeAttr range
  each (List.range 512) (true, d) fun s i =>
    let t := s.2.takePage a (range * 512 + i)
    (s.1 && t.1, t.2)

/-- The S1L2 table of an extent index goes once its LD holds no extent there, and is free after the drain (R97, R98). -/
def Dev.freeS1 (d : Dev) (ld ext : Nat) : Dev :=
  let key := ld * 16384 + ext / 512
  if (d.ld ld).exts.any fun x => x.start / 512 ≤ ext / 512 && ext / 512 ≤ (x.start + x.len - 1) / 512 then d
  else
    match d.tiers.s1tabs.look key with
    | none => d
    | some t =>
      ({ d with tiers.s1tabs := d.tiers.s1tabs.del key, tiers.s1held := t :: d.tiers.s1held }.writeEntry (d.s1Dir ld ext) 0).post
        (.dir1 ld (ext / 512)) (.table1 t)

/-- The S2L2 table of a pool range goes once no range of it is in use, and is free after the drain. -/
def Dev.freeS2 (d : Dev) (range : Nat) : Dev :=
  if d.tiers.owner.any fun e => e.1 / 512 = range / 512 then d
  else
    match d.tiers.s2tabs.look (range / 512) with
    | none => d
    | some t =>
      ({ d with tiers.s2tabs := d.tiers.s2tabs.del (range / 512), tiers.s2held := t :: d.tiers.s2held }.writeEntry (d.s2Dir range) 0).post
        (.dir2 (range / 512)) (.table2 t)

/-- The media of one unit of an extent goes free once nothing names it any more: a direct frame at once; a knotted range's pages
are reset, its S2L2 entry goes, and its unit follows that change's drain (R98, R130, R176). -/
def Dev.freeUnitMedia (d : Dev) (knotted reflected : Bool) (dev place : Nat) : Dev :=
  if dev ≠ d.chain.index || !(d.namers knotted place).isEmpty then d
  else if !knotted then d.freeBigFrame place reflected
  else if !d.tiers.units.has place then d
  else
    let (all, d) := d.takePages place
    if all then
      let keys := match d.s2At (place * 512) with | some e => if s2Prot e ≠ 0 then [(s2Key e, 1)] else [] | none => []
      (d.setS2 place 0).post (.stage2 place 1) (.unit place) keys
    else d

/-- Free the media of the draining units of an LD for which p holds. -/
def Dev.freeDrained (d : Dev) (ld : Nat) (p : Nat → Bool) (reflected knotted : Bool) : Dev :=
  let gone := ((d.ld ld).exts.filter (·.st = .draining)).flatMap fun x => (x.cut p).filter fun y => p y.start
  let keep := (d.ld ld).exts.flatMap fun x => if x.st = .draining then (x.cut p).filter fun y => !p y.start else [x]
  let d := d.modLd ld fun l => { l with exts := keep }
  each gone d fun d x =>
    let d := each x.place d fun d place => d.freeUnitMedia knotted reflected x.dev place
    each (List.range x.len) d fun d i => if i = 0 || (x.start + i) % 512 = 0 then d.freeS1 ld (x.start + i) else d

/-- A unit of a knotted range whose entry has gone is free, with its pool range (R98, R176). -/
def Dev.closeRange (d : Dev) (range : Nat) : Dev :=
  { d with tiers.units := d.tiers.units.del range, tiers.owner := d.tiers.owner.del range }.freeS2 range

/-- A page move's end: the source goes free and its space is credited (R361 step 4); a recall register is cleared (R240). -/
def Dev.endMove (d : Dev) (id : Nat) : Dev :=
  match d.tiers.moves.find? (·.id = id) with
  | none => d
  | some m =>
    let d := { d with tiers.moves := d.tiers.moves.filter (·.id ≠ id) }
    let d := match m.recallSlot with | some r => d.clearRecall r | none => d
    let d := match d.pageRegion m.page with | some key => d.credit key (knotKib m.src) | none => d
    d.freeKnot m.src

/-- An extent move's end: the register is clear and the source frame free (R362). -/
def Dev.endExtMove (d : Dev) (reg : Nat) : Dev :=
  match d.tiers.extMoves.look reg with
  | none => d
  | some m =>
    let d := { d with tiers.extMoves := d.tiers.extMoves.del reg }
    let d := match m.recallSlot with | some r => d.clearRecall r | none => d
    d.freeBigFrame m.src m.attr.reflected

/-- What follows the drain of a change (R98). -/
def Dev.after (d : Dev) (a : After) : Dev :=
  match a with
  | .nothing => d
  | .inval box dropped reloaded => d.endBg box .success ([0, 0] ++ leBytes 4 dropped ++ leBytes 4 reloaded ++ zeros 4)
  | .release ld start len =>
    match d.regionAt ld (start * mib2) with
    | some r => d.freeDrained ld (fun u => start ≤ u && u < start + len) r.reflected r.knotted
    | none => d
  | .region r => d.freeDrained r.ld (fun u => r.base ≤ u && u < r.base + r.size) r.reflected r.knotted
  | .unit range => d.closeRange range
  | .table1 t => { d with tiers.s1held := d.tiers.s1held.erase t }
  | .table2 t => { d with tiers.s2held := d.tiers.s2held.erase t }
  | .move m => d.endMove m
  | .extentMove reg => if d.xl.changes.any (·.after = a) then d else d.endExtMove reg
  | .rekey reg => if d.xl.changes.any (·.after = a) then d else { d with line.rekey := d.line.rekey.del reg }
  | .sanitized slot =>
    if d.xl.changes.any (·.after = a) then d else
    { d with jobs.slots := d.jobs.slots.map fun e => if e.1 = slot then (e.1, { e.2 with ending := true }) else e }

/-- A page of a knotted range, or a direct frame, is being moved, promoted or converted (13 R360). -/
def Dev.unitHeld (d : Dev) (knotted : Bool) (place : Nat) : Bool :=
  if knotted then
    (d.tiers.moves.any fun m => m.page / 512 = place) || (d.tiers.promo.any fun e => e.2.page / 512 = place) ||
      d.line.rekey.any fun e => e.2.knotted && e.2.unit2m = place
  else
    (d.tiers.extMoves.any fun e => e.2.src = place) || d.line.rekey.any fun e => !e.2.knotted && e.2.unit2m = place

/-- The write buffer holds a write of a line of a knotted range, or of a direct frame (R42). -/
def Dev.placeBusy (d : Dev) (knotted : Bool) (place : Nat) : Bool :=
  d.line.wb.any fun w => w.own && w.attr.knotted = knotted && (if knotted then w.page / 512 = place else w.line / 32768 = place)

/-- The write buffer holds a write of a line of a page's source frame or slots (R98). -/
def Dev.knotBusy (d : Dev) (k : BitVec 36) : Bool :=
  let first := d.knotLine k 0
  let n := if knotState k = 2 then 16 * (knotClass k + 1) else 64
  d.line.wb.any fun w => w.own && first ≤ w.line && w.line < first + n

/-- What a change frees is ready to be freed: a release waits for the moves that still hold one of its units (13 R360), and no write of
a line that goes free stands in the write buffer (01 R42, R98). -/
def Dev.afterReady (d : Dev) (a : After) : Bool :=
  let free (ld lo hi : Nat) (knotted : Bool) : Bool :=
    (d.ld ld).exts.all fun x => x.st ≠ .draining || x.start + x.len ≤ lo || hi ≤ x.start || x.dev ≠ d.chain.index ||
      x.place.all fun p => !d.unitHeld knotted p && !d.placeBusy knotted p
  match a with
  | .move id => (match d.tiers.moves.find? (·.id = id) with | some m => !d.knotBusy m.src | none => true)
  | .extentMove reg =>
    (match d.tiers.extMoves.look reg with
    | some m => (bigFrames m.src m.attr.reflected).all fun f => !d.placeBusy false f
    | none => true)
  | .release ld start len => match d.regionAt ld (start * mib2) with | some r => free ld start (start + len) r.knotted | none => true
  | .region r => free r.ld r.base (r.base + r.size) r.knotted
  | _ => true

/-- CHANGE_DRAINED: every request translated under the old entry has passed the line station or has its response: what the
change had to wait for follows (R98). -/
def Dev.changeDrained (d : Dev) (id : Nat) : Dev :=
  match d.xl.changes.find? (·.id = id) with
  | none => d
  | some c =>
    if c.applied && c.waits.isEmpty && d.afterReady c.after then { d with xl.changes := d.xl.changes.filter (·.id ≠ id) }.after c.after else d

def execChangeDrained (change : Nat) (s : State) : Host.Outcome State Fault Refusal := ok (s.dev.changeDrained change).flow s

/-! ### TABLE.INVAL (R105, R106) -/

/-- TABLE.INVAL (R105). -/
def Dev.tableInval (d : Dev) (iss : Issuer) (inp : List Byte) : Dev :=
  let scope := field inp 0 1
  let ld := field inp 1 1
  let count := field inp 4 4
  let start := field inp 8 8
  if inp.length ≠ 16 then d.badLength iss
  else if d.bgBusy iss then d.refuse iss .busy 16
  else if !rsvd inp 2 2 || 2 < scope || 31 < ld || (scope ≠ 1 && ld ≠ 0) then d.refuse iss .invalidInput 16
  else if scope = 0 && (count ≠ 0 || start ≠ 0) then d.refuse iss .invalidInput 16
  else if scope = 1 && (start % mib2 ≠ 0 || 2 ^ 44 < start + count * mib2) then d.refuse iss .invalidInput 16
  else if scope = 2 && (start % 512 ≠ 0 || 2 ^ 32 < start + count * 512) then d.refuse iss .invalidInput 16
  else if scope ≠ 0 && count = 0 then d.reply iss .success (zeros 14) true
  else
    let sc : Scope := if scope = 0 then .all else if scope = 1 then .stage1 ld (start / mib2) count else .stage2 (start / 512) count
    (d.startBg iss 0xCE11).post sc (.inval (issuerBox iss) 0 0)

def execTableInval (iss : Issuer) (inp : List Byte) (s : State) : Host.Outcome State Fault Refusal :=
  ok (s.dev.command iss 0xCE11 fun d => d.tableInval iss inp) s

/-! ### DIAG.POKE (R101 to R104) -/

/-- A table line for a poke: its bits as the judgment corrects them, or as DRAM gave them; whether it judged badly (R103). -/
def Dev.pokeLine (d : Dev) (n : Nat) : Line × Bool × Dev :=
  let (j, d) := d.readTable n 0 {}
  if j.v.good then (j.data, false, d) else (burstData (d.burstAt (d.locate n false).1), true, d)

/-- Read w bits at a bit offset of a structure and write others there, in media alone (R103, R104): the old bits and OldUncorrectable. -/
def Dev.poke (d : Dev) (addr off w v : Nat) : Nat × Bool × Dev :=
  let n := addr / 64 + off / 512
  let o := off % 512
  let (x, bad, d) := d.pokeLine n
  if o + w ≤ 512 then (bits x.toNat (o + w - 1) o, bad, d.writeTable n (lineSetBits x o w v))
  else
    let (y, bad', d) := d.pokeLine (n + 1)
    let lo := 512 - o
    let old := bits (x.toNat + y.toNat * 2 ^ 512) (o + w - 1) o
    (old, bad || bad', (d.writeTable n (lineSetBits x o lo v)).writeTable (n + 1) (lineSetBits y 0 (w - lo) (v / 2 ^ lo)))

/-- DIAG.POKE: length, lock, fields, address, in this order; then one entry is written in media (R101 to R103). A region is online for the
lock while it is in force for an LD of this device (DESIGN CHOICE, log 42: the spec gives no definition). -/
def Dev.diagPoke (d : Dev) (iss : Issuer) (inp : List Byte) : Dev :=
  let kind := field inp 0 1
  let index := field inp 4 2
  let addr := field inp 8 8
  let value := field inp 16 8
  if inp.length ≠ 24 then d.badLength iss
  else if (d.conf.regions.any (·.home.isNone)) && !d.unlocked then d.refuse iss .diagLocked 16
  else if kind = 0 || 5 < kind || !rsvd inp 1 3 || !rsvd inp 6 2 || (kind ≠ 5 && index ≠ 0) || 511 < index ||
      (kind = 5 && 2 ^ 36 ≤ value) then d.refuse iss .invalidInput 16
  else if addr % (if kind = 5 then 64 else 8) ≠ 0 || !d.inTable addr (if kind = 5 then 2304 else 8) then
    d.refuse iss .invalidInput 16
  else
    let (old, bad, d) := if kind = 5 then d.poke addr (36 * index) 36 value else d.poke (addr / 64 * 64) (addr % 64 * 8) 64 value
    d.reply iss .success ([BitVec.ofNat 8 (flag bad)] ++ zeros 5 ++ leBytes 8 old)

def execDiagPoke (iss : Issuer) (inp : List Byte) (s : State) : Host.Outcome State Fault Refusal :=
  ok (s.dev.command iss 0xCE10 fun d => d.diagPoke iss inp) s

end Sys2Proof.Machine
end

