-- ==== Sys2Proof/Machine/Sched.lean ====
section
/-! DEFINITION. The channels' schedulers (spec/07_dram.md): beat plan (R204), slots and their accounting (R205, R206, R418), data
that returns (R163), refresh (R208 to R210), row-disturbance defence (R211 to R213), drift (R215), patrol scrub (R216),
post-package repair (R217), erased devices (R218), retirement by copy (R219 to R221). -/

namespace Sys2Proof.Machine

open Sys2Proof

/-! ### Refresh phase and the beat plan (R204, R208, R209) -/

/-- Per and Off of the refresh modes (R208). -/
def Dev.refreshPer (d : Dev) : Nat := if d.dram.hot then 7 else 15
def Dev.refreshOff (d : Dev) : Nat := if d.dram.hot then 3 else 7

/-- Slots of a channel's refresh window: tRP + tRFC1 of its slowest die rounded up to a whole slot of 250 / S ns (R199, R209). -/
def Dev.windowSlots (d : Dev) (ch : Nat) : Nat := ceilDiv (d.dram.trfc.val ch 0 * d.dram.slots) 250

/-- Slots of the present beat, from 0, that a channel's refresh window takes: all of its first beat's, and the rest in its
second (R208, R209). -/
def Dev.blockedSlots (d : Dev) (ch : Nat) : Nat :=
  let at_ := if ch < 4 then 0 else d.refreshOff
  if d.dram.phase = at_ then min d.dram.slots (d.windowSlots ch)
  else if d.dram.phase = at_ + 1 then d.windowSlots ch - d.dram.slots
  else 0

/-- Slot i is C0 reserved (R204). -/
def c0Slot (share i : Nat) : Bool := i * share / 16 < (i + 1) * share / 16

/-- Slots of the maintenance run of a training window in the beat that begins: 200 ns, none in a beat that holds the channel's refresh
window or in the beat before it (R439; the longest run that the rule lets firmware take). -/
def Dev.trainingRun (d : Dev) (ch : Nat) : Nat :=
  let later : Dev := { d with dram.phase := (d.dram.phase + 1) % max 1 d.refreshPer }
  if (d.chan ch).training && d.blockedSlots ch = 0 && later.blockedSlots ch = 0 then d.dram.slots * 4 / 5 else 0

/-- The plan of a channel for the beat that begins: each slot keeps its first mark (R204). -/
def Dev.planOf (d : Dev) (ch : Nat) : List Mark :=
  let blocked := d.blockedSlots ch
  let maint := max (d.chan ch).maintNext (d.trainingRun ch)
  let share := d.setting idC0Share 0
  (List.range d.dram.slots).map fun i =>
    if i < blocked then .blocked else if i < maint then .maint else if c0Slot share i then .c0 else .unmarked

/-! ### Slot accounting (R418) -/

/-- Event of a subchannel's category: 0 retired, 1 wasted, 2 front-starved, 3 back-starved (R417). -/
def evSlot (ch sub k : Nat) : Nat := 0x100 + 8 * ch + 4 * sub + k

def Dev.subQueue (d : Dev) (ch sub : Nat) : List Acc := d.dram.accs.filter fun a => a.ch = ch && a.sub = sub && !a.issued

/-- Account a slot that carries no burst. -/
def Dev.countIdle (d : Dev) (ch sub i : Nat) (turn : Bool) : Dev :=
  let m := (d.chan ch).plan.getD i .unmarked
  if m = .blocked || m = .maint || turn then d.bump (evSlot ch sub 1)
  else if (d.subQueue ch sub).isEmpty then d.bump (evSlot ch sub 2)
  else d.bump (evSlot ch sub 3)

/-- Account the slots of a subchannel before slot i that nothing was said about. -/
def Dev.countTo (d : Dev) (ch sub i : Nat) : Dev :=
  let from_ := (d.chan ch).slot.val sub 0
  let d := each ((List.range i).filter fun k => from_ ≤ k) d fun d k => d.countIdle ch sub k false
  d.modChan ch fun c => { c with slot := c.slot.put sub (max i from_) }

/-! ### Row disturbance (R211 to R213) -/

/-- Rows of a bank on one die of a channel's stacks. -/
def Dev.dieRows (d : Dev) (ch : Nat) : Nat :=
  max 1 (d.dram.lines / 8192 / ((d.dram.mods.look (2 * ch)).map (·.dies)).getD 1)

/-- Number of a bank; the chip ID stands above the row bits of its die (R202; log 81). -/
def Dev.bankKey (d : Dev) (ch rank sub bank row : Nat) : Nat := row / d.dieRows ch * 2048 + ch * 256 + rank * 64 + sub * 32 + bank

/-- Channel of a bank's number. -/
def bankCh (k : Nat) : Nat := k / 256 % 8

def Dev.bank (d : Dev) (k : Nat) : Bank := d.dram.banks.val k {}
def Dev.setBank (d : Dev) (k : Nat) (b : Bank) : Dev := { d with dram.banks := d.dram.banks.put k b }

/-- The contributor table after one activate of a requester (R211). -/
def contribute (t : List Contrib) (who : Nat) (label : Label) : List Contrib :=
  if t.any fun c => c.who = who && c.label = label then
    t.map fun c => if c.who = who && c.label = label then { c with count := c.count + 1 } else c
  else if t.length < 8 then t ++ [{ who := who, label := label, count := 1 }]
  else
    let low := t.foldl (fun m c => min m c.count) (t.headD { who := 0, label := 0, count := 0 }).count
    (t.eraseP (·.count = low)) ++ [{ who := who, label := label, count := low + 1 }]

/-- One activate of an access (R211, R212). -/
def Dev.activate (d : Dev) (a : Acc) : Dev :=
  let k := d.bankKey a.ch a.rank a.sub a.bank a.row
  let b := d.bank k
  let g := a.row / 512
  (d.setBank k
    { opened := some a.row, groups := b.groups.put g (b.groups.val g 0 + 1), contrib := contribute b.contrib a.who a.label
      caps := b.caps.map fun c => if c.who = a.who && c.label = a.label then { c with used := c.used + 1 } else c }).bump
    (0x140 + a.ch)

/-- A cap holds an access that would activate (R212). -/
def Dev.capped (d : Dev) (a : Acc) : Bool :=
  (d.bank (d.bankKey a.ch a.rank a.sub a.bank a.row)).caps.any fun c =>
    c.who = a.who && c.label = a.label && 0 < c.left && d.setting idRhCap 0 ≤ c.used

/-- A C0 access waits for a bank (R55, R213). -/
def Dev.c0Waits (d : Dev) (k : Nat) : Bool :=
  d.dram.accs.any fun a => !a.issued && a.label.toNat / 64 = 0 && d.bankKey a.ch a.rank a.sub a.bank a.row = k

/-- Issue an RFM to a bank for a row group, or hold it: one per bank and beat, none while a C0 access waits or in a refresh window (R209,
R212, R213). -/
def Dev.tryRfm (d : Dev) (k g : Nat) : Dev :=
  let ch := bankCh k
  let c := d.chan ch
  if c.rfm.contains k || c.window || d.c0Waits k then
    if c.rfmDue.contains (k * 2 ^ 15 + g) then d else d.setChan ch { c with rfmDue := c.rfmDue ++ [k * 2 ^ 15 + g] }
  else
    let b := d.bank k
    let d := d.setChan ch { c with rfm := c.rfm ++ [k], rfmDue := c.rfmDue.filter (· ≠ k * 2 ^ 15 + g) }
    (d.setBank k { b with opened := none, groups := b.groups.put g (b.groups.val g 0 - d.setting idRhThreshold 0) }).bump (0x148 + ch)

/-- Try the RFMs that a channel holds. -/
def Dev.heldRfms (d : Dev) (ch : Nat) : Dev := each (d.chan ch).rfmDue d fun d x => d.tryRfm (x / 2 ^ 15) (x % 2 ^ 15)

/-- The contributor that a trip caps: the highest count among those whose class is not C0, the earlier on a tie (R212). -/
def topContrib (t : List Contrib) : Option Contrib :=
  (t.filter fun c => c.label.toNat / 64 ≠ 0).foldl
    (fun b c => match b with | none => some c | some x => if x.count < c.count then some c else some x) none

/-- Requester number of R390 in 6 bits; 3Fh where there is none. -/
def rowReq (who : Nat) : Nat := if who < 64 then who else 0x3F

/-- ROW_DISTURBANCE_TRIP: a row group's counter has reached RhThreshold (R212). -/
def Dev.rowTrip (d : Dev) (ch rank sub bank g : Nat) : Dev :=
  let k := d.bankKey ch rank sub bank (g * 512)
  let b := d.bank k
  if b.groups.val g 0 < d.setting idRhThreshold 0 || (d.chan ch).rfmDue.contains (k * 2 ^ 15 + g) then d
  else
    let top := topContrib b.contrib
    let caps := match top with
      | none => b.caps
      | some t =>
        (b.caps.filter fun c => !(c.who = t.who && c.label = t.label)) ++
          [{ who := t.who, label := t.label, left := d.setting idRhHold 0
             used := ((b.caps.find? fun c => c.who = t.who && c.label = t.label).map (·.used)).getD 0 }]
    let (who, label) := match top with | some t => (t.who, t.label.toNat) | none => (64, 0)
    let detail := ch + rank * 2 ^ 3 + bank * 2 ^ 6 + g % 2 ^ 15 * 2 ^ 11 + label * 2 ^ 26 + rowReq who * 2 ^ 34
    ((((d.setBank k { b with caps := caps }).bump (0x150 + ch)).raiseAt k 0x107 .info none detail).doorbell 0x38A).tryRfm k g

def execRowDisturbanceTrip (ch : Fin 8) (rank : Fin 4) (sub : Fin 2) (bank : Fin 32) (group : Nat) (s : State) :
    Host.Outcome State Fault Refusal :=
  ok (s.dev.rowTrip ch.val rank.val sub.val bank.val group) s

/-- ROW_CAP_EXPIRY: caps whose boundaries are over end; one that ends while a new trip is due is renewed at once (R213). -/
def Dev.capExpiry (d : Dev) (k : Nat) : Dev :=
  let b := d.bank k
  let due := b.groups.any fun g => d.setting idRhThreshold 0 ≤ g.2
  let top := topContrib b.contrib
  let renew (c : Cap) : Bool := due && (match top with | some t => t.who = c.who && t.label = c.label | none => false)
  d.setBank k { b with
    caps := (b.caps.map fun c => if c.left = 0 && renew c then { c with left := d.setting idRhHold 0 } else c).filter
      fun c => c.left ≠ 0 }

/-- The bank on every die of its rank. -/
def Dev.capExpiries (d : Dev) (ch rank sub bank : Nat) : Dev :=
  each (List.range 8) d fun d chip => d.capExpiry (chip * 2048 + ch * 256 + rank * 64 + sub * 32 + bank)

def execRowCapExpiry (ch : Fin 8) (rank : Fin 4) (sub : Fin 2) (bank : Fin 32) (s : State) : Host.Outcome State Fault Refusal :=
  ok (s.dev.capExpiries ch.val rank.val sub.val bank.val) s

/-! ### Filling a slot (R55, R205, R206) -/

def Acc.isWrite (a : Acc) : Bool := match a.kind with | .write _ | .rewrite _ => true | _ => false
def Acc.cls (a : Acc) : Nat := a.label.toNat / 64

/-- A burst that R418 counts as wasted. -/
def Acc.wasted (a : Acc) : Bool := match a.kind with | .merge _ | .scrub | .rewrite _ | .other _ => true | _ => false

/-- A read goes after the write of an access: it was accepted behind its entry (R35). -/
def Acc.after (b a : Acc) : Bool := match a.kind with | .write w | .rewrite w => b.behind.contains w | _ => false

/-- Lines in read and merge staging: those whose read has issued and has no data yet, and data that waits at egress (R44). -/
def Dev.inStaging (d : Dev) : Nat :=
  (d.dram.accs.filter (·.issued)).length +
    d.host.links.foldl (fun n e => n + (e.2.egress.filter fun o => match o.r.answer with | .data _ => true | _ => false).length) 0

/-- Staging has no line free for one more read (R44, R396). -/
def Dev.stagingFull (d : Dev) : Bool := 32768 ≤ d.inStaging + d.path.withdrawn.val (16 * 5) 0

/-- An access that timing lets into the slot is held: a read by full staging (R44), one by a C0 access that waits for its bank while its own activate has not
issued (R55), by a cap (R212), a read by an earlier full write of its line, a write by an earlier read of its line whose data is
still to come (R35). -/
def Dev.heldBack (d : Dev) (a : Acc) (hit : Bool) : Bool :=
  (!a.isWrite && d.stagingFull) || (a.cls ≠ 0 && !hit && d.c0Waits (d.bankKey a.ch a.rank a.sub a.bank a.row)) || (!hit && d.capped a) ||
    (a.behind.any fun w => d.line.wb.any (·.id = w)) ||
    (a.isWrite && (d.dram.accs.takeWhile (·.id ≠ a.id)).any fun b => b.line = a.line && !b.isWrite && !b.after a)

/-- The row of an access is the one its bank has open: no row is once a refresh window or an RFM has closed the bank (R209). -/
def Dev.rowOpen (d : Dev) (a : Acc) : Bool := (d.bank (d.bankKey a.ch a.rank a.sub a.bank a.row)).opened = some a.row

/-- The accesses that may take a slot of a subchannel, with their row-hit flags, oldest first. -/
def Dev.eligible (d : Dev) (ch sub : Nat) (l : List (Nat × Bool)) : List (Acc × Bool) :=
  (d.subQueue ch sub).filterMap fun a =>
    match l.find? (·.1 = a.id) with
    | some (_, hit) =>
      let hit := hit && d.rowOpen a
      if d.heldBack a hit then none else some (a, hit)
    | none => none

/-- Place of an access in the order that R205 lists, from its rule 2 on: C0, promoted, C1 by step and age, C2, C3, a row hit before a miss
of the same age; lower goes first (where R67 words it otherwise: DEDUCED, log 54). -/
def fillKey (e : Acc × Bool) : Nat :=
  let (a, hit) := e
  let group := if a.cls = 0 then 0 else if a.promoted then 1 else a.cls + 1
  let step := if a.cls = 1 && !a.promoted then 7 - a.step else 0
  let miss := if group < 2 then 0 else flag (!hit)
  ((group * 8 + step) * 2 ^ 64 + a.admitBnd) * 2 + miss

/-- The first of the lowest keys. -/
def firstBest (l : List (Acc × Bool)) : Option (Acc × Bool) :=
  l.foldl (fun b e => match b with | none => some e | some x => if fillKey e < fillKey x then some e else some x) none

/-- The access that fills a slot (R205). A reserved slot goes to the oldest C0 read, else to the others, but to no C0 write. -/
def pickFill (reserved : Bool) (l : List (Acc × Bool)) : Option (Acc × Bool) :=
  if reserved then
    match firstBest (l.filter fun e => e.1.cls = 0 && !e.1.isWrite) with
    | some e => some e
    | none => firstBest (l.filter fun e => e.1.cls ≠ 0)
  else firstBest l

/-- Writes issued since a subchannel switched to writes, by the switching rule of R206: 0 means that it reads, n + 1 that it has
issued n writes. -/
def Dev.writeMode (d : Dev) (ch sub : Nat) (can : List (Acc × Bool)) : Nat :=
  let q := d.subQueue ch sub
  let was := (d.chan ch).writeMode.val sub 0
  let mode := if 17 ≤ was then 0 else was
  let writes := (q.filter (·.isWrite)).length
  let c0Read := q.any fun a => a.cls = 0 && !a.isWrite
  if c0Read || writes = 0 then 0
  else if mode = 0 then (if 32 < writes || !(can.any fun e => !e.1.isWrite) then 1 else 0)
  else mode

/-- An access takes its slot: a read is on its way, a write reaches DRAM and its entry may be released (R31, R205). -/
def Dev.issueAcc (d : Dev) (a : Acc) (hit : Bool) : Dev :=
  let d := if hit then d else d.activate a
  let d := d.bump (evSlot a.ch a.sub (flag a.wasted))
  match a.kind with
  | .write w | .rewrite w =>
    let d := d.dropAcc a.id
    match d.line.wb.find? (·.id = w) with
    | some e => d.issueWrite e a.copy
    | none => d
  | _ => { d with dram.accs := d.dram.accs.map fun x => if x.id = a.id then { x with issued := true } else x }

/-- DRAM_SLOT_FILL: slot `i` of a subchannel comes up; `l` names the accesses that bank state and DDR5 timing let into it, with
whether each hits an open row (log 10); `turn` says that a bus turnaround consumes it. -/
def Dev.slotFill (d : Dev) (ch sub i : Nat) (l : List (Nat × Bool)) (turn : Bool) : Dev :=
  if d.dram.slots ≤ i || i < (d.chan ch).slot.val sub 0 || d.dram.selfRefresh then d
  else
    let d := (d.countTo ch sub i).modChan ch fun c => { c with slot := c.slot.put sub (i + 1) }
    let m := (d.chan ch).plan.getD i .unmarked
    if m = .blocked || m = .maint || turn then d.countIdle ch sub i turn
    else
      let can := d.eligible ch sub l
      let mode := d.writeMode ch sub can
      let d := d.modChan ch fun c => { c with writeMode := c.writeMode.put sub mode }
      match pickFill (m = .c0) (can.filter fun e => e.1.isWrite = (mode ≠ 0)) with
      | none => d.countIdle ch sub i false
      | some (a, hit) =>
        let d := if a.isWrite then d.modChan ch fun c => { c with writeMode := c.writeMode.put sub (mode + 1) } else d
        (d.issueAcc a hit).heldRfms ch

/-! ### Patrol scrub (R216) and data that returns (R163) -/

/-- Boundaries in an hour. -/
def hourBeats : Nat := 14400000000

/-- Physical ranks of a channel that scrub visits: those of its logical ranks, then its shadows (R216). -/
def Dev.scrubRanks (d : Dev) (ch : Nat) : List Nat :=
  let c := d.chan ch
  (((List.range d.dram.logical).filter fun r => !c.retired.contains r).map fun r => c.remap.val r r) ++ c.shadows

/-- Places of a scrub pass: every channel's turn over the ranks it may have. -/
def Dev.scrubTotal (d : Dev) : Nat := 8 * d.dram.lines * d.dram.ranks

/-- Home line number of a place of the pass; none: no rank of the channel stands there. -/
def Dev.scrubPlace (d : Dev) (pos : Nat) : Option Nat :=
  let ch := pos % 8
  let k := pos / 8
  let p := max 1 d.dram.lines
  ((d.scrubRanks ch)[k / p]?).map fun r => homeLine ch (r * p + k % p)

/-- A pass begins anew. -/
def Dev.scrubBegin (d : Dev) : Dev :=
  { d with dram.scrubPos := 0, dram.scrubFrom := (d.clk.beat, d.clk.bnd), dram.scrubLate := false, dram.rowCorr := []
           line.poisonSeen := [] }

/-- PATROL_SCRUB_READ: the next line of the pass goes to its channel, under label C2h, while the C3 gate is open and the queue
grants it; a line in the write buffer is skipped (R216). -/
def Dev.scrubRead (d : Dev) : Dev :=
  let hours := d.setting idScrubHours 0
  if hours = 0 || d.power.quiet || !d.path.gate || !d.dram.formed || d.dram.selfRefresh then d
  else
    let d := if d.scrubTotal ≤ d.dram.scrubPos && d.dram.scrubFrom.2 + hours * hourBeats ≤ d.clk.bnd then d.scrubBegin else d
    let pos := d.dram.scrubPos
    if d.scrubTotal ≤ pos then d
    else
      let next (d : Dev) : Dev :=
        let d : Dev := { d with dram.scrubPos := pos + 1 }
        if pos + 1 = d.scrubTotal then d.doorbell 0x38D else d
      match d.scrubPlace pos with
      | none => next d
      | some h =>
        if d.scrubSkips h then next d
        else
          let ch := h / 4 % 8
          let p := placeOf ch (max 1 d.dram.lines) (h / 32 * 4 + h % 4)
          if d.schedRoom ch 3 then
            let (id, d) := d.fresh
            next (d.addAcc { id := id, kind := .scrub, line := h, ch := ch, rank := p.rank, sub := p.sub, bank := p.bank
                             row := p.row, label := 0xC2, who := 64, admitBnd := d.clk.bnd })
          else d

def execPatrolScrubRead (s : State) : Host.Outcome State Fault Refusal := ok s.dev.scrubRead s

/-- SCRUB_LATE: a pass has not finished after twice ScrubHours; once per pass (R216). -/
def Dev.scrubTooLate (d : Dev) : Dev :=
  let hours := d.setting idScrubHours 0
  if hours ≠ 0 && d.dram.formed && d.dram.scrubPos < d.scrubTotal && !d.dram.scrubLate &&
      d.dram.scrubFrom.2 + 2 * hours * hourBeats ≤ d.clk.bnd then
    { d with dram.scrubLate := true }.raise 0x108 .warning none d.dram.scrubFrom.1.toNat
  else d

def execScrubLate (s : State) : Host.Outcome State Fault Refusal := ok s.dev.scrubTooLate s

/-- A scrub read returns: how it judges under R163, and what follows under R164. A line that no page, extent or table holds, one of a
shadow among them, is judged as the plain line it was written as (R201; log 73); none: a line of the write buffer is skipped. -/
def Dev.scrubJudge (d : Dev) (a : Acc) (err : Burst) : Option Verdict × Dev :=
  let d := d.bump (0x158 + a.ch)
  let p := placeOf a.ch (max 1 d.dram.lines) (a.line / 32 * 4 + a.line % 4)
  let b := d.burstAt a.line ^^^ err
  let d := match d.mediaOf a.line with | some n => d.wantContent n | none => d
  match (d.mediaOf a.line).map fun n => (n, d.contentAt n) with
  | some (n, some c) =>
    if !(d.wbOn c.line).isEmpty then (none, d)
    else
      let j := d.judgeContent c p a.line err
      let tree := match c.bind with | .tree .. => (d.nodeOfLine n).map (·.1) | _ => none
      let d := d.noteVerdict c.line p j.v
        { label := a.label, scrub := true, level := tree
          key := if c.attr.prot = .plain then none else some (d.keyOf c.attr c.line c.page) }
      match j.v with
      | .lost _ => (some j.v, d.uncorrectable p)
      | _ => (some j.v, d.rewrite c.bind c.line c.attr c.page c.copy j p)
  | x =>
    let n := (x.map (·.1)).getD a.line
    let bind : Bind := .plain (n * 64)
    let j := judge (d.check bind) (d.erasedAt p) b
    let d := d.noteVerdict n p j.v { label := a.label, scrub := true }
    match j.v with
    | .parity | .corrected _ => (some j.v, d.setBurst a.line (mkBurst j.data (d.check bind j.data)))
    | .lost _ => (some j.v, d.uncorrectable p)
    | _ => (some j.v, d)

def Dev.scrubReturn (d : Dev) (a : Acc) (err : Burst) : Dev := (d.scrubJudge a err).2

/-- A SCRUB job's read returns: the job counts how it judged, and goes on (R367). -/
def Dev.scrubJobRead (d : Dev) (q : Req) (a : Acc) (err : Burst) : Dev :=
  let (v, d) := d.scrubJudge a err
  let fixed := match v with | some .parity | some (.corrected _) => 1 | _ => 0
  let lost := match v with | some (.lost _) => 1 | _ => 0
  let count (e : Nat × Job) : Nat × Job :=
    if q.src = .job e.1 then (e.1, { e.2 with detail0 := e.2.detail0 + fixed, detail1 := e.2.detail1 + lost }) else e
  { d with jobs.slots := d.jobs.slots.map count }.answer q .cmp

/-- DRAM_READ_DATA_RETURN: the data of an issued read reaches the line station, with the bits `err` wrong (R163). -/
def Dev.dataReturn (d : Dev) (id : Nat) (err : Burst) : Dev :=
  match d.dram.accs.find? fun a => a.id = id && a.issued with
  | none => d
  | some a =>
    let d := d.dropAcc id
    match a.kind with
    | .read r =>
      match d.req r with
      | some q => if q.scrub.isSome then d.scrubJobRead q a err else d.returnRead q a.copy false err
      | none => d
    | .other r => match d.req r with | some q => d.returnRead q a.copy true err | none => d
    | .merge w => match d.line.wb.find? (·.id = w) with | some e => d.returnMerge e a.copy err | none => d
    | .image c i => d.returnImage c i err
    | .scrub => d.scrubReturn a err
    | .write _ | .rewrite _ => d

/-- Accesses of a channel to a row under repair are served from the row holding buffer, and take no slot (R217). -/
def Dev.fromBuffer (d : Dev) (ch : Nat) : Dev :=
  let rows := (d.chan ch).ppr.map (·.1)
  let mine (a : Acc) : Bool :=
    a.ch = ch && !a.issued && rows.contains (rowKey { ch := a.ch, rank := a.rank, sub := a.sub, bank := a.bank, row := a.row, col := 0 }) &&
      !d.heldBack a true
  each (d.dram.accs.filter mine) d fun d a =>
    match a.kind with
    | .write w | .rewrite w =>
      let d := d.dropAcc a.id
      match d.line.wb.find? (·.id = w) with
      | some e => d.issueWrite e a.copy
      | none => d
    | _ =>
      let read (x : Acc) : Acc := if x.id = a.id then { x with issued := true } else x
      { d with dram.accs := d.dram.accs.map read }.dataReturn a.id 0

def execDramReadDataReturn (acc : Nat) (err : Burst) (s : State) : Host.Outcome State Fault Refusal :=
  ok (s.dev.dataReturn acc err).flow s

def execDramSlotFill (ch : Fin 8) (sub : Fin 2) (slot : Nat) (eligible : List (Nat × Bool)) (turnaround : Bool) (s : State) :
    Host.Outcome State Fault Refusal :=
  ok ((s.dev.fromBuffer ch.val).slotFill ch.val sub.val slot eligible turnaround).flow s

/-! ### Refresh windows and temperature (R208 to R211, R215) -/

/-- Channels of a half: CH4 to CH7 for true (R208). -/
def halfChans (b : Bool) : List Nat := if b then [4, 5, 6, 7] else [0, 1, 2, 3]

/-- A channel's banks are closed for its refresh, and their counters and table counts halved (R209, R211). -/
def Dev.halveBanks (d : Dev) (ch : Nat) : Dev :=
  { d with dram.banks := d.dram.banks.map fun e =>
      if bankCh e.1 = ch then
        (e.1, { e.2 with opened := none
                         groups := e.2.groups.map fun g => (g.1, g.2 / 2)
                         contrib := e.2.contrib.map fun c => { c with count := c.count / 2 } })
      else e }

/-- REFRESH_WINDOW_START: at the half's beat of the refresh phase the window of its four channels begins; activation counts are
halved and staged delay values take effect (R208, R211, R215). -/
def Dev.windowStart (d : Dev) (half : Bool) : Dev :=
  let at_ := if half then d.refreshOff else 0
  if d.dram.phase ≠ at_ || d.dram.selfRefresh || !d.dram.formed then d
  else
    each (halfChans half) d fun d ch =>
      if (d.chan ch).window then d
      else (d.halveBanks ch).modChan ch fun c =>
        { c with window := true, staged := [], delay := each c.staged c.delay fun t e => t.put e.1 e.2 }

def execRefreshWindowStart (half : Bool) (s : State) : Host.Outcome State Fault Refusal := ok (s.dev.windowStart half) s

/-- REFRESH_WINDOW_END (R209). -/
def execRefreshWindowEnd (ch : Fin 8) (s : State) : Host.Outcome State Fault Refusal :=
  ok ((s.dev.modChan ch.val fun c => { c with window := false }).heldRfms ch.val).flow s

/-- MODULE_THERMAL_READ: above 85 degrees on any module calls for hot mode, 82 or below on all for normal mode; the change waits
for the phase counter's next 0 (R210). -/
def Dev.thermalRead (d : Dev) (celsius : List Nat) : Dev :=
  let hot := if celsius.any (85 < ·) then true else if celsius.all (· ≤ 82) then false else d.dram.hotNext
  { d with dram.hotNext := hot }

def execModuleThermalRead (celsius : List Nat) (s : State) : Host.Outcome State Fault Refusal :=
  ok (s.dev.thermalRead celsius) s

/-- DRIFT_CHECK: every DriftPeriod the ranks' oscillators are read, rank by rank in channel order; new delay values are staged
(R215). -/
def Dev.driftCheck (d : Dev) (readings : List Nat) : Dev :=
  let period := d.setting idDriftPeriod 0 * 4096
  if period = 0 || d.clk.bnd < d.dram.driftFrom + period then d
  else
    each ((List.range (8 * d.dram.ranks)).zip readings) { d with dram.driftFrom := d.clk.bnd } fun d (i, x) =>
      let ch := i / max 1 d.dram.ranks
      let r := i % max 1 d.dram.ranks
      let c := d.chan ch
      let old := c.delay.val r 0
      let new := Config.driftDelay old (c.osc.val r 0) x
      if x = c.osc.val r 0 || new = old then d else d.setChan ch { c with staged := c.staged.put r new }

def execDriftCheck (readings : List Nat) (s : State) : Host.Outcome State Fault Refusal := ok (s.dev.driftCheck readings) s

/-! ### Post-package repair (R217) -/

/-- A rank of a channel holds a line of a non-reflected C0 direct extent (R217). -/
def Dev.c0OnRank (d : Dev) (ch rank : Nat) : Bool :=
  d.conf.regions.any fun r =>
    r.home.isNone && !r.knotted && !r.reflected && labelCls r.label = .c0 &&
      (d.ld r.ld).exts.any fun x => x.entry = r.entry && x.dev = d.chain.index &&
        x.place.any fun f => (d.locate (f * 32768 + 4 * ch) false).2.rank = rank

/-- One line of a row is read with correction and written back; a line that was uncorrectable as stored poison (R217). -/
def Dev.repairLine (d : Dev) (h : Nat) (p : Place) (err : Burst) : Dev :=
  match (d.mediaOf h).bind d.contentAt with
  | none => d
  | some c =>
    let j := judge (d.check c.bind) (d.erasedAt p) (d.burstAt h ^^^ err)
    let d := d.noteLine c.attr c.line c.page p j.v 0xC0 reqNone false
    let dc := d.check c.bind j.data
    d.setBurst h (mkBurst j.data (if j.v.good then dc else dc ^^^ poisonMark))

/-- Home line of a column of a row, `row` being the row number times 32 plus the bank (R202). -/
def Dev.rowLine (d : Dev) (ch rank sub row col : Nat) : Nat :=
  let q := (row / 32) * 4096 + (row % 32 / 8) * 1024 + col * 8 + row % 32 % 8
  homeLine ch (rank * d.dram.lines + 2 * q + sub)

/-- POST_PACKAGE_REPAIR of a hard-failed row, `row` being the row number times 32 plus the bank: where the bank group has a spare row its
lines are read with correction into the row holding buffer, and soft PPR has its maintenance slots in the next beat; else the row stays
in service and counts on its rank. On a rank with a non-reflected C0 direct extent the row is only recorded, for hard PPR at the next
training (R204, R217, R391; log 58). -/
def Dev.repairRow (d : Dev) (ch rank sub row : Nat) (spare : Bool) (errs : List Burst) : Dev :=
  let p : Place := { ch := ch, rank := rank, sub := sub, bank := row % 32, row := row / 32, col := 0 }
  let k := rowKey p
  if !d.dram.hardRows.contains k then d
  else
    let d := { d with dram.hardRows := d.dram.hardRows.filter (· ≠ k) }
    if d.c0OnRank ch rank then { d with dram.repairs := d.dram.repairs ++ [k] }
    else if !spare then d.faultEvent (srcRank ch rank) 5 (dramDetail 0 p 15 false)
    else
      let d := each ((List.range 128).zip (errs ++ List.replicate 128 0)) d fun d (col, e) =>
        d.repairLine (d.rowLine ch rank sub row col) { p with col := col } e
      d.modChan ch fun c => { c with ppr := c.ppr ++ [(k, false)], maintNext := max c.maintNext Config.pprSlots }

def execPostPackageRepair (ch : Fin 8) (rank : Fin 4) (sub : Fin 2) (row : Nat) (spare : Bool) (errs : List Burst) (s : State) :
    Host.Outcome State Fault Refusal :=
  ok (s.dev.repairRow ch.val rank.val sub.val row spare errs) s

/-! ### Erased devices and retirement (R218 to R222) -/

/-- Logical rank that a physical rank serves (R200). -/
def Chan.logicalOf (c : Chan) (logical phys : Nat) : Option Nat :=
  (List.range logical).find? fun r => c.remap.val r r = phys && !c.retired.contains r

/-- A copy of a logical rank to the channel's shadow starts, where it has one and none runs (R220). -/
def Dev.startCopy (d : Dev) (ch logical : Nat) : Option Dev :=
  let c := d.chan ch
  match c.copy, c.shadows with
  | none, s :: _ => some (d.setChan ch { c with copy := some { src := logical, shadow := s } })
  | _, _ => none

/-- 4 KiB frames with lines on a logical rank: the first and how many (R202, R222). -/
def Dev.rankFrames (d : Dev) (logical : Nat) : Nat × Nat := (logical * d.dram.lines / 8, d.dram.lines / 8)

/-- A logical rank becomes draining: its frames leave the free lists; table lines on it are at risk (R222, R223). -/
def Dev.startDrain (d : Dev) (ch logical : Nat) : Dev :=
  let c := d.chan ch
  if c.draining.contains logical || c.retired.contains logical then d
  else
    let d := d.setChan ch { c with draining := c.draining ++ [logical] }
    let d := if d.tiers.outOf.contains (d.rankFrames logical) then d
      else { d with tiers.outOf := d.tiers.outOf ++ [d.rankFrames logical] }
    let (f, n) := d.rankFrames logical
    if d.tableBase < (f + n) * 4096 then d.raise 0x10A .warning none (ch + logical * 8) else d

/-- The record of a retired physical rank (R405). -/
def Dev.rankRecord (d : Dev) (ch phys : Nat) : Dev :=
  let d := d.modSource (srcRank ch phys) fun s => { s with retired := true }
  d.raiseFault 0x03 .warning (srcRank ch phys) 3

/-- Keep a module's fault for its next cold boot: erased marks and retired ranks, by serial number (R398). -/
def Dev.logFault (d : Dev) (ch phys sub dev : Nat) : Dev :=
  let per := ((d.dram.mods.look (2 * ch)).map (·.ranks)).getD 1
  let slot := 2 * ch + phys / max 1 per
  match d.dram.mods.look slot with
  | some m =>
    let e := (m.serial, phys % max 1 per, sub, dev)
    if d.dram.faultLog.contains e then d else { d with dram.faultLog := d.dram.faultLog ++ [e] }
  | none => d

/-- The copy entries of a channel leave the write buffer with their accesses (R221). -/
def Dev.dropCopies (d : Dev) (ch : Nat) : Dev :=
  let mine (w : Wb) : Bool := w.kind = .rankCopy ch
  let ids := (d.line.wb.filter mine).map (·.id)
  let accs := d.dram.accs.filter fun a => match a.kind with | .merge w | .write w => !ids.contains w | _ => true
  { d with line.wb := d.line.wb.filter fun w => !mine w, dram.accs := accs }

/-- At a boundary a physical rank is to be retired: by a copy to the shadow, else by a drain. A rank being copied goes on being
copied; a shadow that fails under a copy abandons it; an unused shadow is retired (R219 to R221). -/
def Dev.retireNow (d : Dev) (ch phys : Nat) : Dev :=
  let c := d.chan ch
  if c.retiredPhys.contains phys then d
  else
    let isShadow := c.shadows.contains phys
    match c.copy with
    | some r =>
      if r.shadow = phys then
        let d := (d.dropCopies ch).modChan ch fun c =>
          { c with copy := none, shadows := c.shadows.filter (· ≠ phys), retiredPhys := c.retiredPhys ++ [phys] }
        ((d.logFault ch phys 0 10).rankRecord ch phys).startDrain ch r.src
      else
        match c.logicalOf d.dram.logical phys with
        | some l => if l = r.src then d else d.startDrain ch l
        | none => d
    | none =>
      if isShadow then
        let d := d.modChan ch fun c => { c with shadows := c.shadows.filter (· ≠ phys), retiredPhys := c.retiredPhys ++ [phys] }
        (d.logFault ch phys 0 10).rankRecord ch phys
      else
        match c.logicalOf d.dram.logical phys with
        | some l => if c.draining.contains l then d else (d.startCopy ch l).getD (d.startDrain ch l)
        | none => d

/-- At a boundary a device is marked erased on its subchannel, and a copy of its rank starts where it can (R218). -/
def Dev.eraseNow (d : Dev) (ch phys sub dev : Nat) : Dev :=
  let c := d.chan ch
  let d := (d.setChan ch { c with erased := c.erased ++ [(phys, sub, dev)] }).logFault ch phys sub dev
  match c.logicalOf d.dram.logical phys with
  | some l => (d.startCopy ch l).getD d
  | none => d

/-- RANK_COPY_STEP: copy entries for the next 4 KiB of rank lines, and the cursor past them (R220). -/
def Dev.copyStep (d : Dev) (ch : Nat) : Dev :=
  let c := d.chan ch
  match c.copy with
  | none => d
  | some r =>
    if d.dram.lines ≤ r.cursor || !d.wbRoomFor 0xBF 64 then d
    else
      let d := each (List.range 64) d fun d i =>
        let n := homeLine ch (r.src * d.dram.lines + r.cursor + i)
        let (m, copy) := mirrorOf n
        let mirrored := match d.ownerOf m with | some (a, _, _) => a.reflected | none => false
        let (id, d) := d.fresh
        d.addWb { id := id, line := if mirrored then m else n, kind := .rankCopy ch, label := 0xBF
                  attr := { reflected := mirrored }, admitBnd := d.clk.bnd, left := [if mirrored then copy else 0] }
      d.modChan ch fun c => { c with copy := some { r with cursor := r.cursor + 64 } }

def execRankCopyStep (ch : Fin 8) (s : State) : Host.Outcome State Fault Refusal := ok (s.dev.copyStep ch.val).flow s

/-- RANK_COPY_COMPLETE: after the last line and the drain of the copy entries, the logical rank names the shadow's physical rank;
the old one is retired and the channel has no shadow (R220). -/
def Dev.copyComplete (d : Dev) (ch : Nat) : Dev :=
  let c := d.chan ch
  match c.copy with
  | none => d
  | some r =>
    if r.cursor < d.dram.lines || d.line.wb.any (·.kind = .rankCopy ch) then d
    else if r.lost.isSome then d.setChan ch { c with copy := none, shadows := c.shadows.filter (· ≠ r.shadow) }
    else
      let old := c.remap.val r.src r.src
      let d := d.setChan ch { c with
        remap := c.remap.put r.src r.shadow, copy := none, shadows := c.shadows.filter (· ≠ r.shadow)
        retiredPhys := c.retiredPhys ++ [old] }
      ((d.logFault ch old 0 10).rankRecord ch old)

def execRankCopyComplete (ch : Fin 8) (s : State) : Host.Outcome State Fault Refusal := ok (s.dev.copyComplete ch.val).flow s

/-! ### The boundary (R46 step 4) -/

/-- The rest of the beat's slots are accounted: each subchannel's counters rise by S in every beat out of self-refresh (R418). -/
def Dev.closeSlots (d : Dev) : Dev :=
  if d.dram.selfRefresh || !d.dram.formed then d
  else each (List.range 8) d fun d ch => (d.countTo ch 0 d.dram.slots).countTo ch 1 d.dram.slots

/-- The refresh phase counter's next value; a change of mode takes effect at 0 (R208, R210). -/
def Dev.stepPhase (d : Dev) : Dev :=
  if d.dram.selfRefresh || !d.dram.formed then d
  else
    let p := (d.dram.phase + 1) % d.refreshPer
    let turns := p = 0 && d.dram.hot ≠ d.dram.hotNext
    let d := { d with dram.phase := p, dram.hot := if p = 0 then d.dram.hotNext else d.dram.hot }
    if turns then d.doorbell 0x38B else d

/-- One boundary of a channel: marks and retirements due, caps counted down, RFMs held, repairs whose maintenance slots have passed
recorded, and the plan in force (R204, R212, R213, R217 to R219). -/
def Dev.chanBoundary (d : Dev) (ch : Nat) : Dev :=
  let c := d.chan ch
  let d := d.setChan ch { c with toErase := [], toRetire := [], slot := [], rfm := [] }
  let d := each c.toErase d fun d (r, s, k) => d.eraseNow ch r s k
  let d := each c.toRetire d fun d r => d.retireNow ch r
  let older (b : Bank) : Bank := { b with caps := b.caps.map fun c => { c with left := c.left - 1, used := 0 } }
  let banks := d.dram.banks.map fun e => if bankCh e.1 = ch then (e.1, older e.2) else e
  let d := { d with dram.banks := banks }
  let d := d.heldRfms ch
  let d := { d with dram.repairs := d.dram.repairs ++ (c.ppr.filter fun (e : Nat × Bool) => e.2).map fun (e : Nat × Bool) => e.1 }
  d.modChan ch fun c => { c with
    plan := d.planOf ch, maintNext := 0, ppr := (c.ppr.filter fun (e : Nat × Bool) => !e.2).map fun (e : Nat × Bool) => (e.1, true) }

/-- Step 4 of the boundary for every channel. -/
def Dev.dramBoundary (d : Dev) : Dev := each (List.range 8) d.stepPhase Dev.chanBoundary

end Sys2Proof.Machine
end

