-- ==== Sys2Proof/Machine/Snoop.lean ====
section
/-! DEFINITION. What hosts answer to snoops, and the losses of hosts and directory (spec/08_coherence.md R232, R233, R236, R238,
R239, R241, R242). -/

namespace Sys2Proof.Machine

open Sys2Proof

/-- The line of an LD that an HPA of its host names, as a DPA line. -/
def Dev.snoopedLine (d : Dev) (l : Nat) (ldId : BitVec 16) (hpa : BitVec 64) : Option (Nat × Nat) :=
  (d.ldOnLink l ldId.toNat).bind fun ld => (d.dpaOf ld hpa.toNat).map fun a => (ld, a / 64)

/-- The media line of the flow that waits on a slot for a DPA line of its LD. -/
def Dev.flowFor (d : Dev) (s ld dpaLine : Nat) : Option Nat :=
  (d.home.flows.find? fun f => f.wait.contains s && (d.dpaIn ld f.line).map (· / 64) = some dpaLine).map (·.line)

/-- BIRSP: a host answers a snoop, BIRspS keeping its copy or BIRspI (R233). A snoop of another device is answered to it. -/
def Dev.birsp (d : Dev) (l : Nat) (ldId : BitVec 16) (hpa : BitVec 64) (keeps : Bool) : Dev :=
  match d.snoopedLine l ldId hpa with
  | none => d
  | some (ld, line) =>
    match d.home.foreign.find? fun f => f.ld = ld && f.dpaLine = line with
    | some f =>
      let all := replaceFirst (· = f) (fun f => { f with answer := some (flag keeps) }) d.home.foreign
      { d with home.foreign := all }.releaseForeign
    | none =>
      match d.slotOf d.chain.index ld with
      | none => d
      | some s =>
        match d.flowFor s ld line with
        | some n => d.takeBirsp s n keeps
        | none => d

def execBirsp (l : Link) (ldId : BitVec 16) (hpa : BitVec 64) (keepsShared : Bool) (s : State) : Host.Outcome State Fault Refusal :=
  ok (s.dev.birsp (linkNum l) ldId hpa keepsShared).flow s

/-- BICONFLICT (R236). For a snoop of another device it travels there as SRSP; one for a line without a flow outstanding to that host is
answered at once and counted. -/
def Dev.biconflict (d : Dev) (l : Nat) (ldId : BitVec 16) (hpa : BitVec 64) : Dev :=
  let stray : Dev := ((d.bump 0x17B).bump 0x17C).ackOn l (d.ldOnLink l ldId.toNat)
  match d.snoopedLine l ldId hpa with
  | none => stray
  | some (ld, line) =>
    match d.home.foreign.find? fun f => f.ld = ld && f.dpaLine = line with
    | some f => d.snoopAnswer f 2
    | none =>
      match (d.slotOf d.chain.index ld).bind fun s => (d.flowFor s ld line).map fun n => (s, n) with
      | some (s, n) => d.takeConflict s n
      | none => stray

def execBiconflict (l : Link) (ldId : BitVec 16) (hpa : BitVec 64) (s : State) : Host.Outcome State Fault Refusal :=
  ok (s.dev.biconflict (linkNum l) ldId hpa).flow s

/-- BI_TIMEOUT: a slot has not answered a snoop within BiTimeout, in units of 4,096 beats: counted, and the slot is gone from the
next boundary on (R238, R244). -/
def Dev.biTimeout (d : Dev) (s : Nat) : Dev :=
  if d.home.flows.any fun f => f.wait.contains s && f.from_ + d.setting idBiTimeout 0 * 4096 ≤ d.clk.bnd then
    ((d.bump 0x17F).doorbell 0x389).losing s 2
  else d

def execBiTimeout (slot : Fin 32) (s : State) : Host.Outcome State Fault Refusal := ok (s.dev.biTimeout slot.val) s

def execSharerSweep (slot : Fin 32) (s : State) : Host.Outcome State Fault Refusal := ok (s.dev.sweep slot.val).flow s

/-- DIRECTORY_ERROR: an entry beyond DEC-TED (R241). -/
def execDirectoryError (set : Nat) (way : Fin 16) (s : State) : Host.Outcome State Fault Refusal :=
  ok (s.dev.directoryError (set % 131072) way.val) s

end Sys2Proof.Machine
end

