-- ==== Sys2Proof/Machine/Moves.lean ====
section
/-! DEFINITION. Moves of pages and extents (spec/13 R360 to R363; spec/08 R240), the tiering service (spec/04 R122, R123; spec/05
R139 to R141, R490), the drain of a rank (spec/07 R222, R223) and the conversion of a range to another key (spec/06 R194, R195). -/

namespace Sys2Proof.Machine

open Sys2Proof

/-! ### Who moves -/

/-- Slots from 256 on stand for the services of the device: a rank drain, and the tiering service (log 24). -/
def slotDrain : Nat := 256
def slotTier : Nat := 257

/-- Label of the copy entries of a move: of its job, BFh for a drain, C0h for the tiering service (R222, R122). -/
def Dev.moveLabel (d : Dev) (slot : Nat) : Label :=
  if slot = slotDrain then 0xBF else ((d.jobs.slots.look slot).map (·.label)).getD 0xC0

/-- A page or extent of a MIGRATE job has been switched: Detail0 (R370). -/
def Dev.countSwitch (d : Dev) (slot : Nat) : Dev :=
  { d with jobs.slots := d.jobs.slots.map fun e =>
      if e.1 = slot && e.2.kind = .migrate then (e.1, { e.2 with detail0 := e.2.detail0 + 1 }) else e }

/-- A page is being moved or promoted, or its range converted (R360). -/
def Dev.pageHeld (d : Dev) (page : Nat) : Bool :=
  (d.tiers.moves.any fun m => m.page = page) || (d.tiers.promo.any fun e => e.2.page = page) ||
    d.line.rekey.any fun e => e.2.knotted && e.2.unit2m = page / 512

/-- Requests to a page that have their stage-2 translation (R98). -/
def Dev.pageWaits (d : Dev) (page : Nat) : List Nat :=
  (d.path.reqs.filter fun q =>
    q.past2 && q.attr.knotted && q.pool / 2 ^ 44 = d.chain.index && q.page = page && !d.inRecall q).map (·.id)

/-- A knot change has been made: what follows its drain (R96, R98). -/
def Dev.drainKnot (d : Dev) (page : Nat) (a : After) : Dev :=
  let (id, d) := d.fresh
  { d with xl.changes := d.xl.changes ++
      [{ id := id, scope := .stage2 (page / 512) 1, applied := true, waits := d.pageWaits page, after := a }] }

/-! ### Page moves (R361) -/

/-- Space of the same tier for a page at a knot, charged and taken: a frame-area frame, for an elastic page only beyond the
reserve, or slots of the same number (R112, R121, R363). -/
def Dev.sameTier (d : Dev) (page : Nat) (k : BitVec 36) : Option (BitVec 36 × Dev) :=
  let key := d.pageRegion page
  let elastic := match key with | some r => d.regionKind r = .elastic | none => false
  if !(match key with | some r => d.within r (knotKib k) | none => true) then none
  else
    let space := if knotState k = 1 then
        (if elastic && d.framesLeft ≤ d.reserve then none else d.freeFrame).map brightKnot
      else (d.freeSlots (knotClass k)).map (shadeKnot (knotClass k))
    space.map fun s => (s, (match key with | some r => d.use r (knotKib k) | none => d).takeKnot s)

/-- Give back what a move had taken. -/
def Dev.giveBack (d : Dev) (page : Nat) (k : BitVec 36) : Dev :=
  (match d.pageRegion page with | some key => d.credit key (knotKib k) | none => d).freeKnot k

/-- The record index of the next move (R82): the lowest that no move holds. -/
def Dev.moveToken (d : Dev) (slot : Nat) : Option Nat :=
  (lowestFree (d.tiers.moves.map fun m => m.token % 65536) 65536).map fun i => slot % 256 * 2 ^ 24 + i

/-- First media byte of a knot's space. -/
def Dev.knotAddr (d : Dev) (k : BitVec 36) : Nat := d.knotLine k 0 * 64

/-- A shared page's recall register, where the move needs one (R240, R361 step 2). None: no register is free. -/
def Dev.moveRecall (d : Dev) (a : Attr) (src dst : BitVec 36) (slot : Nat) : Option (Option Nat × Dev) :=
  if a.shared && knotState src = 1 then
    let r := d.loadRecall (d.knotAddr src) (d.knotAddr dst) 4096 (d.moveLabel slot)
    if r.1.isSome then some r else none
  else some (none, d)

/-- Set a page's knot to moving, with its move record; a shared page first has its recall register (R82, R361 step 2, R240). None:
no record, no register, the knot is not the one expected, or the page is quarantined (R183). -/
def Dev.startMove (d : Dev) (page : Nat) (a : Attr) (src dst : BitVec 36) (dir slot : Nat) (image : List Byte := []) : Option Dev :=
  let block := a.base + unitLeaf
  if d.quarantined a page then none else
  match d.moveToken slot with
  | none => none
  | some token =>
    match d.moveRecall a src dst slot with
    | none => none
    | some (recallSlot, d) =>
      let r := (d.writeTableBytes (d.moveRec token) (leBytes 16 (src.toNat + dst.toNat * 2 ^ 36))).casKnot block (page % 512) src
        (movingKnot dir token)
      if !r.1 then none
      else
        let (id, d) := r.2.fresh
        let d := d.unstage src
        some { d with tiers.moves := d.tiers.moves ++ [{ id := id, page := page, src := src, dst := dst, dir := dir, slot := slot
                                                         attr := a, recallSlot := recallSlot, token := token, image := image }] }

/-- The write buffer holds a write of a line. -/
def Dev.pendingWrite (d : Dev) (n : Nat) : Bool := (d.wbOn n).any fun w => w.kind = .full || w.kind = .masked

/-- The lines that a page move copies: those with a nonzero minor, or a first write still in the write buffer, of a bright page, every line of a raw one, every image line of
a coded one (R361 step 3). -/
def Dev.copiedLines (d : Dev) (m : Move) : List (Nat × Nat × Option Nat) :=
  if knotState m.src = 1 then
    let h := d.header m.attr.base m.page
    ((List.range 64).filter fun i => hdrMinor h i ≠ 0 || d.pendingWrite (d.knotLine m.src i)).map fun i => (d.knotLine m.src i, d.knotLine m.dst i, none)
  else if knotClass m.src = 3 then (List.range 64).map fun i => (d.knotLine m.src i, d.knotLine m.dst i, none)
  else (List.range (16 * (knotClass m.src + 1))).map fun i => (d.knotLine m.src i, d.knotLine m.dst i, some i)

/-- Place the copy entries of a move in one step, once its recall, if any, is done (R361 step 3, R240). A move between tiers copies
when it switches: its lines pass through Prism (R122, R123). -/
def Dev.placeMove (d : Dev) (id : Nat) : Dev :=
  match d.tiers.moves.find? (·.id = id) with
  | none => d
  | some m =>
    let ready := match m.recallSlot with | some r => ((d.home.recalls.look r).map (·.done)).getD true | none => true
    if m.placed || !ready then d
    else
      let copies := knotState m.src = knotState m.dst
      if copies && !d.wbRoomFor (d.moveLabel m.slot) (d.copiedLines m).length then d
      else
      let d := { d with tiers.moves := replaceFirst (·.id = id) (fun m => { m with placed := true }) d.tiers.moves }
      if !copies then d
      else
        each (d.copiedLines m) d fun d e =>
          let (w, d) := d.fresh
          d.addWb { id := w, line := e.1, kind := .copy e.2.1 m.attr id, label := d.moveLabel m.slot, attr := m.attr, page := m.page
                    admitBnd := d.clk.bnd, image := e.2.2, left := [0] }

/-- Copy entries of a move that have not issued. -/
def Dev.moveCopies (d : Dev) (id : Nat) : Bool :=
  d.line.wb.any fun w => match w.kind with | .copy _ _ m => m = id | _ => false

/-- A move that its job gives up returns its page to the source (R359). -/
def Dev.cancelMove (d : Dev) (m : Move) : Dev :=
  if m.switched then d
  else
    let d := d.abandonMove m
    let d := match m.recallSlot with
      | some r =>
        match d.home.recalls.look r with
        | some x => { d with home.recalls := d.home.recalls.put r { x with dst := x.src, dstDev := none } }.clearRecall r
        | none => d
      | none => d
    (d.eachReq (d.walkers .moving) Dev.stage2)

/-- Write the image lines of a demoted page, a sealed page under its new Major (R140, R170). None: Major is at its top (R174). -/
def Dev.writeImage (d : Dev) (m : Move) : Option Dev × Dev :=
  let h := d.header m.attr.base m.page
  let go (d : Dev) : Dev :=
    let lines := 16 * (knotClass m.dst + 1)
    each (List.range lines) d fun d i =>
      let n := d.knotLine m.dst i
      let d := d.supersede n
      d.setBurst (d.locate n false).1 (d.seal (d.bindOf m.attr n m.page 0 (some i)) (BitVec.ofNat 512 (leNat (slice m.image (64 * i) 64))))
  if m.attr.prot = .sealed then
    match d.raiseMajor m.attr m.page (d.keyOf m.attr (d.knotLine m.src 0) m.page) h with
    | (none, d) => (none, d)
    | (some h, d) => (some (go (d.throughHeader m.attr m.page h)), d)
  else (some (go d), d)

/-- Copy a raw page's written lines to a frame in one step, with what the write buffer holds of them (R123). -/
def Dev.copyRaw (d : Dev) (m : Move) : Dev :=
  let h := d.header m.attr.base m.page
  each ((List.range 64).filter fun i => hdrMinor h i ≠ 0 || d.pendingWrite (d.knotLine m.src i)) d fun d i =>
    let n := d.knotLine m.src i
    let (x, d) := d.readLine m.attr n m.page 0xC0
    let d := each ((d.wbOn n).filter fun w => w.kind = .full || w.kind = .masked) d fun d w => d.countMinor w
    (d.supersede n).putLine m.attr (d.knotLine m.dst i) m.page (hdrMinor (d.header m.attr.base m.page) i) x

/-- The destination takes the page (R361 step 4): the knot is set under R96, and the source follows the drain. -/
def Dev.switchMove (d : Dev) (m : Move) : Dev :=
  let block := m.attr.base + unitLeaf
  let d := (d.changeKnot block m.page (movingKnot m.dir m.token) m.dst).unstage m.src
  let moves := replaceFirst (·.id = m.id) (fun m => { m with switched := true }) d.tiers.moves
  let d := { d with tiers.moves := moves }.countSwitch m.slot
  let d := d.drainKnot m.page (.move m.id)
  let d := if knotState m.src = knotState m.dst then d else d.bump (if knotState m.dst = 1 then 0x175 else 0x174)
  d.eachReq (d.walkers .moving) Dev.stage2

/-- MOVE_COPY_DRAINED: the copy entries of a page move have drained, or the page's lines have passed through Prism (R361, R122,
R123). Reads of a sealed page that still need its old Major go first (log 25). The page header is in the cache, fetched again if it has
left; where it does not verify the page stays where it is (R170, R178). -/
def Dev.moveDrained (d : Dev) (id : Nat) : Dev :=
  match d.tiers.moves.find? (·.id = id) with
  | none => d
  | some m =>
    if !m.placed || m.switched || d.moveCopies id || d.knotAt (m.attr.base + unitLeaf) (m.page % 512) ≠ movingKnot m.dir m.token then d
    else if knotState m.src = knotState m.dst then d.switchMove m
    else if knotState m.dst = 2 && m.attr.prot = .sealed && !(d.pageWaits m.page).isEmpty then d
    else
    let (good, d) := d.fetchHeader m.attr m.page []
    if !good then d.abandonMove m
    else if knotState m.dst = 2 then
        match d.writeImage m with
        | (some d, _) => d.switchMove m
        | (none, d) => d.abandonMove m
    else
      let d := if knotClass m.src = 3 then d.copyRaw m
        else d.placePromotion { page := m.page, knot := m.src, dest := m.dst, attr := m.attr } (d.header m.attr.base m.page)
      d.switchMove m

def execMoveCopyDrained (move : Nat) (s : State) : Host.Outcome State Fault Refusal := ok (s.dev.moveDrained move).flow s

/-! ### Extent moves (R362) -/

/-- Attributes of a direct extent of a region. -/
def Region.direct (r : Region) (key : Nat) : Attr :=
  { prot := r.prot, key := key, shared := r.kind = .shared, reflected := r.reflected }

/-- Load an extent move register for a unit of an LD: destination frame taken, on this device or another, and for a shared extent
its recall register (R240, R362). None: no register or no frame. -/
def Dev.startExtMove (d : Dev) (ld unit : Nat) (r : Region) (src dstDev slot : Nat) : Option Dev :=
  match lowestFree d.tiers.extMoves.keys 8 with
  | none => none
  | some reg =>
    let key := extKey (d.extEntry ld unit)
    let a := r.direct key
    let got : Option (Nat × Dev) :=
      if dstDev = d.chain.index then (d.freeBig r.reflected).map fun f => (f, d.takeBig f r.reflected)
      else let (v, d) := d.free 22; some (v.toNat, d)
    match got with
    | none => none
    | some (dst, d) =>
      let m : ExtMove := { src := src, dst := dst, dstDev := dstDev, job := slot, ld := ld, ext := unit, attr := a, label := d.moveLabel slot }
      if r.kind = .shared then
        match d.loadRecall (src * mib2) (dst * mib2) mib2 m.label (if dstDev = d.chain.index then none else some dstDev) with
        | (some x, d) => some { d with tiers.extMoves := d.tiers.extMoves.put reg { m with recallSlot := some x } }
        | (none, _) => none
      else some { d with tiers.extMoves := d.tiers.extMoves.put reg m }

/-- EXTENT_MOVE_PAGE: one copy entry for each of the cursor's 64 lines, and the cursor past them (R362). -/
def Dev.extentPage (d : Dev) (reg : Nat) : Dev :=
  match d.tiers.extMoves.look reg with
  | none => d
  | some m =>
    let ready := match m.recallSlot with | some r => ((d.home.recalls.look r).map (·.done)).getD true | none => true
    if 512 ≤ m.cursor || !ready || !d.wbRoomFor m.label 64 then d
    else
      let d := each (List.range 64) d fun d i =>
        let off := m.cursor * 64 + i
        let n := m.src * 32768 + off
        let kind := if m.dstDev = d.chain.index then WKind.copy (m.dst * 32768 + off) m.attr (extentCopy + reg)
          else .remote m.dstDev (m.dst * 32768 + off) reg
        let (w, d) := d.fresh
        d.addWb { id := w, line := n, kind := kind, label := m.label, attr := m.attr, admitBnd := d.clk.bnd
                  left := if m.dstDev = d.chain.index then d.copiesOf m.attr n else [0] }
      { d with tiers.extMoves := d.tiers.extMoves.put reg { m with cursor := m.cursor + 1 } }

def execExtentMovePage (reg : Fin 8) (s : State) : Host.Outcome State Fault Refusal := ok (s.dev.extentPage reg.val).flow s

/-- One unit of an extent goes to another device and place. -/
def Dev.reseat (d : Dev) (ld unit dev place : Nat) : Dev :=
  d.modLd ld fun l => { l with
    exts := l.exts.flatMap fun x =>
      if x.start ≤ unit && unit < x.start + x.len then
        if x.dev = dev then [{ x with place := x.place.set (unit - x.start) place }]
        else (x.cut fun u => u = unit).map fun y => if y.start = unit then { y with dev := dev, place := [place] } else y
      else [x] }

/-- Rewrite the extent entry of a unit to its place as it now stands, and post the change (R97). -/
def Dev.rewriteExt (d : Dev) (ld unit : Nat) (a : After) : Dev :=
  match d.extentAt ld unit, d.regionAt ld (unit * mib2) with
  | some (x, i), some r =>
    let key := extKey (d.extEntry ld unit)
    let keys := if r.prot ≠ .plain && x.dev ≠ d.chain.index then [(key, 1)] else []
    (d.setExt ld unit (extWithKey (extEntryOf r x i) key)).post (.stage1 ld unit 1) a keys
  | _, _ => d

/-- EXTENT_MOVE_SWITCH: after page 511 every entry that names the source names the destination, from the next boundary on; the
source goes free after the drain (R362). -/
def Dev.extentSwitch (d : Dev) (reg : Nat) : Dev :=
  match d.tiers.extMoves.look reg with
  | none => d
  | some m =>
    let copying := d.line.wb.any fun w =>
      match w.kind with | .copy _ _ k => k = extentCopy + reg | .remote _ _ k => k = reg | _ => false
    if m.cursor < 512 || m.switched || copying then d
    else
      let names := d.namers false m.src
      let d := { d with tiers.extMoves := d.tiers.extMoves.put reg { m with switched := true } }.countSwitch m.job
      let d := each names d fun d e => (d.reseat e.1 e.2 m.dstDev m.dst).rewriteExt e.1 e.2 (.extentMove reg)
      if names.isEmpty then d.endExtMove reg else d

def execExtentMoveSwitch (reg : Fin 8) (s : State) : Host.Outcome State Fault Refusal := ok (s.dev.extentSwitch reg.val).flow s

/-- An extent move that its job gives up: the register is clear and the destination free (R359). -/
def Dev.cancelExtMove (d : Dev) (reg : Nat) : Dev :=
  match d.tiers.extMoves.look reg with
  | none => d
  | some m =>
    if m.switched then d
    else
      let mine (w : Wb) : Bool := match w.kind with | .copy _ _ k => k = extentCopy + reg | .remote _ _ k => k = reg | _ => false
      let ids := (d.line.wb.filter mine).map (·.id)
      let d := { d with
        line.wb := d.line.wb.filter fun w => !mine w
        dram.accs := d.dram.accs.filter fun a => match a.kind with | .merge w | .write w => !ids.contains w | _ => true
        tiers.extMoves := d.tiers.extMoves.del reg }
      let d := match m.recallSlot with
        | some r =>
          match d.home.recalls.look r with
          | some x => { d with home.recalls := d.home.recalls.put r { x with dst := x.src, dstDev := none } }.clearRecall r
          | none => d
        | none => d
      if m.dstDev = d.chain.index then d.freeBigFrame m.dst m.attr.reflected else d

/-! ### The tiering service (R122, R123) -/

/-- Engines in service. -/
def Dev.enginesUp (d : Dev) : List Nat := (List.range 8).filter fun e => !d.prism.retired.contains e

/-- The engine in service with the fewest queued tiering encodes, the lower on a tie (R490). -/
def Dev.encodeEngine (d : Dev) : Nat :=
  let load (e : Nat) : Nat := (d.tiers.demote.filter (·.2 = e)).length
  (d.enginesUp.foldl (fun b e => match b with
    | none => some e
    | some x => if load e < load x then some e else some x) none).getD 0

/-- Queue a page for demotion. -/
def Dev.queueDemotion (d : Dev) (page : Nat) : Dev :=
  if d.tiers.demote.any (·.1 = page) then d
  else { d with tiers.demote := d.tiers.demote ++ [(page, d.encodeEngine)] }

/-- Age the records of a range: one step, ordered with stage 2's updates (R122). -/
def Dev.ageRange (d : Dev) (range : Nat) : Dev :=
  let block := (d.rangeAttr range).base + unitLeaf
  each (List.range 512) d fun d i =>
    let r := d.tierRec block i
    d.setTierRec block i (mkRec (recHeat r / 2) (recIdle r + 1) (recIncompressible r) (recQueued r))

/-- Bright pages of a range that a sweep would demote, with idle and sum of minors (R122). `least`: the idle that makes a candidate;
none: no page is one. -/
def Dev.demotable (d : Dev) (range : Nat) (least : Option Nat) : List (Nat × Nat × Nat) :=
  let a := d.rangeAttr range
  let block := a.base + unitLeaf
  match least with
  | none => []
  | some n => (List.range 512).filterMap fun i =>
      let r := d.tierRec block i
      if d.knotReadable block i && knotState (d.knotAt block i) = 1 && n ≤ recIdle r && !recIncompressible r then
        some (range * 512 + i, recIdle r, hdrHeat (d.header a.base (range * 512 + i)))
      else none

/-- Idle that makes a page of a region a candidate: 1 under pressure, else DemoteAfter unless that is 0 (R122). -/
def Dev.idleLimit (d : Dev) (r : Region) : Option Nat :=
  if (d.elastic (regionKey r)).st ≠ .normal then some 1
  else
    let n := d.setting idDemoteAfter (r.ld * 16 + r.entry)
    if n = 0 then none else some n

/-- Candidates in the order of demotion: highest idle first, ties by the lower sum of minors (R122); those equal in both by range and page
(DESIGN CHOICE, log 26: the rule is silent). -/
def demoteOrder (l : List (Nat × Nat × Nat)) : List Nat :=
  (l.mergeSort fun a b => b.2.1 < a.2.1 || (a.2.1 = b.2.1 && a.2.2 ≤ b.2.2)).map (·.1)

/-- The sweep of an elastic region: ageing, then its candidates in order (R122, R364). -/
def Dev.sweepRegion (d : Dev) (r : Region) : List Nat × Dev :=
  let ranges := d.regionRanges (regionKey r)
  let d := each ranges d Dev.ageRange
  (demoteOrder (ranges.flatMap fun x => d.demotable x (d.idleLimit r)), d)

/-- TIER_EPOCH_END: every TierEpoch x 4,096 boundaries (R122). -/
def Dev.epochEnd (d : Dev) : Dev :=
  let n := d.setting idTierEpoch 0 * 4096
  if n = 0 || d.clk.bnd < d.tiers.epochFrom + n then d
  else
    let d := { d with tiers.epochFrom := d.tiers.epochFrom + n }
    each (d.conf.regions.filter (·.kind = .elastic)) d fun d r =>
      let (pages, d) := d.sweepRegion r
      each pages d Dev.queueDemotion

def execTierEpochEnd (s : State) : Host.Outcome State Fault Refusal := ok s.dev.epochEnd s

/-- A page's 4 KiB as the encoder sees it: a line whose minor is 0 as zeros (R141). None: a line that releases no data. -/
def Dev.pageContent (d : Dev) (a : Attr) (page : Nat) (k : BitVec 36) : Option (List Byte) × Dev :=
  each (List.range 64) (some [], d) fun (acc, d) i =>
    let (x, d) := d.readLine a (d.knotLine k i) page 0xC0
    (match acc, x with | some l, some x => some (l ++ leBytes 64 x.toNat) | _, _ => none, d)

/-- The image of a page as its engine coded it decodes to the page, each sub-block coded in at most 258 bytes (R141). -/
def imageDecodes (image content : List Byte) : Bool :=
  let index := image.take 32
  (List.range 16).all fun i =>
    decodeSub image image.length i = some (slice content (256 * i) 256) && imgEnd index i - imgStart index i ≤ 258

/-- A page that codes to a size class takes slots of it and starts to move (R122, R139, R141). -/
def Dev.demoteTo (d : Dev) (page : Nat) (a : Attr) (k : BitVec 36) (c : Nat) (image : List Byte) : Dev :=
  match d.pageRegion page, d.freeSlots c with
  | some key, some s =>
    if !d.within key (c + 1) then d
    else
      let dst := shadeKnot c s
      match ((d.use key (c + 1)).takeKnot dst).startMove page a k dst 1 slotTier image with
      | some d => match d.tiers.moves.getLast? with | some m => d.placeMove m.id | none => d
      | none => d
  | _, _ => d

/-- What follows once the page's content is read: the image padded with zeros (R137), and a failure of the verification counted, with an
event that names sub-block 0 (R122, R141; DESIGN CHOICE, log 49: the rule does not say which sub-block the event names). -/
def Dev.demoteCoded (d : Dev) (engine page : Nat) (a : Attr) (k : BitVec 36) (content image : List Byte) : Dev :=
  let coded := imgEnd (image.take 32) 15
  let block := a.base + unitLeaf
  let i := page % 512
  let r := d.tierRec block i
  match sizeClass coded with
  | none => d.setTierRec block i (mkRec (recHeat r) (recIdle r) true (recQueued r))
  | some c =>
    let image := image.take coded ++ zeros (1024 * (c + 1) - coded)
    if !imageDecodes image content then (d.bump 0x173).prismFault engine 1 page 0 k else d.demoteTo page a k c image

/-- A demotion whose page may still go: its frame is bright, nothing holds it, and no write of it waits, in the path or in the write
buffer (R122). -/
def Dev.demotionStands (d : Dev) (page : Nat) (a : Attr) : Bool :=
  let k := d.knotAt (a.base + unitLeaf) (page % 512)
  d.tiers.owner.has (page / 512) && d.knotTakes a page && knotState k = 1 && !d.pageHeld page &&
    !((List.range 64).any fun i => d.pendingWrite (d.knotLine k i)) &&
    !(d.path.reqs.any fun q => q.isWrite && q.past2 && q.attr.knotted && q.page = page && q.pool / 2 ^ 44 = d.chain.index)

/-- Its page header and content are read; a page that cannot be read stays. -/
def Dev.demoteNow (d : Dev) (engine page : Nat) (a : Attr) (k : BitVec 36) (image : List Byte) : Dev :=
  match d.fetchHeader a page [] with
  | (false, d) => d
  | (true, d) =>
    match d.pageContent a page k with
    | (none, d) => d
    | (some content, d) => d.demoteCoded engine page a k content image

/-- A demotion is no longer under way, and its page goes where it may. -/
def Dev.demoteIf (d : Dev) (engine page : Nat) (image : List Byte) : Dev :=
  let a := d.rangeAttr (page / 512)
  if d.demotionStands page a then d.demoteNow engine page a (d.knotAt (a.base + unitLeaf) (page % 512)) image else d

/-- DEMOTION_VERIFY_DONE: an engine has coded a queued page into `image` (padding included) and decoded it again. A page above
3 KiB becomes Incompressible; one that does not decode to its content is a verify failure; otherwise its slots are charged and
taken and the page is moving (R122, R139, R141). A page that has been written since, or is no longer bright, is left alone. -/
def Dev.demotionVerified (d : Dev) (page : Nat) (image : List Byte) : Dev :=
  match d.tiers.demote.find? (·.1 = page) with
  | none => d
  | some (_, engine) =>
    if (d.engineNext engine).isSome then d
    else { d with tiers.demote := d.tiers.demote.filter (·.1 ≠ page) }.demoteIf engine page image

def execDemotionVerifyDone (page : BitVec 32) (image : List Byte) (s : State) : Host.Outcome State Fault Refusal :=
  ok (s.dev.demotionVerified page.toNat image).flow s

/-- Start a move of a shade page to a bright frame under direction 10b, where quota and space allow (R123, R364). -/
def Dev.brighten (d : Dev) (page slot : Nat) : Option Dev :=
  let a := d.rangeAttr (page / 512)
  let k := d.knotAt (a.base + unitLeaf) (page % 512)
  match d.pageRegion page with
  | none => none
  | some key =>
    if !d.knotTakes a page || knotState k ≠ 2 || d.pageHeld page || !d.within key 4 || d.framesLeft ≤ d.reserve then none
    else
      match d.freeFrame, d.fetchHeader a page [] with
      | some f, (true, d) =>
        (((d.use key 4).takeFrame f).startMove page a k (brightKnot f) 2 slot).map fun d =>
          match d.tiers.moves.getLast? with | some m => d.placeMove m.id | none => d
      | _, _ => none

/-- READ_PROMOTION: the oldest queued page is taken off the queue and moved to a bright frame if its region is Normal and its quota
allows (R123). -/
def Dev.readPromotion (d : Dev) : Dev :=
  match d.tiers.readQ with
  | [] => d
  | page :: rest =>
    let d := { d with tiers.readQ := rest }
    if !d.tiers.owner.has (page / 512) then d
    else
      let block := (d.rangeAttr (page / 512)).base + unitLeaf
      let r := d.tierRec block (page % 512)
      let d := d.setTierRec block (page % 512) (mkRec (recHeat r) (recIdle r) (recIncompressible r) false)
      match (d.pageRegion page).bind d.regionOf with
      | some r => if (d.elastic (regionKey r)).st = .normal then (d.brighten page slotTier).getD d else d
      | none => d

def execReadPromotion (s : State) : Host.Outcome State Fault Refusal := ok s.dev.readPromotion.flow s

/-! ### The drain of a rank (R222, R223) -/

/-- Moving a page to other space of its tier (R363, R222): the page, attributes and knot. None: it has to wait. -/
def Dev.movePage (d : Dev) (page slot : Nat) : Option Dev :=
  let a := d.rangeAttr (page / 512)
  let k := d.knotAt (a.base + unitLeaf) (page % 512)
  let dir := if knotState k = 2 && knotClass k ≠ 3 then 2 else 0
  if d.pageHeld page then none
  else
    match d.fetchHeader a page [] with
    | (false, _) => none
    | (true, d) =>
      match d.sameTier page k with
      | none => none
      | some (dst, d) =>
        (d.startMove page a k dst dir slot).map fun d =>
          match d.tiers.moves.getLast? with | some m => d.placeMove m.id | none => d

/-- What a draining rank still holds (R222): a unit of a direct extent, or a knotted page. -/
inductive OnRank
  | direct (ld unit place : Nat) (r : Region)
  | page (p : Nat)
  deriving DecidableEq, Repr, Inhabited

/-- Direct extents with a line on a logical rank, each once. -/
def Dev.directOn (d : Dev) (logical : Nat) : List OnRank :=
  let (f, n) := d.rankFrames logical
  let l := d.conf.regions.flatMap fun r =>
    if r.knotted || r.home.isSome then []
    else (d.regionExts r).flatMap fun x =>
      if x.dev ≠ d.chain.index then []
      else x.place.zipIdx.filterMap fun e =>
        let frames := bigFrames e.1 r.reflected
        if frames.any fun b => b * 512 < f + n && f < b * 512 + 512 then some (r, x.start + e.2, e.1) else none
  (l.foldl (fun acc e => if acc.any fun a => a.2.2 = e.2.2 then acc else acc ++ [e]) []).map fun e => .direct e.1.ld e.2.1 e.2.2 e.1

/-- Knotted pages with a line on a logical rank, of elastic regions or of others. -/
def Dev.pagesOn (d : Dev) (logical : Nat) (elastic : Bool) : List OnRank :=
  let (f, n) := d.rankFrames logical
  d.tiers.owner.flatMap fun e =>
    if (d.regionKind e.2.1 = .elastic) ≠ elastic then []
    else
      let block := (d.rangeAttr e.1).base + unitLeaf
      (List.range 512).filterMap fun i =>
        let k := d.knotAt block i
        let frame := d.knotAddr k / 4096
        if (knotState k = 1 || knotState k = 2) && d.knotReadable block i && !d.knotBad k && f ≤ frame && frame < f + n then
          some (.page (e.1 * 512 + i)) else none

/-- Everything on a rank in the order of the drain: C0 extents, the rest of firm and shared, elastic (R222). -/
def Dev.onRank (d : Dev) (logical : Nat) : List OnRank :=
  let direct := d.directOn logical
  let c0 (u : OnRank) : Bool := match u with | .direct _ _ _ r => labelCls r.label = .c0 | _ => false
  direct.filter c0 ++ direct.filter (fun u => !c0 u) ++ d.pagesOn logical false ++ d.pagesOn logical true

/-- A move has its source on a rank. -/
def Dev.movingOff (d : Dev) (logical : Nat) : Bool :=
  let (f, n) := d.rankFrames logical
  let on (frame : Nat) : Bool := f ≤ frame && frame < f + n
  (d.tiers.moves.any fun m => on (d.knotAddr m.src / 4096)) || d.tiers.extMoves.any fun e => on (e.2.src * 512) ||
    on (e.2.src * 512 + 511)

/-- No free frame or slot of the device takes what stands on a draining rank: not what quota, reserve or move registers hold back (R222). -/
def Dev.noFrame (d : Dev) (u : OnRank) : Bool :=
  match u with
  | .direct _ _ _ r => (d.freeBig r.reflected).isNone
  | .page p =>
    let k := d.knotAt ((d.rangeAttr (p / 512)).base + unitLeaf) (p % 512)
    if knotState k = 1 then
      let elastic := match d.pageRegion p with | some key => d.regionKind key = .elastic | none => false
      d.freeFrame.isNone || (elastic && d.framesLeft ≤ d.reserve)
    else (d.freeSlots (knotClass k)).isNone

/-- RANK_DRAIN: the next page or extent of a draining rank starts to move; when none is left the rank is retired, unless it holds
table lines; without a free frame DRAIN_SHORT is raised (R222, R223). -/
def Dev.rankDrain (d : Dev) (ch logical : Nat) : Dev :=
  let c := d.chan ch
  if !c.draining.contains logical then d
  else
    let left := d.onRank logical
    let (f, n) := d.rankFrames logical
    if left.isEmpty then
      if d.movingOff logical || d.tableBase < (f + n) * 4096 then d
      else
        let phys := c.remap.val logical logical
        let d := d.setChan ch { c with draining := c.draining.filter (· ≠ logical) }
        if c.retired.contains logical then d
        else
          let d := d.modChan ch fun c => { c with retired := c.retired ++ [logical], retiredPhys := c.retiredPhys ++ [phys] }
          (d.logFault ch phys 0 10).rankRecord ch phys
    else
      let free (u : OnRank) : Bool := match u with
        | .direct _ _ place _ => !d.unitHeld false place
        | .page p => !d.pageHeld p
      match left.find? free with
      | none => d
      | some u =>
        let got := match u with
          | .direct ld unit place r => d.startExtMove ld unit r place d.chain.index slotDrain
          | .page p => d.movePage p slotDrain
        match got with
        | some d => d
        | none =>
          if !d.noFrame u then d else
          let pages := left.foldl (fun n u => n + match u with | .direct .. => 512 | .page _ => 1) 0
          d.raise 0x109 .warning none (ch + logical * 8 + pages % 2 ^ 32 * 2 ^ 32)

def execRankDrain (ch : Fin 8) (rank : Fin 4) (s : State) : Host.Outcome State Fault Refusal :=
  ok (s.dev.rankDrain ch.val rank.val).flow s

/-! ### Re-keying a range (R194, R195) -/

/-- Lines of a page that hold data, for its conversion: media line, image line (R194). -/
def Dev.dataLines (d : Dev) (x : Rekey) (a : Attr) (p : Nat) : List (Nat × Option Nat) :=
  if !x.knotted then (List.range 64).map fun i => (x.unit2m * 32768 + p * 64 + i, none)
  else
    let page := x.unit2m * 512 + p
    let k := d.knotAt (a.base + unitLeaf) p
    match knotState k with
    | 1 =>
      let h := d.header a.base page
      ((List.range 64).filter fun i => hdrMinor h i ≠ 0 || d.pendingWrite (d.knotLine k i)).map fun i => (d.knotLine k i, none)
    | 2 =>
      if knotClass k = 3 then
        let h := d.header a.base page
        ((List.range 64).filter fun i => hdrMinor h i ≠ 0 || d.pendingWrite (d.knotLine k i)).map fun i => (d.knotLine k i, none)
      else (List.range (16 * (knotClass k + 1))).map fun i => (d.knotLine k i, some i)
    | _ => []

/-- Attributes of a range that a re-key register holds, under its old key. -/
def Dev.rekeyAttr (d : Dev) (x : Rekey) : Attr :=
  if x.knotted then d.rangeAttr x.unit2m
  else
    match (d.namers false x.unit2m).head? with
    | some (ld, unit) => ((d.regionAt ld (unit * mib2)).map fun r => r.direct x.old).getD {}
    | none => {}

/-- The entries of a converted range take the new key, from the next boundary on; the register follows their drain (R194). -/
def Dev.rekeyEnd (d : Dev) (reg : Nat) (x : Rekey) : Dev :=
  let names := d.namers x.knotted x.unit2m
  let d :=
    if x.knotted then
      match d.s2At (x.unit2m * 512) with
      | some e => (d.setS2 x.unit2m (s2WithKey e x.new)).post (.stage2 x.unit2m 1) (.rekey reg) [(x.old, 1)]
      | none => d
    else d
  let d := each names d fun d e =>
    if !extValid (d.extEntry e.1 e.2) then d
    else (d.setExt e.1 e.2 (extWithKey (d.extEntry e.1 e.2) x.new)).post (.stage1 e.1 e.2 1) (.rekey reg) [(x.old, 1)]
  if d.xl.changes.any fun c => c.after = .rekey reg then d else { d with line.rekey := d.line.rekey.del reg }

/-- REKEY_PAGE: a conversion entry for every line of the cursor's page that holds data, and the cursor past it; after page 511 the
entries take the new key (R194). A quarantined page stays before the cursor (R183), and the step needs room in the write buffer (R26). -/
def Dev.rekeyPage (d : Dev) (reg : Nat) : Dev :=
  match d.line.rekey.look reg with
  | none => d
  | some x =>
    if 512 < x.cursor then d
    else if x.cursor = 512 then
      ({ d with line.rekey := d.line.rekey.put reg { x with cursor := 513 } }).rekeyEnd reg x
    else
      let a := d.rekeyAttr x
      let page := x.unit2m * 512 + x.cursor
      let d := if x.knotted then (d.fetchHeader a page []).2 else d
      if d.quarantined a page || !d.wbRoomFor (d.moveLabel x.job) (d.dataLines x a x.cursor).length then d
      else
      let d := each (d.dataLines x a x.cursor) d fun d e =>
        let (w, d) := d.fresh
        d.addWb { id := w, line := e.1, kind := .convert reg, label := d.moveLabel x.job, attr := a, page := if x.knotted then page else 0
                  admitBnd := d.clk.bnd, image := e.2, left := d.copiesOf a e.1 }
      { d with line.rekey := d.line.rekey.put reg { x with cursor := x.cursor + 1 } }

def execRekeyPage (reg : Fin 8) (s : State) : Host.Outcome State Fault Refusal := ok (s.dev.rekeyPage reg.val).flow s

end Sys2Proof.Machine
end

