-- ==== Sys2Proof/Machine/Seal.lean ====
section
/-! DEFINITION. Keys and quarantine (spec/06 R182 to R193; spec/13 R380, R381): loading, generating and retiring key IDs, their
references, SEAL.REKNOT, and how a SANITIZE ends a quarantine (R186). -/

namespace Sys2Proof.Machine

open Sys2Proof

/-! ### Key IDs (R188 to R193) -/

/-- References to a key ID on this device (R189): extent entries that name it, S2L2 entries of knotted ranges that name it, and
entries that have ceased to and whose change still drains (log 27). -/
def Dev.keyRefs (d : Dev) (key : Nat) : Nat :=
  let direct := d.conf.regions.foldl (fun n r => n + d.entriesNaming r key) 0
  let ranges := (d.tiers.units.filter fun e =>
    match d.s2At (e.1 * 512) with | some s => s2Prot s ≠ 0 && s2Key s = key | none => false).length
  direct + ranges + (d.xl.changes.flatMap (·.keys)).foldl (fun n e => if e.1 = key then n + e.2 else n) 0

/-- Protection level a referenced key ID serves: 1 veiled, 2 sealed; 0 unreferenced (R380). -/
def Dev.keyLevel (d : Dev) (key : Nat) : Nat :=
  if d.keyRefs key = 0 then 0
  else
    match d.conf.regions.find? fun r => r.prot ≠ .plain && r.key = key with
    | some r => protNum r.prot
    | none =>
      match d.tiers.units.findSome? fun e => (d.s2At (e.1 * 512)).filter fun s => s2Prot s ≠ 0 && s2Key s = key with
      | some s => s2Prot s
      | none => 1

/-- State code of a key ID (R188). -/
def kstateNum : KState → Nat | .free => 0 | .active => 1 | .failed => 2 | .retiring => 3

/-- The key ID a command names: itself where it is FREE, for FFh the lowest FREE one (R190 to R192). -/
def Dev.keyFor (d : Dev) (n : Nat) : Except Status Nat :=
  if n = 255 then
    match (List.range 64).find? fun k => (d.key k).st = .free with | some k => .ok k | none => .error .noKeyId
  else if (d.key n).st = .free then .ok n else .error .keyInUse

/-- SEAL.KEY.LOAD (R190, R192). -/
def Dev.sealKeyLoad (d : Dev) (iss : Issuer) (inp : List Byte) : Dev :=
  let n := field inp 0 1
  let session := BitVec.ofNat 32 (field inp 4 4)
  let mine := match iss with | .host ld _ => (d.ld ld.val).session | .mc _ => d.host.mcSession
  if inp.length ≠ 112 then d.badLength iss
  else if (63 < n && n ≠ 255) || !rsvd inp 1 3 then d.refuse iss .invalidInput 8
  else if mine ≠ some session then d.refuse iss .noSession 8
  else
    match d.keyFor n with
    | .error st => d.refuse iss st 8
    | .ok k =>
      (unwrapKey (deviceKek session) (inp.drop 8)).elim (d.refuse iss .unwrapFailed 8) fun m =>
        (d.setKey k { st := .active, material := BitVec.ofNat 768 (leNat m), source := 1 }).reply iss .success
          (BitVec.ofNat 8 k :: zeros 5)

def execSealKeyLoad (iss : Issuer) (inp : List Byte) (s : State) : Host.Outcome State Fault Refusal :=
  ok (s.dev.command iss 0xC600 fun d => d.sealKeyLoad iss inp) s

/-- SEAL.KEY.GEN (R191, R192). -/
def Dev.sealKeyGen (d : Dev) (iss : Issuer) (inp : List Byte) : Dev :=
  let n := field inp 0 1
  if inp.length ≠ 8 then d.badLength iss
  else if (63 < n && n ≠ 255) || !rsvd inp 1 7 then d.refuse iss .invalidInput 8
  else
    match d.keyFor n with
    | .error st => d.refuse iss st 8
    | .ok k =>
      let (m, d) := d.random 768
      (d.setKey k { st := .active, material := m, source := 2 }).reply iss .success (BitVec.ofNat 8 k :: zeros 5)

def execSealKeyGen (iss : Issuer) (inp : List Byte) (s : State) : Host.Outcome State Fault Refusal :=
  ok (s.dev.command iss 0xC601 fun d => d.sealKeyGen iss inp) s

/-- SEAL.KEY.RETIRE (R193). -/
def Dev.sealKeyRetire (d : Dev) (iss : Issuer) (inp : List Byte) : Dev :=
  let n := field inp 0 1
  if inp.length ≠ 8 then d.badLength iss
  else if 63 < n || !rsvd inp 1 7 then d.refuse iss .invalidInput 8
  else
    let refs := d.keyRefs n
    let out (d : Dev) (st : Status) : Dev :=
      d.reply iss st ([BitVec.ofNat 8 (kstateNum (d.key n).st), 0] ++ leBytes 4 refs)
    match (d.key n).st with
    | .active => if refs ≠ 0 then out d .keyInUse else out (d.setKey n {}) .success
    | .failed => out (d.setKey n (if refs = 0 then {} else { st := .retiring })) .success
    | _ => out d .keyState

def execSealKeyRetire (iss : Issuer) (inp : List Byte) (s : State) : Host.Outcome State Fault Refusal :=
  ok (s.dev.command iss 0xC602 fun d => d.sealKeyRetire iss inp) s

/-- At the boundary: a RETIRING ID without references is FREE (R193). -/
def Dev.freeRetired (d : Dev) : Dev :=
  each d.line.keys d fun d e => if e.2.st = .retiring && d.keyRefs e.1 = 0 then d.setKey e.1 {} else d

/-- SEAL.KEY.STATUS (R380). -/
def Dev.sealKeyStatus (d : Dev) (iss : Issuer) (inp : List Byte) : Dev :=
  if !inp.isEmpty then d.badLength iss
  else
    d.reply iss .success (zeros 6 ++ (List.range 64).flatMap fun k =>
      let x := d.key k
      [BitVec.ofNat 8 (kstateNum x.st), BitVec.ofNat 8 (d.keyLevel k), BitVec.ofNat 8 x.source, 0] ++ leBytes 4 (d.keyRefs k))

def execSealKeyStatus (iss : Issuer) (inp : List Byte) (s : State) : Host.Outcome State Fault Refusal :=
  ok (s.dev.command iss 0xC603 fun d => d.sealKeyStatus iss inp) s

/-! ### SPDM sessions (R190, R386) -/

/-- SPDM_SECURE_SESSION: a session with an LD's host, or with the management controller, is established or ends. -/
def Dev.spdmSession (d : Dev) (who : Option Nat) (session : BitVec 32) (up : Bool) : Dev :=
  match who with
  | some ld => d.modLd ld fun x => { x with session := if up then some session else if x.session = some session then none else x.session }
  | none =>
    let cur := d.host.mcSession
    { d with host.mcSession := if up then some session else if cur = some session then none else cur }

def execSpdmSecureSession (who : Option (Fin 32)) (session : BitVec 32) (established : Bool) (s : State) :
    Host.Outcome State Fault Refusal :=
  ok (s.dev.spdmSession (who.map (·.val)) session established) s

/-! ### Quarantine (R183 to R187, R381) -/

/-- SEAL.QUARANTINE (R381). -/
def Dev.sealQuarantine (d : Dev) (iss : Issuer) (inp : List Byte) : Dev :=
  if !inp.isEmpty then d.badLength iss
  else
    d.reply iss .success (zeros 6 ++ (List.range 256).flatMap fun k =>
      match d.line.quar.look k with
      | none => zeros 8
      | some q =>
        let low := q.level = 255 || 3 ≤ q.level
        leBytes 8 (1 + q.level * 2 ^ 8 + (if low then 0 else q.index * 2 ^ 16) +
          (if q.level = 255 then 0 else if low then q.index else q.unit) * 2 ^ 32))

def execSealQuarantine (iss : Issuer) (inp : List Byte) (s : State) : Host.Outcome State Fault Refusal :=
  ok (s.dev.command iss 0xC609 fun d => d.sealQuarantine iss inp) s

/-- Level and node index, counted over the level, of what an entry names (R175, R381). -/
def Quar.node (q : Quar) : Nat × Nat :=
  match q.level with
  | 0 => (0, 512 * q.unit + q.index)
  | 1 => (1, 64 * q.unit + q.index)
  | 2 => (2, 8 * q.unit + q.index)
  | l => (l, q.index)

/-- Whether a node of a level is a tree line: one above the units, or one of a unit that serves sealed ranges. -/
def Dev.treeNode (d : Dev) (lvl idx : Nat) : Bool :=
  3 ≤ lvl || d.tiers.treeUnits.contains (idx / ([512, 64, 8].getD lvl 1))

/-- Rebuild a lost node: its media counters plus 65,536, and each child written again under its new counter, from the cache or from
media (R185, R186). -/
def Dev.rebuildNode (d : Dev) (lvl idx : Nat) : Dev :=
  let n := d.nodeLine lvl idx
  let raw := d.rawLine n
  let new := (List.range 8).foldl (fun x i => lineSetBits x (64 * i) 64 ((lineField raw (8 * i) 8 + 65536) % 2 ^ 64)) raw
  let d := d.ctPut { line := n, data := new, dirty := true, incs := 1, pinned := 9 ≤ lvl, tree := true }
  let d := each (List.range 8) d fun d i =>
    let child := 8 * idx + i
    if !d.treeNode (lvl - 1) child then d
    else
      let m := d.nodeLine (lvl - 1) child
      let held := d.ctLook m
      let x := match held with | some c => c.data | none => d.rawLine m
      let d := d.putTree m x (lineField new (8 * i) 8)
      match held with
      | some c => d.ctPut { c with dirty := false, incs := 0 }
      | none => d
  (d.writeBackLine n).ctEvict

/-- The first minor from m on under which a line's MAC verifies, with its data (R185). -/
def Dev.minorSearch (d : Dev) (page i n key major : Nat) : Nat → Nat → Option Line
  | 0, _ => none
  | fuel + 1, m =>
    let b : Bind := .sealed page i m key major
    let (h, p) := d.locate n false
    let j := judge (d.check b) (d.erasedAt p) (d.burstAt h)
    if j.v.good then some (d.decipher b j.data) else d.minorSearch page i n key major fuel (m + 1)

/-- Re-establish a lost header (R185): Major from media plus 1, the lines that verify under a minor from the media one on
re-enciphered under minor 1, the others lost; a coded image is re-enciphered whole. Answers lines recovered and lost. -/
def Dev.recoverHeader (d : Dev) (unit i : Nat) : Nat × Nat × Dev :=
  match d.tiers.units.find? (·.2 = unit) with
  | none => (0, 0, d)
  | some (range, _) =>
    let a := d.rangeAttr range
    let page := range * 512 + i
    let k := d.knotAt (a.base + unitLeaf) i
    let old := d.rawLine (headerLine a.base page)
    let major := hdrMajor old
    let key := d.keyOf a (d.knotLine k 0) page
    let coded := knotState k = 2 && knotClass k ≠ 3
    let lines := (List.range 64).filter fun l => hdrMinor old l ≠ 0
    let got : List (Nat × Option Line) :=
      if coded || (knotState k ≠ 1 && knotState k ≠ 2) then []
      else lines.map fun l => (l, d.minorSearch page l (d.knotLine k l) key major (128 - hdrMinor old l) (hdrMinor old l))
    let image : List (Nat × Option Line) :=
      if coded then (List.range (16 * (knotClass k + 1))).map fun l => (l, d.minorSearch page (64 + l) (d.knotLine k l) key major 1 0)
      else []
    match d.raiseMajor a page key old with
    | (none, d) => (0, 0, d)
    | (some h, d) =>
      let h := if coded then h else got.foldl (fun h e => hdrSetMinor h e.1 (if e.2.isSome then 1 else 0)) h
      let put (d : Dev) (n idx minor : Nat) (x : Line) (bad : Bool) : Dev :=
        (d.dropRewrites n).setBurst (d.locate n false).1 (d.seal (.sealed page idx minor key (major + 1)) x bad)
      let d := each got d fun d e => match e.2 with
        | some x => put d (d.knotLine k e.1) e.1 1 x false
        | none => d.markLost page (1 <<< e.1)
      let d := each image d fun d e => put d (d.knotLine k e.1) (64 + e.1) 0 (e.2.getD 0) e.2.isNone
      let good := (got.filter fun e => e.2.isSome).length
      (good, got.length - good, d.throughHeader a page h)

/-- Re-establish the subtree of an entry; the whole-device entry rebuilds every node, and every header, that the cache does not hold,
from the top down. -/
def Dev.reknotEntry (d : Dev) (q : Quar) : Nat × Nat × Dev :=
  if q.level = 255 then
    let up (lvl u : Nat) : Nat := 512 * u / 8 ^ lvl
    let levels := [10, 9, 8, 7, 6, 5, 4, 3]
    let nodes := levels.flatMap fun l => (d.tiers.treeUnits.map fun u => (l, up l u)).eraseDups
    let low := d.tiers.treeUnits.flatMap fun u => (List.range 8).map (fun i => (2, 8 * u + i)) ++ (List.range 64).map fun i => (1, 64 * u + i)
    let d := each (nodes ++ low) d fun d e => if (d.ctLook (d.nodeLine e.1 e.2)).isSome then d else d.rebuildNode e.1 e.2
    each (d.tiers.treeUnits.flatMap fun u => (List.range 512).map fun i => (u, i)) (0, 0, d) fun (r, l, d) e =>
      if (d.ctLook (d.nodeLine 0 (512 * e.1 + e.2))).isSome then (r, l, d)
      else
        let (a, b, d) := d.recoverHeader e.1 e.2
        (r + a, l + b, d)
  else if q.level = 0 then d.recoverHeader q.unit q.index
  else (0, 0, d.rebuildNode q.node.1 q.node.2)

/-- SEAL.REKNOT: a background command whose work this model does in the step that starts it (R187, log 28). -/
def Dev.sealReknot (d : Dev) (iss : Issuer) (inp : List Byte) : Dev :=
  let scope := field inp 0 1
  let entry := field inp 4 1
  if inp.length ≠ 8 then d.badLength iss
  else if d.bgBusy iss then d.refuse iss .busy 16
  else if 1 < scope || !rsvd inp 1 3 || !rsvd inp 5 3 || (scope = 0 && entry ≠ 0) then d.refuse iss .invalidInput 16
  else if d.setting idAcceptMediaOnLoss 0 = 0 then d.refuse iss .policyDenied 16
  else if scope = 1 && !d.line.quar.has entry then d.refuse iss .notQuarantined 16
  else
    let d := d.startBg iss 0xC608
    let todo := if scope = 1 then d.line.quar.filter fun e => e.1 = entry else d.line.quar
    let (r, l, d) := each todo (0, 0, d) fun (r, l, d) e =>
      let (a, b, d) := d.reknotEntry e.2
      (r + a, l + b, { d with line.quar := d.line.quar.del e.1 })
    d.endBg (issuerBox iss) .success ([0, 0] ++ leBytes 4 todo.length ++ leBytes 4 r ++ leBytes 4 l) todo.isEmpty

def execSealReknot (iss : Issuer) (inp : List Byte) (s : State) : Host.Outcome State Fault Refusal :=
  ok (s.dev.command iss 0xC608 fun d => d.sealReknot iss inp) s

/-- Units that serve a sealed range and have a page under an entry. -/
def Dev.quarUnits (d : Dev) (q : Quar) : List Nat :=
  (d.tiers.units.map (·.2)).filter fun u => d.unitSealed u && (List.range 512).any fun p => q.covers u p

/-- A SANITIZE that has reset the pool ranges `done` clears the entries whose every page it covered: the lost node is rebuilt over
its children (R186). -/
def Dev.sanitizedQuar (d : Dev) (done : List Nat) : Dev :=
  each d.line.quar d fun d e =>
    let all := (d.quarUnits e.2).all fun u => done.any fun r => d.tiers.units.look r = some u
    if !all then d
    else
      let d := if e.2.level = 255 then (d.reknotEntry e.2).2.2 else if e.2.level = 0 then d else d.rebuildNode e.2.node.1 e.2.node.2
      { d with line.quar := d.line.quar.del e.1 }

end Sys2Proof.Machine
end

