-- ==== Sys2Proof/Machine/Jobs.lean ====
section
/-! DEFINITION. Jobs (spec/13 R352 to R360): the parts every submission shares, job slots and finished records, and the requests
that a job's service engine issues (spec/01 R40, spec/02 R73). -/

namespace Sys2Proof.Machine

open Sys2Proof

/-! ### Kinds (R356) -/

def JKind.num : JKind → Nat
  | .sanitize => 1 | .migrate => 2 | .copy => 3 | .fill => 4 | .tier => 5 | .scrub => 6 | .poolAdd => 7 | .poolRelease => 8
  | .rekey => 9 | .moduleReplace => 10 | .prismStream => 11

/-- Bytes of the fixed body. -/
def JKind.body : JKind → Nat
  | .sanitize | .migrate | .copy | .poolAdd | .poolRelease => 8
  | .fill => 16 | .prismStream => 32
  | .tier | .scrub | .rekey | .moduleReplace => 0

/-- Bytes of an entry. -/
def JKind.entry : JKind → Nat
  | .sanitize | .migrate | .fill | .poolAdd | .poolRelease => 16
  | .copy => 24 | .prismStream => 32
  | .tier | .scrub | .rekey | .moduleReplace => 8

/-- Max Count. -/
def JKind.most : JKind → Nat
  | .sanitize | .migrate | .fill | .poolAdd | .poolRelease => 2046
  | .copy => 1364 | .prismStream => 1022 | .tier | .scrub => 4094 | .rekey => 63 | .moduleReplace => 16

/-! ### Slots and records (R353, R354, R358) -/

def jstateNum : JState → Nat | .queued => 0 | .active => 1 | .done => 2 | .failed => 3 | .cancelled => 4
def jreasonNum : JReason → Nat | .none => 0 | .deferred => 1 | .throttled => 2 | .waiting => 3 | .host => 4

def Dev.job (d : Dev) (slot : Nat) : Option Job := d.jobs.slots.look slot
def Dev.setJob (d : Dev) (slot : Nat) (j : Job) : Dev := { d with jobs.slots := d.jobs.slots.put slot j }

/-- Change the job of a slot, where one stands there. -/
def Dev.modJob (d : Dev) (slot : Nat) (f : Job → Job) : Dev :=
  match d.job slot with | some j => d.setJob slot (f j) | none => d

/-- JobId (R353). -/
def Job.id (j : Job) (slot : Nat) : Nat := slot + j.gen % 2 ^ 24 * 256

/-- Bytes 02h to 3Fh of a job's status (R358). -/
def Job.bytes (j : Job) (st : JState) (reason : JReason) : List Byte :=
  [BitVec.ofNat 8 (jstateNum st), BitVec.ofNat 8 (jreasonNum reason), BitVec.ofNat 8 j.kind.num, j.label] ++ leBytes 2 j.result ++
    leBytes 8 j.cookie.toNat ++ leBytes 8 j.done ++ leBytes 8 j.total ++ leBytes 4 j.deferred ++ leBytes 4 j.throttled ++
    leBytes 4 j.waiting ++ zeros 4 ++ leBytes 8 j.detail0 ++ leBytes 8 j.detail1

/-- One event of a job's owner's vector 6, unless it is Quiet (R352, R413). -/
def Dev.jobEvent (d : Dev) (j : Job) : Dev :=
  match j.owner with | some ld => if j.quiet then d else d.vecEvent ld 6 | none => d

/-- A job leaves its slot in a final state: its record goes to the ring, over the oldest of 4,096; a standard Sanitize's command ends
with it (R333, R354, R417). -/
def Dev.retireJob (d : Dev) (slot : Nat) (j : Job) (st : JState) : Dev :=
  let word := if st = .done then 4096 * flag j.noWork else if st = .failed then j.result else 0
  let j := { j with result := word }
  let r : Finished := { id := j.id slot, owner := j.owner, st := st, bytes := j.bytes st .none }
  let ring := d.jobs.ring ++ [r]
  let d := { d with jobs.slots := d.jobs.slots.del slot, jobs.ring := ring.drop (ring.length - 4096) }
  let d := (d.bumpLd (j.owner.getD 32) 0x29).jobEvent j
  match j.box with
  | some box => d.endBgRet box (if st = .done then .success else if st = .failed then .internal else .aborted) 0 []
  | none => d

/-- A job's work has come to its end: it leaves at the next boundary (R354). -/
def Dev.finishJob (d : Dev) (slot : Nat) : Dev := d.modJob slot fun j => { j with ending := true }

/-- It leaves as Failed, with a status. -/
def Dev.failJob (d : Dev) (slot : Nat) (st : Status) : Dev :=
  d.modJob slot fun j => { j with ending := true, fin := .failed, result := st.code }

/-- It has reached a DPA with no region behind it (R360). -/
def Dev.strayJob (d : Dev) (slot dpa : Nat) : Dev :=
  (d.modJob slot fun j => { j with detail0 := dpa }).failJob slot .invalidInput

/-- An active job of a kind that still works. -/
def Dev.working (d : Dev) (slot : Nat) (k : JKind) : Option Job :=
  (d.job slot).filter fun j => j.kind = k && j.st = .active && !j.ending

/-! ### Submission (R352, R353) -/

/-- The output of a submission: its status and JobId. -/
def Dev.jobReply (d : Dev) (iss : Issuer) (st : Status) (id : Nat := 2 ^ 32 - 1) (noWork : Bool := false) : Dev :=
  d.reply iss st ([0, 0] ++ leBytes 4 id) noWork

/-- The owner of what an interface submits (R355). -/
def issuerOwner : Issuer → Option Nat | .host ld _ => some ld.val | .mc _ => none

/-- The entries of an input, of a size each. -/
def entriesOf (inp : List Byte) (size : Nat) : Nat → List (List Byte)
  | 0 => []
  | n + 1 => inp.take size :: entriesOf (inp.drop size) size n

/-- The job that an input describes: header, body and entries; none: a field of the header breaks its table (R49, R352). -/
def jobOf (iss : Issuer) (k : JKind) (inp : List Byte) : Option Job :=
  let flags := field inp 1 1
  let count := field inp 4 4
  let label : Label := if bit flags 0 then BitVec.ofNat 8 (field inp 0 1) else 0xC0
  if 3 < flags || !rsvd inp 2 2 || labelCls label = .c0 || k.most < count then none
  else some { kind := k, label := label, quiet := bit flags 1, cookie := BitVec.ofNat 64 (field inp 8 8), owner := issuerOwner iss
              body := slice inp 16 k.body, entries := entriesOf (inp.drop (16 + k.body)) k.entry count }

/-- Put a job into a slot as Queued, with the slot's generation. -/
def Dev.queueJob (d : Dev) (slot : Nat) (j : Job) : Dev :=
  let g := d.jobs.gens.val slot 0
  { d with
    jobs.slots := d.jobs.slots.put slot { j with gen := g, seq := d.jobs.seq, st := .queued }
    jobs.gens := d.jobs.gens.put slot ((g + 1) % 2 ^ 24), jobs.seq := d.jobs.seq + 1 }

/-- A submission: length, fields, then a slot; Count 0 takes none; with 7 or fewer cores none is taken (R395). `plan` checks what the kind asks and completes the job; `take` does
what the kind does at submission (R352, R353). -/
def Dev.submit (d : Dev) (iss : Issuer) (k : JKind) (inp : List Byte) (plan : Dev → Job → Option Job)
    (take : Dev → Nat → Job → Dev × Job := fun d _ j => (d, j)) : Dev :=
  let count := field inp 4 4
  if inp.length < 16 || inp.length ≠ 16 + k.body + count * k.entry then d.badLength iss
  else
    match (jobOf iss k inp).bind (plan d) with
    | none => d.jobReply iss .invalidInput
    | some j =>
      if d.coresUp ≤ 7 then d.jobReply iss .internal
      else if count = 0 then d.jobReply iss .success (noWork := true)
      else
        match lowestFree d.jobs.slots.keys 256 with
        | none => d.jobReply iss .jobSlotsFull
        | some slot =>
          let (d, j) := take d slot j
          let d := d.queueJob slot j
          d.jobReply iss .success ((d.job slot).getD j |>.id slot)

/-! ### Ranges of entries (R357) -/

/-- Ranges (start, length) of which no two overlap. -/
def apart (l : List (Nat × Nat)) : Bool :=
  l.Pairwise fun a b => a.1 + a.2 ≤ b.1 ∨ b.1 + b.2 ≤ a.1

/-- A range of bytes lies in one region of an LD, and is not empty (R357). -/
def Dev.rangeIn (d : Dev) (ld start len : Nat) : Bool :=
  match d.regionAt ld start with
  | some r => 0 < len && start + len ≤ (r.base + r.size) * mib2
  | none => false

/-- Ranges of an LD's DPA as an entry gives them in 2 MiB units: start unit and length. -/
def entryUnits (e : List Byte) : Nat × Nat := (field e 0 8 / mib2, field e 8 4)

/-- The entries of a job whose ranges are 2 MiB units are as R357 asks. `dev`: Device may be other than 0. -/
def Dev.unitEntries (d : Dev) (ld : Nat) (entries : List (List Byte)) (dev : Bool) : Bool :=
  entries.all (fun e => field e 0 8 % mib2 = 0 && d.rangeIn ld (field e 0 8) (field e 8 4 * mib2) && rsvd e 13 3 && (dev || rsvd e 12 1)) &&
    apart (entries.map entryUnits)

/-- The units of such entries in ascending order (R360). -/
def unitsOf (entries : List (List Byte)) : List Nat :=
  ((entries.map entryUnits).mergeSort fun a b => a.1 ≤ b.1).flatMap fun e => (List.range e.2).map (e.1 + ·)

/-- Whether byte n of a body is an LD number (bits [7:5] Rsvd). -/
def ldByte (body : List Byte) (n : Nat) : Bool := field body n 1 < 32

/-! ### Requests of a job (R40, R73) -/

/-- A request of a job enters the service engines' queue, where that grants its class an entry and the device is not going quiet (R26,
R40, R65, R450); from there it travels as a host's does, under the job's label, and its answer comes to the job's slot. -/
def Dev.issueJob (d : Dev) (slot : Nat) (q : Req) : Option Dev :=
  if d.power.quiet || !d.serviceRoom q.cls then none
  else
    let (id, d) := d.fresh
    let q := { q with id := id, src := .job slot, stage := .service, owner := ((d.job slot).bind (·.owner)).getD 32
                      atBnd := d.clk.bnd, atClk := d.clk.clk }
    some ({ d with path.reqs := d.path.reqs ++ [q] }.modJob slot fun j => { j with sent := true, buf := none })

/-- A request of a service engine, before it is issued. -/
def jobReq (op : ReqOp) (ld dpa : Nat) (label : Label) : Req :=
  { id := 0, src := .job 0, op := op, mv := .i, dpa := dpa, ldn := ld, label := label, stage := .service }

/-- Read the line at a DPA of an LD for a job (R40, R234). None: its request has to wait. A DPA with no region behind it ends the job
(R360). -/
def Dev.jobRead (d : Dev) (slot ld dpa : Nat) (label : Label) : Option Dev :=
  if (d.regionAt ld dpa).isNone then some (d.strayJob slot dpa) else d.issueJob slot (jobReq .read ld dpa label)

/-- Write a line, or the bytes of a mask, at a DPA of an LD for a job; no line: poison. -/
def Dev.jobWrite (d : Dev) (slot ld dpa : Nat) (label : Label) (x : Option Line) (mask : BitVec 64 := BitVec.allOnes 64) : Option Dev :=
  if (d.regionAt ld dpa).isNone then some (d.strayJob slot dpa)
  else d.issueJob slot { jobReq .write ld dpa label with data := x.getD 0, poison := x.isNone, mask := mask }

/-- Work of a class that firmware does on lines without a request of its own for each, as the fill of a frame: in C3 while the gate is
open, in C2 out of its group's allowance (R64 to R66). -/
def Dev.spend (d : Dev) (label : Label) : Option Dev :=
  match labelCls label with
  | .c3 => if d.path.gate then some d else none
  | .c2 =>
    let g := labelGroup label
    let c := d.c2Of g
    if 16 ≤ c.a then some { d with path.c2 := d.path.c2.put g { c with a := c.a - 16 } } else none
  | _ => some d

end Sys2Proof.Machine
end

