-- ==== Sys2Proof/Machine/JobData.lean ====
section
/-! DEFINITION. The jobs that move data: COPY, FILL and SCRUB (spec/13 R357, R367). -/

namespace Sys2Proof.Machine

open Sys2Proof

/-- The entry, and the line within it, that line n of a job falls in, by the lengths of the entries in lines. -/
def lineIn : List Nat → Nat → Option (Nat × Nat)
  | [], _ => none
  | k :: t, n => if n < k then some (0, n) else (lineIn t (n - k)).map fun e => (e.1 + 1, e.2)

/-! ### COPY (R357, R367) -/

/-- Source, destination and length of a COPY entry. -/
def copyEntryOf (e : List Byte) : Nat × Nat × Nat := (field e 0 8, field e 8 8, field e 16 4)

/-- The checks of a COPY: aligned, inside the regions of their LDs, and no two ranges of one LD overlapping. -/
def Dev.planCopy (d : Dev) (j : Job) : Option Job :=
  let src := field j.body 0 1
  let dst := field j.body 1 1
  let l := j.entries.map copyEntryOf
  let good := j.entries.all fun e =>
    let (a, b, n) := copyEntryOf e
    a % 64 = 0 && b % 64 = 0 && n % 64 = 0 && d.rangeIn src a n && d.rangeIn dst b n && rsvd e 20 4
  let from_ := l.map fun e => (e.1, e.2.2)
  let dest := l.map fun e => (e.2.1, e.2.2)
  let free := if src = dst then apart (from_ ++ dest) else apart from_ && apart dest
  if ldByte j.body 0 && ldByte j.body 1 && rsvd j.body 2 6 && good && free then
    some { j with total := l.foldl (fun n e => n + e.2.2 / 64) 0 }
  else none

/-- COPY. -/
def Dev.copyCmd (d : Dev) (iss : Issuer) (inp : List Byte) : Dev := d.submit iss .copy inp Dev.planCopy

def execCopy (iss : Issuer) (inp : List Byte) (s : State) : Host.Outcome State Fault Refusal :=
  ok (s.dev.command iss 0xC212 fun d => d.copyCmd iss inp) s

/-- One line of a job is written. -/
def Job.lineDone (j : Job) (poison : Bool) : Job :=
  let n := j.pos + 1
  { j with pos := n, done := n, detail1 := j.detail1 + flag poison, hold := none, buf := none, ending := n = j.total }

/-- What an answer carries as a line; none inside: poison. -/
def Answer.line : Answer → Option Line | .data x => some x | _ => none

/-- The next thing a COPY can do: read the next line, or write the one it holds. None: it has to wait. -/
def Dev.copyStepJob (d : Dev) (slot : Nat) : Option Dev :=
  match d.working slot .copy with
  | none => none
  | some j =>
    match lineIn (j.entries.map fun e => (copyEntryOf e).2.2 / 64) j.pos with
    | none => none
    | some (k, i) =>
      let (a, b, _) := copyEntryOf (j.entries.getD k [])
      if j.sent then none
      else
        match j.hold, j.buf with
        | none, some x => some (d.setJob slot { j with hold := some x.line, buf := none })
        | none, none => d.jobRead slot (field j.body 0 1) (a + 64 * i) j.label
        | some x, some _ => some (d.setJob slot (j.lineDone x.isNone))
        | some x, none => d.jobWrite slot (field j.body 1 1) (b + 64 * i) j.label x

/-- Repeat a step until it has to wait. -/
def repeatStep (f : Dev → Option Dev) : Nat → Dev → Dev
  | 0, d => d
  | n + 1, d => match f d with | some d => repeatStep f n d | none => d

/-- COPY_BATCH_DONE: up to `lines` lines of a COPY are read and written, as far as nothing holds them up (log 29). -/
def Dev.copyBatch (d : Dev) (slot lines : Nat) : Dev := repeatStep (fun d => d.copyStepJob slot) (4 * lines) d

def execCopyBatchDone (slot : Nat) (lines : Nat) (s : State) : Host.Outcome State Fault Refusal := ok (s.dev.copyBatch slot lines) s

/-! ### FILL (R357, R367) -/

/-- The checks of a FILL. -/
def Dev.planFill (d : Dev) (j : Job) : Option Job :=
  let ld := field j.body 0 1
  let l := j.entries.map fun e => (field e 0 8, field e 8 4)
  let good := j.entries.all fun e =>
    field e 0 8 % 64 = 0 && field e 8 4 % 64 = 0 && d.rangeIn ld (field e 0 8) (field e 8 4) && rsvd e 12 4
  if ldByte j.body 0 && rsvd j.body 1 7 && good && apart l then some { j with total := l.foldl (fun n e => n + e.2 / 64) 0 } else none

/-- FILL. -/
def Dev.fillCmd (d : Dev) (iss : Issuer) (inp : List Byte) : Dev := d.submit iss .fill inp Dev.planFill

def execFill (iss : Issuer) (inp : List Byte) (s : State) : Host.Outcome State Fault Refusal :=
  ok (s.dev.command iss 0xC213 fun d => d.fillCmd iss inp) s

/-- A line of the pattern. -/
def patternLine (body : List Byte) : Line :=
  let p := field body 8 8
  BitVec.ofNat 512 ((List.range 8).foldl (fun n i => n + p * 2 ^ (64 * i)) 0)

/-- The next thing a FILL can do. -/
def Dev.fillStepJob (d : Dev) (slot : Nat) : Option Dev :=
  match d.working slot .fill with
  | none => none
  | some j =>
    match lineIn (j.entries.map fun e => field e 8 4 / 64) j.pos with
    | none => none
    | some (k, i) =>
      if j.sent then none
      else if j.buf.isSome then some (d.setJob slot (j.lineDone false))
      else d.jobWrite slot (field j.body 0 1) (field (j.entries.getD k []) 0 8 + 64 * i) j.label (some (patternLine j.body))

/-- FILL_BATCH_DONE: up to `lines` lines of a FILL are written. -/
def Dev.fillBatch (d : Dev) (slot lines : Nat) : Dev := repeatStep (fun d => d.fillStepJob slot) (2 * lines) d

def execFillBatchDone (slot : Nat) (lines : Nat) (s : State) : Host.Outcome State Fault Refusal := ok (s.dev.fillBatch slot lines) s

/-! ### SCRUB (R357, R367, R216) -/

/-- The channels an entry names, and the physical ranks of one of them. -/
def scrubChans (e : List Byte) : List Nat := if field e 0 1 = 255 then List.range 8 else [field e 0 1]

def Dev.scrubRanksOf (d : Dev) (e : List Byte) (ch : Nat) : List Nat :=
  let r := field e 1 1
  if r = 255 then d.scrubRanks ch else [(d.chan ch).remap.val r r]

/-- A rank that an entry names exists on each of its channels. -/
def Dev.scrubEntry (d : Dev) (e : List Byte) : Bool :=
  let c := field e 0 1
  let r := field e 1 1
  (c < 8 || c = 255) && rsvd e 2 6 && d.dram.formed &&
    (r = 255 || (r < d.dram.logical && (scrubChans e).all fun ch => !(d.chan ch).retired.contains r))

/-- The checks of a SCRUB: its ranks, each once, as channel * 16 + physical rank. -/
def Dev.planScrub (d : Dev) (j : Job) : Option Job :=
  if j.entries.all d.scrubEntry then
    let ranks := (j.entries.flatMap fun e => (scrubChans e).flatMap fun ch => (d.scrubRanksOf e ch).map (ch * 16 + ·)).eraseDups
    some { j with todo := ranks, total := ranks.length * d.dram.lines }
  else none

/-- SCRUB. -/
def Dev.scrubCmd (d : Dev) (iss : Issuer) (inp : List Byte) : Dev := d.submit iss .scrub inp Dev.planScrub

def execScrub (iss : Issuer) (inp : List Byte) (s : State) : Host.Outcome State Fault Refusal :=
  ok (s.dev.command iss 0xC215 fun d => d.scrubCmd iss inp) s

/-- The next thing a SCRUB can do: the read of its next line, under the job's label, or what follows its return. The read was judged and
acted on as patrol scrub's are (R216). -/
def Dev.scrubStepJob (d : Dev) (slot : Nat) : Option Dev :=
  match d.working slot .scrub with
  | none => none
  | some j =>
    match j.todo with
    | [] => none
    | x :: rest =>
      let p := max 1 d.dram.lines
      if j.sent then none
      else if j.buf.isSome then
        let ended := j.pos + 1 = p
        let todo := if ended then rest else j.todo
        some (d.modJob slot fun j => { j with
          pos := if ended then 0 else j.pos + 1, todo := todo, done := j.done + 1, buf := none, ending := todo.isEmpty })
      else d.issueJob slot { jobReq .read 0 0 j.label with scrub := some (homeLine (x / 16) (x % 16 * p + j.pos)) }

/-- SCRUB_BATCH_DONE: up to `lines` lines of a SCRUB are read. -/
def Dev.scrubBatch (d : Dev) (slot lines : Nat) : Dev := repeatStep (fun d => d.scrubStepJob slot) (2 * lines) d

def execScrubBatchDone (slot : Nat) (lines : Nat) (s : State) : Host.Outcome State Fault Refusal := ok (s.dev.scrubBatch slot lines) s

end Sys2Proof.Machine
end

