-- ==== Sys2Proof/Machine/JobMedia.lean ====
section
/-! DEFINITION. The jobs that act on media in place: SANITIZE, MIGRATE, TIER and REKEY (spec/13 R360, R363 to R366), and the test of a C0
placement on another device (spec/02 R61). -/

namespace Sys2Proof.Machine

open Sys2Proof

/-! ### C0 placement (R61) -/

/-- The chained read bound by one port and its hops is within C0ChainBound. -/
def Dev.directionMeets (d : Dev) (base limit unit p : Nat) : Bool :=
  match (d.ranges p unit).map rrHops with
  | [] => false
  | h :: t => (d.tport p).up && base + d.portCost p (unit / 2 ^ 23) (t.foldl min h) ≤ limit

/-- A C0 extent may be placed on a device: always on the origin; elsewhere where the route, or both directions round a braid, keep its
bound (R61). -/
def Dev.chainMeets (d : Dev) (dev : Nat) (reflected : Bool) : Bool :=
  let limit := d.setting idC0ChainBound 0
  let base := if reflected then 500 else 1000
  let unit := dev * 2 ^ 23
  let braided := (List.range 3).filter fun p => (d.ranges p unit).any rrBraid
  if dev = d.chain.index then true
  else if limit = 0 then false
  else if 2 ≤ braided.length then braided.all (d.directionMeets base limit unit)
  else match d.routeCost dev with | some c => base + c ≤ limit | none => false

/-! ### Frames (R113, R365) -/

/-- Lines written under a label without a request of their own for each: its group has used every channel, and what they take of a C2
group's allowance is gone (R64, R113). -/
def Dev.runUnder (d : Dev) (label : Label) (lines : Nat) : Dev :=
  let d := each (List.range 8) d fun d ch => d.useChannel label ch
  let g := labelGroup label
  if labelCls label = .c2 then { d with path.c2 := d.path.c2.put g { d.c2Of g with a := (d.c2Of g).a - 16 * lines } } else d

/-- Write every line of a direct frame with zero data under its extent's protection; a reflected one in both copies (R113). -/
def Dev.fillFrame (d : Dev) (a : Attr) (frame : Nat) : Dev :=
  let base := if a.reflected then frame / 2 * 2 else frame
  let count := if a.reflected then 65536 else 32768
  let d := d.dropWrites fun w => base * 32768 ≤ w.line && w.line < base * 32768 + count
  if a.prot = .plain then d.zeroFill (frame * 32768) 32768 a.reflected
  else
    each (List.range 32768) d fun d i =>
      let n := frame * 32768 + i
      let b := d.seal (d.bindOf a n 0 1 none) 0
      each (d.copiesOf a n) d fun d c => d.setBurst (d.locate n a.reflected c).1 b

/-! ### SANITIZE (R365) -/

/-- Regions of an LD that ranges fall in. -/
def Dev.regionsUnder (d : Dev) (ld : Nat) (starts : List Nat) : List Region := (starts.filterMap fun u => d.regionAt ld (u * mib2)).eraseDups

/-- A key ID may replace that of regions: ACTIVE, one level for all it serves (R189, R365). -/
def Dev.keyFits (d : Dev) (key : Nat) (rs : List Region) : Bool :=
  match rs with
  | [] => false
  | r :: _ =>
    key < 64 && (d.key key).st = .active && r.prot ≠ .plain && rs.all (·.prot = r.prot) &&
      (d.keyLevel key = 0 || d.keyLevel key = protNum r.prot) &&
      d.conf.regions.all fun x => x.prot = .plain || x.key ≠ key || x.prot = r.prot

/-- The checks of a SANITIZE. -/
def Dev.planSanitize (d : Dev) (j : Job) : Option Job :=
  let ld := field j.body 0 1
  let key := field j.body 1 1
  let units := unitsOf j.entries
  let rs := d.regionsUnder ld (j.entries.map fun e => (entryUnits e).1)
  let whole := rs.foldl (fun n r => n + r.size) 0 = units.length
  if ldByte j.body 0 && rsvd j.body 2 6 && d.unitEntries ld j.entries false && (key = 255 || j.entries.isEmpty || (whole && d.keyFits key rs)) then
    some { j with todo := units, total := units.length, key := if key = 255 then none else some key }
  else none

/-- SANITIZE. -/
def Dev.sanitizeCmd (d : Dev) (iss : Issuer) (inp : List Byte) : Dev := d.submit iss .sanitize inp Dev.planSanitize

def execSanitize (iss : Issuer) (inp : List Byte) (s : State) : Host.Outcome State Fault Refusal :=
  ok (s.dev.command iss 0xC210 fun d => d.sanitizeCmd iss inp) s

/-- Recall the hosts' copies of the lines of a shared unit; true while the directory still names holders (R228, R365). -/
def Dev.recallLines (d : Dev) (lines : List (Nat × Nat)) (label : Label) : Bool × Dev :=
  let inside (n : Nat) : Bool := lines.any fun e => e.1 ≤ n && n < e.2
  let hit := d.home.dir.filter fun x => inside (lineOfDe (x.1 / 16) x.2)
  let d := each (hit.filter fun x => !deBusy x.2) d fun d x =>
    d.startFlow (lineOfDe (x.1 / 16) x.2) (x.1 / 16) (x.1 % 16) (d.holders x.2) 2 .job label
  let d := d.settleHome
  (d.home.dir.any fun x => inside (lineOfDe (x.1 / 16) x.2), d)

/-- Requests that have resolved to a pool range. -/
def Dev.rangeBusy (d : Dev) (range : Nat) : Bool := (List.range 512).any fun i => !(d.pageWaits (range * 512 + i)).isEmpty

/-- One line of a conversion in one step: every copy judged under the old binding and sealed under the new one. -/
def Dev.reencipherLine (d : Dev) (x : Rekey) (a : Attr) (page : Nat) (e : Nat × Option Nat) : Dev :=
  let minor := d.minorOf a e.1 page
  let b := d.bindOf a e.1 page minor e.2
  let b' := d.bindOf { a with key := x.new } e.1 page minor e.2
  each (d.copiesOf a e.1) d fun d c =>
    let (v, _) := d.judgeLine b e.1 a.reflected c false 0
    let (h, _) := d.locate e.1 a.reflected c
    d.setBurst h (d.seal b' (d.decipher b v.data) (!v.v.good))

/-- The lines of one page of a conversion in one step, its sealed header fetched first. -/
def Dev.reencipherPage (d : Dev) (x : Rekey) (a : Attr) (p : Nat) : Dev :=
  let page := if x.knotted then x.unit2m * 512 + p else 0
  let d := if x.knotted then (d.fetchHeader a page []).2 else d
  each (d.dataLines x a p) d fun d e => d.reencipherLine x a page e

/-- Rewrite what a unit's lines hold under another key, in one step, and the requests and entries on their way to them (log 30). -/
def Dev.reencipher (d : Dev) (x : Rekey) : Dev :=
  let a := if x.knotted then d.rangeAttr x.unit2m else d.rekeyAttr x
  let mine (b : Attr) (page media : Nat) : Bool :=
    b.knotted = x.knotted && if x.knotted then page / 512 = x.unit2m else media / 32768 = x.unit2m
  let d := each (List.range 512) d fun d p => d.reencipherPage x a p
  { d with
    line.wb := d.line.wb.map fun w => if mine w.attr w.page w.line then { w with attr.key := x.new } else w
    path.reqs := d.path.reqs.map fun q => if q.past2 && mine q.attr q.page (q.media / 64) then { q with attr.key := x.new } else q }

/-- After the last range, NewKey goes into the entries of the regions; the job ends with the drain (R365). -/
def Dev.sanitizeKey (d : Dev) (slot key : Nat) (rs : List Region) : Dev :=
  let d := each rs d fun d r =>
    let units := (d.regionExts r).flatMap fun x =>
      if x.dev = d.chain.index && (x.st = .held || x.st = .releasing) then x.place.zipIdx.map fun e => (x.start + e.2, e.1) else []
    let d := each ((units.map (·.2)).eraseDups) d fun d place =>
      let d := d.reencipher { unit2m := place, knotted := r.knotted, old := r.key, new := key, job := slot }
      if r.knotted then
        match d.s2At (place * 512) with
        | some e => (d.setS2 place (s2WithKey e key)).post (.stage2 place 1) (.sanitized slot) [(s2Key e, 1)]
        | none => d
      else d
    each units d fun d u =>
      let e := d.extEntry r.ld u.1
      (d.setExt r.ld u.1 (extWithKey e key)).post (.stage1 r.ld u.1 1) (.sanitized slot) [(extKey e, 1)]
  let d := { d with conf.regions := d.conf.regions.map fun r => if rs.contains r then { r with key := key } else r }
  if d.xl.changes.any fun c => c.after = .sanitized slot then (d.modJob slot fun j => { j with todo := [], pos := 1 }) else d.finishJob slot

/-- The first unit of a SANITIZE is done. -/
def Dev.sanitizeNext (d : Dev) (slot : Nat) (f : Job → Job) : Dev :=
  let d := d.modJob slot fun j => f { j with todo := j.todo.drop 1, done := j.done + 1 }
  match d.job slot with
  | some j =>
    if !j.todo.isEmpty then d
    else
      let d := d.sanitizedQuar j.marks
      match j.key with
      | some key => d.sanitizeKey slot key (d.regionsUnder (field j.body 0 1) (j.entries.map fun e => (entryUnits e).1))
      | none => d.finishJob slot
  | none => d

/-- SANITIZE_RANGE_DONE: the next range of a SANITIZE is reset, once no move, promotion or request holds it and no host has a copy; a
range without a region is skipped (R360, R365). -/
def Dev.sanitizeRange (d : Dev) (slot : Nat) : Dev :=
  match d.working slot .sanitize with
  | none => d
  | some j =>
    match j.todo with
    | [] => d
    | u :: _ =>
      let ld := field j.body 0 1
      match d.regionAt ld (u * mib2) with
      | none => d.sanitizeNext slot fun j => { j with detail1 := j.detail1 + 1 }
      | some r =>
        match d.placeAt ld u with
        | none => d.sanitizeNext slot id
        | some (x, place) =>
          if x.dev ≠ d.chain.index || x.st = .filling || x.st = .draining then d.sanitizeNext slot id
          else if d.unitHeld r.knotted place || (r.knotted && d.rangeBusy place) then d
          else
            let (held, d) := if r.kind = .shared then d.recallLines (d.unitLines r.knotted place) j.label else (false, d)
            if held then d
            else if r.knotted then
              let a := d.rangeAttr place
              let n := ((List.range 512).filter fun i => d.knotTakes a (place * 512 + i)).length
              (d.takePages place).2.sanitizeNext slot fun j => { j with detail0 := j.detail0 + n, marks := place :: j.marks }
            else ((d.runUnder j.label 32768).fillFrame (r.direct (extKey (d.extEntry ld u))) place).sanitizeNext slot id

def execSanitizeRangeDone (slot : Nat) (s : State) : Host.Outcome State Fault Refusal := ok (s.dev.sanitizeRange slot).flow s

/-! ### MIGRATE (R363) -/

/-- The checks of a MIGRATE. -/
def Dev.planMigrate (d : Dev) (j : Job) : Option Job :=
  let ld := field j.body 0 1
  let good := j.entries.all fun e =>
    let dev := field e 12 1
    match d.regionAt ld (field e 0 8) with
    | none => false
    | some r =>
      dev = 255 || dev = d.chain.index ||
        (dev < 32 && !r.knotted && (d.routeTo dev).isSome && (labelCls r.label ≠ .c0 || r.kind = .shared || d.chainMeets dev r.reflected))
  if ldByte j.body 0 && rsvd j.body 1 7 && d.unitEntries ld j.entries true && good then
    let todo := ((j.entries.map fun e => (entryUnits e, field e 12 1)).mergeSort fun a b => a.1.1 ≤ b.1.1).flatMap fun e =>
      (List.range e.1.2).map fun i => e.1.1 + i + e.2 * 2 ^ 32
    some { j with todo := todo, total := 512 * todo.length }
  else none

/-- MIGRATE. -/
def Dev.migrateCmd (d : Dev) (iss : Issuer) (inp : List Byte) : Dev := d.submit iss .migrate inp Dev.planMigrate

def execMigrate (iss : Issuer) (inp : List Byte) (s : State) : Host.Outcome State Fault Refusal :=
  ok (s.dev.command iss 0xC211 fun d => d.migrateCmd iss inp) s

/-- A move of a job is under way. -/
def Dev.jobMoves (d : Dev) (slot : Nat) : Bool := (d.tiers.moves.any (·.slot = slot)) || d.tiers.extMoves.any fun e => e.2.job = slot

/-- What a job's turn at a boundary came to: it worked on, it waits, or there is more to do at once. -/
inductive Turn | worked | waits | again
  deriving DecidableEq, Repr

/-- The next page or unit of a MIGRATE (R360 to R363, R491). -/
def Dev.migrateTurn (d : Dev) (slot : Nat) : Turn × Dev :=
  match d.working slot .migrate with
  | none => (.worked, d)
  | some j =>
    let at_ (d : Dev) (todo : List Nat) (pos : Nat) : Dev :=
      d.modJob slot fun j => { j with todo := todo, pos := pos, done := j.total - 512 * todo.length + pos }
    if d.jobMoves slot then (.worked, d)
    else
      match j.todo with
      | [] => (.worked, d.finishJob slot)
      | e :: rest =>
        let ld := field j.body 0 1
        let u := e % 2 ^ 32
        let dev := if e / 2 ^ 32 = 255 then d.chain.index else e / 2 ^ 32
        let skip : Turn × Dev := (.again, at_ d rest 0)
        match d.regionAt ld (u * mib2), d.placeAt ld u with
        | none, _ => (.worked, d.strayJob slot (u * mib2))
        | some _, none => skip
        | some r, some (x, place) =>
          if x.dev ≠ d.chain.index || x.st = .filling || x.st = .draining || 512 ≤ j.pos then skip
          else if !r.knotted then
            if d.unitHeld false place then (.waits, d)
            else match d.startExtMove ld u r place dev slot with
              | some d => (.worked, at_ d (e :: rest) 512)
              | none => (.waits, d)
          else
            let page := place * 512 + j.pos
            let a := d.rangeAttr place
            let next (d : Dev) : Dev := at_ d (e :: rest) (j.pos + 1)
            if d.pageHeld page then (.waits, d)
            else if !d.knotTakes a page then
              let d := d.faultRecord none (d.chain.index * 2 ^ 44 + page * 4096) (d.knotFault a page)
              (.again, next (d.stickPage page))
            else if knotState (d.knotAt (a.base + unitLeaf) j.pos) = 0 || d.quarantined a page then (.again, next d)
            else match d.movePage page slot with
              | some d => (.worked, next d)
              | none => (.waits, d)

/-! ### TIER (R364) -/

/-- The checks of a TIER: elastic regions of LDs by ingress entry. -/
def Dev.planTier (d : Dev) (j : Job) : Option Job :=
  let good := j.entries.all fun e =>
    field e 0 1 < 32 && field e 1 1 < 16 && field e 2 1 ≤ 2 && rsvd e 3 5 &&
      d.conf.regions.any fun r => r.home.isNone && r.ld = field e 0 1 && r.entry = field e 1 1 && r.kind = .elastic
  if good then some { j with noWork := d.setting idShadeSize 0 = 0 && j.entries.all fun e => field e 2 1 = 1 } else none

/-- TIER. -/
def Dev.tierCmd (d : Dev) (iss : Issuer) (inp : List Byte) : Dev := d.submit iss .tier inp Dev.planTier

def execTier (iss : Issuer) (inp : List Byte) (s : State) : Host.Outcome State Fault Refusal :=
  ok (s.dev.command iss 0xC214 fun d => d.tierCmd iss inp) s

/-- One entry of a TIER at the job's first turn: sweeps and demotions are queued; the shade pages to promote are answered. -/
def Dev.tierEntry (d : Dev) (e : List Byte) : List Nat × Dev :=
  match d.conf.regions.find? fun r => r.home.isNone && r.ld = field e 0 1 && r.entry = field e 1 1 with
  | none => ([], d)
  | some r =>
    let ranges := d.regionRanges (regionKey r)
    match field e 2 1 with
    | 0 =>
      let (pages, d) := d.sweepRegion r
      ([], each pages d Dev.queueDemotion)
    | 1 => ([], each (demoteOrder (ranges.flatMap fun x => d.demotable x (some 1))) d Dev.queueDemotion)
    | _ =>
      (ranges.flatMap fun x => (List.range 512).filterMap fun i =>
        if d.knotTakes (d.rangeAttr x) (x * 512 + i) && knotState (d.knotAt ((d.rangeAttr x).base + unitLeaf) i) = 2 then some (x * 512 + i) else none, d)

/-- Pages that the entries of a TIER examine. -/
def Dev.tierPages (d : Dev) (e : List Byte) : Nat :=
  match d.conf.regions.find? fun r => r.home.isNone && r.ld = field e 0 1 && r.entry = field e 1 1 with
  | some r => 512 * (d.regionRanges (regionKey r)).length
  | none => 0

/-- The turn of a TIER: candidates at the first, then one promotion after another; it ends once its demotions are through. -/
def Dev.tierTurn (d : Dev) (slot : Nat) : Turn × Dev :=
  match d.working slot .tier with
  | none => (.worked, d)
  | some j =>
    if j.noWork then (.worked, d.finishJob slot)
    else if j.pos = 0 then
      let total := j.entries.foldl (fun n e => n + d.tierPages e) 0
      let (up, d) := each j.entries ([], d) fun (l, d) e =>
        let (x, d) := d.tierEntry e
        (l ++ x, d)
      (.again, d.modJob slot fun j => { j with pos := 1, total := total, done := total - up.length, todo := up.mergeSort (· ≤ ·) })
    else if d.jobMoves slot then (.worked, d)
    else
      match j.todo with
      | page :: rest =>
        let next (d : Dev) : Dev := d.modJob slot fun j => { j with todo := rest, done := j.done + 1 }
        if !d.tiers.owner.has (page / 512) then (.again, next d)
        else if d.pageHeld page then (.waits, d)
        else match d.brighten page slot with
          | some d => (.worked, next d)
          | none => (.again, next d)
      | [] => (.worked, if d.tiers.demote.isEmpty then d.finishJob slot else d)

/-! ### REKEY (R366) -/

/-- 2 MiB ranges of this device whose entries name a key ID: number * 2, one more for a knotted one, ascending (R366). -/
def Dev.rangesNaming (d : Dev) (key : Nat) : List Nat :=
  let direct := d.conf.regions.flatMap fun r =>
    if r.prot = .plain || r.knotted || r.home.isSome then []
    else (d.regionExts r).flatMap fun x =>
      if x.dev ≠ d.chain.index then []
      else x.place.zipIdx.filterMap fun e =>
        let v := d.extEntry r.ld (x.start + e.2)
        if extValid v && extKey v = key then some (e.1 * 2) else none
  let knotted := d.tiers.units.filterMap fun e =>
    match d.s2At (e.1 * 512) with | some s => if s2Prot s ≠ 0 && s2Key s = key then some (e.1 * 2 + 1) else none | none => none
  ((direct ++ knotted).eraseDups).mergeSort (· ≤ ·)

/-- Key pair of a REKEY entry. -/
def keyPair (e : List Byte) : Nat × Nat := (field e 0 1, field e 1 1)

/-- The checks of a REKEY. -/
def Dev.planRekey (d : Dev) (j : Job) : Option Job :=
  let pairs := j.entries.map keyPair
  let good := j.entries.all fun e =>
    let (o, n) := keyPair e
    let level := d.keyLevel o
    o < 64 && n < 64 && rsvd e 2 6 && (d.key o).st = .active && (d.key n).st = .active && o ≠ n &&
      (d.keyLevel n = 0 || level = 0 || d.keyLevel n = level) &&
      (level = 0 || d.conf.regions.all fun r => r.prot = .plain || r.key ≠ n || protNum r.prot = level)
  let ids := pairs.flatMap fun e => [e.1, e.2]
  if good && ids.eraseDups.length = ids.length then
    some { j with total := pairs.foldl (fun n e => n + (d.rangesNaming e.1).length) 0 }
  else none

/-- REKEY. -/
def Dev.rekeyCmd (d : Dev) (iss : Issuer) (inp : List Byte) : Dev := d.submit iss .rekey inp Dev.planRekey

def execRekey (iss : Issuer) (inp : List Byte) (s : State) : Host.Outcome State Fault Refusal :=
  ok (s.dev.command iss 0xC610 fun d => d.rekeyCmd iss inp) s

/-- A page of a pool range is quarantined: no re-keying of it starts (R183). -/
def Dev.rangeQuarantined (d : Dev) (range : Nat) : Bool :=
  let a := d.rangeAttr range
  (List.range 512).any fun i => d.quarantined a (range * 512 + i)

/-- The turn of a REKEY: a register for the next range that names an old key ID; at the end the regions name the new ones. -/
def Dev.rekeyTurn (d : Dev) (slot : Nat) : Turn × Dev :=
  match d.working slot .rekey with
  | none => (.worked, d)
  | some j =>
    if d.line.rekey.any fun e => e.2.job = slot then (.worked, d)
    else
      let pairs := j.entries.map keyPair
      let left := pairs.flatMap fun p => (d.rangesNaming p.1).map fun r => (r, p)
      let d := d.modJob slot fun j => { j with total := max j.total left.length, done := max j.total left.length - left.length }
      match left with
      | [] =>
        let renew (r : Region) : Region :=
          if r.prot = .plain then r else match pairs.find? (·.1 = r.key) with | some p => { r with key := p.2 } | none => r
        (.worked, { d with conf.regions := d.conf.regions.map renew }.finishJob slot)
      | (r, p) :: _ =>
        let knotted := r % 2 = 1
        if d.unitHeld knotted (r / 2) || (knotted && d.rangeQuarantined (r / 2)) then (.waits, d)
        else
          match lowestFree d.line.rekey.keys 8 with
          | none => (.waits, d)
          | some reg =>
            let x : Rekey := { unit2m := r / 2, knotted := knotted, old := p.1, new := p.2, job := slot }
            (.worked, { d with line.rekey := d.line.rekey.put reg x })

end Sys2Proof.Machine
end

