-- ==== Sys2Proof/Machine/Pool.lean ====
section
/-! DEFINITION. Capacity that comes and goes (spec/13 R369; spec/04 R125 to R127, R130, R132; spec/09 R257 to R260): POOL.ADD and
POOL.RELEASE, the device's own offers, the dynamic-capacity commands, and what the boundary validates and invalidates. -/

namespace Sys2Proof.Machine

open Sys2Proof

/-! ### Extents leave an LD's list -/

/-- Take out the units of an LD for which p holds and that stand in one state; their media goes free (R130, R258). -/
def Dev.dropUnits (d : Dev) (ld : Nat) (st : ExtSt) (p : Nat → Bool) : Dev :=
  let gone := ((d.ld ld).exts.filter (·.st = st)).flatMap fun x => (x.cut p).filter fun y => p y.start
  let keep := (d.ld ld).exts.flatMap fun x => if x.st = st then (x.cut p).filter fun y => !p y.start else [x]
  let d := d.modLd ld fun l => { l with exts := keep }
  each gone d fun d x =>
    match d.regionAt ld (x.start * mib2) with
    | some r => each x.place d fun d place => d.freeUnitMedia r.knotted r.reflected x.dev place
    | none => d

/-! ### POOL.ADD (R369) -/

/-- The target device of an entry: FFh is the receiving device (log 31). -/
def Dev.targetOf (d : Dev) (e : List Byte) : Nat := if field e 12 1 = 255 then d.chain.index else field e 12 1

/-- A device that the last walk found, or this one. -/
def Dev.enumerated (d : Dev) (dev : Nat) : Bool := dev = d.chain.index || d.chain.topo.any (·.index = dev)

/-- The regions that an add to a region reaches, with the DPA unit of each that stands at the same offset (R259). -/
def Dev.reached (d : Dev) (r : Region) (u : Nat) : List (Region × Nat) := (d.members r).map fun m => (m, m.base + (u - r.base))

/-- New media that an entry's extent commits on this device, in 2 MiB units (R107, R111). -/
def Dev.addUnits (d : Dev) (r : Region) (e : List Byte) : Nat :=
  if d.targetOf e ≠ d.chain.index || r.kind = .elastic then 0 else (entryUnits e).2 * (if r.reflected then 2 else 1)

/-- An LD holds no extent over a run of units. -/
def Dev.bare (d : Dev) (ld u n : Nat) : Bool := (d.ld ld).exts.all fun x => u + n ≤ x.start || x.start + x.len ≤ u

/-- The checks of a POOL.ADD (R111, R132, R225, R260, R369); R61 does not test a shared region's extents (R54). -/
def Dev.planAdd (d : Dev) (j : Job) : Option Job :=
  let ld := field j.body 0 1
  let l := j.entries.filterMap fun e => (d.regionAt ld (field e 0 8)).map fun r => (r, e)
  let good := l.all fun x =>
    let (r, e) := x
    let (u, n) := entryUnits e
    let dev := d.targetOf e
    dev < 32 && d.enumerated dev && (labelCls r.label ≠ .c0 || r.kind = .shared || d.chainMeets dev r.reflected) &&
      (d.reached r u).all fun m => m.2 + n ≤ m.1.base + m.1.size && d.bare m.1.ld m.2 n &&
        (r.kind ≠ .shared || dev ≠ d.chain.index || (d.slotOf dev m.1.ld).isSome)
  let media := l.foldl (fun n x => n + d.addUnits x.1 x.2) 0
  let reach := l.foldl (fun n x => n + if x.1.knotted && d.targetOf x.2 = d.chain.index then (entryUnits x.2).2 else 0) 0
  let rs := (l.map (·.1)).eraseDups
  let fits := rs.all fun r =>
    r.kind ≠ .elastic || d.visible r none + (l.foldl (fun n x => n + if x.1 = r then (entryUnits x.2).2 else 0) 0) ≤ r.size
  let count := ((l.flatMap fun x => (d.reached x.1 x.1.base).map (·.1.ld)).eraseDups).all fun m => (d.ld m).exts.length + l.length ≤ 8192
  if ldByte j.body 0 && rsvd j.body 1 7 && d.unitEntries ld j.entries true && good && fits && count && d.commits media &&
      d.tiers.units.length + reach ≤ d.unitTotal then
    some { j with total := l.foldl (fun n x => n + (entryUnits x.2).2) 0 }
  else none

/-- Highest rate at which C0 extents were placed over the port of a route (11 R327). -/
def Dev.notePlaced (d : Dev) (r : Region) (dev : Nat) : Dev :=
  if labelCls r.label ≠ .c0 || dev = d.chain.index then d
  else match d.routeTo dev with
    | some (_, p) => d.modTport p fun x => { x with placedRate := max x.placedRate x.rate }
    | none => d

/-- The commitment is taken: the extents stand in the lists of the LDs they will be offered to (R369 step 1). -/
def Dev.takeAdd (d : Dev) (slot : Nat) (j : Job) : Dev × Job :=
  let ld := field j.body 0 1
  let (d, lds) := each j.entries (d, []) fun (d, lds) e =>
    let (u, n) := entryUnits e
    let dev := d.targetOf e
    match d.regionAt ld (u * mib2) with
    | none => (d, lds)
    | some r =>
      let (id, d) := d.fresh
      let place := (List.range n).map fun i => placeLater + id * 2 ^ 24 + i
      let tag : BitVec 16 := if r.kind = .shared then r.set else 0
      let d := d.notePlaced r dev
      each (d.reached r u) (d, lds) fun (d, lds) m =>
        (d.addExtent m.1.ld { start := m.2, len := n, entry := m.1.entry, dev := dev, st := .filling, place := place, tag := tag, job := some slot },
         if lds.contains m.1.ld then lds else lds ++ [m.1.ld])
  (d, { j with asked := lds })

/-- POOL.ADD. -/
def Dev.poolAdd (d : Dev) (iss : Issuer) (inp : List Byte) : Dev := d.submit iss .poolAdd inp Dev.planAdd Dev.takeAdd

def execPoolAdd (iss : Issuer) (inp : List Byte) (s : State) : Host.Outcome State Fault Refusal :=
  ok (s.dev.command iss 0xC110 fun d => d.poolAdd iss inp) s

/-- Extents of a job in a state, over all LDs. -/
def Dev.jobExts (d : Dev) (slot : Nat) (st : ExtSt) : List (Nat × Extent) :=
  (List.range 32).flatMap fun ld => ((d.ld ld).exts.filter fun x => x.job = some slot && x.st = st).map fun x => (ld, x)

/-- Change the extents of every LD. -/
def Dev.mapExts (d : Dev) (f : Extent → Extent) : Dev :=
  let ld (x : Ld) : Ld := { x with exts := x.exts.map f }
  { d with host.lds := d.host.lds.map fun e => (e.1, ld e.2) }

/-- A unit of a job gets its place, in every extent that shares it. -/
def Dev.placeUnit (d : Dev) (old new : Nat) : Dev :=
  d.mapExts fun x => { x with place := x.place.map fun p => if p = old then new else p }

/-- Media for one unit of a region: a frame, a range, or on another device a place this device does not see (log 32). What firm and shared
knotted regions have committed and not used stays free (R112). -/
def Dev.unitMedia (d : Dev) (r : Region) (unit dev : Nat) : Option (Nat × Dev) :=
  if dev ≠ d.chain.index then let (v, d) := d.free 22; some (v.toNat, d)
  else if r.knotted then (if r.kind ≠ .elastic && d.framesLeft < d.reserve then none else d.openRange r unit)
  else if d.framesLeft < d.reserve + 512 * (if r.reflected then 2 else 1) then none
  else (d.freeBig r.reflected).map fun f => (f, d.takeBig f r.reflected)

/-- Take media for every unit of a list of extents; none where it does not suffice. -/
def Dev.placeAll (d : Dev) : List (Nat × Extent) → Option Dev
  | [] => some d
  | (ld, x) :: t =>
    match d.regionAt ld (x.start * mib2) with
    | none => d.placeAll t
    | some r =>
      let step (acc : Option Dev) (i : Nat) : Option Dev := acc.bind fun d =>
        match d.placeAt ld (x.start + i) with
        | some (_, p) =>
          if p < placeLater then some d
          else (d.unitMedia r (x.start + i) x.dev).map fun (q, d) => d.placeUnit p q
        | none => some d
      ((List.range x.len).foldl step (some d)).bind fun d => d.placeAll t

/-- Direct frames of this device that a job's extents wait to have filled, with their regions. -/
def Dev.toFill (d : Dev) (slot : Nat) : List (Nat × Region) :=
  ((d.jobExts slot .filling).flatMap fun e =>
    match d.regionAt e.1 (e.2.start * mib2) with
    | some r => if r.knotted || e.2.dev ≠ d.chain.index then [] else e.2.place.map fun p => (p, r)
    | none => []).foldl (fun l x => if l.any (·.1 = x.1) then l else l ++ [x]) []

/-- Offer a job's extents to their hosts (R258, R259, R369 step 3). -/
def Dev.offerJob (d : Dev) (slot : Nat) : Dev :=
  let l := d.jobExts slot .filling
  let d := d.mapExts fun x => if x.job = some slot && x.st = .filling then { x with st := .offered } else x
  let d := each ((l.map (·.1)).eraseDups) d fun d ld =>
    let mine := (l.filter (·.1 = ld)).map (·.2)
    (d.modLd ld fun x => { x with offers := x.offers ++ [slot] }).dcEvent ld false (mine.map fun x => (x.start, x.len))
      ((mine.head?.map (·.tag)).getD 0)
  d.modJob slot fun j => { j with pos := 2, reason := .host, from_ := d.clk.bnd }

/-- Extents of an add that was not offered go: the commitment is withdrawn (R359). -/
def Dev.withdrawAdd (d : Dev) (slot : Nat) : Dev :=
  each (d.jobExts slot .filling) d fun d e =>
    let d := d.modLd e.1 fun l => { l with exts := l.exts.filter fun x => !(x.job = some slot && x.st = .filling && x.start = e.2.start) }
    match d.regionAt e.1 (e.2.start * mib2) with
    | some r => each (e.2.place.filter (· < placeLater)) d fun d p => d.freeUnitMedia r.knotted r.reflected e.2.dev p
    | none => d

/-- The turn of a POOL.ADD: media, then the offer, at once where nothing has to be filled; it ends when every host has answered. -/
def Dev.addTurn (d : Dev) (slot : Nat) : Turn × Dev :=
  match d.working slot .poolAdd with
  | none => (.worked, d)
  | some j =>
    match j.pos with
    | 0 =>
      match d.placeAll (d.jobExts slot .filling) with
      | none => (.waits, d)
      | some d =>
        let d := d.modJob slot fun j => { j with pos := 1 }
        (.worked, if (d.toFill slot).isEmpty then d.offerJob slot else d)
    | 1 => (.worked, d)
    | _ => (.worked, if j.asked.isEmpty then d.finishJob slot else d)

/-- POOL_ADD_FILL_DONE: every direct frame of the add holds zeros; the extents are offered (R113, R369 steps 2, 3). -/
def Dev.addFilled (d : Dev) (slot : Nat) : Dev :=
  match d.working slot .poolAdd with
  | none => d
  | some j =>
    if j.pos ≠ 1 then d
    else
      (each (d.toFill slot) d fun d e => (d.runUnder j.label 32768).fillFrame (e.2.direct e.2.key) e.1).offerJob slot

def execPoolAddFillDone (slot : Nat) (s : State) : Host.Outcome State Fault Refusal := ok (s.dev.addFilled slot) s

/-- ZERO_FILL_DONE: a fill that a cinch waits for has ended (R113, R346). -/
def Dev.zeroFilled (d : Dev) (fill : Nat) : Dev :=
  { d with conf.sheet := d.conf.sheet.map fun x => { x with cinch := x.cinch.map fun c => { c with fills := c.fills.filter (· ≠ fill) } } }

def execZeroFillDone (fill : Nat) (s : State) : Host.Outcome State Fault Refusal := ok (s.dev.zeroFilled fill) s

/-! ### POOL.RELEASE (R369) -/

/-- Units of ranges that an LD's host holds. -/
def Dev.heldUnits (d : Dev) (ld : Nat) (units : List Nat) : List Nat :=
  units.filter fun u => (d.ld ld).exts.any fun x => (x.st = .held || x.st = .releasing) && x.start ≤ u && u < x.start + x.len

/-- The checks of a POOL.RELEASE: the named ranges are held (log 33). -/
def Dev.planRelease (d : Dev) (j : Job) : Option Job :=
  let ld := field j.body 0 1
  let units := unitsOf j.entries
  if ldByte j.body 0 && rsvd j.body 1 1 && rsvd j.body 4 4 && d.unitEntries ld j.entries false && (d.heldUnits ld units).length = units.length then
    some { j with todo := units, total := units.length }
  else none

/-- POOL.RELEASE. -/
def Dev.poolRelease (d : Dev) (iss : Issuer) (inp : List Byte) : Dev := d.submit iss .poolRelease inp Dev.planRelease

def execPoolRelease (iss : Issuer) (inp : List Byte) (s : State) : Host.Outcome State Fault Refusal :=
  ok (s.dev.command iss 0xC111 fun d => d.poolRelease iss inp) s

/-- What a POOL.RELEASE has had released so far (R370). -/
def Dev.countReleased (d : Dev) (slot : Nat) : Dev :=
  d.modJob slot fun j =>
    let left := (d.heldUnits (field j.body 0 1) j.todo).length
    { j with done := j.total - left, detail0 := j.total - left, detail1 := left }

/-- The turn of a POOL.RELEASE: its records, then waiting for the host. -/
def Dev.releaseTurn (d : Dev) (slot : Nat) : Turn × Dev :=
  match d.working slot .poolRelease with
  | none => (.worked, d)
  | some j =>
    let ld := field j.body 0 1
    if j.pos = 0 then
      let d := d.dcEvent ld true (unitRuns j.todo) 0
      (.worked, d.modJob slot fun j => { j with pos := 1, from_ := d.clk.bnd, reason := .host })
    else
      let d := d.countReleased slot
      (.worked, if (d.heldUnits ld j.todo).isEmpty then d.finishJob slot else d)

/-- POOL_RELEASE_TIMEOUT: Timeout x 4,096 boundaries after the records were sent the job ends; what is held stays held (R369). -/
def Dev.releaseTimeout (d : Dev) (slot : Nat) : Dev :=
  match d.working slot .poolRelease with
  | none => d
  | some j =>
    let t := field j.body 2 2
    if j.pos = 1 && t ≠ 0 && j.from_ + t * 4096 ≤ d.clk.bnd then (d.countReleased slot).finishJob slot else d

def execPoolReleaseTimeout (slot : Nat) (s : State) : Host.Outcome State Fault Refusal := ok (s.dev.releaseTimeout slot) s

/-! ### The device's own offers (R126) and capacity records (R127) -/

/-- Number that the device's own offer of a region entry has in its LD's list of offers, beside the job slots (R126). -/
def ownOffer (entry : Nat) : Nat := 512 + entry

/-- DPA units of a region that no extent covers; an offer names the lowest of them (log 46). -/
def Dev.bareUnits (d : Dev) (r : Region) : List Nat :=
  ((List.range r.size).map (r.base + ·)).filter fun u => d.bare r.ld u 1

/-- Take a range for each of some bare units, as far as media and reach allow; the units placed, in order. -/
def Dev.openUnits (d : Dev) (r : Region) (units : List Nat) : List (Nat × Nat) × Dev :=
  each units ([], d) fun (l, d) u =>
    match d.openRange r u with
    | some (range, d) => (l ++ [(u, range)], d)
    | none => (l, d)

/-- Units that a region is offered back: as many as lie below V_d and as its ClearAt leaves room for (R126); 0 where it is not Normal for 4,096
boundaries, or an offer of it is out. -/
def Dev.offerUnits (d : Dev) (r : Region) : Nat :=
  let key := regionKey r
  let e := d.elastic key
  let floor := r.floor.getD d.chain.index 0
  let seen := d.visible r (some d.chain.index)
  if r.kind ≠ .elastic || e.st ≠ .normal || e.offered || d.clk.bnd < e.since + 4096 || floor ≤ seen then 0
  else
    let ix := r.ld * 16 + r.entry
    let clear := d.setting idClearAt ix * d.quotaUnits r * 2048 / 64
    min (floor - seen) ((clear - e.use) * d.setting idRatioFloor ix / 16 / 2048)

/-- Offer up to n units of a region to its host, as far as ranges and the LD's list reach (R126, R260). -/
def Dev.offerOwn (d : Dev) (r : Region) (n : Nat) : Dev :=
  let (placed, d) := d.openUnits r ((d.bareUnits r).take n)
  let runs := (unitRuns (placed.map (·.1))).take (8192 - (d.ld r.ld).exts.length)
  if runs.isEmpty then d
  else
    let d := each runs d fun d run => d.addExtent r.ld
      { start := run.1, len := run.2, entry := r.entry, dev := d.chain.index, st := .offered, job := some (ownOffer r.entry)
        place := (placed.filter fun p => run.1 ≤ p.1 && p.1 < run.1 + run.2).map (·.2) }
    let d := d.modElastic (regionKey r) fun e => { e with offered := true }
    (d.modLd r.ld fun x => { x with offers := x.offers ++ [ownOffer r.entry] }).dcEvent r.ld false runs 0

/-- ADD_OFFER_TIMER: a region Normal for 4,096 boundaries whose visible capacity here lies below V_d is offered capacity back (R126). -/
def Dev.addOffer (d : Dev) (ld entry : Nat) : Dev :=
  match d.conf.regions.find? fun r => r.home.isNone && r.ld = ld && r.entry = entry with
  | none => d
  | some r => if d.offerUnits r = 0 || 8192 ≤ (d.ld ld).exts.length then d else d.offerOwn r (d.offerUnits r)

def execAddOfferTimer (ld : Fin 32) (entry : Fin 16) (s : State) : Host.Outcome State Fault Refusal :=
  ok (s.dev.addOffer ld.val entry.val) s

def execCapacityRecordInterval (ld : Fin 32) (entry : Fin 16) (s : State) : Host.Outcome State Fault Refusal :=
  ok (s.dev.capacityInterval ld.val entry.val) s

/-! ### Dynamic-capacity commands of the host (R257 to R260; layouts: log 8) -/

/-- A DC region's configuration: base, decode length in 256 MB, length, block size, DSMAD handle, flags. -/
def dcRegion (n : Nat) : List Byte :=
  leBytes 8 (n * 2 ^ 41) ++ leBytes 8 8192 ++ leBytes 8 (2 ^ 41) ++ leBytes 8 mib2 ++ leBytes 4 n ++
    [if 6 ≤ n then 2 else 0] ++ zeros 3

/-- Extents that an LD's host holds. -/
def Ld.heldExts (x : Ld) : List Extent := x.exts.filter fun e => e.st = .held || e.st = .releasing || e.st = .accepted

/-- Get Dynamic Capacity Configuration (R257). -/
def Dev.dcConfig (d : Dev) (iss : Issuer) (inp : List Byte) : Dev :=
  let count := field inp 0 1
  let first := field inp 1 1
  match issuerLd iss with
  | none => d.answerStd iss .unsupported []
  | some ld =>
    if inp.length ≠ 2 then d.answerStd iss .invalidLength []
    else if 8 ≤ first then d.answerStd iss .invalidInput []
    else
      let n := min count (8 - first)
      let held := (d.ld ld).heldExts.length
      d.answerStd iss .success ([8, BitVec.ofNat 8 n] ++ zeros 6 ++ ((List.range n).flatMap fun i => dcRegion (first + i)) ++
        leBytes 4 8192 ++ leBytes 4 (8192 - held) ++ leBytes 4 65536 ++ leBytes 4 65536)

def execGetDynamicCapacityConfiguration (iss : Issuer) (inp : List Byte) (s : State) : Host.Outcome State Fault Refusal :=
  ok (s.dev.command iss 0x4800 fun d => d.dcConfig iss inp) s

/-- An extent as the extent list gives it: start, length, tag, shared sequence. -/
def Extent.bytes (x : Extent) : List Byte :=
  leBytes 8 (x.start * mib2) ++ leBytes 8 (x.len * mib2) ++ leBytes 2 x.tag.toNat ++ zeros 14 ++ zeros 8

/-- Get Dynamic Capacity Extent List (R260). -/
def Dev.dcList (d : Dev) (iss : Issuer) (inp : List Byte) : Dev :=
  let count := field inp 0 4
  let first := field inp 4 4
  match issuerLd iss with
  | none => d.answerStd iss .unsupported []
  | some ld =>
    let l := (d.ld ld).heldExts
    if inp.length ≠ 8 then d.answerStd iss .invalidLength []
    else if l.length < first then d.answerStd iss .invalidInput []
    else
      let n := min (min count (l.length - first)) (((d.mbox (issuerBox iss)).respLimit - 16) / 40)
      d.answerStd iss .success (leBytes 4 n ++ leBytes 4 l.length ++ leBytes 4 (d.ld ld).extGen.toNat ++ zeros 4 ++
        ((l.drop first).take n).flatMap Extent.bytes)

def execGetDynamicCapacityExtentList (iss : Issuer) (inp : List Byte) (s : State) : Host.Outcome State Fault Refusal :=
  ok (s.dev.command iss 0x4801 fun d => d.dcList iss inp) s

/-- The extents (start, length in units) that an add response or a release names; none: the payload breaks its layout, or a reserved bit of
it is set (R9). -/
def updatedExtents (inp : List Byte) : Option (List (Nat × Nat)) :=
  let n := field inp 0 4
  let l := entriesOf (inp.drop 8) 24 n
  if field inp 4 1 < 2 && rsvd inp 5 3 && l.all fun e => field e 0 8 % mib2 = 0 && field e 8 8 % mib2 = 0 && field e 8 8 ≠ 0 && rsvd e 16 8 then
    some (l.map fun e => (field e 0 8 / mib2, field e 8 8 / mib2))
  else none

/-- Units of an LD in a state, of an offer: of a job slot or of the device's own. -/
def Ld.unitsIn (x : Ld) (st : ExtSt) (job : Option Nat) : List Nat :=
  (x.exts.filter fun e => e.st = st && e.job = job).flatMap fun e => (List.range e.len).map (e.start + ·)

/-- A list names units that are all in another, none twice. -/
def namesOnly (l : List (Nat × Nat)) (units : List Nat) : Bool :=
  l.all fun e => (List.range e.2).all fun i => units.contains (e.1 + i)

/-- A run of a list covers a unit. -/
def inRuns (l : List (Nat × Nat)) (u : Nat) : Bool := l.any fun e => e.1 ≤ u && u < e.1 + e.2

/-- The answer to a job's offer is counted, and the job asks one host less (R369, R370). -/
def Dev.answered (d : Dev) (ld slot accepted refused : Nat) : Dev :=
  d.modJob slot fun j => { j with
    asked := j.asked.filter (· ≠ ld), done := min j.total (j.done + accepted + refused)
    detail0 := j.detail0 + accepted, detail1 := j.detail1 + refused }

/-- The answer to the device's own offer of a region: it may offer again (R126). -/
def Dev.ownAnswered (d : Dev) (ld entry : Nat) : Dev := d.modElastic (ld * 16 + entry) fun e => { e with offered := false }

/-- Add Dynamic Capacity Response: the extents the host accepts of the oldest offer are validated at the next boundary, the others
released at once (R258, R369). -/
def Dev.dcResponse (d : Dev) (iss : Issuer) (inp : List Byte) : Dev :=
  match issuerLd iss with
  | none => d.answerStd iss .unsupported []
  | some ld =>
    if inp.length < 8 || inp.length ≠ 8 + 24 * field inp 0 4 then d.answerStd iss .invalidLength []
    else
      match updatedExtents inp with
      | none => d.answerStd iss .invalidInput []
      | some l =>
        match (d.ld ld).offers with
        | [] => d.answerStd iss (if l.isEmpty then .success else .invalidPa) []
        | job :: rest =>
          if !apart l then d.answerStd iss .invalidExtentList []
          else if !namesOnly l ((d.ld ld).unitsIn .offered (some job)) then d.answerStd iss .invalidPa []
          else
            let d := (d.doorbell 0x38C).modLd ld fun x => { x with exts := x.exts.flatMap fun e =>
              if e.st = .offered && (e.job = some job) then (e.cut (inRuns l)).map fun y => if inRuns l y.start then { y with st := .accepted } else y
              else [e] }
            let more := bit (field inp 4 1) 0
            let taken := l.foldl (fun n e => n + e.2) 0
            let d := if more then d.modJob job fun j => { j with detail0 := j.detail0 + taken, done := min j.total (j.done + taken) }
              else
                let left := (d.ld ld).unitsIn .offered (some job)
                let d := { d with host.lds := d.host.lds.put ld { d.ld ld with offers := rest } }
                let mine (u : Nat) : Bool := left.contains u
                let d := d.dropUnits ld .offered mine
                if job < 256 then d.answered ld job taken left.length else d.ownAnswered ld (job - 512)
            d.answerStd iss .success []

def execAddDynamicCapacityResponse (iss : Issuer) (inp : List Byte) (s : State) : Host.Outcome State Fault Refusal :=
  ok (s.dev.command iss 0x4802 fun d => d.dcResponse iss inp) s

/-- Release Dynamic Capacity: extents that the LD holds cease to be valid at the next boundary (R130, R132, R258). -/
def Dev.dcRelease (d : Dev) (iss : Issuer) (inp : List Byte) : Dev :=
  match issuerLd iss with
  | none => d.answerStd iss .unsupported []
  | some ld =>
    if inp.length < 8 || inp.length ≠ 8 + 24 * field inp 0 4 then d.answerStd iss .invalidLength []
    else
      match updatedExtents inp with
      | none => d.answerStd iss .invalidInput []
      | some l =>
        let units := ((d.ld ld).exts.filter (·.st = .held)).flatMap fun e => (List.range e.len).map (e.start + ·)
        if !apart l then d.answerStd iss .invalidExtentList []
        else if !namesOnly l units then d.answerStd iss .invalidPa []
        else ((d.doorbell 0x38C).markUnits ld (inRuns l) .held .releasing).answerStd iss .success []

def execReleaseDynamicCapacity (iss : Issuer) (inp : List Byte) (s : State) : Host.Outcome State Fault Refusal :=
  ok (s.dev.command iss 0x4803 fun d => d.dcRelease iss inp) s

/-! ### At the boundary (R97, R130, R258, R369) -/

/-- Write the entries of an accepted extent: it is held from this boundary on. -/
def Dev.validate (d : Dev) (ld : Nat) (x : Extent) : Dev :=
  match d.regionAt ld (x.start * mib2) with
  | none => d
  | some r =>
    let d := each (List.range x.len) d fun d i =>
      match d.makeS1 ld (x.start + i) with
      | some d => d.setExt ld (x.start + i) (extEntryOf r x i)
      | none => d
    d.post (.stage1 ld x.start x.len) .nothing

/-- Take out the entries of a released extent, and drain it (R98). -/
def Dev.invalidate (d : Dev) (ld : Nat) (x : Extent) : Dev :=
  match d.regionAt ld (x.start * mib2) with
  | none => d
  | some r =>
    let d := each (List.range x.len) d fun d i => d.setExt ld (x.start + i) 0
    let d := if r.kind = .shared then
        each (x.place.flatMap (d.unitLines r.knotted)) d fun d e => d.dropSharer ld e.1 e.2
      else d
    d.post (.stage1 ld x.start x.len) (.release ld x.start x.len)

/-- The entries of extents of C0 regions that have just become valid are pinned (R93). -/
def Dev.pinNew (d : Dev) (ld : Nat) (new : List Extent) : Dev :=
  each new d fun d x =>
    match d.regionAt ld (x.start * mib2) with
    | some r => if labelCls r.label = .c0 then each (List.range x.len) d fun d i => d.pinExt ld (x.start + i) else d
    | none => d

/-- Releases and validations that take effect at the boundary; each LD whose extents change gets a new CDAT (R267). -/
def Dev.extentsBoundary (d : Dev) : Dev :=
  each (List.range 32) d fun d ld =>
    let new := (d.ld ld).exts.filter (·.st = .accepted)
    let old := (d.ld ld).exts.filter (·.st = .releasing)
    if new.isEmpty && old.isEmpty then d
    else
      let d := each new d fun d x => d.validate ld x
      let d := each old d fun d x => d.invalidate ld x
      let d := d.modLd ld fun l => { l with
        extGen := l.extGen + 1
        exts := l.exts.map fun x => match x.st with | .accepted => { x with st := .held, job := none } | .releasing => { x with st := .draining } | _ => x }
      (d.pinNew ld new).cdat ld

end Sys2Proof.Machine
end

