-- ==== Sys2Proof/Machine/Streams.lean ====
section
/-! DEFINITION. PRISM.STREAM (spec/05 R146 to R157, R490; spec/13 R370): a job that codes or decodes buffers of an LD, descriptor by
descriptor, on an engine it holds for StreamSlice beats at most while others wait. -/

namespace Sys2Proof.Machine

open Sys2Proof

/-! ### Submission (R370) -/

/-- Fields of a descriptor. -/
def sdCtl (e : List Byte) : Nat := field e 0 1
def sdInLen (e : List Byte) : Nat := field e 4 4
def sdOutLen (e : List Byte) : Nat := field e 8 4
def sdIn (e : List Byte) : Nat := field e 16 8
def sdOut (e : List Byte) : Nat := field e 24 8

/-- A buffer is aligned and lies in a region of the LD; an empty one begins in one. -/
def Dev.bufferIn (d : Dev) (ld a n : Nat) : Bool := a % 64 = 0 && if n = 0 then (d.regionAt ld a).isSome else d.rangeIn ld a n

/-- A descriptor is as R370 asks: reserved bits, buffers apart, room for what an encode may write. -/
def Dev.streamEntry (d : Dev) (ld : Nat) (e : List Byte) : Bool :=
  let c := sdCtl e
  c < 32 && rsvd e 1 3 && rsvd e 12 4 && d.bufferIn ld (sdIn e) (sdInLen e) && d.bufferIn ld (sdOut e) (sdOutLen e) &&
    (sdIn e + sdInLen e ≤ sdOut e || sdOut e + sdOutLen e ≤ sdIn e) &&
    (bit c 0 || outMax (sdInLen e) (bit c 2) (bit c 3) ≤ sdOutLen e)

/-- The checks of a PRISM.STREAM. `todo` holds 1 while the state has still to be saved. -/
def Dev.planStream (d : Dev) (j : Job) : Option Job :=
  let flags := field j.body 0 1
  let ld := field j.body 1 1
  let state (on : Bool) (a : Nat) : Bool := if on then d.bufferIn ld a 4160 else a = 0
  if flags < 4 && ldByte j.body 1 && rsvd j.body 2 6 && state (bit flags 0) (field j.body 8 8) && state (bit flags 1) (field j.body 16 8) &&
      (j.entries.isEmpty || d.bufferIn ld (field j.body 24 8) (16 * j.entries.length)) && j.entries.all (d.streamEntry ld) then
    some { j with total := j.entries.length, todo := if bit flags 1 then [1] else [] }
  else none

/-- PRISM.STREAM. -/
def Dev.streamCmd (d : Dev) (iss : Issuer) (inp : List Byte) : Dev := d.submit iss .prismStream inp Dev.planStream

def execPrismStream (iss : Issuer) (inp : List Byte) (s : State) : Host.Outcome State Fault Refusal :=
  ok (s.dev.command iss 0xC900 fun d => d.streamCmd iss inp) s

/-! ### Buffers -/

/-- Bytes written at an address, as lines with masks. -/
def linesAt (a : Nat) (bytes : List Byte) : List (Nat × Line × BitVec 64) :=
  let all := zeros (a % 64) ++ bytes
  (List.range (ceilDiv all.length 64)).map fun i =>
    let part := slice all (64 * i) 64
    let lo := if i = 0 then a % 64 else 0
    (a / 64 * 64 + 64 * i, BitVec.ofNat 512 (leNat part), BitVec.ofNat 64 (2 ^ part.length - 2 ^ lo))

/-- Lines read, as bytes: a line of poison has no stated data (log 11). -/
def Dev.bytesRead (d : Dev) (l : List (Option Line)) : List Byte × Dev :=
  each l ([], d) fun (b, d) x =>
    match x with
    | some x => (b ++ leBytes 64 x.toNat, d)
    | none => let (v, d) := d.free 512; (b ++ leBytes 64 v.toNat, d)

/-- The job runs no further descriptor and ends in a state. -/
def Dev.streamStop (d : Dev) (slot : Nat) (fin : JState) (result : Nat) : Dev :=
  d.modJob slot fun j => { j with pos := j.entries.length, fin := fin, result := result, lines := [] }

/-- Read line i of the buffer that a stream job reads at an address. -/
def Dev.streamRead (d : Dev) (slot : Nat) (j : Job) (a i : Nat) : Option Dev :=
  match j.buf with
  | some x => some (d.setJob slot { j with lines := j.lines ++ [x.line], buf := none })
  | none => d.jobRead slot (field j.body 1 1) (a + 64 * i) j.label

/-- The loaded state starts the job, or ends it with STATE_BAD (R155). -/
def Dev.streamLoad (d : Dev) (slot : Nat) (j : Job) : Dev :=
  let (b, d) := d.bytesRead j.lines
  let first := bit (sdCtl (j.entries.headD [])) 0
  match (Stream.load (b.take 4160)).filter fun s => s.decode = first with
  | some s => d.setJob slot { j with stream := some s, lines := [] }
  | none => (d.setJob slot { j with todo := [], stream := some {} }).streamStop slot .failed Status.stateBad.code

/-- The next thing a stream job does outside its engine: a write, a line of its state or of its input, the end. None: it waits. -/
def Dev.streamStepJob (d : Dev) (slot : Nat) : Option Dev :=
  match d.working slot .prismStream with
  | none => none
  | some j =>
    if j.sent then none
    else
      match j.outs with
      | (a, x, m) :: rest =>
        if j.buf.isSome then some (d.setJob slot { j with outs := rest, buf := none })
        else d.jobWrite slot (field j.body 1 1) a j.label (some x) m
      | [] =>
        if bit (field j.body 0 1) 0 && j.stream.isNone then
          if j.lines.length < 65 then d.streamRead slot j (field j.body 8 8) j.lines.length else some (d.streamLoad slot j)
        else if j.pos < j.entries.length then
          let e := j.entries.getD j.pos []
          if j.lines.length < ceilDiv (sdInLen e) 64 then d.streamRead slot j (sdIn e) j.lines.length else none
        else if j.todo.isEmpty then some (d.finishJob slot)
        else some (d.setJob slot { j with todo := [], outs := linesAt (field j.body 16 8) (j.stream.getD {}).bytes })

/-- What a stream job can do now. -/
def Dev.streamPump (d : Dev) (slot : Nat) : Dev :=
  repeatStep (fun d => d.streamStepJob slot) (match d.job slot with
    | some j => 4 * (j.outs.length + 200 + (sdInLen (j.entries.getD j.pos []) / 64))
    | none => 0) d

/-! ### Descriptors (R146 to R153, R370) -/

/-- Descriptor k has completed: output, result record, and the state for the next. -/
def Dev.streamDone (d : Dev) (slot : Nat) (j : Job) (e : List Byte) (s : Stream) (out : List Byte) (inDone : Nat) (full : Bool) : Dev :=
  let outDone := s.outDone + out.length
  let word := if inDone = 0 && out.isEmpty && sdInLen e = 0 then 4096 else 0
  let rec_ := leBytes 2 word ++ [BitVec.ofNat 8 (flag full), 0] ++ leBytes 4 inDone ++ leBytes 4 outDone ++ zeros 4
  let outs := linesAt (sdOut e + s.outDone) out ++ linesAt (field j.body 24 8 + 16 * j.pos) rec_
  d.setJob slot { j with
    outs := outs, lines := [], stream := some { s with inDone := 0, outDone := 0 }, done := j.done + 1
    detail0 := j.detail0 / 2 ^ 32 * 2 ^ 32 + j.pos, pos := if full then j.entries.length else j.pos + 1 }

/-- Descriptor k fails: its output stays, it gets no record, and the job ends Failed (R370). -/
def Dev.streamFail (d : Dev) (slot : Nat) (j : Job) (e : List Byte) (s : Stream) (out : List Byte) (st : Status) : Dev :=
  (d.setJob slot { j with
    outs := linesAt (sdOut e + s.outDone) out, stream := some { s with inDone := 0, outDone := 0 }
    detail0 := j.detail0 / 2 ^ 32 * 2 ^ 32 + j.pos }).streamStop slot .failed st.code

/-- A descriptor's flags stand against its direction, or it continues a stream that cannot be continued (R146). -/
def streamBad (s : Stream) (c : Nat) : Bool :=
  (if bit c 0 then bit c 2 || bit c 3 || (bit c 4 && !bit c 1) else bit c 4) ||
    (!bit c 1 && (!s.valid || s.closed || s.decode ≠ bit c 0))

/-- The stream stands partway through the present descriptor, and can go on from there (R155; log 82). -/
def Stream.midway (s : Stream) : Bool := (s.inDone ≠ 0 || s.outDone ≠ 0) && s.valid && !s.closed

/-- The stream as a descriptor begins or resumes it (R146, R155). -/
def Stream.begin (s : Stream) (c : Nat) : Stream :=
  if bit c 1 && !s.midway then { decode := bit c 0, valid := true, joined := bit c 4 } else s

/-- Run a descriptor over its input; `coded` is what the engine chose to write for an encode. A coding that is not one of the input
leaves everything as it was. -/
def Dev.runDescriptor (d : Dev) (slot : Nat) (j : Job) (coded : List Byte) : Dev :=
  let e := j.entries.getD j.pos []
  let c := sdCtl e
  let old := j.stream.getD {}
  if streamBad old c then d.streamFail slot j e old [] .invalidInput
  else
    let s := old.begin c
    let (bytes, d) := d.bytesRead j.lines
    let inp := (bytes.take (sdInLen e)).drop s.inDone
    if bit c 0 then
      let room := sdOutLen e - s.outDone
      let (t, rest, out, fin) := streamDecode (inp.length + room + 1) s inp [] room
      let used := inp.length - rest.length
      let tail := (s.pend ++ inp.take used)
      let tail := tail.drop (tail.length - 16)
      let j := if t.closed && !s.closed && t.joined then
          { j with detail1 := field tail 1 7, detail0 := field tail 8 4 * 2 ^ 32 } else j
      match fin with
      | .done => d.streamDone slot j e { t with outDone := s.outDone } out (s.inDone + used) false
      | .full => d.streamDone slot j e { t with outDone := s.outDone } out (s.inDone + used) true
      | .check => d.streamFail slot j e { t with outDone := s.outDone } out .streamCheck
      | .error o => d.streamFail slot { j with detail1 := o } e { t with outDone := s.outDone } out .decodeError
    else if !s.encodes inp coded (bit c 2) (bit c 3) then d
    else
      d.streamDone slot j e { s.encoded inp coded (bit c 2 || bit c 3) (bit c 3) with outDone := s.outDone } coded (s.inDone + inp.length) false

/-- The engine a stream job holds. -/
def Dev.streamEngine (d : Dev) (slot : Nat) : Option Nat := (d.prism.stream.find? fun e => e.2.1 = slot).map (·.1)

/-- A stream job's descriptor and all its input are at hand. -/
def Job.streamReady (j : Job) : Bool :=
  !j.sent && j.outs.isEmpty && j.pos < j.entries.length && !(bit (field j.body 0 1) 0 && j.stream.isNone) &&
    ceilDiv (sdInLen (j.entries.getD j.pos [])) 64 ≤ j.lines.length

/-- An engine has nothing to do that goes before a stream: no decode for the line path, no page of the tiering service (R145, R157). -/
def Dev.streamTurn (d : Dev) (e : Nat) : Bool := (d.engineNext e).isNone && !d.tiers.demote.any (·.2 = e)

/-- STREAM_DESCRIPTOR_DONE: the engine has worked through the job's current descriptor; its decodes and encodes for pages come first
(R145). -/
def Dev.descriptorDone (d : Dev) (slot : Nat) (coded : List Byte) : Dev :=
  let d := d.streamPump slot
  match d.working slot .prismStream, d.streamEngine slot with
  | some j, some e => if j.streamReady && d.streamTurn e then (d.runDescriptor slot j coded).streamPump slot else d
  | _, _ => d

def execStreamDescriptorDone (slot : Nat) (coded : List Byte) (s : State) : Host.Outcome State Fault Refusal :=
  ok (s.dev.descriptorDone slot coded) s

/-! ### Engines (R156, R157, R490) -/

/-- Stream jobs that wait for an engine, higher classes first and then the longer wait. -/
def Dev.streamWaiters (d : Dev) : List (Nat × Job) :=
  (d.jobs.slots.filter fun e => e.2.kind = .prismStream && e.2.st = .active && !e.2.ending && (d.streamEngine e.1).isNone).mergeSort
    fun a b => (a.2.label.toNat / 64) * 2 ^ 64 + a.2.from_ ≤ (b.2.label.toNat / 64) * 2 ^ 64 + b.2.from_

/-- Engines go to the stream jobs that wait, the lowest-numbered first; a job that has left gives its engine back (R490). -/
def Dev.streamEngines (d : Dev) : Dev :=
  let kept := d.prism.stream.filter fun e => !d.prism.retired.contains e.1 &&
    (match d.job e.2.1 with | some j => j.kind = .prismStream && j.st = .active && !j.ending | none => false)
  let d := { d with prism.stream := kept }
  each d.streamWaiters d fun d w =>
    match d.enginesUp.find? fun e => !d.prism.stream.has e with
    | some e => { d with prism.stream := d.prism.stream.put e (w.1, d.clk.bnd) }
    | none => d

/-- How far an engine has come with the present descriptor of a job it gives up, at a token end: a free value (R156; log 82). What it has
written goes to the output buffer, and the stream state counts it. -/
def Dev.streamProgress (d : Dev) (slot : Nat) (j : Job) : Dev :=
  let e := j.entries.getD j.pos []
  let c := sdCtl e
  let old := j.stream.getD {}
  if !j.streamReady || streamBad old c then d
  else
    let s := old.begin c
    let (bytes, d) := d.bytesRead j.lines
    let inp := (bytes.take (sdInLen e)).drop s.inDone
    let (v, d) := d.free 32
    let keep (t : Stream) (used : Nat) (out : List Byte) : Dev :=
      if used = 0 && out.isEmpty then d
      else
        d.setJob slot { j with
          outs := linesAt (sdOut e + s.outDone) out
          stream := some { t with inDone := s.inDone + used, outDone := s.outDone + out.length } }
    if bit c 0 then
      let room := sdOutLen e - s.outDone
      let (t, rest, out) := streamGo (inp.length + room + 1) v.toNat s inp [] room
      keep t (inp.length - rest.length) out.reverse
    else
      let part := inp.take (v.toNat % (inp.length + 1))
      let out := Config.codedPart (s.window, part)
      if codesTokens (out.length + 1) out part s.window.reverse s.inDone && s.outDone + out.length ≤ outMax (s.inDone + part.length) false false then
        keep { s.takeAll part with coded := s.coded + out.length, blockFill := (s.inDone + part.length) % 256 } part.length out
      else d

/-- A stream job gives up its engine, its state in its slot (R156). -/
def Dev.streamYield (d : Dev) (slot : Nat) : Dev :=
  match d.streamEngine slot, d.job slot with
  | some e, some j =>
    let d : Dev := { d with prism.stream := d.prism.stream.del e }
    (d.streamProgress slot j).modJob slot fun j => { j with from_ := d.clk.bnd }
  | _, _ => d

/-- A stream job has held its engine for StreamSlice beats by boundary `bnd` while another of its class or a higher one waits (R157). -/
def Dev.sliceOver (d : Dev) (slot bnd : Nat) : Bool :=
  match d.prism.stream.find? fun e => e.2.1 = slot, d.job slot with
  | some (_, _, since), some j =>
    since + d.setting idStreamSlice 0 ≤ bnd && d.streamWaiters.any fun w => w.2.label.toNat / 64 ≤ j.label.toNat / 64
  | _, _ => false

/-- Step 6 of the boundary: the stream jobs that are to yield do, where that still stands (R46, R156, R157). -/
def Dev.streamYields (d : Dev) : Dev :=
  let due := d.prism.yields
  each due { d with prism.yields := [] } fun d slot => if d.sliceOver slot d.clk.bnd then d.streamYield slot else d

/-- STREAM_SLICE_EXPIRY: a stream job's StreamSlice ends with the present beat, or has ended, while another waits: it gives its engine up
at the next boundary (R46, R156, R157). -/
def Dev.sliceExpiry (d : Dev) (slot : Nat) : Dev :=
  if d.sliceOver slot (d.clk.bnd + 1) && !d.prism.yields.contains slot then { d with prism.yields := d.prism.yields ++ [slot] } else d

def execStreamSliceExpiry (slot : Nat) (s : State) : Host.Outcome State Fault Refusal := ok (s.dev.sliceExpiry slot) s

end Sys2Proof.Machine
end

