-- ==== Sys2Proof/Machine/Lanes.lean ====
section
/-! DEFINITION. Serial lanes (spec/10): widths (R247, R248, R282), which lane carries a link (R285), and glint scans as far as
links end them (R286 to R288). -/

namespace Sys2Proof.Machine

open Sys2Proof

/-! ### Width (R247, R248, R282) -/

/-- Largest power-of-two width of n lanes that are usable from lane 0 up, or from the top lane down, and whether the order is
reversed; width 0 where there is none (R282). -/
def widthOf (n : Nat) (usable : Nat → Bool) : Nat × Bool :=
  let low (w : Nat) : Bool := (List.range w).all usable
  let high (w : Nat) : Bool := (List.range w).all fun i => usable (n - 1 - i)
  match [16, 8, 4, 2, 1].find? fun w => w ≤ n && (low w || high w) with
  | some w => (w, !low w)
  | none => (0, false)

/-- Lanes of a host link, and its first lane in the port (R247). A port that is not bifurcated has no second link. -/
def Dev.linkSize (d : Dev) (l : Nat) : Nat := if (d.port (linkPort l)).halves then 8 else if l % 2 = 0 then 16 else 0
def Dev.linkFirst (d : Dev) (l : Nat) : Nat := if (d.port (linkPort l)).halves then 8 * (l % 2) else 0

/-- Lane i of a link is not retired. -/
def Dev.laneGood (d : Dev) (l i : Nat) : Bool := !(d.port (linkPort l)).retired.getLsbD (d.linkFirst l + i)

/-- The link that a lane of a host port belongs to. -/
def Dev.laneLink (d : Dev) (p lane : Nat) : Nat := 2 * p + (if (d.port p).halves && 8 ≤ lane then 1 else 0)

/-- Lane i of n is among the w lanes in use. -/
def laneUsed (n w : Nat) (reversed : Bool) (i : Nat) : Bool := i < n && (if reversed then n ≤ i + w else i < w)

/-! ### A lane by port number of R287: 0 and 1 the host ports, 2 to 4 the Tether ports -/

/-- The lane's number among the fault sources (R388). -/
def laneSrc (port lane : Nat) : Nat := if port < 2 then srcHostLane port lane else srcTetherLane (port - 2) lane

/-- Port number and lane of a lane. -/
def laneOf : Lane → Nat × Nat
  | .host hp n => (hportNum hp, n.val)
  | .tether p n => (2 + p.val, n.val)

/-- The lane carries a link in L0 or in the Tether active state (R285). -/
def Dev.laneActive (d : Dev) (port lane : Nat) : Bool :=
  if port < 2 then
    let l := d.laneLink port lane
    let x := d.link l
    x.carries && laneUsed (d.linkSize l) x.width x.reversed (lane - d.linkFirst l)
  else
    let x := d.tport (port - 2)
    x.st = .active && laneUsed 8 x.width x.reversed lane

/-- Rate code of R288, and trained width, of the link a lane carries. -/
def Dev.laneRate (d : Dev) (port lane : Nat) : Nat :=
  if port < 2 then (d.link (d.laneLink port lane)).rate.toNat
  else let x := d.tport (port - 2); if x.rate = 0 then 1 else 5 + x.rate

def Dev.laneWidth (d : Dev) (port lane : Nat) : Nat :=
  if port < 2 then (d.link (d.laneLink port lane)).width else (d.tport (port - 2)).width

/-! ### Ends of a commanded scan (R287) -/

/-- The commanded scan ends: its command completes with SUCCESS. -/
def Dev.endScan (d : Dev) (x : Scan) : Dev :=
  let d := { d with glint.scan := some { x with box := none, todo := [] } }
  match x.box with
  | some box => d.endBg box .success (zeros 6)
  | none => d

/-- A running scan whose lane has left the active state ends there (R287). -/
def Dev.checkScan (d : Dev) : Dev :=
  match d.glint.scan with
  | some x => if x.box.isSome && !d.laneActive x.port x.lane then d.endScan { x with ended := true } else d
  | none => d

end Sys2Proof.Machine
end

