-- ==== Sys2Proof/Machine/HostPorts.lean ====
section
/-! DEFINITION. The host ports (spec/09): links up and down (R246 to R248, R274), LD resets, errors (R273), IDE (R263), viral
(R262), credits (R256), HDM decoders (R252), back-invalidate (R254), MSI-X unmasking (R413), and width resets (spec/10 R282,
R291, R292, R294). -/

namespace Sys2Proof

/-- An HDM decoder the component registers can hold: base and size in 256 MiB, 1 to 16 ways of 256 bytes to 16 KiB (R245, log 8). -/
def Decoder.legal (k : Decoder) : Bool :=
  let grain := 268435456
  k.iw ≤ 4 && 8 ≤ k.ig && k.ig ≤ 14 && k.size ≠ 0 && k.size % grain = 0 && k.hpaBase % grain = 0 && k.hpaBase + k.size ≤ 2 ^ 64

/-- Bytes of DPA that a decoder maps. -/
def Decoder.span (k : Decoder) : Nat := k.size / 2 ^ k.iw

end Sys2Proof

namespace Sys2Proof.Machine

open Sys2Proof

/-! ### LD resets (R274) -/

/-- A foreground command of an LD that has not completed is aborted: a COUNT.READ that waits for its boundary, a chain
SHEET.OPEN that waits for its locks (R274). -/
def Dev.abortForeground (d : Dev) (ld : Nat) : Dev :=
  let mine (box : Nat) : Bool := box < 64 && box / 2 = ld
  { d with host.asks := d.host.asks.filter fun a => !mine a.box
           conf.opening := d.conf.opening.filter fun o => !mine o.box }

/-- Snoops of other devices that an LD's host has not answered and will not: each fails at its target, so that its home finds the slot
gone at BiTimeout (R238, R301; DEDUCED, log 79: no message tells the home more). -/
def Dev.dropForeign (d : Dev) (ld : Nat) : Dev :=
  let mine (f : Foreign) : Bool := f.ld = ld && f.answer.isNone
  each (d.home.foreign.filter mine) { d with home.foreign := d.home.foreign.filter fun f => !mine f } Dev.snoopFails

/-- An LD reset begins: MSI-X state and BI-ID cleared, foreground command aborted, sharer slots gone, watches free (R274, R423).
Cause 0 link, 1 reset (R415). -/
def Dev.ldReset (d : Dev) (ld cause : Nat) : Dev :=
  let d := d.modLd ld fun x => { x with resetting := true, resetFrom := d.clk.bnd, biId := false, msixOn := false, vecs := [] }
  let d := { d with ev.watches := d.ev.watches.filter (fun e => e.2.owner ≠ ld), ev.progs := d.ev.progs.filter fun e => e.2.owner ≠ ld }
  (((d.abortForeground ld).loseLd ld cause).dropForeign ld)

/-- LD_RESET_END: at the first boundary at which the reset's actions are complete (R274). -/
def Dev.ldResetEnd (d : Dev) (ld : Nat) : Dev :=
  if (d.ld ld).resetting && (d.ld ld).resetFrom < d.clk.bnd then d.modLd ld fun x => { x with resetting := false } else d

def execLdResetEnd (ld : Fin 32) (s : State) : Host.Outcome State Fault Refusal := ok (s.dev.ldResetEnd ld.val) s

/-- FUNCTION_LEVEL_RESET: of the LD of a function, which stands on a link. -/
def Dev.flr (d : Dev) (ld : Nat) : Dev := if (d.ldLink ld).isSome then d.ldReset ld 1 else d

def execFunctionLevelReset (ld : Fin 32) (s : State) : Host.Outcome State Fault Refusal := ok (s.dev.flr ld.val).flow s

/-- FM_API_RESET_COMMAND: the LDs it names. -/
def execFmApiResetCommand (lds : BitVec 32) (s : State) : Host.Outcome State Fault Refusal :=
  ok (each ((List.range 32).filter fun i => lds.getLsbD i) s.dev Dev.flr).flow s

/-! ### Links -/

/-- A host request of a link. -/
def Req.onLink (q : Req) (l : Nat) : Bool := match q.src with | .host k _ _ => linkNum k = l | _ => false

/-- A link goes down or takes a hot reset (R274): owed responses discarded, requests in the receive store dropped, those that the
regulator holds marked for it to drop, every LD of the link reset. -/
def Dev.hostDown (d : Dev) (l cause : Nat) : Dev :=
  if (d.link l).st = .down then d
  else
    let d := d.modLink l fun x => { x with
      st := .down, width := 0, egress := [], snoops := [], ndr := 0, drs := 0, bisnp := 0, widthDue := false
      widthReset := none, ideIo := .off, ideMem := .off }
    let reqs := (d.path.reqs.filter fun q => !(q.onLink l && q.stage = .store)).map fun q => if q.onLink l then { q with dead := true } else q
    (each (d.linkLds l) { d with path.reqs := reqs } fun d ld => d.ldReset ld cause).checkScan

/-- HOST_LINK_DOWN. -/
def execHostLinkDown (l : Link) (s : State) : Host.Outcome State Fault Refusal := ok (s.dev.hostDown (linkNum l) 0).flow s

/-- HOST_HOT_RESET. -/
def execHostHotReset (l : Link) (s : State) : Host.Outcome State Fault Refusal := ok (s.dev.hostDown (linkNum l) 1).flow s

/-- What a partner may bring a link up with: a width and rate the link has, 256-byte flits at 64 GT/s alone, an MLD switch port
only with CXL (R245, R246, R248). -/
def Dev.mayTrain (d : Dev) (l : Nat) (cxl flit256 mld : Bool) (width rate : Nat) : Bool :=
  (d.boot = .running || d.boot = .firmware) && (d.power.st = .p0 || d.power.st = .p1) && !(d.port (linkPort l)).perst && width ≠ 0 && width ≤ (widthOf (d.linkSize l) (d.laneGood l)).1 &&
  [1, 2, 4, 8, 16].contains width && 1 ≤ rate && rate ≤ 6 && flit256 = (cxl && rate = 6) && (cxl || !mld)

/-- HOST_LINK_UP: the link trains (R279), or has trained anew while up; a retraining to 68-byte flits loses its LDs' sharer slots
(R254). -/
def Dev.hostUp (d : Dev) (l : Nat) (cxl flit256 mld : Bool) (width : Nat) (rate : BitVec 8) (ndr drs bisnp : Nat) : Dev :=
  if !d.mayTrain l cxl flit256 mld width rate.toNat then d
  else
    let x := d.link l
    let n := d.linkSize l
    let (best, _) := widthOf n (d.laneGood l)
    let rev := !(List.range width).all (d.laneGood l)
    let lanes : BitVec 16 := if width = best then BitVec.ofNat 16 (2 ^ n - 1)
      else if rev then BitVec.ofNat 16 ((2 ^ width - 1) * 2 ^ (n - width)) else BitVec.ofNat 16 (2 ^ width - 1)
    let up := x.st = .up || x.st = .l1
    let y := { x with
      st := .up, cxl := cxl, flit256 := flit256, mld := mld, width := width, rate := rate, reversed := rev, lanes := lanes
      ndr := if up then x.ndr else ndr, drs := if up then x.drs else drs, bisnp := if up then x.bisnp else bisnp }
    let d := d.setLink l y
    let d := if up && x.flit256 && !flit256 then each (d.linkLds l) d fun d ld => (d.loseLd ld 0).dropForeign ld else d
    d.flush l

def execHostLinkUp (l : Link) (cxl flit256 mld : Bool) (width : Nat) (rate : BitVec 8) (ndr drs bisnp : Nat) (s : State) :
    Host.Outcome State Fault Refusal :=
  ok (s.dev.hostUp (linkNum l) cxl flit256 mld width rate ndr drs bisnp).flow s

/-- HOST_LINK_ERROR: logged in AER; a correctable one is counted (R273, R388, R391). -/
def Dev.hostLinkError (d : Dev) (l : Nat) (correctable : Bool) (n : Nat) : Dev :=
  if (d.link l).st = .down then d
  else if correctable then
    let d := d.modLink l fun x => { x with aerCor := x.aerCor ||| BitVec.ofNat 32 (2 ^ n) }
    d.faultEvent (srcHostLink l) n (d.link l).aerCor.toNat
  else d.modLink l fun x => { x with aerUnc := x.aerUnc ||| BitVec.ofNat 32 (2 ^ n) }

def execHostLinkError (l : Link) (correctable : Bool) (bit : BitVec 5) (s : State) : Host.Outcome State Fault Refusal :=
  ok (s.dev.hostLinkError (linkNum l) correctable bit.toNat) s

/-- S2M_CREDIT_RETURN (R256). -/
def Dev.creditReturn (d : Dev) (l ndr drs bisnp : Nat) : Dev :=
  if (d.link l).st = .down then d
  else (d.modLink l fun x => { x with ndr := x.ndr + ndr, drs := x.drs + drs, bisnp := x.bisnp + bisnp }).flush l

def execS2mCreditReturn (l : Link) (ndr drs bisnp : Nat) (s : State) : Host.Outcome State Fault Refusal :=
  ok (s.dev.creditReturn (linkNum l) ndr drs bisnp) s

/-! ### Width resets (R291, R292, R294) -/

/-- A width reset of a link is due at the next boundary (R291). -/
def Dev.wantWidth (d : Dev) (l : Nat) : Dev :=
  if (d.link l).st = .down then d else d.modLink l fun x => { x with widthDue := true }

/-- At the boundary: the width resets due start. -/
def Dev.startWidths (d : Dev) : Dev :=
  each [0, 1, 2, 3] d fun d l =>
    if (d.link l).widthDue then (d.modLink l fun x => { x with widthDue := false, widthReset := some 0 }).checkScan else d

/-- A lane of a host port is a permanent lane fault (R291); one that fails during a width reset restarts it, and the third restart
takes the link down (R294). -/
def Dev.loseHostLane (d : Dev) (p lane : Nat) : Dev :=
  let d := d.modPort p fun x => { x with retired := x.retired ||| BitVec.ofNat 16 (2 ^ lane) }
  let l := d.laneLink p lane
  match (d.link l).widthReset with
  | some n => if n + 1 < 3 then d.modLink l fun x => { x with widthReset := some (n + 1) } else d.hostDown l 0
  | none => d.wantWidth l

/-- HOST_WIDTH_RESET_DONE: the link resumes at its new width, with every LD's CDAT bandwidth updated; width 0 takes it down
(R282, R292, R401). -/
def Dev.hostWidthDone (d : Dev) (l : Nat) : Dev :=
  let x := d.link l
  if x.widthReset.isNone then d
  else
    let (w, rev) := widthOf (d.linkSize l) fun i => d.laneGood l i && x.lanes.getLsbD i
    if w = 0 then d.hostDown l 0
    else
      let d := d.setLink l { x with widthReset := none, width := w, reversed := rev }
      let d := if w = x.width then d else each (d.linkLds l) d Dev.cdat
      d.flush l

def execHostWidthResetDone (l : Link) (s : State) : Host.Outcome State Fault Refusal := ok (s.dev.hostWidthDone (linkNum l)).flow s

/-! ### Viral and IDE (R262, R263) -/

/-- At the boundary: viral takes effect, and the sharer slots of the link's LDs are gone (R262). -/
def Dev.viralBoundary (d : Dev) : Dev :=
  each [0, 1, 2, 3] d fun d l =>
    if !(d.link l).viralDue then d
    else
      let d := d.modLink l fun x => { x with viral := true, viralDue := false, snoops := [] }
      each (d.linkLds l) d fun d ld => (d.loseLd ld 0).dropForeign ld

/-- The SPDM session over which IDE_KM programs a link's streams (R263): of the DOE of the link's first LD, or of the fabric manager
for an MLD link (R251). -/
def Dev.ideSession (d : Dev) (l : Nat) : Option (BitVec 32) :=
  if (d.link l).mld then d.host.mcSession else (d.linkLds l)[0]?.bind fun ld => (d.ld ld).session

/-- IDE_KM_KEY_PROGRAMMING (R263). -/
def Dev.ideKm (d : Dev) (l : Nat) (io containment : Bool) (key : BitVec 256) : Dev :=
  if (d.link l).st = .down || (d.ideSession l).isNone then d
  else if io then d.modLink l fun x => { x with ideIo := .secure, ideKeys := (key, x.ideKeys.2) }
  else d.modLink l fun x => { x with ideMem := if containment then .containment else .skid, ideKeys := (x.ideKeys.1, key) }

def execIdeKmKeyProgramming (l : Link) (cxlIo containment : Bool) (key : BitVec 256) (s : State) : Host.Outcome State Fault Refusal :=
  ok (s.dev.ideKm (linkNum l) cxlIo containment key) s

/-- The AER uncorrectable internal error bit (log 8). -/
def aerInternal : BitVec 32 := BitVec.ofNat 32 (2 ^ 22)

/-- IDE_INTEGRITY_FAILURE: on CXL.io the stream is Insecure, with AER; on CXL.cachemem the link enters viral; either is a security
alarm of source 0903h (R262, R263, R388, R391). -/
def Dev.ideFail (d : Dev) (l : Nat) (io : Bool) : Dev :=
  let x := d.link l
  let on := if io then x.ideIo = .secure else x.ideMem = .skid || x.ideMem = .containment
  if x.st = .down || !on then d
  else
    let d := if io then d.setLink l { x with ideIo := .insecure, aerUnc := x.aerUnc ||| aerInternal }
      else (d.setLink l { x with ideMem := .failed }).enterViral l
    d.alarm 0x903 5 0 0 15 []

def execIdeIntegrityFailure (l : Link) (cxlIo : Bool) (s : State) : Host.Outcome State Fault Refusal :=
  ok (s.dev.ideFail (linkNum l) cxlIo) s

/-! ### Decoders, back-invalidate, MSI-X -/

/-- HDM_DECODER_COMMIT: refused where the DPA range crosses a DC region boundary or leaves the 16 TiB space (R252). -/
def Dev.commitDecoder (d : Dev) (ld n : Nat) (k : Decoder) : Dev :=
  let tib2 := 2 ^ 41
  if k.legal && (d.ldLink ld).isSome && k.dpaBase + k.span ≤ 8 * tib2 && k.dpaBase / tib2 = (k.dpaBase + k.span - 1) / tib2 then
    d.modLd ld fun x => { x with hdm := x.hdm.put n k }
  else d

def execHdmDecoderCommit (ld : Fin 32) (n : Fin 4) (dec : Decoder) (s : State) : Host.Outcome State Fault Refusal :=
  ok (s.dev.commitDecoder ld.val n.val dec) s

/-- BI_ENABLE_WRITE: setting it gives the LDs of an MLD link their BI-IDs (log 8); clearing it loses the sharer slots of the
link's LDs (R254). -/
def Dev.biWrite (d : Dev) (l : Nat) (enable : Bool) : Dev :=
  let was := (d.link l).bi
  let d := d.modLink l fun x => { x with bi := enable }
  each (d.linkLds l) d fun d ld =>
    if enable then d.modLd ld fun x => { x with biId := (d.link l).mld }
    else if was then (d.loseLd ld 0).dropForeign ld else d

def execBiEnableWrite (l : Link) (enable : Bool) (s : State) : Host.Outcome State Fault Refusal :=
  ok (s.dev.biWrite (linkNum l) enable).flow s

/-- MSIX_VECTOR_UNMASK: one message where its pending bit is set (R413). -/
def Dev.unmask (d : Dev) (ld v : Nat) : Dev :=
  let x := d.vec ld v
  let d := d.setVec ld v { x with masked := false, pending := x.pending && d.vecsDead ld }
  if x.masked && x.pending && !d.vecsDead ld then d.msix ld v else d

def execMsixVectorUnmask (ld : Fin 32) (vec : Fin 8) (s : State) : Host.Outcome State Fault Refusal := ok (s.dev.unmask ld.val vec.val).settle s

end Sys2Proof.Machine
end

