-- ==== Sys2Proof/Machine/Cdat.lean ====
section
/-! DEFINITION. CDAT over the DOE (spec/09 R249, R265, R266). -/

namespace Sys2Proof.Machine

open Sys2Proof

/-! ### Figures -/

/-- Rates of R288's codes, in tenths of a GT/s. -/
def rateTenths (code : Nat) : Nat := match code with | 1 => 25 | 2 => 50 | 3 => 80 | 4 => 160 | 5 => 320 | 6 => 640 | 7 => 1280 | _ => 0

/-- Read bandwidth of a host link in MB/s: 100 GB/s at x16 and 64 GT/s, 52 GB/s at 32 GT/s, in proportion to the width, and below
32 GT/s to the rate (R249). -/
def linkBandwidth (width rate : Nat) : Nat :=
  (if rate = 6 then 100000 else 52000 * rateTenths rate / 320) * width / 16

/-- Two flit times of a link in ns, which containment mode adds to a read's bound (R263). -/
def containmentNs (width rate : Nat) (flit256 : Bool) : Nat :=
  ceilDiv (2 * (if flit256 then 256 else 68) * 8 * 10) (max 1 (rateTenths rate * width))

/-- Read and write latency in ns of an extent, before the links of its route (R266). -/
def Dev.baseLatency (d : Dev) (r : Region) : Nat × Nat :=
  if r.kind = .shared then (600, 600)
  else if r.kind = .firm && !r.knotted then
    let add := match d.ldLink r.ld with
      | some l => let x := d.link l; if x.ideMem = .containment then containmentNs x.width x.rate.toNat x.flit256 else 0
      | none => 0
    ((if r.reflected then 500 else if d.hitch.window.isNone then 1000 else 1250) + add, 250)
  else if r.kind = .elastic && 16 < d.setting idRatioFloor (r.ld * 16 + r.entry) then (480, 250)
  else if r.prot = .sealed then (360, 250)
  else (320, 250)

/-- Latencies of an extent with the links of its route (R266). -/
def Dev.extLatency (d : Dev) (r : Region) (dev : Nat) : Nat × Nat :=
  let c := (d.routeCost dev).getD 0
  ((d.baseLatency r).1 + c, (d.baseLatency r).2 + c)

/-! ### Entries (R265). An entry is its type (0 DSMAS, 1 DSLBIS, 4 DSEMTS), the handle of its DSMAS, and its fields -/

/-- DSMAS: flags (bit 2 non-volatile, bit 3 shareable), base and length in DPA; its DSEMTS of type EFI_MEMORY_SP; its four DSLBIS:
data type 1 read latency, 2 write latency (ns), 4 read bandwidth, 5 write bandwidth (MB/s). -/
def cdatSet (handle : Nat) (shareable : Bool) (base len : Nat) (lat : Nat × Nat) (bw : Nat) : List (List Nat) :=
  [[0, handle, 8 * flag shareable, base, len], [4, handle, 1, base, len], [1, handle, 1, lat.1], [1, handle, 2, lat.2],
   [1, handle, 4, bw], [1, handle, 5, bw]]

/-- An LD's CDAT: its header with the sequence number, its regions, then its extents. The spec states no latency for a region's
own entries: a free value (log 11). -/
def Dev.cdatTable (d : Dev) (ld : Nat) (free : Nat) : List (List Nat) :=
  let x := d.ld ld
  let bw := match d.ldLink ld with | some l => linkBandwidth (d.link l).width (d.link l).rate.toNat | none => 0
  let regions := (List.range 8).flatMap fun n => cdatSet n (6 ≤ n) (n * 2 ^ 41) (2 ^ 41) (free, free) bw
  let held := x.exts.filter fun e => e.st = .held || e.st = .releasing
  let exts := held.zipIdx.flatMap fun (e, i) =>
    match d.regionAt ld (e.start * mib2) with
    | some r => cdatSet (8 + i) (r.kind = .shared) (e.start * mib2) (e.len * mib2) (d.extLatency r e.dev) bw
    | none => []
  [[x.cdatSeq.toNat]] ++ regions ++ exts

/-- DOE_CDAT_READ: one entry of the table, by its number, behind the number of the next (FFFFh: none). Reading the header clears
Table Changed (log 8). -/
def Dev.cdatRead (d : Dev) (ld entry : Nat) : Dev :=
  if (d.ldLink ld).isNone then d
  else
    let (f, d) := d.free 16
    let t := d.cdatTable ld f.toNat
    match t[entry]? with
    | none => d
    | some e =>
      let d := if entry = 0 then d.modLd ld fun x => { x with cdatChanged := false } else d
      d.say (.cdat ((if entry + 1 < t.length then entry + 1 else 65535) :: e))

def execDoeCdatRead (ld : Fin 32) (entry : Nat) (s : State) : Host.Outcome State Fault Refusal := ok (s.dev.cdatRead ld.val entry) s

end Sys2Proof.Machine
end

