-- ==== Sys2Proof/Machine/Events.lean ====
section
/-! DEFINITION. Interrupts, event records and counters (spec/15) with COUNT.READ, COUNT.WATCH, FAULT.READ and FAULT.PIN (spec/13
R374 to R377), the event commands of R333, and what of them takes place at a boundary. -/

namespace Sys2Proof.Machine

open Sys2Proof

/-! ### The interrupt controller (R408 to R412) -/

/-- INTERRUPT_DOORBELL: a unit writes a source number; none writes 391h to 3FFh (R408, R409). -/
def Dev.doorbellWrite (d : Dev) (n : Nat) : Dev := if n ≤ 0x390 then d.doorbell n else d

def execInterruptDoorbell (source : BitVec 10) (s : State) : Host.Outcome State Fault Refusal := ok (s.dev.doorbellWrite source.toNat) s

/-- INTERRUPT_ACKNOWLEDGE: the core that holds a source acknowledges it; its firmware has read a fault source's last-error register
(R390, R409). The events that the acknowledgement covers count toward no further delivery (log 15). -/
def Dev.acknowledge (d : Dev) (core n : Nat) : Dev :=
  let s := d.ev.ints.val n {}
  if s.holder ≠ some core then d
  else
    let d := match doorbellSource n with | some f => d.readLastError f | none => d
    { d with ev.ints := d.ev.ints.put n { s with pending := 0, saturated := false, holder := none, count := 0, first := none } }

def execInterruptAcknowledge (core : Fin 16) (source : Nat) (s : State) : Host.Outcome State Fault Refusal :=
  ok (s.dev.acknowledge core.val source) s

/-- COALESCE_TIME_EXPIRY: Tm boundaries have passed since the first event since the last delivery (R412, R413). -/
def Dev.coalesceTime (d : Dev) (w : Coalesced) : Dev :=
  match w with
  | .source n =>
    let s := d.ev.ints.val n {}
    if s.holder.isNone && dueTime s.tm d.clk.bnd s.first then (d.deliver n).settle else d
  | .vector ld v =>
    let x := d.vec ld.val v.val
    if dueTime (d.setting idMsixTime (ld.val * 8 + v.val)) d.clk.bnd x.first && !d.vecsDead ld.val then (d.fireVec ld.val v.val).settle else d

def execCoalesceTimeExpiry (what : Coalesced) (s : State) : Host.Outcome State Fault Refusal := ok (s.dev.coalesceTime what) s

/-- At the boundary: a source held by a core that was retired goes to another; a pin in level mode that is low is pending
(R409, R411). -/
def Dev.intBoundary (d : Dev) : Dev :=
  let d := each d.ev.ints d fun d (n, s) =>
    match s.holder with
    | some c => if (d.core c).st = .retired then { d with ev.ints := d.ev.ints.put n { s with holder := none } }.deliver n else d
    | none => d
  let d := each (List.range 24) d fun d p =>
    if d.setting idPinSense p = 0 && !(d.ev.pins.val p {}).high && (d.ev.ints.val (1024 + p) {}).pending = 0 then d.ring (1024 + p) else d
  d.settle

/-- The 24 pins as they stand now (R410). -/
def Dev.pin (d : Dev) (p : Nat) : Pin := d.ev.pins.val p {}

/-- A pin has taken a new filtered level (R411): its last edge, and one event where its sense chooses the edge, or the low level. -/
def Dev.pinEdge (d : Dev) (p : Nat) (high : Bool) : Dev :=
  if (d.pin p).high = high then d
  else
    let d := { d with ev.pins := d.ev.pins.put p { high := high, edge := d.clk.beat } }
    let on := match d.setting idPinSense p with | 0 => !high | 1 => high | 2 => !high | _ => true
    if on then d.doorbell (1024 + p) else d

/-! ### Records (R404, R406, R414; log 8) -/

/-- The UUID of the vendor records (R404), and the standard ones of General Media and dynamic capacity (log 8). -/
def uuidVendor : Nat := 0x6f3a9c215d0e4b87a2c41e9b70d85f36
def uuidMedia : Nat := 0xfbcd0a77c260417f85a9088b1621eba6
def uuidDc : Nat := 0xca95afa7f18340188c2f95268e101a2a

/-- Sixteen bytes of a UUID as printed. -/
def uuidBytes (u : Nat) : List Byte := (leBytes 16 u).reverse

/-- Timestamp of a beat: the host's timestamp and the beats since it was set, in ns (R333; log 8). -/
def Dev.stampOf (d : Dev) (b : Beat) : Nat :=
  if d.host.timestamp = 0 then 0
  else d.host.timestamp.toNat + 250 * (d.clk.bnd - (d.clk.beat - b).toNat - d.host.timestampAt)

/-- The 80 record-specific bytes, 30h to 7Fh (R404, R414). -/
def Rec.body (r : Rec) : List Byte :=
  match r.dc with
  | some (rel, more, exts, tag) =>
    let ext (e : Nat × Nat) : List Byte := leBytes 8 (e.1 * 2097152) ++ leBytes 8 (e.2 * 2097152) ++ leBytes 2 tag.toNat ++ zeros 22
    let l := [BitVec.ofNat 8 (if rel then 3 else 0), 0, 0, 0, 0, BitVec.ofNat 8 (flag more), 0, 0] ++ exts.flatMap ext
    l ++ zeros (80 - l.length)
  | none =>
    if r.gm then leBytes 8 r.detail.toNat ++ [0, 0, BitVec.ofNat 8 (if bit r.detail.toNat 64 then 1 else 2)] ++ zeros 69
    else
      leBytes 2 r.type.toNat ++ leBytes 2 r.source.toNat ++ [r.cls, r.reaction, r.flags, BitVec.ofNat 8 (r.ld.getD 255)] ++
        leBytes 6 r.beat.toNat ++ zeros 2 ++ leBytes 16 r.detail.toNat ++ leBytes 4 r.window.toNat ++ zeros 44

/-- A record as an event log returns it, with its handle. -/
def Dev.recordBytes (d : Dev) (handle : Nat) (r : Rec) : List Byte :=
  let u := if r.dc.isSome then uuidDc else if r.gm then uuidMedia else uuidVendor
  let body := r.body
  uuidBytes u ++ [BitVec.ofNat 8 (48 + body.length)] ++ leBytes 3 (logNum r.log) ++ leBytes 2 handle ++ zeros 2 ++
    leBytes 8 (d.stampOf r.beat) ++ zeros 16 ++ body

def Ld.log (x : Ld) (k : LogKind) : Log := x.logs.val (logNum k) {}

/-- One record reaches a log of an LD: stored while the log holds fewer than 128, with one event of the log's vector where its
interrupt is MSI-X; otherwise its overflow is noted (R272, R413, R414). -/
def Dev.logRecord (d : Dev) (ld : Nat) (r : Rec) : Dev :=
  let g := (d.ld ld).log r.log
  if g.recs.length < 128 then
    let g := { g with recs := g.recs ++ [(g.next, r)], next := g.next % 65535 + 1 }
    let d := d.modLd ld fun x => { x with logs := x.logs.put (logNum r.log) g }
    if (d.ld ld).evtMsix.contains r.log then d.vecEvent ld (1 + logNum r.log) else d
  else d.modLd ld fun x => { x with logs := x.logs.put (logNum r.log) { g with lost := g.lost + 1 } }

/-- RECORD_DELIVERY: the oldest record goes to the logs it names, and to the management controller where its policy takes the log
(R333, R406). -/
def Dev.deliverRecord (d : Dev) : Dev :=
  match d.ev.recQ with
  | [] => d
  | r :: t =>
    let d := { d with ev.recQ := t }
    let lds := if r.mcOnly then [] else match r.ld with | some ld => [ld] | none => List.range 32
    let d := each lds d fun d ld => d.logRecord ld r
    (if d.host.mctpPolicy.getLsbD (logNum r.log) then d.say (.mctp r) else d).settle

def execRecordDelivery (s : State) : Host.Outcome State Fault Refusal := ok s.dev.deliverRecord s

/-! ### Counters (R416 to R425) -/

/-- The 64-bit word of a counter: value, and its invalid flag (R374, R419). -/
def Dev.ctrWord (d : Dev) (i : Nat) : Nat := (d.ev.ctr.val i 0).toNat + 2 ^ 63 * flag (d.ev.invalid.has i)

/-- A counter as a reader sees it: of an LD (its device-scope events read 0 without DevScopeRead), or in device scope, where an
LD-scope event is the sum over all LDs and the increments no LD counted (R416, R489). `dev`: device-scope values are permitted. -/
def Dev.readCtr (d : Dev) (ld : Option Nat) (dev : Bool) (e : Nat) : Nat :=
  if !eventAssigned e then 0
  else if 256 ≤ e then (if dev then d.ctrWord (ctrDev e) else 0)
  else match ld with
    | some ld => d.ctrWord (ctrLd ld e)
    | none =>
      if !dev then 0
      else
        let sum := (List.range 33).foldl (fun n l => n + (d.ev.ctr.val (ctrLd l e) 0).toNat) 0
        sum % 2 ^ 48 + 2 ^ 63 * flag ((List.range 33).any fun l => d.ev.invalid.has (ctrLd l e))

/-- DevScopeRead of an LD; always for the management controller where it names none. -/
def Dev.devScope (d : Dev) (ld : Option Nat) : Bool := match ld with | some l => d.setting idDevScopeRead l = 1 | none => true

/-- COUNT.READ (R374). -/
def Dev.countRead (d : Dev) (iss : Issuer) (inp : List Byte) : Dev :=
  let first := field inp 0 2
  let n := field inp 2 2
  let scope := field inp 4 1
  if inp.length ≠ 8 then d.badLength iss
  else if 1 < scope || !rsvd inp 5 3 || 1536 < first + n || (d.mbox (issuerBox iss)).respLimit < 8 + 8 * n ||
      (scope = 0 && (issuerLd iss).isNone) then d.refuse iss .invalidInput 8
  else if n = 0 then d.reply iss .success (zeros 6) true
  else
    let ask : CountAsk := { box := issuerBox iss, counts := issuerCounts iss, first := first, number := n,
                            ld := if scope = 0 then issuerLd iss else none
                            dev := d.devScope (issuerLd iss) }
    { d with host.asks := d.host.asks ++ [ask] }

def execCountRead (iss : Issuer) (inp : List Byte) (s : State) : Host.Outcome State Fault Refusal :=
  ok (s.dev.command iss 0xC300 fun d => d.countRead iss inp) s

/-- At the boundary: the COUNT.READs that wait are answered with values of one instant (R374). -/
def Dev.answerCounts (d : Dev) : Dev :=
  let d0 := d
  each d.host.asks { d with host.asks := [] } fun d a =>
    let words := (List.range a.number).flatMap fun k => leBytes 8 (d0.readCtr a.ld a.dev (a.first + k))
    d.finish a.box a.counts 0 .success (leBytes 2 0 ++ leBytes 6 d0.clk.beat.toNat ++ words)

/-- COUNT.WATCH (R375, R423). The programming takes effect at the next boundary; a watch disabled is free at once. -/
def Dev.countWatch (d : Dev) (iss : Issuer) (inp : List Byte) : Dev :=
  let w := field inp 0 1
  let ctl := field inp 1 1
  let e := field inp 2 2
  let owner := match iss with | .host ld _ => ld.val | .mc _ => 32
  let on := bit ctl 0
  let other := match d.ev.progs.look w, d.ev.watches.look w with
    | some x, _ => x.owner ≠ owner
    | none, some x => x.owner ≠ owner
    | none, none => false
  if inp.length ≠ 16 then d.badLength iss
  else if 31 < w || 3 < ctl || 1535 < e || !rsvd inp 4 4 || !rsvd inp 14 2 || (on && !eventAssigned e) ||
      (on && 256 ≤ e && owner < 32 && d.setting idDevScopeRead owner = 0) then d.refuse iss .invalidInput 8
  else if other && owner < 32 then d.refuse iss .busy 8
  else
    let preset := BitVec.ofNat 48 (field inp 8 6)
    let x : Watch := { owner := owner, event := e, signal := bit ctl 1, preset := preset, value := preset }
    let d := if on then { d with ev.progs := d.ev.progs.put w x }
      else { d with ev.progs := d.ev.progs.del w, ev.watches := d.ev.watches.del w }
    d.reply iss .success (zeros 6)

def execCountWatch (iss : Issuer) (inp : List Byte) (s : State) : Host.Outcome State Fault Refusal :=
  ok (s.dev.command iss 0xC301 fun d => d.countWatch iss inp) s

/-- COUNTER_STORE_ERROR: an uncorrectable word of the counter store, which is source 030Dh (R196, R424, R425). A counter reads all
ones and restarts at the next boundary; a snapshot word reads all ones until the next snapshot; a watch reloads Preset. -/
def Dev.counterError (d : Dev) (w : CtrWord) : Dev :=
  let (d, word) := match w with
    | .live i => (if d.ev.dead.contains i then d
        else { d with ev.ctr := d.ev.ctr.put i (BitVec.allOnes 48), ev.invalid := d.ev.invalid.put i d.clk.bnd, ev.dead := d.ev.dead ++ [i] }, i)
    | .snap ld e =>
      (d.modLd ld.val fun x => { x with snap := { x.snap with vals := x.snap.vals.put e (BitVec.allOnes 48, true) } }, e)
    | .watch k => (match d.ev.watches.look k.val with
        | some x => { d with ev.watches := d.ev.watches.put k.val { x with value := x.preset, invalid := true } }
        | none => d, k.val)
  d.faultEvent 0x30D 2 (word % 2 ^ 32 + 0xFF * 2 ^ 32)

def execCounterStoreError (where_ : CtrWord) (s : State) : Host.Outcome State Fault Refusal := ok (s.dev.counterError where_) s

/-- COUNTER_INVALID_CLEAR: the flag clears 4,096 boundaries after the restart, which is the boundary after the error (R425). -/
def Dev.clearInvalid (d : Dev) (i : Nat) : Dev :=
  match d.ev.invalid.look i with
  | some b => if b + 1 + 4096 ≤ d.clk.bnd then { d with ev.invalid := d.ev.invalid.del i } else d
  | none => d

def execCounterInvalidClear (ctr : Nat) (s : State) : Host.Outcome State Fault Refusal := ok (s.dev.clearInvalid ctr) s

/-- At the boundary: counters hit in the last beat restart from 0, each counted (R196, R425). -/
def Dev.restartCounters (d : Dev) : Dev :=
  let dead := d.ev.dead
  let d := { d with ev.dead := [] }
  let d := each dead d fun d i => { d with ev.ctr := d.ev.ctr.put i 0 }
  d.bump 0x166 dead.length

/-- At the boundary: the watches programmed in the last beat load (R375). -/
def Dev.loadWatches (d : Dev) : Dev :=
  { each d.ev.progs d fun d (k, w) => { d with ev.watches := d.ev.watches.put k w } with ev.progs := [] }

/-! ### Snapshots (R421, R422) -/

/-- SNAP_DOORBELL: requested while CounterMode is Snapshot; ignored while it is Live. -/
def Dev.snapAsk (d : Dev) (ld : Nat) : Dev :=
  if d.setting idCounterMode ld = 1 then d.modLd ld fun x => { x with snap := { x.snap with asked := true } } else d

def execSnapDoorbell (ld : Fin 32) (s : State) : Host.Outcome State Fault Refusal := ok (s.dev.snapAsk ld.val) s

/-- The counters a snapshot of an LD captures: its own, and those of device scope, by event number. -/
def Dev.capture (d : Dev) (ld : Nat) : Tab (BitVec 48 × Bool) :=
  d.ev.ctr.filterMap fun (i, v) =>
    match ctrEvent i with
    | (e, some l) => if l = ld then some (e, v, d.ev.invalid.has i) else none
    | (e, none) => some (e, v, d.ev.invalid.has i)

/-- Step 1 of a boundary (R46, R421): the snapshots requested are captured and written, SnapSeq odd meanwhile and even again, with
Ready, doorbell 390h and one event of vector 7. -/
def Dev.snapshots (d : Dev) : Dev :=
  let d0 := d
  let lds := (List.range 32).filter fun ld => (d.ld ld).snap.asked
  let d := each lds d fun d ld => d.modLd ld fun x =>
    { x with snap := { seq := x.snap.seq + 2, beat := d0.clk.beat, vals := d0.capture ld, ready := true, asked := false } }
  each lds d fun d ld => ((d.ring 0x390).vecEvent ld 7).settle

/-- SNAP_READY_CLEAR: RW1C (R422). -/
def execSnapReadyClear (ld : Fin 32) (s : State) : Host.Outcome State Fault Refusal :=
  ok (s.dev.modLd ld.val fun x => { x with snap := { x.snap with ready := false } }) s

/-- WATCH_OVF_CLEAR: RW1C, the bits of the LD's own watches (R422). -/
def Dev.clearWatchOvf (d : Dev) (ld : Nat) (bits : BitVec 32) : Dev :=
  let mine := (d.ev.watches.filter fun e => e.2.owner = ld && bits.getLsbD e.1).foldl (fun n e => n ||| 2 ^ e.1) 0
  { d with ev.watchOvf := d.ev.watchOvf &&& ~~~(BitVec.ofNat 32 mine) }

def execWatchOvfClear (ld : Fin 32) (bits : BitVec 32) (s : State) : Host.Outcome State Fault Refusal := ok (s.dev.clearWatchOvf ld.val bits) s

/-! ### FAULT.READ and FAULT.PIN (R376, R377, R389, R390, R402) -/

/-- The 32 bytes of a last-error register (R390). -/
def LastErr.bytes (x : LastErr) : List Byte :=
  [x.code, BitVec.ofNat 8 (flag x.valid + 2 * flag x.overrun + 4 * flag x.hard)] ++ leBytes 2 x.since ++ leBytes 6 x.beat.toNat ++
    [x.label, x.requester] ++ zeros 4 ++ leBytes 16 x.detail.toNat

/-- FAULT.READ. Its LastError is a copy: the register's Since and Overrun stay (R376, R390). -/
def Dev.faultRead (d : Dev) (iss : Issuer) (inp : List Byte) : Dev :=
  let n := field inp 0 2
  let f := field inp 2 1
  if inp.length ≠ 8 then d.badLength iss
  else if (sourceClass n).isNone || 1 < f || !rsvd inp 3 5 || (f = 1 && !issuerMc iss) then d.refuse iss .invalidInput 48
  else
    let x := d.source n
    let out := [BitVec.ofNat 8 (flag x.sticky + 2 * flag x.severe + 4 * flag x.retired), 0] ++ leBytes 4 x.count ++
      leBytes 6 x.stickyBeat.toNat ++ zeros 2 ++ x.last.bytes
    let d := if f = 1 then d.modSource n fun x => { x with sticky := false, severe := false } else d
    d.reply iss .success out

def execFaultRead (iss : Issuer) (inp : List Byte) (s : State) : Host.Outcome State Fault Refusal :=
  ok (s.dev.command iss 0xC400 fun d => d.faultRead iss inp) s

/-- FAULT_N takes a level; after a thermal trip, and in recovery, it stays low whatever Hold holds (R465, R481). -/
def Dev.faultN (d : Dev) (drive : Bool) : Dev :=
  let low := drive || d.power.thermtrip || d.boot = .recovery
  if d.fault.low = low then d else { d with fault.low := low }.say (.pin "FAULT_N" !low)

/-- FAULT.PIN: Hold, at once where no pulse runs. -/
def Dev.faultPin (d : Dev) (iss : Issuer) (inp : List Byte) : Dev :=
  let v := field inp 0 1
  if inp.length ≠ 8 then d.badLength iss
  else if !issuerMc iss || 1 < v || !rsvd inp 1 7 then d.refuse iss .invalidInput 8
  else
    let d := { d with fault.hold := v = 1 }
    (if d.fault.pulse then d else d.faultN (v = 1)).reply iss .success (zeros 6)

def execFaultPin (iss : Issuer) (inp : List Byte) (s : State) : Host.Outcome State Fault Refusal :=
  ok (s.dev.command iss 0xC401 fun d => d.faultPin iss inp) s

/-! ### Event commands (R333 0100h to 0106h; log 8) -/

/-- An event command about an LD: refused where it names none. -/
def Dev.aboutLd (d : Dev) (iss : Issuer) (f : Nat → Dev) : Dev :=
  match issuerLd iss with
  | some ld => f ld
  | none => d.answerStd iss .invalidInput []

/-- Get Event Records: of one log, as many as the response limit holds. -/
def Dev.getRecords (d : Dev) (iss : Issuer) (inp : List Byte) : Dev :=
  if inp.length ≠ 1 then d.answerStd iss .invalidLength []
  else d.aboutLd iss fun ld =>
    match logOf (field inp 0 1) with
    | none => d.answerStd iss .invalidInput []
    | some k =>
      let g := (d.ld ld).log k
      let n := min g.recs.length (((d.mbox (issuerBox iss)).respLimit - 32) / 128)
      let out := [BitVec.ofNat 8 (flag (g.lost ≠ 0) + 2 * flag (n < g.recs.length)), 0] ++ leBytes 2 (min 65535 g.lost) ++ zeros 16 ++
        leBytes 2 n ++ zeros 10 ++ (g.recs.take n).flatMap fun e => d.recordBytes e.1 e.2
      d.answerStd iss .success out

def execGetEventRecords (iss : Issuer) (inp : List Byte) (s : State) : Host.Outcome State Fault Refusal :=
  ok (s.dev.command iss 0x100 fun d => d.getRecords iss inp) s

/-- Clear Event Records: every record of a log, or those of the handles given. -/
def Dev.clearRecords (d : Dev) (iss : Issuer) (inp : List Byte) : Dev :=
  let n := field inp 2 1
  if inp.length < 6 || inp.length ≠ 6 + 2 * n then d.answerStd iss .invalidLength []
  else d.aboutLd iss fun ld =>
    match logOf (field inp 0 1) with
    | none => d.answerStd iss .invalidInput []
    | some k =>
      let g := (d.ld ld).log k
      if 1 < field inp 1 1 || !rsvd inp 3 3 then d.answerStd iss .invalidInput [] else
      let put (g : Log) : Dev := (d.modLd ld fun x => { x with logs := x.logs.put (logNum k) g }).answerStd iss .success []
      if bit (field inp 1 1) 0 then put { g with recs := [], lost := 0 }
      else
        let hs := (List.range n).map fun i => field inp (6 + 2 * i) 2
        if hs.all fun h => g.recs.any (·.1 = h) then put { g with recs := g.recs.filter fun e => !hs.contains e.1, lost := 0 }
        else d.answerStd iss .invalidHandle []

def execClearEventRecords (iss : Issuer) (inp : List Byte) (s : State) : Host.Outcome State Fault Refusal :=
  ok (s.dev.command iss 0x101 fun d => d.clearRecords iss inp) s

/-- Get Event Interrupt Policy: per log, 1 for MSI-X with its vector, else 0 (R272). -/
def Dev.getPolicy (d : Dev) (iss : Issuer) (inp : List Byte) : Dev :=
  if inp ≠ [] then d.answerStd iss .invalidLength []
  else d.aboutLd iss fun ld =>
    let one (k : LogKind) : Byte := if (d.ld ld).evtMsix.contains k then BitVec.ofNat 8 (1 + 16 * (1 + logNum k)) else 0
    d.answerStd iss .success ([LogKind.info, .warning, .failure, .fatal, .dc].map one)

def execGetEventInterruptPolicy (iss : Issuer) (inp : List Byte) (s : State) : Host.Outcome State Fault Refusal :=
  ok (s.dev.command iss 0x102 fun d => d.getPolicy iss inp) s

/-- Set Event Interrupt Policy: MSI-X or none for each log (R272). -/
def Dev.setPolicy (d : Dev) (iss : Issuer) (inp : List Byte) : Dev :=
  if inp.length ≠ 5 then d.answerStd iss .invalidLength []
  else d.aboutLd iss fun ld =>
    if inp.any fun b => 1 < b.toNat % 16 then d.answerStd iss .invalidInput []
    else
      let on := [LogKind.info, .warning, .failure, .fatal, .dc].filter fun k => field inp (logNum k) 1 % 4 = 1
      (d.modLd ld fun x => { x with evtMsix := on }).answerStd iss .success []

def execSetEventInterruptPolicy (iss : Issuer) (inp : List Byte) (s : State) : Host.Outcome State Fault Refusal :=
  ok (s.dev.command iss 0x103 fun d => d.setPolicy iss inp) s

/-- Get MCTP Event Interrupt Policy. -/
def Dev.getMctp (d : Dev) (iss : Issuer) (inp : List Byte) : Dev :=
  if inp ≠ [] then d.answerStd iss .invalidLength [] else d.answerStd iss .success (leBytes 2 d.host.mctpPolicy.toNat)

def execGetMctpEventInterruptPolicy (iss : Issuer) (inp : List Byte) (s : State) : Host.Outcome State Fault Refusal :=
  ok (s.dev.command iss 0x104 fun d => d.getMctp iss inp) s

/-- Set MCTP Event Interrupt Policy. -/
def Dev.setMctp (d : Dev) (iss : Issuer) (inp : List Byte) : Dev :=
  if inp.length ≠ 2 then d.answerStd iss .invalidLength []
  else if bits (field inp 0 2) 14 5 ≠ 0 then d.answerStd iss .invalidInput []
  else { d with host.mctpPolicy := BitVec.ofNat 16 (field inp 0 2) }.answerStd iss .success []

def execSetMctpEventInterruptPolicy (iss : Issuer) (inp : List Byte) (s : State) : Host.Outcome State Fault Refusal :=
  ok (s.dev.command iss 0x105 fun d => d.setMctp iss inp) s

/-- Event Notification: the message by which the device tells the management controller of records (R406); a device that receives
one does nothing more than answer (log 8). -/
def Dev.eventNotice (d : Dev) (iss : Issuer) (inp : List Byte) : Dev :=
  if inp.length ≠ 2 then d.answerStd iss .invalidLength [] else d.answerStd iss .success []

def execEventNotification (iss : Issuer) (inp : List Byte) (s : State) : Host.Outcome State Fault Refusal :=
  ok (s.dev.command iss 0x106 fun d => d.eventNotice iss inp) s

end Sys2Proof.Machine
end

