-- ==== Sys2Proof/Machine/Wake.lean ====
section
/-! DEFINITION. Wake events and the start of a wake (spec/17 R448, R452, R454, R459). -/

namespace Sys2Proof.Machine

open Sys2Proof

/-- Number of a power state (R384, R385). -/
def pstateNum : PState → Nat | .p0 => 0 | .p1 => 1 | .p2 => 2 | .p3 => 3

/-- Number of a wake event (R454). -/
def causeNum : WakeCause → Nat
  | .host => 0 | .i3c => 1 | .latch => 2 | .tether => 3 | .thermal => 4 | .fault => 8 | .trip => 9

/-- The lowest of the events that wait. -/
def lowest (l : List Nat) : Nat := l.foldl min 255

/-- The sequencer takes a wake: the first step of its order. P1 has no step: its wake reaches P0 at the next boundary (R448, R459). -/
def Dev.startWake (d : Dev) : Dev :=
  let step := match d.power.st with | .p3 => 1 | .p2 => 2 | _ => 7
  let w : Waking := { from_ := d.power.st, cause := lowest d.power.pending, step := step }
  let d := { d with power.waking := some w, power.pending := [] }
  if d.power.st = .p3 then
    { d with power.aoLow := false, power.coreEn := true }.say (.pin "CORE_EN" true)
  else d

/-- An event ends the state in force, or the entry into one, where Wake or the table lets it (R448, R454): it waits for the next
point of an entry, or starts the wake. -/
def Dev.wakeEvent (d : Dev) (cause : Nat) (always : Bool := false) : Dev :=
  let target := match d.power.entry with | some e => e.target | none => d.power.st
  let lets := always || 8 ≤ cause || (d.power.wake.getLsbD cause && (cause ≠ 3 || target ≠ .p1))
  if d.boot ≠ .running || target = .p0 || d.power.waking.isSome || !lets then d
  else
    let d := { d with power.pending := if d.power.pending.contains cause then d.power.pending else d.power.pending ++ [cause] }
    if d.power.entry.isSome then d else d.startWake

/-- A fault source became severe before E4: a wake event whatever Wake holds (R452). -/
def Dev.wakeFault (d : Dev) : Dev :=
  match d.power.entry with
  | some e => if e.next ≤ 4 then d.wakeEvent 8 else d
  | none => d

end Sys2Proof.Machine
end

