-- ==== Sys2Proof/Machine/Hitch.lean ====
section
/-! DEFINITION. The hitch channels (spec/16): powering and protecting a slot and the input, the checks of a module, its removal and loss,
training windows, and the commands HITCH.STATUS and HITCH.SET (spec/13 R382, R383). -/

namespace Sys2Proof.Machine

open Sys2Proof

def Dev.hchan (d : Dev) (c : Nat) : HChan := d.hitch.chans.val c {}
def Dev.modHchan (d : Dev) (c : Nat) (f : HChan → HChan) : Dev :=
  { d with hitch.chans := d.hitch.chans.put c (f (d.hchan c)) }

/-- The input channel's number (R382). -/
def inputCh : Nat := 16

def hstateNum : HState → Nat
  | .off => 0 | .ramping => 1 | .on => 2 | .tripped => 3 | .latchedOff => 4 | .retired => 5 | .unqualified => 6

/-! ### Modules (R197, R198, R437, R438) -/

/-- The first row of R197 that a module in a slot fails, from 1. -/
def spdFailRow (m : Spd) (slot : Nat) : Option Nat :=
  let rows : List Bool :=
    [(m.kind = .rdimm || m.kind = .mrdimm) && m.ecc80 && m.width = 4,
     (m.ranks = 1 || m.ranks = 2) && [1, 2, 4, 8].contains m.dies,
     32 ≤ m.gib && m.gib ≤ 512,
     m.density = 16 || m.density = 24 || m.density = 32,
     m.trfcNs ≤ 500,
     m.thermal,
     m.rfm && m.rfmNs ≤ 130,
     4800 ≤ m.speed,
     m.kind ≠ .mrdimm || slot % 2 = 0]
  (rows.findIdx? (!·)).map (· + 1)

/-- The first field in which a module differs from a slot record, coded as Detail1 of R370; no record: density (R438). -/
def spdDiffers (m : Spd) (r : Option SlotRec) : Option Nat :=
  match r with
  | none => some 1
  | some r =>
    if m.density ≠ r.density then some 1
    else if m.ranks ≠ r.ranks then some 2
    else if m.width ≠ r.width then some 3
    else if m.dies ≠ r.dies then some 4
    else if m.speed < r.speed then some 5
    else none

/-- Physical ranks of a slot's module: slot A's first, then slot B's (R200). -/
def Dev.slotRanks (d : Dev) (slot : Nat) : List Nat :=
  let per := if d.dram.mods.has 1 then d.dram.ranks / 2 else d.dram.ranks
  if d.dram.formed && d.dram.mods.has slot then (List.range per).map (slot % 2 * per + ·) else []

/-- Logical ranks of a slot's module that hold media in service (R435, R442). -/
def Dev.servedOn (d : Dev) (slot : Nat) : List Nat :=
  let c := d.chan (slot / 2)
  (List.range d.dram.logical).filter fun r => (d.slotRanks slot).contains (c.remap.val r r) && !c.retired.contains r

/-- Logical ranks of the other module of a slot's channel that hold media in service (R439, R441). -/
def Dev.servedBeside (d : Dev) (slot : Nat) : List Nat := d.servedOn (slot / 2 * 2 + 1 - slot % 2)

/-- A module is held unpowered as it fails a row of R197: one record for each module, so that the records name every one (R198). -/
def Dev.unqualify (d : Dev) (slot row : Nat) : Dev :=
  (d.modHchan slot fun c => { c with st := .unqualified }).raiseAt slot 0x10B .warning none (slot + row * 16)

/-- A module is held unpowered as it differs from the slot's record (R438). -/
def Dev.mismatch (d : Dev) (slot code : Nat) : Dev :=
  (d.modHchan slot fun c => { c with st := .unqualified }).raise 0x11D .warning none (slot + code * 16)

/-! ### Ramping and switching off (R429, R430) -/

/-- The channel starts its ramp: a slot's, or the input's precharge. -/
def Dev.ramp (d : Dev) (ch : Nat) : Dev :=
  let d := d.modHchan ch fun c => { c with st := .ramping, timer := none, good := false, onFrom := none }
  if ch = inputCh then { d with hitch.pre := true, hitch.gate := false } else d

/-- A module that has been powered is powered no longer: what it held is lost from the next boundary on (R435). -/
def Dev.dropModule (d : Dev) (slot : Nat) (cause : LossCause) : Dev :=
  if d.hitch.lost.any (·.1 = slot) || (d.slotRanks slot).isEmpty then d
  else { d with hitch.lost := d.hitch.lost ++ [(slot, cause)] }

/-- A slot is commanded off. -/
def Dev.slotOff (d : Dev) (slot : Nat) : Dev :=
  let c := d.hchan slot
  if c.st = .on || c.st = .ramping || c.st = .tripped then
    d.modHchan slot fun c => { c with st := .off, timer := none, good := false, onFrom := none }
  else d

/-! ### MODULE.REPLACE jobs and their slots (R441) -/

/-- The slot that the job's present entry names, its action, and its phase. -/
def Job.repSlot (j : Job) : Nat := j.todo.headD 0 % 256
def Job.repAction (j : Job) : Nat := j.todo.headD 0 / 256

/-- The job whose present entry works on a slot. -/
def Dev.replacing (d : Dev) (slot : Nat) : Option (Nat × Job) :=
  d.jobs.slots.find? fun e => e.2.kind = .moduleReplace && e.2.st = .active && !e.2.ending && !e.2.todo.isEmpty && e.2.repSlot = slot

/-- A MODULE.REPLACE job holds a slot: an entry of it that is not done names it (R360). -/
def Dev.slotHeld (d : Dev) (slot : Nat) : Bool :=
  d.jobs.slots.any fun e => e.2.kind = .moduleReplace && !e.2.ending && e.2.todo.any (· % 256 = slot)

/-- Last phase of an action (R441). -/
def lastPhase (action : Nat) : Nat := if action = 0 then 3 else 10

/-- First phase of an action. -/
def firstPhase (action : Nat) : Nat := if action = 1 then 5 else 1

/-- The phase the job stands in is over: the next one begins, of this entry or of the next; after the last, or where a cancel waited
for the end of the phase, the job ends (R441, R444). -/
def Dev.nextPhase (d : Dev) (job : Nat) : Dev :=
  match d.job job with
  | none => d
  | some j =>
    let j := { j with done := j.done + 1, from_ := d.clk.bnd, reason := .none }
    if j.cancel then d.setJob job { j with ending := true, fin := .cancelled }
    else if j.pos < lastPhase j.repAction then d.setJob job { j with pos := j.pos + 1, detail0 := j.pos + 1 }
    else
      match j.todo.drop 1 with
      | [] => d.setJob job { j with todo := [], ending := true }
      | e :: rest => d.setJob job { j with todo := e :: rest, pos := firstPhase (e / 256), detail0 := firstPhase (e / 256) }

/-- The job goes to a phase of its present entry. -/
def Dev.toPhase (d : Dev) (job phase : Nat) : Dev :=
  d.modJob job fun j => { j with done := j.done + (phase - j.pos), pos := phase, detail0 := phase, from_ := d.clk.bnd, reason := .none }

/-! ### Trips, retries and latch-offs (R431, R432) -/

/-- Detail of the trip records (R445). -/
def Dev.tripDetail (d : Dev) (ch : Nat) : Nat :=
  let c := d.hchan ch
  ch + c.cause * 32 + c.retries % 8 * 2 ^ 13 + c.sense.toNat * 2 ^ 16 + c.vout.toNat * 2 ^ 32

/-- A trip: the gate is pulled down, the event counted and the retry timer started, or the channel latched off (R431, R432). -/
def Dev.trip (d : Dev) (ch cause : Nat) (sense vout : BitVec 16) : Dev :=
  let old := d.hchan ch
  let counted := d.faultEvent (srcHitch ch) 1 (cause + sense.toNat * 2 ^ 8 + vout.toNat * 2 ^ 24)
  let stays := old.st = .latchedOff || old.st = .retired || old.st = .unqualified
  let k := old.retries + 1
  let latch := d.setting idHitchRetries ch < k
  let d := counted.modHchan ch fun c => { c with
    cause := cause, sense := sense, vout := vout, good := false, onFrom := none
    retries := if stays then c.retries else min 255 k
    st := if stays then c.st else if latch then .latchedOff else .tripped
    timer := if stays || latch then none else some (d.clk.bnd + min (2 ^ (k - 1)) 8 * 4000000) }
  let d := if ch = inputCh then { d with hitch.pre := false, hitch.gate := false } else d
  let d := d.raise 0x122 .warning none (d.tripDetail ch)
  let d := if latch && !stays then d.raise 0x123 .warning none (d.tripDetail ch) else d
  let d := d.wakeEvent 9
  if ch = inputCh then d
  else
    let d := if old.st = .on then d.dropModule ch (if latch then .latchOff else .trip) else d
    match d.replacing ch with
    | some (n, j) => if j.pos = 6 then (if latch && !stays then d.failJob n .internal else d.modJob n fun j => { j with reason := .waiting }) else d
    | none => d

/-- HITCH_LIMIT_HELD: the shunt sense has been above HitchSense for HitchTlim, while on or during the ramp (R431). -/
def Dev.limitHeld (d : Dev) (ch : Nat) (sense vout : BitVec 16) : Dev :=
  let c := d.hchan ch
  if sense.toNat ≤ d.setting idHitchSense ch * 100 && c.st = .on then d
  else if c.st = .on then d.trip ch 1 sense vout
  else if c.st = .ramping then d.trip ch 3 sense vout
  else d

def execHitchLimitHeld (ch : Fin 17) (sense vout : BitVec 16) (s : State) : Host.Outcome State Fault Refusal :=
  ok (s.dev.limitHeld ch.val sense vout) s

/-- HITCH_FAST_TRIP: the shunt sense is above three times HitchSense, in any state (R431). -/
def Dev.fastTrip (d : Dev) (ch : Nat) (sense vout : BitVec 16) : Dev :=
  if sense.toNat ≤ 3 * d.setting idHitchSense ch * 100 then d else d.trip ch 2 sense vout

def execHitchFastTrip (ch : Fin 17) (sense vout : BitVec 16) (s : State) : Host.Outcome State Fault Refusal :=
  ok (s.dev.fastTrip ch.val sense vout) s

/-- HITCH_RETRY_TIMER: the retry timer of a tripped channel has run out, and it ramps or precharges again; a channel that is
unmonitored does not (R397, R432). -/
def Dev.retryTimer (d : Dev) (ch : Nat) : Dev :=
  let c := d.hchan ch
  match c.timer with
  | some b => if c.st = .tripped && b ≤ d.clk.bnd && !c.unmon then d.ramp ch else d
  | none => d

def execHitchRetryTimer (ch : Fin 17) (s : State) : Host.Outcome State Fault Refusal := ok (s.dev.retryTimer ch.val) s

/-- Boundaries in 60 s, in 50 ms and in 5 ms. -/
def beats60s : Nat := 240000000
def beats50ms : Nat := 200000
def beats5ms : Nat := 20000

/-- HITCH_ON_60S: a channel that has stayed on for 60 s returns Retries to 0 (R432). -/
def Dev.on60s (d : Dev) (ch : Nat) : Dev :=
  let c := d.hchan ch
  match c.onFrom with
  | some b => if c.st = .on && b + beats60s ≤ d.clk.bnd then d.modHchan ch fun c => { c with retries := 0 } else d
  | none => d

def execHitchOn60s (ch : Fin 17) (s : State) : Host.Outcome State Fault Refusal := ok (s.dev.on60s ch.val) s

/-- The channel is on. -/
def Dev.chanOn (d : Dev) (ch : Nat) (good : Bool) : Dev :=
  d.modHchan ch fun c => { c with st := .on, good := good, onFrom := some d.clk.bnd }

/-- SLOT_OUTPUT_GOOD: Vout has reached VIN_MON - 0.5 V; the gate is driven to full enhancement (R429). -/
def execSlotOutputGood (slot : Fin 16) (s : State) : Host.Outcome State Fault Refusal :=
  ok (if (s.dev.hchan slot.val).st = .ramping then s.dev.chanOn slot.val true else s.dev) s

/-- SLOT_RAMP_TIMEOUT: a ramp has reached neither a trip nor output good (R429). -/
def execSlotRampTimeout (slot : Fin 16) (s : State) : Host.Outcome State Fault Refusal :=
  ok (let c := s.dev.hchan slot.val
      if c.st = .ramping then s.dev.trip slot.val 3 c.sense c.vout else s.dev) s

/-- PMIC_POWER_GOOD: the module's PMIC reports power good; phase 6 of a replacement ends (R429, R441). -/
def Dev.pmicGood (d : Dev) (slot : Nat) : Dev :=
  if !(d.hchan slot).good then d
  else
    let d := d.modHchan slot fun c => { c with good := false }
    match d.replacing slot with
    | some (n, j) => if j.pos = 6 then d.nextPhase n else d
    | none => d

def execPmicPowerGood (slot : Fin 16) (s : State) : Host.Outcome State Fault Refusal := ok (s.dev.pmicGood slot.val) s

/-- PMIC_TIMEOUT: within 50 ms of output good the PMIC has not reported; firmware commands the slot off and counts one trip with cause
03h (R429). -/
def Dev.pmicLate (d : Dev) (slot : Nat) : Dev :=
  let c := d.hchan slot
  match c.onFrom with
  | some b => if c.good && b + beats50ms ≤ d.clk.bnd then d.trip slot 3 c.sense c.vout else d
  | none => d

def execPmicTimeout (slot : Fin 16) (s : State) : Host.Outcome State Fault Refusal := ok (s.dev.pmicLate slot.val) s

/-! ### The input channel (R430) -/

/-- The input channel starts once VAUX and VIN_PG are good. -/
def Dev.startInput (d : Dev) : Dev :=
  if d.power.vaux && d.hitch.vinGood && (d.hchan inputCh).st = .off then d.ramp inputCh else d

def execVinPgAssert (s : State) : Host.Outcome State Fault Refusal :=
  ok ({ s.dev with hitch.vinGood := true }.startInput) s

/-- VIN_GATE goes on. -/
def Dev.gateOn (d : Dev) : Dev := { d with hitch.gate := true }.chanOn inputCh false

/-- PRECHARGE_DONE: VIN_BULK is within 0.5 V of VIN_MON (R430). -/
def execPrechargeDone (s : State) : Host.Outcome State Fault Refusal :=
  ok (if (s.dev.hchan inputCh).st = .ramping && s.dev.hitch.pre then s.dev.gateOn else s.dev) s

/-- PRECHARGE_TIMEOUT: 200 ms after VIN_PRE went on the gate goes on all the same; the record and one event of source 0610h, whose code
R391 does not give (R430; log 11). -/
def Dev.prechargeLate (d : Dev) (vbulk vmon : BitVec 16) : Dev :=
  if (d.hchan inputCh).st = .ramping && d.hitch.pre then
    let (code, d) := d.gateOn.free 8
    (d.faultEvent (srcHitch inputCh) code.toNat 0).raise 0x125 .warning none (vbulk.toNat + vmon.toNat * 2 ^ 16)
  else d

def execPrechargeTimeout (vbulk vmon : BitVec 16) (s : State) : Host.Outcome State Fault Refusal :=
  ok (s.dev.prechargeLate vbulk vmon) s

/-- VIN_PRE_OFF: VIN_PRE goes off 1 ms after VIN_GATE came on (R430). -/
def execVinPreOff (s : State) : Host.Outcome State Fault Refusal :=
  ok (if s.dev.hitch.gate then { s.dev with hitch.pre := false } else s.dev) s

/-! ### The latch (R434) -/

/-- The latch of a slot is closed. -/
def Dev.latchClosed (d : Dev) (slot : Nat) : Bool := !(d.pin slot).high

/-- MODULE_REMOVED: the latch has been open for 100 ms (R434). -/
def Dev.moduleRemoved (d : Dev) (slot : Nat) : Dev :=
  if d.latchClosed slot || (d.hchan slot).removed then d
  else
    let d := d.dropModule slot .removal
    let d := d.modHchan slot fun c => { c with
      st := if c.st = .retired then .retired else .off
      retries := 0, timer := none, good := false, onFrom := none, present := false, removed := true, spdWait := false, mod := none }
    let d := d.raise 0x120 .info none slot
    match d.replacing slot with
    | some (n, j) => if j.pos = 3 then d.nextPhase n else d
    | none => d

def execModuleRemoved (slot : Fin 16) (s : State) : Host.Outcome State Fault Refusal := ok (s.dev.moduleRemoved slot.val) s

/-- The SPD hub of a newly closed slot answers, or does not and is asked again at each later boundary (R434). -/
def Dev.hubRead (d : Dev) (slot : Nat) (spd : Option Spd) : Dev :=
  match spd with
  | none => d.modHchan slot fun c => { c with spdWait := true }
  | some m =>
    let d := d.modHchan slot fun c => { c with present := true, removed := false, spdWait := false, mod := some m }
    let d := d.raise 0x121 .info none (slot + m.serial.toNat * 2 ^ 32)
    match d.replacing slot with
    | some (n, j) => if j.pos = 4 then d.nextPhase n else d
    | none => d

/-- MODULE_INSERTED: the latch has been closed for 100 ms after a removal (R434). -/
def execModuleInserted (slot : Fin 16) (spd : Option Spd) (s : State) : Host.Outcome State Fault Refusal :=
  ok (if s.dev.latchClosed slot.val && (s.dev.hchan slot.val).removed then s.dev.hubRead slot.val spd else s.dev) s

/-- SPD_READ_RETRY: the SPD hub of a closed slot is read again (R434). -/
def execSpdReadRetry (slot : Fin 16) (spd : Option Spd) (s : State) : Host.Outcome State Fault Refusal :=
  ok (if s.dev.latchClosed slot.val && (s.dev.hchan slot.val).spdWait then s.dev.hubRead slot.val spd else s.dev) s

/-! ### Module loss (R435) -/

/-- A logical rank is lost with its module: retired with no copy from it, and draining until no frame has a line on it. -/
def Dev.loseRank (d : Dev) (ch logical : Nat) : Dev :=
  let phys := (d.chan ch).remap.val logical logical
  let d := (d.startDrain ch logical).modChan ch fun c =>
    { c with retired := c.retired ++ [logical], retiredPhys := c.retiredPhys ++ [phys] }
  (d.logFault ch phys 0 10).rankRecord ch phys

/-- A rank copy of a channel when the module of a slot is lost (the table of R435); the logical rank it spares, if any. -/
def Dev.loseCopy (d : Dev) (slot : Nat) : Option Nat × Dev :=
  let ch := slot / 2
  let c := d.chan ch
  let mine (r : Nat) : Bool := (d.slotRanks slot).contains r
  match c.copy with
  | none => (none, d)
  | some r =>
    let src := c.remap.val r.src r.src
    if mine src && !mine r.shadow then
      let d := d.setChan ch { c with
        remap := c.remap.put r.src r.shadow, copy := some { r with lost := some src }, retiredPhys := c.retiredPhys ++ [src] }
      (some r.src, (d.logFault ch src 0 10).rankRecord ch src)
    else if mine r.shadow then
      let d := (d.dropCopies ch).modChan ch fun c => { c with copy := none }
      (none, if mine src then d else d.startDrain ch r.src)
    else (none, d)

/-- The module of a slot is lost: its ranks, the copy that involves it and its shadows; the record where media was in service (R435). -/
def Dev.loseModule (d : Dev) (slot : Nat) (cause : LossCause) : Dev :=
  let ch := slot / 2
  let served := d.servedOn slot
  let copying := match (d.chan ch).copy with | some r => (d.slotRanks slot).contains r.shadow | none => false
  let (spared, d) := d.loseCopy slot
  let d := each (served.filter fun r => some r ≠ spared) d fun d r => d.loseRank ch r
  let shadows := (d.chan ch).shadows.filter (d.slotRanks slot).contains
  let d := d.modChan ch fun c => { c with
    shadows := c.shadows.filter fun r => !shadows.contains r
    retiredPhys := c.retiredPhys ++ shadows.filter fun r => !c.retiredPhys.contains r }
  let d :=
    if served.isEmpty && !copying then d
    else
      let code := match cause with | .removal => 1 | .trip => 2 | .latchOff => 3
      d.raise 0x126 .failure none (slot + code * 16 + (served.foldl (fun n r => n + 2 ^ r) 0) % 16 * 2 ^ 7)
  match d.replacing slot with
  | some (n, j) => if j.pos ≤ 2 then d.toPhase n (if (d.hchan slot).removed then 4 else 3) else d
  | none => d

/-- Losses are acted on at the boundary, and after a sleep at the wake (R435). -/
def Dev.applyLosses (d : Dev) : Dev :=
  let l := d.hitch.lost
  each l { d with hitch.lost := [] } fun d e => d.loseModule e.1 e.2

/-- MODULE_LOST: a powered module whose ranks hold media in service is gone (R435). -/
def execModuleLost (slot : Fin 16) (cause : LossCause) (s : State) : Host.Outcome State Fault Refusal :=
  ok (if (s.dev.hchan slot.val).st ≠ .on && !(s.dev.servedOn slot.val).isEmpty then s.dev.dropModule slot.val cause else s.dev) s

/-- FET_DAMAGED: a channel that is off has held its output above 1.0 V for 5 ms (R436). The event's code is not given (log 11). -/
def Dev.fetDamaged (d : Dev) (ch : Nat) (mv : BitVec 16) : Dev :=
  let c := d.hchan ch
  let off := if ch = inputCh then !d.hitch.pre && !d.hitch.gate else c.st = .off || c.st = .tripped || c.st = .latchedOff
  if !off || mv.toNat ≤ 1000 || c.damaged then d
  else
    let d := d.modHchan ch fun c => { c with damaged := true, vout := mv }
    let d := if ch = inputCh then d else d.modHchan ch fun c => { c with st := .retired, timer := none }
    let (code, d) := d.free 8
    let d := d.faultEvent (srcHitch ch) code.toNat (mv.toNat * 2 ^ 24) (hard := true)
    let d := d.raise 0x124 .failure none (ch + mv.toNat * 2 ^ 16)
    match d.replacing ch with
    | some (n, _) => d.failJob n .internal
    | none => d

def execFetDamaged (ch : Fin 17) (mv : BitVec 16) (s : State) : Host.Outcome State Fault Refusal := ok (s.dev.fetDamaged ch.val mv) s

/-! ### Training windows (R439, R440) -/

/-- LDs of the device that hold a C0 non-reflected direct extent on it (R440). -/
def Dev.noticeLds (d : Dev) : List Nat :=
  (List.range 32).filter fun ld =>
    d.conf.regions.any fun r =>
      r.ld = ld && r.home.isNone && !r.knotted && !r.reflected && labelCls r.label = .c0 &&
        (d.regionExts r).any fun x => x.dev = d.chain.index && (x.st = .held || x.st = .releasing)

/-- A window is announced at a boundary: INTEGRATION_NOTICE and the CDAT of the LDs concerned; it opens at W (R440). -/
def Dev.announce (d : Dev) (ch : Nat) (slotOff job : Option Nat) : Dev :=
  let notice := d.setting idIntegrateNotice 0 * 4096
  let w := d.clk.beat + BitVec.ofNat 48 notice
  let d := { d with hitch.window := some { ch := ch, opens := d.clk.bnd + notice, beat := w, slotOff := slotOff, job := job } }
  each d.noticeLds d fun d ld => (d.raise 0x127 .warning (some ld) (ch + w.toNat * 8 + 1250 * 2 ^ 64)).cdat ld

/-- An announced window that has not opened is withdrawn, and CDAT restored (R444). -/
def Dev.withdrawWindow (d : Dev) (job : Nat) : Dev :=
  match d.hitch.window with
  | some w => if w.job = some job && !w.isOpen then each d.noticeLds { d with hitch.window := none } fun d ld => d.cdat ld else d
  | none => d

/-- TRAINING_WINDOW_OPEN: at the boundary W of the notice (R440); the slot that the window is for is commanded off, or the new ranks'
training begins (R441). -/
def Dev.windowOpen (d : Dev) (ch : Nat) : Dev :=
  match d.hitch.window with
  | none => d
  | some w =>
    if w.ch ≠ ch || w.isOpen || w.closed.isSome || d.clk.bnd < w.opens || !d.clocked then d
    else
      let d := { d with hitch.window := some { w with isOpen := true }, dram.wide := [ch] }.modChan ch fun c => { c with training := true }
      let d := match w.slotOff with | some s => d.slotOff s | none => d
      match w.job with
      | some n =>
        match d.job n with
        | some j => if j.pos = 7 then d.nextPhase n else if j.pos = 2 then d.modJob n fun j => { j with from_ := d.clk.bnd } else d
        | none => d
      | none => d

def execTrainingWindowOpen (ch : Fin 8) (s : State) : Host.Outcome State Fault Refusal := ok (s.dev.windowOpen ch.val) s

/-- TRAINING_WINDOW_CLOSE: every rank's delay registers are written, or training has failed: the new module's slot goes off into state
06h and its job fails (R439, R444). -/
def Dev.windowClose (d : Dev) (ch : Nat) (trained : Bool) : Dev :=
  match d.hitch.window with
  | none => d
  | some w =>
    if w.ch ≠ ch || !w.isOpen then d
    else
      let d := { d with hitch.window := some { w with isOpen := false, closed := some d.clk.beat } }.modChan ch fun c => { c with training := false }
      let d := if trained then d.trainChan ch else d
      match w.job.bind fun n => (d.job n).map fun j => (n, j) with
      | some (n, j) =>
        if j.pos ≠ 8 then d
        else if trained then d.nextPhase n
        else ((d.slotOff j.repSlot).modHchan j.repSlot fun c => { c with st := .unqualified }).failJob n .internal
      | none => d

def execTrainingWindowClose (ch : Fin 8) (trained : Bool) (s : State) : Host.Outcome State Fault Refusal :=
  ok (s.dev.windowClose ch.val trained) s

/-- Windows at the boundary: a closed one ends with WINDOW_CLOSED and CDAT restored; a slot commanded off that waits for a window has
it announced (R440). -/
def Dev.windowBoundary (d : Dev) : Dev :=
  let d := match d.hitch.window with
    | some w =>
      match w.closed with
      | some b =>
        let d := { d with hitch.window := none, dram.wide := [] }
        (each d.noticeLds d fun d ld => d.cdat ld).raise 0x128 .info none (w.ch + b.toNat * 8)
      | none => d
    | none => d
  match d.hitch.window, d.hitch.offs with
  | none, s :: rest =>
    let d := { d with hitch.offs := rest }
    if (d.servedBeside s).isEmpty then d.slotOff s else d.announce (s / 2) (some s) none
  | _, _ => d

/-! ### HITCH.STATUS and HITCH.SET (R382, R383) -/

/-- HITCH.STATUS. -/
def Dev.hitchStatus (d : Dev) (iss : Issuer) (inp : List Byte) : Dev :=
  if inp.length ≠ 0 then d.badLength iss
  else
    let rec_ (n : Nat) : List Byte :=
      let c := d.hchan n
      [BitVec.ofNat 8 (hstateNum c.st), BitVec.ofNat 8 c.retries,
       BitVec.ofNat 8 (flag c.present + 2 * flag (n < 16 && d.latchClosed n) + 4 * flag c.damaged), BitVec.ofNat 8 c.cause] ++
        leBytes 2 c.sense.toNat ++ leBytes 2 c.vout.toNat
    d.reply iss .success (zeros 6 ++ (List.range 17).flatMap rec_)

def execHitchStatus (iss : Issuer) (inp : List Byte) (s : State) : Host.Outcome State Fault Refusal :=
  ok (s.dev.command iss 0xC700 fun d => d.hitchStatus iss inp) s

/-- A slot is commanded on after the checks of R197, and of R438 where it holds no ranks in service. -/
def Dev.slotOn (d : Dev) (slot : Nat) : Dev :=
  match (d.hchan slot).mod with
  | none => d
  | some m =>
    match spdFailRow m slot with
    | some row => d.unqualify slot row
    | none =>
      match if (d.servedOn slot).isEmpty then spdDiffers m (d.hitch.records.look slot) else none with
      | some code => d.mismatch slot code
      | none => d.ramp slot

/-- HITCH.SET: fields and permissions, then a slot held by a job, then the action (R383, R433, R439). -/
def Dev.hitchSet (d : Dev) (iss : Issuer) (inp : List Byte) : Dev :=
  if inp.length ≠ 8 then d.badLength iss
  else if !issuerMc iss then d.refuse iss .invalidInput 8
  else
    let ch := field inp 0 1
    let action := field inp 1 1
    let c := d.hchan ch
    let done (d : Dev) (noWork : Bool) : Dev := d.reply iss .success (zeros 6) noWork
    if 16 < ch || 2 < action || !rsvd inp 2 6 then d.refuse iss .invalidInput 8
    else if ch = inputCh && action ≠ 2 then d.refuse iss .invalidInput 8
    else if action = 0 && !(d.servedOn ch).isEmpty then d.refuse iss .invalidInput 8
    else if action = 1 && c.st = .unqualified then d.refuse iss .invalidInput 8
    else if ch < 16 && d.slotHeld ch then d.refuse iss .busy 8
    else
      match action with
      | 0 =>
        if (c.st = .on || c.st = .ramping) && !(d.servedBeside ch).isEmpty then
          done { d with hitch.offs := if d.hitch.offs.contains ch then d.hitch.offs else d.hitch.offs ++ [ch] } false
        else
          let d := if c.st = .on then d.dropModule ch .removal else d
          done (d.slotOff ch) (!(c.st = .on || c.st = .ramping || c.st = .tripped))
      | 1 => if c.st = .off && c.present && !c.unmon then done (d.slotOn ch) false else done d true
      | _ =>
        done (d.modHchan ch fun c => { c with retries := 0, st := if c.st = .latchedOff then .off else c.st })
          (c.st ≠ .latchedOff && c.retries = 0)

def execHitchSet (iss : Issuer) (inp : List Byte) (s : State) : Host.Outcome State Fault Refusal :=
  ok (s.dev.command iss 0xC701 fun d => d.hitchSet iss inp) s

end Sys2Proof.Machine
end

