-- ==== Sys2Proof/Machine/Replace.lean ====
section
/-! DEFINITION. MODULE.REPLACE (spec/13 R368, spec/16 R441 to R444): its submission, the work of its phases, their ends, its cancel. -/

namespace Sys2Proof.Machine

open Sys2Proof

/-! ### Submission (R356, R357, R368) -/

/-- The checks of a MODULE.REPLACE. -/
def Dev.planReplace (d : Dev) (j : Job) : Option Job :=
  let one (e : List Byte) : Bool :=
    let slot := field e 0 1
    let action := field e 1 1
    slot < 16 && action ≤ 2 && rsvd e 2 6 && !(action = 0 && (d.servedOn slot).isEmpty) && !(action = 1 && !(d.servedOn slot).isEmpty)
  let todo := j.entries.map fun e => field e 0 1 + field e 1 1 * 256
  if j.entries.all one then
    some { j with
      todo := todo, pos := firstPhase (todo.headD 0 / 256)
      total := todo.foldl (fun n e => n + (lastPhase (e / 256) + 1 - firstPhase (e / 256))) 0 }
  else none

/-- MODULE.REPLACE. -/
def Dev.moduleReplace (d : Dev) (iss : Issuer) (inp : List Byte) : Dev := d.submit iss .moduleReplace inp Dev.planReplace

def execModuleReplace (iss : Issuer) (inp : List Byte) (s : State) : Host.Outcome State Fault Refusal :=
  ok (s.dev.command iss 0xC710 fun d => d.moduleReplace iss inp) s

/-! ### Phase 1: evacuation (R442) -/

/-- A logical rank holds table-area lines (R223, R442). -/
def Dev.tableOn (d : Dev) (logical : Nat) : Bool :=
  let (f, n) := d.rankFrames logical
  d.tableBase < (f + n) * 4096

/-- Shadows of a module that no copy fills are given up. -/
def Dev.giveUpShadows (d : Dev) (slot : Nat) : Dev :=
  d.modChan (slot / 2) fun c => { c with
    shadows := c.shadows.filter fun r => !(d.slotRanks slot).contains r || (c.copy.map (·.shadow)) = some r }

/-- The next rank of the module: copied to a shadow on another module, else drained; a rank with table lines that would have to
drain ends the job before any rank changes. -/
def Dev.evacuate (d : Dev) (job slot : Nat) : Turn × Dev :=
  let ch := slot / 2
  let d := d.giveUpShadows slot
  let c := d.chan ch
  let served := d.servedOn slot
  if c.copy.isSome then (.waits, d)
  else
    match served with
    | [] => (.worked, d)
    | r :: _ =>
      if c.draining.contains r then (.waits, d)
      else if (served.drop c.shadows.length).any d.tableOn then (.worked, d.failJob job .invalidInput)
      else (.worked, (d.startCopy ch r).getD (d.startDrain ch r))

/-! ### Phases 9 and 10 (R201, R443) -/

/-- Every line of a module's ranks is written with zero data and a fresh check and parity: bound to its home address, as an unlisted
line reads (log 4). -/
def Dev.zeroRanks (d : Dev) (slot : Nat) : Dev :=
  each (d.slotRanks slot) d fun d r => d.blankRank (slot / 2) r

/-- Insert a rank in ascending order. -/
def insertRank (r : Nat) (l : List Nat) : List Nat := l.filter (· < r) ++ r :: l.filter (r < ·)

/-- A logical rank retired without a remap is restored onto a shadow: the lines that something still maps become stored poison, the
rank names the shadow, and its frames are free again (R443 step 2). -/
def Dev.restoreRank (d : Dev) (ch logical shadow : Nat) : Dev :=
  let p := max 1 d.dram.lines
  let d := each (List.range p) d fun d l =>
    match d.contentAt (homeLine ch (logical * p + l)) with
    | some c => d.setBurst (homeLine ch (shadow * p + l)) (mkBurst 0 (d.check c.bind 0 ^^^ poisonMark))
    | none => d
  let d := d.modChan ch fun c => { c with
    remap := c.remap.put logical shadow, shadows := c.shadows.filter (· ≠ shadow)
    retired := c.retired.filter (· ≠ logical), draining := c.draining.filter (· ≠ logical) }
  let out := (List.range 8).any fun c => (d.chan c).draining.contains logical || (d.chan c).retired.contains logical
  if out then d else { d with tiers.outOf := d.tiers.outOf.erase (d.rankFrames logical) }

/-- Restore retired ranks of a channel, lowest first, while a shadow remains. -/
def Dev.restoreRanks (d : Dev) (ch : Nat) : Dev :=
  each ((List.range d.dram.logical).filter (d.chan ch).retired.contains) d fun d r =>
    match (d.chan ch).shadows with
    | s :: _ => d.restoreRank ch r s
    | [] => d

/-- The erased and retired marks of a replaced module's ranks go (R443 step 3); the slot names the new module. -/
def Dev.clearMarks (d : Dev) (slot : Nat) : Dev :=
  let ch := slot / 2
  let ranks := d.slotRanks slot
  let d := d.modChan ch fun c => { c with
    erased := c.erased.filter fun e => !ranks.contains e.1, retiredPhys := c.retiredPhys.filter fun r => !ranks.contains r }
  let old (k : Nat) : Bool := k % 8 = ch && ranks.contains (k / 8 % 4)
  let d := { d with dram.repairs := d.dram.repairs.filter fun k => !old k, dram.hardDone := d.dram.hardDone.filter fun k => !old k }
  let back (d : Dev) (n : Nat) : Dev := if d.fault.src.has n then d.modSource n fun s => { s with retired := false } else d
  let d := each ranks d fun d r =>
    each (List.range 20) (back d (srcRank ch r)) fun d k => back d (srcDevice ch r (k / 10) (k % 10))
  let d := match d.dram.mods.look slot with
    | some m => { d with dram.faultLog := d.dram.faultLog.filter fun e => e.1 ≠ m.serial }
    | none => d
  match (d.hchan slot).mod with
  | some m =>
    let other := ((d.dram.mods.look (slot / 2 * 2 + 1 - slot % 2)).map (·.trfcNs)).getD 0
    { d with dram.mods := d.dram.mods.put slot m, dram.trfc := d.dram.trfc.put ch (max m.trfcNs other) }
  | none => d

/-- The new ranks join as shadows, retired ranks are restored, marks cleared (R443). -/
def Dev.join (d : Dev) (slot : Nat) : Dev :=
  let ch := slot / 2
  let ranks := d.slotRanks slot
  let d := d.modChan ch fun c => { c with
    shadows := ranks.foldl (fun l r => if l.contains r then l else insertRank r l) c.shadows
    retiredPhys := c.retiredPhys.filter fun r => !ranks.contains r }
  (d.restoreRanks ch).clearMarks slot

/-! ### The job's turns and the ends of its phases (R441) -/

/-- The slot is powered, ramping, or waits to ramp. -/
def Dev.slotLive (d : Dev) (slot : Nat) : Bool :=
  let st := (d.hchan slot).st
  st = .on || st = .ramping || st = .tripped

/-- Ask for the window of a phase: announced where none is announced or open, its own waited for, another's end waited for. -/
def Dev.askWindow (d : Dev) (job ch : Nat) (slotOff : Option Nat) : Turn × Dev :=
  match d.hitch.window with
  | none => (.worked, d.announce ch slotOff (some job))
  | some w => (if w.job = some job && w.closed.isNone then .worked else .waits, d)

/-- Phase 5's checks of the module in the slot: R197, then R438; a module that passes is powered on in phase 6. -/
def Dev.checkModule (d : Dev) (job slot : Nat) (m : Spd) : Dev :=
  let c := d.hchan slot
  let d := d.modHchan slot fun c => { c with mod := some m, present := true }
  match spdFailRow m slot with
  | some row => (d.unqualify slot row).failJob job .invalidInput
  | none =>
    match spdDiffers m (d.hitch.records.look slot) with
    | some code => ((d.mismatch slot code).modJob job fun j => { j with detail1 := code }).failJob job .invalidInput
    | none =>
      if c.st = .on then (d.nextPhase job).nextPhase job
      else if c.st = .off && !c.unmon then (d.ramp slot).nextPhase job
      else d.failJob job .internal

/-- The turn of a MODULE.REPLACE at a boundary. -/
def Dev.replaceTurn (d : Dev) (job : Nat) : Turn × Dev :=
  match d.working job .moduleReplace with
  | none => (.worked, d)
  | some j =>
    let slot := j.repSlot
    let d := d.modJob job fun j => { j with detail0 := j.pos }
    let host (d : Dev) : Turn × Dev := (.worked, d.modJob job fun j => { j with reason := .host })
    match j.pos with
    | 1 => d.evacuate job slot
    | 2 =>
      if !d.slotLive slot then (.worked, d)
      else if !(d.servedBeside slot).isEmpty then d.askWindow job (slot / 2) (some slot)
      else (.worked, (d.slotOff slot).modJob job fun j => { j with from_ := d.clk.bnd })
    | 3 => if (d.hchan slot).removed then (.worked, d.nextPhase job) else host d
    | 4 => host d
    | 5 => (if (d.hchan slot).mod.isSome then .worked else .waits, d)
    | 6 => (if (d.hchan slot).st = .tripped then .waits else .worked, d)
    | 7 => d.askWindow job (slot / 2) none
    | 10 => (.worked, (d.join slot).nextPhase job)
    | _ => (.worked, d)

/-- MODULE_REPLACE_PHASE_END: the phase the job stands in has reached its end; in phase 5 with the SPD as read (R441). -/
def Dev.phaseEnd (d : Dev) (job : Nat) (spd : Option Spd) : Dev :=
  match d.working job .moduleReplace with
  | none => d
  | some j =>
    let slot := j.repSlot
    let c := d.hchan slot
    let finished : Bool :=
      match j.pos with
      | 1 => (d.servedOn slot).isEmpty && (d.chan (slot / 2)).copy.isNone
      | 2 => !d.slotLive slot && j.from_ + beats5ms ≤ d.clk.bnd
      | 3 => c.removed
      | 4 => c.present && !c.removed
      | 6 => c.st = .on && !c.good
      | 9 => true
      | _ => false
    if j.pos = 5 then
      match spd.orElse fun _ => c.mod with
      | some m => if c.st = .retired then d.failJob job .internal else d.checkModule job slot m
      | none => d
    else if finished then (if j.pos = 9 then d.zeroRanks slot else d).nextPhase job
    else d

def execModuleReplacePhaseEnd (slot : Nat) (spd : Option Spd) (s : State) : Host.Outcome State Fault Refusal :=
  ok (s.dev.phaseEnd slot spd) s

/-- A cancel of a MODULE.REPLACE at a boundary (R444): true where the job ends now. -/
def Dev.replaceCancel (d : Dev) (job : Nat) (j : Job) : Bool × Dev :=
  let slot := j.repSlot
  match j.pos with
  | 1 => ((d.chan (slot / 2)).copy.isNone, d)
  | 2 | 3 | 4 => (true, d.withdrawWindow job)
  | 5 | 6 | 7 => (true, (d.withdrawWindow job).slotOff slot)
  | _ => (false, d)

end Sys2Proof.Machine
end

