-- ==== Sys2Proof/Machine/JobStep.lean ====
section
/-! DEFINITION. Job scheduling at the boundary (spec/02 R46 step 6, R73; spec/13 R354, R359), and the commands JOB.STATUS and JOB.CANCEL
(spec/13 R355, R358, R359). -/

namespace Sys2Proof.Machine

open Sys2Proof

/-! ### JOB.STATUS and JOB.CANCEL -/

/-- A caller may see a job of an owner (R355). -/
def mayAct (iss : Issuer) (owner : Option Nat) : Bool := issuerMc iss || issuerOwner iss = owner

/-- The slot of a live job of the caller with a JobId. -/
def Dev.liveJob (d : Dev) (iss : Issuer) (id : Nat) : Option (Nat × Job) :=
  d.jobs.slots.find? fun e => e.2.id e.1 = id && mayAct iss e.2.owner

/-- The finished record of a job of the caller with a JobId; the newest, were the generation to wrap. -/
def Dev.pastJob (d : Dev) (iss : Issuer) (id : Nat) : Option Finished :=
  (d.jobs.ring.filter fun r => r.id = id && mayAct iss r.owner).getLast?

/-- JOB.STATUS. -/
def Dev.jobStatus (d : Dev) (iss : Issuer) (inp : List Byte) : Dev :=
  if inp.length ≠ 8 then d.badLength iss
  else if !rsvd inp 4 4 then d.refuse iss .invalidInput 64
  else
    match d.liveJob iss (field inp 0 4), d.pastJob iss (field inp 0 4) with
    | some (_, j), _ => d.reply iss .success ({ j with result := 0 }.bytes j.st j.reason)
    | none, some r => d.reply iss .success r.bytes
    | none, none => d.refuse iss .invalidInput 64

def execJobStatus (iss : Issuer) (inp : List Byte) (s : State) : Host.Outcome State Fault Refusal :=
  ok (s.dev.command iss 0xC200 fun d => d.jobStatus iss inp) s

/-- JOB.CANCEL: a queued job is removed at once, an active one stops at the next boundary, one that has ended is answered with its
final state (R359). -/
def Dev.jobCancel (d : Dev) (iss : Issuer) (inp : List Byte) : Dev :=
  if inp.length ≠ 8 then d.badLength iss
  else if !rsvd inp 4 4 then d.refuse iss .invalidInput 8
  else
    let done (d : Dev) (st : JState) (noWork : Bool) : Dev := d.reply iss .success ([BitVec.ofNat 8 (jstateNum st)] ++ zeros 5) noWork
    match d.liveJob iss (field inp 0 4), d.pastJob iss (field inp 0 4) with
    | some (slot, j), _ =>
      if j.st = .queued then
        let d := if j.kind = .poolAdd then d.withdrawAdd slot else d
        done (d.retireJob slot j .cancelled) .cancelled false
      else done (d.setJob slot { j with cancel := true }) j.st false
    | none, some r => done d r.st true
    | none, none => d.refuse iss .invalidInput 8

def execJobCancel (iss : Issuer) (inp : List Byte) (s : State) : Host.Outcome State Fault Refusal :=
  ok (s.dev.command iss 0xC201 fun d => d.jobCancel iss inp) s

/-! ### The boundary -/

/-- Moves of a job that is cancelled return to their sources; those already switched go on (R359). -/
def Dev.cancelMoves (d : Dev) (slot : Nat) : Dev :=
  let d := each (d.tiers.moves.filter (·.slot = slot)) d fun d m => d.cancelMove m
  each (d.tiers.extMoves.filter fun e => e.2.job = slot) d fun d e => d.cancelExtMove e.1

/-- An active job that was cancelled stops once its current step has finished (R359). -/
def Dev.cancelStep (d : Dev) (slot : Nat) (j : Job) : Dev :=
  let stop (d : Dev) : Dev := d.modJob slot fun j => { j with ending := true, fin := .cancelled }
  match j.kind with
  | .sanitize | .copy | .fill | .scrub => if j.sent || j.hold.isSome then d else stop d
  | .tier => if d.jobMoves slot then d else stop d
  | .migrate =>
    let d := d.cancelMoves slot
    if d.jobMoves slot then d else stop d
  | .rekey => if d.line.rekey.any fun e => e.2.job = slot then d else stop d
  | .poolAdd => if j.pos < 2 then stop (d.withdrawAdd slot) else if j.asked.isEmpty then stop d else d
  | .poolRelease => stop d
  | .moduleReplace =>
    let (now, d) := d.replaceCancel slot j
    if now then stop d else d
  | .prismStream => if j.pos < j.entries.length then d.streamStop slot .cancelled 0 else d

/-- Jobs whose work has ended leave their slots (R354). -/
def Dev.leaveSlots (d : Dev) : Dev :=
  each (d.jobs.slots.filter fun e => e.2.ending) d fun d e => d.retireJob e.1 e.2 e.2.fin

/-- The order in which queued jobs become Active: class, then submission (R354). -/
def queuedFirst (l : List (Nat × Job)) : List (Nat × Job) :=
  l.mergeSort fun a b => a.2.label.toNat / 64 * 2 ^ 64 + a.2.seq ≤ b.2.label.toNat / 64 * 2 ^ 64 + b.2.seq

/-- Queued jobs become Active as long as fewer than 64 are (R354). -/
def Dev.startJobs (d : Dev) : Dev :=
  let active := (d.jobs.slots.filter fun e => e.2.st = .active).length
  let queued := queuedFirst (d.jobs.slots.filter fun e => e.2.st = .queued)
  each (queued.take (64 - active)) d fun d e => d.setJob e.1 { e.2 with st := .active, from_ := d.clk.bnd }

/-- One turn of a job. A job that moves data line by line goes on from an answer that has come, or issues its next request (R40). -/
def Dev.turnOf (d : Dev) (slot : Nat) (j : Job) : Turn × Dev :=
  match j.kind with
  | .migrate => d.migrateTurn slot
  | .tier => d.tierTurn slot
  | .rekey => d.rekeyTurn slot
  | .poolAdd => d.addTurn slot
  | .poolRelease => d.releaseTurn slot
  | .moduleReplace => d.replaceTurn slot
  | .copy => (.worked, d.copyBatch slot 1)
  | .fill => (.worked, d.fillBatch slot 1)
  | .scrub => (.worked, d.scrubBatch slot 1)
  | .sanitize | .prismStream => (.worked, d)

/-- Turns of a job until it has worked or waits. -/
def Dev.turns : Nat → Dev → Nat → Turn × Dev
  | 0, d, _ => (.worked, d)
  | n + 1, d, slot =>
    match d.job slot with
    | none => (.worked, d)
    | some j =>
      match d.turnOf slot j with
      | (.again, d) => Dev.turns n d slot
      | r => r

/-- The job has a request to issue: none of its own is past the regulator (R73). -/
def Dev.hasRequests (d : Dev) (slot : Nat) (j : Job) : Bool :=
  j.st = .queued || !j.sent || d.path.reqs.any fun q => q.src = .job slot && q.regulated

/-- Note whether the C3 gate is closed at a boundary at which a job has requests to issue (R73). -/
def Dev.noteGate (d : Dev) (slot : Nat) (waits : Bool) : Dev :=
  d.modJob slot fun j => if waits || !d.hasRequests slot j then j else { j with late := !d.path.gate }

/-- The regulator holds a job's class back: the reason it carries then (R73). -/
def Dev.heldReason (d : Dev) (j : Job) : JReason :=
  match labelCls j.label with
  | .c3 => if j.late then .deferred else .none
  | .c2 => if (d.c2Of (labelGroup j.label)).r < 16 * d.setting idC2Cap (labelGroup j.label) then .throttled else .none
  | _ => .none

/-- A job's reason for the beat, and the beats spent in it (R73, R358). -/
def Dev.noteReason (d : Dev) (slot : Nat) (r : JReason) : Dev :=
  d.modJob slot fun j => { j with
    reason := r
    deferred := j.deferred + flag (r = .deferred), throttled := j.throttled + flag (r = .throttled)
    waiting := j.waiting + flag (r = .waiting || r = .host) }

/-- The turn of an active job at a boundary, and its reason: where it both waits and is held back, HOST or WAITING shows, which the spec
leaves open (DESIGN CHOICE, log 41). -/
def Dev.workJob (d : Dev) (slot : Nat) (j : Job) : Dev :=
  let stays := (j.kind = .poolAdd || j.kind = .poolRelease) && j.reason = .host
  let d := d.modJob slot fun j => { j with reason := if stays then .host else .none }
  let (t, d) := Dev.turns (j.todo.length * 513 + 8) d slot
  let held := match d.job slot with | some j => j.reason = .host | none => false
  let d := d.noteGate slot (held || t = .waits)
  match d.job slot with
  | none => d
  | some j => d.noteReason slot (if held then .host else if t = .waits then .waiting else d.heldReason j)

/-- A queued job at a boundary: its reason. -/
def Dev.waitJob (d : Dev) (slot : Nat) : Dev :=
  let d := d.noteGate slot false
  match d.job slot with | some j => d.noteReason slot (d.heldReason j) | none => d

/-- Step 6 of the boundary: cancels, jobs that leave, jobs that become Active, engines for stream jobs, and every active job's turn. -/
def Dev.jobsBoundary (d : Dev) : Dev :=
  let actives (d : Dev) : List (Nat × Job) := d.jobs.slots.filter fun e => e.2.st = .active && !e.2.ending
  let d := each ((actives d).filter (·.2.cancel)) d fun d e => d.cancelStep e.1 e.2
  let d := (if d.power.quiet then d.leaveSlots else d.leaveSlots.startJobs).streamYields.streamEngines
  let d := each (queuedFirst (actives d)) d fun d e => if e.2.kind = .prismStream then (d.streamPump e.1).workJob e.1 e.2 else d.workJob e.1 e.2
  each (d.jobs.slots.filter fun e => e.2.st = .queued) d fun d e => d.waitJob e.1

end Sys2Proof.Machine
end

