-- ==== Sys2Proof/Machine/Tether.lean ====
section
/-! DEFINITION. The Tether link layer (spec/11 R296 to R299, R306 to R314; spec/10 R280, R293): flits and their sequence, replay, retrain,
the link-up handshake, and a link that goes down. -/

namespace Sys2Proof.Machine

open Sys2Proof

/-! ### The chain's root (R305, R315) -/

/-- Index of the root, as the last walk's topology gives it; none: unknown (R316). -/
def Dev.rootIndex (d : Dev) : Option Nat := (d.chain.topo.find? (·.depth = 0)).map (·.index)

/-- This device is the root. -/
def Dev.isRoot (d : Dev) : Bool := d.chain.rootStrap && !d.chain.alone

/-- Tell the root of an event of a link: 1 down, 2 retired, 3 up Fresh, 4 up Resume (R305). -/
def Dev.linkEvent (d : Dev) (p code : Nat) : Dev :=
  if !d.chain.assigned || d.chain.alone || d.isRoot then d
  else
    match d.rootIndex with
    | some r => d.mgmt r 0x31 ([BitVec.ofNat 8 p, BitVec.ofNat 8 code] ++ leBytes 8 (d.tport p).uid.toNat)
    | none => d

/-! ### Requests that a link has lost (R38, R314, R322) -/

/-- A request that its route has lost is completed by the origin: poison for a read, else a completion (R38). -/
def Dev.loseRequest (d : Dev) (id p : Nat) (noRoute : Bool) : Dev :=
  match d.req id with
  | none => d
  | some q =>
    let d := if noRoute then d.raiseAt d.chain.index 0x116 .failure none (q.pool + d.chain.index * 2 ^ 49)
      else d.raise 0x103 .failure q.hostLd (q.pool + p * 2 ^ 49)
    d.fail q

/-- An outcome 010b or 011b of a direction of a request of this device (R38, R322). -/
def Dev.outcome (d : Dev) (tag p status : Nat) : Dev :=
  let lost (d : Dev) : Dev := d.bump (if status = 3 then 0x1A0 else 0x1A1)
  let free (d : Dev) : Dev := { d with chain.tags := d.chain.tags.del tag }
  match d.chain.tags.look tag with
  | some (.req id braid ends) =>
    if !braid then
      if status = 3 then match d.req id with | some q => (free d).fail q | none => free d
      else (free (lost d)).loseRequest id p false
    else if ends.isEmpty then { lost d with chain.tags := d.chain.tags.put tag (.req id true [status]) }
    else (free (lost d)).loseRequest id p ((status :: ends).all (· = 3))
  | some (.spent ends) => free (if ends.isEmpty then d else lost d)
  | some (.snoop ..) | some (.conflict ..) => free d
  | _ => d

/-- A message that waited on, or had crossed, a link that is down: Status 010b toward its source (R314). -/
def Dev.lostMessage (d : Dev) (p : Nat) (t : Transit) : Dev :=
  match t.from_ with
  | some q =>
    if q < 3 then d.sendMsg q (peerRsp (BitVec.ofNat 8 (t.cls * 64)) t.origin t.tag t.braid t.dir 2 0 0 none) else d
  | none => d.outcome t.tag.toNat p 2

/-! ### Link down (R314) -/

/-- A link is down. -/
def Dev.tetherDown (d : Dev) (p : Nat) : Dev :=
  let x := d.tport p
  let d := d.linkEvent p 1
  let waiting := (x.tx.filter fun e => e.1.op.isRequest).map fun e => transitOf e.1 e.2
  let d := d.setTport p { x with
    st := .td, returns := 0, kept := false, transit := [], replay := [], pool := [], tx := [], failures := 0, resets := 0
    width := 0, resetDue := false, resetting := false, nak := false, doze := 0, standby := false, mark := false
    gotUp := false, resume := false, sentAck := false, gotAck := false }
  let d := each [0, 1, 2] d fun d q =>
    d.modTport q fun y => { y with transit := y.transit.map fun t => if t.from_ = some p then { t with from_ := some 3 } else t }
  let d := { d with
    path.reqs := d.path.reqs.map fun (r : Req) => match r.src with | .peer q .. => if q = p then { r with dead := true } else r | _ => r
    home.foreign := d.home.foreign.filter fun (f : Foreign) => f.port ≠ p }
  let d := each (x.transit ++ waiting) d fun d t => d.lostMessage p t
  let d := d.faultEvent (srcTether p) 2 ((match x.replay with | f :: _ => f.hdr.seq.toNat | [] => x.seq.toNat) + x.uid.toNat % 2 ^ 48 * 2 ^ 16)
  (d.raise 0x111 .warning none (p + x.uid.toNat * 2 ^ 64)).checkScan

/-! ### Training states (R280) -/

/-- Number of a state for TETHER_TRAIN_FAIL: TD to TH from 0, then the handshake. -/
def tstateNum : TState → Nat | .td | .heldDown => 0 | .ta => 1 | .tc => 2 | .ts => 3 | .te => 4 | .th => 5 | _ => 6

/-- The port trains. -/
def TState.training : TState → Bool | .ta | .tc | .ts | .te | .th | .handshake => true | _ => false

/-- Enter a training state. -/
def Dev.tstate (d : Dev) (p : Nat) (st : TState) : Dev := d.modTport p fun x => { x with st := st, reached := tstateNum st }

/-- The port returns to TD; the third return without a link between holds it down (R280). A link that was up goes down first, but for
one that dozed. -/
def Dev.toTd (d : Dev) (p : Nat) : Dev :=
  let x := d.tport p
  let third := 3 ≤ x.returns + 1
  let d := if x.kept && (x.doze = 0 || third) then d.tetherDown p else d
  let d := d.modTport p fun y => { y with
    st := if third then .heldDown else .td, returns := if third then 0 else x.returns + 1, lock := 0, cfg := 0, laneNonce := []
    resetting := false, gotUp := false, sentAck := false, gotAck := false }
  if third then d.raise 0x110 .warning none (p + x.reached * 4) else d

/-- Rates a port advertises: 64 GT/s, and 128 GT/s where TetherRate permits it (R280, R281). -/
def Dev.ownRates (d : Dev) (p : Nat) : BitVec 8 := if d.setting idTetherRate p = 2 then 3 else 1

/-- The training set a port sends (R281). -/
def Dev.ownSet (d : Dev) (p : Nat) : TrainSet :=
  let x := d.tport p
  let usable (i : Nat) : Bool := x.present.getLsbD i && !x.retired.getLsbD i
  { rates := d.ownRates p, width := BitVec.ofNat 8 ((widthOf 8 usable).1 + 16), reset := if x.resetting then 1 else 0
    port := BitVec.ofNat 8 p, nonce := x.nonce }

/-- The port enters TA: a new nonce, TTS1 on every detected lane (R280, R281, R293). -/
def Dev.toTa (d : Dev) (p : Nat) : Dev :=
  let (n, d) := d.random 8
  let d := (d.tstate p .ta).modTport p fun x => { x with
    nonce := n, lock := 0, cfg := 0, laneNonce := [], eqAsks := 0, gotUp := false, resume := false, sentAck := false, gotAck := false }
  d.say (.ctl p (.tts 0 (d.ownSet p)))

/-- A width reset starts, or starts again (R293). -/
def Dev.startReset (d : Dev) (p : Nat) : Dev :=
  ((d.modTport p fun x => { x with resetDue := false, resetting := true }).toTa p).checkScan

/-- A width reset is due at the next boundary (R291, R293). -/
def Dev.wantReset (d : Dev) (p : Nat) : Dev :=
  if (d.tport p).kept then d.modTport p fun x => { x with resetDue := true } else d

/-- At the boundary: the width resets due start. -/
def Dev.startResets (d : Dev) : Dev := each [0, 1, 2] d fun d p => if (d.tport p).resetDue then d.startReset p else d

/-- A lane of a Tether port is a permanent lane fault: the mask and a width reset; one that fails during a reset starts it again, and
the third restart takes the link down (R291, R294). -/
def Dev.loseTetherLane (d : Dev) (p lane : Nat) : Dev :=
  let x := d.tport p
  let d := d.modTport p fun x => { x with retired := x.retired ||| BitVec.ofNat 8 (2 ^ lane) }
  if !x.resetting then d.wantReset p
  else if x.resets + 1 < 3 then (d.modTport p fun x => { x with resets := x.resets + 1 }).startReset p
  else d.tetherDown p

/-! ### The handshake (R311 to R313) -/

/-- The LINKUP that a port sends (R311, R312). -/
def Dev.ownLinkup (d : Dev) (p : Nat) : LinkUp :=
  let x := d.tport p
  { resume := x.kept, nextExpected := x.ne
    crTotals := BitVec.ofNat 40 ((List.range 4).foldl (fun n c => n + x.crTotal.val c 0 % 1024 * 2 ^ (10 * c)) 0)
    index := BitVec.ofNat 5 d.chain.index, assigned := d.chain.assigned, port := BitVec.ofNat 2 p, rootStrap := d.chain.rootStrap
    synced := d.chain.synced, uniqueId := Config.uniqueId, epoch := x.epoch }

/-- The link-up handshake begins: LINKUP flits are sent (R311). -/
def Dev.toHandshake (d : Dev) (p : Nat) : Dev :=
  let d := (d.tstate p .handshake).modTport p fun x => { x with gotUp := false, resume := false, sentAck := false, gotAck := false, samples := [] }
  d.say (.ctl p (.linkup (d.ownLinkup p)))

/-- Free the held flits up to an acknowledgement; the failure count goes with the oldest (R308, R309). -/
def TPort.ackTo (x : TPort) (ack : BitVec 12) : TPort :=
  let rest := x.replay.filter fun f => 2048 ≤ (ack - f.hdr.seq).toNat
  { x with replay := rest, failures := if rest.length < x.replay.length then 0 else x.failures }

/-- Take a CrTotal of a class: credits returned, modulo 1,024 (R298, R306). -/
def TPort.takeCredits (x : TPort) (c : Nat) (total : BitVec 10) : TPort :=
  let r := x.returned.val c 0
  { x with returned := x.returned.put c (r + (total - BitVec.ofNat 10 r).toNat) }

/-- Replay every held flit from the oldest, Mark cleared (R308). -/
def Dev.replay (d : Dev) (p : Nat) : Dev :=
  let x := d.tport p
  if x.replay.isEmpty then d
  else
    let d := each x.replay d fun d f => (d.say (.flit p { f with hdr := { f.hdr with mark := false }, marker := none })).bump (evTether p 0)
    (d.modTport p fun x => { x with counts := x.counts.put 1 (x.counts.val 1 0 + 1) }).bump (evTether p 2)

/-- The sender's NextExpected lies between the oldest held flit and the next new sequence number (R312). -/
def TPort.holds (x : TPort) (ne : BitVec 12) : Bool := (x.seq - ne).toNat ≤ x.replay.length

/-- The link that is up now holds in standby (R315, R317): two roots, a device that runs alone, or a link of an unenumerated
device. -/
def Dev.heldStandby (d : Dev) (p : Nat) : Bool :=
  let x := d.tport p
  x.standby || d.chain.alone || (d.chain.rootStrap && x.partnerRoot)

/-- After both LINKACKs sequenced flits flow (R312). -/
def Dev.tetherUp (d : Dev) (p : Nat) : Dev :=
  let x := d.tport p
  let held := d.heldStandby p
  let d := d.setTport p { x with
    st := if held then .standby else .active, returns := 0, failures := if x.resume then x.failures else 0, kept := true, resumed := x.resume, resetting := false
    resets := 0, doze := 0, standby := held }
  let d := { d with chain.firstUp := d.chain.firstUp.orElse fun _ => some d.clk.bnd }
  let d := if d.chain.rootStrap && x.partnerRoot then d.raise 0x113 .warning none p else d
  if held then d
  else
    let d := if x.resume then d.replay p else d
    let d := d.linkEvent p (if x.resume then 4 else 3)
    let d := if !x.resume && !x.partnerAssigned && d.chain.assigned && !d.isRoot then
        match d.rootIndex with
        | some r => d.mgmt r 5 ([BitVec.ofNat 8 p] ++ leBytes 8 x.uid.toNat)
        | none => d
      else d
    d.pump p

/-- LINKACK goes out once the partner's LINKUP is here and the eight samples of D are taken; the link is up once both are exchanged. -/
def Dev.ackLink (d : Dev) (p : Nat) : Dev :=
  let x := d.tport p
  let d := if x.gotUp && !x.sentAck && x.samples.length = 8 then
      let s := (x.samples.map (·.2)).mergeSort (· ≤ ·)
      (d.setTport p { x with sentAck := true, delay := (s.getD 3 0 + s.getD 4 0) / 2 }).say (.ctl p .linkack)
    else d
  let x := d.tport p
  if x.sentAck && x.gotAck then d.tetherUp p else d

/-- Send a PING; its transmit time is the port's own counter, a free value here (log 11). -/
def Dev.sendPing (d : Dev) (p i : Nat) : Dev :=
  let (t, d) := d.free 48
  d.say (.ctl p (.ping i t))

/-- LINKUP: the link resumes or comes up Fresh (R312). -/
def Dev.takeLinkup (d : Dev) (p : Nat) (m : LinkUp) : Dev :=
  let x := d.tport p
  if x.st ≠ .handshake || x.gotUp then d
  else
    let resume := x.kept && m.resume && m.uniqueId = x.uid && m.epoch = x.epoch && x.holds m.nextExpected
    let d := if x.kept && !resume then d.tetherDown p else d
    let x := d.tport p
    let x := if resume then
        let x := x.ackTo (m.nextExpected - 1)
        (List.range 4).foldl (fun (x : TPort) c => x.takeCredits c (BitVec.ofNat 10 (m.crTotals.toNat / 2 ^ (10 * c)))) x
      else { x with seq := 0, ne := 0, crTotal := [], debits := [], returned := [], replay := [], pool := [], epoch := x.epoch + 1 }
    let x := { x with
      st := .handshake, gotUp := true, resume := resume, uid := m.uniqueId, partner := m.index, partnerAssigned := m.assigned
      partnerPort := m.port, partnerRoot := m.rootStrap, partnerSynced := m.synced }
    (each (List.range 8) (d.setTport p x) fun d i => d.sendPing p i).ackLink p

def execLinkup (p : Fin 3) (m : LinkUp) (s : State) : Host.Outcome State Fault Refusal := ok (s.dev.takeLinkup p.val m) s

/-- LINKACK (R312). -/
def execLinkack (p : Fin 3) (s : State) : Host.Outcome State Fault Refusal :=
  ok (if (s.dev.tport p.val).st = .handshake then (s.dev.modTport p.val fun x => { x with gotAck := true }).ackLink p.val else s.dev) s

/-- A port that exchanges PING and PONG. -/
def Dev.pings (d : Dev) (p : Nat) : Bool :=
  let st := (d.tport p).st
  st = .handshake || st = .active || st = .standby

/-- PING: answered with a PONG that carries t1, its receive time t2 and the send time t3 (R312, R313). -/
def execPing (p : Fin 3) (index : Fin 8) (t1 t2 t3 : BitVec 48) (s : State) : Host.Outcome State Fault Refusal :=
  ok (if s.dev.pings p.val then s.dev.say (.ctl p.val (.pong index.val t1 t2 t3)) else s.dev) s

/-- PONG: a sample of D, in units of 1/16 ns (R312, R313). -/
def Dev.takePong (d : Dev) (p i : Nat) (t1 t2 t3 t4 : BitVec 48) : Dev :=
  if (d.tport p).st = .handshake then
    (d.modTport p fun x => { x with samples := x.samples.put i (((t4 - t1) - (t3 - t2)).toNat / 2) }).ackLink p
  else d

def execPong (p : Fin 3) (index : Fin 8) (t1 t2 t3 t4 : BitVec 48) (s : State) : Host.Outcome State Fault Refusal :=
  ok (s.dev.takePong p.val index.val t1 t2 t3 t4) s

/-- PING_RESEND: a PING unanswered for 10 us is sent again (R313). -/
def execPingResend (p : Fin 3) (index : Fin 8) (t1 : BitVec 48) (s : State) : Host.Outcome State Fault Refusal :=
  ok (if (s.dev.tport p.val).st = .handshake && (s.dev.tport p.val).gotUp && !(s.dev.tport p.val).samples.has index.val
      then s.dev.say (.ctl p.val (.ping index.val t1)) else s.dev) s

/-- HANDSHAKE_TIMEOUT: a handshake or retrain is not done within 1 ms (R310, R312). -/
def execHandshakeTimeout (p : Fin 3) (s : State) : Host.Outcome State Fault Refusal :=
  ok (let x := s.dev.tport p.val
      if x.st = .retraining || (x.st = .handshake && x.kept && x.doze = 0) then s.dev.tetherDown p.val
      else if x.st = .handshake then s.dev.toTd p.val else s.dev) s

/-! ### Retrain and replay (R308 to R310) -/

/-- A retrain begins; each counts one TETHER_RETRAIN event (R309, R310). -/
def Dev.startRetrain (d : Dev) (p : Nat) : Dev :=
  let x := d.tport p
  if x.st ≠ .active && x.st ≠ .standby then d
  else
    let d := (d.say (.ctl p .retrain)).setTport p { x with st := .retraining, counts := x.counts.put 0 (x.counts.val 0 0 + 1) }
    let seq := match x.replay with | f :: _ => f.hdr.seq.toNat | [] => x.seq.toNat
    ((d.bump (evTether p 5)).faultEvent (srcTether p) 1 (seq + x.uid.toNat % 2 ^ 48 * 2 ^ 16)).checkScan

/-- RETRAIN: a partner's RETRAIN is joined at once (R310). -/
def execRetrain (p : Fin 3) (s : State) : Host.Outcome State Fault Refusal := ok (s.dev.startRetrain p.val) s

/-- TETHER_RECEIVE_SILENCE: no good flit for 8 us (R309). -/
def execTetherReceiveSilence (p : Fin 3) (s : State) : Host.Outcome State Fault Refusal := ok (s.dev.startRetrain p.val) s

/-- A failure of the oldest unacknowledged flit (R309). -/
def Dev.flitFails (d : Dev) (p : Nat) : Dev :=
  let x := d.tport p
  if x.st ≠ .active || x.replay.isEmpty then d
  else
    let n := x.failures + 1
    let d := d.setTport p { x with failures := n }
    if 9 ≤ n then d.tetherDown p else if n = 5 then d.startRetrain p else d.replay p

/-- TETHER_REPLAY_TIMER_EXPIRY (R308, R309). -/
def execTetherReplayTimerExpiry (p : Fin 3) (s : State) : Host.Outcome State Fault Refusal := ok (s.dev.flitFails p.val) s

/-- What every good flit brings in its header: Ack and CrTotal (R298, R306, R308). -/
def Dev.takeHeader (d : Dev) (p : Nat) (h : FlitHdr) : Dev :=
  (d.modTport p fun x => (x.ackTo h.ack).takeCredits h.crClass.toNat h.crTotal).pump p

/-- NAK: the flits up to Ack are freed, and the oldest of the others has failed (R307, R308). -/
def Dev.takeNak (d : Dev) (p : Nat) (ack : BitVec 12) : Dev :=
  if (d.tport p).st ≠ .active then d
  else ((d.modTport p fun x => x.ackTo ack).flitFails p).pump p

def execNak (p : Fin 3) (ack : BitVec 12) (s : State) : Host.Outcome State Fault Refusal := ok (s.dev.takeNak p.val ack) s

/-- IDLE_FLIT (R298). -/
def Dev.idleFlit (d : Dev) (p : Nat) (h : FlitHdr) : Dev :=
  if (d.tport p).st ≠ .active then d
  else
    let d := d.takeHeader p h
    if h.nak then (d.flitFails p).pump p else d

def execIdleFlit (p : Fin 3) (hdr : FlitHdr) (s : State) : Host.Outcome State Fault Refusal := ok (s.dev.idleFlit p.val hdr).flow s

/-- A Nak goes out, unless one for this NE is outstanding (R307). -/
def Dev.sendNak (d : Dev) (p : Nat) : Dev :=
  if (d.tport p).nak then d else (d.modTport p fun x => { x with nak := true }).sendIdle p true

/-- BAD_FLIT: discarded, counted, and answered with a Nak (R299, R307). -/
def Dev.badFlit (d : Dev) (p : Nat) : Dev :=
  if (d.tport p).st ≠ .active then d
  else ((d.modTport p fun x => { x with counts := x.counts.put 2 (x.counts.val 2 0 + 1) }).bump (evTether p 3)).sendNak p

def execBadFlit (p : Fin 3) (s : State) : Host.Outcome State Fault Refusal := ok (s.dev.badFlit p.val) s

/-- Slots that a message takes (R301): an MGMT or MRSP by its body of up to 207 bytes behind the SubOp. -/
def msgSlots (m : Msg) : Nat :=
  match m.op with
  | .wr | .swb => 5
  | .wrp => 6
  | .rsp => if m.status = 0 && m.data ≠ 0 then 5 else 1
  | .mgmt | .mrsp => max 2 (1 + ceilDiv (1 + m.body.length) 16)
  | _ => 1

/-- A sequenced flit obeys R299: its kind, its messages' channel and class, and no more than 14 slots. -/
def flitFormed (f : Flit) : Bool :=
  let req := f.hdr.kind = 1
  (f.hdr.kind = 1 || f.hdr.kind = 2) && !f.msgs.isEmpty && f.msgs.all (fun m => m.op.isRequest = req) &&
    (!req || f.msgs.all fun m => m.cls = f.hdr.flitClass.toNat) && f.msgs.foldl (fun n m => n + msgSlots m) 0 ≤ 14

/-- A sequenced flit arrives: taken in order, dropped as a duplicate or a gap, or bad (R299, R307). -/
def Dev.sequenced (d : Dev) (p : Nat) (f : Flit) : Dev :=
  if (d.tport p).st ≠ .active then d
  else if !flitFormed f then d.badFlit p
  else
    let d := d.takeHeader p f.hdr
    let d := if f.hdr.nak then (d.flitFails p).pump p else d
    let x := d.tport p
    let gap := (f.hdr.seq - x.ne).toNat
    if x.st ≠ .active then d
    else if gap = 0 then
      let x := { x with ne := x.ne + 1, nak := false }
      let x := if f.hdr.kind = 1 then { x with pool := x.pool ++ [(f.hdr.flitClass.toNat, f.msgs)] } else { x with rsps := x.rsps ++ f.msgs }
      ((d.setTport p x).bump (evTether p 1)).sendIdle p
    else if 2048 ≤ gap then (d.bump (evTether p 4)).sendIdle p
    else d.sendNak p

def execRequestFlit (p : Fin 3) (flit : Flit) (s : State) : Host.Outcome State Fault Refusal :=
  ok (if flit.hdr.kind = 1 then s.dev.sequenced p.val flit else s.dev.badFlit p.val).flow s

def execResponseFlit (p : Fin 3) (flit : Flit) (s : State) : Host.Outcome State Fault Refusal :=
  ok (if flit.hdr.kind = 2 then s.dev.sequenced p.val flit else s.dev.badFlit p.val).flow s

end Sys2Proof.Machine
end

