-- ==== Sys2Proof/Machine/Fw.lean ====
section
/-! DEFINITION. Firmware images, the boot control blocks and firmware activation (spec/17 R463 to R465; spec/12 R333 0200h to 0202h,
R350, R351; log 8 for the layouts of the standard commands). -/

namespace Sys2Proof.Machine

open Sys2Proof

/-! ### Images (R463, R464) -/

/-- Bytes of an image slot, and of the longest body. -/
def slotBytes : Nat := 4194304
def bodyBytes : Nat := 1572864

/-- Body of an image. -/
def imageBody (img : List Byte) : List Byte := slice img 0x200 (field img 8 4)

/-- The first check of R464 that an image fails, 1 to 6; none: it passes. A body of a length that the header's table does not let
stand fails the check of the digest. -/
def imageFails (img : List Byte) : Option Nat :=
  let key := slice img 0x40 97
  let n := field img 8 4
  if field img 0 4 ≠ 0x4A4C4E44 || field img 4 1 ≠ 1 then some 1
  else if Config.sha384 key ≠ Config.keyHash then some 2
  else if !Config.ecdsaVerify key (slice img 0 0xA8) (slice img 0xA8 96) then some 3
  else if Config.stepping.toNat < field img 5 1 then some 4
  else if field img 6 2 < Config.secMin.toNat then some 5
  else if n % 64 ≠ 0 || bodyBytes < n || (Config.sha384 (imageBody img)).toNat ≠ leNat (slice img 0x10 48) then some 6
  else none

/-- The image in a flash slot. -/
def Dev.image (d : Dev) (slot : Nat) : List Byte := d.flash.slots.val slot []

/-- FwVersion of an image (R463). -/
def imageVersion (img : List Byte) : Nat := field img 0xC 4

/-- The boot control block that the ROM uses: the valid copy with the higher Sequence (R463). -/
def Dev.bootBlock (d : Dev) : Option (Nat × Nat × Nat) :=
  match d.flash.bcb.look 0, d.flash.bcb.look 1 with
  | some a, some b => if a.1 < b.1 then some (1, b) else some (0, a)
  | some a, none => some (0, a)
  | none, some b => some (1, b)
  | none, none => none

/-- The active slot; with no valid copy, slot A (log 34). -/
def Dev.activeSlot (d : Dev) : Nat := match d.bootBlock with | some (_, _, s) => s | none => 0

/-- Activate FW writes the copy with the lower Sequence (R463). -/
def Dev.writeBlock (d : Dev) (slot : Nat) : Dev :=
  let (copy, seq) := match d.bootBlock with | some (c, n, _) => (1 - c, n + 1) | none => (0, 1)
  { d with flash.bcb := d.flash.bcb.put copy (seq, slot) }

/-- The slot that boots: the active one, else the other, with the check that the active one failed (R464). -/
def Dev.bootChoice (d : Dev) : Option (Nat × Option Nat) :=
  let a := d.activeSlot
  match imageFails (d.image a) with
  | none => some (a, none)
  | some k => if imageFails (d.image (1 - a)) = none then some (1 - a, some k) else none

/-- Firmware is loaded from flash into a code bank (R463, R464). None: neither slot passes. -/
def Dev.loadFirmware (d : Dev) (bank : Nat) : Option Dev :=
  d.bootChoice.map fun (slot, failed) =>
    { d with
      flash.running := slot, flash.bank := bank, flash.banks := d.flash.banks.put bank (imageBody (d.image slot))
      flash.version := BitVec.ofNat 32 (imageVersion (d.image slot))
      flash.fallback := failed.map fun k => (slot, k) }

/-- Every core in service runs from a code bank. -/
def Dev.coresTo (d : Dev) (bank : Nat) : Dev :=
  each (List.range 16) d fun d c => if (d.core c).bank = bank then d else d.setCore c { d.core c with bank := bank }

/-- Step 4 of R462: the ROM boots an image, or stays in recovery with FAULT_N low (R464, R465). -/
def Dev.bootFirmware (d : Dev) : Dev :=
  match d.loadFirmware 0 with
  | some d => ({ d with boot := .firmware }.coresTo 0).faultN d.fault.hold
  | none => { d with boot := .recovery }.faultN true

/-! ### Get FW Info and Transfer FW (R333; log 8) -/

/-- Get FW Info: two slots, the slot that runs, the slot of the next boot, online activation, and the version of each image. -/
def Dev.fwInfo (d : Dev) (iss : Issuer) (inp : List Byte) : Dev :=
  if inp ≠ [] then d.answerStd iss .invalidLength []
  else
    let staged := if d.activeSlot = d.flash.running then 0 else d.activeSlot + 1
    let rev (s : Nat) : List Byte := leBytes 16 (if (d.image s).isEmpty then 0 else imageVersion (d.image s))
    d.answerStd iss .success
      ([2, BitVec.ofNat 8 (d.flash.running + 1 + 8 * staged), 1] ++ zeros 13 ++ rev 0 ++ rev 1 ++ zeros 32)

def execGetFwInfo (iss : Issuer) (inp : List Byte) (s : State) : Host.Outcome State Fault Refusal :=
  ok (s.dev.command iss 0x200 fun d => d.fwInfo iss inp) s

/-- Transfer FW: a whole image, or one in parts, into a slot that does not run. -/
def Dev.transferFw (d : Dev) (iss : Issuer) (inp : List Byte) : Dev :=
  let action := field inp 0 1
  let slot := field inp 1 1
  let off := field inp 4 4 * 128
  let data := inp.drop 128
  let end_ (r : Ret) (d : Dev) : Dev := d.answerStd iss r []
  let badSlot := slot ≠ 1 && slot ≠ 2 || (slot = d.flash.running + 1 && d.boot ≠ .recovery)
  let write (img : List Byte) : Dev := end_ .success { d with flash.slots := d.flash.slots.put (slot - 1) img, flash.xfer := none }
  if inp.length < 128 then end_ .invalidLength d
  else if !rsvd inp 2 2 || !rsvd inp 8 120 then end_ .invalidInput d
  else
    match action, d.flash.xfer with
    | 0, some _ => end_ .fwInProgress d
    | 0, none => if badSlot then end_ .invalidSlot d else if slotBytes < data.length then end_ .invalidInput d else write data
    | 1, some _ => end_ .fwInProgress d
    | 1, none => if off ≠ 0 then end_ .fwOutOfOrder d else end_ .success { d with flash.xfer := some (slot, data) }
    | 2, some (k, img) =>
      if off ≠ img.length then end_ .fwOutOfOrder d
      else if slotBytes < img.length + data.length then end_ .invalidInput d
      else end_ .success { d with flash.xfer := some (k, img ++ data) }
    | 3, some (_, img) =>
      if off ≠ img.length then end_ .fwOutOfOrder d
      else if badSlot then end_ .invalidSlot d
      else if slotBytes < img.length + data.length then end_ .invalidInput d
      else write (img ++ data)
    | 4, some _ => end_ .success { d with flash.xfer := none }
    | 2, none | 3, none | 4, none => end_ .fwOutOfOrder d
    | _, _ => end_ .invalidInput d

def execTransferFw (iss : Issuer) (inp : List Byte) (s : State) : Host.Outcome State Fault Refusal :=
  ok (s.dev.command iss 0x201 fun d => d.transferFw iss inp) s

/-! ### Activate FW (R350, R351, R465) -/

/-- The settings in force or staged (R350 step 2). -/
def Dev.settingsHeld (d : Dev) : List Nat :=
  let staged := match d.conf.sheet with
    | some s => s.staged.filterMap fun e => match e with | .setting id .. => some id | _ => none
    | none => []
  (d.conf.cur.keys.map (· / 65536) ++ staged).eraseDups

/-- A cinch is pending on the device (R345, R350). -/
def Dev.cinchPending (d : Dev) : Bool := (d.conf.sheet.bind (·.cinch)).isSome

/-- Step 1 of an online activation: the code bank that does not run takes the image (R45, R350). -/
def Dev.loadBank (d : Dev) (action : Nat) (img : List Byte) : Dev :=
  if action = 0 then { d with flash.banks := d.flash.banks.put (1 - d.flash.bank) (imageBody img) } else d

/-- Activate FW: at the next cold reset, or online as a background command. In recovery it restarts the boot. -/
def Dev.activateFw (d : Dev) (iss : Issuer) (inp : List Byte) : Dev :=
  let action := field inp 0 1
  let slot := field inp 1 1
  let img := d.image (slot - 1)
  if inp.length ≠ 2 then d.answerStd iss .invalidLength []
  else if 1 < action then d.answerStd iss .invalidInput []
  else if slot ≠ 1 && slot ≠ 2 then d.answerStd iss .invalidSlot []
  else if d.boot = .recovery then
    if imageFails img ≠ none then d.answerStd iss .invalidInput []
    else ((d.writeBlock (slot - 1)).answerStd iss .success []).bootFirmware
  else if d.coresUp ≤ 7 then d.answerStd iss .internal []
  else if d.cinchPending || d.flash.act.isSome || (action = 0 && d.bgBusy iss) then d.answerStd iss .busy []
  else
  let d := d.loadBank action img
  if imageFails img ≠ none || !(d.settingsHeld.all fun id => Config.implements img id) then d.answerStd iss .invalidInput []
  else if action = 1 then (d.writeBlock (slot - 1)).answerStd iss .success []
  else { d with flash.act := some { slot := slot - 1, bank := 1 - d.flash.bank, box := issuerBox iss } }.startBg iss 0x202

def execActivateFw (iss : Issuer) (inp : List Byte) (s : State) : Host.Outcome State Fault Refusal :=
  ok (s.dev.command iss 0x202 fun d => d.activateFw iss inp) s

/-- The activation fails: the pairs handed over return to the old bank, and the command ends with ACTIVATE_FAILED (R351). -/
def Dev.abandonActivation (d : Dev) : Dev :=
  match d.flash.act with
  | none => d
  | some a => ({ d with flash.act := none }.coresTo d.flash.bank).endBgRet a.box .activationFailed Status.activateFailed.code []

/-- FW_PAIR_HANDOVER: the next pair restarts in the new bank; after the last the activation is done (R350, R351). -/
def Dev.pairHandover (d : Dev) (check : Bool) : Dev :=
  match d.flash.act with
  | none => d
  | some a =>
    if !d.awake then d
    else if !check then d.abandonActivation
    else
      let d := each [2 * a.pair, 2 * a.pair + 1] d fun d c => d.setCore c { d.core c with bank := a.bank }
      if a.pair < 7 then { d with flash.act := some { a with pair := a.pair + 1 } }
      else
        let d := { d with flash.act := none, flash.running := a.slot, flash.bank := a.bank
                          flash.version := BitVec.ofNat 32 (imageVersion (d.image a.slot)) }
        (d.writeBlock a.slot).endBgRet a.box .success 0 []

def execFwPairHandover (selfCheck : Bool) (s : State) : Host.Outcome State Fault Refusal := ok (s.dev.pairHandover selfCheck) s

end Sys2Proof.Machine
end

