-- ==== Sys2Proof/Machine/Power.lean ====
section
/-! DEFINITION. The power states (spec/17 R447 to R460): POWER.ENTER and POWER.STATUS (spec/13 R384, R385), the steps of an entry with
its abort points, dozing Tether ports, and the steps of a wake; and the state in which a reset holds the device (R461). -/

namespace Sys2Proof.Machine

open Sys2Proof

/-! ### Held in reset (R3, R389, R398, R402, R430, R433, R437, R461) -/

/-- Every cold boot starts from here: what flash, the board, the pins and the running input channel keep, and nothing else.
`keep`: the reset-cause register after it. -/
def Dev.toHeld (d : Dev) (keep : Option (Nat × Nat)) : Dev :=
  let input := d.hchan inputCh
  let restart := input.st = .latchedOff || input.st = .tripped
  let x : Dev :=
    { clk := { draw := d.clk.draw }
      out := d.out
      flash := { d.flash with running := 0, version := 0, bank := 0, xfer := none, fallback := none, act := none, memActive := false }
      dram := { faultLog := d.dram.faultLog, repairs := d.dram.repairs, hardDone := d.dram.hardDone }
      fault := { rows := d.fault.rows, low := d.fault.low }
      ev := { pins := d.ev.pins }
      host := { ports := d.host.ports.map fun (e : Nat × HPortSt) => (e.1, { e.2 with retired := 0 }) }
      hitch := { chans := [(inputCh, { input with retries := 0, timer := none, unmon := false, st := if restart then .off else input.st })]
                 records := d.hitch.records, pre := d.hitch.pre, gate := d.hitch.gate, vinGood := d.hitch.vinGood }
      power := { vdd := d.power.vdd, cause := keep, thermtrip := d.power.thermtrip, vaux := d.power.vaux
                 coreEn := d.power.coreEn, corePg := d.power.corePg, rst := d.power.rst, i3cAddr := d.power.i3cAddr } }
  (if restart then x.startInput else x).faultN false

/-- A cold wake: the AO domain is reset but for the reset-cause register, and a cold boot follows (R457). -/
def Dev.coldWake (d : Dev) (cause step : Nat) : Dev :=
  let d := d.toHeld (some (cause, step))
  if d.power.coreEn then d else { d with power.coreEn := true }.say (.pin "CORE_EN" true)

/-! ### Dozing Tether ports (R453) -/

/-- A link-local management message (R302). -/
def Dev.mgmtLocal (d : Dev) (p subOp : Nat) (body : List Byte) : Dev :=
  match d.freeTag with
  | none => d
  | some t =>
    { d with chain.tags := d.chain.tags.put t (.mgmt subOp (32 + p) body) }.sendMsg p
      { op := .mgmt, label := 0x7F, tag := BitVec.ofNat 16 t, origin := BitVec.ofNat 5 d.chain.index, pathMode := true
        subOp := BitVec.ofNat 8 subOp, body := body }

/-- Nothing that crossed a port is still open: both replay buffers and both receive pools are empty. -/
def TPort.still (x : TPort) : Bool := x.replay.isEmpty && x.pool.isEmpty && x.rsps.isEmpty && x.tx.isEmpty

/-- A port whose doze is agreed goes into electrical idle once it is still. -/
def Dev.tryDoze (d : Dev) (p : Nat) : Dev :=
  let x := d.tport p
  if x.doze ≠ 0 && (x.st = .active || x.st = .standby) && x.still && !(match d.power.entry with | some e => e.dozing.contains p | none => false)
  then ((d.setTport p { x with st := .td }).say (.ctl p .electricalIdle)).checkScan else d

/-- A dozing port resumes: it leaves electrical idle and trains from TA; one that was still awake goes on. -/
def Dev.undoze (d : Dev) (p : Nat) : Dev :=
  let x := d.tport p
  if x.doze = 0 then d
  else if x.st = .td then d.toTa p
  else if x.st = .active || x.st = .standby then (d.modTport p fun x => { x with doze := 0 }).pump p else d

/-- Activity on a dozing port: it wakes the device under Wake bit 3; a device that is awake trains the link (R453, R454). -/
def Dev.dozeActivity (d : Dev) (p : Nat) : Dev :=
  if d.power.st = .p0 && d.power.entry.isNone then (if d.clocked then d.undoze p else d) else d.wakeEvent 3

/-! ### Condition 4 of R57 (R448) -/

/-- LDs that hold a region with a C0 default label. -/
def Dev.beamLds (d : Dev) : List Nat :=
  ((d.conf.regions.filter fun r => labelCls r.label = .c0 && r.home.isNone).map (·.ld)).eraseDups

def Dev.suspendAll (d : Dev) : Dev := each d.beamLds { d with power.suspended := true } fun d ld => d.suspend ld 4
def Dev.restoreAll (d : Dev) : Dev := each (List.range 32) { d with power.suspended := false } fun d ld => d.restore ld 4

/-- POWER.ENTER completes on the interface that issued it (R384). -/
def Dev.endEnter (d : Dev) (outcome cause : Nat) : Dev :=
  match d.power.box with
  | some b => { d with power.box := none }.endBg b .success ([BitVec.ofNat 8 outcome, BitVec.ofNat 8 cause] ++ zeros 4)
  | none => d

/-! ### POWER.ENTER (R384, R449) -/

/-- What keeps the device from leaving P0. -/
def Dev.enterBusy (d : Dev) (target : PState) : Bool :=
  let copying := (List.range 8).any fun c => (d.chan c).copy.isSome
  let trained := (List.range 4).any fun l => let s := (d.link l).st; s = .up || s = .l1
  d.power.st ≠ .p0 || d.power.entry.isSome || d.jobs.slots.any (fun e => e.2.st = .queued || e.2.st = .active) || d.cinchPending ||
    d.flash.act.isSome || (target = .p1 && copying) || d.hitch.window.isSome ||
    (target ≠ .p1 && (d.crossed || d.conf.regions.any fun r => r.home.isSome && r.floor.getD d.chain.index 0 ≠ 0)) ||
    (target = .p3 && trained)

/-- POWER.ENTER: the entry's step 0 sets the mode bits, which is point E0 (R448, R450). -/
def Dev.powerEnter (d : Dev) (iss : Issuer) (inp : List Byte) : Dev :=
  let st := field inp 0 1
  let wake := field inp 1 1
  let target : PState := match st with | 1 => .p1 | 2 => .p2 | _ => .p3
  if inp.length ≠ 8 then d.badLength iss
  else if !issuerMc iss || st = 0 || 3 < st || wake = 0 || 31 < wake || !rsvd inp 2 6 then d.refuse iss .invalidInput 8
  else if d.bgBusy iss || d.enterBusy target then d.refuse iss .busy 8
  else
    let d := d.startBg iss 0xC800
    { d with
      power.entry := some { target := target, wake := BitVec.ofNat 8 wake, next := 1 }, power.wake := BitVec.ofNat 8 wake
      power.box := some (issuerBox iss), power.pending := [], power.quiet := decide (target ≠ PState.p1) }.suspendAll

def execPowerEnter (iss : Issuer) (inp : List Byte) (s : State) : Host.Outcome State Fault Refusal :=
  ok (s.dev.command iss 0xC800 fun d => d.powerEnter iss inp) s

/-- POWER.STATUS (R385). -/
def Dev.powerStatus (d : Dev) (iss : Issuer) (inp : List Byte) : Dev :=
  if inp ≠ [] then d.refuse iss .invalidLength 8
  else
    let tj := d.fault.monitors.foldl (fun n e => max n e.2.1) 0
    d.reply iss .success
      ([BitVec.ofNat 8 (pstateNum d.power.st), BitVec.ofNat 8 (flag d.dram.hot + 2 * flag d.power.throttle + 4 * flag d.power.aoLow)] ++
        leBytes 2 d.power.vdd ++ [BitVec.ofNat 8 tj, BitVec.ofNat 8 d.power.lastWake] ++ zeros 8)

def execPowerStatus (iss : Issuer) (inp : List Byte) (s : State) : Host.Outcome State Fault Refusal :=
  ok (s.dev.command iss 0xC801 fun d => d.powerStatus iss inp) s

/-! ### An entry (R450 to R453) -/

/-- An entry is abandoned at E0 to E3: what was done is undone in reverse order (R452). -/
def Dev.abandonEntry (d : Dev) (point cause : Nat) : Dev :=
  let d := each [0, 1, 2] d Dev.undoze
  let d := each [0, 1, 2, 3] d fun d l => d.modLink l fun x => { x with aspm := false }
  let d := { d with power.entry := none, power.pending := [], power.quiet := false, power.saved := none, power.digest := none
                    power.wake := 0 }
  ((d.restoreAll).raise 0x12B .info none (point + cause * 8)).endEnter 1 cause

/-- The data path holds no request (R450 step 1). -/
def Dev.pathEmpty (d : Dev) : Bool :=
  d.path.reqs.isEmpty && d.home.flows.isEmpty && d.xl.walks.isEmpty && [0, 1, 2].all fun p => (d.tport p).pool.isEmpty && (d.tport p).rsps.isEmpty

/-- Step 3 begins at E2: the notices go out on every trained port (R453). -/
def Dev.startLinks (d : Dev) (e : Entry) : Dev :=
  let ports := if e.target = .p1 then [] else [0, 1, 2].filter fun p => (d.tport p).st = .active || (d.tport p).st = .standby
  let d := { d with power.entry := some { e with next := 3, dozing := ports } }
  let code := pstateNum e.target
  each ports d fun d p => (d.modTport p fun x => { x with doze := code }).mgmtLocal p 0x30 [BitVec.ofNat 8 code]

/-- The work of the entry's present step is done where it can be, up to the point n that ends it (R450). -/
def Dev.entryStep (d : Dev) (e : Entry) : Option Dev :=
  let next (d : Dev) : Option Dev := some { d with power.entry := some { e with next := e.next + 1, dozing := [] } }
  match e.next with
  | 1 => if e.target = .p1 || d.pathEmpty then next d else none
  | 2 =>
    if e.target = .p1 then some (d.startLinks e)
    else if !d.line.wb.isEmpty || (List.range 8).any (fun ch => (d.chan ch).copy.isSome) then none
    else
      let d := if e.target ≠ .p3 then d
        else
          let b := Config.savedBlock d.clk.draw
          { d.flushTree with power.saved := some b, power.digest := some (Config.sha384 b), clk.draw := d.clk.draw + 1 }
      some (d.startLinks e)
  | 3 =>
    let ports := [0, 1, 2].filter fun p => (d.tport p).doze ≠ 0
    let d := each ports d Dev.tryDoze
    if !e.dozing.isEmpty || ports.any (fun p => (d.tport p).st ≠ .td) then none
    else if e.target = .p1 then next (each [0, 1, 2, 3] d fun d l => d.modLink l fun x => { x with aspm := true })
    else next (each [0, 1, 2, 3] d fun d l => d.modLink l fun x => { x with st := if x.st = .up then .l1 else x.st })
  | 4 => next (if e.target = .p1 then d else { d with dram.selfRefresh := true })
  | 5 =>
    if e.target ≠ .p3 then next d
    else next ({ d with power.latched := true, power.coreEn := false }.say (.pin "CORE_EN" false))
  | _ => if e.target = .p3 && d.power.corePg then none else some d

/-- What the core domain holds is lost in P3 but for what was saved and what the AO domain keeps (R447, R451, R453, R456). -/
def Dev.darken (d : Dev) : Dev :=
  { d with
    xl.flb := [], xl.xc := [], xl.kc := [], xl.lastMiss := [], line.ct := [], prism.staging := [], home.dir := []
    fault.src := d.fault.src.map fun (e : Nat × Source) => (e.1, { e.2 with last := {}, fresh := 0, hard := false })
    chain.braidSeq := [], chain.braidAt := [] }

/-- The state is reached after step 6; events pending since E4 start the wake at once (R450, R452). -/
def Dev.entered (d : Dev) (e : Entry) : Dev :=
  let d := { d with power.entry := none, power.st := e.target, power.aoLow := decide (e.target = PState.p3) }
  let d := d.raise 0x129 .info none (pstateNum e.target + d.clk.beat.toNat * 4)
  let d := if e.target = .p3 then d.darken else d
  if d.power.pending.isEmpty then d else d.startWake

/-- POWER_ENTRY_STEP_DONE: the present step ends at its point, where a pending wake event abandons the entry, up to E3 (R450, R452). -/
def Dev.entryDone (d : Dev) : Dev :=
  match d.power.entry with
  | none => d
  | some e =>
    if 3 < e.next || d.power.pending.isEmpty then
      match d.entryStep e with
      | none => d
      | some d => if e.next = 6 then d.entered e else d
    else d.abandonEntry e.next (lowest d.power.pending)

def execPowerEntryStepDone (s : State) : Host.Outcome State Fault Refusal := ok s.dev.entryDone s

/-- DOZE_TIMEOUT: a partner has not answered the notice within 100 us: the entry is abandoned at E3. The cause that the record then
names is a free value (R453; log 11). -/
def Dev.dozeTimeout (d : Dev) (p : Nat) : Dev :=
  match d.power.entry with
  | some e =>
    if e.dozing.contains p then
      let (c, d) := d.free 8
      d.abandonEntry 3 c.toNat
    else d
  | none => d

def execDozeTimeout (p : Fin 3) (s : State) : Host.Outcome State Fault Refusal := ok (s.dev.dozeTimeout p.val) s

/-- The answer to a doze notice: Result 00h accepts; any other abandons the entry, as silence does. -/
def Dev.dozeAnswer (d : Dev) (p result : Nat) : Dev :=
  match d.power.entry with
  | some e =>
    if !e.dozing.contains p then d
    else if result = 0 then ({ d with power.entry := some { e with dozing := e.dozing.filter (· ≠ p) } }).tryDoze p
    else d.dozeTimeout p
  | none => d

/-! ### A wake (R459, R460) -/

/-- P0 is reached: C0 is restored, the Tether ports resume, and POWER.ENTER completes. -/
def Dev.wakeDone (d : Dev) (w : Waking) : Dev :=
  let left := pstateNum w.from_
  let d := { d with power.st := .p0, power.waking := none, power.quiet := false, power.latched := false, power.wake := 0, power.saved := none
                    power.digest := none, power.lastWake := w.cause
                    chain.braidOk := if left < 2 then d.chain.braidOk else [], chain.mayStep := d.chain.mayStep || 2 ≤ left }
  let d := each [0, 1, 2, 3] d fun d l => d.modLink l fun x => { x with aspm := false }
  let d := if left < 2 then d else each [0, 1, 2] d Dev.undoze
  ((d.doorbell 0x38E).restoreAll.raise 0x12A .info none (left + w.cause * 4 + d.clk.beat.toNat * 2 ^ 10)).endEnter 0 w.cause

/-- At the boundary: a wake from P1 reaches P0 (R448). -/
def Dev.wakeBoundary (d : Dev) : Dev :=
  match d.power.waking with
  | some w => if w.from_ = .p1 then d.wakeDone w else d
  | none => d

/-- A physical rank that fails training is retired, with no copy from it (R214). -/
def Dev.untrained (d : Dev) (ch phys : Nat) : Dev :=
  let c := d.chan ch
  if c.retiredPhys.contains phys || d.dram.ranks ≤ phys then d
  else
    match (List.range d.dram.logical).find? fun l => c.remap.val l l = phys && !c.retired.contains l with
    | some l => d.loseRank ch l
    | none => d.modChan ch fun c => { c with shadows := c.shadows.filter (· ≠ phys), retiredPhys := c.retiredPhys ++ [phys] }

/-- Step 4 of a wake: firmware comes from the saved block where its digest matches and DarkImage is 1, else from flash; it trains,
applies module losses and loads the pins (R93, R214, R435, R459). None: no image passes, and the step does not end. -/
def Dev.wakeLogic (d : Dev) (w : Waking) (failed : List (Nat × Nat)) : Option Dev :=
  let kept := d.power.saved.isSome && d.power.saved.map Config.sha384 = d.power.digest && d.setting idDarkImage 0 = 1
  let code := if w.from_ ≠ .p3 || kept then some d else d.loadFirmware d.flash.bank
  code.map fun d =>
    let d := each (List.range 8) d Dev.trainChan
    let d := each failed d fun d e => (d.untrained e.1 e.2).faultEvent (srcRank e.1 e.2) 6 (15 * 2 ^ 44 + e.2 % 4 * 2 ^ 48 + e.1 * 2 ^ 50)
    (d.applyLosses.repin).wakeDone w

/-- The record of a step that ran into its timeout (R460, R467). -/
def Dev.wakeRecord (d : Dev) (w : Waking) (mask : Nat) (second : Bool) : Dev :=
  d.raise 0x12C .warning none (w.step + 16 * flag second + 32 * (if w.step = 5 then mask else 0))

/-- The present step's ready signal: the next one starts (R459). -/
def Dev.wakeReady (d : Dev) (failed : List (Nat × Nat)) : Dev :=
  match d.power.waking with
  | none => d
  | some w =>
    let d' := match w.again with | some m => d.wakeRecord w m.toNat true | none => d
    let go (d : Dev) (n : Nat) : Dev := { d with power.waking := some { w with step := n, again := none } }
    if w.from_ = .p1 then d
    else
      match w.step with
      | 1 => if d.power.corePg then go d' 2 else d
      | 2 => go d' (if w.from_ = .p3 then 3 else 5)
      | 3 => go d' 4
      | 4 => go d' 5
      | 5 => go { d' with dram.selfRefresh := false } 6
      | 6 => go d' 7
      | _ => (d'.wakeLogic w failed).getD d

/-- WAKE_STEP_TIMEOUT: the step is undone and run once more; the second time 3c loses the modules of the channels still in self-refresh,
and any other step makes a cold wake (R460). The loss is recorded as a trip (log 35). -/
def Dev.wakeTimeout (d : Dev) (stuck : BitVec 8) : Dev :=
  match d.power.waking with
  | none => d
  | some w =>
    if w.from_ = .p1 then d
    else if w.again.isNone then { d with power.waking := some { w with again := some stuck } }
    else if w.step ≠ 5 then d.coldWake 3 w.step
    else
      let slots := (List.range 16).filter fun s => stuck.getLsbD (s / 2) && d.dram.mods.has s
      let d := (d.wakeRecord w stuck.toNat false)
      let d := each slots d fun d s => d.dropModule s .trip
      { d with dram.selfRefresh := false, power.waking := some { w with step := 6, again := none } }

def execWakeStepTimeout (stuck : BitVec 8) (s : State) : Host.Outcome State Fault Refusal := ok (s.dev.wakeTimeout stuck) s

/-- WAKE_EVENT (R454). A fault wakes up to E4 alone. -/
def execWakeEvent (cause : WakeCause) (s : State) : Host.Outcome State Fault Refusal :=
  ok (if cause = .fault then s.dev.wakeFault else s.dev.wakeEvent (causeNum cause)) s

/-- BROWN_OUT: in low-power mode the AO load is too high (R457). -/
def execBrownOut (s : State) : Host.Outcome State Fault Refusal := ok (if s.dev.power.aoLow then s.dev.coldWake 1 0 else s.dev) s

/-- VDDQ_D_LOSS: VDDQ_D falls while the pads are latched (R457). -/
def execVddqDLoss (s : State) : Host.Outcome State Fault Refusal := ok (if s.dev.power.latched then s.dev.coldWake 2 0 else s.dev) s

/-! ### Host links (R447 to R449) -/

/-- HOST_LINK_POWER_STATE_CHANGE: a link enters L1 or L2, or leaves L1, which in P2 wakes the device whatever Wake holds (R448, R454). -/
def Dev.linkPower (d : Dev) (l : Nat) (dest : LState) : Dev :=
  let st := (d.link l).st
  let set (s : HLinkSt) : Dev := (d.modLink l fun x => { x with st := s }).checkScan
  match dest, st with
  | .l1, .up => set .l1
  | .l2, .up | .l2, .l1 => set .l2
  | .l0, .l1 => ((set .up).flush l).wakeEvent 0 (d.power.st = .p2 || (match d.power.entry with | some e => e.target = .p2 | none => false))
  | _, _ => d

def execHostLinkPowerStateChange (l : Link) (dest : LState) (s : State) : Host.Outcome State Fault Refusal :=
  ok (s.dev.linkPower (linkNum l) dest).flow s

end Sys2Proof.Machine
end

