-- ==== Sys2Proof/Machine/Train.lean ====
section
/-! DEFINITION. Training of Tether links from TD to TH, and their width resets (spec/10 R278 to R283, R293, R294). -/

namespace Sys2Proof.Machine

open Sys2Proof

/-- Lanes that may be part of the link: detected, with symbol lock, not retired, and with the Nonce of the partner's lane 0 (R281,
R282). Where lane 0 has brought none, the lowest lane that has speaks for it (log 36). -/
def TPort.usable (x : TPort) (i : Nat) : Bool :=
  let zero := match x.laneNonce.look 0 with | some n => some n | none => (x.laneNonce.head?).map (·.2)
  x.present.getLsbD i && x.lock.getLsbD i && !x.retired.getLsbD i && x.laneNonce.look i = zero && zero.isSome

/-- Width and order that R282 gives, no wider than the partner proposes. -/
def TPort.fit (x : TPort) : Nat × Bool :=
  let (w, rev) := widthOf 8 x.usable
  (min w (x.partnerWidth.toNat % 16), rev)

/-- The target rate: 128 GT/s where both advertise it and TetherRate permits it (R280). -/
def Dev.targetRate (d : Dev) (p : Nat) : Nat := if (d.tport p).partnerRates.getLsbD 1 && (d.ownRates p).getLsbD 1 then 2 else 1

/-- The port enters TC: TTS2 on every lane that has lock. -/
def Dev.toTc (d : Dev) (p : Nat) : Dev := (d.tstate p .tc).say (.ctl p (.tts 1 (d.ownSet p)))

/-- TETHER_RECEIVER_DETECTED: a receiver on at least one lane takes a port in TD to TA (R280, R328, R394, R462). -/
def Dev.receiverFound (d : Dev) (p : Nat) (lanes : BitVec 8) : Dev :=
  let x := d.tport p
  if !d.clocked || x.st ≠ .td || x.doze ≠ 0 || x.retiredLink || d.setting idTetherEnable p = 0 || lanes = 0 then d
  else (d.modTport p fun x => { x with present := lanes }).toTa p

def execTetherReceiverDetected (p : Fin 3) (lanes : BitVec 8) (s : State) : Host.Outcome State Fault Refusal :=
  ok (s.dev.receiverFound p.val lanes) s

/-- TTS1: a lane takes symbol lock; with every detected lane locked TA ends. One with Reset set on a link in use is the partner's width
reset, which this side joins; one on a dozing port is activity on it (R280, R281, R293, R453). -/
def Dev.takeTts1 (d : Dev) (p lane : Nat) (set : TrainSet) : Dev :=
  let x := d.tport p
  if x.st = .td && x.doze ≠ 0 then d.dozeActivity p
  else
    let d := if set.reset.getLsbD 0 && (x.st = .active || x.st = .standby || x.st = .retraining) then d.startReset p else d
    let x := d.tport p
    if x.st ≠ .ta || !x.present.getLsbD lane || x.retired.getLsbD lane then d
    else
      let x := { x with
        lock := x.lock ||| BitVec.ofNat 8 (2 ^ lane), laneNonce := x.laneNonce.put lane set.nonce
        partnerRates := set.rates, partnerWidth := set.width }
      let d := d.setTport p x
      if (x.present &&& ~~~x.retired &&& ~~~x.lock) = 0 then d.toTc p else d

def execTts1 (p : Fin 3) (lane : Fin 8) (set : TrainSet) (s : State) : Host.Outcome State Fault Refusal :=
  ok (s.dev.takeTts1 p.val lane.val set) s

/-- TA_LOCK_WINDOW_EXPIRY: 2 ms have passed since the first lane locked (R280). -/
def Dev.lockWindow (d : Dev) (p : Nat) : Dev := if (d.tport p).st = .ta && (d.tport p).lock ≠ 0 then d.toTc p else d

def execTaLockWindowExpiry (p : Fin 3) (s : State) : Host.Outcome State Fault Refusal := ok (s.dev.lockWindow p.val) s

/-- TTS2: width, lane order and target rate are fixed; with matching TTS2 on every configured lane TC ends. A width of 0 means the link
is down (R280 to R282, R294). -/
def Dev.takeTts2 (d : Dev) (p lane : Nat) (set : TrainSet) : Dev :=
  let x := d.tport p
  if x.st ≠ .tc || !x.lock.getLsbD lane then d
  else
    let x := { x with
      laneNonce := x.laneNonce.put lane set.nonce, partnerRates := set.rates, partnerWidth := set.width
      partnerPort := BitVec.ofNat 2 set.port.toNat, cfg := x.cfg ||| BitVec.ofNat 8 (2 ^ lane) }
    let (w, rev) := x.fit
    let d := d.setTport p x
    if w = 0 then d.toTd p
    else
      let d := d.setTport p { x with width := w, reversed := rev, rate := d.targetRate p }
      if (List.range 8).all fun i => !laneUsed 8 w rev i || x.cfg.getLsbD i then (d.tstate p .ts).say (.ctl p .electricalIdle) else d

def execTts2 (p : Fin 3) (lane : Fin 8) (set : TrainSet) (s : State) : Host.Outcome State Fault Refusal :=
  ok (s.dev.takeTts2 p.val lane.val set) s

/-- TETHER_SPEED_LOCK: TE follows; with coefficients found before at this rate it is passed at once (R280, R283, R293). -/
def Dev.speedLock (d : Dev) (p : Nat) : Dev :=
  let x := d.tport p
  if x.st ≠ .ts then d
  else if x.resetting && x.coefRate = x.rate then d.tstate p .th
  else (d.setTport p { x with eqAsks := 0, eqDone := (false, false), coefs := (0, 0, 0) }).tstate p .te

def execTetherSpeedLock (p : Fin 3) (s : State) : Host.Outcome State Fault Refusal := ok (s.dev.speedLock p.val) s

/-- TE ends once both directions are done. -/
def Dev.equalised (d : Dev) (p : Nat) : Dev :=
  let x := d.tport p
  if x.eqDone = (true, true) then (d.setTport p { x with coefRate := x.rate }).tstate p .th else d

/-- One step of a coefficient. -/
def coefStep (c : Int × Int × Int) (k : Coef) (up : Bool) : Int × Int × Int :=
  let s : Int := if up then 1 else -1
  match k with
  | .pre => (c.1 + s, c.2.1, c.2.2)
  | .main => (c.1, c.2.1 + s, c.2.2)
  | .post => (c.1, c.2.1, c.2.2 + s)

/-- EQUALISATION_REQUEST: the partner's receiver asks this transmitter for a step, or says that it is done; 64 requests end it
(R283). -/
def Dev.eqRequest (d : Dev) (p : Nat) (k : Coef) (up done : Bool) : Dev :=
  let x := d.tport p
  if x.st ≠ .te || x.eqDone.2 then d
  else
    let asks := x.eqAsks + flag (!done)
    (d.setTport p { x with
      coefs := if done then x.coefs else coefStep x.coefs k up, eqAsks := asks, eqDone := (x.eqDone.1, done || 64 ≤ asks) }).equalised p

def execEqualisationRequest (p : Fin 3) (coef : Coef) (up done : Bool) (s : State) : Host.Outcome State Fault Refusal :=
  ok (s.dev.eqRequest p.val coef up done) s

/-- EQUALISATION_TIME_LIMIT: a direction is over: this port's own receiver, or the partner's (R283). -/
def Dev.eqLimit (d : Dev) (p : Nat) (mine : Bool) : Dev :=
  let x := d.tport p
  if x.st ≠ .te then d
  else (d.setTport p { x with eqDone := (x.eqDone.1 || mine, x.eqDone.2 || !mine) }).equalised p

def execEqualisationTimeLimit (p : Fin 3) (mine : Bool) (s : State) : Host.Outcome State Fault Refusal := ok (s.dev.eqLimit p.val mine) s

/-- TH_DESKEW_DONE: the link-up handshake begins, of a link that trained or one that retrains (R280, R310). -/
def Dev.deskewed (d : Dev) (p : Nat) : Dev :=
  let st := (d.tport p).st
  if st = .th || st = .retraining then d.toHandshake p else d

def execThDeskewDone (p : Fin 3) (s : State) : Host.Outcome State Fault Refusal := ok (s.dev.deskewed p.val) s

/-- TETHER_WIDTH_RESET_DONE: the reset has passed TC to TH on the lanes left; with none the link is down (R282, R293, R294). -/
def Dev.resetDone (d : Dev) (p : Nat) : Dev :=
  let x := d.tport p
  let on := x.st = .ta || x.st = .tc || x.st = .ts || x.st = .te || x.st = .th
  if !x.resetting || !on then d
  else
    let (w, rev) := widthOf 8 fun i => x.present.getLsbD i && !x.retired.getLsbD i && (x.lock = 0 || x.lock.getLsbD i)
    if w = 0 then d.toTd p
    else (d.setTport p { x with width := w, reversed := rev, rate := d.targetRate p, coefRate := d.targetRate p }).toHandshake p

def execTetherWidthResetDone (p : Fin 3) (s : State) : Host.Outcome State Fault Refusal := ok (s.dev.resetDone p.val) s

/-- TETHER_TRAIN_STATE_TIMEOUT: the state under way returns the link to TD; a width reset that times out so takes it down (R280,
R294). -/
def Dev.trainTimeout (d : Dev) (p : Nat) : Dev :=
  let st := (d.tport p).st
  if st.training && st ≠ .handshake then d.toTd p else d

def execTetherTrainStateTimeout (p : Fin 3) (s : State) : Host.Outcome State Fault Refusal := ok (s.dev.trainTimeout p.val) s

/-- PARTNER_LEAVES_ELECTRICAL_IDLE: a port held down after TETHER_TRAIN_FAIL trains again; a dozing one sees activity (R280, R453). -/
def Dev.partnerStirs (d : Dev) (p : Nat) : Dev :=
  let x := d.tport p
  if x.st = .heldDown && !x.retiredLink then d.modTport p fun x => { x with st := .td, returns := 0 }
  else if x.st = .td && x.doze ≠ 0 then d.dozeActivity p else d

def execPartnerLeavesElectricalIdle (p : Fin 3) (s : State) : Host.Outcome State Fault Refusal := ok (s.dev.partnerStirs p.val) s

/-- SKIP_BLOCK: the receiver adds or removes up to two 4-byte units (R278). -/
def Dev.skipBlock (d : Dev) (p lane : Nat) (units : Int) : Dev :=
  let x := d.tport p
  if units < -2 || 2 < units || x.width = 0 || !laneUsed 8 x.width x.reversed lane then d
  else d.setTport p { x with skips := x.skips.put lane (x.skips.val lane 0 + units) }

def execSkipBlock (p : Fin 3) (lane : Fin 8) (units : Int) (s : State) : Host.Outcome State Fault Refusal :=
  ok (s.dev.skipBlock p.val lane.val units) s

end Sys2Proof.Machine
end

