-- ==== Sys2Proof/Machine/Rules.lean ====
section
/-! DEFINITION. The rules that a sheet is checked by (spec/12 R344, with R52 to R54, R61, R74, R85, R93, R107 to R111, R133, R176, R189, R200,
R224 to R226, R246, R250, R254, R257, R260, R319, R328, R371 and R426), each over what the sheet would leave in force. -/

namespace Sys2Proof.Machine

open Sys2Proof

/-! ### What a sheet would leave -/

/-- One failure of a rule, as SHEET.CHECK reports it (R344). -/
structure Failed where
  rule : Nat
  dev : Nat
  id : Nat
  index : Nat
  entry : Nat
  deriving DecidableEq, Repr, Inhabited

/-- The settings a sheet's entries for a device leave (R340). -/
def stagedSettings (l : List Staged) (dev : Nat) (cur : Tab Nat) : Tab Nat :=
  l.foldl (fun t e => match e with | .setting id index x v => if x = dev then t.put (settingKey id index) v else t | _ => t) cur

/-- The same place of the ingress region tables: LD, entry and the device whose LD it is. -/
def Region.same (a b : Region) : Bool := a.ld = b.ld && a.entry = b.entry && a.home = b.home

/-- The regions a sheet's entries leave (R371, R372). A region of size 0 is a removal as a peer is told of it (log 37). -/
def stagedRegions (l : List Staged) (regions : List Region) : List Region :=
  l.foldl (fun t e =>
    match e with
    | .region r => t.filter (fun x => !x.same r) ++ (if r.size = 0 then [] else [r])
    | .remove ld entry => t.filter fun x => !(x.ld = ld && x.entry = entry && x.home.isNone)
    | .setting .. => t) regions

/-- The device with other settings and regions, and the media that its ShadowRank leaves (R200). -/
def Dev.withBanks (d : Dev) (cur : Tab Nat) (regions : List Region) : Dev :=
  let d := { d with conf.cur := cur, conf.regions := regions }
  if d.dram.formed then { d with dram.logical := d.dram.ranks - d.setting idShadowRank 0 } else d

/-- The device as a sheet's entries would leave it. -/
def Dev.staged (d : Dev) (l : List Staged) : Dev :=
  d.withBanks (stagedSettings l d.chain.index d.conf.cur) (stagedRegions l d.conf.regions)

/-! ### Which entry is involved -/

/-- Staging number of the first entry for which p holds; FFFFh: only current values are involved. -/
def stagedAt (l : List Staged) (p : Staged → Bool) : Nat := (l.findIdx? p).getD 0xFFFF

/-- A failure of a setting of a device. -/
def failSet (l : List Staged) (rule dev id index : Nat) : Failed :=
  { rule := rule, dev := dev, id := id, index := index
    entry := stagedAt l fun e => match e with | .setting i n x _ => i = id && n = index && x = dev | _ => false }

/-- A failure of a region (SettingId 0000h; Index LD x 16 + entry, log 37). -/
def failRegion (l : List Staged) (rule dev : Nat) (r : Region) : Failed :=
  { rule := rule, dev := dev, id := 0, index := r.ld * 16 + r.entry
    entry := stagedAt l fun e => match e with
      | .region x => x.same r
      | .remove ld entry => ld = r.ld && entry = r.entry && r.home.isNone
      | .setting .. => false }

/-- Of several failures the one of the lowest device, then of the entry staged first. -/
def firstFailed (l : List Failed) : Option Failed :=
  l.foldl (fun a f => match a with
    | none => some f
    | some g => if f.dev < g.dev || (f.dev = g.dev && f.entry < g.entry) then some f else some g) none

/-- Of the things that a failure involves, the one staged first stands for it. -/
def blame (l : List Failed) : List Failed := (firstFailed l).toList

/-- Distinct numbers that runs cover, given as first and last in rising order of first. -/
def spanCount (l : List (Nat × Nat)) : Nat :=
  (l.foldl (fun (a : Nat × Nat) e => (a.1 + (e.2 + 1 - max e.1 a.2), max a.2 (e.2 + 1))) (0, 0)).1

/-! ### Rules 01h to 03h -/

/-- Rule 01h: settings that clash (R74, R133, R426). -/
def Dev.rule01 (n : Dev) (l : List Staged) : List Failed :=
  let f := failSet l 1 n.chain.index
  (if n.setting idHighWater 0 ≤ n.setting idLowWater 0 then blame [f idLowWater 0, f idHighWater 0] else []) ++
  (List.range 512).flatMap (fun i =>
    let a := n.setting idReleaseAt i
    if a ≠ 0 && a ≤ n.setting idClearAt i then blame [f idClearAt i, f idReleaseAt i] else []) ++
  (List.range 256).flatMap fun i =>
    if 2 ≤ n.setting idMsixCount i && n.setting idMsixTime i = 0 then blame [f idMsixTime i, f idMsixCount i] else []

/-- A link exists in its port's mode: the second half of a port only where the port is bifurcated (R247, R342). -/
def Dev.linkExists (d : Dev) (link : Nat) : Bool := link % 2 = 0 || (d.port (link / 2)).halves

/-- Rule 02h: LDs and links (R246, R250). The link of a staged LdLink has to be trained now (log 37). -/
def Dev.rule02 (n : Dev) (l : List Staged) : List Failed :=
  let f := failSet l 2 n.chain.index
  (List.range 32).flatMap (fun ld =>
    match n.ldLink ld with
    | none => []
    | some link =>
      let x := f idLdLink ld
      if !n.linkExists link || (x.entry ≠ 0xFFFF && (n.link link).st = .down) then [x] else []) ++
  (List.range 4).flatMap (fun link =>
    let lds := n.linkLds link
    if 16 < lds.length || ((n.link link).st ≠ .down && !(n.link link).mld && 1 < lds.length) then blame (lds.map (f idLdLink)) else []) ++
  l.flatMap fun e =>
    match e with
    | .region r =>
      (match n.ldLink r.ld with
      | some link => if r.home.isNone && (n.link link).st ≠ .down && !(n.link link).cxl then [failRegion l 2 n.chain.index r] else []
      | none => [])
    | _ => []

/-- The settings that lay out media (R200, R85, R109). -/
def layoutIds : List Nat := [idShadowRank, idKnotReach, idShadeSize]

/-- S1L2 tables that an LD's regions need (R85). -/
def Dev.tablesOf (d : Dev) (ld : Nat) : Nat :=
  spanCount (((d.conf.regions.filter fun r => r.home.isNone && r.ld = ld).map fun r => (r.base / 512, (r.base + r.size - 1) / 512)).mergeSort
    fun a b => a.1 ≤ b.1)

/-- Highest frame in use ends at or below an address. -/
def Dev.framesBelow (d : Dev) (top : Nat) : Bool :=
  d.tiers.frames.all (fun f => (f + 1) * 4096 ≤ top) && d.tiers.big.all fun f => (f + 1) * mib2 ≤ top

/-- Rule 03h: media and tables (R85, R86, R109, R200, R224). Frames in use stay in the frame area (log 37). -/
def Dev.rule03 (d n : Dev) (l : List Staged) : List Failed :=
  let f := fun id => failSet l 3 n.chain.index id 0
  let changes (id : Nat) : Bool := d.setting id 0 ≠ n.setting id 0
  let shade := n.setting idShadeSize 0 * gib
  let size := n.tableSizeOf (n.setting idKnotReach 0)
  (if !n.dram.formed then layoutIds.flatMap fun id => if n.setting id 0 ≠ 0 then [f id] else []
   else
    (if n.dram.logical = 0 then [f idShadowRank] else []) ++
    (if n.mediaTop < size + shade then blame (layoutIds.map f) else []) ++
    (if layoutIds.any changes && !n.framesBelow n.shadeBase then blame (layoutIds.map f) else [])) ++
  (if changes idShadowRank && !(d.conf.regions.isEmpty && n.conf.regions.isEmpty) then [f idShadowRank] else []) ++
  (if changes idKnotReach && !d.tiers.units.isEmpty then [f idKnotReach] else []) ++
  (if changes idShadeSize && !d.tiers.slots.isEmpty then [f idShadeSize] else []) ++
  (if 65536 < (List.range 32).foldl (fun k ld => k + n.tablesOf ld) 0 || 16384 < n.tiers.s2tabs.length then
    blame (f idKnotReach :: n.conf.regions.map (failRegion l 3 n.chain.index)) else [])

/-! ### Rules 04h to 06h -/

/-- A region's kind, mapping, protection and default properties go together (R78, R107). -/
def Region.combines (r : Region) : Bool :=
  (r.prot ≠ .sealed || r.knotted) && (!r.reflected || (r.kind = .firm && !r.knotted)) && (r.kind ≠ .elastic || r.knotted) &&
    (r.prot ≠ .plain || r.key = 0)

/-- A region lies in one DC region, in 6 or 7 where it is shared and in no other case (R75, R257). -/
def Region.placed (r : Region) : Bool :=
  r.base + r.size ≤ 2 ^ 23 && r.base / 2 ^ 20 = (r.base + r.size - 1) / 2 ^ 20 && decide (6 ≤ r.base / 2 ^ 20) = decide (r.kind = .shared)

/-- Rule 04h: region layout (R107, R108, R226, R257, R260, R371). -/
def Dev.rule04 (n : Dev) (l : List Staged) : List Failed :=
  let f := failRegion l 4 n.chain.index
  let own := n.conf.regions.filter (·.home.isNone)
  own.flatMap (fun r =>
    let sum := r.floor.foldl (· + ·) 0
    let twins := n.conf.regions.filter fun x => x.kind = .shared && r.kind = .shared && x.set = r.set
    let clash := own.any fun x => x.ld = r.ld && !x.same r && x.base < r.base + r.size && r.base < x.base + x.size
    if !r.combines || !r.placed || (r.kind = .elastic && sum ≠ r.size) || clash ||
      twins.any (fun x => x.prot ≠ r.prot || x.key ≠ r.key || x.knotted ≠ r.knotted || x.size ≠ r.size) then [f r] else []) ++
  (List.range 32).flatMap fun ld =>
    if 8192 < ((n.ld ld).exts.filter fun x => x.st ≠ .draining && x.st ≠ .filling).length then
      blame ((own.filter (·.ld = ld)).map f)
    else []

/-- Sealed ranges of the device, and other knotted ranges that hold units below the limit (R176). -/
def Dev.lowUnits (d : Dev) : Nat :=
  (d.tiers.units.filter fun e => (d.rangeAttr e.1).prot = .sealed || e.2 < 4194304).length

/-- Rule 05h: media commitment (R111, R176, R200). -/
def Dev.rule05 (n : Dev) (l : List Staged) : List Failed :=
  let short := if n.dram.formed then !n.commits 0 || 4194304 < n.lowUnits else n.firmUnits ≠ 0 || n.elasticUnits ≠ 0
  if short then
    blame (layoutIds.map (fun id => failSet l 5 n.chain.index id 0) ++
      (n.conf.regions.filter (·.kind = .elastic)).map (fun r => failSet l 5 n.chain.index idRatioFloor (r.ld * 16 + r.entry)) ++
      n.conf.regions.map (failRegion l 5 n.chain.index))
  else []

/-- Rule 06h: keys, of the regions of own LDs and of those of other devices' LDs that a floor here gives extents on this device (R189;
log 32). -/
def Dev.rule06 (n : Dev) (l : List Staged) : List Failed :=
  let f := failRegion l 6 n.chain.index
  let own := n.conf.regions.filter fun r => r.prot ≠ .plain && (r.home.isNone || r.floor.getD n.chain.index 0 ≠ 0)
  own.flatMap fun r =>
    if (n.key r.key).st ≠ .active then [f r]
    else blame ((own.filter fun x => x.key = r.key && x.prot ≠ r.prot).flatMap fun x => [f x, f r])

/-! ### Rules 07h to 09h -/

/-- Rule 07h: sharers (R225, R239, R254). -/
def Dev.rule07 (d n : Dev) (l : List Staged) : List Failed :=
  let f := failSet l 7 n.chain.index idSharerSlot
  let v (s : Nat) : Nat := n.setting idSharerSlot s
  (List.range 32).flatMap (fun s =>
    let twin := (List.range s).filter fun t => v t = v s && v s ≠ 0x400
    let busy := d.home.gone.contains s || d.home.going.any (·.1 = s) || d.home.dir.any fun e => (deSharers e.2).getLsbD s
    blame (twin.flatMap fun t => [f t, f s]) ++ (if v s ≠ d.setting idSharerSlot s && busy then [f s] else [])) ++
  (n.conf.regions.filter fun r => r.kind = .shared && r.home.isNone).flatMap fun r =>
    let here := (n.regionExts r).any (·.dev = n.chain.index)
    if (here && (n.slotOf n.chain.index r.ld).isNone) || !n.biEnabled r.ld then [failRegion l 7 n.chain.index r] else []

/-- Rule 08h: what stays in place changes in no more than its label and floor (R42, R344, R371). -/
def Dev.rule08 (d n : Dev) (l : List Staged) : List Failed :=
  n.conf.regions.flatMap fun r =>
    match d.conf.regions.find? (·.same r) with
    | none => []
    | some o => if { o with label := r.label, floor := r.floor } = r then [] else [failRegion l 8 n.chain.index r]

/-- Rule 09h: regions with a C0 default label (R54, R61). -/
def Dev.rule09 (n : Dev) (l : List Staged) : List Failed :=
  (n.conf.regions.filter fun r => labelCls r.label = .c0 && r.kind ≠ .shared && r.home.isNone).flatMap fun r =>
    let f := failRegion l 9 n.chain.index r
    if r.kind = .elastic || r.knotted || r.prot = .sealed then [f]
    else if ((n.regionExts r).map (·.dev)).all fun t => n.chainMeets t r.reflected then []
    else blame [f, failSet l 9 n.chain.index idC0ChainBound 0]

/-! ### Rules that span devices: 0Ah and 0Dh over the reports of R305 -/

/-- What a device reports of its settings (R305, R347): C0ChainBound, C0Share, ContractRate of each LD, and for each LD the mask of the
devices that hold extents of its regions with a C0 default label. -/
structure Report where
  dev : Nat
  bound : Nat
  share : Nat
  rates : List Nat
  masks : List Nat
  deriving DecidableEq, Repr, Inhabited

/-- Devices that hold extents of an LD's regions with a C0 default label, as a mask (R52). -/
def Dev.c0Mask (d : Dev) (ld : Nat) : Nat :=
  let devs := (d.conf.regions.filter fun r => labelCls r.label = .c0 && r.home.isNone && r.ld = ld).flatMap fun r => (d.regionExts r).map (·.dev)
  devs.eraseDups.foldl (fun n t => n + 2 ^ t) 0

/-- This device's report. -/
def Dev.report (d : Dev) : Report :=
  { dev := d.chain.index, bound := d.setting idC0ChainBound 0, share := d.setting idC0Share 0
    rates := (List.range 32).map fun ld => d.setting idContractRate ld, masks := (List.range 32).map d.c0Mask }

/-- A report in the layout of a PREPARE answer, from its byte 4 (R305). -/
def Report.bytes (r : Report) : List Byte :=
  leBytes 2 r.bound ++ [BitVec.ofNat 8 r.share] ++ r.rates.map (BitVec.ofNat 8) ++ r.masks.flatMap (leBytes 4)

/-- The report in a PREPARE answer. -/
def Report.parse (dev : Nat) (body : List Byte) : Report :=
  { dev := dev, bound := field body 4 2, share := field body 6 1, rates := (List.range 32).map fun i => field body (7 + i) 1
    masks := (List.range 32).map fun i => field body (39 + 4 * i) 4 }

/-- A peer's report as the sheet would leave its settings. -/
def Report.staged (r : Report) (l : List Staged) : Report :=
  let t := stagedSettings l r.dev []
  { r with
    bound := t.val (settingKey idC0ChainBound 0) r.bound, share := t.val (settingKey idC0Share 0) r.share
    rates := r.rates.zipIdx.map fun e => t.val (settingKey idContractRate e.2) e.1 }

/-- The LDs whose contracts load a device, with their rates (R52). -/
def loaders (reports : List Report) (t : Nat) : List (Nat × Nat × Nat) :=
  reports.flatMap fun r => (r.rates.zip r.masks).zipIdx.filterMap fun e => if bit e.1.2 t then some (r.dev, e.2, e.1.1) else none

/-- Rule 0Ah: C0 load and share of each device reported (R52, R53). -/
def rule0A (l : List Staged) (reports : List Report) : List Failed :=
  reports.flatMap fun r =>
    let on := loaders reports r.dev
    let load : Nat := (on.map (·.2.2)).foldl (· + ·) 0
    (if 3 < load then (blame (on.map fun e => failSet l 10 e.1 idContractRate e.2.1)).map fun f => { f with dev := r.dev } else []) ++
    (if 0 < load && r.share < 2 then [failSet l 10 r.dev idC0Share 0] else [])

/-- Rule 0Bh: pinned entries (R93): extents with their directory entries. Direct ranges that serve peers are not known here (log 32). -/
def Dev.rule0B (n : Dev) (l : List Staged) : List Failed :=
  let beam := n.conf.regions.filter fun r => labelCls r.label = .c0 && r.home.isNone
  let pins (ld : Nat) : Nat :=
    let exts := (n.ld ld).exts.filter fun x => beam.any fun r => r.ld = ld && r.entry = x.entry
    exts.foldl (fun k x => k + x.len) 0 + spanCount (exts.map fun x => (x.start / 512, (x.start + x.len - 1) / 512))
  if 32768 < (List.range 32).foldl (fun k ld => k + pins ld) 0 then blame (beam.map (failRegion l 11 n.chain.index)) else []

/-- The valid ranges of a port, as number and value. -/
def Dev.validRanges (d : Dev) (p : Nat) : List (Nat × Nat) :=
  ((List.range 16).map fun i => (p * 16 + i, d.setting idReachRange (p * 16 + i))).filter fun e => rrValid e.2

/-- Addresses of a range are covered by Braid ranges of a list, by one or by several that follow on. -/
def braidCovers : Nat → List Nat → Nat → Nat → Bool
  | 0, _, _, _ => false
  | fuel + 1, l, lo, hi =>
    if hi ≤ lo then true
    else match l.find? fun v => rrBase v ≤ lo && lo < rrBase v + rrCount v with
      | some v => braidCovers fuel l (rrBase v + rrCount v) hi
      | none => false

/-- Rule 0Ch: Tether ranges and index (R319, R328). -/
def Dev.rule0C (d n : Dev) (l : List Staged) : List Failed :=
  let f := failSet l 12 n.chain.index
  let ix := n.chain.index
  [0, 1, 2].flatMap (fun p =>
    let braided := ([0, 1, 2].filter (· ≠ p)).map fun q => (n.validRanges q).filterMap fun e => if rrBraid e.2 then some e.2 else none
    (n.validRanges p).flatMap fun e =>
      let lo := rrBase e.2
      let hi := lo + rrCount e.2
      let own := lo < (ix + 1) * 2 ^ 23 && ix * 2 ^ 23 < hi
      if own || 2 ^ 28 < hi || (rrBraid e.2 && !braided.any fun b => braidCovers 17 b lo hi) then [f idReachRange e.1] else []) ++
  (let pin := n.setting idPinnedIndex 0
   let holds := !d.tiers.units.isEmpty || !d.tiers.big.isEmpty || d.conf.regions.any fun r => r.home.isNone && (d.regionExts r).any (·.dev = ix)
   if pin ≠ d.setting idPinnedIndex 0 && pin < 32 && d.chain.assigned && ix ≠ pin && holds then [f idPinnedIndex 0] else [])

/-- A staged entry of a local sheet whose rules read another device's settings (R344 rule 0Dh; log 37): a region with extents or a floor on
another device, a sharer slot that names or named another device's LD, and the contract or the ratio of such a region's LD. -/
def Dev.readsPeers (d n : Dev) (e : Staged) : Bool :=
  let ix := n.chain.index
  let away (r : Region) : Bool := (n.regionExts r).any (·.dev ≠ ix) || r.floor.zipIdx.any fun v => v.1 ≠ 0 && v.2 ≠ ix
  let slot (v : Nat) : Bool := v ≠ 0x400 && v / 32 ≠ ix
  let at_ (ld entry : Nat) : List Region := (n.conf.regions ++ d.conf.regions).filter fun r => r.home.isNone && r.ld = ld && r.entry = entry
  match e with
  | .region r => (at_ r.ld r.entry).any away
  | .remove ld entry => (at_ ld entry).any away
  | .setting id index _ v =>
    if id = idSharerSlot then slot v || slot (d.setting id index)
    else if id = idContractRate then bits (n.c0Mask index) 31 0 ≠ 0 && n.c0Mask index ≠ 2 ^ ix
    else if id = idRatioFloor then (at_ (index / 16) (index % 16)).any away
    else false

/-- Rule 0Dh: chain scope (R61, R344). -/
def Dev.rule0D (d n : Dev) (chain : Bool) (l : List Staged) (reports : List Report) : List Failed :=
  let f := failSet l 13
  (if chain then []
   else
    (if d.setting idC0ChainBound 0 ≠ n.setting idC0ChainBound 0 then [f n.chain.index idC0ChainBound 0] else []) ++
    l.flatMap fun e =>
      if !d.readsPeers n e then []
      else match e with
        | .setting id index dev _ => [f dev id index]
        | .region r => [failRegion l 13 n.chain.index r]
        | .remove ld entry => [{ rule := 13, dev := n.chain.index, id := 0, index := ld * 16 + entry, entry := stagedAt l (· = e) }]) ++
  match reports with
  | r :: rest => if rest.all (·.bound = r.bound) then [] else blame (reports.map fun x => f x.dev idC0ChainBound 0)
  | [] => []

/-! ### The check (R344) -/

/-- The rules in ascending code, with what fails each: this device's own, and over the reports of the others, where there are any. A local
sheet is held against the peers' contracts as the last chain sheet that this device coordinated has left them here (R52, R53; log 79). -/
def Dev.failures (d : Dev) (chain : Bool) (l : List Staged) (reports : List Report) : List (List Failed) :=
  let n := d.staged l
  let all := n.report :: reports.map (·.staged l)
  let known := if chain then all else n.report :: d.chain.reports.map fun e => Report.parse e.1 e.2
  [n.rule01 l, n.rule02 l, d.rule03 n l, n.rule04 l, n.rule05 l, n.rule06 l, d.rule07 n l, d.rule08 n l, n.rule09 l,
   (rule0A l known).filter fun f => chain || f.dev = n.chain.index, n.rule0B l, d.rule0C n l, d.rule0D n chain l all]

/-- SHEET.CHECK's answer: the first failure, by rule, device and staging order (R344). -/
def Dev.checkSheet (d : Dev) (chain : Bool) (l : List Staged) (reports : List Report := []) : Option Failed :=
  (d.failures chain l reports).findSome? firstFailed

/-- The coordinator's test of the rules that span devices (R347). -/
def Dev.crossCheck (d : Dev) (l : List Staged) (reports : List Report) : Option Failed :=
  let n := d.staged l
  let all := n.report :: reports.map (·.staged l)
  [n.rule09 l, rule0A l all, d.rule0C n l, d.rule0D n true l all].findSome? firstFailed

end Sys2Proof.Machine
end

