-- ==== Sys2Proof/Machine/Sheets.lean ====
section
/-! DEFINITION. Staging sheets (spec/12 R338 to R348): the lock and its lease, staging, reading and checking, and SHEET.CINCH up to the
boundary at which a device applies its part of a sheet; the regions' commands (spec/13 R371 to R373). -/

namespace Sys2Proof.Machine

open Sys2Proof

/-! ### Owners and the lock (R331, R338, R339) -/

/-- Owner of R331 of an interface: kind in [1:0], LD in [6:2]. -/
def ownerByte (box : Nat) : Nat := if box = 64 then 2 else box % 2 + 4 * (box / 2)

/-- The interface that an owner byte names. -/
def ownerBox (b : Nat) : Nat := if b % 4 = 2 then 64 else b / 4 % 32 * 2 + b % 2

/-- The LD of an interface. -/
def boxLd (box : Nat) : Option Nat := if box < 64 then some (box / 2) else none

/-- An interface of this device owns the open sheet. -/
def Dev.ownsSheet (d : Dev) (box : Nat) : Bool :=
  match d.conf.sheet with | some x => x.owner = box && x.ownerDev = d.chain.index | none => false

def Dev.modSheet (d : Dev) (f : Sheet → Sheet) : Dev := { d with conf.sheet := d.conf.sheet.map f }
def Dev.modCinch (d : Dev) (f : Cinch → Cinch) : Dev := d.modSheet fun x => { x with cinch := x.cinch.map f }

/-- Body of a LOCK message (R305). -/
def lockBody (take : Bool) (id : BitVec 16) (box dev : Nat) : List Byte :=
  [if take then 1 else 0] ++ leBytes 2 id.toNat ++ [BitVec.ofNat 8 (ownerByte box), BitVec.ofNat 8 dev]

/-- Discard the sheet, with what its cinch took, and release its lock on every device of it (R348). -/
def Dev.slip (d : Dev) : Dev :=
  match d.conf.sheet with
  | none => d
  | some x =>
    let d := { d with conf.sheet := none, conf.next := none }.repin
    if x.chain then each d.others d fun d dev => d.mgmt dev 0x10 (lockBody false x.id x.owner x.ownerDev) else d

/-- The sheet ends against its owner's will: a record for the owner's LD, and NOT_OPEN for its next SHEET command (R339). -/
def Dev.evict (d : Dev) (type : Nat) : Dev :=
  match d.conf.sheet with
  | some x =>
    if x.ownerDev ≠ d.chain.index then d.slip
    else
      let d := { d with conf.expired := x.owner :: d.conf.expired.filter (· ≠ x.owner) }
      (d.slip).raise type .info (boxLd x.owner) (ownerByte x.owner)
  | none => d

/-- SHEET_EXPIRED: the lease has run out, no cinch being pending (R339). -/
def Dev.sheetExpired (d : Dev) : Dev :=
  match d.conf.sheet with
  | some x => if x.ownerDev = d.chain.index && x.cinch.isNone && x.leaseFrom + x.lease * 4096 ≤ d.clk.bnd then d.evict 0x119 else d
  | none => d

def execSheetExpired (s : State) : Host.Outcome State Fault Refusal := ok s.dev.sheetExpired s

/-- Whether a party's SHEET command other than OPEN and READ goes on; else its status (R339). -/
def Dev.sheetGate (d : Dev) (box : Nat) : Option Status :=
  if d.conf.expired.contains box || d.conf.sheet.isNone then some .notOpen
  else if d.ownsSheet box then none
  else some .notOwner

/-- A SHEET command: the lease counts from the owner's last one (R339). -/
def Dev.sheetCommand (d : Dev) (iss : Issuer) (opcode : Nat) (f : Dev → Dev) : Dev :=
  d.command iss opcode fun d =>
    let d := f d
    if d.ownsSheet (issuerBox iss) then d.modSheet fun x => { x with leaseFrom := if x.cinch.isNone then d.clk.bnd else x.leaseFrom } else d

/-- A SHEET command other than OPEN and READ ends the effect of an expiry (R339). -/
def Dev.heard (d : Dev) (box : Nat) : Dev := { d with conf.expired := d.conf.expired.filter (· ≠ box) }

/-! ### SHEET.OPEN (R338) -/

/-- The device keeps its chain's beats (R325, R326). -/
def Dev.inSync (d : Dev) : Bool := d.chain.synced || d.isRoot || d.chain.alone

/-- The sheet is open to an interface of this device. -/
def Dev.openFor (d : Dev) (box lease : Nat) (chain : Bool) (id : BitVec 16) : Dev :=
  { d with conf.sheet := some { id := id, chain := chain, owner := box, ownerDev := d.chain.index, lease := lease, leaseFrom := d.clk.bnd } }

/-- SHEET.OPEN: a chain sheet asks every other enumerated device for its lock and answers once they have answered. -/
def Dev.sheetOpen (d : Dev) (iss : Issuer) (inp : List Byte) : Dev :=
  let box := issuerBox iss
  let scope := field inp 0 1
  let lease := field inp 2 2
  let d := d.heard box
  if inp.length ≠ 8 then d.badLength iss
  else if 1 < scope || lease = 0 || !rsvd inp 1 1 || !rsvd inp 4 4 then d.refuse iss .invalidInput 8
  else if d.conf.sheet.isSome || d.conf.opening.isSome then d.refuse iss .busy 8
  else if scope = 0 then (d.openFor box lease false 0).reply iss .success (zeros 6)
  else if !d.inSync then d.refuse iss .notSynced 8
  else
    let id := d.conf.sheetId
    let d := { d with conf.sheetId := id + 1 }
    if d.others.isEmpty then (d.openFor box lease true id).reply iss .success (zeros 6)
    else
      let o : Opening := { box := box, counts := issuerCounts iss, lease := lease, id := id, waits := d.others }
      each d.others { d with conf.opening := some o } fun d dev => d.mgmt dev 0x10 (lockBody true id box d.chain.index)

def execSheetOpen (iss : Issuer) (inp : List Byte) (s : State) : Host.Outcome State Fault Refusal :=
  ok (s.dev.sheetCommand iss 0xC000 fun d => d.sheetOpen iss inp) s

/-- A device answered LOCK, or did not within 1 ms: with the last answer the sheet opens, or no lock is taken (R338). -/
def Dev.lockAnswered (d : Dev) (dev : Nat) (result : Option Nat) : Dev :=
  match d.conf.opening with
  | none => d
  | some o =>
    if !o.waits.contains dev then d
    else
      let o := { o with
        waits := o.waits.filter (· ≠ dev), locked := if result = some 3 then o.locked else o.locked ++ [dev]
        busy := o.busy || result = some 3, slow := o.slow || !(result = some 0 || result = some 3) }
      if !o.waits.isEmpty then { d with conf.opening := some o }
      else
        let d := { d with conf.opening := none }
        let st : Status := if o.busy then .busy else if o.slow then .peerTimeout else .success
        let d := if st = .success then d.openFor o.box o.lease true o.id
          else each o.locked d fun d t => d.mgmt t 0x10 (lockBody false o.id o.box d.chain.index)
        d.finish o.box o.counts st.code st.ret (statusWord st ++ zeros 6)

/-! ### SHEET.SET and SHEET.READ (R340, R343) -/

/-- The device an entry names: FFh this one, another only in a chain sheet (R340). -/
def Dev.entryDev (d : Dev) (chain : Bool) (dev : Nat) : Option Nat :=
  if dev = 255 || dev = d.chain.index then some d.chain.index
  else if chain && d.others.contains dev then some dev else none

/-- The tests of one entry before any is staged; the entry, or its status (R340, R341, R426). -/
def Dev.readEntry (d : Dev) (x : Sheet) (e : List Byte) : Except Status Staged :=
  let id := field e 0 2
  let index := field e 2 2
  let value := field e 8 8
  if !rsvd e 5 3 then .error .invalidInput
  else match settingRow id with
    | none => .error .settingUnknown
    | some row =>
      match d.entryDev x.chain (field e 4 1) with
      | none => .error .valueRange
      | some dev =>
        if !settingLegal row index value || (id = idPinSense && x.owner < 64) then .error .valueRange else .ok (.setting id index dev value)

/-- Two entries stage the same thing. -/
def Staged.sameKey : Staged → Staged → Bool
  | .setting i n x _, .setting i' n' x' _ => i = i' && n = n' && x = x'
  | .region r, .region r' => r.same r'
  | .region r, .remove ld entry => r.ld = ld && r.entry = entry && r.home.isNone
  | .remove ld entry, .region r => r.ld = ld && r.entry = entry && r.home.isNone
  | .remove ld entry, .remove ld' entry' => ld = ld' && entry = entry'
  | _, _ => false

/-- Stage one entry: a later one replaces the earlier one in its place (R340, R371). -/
def stageEntry (l : List Staged) (e : Staged) : List Staged :=
  if l.any (·.sameKey e) then replaceFirst (·.sameKey e) (fun _ => e) l else l ++ [e]

/-- The entries of a SHEET.SET, or the first that fails. -/
def Dev.readEntries (d : Dev) (x : Sheet) : List (List Byte) → Nat → List Staged → Except (Status × Nat) (List Staged)
  | [], _, out => .ok out
  | e :: t, k, out =>
    match d.readEntry x e with
    | .error st => .error (st, k)
    | .ok v => d.readEntries x t (k + 1) (out ++ [v])

/-- SHEET.SET. -/
def Dev.sheetSet (d : Dev) (iss : Issuer) (inp : List Byte) : Dev :=
  let box := issuerBox iss
  let count := field inp 0 2
  let answer (d : Dev) (st : Status) (fail staged : Nat) (noWork : Bool) : Dev := d.reply iss st (leBytes 2 fail ++ leBytes 4 staged) noWork
  if inp.length < 8 || inp.length ≠ 8 + 16 * count then d.badLength iss
  else match d.sheetGate box, d.conf.sheet with
    | none, some x =>
      let n := x.staged.length
      if x.cinch.isSome then answer d .cinchPending 0xFFFF n false
      else if !rsvd inp 2 6 then answer d .invalidInput 0xFFFF n false
      else if count = 0 then answer d .success 0xFFFF n true
      else match d.readEntries x ((List.range count).map fun k => slice inp (8 + 16 * k) 16) 0 [] with
        | .error (st, k) => answer d st k n false
        | .ok l =>
          let l := l.foldl stageEntry x.staged
          if 16384 < l.length then answer d .sheetFull 0xFFFF n false
          else answer (d.modSheet fun x => { x with staged := l }) .success 0xFFFF l.length false
    | st, _ => answer (d.heard box) (st.getD .notOpen) 0xFFFF 0 false

def execSheetSet (iss : Issuer) (inp : List Byte) (s : State) : Host.Outcome State Fault Refusal :=
  ok (s.dev.sheetCommand iss 0xC001 fun d => d.sheetSet iss inp) s

/-- SHEET.READ. The value in force on another device is in no message of R305: a free value (log 37). -/
def Dev.sheetRead (d : Dev) (iss : Issuer) (inp : List Byte) : Dev :=
  let id := field inp 0 2
  let index := field inp 2 2
  if inp.length ≠ 8 then d.badLength iss
  else if !rsvd inp 5 3 then d.refuse iss .invalidInput 24
  else match settingRow id with
    | none => d.refuse iss .settingUnknown 24
    | some row =>
      match d.entryDev true (field inp 4 1) with
      | none => d.refuse iss .valueRange 24
      | some dev =>
        if row.count ≤ index || !settingLegal row index (settingDefault id index) then d.refuse iss .valueRange 24
        else
          let (v, d) := if dev = d.chain.index then (d.setting id index, d) else let (v, d) := d.free 64; (v.toNat, d)
          let staged := if !d.ownsSheet (issuerBox iss) then none else d.conf.sheet.bind fun x =>
            x.staged.findSome? fun e => match e with | .setting i n y v => if i = id && n = index && y = dev then some v else none | _ => none
          d.reply iss .success ([BitVec.ofNat 8 (flag staged.isSome)] ++ zeros 5 ++ leBytes 8 v ++ leBytes 8 (staged.getD v))

def execSheetRead (iss : Issuer) (inp : List Byte) (s : State) : Host.Outcome State Fault Refusal :=
  ok (s.dev.sheetCommand iss 0xC002 fun d => d.sheetRead iss inp) s

/-! ### SHEET.CHECK and SHEET.SLIP (R344, R348) -/

/-- The earlier of two failures, by rule, then device. -/
def earlier (a b : Option Failed) : Option Failed :=
  match a, b with
  | some x, some y => if y.rule < x.rule || (y.rule = x.rule && y.dev < x.dev) then some y else some x
  | none, y => y
  | x, none => x

/-- What the other devices of a chain sheet find is in no message of R305 before PREPARE: whether one of them fails a rule, and which,
is a free value (log 37). -/
def Dev.peersFail (d : Dev) (chain : Bool) : Option Failed × Dev :=
  if !chain || d.others.isEmpty then (none, d)
  else
    let (v, d) := d.free 64
    let n := v.toNat
    (if bit n 0 then some { rule := 1 + bits n 11 4 % 13, dev := d.others.getD (bits n 16 12 % d.others.length) 0, id := bits n 32 17
                            index := bits n 48 33, entry := bits n 63 49 } else none, d)

/-- SHEET.CHECK. -/
def Dev.sheetCheck (d : Dev) (iss : Issuer) (inp : List Byte) : Dev :=
  let box := issuerBox iss
  if inp ≠ [] then d.refuse iss .invalidLength 8
  else match d.sheetGate box, d.conf.sheet with
    | none, some x =>
      if x.staged.isEmpty then d.reply iss .success (zeros 14) true
      else
        let (peer, d) := d.peersFail x.chain
        match earlier (d.checkSheet x.chain x.staged) peer with
        | none => d.reply iss .success (zeros 14)
        | some f => d.reply iss .ruleFailed
            ([BitVec.ofNat 8 f.rule, BitVec.ofNat 8 f.dev] ++ leBytes 2 f.id ++ leBytes 2 f.index ++ leBytes 2 f.entry ++ zeros 6)
    | st, _ => (d.heard box).refuse iss (st.getD .notOpen) 16

def execSheetCheck (iss : Issuer) (inp : List Byte) (s : State) : Host.Outcome State Fault Refusal :=
  ok (s.dev.sheetCommand iss 0xC003 fun d => d.sheetCheck iss inp) s

/-- SHEET.SLIP; Force is the management controller's and slips any owner's sheet (R339, R348). -/
def Dev.sheetSlip (d : Dev) (iss : Issuer) (inp : List Byte) : Dev :=
  let box := issuerBox iss
  let force := bit (field inp 0 1) 0
  if inp.length ≠ 8 then d.badLength iss
  else if 1 < field inp 0 1 || !rsvd inp 1 7 || (force && box ≠ 64) then d.refuse iss .invalidInput 8
  else match (if force then (if d.conf.sheet.isSome then none else some Status.notOpen) else d.sheetGate box), d.conf.sheet with
    | none, some x =>
      if x.cinch.isSome then d.refuse iss .cinchPending 8
      else (if force && !d.ownsSheet 64 then d.evict 0x11A else d.slip).reply iss .success (zeros 6)
    | st, _ => (d.heard box).refuse iss (st.getD .notOpen) 8

def execSheetSlip (iss : Issuer) (inp : List Byte) (s : State) : Host.Outcome State Fault Refusal :=
  ok (s.dev.sheetCommand iss 0xC005 fun d => d.sheetSlip iss inp) s

/-! ### REGION.STAGE, REGION.REMOVE, REGION.READ (R371 to R373) -/

/-- A region in the layout of REGION.STAGE's input; none: a field breaks its range (R371). A size of 0 is refused by the command alone. -/
def readRegion (inp : List Byte) (home : Option Nat) : Option Region :=
  let attr := field inp 3 1
  let base := field inp 8 8
  let floor := (List.range 32).map fun i => field inp (24 + 4 * i) 4
  let kind := kindOf (field inp 2 1)
  if 2 < field inp 2 1 || bits attr 2 1 = 3 || 31 < field inp 0 1 || 15 < field inp 1 1 || 15 < attr || 63 < field inp 4 1 ||
    base % mib2 ≠ 0 || !rsvd inp 20 4 || (kind ≠ .shared && field inp 6 2 ≠ 0) || (kind ≠ .elastic && floor.any (· ≠ 0)) then none
  else
    some { ld := field inp 0 1, entry := field inp 1 1, kind := kind, knotted := bit attr 0, prot := protOf (bits attr 2 1)
           reflected := bit attr 3, key := field inp 4 1, label := BitVec.ofNat 8 (field inp 5 1), set := BitVec.ofNat 16 (field inp 6 2)
           base := base / mib2, size := field inp 16 4, floor := floor, home := home }

/-- Attr of R371 and R373. -/
def Region.attr (r : Region) : Nat := flag r.knotted + 2 * protNum r.prot + 8 * flag r.reflected

/-- The same layout written. -/
def Region.bytes (r : Region) : List Byte :=
  [BitVec.ofNat 8 r.ld, BitVec.ofNat 8 r.entry, BitVec.ofNat 8 (kindNum r.kind), BitVec.ofNat 8 r.attr, BitVec.ofNat 8 r.key, r.label] ++
    leBytes 2 r.set.toNat ++ leBytes 8 (r.base * mib2) ++ leBytes 4 r.size ++ zeros 4 ++ (List.range 32).flatMap fun i => leBytes 4 (r.floor.getD i 0)

/-- Stage an entry of a REGION command, if the sheet has room. -/
def Dev.stageRegion (d : Dev) (iss : Issuer) (x : Sheet) (e : Staged) : Dev :=
  let l := stageEntry x.staged e
  if 16384 < l.length then d.refuse iss .sheetFull 8 else (d.modSheet fun x => { x with staged := l }).reply iss .success (zeros 6)

/-- Whether a REGION command may stage (R371); none while a cinch is pending, as for SHEET.SET (log 37). -/
def Dev.regionGate (d : Dev) (box : Nat) : Option Status :=
  match d.conf.sheet with
  | none => some .notOpen
  | some x => if !d.ownsSheet box then some .notOwner else if x.cinch.isSome then some .cinchPending else none

/-- REGION.STAGE. -/
def Dev.regionStage (d : Dev) (iss : Issuer) (inp : List Byte) : Dev :=
  if inp.length ≠ 152 then d.badLength iss
  else match d.regionGate (issuerBox iss), d.conf.sheet with
    | none, some x =>
      match readRegion inp none with
      | some r => if r.size = 0 then d.refuse iss .invalidInput 8 else d.stageRegion iss x (.region r)
      | none => d.refuse iss .invalidInput 8
    | st, _ => d.refuse iss (st.getD .notOpen) 8

def execRegionStage (iss : Issuer) (inp : List Byte) (s : State) : Host.Outcome State Fault Refusal :=
  ok (s.dev.command iss 0xC100 fun d => d.regionStage iss inp) s

/-- REGION.REMOVE. -/
def Dev.regionRemove (d : Dev) (iss : Issuer) (inp : List Byte) : Dev :=
  let ld := field inp 0 1
  let entry := field inp 1 1
  if inp.length ≠ 8 then d.badLength iss
  else match d.regionGate (issuerBox iss), d.conf.sheet with
    | none, some x =>
      let held := (stagedRegions x.staged d.conf.regions).any fun r => r.home.isNone && r.ld = ld && r.entry = entry
      if 31 < ld || 15 < entry || !rsvd inp 2 6 || !held then d.refuse iss .invalidInput 8 else d.stageRegion iss x (.remove ld entry)
    | st, _ => d.refuse iss (st.getD .notOpen) 8

def execRegionRemove (iss : Issuer) (inp : List Byte) (s : State) : Host.Outcome State Fault Refusal :=
  ok (s.dev.command iss 0xC101 fun d => d.regionRemove iss inp) s

def pressureNum : Pressure → Nat | .normal => 0 | .pressed => 1 | .exhausted => 2

/-- C_d of an elastic region on any device, from its floor and its ratio (R121). -/
def Dev.quotaOn (d : Dev) (r : Region) (dev : Nat) : Nat := ceilDiv (r.floor.getD dev 0 * 16) (max 1 (d.setting idRatioFloor (r.ld * 16 + r.entry)))

/-- Pressure, C_d in 2 MiB units and U_d in KiB of a region on a device (R121, R124, R373). On another device an elastic region's use is
what its last PRESSURE said; where none came, a free value (log 37). -/
def Dev.regionUse (d : Dev) (r : Region) (dev : Nat) : (Nat × Nat × Nat) × Dev :=
  let key := regionKey r
  let media := ((d.regionExts r).filter fun x => x.dev = dev && x.st ≠ .draining).foldl (fun n x => n + x.len) 0
  let units := if r.reflected then 2 * media else media
  if r.kind ≠ .elastic then
    ((0, units, if r.knotted && dev = d.chain.index then (d.elastic key).use else units * 2048), d)
  else if dev = d.chain.index then ((pressureNum (d.elastic key).st, d.quotaUnits r, (d.elastic key).use), d)
  else match d.chain.pressures.look ((r.ld * 16 + r.entry) * 32 + dev) with
    | some (st, use, _) => ((st, d.quotaOn r dev, use), d)
    | none => let (v, d) := d.free 64; ((0, d.quotaOn r dev, v.toNat), d)

/-- REGION.READ. An entry without a region reads with valid 0 (log 37). -/
def Dev.regionRead (d : Dev) (iss : Issuer) (inp : List Byte) : Dev :=
  let ld := field inp 0 1
  let entry := field inp 1 1
  if inp.length ≠ 8 then d.badLength iss
  else match d.entryDev true (field inp 2 1) with
    | none => d.refuse iss .invalidInput 48
    | some dev =>
      if 31 < ld || 15 < entry || !rsvd inp 3 5 then d.refuse iss .invalidInput 48
      else match d.conf.regions.find? fun r => r.home.isNone && r.ld = ld && r.entry = entry with
        | none => d.reply iss .success (zeros 46)
        | some r =>
          let ((st, cd, ud), d) := d.regionUse r dev
          d.reply iss .success
            ([BitVec.ofNat 8 (1 + 2 * kindNum r.kind + 8 * r.attr), r.label, BitVec.ofNat 8 r.key, BitVec.ofNat 8 st] ++ leBytes 2 r.set.toNat ++
              leBytes 8 (r.base * mib2) ++ leBytes 4 r.size ++ leBytes 4 (d.visible r none) ++ leBytes 4 cd ++ zeros 4 ++ leBytes 8 ud ++ zeros 8)

def execRegionRead (iss : Issuer) (inp : List Byte) (s : State) : Host.Outcome State Fault Refusal :=
  ok (s.dev.command iss 0xC102 fun d => d.regionRead iss inp) s

end Sys2Proof.Machine
end

