-- ==== Sys2Proof/Machine/Cinch.lean ====
section
/-! DEFINITION. SHEET.CINCH (spec/12 R345 to R347): its tests, its preparation, the decision of a chain, and the boundary at which a device
applies its part of a sheet (spec/02 R42, R46 step 2). -/

namespace Sys2Proof.Machine

open Sys2Proof

/-! ### Applying a sheet -/

/-- Read and write latencies of an LD's held extents, as its CDAT gives them (R266, R267). -/
def Dev.latencies (d : Dev) (ld : Nat) : List (Nat × Nat × Nat) :=
  ((d.ld ld).exts.filter fun x => x.st = .held || x.st = .releasing).filterMap fun x =>
    (d.regionAt ld (x.start * mib2)).map fun r => (x.start, d.extLatency r x.dev)

/-- LDs for which a sheet widens a bound (R267). -/
def Dev.widened (d n : Dev) : List Nat :=
  (List.range 32).filter fun ld => (d.latencies ld).any fun e => (n.latencies ld).any fun f => f.1 = e.1 && e.2.1 < f.2.1

/-- A region goes: its extents cease to be valid, and their media follows the drain; what was not yet held goes at once (R98, R130,
R372). -/
def Dev.removeRegion (d : Dev) (r : Region) : Dev :=
  let keys := d.keysNamed r
  let mine (u : Nat) : Bool := r.base ≤ u && u < r.base + r.size
  let d := each [ExtSt.filling, .offered, .accepted] d fun d st => d.dropUnits r.ld st mine
  let held := (d.regionExts r).filter fun x => x.st = .held || x.st = .releasing
  let d := each held d fun d x =>
    let d := each (List.range x.len) d fun d i => d.setExt r.ld (x.start + i) 0
    if r.kind = .shared then each (x.place.flatMap (d.unitLines r.knotted)) d fun d e => d.dropSharer r.ld e.1 e.2 else d
  let d := d.modLd r.ld fun l => { l with
    extGen := if held.isEmpty then l.extGen else l.extGen + 1
    exts := l.exts.map fun x => if x.entry = r.entry && (x.st = .held || x.st = .releasing) then { x with st := .draining } else x }
  d.post (.stage1 r.ld r.base r.size) (.region r) keys

/-- A region that stays has another default label: its extent entries take it (R23, R97), and a C0 label on another device notes the
rate it was placed at (R327). -/
def Dev.relabel (d : Dev) (r : Region) : Dev :=
  each ((d.regionExts r).filter fun x => x.st = .held || x.st = .releasing) d fun d x =>
    let d := each (List.range x.len) d fun d i => d.setExt r.ld (x.start + i) (extEntryOf r x i)
    (d.notePlaced r x.dev).post (.stage1 r.ld x.start x.len) .nothing

/-- TableBase has moved: the tables are written anew in the new table area from what firmware holds, and every cached entry goes
(R85, R86). No knotted range exists (R85). -/
def Dev.rebuildTables (d : Dev) : Dev :=
  let d := { d with
    xl.flb := [], xl.xc := [], xl.kc := [], line.ct := [], line.treeReady := false, tiers.treeUnits := [], tiers.s2tabs := [] }.blankLines
      (d.tableBase / 64) (d.mediaTop / 64)
  let d := each d.tiers.s1tabs d fun d e => d.writeEntry (d.s1Dir (e.1 / 16384) (e.1 % 16384 * 512)) (mkDir (d.s1l2Base + e.2 * 4096))
  let d := each (d.conf.regions.filter (·.home.isNone)) d fun d r =>
    each ((d.regionExts r).filter fun x => x.st = .held || x.st = .releasing) d fun d x =>
      each (List.range x.len) d fun d i => d.setExt r.ld (x.start + i) (extEntryOf r x i)
  d.post .all .nothing

/-- ShadowRank has changed, no region existing: U follows it, and each channel's highest rank becomes the shadow, its lines written with
zeros, or goes back to media; ranks retired stay out (R200, R201, R221, R224; log 37). -/
def Dev.setShadows (d : Dev) : Dev :=
  let top := d.dram.ranks - 1
  let on := d.setting idShadowRank 0 = 1
  each (List.range 8) d fun d ch => (if on then d.blankRank ch top else d).modChan ch fun c => { c with
    remap := [], shadows := if on && !c.retiredPhys.contains top then [top] else []
    retired := (List.range d.dram.logical).filter c.retiredPhys.contains }

/-- A cinch has touched a Tether port: it may train again; a port disabled goes down, and a new rate starts a width reset (R280, R293,
R328, R394). -/
def Dev.touchPort (d : Dev) (p : Nat) (newRate : Bool) : Dev :=
  let d := (d.modSource (srcTether p) fun s => { s with retired := false }).modTport p fun x =>
    { x with retiredLink := false, st := if x.st = .heldDown then .td else x.st }
  let x := d.tport p
  if d.setting idTetherEnable p = 0 then
    if x.kept then (d.tetherDown p).say (.ctl p .electricalIdle)
    else d.modTport p fun x => { x with st := .td, lock := 0, cfg := 0, laneNonce := [], resetting := false }
  else if newRate && x.kept && x.doze = 0 then d.startReset p
  else d

/-- Ports that a sheet's entries for a device touch (R280), and those whose ranges they set (R492). -/
def touchedPorts (l : List Staged) (dev : Nat) : List Nat :=
  (l.filterMap fun e => match e with
    | .setting id index x _ =>
      if x ≠ dev then none
      else if id = idReachRange then some (index / 16)
      else if id = idTetherRate || id = idTetherEnable then some index else none
    | _ => none).eraseDups

def rangedPorts (l : List Staged) (dev : Nat) : List Nat :=
  (l.filterMap fun e => match e with | .setting id index x _ => if x = dev && id = idReachRange then some (index / 16) else none | _ => none).eraseDups

/-- The banks swap: this device's part of a sheet is in force, and what follows from it is done (R42, R46 step 2, R64, R122, R267, R346, R372). -/
def Dev.applySheet (d : Dev) (cur : Tab Nat) (l : List Staged) : Dev :=
  let old := d
  let ix := d.chain.index
  let regions := stagedRegions l d.conf.regions
  let gone := d.conf.regions.filter fun r => r.home.isNone && !regions.any (·.same r)
  let d := each gone d fun d r => d.removeRegion r
  let d := d.withBanks cur regions
  let changed (id index : Nat) : Bool := old.setting id index ≠ d.setting id index
  let d := if changed idShadowRank 0 then d.setShadows else d
  let d := if d.tableBase ≠ old.tableBase then d.rebuildTables else d
  let d := each (List.range 64) d fun d g =>
    if changed idC2Cap g then { d with path.c2 := d.path.c2.put g { d.path.c2.val g { r := 0 } with r := 16 * d.setting idC2Cap g } } else d
  let d := if changed idTierEpoch 0 then { d with tiers.epochFrom := d.clk.bnd } else d
  let d := each (regions.filter fun r => r.home.isNone && old.conf.regions.any fun o => o.same r && o.label ≠ r.label) d fun d r => d.relabel r
  let d := { d with chain.rangesSet := d.chain.rangesSet ++ (rangedPorts l ix).filter fun p => !d.chain.rangesSet.contains p }
  let d := each (touchedPorts l ix) d fun d p => d.touchPort p (changed idTetherRate p)
  let d := each (regions.filter fun r => r.kind = .elastic && !(old.conf.regions.any (·.same r))) d fun d r =>
    d.modElastic (regionKey r) fun e => { e with since := d.clk.bnd }
  let d := each (List.range 32) d fun d ld => if old.latencies ld = d.latencies ld then d else d.cdat ld
  d.repin

/-! ### How a cinch ends (R345, R346) -/

/-- Output of SHEET.CINCH after its status. -/
def cinchBody (rule dev committed : Nat) (n : Beat) : List Byte :=
  [BitVec.ofNat 8 rule, BitVec.ofNat 8 dev] ++ leBytes 4 committed ++ leBytes 6 n.toNat ++ zeros 2

/-- A cinch fails before anything is applied: what it took is freed, the sheet stays open, the command completes (R346). -/
def Dev.failCinch (d : Dev) (st : Status) (rule dev : Nat) : Dev :=
  match d.conf.sheet with
  | some x =>
    match x.cinch with
    | some c =>
      let d := { d with conf.next := none }.modSheet fun x => { x with cinch := none, leaseFrom := d.clk.bnd }
      d.repin.endBg c.box st (cinchBody rule dev 0 0)
    | none => d
  | none => d

/-- All the devices whose outcomes are awaited have reported: the command completes (R347). -/
def Dev.endCollect (d : Dev) (late : Bool) : Dev :=
  match d.conf.collect with
  | none => d
  | some c =>
    let devs := (d.chain.index :: d.others).mergeSort (· ≤ ·)
    let missing := devs.filter fun t => !c.applied.contains t
    if !late && !(devs.all c.outcomes.contains) then d
    else
      let d := { d with conf.collect := none }
      let mask := c.applied.foldl (fun n t => n + 2 ^ t) 0
      d.endBg c.box (if missing.isEmpty then .success else .cinchSplit) (cinchBody 0 (missing.headD 255) mask c.named)

/-! ### Preparation (R346 step 2) -/

/-- Entries that the sheet has newly pinned (R93). -/
def Dev.newPins (d n : Dev) : Bool := n.pinTargets.any fun e => !d.pinTargets.contains e

/-- Step 2 begins: the CDAT notices of widened bounds go out (R267); done at once where nothing has to be prepared. -/
def Dev.startPrepare (d : Dev) (l : List Staged) : CinchPhase × Dev :=
  let n := d.staged l
  let w := d.widened n
  (if w.isEmpty && !d.newPins n then .prepared else .preparing, each w d fun d ld => d.cdat ld)

/-- An MRSP to a management message that came in on a port (R304). -/
def Dev.mrsp (d : Dev) (p : Nat) (m : Msg) (result : Nat) (body : List Byte) : Dev :=
  d.sendMsg p { op := .mrsp, label := m.label, tag := m.tag, origin := m.origin, subOp := m.subOp, body := BitVec.ofNat 8 result :: body }

/-- Body of a PREPARE answer after its Result (R305). -/
def Dev.prepareBody (d : Dev) (st : Status) (rule : Nat) : List Byte :=
  leBytes 2 st.code ++ [BitVec.ofNat 8 rule] ++ d.report.bytes

/-- Step 2 has ended: READY, where a coordinator waits for it; in Mode 00h N is the second boundary from here (R346, R347). -/
def Dev.prepared (d : Dev) : Dev :=
  let d := (d.modCinch fun c => { c with phase := .prepared, named := if c.mode = 0 then d.clk.beat + 2 else c.named }).repin
  match d.conf.sheet.bind (·.cinch) with
  | some c =>
    match c.ask with
    | some (p, m) => (d.modCinch fun c => { c with ask := none }).mrsp p m 0 (d.prepareBody .success 0)
    | none => d
  | none => d

/-- CINCH_PREPARE_DONE: the fills and pin loads are done, and 4,096 boundaries have passed since the notice of a widened bound. -/
def Dev.prepareDone (d : Dev) : Dev :=
  match d.conf.sheet with
  | some x =>
    match x.cinch with
    | some c =>
      if c.phase = .preparing && c.fills.isEmpty && ((d.widened (d.staged x.staged)).isEmpty || c.preparedAt + 4096 ≤ d.clk.bnd) then d.prepared else d
    | none => d
  | none => d

def execCinchPrepareDone (s : State) : Host.Outcome State Fault Refusal := ok s.dev.prepareDone s

/-! ### The coordinator (R347) -/

/-- A list in pieces of n. -/
def pieces {α : Type} (n : Nat) : Nat → List α → List (List α)
  | 0, _ => []
  | fuel + 1, l => if l.isEmpty then [] else l.take n :: pieces n fuel (l.drop n)

/-- An entry in the layout of SHEET.SET (R340). -/
def entryBytes (id index dev value : Nat) : List Byte :=
  leBytes 2 id ++ leBytes 2 index ++ [BitVec.ofNat 8 dev] ++ zeros 3 ++ leBytes 8 value

/-- What of a sheet a device is sent, as the SHEET_PART bodies after the part number: its settings, twelve to a part, then the sheet's
regions; a removal goes as a region of size 0 (R305; log 37). -/
def Dev.partsFor (d : Dev) (l : List Staged) (dev : Nat) : List (List Byte) :=
  let sets := l.filterMap fun e => match e with | .setting id i x v => if x = dev then some (entryBytes id i x v) else none | _ => none
  let regions := l.filterMap fun e => match e with
    | .region r => some r.bytes
    | .remove ld entry =>
      some (((d.conf.regions.find? fun r => r.home.isNone && r.ld = ld && r.entry = entry).map fun r => { r with size := 0 }.bytes).getD
        ([BitVec.ofNat 8 ld, BitVec.ofNat 8 entry] ++ zeros 150))
    | _ => none
  (pieces 12 (sets.length + 1) sets).map (fun s => [BitVec.ofNat 8 s.length] ++ zeros 3 ++ s.flatten) ++
    regions.map fun r => [0x80] ++ zeros 3 ++ r

/-- The parts and the PREPARE of a chain cinch go to one device (R305, R347). -/
def Dev.sendPrepare (d : Dev) (x : Sheet) (n : Beat) (dev : Nat) : Dev :=
  let parts := d.partsFor x.staged dev
  let d := each parts.zipIdx d fun d e => d.mgmt dev 0x11 (leBytes 2 x.id.toNat ++ leBytes 2 e.2 ++ e.1)
  d.mgmt dev 0x12 (leBytes 2 x.id.toNat ++ leBytes 6 n.toNat ++ leBytes 4 parts.length ++ [BitVec.ofNat 8 d.chain.index])

/-- A PREPARE's answer, or none within 1 ms (R304, R305, R347). -/
def Dev.prepareAnswered (d : Dev) (dev : Nat) (answer : Option (List Byte)) : Dev :=
  match d.conf.sheet with
  | some x =>
    match x.cinch, answer with
    | some c, some body =>
      if x.ownerDev ≠ d.chain.index || (c.phase ≠ .preparing && c.phase ≠ .prepared) then d
      else match field body 0 1 with
        | 0 => d.modCinch fun c => { c with ready := dev :: c.ready, reports := c.reports ++ [(dev, body)] }
        | 2 => d.modCinch fun c => { c with refused := c.refused ++ [(dev, field body 1 2, field body 3 1)] }
        | 4 => if c.resent.contains dev then d else (d.modCinch fun c => { c with resent := dev :: c.resent }).sendPrepare x c.named dev
        | _ => d
    | _, _ => d
  | none => d

/-- Why the cinch is not to be committed: the first device in ascending order that refused, is not synced or has not answered, then the
rules that span devices (R347). -/
def Dev.refusal (d : Dev) (x : Sheet) (c : Cinch) : Option (Status × Nat × Nat) :=
  let devs := (d.chain.index :: d.others).mergeSort (· ≤ ·)
  let one (t : Nat) : Option (Status × Nat × Nat) :=
    if t = d.chain.index then
      (if !d.inSync then some (.notSynced, 0, t) else if c.phase = .preparing then some (.beatTooNear, 0, t) else none)
    else match c.refused.find? (·.1 = t) with
      | some (_, st, rule) => some (Status.ofCode st, rule, t)
      | none => if c.ready.contains t then none else some (.peerTimeout, 0, t)
  match devs.findSome? one with
  | some r => some r
  | none => (d.crossCheck x.staged (c.reports.map fun e => Report.parse e.1 e.2)).map fun f => (.ruleFailed, f.rule, f.dev)

/-- At boundary N - 64 the coordinator decides: COMMIT, or ABORT and the first refusal (R347). -/
def Dev.decide_ (d : Dev) : Dev :=
  match d.conf.sheet with
  | some x =>
    match x.cinch with
    | some c =>
      if !x.chain || x.ownerDev ≠ d.chain.index || (c.phase ≠ .preparing && c.phase ≠ .prepared) then d
      else
        let body := leBytes 2 x.id.toNat ++ leBytes 6 c.named.toNat
        match d.refusal x c with
        | none =>
          let d := { d with chain.reports := c.reports.map fun (e : Nat × List Byte) =>
            (e.1, List.replicate 4 (0 : Byte) ++ ((Report.parse e.1 e.2).staged x.staged).bytes) }
          each d.others (d.modCinch fun c => { c with phase := .decided true }) fun d t => d.mgmt t 0x13 body
        | some (st, rule, t) => (each d.others d fun d t => d.mgmt t 0x14 body).failCinch st rule t
    | none => d
  | none => d

/-- Beats from one to another (R17). -/
def beatsTo (a b : Beat) : Nat := (b - a).toNat

/-- CHAIN_CINCH_DECISION: at boundary N - 64. -/
def Dev.cinchDecision (d : Dev) : Dev :=
  match d.conf.sheet.bind (·.cinch) with
  | some c => if beatsTo d.clk.beat c.named ≤ 64 then d.decide_ else d
  | none => d

def execChainCinchDecision (s : State) : Host.Outcome State Fault Refusal := ok s.dev.cinchDecision s

/-! ### SHEET.CINCH (R345) -/

/-- The command is accepted: step 1, then step 2, and the other devices' PREPARE (R346, R347). -/
def Dev.startCinch (d : Dev) (iss : Issuer) (x : Sheet) (mode : Nat) (named : Beat) : Dev :=
  let d := d.startBg iss 0xC004
  let c : Cinch := { box := issuerBox iss, mode := mode, named := named, phase := .preparing, preparedAt := d.clk.bnd }
  let d := d.modSheet fun x => { x with cinch := some c }
  match d.checkSheet x.chain x.staged with
  | some f => d.failCinch .ruleFailed f.rule f.dev
  | none =>
    let (phase, d) := d.startPrepare x.staged
    let d := if phase = .prepared then d.prepared else d
    if x.chain then each d.others d fun d t => d.sendPrepare x named t else d

/-- SHEET.CINCH. -/
def Dev.sheetCinch (d : Dev) (iss : Issuer) (inp : List Byte) : Dev :=
  let box := issuerBox iss
  let beat : Beat := BitVec.ofNat 48 (field inp 0 6)
  let mode := field inp 6 1
  let fail (d : Dev) (st : Status) : Dev := d.reply iss st (cinchBody 0 255 0 0)
  if inp.length ≠ 8 then d.badLength iss
  else if d.bgBusy iss then fail d .busy
  else if 2 < mode || !rsvd inp 7 1 then fail d .invalidInput
  else match d.sheetGate box, d.conf.sheet with
    | none, some x =>
      if x.cinch.isSome then fail d .cinchPending
      else if x.chain ≠ decide (mode = 2) || (mode = 0 && beat ≠ 0) then fail d .invalidInput
      else if mode = 0 then d.startCinch iss x 0 (d.clk.beat + 2)
      else if beatsTo d.clk.beat beat < (if mode = 2 then 256 else 2) || 2 ^ 24 < beatsTo d.clk.beat beat then fail d .beatTooNear
      else d.startCinch iss x mode beat
    | st, _ => fail (d.heard box) (st.getD .notOpen)

def execSheetCinch (iss : Issuer) (inp : List Byte) (s : State) : Host.Outcome State Fault Refusal :=
  ok (s.dev.sheetCommand iss 0xC004 fun d => d.sheetCinch iss inp) s

/-! ### Beat N - 1 and boundary N (R346 steps 3 and 4, R347) -/

/-- Step 3: the tests again, and the next banks written. A local cinch that fails them applies nothing and stays open. -/
def Dev.bankWrite (d : Dev) : Dev :=
  match d.conf.sheet with
  | some x =>
    match x.cinch with
    | some c =>
      if c.phase ≠ (if x.chain then .decided true else .prepared) then d
      else match d.checkSheet x.chain x.staged with
        | some f => if x.chain then d.modCinch fun c => { c with phase := .decided false } else d.failCinch .ruleFailed f.rule f.dev
        | none =>
          { d with conf.next := some (c.named, stagedSettings x.staged d.chain.index d.conf.cur, x.staged) }.modCinch fun c => { c with phase := .banked }
    | none => d
  | none => d

/-- CINCH_BANK_WRITE: during beat N - 1. -/
def Dev.cinchBankWrite (d : Dev) : Dev :=
  match d.conf.sheet.bind (·.cinch) with
  | some c => if beatsTo d.clk.beat c.named = 1 then d.bankWrite else d
  | none => d

def execCinchBankWrite (s : State) : Host.Outcome State Fault Refusal := ok s.dev.cinchBankWrite s

/-- Boundary N: the banks swap if they are written, the sheet closes on this device, and the outcome is reported (R346, R347). -/
def Dev.cinchBoundary (d : Dev) (x : Sheet) (c : Cinch) : Dev :=
  let ix := d.chain.index
  let (applied, d) := match d.conf.next with
    | some (_, cur, l) => (true, d.applySheet cur l)
    | none => (false, d)
  let d := { d with conf.sheet := none, conf.next := none }
  if !x.chain then d.endBg c.box .success (cinchBody 0 255 (2 ^ ix) c.named)
  else if x.ownerDev = ix then
    { d with conf.collect := some { c with preparedAt := d.clk.bnd, applied := if applied then ix :: c.applied else c.applied, outcomes := ix :: c.outcomes } }.endCollect false
  else d.mgmt x.ownerDev 0x15 (leBytes 2 x.id.toNat ++ [BitVec.ofNat 8 (flag applied)] ++ leBytes 6 (if applied then c.named.toNat else 0))

/-- What a boundary does to a pending cinch (R46 step 2): a preparation that is late fails a local cinch at N - 2; the coordinator decides
at N - 64; a peer without a decision at N - 1 will not apply the sheet; at N it takes effect. -/
def Dev.sheetBoundary (d : Dev) : Dev :=
  let d := match d.conf.collect with | some c => if c.preparedAt + 4000 ≤ d.clk.bnd then d.endCollect true else d | none => d
  match d.conf.sheet with
  | none => d
  | some x =>
    match x.cinch with
    | none => d
    | some c =>
      let left := beatsTo d.clk.beat c.named
      let own := x.ownerDev = d.chain.index
      if !x.chain && c.phase = .preparing then (if c.mode ≠ 0 && left ≤ 2 then d.failCinch .beatTooNear 0 255 else d)
      else if x.chain && own && left ≤ 63 && (c.phase = .preparing || c.phase = .prepared) then d.decide_
      else if x.chain && !own && left = 1 && (c.phase = .preparing || c.phase = .prepared) then
        (d.modCinch fun c => { c with phase := .decided false }).raise 0x11B .warning none (c.named.toNat + x.ownerDev * 2 ^ 48)
      else if left = 0 then
        let d := d.bankWrite
        match d.conf.sheet.bind (·.cinch) with
        | some c => d.cinchBoundary x c
        | none => d
      else d

/-! ### A chain sheet on a peer (R305, R338, R347) -/

/-- LOCK: Result (R305). A release by another device than the owner is a slip by force there (log 37). -/
def Dev.takeLock (d : Dev) (origin : Nat) (body : List Byte) : Nat × Dev :=
  let take := field body 0 1
  let id : BitVec 16 := BitVec.ofNat 16 (field body 1 2)
  let dev := field body 4 1
  if 1 < take || 31 < dev then (4, d)
  else match d.conf.sheet with
    | some x =>
      let same := x.chain && x.id = id && x.ownerDev = dev
      if take = 1 then (if same then 0 else 3, d)
      else if !same then (0, d)
      else if x.ownerDev = d.chain.index then (0, if origin = dev then d else d.evict 0x11A)
      else (0, { d with conf.sheet := none, conf.next := none }.repin)
    | none =>
      if take = 0 then (0, d)
      else if d.conf.opening.isSome then (3, d)
      else (0, { d with conf.sheet := some { id := id, chain := true, owner := ownerBox (field body 3 1), ownerDev := dev, lease := 0, leaseFrom := 0 } })

/-- The sheet of a coordinator that a message names. -/
def Dev.peerSheet (d : Dev) (origin id : Nat) : Option Sheet :=
  d.conf.sheet.filter fun x => x.chain && x.id.toNat = id && x.ownerDev = origin && origin ≠ d.chain.index

/-- SHEET_PART: kept by its number (R305). -/
def Dev.takePart (d : Dev) (origin : Nat) (body : List Byte) : Nat × Dev :=
  let n := field body 4 1
  match d.peerSheet origin (field body 0 2) with
  | none => (2, d)
  | some _ =>
    if !(n = 0x80 || (1 ≤ n && n ≤ 12)) || !rsvd body 5 3 then (4, d)
    else
      let num := field body 2 2
      (0, d.modSheet fun x => { x with parts := (x.parts.filter (·.1 ≠ num)) ++ [(num, body.drop 4)] })

/-- The entries that the parts of a sheet hold, in the order of their numbers. -/
def readParts (parts : List (Nat × List Byte)) (coordinator : Nat) : List Staged :=
  (parts.mergeSort fun a b => a.1 ≤ b.1).flatMap fun e =>
    let n := field e.2 0 1
    if n = 0x80 then (match readRegion (slice e.2 4 152) (some coordinator) with | some r => [.region r] | none => [])
    else (List.range n).map fun i =>
      let b := slice e.2 (4 + 16 * i) 16
      .setting (field b 0 2) (field b 2 2) (field b 4 1) (field b 8 8)

/-- PREPARE: steps 1 and 2 on this device; READY follows when step 2 has ended. The answer where it is given now: Result and body
(R326, R347). -/
def Dev.takePrepare (d : Dev) (p origin : Nat) (m : Msg) (body : List Byte) : Option (Nat × List Byte) × Dev :=
  let named : Beat := BitVec.ofNat 48 (field body 2 6)
  match d.peerSheet origin (field body 0 2) with
  | none => (some (2, d.prepareBody .notOpen 0), d)
  | some x =>
    if x.parts.length < field body 8 4 then (some (4, []), d)
    else if !d.inSync then (some (2, d.prepareBody .notSynced 0), d)
    else
      let l := readParts x.parts origin
      match d.checkSheet true l with
      | some f => (some (2, d.prepareBody .ruleFailed f.rule), d)
      | none =>
        let c : Cinch := { box := 64, mode := 2, named := named, phase := .preparing, preparedAt := d.clk.bnd, ask := some (p, m) }
        let (phase, d) := (d.modSheet fun x => { x with staged := l, cinch := some c }).startPrepare l
        (none, if phase = .prepared then d.prepared else d)

/-- COMMIT or ABORT: what was decided (R347). -/
def Dev.takeDecision (d : Dev) (origin : Nat) (commit : Bool) (body : List Byte) : Nat × Dev :=
  match d.peerSheet origin (field body 0 2) with
  | none => (2, d)
  | some x =>
    match x.cinch with
    | some c =>
      if c.named.toNat ≠ field body 2 6 || (c.phase ≠ .prepared && c.phase ≠ .preparing) then (2, d)
      else if commit then (0, d.modCinch fun c => { c with phase := .decided true })
      else (0, (d.modSheet fun x => { x with cinch := none, parts := [] }).repin)
    | none => (if commit then 2 else 0, d)

/-- OUTCOME: a device says whether it applied the sheet (R347). -/
def Dev.takeOutcome (d : Dev) (origin : Nat) (body : List Byte) : Nat × Dev :=
  let took (c : Cinch) : Cinch := { c with
    outcomes := origin :: c.outcomes, applied := if field body 2 1 = 1 then origin :: c.applied else c.applied }
  match d.conf.collect with
  | some c => (0, if c.outcomes.contains origin then d else { d with conf.collect := some (took c) }.endCollect false)
  | none =>
    match d.conf.sheet with
    | some x => if x.chain && x.ownerDev = d.chain.index && x.cinch.isSome then (0, d.modCinch took) else (2, d)
    | none => (2, d)

end Sys2Proof.Machine
end

