-- ==== Sys2Proof/Machine/Messages.lean ====
section
/-! DEFINITION. Tether messages as they are taken from a port (spec/01 R37 to R39; spec/02 R62, R70; spec/08 R232 to R236; spec/11 R301 to R303,
R306, R320 to R323): forwarded, served here, or returned to whoever waits for them. Management messages are in Mgmt.lean. -/

namespace Sys2Proof.Machine

open Sys2Proof

/-! ### The receive pool (R302, R306) -/

/-- The first message of a class in a port's pool. -/
def TPort.first (x : TPort) (c : Nat) : Option Msg := (x.pool.find? (·.1 = c)).bind (·.2.head?)

/-- The first message of a kind that stands first in its class, C0 before the others. -/
def TPort.firstOf (x : TPort) (op : MsgOp) : Option Msg :=
  [0, 1, 2, 3].findSome? fun c => (x.first c).filter fun m => m.op = op

/-- The first message of a class leaves; with a flit's last message its buffer is free and its credit goes back (R306). -/
def TPort.taken (x : TPort) (c : Nat) : TPort :=
  match x.pool.find? (·.1 = c) with
  | none => x
  | some (_, msgs) =>
    if msgs.length ≤ 1 then { x with pool := x.pool.eraseP (·.1 = c), crTotal := x.crTotal.put c (x.crTotal.val c 0 + 1) }
    else { x with pool := replaceFirst (·.1 = c) (fun e => (e.1, e.2.drop 1)) x.pool }

/-- A message leaves its port's pool. -/
def Dev.takeFrom (d : Dev) (p : Nat) (m : Msg) : Dev := (d.modTport p fun x => x.taken m.cls).tryDoze p

/-- Send a message on from the port it came in on, or answer it 011b where it has no route (R302, R320). It stays where the transmit
queue has no entry for its class. -/
def Dev.passOn (d : Dev) (p : Nat) (m : Msg) : Dev :=
  match d.route m.unit2m (some p) with
  | some q => if (d.tport q).txRoom m.cls then (d.takeFrom p m).sendMsg q m (some p) else d
  | none => ((d.takeFrom p m).noRoute (m.unit2m * mib2) m.origin.toNat).sendMsg p (rspTo m 3 0 0 none)

/-! ### Requests for this device (R37, R321, R323) -/

/-- A braided copy: whether it is a duplicate, with h0 and h1 brought up; none: its origin is not synchronised. -/
def Dev.braidCopy (d : Dev) (m : Msg) : Option (Bool × Dev) :=
  (d.chain.braidAt.look m.origin.toNat).map fun h =>
    let s := m.braidSeq.toNat
    let other := if m.dir then h.1 else h.2
    let dup := (other + 65536 - s) % 65536 < 32768
    (dup, { d with chain.braidAt := d.chain.braidAt.put m.origin.toNat (if m.dir then (h.1, s) else (s, h.2)) })

/-- The request that a message asks for. -/
def requestOf (m : Msg) (id p : Nat) : Req :=
  { id := id, src := .peer p m.origin m.tag m.braid m.dir
    op := match m.op with | .rd => .read | .inv => .inv | .evct => .evct | _ => .write
    mv := metaOf m.mv.toNat, label := m.label, data := m.data, mask := if m.op = .wrp then m.mask else BitVec.allOnes 64
    poison := m.poison, stage := .peerIn, pool := m.line.toNat * 64 }

/-- A request message for a local line waits for the regulator, in the queue before stage 2 (R26, R37). -/
def Dev.takeRequest (d : Dev) (p : Nat) (m : Msg) : Dev :=
  let takeIt (d : Dev) : Dev :=
    let (id, d) := d.fresh
    { d with path.reqs := d.path.reqs ++ [requestOf m id p] }
  if !d.room (fun st => st = .peerIn || inStage2 st) stage2Mins stage2Shared m.cls then d
  else
    let d := d.takeFrom p m
    if !m.braid then takeIt d
    else match d.braidCopy m with
      | none => d.sendMsg p (rspTo m 1 0 0 none)
      | some (dup, d) => if dup && (m.op = .wr || m.op = .wrp) then d.sendMsg p (rspTo m 0 0 0 none) else takeIt d

/-- The next message of a kind in a port's pool is routed (R37, R320). -/
def Dev.takeReqMsg (d : Dev) (p : Nat) (op : MsgOp) : Dev :=
  match (if d.clocked then (d.tport p).firstOf op else none) with
  | none => d
  | some m => if m.target = d.chain.index then d.takeRequest p m else d.passOn p m

def execRd (p : Fin 3) (s : State) : Host.Outcome State Fault Refusal := ok (s.dev.takeReqMsg p.val .rd).flow s
def execWr (p : Fin 3) (s : State) : Host.Outcome State Fault Refusal := ok (s.dev.takeReqMsg p.val .wr).flow s
def execWrp (p : Fin 3) (s : State) : Host.Outcome State Fault Refusal := ok (s.dev.takeReqMsg p.val .wrp).flow s
def execInv (p : Fin 3) (s : State) : Host.Outcome State Fault Refusal := ok (s.dev.takeReqMsg p.val .inv).flow s
def execEvct (p : Fin 3) (s : State) : Host.Outcome State Fault Refusal := ok (s.dev.takeReqMsg p.val .evct).flow s

/-! ### Snoops for an LD of this device (R232, R236, R302) -/

/-- A snoop of another device for an LD: BISnp on the LD's link, or BIRspI at once where no decoder gives the line an address (R253); it
fails where the LD's link is down or not enabled for it (R238, R254). -/
def Dev.takeSnoop (d : Dev) (p : Nat) (m : Msg) : Dev :=
  let ld := m.ld.toNat
  let f : Foreign := { ld := ld, dpaLine := m.dpaLine.toNat, port := p, origin := m.origin, tag := m.tag, kind := m.snpType }
  match (if d.biEnabled ld then (d.ldLink ld).filter fun l => (d.link l).st ≠ .down else none), d.hpaOf ld (f.dpaLine * 64) with
  | none, _ => d.snoopFails f
  | some l, some hpa =>
    let out : Snp := { ld := ld, kind := m.snpType, hpa := BitVec.ofNat 64 hpa, label := m.label }
    let d := { d with home.foreign := d.home.foreign ++ [f] }
    (d.modLink l fun x => { x with snoops := x.snoops ++ [out] }).flush l
  | some _, none => (d.bump 0x183).snoopAnswer f 0

/-- A BIConflictAck of another device: it goes to the host, and the host's answer travels back under its tag (R236). -/
def Dev.takeConflictAck (d : Dev) (p : Nat) (m : Msg) : Dev :=
  let ld := m.ld.toNat
  let mine (f : Foreign) : Bool := f.ld = ld && f.origin = m.origin && f.dpaLine = m.dpaLine.toNat
  let under (f : Foreign) : Foreign := { f with tag := m.tag, port := p }
  let d := { d with home.foreign := replaceFirst mine under d.home.foreign }
  match d.ldLink ld with
  | some l => d.ackOn l (some ld)
  | none => d

/-- SNP. -/
def Dev.takeSnp (d : Dev) (p : Nat) : Dev :=
  match (if d.clocked then (d.tport p).firstOf .snp else none) with
  | none => d
  | some m =>
    if m.target ≠ d.chain.index then d.passOn p m
    else if m.snpType = 3 then (d.takeFrom p m).takeConflictAck p m
    else (d.takeFrom p m).takeSnoop p m

def execSnp (p : Fin 3) (s : State) : Host.Outcome State Fault Refusal := ok (s.dev.takeSnp p.val).flow s

/-! ### Responses (R38, R39, R62, R70, R302, R303, R322) -/

/-- The transit entry that a response on a port answers. -/
def TPort.transitFor (x : TPort) (m : Msg) : Option Transit :=
  x.transit.find? fun t => t.origin = m.origin && t.tag = m.tag && t.braid = m.braid && t.dir = m.dir

/-- What the next response of a port, of a kind, does: it goes back to the port its request came from, or `here` takes it. The entry is
released, but for a writeback's; a response without an entry is discarded and counted, one whose way back is lost discarded (R303, R314). -/
def Dev.takeResponse (d : Dev) (p : Nat) (op : MsgOp) (here : Dev → Msg → Dev) : Dev :=
  let x := d.tport p
  match (if d.clocked then x.rsps.head? else none) with
  | none => d
  | some m =>
    if m.op ≠ op then d
    else
      let d := (d.setTport p { x with rsps := x.rsps.drop 1 }).tryDoze p
      match x.transitFor m with
      | none => d.bump (evTether p 6)
      | some t =>
        let d := if op = .swb then d else (d.modTport p fun x => { x with transit := x.transit.erase t }).pump p
        match t.from_ with
        | some q => if q < 3 then d.sendMsg q m else d
        | none => here d m

/-- The level that came with a response counts as one of a channel the group used (R62, R65). -/
def Dev.remoteLevel (d : Dev) (q : Req) (level : Nat) : Dev :=
  let d := { d with path.remote := d.path.remote ++ [level] }
  if q.cls = 2 then
    let g := labelGroup q.label
    let c := d.path.c2.val g { r := 16 * d.setting idC2Cap g }
    { d with path.c2 := d.path.c2.put g { c with levels := c.levels ++ [level] } }
  else d

/-- A forwarded request has its answer: poison for a read that failed or whose data is poisoned (R22, R301). -/
def Dev.remoteDone (d : Dev) (id : Nat) (m : Msg) : Dev :=
  match d.req id with
  | none => d
  | some q =>
    let q := { q with load := m.load }
    let d := d.remoteLevel q m.level.toNat
    if m.status ≠ 0 then d.fail q
    else if !q.isRead then d.answer q .cmp
    else d.answer q (if m.poison then .poison else .data m.data)

/-- RSP at the origin (R38, R39, R322). -/
def Dev.rspHere (d : Dev) (p : Nat) (m : Msg) : Dev :=
  let t := m.tag.toNat
  let st := m.status.toNat
  if 1 < st then d.outcome t p st
  else match d.chain.tags.look t with
    | some (.req id braid ends) =>
      let tags := if braid && ends.isEmpty then d.chain.tags.put t (.spent [st]) else d.chain.tags.del t
      { d with chain.tags := tags }.remoteDone id m
    | some (.spent ends) =>
      let d := { d with chain.tags := d.chain.tags.del t }
      if ends.isEmpty then d else d.bump (evTether p 7)
    | some (.snoop ..) | some (.conflict ..) => { d with chain.tags := d.chain.tags.del t }
    | _ => d

def execRsp (p : Fin 3) (s : State) : Host.Outcome State Fault Refusal :=
  ok (s.dev.takeResponse p.val .rsp fun d m => d.rspHere p.val m).flow s

/-- SRSP at the home: a host's BIRsp or BIConflict (R233, R236). -/
def Dev.srspHere (d : Dev) (m : Msg) : Dev :=
  let t := m.tag.toNat
  match d.chain.tags.look t with
  | some (.snoop n s) | some (.conflict n s) =>
    let d := { d with chain.tags := d.chain.tags.del t }
    if m.srspType = 2 then d.takeConflict s n else d.takeBirsp s n (m.srspType = 1)
  | _ => d

def execSrsp (p : Fin 3) (s : State) : Host.Outcome State Fault Refusal :=
  ok (s.dev.takeResponse p.val .srsp Dev.srspHere).flow s

/-- SWB at the home: the holder's modified data is taken into the write buffer at once (R233, R302). -/
def Dev.swbHere (d : Dev) (m : Msg) : Dev :=
  match d.chain.tags.look m.tag.toNat with
  | some (.snoop n _) | some (.conflict n _) =>
    match d.ownerOf n with
    | none => d
    | some (a, page, _) =>
      let (id, d) := d.fresh
      let q : Req := { id := id, src := .scrub, op := .write, label := m.label, data := m.data, poison := m.poison, stage := .lsWait
                       pool := d.chain.index * 2 ^ 44 + page * 4096 + n % 64 * 64, media := n * 64, attr := a, granted := true
                       admitBnd := d.clk.bnd }
      d.placeWrite q n
  | _ => d

def execSwb (p : Fin 3) (s : State) : Host.Outcome State Fault Refusal :=
  ok (s.dev.takeResponse p.val .swb Dev.swbHere).flow s

end Sys2Proof.Machine
end

