-- ==== Sys2Proof/Machine/Mgmt.lean ====
section
/-! DEFINITION. Management messages, the discovery of the chain, default reach ranges and beat markers (spec/11 R302, R304, R305, R315 to
R318, R323 to R326, R492; spec/08 R242; spec/04 R125; spec/17 R453). -/

namespace Sys2Proof.Machine

open Sys2Proof

/-! ### A port as PROBE and TETHER.PORT report it (R305, R378) -/

/-- State of a port (R378). -/
def Dev.portState (d : Dev) (p : Nat) : Nat :=
  let x := d.tport p
  if d.setting idTetherEnable p = 0 then 6
  else match x.st with
    | .heldDown => 5
    | .active => 2
    | .standby => 4
    | .retraining => 3
    | .td => if x.retiredLink then 5 else 0
    | _ => if x.kept && x.doze = 0 then 3 else 1

/-- Trained width, 0 where the port is not trained (R378). -/
def Dev.portWidth (d : Dev) (p : Nat) : Nat :=
  let s := d.portState p
  if s = 2 || s = 3 || s = 4 then (d.tport p).width else 0

/-- Rate code: 06h 64 GT/s, 07h 128 GT/s (R288, R378). -/
def Dev.portRate (d : Dev) (p : Nat) : Nat := if (d.tport p).rate = 0 then 0 else (d.tport p).rate + 5

/-- PROBE's answer behind its Result (R305). -/
def Dev.probeBody (d : Dev) : List Byte :=
  let port (p : Nat) : List Byte :=
    [BitVec.ofNat 8 (d.portState p), BitVec.ofNat 8 (d.portWidth p), BitVec.ofNat 8 (d.portRate p), BitVec.ofNat 8 (d.tport p).partnerPort.toNat] ++
      leBytes 8 (d.tport p).uid.toNat
  leBytes 8 Config.uniqueId.toNat ++
    [BitVec.ofNat 8 (d.setting idPinnedIndex 0), Config.stepping, BitVec.ofNat 8 (d.chain.index + 32 * flag d.chain.assigned)] ++
    port 0 ++ port 1 ++ port 2

/-! ### An index is assigned (R305 ASSIGN, R316, R318, R325) -/

/-- The device takes its index, depth and beat source; what it holds on itself is named by the new index (R325; log 39). -/
def Dev.takeIndex (d : Dev) (index depth : Nat) (parent : Option Nat) (walk : Nat) : Dev :=
  let old := d.chain.index
  let own (x : Nat) : Nat := if x = old then index else x
  let d := if old = index then d
    else each (List.range 32) d fun d ld => if (d.ld ld).exts.isEmpty then d else d.modLd ld fun l => { l with
      exts := l.exts.map fun x => { x with dev := own x.dev } }
  let d := d.modSheet fun x => { x with ownerDev := own x.ownerDev }
  { d with
    chain.assigned := true, chain.index := index, chain.depth := depth, chain.parent := parent, chain.walk := walk, chain.source := parent
    chain.lastMark := d.clk.bnd, chain.mayStep := d.chain.mayStep || parent.isSome && !d.chain.assigned, chain.alone := false }

/-- ASSIGN: Result (R305, R318). -/
def Dev.takeAssign (d : Dev) (body : List Byte) : Nat × Dev :=
  let ix := field body 0 1
  let depth := field body 1 1
  let parent := field body 2 1
  if 31 < ix || 31 < depth || (2 < parent && parent ≠ 255) then (4, d)
  else if d.chain.assigned && !d.chain.alone && d.chain.index ≠ ix then (2, d)
  else (0, d.takeIndex ix depth (if parent = 255 then none else some parent) (field body 3 2))

/-! ### The topology (R305, R316, R379) -/

/-- Index of the device with a UniqueId in the topology (32: none). -/
def uidIndex (t : List Topo) (uid : BitVec 64) : Nat := ((t.find? (·.uid = uid)).map (·.index)).getD 32

/-- The links of this device, by its ports' partners. A link is a ring link where neither side has it as its parent port. -/
def Dev.ownLinks (d : Dev) (t : List Topo) : List (Nat × Bool) :=
  (List.range 3).map fun p =>
    let x := d.tport p
    if x.up then
      let i := uidIndex t x.uid
      let far := t.find? (·.index = i)
      (i, i < 32 && d.chain.parent ≠ some p && far.map (·.parent) ≠ some x.partnerPort.toNat)
    else (32, false)

/-- Rate codes of this device's links. -/
def Dev.portRates (d : Dev) : List Nat := (List.range 3).map fun p => (d.tport p).rate

/-- Links of another device as its topology record leaves them: the record's layout holds none, so each is a free value (log 38). -/
def freeLinks (v : BitVec 27) : List (Nat × Bool) :=
  (List.range 3).map fun p =>
    let n := v.toNat / 128 ^ p % 128
    (if bit n 5 then 32 else n % 32, bit n 6)

def freeRates (v : BitVec 27) : List Nat := (List.range 3).map fun p => v.toNat / 2 ^ 21 / 4 ^ p % 4

/-- Own links are read anew where the topology has grown. -/
def Dev.relink (d : Dev) : Dev :=
  let t := d.chain.topo
  let links := d.ownLinks t
  { d with chain.topo := t.map fun r => if r.index = d.chain.index then { r with links := links, rates := d.portRates } else r }

/-- A link is held in standby, one in a retrain once it is done (R315, R317). -/
def TPort.toStandby (x : TPort) : TPort := { x with st := if x.st = .active then .standby else x.st, standby := true }

/-- With 32 indices given out, a link to a device that has none is held in standby, with TETHER_OVERFLOW (R317). -/
def Dev.holdOverflow (d : Dev) : Dev :=
  if d.chain.topo.length < 32 then d
  else
    let beyond (d : Dev) (p : Nat) : Bool := (d.tport p).up && uidIndex d.chain.topo (d.tport p).uid = 32
    each [0, 1, 2] d fun d p =>
      if beyond d p then (d.modTport p TPort.toStandby).raise 0x115 .warning none p else d

/-- TOPOLOGY: Result. Records of a new walk take the old one's place; default ranges become due (R305, R323, R492). -/
def Dev.takeTopology (d : Dev) (body : List Byte) : Nat × Dev :=
  let base := field body 0 1
  let n := field body 1 1
  let walk := field body 2 2
  if n = 0 || 12 < n || 32 < base + n || !rsvd body (4 + 16 * n) (body.length - (4 + 16 * n)) then (4, d)
  else
    let d := if d.chain.topoWalk = walk then d
      else { d with chain.topo := [], chain.topoWalk := walk, chain.braidOk := [] }
    let d := each (List.range n) d fun d k =>
      let r := slice body (4 + 16 * k) 16
      let flags := field r 9 1
      if !bit flags 0 then d
      else
        let (v, d) := d.free 27
        let t : Topo := { index := base + k, uid := BitVec.ofNat 64 (field r 0 8), depth := field r 8 1 % 32, parent := field r 10 1
                          links := freeLinks v, rates := freeRates v, synced := bit flags 1, pinned := bit flags 2 }
        { d with chain.topo := (d.chain.topo.filter (·.index ≠ base + k)) ++ [t] }
    (0, { d.relink with chain.rangesDue := true }.holdOverflow)

/-- The record of a device in TETHER.CHAIN and TOPOLOGY; 16 zeros for an index that no device holds (R379). -/
def topoRecord (t : List Topo) (i : Nat) : List Byte :=
  match t.find? (·.index = i) with
  | none => zeros 16
  | some r =>
    leBytes 8 r.uid.toNat ++ [BitVec.ofNat 8 r.depth,
      BitVec.ofNat 8 (1 + 2 * flag r.synced + 4 * flag r.pinned + 8 * flag (decide (r.depth = 0))), BitVec.ofNat 8 r.parent] ++ zeros 5

/-! ### Messages served here (R305) -/

/-- PRESSURE: a peer's elastic pressure is noted, and the release event of the LD names its extents (R125). -/
def Dev.takePressure (d : Dev) (body : List Byte) : Nat × Dev :=
  let ld := field body 0 1
  let entry := field body 1 1
  let st := field body 2 1
  let dev := field body 3 1
  let n := field body 16 1
  if 31 < ld || 15 < entry || 2 < st || 31 < dev || 23 < n || !rsvd body (17 + 8 * n) (body.length - (17 + 8 * n)) then (4, d)
  else
    let d := { d with chain.pressures := d.chain.pressures.put ((ld * 16 + entry) * 32 + dev) (st, field body 4 8, field body 12 4) }
    let units := (List.range n).map fun k => field body (17 + 8 * k) 8 / mib2
    let named := ((d.ld ld).exts.filter fun x => x.st = .held && x.entry = entry && x.dev = dev && units.contains x.start).map fun x => (x.start, x.len)
    (0, if named.isEmpty then d else d.dcEvent ld true named 0)

/-- A body is at least n bytes long within the message's slots, and zero behind them (R304). -/
def fits (body : List Byte) (n : Nat) : Bool :=
  n ≤ 15 + 16 * ceilDiv (body.length - 15) 16 && body.length ≤ 207 && rsvd body n (body.length - n)

/-- DOZE: the partner's notice is accepted, and the port takes no new work (R453). -/
def Dev.takeDoze (d : Dev) (p : Nat) (body : List Byte) : Nat × Dev :=
  let code := field body 0 1
  if code ≠ 2 && code ≠ 3 then (4, d) else (0, d.modTport p fun x => { x with doze := code })

/-- What an MGMT message for this device does: the answer's Result and what follows it, none where a PREPARE answers later (R304, R305). -/
def Dev.serveMgmt (d : Dev) (p : Nat) (m : Msg) : Option (Nat × List Byte) × Dev :=
  let o := m.origin.toNat
  let body := m.body
  let plain (r : Nat × Dev) : Option (Nat × List Byte) × Dev := (some (r.1, []), r.2)
  let sized (n : Nat) (f : Nat × Dev) : Option (Nat × List Byte) × Dev := if fits body n then plain f else (some (4, []), d)
  match m.subOp.toNat with
  | 0x01 => if fits body 10 then (some (0, d.probeBody), d) else (some (4, []), d)
  | 0x02 => sized 5 (d.takeAssign body)
  | 0x03 =>
    if fits body 1 && field body 0 1 < 3 then
      (some (0, (List.range 16).flatMap fun n => leBytes 8 (d.setting idReachRange (field body 0 1 * 16 + n))), d)
    else (some (4, []), d)
  | 0x04 => plain (d.takeTopology body)
  | 0x05 => sized 9 (0, d)
  | 0x06 =>
    let h := (field body 0 2 + 65535) % 65536
    sized 2 (0, { d with chain.braidAt := d.chain.braidAt.put o (h, h) })
  | 0x10 => sized 5 (d.takeLock o body)
  | 0x11 => plain (d.takePart o body)
  | 0x12 => if fits body 13 then d.takePrepare p o m body else (some (4, []), d)
  | 0x13 => sized 8 (d.takeDecision o true body)
  | 0x14 => sized 8 (d.takeDecision o false body)
  | 0x15 => sized 9 (d.takeOutcome o body)
  | 0x20 => plain (d.takePressure body)
  | 0x21 => sized 5 (0, each ((List.range 32).filter fun ld => bit (field body 1 4) ld) d Dev.viralLd)
  | 0x30 => if m.pathMode then sized 1 (d.takeDoze p body) else (some (2, []), d)
  | 0x31 => sized 10 (0, d)
  | _ => (some (1, []), d)

/-- An MGMT message is delivered here: it leaves the pool, rings its doorbell and is answered under its tag (R304, R408). -/
def Dev.deliverMgmt (d : Dev) (p : Nat) (m : Msg) : Dev :=
  let (answer, d) := ((d.takeFrom p m).doorbell (0x385 + p)).serveMgmt p m
  let d := match answer with
    | some (r, body) => d.mrsp p m r body
    | none => d
  d.tryDoze p

/-- A path-mode message with hops left goes on: the next port is Path[1:0], which leaves the path (R302). Port code 3 and a port that is
not up have no route. -/
def Dev.forwardPath (d : Dev) (p : Nat) (m : Msg) : Dev :=
  let q := m.path.toNat % 4
  let up := q < 3 && (d.tport q).up
  if !up then (d.takeFrom p m).sendMsg p (rspTo m 3 0 0 none)
  else if (d.tport q).txRoom m.cls then (d.takeFrom p m).sendMsg q { m with path := m.path >>> 2, dest := m.dest - 1 } (some p)
  else d

/-- MGMT: the next one of a port (R302). -/
def Dev.takeMgmt (d : Dev) (p : Nat) : Dev :=
  match (if d.clocked then (d.tport p).firstOf .mgmt else none) with
  | none => d
  | some m =>
    if m.pathMode then (if m.dest = 0 then d.deliverMgmt p m else d.forwardPath p m)
    else if m.target = d.chain.index then d.deliverMgmt p m
    else d.passOn p m

def execMgmt (p : Fin 3) (s : State) : Host.Outcome State Fault Refusal := ok (s.dev.takeMgmt p.val).flow s

/-! ### Answers (R304) -/

/-- What the answer of a management message, or its want after 1 ms, does to the sender. -/
def Dev.mgmtAnswered (d : Dev) (subOp dest : Nat) (sent : List Byte) (answer : Option (List Byte)) : Dev :=
  match subOp with
  | 0x06 => if answer.map (field · 0 1) = some 0 then { d with chain.braidOk := dest :: d.chain.braidOk.filter (· ≠ dest) } else d
  | 0x10 => if field sent 0 1 = 1 then d.lockAnswered dest (answer.map (field · 0 1)) else d
  | 0x12 => d.prepareAnswered dest answer
  | 0x30 => match answer with | some b => d.dozeAnswer (dest - 32) (field b 0 1) | none => d
  | _ => d

/-- MRSP at the sender of its message. -/
def Dev.mrspHere (d : Dev) (p : Nat) (m : Msg) : Dev :=
  match d.chain.tags.look m.tag.toNat with
  | some (.mgmt subOp dest sent) =>
    ({ d with chain.tags := d.chain.tags.del m.tag.toNat }.doorbell (0x385 + p)).mgmtAnswered subOp dest sent (some m.body)
  | _ => d

def execMrsp (p : Fin 3) (s : State) : Host.Outcome State Fault Refusal :=
  ok (s.dev.takeResponse p.val .mrsp fun d m => d.mrspHere p.val m).flow s

/-- MGMT_RESPONSE_TIMEOUT: no MRSP within 1 ms: the destination does not answer (R304, R338, R347). -/
def Dev.mgmtTimeout (d : Dev) (tag : Nat) : Dev :=
  match d.chain.tags.look tag with
  | some (.mgmt subOp dest sent) => { d with chain.tags := d.chain.tags.del tag }.mgmtAnswered subOp dest sent none
  | _ => d

def execMgmtResponseTimeout (tag : BitVec 16) (s : State) : Host.Outcome State Fault Refusal := ok (s.dev.mgmtTimeout tag.toNat).flow s

/-! ### NO_ROOT (R315, R317) -/

/-- A device that no walk has reached 1 s (4,000,000 boundaries) after its first link-up runs alone with index 0. -/
def Dev.noRoot (d : Dev) : Dev :=
  match d.chain.firstUp with
  | some b =>
    if !d.clocked || d.chain.assigned || d.chain.rootStrap || d.chain.alone || d.clk.bnd < b + 4000000 then d
    else
      let d := each [0, 1, 2] d fun d p => d.modTport p fun x => if x.up then x.toStandby else x
      { d with chain.alone := true, chain.index := 0 }.raise 0x112 .warning none 0
  | none => d

def execNoRoot (s : State) : Host.Outcome State Fault Refusal := ok s.dev.noRoot s

/-! ### The walk of the root (R316, R318) -/

/-- A device as a walk finds it: its path, its answer, its parent's path, and the index it takes (32: none). -/
structure Found where
  path : List Nat
  uid : BitVec 64
  pinned : Option Nat
  ports : List ProbePort
  index : Nat
  deriving DecidableEq, Repr, Inhabited

/-- Paths in the order in which a depth-first walk that takes T0, T1, T2 in turn meets them. -/
def pathLe : List Nat → List Nat → Bool
  | [], _ => true
  | _ :: _, [] => false
  | a :: s, b :: t => a < b || (a = b && pathLe s t)

/-- The devices of a walk in its order: each reached first along a path whose last but one device was reached too. -/
def foundIn (answers : List ProbeAnswer) (root : Found) : List Found :=
  let asked := answers.map fun a =>
    ({ path := a.path.map (·.val), uid := a.uid, pinned := a.pinned.map (·.val), ports := a.ports, index := 32 } : Found)
  (asked.mergeSort fun a b => pathLe a.path b.path).foldl (fun l a =>
    if a.path.isEmpty || l.any (·.uid = a.uid) || !l.any (·.path = a.path.dropLast) then l else l ++ [a]) [root]

/-- Indices: those held stay; then the pins, then the lowest free ones, in walk order; with the pins that conflict (R316, R318). -/
def giveIndices (old : List Topo) (l : List Found) : List Found × List Found :=
  let kept := l.map fun a => { a with index := uidIndex old a.uid }
  let pins := kept.foldl (fun (acc : List Found × List Nat × List Found) a =>
    let (out, used, bad) := acc
    if a.index < 32 then (out ++ [a], used, bad)
    else match a.pinned with
      | none => (out ++ [a], used, bad)
      | some i => if used.contains i then (out ++ [a], used, bad ++ [a]) else (out ++ [{ a with index := i }], i :: used, bad))
    ([], (kept.map (·.index)).filter (· < 32), [])
  let rest := pins.1.foldl (fun (acc : List Found × List Nat) a =>
    let (out, used) := acc
    if a.index < 32 then (out ++ [a], used)
    else match lowestFree used 32 with
      | none => (out ++ [a], used)
      | some i => (out ++ [{ a with index := i }], i :: used)) ([], pins.2.1)
  (rest.1, pins.2.2)

/-- Port of a device toward its parent (255: the root, or none that matches). -/
def parentPort (l : List Found) (a : Found) : Nat :=
  match l.find? (·.path = a.path.dropLast), a.path.getLast? with
  | some up, some q =>
    ((List.range 3).find? fun i => match a.ports[i]? with | some x => x.partnerUid = up.uid && x.partnerPort.toNat = q | none => false).getD 255
  | _, _ => 255

/-- Links of a device in a walk: trained ports' partners, and whether the link is no link of the tree. -/
def linksIn (l : List Found) (a : Found) : List (Nat × Bool) :=
  (List.range 3).map fun i =>
    match a.ports[i]? with
    | some x =>
      match (if x.state = 2 || x.state = 3 then l.find? (·.uid = x.partnerUid) else none) with
      | some b => (b.index, b.path ≠ a.path ++ [i] && a.path ≠ b.path ++ [x.partnerPort.toNat])
      | none => (32, false)
    | none => (32, false)

/-- Send a management message in path mode along a path of ports. -/
def Dev.mgmtPath (d : Dev) (path : List Nat) (subOp : Nat) (body : List Byte) : Dev :=
  match d.freeTag, path with
  | some t, p :: rest =>
    { d with chain.tags := d.chain.tags.put t (.mgmt subOp 64 body) }.sendMsg p
      { op := .mgmt, label := 0x7F, tag := BitVec.ofNat 16 t, origin := BitVec.ofNat 5 d.chain.index, pathMode := true
        dest := BitVec.ofNat 5 rest.length, path := BitVec.ofNat 62 (rest.foldr (fun q n => n * 4 + q) 0), subOp := BitVec.ofNat 8 subOp
        body := body }
  | _, _ => d

/-- Send TOPOLOGY to a device in index mode: by its reach range, or, before any is set, out of the port that the walk reached it by (log
39). -/
def Dev.sendTopology (d : Dev) (a : Found) (body : List Byte) : Dev :=
  match d.route (a.index * 2 ^ 23) none, d.freeTag, a.path with
  | none, some t, p :: _ =>
    { d with chain.tags := d.chain.tags.put t (.mgmt 4 a.index body) }.sendMsg p
      { op := .mgmt, label := 0x7F, tag := BitVec.ofNat 16 t, origin := BitVec.ofNat 5 d.chain.index, dest := BitVec.ofNat 5 a.index
        subOp := 4, body := body }
  | _, _, _ => d.mgmt a.index 4 body

/-- This device as the start of its own walk. -/
def Dev.rootFound (d : Dev) : Found :=
  { path := [], uid := Config.uniqueId, pinned := let v := d.setting idPinnedIndex 0; if v < 32 then some v else none, index := 32
    ports := (List.range 3).map fun p =>
      { state := BitVec.ofNat 8 (d.portState p), width := 0, rate := BitVec.ofNat 8 (d.portRate p), partnerPort := BitVec.ofNat 8 (d.tport p).partnerPort.toNat
        partnerUid := (d.tport p).uid } }

/-- TETHER_DISCOVERY_WALK: the root probes, assigns, and tells every device the topology (R305, R316 to R318). The answers of the probes are
the command's operand. -/
def Dev.walkChain (d : Dev) (answers : List ProbeAnswer) : Dev :=
  if !d.clocked || !d.isRoot then d
  else
    let walk := (d.chain.walk + 1) % 65536
    let l := foundIn answers d.rootFound
    let asked := (answers.map fun a => a.path.map fun (q : Fin 3) => q.val).filter fun p => !p.isEmpty
    let d := each asked d fun d path => d.mgmtPath path 1 (leBytes 8 Config.uniqueId.toNat ++ leBytes 2 walk)
    let (l, bad) := giveIndices d.chain.topo l
    let d := each bad d fun d a => d.raise 0x114 .warning none (a.pinned.getD 0 + a.uid.toNat * 2 ^ 64)
    let given := l.filter (·.index < 32)
    let topo := given.map fun a =>
      ({ index := a.index, uid := a.uid, depth := a.path.length, parent := parentPort l a, links := linksIn given a
         rates := a.ports.map fun x => x.rate.toNat - 5
         synced := if a.path.isEmpty then true else ((d.chain.topo.find? (·.uid = a.uid)).map (·.synced)).getD false
         pinned := a.pinned.isSome } : Topo)
    let new := given.filter fun a => uidIndex d.chain.topo a.uid = 32
    let own := (given.find? (·.path.isEmpty)).map (·.index)
    let d := { d.takeIndex (own.getD 0) 0 none walk with
      chain.topo := topo, chain.topoWalk := walk, chain.rangesDue := true, chain.synced := true
      chain.braidOk := d.chain.braidOk.filter fun i => !new.any (·.index = i) }
    let others := given.filter fun a => !a.path.isEmpty
    let d := each (others.filter fun a => new.any (·.uid = a.uid)) d fun d a =>
      d.mgmtPath a.path 2 ([BitVec.ofNat 8 a.index, BitVec.ofNat 8 a.path.length, BitVec.ofNat 8 (parentPort l a)] ++ leBytes 2 walk)
    let last := topo.foldl (fun n r => max n r.index) 0
    let d := each others d fun d a => each (List.range (last / 12 + 1)) d fun d k =>
      let n := min 12 (last + 1 - 12 * k)
      d.sendTopology a ([BitVec.ofNat 8 (12 * k), BitVec.ofNat 8 n] ++ leBytes 2 walk ++ (List.range n).flatMap fun i => topoRecord topo (12 * k + i))
    d.holdOverflow

def execTetherDiscoveryWalk (answers : List ProbeAnswer) (s : State) : Host.Outcome State Fault Refusal := ok (s.dev.walkChain answers).flow s

/-! ### Default reach ranges (R492) -/

/-- A default range on a port: first index, count, hops, and the port of the other range of its braid. -/
structure DefRange where
  port : Nat
  first : Nat
  count : Nat
  hops : Nat
  other : Option Nat
  deriving DecidableEq, Repr, Inhabited

/-- Least by a pair of numbers. -/
def leastOf (l : List (Nat × Nat)) : Option (Nat × Nat) := (l.mergeSort fun a b => a.1 < b.1 || (a.1 = b.1 && a.2 ≤ b.2)).head?

/-- The near port of another device (R492 step 1). -/
def Dev.nearPort (d : Dev) (i : Nat) : Option Nat :=
  (leastOf ((List.range 3).filterMap fun p => (d.hopsThrough p i).map fun h => (h, p))).map (·.2)

/-- The ranges of one run, first to last index, whose near port is p (R492 steps 2 and 3). -/
def Dev.rangesOfRun (d : Dev) (p : Nat) (r : List Nat) : List DefRange :=
  let hops (q : Nat) : Option Nat := r.foldl (fun n i => n.bind fun n => (d.hopsThrough q i).map (max n)) (some 0)
  let first := r.headD 0
  match leastOf (((List.range 3).filter (· ≠ p)).filterMap fun q => (hops q).map fun h => (h, q)) with
  | some (h, q) => [⟨p, first, r.length, (hops p).getD 1, some q⟩, ⟨q, first, r.length, h, some p⟩]
  | none => [⟨p, first, r.length, (hops p).getD 1, none⟩]

/-- Maximal runs of consecutive numbers in an ascending list. -/
def runsOf (l : List Nat) : List (List Nat) :=
  l.foldr (fun i acc => match acc with
    | (j :: r) :: t => if j = i + 1 then (i :: j :: r) :: t else [i] :: (j :: r) :: t
    | _ => [i] :: acc) []

/-- The default ranges, sixteen to a port with the lowest first indices (R492 step 4), and the ports that needed more. -/
def Dev.defaultRanges (d : Dev) : List DefRange × List Nat :=
  let others := d.others.mergeSort (· ≤ ·)
  let all := (List.range 3).flatMap fun p => (runsOf (others.filter fun i => d.nearPort i = some p)).flatMap (d.rangesOfRun p)
  let on (p : Nat) : List DefRange := (all.filter (·.port = p)).mergeSort fun a b => a.first ≤ b.first
  ((List.range 3).flatMap fun p => (on p).take 16, (List.range 3).filter fun p => 16 < (on p).length)

/-- The value of a default range, braided where the other range of its braid is kept too (R341). -/
def rangeValue (kept : List DefRange) (r : DefRange) : Nat :=
  let braid := match r.other with | some q => kept.any fun x => x.port = q && x.first = r.first && x.count = r.count | none => false
  1 + 2 * flag braid + 4 * (r.hops % 32) + r.first * 2 ^ 30 + r.count * 2 ^ 58

/-- At the boundary after a walk's last TOPOLOGY: default ranges on every port whose ranges no cinch has set (R492). -/
def Dev.applyRanges (d : Dev) : Dev :=
  if !d.chain.rangesDue then d
  else
    let old := d
    let (kept, spilled) := d.defaultRanges
    let d := { d with chain.rangesDue := false }
    let d := each ((List.range 3).filter fun p => !d.chain.rangesSet.contains p) d fun d p =>
      let mine := kept.filter (·.port = p)
      each (List.range 16) d fun d n =>
        let v := (mine[n]?.map (rangeValue kept)).getD 0
        { d with conf.cur := d.conf.cur.put (settingKey idReachRange (p * 16 + n)) v }
    let d := each (spilled.filter fun p => !d.chain.rangesSet.contains p) d fun d p => d.raise 0x115 .warning none (p + 4)
    each (List.range 32) d fun d ld => if old.latencies ld = d.latencies ld then d else d.cdat ld

/-! ### Beat markers (R324 to R326) -/

/-- Magnitude of an offset. -/
def magnitude (x : Int) : Nat := x.natAbs

/-- At the boundary: each trained port's next flit carries a marker (R46 step 7, R324). -/
def Dev.sendMarkers (d : Dev) : Dev :=
  each [0, 1, 2] d fun d p =>
    let st := (d.tport p).st
    if st = .active || st = .standby then (d.modTport p fun x => { x with mark := true }).sendIdle p else d

/-- The source's marker: one step at enumeration, else slew by at most 1/16 ns; a count that differs raises BEAT_MISMATCH (R325).
The offset, in 1/16 ns, is the measurement that the command brings. -/
def Dev.followSource (d : Dev) (p : Nat) (m : Marker) (offset : Int) : Dev :=
  let d := { d with chain.lastMark := d.clk.bnd }
  if d.chain.mayStep then
    let past := ((d.tport p).delay + 2 * m.lag.toNat) / 8
    { d with
      clk.beat := m.beat + BitVec.ofNat 48 (past / 500), clk.clk := past % 500, chain.mayStep := false, chain.slew := 0
      chain.synced := m.synced }
  else if m.beat ≠ d.clk.beat then
    ({ d with chain.synced := false }.raise 0x117 .warning none (d.clk.beat.toNat + m.beat.toNat * 2 ^ 48)).doorbell 0x388
  else
    let move : Int := if 0 < offset then 1 else if offset < 0 then -1 else 0
    { d with chain.slew := d.chain.slew + move, chain.synced := m.synced && magnitude offset ≤ 2 }

/-- BEAT_MARKER: depth and sync of the partner; the marker of the source moves the boundaries (R325, R326). A device without a source takes
the port whose partner is synced. -/
def Dev.takeMarker (d : Dev) (p : Nat) (m : Marker) (offset : Int) : Dev :=
  let st := (d.tport p).st
  if !d.clocked || (st ≠ .active && st ≠ .standby) then d
  else
    let d := d.modTport p fun x => { x with partnerDepth := m.depth.toNat, partnerSynced := m.synced }
    if d.isRoot || st = .standby then d
    else
      let d := if d.chain.source.isNone && d.chain.assigned && m.synced then { d with chain.source := some p } else d
      if d.chain.source = some p then d.followSource p m offset else d

def execBeatMarker (p : Fin 3) (m : Marker) (offset : Int) (s : State) : Host.Outcome State Fault Refusal := ok (s.dev.takeMarker p.val m offset) s

/-- BEAT_HOLDOVER: 64 boundaries without a marker from the source: the last rate correction stays, and the up port whose partner is synced
with the least Depth is the new source (R326). -/
def Dev.holdover (d : Dev) : Dev :=
  match d.chain.source with
  | some q =>
    if d.isRoot || d.clk.bnd < d.chain.lastMark + 64 then d
    else
      let ports : List (Nat × Nat) := ((List.range 3).filter fun p => (d.tport p).up && (d.tport p).partnerSynced).map fun p => ((d.tport p).partnerDepth, p)
      ({ d with chain.source := (leastOf ports).map Prod.snd, chain.lastMark := d.clk.bnd }.raise 0x118 .warning none q).doorbell 0x388
  | none => d

def execBeatHoldover (s : State) : Host.Outcome State Fault Refusal := ok s.dev.holdover s

/-- BEAT_SOURCE_LOSS: no source for 4,096 boundaries: no longer synced (R326). -/
def Dev.sourceLoss (d : Dev) : Dev :=
  if d.isRoot || d.chain.source.isSome || d.clk.bnd < d.chain.lastMark + 4096 then d else { d with chain.synced := false }

def execBeatSourceLoss (s : State) : Host.Outcome State Fault Refusal := ok s.dev.sourceLoss s

end Sys2Proof.Machine
end

