-- ==== Sys2Proof/Machine/Faults.lean ====
section
/-! DEFINITION. Fault windows, severity and reactions (spec/14 R392 to R399, R402), Jalend cores (R395), SRAM errors (spec/06 R196, R182),
and lanes that fail (R388, spec/10 R291). -/

namespace Sys2Proof.Machine

open Sys2Proof

/-! ### Windows and FAULT_N (R392, R393, R402) -/

/-- A source whose class has the pin mask pulses FAULT_N and sets Hold (R402). -/
def Dev.pulseN (d : Dev) (cls : Nat) : Dev :=
  if d.setting idFaultPinMask cls = 1 then
    { d with fault.pulse := true, fault.hold := decide (d.setting idFaultPinHold 0 = 1) }.faultN true
  else d

/-- A source after the events of the last beat are counted, and whether it is a new severe event: its window closes after W boundaries,
opens with its first event, and makes it severe once, at the threshold; a hard signature makes it severe whatever the window says. A
security event is always one, and has no window (R392, R393, R407). -/
def Source.counted (s : Source) (cls window threshold now : Nat) : Source × Bool :=
  let s := match s.opened with
    | some b => if b + window ≤ now then { s with opened := none, count := 0, made := false } else s
    | none => s
  if s.fresh = 0 then (s, false)
  else if cls = 10 then ({ s with fresh := 0, hard := false, severe := true }, true)
  else
    let count := s.count + s.fresh
    let reached := !s.made && threshold ≤ count
    let new := s.hard || reached
    ({ s with opened := s.opened.orElse (fun _ => some now), count := count, fresh := 0, hard := false, made := s.made || reached
              severe := s.severe || new }, new)

/-- A source has become severe: the pin, a wake where an entry runs, and its reaction due, but for a part retired (R394, R399, R402, R452). -/
def Dev.severe (d : Dev) (n cls : Nat) : Dev :=
  let d := (d.pulseN cls).wakeFault
  if cls = 10 || (d.source n).retired then d else { d with fault.due := d.fault.due ++ [n] }

/-- Step 5 of the boundary, in ascending source number (R46, R392, R399). -/
def Dev.faultBoundary (d : Dev) : Dev :=
  each d.fault.src.keys d fun d n =>
    match sourceClass n with
    | none => d
    | some cls =>
      let (s, new) := (d.source n).counted cls (d.setting idFaultWindow cls * 4096) (d.setting idFaultThreshold cls) d.clk.bnd
      let d := d.modSource n fun _ => s
      if new then d.severe n cls else d

/-- FAULT_N_PULSE_END: the pin takes Hold (R402). -/
def Dev.pulseEnd (d : Dev) : Dev := if d.fault.pulse then { d with fault.pulse := false }.faultN d.fault.hold else d

def execFaultNPulseEnd (s : State) : Host.Outcome State Fault Refusal := ok s.dev.pulseEnd s

/-! ### Reactions (R394 to R397) -/

/-- The part of a source is retired, with its record. -/
def Dev.retireSource (d : Dev) (n type reaction : Nat) (log : LogKind := .warning) : Dev :=
  (d.modSource n fun s => { s with retired := true }).raiseFault type log n reaction

/-- SOURCE_SEVERE, for classes without a retirement (R405). -/
def Dev.severeOnly (d : Dev) (n : Nat) : Dev := d.raiseFault 0x01 .warning n 0

/-- Class 0: the device is erased from the next boundary; a second device of its subchannel of the rank retires the rank (R218, R394). -/
def Dev.reactDevice (d : Dev) (n : Nat) : Dev :=
  let ch := n / 80
  let rank := n % 80 / 20
  let sub := n % 20 / 10
  let k := n % 10
  let c := d.chan ch
  let same (e : Nat × Nat × Nat) : Bool := e.1 = rank && e.2.1 = sub
  if c.retiredPhys.contains rank || c.erased.contains (rank, sub, k) then d
  else if (c.erased ++ c.toErase).any same then d.retireRank ch rank
  else (d.modChan ch fun c => { c with toErase := c.toErase ++ [(rank, sub, k)] }).retireSource n 0x02 2

/-- The row of an SRAM part with the most corrections that is in service. -/
def Dev.worstRow (d : Dev) (part : Nat) : Option Nat :=
  let gone := d.fault.rows.val part []
  let rows := d.fault.rowCorr.filter fun e => e.1 / 2 ^ 32 = part && !gone.contains (e.1 % 2 ^ 32)
  (rows.foldl (fun (best : Option (Nat × Nat)) e => match best with
    | some b => if b.2 < e.2 then some e else best
    | none => some e) none).map fun e => e.1 % 2 ^ 32

/-- Class 2: a row is withdrawn, up to 64 of a part, where the part's rows can be (R396). -/
def Dev.reactSram (d : Dev) (part : Nat) : Dev :=
  let gone := d.fault.rows.val part []
  let n := 0x300 + part
  if !(part ≤ 7 || part = 12) || 64 ≤ gone.length then d.severeOnly n
  else match d.worstRow part with
    | none => d.severeOnly n
    | some row =>
      let k := Config.sramRowEntries part row
      let add (t : Tab Nat) (key : Nat) : Tab Nat := t.put key (t.val key 0 + k)
      let d := { d with fault.rows := d.fault.rows.put part (gone ++ [row]) }
      let pool := (Config.sramRowPool row).val
      let d := if part = 7 then
          (if pool < 4 then { d with path.withdrawn := add d.path.withdrawn (112 + pool) }
           else d.modTport (pool - 4) fun x => { x with withdrawn := x.withdrawn + k })
        else { d with path.withdrawn := add d.path.withdrawn (16 * part) }
      d.raiseFault 0x09 .warning n 7

/-- Class 3: a permanent lane fault (R291). -/
def Dev.reactLane (d : Dev) (n : Nat) : Dev :=
  let d := d.retireSource n 0x04 3
  if n < 0x420 then d.loseHostLane ((n - 0x400) / 16) (n % 16) else d.loseTetherLane ((n - 0x420) / 8) (n % 8)

/-- Class 5: the link is retired: held down until a cinch touches its port (R280, R394). -/
def Dev.reactTether (d : Dev) (p : Nat) : Dev :=
  let d := if (d.tport p).kept then d.tetherDown p else d
  let d := (d.modTport p fun x => { x with st := .heldDown, retiredLink := true }).linkEvent p 2
  d.retireSource (srcTether p) 0x05 6

/-- With 7 or fewer cores in service: CORES_DEPLETED (R395). -/
def Dev.depleted (d : Dev) (n : Nat) : Dev := if d.coresUp ≤ 7 then d.raiseFault 0x08 .fatal n 0 else d

/-- Class 6: the core is retired; an activation that runs fails (R351, R395). -/
def Dev.reactCore (d : Dev) (c : Nat) : Dev :=
  if (d.core c).st = .retired then d
  else
    let d := (d.setCore c { d.core c with st := .retired }).abandonActivation
    (d.retireSource (srcCore c) 0x07 3).depleted (srcCore c)

/-- Class 8: the engine is retired; the last in service goes on (R394, R490). -/
def Dev.reactEngine (d : Dev) (e : Nat) : Dev :=
  if d.enginesUp = [e] then d.severeOnly (srcEngine e)
  else { d with prism.retired := d.prism.retired ++ [e] }.retireSource (srcEngine e) 0x0A 3

/-- The permanent reaction of a source's class (R394). -/
def Dev.react (d : Dev) (n : Nat) : Dev :=
  if (d.source n).retired then d
  else match sourceClass n with
    | some 0 => d.reactDevice n
    | some 1 => d.retireRank ((n - 0x280) / 4) (n % 4)
    | some 2 => d.reactSram (n - 0x300)
    | some 3 => d.reactLane n
    | some 5 => d.reactTether (n - 0x444)
    | some 6 => d.reactCore (n - 0x500)
    | some 7 => (d.modHchan (n - 0x600) fun c => { c with unmon := true }).retireSource n 0x0C 3
    | some 8 => d.reactEngine (n - 0x700)
    | some 9 => d.retireSource n 0x0B 3 .info
    | some 4 | some 11 => d.severeOnly n
    | _ => d

/-- FAULT_REACTION_START: the reaction that is first due starts (R394, R399). -/
def Dev.reactionStart (d : Dev) (n : Nat) : Dev :=
  if d.awake && d.fault.due.head? = some n then { d with fault.due := d.fault.due.drop 1 }.react n else d

def execFaultReactionStart (source : BitVec 16) (s : State) : Host.Outcome State Fault Refusal := ok (s.dev.reactionStart source.toNat).flow s

/-! ### Jalend cores (R391, R395, R396) -/

/-- A core in service restarts: the event, CORE_RESTARTED, and an activation that runs fails (R351). -/
def Dev.restartCore (d : Dev) (c code detail : Nat) (hard : Bool := false) : Dev :=
  if !d.coreUp c then d
  else
    let d := (d.faultEvent (srcCore c) code detail 0 reqNone hard).setCore c { d.core c with st := .restarting }
    ((d.raiseFault 0x06 .info (srcCore c) 1).abandonActivation).depleted (srcCore c)

/-- CORE_EXCEPTION: one that firmware cannot recover in place. -/
def execCoreException (core : Fin 16) (pc : BitVec 36) (addr : BitVec 36) (s : State) : Host.Outcome State Fault Refusal :=
  ok (s.dev.restartCore core.val 2 (pc.toNat + addr.toNat * 2 ^ 36)) s

/-- CORE_HEARTBEAT_LOSS: its partner has seen no heartbeat for 16 boundaries. Where it stands is not stated (log 11). -/
def Dev.heartbeatLoss (d : Dev) (c : Nat) : Dev :=
  let (at_, d) := d.free 72
  d.restartCore c 1 at_.toNat

def execCoreHeartbeatLoss (core : Fin 16) (s : State) : Host.Outcome State Fault Refusal := ok (s.dev.heartbeatLoss core.val) s

/-- CORE_RESTART_DONE: it runs from the running bank again; a self-check that fails is a hard signature (R391, R393). -/
def Dev.restartDone (d : Dev) (c : Nat) (good : Bool) : Dev :=
  if (d.core c).st ≠ .restarting then d
  else if good then d.setCore c { st := .running, bank := d.flash.bank }
  else
    let (at_, d) := d.free 72
    d.faultEvent (srcCore c) 4 at_.toNat 0 reqNone true

def execCoreRestartDone (core : Fin 16) (selfTest : Bool) (s : State) : Host.Outcome State Fault Refusal :=
  ok (s.dev.restartDone core.val selfTest) s

/-! ### SRAM errors (R182, R196, R396) -/

/-- A write-buffer entry's line is written as stored poison (R196). -/
def Dev.poisonWb (d : Dev) (i : Nat) : Dev :=
  match d.line.wb[i]? with
  | none => d
  | some w => match w.kind with
    | .full | .masked => d.setWb { w with kind := .full, data := 0, mask := BitVec.allOnes 64, poison := true }
    | _ => d.setWb { w with poison := true }

/-- A read, or a merge, whose data stands in staging: its request returns poison, its line is merged as poison (R196). -/
def Dev.poisonRead (d : Dev) (i : Nat) : Dev :=
  match (d.dram.accs.filter (·.issued))[i]? with
  | none => d
  | some a => match a.kind with
    | .read r | .other r =>
      let mine (b : Acc) : Bool := b.kind = .read r || b.kind = .other r
      let d := { d with dram.accs := d.dram.accs.filter fun b => !mine b }
      match d.req r with | some q => d.answer q .poison | none => d
    | .merge w => match d.line.wb.find? (·.id = w) with | some x => d.setWb { x with poison := true } | none => d
    | .image c _ =>
      let qs := d.decodeReqs c
      each qs (d.dropDecode c) fun d q => d.answer q .poison
    | _ => d

/-- A Prism staging entry is lost, or a decode whose requests return poison (R196). -/
def Dev.poisonPrism (d : Dev) (i : Nat) : Dev :=
  match d.prism.staging[i]?, d.prism.decodes[i - d.prism.staging.length]? with
  | some x, _ => { d with prism.staging := d.prism.staging.filter (· ≠ x) }
  | none, some c =>
    each (d.decodeReqs c.id) (d.dropDecode c.id) fun d q => d.answer q .poison
  | none, none => d

/-- A line of the counter-tree cache: clean, it is fetched again, a pinned one at once; dirty, it is quarantined (R182, R196). -/
def Dev.losesCt (d : Dev) (i : Nat) : Dev :=
  match d.line.ct[i]? with
  | none => d
  | some x =>
    if x.dirty then d.quarantine x.line
    else match (if x.pinned then d.nodeOfLine x.line else none) with
      | some e => ((d.ctDrop x.line).fetchTree e.1 e.2 []).2
      | none => d.ctDrop x.line

/-- An entry of the extent cache, or of a first-level buffer, is fetched again (R196). -/
def Dev.losesXc (d : Dev) (i : Nat) : Dev :=
  match d.xl.xc[i]? with
  | some x => { d with xl.xc := d.xl.xc.filter (· ≠ x) }.repin
  | none =>
    let k := i - d.xl.xc.length
    match (d.xl.flb.flatMap (·.2))[k]? with
    | some e => { d with xl.flb := d.xl.flb.map fun (t : Nat × List Flb) => (t.1, t.2.filter (· ≠ e)) }
    | none => d

/-- The record at a place of the storage is lost, and counted (R396, R406). -/
def Dev.losesRecord (d : Dev) (i : Nat) : Dev :=
  if i < d.ev.recQ.length then { d with ev.recQ := d.ev.recQ.eraseIdx i }.bump 0x167 else d

/-- What an uncorrectable word of a part leads to (R196, R396). Nothing of a knot-cache slot is lost: its records go to the unit. Which entry a word lies in the spec does not lay out (log 19). -/
def Dev.sramLoss (d : Dev) (part word : Nat) : Dev :=
  match part with
  | 0 => match d.xl.kc[word]? with | some x => { d.kcWriteRecs x with xl.kc := d.xl.kc.filter (·.block ≠ x.block) } | none => d
  | 1 => d.losesCt word
  | 2 =>
    let r := d.line.roots
    { d with line.roots := match word % 3 with | 0 => (r.2.1, r.2) | 1 => (r.1, r.2.2, r.2.2) | _ => (r.1, r.2.1, r.1) }
  | 4 => d.poisonWb word
  | 5 => d.poisonRead word
  | 6 => d.poisonPrism word
  | 8 =>
    let (who, d) := d.free 16
    each ((List.range 16).filter fun c => who.getLsbD c && (d.core c).bank = d.flash.bank) d fun d c =>
      let (at_, d) := d.free 72
      d.restartCore c 2 at_.toNat
  | 9 =>
    let (at_, d) := d.free 72
    d.restartCore (word / 16384 % 16) 3 at_.toNat true
  | 10 => d.failJob (word / 1024 % 256) .internal
  | 11 => (d.evict 0x119).losesRecord (word / 16)
  | 12 => d.losesXc word
  | _ => d

/-- SRAM_ERROR: a corrected word is counted with its row; an uncorrectable one is handled by its part. The directory's and the counter
store's raise their source themselves (R196, R241, R388, R391, R424). -/
def Dev.sramError (d : Dev) (part word bitNum : Nat) (correctable : Bool) : Dev :=
  if correctable then
    let key := part * 2 ^ 32 + Config.sramRow part word % 2 ^ 32
    let d := { d with fault.rowCorr := d.fault.rowCorr.put key (d.fault.rowCorr.val key 0 + 1) }
    d.faultEvent (0x300 + part) (if part = 3 && bitNum = 255 then 3 else 1) (word + bitNum * 2 ^ 32)
  else if part = 3 then d.directoryError (word / 16 % 131072) (word % 16)
  else if part = 13 then d.counterError (.live word)
  else (d.faultEvent (0x300 + part) 2 (word + 255 * 2 ^ 32)).sramLoss part word

def execSramError (part : Fin 14) (word : BitVec 32) (bit : BitVec 8) (correctable : Bool) (s : State) : Host.Outcome State Fault Refusal :=
  ok (s.dev.sramError part.val word.toNat bit.toNat correctable).flow s

/-! ### Lanes (R388, R291, R294, R309) -/

/-- A lane is in a width reset of its link. -/
def Dev.laneResetting (d : Dev) (port lane : Nat) : Bool :=
  if port < 2 then (d.link (d.laneLink port lane)).widthReset.isSome && (d.link (d.laneLink port lane)).lanes.getLsbD (lane - d.linkFirst (d.laneLink port lane))
  else (d.tport (port - 2)).resetting && (d.tport (port - 2)).present.getLsbD lane

/-- An event of a lane that carries a link. -/
def Dev.laneEvent (d : Dev) (port lane code : Nat) : Dev :=
  d.faultEvent (laneSrc port lane) code (d.laneRate port lane + d.laneWidth port lane * 2 ^ 8)

/-- LANE_LOSS_OF_LOCK: counted; a Tether link retrains; a lane that fails during a width reset joins the mask (R294, R309, R388). -/
def Dev.lossOfLock (d : Dev) (port lane : Nat) : Dev :=
  if d.laneResetting port lane then
    let d := (d.laneEvent port lane 1).retireSource (laneSrc port lane) 0x04 3
    if port < 2 then d.loseHostLane port lane else d.loseTetherLane (port - 2) lane
  else if !d.laneActive port lane then d
  else
    let d := d.laneEvent port lane 1
    if port < 2 then d else d.startRetrain (port - 2)

def execLaneLossOfLock (lane : Lane) (s : State) : Host.Outcome State Fault Refusal :=
  ok (s.dev.lossOfLock (laneOf lane).1 (laneOf lane).2).flow s

/-- LANE_FEC_SYMBOL_COUNT: each 2^20 symbols that FEC has corrected on a lane (R388). -/
def Dev.fecCount (d : Dev) (port lane : Nat) : Dev := if d.laneActive port lane then d.laneEvent port lane 2 else d

def execLaneFecSymbolCount (lane : Lane) (s : State) : Host.Outcome State Fault Refusal := ok (s.dev.fecCount (laneOf lane).1 (laneOf lane).2) s

end Sys2Proof.Machine
end

