-- ==== Sys2Proof/Machine/Glint.lean ====
section
/-! DEFINITION. Glint scans (spec/10 R285 to R290): GLINT.START, GLINT.RESULT, the points of a commanded scan, PCIe margining, and
firmware's periodic scans. -/

namespace Sys2Proof.Machine

open Sys2Proof

/-- A lane that runs at a rate of NRZ: below 64 GT/s (R276, R288). -/
def nrzRate (code : Nat) : Bool := code ≤ 5

/-- A commanded scan runs. -/
def Dev.scanning (d : Dev) : Bool := (d.glint.scan.bind (·.box)).isSome

/-- GLINT.START (R287). -/
def Dev.glintStart (d : Dev) (iss : Issuer) (inp : List Byte) : Dev :=
  let port := field inp 0 1
  let lane := field inp 1 1
  let mode := field inp 2 1
  let dwell := field inp 3 1
  let mask := field inp 4 1
  if inp.length ≠ 8 then d.badLength iss
  else if 4 < port || (if port < 2 then 15 else 7) < lane || 1 < mode || dwell < 10 || 30 < dwell || 7 < mask || !rsvd inp 5 3 then
    d.refuse iss .invalidInput 8
  else if d.bgBusy iss then d.refuse iss .busy 8
  else if d.scanning then d.refuse iss .glintBusy 8
  else if !d.laneActive port lane then d.refuse iss .linkIdle 8
  else if nrzRate (d.laneRate port lane) && mask % 2 + mask / 4 ≠ 0 then d.refuse iss .invalidInput 8
  else if mask = 0 then d.reply iss .success (zeros 6) true
  else
    let (step, d) := d.free 16
    let x : Scan :=
      { port := port, lane := lane, mode := mode, dwell := dwell, mask := mask, box := some (issuerBox iss), rate := d.laneRate port lane
        width := d.laneWidth port lane, nrz := nrzRate (d.laneRate port lane), start := d.clk.beat, step := step
        paused := d.glint.margin.contains (laneSrc port lane), todo := [0, 1, 2].filter (bit mask) }
    { d with glint.scan := some x }.startBg iss 0xCE20

def execGlintStart (iss : Issuer) (inp : List Byte) (s : State) : Host.Outcome State Fault Refusal :=
  ok (s.dev.command iss 0xCE20 fun d => d.glintStart iss inp) s

/-- Open steps of a grid from the centre along one line, before the first closed point. -/
def openSteps (grid : Tab Nat) (at_ : Nat → Nat) (n : Nat) : Nat :=
  ((List.range n).takeWhile fun i => !grid.has (at_ (i + 1))).length

/-- Index of a point (t, v) given as offsets plus 32. -/
def gridAt (t v : Nat) : Nat := 64 * v + t

/-- The margins of an eye whose grid is measured: all 0 where the centre is closed (R288). -/
def EyeScan.margins (e : EyeScan) : EyeScan :=
  if e.grid.has (gridAt 32 32) then { e with left := 0, right := 0, up := 0, down := 0 }
  else { e with
    left := openSteps e.grid (fun i => gridAt (32 - i) 32) 32, right := openSteps e.grid (fun i => gridAt (32 + i) 32) 31
    up := openSteps e.grid (fun i => gridAt 32 (32 + i)) 31, down := openSteps e.grid (fun i => gridAt 32 (32 - i)) 32 }

/-- One point more of an eye, with the next place and whether the eye is done. Mode 01h: the centre, then outward to the left, right, up and
down, each leg to its first closed point (R287, R288). -/
def EyeScan.point (e : EyeScan) (mode at_ dis : Nat) : EyeScan × Nat × Bool :=
  let e := { e with points := e.points + 1, disagree := e.disagree + dis }
  if mode = 0 then
    let e := if dis = 0 then e else { e with grid := e.grid.put at_ (min 65535 dis) }
    (if 4095 ≤ at_ then e.margins else e, at_ + 1, 4095 ≤ at_)
  else
    let leg := at_ / 64
    let n := at_ % 64
    let len := if leg = 0 || leg = 3 then 32 else 31
    let e := if dis ≠ 0 || n = 0 then e
      else match leg with
        | 0 => { e with left := n } | 1 => { e with right := n } | 2 => { e with up := n } | _ => { e with down := n }
    if n = 0 && dis ≠ 0 then (e, 0, true)
    else if dis = 0 && n < len then (e, at_ + 1, false)
    else (e, (leg + 1) * 64 + 1, leg = 3)

/-- GLINT_POINT_DONE: a point has dwelt and settled; a scan whose lane is under margining waits at its point (R285, R286). -/
def Dev.pointDone (d : Dev) (dis : Nat) : Dev :=
  match d.glint.scan with
  | none => d
  | some x =>
    match (if x.box.isSome && !d.glint.margin.contains (laneSrc x.port x.lane) then x.todo else []) with
    | [] => d
    | eye :: rest =>
      let (e, next, done) := (x.eyes.val eye {}).point x.mode x.at_ dis
      let x := { x with eyes := x.eyes.put eye e, at_ := if done then 0 else next, todo := if done then rest else x.todo }
      if done && rest.isEmpty then d.endScan { x with complete := true } else { d with glint.scan := some x }

def execGlintPointDone (disagree : BitVec 32) (s : State) : Host.Outcome State Fault Refusal := ok (s.dev.pointDone disagree.toNat) s

/-- GLINT.RESULT (R288). A sum of disagreements that its 32 bits do not hold is a free value (log 11). -/
def Dev.glintResult (d : Dev) (iss : Issuer) (inp : List Byte) : Dev :=
  let eye := field inp 0 1
  if inp.length ≠ 8 then d.badLength iss
  else if 2 < eye || !rsvd inp 1 7 then d.refuse iss .invalidInput 32
  else match d.glint.scan with
    | none => d.refuse iss .noResult 32
    | some x => match x.eyes.look eye with
      | none => d.refuse iss .noResult 32
      | some e =>
        let (dis, d) := if e.disagree < 2 ^ 32 then (BitVec.ofNat 32 e.disagree, d) else d.free 32
        let b (n : Nat) : Byte := BitVec.ofNat 8 n
        let head := [b x.port, b x.lane, b x.mode, b x.dwell, b eye,
            b (flag x.complete + 2 * flag x.paused + 4 * flag x.ended + 8 * flag x.nrz), b x.rate, b x.width] ++ leBytes 2 x.step.toNat ++
          [b e.left, b e.right, b e.up, b e.down] ++ leBytes 4 dis.toNat ++ leBytes 2 e.points ++ leBytes 6 x.start.toNat ++ zeros 4
        let grid := if x.mode = 0 then (List.range 4096).flatMap fun i => leBytes 2 (e.grid.val i 0) else []
        d.reply iss .success (head ++ grid)

def execGlintResult (iss : Issuer) (inp : List Byte) (s : State) : Host.Outcome State Fault Refusal :=
  ok (s.dev.command iss 0xCE21 fun d => d.glintResult iss inp) s

/-- LANE_MARGINING_COMMAND: a host's receiver margining of a lane starts or ends; a commanded scan of the lane records that it paused
(R286). -/
def Dev.margining (d : Dev) (port lane : Nat) (start : Bool) : Dev :=
  let n := laneSrc port lane
  if 2 ≤ port then d
  else if !start then { d with glint.margin := d.glint.margin.filter (· ≠ n) }
  else if !d.laneActive port lane || d.glint.margin.contains n then d
  else
    let here (x : Scan) : Scan := if x.box.isSome && x.port = port && x.lane = lane then { x with paused := true } else x
    { d with glint.margin := d.glint.margin ++ [n], glint.scan := d.glint.scan.map here }

def execLaneMarginingCommand (lane : Lane) (start : Bool) (s : State) : Host.Outcome State Fault Refusal :=
  ok (s.dev.margining (laneOf lane).1 (laneOf lane).2 start) s

/-- GLINT_PERIODIC_SCAN: firmware's scan of an active lane whose sampler is free; three failing scans in a row are a permanent lane fault
(R290, R291). -/
def Dev.periodicScan (d : Dev) (port lane : Nat) (eyes : List EyeMargins) : Dev :=
  let n := laneSrc port lane
  let held := d.glint.margin.contains n ||
    (match d.glint.scan with | some x => x.box.isSome && x.port = port && x.lane = lane | none => false)
  if !d.awake || d.setting idGlintPeriod 0 = 0 || held || !d.laneActive port lane then d
  else
    let bad (e : EyeMargins) : Bool :=
      e.left + e.right < d.setting idGlintMinWidth 0 || e.up + e.down < d.setting idGlintMinHeight 0
    let k := if eyes.any bad then d.glint.fails.val n 0 + 1 else 0
    let d := { d with glint.fails := if k = 0 || 3 ≤ k then d.glint.fails.del n else d.glint.fails.put n k }
    if k < 3 || (d.source n).retired then d else d.reactLane n

def execGlintPeriodicScan (lane : Lane) (eyes : List EyeMargins) (s : State) : Host.Outcome State Fault Refusal :=
  ok (s.dev.periodicScan (laneOf lane).1 (laneOf lane).2 eyes).flow s

end Sys2Proof.Machine
end

