-- ==== Sys2Proof/Machine/Bringup.lean ====
section
/-! DEFINITION. Supplies, resets and the cold boot (spec/17 R461 to R466; spec/18 R473 to R477, R480, R481), pins (spec/15 R410, R411), and
what a cold boot reads from the modules (spec/07 R197 to R200, R214). -/

namespace Sys2Proof.Machine

open Sys2Proof

/-! ### Supplies and resets (R461, R474, R475) -/

/-- VAUX_CHANGE: it rises through 1.6 V, or falls below it: an AO power-on reset (R461, R474). -/
def Dev.vauxChange (d : Dev) (good : Bool) : Dev :=
  if d.power.vaux = good then d
  else
    let d := { d with power.vaux := good, power.coreEn := false, power.corePg := false, power.thermtrip := false }.toHeld none
    let d := if good then d
      else (d.modHchan inputCh fun c => { c with st := .off, timer := none, onFrom := none })
    if good then d.startInput else { d with hitch.pre := false, hitch.gate := false }

def execVauxChange (good : Bool) (s : State) : Host.Outcome State Fault Refusal := ok (s.dev.vauxChange good) s

/-- CORE_EN_RELEASE: at a cold power-up, 1 ms after VDD_IO is within tolerance (R474). -/
def execCoreEnRelease (s : State) : Host.Outcome State Fault Refusal :=
  ok (if s.dev.power.vaux && !s.dev.power.coreEn && s.dev.boot = .held
      then { s.dev with power.coreEn := true }.say (.pin "CORE_EN" true) else s.dev) s

/-- CORE_PG_CHANGE: the board's word on the switched rails (R474, R475). -/
def execCorePgChange (good : Bool) (s : State) : Host.Outcome State Fault Refusal :=
  ok (if good && !s.dev.power.coreEn then s.dev else { s.dev with power.corePg := good }) s

/-- RST_N_ASSERT: everything stops; the reset-cause register stays, and takes cause 4 where it holds none (R461, R467, R481). -/
def Dev.rstAssert (d : Dev) : Dev :=
  let cause := if d.power.rst then d.power.cause else d.power.cause.orElse fun _ => some (4, 0)
  let trip := d.power.thermtrip
  let d := { d with power.rst := true, power.thermtrip := false }.toHeld cause
  if trip then d.say (.pin "THERMTRIP_N" true) else d

def execRstNAssert (s : State) : Host.Outcome State Fault Refusal := ok s.dev.rstAssert s

/-- RAIL_FAULT: while CORE_EN is high a rail out of tolerance makes the board drop CORE_PG and assert RST_N, and so does VDD_IO in P3;
VDDQ_D in P3 is a VDDQ_D loss (R457, R475). -/
def Dev.railFault (d : Dev) (r : Rail) : Dev :=
  if d.power.coreEn || r = .io then { d with power.corePg := false }.rstAssert
  else if r = .vddq && d.power.latched then d.coldWake 2 0 else d

def execRailFault (rail : Rail) (s : State) : Host.Outcome State Fault Refusal := ok (s.dev.railFault rail) s

/-- PERST_N_ASSERT: the port's links go down and its LDs reset; viral, and the failed directory, end; the lane mask clears; diagnostics
lock (R242, R262, R291, R386, R461). -/
def Dev.perstAssert (d : Dev) (p : Nat) : Dev :=
  let d := d.modPort p fun x => { x with perst := true, retired := 0 }
  let links := [2 * p, 2 * p + 1]
  let d := each links d fun d l => (d.hostDown l 0).modLink l fun x => { x with viral := false, viralDue := false }
  let d := each (List.range 16) d fun d i => d.modSource (srcHostLane p i) fun s => { s with retired := false }
  { d with home.failed := false, home.failing := false, host.diagUntil := none }.pinEdge (16 + p) false

def execPerstNAssert (hp : HPort) (s : State) : Host.Outcome State Fault Refusal := ok (s.dev.perstAssert (hportNum hp)).flow s

/-- PERST_N_DEASSERT: the strap is read; a wake event (R247, R454, R461, R477). -/
def Dev.perstDeassert (d : Dev) (p : Nat) (x8 : Bool) : Dev :=
  if !(d.port p).perst then d
  else ((d.modPort p fun x => { x with perst := false, halves := x8 }).pinEdge (16 + p) true).wakeEvent 0

def execPerstNDeassert (hp : HPort) (x8 : Bool) (s : State) : Host.Outcome State Fault Refusal := ok (s.dev.perstDeassert (hportNum hp) x8) s

/-! ### The cold boot (R462 to R466) -/

/-- COLD_BOOT: RST_N rises, the rails being good: spare rows are switched in, the straps are sampled, cores that fail their self-test stay
retired, and the ROM boots an image (R196, R395, R396, R462, R477). -/
def Dev.coldBoot (d : Dev) (x : Straps) : Dev :=
  if d.boot ≠ .held || !d.power.vaux || !d.power.coreEn || !d.power.corePg then d
  else
    let covered := d.fault.rows.map fun (e : Nat × List Nat) => (e.1, min e.2.length (Config.spareRows e.1))
    let d := { d with
      boot := .rom, power.rst := false, power.i3cAddr := x.i3cAddr, chain.rootStrap := x.tetherRoot, chain.synced := x.tetherRoot
      fault.covered := covered }
    let d := each d.fault.rows d fun d e =>
      let left := (e.2.drop (d.fault.covered.val e.1 0)).foldl (fun n r => n + Config.sramRowEntries e.1 r) 0
      if left = 0 || e.1 = 7 then d else { d with path.withdrawn := d.path.withdrawn.put (16 * e.1) left }
    let d := each ((List.range 16).filter fun c => x.failedCores.getLsbD c) d fun d c =>
      (d.setCore c { st := .retired }).modSource (srcCore c) fun s => { s with retired := true }
    d.bootFirmware

def execColdBoot (straps : Straps) (s : State) : Host.Outcome State Fault Refusal := ok (s.dev.coldBoot straps) s

/-- Modules of a population, by slot. -/
abbrev Population := Tab Spd

/-- Two modules are alike in what R198 compares. -/
def alike (a b : Spd) : Bool :=
  a.kind = b.kind && a.ranks = b.ranks && a.dies = b.dies && a.density = b.density && a.gib = b.gib

/-- The first slot at which a population is not uniform (R198). -/
def Population.odd (t : Population) : Option Nat :=
  match t.head? with
  | none => none
  | some (_, m) => (List.range 16).find? fun s => match t.look s with
    | some x => !alike x m || (s % 2 = 1 && !t.has (s - 1)) || !t.has (s % 2)
    | none => t.has (s % 2)

/-- The data rate: the highest that the population and the slowest module let (R199). -/
def Population.rate (t : Population) : Nat :=
  let two := t.any fun e => e.1 % 2 = 1
  let limit := match t.head? with
    | some (_, m) => if m.kind = .mrdimm then 8800 else if two then 5600 else 6400
    | none => 0
  let slow := t.foldl (fun n e => min n e.2.speed) limit
  ([8800, 8000, 6400, 5600, 4800].find? fun r => r ≤ slow).getD 4800

/-- Slots of a subchannel in a beat at a rate (R199). -/
def slotsAt (rate : Nat) : Nat :=
  match rate with | 8800 => 137 | 8000 => 125 | 6400 => 100 | 5600 => 87 | _ => 75

/-- tRP + tRFC1 of each channel's slowest die (R209). -/
def Population.trfc (t : Population) : Tab Nat :=
  (List.range 8).map fun ch => (ch, (t.filter fun e => e.1 / 2 = ch).foldl (fun n e => max n e.2.trfcNs) 0)

/-- Module slot of a physical rank of a channel. -/
def Population.slotOf (t : Population) (ch rank : Nat) : Nat :=
  let per := ((t.head?).map (·.2.ranks)).getD 1
  2 * ch + (if per ≤ rank then 1 else 0)

/-- Media is formed from a uniform population: ranks, capacity, rate, refresh and training (R198 to R201, R209, R214), no setting holding a shadow. -/
def Dev.formMedia (d : Dev) (t : Population) : Dev :=
  match t.head? with
  | none => d
  | some (_, m) =>
    let perCh := (t.filter fun e => e.1 < 2).length
    let r := m.ranks * perCh
    let rate := t.rate
    let d : Dev := { d with
      dram.mods := t, dram.formed := true, dram.ranks := r, dram.logical := r, dram.lines := m.gib * 2 ^ 30 / m.ranks / 64
      dram.rate := rate, dram.slots := slotsAt rate, dram.trfc := t.trfc, dram.scrubFrom := (d.clk.beat, d.clk.bnd)
      dram.driftFrom := d.clk.bnd
      hitch.records := t.map fun (e : Nat × Spd) =>
        (e.1, { density := e.2.density, ranks := e.2.ranks, width := e.2.width, dies := e.2.dies, speed := e.2.speed }) }
    each (List.range 8) d Dev.trainChan

/-- The marks of the fault log are applied to the modules whose serial numbers match, and the others dropped (R398). -/
def Dev.applyLog (d : Dev) : Dev :=
  let per := ((d.dram.mods.head?).map (·.2.ranks)).getD 1
  let log := d.dram.faultLog.filter fun e => d.dram.mods.any fun m => m.2.serial = e.1
  each log { d with dram.faultLog := log } fun d e =>
    let (serial, rank, sub, dev) := e
    each (d.dram.mods.filter fun m => m.2.serial = serial) d fun d m =>
      let ch := m.1 / 2
      let phys := m.1 % 2 * per + rank
      if dev = 10 then
        (d.modChan ch fun c => { c with retired := c.retired ++ [phys], retiredPhys := c.retiredPhys ++ [phys] }).modSource (srcRank ch phys) fun s =>
          { s with retired := true }
      else
        (d.modChan ch fun c => { c with erased := c.erased ++ [(phys, sub, dev)] }).modSource (srcDevice ch phys sub dev) fun s =>
          { s with retired := true }

/-- The modules are read, and the qualified ones ramped where the sled input is on (R197, R429, R434). -/
def Dev.readModules (d : Dev) (spds : List (Option Spd)) : Population × Dev :=
  each (List.range 16) (([] : Population), d) fun (t, d) slot =>
    match spds.getD slot none with
    | none => (t, d)
    | some m =>
      let d := d.modHchan slot fun c => { c with present := true, mod := some m }
      match spdFailRow m slot with
      | some row => (t, d.unqualify slot row)
      | none =>
        if (d.hchan inputCh).st ≠ .on then (t, d)
        else (t.put slot m, d.modHchan slot fun c => { c with st := .on, onFrom := some d.clk.bnd })

/-- Ranks that fail training leave their module unpowered, as R197 does; the row that its record then names is not stated (R214; log 11). -/
def Dev.untrainModules (d : Dev) (t : Population) (failed : List (Nat × Nat)) : Population × Dev :=
  let slots := ((failed.map fun e => t.slotOf e.1 e.2).filter t.has).eraseDups
  let d := each failed d fun d e => if t.has (t.slotOf e.1 e.2)
    then d.faultEvent (srcRank e.1 e.2) 6 (15 * 2 ^ 44 + e.2 % 4 * 2 ^ 48 + e.1 * 2 ^ 50) else d
  each slots (t, d) fun (t, d) s =>
    let (row, d) := d.free 8
    (t.del s, (d.modHchan s fun c => { c with onFrom := none }).unqualify s row.toNat)

/-- A population that is not uniform raises POPULATION and forms no media (R198). -/
def Dev.population (d : Dev) (t : Population) : Dev :=
  match t.odd with
  | some s => d.raise 0x10C .failure none s
  | none => d.formMedia t

/-- FIRMWARE_BOOT (R466). -/
def Dev.firmwareBoot (d : Dev) (spds : List (Option Spd)) (failed : List (Nat × Nat)) : Dev :=
  if d.boot ≠ .firmware then d
  else
    let d := match d.power.cause with
      | some (c, step) => { d with power.cause := none }.raise 0x12D .failure none (c + step * 16)
      | none => d
    let d := match d.flash.fallback with
      | some (slot, check) => { d with flash.fallback := none }.raise 0x12E .warning none (slot + check * 256)
      | none => d
    let (kt, d) := d.random 256
    let d := { d with line.kt := kt }
    let (t, d) := d.readModules spds
    let (t, d) := if t.odd.isSome then (t, d) else d.untrainModules t failed
    let d := (d.population t).applyLog
    let d := { d with flash.memActive := true, boot := .running }
    if d.coresUp ≤ 7 then d.raiseFault 0x08 .fatal (srcCore (((List.range 16).find? fun c => !d.coreUp c).getD 0)) 0 else d

def execFirmwareBoot (spds : List (Option Spd)) (untrained : List (Fin 8 × Fin 4)) (s : State) : Host.Outcome State Fault Refusal :=
  ok (s.dev.firmwareBoot spds (untrained.map fun e => (e.1.val, e.2.val))) s

/-! ### Heat and the core supply (R473, R480, R481) -/

/-- THERMTRIP: THERMTRIP_N and FAULT_N go low until an AO power-on reset or RST_N. -/
def Dev.trip115 (d : Dev) : Dev :=
  if !d.power.vaux || d.power.thermtrip then d else ({ d with power.thermtrip := true }.say (.pin "THERMTRIP_N" false)).faultN true

def execThermtrip (s : State) : Host.Outcome State Fault Refusal := ok s.dev.trip115 s

/-- VDD_CORE_TRIM: firmware sets the regulator: the fused target plus 0, 5 or 10 mV, within 720 to 800 mV, and after the first time by at
most 5 mV in any 4,096 beats; a regulator that does not answer stays at 800 mV (R473). -/
def Dev.trim (d : Dev) (mv : Nat) (answered : Bool) : Dev :=
  let legal := [0, 5, 10].any fun c => mv = max 720 (min 800 (Config.vddTarget + c))
  let near := match d.power.trimAt with
    | none => true
    | some b => b + 4096 ≤ d.clk.bnd && mv ≤ d.power.vdd + 5 && d.power.vdd ≤ mv + 5
  if (d.boot ≠ .running && d.boot ≠ .firmware) || (d.boot = .running && !d.awake) || !legal || !near then d
  else
    let d := d.say (.pmbus mv)
    if answered then { d with power.vdd := mv, power.trimAt := some d.clk.bnd } else d

def execVddCoreTrim (mv : Nat) (answered : Bool) (s : State) : Host.Outcome State Fault Refusal := ok (s.dev.trim mv answered) s

/-- Two readings differ by more than n. -/
def apartBy (n a b : Nat) : Bool := n < a - b || n < b - a

/-- A retired monitor's readings are the mean of its two neighbours' (R394); the monitors are numbered round (log 40). -/
def meanBeside (l : List Nat) (m : Nat) : Nat := (l.getD ((m + 23) % 24) 0 + l.getD ((m + 1) % 24) 0) / 2

/-- One monitor's reading: one that disagrees with both neighbours is an event, and discarded (R388, R391, R394). -/
def Dev.readMonitor (d : Dev) (c mv : List Nat) (m : Nat) : Dev :=
  let lone (n : Nat) (l : List Nat) : Bool :=
    apartBy n (l.getD m 0) (l.getD ((m + 23) % 24) 0) && apartBy n (l.getD m 0) (l.getD ((m + 1) % 24) 0)
  let was := d.fault.monitors.val m (c.getD m 0, mv.getD m 0)
  if (d.source (srcMonitor m)).retired then
    { d with fault.monitors := d.fault.monitors.put m (meanBeside c m, meanBeside mv m) }
  else
    let d := if lone 4 c then d.faultEvent (srcMonitor m) 1 (c.getD m 0 % 65536 + meanBeside c m % 65536 * 65536) else d
    let d := if lone 15 mv then d.faultEvent (srcMonitor m) 2 (mv.getD m 0 % 65536 + meanBeside mv m % 65536 * 65536) else d
    { d with fault.monitors := d.fault.monitors.put m (if lone 4 c then was.1 else c.getD m 0, if lone 15 mv then was.2 else mv.getD m 0) }

/-- DIE_MONITOR_READ: the 24 monitors; at 100 C throttling starts at the next boundary, above it a sleeping device wakes (R454, R480). -/
def Dev.readMonitors (d : Dev) (c mv : List Nat) : Dev :=
  if d.boot ≠ .running || d.power.st = .p3 || c.length ≠ 24 || mv.length ≠ 24 then d
  else
    let d := each (List.range 24) d fun d m => d.readMonitor c mv m
    let hot := d.fault.monitors.foldl (fun n e => max n e.2.1) 0
    let d := if 100 ≤ hot && !d.power.throttle then { d with power.throttleDue := true } else d
    let d := { d with power.coolFrom := if hot ≤ 97 then d.power.coolFrom.orElse (fun _ => some d.clk.bnd) else none }
    if 100 < hot && d.power.st ≠ .p0 then d.wakeEvent 4 else d

def execDieMonitorRead (celsius : List Nat) (millivolt : List Nat) (s : State) : Host.Outcome State Fault Refusal :=
  ok (s.dev.readMonitors celsius millivolt) s

/-- THROTTLE_END: every monitor has read 97 C or below for 4,096 boundaries (R480). -/
def Dev.throttleEnds (d : Dev) : Dev :=
  match d.power.coolFrom with
  | some b => if d.power.throttle && b + 4096 ≤ d.clk.bnd then { d with power.throttle := false } else d
  | none => d

def execThrottleEnd (s : State) : Host.Outcome State Fault Refusal := ok s.dev.throttleEnds s

/-! ### Pins (R410, R411, R454) -/

/-- PIN_SOURCE_EVENT: a pin has held a new level for 1 us: a latch edge and THERM_N falling are wake events. -/
def Dev.pinEvent (d : Dev) (p : Nat) (high : Bool) : Dev :=
  if (d.pin p).high = high then d
  else
    let d := d.pinEdge p high
    if p < 16 then d.wakeEvent 2 else if p = 18 && !high then d.wakeEvent 4 else d

def execPinSourceEvent (pin : Fin 24) (high : Bool) (s : State) : Host.Outcome State Fault Refusal := ok (s.dev.pinEvent pin.val high) s

end Sys2Proof.Machine
end

