-- ==== Sys2Proof/Machine/Standard.lean ====
section
/-! DEFINITION. The standard CXL commands of R333 that no other file holds: information, background operations, limits, timestamp, logs,
features, health, alerts, poison and Sanitize, and the commands of the FM-owned LD (R251). Payload layouts are those of CXL 3.1
(PRESUMED, log 8). -/

namespace Sys2Proof.Machine

open Sys2Proof

/-- A command that takes no input: refused with any (R337). -/
def Dev.noInput (d : Dev) (iss : Issuer) (inp : List Byte) (f : Dev → Dev) : Dev :=
  if inp ≠ [] then d.answerStd iss .invalidLength [] else f d

/-- A command whose input has one length. -/
def Dev.sized (d : Dev) (iss : Issuer) (inp : List Byte) (n : Nat) (f : Dev → Dev) : Dev :=
  if inp.length ≠ n then d.answerStd iss .invalidLength [] else f d

/-! ### Identify and background operations (0001h to 0005h; R330) -/

/-- Identify: vendor, device 4C40h (R268), subsystem, serial number, payloads of 2^15 bytes (R329), a type 3 device. -/
def Dev.identify (d : Dev) (iss : Issuer) (inp : List Byte) : Dev :=
  d.noInput iss inp fun d => d.answerStd iss .success
    (leBytes 2 Config.vendorId.toNat ++ leBytes 2 0x4C40 ++ leBytes 4 Config.subsystem.toNat ++ leBytes 8 Config.serial.toNat ++ [15, 3])

def execIdentify (iss : Issuer) (inp : List Byte) (s : State) : Host.Outcome State Fault Refusal :=
  ok (s.dev.command iss 0x0001 fun d => d.identify iss inp) s

/-- Background Operation Status: the interface's command that runs, or ended last. How far a running one has come is a free value up to
100 (log 11). -/
def Dev.bgStatus (d : Dev) (iss : Issuer) (inp : List Byte) : Dev :=
  d.noInput iss inp fun d =>
    match (d.mbox (issuerBox iss)).bg with
    | none => d.answerStd iss .success (zeros 8)
    | some b =>
      let (v, d') := d.free 7
      let (part, d) := if b.running then (v.toNat % 101, d') else (100, d)
      d.answerStd iss .success
        ([BitVec.ofNat 8 (flag b.running + 2 * part), 0] ++ leBytes 2 b.opcode.toNat ++ leBytes 2 (if b.running then 0 else b.ret.code) ++ zeros 2)

def execBackgroundOperationStatus (iss : Issuer) (inp : List Byte) (s : State) : Host.Outcome State Fault Refusal :=
  ok (s.dev.command iss 0x0002 fun d => d.bgStatus iss inp) s

/-- Response message limit as a power of two. -/
def Dev.respPower (d : Dev) (iss : Issuer) : List Byte := [BitVec.ofNat 8 ((d.mbox (issuerBox iss)).respLimit.log2)]

def execGetResponseMessageLimit (iss : Issuer) (inp : List Byte) (s : State) : Host.Outcome State Fault Refusal :=
  ok (s.dev.command iss 0x0003 fun d => d.noInput iss inp fun d => d.answerStd iss .success (d.respPower iss)) s

/-- Set Response Message Limit: 256 bytes to 1 MiB may be asked for; the interface gives at most its 32 KiB (R329, R332). -/
def Dev.setRespLimit (d : Dev) (iss : Issuer) (inp : List Byte) : Dev :=
  d.sized iss inp 1 fun d =>
    let n := field inp 0 1
    if n < 8 || 20 < n then d.answerStd iss .invalidInput []
    else
      let d := d.modBox (issuerBox iss) fun b => { b with respLimit := 2 ^ (min n 15) }
      d.answerStd iss .success (d.respPower iss)

def execSetResponseMessageLimit (iss : Issuer) (inp : List Byte) (s : State) : Host.Outcome State Fault Refusal :=
  ok (s.dev.command iss 0x0004 fun d => d.setRespLimit iss inp) s

/-- Request Abort Background Operation: TABLE.INVAL, GLINT.START and Sanitize stop at the next boundary (R330). -/
def Dev.askAbort (d : Dev) (iss : Issuer) (inp : List Byte) : Dev :=
  d.noInput iss inp fun d =>
    match (d.mbox (issuerBox iss)).bg with
    | some b =>
      if !b.running then d.answerStd iss .success []
      else if [0xCE11, 0xCE20, 0x4400].contains b.opcode.toNat then
        (d.modBox (issuerBox iss) fun x => { x with bg := some { b with abort := true } }).answerStd iss .success []
      else d.answerStd iss .unsupported []
    | none => d.answerStd iss .success []

def execRequestAbortBackgroundOperation (iss : Issuer) (inp : List Byte) (s : State) : Host.Outcome State Fault Refusal :=
  ok (s.dev.command iss 0x0005 fun d => d.askAbort iss inp) s

/-- A TABLE.INVAL of an interface no longer reports; one not yet applied drops nothing (R330). -/
def Dev.stopInval (d : Dev) (box : Nat) : Dev :=
  let own (c : Change) : Bool := match c.after with | .inval b _ _ => b = box | _ => false
  let rest := d.xl.changes.filter fun c => !own c || c.applied
  { d with xl.changes := rest.map fun c => if own c then { c with after := .nothing } else c }

/-- At the boundary: background commands that were asked to stop end as aborted (R330). -/
def Dev.abortsBoundary (d : Dev) : Dev :=
  each d.host.boxes d fun d e =>
    match e.2.bg with
    | some b =>
      if !b.running || !b.abort then d
      else if b.opcode.toNat = 0xCE11 then (d.stopInval e.1).endBgRet e.1 .aborted 0 (zeros 16)
      else if b.opcode.toNat = 0xCE20 then
        match d.glint.scan with
        | some x => { d with glint.scan := some { x with box := none, todo := [] } }.endBgRet e.1 .aborted 0 (zeros 8)
        | none => d
      else match b.job with
        | some slot => d.modJob slot fun j => { j with cancel := true }
        | none => d
    | none => d

/-! ### Timestamp, logs, features (0300h to 0502h) -/

/-- The timestamp now, in ns: 0 until one has been set. -/
def Dev.timestampNow (d : Dev) : Nat :=
  if d.host.timestamp = 0 then 0 else d.host.timestamp.toNat + 250 * (d.clk.bnd - d.host.timestampAt) + d.clk.clk / 2

def execGetTimestamp (iss : Issuer) (inp : List Byte) (s : State) : Host.Outcome State Fault Refusal :=
  ok (s.dev.command iss 0x0300 fun d => d.noInput iss inp fun d => d.answerStd iss .success (leBytes 8 d.timestampNow)) s

def Dev.setTimestamp (d : Dev) (iss : Issuer) (inp : List Byte) : Dev :=
  d.sized iss inp 8 fun d =>
    { d with host.timestamp := BitVec.ofNat 64 (field inp 0 8), host.timestampAt := d.clk.bnd }.answerStd iss .success []

def execSetTimestamp (iss : Issuer) (inp : List Byte) (s : State) : Host.Outcome State Fault Refusal :=
  ok (s.dev.command iss 0x0301 fun d => d.setTimestamp iss inp) s

/-- UUID of the command effects log. -/
def uuidCel : Nat := 0x0da9c0b5bf414b788f7996b1623b3f17

/-- The opcodes of R333 and of the Jalend commands, ascending. -/
def opcodes : List Nat :=
  [0x0001, 0x0002, 0x0003, 0x0004, 0x0005, 0x0100, 0x0101, 0x0102, 0x0103, 0x0104, 0x0105, 0x0106, 0x0200, 0x0201, 0x0202,
   0x0300, 0x0301, 0x0400, 0x0401, 0x0500, 0x0501, 0x0502, 0x4000, 0x4200, 0x4201, 0x4202, 0x4300, 0x4301, 0x4302, 0x4400,
   0x4800, 0x4801, 0x4802, 0x4803, 0x5300] ++
  [0x5400, 0x5401, 0x5402, 0x5403, 0x5404, 0x5405, 0x5406, 0x5407, 0x5408, 0x5409] ++
  [0xC000, 0xC001, 0xC002, 0xC003, 0xC004, 0xC005, 0xC100, 0xC101, 0xC102, 0xC110, 0xC111, 0xC200, 0xC201, 0xC210, 0xC211,
   0xC212, 0xC213, 0xC214, 0xC215, 0xC300, 0xC301, 0xC400, 0xC401, 0xC500, 0xC501, 0xC600, 0xC601, 0xC602, 0xC603, 0xC608,
   0xC609, 0xC610, 0xC700, 0xC701, 0xC710, 0xC800, 0xC801, 0xC900, 0xCE00, 0xCE01, 0xCE10, 0xCE11, 0xCE20, 0xCE21]

/-- The command effects log: each opcode with its effects. -/
def celBytes : List Byte := opcodes.flatMap fun o => leBytes 2 o ++ leBytes 2 (Config.effects o).toNat

/-- The Neryan vendor log of an LD: the records in its event logs, in the order of R272. -/
def Dev.vendorBytes (d : Dev) (ld : Nat) : List Byte :=
  [LogKind.info, .warning, .failure, .fatal, .dc].flatMap fun k => ((d.ld ld).log k).recs.flatMap fun e => d.recordBytes e.1 e.2

def Dev.supportedLogs (d : Dev) (iss : Issuer) (inp : List Byte) : Dev :=
  d.noInput iss inp fun d =>
    let n := match issuerLd iss with | some ld => (d.vendorBytes ld).length | none => 0
    d.answerStd iss .success
      (leBytes 2 2 ++ zeros 6 ++ uuidBytes uuidCel ++ leBytes 4 celBytes.length ++ uuidBytes Config.vendorLog.toNat ++ leBytes 4 n)

def execGetSupportedLogs (iss : Issuer) (inp : List Byte) (s : State) : Host.Outcome State Fault Refusal :=
  ok (s.dev.command iss 0x0400 fun d => d.supportedLogs iss inp) s

/-- Get Log: bytes of one of the two logs. -/
def Dev.getLog (d : Dev) (iss : Issuer) (inp : List Byte) : Dev :=
  d.sized iss inp 24 fun d =>
    let log := if inp.take 16 = uuidBytes uuidCel then some celBytes
      else if inp.take 16 = uuidBytes Config.vendorLog.toNat then (issuerLd iss).map d.vendorBytes else none
    match log with
    | none => d.answerStd iss .invalidLog []
    | some l =>
      let off := field inp 16 4
      let n := field inp 20 4
      if l.length < off + n || (d.mbox (issuerBox iss)).respLimit < n then d.answerStd iss .invalidInput []
      else d.answerStd iss .success (slice l off n)

def execGetLog (iss : Issuer) (inp : List Byte) (s : State) : Host.Outcome State Fault Refusal :=
  ok (s.dev.command iss 0x0401 fun d => d.getLog iss inp) s

/-- Get Supported Features: none (R333). -/
def execGetSupportedFeatures (iss : Issuer) (inp : List Byte) (s : State) : Host.Outcome State Fault Refusal :=
  ok (s.dev.command iss 0x0500 fun d => d.sized iss inp 8 fun d =>
    if rsvd inp 6 2 then d.answerStd iss .success (zeros 8) else d.answerStd iss .invalidInput []) s

/-- Get Feature and Set Feature: every UUID names a feature that the device does not have. -/
def execGetFeature (iss : Issuer) (inp : List Byte) (s : State) : Host.Outcome State Fault Refusal :=
  ok (s.dev.command iss 0x0501 fun d => d.sized iss inp 21 fun d => d.answerStd iss .invalidInput []) s

def execSetFeature (iss : Issuer) (inp : List Byte) (s : State) : Host.Outcome State Fault Refusal :=
  ok (s.dev.command iss 0x0502 fun d =>
    if inp.length < 32 then d.answerStd iss .invalidLength [] else d.answerStd iss .invalidInput []) s

/-! ### Memory device, health and alerts (4000h, 4200h to 4202h) -/

/-- Identify Memory Device: no static capacity (R245, R333), event logs of 128 records (R414). -/
def Dev.identifyMemory (d : Dev) (iss : Issuer) (inp : List Byte) : Dev :=
  d.noInput iss inp fun d => d.answerStd iss .success
    (leBytes 16 d.flash.version.toNat ++ zeros 32 ++ leBytes 2 128 ++ leBytes 2 128 ++ leBytes 2 128 ++ leBytes 2 128 ++ zeros 4 ++
      leBytes 3 Config.poisonRecords.toNat ++ leBytes 2 Config.poisonInjects.toNat ++ [Config.poisonCaps, Config.qosCaps] ++ leBytes 2 128)

def execIdentifyMemoryDevice (iss : Issuer) (inp : List Byte) (s : State) : Host.Outcome State Fault Refusal :=
  ok (s.dev.command iss 0x4000 fun d => d.identifyMemory iss inp) s

/-- Get Health Info: the health bits are free values (log 11), no life used, the hottest monitor, lines corrected (R417 160h). -/
def Dev.health (d : Dev) (iss : Issuer) (inp : List Byte) : Dev :=
  d.noInput iss inp fun d =>
    let (h, d) := d.free 3
    let (a, d) := d.free 8
    let media := flag !(d.dram.formed && d.flash.memActive)
    let tj := d.fault.monitors.foldl (fun n e => max n e.2.1) 0
    d.answerStd iss .success
      ([BitVec.ofNat 8 h.toNat, BitVec.ofNat 8 media, a, 0xFF] ++ leBytes 2 tj ++ zeros 4 ++
        leBytes 4 ((d.ev.ctr.val (ctrDev 0x160) 0).toNat % 2 ^ 32) ++ zeros 4)

def execGetHealthInfo (iss : Issuer) (inp : List Byte) (s : State) : Host.Outcome State Fault Refusal :=
  ok (s.dev.command iss 0x4200 fun d => d.health iss inp) s

/-- The programmed alerts: enables, then life used (1), over temperature (2), under temperature (2), corrected volatile (2), corrected
persistent errors (2). -/
def Dev.alerts (d : Dev) : List Byte := if d.host.alerts.length = 10 then d.host.alerts else zeros 10

def Dev.getAlerts (d : Dev) (iss : Issuer) (inp : List Byte) : Dev :=
  d.noInput iss inp fun d =>
    let a := d.alerts
    let c := leBytes 5 Config.alertCritical.toNat
    d.answerStd iss .success (slice a 0 1 ++ [0x1F] ++ slice c 0 1 ++ slice a 1 1 ++ slice c 1 4 ++ a.drop 2)

def execGetAlertConfiguration (iss : Issuer) (inp : List Byte) (s : State) : Host.Outcome State Fault Refusal :=
  ok (s.dev.command iss 0x4201 fun d => d.getAlerts iss inp) s

/-- Set Alert Configuration: the alerts named valid take their enable and threshold. -/
def Dev.setAlerts (d : Dev) (iss : Issuer) (inp : List Byte) : Dev :=
  d.sized iss inp 12 fun d =>
    let v := field inp 0 1
    let on := field inp 1 1
    if 31 < v || 31 < on || !rsvd inp 3 1 then d.answerStd iss .invalidInput []
    else
      let a := d.alerts
      let en := (BitVec.ofNat 8 (field a 0 1) &&& ~~~(BitVec.ofNat 8 v)) ||| BitVec.ofNat 8 on &&& BitVec.ofNat 8 v
      let pick (b off n from_ : Nat) : List Byte := if bit v b then slice inp from_ n else slice a off n
      { d with host.alerts := [en] ++ pick 0 1 1 2 ++ pick 1 2 2 4 ++ pick 2 4 2 6 ++ pick 3 6 2 8 ++ pick 4 8 2 10 }.answerStd iss .success []

def execSetAlertConfiguration (iss : Issuer) (inp : List Byte) (s : State) : Host.Outcome State Fault Refusal :=
  ok (s.dev.command iss 0x4202 fun d => d.setAlerts iss inp) s

/-! ### Poison (4300h to 4302h) -/

/-- DPAs of an LD that the poison list holds: lines in the loss table, and stored poison found since the last scrub pass (R128, R333). -/
def Dev.poisonDpas (d : Dev) (ld : Nat) : List Nat :=
  let lost := d.xl.loss.flatMap fun x =>
    match d.tiers.owner.look (x.page / 512) with
    | some (key, unit) =>
      if key < 512 && key / 16 = ld then
        ((List.range 64).filter fun i => x.lost.getLsbD i).map fun i => unit * mib2 + x.page % 512 * 4096 + i * 64
      else []
    | none => []
  ((lost ++ d.line.poisonSeen.filterMap fun n => d.dpaIn ld n).mergeSort fun a b => a ≤ b).eraseDups

/-- Get Poison List: the lines of a range of DPAs, one record each, as many as the response limit holds. -/
def Dev.poisonList (d : Dev) (iss : Issuer) (inp : List Byte) : Dev :=
  d.sized iss inp 16 fun d => d.aboutLd iss fun ld =>
    let start := field inp 0 8
    let l := (d.poisonDpas ld).filter fun a => start ≤ a && a < start + 64 * field inp 8 8
    let n := min l.length (((d.mbox (issuerBox iss)).respLimit - 32) / 16)
    if start % 64 ≠ 0 then d.answerStd iss .invalidInput []
    else d.answerStd iss .success
      ([BitVec.ofNat 8 (flag (n < l.length)), 0] ++ zeros 8 ++ leBytes 2 n ++ zeros 20 ++
        (l.take n).flatMap fun a => leBytes 8 a ++ leBytes 4 1 ++ zeros 4)

def execGetPoisonList (iss : Issuer) (inp : List Byte) (s : State) : Host.Outcome State Fault Refusal :=
  ok (s.dev.command iss 0x4300 fun d => d.poisonList iss inp) s

/-- A line that firmware writes for a command, as a service request under label C0h that no job waits for; with no entry for it in the
service engines' queue the command is to be retried (log 71). -/
def Dev.placeLine (d : Dev) (iss : Issuer) (ld dpa : Nat) (x : Option Line) : Dev :=
  if dpa % 64 ≠ 0 then d.answerStd iss .invalidInput []
  else if (d.regionAt ld dpa).isNone then d.answerStd iss .invalidPa []
  else
    match d.jobWrite 256 ld dpa 0xC0 x with
    | some d => d.answerStd iss .success []
    | none => d.answerStd iss .retry []

/-- Inject Poison: refused while diagnostics are locked (R333, R386). -/
def Dev.injectPoison (d : Dev) (iss : Issuer) (inp : List Byte) : Dev :=
  d.sized iss inp 8 fun d =>
    if !d.unlocked then d.answerStd iss .invalidSecurity [] else d.aboutLd iss fun ld => d.placeLine iss ld (field inp 0 8) none

def execInjectPoison (iss : Issuer) (inp : List Byte) (s : State) : Host.Outcome State Fault Refusal :=
  ok (s.dev.command iss 0x4301 fun d => d.injectPoison iss inp) s

/-- Clear Poison: the line takes the data given. -/
def Dev.clearPoison (d : Dev) (iss : Issuer) (inp : List Byte) : Dev :=
  d.sized iss inp 72 fun d =>
    if !d.unlocked then d.answerStd iss .invalidSecurity []
    else d.aboutLd iss fun ld => d.placeLine iss ld (field inp 0 8) (some (BitVec.ofNat 512 (field inp 8 64)))

def execClearPoison (iss : Issuer) (inp : List Byte) (s : State) : Host.Outcome State Fault Refusal :=
  ok (s.dev.command iss 0x4302 fun d => d.clearPoison iss inp) s

/-! ### Sanitize (4400h; R333, R365) -/

/-- Sanitize: a SANITIZE job over every region of the LD, with NewKey FFh, as the interface's background command. -/
def Dev.sanitizeLd (d : Dev) (iss : Issuer) (inp : List Byte) : Dev :=
  d.noInput iss inp fun d => d.aboutLd iss fun ld =>
    let box := issuerBox iss
    let rs := (d.conf.regions.filter fun r => r.home.isNone && r.ld = ld).mergeSort fun a b => a.base ≤ b.base
    let units := rs.flatMap fun r => (List.range r.size).map (r.base + ·)
    if d.bgBusy iss then d.answerStd iss .busy []
    else if rs.isEmpty then d.answerStd iss .success []
    else if d.coresUp ≤ 7 then d.answerStd iss .internal []
    else
      match lowestFree d.jobs.slots.keys 256 with
      | none => d.answerStd iss .resources []
      | some slot =>
        let j : Job := { kind := .sanitize, label := 0xC0, owner := issuerOwner iss, box := some box
                         body := [BitVec.ofNat 8 ld, 0xFF] ++ zeros 6
                         entries := rs.map fun r => leBytes 8 (r.base * mib2) ++ leBytes 4 r.size ++ zeros 4
                         todo := units, total := units.length }
        (d.queueJob slot j).startBg iss 0x4400 (some slot)

def execSanitizeCommand (iss : Issuer) (inp : List Byte) (s : State) : Host.Outcome State Fault Refusal :=
  ok (s.dev.command iss 0x4400 fun d => d.sanitizeLd iss inp) s

/-! ### The FM-owned LD (5400h to 5409h; R245, R251) -/

/-- A command of the FM-owned LD: the management controller's, about an LD of an MLD link; anyone else's is unsupported (R251, R333). -/
def Dev.fmOwned (d : Dev) (iss : Issuer) (f : Nat → Dev) : Dev :=
  match iss with
  | .mc (some ld) =>
    match d.ldLink ld.val with
    | some l => if (d.link l).mld then f l else d.answerStd iss .unsupported []
    | none => d.answerStd iss .unsupported []
  | _ => d.answerStd iss .unsupported []

/-- Get LD Info: the memory size is a free value (log 11). -/
def Dev.ldInfo (d : Dev) (iss : Issuer) (inp : List Byte) : Dev :=
  d.fmOwned iss fun l => d.noInput iss inp fun d =>
    let (v, d) := d.free 64
    d.answerStd iss .success (leBytes 8 v.toNat ++ leBytes 2 (d.linkLds l).length ++ [Config.qosCaps])

def execGetLdInfo (iss : Issuer) (inp : List Byte) (s : State) : Host.Outcome State Fault Refusal :=
  ok (s.dev.command iss 0x5400 fun d => d.ldInfo iss inp) s

/-- The bytes kept for the LDs of a link, n bytes an LD-ID, for 16 LD-IDs (R245). -/
def kept (l : List Byte) (n : Nat) : List Byte := l ++ zeros (16 * n - l.length)

/-- Get LD Allocations: granularity 256 MiB, two ranges an LD. -/
def Dev.getAllocations (d : Dev) (iss : Issuer) (inp : List Byte) : Dev :=
  d.fmOwned iss fun l => d.sized iss inp 2 fun d =>
    let total := (d.linkLds l).length
    let start := field inp 0 1
    let n := min (field inp 1 1) (total - start)
    d.answerStd iss .success ([BitVec.ofNat 8 total, 0, BitVec.ofNat 8 start, BitVec.ofNat 8 n] ++ slice (kept (d.link l).ldAlloc 16) (16 * start) (16 * n))

def execGetLdAllocations (iss : Issuer) (inp : List Byte) (s : State) : Host.Outcome State Fault Refusal :=
  ok (s.dev.command iss 0x5401 fun d => d.getAllocations iss inp) s

/-- A list of n bytes an LD-ID is written from an LD-ID on: number, first LD-ID, `skip` reserved bytes, the list; answered with the same. -/
def Dev.setList (d : Dev) (iss : Issuer) (inp : List Byte) (l n skip : Nat) (get : HLink → List Byte) (put : HLink → List Byte → HLink) : Dev :=
  let count := field inp 0 1
  let start := field inp 1 1
  if inp.length ≠ 2 + skip + n * count || inp.length < 2 then d.answerStd iss .invalidLength []
  else if (d.linkLds l).length < start + count || !rsvd inp 2 skip then d.answerStd iss .invalidInput []
  else
    (d.modLink l fun x => put x (overlay (kept (get x) n) (n * start) (inp.drop (2 + skip)))).answerStd iss .success inp

/-- Set LD Allocations. -/
def execSetLdAllocations (iss : Issuer) (inp : List Byte) (s : State) : Host.Outcome State Fault Refusal :=
  ok (s.dev.command iss 0x5402 fun d => d.fmOwned iss fun l =>
    d.setList iss inp l 16 2 (·.ldAlloc) fun x b => { x with ldAlloc := b }) s

/-- Get QoS Control: the 7 bytes as set. -/
def execGetQosControl (iss : Issuer) (inp : List Byte) (s : State) : Host.Outcome State Fault Refusal :=
  ok (s.dev.command iss 0x5403 fun d => d.fmOwned iss fun l => d.noInput iss inp fun d =>
    d.answerStd iss .success (if (d.link l).qosControl.length = 7 then (d.link l).qosControl else zeros 7)) s

/-- Set QoS Control: telemetry enables, egress percentages, sample interval, completion basis and interval; their other bits are
reserved (R9). -/
def Dev.setQos (d : Dev) (iss : Issuer) (inp : List Byte) (l : Nat) : Dev :=
  d.sized iss inp 7 fun d =>
    if 3 < field inp 0 1 || 127 < field inp 1 1 || 127 < field inp 2 1 || 15 < field inp 3 1 then d.answerStd iss .invalidInput []
    else (d.modLink l fun x => { x with qosControl := inp }).answerStd iss .success inp

def execSetQosControl (iss : Issuer) (inp : List Byte) (s : State) : Host.Outcome State Fault Refusal :=
  ok (s.dev.command iss 0x5404 fun d => d.fmOwned iss fun l => d.setQos iss inp l) s

/-- Get QoS Status: the backpressure average is a free value (log 11). -/
def Dev.qosStatus (d : Dev) (iss : Issuer) (inp : List Byte) : Dev :=
  d.fmOwned iss fun _ => d.noInput iss inp fun d =>
    let (v, d) := d.free 8
    d.answerStd iss .success [v]

def execGetQosStatus (iss : Issuer) (inp : List Byte) (s : State) : Host.Outcome State Fault Refusal :=
  ok (s.dev.command iss 0x5405 fun d => d.qosStatus iss inp) s

/-- The LDs of a link that a Get names: first and number. -/
def Dev.someLds (d : Dev) (iss : Issuer) (inp : List Byte) (l : Nat) (f : Nat → Nat → Dev) : Dev :=
  d.sized iss inp 2 fun d =>
    let n := field inp 0 1
    let start := field inp 1 1
    if (d.linkLds l).length < start + n then d.answerStd iss .invalidInput [] else f start n

/-- Get QoS Allocated BW. -/
def execGetQosAllocatedBw (iss : Issuer) (inp : List Byte) (s : State) : Host.Outcome State Fault Refusal :=
  ok (s.dev.command iss 0x5406 fun d => d.fmOwned iss fun l => d.someLds iss inp l fun start n =>
    d.answerStd iss .success ([BitVec.ofNat 8 n, BitVec.ofNat 8 start] ++ slice (kept (d.link l).qosBw 1) start n)) s

/-- Set QoS Allocated BW. -/
def execSetQosAllocatedBw (iss : Issuer) (inp : List Byte) (s : State) : Host.Outcome State Fault Refusal :=
  ok (s.dev.command iss 0x5407 fun d => d.fmOwned iss fun l =>
    d.setList iss inp l 1 0 (·.qosBw) fun x b => { x with qosBw := b }) s

/-- Get QoS BW Limit. -/
def execGetQosBwLimit (iss : Issuer) (inp : List Byte) (s : State) : Host.Outcome State Fault Refusal :=
  ok (s.dev.command iss 0x5408 fun d => d.fmOwned iss fun l => d.someLds iss inp l fun start n =>
    d.answerStd iss .success ([BitVec.ofNat 8 n, BitVec.ofNat 8 start] ++ ((d.linkLds l).drop start |>.take n).map fun ld => (d.ld ld).bwLimit)) s

/-- Set QoS BW Limit: the limits that cap the rate at which ingress admits each LD's requests (R251). -/
def Dev.setBwLimits (d : Dev) (iss : Issuer) (inp : List Byte) (l : Nat) : Dev :=
  let n := field inp 0 1
  let start := field inp 1 1
  if inp.length < 2 || inp.length ≠ 2 + n then d.answerStd iss .invalidLength []
  else if (d.linkLds l).length < start + n then d.answerStd iss .invalidInput []
  else
    (each (((d.linkLds l).drop start).zip (inp.drop 2)) d fun d e => d.modLd e.1 fun x => { x with bwLimit := e.2 }).answerStd iss .success inp

def execSetQosBwLimit (iss : Issuer) (inp : List Byte) (s : State) : Host.Outcome State Fault Refusal :=
  ok (s.dev.command iss 0x5409 fun d => d.fmOwned iss fun l => d.setBwLimits iss inp l) s

end Sys2Proof.Machine
end

