-- ==== Sys2Proof/Machine/Diag.lean ====
section
/-! DEFINITION. TETHER.PORT and TETHER.CHAIN (spec/13 R378, R379), DIAG.UNLOCK and DIAG.LOCK (R386, R387), and opcodes that are not
supported (spec/12 R333, R334). -/

namespace Sys2Proof.Machine

open Sys2Proof

/-- TETHER.PORT. -/
def Dev.tetherPort (d : Dev) (iss : Issuer) (inp : List Byte) : Dev :=
  let p := field inp 0 1
  if inp.length ≠ 8 then d.badLength iss
  else if 2 < p || !rsvd inp 1 7 then d.refuse iss .invalidInput 48
  else
    let x := d.tport p
    let ring := ((d.ownLinks d.chain.topo).getD p (32, false)).2
    let flags := flag ring + 2 * flag (decide (d.chain.source = some p)) + 4 * flag x.resumed
    d.reply iss .success
      ([BitVec.ofNat 8 (d.portState p), BitVec.ofNat 8 (d.portWidth p), BitVec.ofNat 8 (d.portRate p), BitVec.ofNat 8 flags] ++
        leBytes 2 x.epoch.toNat ++ [BitVec.ofNat 8 (x.partner.toNat + 32 * flag x.partnerAssigned), BitVec.ofNat 8 x.partnerPort.toNat] ++
        zeros 6 ++ leBytes 8 x.uid.toNat ++ leBytes 4 x.delay ++ leBytes 4 (x.counts.val 0 0) ++ leBytes 4 (x.counts.val 1 0) ++
        leBytes 4 (x.counts.val 2 0) ++ zeros 8)

def execTetherPort (iss : Issuer) (inp : List Byte) (s : State) : Host.Outcome State Fault Refusal :=
  ok (s.dev.command iss 0xC500 fun d => d.tetherPort iss inp) s

/-- TETHER.CHAIN. -/
def Dev.tetherChain (d : Dev) (iss : Issuer) (inp : List Byte) : Dev :=
  if inp ≠ [] then d.badLength iss
  else
    let t := d.chain.topo
    d.reply iss .success
      ([BitVec.ofNat 8 t.length, BitVec.ofNat 8 (d.rootIndex.getD 0)] ++ zeros 4 ++ (List.range 32).flatMap (topoRecord t))

def execTetherChain (iss : Issuer) (inp : List Byte) (s : State) : Host.Outcome State Fault Refusal :=
  ok (s.dev.command iss 0xC501 fun d => d.tetherChain iss inp) s

/-- DIAG.UNLOCK: the management controller's, over a secured session; one record for the Warning log of every LD (R386). -/
def Dev.diagUnlock (d : Dev) (iss : Issuer) (inp : List Byte) : Dev :=
  let n := field inp 0 2
  if inp.length ≠ 8 then d.badLength iss
  else if !issuerMc iss then d.refuse iss .diagLocked 8
  else if d.host.mcSession.isNone then d.refuse iss .noSession 8
  else if n = 0 || !rsvd inp 2 6 then d.refuse iss .invalidInput 8
  else
    (({ d with host.diagUntil := some (d.clk.bnd + n * 4096) }).raiseAlways 0x11C .warning none n).reply iss .success (zeros 6)

def execDiagUnlock (iss : Issuer) (inp : List Byte) (s : State) : Host.Outcome State Fault Refusal :=
  ok (s.dev.command iss 0xCE00 fun d => d.diagUnlock iss inp) s

/-- DIAG.LOCK, from any party (R387). -/
def Dev.diagLock (d : Dev) (iss : Issuer) (inp : List Byte) : Dev :=
  if inp ≠ [] then d.badLength iss
  else ({ d with host.diagUntil := none }).reply iss .success (zeros 6) (!d.unlocked)

def execDiagLock (iss : Issuer) (inp : List Byte) (s : State) : Host.Outcome State Fault Refusal :=
  ok (s.dev.command iss 0xCE01 fun d => d.diagLock iss inp) s

/-- DIAG_UNLOCK_EXPIRY: Duration has passed since the last DIAG.UNLOCK (R386). -/
def Dev.diagExpires (d : Dev) : Dev :=
  match d.host.diagUntil with
  | some b => if b ≤ d.clk.bnd then { d with host.diagUntil := none } else d
  | none => d

def execDiagUnlockExpiry (s : State) : Host.Outcome State Fault Refusal := ok s.dev.diagExpires s

/-- An opcode the device does not have: Unsupported, in C000h to CFFFh with the Jalend status and an 8-byte output (R333 to R335). -/
def Dev.unknownOpcode (d : Dev) (iss : Issuer) (opcode : Nat) : Dev :=
  if 0xC000 ≤ opcode && opcode ≤ 0xCFFF then d.refuse iss .unsupported 8 else d.answerStd iss .unsupported []

/-- UNSUPPORTED_OPCODE. -/
def execUnsupportedOpcode (iss : Issuer) (opcode : BitVec 16) (_inp : List Byte) (s : State) : Host.Outcome State Fault Refusal :=
  ok (if opcodes.contains opcode.toNat then s.dev else s.dev.command iss opcode.toNat fun d => d.unknownOpcode iss opcode.toNat) s

end Sys2Proof.Machine
end

