-- ==== Sys2Proof/Machine/Registers.lean ====
section
/-! DEFINITION. The register spaces of an LD (spec/09 R268 to R272, spec/12 R331, spec/15 R419, R420, R422): what a read returns, and what a
write does by access code (spec/00 R15); the mailboxes' doorbells, the tunnel of the FM-owned LD, and commands over I3C (spec/12 R329, R332,
R333, spec/17 R454, R459). -/

namespace Sys2Proof.Machine

open Sys2Proof

/-! ### What reads return -/

/-- Hop cost of the slowest trained Tether link that a valid reach range uses; 0 where none does (R269). -/
def Dev.slowestHop (d : Dev) : Nat :=
  let used := (List.range 3).filter fun p => d.portWidth p ≠ 0 && (List.range 16).any fun n => bit (d.setting idReachRange (p * 16 + n)) 0
  used.foldl (fun m p => max m (hopCost (d.tport p).rate)) 0

/-- What an LD's function says it is: vendor, device, revision and class code (R268). -/
def identity : List Byte :=
  leBytes 2 Config.vendorId.toNat ++ leBytes 2 0x4C40 ++ [Config.stepping] ++ leBytes 3 0x050210

/-- The Neryan DVSEC's headers after the extended capability header: vendor, revision 0 and length, ID 0001h (R269). -/
def dvsecHead : List Byte := leBytes 4 (Config.vendorId.toNat + 0x20 * 2 ^ 20) ++ leBytes 4 1

/-- The Neryan DVSEC from 0Ch to 1Fh (R269). -/
def Dev.dvsec (d : Dev) (ld : Nat) : List Byte :=
  let viral := match d.ldLink ld with | some l => (d.link l).viral | none => false
  let wide := !d.dram.wide.isEmpty
  leBytes 4 d.flash.version.toNat ++
    [BitVec.ofNat 8 d.chain.index, BitVec.ofNat 8 ld, Config.stepping,
     BitVec.ofNat 8 (flag viral + 2 * flag (decide ((d.ld ld).lapsed ≠ 0)) + 4 * flag wide), BitVec.ofNat 8 (d.setting idContractRate ld % 4), 0, 0, 0] ++
    leBytes 2 500 ++ leBytes 2 (if wide then 1250 else 1000) ++ leBytes 2 250 ++ leBytes 2 d.slowestHop

/-- Lease left on the open sheet, in units of 4,096 beats, a part counting as a whole; suspended while a cinch is pending (R331, R339). -/
def Dev.leaseLeft (d : Dev) : Nat :=
  match d.conf.sheet with
  | some x => let due := x.leaseFrom + x.lease * 4096
              if x.cinch.isSome then x.lease else ceilDiv (due - d.clk.bnd) 4096
  | none => 0

/-- Commit beat of the pending cinch; 0 without one (R331). -/
def Dev.pendingBeat (d : Dev) : Nat := ((d.conf.sheet.bind (·.cinch)).map (·.named.toNat)).getD 0

/-- The Neryan extension registers of a mailbox, 11000h to 11027h (R331). -/
def Dev.extRegs (d : Dev) (box : Nat) : List Byte :=
  let b := d.mbox box
  let (state, owner) := match d.conf.sheet with
    | some x => (1 + 2 * flag (d.ownsSheet box) + 4 * flag x.chain + 8 * flag x.cinch.isSome, ownerByte x.owner)
    | none => (0, 0)
  let fw := match d.flash.act with | some a => 1 + 2 * (a.pair % 8) | none => 0
  leBytes 4 1 ++ leBytes 4 b.lastStatus.toNat ++ leBytes 4 d.clk.beat.toNat ++ leBytes 4 b.beatHi.toNat ++ leBytes 4 state ++
    leBytes 4 owner ++ leBytes 4 d.pendingBeat ++ leBytes 4 b.pendingHi.toNat ++ leBytes 4 d.leaseLeft ++ leBytes 4 fw

/-- A word of a watch's record as an LD sees it: 0 where another party owns the watch (R422). -/
def Dev.watchWord (d : Dev) (ld w off : Nat) : Nat :=
  match d.ev.watches.look w with
  | some x =>
    if x.owner ≠ ld then 0
    else match off with
      | 0 => 1 + 2 * flag x.signal + (x.owner + 128) * 2 ^ 8 + x.event * 2 ^ 16
      | 8 => x.value.toNat + 2 ^ 63 * flag x.invalid
      | 16 => x.preset.toNat
      | 24 => x.overflows.toNat
      | _ => 0
  | none => 0

/-- WatchOvf as an LD sees it: the bits of its own watches (R422). -/
def Dev.watchBits (d : Dev) (ld : Nat) : Nat :=
  (d.ev.watches.filter fun e => e.2.owner = ld && d.ev.watchOvf.getLsbD e.1).foldl (fun n e => n + 2 ^ e.1) 0

/-- A counter of an LD's snapshot (R420, R421). -/
def Dev.snapWord (d : Dev) (ld e : Nat) : Nat := let v := (d.ld ld).snap.vals.val e (0, false); v.1.toNat + 2 ^ 63 * flag v.2

/-- The aligned 8-byte word of BAR2 at an offset (R271, R420, R422). -/
def Dev.bar2Word (d : Dev) (ld off : Nat) : Nat :=
  let snapMode := d.setting idCounterMode ld = 1
  let dev := d.devScope (some ld)
  if off = 0 then
    1 + 2 ^ 8 * (d.setting idCounterMode ld + 2 * d.setting idUserRead ld + 4 * d.setting idDevScopeRead ld) + 2 ^ 16 * ld
  else if off = 8 then d.clk.beat.toNat
  else if 0x100 ≤ off && off < 0x900 then d.readCtr (some ld) dev ((off - 0x100) / 8)
  else if 0x4000 ≤ off && off < 0x8000 then
    if !snapMode then 0
    else if off = 0x4000 then (d.ld ld).snap.seq.toNat
    else if off = 0x4008 then (d.ld ld).snap.beat.toNat
    else if 0x4100 ≤ off && off < 0x4900 then d.snapWord ld ((off - 0x4100) / 8)
    else 0
  else if 0x8000 ≤ off && off < 0x8000 + 8 * 0x500 then
    let e := 0x100 + (off - 0x8000) / 8
    if !dev then 0 else if snapMode then d.snapWord ld e else d.readCtr none true e
  else if off = 0xC008 then flag (d.ld ld).snap.ready + 2 * flag (d.ld ld).snap.asked
  else if off = 0xC010 then d.watchBits ld
  else if 0xC100 ≤ off && off < 0xC500 then d.watchWord ld ((off - 0xC100) / 32) ((off - 0xC100) % 32)
  else 0

/-- A read of BAR2: an aligned 8-byte word, an aligned half of one, and 0 for any other size or alignment (R419). -/
def Dev.bar2Read (d : Dev) (ld off size : Nat) : Nat :=
  if size = 8 && off % 8 = 0 then d.bar2Word ld off
  else if size = 4 && off % 4 = 0 then d.bar2Word ld (off / 8 * 8) / 2 ^ (off % 8 * 8) % 2 ^ 32
  else 0

/-- The registers of a standard mailbox capability, 20h bytes: capabilities, control, command, status, background status (R270, R330; layout
and doorbell of log 8). A command runs to its answer at the doorbell, so the doorbell reads 0. -/
def Dev.mailboxRegs (d : Dev) (box : Nat) : List Byte :=
  let b := d.mbox box
  let running := (b.bg.map (·.running)).getD false
  let bg := match b.bg with
    | some g => g.opcode.toNat + (if g.running then 0 else 100 * 2 ^ 16 + g.ret.code * 2 ^ 32)
    | none => 0
  leBytes 4 (15 + 2 ^ 6) ++ leBytes 4 0 ++ leBytes 8 (b.opcode.toNat + b.len * 2 ^ 16) ++
    leBytes 8 (flag running + b.ret.code * 2 ^ 32) ++ leBytes 8 bg

/-- The MSI-X table of an LD: 8 entries of 16 bytes (R272). -/
def Dev.msixTable (d : Dev) (ld : Nat) : List Byte :=
  (List.range 8).flatMap fun v =>
    let x := d.vec ld v
    leBytes 8 x.addr.toNat ++ leBytes 4 x.data.toNat ++ leBytes 4 (flag x.masked)

/-- The MSI-X pending-bit array of an LD (R272, R413). -/
def Dev.pendingBits (d : Dev) (ld : Nat) : Nat := (List.range 8).foldl (fun n v => n + 2 ^ v * flag (d.vec ld v).pending) 0

/-- The bytes that stand at a register space's offset, from there to the end of the window it lies in; none where every read returns 0:
Rsvd offsets and the rest of the spaces (R15, R270). The component and device registers below 11000h are CXL's own, as Config gives them. -/
def Dev.regWindow (d : Dev) (ld : Nat) (space : Space) (off : Nat) : List Byte :=
  let at_ (base : Nat) (l : List Byte) : List Byte := l.drop (off - base)
  match space with
  | .bar0 =>
    if off < 0x11000 then Config.cxlRegs ld off
    else if 0x11000 ≤ off && off < 0x11028 then at_ 0x11000 (d.extRegs (2 * ld))
    else if 0x17FE0 ≤ off && off < 0x18000 then at_ 0x17FE0 (d.mailboxRegs (2 * ld))
    else if 0x18000 ≤ off && off < 0x20000 then at_ 0x18000 (d.mbox (2 * ld)).inp
    else if 0x20000 ≤ off && off < 0x20028 then at_ 0x20000 (d.extRegs (2 * ld + 1))
    else if 0x27FE0 ≤ off && off < 0x28000 then at_ 0x27FE0 (d.mailboxRegs (2 * ld + 1))
    else if 0x28000 ≤ off && off < 0x30000 then at_ 0x28000 (d.mbox (2 * ld + 1)).inp
    else if 0x30000 ≤ off && off < 0x30080 then at_ 0x30000 (d.msixTable ld)
    else if 0x31000 ≤ off && off < 0x31008 then at_ 0x31000 (leBytes 8 (d.pendingBits ld))
    else []
  | .dvsec => if 4 ≤ off then at_ 4 (dvsecHead ++ d.dvsec ld) else []
  | .cfgMsix => leBytes 2 (flag (d.ld ld).msixOn)
  | .aer =>
    match d.ldLink ld with
    | some l =>
      if off < 4 || 20 ≤ off then []
      else if off < 8 then at_ 4 (leBytes 4 (d.link l).aerUnc.toNat)
      else if 16 ≤ off then at_ 16 (leBytes 4 (d.link l).aerCor.toNat)
      else []
    | none => []
  | .bar2 => []

/-- What an aligned read of `size` bytes returns: the current value of what stands there; 0 at Rsvd and WO fields (R15). BAR2 answers by
R419. The two reads that also latch, BeatLo and PendingLo, are commands of their own. -/
def Dev.readReg (d : Dev) (ld : Nat) (space : Space) (off size : Nat) : Nat :=
  match space with
  | .bar2 => d.bar2Read ld off size
  | _ => if size = 0 || 8 < size || off % size ≠ 0 then 0 else field (d.regWindow ld space off) 0 size

/-- BEAT_LO_READ: the read returns BeatLo and latches the high bits into BeatHi (R331). -/
def Dev.readBeatLo (d : Dev) (box : Nat) : Dev :=
  if !d.clocked then d
  else (d.modBox box fun b => { b with beatHi := BitVec.ofNat 16 (d.clk.beat.toNat / 2 ^ 32) }).say
    (.read (BitVec.ofNat 64 (d.clk.beat.toNat % 2 ^ 32)))

def execBeatLoRead (ld : Fin 32) (box : Box) (s : State) : Host.Outcome State Fault Refusal :=
  ok (s.dev.readBeatLo (issuerBox (.host ld box))) s

/-- PENDING_LO_READ: the same of the pending cinch's commit beat (R331). -/
def Dev.readPendingLo (d : Dev) (box : Nat) : Dev :=
  if !d.clocked then d
  else (d.modBox box fun b => { b with pendingHi := BitVec.ofNat 16 (d.pendingBeat / 2 ^ 32) }).say
    (.read (BitVec.ofNat 64 (d.pendingBeat % 2 ^ 32)))

def execPendingLoRead (ld : Fin 32) (box : Box) (s : State) : Host.Outcome State Fault Refusal :=
  ok (s.dev.readPendingLo (issuerBox (.host ld box))) s

/-! ### Writes without a row of their own (R15) -/

/-- The payload window of a mailbox takes bytes (R270). -/
def Dev.writePayload (d : Dev) (box off : Nat) (v : List Byte) : Dev :=
  d.modBox box fun b => { b with inp := (overlay (b.inp ++ zeros (off + v.length - b.inp.length)) off v).take 32768 }

/-- The command register of a mailbox: opcode, payload length (log 8). -/
def Dev.writeCommand (d : Dev) (box off : Nat) (v : List Byte) : Dev :=
  d.modBox box fun b =>
    let r := leNat (overlay (leBytes 8 (b.opcode.toNat + b.len * 2 ^ 16)) off v)
    { b with opcode := BitVec.ofNat 16 r, len := r / 2 ^ 16 % 2 ^ 21 }

/-- An entry of the MSI-X table: address, data, mask; one that is unmasked sends what is pending (R272, R413). -/
def Dev.writeVector (d : Dev) (ld v off : Nat) (b : List Byte) : Dev :=
  let x := d.vec ld v
  let r := overlay (leBytes 8 x.addr.toNat ++ leBytes 4 x.data.toNat ++ leBytes 4 (flag x.masked)) off b
  let mask := bit (field r 12 4) 0
  let d := d.setVec ld v { x with addr := BitVec.ofNat 64 (field r 0 8), data := BitVec.ofNat 32 (field r 8 4), masked := x.masked || mask }
  if x.masked && !mask then d.unmask ld v else d

/-- AER status registers of the link an LD is on: RW1C (R15, R273; offsets of PCIe, log 8). -/
def Dev.writeAer (d : Dev) (ld off : Nat) (v : BitVec 32) : Dev :=
  match d.ldLink ld with
  | none => d
  | some l =>
    if off = 4 then d.modLink l fun x => { x with aerUnc := x.aerUnc &&& ~~~v }
    else if off = 16 then d.modLink l fun x => { x with aerCor := x.aerCor &&& ~~~v }
    else d

/-- REGISTER_WRITE: a register without a row of its own (R15). Read-only fields and reserved offsets ignore it, and so do those whose
writes have rows: doorbells, HDM decoders, BI Enable, the RW1C fields of BAR2 (R419, R422). -/
def Dev.writeReg (d : Dev) (ld : Nat) (r : Reg) : Dev :=
  let v := leBytes (min r.size 8) r.value.toNat
  if !d.clocked || r.size = 0 || 8 < r.size || r.off % r.size ≠ 0 then d
  else
    match r.space with
    | .bar0 =>
      if 0x18000 ≤ r.off && r.off + r.size ≤ 0x20000 then d.writePayload (2 * ld) (r.off - 0x18000) v
      else if 0x28000 ≤ r.off && r.off + r.size ≤ 0x30000 then d.writePayload (2 * ld + 1) (r.off - 0x28000) v
      else if 0x17FE8 ≤ r.off && r.off < 0x17FF0 then d.writeCommand (2 * ld) (r.off - 0x17FE8) v
      else if 0x27FE8 ≤ r.off && r.off < 0x27FF0 then d.writeCommand (2 * ld + 1) (r.off - 0x27FE8) v
      else if 0x30000 ≤ r.off && r.off < 0x30080 then d.writeVector ld ((r.off - 0x30000) / 16) (r.off % 16) v
      else d
    | .cfgMsix =>
      let on := r.value.getLsbD 0 && (d.ldLink ld).isSome
      d.modLd ld fun x => { x with msixOn := on, vecs := if on then x.vecs else x.vecs.map fun e => (e.1, { e.2 with count := 0, first := none }) }
    | .aer => if r.size = 4 then d.writeAer ld r.off (BitVec.ofNat 32 r.value.toNat) else d
    | .bar2 | .dvsec => d

def execRegisterWrite (ld : Fin 32) (reg : Reg) (s : State) : Host.Outcome State Fault Refusal := ok (s.dev.writeReg ld.val reg).settle s

/-! ### A command by its opcode -/

/-- A command of an interface other than the tunnel, by its opcode (R333, R334). -/
def runOpcode (iss : Issuer) (opcode : Nat) (inp : List Byte) (s : State) : Host.Outcome State Fault Refusal :=
  match opcode with
  | 0x0001 => execIdentify iss inp s
  | 0x0002 => execBackgroundOperationStatus iss inp s
  | 0x0003 => execGetResponseMessageLimit iss inp s
  | 0x0004 => execSetResponseMessageLimit iss inp s
  | 0x0005 => execRequestAbortBackgroundOperation iss inp s
  | 0x0100 => execGetEventRecords iss inp s
  | 0x0101 => execClearEventRecords iss inp s
  | 0x0102 => execGetEventInterruptPolicy iss inp s
  | 0x0103 => execSetEventInterruptPolicy iss inp s
  | 0x0104 => execGetMctpEventInterruptPolicy iss inp s
  | 0x0105 => execSetMctpEventInterruptPolicy iss inp s
  | 0x0106 => execEventNotification iss inp s
  | 0x0200 => execGetFwInfo iss inp s
  | 0x0201 => execTransferFw iss inp s
  | 0x0202 => execActivateFw iss inp s
  | 0x0300 => execGetTimestamp iss inp s
  | 0x0301 => execSetTimestamp iss inp s
  | 0x0400 => execGetSupportedLogs iss inp s
  | 0x0401 => execGetLog iss inp s
  | 0x0500 => execGetSupportedFeatures iss inp s
  | 0x0501 => execGetFeature iss inp s
  | 0x0502 => execSetFeature iss inp s
  | 0x4000 => execIdentifyMemoryDevice iss inp s
  | 0x4200 => execGetHealthInfo iss inp s
  | 0x4201 => execGetAlertConfiguration iss inp s
  | 0x4202 => execSetAlertConfiguration iss inp s
  | 0x4300 => execGetPoisonList iss inp s
  | 0x4301 => execInjectPoison iss inp s
  | 0x4302 => execClearPoison iss inp s
  | 0x4400 => execSanitizeCommand iss inp s
  | 0x4800 => execGetDynamicCapacityConfiguration iss inp s
  | 0x4801 => execGetDynamicCapacityExtentList iss inp s
  | 0x4802 => execAddDynamicCapacityResponse iss inp s
  | 0x4803 => execReleaseDynamicCapacity iss inp s
  | 0x5400 => execGetLdInfo iss inp s
  | 0x5401 => execGetLdAllocations iss inp s
  | 0x5402 => execSetLdAllocations iss inp s
  | 0x5403 => execGetQosControl iss inp s
  | 0x5404 => execSetQosControl iss inp s
  | 0x5405 => execGetQosStatus iss inp s
  | 0x5406 => execGetQosAllocatedBw iss inp s
  | 0x5407 => execSetQosAllocatedBw iss inp s
  | 0x5408 => execGetQosBwLimit iss inp s
  | 0x5409 => execSetQosBwLimit iss inp s
  | 0xC000 => execSheetOpen iss inp s
  | 0xC001 => execSheetSet iss inp s
  | 0xC002 => execSheetRead iss inp s
  | 0xC003 => execSheetCheck iss inp s
  | 0xC004 => execSheetCinch iss inp s
  | 0xC005 => execSheetSlip iss inp s
  | 0xC100 => execRegionStage iss inp s
  | 0xC101 => execRegionRemove iss inp s
  | 0xC102 => execRegionRead iss inp s
  | 0xC110 => execPoolAdd iss inp s
  | 0xC111 => execPoolRelease iss inp s
  | 0xC200 => execJobStatus iss inp s
  | 0xC201 => execJobCancel iss inp s
  | 0xC210 => execSanitize iss inp s
  | 0xC211 => execMigrate iss inp s
  | 0xC212 => execCopy iss inp s
  | 0xC213 => execFill iss inp s
  | 0xC214 => execTier iss inp s
  | 0xC215 => execScrub iss inp s
  | 0xC300 => execCountRead iss inp s
  | 0xC301 => execCountWatch iss inp s
  | 0xC400 => execFaultRead iss inp s
  | 0xC401 => execFaultPin iss inp s
  | 0xC500 => execTetherPort iss inp s
  | 0xC501 => execTetherChain iss inp s
  | 0xC600 => execSealKeyLoad iss inp s
  | 0xC601 => execSealKeyGen iss inp s
  | 0xC602 => execSealKeyRetire iss inp s
  | 0xC603 => execSealKeyStatus iss inp s
  | 0xC608 => execSealReknot iss inp s
  | 0xC609 => execSealQuarantine iss inp s
  | 0xC610 => execRekey iss inp s
  | 0xC700 => execHitchStatus iss inp s
  | 0xC701 => execHitchSet iss inp s
  | 0xC710 => execModuleReplace iss inp s
  | 0xC800 => execPowerEnter iss inp s
  | 0xC801 => execPowerStatus iss inp s
  | 0xC900 => execPrismStream iss inp s
  | 0xCE00 => execDiagUnlock iss inp s
  | 0xCE01 => execDiagLock iss inp s
  | 0xCE10 => execDiagPoke iss inp s
  | 0xCE11 => execTableInval iss inp s
  | 0xCE20 => execGlintStart iss inp s
  | 0xCE21 => execGlintResult iss inp s
  | o => ok (s.dev.command iss o fun d => d.unknownOpcode iss o) s

/-- The device after a command by its opcode. -/
def Dev.opcode (d : Dev) (iss : Issuer) (opcode : Nat) (inp : List Byte) : Dev :=
  match runOpcode iss opcode inp { dev := d } with
  | .next s => s.dev
  | _ => d

/-- A message of the CXL command interface: its header and payload (log 8). -/
def cciMessage (response : Bool) (tag : Byte) (opcode : Nat) (ret : Nat) (payload : List Byte) : List Byte :=
  [BitVec.ofNat 8 (flag response), tag, 0] ++ leBytes 2 opcode ++ leBytes 3 payload.length ++ leBytes 2 ret ++ zeros 2 ++ payload

/-- The answer that a command has just sent to an interface, taken out of what the device sends. -/
def Dev.takeAnswer (d : Dev) (box before : Nat) : Option (Ret × List Byte) × Dev :=
  let old := d.out.take before
  let news := d.out.drop before
  match news.findSome? fun o => match o with | .mailbox b r out => if b = box then some (r, out) else none | _ => none with
  | some x => (some x, { d with out := old ++ news.eraseP fun o => match o with | .mailbox b _ _ => b = box | _ => false })
  | none => (none, d)

/-- Tunnel Management Command: the FM-owned LD carries a command to an LD of its link and returns the answer in its own; a command that
is answered later answers for itself (R251, R333; layouts of log 8). -/
def Dev.tunnel (d : Dev) (iss : Issuer) (inp : List Byte) : Dev :=
  d.fmOwned iss fun l =>
    let n := field inp 2 2
    if inp.length < 17 || inp.length ≠ 5 + n then d.answerStd iss .invalidLength []
    else
      match (d.linkLds l)[field inp 0 1]? with
      | none => d.answerStd iss .invalidInput []
      | some ld =>
        let op := field inp 8 2
        let len := field inp 10 3 % 2 ^ 21
        if field inp 1 1 ≠ 0 || inp.length ≠ 17 + len then d.answerStd iss .invalidInput []
        else
          let dest : Issuer := .mc (if h : ld < 32 then some ⟨ld, h⟩ else none)
          let d' := d.opcode dest op (inp.drop 17)
          match d'.takeAnswer 64 d.out.length with
          | (some (r, out), d) =>
            let m := cciMessage true ((inp.drop 6).headD 0) op r.code out
            d.answerStd iss .success (leBytes 2 m.length ++ [0, (inp.drop 4).headD 0] ++ m)
          | (none, d) => d

def execTunnelManagementCommand (iss : Issuer) (inp : List Byte) (s : State) : Host.Outcome State Fault Refusal :=
  ok (s.dev.command iss 0x5300 fun d => d.tunnel iss inp) s

/-- Every command by its opcode, the tunnel too. -/
def Dev.anyOpcode (d : Dev) (iss : Issuer) (opcode : Nat) (inp : List Byte) : Dev :=
  if opcode = 0x5300 then d.command iss opcode fun d => d.tunnel iss inp else d.opcode iss opcode inp

/-- MAILBOX_DOORBELL: the command in the mailbox's registers and payload starts (R329). -/
def Dev.ringBox (d : Dev) (ld : Fin 32) (box : Box) : Dev :=
  let b := d.mbox (issuerBox (.host ld box))
  d.anyOpcode (.host ld box) b.opcode.toNat ((b.inp ++ zeros (b.len - b.inp.length)).take b.len)

def execMailboxDoorbell (ld : Fin 32) (box : Box) (s : State) : Host.Outcome State Fault Refusal := ok (s.dev.ringBox ld box) s

/-! ### I3C (R332, R454) -/

/-- Firmware meets the I3C writes taken in P2 (R454). -/
def Dev.heldWrites (d : Dev) : Dev :=
  if d.power.st = .p0 && d.awake then
    each d.host.i3cHeld { d with host.i3cHeld := [] } fun d e =>
      d.anyOpcode (.mc (e.1.bind fun n => if h : n < 32 then some ⟨n, h⟩ else none)) e.2.1.toNat e.2.2
  else d

/-- I3C_PRIVATE_WRITE: a command of the management controller; in P3 the address alone wakes the device and the write is NACKed, in P2 it
is kept until P0 (R332, R454). -/
def Dev.i3cWrite (d : Dev) (ld : Option (Fin 32)) (opcode : Nat) (inp : List Byte) : Dev :=
  if d.boot ≠ .running then d.anyOpcode (.mc ld) opcode inp
  else if d.power.st = .p3 then (d.say .i3cNack).wakeEvent 1
  else if d.power.st = .p2 || !d.awake then
    { d with host.i3cHeld := d.host.i3cHeld ++ [(ld.map Fin.val, BitVec.ofNat 16 opcode, inp)] }.wakeEvent 1
  else (d.wakeEvent 1).anyOpcode (.mc ld) opcode inp

def execI3cPrivateWrite (ld : Option (Fin 32)) (opcode : BitVec 16) (inp : List Byte) (s : State) : Host.Outcome State Fault Refusal :=
  ok (s.dev.i3cWrite ld opcode.toNat inp) s

/-- WAKE_STEP_READY: the next step of the wake starts; at P0 the writes kept run (R454, R459). -/
def execWakeStepReady (untrained : List (Fin 8 × Fin 4)) (s : State) : Host.Outcome State Fault Refusal :=
  ok (s.dev.wakeReady (untrained.map fun e => (e.1.val, e.2.val))).heldWrites s

end Sys2Proof.Machine
end

