-- ==== Sys2Proof/Machine/Regulator.lean ====
section
/-! DEFINITION. The regulator's update at a boundary (spec/02 R51, R62 to R73, spec/18 R480), the conditions of the C0 bound (spec/02 R57,
R60, spec/11 R327), OVERLOAD (R72), and the pressure of elastic regions (spec/04 R124, R125). -/

namespace Sys2Proof.Machine

open Sys2Proof

/-! ### Levels (R62) -/

/-- Level of a channel: its queue's occupancy at the end of the beat. -/
def Dev.levelNow (d : Dev) (ch : Nat) : Nat := min 7 ((d.queueOf ch).length / 32)

/-- Each channel reports its level. -/
def Dev.reportLevels (d : Dev) : Dev := { d with path.level := (List.range 8).map fun ch => (ch, d.levelNow ch) }

/-- The highest level reported at the boundary: every local channel, and the remote ones received in the beat (R65). -/
def Dev.topLevel (d : Dev) : Nat := max ((d.path.level.map Prod.snd).foldl max 0) (d.path.remote.foldl max 0)

/-! ### C1 steps (R63) -/

/-- Bin of a latency of ns for a target of t units of 8 ns: 32 bins of a sixteenth of the target, the last one open. -/
def latencyBin (t ns : Nat) : Nat := min 31 (2 * ns / t)

/-- The step that latencies call for. -/
def stepOf (t : Nat) (ns : List Nat) : Nat :=
  if t = 0 then 0
  else
    let bins := (ns.map (latencyBin t)).mergeSort
    match bins[ceilDiv (99 * bins.length) 100 - 1]? with
    | some b => min 7 ((b + 1) / 2)
    | none => 0

/-- A C1 group at the boundary: the completions of the last 64 beats, and its step. -/
def Dev.stepC1 (d : Dev) (g : Nat) (c : C1) : C1 :=
  let done := c.done.filter fun e => d.clk.bnd ≤ e.1 + 64
  { done := done, step := stepOf (d.setting idC1Target g) (done.map fun e => e.2.1), lds := (done.map fun e => e.2.2).eraseDups }

/-- Every C1 group's step; an LD counts the boundary for each step that one of its groups held (R71, R417). -/
def Dev.stepsC1 (d : Dev) : Dev :=
  let d : Dev := { d with path.c1 := d.path.c1.map fun e => (e.1, d.stepC1 e.1 e.2) }
  each (List.range 32) d fun d ld =>
    each [1, 2, 3, 4, 5, 6, 7] d fun d k =>
      if d.path.c1.any fun e => e.2.step = k && e.2.lds.contains ld then d.bumpLd ld (5 + k) else d

/-! ### C2 rates and the C3 gate (R64, R65, R480) -/

/-- The cap under which a group is regulated: half of it, rounded up, while the device throttles. -/
def Dev.capC2 (d : Dev) (g : Nat) : Nat :=
  let cap := d.setting idC2Cap g
  if d.power.throttle then (cap + 1) / 2 else cap

/-- A C2 group at the boundary. -/
def Dev.rateC2 (d : Dev) (g : Nat) : C2 :=
  let c := d.c2Of g
  let level := max ((c.used.map fun ch => d.path.level.val ch 0).foldl max 0) (c.levels.foldl max 0)
  let cap := d.capC2 g
  let r := if d.setting idHighWater 0 ≤ level then max 16 (c.r - c.r / 8)
    else if level < d.setting idLowWater 0 then min (16 * cap) (c.r + cap) else c.r
  { r := r, a := c.a % 16 + r, used := [], levels := [], level := level }

def Dev.ratesC2 (d : Dev) : Dev := { d with path.c2 := (List.range 64).map fun g => (g, d.rateC2 g) }

/-- The C3 gate for the beat that begins. -/
def Dev.setGate (d : Dev) : Dev :=
  let high := decide (d.setting idC3Gate 0 ≤ d.topLevel)
  let hot := d.power.throttle
  { d with path.gate := !high && !hot, path.gateWhy := (high, hot)
           path.gateClosed := if high || hot then some d.clk.bnd else d.path.gateClosed }

/-! ### Load states (R69) -/

def Dev.loadC1 (d : Dev) (g : Nat) : Nat :=
  let k := d.c1Step g
  if k = 7 then 3 else if 4 ≤ k then 2 else if 2 ≤ k then 1 else 0

def Dev.loadC2 (d : Dev) (g : Nat) : Nat :=
  let c := d.c2Of g
  if c.r = 16 && d.setting idHighWater 0 ≤ c.level then 3
  else if c.r < 16 * d.setting idC2Cap g then 2
  else if d.setting idLowWater 0 ≤ c.level then 1 else 0

def Dev.loadC3 (d : Dev) : Nat :=
  if !d.path.gate then 3
  else match d.path.gateClosed with
    | some b => if d.clk.bnd < b + 64 then 2 else if d.topLevel < d.setting idLowWater 0 then 0 else 1
    | none => if d.topLevel < d.setting idLowWater 0 then 0 else 1

/-- Load state of a label's group at the boundary. -/
def Dev.loadNow (d : Dev) (label : Nat) : Nat :=
  match label / 64 with
  | 0 => if d.path.demoted.contains label then 2 else 0
  | 1 => d.loadC1 (label % 64)
  | 2 => d.loadC2 (label % 64)
  | _ => d.loadC3

/-- The states of all 256 groups; those other than Light are listed. -/
def Dev.loadStates (d : Dev) : Tab Nat := (List.range 256).filterMap fun l => let v := d.loadNow l; if v = 0 then none else some (l, v)

/-! ### Waiting requests, counters, overload (R71, R72) -/

/-- Labels and LDs (32: none) of the requests that wait on the device: in a receive store, a queue of the regulator, or a job that has
requests to issue. -/
def Dev.waiting (d : Dev) : List (Nat × Nat) :=
  let reqs := (d.path.reqs.filter fun q => !q.dead && (q.regulated || q.stage = .store)).map fun q => (q.label.toNat, q.counts)
  let jobs := (d.jobs.slots.filter fun e => e.2.st = .active && !e.2.ending && e.2.reason ≠ .host && e.2.reason ≠ .waiting).map
    fun e => (e.2.label.toNat, e.2.owner.getD 32)
  (reqs ++ jobs).eraseDups

/-- Throttled and refused beats of the LDs (R71). -/
def Dev.countHeld (d : Dev) (ws : List (Nat × Nat)) : Dev :=
  each (List.range 32) d fun d ld =>
    let mine := (ws.filter fun w => w.2 = ld).map Prod.fst
    let slow := mine.any fun l => l / 64 = 2 && (d.c2Of (l % 64)).r < 16 * d.setting idC2Cap (l % 64)
    let shut := !d.path.gate && mine.any fun l => l / 64 = 3
    let d := if slow then d.bumpLd ld 4 else d
    if shut then d.bumpLd ld 5 else d

/-- Why a group is in Severe Overload (R72). -/
def Dev.overCause (d : Dev) (label : Nat) : Nat :=
  match label / 64 with | 1 => 0 | 2 => 1 | _ => if d.path.gateWhy.2 then 3 else 2

/-- A group's run at the boundary: one longer, or broken, which counts toward the 64 boundaries outside (R72). -/
def Dev.runOf (d : Dev) (ws : List (Nat × Nat)) (label : Nat) (o : Over) : Over :=
  if d.path.load.val label 0 = 3 && ws.any fun w => w.1 = label then
    { run := o.run + 1, cause := d.overCause label, outside := o.outside.map fun _ => 0 }
  else
    { run := 0, cause := o.cause, outside := o.outside.bind fun n => if 63 ≤ n then none else some (n + 1) }

/-- The runs of all groups that have one, or wait, or may raise no record yet. -/
def Dev.runs (d : Dev) (ws : List (Nat × Nat)) : Tab Over :=
  let labels := ((d.path.overs.keys ++ ws.map Prod.fst).eraseDups).mergeSort
  labels.filterMap fun l =>
    let o := d.runOf ws l (d.path.overs.val l {})
    if o.run = 0 && o.outside.isNone then none else some (l, o)

/-- Step 3 of the boundary. -/
def Dev.regulatorBoundary (d : Dev) : Dev :=
  let old := d.path.load
  let d := d.reportLevels.stepsC1.ratesC2.setGate
  let d : Dev := { d with path.demoted := d.path.demotedNow, path.demotedNow := [] }
  let d : Dev := { d with path.load := d.loadStates, path.remote := [] }
  let turned := (List.range 256).filter fun l => decide (old.val l 0 = 3) != decide (d.path.load.val l 0 = 3)
  let d := each turned d fun d _ => d.doorbell 0x384
  let ws := d.waiting
  let d := d.countHeld ws
  { d with path.overs := d.runs ws }

/-- OVERLOAD: a group's run has reached 4,001 boundaries and no record stands in its way (R72, R417). -/
def Dev.overload (d : Dev) (label : Nat) : Dev :=
  let o := d.path.overs.val label {}
  if o.run < 4001 || o.outside.isSome then d
  else
    let lds := ((d.waiting.filter fun w => w.1 = label && w.2 < 32).map Prod.snd).eraseDups
    let mask := lds.foldl (fun n ld => n + 2 ^ ld) 0
    let d := each lds d fun d ld => d.bumpLd ld 0x0F
    let d := d.raiseAlways 0x104 .warning none (label / 64 + label % 64 * 4 + o.cause * 2 ^ 8 + mask * 2 ^ 32)
    { d with path.overs := d.path.overs.put label { o with outside := some 0 } }

def execOverload (cls : Cls) (group : Fin 64) (s : State) : Host.Outcome State Fault Refusal :=
  ok (s.dev.overload (clsNum cls * 64 + group.val)) s

/-! ### Allowances and the C0 bound (R51, R57, R60, R251, R327) -/

/-- Each LD's C0 allowance, and its bandwidth limit's requests, for the beat that begins. -/
def Dev.newAllowances (d : Dev) : Dev :=
  each (List.range 32) d fun d ld =>
    let x := d.ld ld
    let rate := d.setting idContractRate ld
    if x.allowance = rate && x.bwUsed = 0 then d else d.setLd ld { x with allowance := rate, bwUsed := 0 }

/-- Devices other than this one that hold C0 extents of an LD whose bound is promised (R57). -/
def Dev.beamDevs (d : Dev) (ld : Nat) : List Nat :=
  let rs := d.conf.regions.filter fun r => r.home.isNone && r.ld = ld && labelCls r.label = .c0 && r.kind ≠ .shared
  ((rs.flatMap fun r => ((d.regionExts r).filter fun x => x.dev ≠ d.chain.index && (x.st = .held || x.st = .releasing)).map (·.dev))).eraseDups

/-- No direction of the path to a device is up and not retraining (condition 5 of R57, as far as this device's links show it). -/
def Dev.pathDown (d : Dev) (dev : Nat) : Bool :=
  let on (p : Nat) : Bool := (d.tport p).st = .active
  match d.braidPorts (dev * 2 ^ 23), d.routeTo dev with
  | some (a, b), _ => !on a && !on b
  | none, some (_, p) => !on p
  | none, none => true

/-- The route to a device leaves by a link below the rate at which C0 extents were placed over it (R327). -/
def Dev.slower (d : Dev) (dev : Nat) : Bool :=
  match d.routeTo dev with
  | some (_, p) => (d.tport p).rate < (d.tport p).placedRate
  | none => false

/-- A C0 extent of an LD has no pinned entry (R93, R106). -/
def Dev.unpinned (d : Dev) (ld : Nat) : Bool :=
  d.pinTargets.any fun e => e.1 = ld && !(d.xl.xc.any fun x => x.same .s1l2 e.1 e.2 && x.pinned)

/-- Conditions that have lapsed or returned since the last boundary, for every LD (R60, R327). -/
def Dev.c0Recheck (d : Dev) : Dev :=
  each (List.range 32) d fun d ld =>
    let devs := d.beamDevs ld
    let lapsed := (d.ld ld).lapsed
    if devs.isEmpty && lapsed = 0 then d
    else
      let down := devs.any d.pathDown
      let slow := devs.any d.slower
      let d := if down then d.suspend ld 5 else d.restore ld 5
      if slow then d.suspend ld 0 else if lapsed.getLsbD 0 && !d.unpinned ld then d.restore ld 0 else d

/-! ### Pressure of elastic regions (R124, R125) -/

/-- KiB that the pages of a pool range use. -/
def Dev.rangeUse (d : Dev) (range : Nat) : Nat :=
  match d.tiers.units.look range with
  | none => 0
  | some u => (List.range 512).foldl (fun n i => n + knotKib (d.knotAt (d.unitAddr u + unitLeaf) i)) 0

/-- Extents of a region on the device as DPA units with their use, most used first (R125); equal ones in the order of the pool ranges
(DESIGN CHOICE, log 45: the rule is silent). -/
def Dev.unitsByUse (d : Dev) (key : Nat) : List (Nat × Nat) :=
  ((d.tiers.owner.filter fun e => e.2.1 = key).map fun e => (e.2.2, d.rangeUse e.1)).mergeSort fun a b => b.2 ≤ a.2

/-- Take extents until their use reaches a deficit. -/
def nameUntil : List (Nat × Nat) → Nat → List Nat
  | [], _ => []
  | (u, k) :: t, deficit => if deficit = 0 then [] else u :: nameUntil t (deficit - k)

/-- Release level and clear level of a region on the device, in KiB (R124). -/
def Dev.releaseKib (d : Dev) (r : Region) : Nat := d.setting idReleaseAt (r.ld * 16 + r.entry) * d.quotaUnits r * 32
def Dev.clearKib (d : Dev) (r : Region) : Nat := d.setting idClearAt (r.ld * 16 + r.entry) * d.quotaUnits r * 32

/-- The state a region moves to at the boundary (R124). -/
def Dev.nextPressure (d : Dev) (r : Region) (e : Elastic) : Pressure :=
  let asks := d.setting idReleaseAt (r.ld * 16 + r.entry) ≠ 0
  if e.unplaced then .exhausted
  else match e.st with
    | .exhausted => if e.use ≤ d.clearKib r then .normal else if asks && e.use < d.releaseKib r then .pressed else .exhausted
    | .normal => if asks && d.releaseKib r ≤ e.use then .pressed else .normal
    | .pressed => if e.use ≤ d.clearKib r then .normal else .pressed

/-- The PRESSURE messages of a region to the LD's own device: its state, use and commitment, and the extents named, 23 to a message (R305). -/
def Dev.sendPressure (d : Dev) (r : Region) (home : Nat) (st : Pressure) (use : Nat) (units : List Nat) : Dev :=
  let head := [BitVec.ofNat 8 r.ld, BitVec.ofNat 8 r.entry, BitVec.ofNat 8 (pressureNum st), BitVec.ofNat 8 d.chain.index] ++
    leBytes 8 use ++ leBytes 4 (d.quotaUnits r)
  let parts := if units.isEmpty then [[]] else pieces 23 units.length units
  each parts d fun d p => d.mgmt home 0x20 (head ++ [BitVec.ofNat 8 p.length] ++ p.flatMap fun u => leBytes 8 (u * mib2))

/-- The release request of a region names extents: the LD's event here, or a message to the LD's device (R125, R258). -/
def Dev.askRelease (d : Dev) (r : Region) (st : Pressure) (use : Nat) (units : List Nat) : Dev :=
  match r.home with
  | none => if units.isEmpty then d else d.dcEvent r.ld true (units.map fun u => (u, 1)) 0
  | some h => d.sendPressure r h st use units

/-- One region at the boundary: its state, and what its episode asks for. -/
def Dev.pressRegion (d : Dev) (r : Region) : Dev :=
  let key := regionKey r
  let e := d.elastic key
  let st := d.nextPressure r e
  let put (x : Elastic) : Dev := d.modElastic key fun _ => { x with st := st, unplaced := false }
  if st = .normal then
    if e.st = .normal then (if e.unplaced then put e else d)
    else
      let d := put { e with mark := none, asked := false, named := [], since := d.clk.bnd }
      match r.home with | some h => d.sendPressure r h st e.use [] | none => d
  else
    let first := e.st = .normal
    let base := e.mark.getD e.use
    let deficit := if d.setting idReleaseAt (r.ld * 16 + r.entry) = 0 || e.use ≤ d.clearKib r then 0
      else if first then e.use - d.clearKib r
      else if d.quotaUnits r * 32 ≤ e.use - base && base < e.use then e.use - base else 0
    let names := nameUntil ((d.unitsByUse key).filter fun u => !e.named.contains u.1) deficit
    let e' := { e with
      mark := some (if first || deficit ≠ 0 then e.use else base), named := e.named ++ names
      asked := e.asked || !names.isEmpty }
    let d := put e'
    if !names.isEmpty then d.askRelease r st e.use names
    else match r.home with
      | some h => if st = e.st then d else d.sendPressure r h st e.use []
      | none => d

/-- Every elastic region of the device. -/
def Dev.pressureBoundary (d : Dev) : Dev :=
  each (d.conf.regions.filter fun r => r.kind = .elastic && 0 < r.floor.getD d.chain.index 0) d fun d r => d.pressRegion r

end Sys2Proof.Machine
end

