-- ==== Sys2Proof/Machine/Boundary.lean ====
section
/-! DEFINITION. BEAT_BOUNDARY: the actions of a boundary in their order (spec/02 R46; spec/95). -/

namespace Sys2Proof.Machine

open Sys2Proof

/-- The beat ends: what is left of its slots is accounted (R418), and beat N begins. Throttling due starts here (R480). -/
def Dev.nextBeat (d : Dev) : Dev :=
  let d := d.closeSlots
  { d with
    clk.beat := d.clk.beat + 1, clk.clk := 0, clk.bnd := d.clk.bnd + 1
    power.throttle := d.power.throttle || d.power.throttleDue, power.throttleDue := false }

/-- Requests of links that went down or took a hot reset leave the queues that the regulator holds (R28, R274). -/
def Dev.dropDead (d : Dev) : Dev :=
  { d with path.reqs := d.path.reqs.filter fun q => !(q.dead && (q.stage = .ingress || q.stage = .store)) }

/-- A directory that failed in the last beat fails requests to shared media from now on (R242). -/
def Dev.failHome (d : Dev) : Dev := { d with home.failed := d.home.failed || d.home.failing, home.failing := false }

/-- Moves whose recall is done place their copy entries (R240, R361). -/
def Dev.placeMoves (d : Dev) : Dev := each (d.tiers.moves.filter fun m => !m.placed) d fun d m => d.placeMove m.id

/-- Step 1 and what is read or restarted with it: snapshots, COUNT.READs, counters hit by an error, watches programmed (R374, R375,
R421, R425). -/
def Dev.counterStep (d : Dev) : Dev := d.snapshots.answerCounts.restartCounters.loadWatches

/-- Step 2: the sheet committed for the beat, default reach ranges, extents that become valid or cease to be, and the cached entries that
changes drop (R46, R97, R346, R369, R492). -/
def Dev.commitStep (d : Dev) : Dev := d.sheetBoundary.applyRanges.extentsBoundary.applyChanges

/-- What other rules bring about at the next boundary: lost hosts, modules and links, viral, width resets, aborted commands, keys
retired, scans whose lane has left the active state (R28, R193, R238, R242, R262, R287, R291, R293, R330, R435, R440, R448). -/
def Dev.lossStep (d : Dev) : Dev :=
  let d := d.dropDead.failHome.viralBoundary.applyGone.applyLosses.wakeBoundary.windowBoundary
  d.startWidths.startResets.checkScan.abortsBoundary.freeRetired

/-- One boundary. The fabric clock stands still in P2, in P3 and before firmware runs (R447, R462). -/
def Dev.boundary (d : Dev) : Dev :=
  if !d.clocked then d
  else
    let d := d.nextBeat.counterStep.commitStep.lossStep
    let d := d.regulatorBoundary.newAllowances.pressureBoundary.c0Recheck
    let d := d.dramBoundary.faultBoundary.intBoundary
    d.jobsBoundary.placeMoves.sendMarkers.flow

def execBeatBoundary (s : State) : Host.Outcome State Fault Refusal := ok s.dev.boundary s

end Sys2Proof.Machine
end

