-- ==== Sys2Proof/Machine/Dispatch.lean ====
section
/-! DEFINITION. One arm per command: the meaning that each constructor of `Instr` has. -/

namespace Sys2Proof.Machine

open Sys2Proof

/-- The effect of a command on everything but the queue. -/
def exec (i : Instr) (s : State) : Host.Outcome State Fault Refusal :=
  match i with
  | .beatBoundary => Sys2Proof.Machine.execBeatBoundary s
  | .memrd l ldId hpa mv tag => Sys2Proof.Machine.execMemrd l ldId hpa mv tag s
  | .memwr l ldId hpa mv tag data mask poison => Sys2Proof.Machine.execMemwr l ldId hpa mv tag data mask poison s
  | .meminv l ldId hpa tag => Sys2Proof.Machine.execMeminv l ldId hpa tag s
  | .memclnevct l ldId hpa tag => Sys2Proof.Machine.execMemclnevct l ldId hpa tag s
  | .ingressEntryGrant l cls => Sys2Proof.Machine.execIngressEntryGrant l cls s
  | .regulatorAdmit => Sys2Proof.Machine.execRegulatorAdmit s
  | .agePromotion req => Sys2Proof.Machine.execAgePromotion req s
  | .tableWalkComplete walk errs => Sys2Proof.Machine.execTableWalkComplete walk errs s
  | .knotBlockFillDone block errs => Sys2Proof.Machine.execKnotBlockFillDone block errs s
  | .dramSlotFill ch sub slot eligible turnaround => Sys2Proof.Machine.execDramSlotFill ch sub slot eligible turnaround s
  | .dramReadDataReturn acc err => Sys2Proof.Machine.execDramReadDataReturn acc err s
  | .prismSubblockDecodeDone dec => Sys2Proof.Machine.execPrismSubblockDecodeDone dec s
  | .promotionDone entry => Sys2Proof.Machine.execPromotionDone entry s
  | .minorOverflow entry => Sys2Proof.Machine.execMinorOverflow entry s
  | .counterTreeFetchDone fetch errs => Sys2Proof.Machine.execCounterTreeFetchDone fetch errs s
  | .counterWritebackCount line => Sys2Proof.Machine.execCounterWritebackCount line s
  | .refreshWindowStart half => Sys2Proof.Machine.execRefreshWindowStart half s
  | .refreshWindowEnd ch => Sys2Proof.Machine.execRefreshWindowEnd ch s
  | .rowDisturbanceTrip ch rank sub bank group => Sys2Proof.Machine.execRowDisturbanceTrip ch rank sub bank group s
  | .rowCapExpiry ch rank sub bank => Sys2Proof.Machine.execRowCapExpiry ch rank sub bank s
  | .moduleThermalRead celsius => Sys2Proof.Machine.execModuleThermalRead celsius s
  | .driftCheck readings => Sys2Proof.Machine.execDriftCheck readings s
  | .patrolScrubRead => Sys2Proof.Machine.execPatrolScrubRead s
  | .scrubLate => Sys2Proof.Machine.execScrubLate s
  | .postPackageRepair ch rank sub row spare errs => Sys2Proof.Machine.execPostPackageRepair ch rank sub row spare errs s
  | .rankCopyStep ch => Sys2Proof.Machine.execRankCopyStep ch s
  | .rankCopyComplete ch => Sys2Proof.Machine.execRankCopyComplete ch s
  | .rankDrain ch rank => Sys2Proof.Machine.execRankDrain ch rank s
  | .birsp l ldId hpa keepsShared => Sys2Proof.Machine.execBirsp l ldId hpa keepsShared s
  | .biconflict l ldId hpa => Sys2Proof.Machine.execBiconflict l ldId hpa s
  | .biTimeout slot => Sys2Proof.Machine.execBiTimeout slot s
  | .sharerSweep slot => Sys2Proof.Machine.execSharerSweep slot s
  | .directoryError set way => Sys2Proof.Machine.execDirectoryError set way s
  | .changeDrained change => Sys2Proof.Machine.execChangeDrained change s
  | .moveCopyDrained move => Sys2Proof.Machine.execMoveCopyDrained move s
  | .extentMovePage reg => Sys2Proof.Machine.execExtentMovePage reg s
  | .extentMoveSwitch reg => Sys2Proof.Machine.execExtentMoveSwitch reg s
  | .zeroFillDone fill => Sys2Proof.Machine.execZeroFillDone fill s
  | .tierEpochEnd => Sys2Proof.Machine.execTierEpochEnd s
  | .demotionVerifyDone page image => Sys2Proof.Machine.execDemotionVerifyDone page image s
  | .readPromotion => Sys2Proof.Machine.execReadPromotion s
  | .addOfferTimer ld entry => Sys2Proof.Machine.execAddOfferTimer ld entry s
  | .capacityRecordInterval ld entry => Sys2Proof.Machine.execCapacityRecordInterval ld entry s
  | .firstLevelExpiry buf ld ext => Sys2Proof.Machine.execFirstLevelExpiry buf ld ext s
  | .overload cls group => Sys2Proof.Machine.execOverload cls group s
  | .streamSliceExpiry slot => Sys2Proof.Machine.execStreamSliceExpiry slot s
  | .streamDescriptorDone slot coded => Sys2Proof.Machine.execStreamDescriptorDone slot coded s
  | .rekeyPage reg => Sys2Proof.Machine.execRekeyPage reg s
  | .sanitizeRangeDone slot => Sys2Proof.Machine.execSanitizeRangeDone slot s
  | .copyBatchDone slot lines => Sys2Proof.Machine.execCopyBatchDone slot lines s
  | .fillBatchDone slot lines => Sys2Proof.Machine.execFillBatchDone slot lines s
  | .scrubBatchDone slot lines => Sys2Proof.Machine.execScrubBatchDone slot lines s
  | .poolAddFillDone slot => Sys2Proof.Machine.execPoolAddFillDone slot s
  | .poolReleaseTimeout slot => Sys2Proof.Machine.execPoolReleaseTimeout slot s
  | .moduleReplacePhaseEnd slot spd => Sys2Proof.Machine.execModuleReplacePhaseEnd slot spd s
  | .trainingWindowOpen ch => Sys2Proof.Machine.execTrainingWindowOpen ch s
  | .trainingWindowClose ch trained => Sys2Proof.Machine.execTrainingWindowClose ch trained s
  | .faultReactionStart source => Sys2Proof.Machine.execFaultReactionStart source s
  | .faultNPulseEnd => Sys2Proof.Machine.execFaultNPulseEnd s
  | .coreException core pc addr => Sys2Proof.Machine.execCoreException core pc addr s
  | .coreHeartbeatLoss core => Sys2Proof.Machine.execCoreHeartbeatLoss core s
  | .coreRestartDone core selfTest => Sys2Proof.Machine.execCoreRestartDone core selfTest s
  | .sramError part word bit correctable => Sys2Proof.Machine.execSramError part word bit correctable s
  | .counterStoreError where_ => Sys2Proof.Machine.execCounterStoreError where_ s
  | .counterInvalidClear ctr => Sys2Proof.Machine.execCounterInvalidClear ctr s
  | .interruptDoorbell source => Sys2Proof.Machine.execInterruptDoorbell source s
  | .interruptAcknowledge core source => Sys2Proof.Machine.execInterruptAcknowledge core source s
  | .coalesceTimeExpiry what => Sys2Proof.Machine.execCoalesceTimeExpiry what s
  | .recordDelivery => Sys2Proof.Machine.execRecordDelivery s
  | .dieMonitorRead celsius millivolt => Sys2Proof.Machine.execDieMonitorRead celsius millivolt s
  | .throttleEnd => Sys2Proof.Machine.execThrottleEnd s
  | .thermtrip => Sys2Proof.Machine.execThermtrip s
  | .vddCoreTrim mv answered => Sys2Proof.Machine.execVddCoreTrim mv answered s
  | .diagUnlockExpiry => Sys2Proof.Machine.execDiagUnlockExpiry s
  | .sheetExpired => Sys2Proof.Machine.execSheetExpired s
  | .cinchPrepareDone => Sys2Proof.Machine.execCinchPrepareDone s
  | .cinchBankWrite => Sys2Proof.Machine.execCinchBankWrite s
  | .chainCinchDecision => Sys2Proof.Machine.execChainCinchDecision s
  | .fwPairHandover selfCheck => Sys2Proof.Machine.execFwPairHandover selfCheck s
  | .ldResetEnd ld => Sys2Proof.Machine.execLdResetEnd ld s
  | .hostLinkUp l cxl flit256 mld width rate ndr drs bisnp => Sys2Proof.Machine.execHostLinkUp l cxl flit256 mld width rate ndr drs bisnp s
  | .hostLinkDown l => Sys2Proof.Machine.execHostLinkDown l s
  | .hostHotReset l => Sys2Proof.Machine.execHostHotReset l s
  | .hostLinkError l correctable bit => Sys2Proof.Machine.execHostLinkError l correctable bit s
  | .ideIntegrityFailure l cxlIo => Sys2Proof.Machine.execIdeIntegrityFailure l cxlIo s
  | .s2mCreditReturn l ndr drs bisnp => Sys2Proof.Machine.execS2mCreditReturn l ndr drs bisnp s
  | .hostWidthResetDone l => Sys2Proof.Machine.execHostWidthResetDone l s
  | .functionLevelReset ld => Sys2Proof.Machine.execFunctionLevelReset ld s
  | .hdmDecoderCommit ld n dec => Sys2Proof.Machine.execHdmDecoderCommit ld n dec s
  | .biEnableWrite l enable => Sys2Proof.Machine.execBiEnableWrite l enable s
  | .msixVectorUnmask ld vec => Sys2Proof.Machine.execMsixVectorUnmask ld vec s
  | .doeCdatRead ld entry => Sys2Proof.Machine.execDoeCdatRead ld entry s
  | .ideKmKeyProgramming l cxlIo containment key => Sys2Proof.Machine.execIdeKmKeyProgramming l cxlIo containment key s
  | .laneMarginingCommand lane start => Sys2Proof.Machine.execLaneMarginingCommand lane start s
  | .mailboxDoorbell ld box => Sys2Proof.Machine.execMailboxDoorbell ld box s
  | .beatLoRead ld box => Sys2Proof.Machine.execBeatLoRead ld box s
  | .pendingLoRead ld box => Sys2Proof.Machine.execPendingLoRead ld box s
  | .snapDoorbell ld => Sys2Proof.Machine.execSnapDoorbell ld s
  | .snapReadyClear ld => Sys2Proof.Machine.execSnapReadyClear ld s
  | .watchOvfClear ld bits => Sys2Proof.Machine.execWatchOvfClear ld bits s
  | .registerWrite ld reg => Sys2Proof.Machine.execRegisterWrite ld reg s
  | .unsupportedOpcode iss opcode inp => Sys2Proof.Machine.execUnsupportedOpcode iss opcode inp s
  | .identify iss inp => Sys2Proof.Machine.execIdentify iss inp s
  | .backgroundOperationStatus iss inp => Sys2Proof.Machine.execBackgroundOperationStatus iss inp s
  | .getResponseMessageLimit iss inp => Sys2Proof.Machine.execGetResponseMessageLimit iss inp s
  | .setResponseMessageLimit iss inp => Sys2Proof.Machine.execSetResponseMessageLimit iss inp s
  | .requestAbortBackgroundOperation iss inp => Sys2Proof.Machine.execRequestAbortBackgroundOperation iss inp s
  | .getEventRecords iss inp => Sys2Proof.Machine.execGetEventRecords iss inp s
  | .clearEventRecords iss inp => Sys2Proof.Machine.execClearEventRecords iss inp s
  | .getEventInterruptPolicy iss inp => Sys2Proof.Machine.execGetEventInterruptPolicy iss inp s
  | .setEventInterruptPolicy iss inp => Sys2Proof.Machine.execSetEventInterruptPolicy iss inp s
  | .getMctpEventInterruptPolicy iss inp => Sys2Proof.Machine.execGetMctpEventInterruptPolicy iss inp s
  | .setMctpEventInterruptPolicy iss inp => Sys2Proof.Machine.execSetMctpEventInterruptPolicy iss inp s
  | .eventNotification iss inp => Sys2Proof.Machine.execEventNotification iss inp s
  | .getFwInfo iss inp => Sys2Proof.Machine.execGetFwInfo iss inp s
  | .transferFw iss inp => Sys2Proof.Machine.execTransferFw iss inp s
  | .activateFw iss inp => Sys2Proof.Machine.execActivateFw iss inp s
  | .getTimestamp iss inp => Sys2Proof.Machine.execGetTimestamp iss inp s
  | .setTimestamp iss inp => Sys2Proof.Machine.execSetTimestamp iss inp s
  | .getSupportedLogs iss inp => Sys2Proof.Machine.execGetSupportedLogs iss inp s
  | .getLog iss inp => Sys2Proof.Machine.execGetLog iss inp s
  | .getSupportedFeatures iss inp => Sys2Proof.Machine.execGetSupportedFeatures iss inp s
  | .getFeature iss inp => Sys2Proof.Machine.execGetFeature iss inp s
  | .setFeature iss inp => Sys2Proof.Machine.execSetFeature iss inp s
  | .identifyMemoryDevice iss inp => Sys2Proof.Machine.execIdentifyMemoryDevice iss inp s
  | .getHealthInfo iss inp => Sys2Proof.Machine.execGetHealthInfo iss inp s
  | .getAlertConfiguration iss inp => Sys2Proof.Machine.execGetAlertConfiguration iss inp s
  | .setAlertConfiguration iss inp => Sys2Proof.Machine.execSetAlertConfiguration iss inp s
  | .getPoisonList iss inp => Sys2Proof.Machine.execGetPoisonList iss inp s
  | .injectPoison iss inp => Sys2Proof.Machine.execInjectPoison iss inp s
  | .clearPoison iss inp => Sys2Proof.Machine.execClearPoison iss inp s
  | .sanitizeCommand iss inp => Sys2Proof.Machine.execSanitizeCommand iss inp s
  | .getDynamicCapacityConfiguration iss inp => Sys2Proof.Machine.execGetDynamicCapacityConfiguration iss inp s
  | .getDynamicCapacityExtentList iss inp => Sys2Proof.Machine.execGetDynamicCapacityExtentList iss inp s
  | .addDynamicCapacityResponse iss inp => Sys2Proof.Machine.execAddDynamicCapacityResponse iss inp s
  | .releaseDynamicCapacity iss inp => Sys2Proof.Machine.execReleaseDynamicCapacity iss inp s
  | .tunnelManagementCommand iss inp => Sys2Proof.Machine.execTunnelManagementCommand iss inp s
  | .getLdInfo iss inp => Sys2Proof.Machine.execGetLdInfo iss inp s
  | .getLdAllocations iss inp => Sys2Proof.Machine.execGetLdAllocations iss inp s
  | .setLdAllocations iss inp => Sys2Proof.Machine.execSetLdAllocations iss inp s
  | .getQosControl iss inp => Sys2Proof.Machine.execGetQosControl iss inp s
  | .setQosControl iss inp => Sys2Proof.Machine.execSetQosControl iss inp s
  | .getQosStatus iss inp => Sys2Proof.Machine.execGetQosStatus iss inp s
  | .getQosAllocatedBw iss inp => Sys2Proof.Machine.execGetQosAllocatedBw iss inp s
  | .setQosAllocatedBw iss inp => Sys2Proof.Machine.execSetQosAllocatedBw iss inp s
  | .getQosBwLimit iss inp => Sys2Proof.Machine.execGetQosBwLimit iss inp s
  | .setQosBwLimit iss inp => Sys2Proof.Machine.execSetQosBwLimit iss inp s
  | .sheetOpen iss inp => Sys2Proof.Machine.execSheetOpen iss inp s
  | .sheetSet iss inp => Sys2Proof.Machine.execSheetSet iss inp s
  | .sheetRead iss inp => Sys2Proof.Machine.execSheetRead iss inp s
  | .sheetCheck iss inp => Sys2Proof.Machine.execSheetCheck iss inp s
  | .sheetCinch iss inp => Sys2Proof.Machine.execSheetCinch iss inp s
  | .sheetSlip iss inp => Sys2Proof.Machine.execSheetSlip iss inp s
  | .regionStage iss inp => Sys2Proof.Machine.execRegionStage iss inp s
  | .regionRemove iss inp => Sys2Proof.Machine.execRegionRemove iss inp s
  | .regionRead iss inp => Sys2Proof.Machine.execRegionRead iss inp s
  | .poolAdd iss inp => Sys2Proof.Machine.execPoolAdd iss inp s
  | .poolRelease iss inp => Sys2Proof.Machine.execPoolRelease iss inp s
  | .jobStatus iss inp => Sys2Proof.Machine.execJobStatus iss inp s
  | .jobCancel iss inp => Sys2Proof.Machine.execJobCancel iss inp s
  | .sanitize iss inp => Sys2Proof.Machine.execSanitize iss inp s
  | .migrate iss inp => Sys2Proof.Machine.execMigrate iss inp s
  | .copy iss inp => Sys2Proof.Machine.execCopy iss inp s
  | .fill iss inp => Sys2Proof.Machine.execFill iss inp s
  | .tier iss inp => Sys2Proof.Machine.execTier iss inp s
  | .scrub iss inp => Sys2Proof.Machine.execScrub iss inp s
  | .countRead iss inp => Sys2Proof.Machine.execCountRead iss inp s
  | .countWatch iss inp => Sys2Proof.Machine.execCountWatch iss inp s
  | .faultRead iss inp => Sys2Proof.Machine.execFaultRead iss inp s
  | .faultPin iss inp => Sys2Proof.Machine.execFaultPin iss inp s
  | .tetherPort iss inp => Sys2Proof.Machine.execTetherPort iss inp s
  | .tetherChain iss inp => Sys2Proof.Machine.execTetherChain iss inp s
  | .sealKeyLoad iss inp => Sys2Proof.Machine.execSealKeyLoad iss inp s
  | .sealKeyGen iss inp => Sys2Proof.Machine.execSealKeyGen iss inp s
  | .sealKeyRetire iss inp => Sys2Proof.Machine.execSealKeyRetire iss inp s
  | .sealKeyStatus iss inp => Sys2Proof.Machine.execSealKeyStatus iss inp s
  | .sealReknot iss inp => Sys2Proof.Machine.execSealReknot iss inp s
  | .sealQuarantine iss inp => Sys2Proof.Machine.execSealQuarantine iss inp s
  | .rekey iss inp => Sys2Proof.Machine.execRekey iss inp s
  | .hitchStatus iss inp => Sys2Proof.Machine.execHitchStatus iss inp s
  | .hitchSet iss inp => Sys2Proof.Machine.execHitchSet iss inp s
  | .moduleReplace iss inp => Sys2Proof.Machine.execModuleReplace iss inp s
  | .powerEnter iss inp => Sys2Proof.Machine.execPowerEnter iss inp s
  | .powerStatus iss inp => Sys2Proof.Machine.execPowerStatus iss inp s
  | .prismStream iss inp => Sys2Proof.Machine.execPrismStream iss inp s
  | .diagUnlock iss inp => Sys2Proof.Machine.execDiagUnlock iss inp s
  | .diagLock iss inp => Sys2Proof.Machine.execDiagLock iss inp s
  | .diagPoke iss inp => Sys2Proof.Machine.execDiagPoke iss inp s
  | .tableInval iss inp => Sys2Proof.Machine.execTableInval iss inp s
  | .glintStart iss inp => Sys2Proof.Machine.execGlintStart iss inp s
  | .glintResult iss inp => Sys2Proof.Machine.execGlintResult iss inp s
  | .glintPointDone disagree => Sys2Proof.Machine.execGlintPointDone disagree s
  | .glintPeriodicScan lane eyes => Sys2Proof.Machine.execGlintPeriodicScan lane eyes s
  | .laneLossOfLock lane => Sys2Proof.Machine.execLaneLossOfLock lane s
  | .laneFecSymbolCount lane => Sys2Proof.Machine.execLaneFecSymbolCount lane s
  | .tetherReceiverDetected p lanes => Sys2Proof.Machine.execTetherReceiverDetected p lanes s
  | .tts1 p lane set => Sys2Proof.Machine.execTts1 p lane set s
  | .tts2 p lane set => Sys2Proof.Machine.execTts2 p lane set s
  | .tetherSpeedLock p => Sys2Proof.Machine.execTetherSpeedLock p s
  | .equalisationRequest p coef up done => Sys2Proof.Machine.execEqualisationRequest p coef up done s
  | .tetherTrainStateTimeout p => Sys2Proof.Machine.execTetherTrainStateTimeout p s
  | .tetherWidthResetDone p => Sys2Proof.Machine.execTetherWidthResetDone p s
  | .skipBlock p lane units => Sys2Proof.Machine.execSkipBlock p lane units s
  | .linkup p m => Sys2Proof.Machine.execLinkup p m s
  | .linkack p => Sys2Proof.Machine.execLinkack p s
  | .ping p index t1 t2 t3 => Sys2Proof.Machine.execPing p index t1 t2 t3 s
  | .pong p index t1 t2 t3 t4 => Sys2Proof.Machine.execPong p index t1 t2 t3 t4 s
  | .pingResend p index t1 => Sys2Proof.Machine.execPingResend p index t1 s
  | .retrain p => Sys2Proof.Machine.execRetrain p s
  | .handshakeTimeout p => Sys2Proof.Machine.execHandshakeTimeout p s
  | .requestFlit p flit => Sys2Proof.Machine.execRequestFlit p flit s
  | .responseFlit p flit => Sys2Proof.Machine.execResponseFlit p flit s
  | .idleFlit p hdr => Sys2Proof.Machine.execIdleFlit p hdr s
  | .badFlit p => Sys2Proof.Machine.execBadFlit p s
  | .nak p ack => Sys2Proof.Machine.execNak p ack s
  | .tetherReplayTimerExpiry p => Sys2Proof.Machine.execTetherReplayTimerExpiry p s
  | .tetherReceiveSilence p => Sys2Proof.Machine.execTetherReceiveSilence p s
  | .beatMarker p m offset => Sys2Proof.Machine.execBeatMarker p m offset s
  | .beatHoldover => Sys2Proof.Machine.execBeatHoldover s
  | .beatSourceLoss => Sys2Proof.Machine.execBeatSourceLoss s
  | .noRoot => Sys2Proof.Machine.execNoRoot s
  | .tetherDiscoveryWalk answers => Sys2Proof.Machine.execTetherDiscoveryWalk answers s
  | .rd p => Sys2Proof.Machine.execRd p s
  | .wr p => Sys2Proof.Machine.execWr p s
  | .wrp p => Sys2Proof.Machine.execWrp p s
  | .inv p => Sys2Proof.Machine.execInv p s
  | .evct p => Sys2Proof.Machine.execEvct p s
  | .snp p => Sys2Proof.Machine.execSnp p s
  | .rsp p => Sys2Proof.Machine.execRsp p s
  | .srsp p => Sys2Proof.Machine.execSrsp p s
  | .swb p => Sys2Proof.Machine.execSwb p s
  | .mgmt p => Sys2Proof.Machine.execMgmt p s
  | .mrsp p => Sys2Proof.Machine.execMrsp p s
  | .mgmtResponseTimeout tag => Sys2Proof.Machine.execMgmtResponseTimeout tag s
  | .dozeTimeout p => Sys2Proof.Machine.execDozeTimeout p s
  | .powerEntryStepDone => Sys2Proof.Machine.execPowerEntryStepDone s
  | .wakeEvent cause => Sys2Proof.Machine.execWakeEvent cause s
  | .wakeStepReady untrained => Sys2Proof.Machine.execWakeStepReady untrained s
  | .wakeStepTimeout stuck => Sys2Proof.Machine.execWakeStepTimeout stuck s
  | .brownOut => Sys2Proof.Machine.execBrownOut s
  | .vddqDLoss => Sys2Proof.Machine.execVddqDLoss s
  | .vauxChange good => Sys2Proof.Machine.execVauxChange good s
  | .rstNAssert => Sys2Proof.Machine.execRstNAssert s
  | .coldBoot straps => Sys2Proof.Machine.execColdBoot straps s
  | .firmwareBoot spds untrained => Sys2Proof.Machine.execFirmwareBoot spds untrained s
  | .perstNAssert hp => Sys2Proof.Machine.execPerstNAssert hp s
  | .perstNDeassert hp x8 => Sys2Proof.Machine.execPerstNDeassert hp x8 s
  | .corePgChange good => Sys2Proof.Machine.execCorePgChange good s
  | .railFault rail => Sys2Proof.Machine.execRailFault rail s
  | .pinSourceEvent pin high => Sys2Proof.Machine.execPinSourceEvent pin high s
  | .i3cPrivateWrite ld opcode inp => Sys2Proof.Machine.execI3cPrivateWrite ld opcode inp s
  | .vinPgAssert => Sys2Proof.Machine.execVinPgAssert s
  | .prechargeDone => Sys2Proof.Machine.execPrechargeDone s
  | .prechargeTimeout vbulk vmon => Sys2Proof.Machine.execPrechargeTimeout vbulk vmon s
  | .slotOutputGood slot => Sys2Proof.Machine.execSlotOutputGood slot s
  | .slotRampTimeout slot => Sys2Proof.Machine.execSlotRampTimeout slot s
  | .pmicPowerGood slot => Sys2Proof.Machine.execPmicPowerGood slot s
  | .pmicTimeout slot => Sys2Proof.Machine.execPmicTimeout slot s
  | .hitchLimitHeld ch sense vout => Sys2Proof.Machine.execHitchLimitHeld ch sense vout s
  | .hitchFastTrip ch sense vout => Sys2Proof.Machine.execHitchFastTrip ch sense vout s
  | .hitchRetryTimer ch => Sys2Proof.Machine.execHitchRetryTimer ch s
  | .hitchOn60s ch => Sys2Proof.Machine.execHitchOn60s ch s
  | .moduleRemoved slot => Sys2Proof.Machine.execModuleRemoved slot s
  | .moduleInserted slot spd => Sys2Proof.Machine.execModuleInserted slot spd s
  | .spdReadRetry slot spd => Sys2Proof.Machine.execSpdReadRetry slot spd s
  | .moduleLost slot cause => Sys2Proof.Machine.execModuleLost slot cause s
  | .fetDamaged ch mv => Sys2Proof.Machine.execFetDamaged ch mv s
  | .spdmSecureSession who session established => Sys2Proof.Machine.execSpdmSecureSession who session established s
  | .fmApiResetCommand lds => Sys2Proof.Machine.execFmApiResetCommand lds s
  | .hostLinkPowerStateChange l dest => Sys2Proof.Machine.execHostLinkPowerStateChange l dest s
  | .partnerLeavesElectricalIdle p => Sys2Proof.Machine.execPartnerLeavesElectricalIdle p s
  | .taLockWindowExpiry p => Sys2Proof.Machine.execTaLockWindowExpiry p s
  | .equalisationTimeLimit p mine => Sys2Proof.Machine.execEqualisationTimeLimit p mine s
  | .thDeskewDone p => Sys2Proof.Machine.execThDeskewDone p s
  | .vinPreOff => Sys2Proof.Machine.execVinPreOff s
  | .coreEnRelease => Sys2Proof.Machine.execCoreEnRelease s

end Sys2Proof.Machine
end

