-- ==== Sys2Proof/WellFormed.lean ====
section
/-! DEFINITION. What a command has to be for the outside world to be able to send it: the operands that Lean's types do not
bound by themselves. A command that fails a check spells something no host, board, partner or unit of the LX-40 can do. -/

namespace Sys2Proof

/-- Payload limit of a mailbox and of the management controller's endpoint, in bytes (R329, R332). -/
def payloadLimit : Nat := 32768

/-- An input payload fits a mailbox (R329, R332). -/
def wfPayload (inp : List Byte) : Bool := inp.length ≤ payloadLimit

/-- A module as its SPD can give it: sizes and times that are not 0 (R197). -/
def Spd.wf (m : Spd) : Bool := m.ranks ≠ 0 && m.gib ≠ 0 && m.dies ≠ 0 && m.width ≠ 0

/-- A register write of 1, 2, 4 or 8 bytes that carries no more bits than that (R15, R270). -/
def Reg.wf (r : Reg) : Bool :=
  (r.size = 1 || r.size = 2 || r.size = 4 || r.size = 8) && r.value.toNat < 2 ^ (8 * r.size)

/-- Payload slots that a message takes at the least (R301): an RSP that answers a read takes 4 more. -/
def Msg.slots (m : Msg) : Nat :=
  match m.op with
  | .rd | .inv | .evct | .snp | .rsp | .srsp => 1
  | .wr | .swb => 5
  | .wrp => 6
  | .mgmt | .mrsp => 2 + m.body.length / 16

/-- A message fits its slots: the body of MGMT and MRSP with its SubOp takes 1 to 13 slots (R301). -/
def Msg.wf (m : Msg) : Bool :=
  match m.op with
  | .mgmt | .mrsp => m.body.length < 208
  | _ => m.body.isEmpty

/-- A flit that passes its CRC: its messages fill at most 14 slots, and a marker stands exactly where Mark says so (R298, R299). -/
def Flit.wf (f : Flit) : Bool :=
  f.msgs.all Msg.wf && f.marker.isSome = f.hdr.mark && (f.msgs.map Msg.slots).foldl (· + ·) 0 ≤ 14

/-- A width that a lane group can train at (R248, R280). -/
def wfWidth (n : Nat) : Bool := [1, 2, 4, 8, 16].contains n

/-- An HDM decoder's ways and granularity codes (R252). -/
def Decoder.wf (k : Decoder) : Bool := k.iw ≤ 4 && 8 ≤ k.ig && k.ig ≤ 14

/-- The checks of a command's operands. -/
def Instr.wf : Instr → Bool
  | .dramSlotFill _ _ slot _ _ => slot < 256
  | .rowDisturbanceTrip _ _ _ _ group => group < 32768
  | .moduleThermalRead celsius => celsius.length = 16
  | .driftCheck readings => readings.length ≤ 32
  | .directoryError set _ => set < 131072
  | .firstLevelExpiry _ _ ext => ext < 2 ^ 23
  | .demotionVerifyDone _ image => image.length ≤ 4096
  | .streamDescriptorDone slot coded => slot < 256 && coded.length ≤ 2 ^ 24
  | .streamSliceExpiry slot | .sanitizeRangeDone slot | .copyBatchDone slot _ | .fillBatchDone slot _ | .scrubBatchDone slot _
  | .poolAddFillDone slot | .poolReleaseTimeout slot => slot < 256
  | .moduleReplacePhaseEnd slot spd => slot < 256 && (spd.map Spd.wf).getD true
  | .faultReactionStart source => source.toNat ≤ 0xA00
  | .interruptAcknowledge _ source => source < 1048
  | .coalesceTimeExpiry (.source n) => n < 1048
  | .counterInvalidClear ctr => ctr < 17408
  | .dieMonitorRead celsius millivolt => celsius.length = 24 && millivolt.length = 24
  | .hostLinkUp _ _ _ _ width rate _ _ _ => wfWidth width && 1 ≤ rate.toNat && rate.toNat ≤ 6
  | .hdmDecoderCommit _ _ dec => dec.wf
  | .registerWrite _ reg => reg.wf
  | .glintPeriodicScan _ eyes => eyes.length = 1 || eyes.length = 3
  | .requestFlit _ flit | .responseFlit _ flit => flit.wf
  | .firmwareBoot spds _ => spds.length = 16 && spds.all fun x => (x.map Spd.wf).getD true
  | .i3cPrivateWrite _ _ inp => wfPayload inp
  | .identify _ inp | .backgroundOperationStatus _ inp | .getResponseMessageLimit _ inp | .setResponseMessageLimit _ inp
  | .requestAbortBackgroundOperation _ inp | .getEventRecords _ inp | .clearEventRecords _ inp | .getEventInterruptPolicy _ inp
  | .setEventInterruptPolicy _ inp | .getMctpEventInterruptPolicy _ inp | .setMctpEventInterruptPolicy _ inp
  | .eventNotification _ inp | .getFwInfo _ inp | .transferFw _ inp | .activateFw _ inp | .getTimestamp _ inp
  | .setTimestamp _ inp | .getSupportedLogs _ inp | .getLog _ inp | .getSupportedFeatures _ inp | .getFeature _ inp
  | .setFeature _ inp | .identifyMemoryDevice _ inp | .getHealthInfo _ inp | .getAlertConfiguration _ inp
  | .setAlertConfiguration _ inp | .getPoisonList _ inp | .injectPoison _ inp | .clearPoison _ inp | .sanitizeCommand _ inp
  | .getDynamicCapacityConfiguration _ inp | .getDynamicCapacityExtentList _ inp | .addDynamicCapacityResponse _ inp
  | .releaseDynamicCapacity _ inp | .tunnelManagementCommand _ inp | .getLdInfo _ inp | .getLdAllocations _ inp
  | .setLdAllocations _ inp | .getQosControl _ inp | .setQosControl _ inp | .getQosStatus _ inp | .getQosAllocatedBw _ inp
  | .setQosAllocatedBw _ inp | .getQosBwLimit _ inp | .setQosBwLimit _ inp | .sheetOpen _ inp | .sheetSet _ inp
  | .sheetRead _ inp | .sheetCheck _ inp | .sheetCinch _ inp | .sheetSlip _ inp | .regionStage _ inp | .regionRemove _ inp
  | .regionRead _ inp | .poolAdd _ inp | .poolRelease _ inp | .jobStatus _ inp | .jobCancel _ inp | .sanitize _ inp
  | .migrate _ inp | .copy _ inp | .fill _ inp | .tier _ inp | .scrub _ inp | .countRead _ inp | .countWatch _ inp
  | .faultRead _ inp | .faultPin _ inp | .tetherPort _ inp | .tetherChain _ inp | .sealKeyLoad _ inp | .sealKeyGen _ inp
  | .sealKeyRetire _ inp | .sealKeyStatus _ inp | .sealReknot _ inp | .sealQuarantine _ inp | .rekey _ inp | .hitchStatus _ inp
  | .hitchSet _ inp | .moduleReplace _ inp | .powerEnter _ inp | .powerStatus _ inp | .prismStream _ inp | .diagUnlock _ inp
  | .diagLock _ inp | .diagPoke _ inp | .tableInval _ inp | .glintStart _ inp | .glintResult _ inp => wfPayload inp
  | .unsupportedOpcode _ _ inp => wfPayload inp
  | .beatBoundary | .memrd _ _ _ _ _ | .memwr _ _ _ _ _ _ _ _ | .meminv _ _ _ _ | .memclnevct _ _ _ _
  | .ingressEntryGrant _ _ | .regulatorAdmit | .agePromotion _ | .tableWalkComplete _ _ | .knotBlockFillDone _ _
  | .dramReadDataReturn _ _ | .prismSubblockDecodeDone _ | .promotionDone _ | .minorOverflow _
  | .counterTreeFetchDone _ _ | .counterWritebackCount _ | .refreshWindowStart _ | .refreshWindowEnd _
  | .rowCapExpiry _ _ _ _ | .patrolScrubRead | .scrubLate | .postPackageRepair _ _ _ _ _ _ | .rankCopyStep _
  | .rankCopyComplete _ | .rankDrain _ _ | .birsp _ _ _ _ | .biconflict _ _ _ | .biTimeout _ | .sharerSweep _
  | .changeDrained _ | .moveCopyDrained _ | .extentMovePage _ | .extentMoveSwitch _ | .zeroFillDone _ | .tierEpochEnd
  | .readPromotion | .addOfferTimer _ _ | .capacityRecordInterval _ _ | .overload _ _ | .rekeyPage _
  | .trainingWindowOpen _ | .trainingWindowClose _ _ | .faultNPulseEnd | .coreException _ _ _ | .coreHeartbeatLoss _
  | .coreRestartDone _ _ | .sramError _ _ _ _ | .counterStoreError _ | .interruptDoorbell _ | .recordDelivery
  | .throttleEnd | .thermtrip | .vddCoreTrim _ _ | .diagUnlockExpiry | .sheetExpired | .cinchPrepareDone
  | .cinchBankWrite | .chainCinchDecision | .fwPairHandover _ | .ldResetEnd _ | .hostLinkDown _ | .hostHotReset _
  | .hostLinkError _ _ _ | .ideIntegrityFailure _ _ | .s2mCreditReturn _ _ _ _ | .hostWidthResetDone _
  | .functionLevelReset _ | .biEnableWrite _ _ | .msixVectorUnmask _ _ | .doeCdatRead _ _ | .ideKmKeyProgramming _ _ _ _
  | .laneMarginingCommand _ _ | .mailboxDoorbell _ _ | .beatLoRead _ _ | .pendingLoRead _ _ | .snapDoorbell _
  | .snapReadyClear _ | .watchOvfClear _ _ | .glintPointDone _ | .laneLossOfLock _ | .laneFecSymbolCount _
  | .tetherReceiverDetected _ _ | .tts1 _ _ _ | .tts2 _ _ _ | .tetherSpeedLock _ | .equalisationRequest _ _ _ _
  | .tetherTrainStateTimeout _ | .tetherWidthResetDone _ | .skipBlock _ _ _ | .linkup _ _ | .linkack _ | .ping _ _ _ _ _
  | .pong _ _ _ _ _ _ | .pingResend _ _ _ | .retrain _ | .handshakeTimeout _ | .idleFlit _ _ | .badFlit _ | .nak _ _
  | .tetherReplayTimerExpiry _ | .tetherReceiveSilence _ | .beatMarker _ _ _ | .beatHoldover | .beatSourceLoss | .noRoot
  | .tetherDiscoveryWalk _ | .rd _ | .wr _ | .wrp _ | .inv _ | .evct _ | .snp _ | .rsp _ | .srsp _ | .swb _ | .mgmt _
  | .mrsp _ | .mgmtResponseTimeout _ | .dozeTimeout _ | .powerEntryStepDone | .wakeEvent _ | .wakeStepReady _
  | .wakeStepTimeout _ | .brownOut | .vddqDLoss | .vauxChange _ | .rstNAssert | .coldBoot _ | .perstNAssert _
  | .perstNDeassert _ _ | .corePgChange _ | .railFault _ | .pinSourceEvent _ _ | .vinPgAssert | .prechargeDone
  | .prechargeTimeout _ _ | .slotOutputGood _ | .slotRampTimeout _ | .pmicPowerGood _ | .pmicTimeout _
  | .hitchLimitHeld _ _ _ | .hitchFastTrip _ _ _ | .hitchRetryTimer _ | .hitchOn60s _ | .moduleRemoved _
  | .moduleInserted _ _ | .spdReadRetry _ _ | .moduleLost _ _ | .fetDamaged _ _ | .spdmSecureSession _ _ _
  | .fmApiResetCommand _ | .hostLinkPowerStateChange _ _ | .partnerLeavesElectricalIdle _ | .taLockWindowExpiry _
  | .equalisationTimeLimit _ _ | .thDeskewDone _ | .vinPreOff | .coreEnRelease | .coalesceTimeExpiry (.vector _ _) => true

end Sys2Proof
end

