-- ==== Sys2Proof/Safety.lean ====
section
/-! DEFINITION. What counts as a safe step and a safe run: every command is one that the outside world can send, and the block
answers it with a next state. -/

namespace Sys2Proof

open Sys2Proof.Machine

/-- The step goes on: neither a fault nor a refusal. -/
def Safe (s : State) : Prop := ∃ t, step s = .next t

/-- Every waiting command is well-formed. -/
def QueueWf (s : State) : Prop := ∀ c ∈ s.pending, c.wf = true

/-- The DRAM contents are in the one canonical form (log 4). -/
def MemCanonical (s : State) : Prop := Memory.wf s.dev.line.mem = true

/-- The command completes: it answers a next state, whose queue is as it was and whose device is as `P` says. -/
def Completes (c : Instr) (s : State) (P : Dev → Prop) : Prop := ∃ t, exec c s = .next t ∧ t.pending = s.pending ∧ P t.dev

/-- The command completes: its own effect leaves a device that is as `P` says, and then goes on what that has let go on (`Dev.flow`: what
waited for room, for an answer or for a write of the same line; R31, R233, R236). The queue is as it was. -/
def Settles (c : Instr) (s : State) (P : Dev → Prop) : Prop := ∃ e, exec c s = .next { s with dev := e.flow } ∧ P e

/-- The frame of what counts, signals or records: d' is d with events counted, signalled or recorded: nothing but the event part, MSI-X vectors and the output differ, and what was
sent out before stays. -/
def Signals (d d' : Dev) : Prop :=
  ∃ ev lds out, d' = { d with ev := ev, host.lds := lds, out := d.out ++ out } ∧
    ∀ n, ∃ v, (Tab.val lds n {} : Ld) = { d.ld n with vecs := v }

/-- The mailbox answer of a Jalend command stands among what the device has sent out: its return code, and its output with the status in its
first two bytes (R329, R335). -/
def Answered (d : Dev) (iss : Issuer) (st : Status) (body : List Byte) (noWork : Bool := false) : Prop :=
  Out.mailbox (issuerBox iss) st.ret (statusWord st noWork ++ body) ∈ d.out

/-- The answer of a standard CXL command stands among what the device has sent out (R331). -/
def AnsweredStd (d : Dev) (iss : Issuer) (ret : Ret) (out : List Byte) : Prop :=
  Out.mailbox (issuerBox iss) ret out ∈ d.out

/-- A Jalend command has answered, and d' is d but for what the answer brings: the registers of its interface, events and output. -/
def Replies (d d' : Dev) (iss : Issuer) (st : Status) (body : List Byte) (noWork : Bool := false) : Prop :=
  Answered d' iss st body noWork ∧ ∃ b, Signals { d with host.boxes := d.host.boxes.put (issuerBox iss) b } d'

/-- The same of a standard CXL command. -/
def RepliesStd (d d' : Dev) (iss : Issuer) (ret : Ret) (out : List Byte) : Prop :=
  AnsweredStd d' iss ret out ∧ ∃ b, Signals { d with host.boxes := d.host.boxes.put (issuerBox iss) b } d'

/-- The device that a mailbox command acts on: its doorbell has been rung (R408). Firmware takes the command while it runs and is awake
(R447, R465). -/
def Takes (s : State) : Prop := s.dev.boot = .running ∧ s.dev.awake = true

/-- A service engine's job has issued its next request: it stands last in the service queue, and the job knows that one is on its way (R40). -/
def Issued (d d' : Dev) (slot : Nat) (j : Job) (q : Req) : Prop :=
  d'.path.reqs = d.path.reqs ++
    [{ q with id := d.fresh.1, src := .job slot, stage := .service, owner := j.owner.getD 32, atBnd := d.clk.bnd, atClk := d.clk.clk }] ∧
  d'.job slot = some { j with sent := true, buf := none } ∧ (∀ n ≠ slot, d'.job n = d.job n) ∧ d'.line = d.line ∧ d'.conf = d.conf

/-- The commands of the mailboxes by their opcodes: the standard CXL ones (R251, R333) and the Jalend ones (R334, and the rule of each). -/
def commandRows : List (Nat × (Issuer → List Byte → Instr)) :=
  [(0x0001, .identify), (0x0002, .backgroundOperationStatus), (0x0003, .getResponseMessageLimit), (0x0004, .setResponseMessageLimit),
   (0x0005, .requestAbortBackgroundOperation), (0x0100, .getEventRecords), (0x0101, .clearEventRecords), (0x0102, .getEventInterruptPolicy),
   (0x0103, .setEventInterruptPolicy), (0x0104, .getMctpEventInterruptPolicy), (0x0105, .setMctpEventInterruptPolicy),
   (0x0106, .eventNotification), (0x0200, .getFwInfo), (0x0201, .transferFw), (0x0202, .activateFw), (0x0300, .getTimestamp),
   (0x0301, .setTimestamp), (0x0400, .getSupportedLogs), (0x0401, .getLog), (0x0500, .getSupportedFeatures), (0x0501, .getFeature),
   (0x0502, .setFeature), (0x4000, .identifyMemoryDevice), (0x4200, .getHealthInfo), (0x4201, .getAlertConfiguration),
   (0x4202, .setAlertConfiguration), (0x4300, .getPoisonList), (0x4301, .injectPoison), (0x4302, .clearPoison), (0x4400, .sanitizeCommand),
   (0x4800, .getDynamicCapacityConfiguration), (0x4801, .getDynamicCapacityExtentList), (0x4802, .addDynamicCapacityResponse),
   (0x4803, .releaseDynamicCapacity), (0x5300, .tunnelManagementCommand), (0x5400, .getLdInfo), (0x5401, .getLdAllocations),
   (0x5402, .setLdAllocations), (0x5403, .getQosControl), (0x5404, .setQosControl), (0x5405, .getQosStatus), (0x5406, .getQosAllocatedBw),
   (0x5407, .setQosAllocatedBw), (0x5408, .getQosBwLimit)] ++
  [(0x5409, .setQosBwLimit), (0xC000, .sheetOpen), (0xC001, .sheetSet), (0xC002, .sheetRead), (0xC003, .sheetCheck), (0xC004, .sheetCinch),
   (0xC005, .sheetSlip), (0xC100, .regionStage), (0xC101, .regionRemove), (0xC102, .regionRead), (0xC110, .poolAdd), (0xC111, .poolRelease),
   (0xC200, .jobStatus), (0xC201, .jobCancel), (0xC210, .sanitize), (0xC211, .migrate), (0xC212, .copy), (0xC213, .fill), (0xC214, .tier),
   (0xC215, .scrub), (0xC300, .countRead), (0xC301, .countWatch), (0xC400, .faultRead), (0xC401, .faultPin), (0xC500, .tetherPort),
   (0xC501, .tetherChain), (0xC600, .sealKeyLoad), (0xC601, .sealKeyGen), (0xC602, .sealKeyRetire), (0xC603, .sealKeyStatus),
   (0xC608, .sealReknot), (0xC609, .sealQuarantine), (0xC610, .rekey), (0xC700, .hitchStatus), (0xC701, .hitchSet), (0xC710, .moduleReplace),
   (0xC800, .powerEnter), (0xC801, .powerStatus), (0xC900, .prismStream), (0xCE00, .diagUnlock), (0xCE01, .diagLock), (0xCE10, .diagPoke),
   (0xCE11, .tableInval), (0xCE20, .glintStart), (0xCE21, .glintResult)]

/-- `n` steps from a state all go on, and this is the state they reach. -/
def Reaches : Nat → State → State → Prop
  | 0, s, t => s = t
  | n + 1, s, t => ∃ u, step s = .next u ∧ Reaches n u t

end Sys2Proof
end

