-- ==== Sys2Proof/Certificates/Slice0/Obligations.lean ====
section
/-! DEFINITION. The statements for the provers. What a command does is said as a device, or as fields of one; `Completes`, `Settles`, `Replies` and their
like are of Sys2Proof/Safety.lean. -/

open Sys2Proof Sys2Proof.Machine

/-- A step takes the command at the front of the queue and runs it on the device with the queue's rest; with no command waiting the block
idles (the model's choice, log 1). -/
def Obligations.StepTakesFrontCommand : Prop :=
  (∀ (c : Instr) (s : State), step { s with pending := c :: s.pending } = exec c s) ∧
  (∀ s : State, s.pending = [] → step s = .next s)

/-- Every command completes, whatever the state and its operands: each of the 277 rows of the table, from BEAT_BOUNDARY to
CORE_EN_RELEASE, answers a next state, and leaves the queue of waiting commands as it was. The block has no fault and no refusal: a
command whose own statement gives it an effect on such a state has that effect, one that does not apply changes nothing (log 6), and one
that the spec refuses answers its status (R329, R331, R335). -/
def Obligations.EveryCommandCompletes : Prop :=
  ∀ (c : Instr) (s : State), ∃ t, exec c s = .next t ∧ t.pending = s.pending

/-- What reset leaves: nothing waits, no byte of media is listed and the form is canonical, every setting is at its default, no region,
key, request, job or translation is held, and the beat is 0 (the values the spec does not state are the model's, logs 2 to 4). -/
def Obligations.ResetLeavesNothing : Prop :=
  let d := State.reset.dev
  State.reset.pending = [] ∧ MemCanonical State.reset ∧ d.line.mem = [] ∧ (∀ k i, d.setting k i = settingDefault k i) ∧ d.conf.regions = [] ∧
  d.conf.sheet = none ∧ d.path.reqs = [] ∧ d.jobs.slots = [] ∧ (∀ k, (d.key k).st = .free) ∧ d.home.dir = [] ∧ d.home.flows = [] ∧ d.clk.beat = 0

/-- Every step keeps the media contents in their canonical form, whatever the command and the state: reset's are, so every state of every
run has equal contents only as equal data. -/
def Obligations.StepKeepsMemoryCanonical : Prop :=
  ∀ s t : State, MemCanonical s → step s = .next t → MemCanonical t

/-- Media. A byte written reads back, and every other reads as before; the 640 bits of a physical line read back as they were stored, and
no other line's change (R159); in any contents of canonical form, which a write keeps. -/
def Obligations.MediaReadAfterWrite : Prop :=
  ∀ m : List Host.Cell, Memory.wf m = true →
    (∀ a b v, Memory.wf (Memory.write m a v) = true ∧ Memory.read (Memory.write m a v) b = if b = a then v else Memory.read m b) ∧
    (∀ n k x, Memory.wf (Memory.setBurst m n x) = true ∧ Memory.burst (Memory.setBurst m n x) k = if k = n then x else Memory.burst m k)

/-- The decode of media addresses. Channel, subchannel, bank group, column, bank and row are the bits that R202 names; the decode gives
every line a place of its own, and the number of the home line undoes it; a reflected extent of frames 2p and 2p + 1 takes exactly the
lines of the two frames, each line twice, on channels four apart (R202, R203). -/
def Obligations.MediaAddressDecode : Prop :=
  (∀ m p : Nat, 0 < p →
    let L := m / 2 ^ 11 * 4 + m / 64 % 4
    let q := L % p / 2
    let x := placeOf (m / 256 % 8) p L
    chanLine (m / 64) = (m / 256 % 8, L) ∧ x.rank = L / p ∧ x.sub = L % p % 2 ∧ x.bank % 8 = q % 8 ∧ x.col = q / 8 % 128 ∧ x.bank / 8 = q / 1024 % 4 ∧
    x.row = q / 4096) ∧
  (∀ n k p : Nat, 0 < p →
    homeLine (chanLine n).1 (chanLine n).2 = n ∧
    (placeOf (chanLine n).1 p (chanLine n).2 = placeOf (chanLine k).1 p (chanLine k).2 → n = k)) ∧
  (∀ p ch l : Nat, (∃ o < 32768, ∃ c < 2, mirrorLine (2 * p * 32768 + o) c = (ch, l)) ↔ ∃ o < 65536, chanLine (2 * p * 32768 + o) = (ch, l)) ∧
  (∀ n, (mirrorLine n 1).1 = 4 + (mirrorLine n 0).1 ∧ (mirrorLine n 1).2 = (mirrorLine n 0).2)

/-- R25, whole: a queue grants an entry to a class below its minimum, or while the shared part has room; the occupancy is the number of
the class's entries, and one that leaves lowers its class's alone; the Tether receive pool's credits follow the same rule. -/
def Obligations.QueueGrants : Prop :=
  (∀ (mins occ : List Nat) (shared c : Nat),
    grants mins shared occ c = true ↔
      occ.getD c 0 < mins.getD c 0 ∨
      (occ.getD 0 0 - mins.getD 0 0) + (occ.getD 1 0 - mins.getD 1 0) + (occ.getD 2 0 - mins.getD 2 0) + (occ.getD 3 0 - mins.getD 3 0) < shared) ∧
  (∀ (a b : List Label) (l : Label) (c : Nat), c < 4 →
    (occupancy (a ++ l :: b)).getD c 0 = (occupancy (a ++ b)).getD c 0 + if l.toNat / 64 = c then 1 else 0) ∧
  (∀ (x : TPort) (m : Msg), m.op.isRequest = true → x.maySend m = true →
    grants poolMins poolShared ((List.range 4).map fun c => x.debits.val c 0 - x.returned.val c 0) m.cls = true)

/-- The regulator. In a fabric clock it admits its candidate, and with none only the clock advances; the candidate is the oldest C0
request with room; else, of the C1 requests, one of the highest step, the oldest of it; else the oldest of the first C2 group in turn
after the last served that has an allowance of 16; else, with the gate open, the oldest C3 (R66). A request whose age has reached AgeLimit
is promoted, and its queued accesses with it; every other keeps its place (R67). -/
def Obligations.RegulatorOrderAndAge : Prop :=
  (
    (∀ s : State, s.dev.clk.clk < 500 →
      (∀ q, s.dev.candidate = some q → Completes .regulatorAdmit s fun d =>
        let e := (s.dev.letIn q).flow
        d = { e with clk.clk := e.clk.clk + 1 }) ∧
      (s.dev.candidate = none → Completes .regulatorAdmit s fun d => d = { s.dev with clk.clk := s.dev.clk.clk + 1 })) ∧
    (∀ d : Dev,
      let ws := d.path.reqs.filter fun q => q.regulated && d.downstream q
      let oldest (p : Req → Prop) (q : Req) : Prop := ∃ a b, ws = a ++ q :: b ∧ p q ∧ ∀ x ∈ a, ¬ p x
      let step (q : Req) : Nat := d.c1Step (labelGroup q.label)
      let serves (g : Nat) : Prop := 16 ≤ (d.c2Of g).a ∧ ∃ q ∈ ws, q.cls = 2 ∧ labelGroup q.label = g
      ((∃ q ∈ ws, q.cls = 0) → ∃ q, d.candidate = some q ∧ oldest (fun x => x.cls = 0) q) ∧
      ((∀ q ∈ ws, q.cls ≠ 0) → (∃ q ∈ ws, q.cls = 1) → ∃ q, d.candidate = some q ∧ (∀ x ∈ ws, x.cls = 1 → step x ≤ step q) ∧
        oldest (fun x => x.cls = 1 ∧ step x = step q) q) ∧
      (∀ k < 64, (∀ q ∈ ws, q.cls ≠ 0 ∧ q.cls ≠ 1) → serves ((d.path.rr + 1 + k) % 64) → (∀ j < k, ¬ serves ((d.path.rr + 1 + j) % 64)) →
        ∃ q, d.candidate = some q ∧ oldest (fun x => x.cls = 2 ∧ labelGroup x.label = (d.path.rr + 1 + k) % 64) q) ∧
      ((∀ q ∈ ws, q.cls = 2 ∨ q.cls = 3) → (∀ g < 64, ¬ serves g) →
        (d.path.gate = true → (∃ q ∈ ws, q.cls = 3) → ∃ q, d.candidate = some q ∧ oldest (fun x => x.cls = 3) q) ∧
        (d.path.gate = false ∨ (∀ q ∈ ws, q.cls = 2) → d.candidate = none)))) ∧
  (
    ∀ (s : State) (id : Nat),
      let due (b : Nat) : Prop := b + s.dev.setting idAgeLimit 0 ≤ s.dev.clk.bnd
      Completes (.agePromotion id) s fun d =>
        (∀ q ∈ s.dev.path.reqs, q.id = id → q.regulated = false → q.stage ≠ .store → due q.admitBnd →
          { q with promoted := true } ∈ d.path.reqs) ∧
        (∀ q ∈ s.dev.path.reqs, q.id ≠ id → q ∈ d.path.reqs) ∧
        (∀ w ∈ s.dev.line.wb, w.id = id → due w.admitBnd → { w with promoted := true } ∈ d.line.wb) ∧
        (∀ a ∈ s.dev.dram.accs, a.kind = .read id → due a.admitBnd → { a with promoted := true } ∈ d.dram.accs))

/-- The judgment of a line. Whatever the check over its binding is, a line stored with its check and parity is clean and gives its data,
and one stored with the poison mark is stored poison; with the parity word alone in error the data is good; with one other word in error
no trial matches but by the rebuild, and where device k's alone does, the line is corrected to what was stored; on a rank with an erased
device, whatever that device's word reads (R159, R163). -/
def Obligations.LineJudgment : Prop :=
  ∀ (check : Line → BitVec 64) (data : Line),
    let b := mkBurst data (check data)
    let p := mkBurst data (check data ^^^ poisonMark)
    let but (k : Nat) (x y : Burst) : Prop := ∀ j < 10, j ≠ k → burstWord x j = burstWord y j
    judge check none b = ⟨.clean, data⟩ ∧ judge check none p = ⟨.poison, data⟩ ∧
    (∀ x, but 9 b x → x ≠ b → judge check none x = ⟨.parity, data⟩) ∧
    (∀ k < 9, ∀ x, but k b x → rebuild x k = b ∧
      (x ≠ b → trial check x ≠ 1 → ((List.range 9).filter fun j => trial check (rebuild x j) ≠ 0) = [k] →
        judge check none x = ⟨.corrected k, data⟩)) ∧
    (∀ e < 10, ∀ x, but e b x → judge check (some e) x = ⟨.clean, data⟩) ∧
    (∀ e < 10, ∀ x, but e p x → judge check (some e) x = ⟨.poison, data⟩)

/-- R387, whole: DIAG.LOCK takes no input, is taken from any party, locks diagnostics at once, and says NoWork where they were locked. -/
def Obligations.DiagLock : Prop :=
  ∀ (s : State) (iss : Issuer) (inp : List Byte), Takes s →
    let d0 := s.dev.doorbell (mailDoorbell iss)
    (inp = [] → Completes (.diagLock iss inp) s fun d =>
      Replies { d0 with host.diagUntil := none } d iss .success (zeros 6) (!s.dev.unlocked) ∧ d.unlocked = false) ∧
    (inp ≠ [] → Completes (.diagLock iss inp) s fun d => Replies d0 d iss .invalidLength (zeros 6) ∧ d.unlocked = s.dev.unlocked)

/-- R385, whole: POWER.STATUS takes no input and returns 16 bytes. -/
def Obligations.PowerStatus : Prop :=
  ∀ (s : State) (iss : Issuer) (inp : List Byte), Takes s →
    let d0 := s.dev.doorbell (mailDoorbell iss)
    let tj := d0.fault.monitors.foldl (fun n e => max n e.2.1) 0
    (inp = [] → Completes (.powerStatus iss inp) s fun d => Replies d0 d iss .success
      ([BitVec.ofNat 8 (pstateNum d0.power.st), BitVec.ofNat 8 (flag d0.dram.hot + 2 * flag d0.power.throttle + 4 * flag d0.power.aoLow)] ++
        leBytes 2 d0.power.vdd ++ [BitVec.ofNat 8 tj, BitVec.ofNat 8 d0.power.lastWake] ++ zeros 8)) ∧
    (inp ≠ [] → Completes (.powerStatus iss inp) s fun d => Replies d0 d iss .invalidLength (zeros 6))

/-- R377, whole: FAULT.PIN is the management controller's alone; its Level holds FAULT_N low or releases it, at once, or at the end of a
pulse that runs. (Thermal trip holds the pin low whatever Hold is, R402.) -/
def Obligations.FaultPin : Prop :=
  (∀ (s : State) (iss : Issuer) (inp : List Byte), Takes s →
    let d0 := s.dev.doorbell (mailDoorbell iss)
    let level := field inp 0 1
    (inp.length ≠ 8 → Completes (.faultPin iss inp) s fun d => Replies d0 d iss .invalidLength (zeros 6)) ∧
    (inp.length = 8 → issuerMc iss = false ∨ 1 < level ∨ rsvd inp 1 7 = false → Completes (.faultPin iss inp) s fun d =>
      Replies d0 d iss .invalidInput (zeros 6)) ∧
    (inp.length = 8 → issuerMc iss = true → level ≤ 1 → rsvd inp 1 7 = true → Completes (.faultPin iss inp) s fun d =>
      Answered d iss .success (zeros 6) ∧ d.fault.hold = decide (level = 1) ∧ d.fault.pulse = s.dev.fault.pulse ∧
      (s.dev.fault.pulse = true → d.fault.low = s.dev.fault.low) ∧
      (s.dev.fault.pulse = false → s.dev.power.thermtrip = false → d.fault.low = decide (level = 1)))) ∧
  (∀ s : State, s.dev.fault.pulse = true → s.dev.power.thermtrip = false → s.dev.boot = .running → Completes .faultNPulseEnd s fun d =>
    d.fault.pulse = false ∧ d.fault.low = s.dev.fault.hold)

/-- R380, whole: SEAL.KEY.STATUS takes no input and returns a record of every key ID. -/
def Obligations.SealKeyStatus : Prop :=
  ∀ (s : State) (iss : Issuer) (inp : List Byte), Takes s →
    let d0 := s.dev.doorbell (mailDoorbell iss)
    (inp = [] → Completes (.sealKeyStatus iss inp) s fun d => Replies d0 d iss .success (zeros 6 ++ (List.range 64).flatMap fun k =>
      [BitVec.ofNat 8 (kstateNum (d0.key k).st), BitVec.ofNat 8 (d0.keyLevel k), BitVec.ofNat 8 (d0.key k).source, 0] ++ leBytes 4 (d0.keyRefs k))) ∧
    (inp ≠ [] → Completes (.sealKeyStatus iss inp) s fun d => Replies d0 d iss .invalidLength (zeros 6))

/-- A host request that ingress takes waits on the path under its region's label, in class C1 where its LD's contract is spent (R23, R49,
R51); its MemWr data and mask go with it. A free entry goes to the oldest stored request of the class, and its credit back to the host
(R255). -/
def Obligations.RequestEntersIngress : Prop :=
  (
    ∀ (s : State) (k : Link) (ldId tag : BitVec 16) (hpa mask : BitVec 64) (mv : Meta) (data : Line) (poison : Bool)
      (ld a : Nat) (r : Region),
      let l := linkNum k
      let label := if labelCls r.label = .c0 ∧ (s.dev.ld ld).allowance = 0 then mkLabel .c1 (labelGroup r.label) else r.label
      let waits (op : ReqOp) (d : Dev) (p : Req → Prop) : Prop :=
        ∃ q ∈ d.path.reqs, q.src = .host k ld tag ∧ q.op = op ∧ q.dpa = a ∧ q.label = label ∧
          (q.stage = .store ∨ q.stage = .ingress) ∧ p q
      (s.dev.link l).carries = true → (s.dev.link l).cxl = true → (s.dev.link l).viral = false →
      s.dev.ldOnLink l ldId.toNat = some ld → (s.dev.ld ld).resetting = false → s.dev.dpaOf ld hpa.toNat = some a →
      s.dev.regionAt ld a = some r → s.dev.mapped ld a = true →
      Completes (.memrd k ldId hpa mv tag) s (fun d => waits .read d fun q => q.mv = mv) ∧
      Completes (.memwr k ldId hpa mv tag data mask poison) s
        (fun d => waits .write d fun q => q.mv = mv ∧ q.data = data ∧ q.mask = mask ∧ q.poison = poison) ∧
      Completes (.meminv k ldId hpa tag) s (fun d => waits .inv d fun _ => True) ∧
      Completes (.memclnevct k ldId hpa tag) s (fun d => waits .evct d fun _ => True)) ∧
  (
    ∀ (s : State) (k : Link) (c : Cls) (q : Req),
      s.dev.ingressRoom (linkNum k) (clsNum c) = true → s.dev.power.quiet = false →
      s.dev.stored (linkNum k) (clsNum c) = some q →
      Completes (.ingressEntryGrant k c) s fun d =>
        d.req q.id = some { q with stage := .ingress } ∧ d.out = s.dev.out ++ [.credit k (q.op = .write)])

/-- A walk that reads a good extent entry fills the first-level buffers of the requests that waited for it and takes them on; a walk that
faults fails each of them (R87, R89). Whatever its lines hold, a walk that runs ends so, in either stage; with the directory entry in the
extent cache and the entry's line good in the table, stage 1 goes on with the entry that stands there. The rest of a leaf block arrives in
its slot: the lines it lacks, then its records, and it no longer fills (R92); a header or node arrives and the requests that waited for it
go on, or fail (R178), as they do at once where it is cached by then, or its line of a plain or veiled range judges good; a first-level
entry leaves its buffer at the 4,096th boundary after it was filled (R91). -/
def Obligations.WalksAndCaches : Prop :=
  (
    (∀ (s : State) (errs : List Burst) (w : Walk) (ld ext : Nat),
      let d0 : Dev := { s.dev with xl.walks := s.dev.xl.walks.filter (·.id ≠ w.id) }
      let ids := d0.walkers (.walk1 w.id)
      let r : Reader := { label := w.label, who := reqLd ld }
      s.dev.xl.walks.find? (·.id = w.id) = some w → w.target = .stage1 ld ext →
      (∀ e d1, d0.walk1 ld ext errs r = (.ok e, d1) →
        Completes (.tableWalkComplete w.id errs) s fun d =>
          d = (d1.eachReq ids fun x q => (x.flbFill q.buf ld ext e).stage1Found q e).flow) ∧
      (∀ f d1, w.prefetch = false → d0.walk1 ld ext errs r = (.error f, d1) →
        Completes (.tableWalkComplete w.id errs) s fun d =>
          d = (d1.eachReq ids fun x q => (x.countAccepted q).walkFault q f).flow) ∧
      (Settles (.tableWalkComplete w.id errs) s fun e => e = match d0.walk1 ld ext errs r with
        | (.ok v, d) => d.eachReq ids fun d q => (d.flbFill q.buf ld ext v).stage1Found q v
        | (.error f, d) => (if w.prefetch && ids.isEmpty then d.bump 0x16C else d).eachReq ids fun d q => (d.countAccepted q).walkFault q f) ∧
      (∀ x ∈ d0.xl.xc, (d0.xl.xc.find? fun y => y.same .s1l1 ld (ext / 512)) = some x → d0.dirCause .clean x.value = none →
        let a := dirTable x.value + ext % 512 * 8
        let j := d0.judgeTable (a / 64) (errs.headD 0)
        let v := BitVec.ofNat 64 (lineField j.data (a % 64) 8)
        d0.extCause j.v v = none → Settles (.tableWalkComplete w.id errs) s fun e =>
          e = (d0.walk1 ld ext errs r).2.eachReq ids fun d q => (d.flbFill q.buf ld ext v).stage1Found q v)) ∧
    (∀ (s : State) (errs : List Burst) (w : Walk) (page : Nat),
      let d0 : Dev := { s.dev with xl.walks := s.dev.xl.walks.filter (·.id ≠ w.id) }
      let ids := d0.walkers (.walk2 w.id)
      s.dev.xl.walks.find? (·.id = w.id) = some w → w.target = .stage2 page →
      Settles (.tableWalkComplete w.id errs) s fun e => e = match d0.walk2 page errs { label := w.label } with
        | (.ok f, d) => (if f.knot.isSome then d.markFilling (s2Addr f.entry) else d).eachReq ids fun d q =>
            if q.page = page then d.stage2Found q f else d.stage2 q
        | (.error f, d) => (if w.prefetch && ids.isEmpty then d.bump 0x16C else d).eachReq ids fun d q =>
            if q.page = page || f.level ≤ 2 then d.walkFault q f else d.stage2 q)) ∧
  (
    (∀ (s : State) (block : Nat) (errs : List Burst) (x : KSlot), s.dev.kslot block = some x → x.filling = true →
      x.valid = BitVec.allOnes 36 → x.recsValid = false →
      Completes (.knotBlockFillDone block errs) s fun d =>
        let e := s.dev.fillRecs block errs
        d = ({ e with xl.kc := e.xl.kc.map fun y => if y.block = block then { y with filling := false } else y } : Dev).flow) ∧
    (∀ (s : State) (block : Nat) (errs : List Burst) (x : KSlot), s.dev.kslot block = some x →
      let need := (List.range 36).filter fun l => !x.valid.getLsbD l
      let d1 := each (need.zip (errs ++ List.replicate 36 0)) s.dev fun d y => (d.kcFillLines block [y.1] [y.2] {}).2
      let d2 := if x.recsValid then d1 else d1.fillRecs block (errs.drop need.length)
      (x.filling = true → Settles (.knotBlockFillDone block errs) s fun e =>
        e = { d2 with xl.kc := d2.xl.kc.map fun y => if y.block = block then { y with filling := false } else y } ∧
        ∀ y, e.kslot block = some y → y.filling = false) ∧
      (x.filling = true → need = [] → x.recsValid = true → Settles (.knotBlockFillDone block errs) s fun e =>
        e.kslot block = some { x with filling := false } ∧ e.line = s.dev.line) ∧
      (x.filling = false → Settles (.knotBlockFillDone block errs) s fun e => e = s.dev)) ∧
    (∀ (s : State) (errs : List Burst) (f : CtFetch),
      let d0 : Dev := { s.dev with line.fetches := s.dev.line.fetches.filter (·.id ≠ f.id) }
      let ids := d0.walkers (.header f.id)
      s.dev.line.fetches.find? (·.id = f.id) = some f →
      (Completes (.counterTreeFetchDone f.id errs) s fun d =>
        d = (if (d0.fetchHeader f.attr f.page errs).1 then (d0.fetchHeader f.attr f.page errs).2.eachReq ids Dev.station
             else (d0.fetchHeader f.attr f.page errs).2.eachReq ids Dev.fail).flow) ∧
      (d0.headerCached f.attr f.page = true → Settles (.counterTreeFetchDone f.id errs) s fun e => e = d0.eachReq ids Dev.station) ∧
      (let n := headerLine f.attr.base f.page
       let j := d0.judgeTable n (errs.headD 0)
       d0.headerCached f.attr f.page = false → f.attr.prot ≠ .sealed → j.v.good = true → Settles (.counterTreeFetchDone f.id errs) s fun e =>
         e = (((d0.readTable n (errs.headD 0) {}).2.ctPut { line := n, data := j.data }).ctEvict).eachReq ids Dev.station)) ∧
    (∀ (s : State) (buf : Option Link) (ld : Fin 32) (ext : Nat),
      let b := match buf with | some k => linkNum k | none => serviceBuf
      let old (x : Flb) : Prop := x.ld = ld.val ∧ x.ext = ext ∧ x.filled + 4096 ≤ s.dev.clk.bnd
      Completes (.firstLevelExpiry buf ld ext) s fun d =>
        (∀ x ∈ d.xl.flb.val b [], ¬ old x) ∧ (∀ x ∈ s.dev.xl.flb.val b [], ¬ old x → x ∈ d.xl.flb.val b [])))

/-- A beat boundary starts the next beat at clock 0 and takes its actions in R46's order: counters and snapshots first, then the committed
sheet and the changes of tables, then what was lost, then the regulator, DRAM, faults, interrupts and jobs. Where the fabric clock stands
still nothing happens (R46, R447, R462). Actions that R46 leaves unordered follow the model's order (DESIGN CHOICE, log 48). -/
def Obligations.BoundaryActionsInOrder : Prop :=
  (∀ s : State, s.dev.clocked = false → Completes .beatBoundary s fun d => d = s.dev) ∧
  (∀ s : State, s.dev.clocked = true →
    let b := s.dev.nextBeat
    b.clk.beat = s.dev.clk.beat + 1 ∧ b.clk.clk = 0 ∧ b.clk.bnd = s.dev.clk.bnd + 1 ∧ b.line = s.dev.line ∧ b.conf = s.dev.conf ∧
    Completes .beatBoundary s fun d => d =
      b.counterStep.commitStep.lossStep.regulatorBoundary.newAllowances.pressureBoundary.c0Recheck.dramBoundary.faultBoundary.intBoundary.jobsBoundary.placeMoves.sendMarkers.flow)

/-- OVERLOAD: once a class and group has been short for 4,001 boundaries it is in Severe Overload: the LDs whose requests wait are
counted, the record is raised, and nothing but events changes beside; before that, or while it is in it already, nothing happens (R72). -/
def Obligations.OverloadDeclared : Prop :=
  ∀ (s : State) (c : Cls) (g : Fin 64),
    let l := clsNum c * 64 + g.val
    let o := s.dev.path.overs.val l {}
    (o.run < 4001 ∨ o.outside.isSome = true → Completes (.overload c g) s fun d => d = s.dev) ∧
    (4001 ≤ o.run → o.outside = none → Completes (.overload c g) s fun d =>
      (d.path.overs.val l {}).outside = some 0 ∧ Signals { s.dev with path := d.path } d ∧
      (∀ m ≠ l, d.path.overs.val m {} = s.dev.path.overs.val m {}))

/-- Changes of tables. CHANGE_DRAINED ends a change that is applied, that no request waits under and that nothing holds, and does what it
had to wait for (R98); TABLE.INVAL posts the drop of all cached entries, or of a range of one kind, as a background command, and says so
where a range is empty (R105); DIAG.POKE writes a table entry in media and answers with what stood there (R101, R103); a header or node
whose counters have risen 65,535 times in all is written back (R179). -/
def Obligations.TableChangesAndPokes : Prop :=
  (∀ (s : State) (c : Change), s.dev.xl.changes.find? (·.id = c.id) = some c → c.applied = true → c.waits = [] →
    s.dev.afterReady c.after = true →
    Settles (.changeDrained c.id) s fun e => e = { s.dev with xl.changes := s.dev.xl.changes.filter (·.id ≠ c.id) }.after c.after) ∧
  (∀ (s : State) (iss : Issuer) (inp : List Byte), Takes s →
    let d0 := s.dev.doorbell (mailDoorbell iss)
    let post (sc : Scope) (d : Dev) : Prop := d = (d0.startBg iss 0xCE11).post sc (.inval (issuerBox iss) 0 0)
    inp.length = 16 → d0.bgBusy iss = false → rsvd inp 2 2 = true →
    (field inp 0 1 = 0 → field inp 1 1 = 0 → field inp 4 4 = 0 → field inp 8 8 = 0 → Completes (.tableInval iss inp) s (post .all)) ∧
    (field inp 0 1 = 1 → field inp 1 1 < 32 → 0 < field inp 4 4 → field inp 8 8 % mib2 = 0 → field inp 8 8 + field inp 4 4 * mib2 ≤ 2 ^ 44 →
      Completes (.tableInval iss inp) s (post (.stage1 (field inp 1 1) (field inp 8 8 / mib2) (field inp 4 4)))) ∧
    (field inp 0 1 = 2 → field inp 1 1 = 0 → 0 < field inp 4 4 → field inp 8 8 % 512 = 0 → field inp 8 8 + field inp 4 4 * 512 ≤ 2 ^ 32 →
      Completes (.tableInval iss inp) s (post (.stage2 (field inp 8 8 / 512) (field inp 4 4)))) ∧
    (field inp 0 1 = 1 → field inp 1 1 < 32 → field inp 4 4 = 0 → field inp 8 8 % mib2 = 0 → field inp 8 8 ≤ 2 ^ 44 →
      Completes (.tableInval iss inp) s fun d => Replies d0 d iss .success (zeros 14) true)) ∧
  (∀ (s : State) (iss : Issuer) (inp : List Byte), Takes s →
    let d0 := s.dev.doorbell (mailDoorbell iss)
    let addr := field inp 8 8
    let r := d0.readTable (addr / 64) 0 {}
    inp.length = 24 → d0.conf.regions = [] → 1 ≤ field inp 0 1 → field inp 0 1 ≤ 4 → rsvd inp 1 3 = true → rsvd inp 6 2 = true →
    field inp 4 2 = 0 → addr % 8 = 0 → d0.inTable addr 8 = true → r.1.v.good = true →
    Completes (.diagPoke iss inp) s fun d =>
      Replies (r.2.writeTable (addr / 64) (lineSetBits r.1.data (addr % 64 * 8) 64 (field inp 16 8))) d iss .success
        (zeros 6 ++ leBytes 8 (bits r.1.data.toNat (addr % 64 * 8 + 63) (addr % 64 * 8)))) ∧
  (∀ (s : State) (n : Nat) (x : CtLine), s.dev.ctLook n = some x →
    (x.dirty = true → 65535 ≤ x.incs → Completes (.counterWritebackCount n) s fun d => d = s.dev.writeBackLine n) ∧
    (x.dirty = false ∨ x.incs < 65535 → Completes (.counterWritebackCount n) s fun d => d = s.dev))

/-- Prism's line path. A decode ends only as its engine's next; the sub-block then answers its requests with their lines of it, and is
kept in staging unless its knot has changed since; a decode error counts, raises its event and record, and answers poison (R142 to R145).
A promotion that finds its page's header and its old knot gives the page its new knot and lets its requests go on (R118). A minor overflow
raises Major, gives every written line of the page minor 1 under it and places the write; with Major at its top the key ID fails and the
write has no effect (R172, R174). -/
def Obligations.PrismDecodesPromotesOverflows : Prop :=
  (∀ (s : State) (c : Decode), s.dev.prism.decodes.find? (·.id = c.id) = some c →
    let ids := s.dev.walkers (.image c.id)
    let d0 := (s.dev.dropDecode c.id).bump 0x170
    let sub := decodeSub c.img (1024 * (knotClass c.knot + 1)) c.sub
    (s.dev.engineNext c.engine ≠ some c → Settles (.prismSubblockDecodeDone c.id) s fun e => e = s.dev) ∧
    (s.dev.engineNext c.engine = some c →
      (sub = none → Settles (.prismSubblockDecodeDone c.id) s fun e =>
        e = ((d0.bump 0x172).prismFault c.engine 2 c.page c.sub c.knot).eachReq ids fun d q => d.answer q .poison) ∧
      (∀ x, sub = some x → Settles (.prismSubblockDecodeDone c.id) s fun e =>
        e = (if c.stale then d0 else d0.stage { engine := c.engine, first := knotBody c.knot, sub := c.sub, data := x }).eachReq ids
          fun d q => d.answer q (.data (BitVec.ofNat 512 (leNat (slice x (64 * (q.lineIdx % 4)) 64))))))) ∧
  (∀ (d : Dev) (e : Nat) (c : Decode), d.engineNext e = some c →
    c ∈ d.prism.decodes ∧ c.engine = e ∧ c.ready = true ∧
    ∀ x ∈ d.prism.decodes, x.engine = e → x.ready = true → c.label.toNat / 64 ≤ x.label.toNat / 64) ∧
  (∀ (s : State) (n : Fin 32) (p : Promo), s.dev.tiers.promo.look n.val = some p →
    let ids := s.dev.walkers (.promo n.val)
    let (good, d) := s.dev.fetchHeader p.attr p.page []
    let d1 := { d with tiers.promo := d.tiers.promo.del n.val }
    let block := p.attr.base + unitLeaf
    let give (d : Dev) : Dev := match s.dev.pageRegion p.page with | some k => d.credit k (4 - knotKib p.knot) | none => d
    (good = false → Settles (.promotionDone n) s fun e => e = ((give d1).freeKnot p.dest).eachReq ids Dev.fail) ∧
    (good = true → d1.knotAt block (p.page % 512) ≠ p.knot → Settles (.promotionDone n) s fun e =>
      e = ((give d1).freeKnot p.dest).eachReq ids fun d q => d.stage2 { q with waited := true }) ∧
    (good = true → d1.knotAt block (p.page % 512) = p.knot → Settles (.promotionDone n) s fun e =>
      e = (((((d1.placePromotion p (d1.header p.attr.base p.page)).drawDecodes p.knot).changeKnot block p.page p.knot p.dest).freeKnot p.knot).bump 0x175).eachReq ids
          fun d q => d.stage2 { q with waited := true })) ∧
  (∀ (s : State) (w : Wb), s.dev.line.wb.find? (·.id = w.id) = some w → s.dev.overflowing w = true →
    s.dev.headerCached w.attr w.page = true → (s.dev.wbOn w.line).head? = some w → s.dev.wbBusy w.id = false →
    let h := s.dev.header w.attr.base w.page
    let (lines, d) := s.dev.overflowLines w h
    (hdrMajor h + 1 < 2 ^ 64 → Settles (.minorOverflow w.id) s fun e => e = d.placeOverflow w (hdrSetMajor h (hdrMajor h + 1)) lines) ∧
    (2 ^ 64 ≤ hdrMajor h + 1 → Settles (.minorOverflow w.id) s fun e =>
      let k := d.keyOf w.attr w.line w.page
      e = ((d.setKey k { d.key k with st := .failed }).alarm 0x902 4 (headerLine w.attr.base w.page * 64) k 15 (d.keyLds k)).dropWb w.id))

/-- Row disturbance: a row group whose counter reaches RhThreshold gets an RFM and its counter falls by the threshold, and the contributor
with the highest count outside C0 is capped for RhHold boundaries; caps whose boundaries are over go unless a new trip of theirs is due
(R212, R213). -/
def Obligations.RowDisturbanceDefence : Prop :=
  ∀ (s : State) (ch : Fin 8) (rank : Fin 4) (sub : Fin 2) (bank : Fin 32),
    (∀ (g : Nat) (c : Contrib),
      let k := s.dev.bankKey ch.val rank.val sub.val bank.val (g * 512)
      g < 2 ^ 15 → s.dev.setting idRhThreshold 0 ≤ (s.dev.bank k).groups.val g 0 → (s.dev.chan ch.val).rfmDue = [] →
      (s.dev.chan ch.val).window = false → (s.dev.chan ch.val).rfm.contains k = false → s.dev.c0Waits k = false → topContrib (s.dev.bank k).contrib = some c →
      Completes (.rowDisturbanceTrip ch rank sub bank g) s fun d =>
        (d.bank k).groups.val g 0 = (s.dev.bank k).groups.val g 0 - s.dev.setting idRhThreshold 0 ∧
        (d.chan ch.val).rfm = (s.dev.chan ch.val).rfm ++ [k] ∧
        ∃ x ∈ (d.bank k).caps, x.who = c.who ∧ x.label = c.label ∧ x.left = s.dev.setting idRhHold 0) ∧
    ((∀ chip < 8, ∀ g ∈ (s.dev.bank (chip * 2048 + ch.val * 256 + rank.val * 64 + sub.val * 32 + bank.val)).groups,
        g.2 < s.dev.setting idRhThreshold 0) →
      Completes (.rowCapExpiry ch rank sub bank) s fun d => ∀ chip < 8,
        let k := chip * 2048 + ch.val * 256 + rank.val * 64 + sub.val * 32 + bank.val
        (d.bank k).caps = (s.dev.bank k).caps.filter (·.left ≠ 0) ∧ (d.bank k).groups = (s.dev.bank k).groups)

/-- A slot that no refresh window, maintenance or turnaround takes carries the access that the order of R205 picks among those that timing
lets into it; a slot that one of them takes, and one for which none is eligible, carries none and is accounted (R205, R418). What a row
under repair is asked for is served from the row holding buffer first (R217). -/
def Obligations.SlotCarriesThePick : Prop :=
  ∀ (s : State) (ch : Fin 8) (sub : Fin 2) (i : Nat) (l : List (Nat × Bool)),
    let b := s.dev.fromBuffer ch.val
    let d0 := (b.countTo ch.val sub.val i).modChan ch.val fun c => { c with slot := c.slot.put sub.val (i + 1) }
    let can := d0.eligible ch.val sub.val l
    let m := (b.chan ch.val).plan.getD i .unmarked
    let mode := d0.writeMode ch.val sub.val can
    let d1 := d0.modChan ch.val fun c => { c with writeMode := c.writeMode.put sub.val mode }
    let pick := pickFill (decide (m = .c0)) (can.filter fun e => e.1.isWrite = decide (mode ≠ 0))
    ((s.dev.chan ch.val).ppr = [] → b = s.dev) ∧
    (i < b.dram.slots → (b.chan ch.val).slot.val sub.val 0 ≤ i → b.dram.selfRefresh = false →
    (m = .unmarked → d0.writeMode ch.val sub.val can = 0 →
      ∀ a hit, pickFill false (can.filter fun e => e.1.isWrite = false) = some (a, hit) → a.isWrite = false →
      Settles (.dramSlotFill ch sub i l false) s fun e =>
        e = (((d0.modChan ch.val fun c => { c with writeMode := c.writeMode.put sub.val 0 }).issueAcc a hit).heldRfms ch.val)) ∧
    (∀ a hit, m = .unmarked ∨ m = .c0 → pick = some (a, hit) → Settles (.dramSlotFill ch sub i l false) s fun e =>
      e = ((if a.isWrite then d1.modChan ch.val fun c => { c with writeMode := c.writeMode.put sub.val (mode + 1) } else d1).issueAcc a hit).heldRfms
        ch.val) ∧
    (m = .unmarked ∨ m = .c0 → pick = none → Settles (.dramSlotFill ch sub i l false) s fun e =>
      e = d1.bump (evSlot ch.val sub.val (if (d0.subQueue ch.val sub.val).isEmpty then 2 else 3))) ∧
    (m = .blocked ∨ m = .maint → ∀ turn, Settles (.dramSlotFill ch sub i l turn) s fun e => e = d0.bump (evSlot ch.val sub.val 1)) ∧
    (Settles (.dramSlotFill ch sub i l true) s fun e => e = d0.bump (evSlot ch.val sub.val 1)))

/-- The order of R205 among the accesses that may take an open slot: nothing goes before a C0 access, and nothing but C0 before a promoted
one; a reserved slot goes to a C0 read where one is eligible, and never to a C0 write. -/
def Obligations.FillOrder : Prop :=
  ∀ (l : List (Acc × Bool)) (a : Acc) (hit reserved : Bool), (∀ x ∈ l, x.1.admitBnd < 2 ^ 64) →
    pickFill reserved l = some (a, hit) →
      (a, hit) ∈ l ∧
      (reserved = false → (∃ x ∈ l, x.1.cls = 0) → a.cls = 0) ∧
      (reserved = false → (∀ x ∈ l, x.1.cls ≠ 0) → (∃ x ∈ l, x.1.promoted = true) → a.promoted = true) ∧
      (reserved = true → ¬ (a.cls = 0 ∧ a.isWrite = true)) ∧
      (reserved = true → (∃ x ∈ l, x.1.cls = 0 ∧ x.1.isWrite = false) → a.cls = 0 ∧ a.isWrite = false)

/-- The data of an issued read goes to the request it was for, judged in its copy (R163, R207); the next line of a scrub pass goes to its
channel, or is passed over where no rank stands (R216); a pass that is not done after twice ScrubHours is told once. -/
def Obligations.ReadsAndScrub : Prop :=
  (∀ (s : State) (a : Acc) (err : Burst) (q : Req),
    s.dev.dram.accs.find? (fun x => x.id = a.id && x.issued) = some a → a.kind = .read q.id → s.dev.req q.id = some q → q.scrub = none →
    Settles (.dramReadDataReturn a.id err) s fun e => e = (s.dev.dropAcc a.id).returnRead q a.copy false err) ∧
  (∀ (s : State) (a : Acc) (err : Burst), s.dev.dram.accs.find? (fun x => x.id = a.id && x.issued) = some a →
    let d0 := s.dev.dropAcc a.id
    (∀ w, a.kind = .merge w.id → s.dev.line.wb.find? (·.id = w.id) = some w → Settles (.dramReadDataReturn a.id err) s fun e =>
      e = d0.returnMerge w a.copy err) ∧
    (∀ c i, a.kind = .image c i → Settles (.dramReadDataReturn a.id err) s fun e => e = d0.returnImage c i err) ∧
    (a.kind = .scrub → Settles (.dramReadDataReturn a.id err) s fun e => e = d0.scrubReturn a err)) ∧
  (∀ (s : State), s.dev.setting idScrubHours 0 ≠ 0 → s.dev.power.quiet = false → s.dev.path.gate = true →
    s.dev.dram.formed = true → s.dev.dram.selfRefresh = false → s.dev.dram.scrubPos + 1 < s.dev.scrubTotal →
    s.dev.scrubPlace s.dev.dram.scrubPos = none →
    Completes .patrolScrubRead s fun d => d = { s.dev with dram.scrubPos := s.dev.dram.scrubPos + 1 }) ∧
  (∀ (s : State) (h : Nat), s.dev.setting idScrubHours 0 ≠ 0 → s.dev.power.quiet = false → s.dev.path.gate = true →
    s.dev.dram.formed = true → s.dev.dram.selfRefresh = false → s.dev.dram.scrubPos + 1 < s.dev.scrubTotal →
    s.dev.scrubPlace s.dev.dram.scrubPos = some h → s.dev.scrubSkips h = false → s.dev.schedRoom (h / 4 % 8) 3 = true →
    Completes .patrolScrubRead s fun d =>
      d.dram.scrubPos = s.dev.dram.scrubPos + 1 ∧ d.line = s.dev.line ∧
      ∃ a ∈ d.dram.accs, a.kind = .scrub ∧ a.line = h ∧ a.label = 0xC2 ∧ a.issued = false) ∧
  (∀ (s : State), s.dev.setting idScrubHours 0 ≠ 0 → s.dev.dram.formed = true → s.dev.dram.scrubPos < s.dev.scrubTotal →
    s.dev.dram.scrubLate = false → s.dev.dram.scrubFrom.2 + 2 * s.dev.setting idScrubHours 0 * hourBeats ≤ s.dev.clk.bnd →
    Completes .scrubLate s fun d =>
      d.dram = { s.dev.dram with scrubLate := true } ∧
      d = ({ s.dev with dram.scrubLate := true } : Dev).raise 0x108 .warning none s.dev.dram.scrubFrom.1.toNat)

/-- At a half's beat of the refresh phase the windows of its four channels begin, at the window's end a channel takes commands again
(R208, R209); hot mode is called for above 85 degrees on any module and left at 82 or below on all (R210); new delay values are only
staged (R215). -/
def Obligations.RefreshAndTemperature : Prop :=
  (∀ (s : State) (half : Bool), s.dev.dram.phase = (if half then s.dev.refreshOff else 0) → s.dev.dram.selfRefresh = false →
    s.dev.dram.formed = true →
    Completes (.refreshWindowStart half) s fun d => ∀ ch ∈ halfChans half, (d.chan ch).window = true ∧
      ((s.dev.chan ch).window = false → ∀ e ∈ d.dram.banks, bankCh e.1 = ch → e.2.opened = none)) ∧
  (∀ (s : State) (ch : Fin 8),
    (Settles (.refreshWindowEnd ch) s fun e => (e.chan ch.val).window = false ∧ ∀ c ≠ ch.val, (e.chan c).window = (s.dev.chan c).window) ∧
    ((s.dev.chan ch.val).rfmDue = [] → Settles (.refreshWindowEnd ch) s fun e =>
      e.chan ch.val = { s.dev.chan ch.val with window := false } ∧ ∀ c ≠ ch.val, e.chan c = s.dev.chan c)) ∧
  (∀ (s : State) (t : List Nat),
    ((∃ x ∈ t, 85 < x) → Completes (.moduleThermalRead t) s fun d => d = { s.dev with dram.hotNext := true }) ∧
    ((∀ x ∈ t, x ≤ 82) → Completes (.moduleThermalRead t) s fun d => d = { s.dev with dram.hotNext := false }) ∧
    ((∀ x ∈ t, x ≤ 85) → (∃ x ∈ t, 82 < x) → Completes (.moduleThermalRead t) s fun d => d = s.dev)) ∧
  (∀ (s : State) (readings : List Nat), s.dev.setting idDriftPeriod 0 ≠ 0 →
    s.dev.dram.driftFrom + s.dev.setting idDriftPeriod 0 * 4096 ≤ s.dev.clk.bnd →
    Completes (.driftCheck readings) s fun d =>
      d.dram.driftFrom = s.dev.clk.bnd ∧ (∀ ch, (d.chan ch).delay = (s.dev.chan ch).delay) ∧
      ∀ ch < 8, ∀ r < s.dev.dram.ranks, ∀ x, readings[ch * s.dev.dram.ranks + r]? = some x →
        let c := s.dev.chan ch
        let new := Config.driftDelay (c.delay.val r 0) (c.osc.val r 0) x
        (d.chan ch).staged.look r =
          if x = c.osc.val r 0 ∨ new = c.delay.val r 0 then c.staged.look r else some new)

/-- A hard-failed row of a bank group with a spare row is read into the row holding buffer, and soft PPR takes maintenance slots of the
next beat and is recorded at the boundary after it; without a spare row the rank counts the event, and on a rank with a non-reflected C0
extent the row is only recorded for hard PPR (R204, R217). The copy of a rank to the shadow moves its cursor 64 lines at a step, and at
its end the logical rank names the shadow's physical rank, the old one is retired and the channel has no shadow (R220). -/
def Obligations.RowRepairAndRankCopy : Prop :=
  (∀ (s : State) (ch : Fin 8) (rank : Fin 4) (sub : Fin 2) (row : Nat) (spare : Bool) (errs : List Burst),
    let k := rowKey { ch := ch.val, rank := rank.val, sub := sub.val, bank := row % 32, row := row / 32, col := 0 }
    s.dev.dram.hardRows.contains k = true →
    (s.dev.c0OnRank ch.val rank.val = true → Completes (.postPackageRepair ch rank sub row spare errs) s fun d =>
      d = { s.dev with dram.hardRows := s.dev.dram.hardRows.filter (· ≠ k), dram.repairs := s.dev.dram.repairs ++ [k] }) ∧
    (s.dev.c0OnRank ch.val rank.val = false → spare = true → Completes (.postPackageRepair ch rank sub row spare errs) s fun d =>
      (d.chan ch.val).ppr = (s.dev.chan ch.val).ppr ++ [(k, false)] ∧ Config.pprSlots ≤ (d.chan ch.val).maintNext ∧
      d.line.wb = s.dev.line.wb ∧ d.conf = s.dev.conf) ∧
    (s.dev.c0OnRank ch.val rank.val = false → spare = false → Completes (.postPackageRepair ch rank sub row spare errs) s fun d =>
      let p : Place := { ch := ch.val, rank := rank.val, sub := sub.val, bank := row % 32, row := row / 32, col := 0 }
      d = { s.dev with dram.hardRows := s.dev.dram.hardRows.filter (· ≠ k) }.faultEvent (srcRank ch.val rank.val) 5 (dramDetail 0 p 15 false))) ∧
  (∀ (d : Dev) (ch k : Nat), (d.chan ch).toErase = [] → (d.chan ch).toRetire = [] →
    ((k, false) ∈ (d.chan ch).ppr → (k, true) ∈ ((d.chanBoundary ch).chan ch).ppr) ∧
    ((k, true) ∈ (d.chan ch).ppr → k ∈ (d.chanBoundary ch).dram.repairs)) ∧
  (∀ (s : State) (ch : Fin 8) (r : CopyReg), (s.dev.chan ch.val).copy = some r → r.cursor < s.dev.dram.lines →
    s.dev.wbRoomFor 0xBF 64 = true →
    Settles (.rankCopyStep ch) s fun e => (e.chan ch.val).copy = some { r with cursor := r.cursor + 64 } ∧
      ∀ i < 64, ∃ w ∈ e.line.wb, w.kind = .rankCopy ch.val ∧ w.label = 0xBF ∧
        (w.line = homeLine ch.val (r.src * s.dev.dram.lines + r.cursor + i) ∨
         w.line = (mirrorOf (homeLine ch.val (r.src * s.dev.dram.lines + r.cursor + i))).1)) ∧
  (∀ (s : State) (ch : Fin 8) (r : CopyReg), (s.dev.chan ch.val).copy = some r → s.dev.dram.lines ≤ r.cursor → r.lost = none →
    (∀ w ∈ s.dev.line.wb, w.kind ≠ .rankCopy ch.val) →
    let old := (s.dev.chan ch.val).remap.val r.src r.src
    Settles (.rankCopyComplete ch) s fun e =>
      (e.chan ch.val).remap.val r.src r.src = r.shadow ∧ (e.chan ch.val).copy = none ∧
      old ∈ (e.chan ch.val).retiredPhys ∧ r.shadow ∉ (e.chan ch.val).shadows ∧ (e.source (srcRank ch.val old)).retired = true)

/-- Keys: SEAL.KEY.LOAD, where the wrapped key unwraps, and SEAL.KEY.GEN make a FREE key ID ACTIVE with new material, FFh naming the
lowest FREE one; SEAL.KEY.RETIRE zeroises an unreferenced ACTIVE key and frees its ID, keeps a referenced one, and leaves a FAILED one
that is still referenced RETIRING (R190 to R193). -/
def Obligations.KeysLoadGenerateRetire : Prop :=
  ∀ (s : State) (iss : Issuer) (inp : List Byte), Takes s →
    let d0 := s.dev.doorbell (mailDoorbell iss)
    let n := field inp 0 1
    (∀ k, inp.length = 8 → rsvd inp 1 7 = true → n = 255 → (List.range 64).find? (fun i => (d0.key i).st = .free) = some k →
      Completes (.sealKeyGen iss inp) s fun d =>
        (d.key k).st = .active ∧ (d.key k).source = 2 ∧ (∀ i ≠ k, d.key i = d0.key i) ∧
        Answered d iss .success (BitVec.ofNat 8 k :: zeros 5)) ∧
    (inp.length = 112 → rsvd inp 1 3 = true → n < 64 → (d0.key n).st = .free →
      (match iss with | .host ld _ => (d0.ld ld.val).session | .mc _ => d0.host.mcSession) = some (BitVec.ofNat 32 (field inp 4 4)) →
      Completes (.sealKeyLoad iss inp) s fun d =>
        (∀ i ≠ n, d.key i = d0.key i) ∧
        match unwrapKey (deviceKek (BitVec.ofNat 32 (field inp 4 4))) (inp.drop 8) with
        | some m => d.key n = { st := .active, material := BitVec.ofNat 768 (leNat m), source := 1 } ∧
            Answered d iss .success (BitVec.ofNat 8 n :: zeros 5)
        | none => d.key n = d0.key n ∧ Answered d iss .unwrapFailed (zeros 6)) ∧
    (inp.length = 8 → rsvd inp 1 7 = true → n < 64 → (d0.key n).st = .active → d0.keyRefs n = 0 →
      Completes (.sealKeyRetire iss inp) s fun d =>
        d.key n = {} ∧ (∀ i ≠ n, d.key i = d0.key i) ∧ Answered d iss .success ([0, 0] ++ leBytes 4 0)) ∧
    (inp.length = 8 → rsvd inp 1 7 = true → n < 64 → (d0.key n).st = .active → d0.keyRefs n ≠ 0 →
      Completes (.sealKeyRetire iss inp) s fun d =>
        d.line = d0.line ∧ Answered d iss .keyInUse ([1, 0] ++ leBytes 4 (d0.keyRefs n))) ∧
    (inp.length = 8 → rsvd inp 1 7 = true → n < 64 → (d0.key n).st = .failed → d0.keyRefs n ≠ 0 →
      Completes (.sealKeyRetire iss inp) s fun d =>
        d.key n = { st := .retiring } ∧ Answered d iss .success ([3, 0] ++ leBytes 4 (d0.keyRefs n)))

/-- The states of the 64 key IDs and of the 256 quarantine entries are read whole (R380, R381); a SPDM session belongs to one LD's host or
to the management controller, and its end takes away no other (R190); SEAL.REKNOT clears the entry it names, and is denied without
AcceptMediaOnLoss (R184, R187). -/
def Obligations.KeyStatusSessionsQuarantine : Prop :=
  (∀ (s : State) (iss : Issuer), Takes s →
    let d0 := s.dev.doorbell (mailDoorbell iss)
    Completes (.sealKeyStatus iss []) s (fun d =>
      d.line = d0.line ∧
      Answered d iss .success (zeros 6 ++ (List.range 64).flatMap fun k =>
        [BitVec.ofNat 8 (kstateNum (d0.key k).st), BitVec.ofNat 8 (d0.keyLevel k), BitVec.ofNat 8 (d0.key k).source, 0] ++
          leBytes 4 (d0.keyRefs k))) ∧
    (d0.line.quar = [] → Completes (.sealQuarantine iss []) s fun d =>
      d.line = d0.line ∧ Answered d iss .success (zeros 6 ++ (List.range 256).flatMap fun _ => zeros 8))) ∧
  (∀ (s : State) (ld : Fin 32) (x : BitVec 32),
    Completes (.spdmSecureSession (some ld) x true) s (fun d =>
      (d.ld ld.val).session = some x ∧ ∀ n ≠ ld.val, d.ld n = s.dev.ld n) ∧
    ((s.dev.ld ld.val).session ≠ some x → Completes (.spdmSecureSession (some ld) x false) s fun d =>
      (d.ld ld.val).session = (s.dev.ld ld.val).session) ∧
    Completes (.spdmSecureSession none x true) s (fun d => d = { s.dev with host.mcSession := some x })) ∧
  (∀ (s : State) (iss : Issuer) (inp : List Byte), Takes s →
    let d0 := s.dev.doorbell (mailDoorbell iss)
    inp.length = 8 → rsvd inp 1 3 = true → rsvd inp 5 3 = true → d0.bgBusy iss = false → field inp 0 1 = 1 →
    (d0.line.quar.has (field inp 4 1) = true → d0.setting idAcceptMediaOnLoss 0 ≠ 0 →
      Completes (.sealReknot iss inp) s fun d => d.line.quar.look (field inp 4 1) = none) ∧
    (d0.setting idAcceptMediaOnLoss 0 = 0 →
      Completes (.sealReknot iss inp) s fun d => d.line = d0.line ∧ Answered d iss .policyDenied (zeros 14)))

/-- A host's answer to a snoop reaches the flow that waits on its slot, and a snoop of another device is answered to it (R233, R302); a
BIConflict is acted on where a flow is outstanding to its slot, and answered at once and counted where none is, or where its address names
no line (R236). -/
def Obligations.SnoopAnswers : Prop :=
  (∀ (s : State) (k : Link) (ldId : BitVec 16) (hpa : BitVec 64), s.dev.snoopedLine (linkNum k) ldId hpa = none →
    (Settles (.biconflict k ldId hpa) s fun e =>
      e = ((s.dev.bump 0x17B).bump 0x17C).ackOn (linkNum k) (s.dev.ldOnLink (linkNum k) ldId.toNat)) ∧
    ∀ keeps, Settles (.birsp k ldId hpa keeps) s fun e => e = s.dev) ∧
  ∀ (s : State) (k : Link) (ldId : BitVec 16) (hpa : BitVec 64) (ld line : Nat),
    s.dev.snoopedLine (linkNum k) ldId hpa = some (ld, line) →
    (∀ (f : Foreign) (keeps : Bool), s.dev.home.foreign.find? (fun f => f.ld = ld && f.dpaLine = line) = some f →
      Settles (.birsp k ldId hpa keeps) s fun e =>
        e = ({ s.dev with home.foreign := replaceFirst (· = f) (fun f => { f with answer := some (flag keeps) }) s.dev.home.foreign }
              : Dev).releaseForeign) ∧
    (∀ (slot n : Nat) (keeps : Bool), s.dev.home.foreign = [] → s.dev.slotOf s.dev.chain.index ld = some slot →
      s.dev.flowFor slot ld line = some n → s.dev.writesAhead slot n = true →
      Settles (.birsp k ldId hpa keeps) s fun e => e = { s.dev with home.heldRsp := s.dev.home.heldRsp ++ [(slot, n, keeps)] }) ∧
    (∀ (slot n : Nat) (keeps : Bool), s.dev.home.foreign = [] → s.dev.slotOf s.dev.chain.index ld = some slot →
      s.dev.flowFor slot ld line = some n → s.dev.writesAhead slot n = false →
      Settles (.birsp k ldId hpa keeps) s fun e => e = (s.dev.answerSnoop slot n keeps).settleHome) ∧
    (∀ slot, s.dev.home.foreign = [] → s.dev.slotOf s.dev.chain.index ld = some slot → s.dev.home.flows = [] →
      Settles (.biconflict k ldId hpa) s fun e => e = ((s.dev.bump 0x17B).bump 0x17C).ackOn (linkNum k) (some ld)) ∧
    (∀ slot n, s.dev.home.foreign = [] → s.dev.slotOf s.dev.chain.index ld = some slot → s.dev.flowFor slot ld line = some n →
      Settles (.biconflict k ldId hpa) s fun e => e = s.dev.takeConflict slot n)

/-- A slot that has not answered a snoop within BiTimeout is to be gone from the next boundary on (R238); the sweep visits every entry:
one that names the gone slot names it no more, and where it was the Exclusive holder its line is poisoned; then the slot is back in
service (R239); a directory error fails every request to shared media from the next boundary on (R242). An LD reset begins with its MSI-X
state and BI-ID cleared and ends at the first boundary after (R274); a link that goes down drops what waits in its receive store and what
is owed on it, and resets its LDs. -/
def Obligations.LossResetsAndLinkLoss : Prop :=
  (
    (∀ (s : State) (slot : Fin 32) (f : Flow), f ∈ s.dev.home.flows → slot.val ∈ f.wait →
      f.from_ + s.dev.setting idBiTimeout 0 * 4096 ≤ s.dev.clk.bnd → s.dev.home.gone = [] → s.dev.home.going = [] →
      Completes (.biTimeout slot) s fun d => d.home.going = [(slot.val, 2)]) ∧
    (∀ (s : State) (slot : Fin 32), s.dev.home.gone.contains slot.val = true → s.dev.home.dir = [] →
      Settles (.sharerSweep slot) s fun e =>
        e = (({ s.dev with home.gone := s.dev.home.gone.filter (· ≠ slot.val) } : Dev).wakeHome).settleHome) ∧
    (∀ (s : State) (slot : Fin 32),
      let visit (d : Dev) (x : Nat × BitVec 64) : Dev :=
        let v := d.de (x.1 / 16) (x.1 % 16)
        let rest := (List.range 32).filter fun y => (deSharers v).getLsbD y && y ≠ slot.val
        if (deSharers v).getLsbD slot.val then
          (if deState v = 2 then d.poisonLost (lineOfDe (x.1 / 16) v) else d).setDe (x.1 / 16) (x.1 % 16)
            (mkDe (slotBits rest) (deTag v) (if rest.isEmpty then 0 else deState v) (deBusy v) (deAge v))
        else d
      (s.dev.home.gone.contains slot.val = false → Settles (.sharerSweep slot) s fun e => e = s.dev) ∧
      (s.dev.home.gone.contains slot.val = true → Settles (.sharerSweep slot) s fun e =>
        ∃ d, d = each s.dev.home.dir s.dev visit ∧ e = (({ d with home.gone := d.home.gone.filter (· ≠ slot.val) } : Dev).wakeHome).settleHome)) ∧
    (∀ (s : State) (set : Nat) (way : Fin 16), (∀ k, s.dev.setting idSharerSlot k = 0x400) →
      Completes (.directoryError set way) s fun d =>
        d.home = { s.dev.home with failing := true } ∧ (d.source 0x303).sticky = true)) ∧
  (
    (∀ (s : State) (ld : Fin 32), (s.dev.ld ld.val).resetting = true → (s.dev.ld ld.val).resetFrom < s.dev.clk.bnd →
      Completes (.ldResetEnd ld) s fun d =>
        d.ld ld.val = { s.dev.ld ld.val with resetting := false } ∧ ∀ n ≠ ld.val, d.ld n = s.dev.ld n) ∧
    (∀ (s : State) (ld : Fin 32) (l : Nat), s.dev.ldLink ld.val = some l →
      let gone (e : Dev) : Prop := (e.ld ld.val).resetting = true ∧ (e.ld ld.val).resetFrom = s.dev.clk.bnd ∧ (e.ld ld.val).biId = false ∧
        (e.ld ld.val).msixOn = false ∧ (e.ld ld.val).vecs = []
      Settles (.functionLevelReset ld) s gone ∧
      Settles (.fmApiResetCommand (1 <<< ld.val)) s gone) ∧
    (∀ (s : State) (k : Link), (s.dev.link (linkNum k)).st ≠ .down → s.dev.linkLds (linkNum k) = [] → s.dev.glint.scan = none →
      let gone (e : Dev) : Prop := (e.link (linkNum k)).st = .down ∧ (e.link (linkNum k)).egress = [] ∧ (e.link (linkNum k)).snoops = [] ∧
        (∀ q ∈ e.path.reqs, q.onLink (linkNum k) = true → q.dead = true ∧ q.stage ≠ .store)
      Settles (.hostLinkDown k) s gone ∧ Settles (.hostHotReset k) s gone) ∧
    (∀ (s : State) (k : Link), (s.dev.link (linkNum k)).st ≠ .down →
      let gone (e : Dev) : Prop := (e.link (linkNum k)).st = .down ∧ ∀ ld ∈ s.dev.linkLds (linkNum k), (e.ld ld).resetting = true ∧
        (e.ld ld).biId = false
      Settles (.hostLinkDown k) s gone ∧ Settles (.hostHotReset k) s gone))

/-- A link comes up with what was negotiated where the ports and lanes allow it (R246 to R248); credits that a host returns let responses
out (R256); a link error stands in AER, and a correctable one counts at its source (R273); a width reset ends at the width that the good
lanes give (R292). IDE: the session of the link's first LD programs its streams, and an integrity failure makes the CXL.io stream Insecure
and takes the CXL.mem stream out with the link entering viral, either with an alarm (R262, R263); a decoder is committed where its DPA
range lies in one DC region (R252); BI Enable is what is written (R254); an unmasked vector with its pending bit set sends one message
(R413). -/
def Obligations.HostLinksPortsIde : Prop :=
  (
    (∀ (s : State) (k : Link) (cxl flit256 mld : Bool) (width : Nat) (rate : BitVec 8) (ndr drs bisnp : Nat),
      s.dev.mayTrain (linkNum k) cxl flit256 mld width rate.toNat = true → (s.dev.link (linkNum k)).st = .down →
      (s.dev.link (linkNum k)).egress = [] → (s.dev.link (linkNum k)).snoops = [] →
      Settles (.hostLinkUp k cxl flit256 mld width rate ndr drs bisnp) s fun e =>
        let x := e.link (linkNum k)
        x.st = .up ∧ x.cxl = cxl ∧ x.flit256 = flit256 ∧ x.mld = mld ∧ x.width = width ∧ x.rate = rate ∧ x.ndr = ndr ∧ x.drs = drs ∧
          x.bisnp = bisnp) ∧
    (∀ (s : State) (k : Link) (ndr drs bisnp : Nat), (s.dev.link (linkNum k)).st ≠ .down → (s.dev.link (linkNum k)).egress = [] →
      (s.dev.link (linkNum k)).snoops = [] →
      Completes (.s2mCreditReturn k ndr drs bisnp) s fun d =>
        let x := s.dev.link (linkNum k)
        d.link (linkNum k) = { x with ndr := x.ndr + ndr, drs := x.drs + drs, bisnp := x.bisnp + bisnp } ∧ d.out = s.dev.out) ∧
    (∀ (s : State) (k : Link) (b : BitVec 5), (s.dev.link (linkNum k)).st ≠ .down →
      Completes (.hostLinkError k true b) s (fun d =>
        (d.link (linkNum k)).aerCor = (s.dev.link (linkNum k)).aerCor ||| BitVec.ofNat 32 (2 ^ b.toNat) ∧
        (d.source (srcHostLink (linkNum k))).sticky = true) ∧
      Completes (.hostLinkError k false b) s (fun d =>
        d = s.dev.modLink (linkNum k) fun x => { x with aerUnc := x.aerUnc ||| BitVec.ofNat 32 (2 ^ b.toNat) })) ∧
    (∀ (s : State) (k : Link) (n w : Nat) (rev : Bool), (s.dev.link (linkNum k)).widthReset = some n →
      widthOf (s.dev.linkSize (linkNum k)) (fun i => s.dev.laneGood (linkNum k) i && (s.dev.link (linkNum k)).lanes.getLsbD i) = (w, rev) →
      w ≠ 0 → w = (s.dev.link (linkNum k)).width → (s.dev.link (linkNum k)).egress = [] → (s.dev.link (linkNum k)).snoops = [] →
      Settles (.hostWidthResetDone k) s fun e =>
        e.link (linkNum k) = { s.dev.link (linkNum k) with widthReset := none, width := w, reversed := rev })) ∧
  (
    (∀ (s : State) (k : Link) (io containment : Bool) (key : BitVec 256), (s.dev.link (linkNum k)).st ≠ .down →
      (s.dev.ideSession (linkNum k)).isSome = true →
      Completes (.ideKmKeyProgramming k io containment key) s fun d =>
        let x := d.link (linkNum k)
        if io then x.ideIo = .secure ∧ x.ideKeys.1 = key ∧ x.ideMem = (s.dev.link (linkNum k)).ideMem
        else x.ideMem = (if containment then .containment else .skid) ∧ x.ideKeys.2 = key ∧ x.ideIo = (s.dev.link (linkNum k)).ideIo) ∧
    (∀ (s : State) (k : Link), (s.dev.link (linkNum k)).st ≠ .down →
      ((s.dev.link (linkNum k)).ideIo = .secure → Completes (.ideIntegrityFailure k true) s fun d =>
        (d.link (linkNum k)).ideIo = .insecure ∧ (d.source 0x903).sticky = true) ∧
      ((s.dev.link (linkNum k)).ideMem = .skid → (s.dev.link (linkNum k)).viral = false →
        Completes (.ideIntegrityFailure k false) s fun d =>
          (d.link (linkNum k)).ideMem = .failed ∧ (d.link (linkNum k)).viralDue = true ∧ (d.source 0x903).sticky = true)) ∧
    (∀ (s : State) (ld : Fin 32) (n : Fin 4) (x : Decoder), x.legal = true → (s.dev.ldLink ld.val).isSome = true →
      (x.dpaBase + x.span ≤ 2 ^ 44 → x.dpaBase / 2 ^ 41 = (x.dpaBase + x.span - 1) / 2 ^ 41 →
        Completes (.hdmDecoderCommit ld n x) s fun d => (d.ld ld.val).hdm.look n.val = some x) ∧
      (x.dpaBase / 2 ^ 41 ≠ (x.dpaBase + x.span - 1) / 2 ^ 41 → Completes (.hdmDecoderCommit ld n x) s fun d => d = s.dev)) ∧
    (∀ (s : State) (k : Link) (on : Bool), s.dev.linkLds (linkNum k) = [] →
      Settles (.biEnableWrite k on) s fun e => e.link (linkNum k) = { s.dev.link (linkNum k) with bi := on }) ∧
    (∀ (s : State) (k : Link),
      (Settles (.biEnableWrite k true) s fun e => (e.link (linkNum k)).bi = true ∧
        ∀ ld ∈ s.dev.linkLds (linkNum k), (e.ld ld).biId = (s.dev.link (linkNum k)).mld) ∧
      (Settles (.biEnableWrite k false) s fun e => (e.link (linkNum k)).bi = false)) ∧
    (∀ (s : State) (ld : Fin 32) (v : Fin 8), s.dev.ev.owed = [] → (s.dev.vec ld.val v.val).masked = true →
      (s.dev.vec ld.val v.val).pending = true → s.dev.vecsDead ld.val = false →
      Completes (.msixVectorUnmask ld v) s fun d =>
        Out.msix ld.val v.val ∈ d.out ∧ (d.vec ld.val v.val).masked = false))

/-- The tiering service. A move whose copies have drained switches its page (R361); an epoch ends only once TierEpoch x 4,096 boundaries
have passed, and the next counts from its end (R122); a queued page waits while its engine has a decode to do (R145), leaves the queue
untouched if it is no longer bright or a write of it is on its way, and else is read, coded, verified and moved, or marked, or its failure
counted (R122, R139, R141); a read promotion takes the oldest page off its queue, and moves it only where its region is Normal (R123). -/
def Obligations.TieringService : Prop :=
  (∀ (s : State) (m : Move), s.dev.tiers.moves.find? (·.id = m.id) = some m → m.placed = true → m.switched = false →
    s.dev.moveCopies m.id = false → s.dev.knotAt (m.attr.base + unitLeaf) (m.page % 512) = movingKnot m.dir m.token →
    knotState m.src = knotState m.dst → Settles (.moveCopyDrained m.id) s fun e => e = s.dev.switchMove m) ∧
  (∀ s : State,
    let n := s.dev.setting idTierEpoch 0 * 4096
    (n = 0 ∨ s.dev.clk.bnd < s.dev.tiers.epochFrom + n → Completes .tierEpochEnd s fun d => d = s.dev) ∧
    (n ≠ 0 → s.dev.tiers.epochFrom + n ≤ s.dev.clk.bnd → Completes .tierEpochEnd s fun d =>
      d.tiers.epochFrom = s.dev.tiers.epochFrom + n ∧ d.tiers.moves = s.dev.tiers.moves ∧
      ∀ e ∈ s.dev.tiers.demote, e ∈ d.tiers.demote)) ∧
  (∀ (s : State) (page : BitVec 32) (image : List Byte) (q : Nat × Nat), s.dev.tiers.demote.find? (·.1 = page.toNat) = some q →
    let d0 := { s.dev with tiers.demote := s.dev.tiers.demote.filter (·.1 ≠ page.toNat) }
    let a := d0.rangeAttr (page.toNat / 512)
    let k := d0.knotAt (a.base + unitLeaf) (page.toNat % 512)
    let stands := knotState k = 1 ∧ d0.tiers.owner.has (page.toNat / 512) = true ∧ d0.knotTakes a page.toNat = true ∧
      d0.pageHeld page.toNat = false ∧ (∀ i < 64, d0.pendingWrite (d0.knotLine k i) = false) ∧
      ∀ r ∈ d0.path.reqs, ¬(r.isWrite = true ∧ r.past2 = true ∧ r.attr.knotted = true ∧ r.page = page.toNat ∧ r.pool / 2 ^ 44 = d0.chain.index)
    ((s.dev.engineNext q.2).isSome = true → Settles (.demotionVerifyDone page image) s fun e => e = s.dev) ∧
    (s.dev.engineNext q.2 = none → ¬stands → Settles (.demotionVerifyDone page image) s fun e => e = d0) ∧
    (s.dev.engineNext q.2 = none → stands → Settles (.demotionVerifyDone page image) s fun e =>
      let (good, d1) := d0.fetchHeader a page.toNat []
      let (content, d2) := d1.pageContent a page.toNat k
      (good = false → e = d1) ∧ (good = true → content = none → e = d2) ∧
      ∀ x, good = true → content = some x → e = d2.demoteCoded q.2 page.toNat a k x image)) ∧
  (∀ (s : State) (page : BitVec 32) (image : List Byte), s.dev.tiers.demote.find? (·.1 = page.toNat) = none →
    Settles (.demotionVerifyDone page image) s fun e => e = s.dev) ∧
  (∀ (d : Dev) (engine page : Nat) (a : Attr) (k : BitVec 36) (content image : List Byte),
    let n := imgEnd (image.take 32) 15
    let r := d.tierRec (a.base + unitLeaf) (page % 512)
    (sizeClass n = none → d.demoteCoded engine page a k content image =
      d.setTierRec (a.base + unitLeaf) (page % 512) (mkRec (recHeat r) (recIdle r) true (recQueued r))) ∧
    ∀ c, sizeClass n = some c →
      let full := image.take n ++ zeros (1024 * (c + 1) - n)
      (imageDecodes full content = false → d.demoteCoded engine page a k content image = (d.bump 0x173).prismFault engine 1 page 0 k) ∧
      (imageDecodes full content = true → d.demoteCoded engine page a k content image = d.demoteTo page a k c full)) ∧
  (∀ (s : State) (page : Nat) (rest : List Nat), s.dev.tiers.readQ = page :: rest →
    let d0 := { s.dev with tiers.readQ := rest }
    let block := (d0.rangeAttr (page / 512)).base + unitLeaf
    let r := d0.tierRec block (page % 512)
    let d1 := d0.setTierRec block (page % 512) (mkRec (recHeat r) (recIdle r) (recIncompressible r) false)
    (d0.tiers.owner.has (page / 512) = false → Settles .readPromotion s fun e => e = d0) ∧
    (∀ x, d0.tiers.owner.has (page / 512) = true → (d1.pageRegion page).bind d1.regionOf = some x →
      Settles .readPromotion s fun e => e = if (d1.elastic (regionKey x)).st = .normal then (d1.brighten page slotTier).getD d1 else d1))

/-- Moves of whole ranges. An extent move copies page after page, its cursor stepping past each where the write buffer has room (R26), and
after the last has every entry that named its source name its destination (R362); a draining rank that holds nothing, has nothing moving
off it and no table lines is retired with its record, and otherwise its next page or extent starts to move, or waits, or where no frame is
free DRAIN_SHORT is raised (R222); a re-key puts a conversion entry in for each line of the page at its cursor that holds data, but for a
quarantined page (R183), and after the last the entries take the new key (R194). -/
def Obligations.ExtentMovesRankDrainRekey : Prop :=
  (∀ (s : State) (n : Fin 8) (m : ExtMove), s.dev.tiers.extMoves.look n.val = some m →
    (m.cursor < 512 → m.recallSlot = none → s.dev.wbRoomFor m.label 64 = true → Settles (.extentMovePage n) s fun e =>
      e.tiers.extMoves.look n.val = some { m with cursor := m.cursor + 1 } ∧ e.line.mem = s.dev.line.mem) ∧
    (m.cursor < 512 → s.dev.wbRoomFor m.label 64 = false → Settles (.extentMovePage n) s fun e => e = s.dev) ∧
    (512 ≤ m.cursor → Settles (.extentMovePage n) s fun e => e = s.dev) ∧
    (m.cursor < 512 ∨ m.switched = true → Settles (.extentMoveSwitch n) s fun e => e = s.dev) ∧
    (m.cursor = 512 → m.switched = false → (∀ w ∈ s.dev.line.wb, w.kind = .full) → s.dev.namers false m.src ≠ [] →
      Settles (.extentMoveSwitch n) s fun e =>
        e = each (s.dev.namers false m.src)
          ({ s.dev with tiers.extMoves := s.dev.tiers.extMoves.put n.val { m with switched := true } }.countSwitch m.job)
          fun d u => (d.reseat u.1 u.2 m.dstDev m.dst).rewriteExt u.1 u.2 (.extentMove n.val))) ∧
  (∀ (s : State) (ch : Fin 8) (rank : Fin 4),
    let c := s.dev.chan ch.val
    let phys := c.remap.val rank.val rank.val
    (c.draining.contains rank.val = false → Settles (.rankDrain ch rank) s fun e => e = s.dev) ∧
    (c.draining.contains rank.val = true → s.dev.onRank rank.val = [] → s.dev.movingOff rank.val = false →
      ((s.dev.rankFrames rank.val).1 + (s.dev.rankFrames rank.val).2) * 4096 ≤ s.dev.tableBase → c.retired.contains rank.val = false →
      Settles (.rankDrain ch rank) s fun e =>
        (e.chan ch.val).draining.contains rank.val = false ∧ (e.chan ch.val).retired = c.retired ++ [rank.val] ∧
        (e.chan ch.val).retiredPhys = c.retiredPhys ++ [phys] ∧ e.line = s.dev.line) ∧
    (c.draining.contains rank.val = true → s.dev.onRank rank.val = [] →
      s.dev.movingOff rank.val = true ∨ s.dev.tableBase < ((s.dev.rankFrames rank.val).1 + (s.dev.rankFrames rank.val).2) * 4096 →
      Settles (.rankDrain ch rank) s fun e => e = s.dev) ∧
    (∀ p rest, c.draining.contains rank.val = true → s.dev.onRank rank.val = .page p :: rest → s.dev.pageHeld p = false →
      (∀ d, s.dev.movePage p slotDrain = some d → Settles (.rankDrain ch rank) s fun e => e = d) ∧
      (s.dev.movePage p slotDrain = none → s.dev.noFrame (.page p) = false → Settles (.rankDrain ch rank) s fun e => e = s.dev) ∧
      (s.dev.movePage p slotDrain = none → s.dev.noFrame (.page p) = true → rest = [] → Settles (.rankDrain ch rank) s fun e =>
        e = s.dev.raise 0x109 .warning none (ch.val + rank.val * 8 + 2 ^ 32)))) ∧
  (∀ (s : State) (n : Fin 8) (x : Rekey), s.dev.line.rekey.look n.val = some x →
    (x.cursor < 512 →
      let a := s.dev.rekeyAttr x
      let page := x.unit2m * 512 + x.cursor
      let d := if x.knotted then (s.dev.fetchHeader a page []).2 else s.dev
      let held := d.quarantined a page = true ∨ d.wbRoomFor (d.moveLabel x.job) (d.dataLines x a x.cursor).length = false
      (held → Settles (.rekeyPage n) s fun e => e = d) ∧
      (¬held → Settles (.rekeyPage n) s fun e => e.line.rekey.look n.val = some { x with cursor := x.cursor + 1 })) ∧
    (x.cursor = 512 → Settles (.rekeyPage n) s fun e =>
      e = { s.dev with line.rekey := s.dev.line.rekey.put n.val { x with cursor := 513 } }.rekeyEnd n.val x) ∧
    (512 < x.cursor → Settles (.rekeyPage n) s fun e => e = s.dev))

/-- Capacity that comes and goes: the device's own offers (R126), the record of lost lines (R127), and the host's dynamic-capacity
commands: its configuration and its list of held extents (R257, R260), its answer to the oldest offer, which that answer takes off the
list of offers (R258), and a release, which marks the held extents it names (R258); with a wrong length, reserved bits, ranges that
overlap or name others' units each is refused, by its own code (R9, R258). The commands' layouts are the model's (PRESUMED, log 8). -/
def Obligations.CapacityOffersAndReleases : Prop :=
  (∀ (s : State) (ld : Fin 32) (n : Fin 16) (r : Region),
    (s.dev.conf.regions.find? fun r => r.home.isNone && r.ld = ld.val && r.entry = n.val) = some r →
    (s.dev.offerUnits r = 0 → Completes (.addOfferTimer ld n) s fun d => d = s.dev) ∧
    (0 < s.dev.offerUnits r → (s.dev.ld ld.val).exts.length < 8192 →
      Completes (.addOfferTimer ld n) s fun d => d = s.dev.offerOwn r (s.dev.offerUnits r))) ∧
  (∀ (s : State) (ld : Fin 32) (n : Fin 16) (b : Nat),
    let key := ld.val * 16 + n.val
    (s.dev.elastic key).lastRec = some b →
    (b + 4096 ≤ s.dev.clk.bnd → 0 < (s.dev.elastic key).lostSince → Completes (.capacityRecordInterval ld n) s fun d =>
      (d.elastic key).lastRec = some s.dev.clk.bnd ∧ (d.elastic key).lostSince = 0 ∧ Signals { s.dev with tiers := d.tiers } d) ∧
    (s.dev.clk.bnd < b + 4096 ∨ (s.dev.elastic key).lostSince = 0 → Completes (.capacityRecordInterval ld n) s fun d => d = s.dev)) ∧
  (∀ (s : State) (ld : Fin 32) (n : Fin 16), (s.dev.elastic (ld.val * 16 + n.val)).lastRec = none →
    Completes (.capacityRecordInterval ld n) s fun d => d = s.dev) ∧
  (∀ (s : State) (iss : Issuer) (inp : List Byte) (ld : Nat), Takes s → issuerLd iss = some ld →
    let d0 := s.dev.doorbell (mailDoorbell iss)
    let x := d0.ld ld
    (inp.length = 2 → field inp 1 1 < 8 → Completes (.getDynamicCapacityConfiguration iss inp) s fun d =>
      let n := min (field inp 0 1) (8 - field inp 1 1)
      RepliesStd d0 d iss .success ([8, BitVec.ofNat 8 n] ++ zeros 6 ++ ((List.range n).flatMap fun i => dcRegion (field inp 1 1 + i)) ++
        leBytes 4 8192 ++ leBytes 4 (8192 - x.heldExts.length) ++ leBytes 4 65536 ++ leBytes 4 65536)) ∧
    (inp.length = 8 → field inp 4 4 ≤ x.heldExts.length → Completes (.getDynamicCapacityExtentList iss inp) s fun d =>
      let n := min (min (field inp 0 4) (x.heldExts.length - field inp 4 4)) (((d0.mbox (issuerBox iss)).respLimit - 16) / 40)
      RepliesStd d0 d iss .success (leBytes 4 n ++ leBytes 4 x.heldExts.length ++ leBytes 4 x.extGen.toNat ++ zeros 4 ++
        ((x.heldExts.drop (field inp 4 4)).take n).flatMap Extent.bytes)) ∧
    (∀ c ∈ [Instr.addDynamicCapacityResponse iss inp, .releaseDynamicCapacity iss inp],
      (inp.length < 8 ∨ inp.length ≠ 8 + 24 * field inp 0 4 → Completes c s fun d => RepliesStd d0 d iss .invalidLength []) ∧
      (8 ≤ inp.length → inp.length = 8 + 24 * field inp 0 4 → updatedExtents inp = none →
        Completes c s fun d => RepliesStd d0 d iss .invalidInput [])) ∧
    (∀ l, 8 ≤ inp.length → inp.length = 8 + 24 * field inp 0 4 → updatedExtents inp = some l →
      (x.offers = [] → Completes (.addDynamicCapacityResponse iss inp) s fun d =>
        RepliesStd d0 d iss (if l = [] then .success else .invalidPa) []) ∧
      (∀ job rest, x.offers = job :: rest →
        let own := namesOnly l (x.unitsIn .offered (some job))
        (apart l = false → Completes (.addDynamicCapacityResponse iss inp) s fun d => RepliesStd d0 d iss .invalidExtentList []) ∧
        (apart l = true → own = false → Completes (.addDynamicCapacityResponse iss inp) s fun d => RepliesStd d0 d iss .invalidPa []) ∧
        (apart l = true → own = true → Completes (.addDynamicCapacityResponse iss inp) s fun d => AnsweredStd d iss .success [] ∧
          (d.ld ld).offers = if bit (field inp 4 1) 0 then x.offers else rest)) ∧
      (let held := namesOnly l ((x.exts.filter (·.st = .held)).flatMap fun e => (List.range e.len).map (e.start + ·))
       (apart l = false → Completes (.releaseDynamicCapacity iss inp) s fun d => RepliesStd d0 d iss .invalidExtentList []) ∧
       (apart l = true → held = false → Completes (.releaseDynamicCapacity iss inp) s fun d => RepliesStd d0 d iss .invalidPa []) ∧
       (apart l = true → held = true → Completes (.releaseDynamicCapacity iss inp) s fun d =>
         RepliesStd ((d0.doorbell 0x38C).markUnits ld (inRuns l) .held .releasing) d iss .success []))))

/-- The submission of a job, by each of its eleven commands: an input of the wrong length answers Invalid Payload Length; one whose
header, body or entries fail the checks of its kind, Invalid Input; with 7 or fewer cores none is taken (R395); Count 0 answers Success
with the no-work bit and takes no slot; with all 256 slots taken the answer is Job Slots Full; else the job takes the lowest free slot as
Queued, with the slot's generation, and the answer carries its JobId (R352 to R354); nothing else changes. POOL.ADD takes its commitment
with it (R369). -/
def Obligations.JobSubmissionTakesSlot : Prop :=
  ∀ (s : State) (iss : Issuer) (inp : List Byte), Takes s →
    let d0 := s.dev.doorbell (mailDoorbell iss)
    let count := field inp 4 4
    let refusal (st : Status) (noWork : Bool) (e : Dev) : Prop :=
      Replies d0 e iss st ([0, 0] ++ leBytes 4 (2 ^ 32 - 1)) noWork ∧ e.jobs = d0.jobs
    let queued (d : Dev) (slot : Nat) (j : Job) (e : Dev) : Prop :=
      let g := d.jobs.gens.val slot 0
      Replies (d.queueJob slot j) e iss .success ([0, 0] ++ leBytes 4 (slot + g % 2 ^ 24 * 256)) ∧
      e.job slot = some { j with gen := g, seq := d.jobs.seq, st := .queued } ∧ ∀ n ≠ slot, e.job n = d.job n
    let submits (c : Instr) (k : JKind) (plan : Dev → Job → Option Job) (take : Dev → Nat → Job → Dev × Job) : Prop :=
      (inp.length < 16 ∨ inp.length ≠ 16 + k.body + count * k.entry →
        Completes c s fun e => Replies d0 e iss .invalidLength (zeros 6) ∧ e.jobs = d0.jobs) ∧
      (16 ≤ inp.length → inp.length = 16 + k.body + count * k.entry →
        ((jobOf iss k inp).bind (plan d0) = none → Completes c s (refusal .invalidInput false)) ∧
        ∀ j, (jobOf iss k inp).bind (plan d0) = some j →
          (d0.coresUp ≤ 7 → Completes c s (refusal .internal false)) ∧
          (7 < d0.coresUp → count = 0 → Completes c s (refusal .success true)) ∧
          (7 < d0.coresUp → count ≠ 0 → lowestFree d0.jobs.slots.keys 256 = none → Completes c s (refusal .jobSlotsFull false)) ∧
          ∀ slot, 7 < d0.coresUp → count ≠ 0 → lowestFree d0.jobs.slots.keys 256 = some slot →
            Completes c s (queued (take d0 slot j).1 slot (take d0 slot j).2))
    let plain : Dev → Nat → Job → Dev × Job := fun d _ j => (d, j)
    submits (.copy iss inp) .copy Dev.planCopy plain ∧
    submits (.fill iss inp) .fill Dev.planFill plain ∧
    submits (.scrub iss inp) .scrub Dev.planScrub plain ∧
    submits (.sanitize iss inp) .sanitize Dev.planSanitize plain ∧
    submits (.migrate iss inp) .migrate Dev.planMigrate plain ∧
    submits (.tier iss inp) .tier Dev.planTier plain ∧
    submits (.rekey iss inp) .rekey Dev.planRekey plain ∧
    submits (.poolRelease iss inp) .poolRelease Dev.planRelease plain ∧
    submits (.moduleReplace iss inp) .moduleReplace Dev.planReplace plain ∧
    submits (.prismStream iss inp) .prismStream Dev.planStream plain ∧
    submits (.poolAdd iss inp) .poolAdd Dev.planAdd Dev.takeAdd

/-- JOB.STATUS answers with the fields of a live job of the caller, or of its finished record (R355, R358); JOB.CANCEL takes a queued job
out at once as Cancelled, leaves word with an active one, and answers a finished one with its state (R359). -/
def Obligations.JobStatusAndCancel : Prop :=
  ∀ (s : State) (iss : Issuer) (inp : List Byte), Takes s →
    let d0 := s.dev.doorbell (mailDoorbell iss)
    let id := field inp 0 4
    inp.length = 8 → rsvd inp 4 4 = true →
    (∀ slot j, d0.liveJob iss id = some (slot, j) →
      Completes (.jobStatus iss inp) s (fun d => Replies d0 d iss .success ({ j with result := 0 }.bytes j.st j.reason)) ∧
      (j.st = .queued → Completes (.jobCancel iss inp) s fun d =>
        d.job slot = none ∧ Answered d iss .success (4#8 :: zeros 5)) ∧
      (j.st = .active → Completes (.jobCancel iss inp) s fun d =>
        Replies (d0.setJob slot { j with cancel := true }) d iss .success (1#8 :: zeros 5))) ∧
    (∀ r, d0.liveJob iss id = none → d0.pastJob iss id = some r →
      Completes (.jobStatus iss inp) s (fun d => Replies d0 d iss .success r.bytes) ∧
      Completes (.jobCancel iss inp) s (fun d => Replies d0 d iss .success (BitVec.ofNat 8 (jstateNum r.st) :: zeros 5) true)) ∧
    (d0.liveJob iss id = none → d0.pastJob iss id = none →
      Completes (.jobStatus iss inp) s (fun d => Replies d0 d iss .invalidInput (zeros 62)) ∧
      Completes (.jobCancel iss inp) s (fun d => Replies d0 d iss .invalidInput (zeros 6)))

/-- The jobs that move data, by their batches: a job with no request of its own on its way and nothing held issues one through the service
engines' queue, where that has an entry for its class: the read of the next line, the write of the line it holds, or a read of the next
physical line that is judged as patrol scrub's are (R26, R40, R216, R234, R367). With a request on its way it waits. What an answer brings
is held; a write's answer counts the line, and the job ends with its last. What a batch is, is the model's (log 29). Jobs on media and the
jobs of the pool. SANITIZE skips a unit without an extent and resets a direct one, once nothing holds it, to zeros under the job's label
(R113, R365); a stream job whose StreamSlice is over while one of its class waits yields its engine at the boundary (R46, R156, R157), and
works through a descriptor once its input is at hand and its engine has no page's work before it (R145); the fill of a POOL.ADD offers its
extents (R369); a fill that a cinch waits for leaves its list (R346); a POOL.RELEASE ends at its timeout with what is still held (R369); a
phase of a MODULE.REPLACE ends where what it waits for has come about, and phase 5 takes the SPD (R441, R442). -/
def Obligations.JobBatchesAndSteps : Prop :=
  (
    (∀ (s : State) (slot lines k i : Nat) (j : Job), 0 < lines →
      let d := s.dev
      let free := d.power.quiet = false ∧ d.serviceRoom ((jobReq .read 0 0 j.label).cls) = true
      (d.working slot .copy = some j →
        let (a, b, _) := copyEntryOf (j.entries.getD k [])
        (j.sent = true → Completes (.copyBatchDone slot lines) s fun e => e = d) ∧
        (lineIn (j.entries.map fun e => (copyEntryOf e).2.2 / 64) j.pos = some (k, i) → j.sent = false → free →
          (j.hold = none → j.buf = none → (d.regionAt (field j.body 0 1) (a + 64 * i)).isSome = true →
            Completes (.copyBatchDone slot lines) s fun e => Issued d e slot j (jobReq .read (field j.body 0 1) (a + 64 * i) j.label)) ∧
          (∀ x, j.hold = some x → j.buf = none → (d.regionAt (field j.body 1 1) (b + 64 * i)).isSome = true →
            Completes (.copyBatchDone slot lines) s fun e => Issued d e slot j
              { jobReq .write (field j.body 1 1) (b + 64 * i) j.label with data := x.getD 0, poison := x.isNone }))) ∧
      (d.working slot .fill = some j →
        let a := field (j.entries.getD k []) 0 8 + 64 * i
        (j.sent = true → Completes (.fillBatchDone slot lines) s fun e => e = d) ∧
        (lineIn (j.entries.map fun e => field e 8 4 / 64) j.pos = some (k, i) → j.sent = false → j.buf = none → free →
          (d.regionAt (field j.body 0 1) a).isSome = true → Completes (.fillBatchDone slot lines) s fun e => Issued d e slot j
            { jobReq .write (field j.body 0 1) a j.label with data := patternLine j.body })) ∧
      (∀ x rest, d.working slot .scrub = some j → j.todo = x :: rest →
        (j.sent = true → Completes (.scrubBatchDone slot lines) s fun e => e = d) ∧
        (j.sent = false → j.buf = none → free → Completes (.scrubBatchDone slot lines) s fun e => Issued d e slot j
          { jobReq .read 0 0 j.label with scrub := some (homeLine (x / 16) (x % 16 * max 1 d.dram.lines + j.pos)) }))) ∧
    (∀ (d : Dev) (slot k i : Nat) (j : Job) (y : Answer), j.sent = false → j.buf = some y →
      (d.working slot .copy = some j → lineIn (j.entries.map fun e => (copyEntryOf e).2.2 / 64) j.pos = some (k, i) →
        (j.hold = none → d.copyStepJob slot = some (d.setJob slot { j with hold := some y.line, buf := none })) ∧
        (∀ x, j.hold = some x → d.copyStepJob slot = some (d.setJob slot
          { j with pos := j.pos + 1, done := j.pos + 1, detail1 := j.detail1 + flag x.isNone, hold := none, buf := none, ending := j.pos + 1 = j.total }))) ∧
      (d.working slot .fill = some j → lineIn (j.entries.map fun e => field e 8 4 / 64) j.pos = some (k, i) →
        d.fillStepJob slot = some (d.setJob slot { j with pos := j.pos + 1, done := j.pos + 1, hold := none, buf := none, ending := j.pos + 1 = j.total })) ∧
      (∀ x rest, d.working slot .scrub = some j → j.todo = x :: rest → j.pos + 1 < max 1 d.dram.lines →
        d.scrubStepJob slot = some (d.setJob slot { j with pos := j.pos + 1, done := j.done + 1, buf := none, ending := false }))) ∧
    (∀ (s : State) (slot lines : Nat),
      Completes (.copyBatchDone slot lines) s (fun d => d = repeatStep (fun d => d.copyStepJob slot) (4 * lines) s.dev) ∧
      Completes (.fillBatchDone slot lines) s (fun d => d = repeatStep (fun d => d.fillStepJob slot) (2 * lines) s.dev) ∧
      Completes (.scrubBatchDone slot lines) s (fun d => d = repeatStep (fun d => d.scrubStepJob slot) (2 * lines) s.dev))) ∧
  (
    (∀ (s : State) (slot u : Nat) (rest : List Nat) (j : Job),
      s.dev.working slot .sanitize = some j → j.todo = u :: rest →
      (s.dev.regionAt (field j.body 0 1) (u * mib2) = none → Settles (.sanitizeRangeDone slot) s fun e =>
        e = s.dev.sanitizeNext slot fun j => { j with detail1 := j.detail1 + 1 }) ∧
      ∀ r : Region, s.dev.regionAt (field j.body 0 1) (u * mib2) = some r →
      (s.dev.placeAt (field j.body 0 1) u = none → Settles (.sanitizeRangeDone slot) s fun e => e = s.dev.sanitizeNext slot id) ∧
      (∀ x place, s.dev.placeAt (field j.body 0 1) u = some (x, place) → x.dev = s.dev.chain.index → x.st = .held →
        (s.dev.unitHeld r.knotted place = true → Settles (.sanitizeRangeDone slot) s fun e => e = s.dev) ∧
        (r.kind ≠ .shared → s.dev.unitHeld r.knotted place = false →
          (r.knotted = false → Settles (.sanitizeRangeDone slot) s fun e =>
            e = ((s.dev.runUnder j.label 32768).fillFrame (r.direct (extKey (s.dev.extEntry (field j.body 0 1) u))) place).sanitizeNext slot id) ∧
          (r.knotted = true → s.dev.rangeBusy place = false → Settles (.sanitizeRangeDone slot) s fun e =>
            e = (s.dev.takePages place).2.sanitizeNext slot fun j => { j with
              detail0 := j.detail0 + ((List.range 512).filter fun i => s.dev.knotTakes (s.dev.rangeAttr place) (place * 512 + i)).length
              marks := place :: j.marks })))) ∧
    (∀ (s : State) (e slot since : Nat) (j : Job), (s.dev.prism.stream.find? fun x => x.2.1 = slot) = some (e, slot, since) →
      s.dev.job slot = some j →
      (since + s.dev.setting idStreamSlice 0 ≤ s.dev.clk.bnd + 1 →
        (s.dev.streamWaiters.any fun w => decide (w.2.label.toNat / 64 ≤ j.label.toNat / 64)) = true → slot ∉ s.dev.prism.yields →
        Completes (.streamSliceExpiry slot) s fun d => d = { s.dev with prism.yields := s.dev.prism.yields ++ [slot] }) ∧
      (s.dev.clk.bnd + 1 < since + s.dev.setting idStreamSlice 0 → Completes (.streamSliceExpiry slot) s fun d => d = s.dev)) ∧
    (∀ (d : Dev) (e slot : Nat) (j : Job), d.prism.yields = [slot] → d.sliceOver slot d.clk.bnd = true → d.streamEngine slot = some e →
      d.job slot = some j → j.streamReady = false →
      d.streamYields = { d with prism.yields := [], prism.stream := d.prism.stream.del e }.setJob slot { j with from_ := d.clk.bnd }) ∧
    (∀ (s : State) (slot : Nat) (coded : List Byte),
      let d0 := s.dev.streamPump slot
      (∀ j e, d0.working slot .prismStream = some j → d0.streamEngine slot = some e → j.streamReady = true → d0.streamTurn e = true →
        Completes (.streamDescriptorDone slot coded) s fun d => d = (d0.runDescriptor slot j coded).streamPump slot) ∧
      (d0.working slot .prismStream = none ∨ d0.streamEngine slot = none →
        Completes (.streamDescriptorDone slot coded) s fun d => d = d0)) ∧
    (∀ (s : State) (slot : Nat),
      (∀ j, s.dev.working slot .poolAdd = some j → j.pos = 1 → Completes (.poolAddFillDone slot) s fun d =>
        d = (each (s.dev.toFill slot) s.dev fun d e => (d.runUnder j.label 32768).fillFrame (e.2.direct e.2.key) e.1).offerJob slot) ∧
      (s.dev.working slot .poolAdd = none → Completes (.poolAddFillDone slot) s fun d => d = s.dev)) ∧
    (∀ (s : State) (n : Nat) (x : Sheet) (c : Cinch), s.dev.conf.sheet = some x → x.cinch = some c → Completes (.zeroFillDone n) s fun d =>
      d = { s.dev with conf.sheet := some { x with cinch := some { c with fills := c.fills.filter (· ≠ n) } } }) ∧
    (∀ (s : State) (n : Nat), s.dev.conf.sheet = none → Completes (.zeroFillDone n) s fun d => d = s.dev) ∧
    (∀ (s : State) (slot : Nat) (j : Job), s.dev.working slot .poolRelease = some j → j.pos = 1 →
      let t := field j.body 2 2
      (t ≠ 0 → j.from_ + t * 4096 ≤ s.dev.clk.bnd → Completes (.poolReleaseTimeout slot) s fun d =>
        let left := (s.dev.heldUnits (field j.body 0 1) j.todo).length
        d.job slot = some { j with done := j.total - left, detail0 := j.total - left, detail1 := left, ending := true }) ∧
      (t = 0 ∨ s.dev.clk.bnd < j.from_ + t * 4096 → Completes (.poolReleaseTimeout slot) s fun d => d = s.dev)) ∧
    (∀ (s : State) (slot : Nat) (spd : Option Spd) (j : Job), s.dev.working slot .moduleReplace = some j →
      let c := s.dev.hchan j.repSlot
      let ends (holds : Prop) (e : Dev) : Prop :=
        (holds → Completes (.moduleReplacePhaseEnd slot spd) s fun d => d = e) ∧
        (¬holds → Completes (.moduleReplacePhaseEnd slot spd) s fun d => d = s.dev)
      (j.pos = 1 → ends ((s.dev.servedOn j.repSlot).isEmpty = true ∧ (s.dev.chan (j.repSlot / 2)).copy = none) (s.dev.nextPhase slot)) ∧
      (j.pos = 2 → ends (s.dev.slotLive j.repSlot = false ∧ j.from_ + beats5ms ≤ s.dev.clk.bnd) (s.dev.nextPhase slot)) ∧
      (j.pos = 3 → ends (c.removed = true) (s.dev.nextPhase slot)) ∧
      (j.pos = 4 → ends (c.present = true ∧ c.removed = false) (s.dev.nextPhase slot)) ∧
      (j.pos = 6 → ends (c.st = .on ∧ c.good = false) (s.dev.nextPhase slot)) ∧
      (j.pos = 9 → ends True ((s.dev.zeroRanks j.repSlot).nextPhase slot)) ∧
      (∀ m, j.pos = 5 → (spd.orElse fun _ => c.mod) = some m →
        (c.st = .retired → Completes (.moduleReplacePhaseEnd slot spd) s fun d => d = s.dev.failJob slot .internal) ∧
        (c.st ≠ .retired → Completes (.moduleReplacePhaseEnd slot spd) s fun d => d = s.dev.checkModule slot j.repSlot m))))

/-- The staging sheet. SHEET.OPEN opens a local sheet to its issuer, with its lease from this boundary; SHEET.SET stages its entries, a
later one over an earlier one of the same setting, or answers what is wrong with which entry, and stages none; SHEET.READ answers with the
value in force and, to the owner, the staged one; SHEET.CHECK answers the first rule that fails; SHEET.SLIP discards the sheet (R338,
R340, R343, R344, R348). The owner's commands renew the lease, and a lease that runs out ends the sheet and leaves NOT_OPEN for its former
owner (R339). Regions: REGION.STAGE and REGION.REMOVE stage an entry of the owner's sheet, or answer why they do not, and change nothing
in force; REGION.READ answers with a region in force, and all zeros where the entry has none (R371 to R373). -/
def Obligations.SheetAndRegionStaging : Prop :=
  (
    (∀ (s : State) (iss : Issuer) (inp : List Byte), Takes s →
      let d0 := s.dev.doorbell (mailDoorbell iss)
      let box := issuerBox iss
      (inp.length = 8 → field inp 0 1 = 0 → field inp 2 2 ≠ 0 → rsvd inp 1 1 = true → rsvd inp 4 4 = true → d0.conf.sheet = none →
        d0.conf.opening = none → Completes (.sheetOpen iss inp) s fun d =>
          d.conf.sheet = some { id := 0, chain := false, owner := box, ownerDev := d0.chain.index, lease := field inp 2 2, leaseFrom := d0.clk.bnd } ∧
          Answered d iss .success (zeros 6)) ∧
      (∀ x l, d0.sheetGate box = none → d0.conf.sheet = some x → x.cinch = none → inp.length = 8 + 16 * field inp 0 2 → rsvd inp 2 6 = true →
        field inp 0 2 ≠ 0 → d0.readEntries x ((List.range (field inp 0 2)).map fun k => slice inp (8 + 16 * k) 16) 0 [] = .ok l →
        (l.foldl stageEntry x.staged).length ≤ 16384 → Completes (.sheetSet iss inp) s fun d =>
          d.conf.sheet = some { x with staged := l.foldl stageEntry x.staged, leaseFrom := d0.clk.bnd } ∧
          Answered d iss .success (leBytes 2 0xFFFF ++ leBytes 4 (l.foldl stageEntry x.staged).length) ∧
          d.conf.cur = d0.conf.cur ∧ d.conf.regions = d0.conf.regions ∧ d.line = d0.line) ∧
      (let answers (st : Status) (fail n : Nat) (noWork : Bool) : Prop := Completes (.sheetSet iss inp) s fun d =>
         Answered d iss st (leBytes 2 fail ++ leBytes 4 n) noWork ∧ d.conf.cur = d0.conf.cur ∧ d.conf.regions = d0.conf.regions ∧
         d.conf.sheet.map (·.staged) = d0.conf.sheet.map (·.staged)
       let count := field inp 0 2
       (inp.length < 8 ∨ inp.length ≠ 8 + 16 * count → Completes (.sheetSet iss inp) s fun d => Answered d iss .invalidLength (zeros 6)) ∧
       (8 ≤ inp.length → inp.length = 8 + 16 * count →
         (∀ st, d0.sheetGate box = some st → answers st 0xFFFF 0 false) ∧
         (∀ x, d0.sheetGate box = none → d0.conf.sheet = some x →
           (x.cinch.isSome = true → answers .cinchPending 0xFFFF x.staged.length false) ∧
           (x.cinch = none → rsvd inp 2 6 = false → answers .invalidInput 0xFFFF x.staged.length false) ∧
           (x.cinch = none → rsvd inp 2 6 = true → count = 0 → answers .success 0xFFFF x.staged.length true) ∧
           (∀ st k, x.cinch = none → rsvd inp 2 6 = true → count ≠ 0 →
             d0.readEntries x ((List.range count).map fun k => slice inp (8 + 16 * k) 16) 0 [] = .error (st, k) →
             answers st k x.staged.length false)))) ∧
      (∀ row, inp.length = 8 → rsvd inp 5 3 = true → settingRow (field inp 0 2) = some row →
        d0.entryDev true (field inp 4 1) = some d0.chain.index → field inp 2 2 < row.count →
        settingLegal row (field inp 2 2) (settingDefault (field inp 0 2) (field inp 2 2)) = true → d0.ownsSheet box = false →
        Completes (.sheetRead iss inp) s fun d =>
          let v := d0.setting (field inp 0 2) (field inp 2 2)
          Replies d0 d iss .success (zeros 6 ++ leBytes 8 v ++ leBytes 8 v)) ∧
      (∀ x, inp = [] → d0.sheetGate box = none → d0.conf.sheet = some x →
        (x.staged = [] → Completes (.sheetCheck iss inp) s fun d => Answered d iss .success (zeros 14) true) ∧
        (x.staged ≠ [] → x.chain = false → d0.checkSheet false x.staged = none → Completes (.sheetCheck iss inp) s fun d =>
          Answered d iss .success (zeros 14)) ∧
        (∀ f, x.staged ≠ [] → x.chain = false → d0.checkSheet false x.staged = some f → Completes (.sheetCheck iss inp) s fun d =>
          Answered d iss .ruleFailed
            ([BitVec.ofNat 8 f.rule, BitVec.ofNat 8 f.dev] ++ leBytes 2 f.id ++ leBytes 2 f.index ++ leBytes 2 f.entry ++ zeros 6))) ∧
      (∀ x, inp.length = 8 → field inp 0 1 = 0 → rsvd inp 1 7 = true → d0.sheetGate box = none → d0.conf.sheet = some x → x.cinch = none →
        x.chain = false → Completes (.sheetSlip iss inp) s fun d =>
          d.conf.sheet = none ∧ d.conf.cur = d0.conf.cur ∧ Answered d iss .success (zeros 6))) ∧
    (∀ (s : State) (x : Sheet), s.dev.conf.sheet = some x → x.ownerDev = s.dev.chain.index → x.cinch = none →
      (s.dev.clk.bnd < x.leaseFrom + x.lease * 4096 → Completes .sheetExpired s fun d => d = s.dev) ∧
      (x.leaseFrom + x.lease * 4096 ≤ s.dev.clk.bnd → x.chain = false → Completes .sheetExpired s fun d =>
        d.conf.sheet = none ∧ x.owner ∈ d.conf.expired ∧ d.sheetGate x.owner = some .notOpen))) ∧
  (
    ∀ (s : State) (iss : Issuer) (inp : List Byte), Takes s →
      let d0 := s.dev.doorbell (mailDoorbell iss)
      let box := issuerBox iss
      (∀ x r, inp.length = 152 → d0.regionGate box = none → d0.conf.sheet = some x → readRegion inp none = some r → r.size ≠ 0 →
        (stageEntry x.staged (.region r)).length ≤ 16384 → Completes (.regionStage iss inp) s fun d =>
          Replies { d0 with conf.sheet := some { x with staged := stageEntry x.staged (.region r) } } d iss .success (zeros 6)) ∧
      (∀ c n, (c, n) ∈ [(Instr.regionStage iss inp, 152), (.regionRemove iss inp, 8)] →
        (inp.length ≠ n → Completes c s fun d => Replies d0 d iss .invalidLength (zeros 6)) ∧
        ∀ st, inp.length = n → d0.regionGate box = some st → Completes c s fun d => Replies d0 d iss st (zeros 6)) ∧
      (∀ x, inp.length = 152 → d0.regionGate box = none → d0.conf.sheet = some x →
        (readRegion inp none = none → Completes (.regionStage iss inp) s fun d => Replies d0 d iss .invalidInput (zeros 6)) ∧
        ∀ r, readRegion inp none = some r → (r.size = 0 → Completes (.regionStage iss inp) s fun d => Replies d0 d iss .invalidInput (zeros 6)) ∧
          (r.size ≠ 0 → 16384 < (stageEntry x.staged (.region r)).length →
            Completes (.regionStage iss inp) s fun d => Replies d0 d iss .sheetFull (zeros 6))) ∧
      (∀ x, inp.length = 8 → d0.regionGate box = none → d0.conf.sheet = some x → field inp 0 1 < 32 → field inp 1 1 < 16 → rsvd inp 2 6 = true →
        ((stagedRegions x.staged d0.conf.regions).any fun r => r.home.isNone && r.ld = field inp 0 1 && r.entry = field inp 1 1) = true →
        (stageEntry x.staged (.remove (field inp 0 1) (field inp 1 1))).length ≤ 16384 → Completes (.regionRemove iss inp) s fun d =>
          Replies { d0 with conf.sheet := some { x with staged := stageEntry x.staged (.remove (field inp 0 1) (field inp 1 1)) } } d iss
            .success (zeros 6)) ∧
      (inp.length = 8 → d0.entryDev true (field inp 2 1) = some d0.chain.index → field inp 0 1 < 32 → field inp 1 1 < 16 → rsvd inp 3 5 = true →
        let found := d0.conf.regions.find? fun r => r.home.isNone && r.ld = field inp 0 1 && r.entry = field inp 1 1
        (found = none → Completes (.regionRead iss inp) s fun d => Replies d0 d iss .success (zeros 46)) ∧
        (∀ r, found = some r → Completes (.regionRead iss inp) s fun d =>
          let u := (d0.regionUse r d0.chain.index).1
          Replies d0 d iss .success
            ([BitVec.ofNat 8 (1 + 2 * kindNum r.kind + 8 * r.attr), r.label, BitVec.ofNat 8 r.key, BitVec.ofNat 8 u.1] ++ leBytes 2 r.set.toNat ++
              leBytes 8 (r.base * mib2) ++ leBytes 4 r.size ++ leBytes 4 (d0.visible r none) ++ leBytes 4 u.2.1 ++ zeros 4 ++ leBytes 8 u.2.2 ++
              zeros 8))))

/-- A cinch. SHEET.CINCH in Mode 00h starts one for the second boundary from here, as a background command (R345, R346); once its fills
are done and the notice of a widened bound is 4,096 boundaries old it is prepared, and Mode 00h names its beat then; at N - 64 the
coordinator decides, and not before, and keeps what it knows of the peers' contracts (R347; log 79); during beat N - 1 a local sheet that
still passes its rules writes the next banks, and one that fails applies nothing. -/
def Obligations.CinchPreparesDecidesBanks : Prop :=
  (∀ (s : State) (iss : Issuer) (inp : List Byte) (x : Sheet), Takes s →
    let d0 := s.dev.doorbell (mailDoorbell iss)
    let kept (e : Dev) : Dev :=
      if e.ownsSheet (issuerBox iss) then e.modSheet fun x => { x with leaseFrom := if x.cinch.isNone then e.clk.bnd else x.leaseFrom } else e
    inp.length = 8 → rsvd inp 7 1 = true → d0.bgBusy iss = false → d0.sheetGate (issuerBox iss) = none → d0.conf.sheet = some x →
    (x.cinch = none → x.chain = false → field inp 6 1 = 0 → field inp 0 6 = 0 → Completes (.sheetCinch iss inp) s fun d =>
      d = kept (d0.startCinch iss x 0 (d0.clk.beat + 2))) ∧
    (x.cinch.isSome = true → field inp 6 1 ≤ 2 → Completes (.sheetCinch iss inp) s fun d =>
      Answered d iss .cinchPending (cinchBody 0 255 0 0) ∧ d.conf = d0.conf)) ∧
  (∀ (s : State) (x : Sheet) (c : Cinch), s.dev.conf.sheet = some x → x.cinch = some c →
    (c.phase = .preparing → c.fills = [] → c.preparedAt + 4096 ≤ s.dev.clk.bnd → c.ask = none → Completes .cinchPrepareDone s fun d =>
      d.conf.sheet = some { x with cinch := some { c with
        phase := .prepared, named := if c.mode = 0 then s.dev.clk.beat + 2 else c.named } }) ∧
    (c.fills ≠ [] → Completes .cinchPrepareDone s fun d => d = s.dev) ∧
    (64 < beatsTo s.dev.clk.beat c.named → Completes .chainCinchDecision s fun d => d = s.dev) ∧
    (beatsTo s.dev.clk.beat c.named ≤ 64 → x.chain = true → x.ownerDev = s.dev.chain.index → c.phase = .prepared →
      let body := leBytes 2 x.id.toNat ++ leBytes 6 c.named.toNat
      (s.dev.refusal x c = none → Completes .chainCinchDecision s fun d =>
        d = each s.dev.others ({ s.dev with chain.reports := c.reports.map fun (e : Nat × List Byte) =>
            (e.1, List.replicate 4 (0 : Byte) ++ ((Report.parse e.1 e.2).staged x.staged).bytes) }.modCinch fun c => { c with phase := .decided true })
          fun d t => d.mgmt t 0x13 body) ∧
      (∀ st rule t, s.dev.refusal x c = some (st, rule, t) → Completes .chainCinchDecision s fun d =>
        d = (each s.dev.others s.dev fun d t => d.mgmt t 0x14 body).failCinch st rule t)) ∧
    (beatsTo s.dev.clk.beat c.named ≠ 1 → Completes .cinchBankWrite s fun d => d = s.dev) ∧
    (beatsTo s.dev.clk.beat c.named = 1 → x.chain = false → c.phase = .prepared →
      (s.dev.checkSheet false x.staged = none → Completes .cinchBankWrite s fun d =>
        d.conf.next = some (c.named, stagedSettings x.staged s.dev.chain.index s.dev.conf.cur, x.staged) ∧
        d.conf.sheet = some { x with cinch := some { c with phase := .banked } } ∧ d.conf.cur = s.dev.conf.cur) ∧
      (∀ f, s.dev.checkSheet false x.staged = some f → Completes .cinchBankWrite s fun d =>
        d.conf.next = none ∧ d.conf.cur = s.dev.conf.cur ∧
        d.conf.sheet = some { x with cinch := none, leaseFrom := s.dev.clk.bnd }))) ∧
  (∀ s : State, s.dev.conf.sheet.bind (·.cinch) = none → ∀ c ∈ [Instr.cinchPrepareDone, .chainCinchDecision, .cinchBankWrite],
    Completes c s fun d => d = s.dev)

/-- Supplies, resets and the cold boot. VAUX falling, RST_N, and a rail out of tolerance while CORE_EN is high hold the device: everything
goes but what flash, the pins and the board keep, and the reset cause is kept, or taken as 4 where none is held (R461, R474, R475).
CORE_EN goes high once at power-up; CORE_PG is the board's. PERST_N resets its port and locks diagnostics (R386, R461). A cold boot runs
firmware or stays in recovery (R462, R465); firmware that has booted runs, with the reset cause reported (R466). Heat, the core supply and
pins. At the trip temperature THERMTRIP_N and FAULT_N go low (R481); the core supply moves only to a legal step near the last one (R473);
a monitor at 100 C or above makes throttling due for the next boundary, which ends once every monitor has read 97 C or below for 4,096
boundaries (R480); a pin takes its new level (R411). -/
def Obligations.SuppliesBootHeatPins : Prop :=
  (
    ∀ s : State,
      (s.dev.power.vaux = true → Completes (.vauxChange false) s fun d =>
        d.boot = .held ∧ d.power.vaux = false ∧ d.power.coreEn = false ∧ d.power.corePg = false ∧ d.power.cause = none ∧ d.hitch.gate = false ∧
        d.line = {} ∧ d.conf = {}) ∧
      (s.dev.power.vaux = false → Completes (.vauxChange true) s fun d =>
        d.boot = .held ∧ d.power.vaux = true ∧ d.power.coreEn = false ∧ d.line = {}) ∧
      (s.dev.power.vaux = true → s.dev.power.coreEn = false → s.dev.boot = .held → Completes .coreEnRelease s fun d =>
        d = { s.dev with power.coreEn := true, out := s.dev.out ++ [.pin "CORE_EN" true] }) ∧
      (s.dev.power.coreEn = true → Completes (.corePgChange true) s fun d => d = { s.dev with power.corePg := true }) ∧
      Completes (.corePgChange false) s (fun d => d = { s.dev with power.corePg := false }) ∧
      (s.dev.power.rst = false → Completes .rstNAssert s fun d =>
        d.boot = .held ∧ d.power.rst = true ∧ d.power.cause = s.dev.power.cause.orElse (fun _ => some (4, 0)) ∧ d.power.thermtrip = false ∧
        d.line = {} ∧ d.conf = {} ∧ d.jobs = {} ∧ d.flash.slots = s.dev.flash.slots ∧ d.flash.bcb = s.dev.flash.bcb) ∧
      (∀ r, s.dev.power.coreEn = true → Completes (.railFault r) s fun d => d.boot = .held ∧ d.power.corePg = false ∧ d.power.rst = true) ∧
      (s.dev.power.coreEn = false → s.dev.power.latched = true → Completes (.railFault .vddq) s fun d =>
        d.boot = .held ∧ d.power.cause = some (2, 0) ∧ d.power.coreEn = true) ∧
      (∀ p, Settles (.perstNAssert p) s fun e =>
        (e.port (hportNum p)).perst = true ∧ e.host.diagUntil = none ∧ e.home.failed = false) ∧
      (∀ p x8, (s.dev.port (hportNum p)).perst = true → Completes (.perstNDeassert p x8) s fun d =>
        (d.port (hportNum p)).perst = false ∧ (d.port (hportNum p)).halves = x8 ∧ d.line = s.dev.line) ∧
      (∀ x, s.dev.boot = .held → s.dev.power.vaux = true → s.dev.power.coreEn = true → s.dev.power.corePg = true →
        Completes (.coldBoot x) s fun d =>
          (d.boot = .firmware ∨ d.boot = .recovery) ∧ d.power.rst = false ∧ d.power.i3cAddr = x.i3cAddr ∧ d.chain.rootStrap = x.tetherRoot) ∧
      (∀ spds bad, s.dev.boot = .firmware → Completes (.firmwareBoot spds bad) s fun d =>
        d.boot = .running ∧ d.power.cause = none ∧ d.flash.memActive = true)) ∧
  (
    ∀ s : State,
      (s.dev.power.vaux = true → s.dev.power.thermtrip = false → Completes .thermtrip s fun d =>
        d.power.thermtrip = true ∧ d.fault.low = true ∧ .pin "THERMTRIP_N" false ∈ d.out ∧ d.line = s.dev.line) ∧
      (∀ mv, s.dev.boot = .running → s.dev.awake = true → s.dev.power.trimAt = none → mv = max 720 (min 800 (Config.vddTarget + 5)) →
        Completes (.vddCoreTrim mv true) s fun d =>
          d.power.vdd = mv ∧ d.power.trimAt = some s.dev.clk.bnd ∧ .pmbus mv ∈ d.out ∧ d.line = s.dev.line) ∧
      (∀ mv b, s.dev.power.trimAt = some b → s.dev.clk.bnd < b + 4096 → ∀ a, Completes (.vddCoreTrim mv a) s fun d => d = s.dev) ∧
      (∀ t v, s.dev.boot = .running → s.dev.power.st = .p0 → 100 ≤ t → s.dev.power.throttle = false →
        (∀ m, (s.dev.source (srcMonitor m)).retired = false) →
        Completes (.dieMonitorRead (List.replicate 24 t) (List.replicate 24 v)) s fun d =>
          d.power.throttleDue = true ∧ d.power.coolFrom = none ∧ ∀ m < 24, d.fault.monitors.look m = some (t, v)) ∧
      (∀ b, s.dev.power.coolFrom = some b → s.dev.power.throttle = true → b + 4096 ≤ s.dev.clk.bnd → Completes .throttleEnd s fun d =>
        d = { s.dev with power.throttle := false }) ∧
      (∀ b, s.dev.power.coolFrom = some b → s.dev.clk.bnd < b + 4096 → Completes .throttleEnd s fun d => d = s.dev) ∧
      (∀ (p : Fin 24) (h : Bool), Completes (.pinSourceEvent p h) s fun d => (d.pin p.val).high = h ∧ d.line = s.dev.line))

/-- Power states. POWER.ENTER sets the mode bits of its entry and suspends C0 (R448 to R450); POWER.STATUS reads the state (R385); each
step of an entry ends at its point, where a wake event that waits abandons the entry up to E3, and after step 6 the state is reached and
recorded (R450, R452); a partner that does not answer a doze notice ends the entry (R453). A wake goes step by step (R459); a step that
times out runs once more, then makes a cold wake (R460). A wake event counts only where Wake lets it (R454). A brown-out in low-power
mode, and VDDQ_D lost while the pads are latched, make a cold wake with causes 1 and 2 (R457). A host link enters and leaves its states
(R448). -/
def Obligations.PowerStates : Prop :=
  (∀ (s : State) (iss : Issuer) (inp : List Byte) (target : PState), Takes s →
    let d0 := s.dev.doorbell (mailDoorbell iss)
    (inp.length = 8 → issuerMc iss = true → field inp 0 1 = pstateNum target → target ≠ .p0 → 1 ≤ field inp 1 1 → field inp 1 1 ≤ 31 →
      rsvd inp 2 6 = true → d0.bgBusy iss = false → d0.enterBusy target = false → Completes (.powerEnter iss inp) s fun d =>
        d.power.entry = some { target := target, wake := BitVec.ofNat 8 (field inp 1 1), next := 1 } ∧
        d.power.wake = BitVec.ofNat 8 (field inp 1 1) ∧ d.power.suspended = true ∧ d.power.st = d0.power.st ∧ d.line = d0.line) ∧
    (inp = [] → Completes (.powerStatus iss inp) s fun d => Replies d0 d iss .success
      ([BitVec.ofNat 8 (pstateNum d0.power.st), BitVec.ofNat 8 (flag d0.dram.hot + 2 * flag d0.power.throttle + 4 * flag d0.power.aoLow)] ++
        leBytes 2 d0.power.vdd ++ [BitVec.ofNat 8 (d0.fault.monitors.foldl (fun n e => max n e.2.1) 0), BitVec.ofNat 8 d0.power.lastWake] ++
        zeros 8))) ∧
  (∀ (s : State) (e : Entry), s.dev.power.entry = some e →
    (e.next ≤ 3 → s.dev.power.pending ≠ [] → Completes .powerEntryStepDone s fun d =>
      d = s.dev.abandonEntry e.next (lowest s.dev.power.pending)) ∧
    (e.next = 1 → e.target = .p1 → s.dev.power.pending = [] → Completes .powerEntryStepDone s fun d =>
      d = { s.dev with power.entry := some { e with next := 2, dozing := [] } }) ∧
    (e.next = 4 → e.target ≠ .p1 → Completes .powerEntryStepDone s fun d =>
      d = { s.dev with dram.selfRefresh := true, power.entry := some { e with next := 5, dozing := [] } }) ∧
    (e.next = 6 → e.target ≠ .p3 → s.dev.power.pending = [] → Completes .powerEntryStepDone s fun d =>
      d.power.st = e.target ∧ d.power.entry = none ∧ Signals { s.dev with power := d.power } d) ∧
    (∀ p : Fin 3, (e.dozing.contains p.val = true → Completes (.dozeTimeout p) s fun d =>
        d = (s.dev.free 8).2.abandonEntry 3 (s.dev.free 8).1.toNat) ∧
      (e.dozing.contains p.val = false → Completes (.dozeTimeout p) s fun d => d = s.dev))) ∧
  (∀ (s : State) (w : Waking), s.dev.power.waking = some w → w.from_ ≠ .p1 →
    (w.step = 5 → w.again = none → Completes (.wakeStepReady []) s fun d =>
      d = ({ s.dev with dram.selfRefresh := false, power.waking := some { w with step := 6, again := none } }).heldWrites) ∧
    (∀ stuck, w.again = none → Completes (.wakeStepTimeout stuck) s fun d =>
      d = { s.dev with power.waking := some { w with again := some stuck } }) ∧
    (∀ stuck, w.again.isSome = true → w.step ≠ 5 → Completes (.wakeStepTimeout stuck) s fun d =>
      d = s.dev.coldWake 3 w.step ∧ d.boot = .held ∧ d.power.cause = some (3, w.step))) ∧
  (∀ (s : State) (c : WakeCause), c ≠ .fault → c ≠ .trip → s.dev.boot = .running → s.dev.power.entry = none → s.dev.power.waking = none →
    (s.dev.power.st = .p0 ∨ s.dev.power.wake.getLsbD (causeNum c) = false → Completes (.wakeEvent c) s fun d => d = s.dev) ∧
    (s.dev.power.st = .p2 → s.dev.power.pending = [] → s.dev.power.wake.getLsbD (causeNum c) = true → Completes (.wakeEvent c) s fun d =>
      d = { s.dev with power.waking := some { from_ := .p2, cause := causeNum c, step := 2 } })) ∧
  (∀ s : State,
    (s.dev.power.aoLow = true → Completes .brownOut s fun d => d.boot = .held ∧ d.power.cause = some (1, 0) ∧ d.power.coreEn = true) ∧
    (s.dev.power.aoLow = false → Completes .brownOut s fun d => d = s.dev) ∧
    (s.dev.power.latched = true → Completes .vddqDLoss s fun d => d.boot = .held ∧ d.power.cause = some (2, 0) ∧ d.power.coreEn = true) ∧
    (s.dev.power.latched = false → Completes .vddqDLoss s fun d => d = s.dev) ∧
    (∀ k : Link, (s.dev.link (linkNum k)).st = .up → Settles (.hostLinkPowerStateChange k .l1) s fun e => (e.link (linkNum k)).st = .l1) ∧
    (∀ k : Link, (s.dev.link (linkNum k)).st = .l1 → Settles (.hostLinkPowerStateChange k .l2) s fun e => (e.link (linkNum k)).st = .l2))

/-- The interrupt controller and the event logs. A doorbell write counts one event of its source, up to 255, and is delivered to its next
core when due, unless a core holds it; a number above 390h does nothing (R408, R409). The acknowledgement of the core that holds a source
frees it (R409). A source, or a vector, whose Tm boundaries have passed is delivered (R412, R413). The oldest record goes to the log it
names, which takes it while it holds fewer than 128, and otherwise notes the loss (R272, R406, R414). The event commands: a log's records
are read, oldest first, as many as the response limit holds, and cleared, all of them or those of given handles; the interrupt policies
are read and set; a notification is answered. The layouts are the model's (PRESUMED, log 8). -/
def Obligations.RecordsAndEventCommands : Prop :=
  (
    (∀ (s : State) (n : BitVec 10),
      let x := s.dev.ev.ints.val n.toNat {}
      (0x390 < n.toNat → Completes (.interruptDoorbell n) s fun d => d = s.dev) ∧
      (n.toNat ≤ 0x390 → n.toNat ≠ 0x38F → Completes (.interruptDoorbell n) s fun d =>
        let y := d.ev.ints.val n.toNat {}
        Signals s.dev d ∧ y.pending = min 255 (x.pending + 1) ∧ (x.holder.isSome = true → y.holder = x.holder) ∧
        (∀ c, x.holder = none → dueNow x.cn x.tm (x.count + 1) = true → s.dev.target x = some c → y.holder = some c) ∧
        (x.holder = none → dueNow x.cn x.tm (x.count + 1) = false → y.holder = none))) ∧
    (∀ (s : State) (c : Fin 16) (n : Nat),
      let x := s.dev.ev.ints.val n {}
      (x.holder = some c.val → Completes (.interruptAcknowledge c n) s fun d =>
        d.ev.ints.val n {} = { x with pending := 0, saturated := false, holder := none, count := 0, first := none } ∧
        d = { s.dev with ev := d.ev, fault := d.fault }) ∧
      (x.holder ≠ some c.val → Completes (.interruptAcknowledge c n) s fun d => d = s.dev)) ∧
    (∀ (s : State) (n : Nat),
      let x := s.dev.ev.ints.val n {}
      (x.holder = none → dueTime x.tm s.dev.clk.bnd x.first = true → Completes (.coalesceTimeExpiry (.source n)) s fun d =>
        d = (s.dev.deliver n).settle) ∧
      (dueTime x.tm s.dev.clk.bnd x.first = false → Completes (.coalesceTimeExpiry (.source n)) s fun d => d = s.dev)) ∧
    (∀ (s : State) (ld : Fin 32) (v : Fin 8),
      let due := dueTime (s.dev.setting idMsixTime (ld.val * 8 + v.val)) s.dev.clk.bnd (s.dev.vec ld.val v.val).first
      (due = true → s.dev.vecsDead ld.val = false → Completes (.coalesceTimeExpiry (.vector ld v)) s fun d =>
        d = (s.dev.fireVec ld.val v.val).settle) ∧
      (due = false → Completes (.coalesceTimeExpiry (.vector ld v)) s fun d => d = s.dev)) ∧
    (∀ (s : State) (r : Rec) (rest : List Rec) (ld : Nat), s.dev.ev.recQ = r :: rest → r.ld = some ld → r.mcOnly = false →
      let g := (s.dev.ld ld).log r.log
      (g.recs.length < 128 → Completes .recordDelivery s fun d =>
        d.ev.recQ = rest ∧ ((d.ld ld).log r.log).recs = g.recs ++ [(g.next, r)] ∧ ∀ n ≠ ld, (d.ld n).logs = (s.dev.ld n).logs) ∧
      (128 ≤ g.recs.length → Completes .recordDelivery s fun d =>
        d.ev.recQ = rest ∧ ((d.ld ld).log r.log) = { g with lost := g.lost + 1 })) ∧
    (∀ s : State, s.dev.ev.recQ = [] → Completes .recordDelivery s fun d => d = s.dev)) ∧
  (
    ∀ (s : State) (iss : Issuer) (inp : List Byte) (ld : Nat), Takes s → issuerLd iss = some ld →
      let d0 := s.dev.doorbell (mailDoorbell iss)
      (∀ k, logOf (field inp 0 1) = some k →
        let g := (d0.ld ld).log k
        (inp.length = 1 → Completes (.getEventRecords iss inp) s fun d =>
          let n := min g.recs.length (((d0.mbox (issuerBox iss)).respLimit - 32) / 128)
          RepliesStd d0 d iss .success
            ([BitVec.ofNat 8 (flag (g.lost ≠ 0) + 2 * flag (n < g.recs.length)), 0] ++ leBytes 2 (min 65535 g.lost) ++ zeros 16 ++ leBytes 2 n ++
              zeros 10 ++ (g.recs.take n).flatMap fun e => d0.recordBytes e.1 e.2)) ∧
        (inp.length = 6 + 2 * field inp 2 1 → field inp 1 1 = 1 → rsvd inp 3 3 = true → Completes (.clearEventRecords iss inp) s fun d =>
          AnsweredStd d iss .success [] ∧ (d.ld ld).log k = { g with recs := [], lost := 0 }) ∧
        (let hs := (List.range (field inp 2 1)).map fun i => field inp (6 + 2 * i) 2
         inp.length = 6 + 2 * field inp 2 1 → field inp 1 1 = 0 → rsvd inp 3 3 = true → (∀ h ∈ hs, ∃ e ∈ g.recs, e.1 = h) →
          Completes (.clearEventRecords iss inp) s fun d =>
            AnsweredStd d iss .success [] ∧ (d.ld ld).log k = { g with recs := g.recs.filter fun e => !hs.contains e.1, lost := 0 })) ∧
      (inp = [] → Completes (.getEventInterruptPolicy iss inp) s fun d =>
        RepliesStd d0 d iss .success ([LogKind.info, .warning, .failure, .fatal, .dc].map fun k =>
          if (d0.ld ld).evtMsix.contains k then BitVec.ofNat 8 (1 + 16 * (1 + logNum k)) else 0)) ∧
      (inp.length = 5 → (∀ b ∈ inp, b.toNat % 16 ≤ 1) → Completes (.setEventInterruptPolicy iss inp) s fun d =>
        AnsweredStd d iss .success [] ∧
        ∀ k, k ∈ (d.ld ld).evtMsix ↔ field inp (logNum k) 1 % 16 = 1) ∧
      (inp.length = 5 → (∃ b ∈ inp, 1 < b.toNat % 16) → Completes (.setEventInterruptPolicy iss inp) s fun d => RepliesStd d0 d iss .invalidInput []) ∧
      (inp = [] → Completes (.getMctpEventInterruptPolicy iss inp) s fun d =>
        RepliesStd d0 d iss .success (leBytes 2 d0.host.mctpPolicy.toNat)) ∧
      (inp.length = 2 → bits (field inp 0 2) 14 5 ≠ 0 → Completes (.setMctpEventInterruptPolicy iss inp) s fun d =>
        RepliesStd d0 d iss .invalidInput []) ∧
      (inp.length = 2 → bits (field inp 0 2) 14 5 = 0 → Completes (.setMctpEventInterruptPolicy iss inp) s fun d =>
        RepliesStd { d0 with host.mctpPolicy := BitVec.ofNat 16 (field inp 0 2) } d iss .success []) ∧
      (inp.length = 2 → Completes (.eventNotification iss inp) s fun d => RepliesStd d0 d iss .success []))

/-- Counters. COUNT.READ waits for the next boundary, which gives it values of one instant (R374); COUNT.WATCH programs a watch for the
next boundary, or frees it at once (R375); a word of the counter store that is lost reads all ones, is flagged and raises its source
(R425); the flag clears 4,096 boundaries after the restart; a snapshot is requested in Snapshot mode alone (R421); Ready and WatchOvf
clear by a write of 1 (R422). -/
def Obligations.CountersWatchesSnapshots : Prop :=
  (∀ (s : State) (iss : Issuer) (inp : List Byte), Takes s →
    let d0 := s.dev.doorbell (mailDoorbell iss)
    let n := field inp 2 2
    (inp.length = 8 → field inp 4 1 = 0 → rsvd inp 5 3 = true → field inp 0 2 + n ≤ 1536 → 8 + 8 * n ≤ (d0.mbox (issuerBox iss)).respLimit →
      (issuerLd iss).isSome = true →
      (n ≠ 0 → Completes (.countRead iss inp) s fun d => d = { d0 with host.asks := d0.host.asks ++
        [{ box := issuerBox iss, counts := issuerCounts iss, first := field inp 0 2, number := n, ld := issuerLd iss,
           dev := d0.devScope (issuerLd iss) }] }) ∧
      (n = 0 → Completes (.countRead iss inp) s fun d => Replies d0 d iss .success (zeros 6) true)) ∧
    (let w := field inp 0 1
     let e := field inp 2 2
     let owner := match iss with | .host ld _ => ld.val | .mc _ => 32
     inp.length = 16 → w < 32 → e ≤ 1535 → rsvd inp 4 4 = true → rsvd inp 14 2 = true → d0.ev.progs.look w = none →
      d0.ev.watches.look w = none →
      ((field inp 1 1 = 1 ∨ field inp 1 1 = 3) → eventAssigned e = true → e < 256 → Completes (.countWatch iss inp) s fun d =>
        let v := BitVec.ofNat 48 (field inp 8 6)
        Answered d iss .success (zeros 6) ∧
        d.ev.progs.look w = some { owner := owner, event := e, signal := bit (field inp 1 1) 1, preset := v, value := v }) ∧
      (field inp 1 1 = 0 → Completes (.countWatch iss inp) s fun d => Answered d iss .success (zeros 6) ∧ d.ev.progs.look w = none))) ∧
  (∀ (s : State) (i : Nat),
    (s.dev.ev.dead.contains i = false → Completes (.counterStoreError (.live i)) s fun d =>
      d = { s.dev with ev.ctr := s.dev.ev.ctr.put i (BitVec.allOnes 48), ev.invalid := s.dev.ev.invalid.put i s.dev.clk.bnd,
                       ev.dead := s.dev.ev.dead ++ [i] }.faultEvent 0x30D 2 (i % 2 ^ 32 + 0xFF * 2 ^ 32)) ∧
    (∀ b, s.dev.ev.invalid.look i = some b →
      (b + 4097 ≤ s.dev.clk.bnd → Completes (.counterInvalidClear i) s fun d => d = { s.dev with ev.invalid := s.dev.ev.invalid.del i }) ∧
      (s.dev.clk.bnd < b + 4097 → Completes (.counterInvalidClear i) s fun d => d = s.dev))) ∧
  (∀ (s : State) (ld : Fin 32),
    (s.dev.setting idCounterMode ld.val = 1 → Completes (.snapDoorbell ld) s fun d =>
      (d.ld ld.val).snap = { (s.dev.ld ld.val).snap with asked := true } ∧ ∀ n ≠ ld.val, d.ld n = s.dev.ld n) ∧
    (s.dev.setting idCounterMode ld.val ≠ 1 → Completes (.snapDoorbell ld) s fun d => d = s.dev) ∧
    Completes (.snapReadyClear ld) s (fun d =>
      (d.ld ld.val).snap = { (s.dev.ld ld.val).snap with ready := false } ∧ ∀ n ≠ ld.val, d.ld n = s.dev.ld n) ∧
    (∀ bits, Completes (.watchOvfClear ld bits) s fun d =>
      (∀ k w, k < 32 → s.dev.ev.watches.look k = some w → w.owner = ld.val → bits.getLsbD k = true → d.ev.watchOvf.getLsbD k = false) ∧
      (∀ k, (∀ e ∈ s.dev.ev.watches, e.1 = k → e.2.owner ≠ ld.val) → d.ev.watchOvf.getLsbD k = s.dev.ev.watchOvf.getLsbD k)))

/-- Faults. FAULT.READ answers with a source and changes nothing but, where the management controller asks, its sticky and severe bits
(R376); FAULT.PIN sets Hold, at once where no pulse runs (R377, R402); the pulse ends at Hold; a window makes a source severe once, at its
threshold, and a hard signature does whatever the window says (R392, R393); the reaction that is first due starts, and a part already
retired has none (R394, R399): a core is retired, a Tether link is held down; a core that an exception or a lost heartbeat stops restarts
with its event and record, and runs again from the running bank (R391, R395); a corrected SRAM word is counted with its row, an
uncorrectable one loses what its part holds (R196, R396); a lane's loss of lock and its corrected symbols are events of its source (R388).
-/
def Obligations.FaultsAndReactions : Prop :=
  (∀ (s : State) (iss : Issuer) (inp : List Byte), Takes s →
    let d0 := s.dev.doorbell (mailDoorbell iss)
    (inp.length = 8 → (sourceClass (field inp 0 2)).isSome = true → field inp 2 1 = 0 → rsvd inp 3 5 = true →
      Completes (.faultRead iss inp) s fun d =>
        let x := d0.source (field inp 0 2)
        Replies d0 d iss .success ([BitVec.ofNat 8 (flag x.sticky + 2 * flag x.severe + 4 * flag x.retired), 0] ++ leBytes 4 x.count ++
          leBytes 6 x.stickyBeat.toNat ++ zeros 2 ++ x.last.bytes)) ∧
    (inp.length = 8 → (sourceClass (field inp 0 2)).isSome = true → field inp 2 1 = 1 → rsvd inp 3 5 = true → issuerMc iss = true →
      Completes (.faultRead iss inp) s fun d =>
        let x := d0.source (field inp 0 2)
        Replies (d0.modSource (field inp 0 2) fun x => { x with sticky := false, severe := false }) d iss .success
          ([BitVec.ofNat 8 (flag x.sticky + 2 * flag x.severe + 4 * flag x.retired), 0] ++ leBytes 4 x.count ++
            leBytes 6 x.stickyBeat.toNat ++ zeros 2 ++ x.last.bytes)) ∧
    (inp.length = 8 → issuerMc iss = true → field inp 0 1 = 1 → rsvd inp 1 7 = true → Completes (.faultPin iss inp) s fun d =>
      d.fault.hold = true ∧ (d0.fault.pulse = false → d.fault.low = true) ∧ Answered d iss .success (zeros 6))) ∧
  (∀ s : State,
    (s.dev.fault.pulse = true → Completes .faultNPulseEnd s fun d =>
      d.fault.pulse = false ∧ d.fault.hold = s.dev.fault.hold ∧
      (s.dev.power.thermtrip = false → s.dev.boot ≠ .recovery → d.fault.low = s.dev.fault.hold)) ∧
    (s.dev.fault.pulse = false → Completes .faultNPulseEnd s fun d => d = s.dev)) ∧
  (∀ (x : Source) (cls window threshold now : Nat), 0 < x.fresh → cls ≠ 10 →
    let closed := ∃ b, x.opened = some b ∧ b + window ≤ now
    (closed → x.counted cls window threshold now =
      ({ x with opened := some now, count := x.fresh, fresh := 0, hard := false, made := decide (threshold ≤ x.fresh)
                severe := x.severe || x.hard || decide (threshold ≤ x.fresh) }, x.hard || decide (threshold ≤ x.fresh))) ∧
    (¬closed → x.made = true → x.hard = false → (x.counted cls window threshold now).2 = false ∧
      (x.counted cls window threshold now).1.count = x.count + x.fresh) ∧
    (¬closed → x.hard = true → (x.counted cls window threshold now).2 = true)) ∧
  (∀ (s : State) (n : BitVec 16) (rest : List Nat), s.dev.awake = true → s.dev.fault.due = n.toNat :: rest →
    ((s.dev.source n.toNat).retired = true → Settles (.faultReactionStart n) s fun e => e = { s.dev with fault.due := rest }) ∧
    (∀ c, c < 16 → n.toNat = srcCore c → (s.dev.source n.toNat).retired = false → (s.dev.core c).st = .running →
      Settles (.faultReactionStart n) s fun e => (e.core c).st = .retired ∧ (e.source n.toNat).retired = true ∧ e.line = s.dev.line) ∧
    (∀ p, p < 3 → n.toNat = srcTether p → (s.dev.source n.toNat).retired = false → Settles (.faultReactionStart n) s fun e =>
      (e.tport p).st = .heldDown ∧ (e.tport p).retiredLink = true)) ∧
  (∀ (s : State) (c : Fin 16),
    (∀ pc addr, s.dev.coreUp c.val = true → Completes (.coreException c pc addr) s fun d =>
      (d.core c.val).st = .restarting ∧ (d.source (srcCore c.val)).last.code = 2 ∧
      (d.source (srcCore c.val)).last.detail = BitVec.ofNat 128 (pc.toNat + addr.toNat * 2 ^ 36)) ∧
    (∀ pc addr, s.dev.coreUp c.val = false → Completes (.coreException c pc addr) s fun d => d = s.dev) ∧
    (s.dev.coreUp c.val = true → Completes (.coreHeartbeatLoss c) s fun d =>
      (d.core c.val).st = .restarting ∧ (d.source (srcCore c.val)).last.code = 1) ∧
    ((s.dev.core c.val).st = .restarting → Completes (.coreRestartDone c true) s fun d =>
      d = s.dev.setCore c.val { st := .running, bank := s.dev.flash.bank }) ∧
    ((s.dev.core c.val).st = .restarting → Completes (.coreRestartDone c false) s fun d =>
      (d.core c.val).st = .restarting ∧ (d.source (srcCore c.val)).last.code = 4 ∧ (d.source (srcCore c.val)).hard = true)) ∧
  (∀ (s : State) (part : Fin 14) (word : BitVec 32) (b : BitVec 8),
    (Settles (.sramError part word b true) s fun e =>
      let key := part.val * 2 ^ 32 + Config.sramRow part.val word.toNat % 2 ^ 32
      e.fault.rowCorr.val key 0 = s.dev.fault.rowCorr.val key 0 + 1 ∧ (e.source (0x300 + part.val)).last.code = if part.val = 3 ∧ b.toNat = 255 then 3 else 1) ∧
    (part.val = 3 → Settles (.sramError part word b false) s fun e => e = s.dev.directoryError (word.toNat / 16 % 131072) (word.toNat % 16)) ∧
    (part.val = 13 → Settles (.sramError part word b false) s fun e => e = s.dev.counterError (.live word.toNat)) ∧
    (part.val ≠ 3 → part.val ≠ 13 → Settles (.sramError part word b false) s fun e =>
      e = (s.dev.faultEvent (0x300 + part.val) 2 (word.toNat + 255 * 2 ^ 32)).sramLoss part.val word.toNat)) ∧
  (∀ (s : State) (l : Lane),
    let p := (laneOf l).1
    let n := (laneOf l).2
    (s.dev.laneActive p n = true → s.dev.laneResetting p n = false → p < 2 → Settles (.laneLossOfLock l) s fun e => e = s.dev.laneEvent p n 1) ∧
    (s.dev.laneActive p n = true → s.dev.laneResetting p n = false → 2 ≤ p → Settles (.laneLossOfLock l) s fun e =>
      e = (s.dev.laneEvent p n 1).startRetrain (p - 2)) ∧
    (s.dev.laneActive p n = false → s.dev.laneResetting p n = false → Settles (.laneLossOfLock l) s fun e => e = s.dev) ∧
    (s.dev.laneActive p n = true → Completes (.laneFecSymbolCount l) s fun d => d = s.dev.laneEvent p n 2) ∧
    (s.dev.laneActive p n = false → Completes (.laneFecSymbolCount l) s fun d => d = s.dev))

/-- Firmware images. Get FW Info reads the slots; Transfer FW writes a whole image into the slot that does not run; an image that fails
its checks, once it is in the bank that does not run, is not activated, and one that passes becomes the next boot's, or hands over pair by
pair (R350, R464): a pair restarts in the new bank, and after the last the new image runs; a pair whose self-check fails returns the
others (R351). The layouts are the model's (PRESUMED, log 8). -/
def Obligations.FirmwareUpdate : Prop :=
  (∀ (s : State) (iss : Issuer) (inp : List Byte), Takes s →
    let d0 := s.dev.doorbell (mailDoorbell iss)
    let slot := field inp 1 1
    (inp = [] → Completes (.getFwInfo iss inp) s fun d =>
      let staged := if d0.activeSlot = d0.flash.running then 0 else d0.activeSlot + 1
      let rev (k : Nat) : List Byte := leBytes 16 (if (d0.image k).isEmpty then 0 else imageVersion (d0.image k))
      RepliesStd d0 d iss .success ([2, BitVec.ofNat 8 (d0.flash.running + 1 + 8 * staged), 1] ++ zeros 13 ++ rev 0 ++ rev 1 ++ zeros 32)) ∧
    (128 ≤ inp.length → inp.length ≤ 128 + slotBytes → rsvd inp 2 2 = true → rsvd inp 8 120 = true → field inp 0 1 = 0 → d0.flash.xfer = none → (slot = 1 ∨ slot = 2) →
      slot ≠ d0.flash.running + 1 → Completes (.transferFw iss inp) s fun d =>
        RepliesStd { d0 with flash.slots := d0.flash.slots.put (slot - 1) (inp.drop 128), flash.xfer := none } d iss .success []) ∧
    (inp.length = 2 → field inp 0 1 ≤ 1 → (slot = 1 ∨ slot = 2) → 7 < d0.coresUp → d0.cinchPending = false → d0.flash.act = none →
      d0.bgBusy iss = false →
      let good := imageFails (d0.image (slot - 1)) = none ∧ ∀ id ∈ d0.settingsHeld, Config.implements (d0.image (slot - 1)) id = true
      let loaded : Dev := { d0 with flash.banks := d0.flash.banks.put (1 - d0.flash.bank) (imageBody (d0.image (slot - 1))) }
      (field inp 0 1 = 1 → good → Completes (.activateFw iss inp) s fun d => RepliesStd (d0.writeBlock (slot - 1)) d iss .success []) ∧
      (field inp 0 1 = 1 → ¬good → Completes (.activateFw iss inp) s fun d => RepliesStd d0 d iss .invalidInput []) ∧
      (field inp 0 1 = 0 → good → Completes (.activateFw iss inp) s fun d =>
        d.flash = { loaded.flash with act := some { slot := slot - 1, bank := 1 - d0.flash.bank, box := issuerBox iss } }) ∧
      (field inp 0 1 = 0 → ¬good → Completes (.activateFw iss inp) s fun d => RepliesStd loaded d iss .invalidInput [])) ∧
    (inp.length ≠ 2 → Completes (.activateFw iss inp) s fun d => RepliesStd d0 d iss .invalidLength []) ∧
    (inp.length = 2 → 1 < field inp 0 1 → Completes (.activateFw iss inp) s fun d => RepliesStd d0 d iss .invalidInput []) ∧
    (inp.length = 2 → field inp 0 1 ≤ 1 → slot ≠ 1 → slot ≠ 2 → Completes (.activateFw iss inp) s fun d => RepliesStd d0 d iss .invalidSlot [])) ∧
  (∀ (s : State) (a : Activation), s.dev.flash.act = some a → s.dev.awake = true →
    (a.pair < 7 → Completes (.fwPairHandover true) s fun d =>
      d.flash.act = some { a with pair := a.pair + 1 } ∧ (d.core (2 * a.pair)).bank = a.bank ∧ (d.core (2 * a.pair + 1)).bank = a.bank ∧
      d.flash.running = s.dev.flash.running) ∧
    (7 ≤ a.pair → Completes (.fwPairHandover true) s fun d => d.flash.act = none ∧ d.flash.running = a.slot ∧ d.flash.bank = a.bank) ∧
    Completes (.fwPairHandover false) s fun d => d.flash.act = none ∧ d.flash.running = s.dev.flash.running ∧ d.flash.bank = s.dev.flash.bank)

/-- TETHER.PORT and TETHER.CHAIN read a port and the topology (R378, R379); DIAG.UNLOCK opens diagnostics for the management controller
over its session, with a record, until its duration has passed or DIAG.LOCK closes them (R386, R387); an opcode the device does not have
is Unsupported (R333 to R335); an entry of an LD's CDAT is read behind the number of the next (R265). -/
def Obligations.DiagnosticsTopologyAndCdat : Prop :=
  (∀ (s : State) (iss : Issuer) (inp : List Byte), Takes s →
    let d0 := s.dev.doorbell (mailDoorbell iss)
    (inp.length = 8 → field inp 0 1 ≤ 2 → rsvd inp 1 7 = true → Completes (.tetherPort iss inp) s fun d =>
      let p := field inp 0 1
      let x := d0.tport p
      let flags := flag ((d0.ownLinks d0.chain.topo).getD p (32, false)).2 + 2 * flag (decide (d0.chain.source = some p)) + 4 * flag x.resumed
      Replies d0 d iss .success
        ([BitVec.ofNat 8 (d0.portState p), BitVec.ofNat 8 (d0.portWidth p), BitVec.ofNat 8 (d0.portRate p), BitVec.ofNat 8 flags] ++
          leBytes 2 x.epoch.toNat ++ [BitVec.ofNat 8 (x.partner.toNat + 32 * flag x.partnerAssigned), BitVec.ofNat 8 x.partnerPort.toNat] ++
          zeros 6 ++ leBytes 8 x.uid.toNat ++ leBytes 4 x.delay ++ leBytes 4 (x.counts.val 0 0) ++ leBytes 4 (x.counts.val 1 0) ++
          leBytes 4 (x.counts.val 2 0) ++ zeros 8)) ∧
    (inp = [] → Completes (.tetherChain iss inp) s fun d => Replies d0 d iss .success
      ([BitVec.ofNat 8 d0.chain.topo.length, BitVec.ofNat 8 (d0.rootIndex.getD 0)] ++ zeros 4 ++
        (List.range 32).flatMap (topoRecord d0.chain.topo))) ∧
    (∀ x, inp.length = 8 → issuerMc iss = true → d0.host.mcSession = some x → field inp 0 2 ≠ 0 → rsvd inp 2 6 = true →
      Completes (.diagUnlock iss inp) s fun d => Answered d iss .success (zeros 6) ∧
        d.host.diagUntil = some (d0.clk.bnd + field inp 0 2 * 4096) ∧ d.line = d0.line) ∧
    (inp = [] → Completes (.diagLock iss inp) s fun d =>
      Replies { d0 with host.diagUntil := none } d iss .success (zeros 6) d0.host.diagUntil.isNone) ∧
    (∀ op : BitVec 16, opcodes.contains op.toNat = false →
      (0xC000 ≤ op.toNat → op.toNat ≤ 0xCFFF → Completes (.unsupportedOpcode iss op inp) s fun d => Replies d0 d iss .unsupported (zeros 6)) ∧
      (op.toNat < 0xC000 ∨ 0xCFFF < op.toNat → Completes (.unsupportedOpcode iss op inp) s fun d => RepliesStd d0 d iss .unsupported []))) ∧
  (∀ (s : State) (b : Nat), s.dev.host.diagUntil = some b →
    (b ≤ s.dev.clk.bnd → Completes .diagUnlockExpiry s fun d => d = { s.dev with host.diagUntil := none }) ∧
    (s.dev.clk.bnd < b → Completes .diagUnlockExpiry s fun d => d = s.dev)) ∧
  (∀ (s : State) (ld : Fin 32) (n : Nat) (e : List Nat),
    let t := (s.dev.free 16).2.cdatTable ld.val (s.dev.free 16).1.toNat
    (s.dev.ldLink ld.val).isSome = true → t[n]? = some e → Completes (.doeCdatRead ld n) s fun d =>
      .cdat ((if n + 1 < t.length then n + 1 else 65535) :: e) ∈ d.out ∧ (n = 0 → (d.ld ld.val).cdatChanged = false) ∧ d.line = s.dev.line)

/-- Glint. GLINT.START takes a lane that carries a link for a scan of the eyes its mask names, as a background command, and has no work
with an empty mask (R287); each point that is done adds to its eye, and after the last of the last eye the scan ends (R287, R288);
GLINT.RESULT reads an eye (R288); a scan waits while its lane is under a host's margining (R286); a periodic scan whose eyes are wide and
high enough clears the lane's failing scans, and the third that is not is a permanent lane fault (R290, R291). -/
def Obligations.GlintScans : Prop :=
  (∀ (s : State) (iss : Issuer) (inp : List Byte), Takes s →
    let d0 := s.dev.doorbell (mailDoorbell iss)
    let port := field inp 0 1
    let lane := field inp 1 1
    (inp.length = 8 → port ≤ 4 → lane ≤ (if port < 2 then 15 else 7) → field inp 2 1 ≤ 1 → 10 ≤ field inp 3 1 → field inp 3 1 ≤ 30 →
      field inp 4 1 ≤ 7 → rsvd inp 5 3 = true → d0.bgBusy iss = false → d0.scanning = false → d0.laneActive port lane = true →
      (nrzRate (d0.laneRate port lane) = true → field inp 4 1 = 0 ∨ field inp 4 1 = 2) →
      (field inp 4 1 = 0 → Completes (.glintStart iss inp) s fun d => Replies d0 d iss .success (zeros 6) true) ∧
      (field inp 4 1 ≠ 0 → Completes (.glintStart iss inp) s fun d => ∃ x, d.glint.scan = some x ∧ x.port = port ∧ x.lane = lane ∧
        x.mode = field inp 2 1 ∧ x.dwell = field inp 3 1 ∧ x.box = some (issuerBox iss) ∧ x.todo = [0, 1, 2].filter (bit (field inp 4 1)) ∧
        d.line = d0.line)) ∧
    (∀ x e, inp.length = 8 → field inp 0 1 ≤ 2 → rsvd inp 1 7 = true → d0.glint.scan = some x → x.eyes.look (field inp 0 1) = some e →
      e.disagree < 2 ^ 32 → Completes (.glintResult iss inp) s fun d =>
        let b (n : Nat) : Byte := BitVec.ofNat 8 n
        Replies d0 d iss .success
          ([b x.port, b x.lane, b x.mode, b x.dwell, b (field inp 0 1),
            b (flag x.complete + 2 * flag x.paused + 4 * flag x.ended + 8 * flag x.nrz), b x.rate, b x.width] ++ leBytes 2 x.step.toNat ++
          [b e.left, b e.right, b e.up, b e.down] ++ leBytes 4 e.disagree ++ leBytes 2 e.points ++ leBytes 6 x.start.toNat ++ zeros 4 ++
          (if x.mode = 0 then (List.range 4096).flatMap fun i => leBytes 2 (e.grid.val i 0) else [])))) ∧
  (∀ (s : State) (x : Scan) (eye : Nat) (rest : List Nat) (dis : BitVec 32), s.dev.glint.scan = some x → x.box.isSome = true →
    x.todo = eye :: rest →
    let r := (x.eyes.val eye {}).point x.mode x.at_ dis.toNat
    (s.dev.glint.margin.contains (laneSrc x.port x.lane) = true → Completes (.glintPointDone dis) s fun d => d = s.dev) ∧
    (s.dev.glint.margin.contains (laneSrc x.port x.lane) = false → r.2.2 = false → Completes (.glintPointDone dis) s fun d =>
      d = { s.dev with glint.scan := some { x with eyes := x.eyes.put eye r.1, at_ := r.2.1 } }) ∧
    (s.dev.glint.margin.contains (laneSrc x.port x.lane) = false → r.2.2 = true → rest ≠ [] → Completes (.glintPointDone dis) s fun d =>
      d = { s.dev with glint.scan := some { x with eyes := x.eyes.put eye r.1, at_ := 0, todo := rest } }) ∧
    (s.dev.glint.margin.contains (laneSrc x.port x.lane) = false → r.2.2 = true → rest = [] → Completes (.glintPointDone dis) s fun d =>
      d = s.dev.endScan { x with eyes := x.eyes.put eye r.1, at_ := 0, todo := [], complete := true })) ∧
  (∀ (s : State) (l : Lane),
    let p := (laneOf l).1
    let n := laneSrc p (laneOf l).2
    (p < 2 → s.dev.laneActive p (laneOf l).2 = true → s.dev.glint.margin.contains n = false → Completes (.laneMarginingCommand l true) s fun d =>
      d.glint.margin = s.dev.glint.margin ++ [n] ∧ d.line = s.dev.line) ∧
    (p < 2 → Completes (.laneMarginingCommand l false) s fun d =>
      d = { s.dev with glint.margin := s.dev.glint.margin.filter (· ≠ n) })) ∧
  (∀ (s : State) (l : Lane) (eyes : List EyeMargins),
    let p := (laneOf l).1
    let n := laneSrc p (laneOf l).2
    let bad (e : EyeMargins) : Bool :=
      e.left + e.right < s.dev.setting idGlintMinWidth 0 || e.up + e.down < s.dev.setting idGlintMinHeight 0
    s.dev.awake = true → s.dev.setting idGlintPeriod 0 ≠ 0 → s.dev.glint.margin.contains n = false → s.dev.glint.scan = none →
    s.dev.laneActive p (laneOf l).2 = true →
    (eyes.any bad = false → Settles (.glintPeriodicScan l eyes) s fun e => e = { s.dev with glint.fails := s.dev.glint.fails.del n }) ∧
    (eyes.any bad = true → s.dev.glint.fails.val n 0 = 2 → (s.dev.source n).retired = false → Settles (.glintPeriodicScan l eyes) s fun e =>
      e = { s.dev with glint.fails := s.dev.glint.fails.del n }.reactLane n))

/-- The hitch channels. Above the limit for HitchTlim a channel that is on trips with cause 1, one that ramps with cause 3; above three
times it trips at once with cause 2; a trip counts a retry, and beyond HitchRetries latches the channel off (R431, R432); a retry timer
that runs out ramps it again, and 60 s on forget the retries (R432). A slot's output and its PMIC's word make it good, and their timeouts
trip it (R429); the input precharges and then opens its gate (R430); an output that stands while the channel is off retires it (R436).
Modules and their windows. A module whose latch is open is removed, one whose latch is closed again is read by its SPD hub, at once or at
a later try (R434); one whose power has gone while its ranks serve is lost from the next boundary on (R435). A training window opens at
its beat, and its channel trains until it closes (R439, R440). HITCH.STATUS reads all 17 channels (R382); HITCH.SET clears a latch-off, or
powers a slot on after its checks (R383). -/
def Obligations.HitchAndModules : Prop :=
  (
    (∀ (s : State) (ch : Fin 17) (sense vout : BitVec 16),
      let c := s.dev.hchan ch.val
      let limit := s.dev.setting idHitchSense ch.val * 100
      let latch := s.dev.setting idHitchRetries ch.val < c.retries + 1
      let trips (cause : Nat) (d : Dev) : Prop :=
        (d.hchan ch.val).cause = cause ∧ (d.hchan ch.val).sense = sense ∧ (d.hchan ch.val).vout = vout ∧
        (d.hchan ch.val).retries = min 255 (c.retries + 1) ∧ (d.hchan ch.val).st = (if latch then .latchedOff else .tripped) ∧
        (d.hchan ch.val).timer = (if latch then none else some (s.dev.clk.bnd + min (2 ^ c.retries) 8 * 4000000)) ∧ d.line = s.dev.line
      (c.st = .on → limit < sense.toNat → Completes (.hitchLimitHeld ch sense vout) s (trips 1)) ∧
      (c.st = .on → sense.toNat ≤ limit → Completes (.hitchLimitHeld ch sense vout) s fun d => d = s.dev) ∧
      (c.st = .ramping → Completes (.hitchLimitHeld ch sense vout) s (trips 3)) ∧
      ((c.st = .on ∨ c.st = .off) → 3 * limit < sense.toNat → Completes (.hitchFastTrip ch sense vout) s (trips 2)) ∧
      (sense.toNat ≤ 3 * limit → Completes (.hitchFastTrip ch sense vout) s fun d => d = s.dev) ∧
      (∀ b, c.timer = some b → c.st = .tripped → c.unmon = false → b ≤ s.dev.clk.bnd → Completes (.hitchRetryTimer ch) s fun d =>
        (d.hchan ch.val).st = .ramping ∧ (d.hchan ch.val).timer = none) ∧
      (∀ b, c.timer = some b → s.dev.clk.bnd < b → Completes (.hitchRetryTimer ch) s fun d => d = s.dev) ∧
      (∀ b, c.onFrom = some b → c.st = .on → b + beats60s ≤ s.dev.clk.bnd → Completes (.hitchOn60s ch) s fun d =>
        d.hchan ch.val = { c with retries := 0 })) ∧
    (∀ (s : State) (slot : Fin 16),
      let c := s.dev.hchan slot.val
      let latch := s.dev.setting idHitchRetries slot.val < c.retries + 1
      (c.st = .ramping → Completes (.slotOutputGood slot) s fun d =>
        d.hchan slot.val = { c with st := .on, good := true, onFrom := some s.dev.clk.bnd }) ∧
      (c.st ≠ .ramping → Completes (.slotOutputGood slot) s fun d => d = s.dev) ∧
      (c.st = .ramping → Completes (.slotRampTimeout slot) s fun d =>
        (d.hchan slot.val).cause = 3 ∧ (d.hchan slot.val).st = if latch then .latchedOff else .tripped) ∧
      (c.good = true → Completes (.pmicPowerGood slot) s fun d => d.hchan slot.val = { c with good := false }) ∧
      (∀ b, c.onFrom = some b → c.good = true → c.st = .on → b + beats50ms ≤ s.dev.clk.bnd → Completes (.pmicTimeout slot) s fun d =>
        (d.hchan slot.val).cause = 3 ∧ (d.hchan slot.val).st = if latch then .latchedOff else .tripped)) ∧
    (∀ s : State,
      let c := s.dev.hchan inputCh
      (s.dev.power.vaux = true → c.st = .off → Completes .vinPgAssert s fun d =>
        (d.hchan inputCh).st = .ramping ∧ d.hitch.pre = true ∧ d.hitch.gate = false ∧ d.hitch.vinGood = true) ∧
      (c.st = .ramping → s.dev.hitch.pre = true → Completes .prechargeDone s fun d => (d.hchan inputCh).st = .on ∧ d.hitch.gate = true) ∧
      (∀ a b, c.st = .ramping → s.dev.hitch.pre = true → Completes (.prechargeTimeout a b) s fun d =>
        (d.hchan inputCh).st = .on ∧ d.hitch.gate = true ∧ (d.source (srcHitch inputCh)).sticky = true) ∧
      (s.dev.hitch.gate = true → Completes .vinPreOff s fun d => d = { s.dev with hitch.pre := false })) ∧
    (∀ (s : State) (ch : Fin 17) (mv : BitVec 16),
      (ch.val < 16 → (s.dev.hchan ch.val).st = .off → 1000 < mv.toNat → (s.dev.hchan ch.val).damaged = false →
        Completes (.fetDamaged ch mv) s fun d =>
          (d.hchan ch.val).damaged = true ∧ (d.hchan ch.val).st = .retired ∧ (d.source (srcHitch ch.val)).hard = true) ∧
      (mv.toNat ≤ 1000 → Completes (.fetDamaged ch mv) s fun d => d = s.dev))) ∧
  (
    (∀ (s : State) (slot : Fin 16),
      let c := s.dev.hchan slot.val
      (s.dev.latchClosed slot.val = false → c.removed = false → c.st ≠ .retired → Completes (.moduleRemoved slot) s fun d =>
        d.hchan slot.val = { c with st := .off, retries := 0, timer := none, good := false, onFrom := none, present := false, removed := true
                                    spdWait := false, mod := none }) ∧
      (s.dev.latchClosed slot.val = true → Completes (.moduleRemoved slot) s fun d => d = s.dev) ∧
      (∀ m, s.dev.latchClosed slot.val = true → c.removed = true → Completes (.moduleInserted slot (some m)) s fun d =>
        d.hchan slot.val = { c with present := true, removed := false, spdWait := false, mod := some m }) ∧
      (s.dev.latchClosed slot.val = true → c.removed = true → Completes (.moduleInserted slot none) s fun d =>
        d.hchan slot.val = { c with spdWait := true }) ∧
      (∀ m, s.dev.latchClosed slot.val = true → c.spdWait = true → Completes (.spdReadRetry slot (some m)) s fun d =>
        d.hchan slot.val = { c with present := true, removed := false, spdWait := false, mod := some m }) ∧
      (∀ k, c.st ≠ .on → s.dev.servedOn slot.val ≠ [] → Completes (.moduleLost slot k) s fun d => ∃ k', (slot.val, k') ∈ d.hitch.lost) ∧
      (∀ k, c.st = .on → Completes (.moduleLost slot k) s fun d => d = s.dev)) ∧
    (∀ (s : State) (ch : Fin 8) (w : Window), s.dev.hitch.window = some w → w.ch = ch.val →
      (w.isOpen = false → w.closed = none → w.opens ≤ s.dev.clk.bnd → s.dev.clocked = true → Completes (.trainingWindowOpen ch) s fun d =>
        d.hitch.window = some { w with isOpen := true } ∧ d.dram.wide = [ch.val] ∧ (d.chan ch.val).training = true) ∧
      (s.dev.clk.bnd < w.opens → Completes (.trainingWindowOpen ch) s fun d => d = s.dev) ∧
      (∀ good, w.isOpen = true → Completes (.trainingWindowClose ch good) s fun d =>
        d.hitch.window = some { w with isOpen := false, closed := some s.dev.clk.beat } ∧ (d.chan ch.val).training = false)) ∧
    (∀ (s : State) (iss : Issuer) (inp : List Byte), Takes s →
      let d0 := s.dev.doorbell (mailDoorbell iss)
      let ch := field inp 0 1
      let c := d0.hchan ch
      (inp = [] → Completes (.hitchStatus iss inp) s fun d => Replies d0 d iss .success (zeros 6 ++ (List.range 17).flatMap fun n =>
        let c := d0.hchan n
        [BitVec.ofNat 8 (hstateNum c.st), BitVec.ofNat 8 c.retries,
         BitVec.ofNat 8 (flag c.present + 2 * flag (n < 16 && d0.latchClosed n) + 4 * flag c.damaged), BitVec.ofNat 8 c.cause] ++
          leBytes 2 c.sense.toNat ++ leBytes 2 c.vout.toNat)) ∧
      (inp.length = 8 → issuerMc iss = true → rsvd inp 2 6 = true → ch < 16 → d0.slotHeld ch = false →
        (field inp 1 1 = 2 → c.st = .latchedOff → Completes (.hitchSet iss inp) s fun d =>
          Replies (d0.modHchan ch fun c => { c with retries := 0, st := .off }) d iss .success (zeros 6)) ∧
        (field inp 1 1 = 1 → c.st = .off → c.present = true → c.unmon = false → Completes (.hitchSet iss inp) s fun d =>
          Replies (d0.slotOn ch) d iss .success (zeros 6)) ∧
        (field inp 1 1 = 0 → d0.servedOn ch ≠ [] → Completes (.hitchSet iss inp) s fun d => Replies d0 d iss .invalidInput (zeros 6)))))

/-- Request messages of the chain. The next message of its kind in a port's pool leaves it: one for this device joins the requests that
wait for the regulator where they have room (R26, R37), a braided duplicate of a write is completed and not made again (R321, R323); one
for another device goes to the port that its address's reach ranges name, and where none leads there it is answered with Status 011b,
counted and recorded (R320); it waits where the transmit queue has no entry (R25). SNP. A snoop of another device for an LD whose host
takes BI goes out on the LD's link with its HPA under its label; where no decoder gives an HPA the answer is BIRspI at once, counted in
183h (R232, R253); where the link is down or not enabled for BI it fails with Status 001b, so that its home finds the slot gone (R238,
R254, R301; the model's choice, log 79); its BIConflictAck goes to the host (R236). One for another device goes on by its reach ranges
(R302). -/
def Obligations.RequestChannelMessages : Prop :=
  (
    ∀ (s : State) (p : Fin 3) (c : Instr) (op : MsgOp) (m : Msg),
      (c, op) ∈ [(Instr.rd p, MsgOp.rd), (.wr p, .wr), (.wrp p, .wrp), (.inv p, .inv), (.evct p, .evct)] →
      s.dev.clocked = true → (s.dev.tport p.val).firstOf op = some m → (s.dev.tport p.val).doze = 0 →
      let d := s.dev.modTport p.val fun x => x.taken m.cls
      let joins (e d : Dev) : Prop :=
        e = { d with path.next := d.path.next + 1, path.reqs := d.path.reqs ++ [requestOf m d.path.next p.val] }
      (m.target = s.dev.chain.index →
        let room := s.dev.room (fun st => st = .peerIn || inStage2 st) stage2Mins stage2Shared m.cls
        (room = true → m.braid = false → Settles c s fun e => joins e d) ∧
        (room = false → Settles c s fun e => e = s.dev) ∧
        (∀ h0 h1, room = true → m.braid = true → s.dev.chain.braidAt.look m.origin.toNat = some (h0, h1) →
          let b := { d with chain.braidAt := s.dev.chain.braidAt.put m.origin.toNat (if m.dir then (h0, m.braidSeq.toNat) else (m.braidSeq.toNat, h1)) }
          let met := ((if m.dir then h0 else h1) + 65536 - m.braidSeq.toNat) % 65536 < 32768
          (met → op = .wr ∨ op = .wrp → Settles c s fun e => e = b.sendMsg p.val (rspTo m 0 0 0 none)) ∧
          (¬ met ∨ (op ≠ .wr ∧ op ≠ .wrp) → Settles c s fun e => joins e b)) ∧
        (room = true → m.braid = true → s.dev.chain.braidAt.look m.origin.toNat = none →
          Settles c s fun e => e = d.sendMsg p.val (rspTo m 1 0 0 none))) ∧
      (m.target ≠ s.dev.chain.index →
        (∀ q, s.dev.route m.unit2m (some p.val) = some q → (s.dev.tport q).txRoom m.cls = true → Settles c s fun e =>
          e = d.sendMsg q m (some p.val)) ∧
        (∀ q, s.dev.route m.unit2m (some p.val) = some q → (s.dev.tport q).txRoom m.cls = false → Settles c s fun e => e = s.dev) ∧
        (s.dev.route m.unit2m (some p.val) = none → Settles c s fun e =>
          e = (d.noRoute (m.unit2m * mib2) m.origin.toNat).sendMsg p.val (rspTo m 3 0 0 none)))) ∧
  (
    ∀ (s : State) (p : Fin 3) (m : Msg), s.dev.clocked = true → (s.dev.tport p.val).firstOf .snp = some m → (s.dev.tport p.val).doze = 0 →
      let d := s.dev.modTport p.val fun x => x.taken m.cls
      let ld := m.ld.toNat
      let f : Foreign := { ld := ld, dpaLine := m.dpaLine.toNat, port := p.val, origin := m.origin, tag := m.tag, kind := m.snpType }
      (m.target = s.dev.chain.index → m.snpType ≠ 3 →
        (∀ l hpa, s.dev.biEnabled ld = true → s.dev.ldLink ld = some l → (s.dev.link l).st ≠ .down → s.dev.hpaOf ld (f.dpaLine * 64) = some hpa →
          Settles (.snp p) s fun e =>
            e = ({ d with home.foreign := d.home.foreign ++ [f] }.modLink l fun x =>
              { x with snoops := x.snoops ++ [({ ld := ld, kind := m.snpType, hpa := BitVec.ofNat 64 hpa, label := m.label } : Snp)] }).flush l) ∧
        (∀ l, s.dev.biEnabled ld = true → s.dev.ldLink ld = some l → (s.dev.link l).st ≠ .down → s.dev.hpaOf ld (f.dpaLine * 64) = none →
          Settles (.snp p) s fun e =>
            e = (d.bump 0x183).sendMsg p.val { op := .srsp, label := 0x40, tag := m.tag, origin := m.origin, srspType := 0 }) ∧
        (s.dev.biEnabled ld = false ∨ s.dev.ldLink ld = none ∨ (∃ l, s.dev.ldLink ld = some l ∧ (s.dev.link l).st = .down) →
          Settles (.snp p) s fun e => e = d.sendMsg p.val { op := .rsp, label := 0x40, tag := m.tag, origin := m.origin, status := 1 })) ∧
      (∀ l, m.target = s.dev.chain.index → m.snpType = 3 → s.dev.ldLink ld = some l → (s.dev.link l).st ≠ .down → Settles (.snp p) s fun e =>
        let mine (g : Foreign) : Bool := g.ld = ld && g.origin = m.origin && g.dpaLine = m.dpaLine.toNat
        let l' := replaceFirst mine (fun g => { g with tag := m.tag, port := p.val }) d.home.foreign
        ∃ r : Resp, r.conflictAck = true ∧ r.ld = some ld ∧
          e = ({ d with home.foreign := l' }.modLink l fun x => { x with egress := x.egress ++ [({ r := r, start := s.dev.now } : Owed)] }).flush l) ∧
      (∀ q, m.target ≠ s.dev.chain.index → s.dev.route m.unit2m (some p.val) = some q → (s.dev.tport q).txRoom m.cls = true →
        Settles (.snp p) s fun e => e = d.sendMsg q m (some p.val)))

/-- Responses. The first response on a port gives its transit entry back, but for a writeback's, and goes to the port that its request
came from, or, of this device's own, to what waits for it (R302, R303): an RSP completes its request with its data, or with poison where
it failed (R22, R38, R39); an SRSP answers the line's snoop (R233) or reports a conflict (R236); an SWB writes the holder's data at once
(R233). One without an entry is dropped and counted (R303). -/
def Obligations.ResponseMessages : Prop :=
  ∀ (s : State) (p : Fin 3) (m : Msg) (rest : List Msg),
    let x := s.dev.tport p.val
    s.dev.clocked = true → x.doze = 0 → x.rsps = m :: rest →
    let d := s.dev.setTport p.val { x with rsps := rest }
    let f := (d.modTport p.val fun x => { x with transit := match x.transitFor m with | some t => x.transit.erase t | none => x.transit }).pump p.val
    let t := m.tag.toNat
    (∀ c op, (c, op) ∈ [(Instr.rsp p, MsgOp.rsp), (.srsp p, .srsp), (.swb p, .swb), (.mrsp p, .mrsp)] →
      (m.op ≠ op → Settles c s fun e => e = s.dev) ∧
      (m.op = op → x.transitFor m = none → Settles c s fun e => e = d.bump (evTether p.val 6)) ∧
      (∀ tr q, m.op = op → op ≠ .swb → x.transitFor m = some tr → tr.from_ = some q → q < 3 → Settles c s fun e => e = f.sendMsg q m)) ∧
    (∀ tr q, m.op = .swb → x.transitFor m = some tr → tr.from_ = some q → q < 3 → Settles (.swb p) s fun e => e = d.sendMsg q m) ∧
    (∀ tr, x.transitFor m = some tr → tr.from_ = none →
      (∀ id q, m.op = .rsp → m.status = 0 → f.chain.tags.look t = some (.req id false []) → f.req id = some q →
        let r := { q with load := m.load }
        let g := { f with chain.tags := f.chain.tags.del t }.remoteLevel r m.level.toNat
        Settles (.rsp p) s fun e => e = g.answer r (if q.isRead then (if m.poison then .poison else .data m.data) else .cmp)) ∧
      (∀ id q, m.op = .rsp → m.status = 1 → f.chain.tags.look t = some (.req id false []) → f.req id = some q →
        let r := { q with load := m.load }
        let g := { f with chain.tags := f.chain.tags.del t }.remoteLevel r m.level.toNat
        Settles (.rsp p) s fun e => e = g.answer r (if q.isRead then .poison else .cmp) true) ∧
      (∀ n k, m.op = .srsp → f.chain.tags.look t = some (.snoop n k) →
        let g := { f with chain.tags := f.chain.tags.del t }
        (m.srspType ≠ 2 → Settles (.srsp p) s fun e => e = g.takeBirsp k n (m.srspType = 1)) ∧
        (m.srspType = 2 → Settles (.srsp p) s fun e => e = g.takeConflict k n)) ∧
      (∀ n k o, m.op = .swb → d.chain.tags.look t = some (.snoop n k) → d.ownerOf n = some o → Settles (.swb p) s fun e =>
        ∃ q : Req, q.id = d.path.next ∧ q.op = .write ∧ q.data = m.data ∧ q.poison = m.poison ∧ q.label = m.label ∧ q.media = n * 64 ∧
          q.attr = o.1 ∧ q.mask = BitVec.allOnes 64 ∧ e = { d with path.next := d.path.next + 1 }.placeWrite q n))

/-- Management messages. One that its path or its index brings here rings its port's doorbell and is answered under its tag: PROBE with
what the device says of itself, ASSIGN, which gives it its index, ranges, or an unknown SubOp with Result 1 (R304, R305, R318); one with
hops left takes the port that its path names next, waits for an entry there, or is answered with Status 011b where that port is not up
(R302). Answers to this device's own management messages: an MRSP frees its tag and rings its port's doorbell; none within 1 ms frees the
tag as an answer of a destination that is not there (R304); the braid's synchronisation takes effect with its Result 0 alone (R323). -/
def Obligations.ManagementMessagesAndAnswers : Prop :=
  (
    ∀ (s : State) (p : Fin 3) (m : Msg), s.dev.clocked = true → (s.dev.tport p.val).firstOf .mgmt = some m → (s.dev.tport p.val).doze = 0 →
      let d := (s.dev.modTport p.val fun x => x.taken m.cls).doorbell (0x385 + p.val)
      let here := if m.pathMode then m.dest = 0 else m.target = s.dev.chain.index
      let answers (r : Nat) (body : List Byte) (d e : Dev) : Prop := ∃ g : Dev,
        g = d.sendMsg p.val { op := .mrsp, label := m.label, tag := m.tag, origin := m.origin, subOp := m.subOp, body := BitVec.ofNat 8 r :: body } ∧
        e = g.tryDoze p.val
      (here → m.subOp = 1 → fits m.body 10 = true → Settles (.mgmt p) s (answers 0 d.probeBody d)) ∧
      (here → m.subOp = 2 → fits m.body 5 = true → field m.body 0 1 ≤ 31 → field m.body 1 1 ≤ 31 → field m.body 2 1 ≤ 2 →
        (s.dev.chain.assigned = false → Settles (.mgmt p) s fun e => ∃ h : Dev, answers 0 [] h e ∧
          h.chain.index = field m.body 0 1 ∧ h.chain.assigned = true ∧ h.chain.depth = field m.body 1 1 ∧
          h.chain.parent = some (field m.body 2 1) ∧ h.chain.source = some (field m.body 2 1) ∧ h.chain.mayStep = true ∧ h.line = s.dev.line) ∧
        (s.dev.chain.assigned = true → s.dev.chain.alone = false → s.dev.chain.index ≠ field m.body 0 1 →
          Settles (.mgmt p) s (answers 2 [] d))) ∧
      (here → m.subOp = 3 → fits m.body 1 = true → field m.body 0 1 < 3 → Settles (.mgmt p) s
        (answers 0 ((List.range 16).flatMap fun n => leBytes 8 (d.setting idReachRange (field m.body 0 1 * 16 + n))) d)) ∧
      (here → (m.subOp = 0 ∨ 0x32 ≤ m.subOp.toNat) → Settles (.mgmt p) s (answers 1 [] d)) ∧
      (∀ q, m.pathMode = true → m.dest ≠ 0 → q = m.path.toNat % 4 →
        (q < 3 → (s.dev.tport q).up = true → (s.dev.tport q).txRoom m.cls = true → Settles (.mgmt p) s fun e =>
          e = (s.dev.modTport p.val fun x => x.taken m.cls).sendMsg q { m with path := m.path >>> 2, dest := m.dest - 1 } (some p.val)) ∧
        (q < 3 → (s.dev.tport q).up = true → (s.dev.tport q).txRoom m.cls = false → Settles (.mgmt p) s fun e => e = s.dev) ∧
        (q = 3 ∨ (s.dev.tport q).up = false → Settles (.mgmt p) s fun e =>
          e = (s.dev.modTport p.val fun x => x.taken m.cls).sendMsg p.val (rspTo m 3 0 0 none)))) ∧
  (
    (∀ (s : State) (p : Fin 3) (m : Msg) (rest : List Msg) (tr : Transit) (dest : Nat) (sent : List Byte),
      let x := s.dev.tport p.val
      s.dev.clocked = true → x.doze = 0 → x.rsps = m :: rest → m.op = .mrsp → x.transitFor m = some tr → tr.from_ = none →
      let f := ((s.dev.setTport p.val { x with rsps := rest }).modTport p.val fun x => { x with transit := x.transit.erase tr }).pump p.val
      let g := { f with chain.tags := f.chain.tags.del m.tag.toNat }.doorbell (0x385 + p.val)
      (f.chain.tags.look m.tag.toNat = some (.mgmt 6 dest sent) → field m.body 0 1 = 0 → Settles (.mrsp p) s fun e =>
        e = { g with chain.braidOk := dest :: g.chain.braidOk.filter (· ≠ dest) }) ∧
      (∀ k ∈ [1, 2, 3, 4, 5, 0x31], f.chain.tags.look m.tag.toNat = some (.mgmt k dest sent) → Settles (.mrsp p) s fun e => e = g) ∧
      (f.chain.tags.look m.tag.toNat = some (.mgmt 0x12 dest sent) → Settles (.mrsp p) s fun e => e = g.prepareAnswered dest (some m.body))) ∧
    (∀ (s : State) (t : BitVec 16) (dest : Nat) (sent : List Byte),
      let g := { s.dev with chain.tags := s.dev.chain.tags.del t.toNat }
      (∀ k ∈ [1, 2, 3, 4, 5, 6, 0x31], s.dev.chain.tags.look t.toNat = some (.mgmt k dest sent) → Settles (.mgmtResponseTimeout t) s fun e =>
        e = g) ∧
      (s.dev.chain.tags.look t.toNat = some (.mgmt 0x12 dest sent) → Settles (.mgmtResponseTimeout t) s fun e => e = g.prepareAnswered dest none) ∧
      (s.dev.chain.tags.look t.toNat = none → Settles (.mgmtResponseTimeout t) s fun e => e = s.dev)))

/-- The chain's indices and beats. A device that no walk has reached a second after its first link-up runs alone with index 0 (R315); the
root's walk takes the root's own index and tells every device (R316, R318); a marker of the source sets the beat once and later moves the
boundary by at most 1/16 ns, and one that differs by a whole beat is no longer synced (R325); 64 boundaries without a marker take the
least deep synced port as the source (R326), and 4,096 without a source end synchronisation (R326). -/
def Obligations.ChainAndBeats : Prop :=
  (∀ (s : State) (b : Nat), s.dev.chain.firstUp = some b → s.dev.clocked = true → s.dev.chain.assigned = false → s.dev.chain.rootStrap = false →
    s.dev.chain.alone = false →
    (b + 4000000 ≤ s.dev.clk.bnd → Completes .noRoot s fun d =>
      d.chain.alone = true ∧ d.chain.index = 0 ∧ ∀ p < 3, (s.dev.tport p).up = true → (d.tport p).up = false ∧ (d.tport p).standby = true ∧
        ((s.dev.tport p).st = .active → (d.tport p).st = .standby)) ∧
    (s.dev.clk.bnd < b + 4000000 → Completes .noRoot s fun d => d = s.dev)) ∧
  (∀ (s : State) (answers : List ProbeAnswer),
    (s.dev.isRoot = false → Settles (.tetherDiscoveryWalk answers) s fun e => e = s.dev) ∧
    (s.dev.clocked = true → s.dev.isRoot = true → s.dev.chain.topo = [] → Settles (.tetherDiscoveryWalk []) s fun e =>
      e.chain.assigned = true ∧ e.chain.depth = 0 ∧ e.chain.parent = none ∧ e.chain.synced = true ∧ e.chain.rangesDue = true ∧
      e.chain.walk = (s.dev.chain.walk + 1) % 65536 ∧
      e.chain.index = (if s.dev.setting idPinnedIndex 0 < 32 then s.dev.setting idPinnedIndex 0 else 0) ∧
      e.chain.topo.map (fun r => (r.index, r.uid, r.depth)) = [(e.chain.index, Config.uniqueId, 0)])) ∧
  (∀ (s : State) (p : Fin 3) (m : Marker) (off : Int), s.dev.clocked = true → (s.dev.tport p.val).st = .active → s.dev.isRoot = false →
    s.dev.chain.source = some p.val →
    let seen (d : Dev) : Prop := (d.tport p.val).partnerDepth = m.depth.toNat ∧ (d.tport p.val).partnerSynced = m.synced ∧
      d.chain.lastMark = s.dev.clk.bnd
    (s.dev.chain.mayStep = true → Completes (.beatMarker p m off) s fun d => seen d ∧
      let past := ((s.dev.tport p.val).delay + 2 * m.lag.toNat) / 8
      d.clk.beat = m.beat + BitVec.ofNat 48 (past / 500) ∧ d.clk.clk = past % 500 ∧ d.chain.mayStep = false ∧ d.chain.synced = m.synced) ∧
    (s.dev.chain.mayStep = false → m.beat = s.dev.clk.beat → Completes (.beatMarker p m off) s fun d => seen d ∧
      (off = 0 → d.chain.slew = s.dev.chain.slew) ∧ (0 < off → d.chain.slew = s.dev.chain.slew + 1) ∧
      (off < 0 → d.chain.slew = s.dev.chain.slew - 1) ∧ (d.chain.synced = true ↔ m.synced = true ∧ off.natAbs ≤ 2) ∧ d.clk = s.dev.clk) ∧
    (s.dev.chain.mayStep = false → m.beat ≠ s.dev.clk.beat → Completes (.beatMarker p m off) s fun d => seen d ∧
      d.chain.synced = false ∧ d.chain.slew = s.dev.chain.slew ∧ d.clk = s.dev.clk)) ∧
  (∀ (s : State) (q : Nat), s.dev.chain.source = some q → s.dev.isRoot = false →
    (s.dev.chain.lastMark + 64 ≤ s.dev.clk.bnd → Completes .beatHoldover s fun d =>
      d.chain.lastMark = s.dev.clk.bnd ∧ d.chain.slew = s.dev.chain.slew ∧
      (∀ p, d.chain.source = some p → (s.dev.tport p).up = true ∧ (s.dev.tport p).partnerSynced = true ∧
        ∀ r < 3, (s.dev.tport r).up = true → (s.dev.tport r).partnerSynced = true → (s.dev.tport p).partnerDepth ≤ (s.dev.tport r).partnerDepth) ∧
      (d.chain.source = none → ∀ r < 3, (s.dev.tport r).up = true → (s.dev.tport r).partnerSynced = false)) ∧
    (s.dev.clk.bnd < s.dev.chain.lastMark + 64 → Completes .beatHoldover s fun d => d = s.dev)) ∧
  (∀ s : State, s.dev.isRoot = false → s.dev.chain.source = none →
    (s.dev.chain.lastMark + 4096 ≤ s.dev.clk.bnd → Completes .beatSourceLoss s fun d => d = { s.dev with chain.synced := false }) ∧
    (s.dev.clk.bnd < s.dev.chain.lastMark + 4096 → Completes .beatSourceLoss s fun d => d = s.dev))

/-- Reads of the two registers that latch: BeatLo's and PendingLo's read answers with the low 32 bits of the beat, of the pending cinch's
commit beat, and keeps the high 16 for BeatHi and PendingHi (R331). Without a clock nothing is read (R447). What a read of a register
returns. One of an unaligned or wrong size gives 0, and so does a reserved offset (R15); the payload window gives its bytes, the MSI-X
table its masks, its array the pending bits, AER its status, the counter BAR the beat, whole or by halves (R270, R272, R331, R419, R422);
and what a REGISTER_WRITE puts into the payload a read gives back (R15). The AER offsets are the model's (PRESUMED, log 8).
REGISTER_WRITE. A write of an aligned size up to 8 bytes goes to the payload window of its mailbox, to the mailbox's command register, to
MSI-X control, or clears the ones of an AER status register; one to any other offset of BAR0, to BAR2 or to the DVSEC, one that is not
aligned, and one without a clock change nothing (R15, R270, R271). Nothing but the LD's registers changes. The command register's place
and AER's are the model's (PRESUMED, log 8). -/
def Obligations.RegisterReadsAndWrites : Prop :=
  (
    ∀ (s : State) (ld : Fin 32) (box : Box),
      let n := issuerBox (.host ld box)
      (s.dev.clocked = true →
        (Completes (.beatLoRead ld box) s fun d =>
          d.out = s.dev.out ++ [.read (BitVec.ofNat 64 (s.dev.clk.beat.toNat % 2 ^ 32))] ∧
          d.mbox n = { s.dev.mbox n with beatHi := BitVec.ofNat 16 (s.dev.clk.beat.toNat / 2 ^ 32) } ∧
          (∀ k ≠ n, d.mbox k = s.dev.mbox k) ∧ d = { s.dev with host := d.host, out := d.out }) ∧
        (Completes (.pendingLoRead ld box) s fun d =>
          d.out = s.dev.out ++ [.read (BitVec.ofNat 64 (s.dev.pendingBeat % 2 ^ 32))] ∧
          d.mbox n = { s.dev.mbox n with pendingHi := BitVec.ofNat 16 (s.dev.pendingBeat / 2 ^ 32) } ∧
          (∀ k ≠ n, d.mbox k = s.dev.mbox k) ∧ d = { s.dev with host := d.host, out := d.out })) ∧
      (s.dev.clocked = false →
        Completes (.beatLoRead ld box) s (fun d => d = s.dev) ∧ Completes (.pendingLoRead ld box) s (fun d => d = s.dev))) ∧
  (
    (∀ (d : Dev) (ld : Nat) (space : Space) (off size : Nat), space ≠ .bar2 → size = 0 ∨ 8 < size ∨ off % size ≠ 0 →
      d.readReg ld space off size = 0) ∧
    (∀ (d : Dev) (ld off size : Nat),
      (0x11028 ≤ off → off < 0x17FE0 → d.readReg ld .bar0 off size = 0) ∧
      (0x30080 ≤ off → off < 0x31000 → d.readReg ld .bar0 off size = 0) ∧
      (0x31008 ≤ off → d.readReg ld .bar0 off size = 0) ∧
      (∀ k < 0x8000, d.readReg ld .bar0 (0x18000 + k) 1 = ((d.mbox (2 * ld)).inp.getD k 0).toNat ∧
        d.readReg ld .bar0 (0x28000 + k) 1 = ((d.mbox (2 * ld + 1)).inp.getD k 0).toNat) ∧
      (∀ v < 8, d.readReg ld .bar0 (0x30000 + 16 * v + 12) 4 = if (d.vec ld v).masked then 1 else 0) ∧
      d.readReg ld .bar0 0x31000 8 = d.pendingBits ld ∧
      (∀ l, d.ldLink ld = some l → d.readReg ld .aer 4 4 = (d.link l).aerUnc.toNat ∧ d.readReg ld .aer 16 4 = (d.link l).aerCor.toNat) ∧
      d.readReg ld .bar2 8 8 = d.clk.beat.toNat ∧ d.readReg ld .bar2 8 4 = d.clk.beat.toNat % 2 ^ 32 ∧
      d.readReg ld .bar2 12 4 = d.clk.beat.toNat / 2 ^ 32 ∧ (∀ n, n ≠ 4 → n ≠ 8 → d.readReg ld .bar2 off n = 0)) ∧
    (∀ (s : State) (ld : Fin 32) (k : Nat) (v : Byte), s.dev.clocked = true → k < 0x8000 →
      Completes (.registerWrite ld { space := .bar0, off := 0x18000 + k, size := 1, value := BitVec.ofNat 64 v.toNat }) s fun d =>
        d.readReg ld.val .bar0 (0x18000 + k) 1 = v.toNat)) ∧
  (
    ∀ (s : State) (ld : Fin 32) (r : Reg),
      let v := leBytes r.size r.value.toNat
      let now (d : Dev) : Dev := d.settle
      (s.dev.clocked = false ∨ r.size = 0 ∨ 8 < r.size ∨ r.off % r.size ≠ 0 ∨ r.space = .bar2 ∨ r.space = .dvsec →
        Completes (.registerWrite ld r) s fun d => d = now s.dev) ∧
      (s.dev.clocked = true → r.size ≠ 0 → r.size ≤ 8 → r.off % r.size = 0 →
        (∀ box base, (box, base) ∈ [(2 * ld.val, 0x18000), (2 * ld.val + 1, 0x28000)] → r.space = .bar0 →
          base ≤ r.off → r.off + r.size ≤ base + 0x8000 → Completes (.registerWrite ld r) s fun d =>
            let b := s.dev.mbox box
            let off := r.off - base
            d = now (s.dev.modBox box fun b => { b with inp := (d.mbox box).inp }) ∧
            ((d.mbox box).inp = (overlay (b.inp ++ zeros (off + r.size - b.inp.length)) off v).take 32768)) ∧
        (r.space = .bar0 → r.off < 0x17FE8 → Completes (.registerWrite ld r) s fun d => d = now s.dev) ∧
        (r.space = .bar0 → 0x30080 ≤ r.off → Completes (.registerWrite ld r) s fun d => d = now s.dev) ∧
        (∀ box, (box = 2 * ld.val ∧ r.off = 0x17FE8) ∨ (box = 2 * ld.val + 1 ∧ r.off = 0x27FE8) → r.space = .bar0 → r.size = 8 →
          Completes (.registerWrite ld r) s fun d => d = now (s.dev.modBox box fun b =>
            { b with opcode := r.value.truncate 16, len := r.value.toNat / 2 ^ 16 % 2 ^ 21 })) ∧
        (∀ l, r.space = .cfgMsix → s.dev.ldLink ld.val = some l → r.value.getLsbD 0 = true → Completes (.registerWrite ld r) s fun d =>
          d = now (s.dev.modLd ld.val fun x => { x with msixOn := true })) ∧
        (∀ l, r.space = .aer → r.size = 4 → s.dev.ldLink ld.val = some l → (r.off = 4 ∨ r.off = 16) → Completes (.registerWrite ld r) s fun d =>
          d = now (s.dev.modLink l fun x => if r.off = 4 then { x with aerUnc := x.aerUnc &&& ~~~(r.value.truncate 32) }
                                            else { x with aerCor := x.aerCor &&& ~~~(r.value.truncate 32) }))))

/-- The mailbox doorbell starts the command that the mailbox's registers and payload name, as the row of its opcode (R329); so does a
private write over I3C in P0 (R332). In P2 a private write is kept until P0, and in P3 its address alone is heard and it is refused; both
are wake events (R454). Tunnel Management Command. The management controller reaches an LD of an MLD link: the command that it carries
runs for that LD, and the answer comes back within the tunnel's own, or later by itself where the command answers later (R251, R333); a
target that is not on the link is refused; any other issuer gets Unsupported. The layouts are the model's (PRESUMED, log 8). -/
def Obligations.CommandsByOpcode : Prop :=
  (
    (∀ (s : State) (ld : Fin 32) (box : Box),
      let b := s.dev.mbox (issuerBox (.host ld box))
      let inp := (b.inp ++ zeros (b.len - b.inp.length)).take b.len
      (∀ o c, (o, c) ∈ commandRows → b.opcode.toNat = o → Completes (.mailboxDoorbell ld box) s fun d =>
        exec (c (.host ld box) inp) s = .next { s with dev := d }) ∧
      (opcodes.contains b.opcode.toNat = false → Completes (.mailboxDoorbell ld box) s fun d =>
        exec (.unsupportedOpcode (.host ld box) b.opcode inp) s = .next { s with dev := d })) ∧
    (∀ (s : State) (ld : Option (Fin 32)) (opcode : BitVec 16) (inp : List Byte), s.dev.boot = .running →
      (s.dev.power.st = .p0 → s.dev.awake = true → s.dev.power.entry = none → ∀ o c, (o, c) ∈ commandRows → opcode.toNat = o →
        Completes (.i3cPrivateWrite ld opcode inp) s fun d => exec (c (.mc ld) inp) s = .next { s with dev := d }) ∧
      (s.dev.power.st = .p2 → Completes (.i3cPrivateWrite ld opcode inp) s fun d => ∃ e : Dev, d = e.wakeEvent 1 ∧
        e = { s.dev with host.i3cHeld := s.dev.host.i3cHeld ++ [(ld.map Fin.val, opcode, inp)] }) ∧
      (s.dev.power.st = .p3 → Completes (.i3cPrivateWrite ld opcode inp) s fun d =>
        d = { s.dev with out := s.dev.out ++ [Out.i3cNack] }.wakeEvent 1))) ∧
  (
    ∀ (s : State) (iss : Issuer) (inp : List Byte), Takes s →
      let d0 := s.dev.doorbell (mailDoorbell iss)
      (issuerMc iss = false ∨ issuerLd iss = none → Completes (.tunnelManagementCommand iss inp) s fun d => RepliesStd d0 d iss .unsupported []) ∧
      (∀ ld l, issuerMc iss = true → issuerLd iss = some ld → d0.ldLink ld = some l → (d0.link l).mld = true → 17 ≤ inp.length →
        inp.length = 5 + field inp 2 2 →
        ((d0.linkLds l)[field inp 0 1]? = none → Completes (.tunnelManagementCommand iss inp) s fun d => RepliesStd d0 d iss .invalidInput []) ∧
        (∀ dst : Fin 32, (d0.linkLds l)[field inp 0 1]? = some dst.val →
          (field inp 1 1 ≠ 0 ∨ inp.length ≠ 17 + field inp 10 3 % 2 ^ 21 → Completes (.tunnelManagementCommand iss inp) s fun d =>
            RepliesStd d0 d iss .invalidInput []) ∧
          (field inp 1 1 = 0 → inp.length = 17 + field inp 10 3 % 2 ^ 21 → Completes (.tunnelManagementCommand iss inp) s fun d =>
            let a := (d0.opcode (.mc (some dst)) (field inp 8 2) (inp.drop 17)).takeAnswer 64 d0.out.length
            (∀ r out, a.1 = some (r, out) →
              let m := cciMessage true (inp.getD 6 0) (field inp 8 2) r.code out
              RepliesStd a.2 d iss .success (leBytes 2 m.length ++ [0, inp.getD 4 0] ++ m)) ∧
            (a.1 = none → d = a.2)))) ∧
      (∀ ld l, issuerMc iss = true → issuerLd iss = some ld → d0.ldLink ld = some l → (d0.link l).mld = true →
        inp.length < 17 ∨ inp.length ≠ 5 + field inp 2 2 → Completes (.tunnelManagementCommand iss inp) s fun d =>
          RepliesStd d0 d iss .invalidLength []))

/-- The link-up handshake. A LINKUP of a link that was down, or that cannot resume, starts it Fresh, with every sequence number, credit
and held flit gone; one that names what this side still holds resumes it, and frees what it acknowledges (R308, R312); eight PINGs follow.
Each PONG is a sample of D, and once there are eight the middle of them is taken and LINKACK sent (R312, R313); with both LINKACKs the
link is up, or held in standby (R312, R315). A PING is answered at once, and one without an answer sent again (R313). -/
def Obligations.LinkUpHandshake : Prop :=
  (∀ (s : State) (p : Fin 3) (m : LinkUp),
    let x := s.dev.tport p.val
    let shows (y : TPort) : Prop := y.st = .handshake ∧ y.gotUp = true ∧ y.uid = m.uniqueId ∧ y.partner = m.index ∧ y.partnerPort = m.port ∧
      y.partnerAssigned = m.assigned ∧ y.partnerRoot = m.rootStrap ∧ y.partnerSynced = m.synced
    let pings (d : Dev) : Prop := ∀ i < 8, ∃ t, Out.ctl p.val (.ping i t) ∈ d.out
    (x.st = .handshake → x.gotUp = false → x.sentAck = false → x.samples = [] →
      (x.kept = false → Completes (.linkup p m) s fun d => let y := d.tport p.val
        shows y ∧ pings d ∧ y.resume = false ∧ y.seq = 0 ∧ y.ne = 0 ∧ y.replay = [] ∧ y.pool = [] ∧ y.debits = [] ∧ y.returned = [] ∧
        y.crTotal = [] ∧ y.epoch = x.epoch + 1) ∧
      (x.kept = true → m.resume = true → m.uniqueId = x.uid → m.epoch = x.epoch → (x.seq - m.nextExpected).toNat ≤ x.replay.length →
        Completes (.linkup p m) s fun d => let y := d.tport p.val
          shows y ∧ pings d ∧ y.resume = true ∧ y.seq = x.seq ∧ y.ne = x.ne ∧ y.pool = x.pool ∧ y.transit = x.transit ∧ y.epoch = x.epoch ∧
          y.replay = x.replay.filter fun f => 2048 ≤ (m.nextExpected - 1 - f.hdr.seq).toNat)) ∧
    (x.st ≠ .handshake ∨ x.gotUp = true → Completes (.linkup p m) s fun d => d = s.dev)) ∧
  (∀ (s : State) (p : Fin 3),
    let x := s.dev.tport p.val
    (x.st = .handshake → x.sentAck = true → Completes (.linkack p) s fun d => let y := d.tport p.val
      y.st = (if s.dev.heldStandby p.val then .standby else .active) ∧ y.kept = true ∧ y.resumed = x.resume ∧ y.returns = 0 ∧
      y.failures = (if x.resume then x.failures else 0) ∧
      d.chain.firstUp.isSome = true ∧ d.line = s.dev.line) ∧
    (x.st = .handshake → x.sentAck = false → x.gotUp = false → Completes (.linkack p) s fun d =>
      d = s.dev.setTport p.val { x with gotAck := true }) ∧
    (x.st ≠ .handshake → Completes (.linkack p) s fun d => d = s.dev)) ∧
  (∀ (s : State) (p : Fin 3) (i : Fin 8) (t1 t2 t3 t4 : BitVec 48),
    let x := s.dev.tport p.val
    (x.st = .handshake ∨ x.st = .active ∨ x.st = .standby → Completes (.ping p i t1 t2 t3) s fun d =>
      d = { s.dev with out := s.dev.out ++ [.ctl p.val (.pong i.val t1 t2 t3)] }) ∧
    (let samples := x.samples.put i.val (((t4 - t1) - (t3 - t2)).toNat / 2)
     let l := (samples.map (·.2)).mergeSort (· ≤ ·)
     (x.st = .handshake → x.sentAck = false → samples.length ≠ 8 → Completes (.pong p i t1 t2 t3 t4) s fun d =>
        d = s.dev.setTport p.val { x with samples := samples }) ∧
     (x.st = .handshake → x.sentAck = false → x.gotUp = true → x.gotAck = false → samples.length = 8 → Completes (.pong p i t1 t2 t3 t4) s fun d =>
        let y : TPort := { x with samples := samples, sentAck := true, delay := (l.getD 3 0 + l.getD 4 0) / 2 }
        d = (s.dev.modTport p.val fun _ => y).say (.ctl p.val .linkack))) ∧
    (x.st ≠ .handshake → Completes (.pong p i t1 t2 t3 t4) s fun d => d = s.dev) ∧
    (x.st = .handshake → x.gotUp = true → x.samples.has i.val = false → Completes (.pingResend p i t1) s fun d =>
      d = { s.dev with out := s.dev.out ++ [.ctl p.val (.ping i.val t1)] }) ∧
    (x.samples.has i.val = true → Completes (.pingResend p i t1) s fun d => d = s.dev))

/-- Failures of a link. A flit that stays unacknowledged, or that a Nak asks for, fails once more: every held flit is sent again, at the
fifth failure the port retrains, at the ninth the link is down (R308, R309); a partner's RETRAIN or 8 us without a good flit retrain it
too (R309, R310); a handshake or retrain not done within 1 ms takes a link down that was up, and else returns the port to TD, which the
third time holds it down (R280, R310, R312). A link that is down holds nothing any more (R314). -/
def Obligations.LinkFailures : Prop :=
  let again (p : Nat) (x : TPort) (d : Dev) : Prop :=
    ∀ f ∈ x.replay, Out.flit p { f with hdr := { f.hdr with mark := false }, marker := none } ∈ d.out
  let down (y : TPort) : Prop := y.st = .td ∧ y.kept = false ∧ y.replay = [] ∧ y.transit = [] ∧ y.pool = [] ∧ y.failures = 0 ∧ y.width = 0
  (∀ (s : State) (p : Fin 3),
    let x := s.dev.tport p.val
    let n := x.failures + 1
    (x.st = .active → x.replay ≠ [] →
      (n < 5 ∨ n = 6 ∨ n = 7 ∨ n = 8 → Completes (.tetherReplayTimerExpiry p) s fun d =>
        (d.tport p.val).failures = n ∧ (d.tport p.val).st = .active ∧ again p.val x d) ∧
      (n = 5 → Completes (.tetherReplayTimerExpiry p) s fun d => (d.tport p.val).failures = 5 ∧ (d.tport p.val).st = .retraining) ∧
      (9 ≤ n → Completes (.tetherReplayTimerExpiry p) s fun d => down (d.tport p.val))) ∧
    (x.replay = [] → Completes (.tetherReplayTimerExpiry p) s fun d => d = s.dev)) ∧
  (∀ (s : State) (p : Fin 3) (ack : BitVec 12),
    let x := s.dev.tport p.val
    let y := x.ackTo ack
    (x.st = .active → y.replay = [] → Completes (.nak p ack) s fun d => d = (s.dev.setTport p.val y).pump p.val) ∧
    (x.st = .active → y.replay ≠ [] → y.failures < 4 → Completes (.nak p ack) s fun d =>
      (d.tport p.val).failures = y.failures + 1 ∧ again p.val y d) ∧
    (x.st ≠ .active → Completes (.nak p ack) s fun d => d = s.dev)) ∧
  (∀ (s : State) (p : Fin 3) (c : Instr), c ∈ [Instr.retrain p, .tetherReceiveSilence p] →
    let x := s.dev.tport p.val
    (x.st = .active ∨ x.st = .standby → Completes c s fun d =>
      d.tport p.val = { x with st := .retraining, counts := x.counts.put 0 (x.counts.val 0 0 + 1) } ∧
      Out.ctl p.val .retrain ∈ d.out ∧ (d.source (srcTether p.val)).sticky = true) ∧
    (x.st ≠ .active → x.st ≠ .standby → Completes c s fun d => d = s.dev)) ∧
  (∀ (s : State) (p : Fin 3),
    let x := s.dev.tport p.val
    (x.st = .retraining ∨ (x.st = .handshake ∧ x.kept = true ∧ x.doze = 0) → Completes (.handshakeTimeout p) s fun d => down (d.tport p.val)) ∧
    (x.st = .handshake → x.kept = false → x.returns < 2 → Completes (.handshakeTimeout p) s fun d =>
      (d.tport p.val).st = .td ∧ (d.tport p.val).returns = x.returns + 1) ∧
    (x.st = .handshake → x.kept = false → x.returns = 2 → Completes (.handshakeTimeout p) s fun d =>
      (d.tport p.val).st = .heldDown ∧ (d.tport p.val).returns = 0) ∧
    (x.st = .td → Completes (.handshakeTimeout p) s fun d => d = s.dev))

/-- Flits. Every good flit's header frees the flits up to its Ack, brings the credits of one class, and lets go what waited for them
(R298, R306, R308). A sequenced flit whose number is the expected one joins the port's pool, or its responses, and is acknowledged; one of
an earlier number is dropped, counted and acknowledged; after a gap a Nak goes out (R307). A bad flit is counted and asked for again, once
(R299, R307). -/
def Obligations.FlitsInOrder : Prop :=
  ∀ (s : State) (p : Fin 3),
    let x := s.dev.tport p.val
    let heard (h : FlitHdr) : Dev := (s.dev.modTport p.val fun x => (x.ackTo h.ack).takeCredits h.crClass.toNat h.crTotal).pump p.val
    (x.st ≠ .active → (∀ h, Settles (.idleFlit p h) s fun e => e = s.dev) ∧ Completes (.badFlit p) s (fun d => d = s.dev) ∧
      ∀ f, Settles (.requestFlit p f) s (fun e => e = s.dev) ∧ Settles (.responseFlit p f) s (fun e => e = s.dev)) ∧
    (x.st = .active →
      (∀ h, h.nak = false → Settles (.idleFlit p h) s fun e => e = heard h) ∧
      (∀ h, h.nak = true → Settles (.idleFlit p h) s fun e => e = ((heard h).flitFails p.val).pump p.val) ∧
      (let counted := { x with counts := x.counts.put 2 (x.counts.val 2 0 + 1) }
       (x.nak = true → Completes (.badFlit p) s fun d => d = (s.dev.setTport p.val counted).bump (evTether p.val 3)) ∧
       (x.nak = false → Completes (.badFlit p) s fun d =>
         (d.tport p.val).nak = true ∧ ∃ h mk, h.nak = true ∧ h.ack = x.ne - 1 ∧ Out.ctl p.val (.idle h mk) ∈ d.out)) ∧
      (∀ c k f, (c, k) ∈ [(Instr.requestFlit p f, (1 : BitVec 2)), (.responseFlit p f, 2)] → f.hdr.kind = k → flitFormed f = true → f.hdr.nak = false →
        let d := heard f.hdr
        let y := { d.tport p.val with ne := x.ne + 1, nak := false }
        (f.hdr.seq = x.ne → Settles c s fun e =>
          e = ((d.setTport p.val (if k = 1 then { y with pool := y.pool ++ [(f.hdr.flitClass.toNat, f.msgs)] }
                                  else { y with rsps := y.rsps ++ f.msgs })).bump (evTether p.val 1)).sendIdle p.val) ∧
        (2048 ≤ (f.hdr.seq - x.ne).toNat → Settles c s fun e => e = (d.bump (evTether p.val 4)).sendIdle p.val) ∧
        (f.hdr.seq ≠ x.ne → (f.hdr.seq - x.ne).toNat < 2048 → Settles c s fun e => e = d.sendNak p.val)) ∧
      (∀ c k f, (c, k) ∈ [(Instr.requestFlit p f, (1 : BitVec 2)), (.responseFlit p f, 2)] → f.hdr.kind ≠ k ∨ flitFormed f = false →
        Settles c s fun e => e = s.dev.badFlit p.val))

/-- Training to lock. A receiver found takes a port in TD to TA, with a new nonce and TTS1 on its lanes; a TTS1 locks its lane, and with
every detected lane, or 2 ms after the first, TC follows, where a TTS2 on every configured lane fixes width, lane order and rate, and TS
follows (R280 to R282); a TTS1 with Reset on a link in use starts the partner's width reset here too (R293). Training to the handshake.
With speed lock TE follows, but for a width reset at a rate whose coefficients are known, which goes to TH (R280, R293); the partner's
receiver moves one coefficient at a time, up to 64 requests, until it is done, and TE ends when both directions are (R283); after TH the
handshake begins (R280). A state that takes too long returns the port to TD, the third time to be held down until its partner leaves
electrical idle (R280); the end of a width reset fixes what lanes are left (R293, R294); a skip block moves a used lane by up to two units
(R278). -/
def Obligations.TetherTraining : Prop :=
  (
    (∀ (s : State) (p : Fin 3) (lanes : BitVec 8),
      let x := s.dev.tport p.val
      (s.dev.clocked = true → x.st = .td → x.doze = 0 → x.retiredLink = false → s.dev.setting idTetherEnable p.val ≠ 0 → lanes ≠ 0 →
        Completes (.tetherReceiverDetected p lanes) s fun d => let y := d.tport p.val
          y.st = .ta ∧ y.present = lanes ∧ y.lock = 0 ∧ y.laneNonce = [] ∧ y.nonce = (s.dev.random 8).1 ∧
          ∃ t, t.nonce = y.nonce ∧ t.reset = (if x.resetting then 1 else 0) ∧ Out.ctl p.val (.tts 0 t) ∈ d.out) ∧
      (x.st ≠ .td ∨ lanes = 0 ∨ s.dev.setting idTetherEnable p.val = 0 → Completes (.tetherReceiverDetected p lanes) s fun d => d = s.dev)) ∧
    (∀ (s : State) (p : Fin 3) (lane : Fin 8) (set : TrainSet),
      let x := s.dev.tport p.val
      (x.st = .ta → x.present.getLsbD lane.val = true → x.retired.getLsbD lane.val = false →
        let y := { x with lock := x.lock ||| BitVec.ofNat 8 (2 ^ lane.val), laneNonce := x.laneNonce.put lane.val set.nonce
                          partnerRates := set.rates, partnerWidth := set.width }
        (y.present &&& ~~~y.retired &&& ~~~y.lock ≠ 0 → Completes (.tts1 p lane set) s fun d =>
          d = s.dev.setTport p.val y) ∧
        (y.present &&& ~~~y.retired &&& ~~~y.lock = 0 → Completes (.tts1 p lane set) s fun d =>
          d.tport p.val = { y with st := .tc, reached := 2 } ∧ ∃ t, Out.ctl p.val (.tts 1 t) ∈ d.out)) ∧
      ((x.st = .active ∨ x.st = .standby ∨ x.st = .retraining) → set.reset.getLsbD 0 = true →
        Completes (.tts1 p lane set) s fun d => ((d.tport p.val).st = .ta ∨ (d.tport p.val).st = .tc) ∧ (d.tport p.val).resetting = true ∧ (d.tport p.val).resetDue = false) ∧
      (x.st = .td → x.doze = 0 → Completes (.tts1 p lane set) s fun d => d = s.dev)) ∧
    (∀ (s : State) (p : Fin 3),
      let x := s.dev.tport p.val
      (x.st = .ta → x.lock ≠ 0 → Completes (.taLockWindowExpiry p) s fun d => d.tport p.val = { x with st := .tc, reached := 2 }) ∧
      (x.st ≠ .ta → Completes (.taLockWindowExpiry p) s fun d => d = s.dev)) ∧
    (∀ (s : State) (p : Fin 3) (lane : Fin 8) (set : TrainSet),
      let x := s.dev.tport p.val
      let y := { x with laneNonce := x.laneNonce.put lane.val set.nonce, partnerRates := set.rates, partnerWidth := set.width
                        partnerPort := BitVec.ofNat 2 set.port.toNat, cfg := x.cfg ||| BitVec.ofNat 8 (2 ^ lane.val) }
      let rate := if set.rates.getLsbD 1 && s.dev.setting idTetherRate p.val = 2 then 2 else 1
      let z := { y with width := y.fit.1, reversed := y.fit.2, rate := rate }
      let whole := ∀ i < 8, laneUsed 8 y.fit.1 y.fit.2 i = true → y.cfg.getLsbD i = true
      (x.st = .tc → x.lock.getLsbD lane.val = true → y.fit.1 ≠ 0 → ¬ whole → Completes (.tts2 p lane set) s fun d => d = s.dev.setTport p.val z) ∧
      (x.st = .tc → x.lock.getLsbD lane.val = true → y.fit.1 ≠ 0 → whole → Completes (.tts2 p lane set) s fun d =>
        d.tport p.val = { z with st := .ts, reached := 3 } ∧ d.out = s.dev.out ++ [.ctl p.val .electricalIdle]) ∧
      (x.st = .tc → x.lock.getLsbD lane.val = true → y.fit.1 = 0 → x.kept = false → x.returns < 2 → Completes (.tts2 p lane set) s fun d =>
        (d.tport p.val).st = .td ∧ (d.tport p.val).returns = x.returns + 1) ∧
      (x.st ≠ .tc → Completes (.tts2 p lane set) s fun d => d = s.dev))) ∧
  (
    ∀ (s : State) (p : Fin 3),
      let x := s.dev.tport p.val
      let set (y : TPort) : Dev := s.dev.setTport p.val y
      (x.st = .ts → ¬ (x.resetting = true ∧ x.coefRate = x.rate) → Completes (.tetherSpeedLock p) s fun d =>
        d.tport p.val = { x with st := .te, reached := 4, eqAsks := 0, eqDone := (false, false), coefs := (0, 0, 0) }) ∧
      (x.st = .ts → x.resetting = true → x.coefRate = x.rate → Completes (.tetherSpeedLock p) s fun d =>
        d = set { x with st := .th, reached := 5 }) ∧
      (∀ k up, x.st = .te → x.eqDone.2 = false → x.eqAsks < 63 → Completes (.equalisationRequest p k up false) s fun d =>
        d = set { x with coefs := coefStep x.coefs k up, eqAsks := x.eqAsks + 1, eqDone := (x.eqDone.1, false) }) ∧
      (∀ k up, x.st = .te → x.eqDone = (false, false) → 63 ≤ x.eqAsks → Completes (.equalisationRequest p k up false) s fun d =>
        d = set { x with coefs := coefStep x.coefs k up, eqAsks := x.eqAsks + 1, eqDone := (false, true) }) ∧
      (∀ k up, x.st = .te → x.eqDone = (true, false) → Completes (.equalisationRequest p k up true) s fun d =>
        d.tport p.val = { x with eqDone := (true, true), coefRate := x.rate, st := .th, reached := 5 }) ∧
      (∀ k up, x.st ≠ .te ∨ x.eqDone.2 = true → ∀ done, Completes (.equalisationRequest p k up done) s fun d => d = s.dev) ∧
      (x.st = .te → x.eqDone = (false, false) →
        Completes (.equalisationTimeLimit p true) s (fun d => d = set { x with eqDone := (true, false) }) ∧
        Completes (.equalisationTimeLimit p false) s (fun d => d = set { x with eqDone := (false, true) })) ∧
      (∀ mine, x.st ≠ .te → Completes (.equalisationTimeLimit p mine) s fun d => d = s.dev) ∧
      (x.st = .th ∨ x.st = .retraining → Completes (.thDeskewDone p) s fun d =>
        d.tport p.val = { x with st := .handshake, reached := 6, gotUp := false, resume := false, sentAck := false, gotAck := false, samples := [] } ∧
        ∃ m : LinkUp, Out.ctl p.val (.linkup m) ∈ d.out ∧ m.resume = x.kept ∧ m.nextExpected = x.ne ∧ m.epoch = x.epoch ∧ m.uniqueId = Config.uniqueId) ∧
      (x.st ≠ .th → x.st ≠ .retraining → Completes (.thDeskewDone p) s fun d => d = s.dev) ∧
      (let r := widthOf 8 fun i => x.present.getLsbD i && !x.retired.getLsbD i && (x.lock = 0 || x.lock.getLsbD i)
       ∀ st ∈ [TState.ta, .tc, .ts, .te, .th], x.st = st → x.resetting = true →
         (r.1 ≠ 0 → Completes (.tetherWidthResetDone p) s fun d =>
           (d.tport p.val).st = .handshake ∧ (d.tport p.val).width = r.1 ∧ (d.tport p.val).reversed = r.2) ∧
         (r.1 = 0 → x.returns < 2 → Completes (.tetherWidthResetDone p) s fun d => (d.tport p.val).st = .td)) ∧
      (x.resetting = false → Completes (.tetherWidthResetDone p) s fun d => d = s.dev) ∧
      (∀ st ∈ [TState.ta, .tc, .ts, .te, .th], x.st = st →
        (x.returns < 2 → Completes (.tetherTrainStateTimeout p) s fun d => (d.tport p.val).st = .td ∧ (d.tport p.val).returns = x.returns + 1) ∧
        (x.returns = 2 → Completes (.tetherTrainStateTimeout p) s fun d => (d.tport p.val).st = .heldDown ∧ (d.tport p.val).returns = 0)) ∧
      (x.st = .active → Completes (.tetherTrainStateTimeout p) s fun d => d = s.dev) ∧
      (x.st = .heldDown → x.retiredLink = false → Completes (.partnerLeavesElectricalIdle p) s fun d =>
        d = set { x with st := .td, returns := 0 }) ∧
      (x.st = .active → Completes (.partnerLeavesElectricalIdle p) s fun d => d = s.dev) ∧
      (∀ (lane : Fin 8) (n : Int), x.width ≠ 0 → laneUsed 8 x.width x.reversed lane.val = true →
        (-2 ≤ n → n ≤ 2 → Completes (.skipBlock p lane n) s fun d =>
          d = set { x with skips := x.skips.put lane.val (x.skips.val lane.val 0 + n) }) ∧
        (2 < n → Completes (.skipBlock p lane n) s fun d => d = s.dev)))

/-- Identify, the background operation commands and the response limit. Each answers on the interface that asked: Identify with the
device's numbers (R268, R333); the status of the interface's background command, how far a running one has come being a free value (log
11); the limit as a power of two, set from 256 bytes up and given to at most 32 KiB (R329, R332); a request to stop is noted for
TABLE.INVAL, GLINT.START and Sanitize, and unsupported for others (R330). An input where none is taken is refused. The layouts are the
model's (PRESUMED, log 8). Timestamp, logs and features. The timestamp set runs on with the boundaries, 250 ns each (R46); the two logs
are the command effects log and the vendor log of the LD, read in pieces that lie within them; there are no features (R333). Layouts
PRESUMED (log 8). -/
def Obligations.StandardInformationAndLogs : Prop :=
  (
    ∀ (s : State) (iss : Issuer) (inp : List Byte), Takes s →
      let d0 := s.dev.doorbell (mailDoorbell iss)
      let box := issuerBox iss
      let power (d : Dev) : List Byte := [BitVec.ofNat 8 ((d.mbox box).respLimit.log2)]
      (∀ c ∈ [Instr.identify iss inp, .backgroundOperationStatus iss inp, .getResponseMessageLimit iss inp, .requestAbortBackgroundOperation iss inp,
              .getTimestamp iss inp, .getSupportedLogs iss inp, .identifyMemoryDevice iss inp, .getHealthInfo iss inp, .getAlertConfiguration iss inp],
        inp ≠ [] → Completes c s fun d => RepliesStd d0 d iss .invalidLength []) ∧
      (inp = [] →
        (Completes (.identify iss inp) s fun d => RepliesStd d0 d iss .success
          (leBytes 2 Config.vendorId.toNat ++ [0x40, 0x4C] ++ leBytes 4 Config.subsystem.toNat ++ leBytes 8 Config.serial.toNat ++ [15, 3])) ∧
        ((d0.mbox box).bg = none → Completes (.backgroundOperationStatus iss inp) s fun d => RepliesStd d0 d iss .success (zeros 8)) ∧
        (∀ b, (d0.mbox box).bg = some b → b.running = false → Completes (.backgroundOperationStatus iss inp) s fun d =>
          RepliesStd d0 d iss .success ([200, 0] ++ leBytes 2 b.opcode.toNat ++ leBytes 2 b.ret.code ++ zeros 2)) ∧
        (∀ b, (d0.mbox box).bg = some b → b.running = true → Completes (.backgroundOperationStatus iss inp) s fun d =>
          ∃ part ≤ 100, AnsweredStd d iss .success ([BitVec.ofNat 8 (1 + 2 * part), 0] ++ leBytes 2 b.opcode.toNat ++ zeros 4)) ∧
        (Completes (.getResponseMessageLimit iss inp) s fun d => RepliesStd d0 d iss .success (power d0)) ∧
        (∀ b, (d0.mbox box).bg = some b → b.running = true →
          (b.opcode ∈ [0xCE11#16, 0xCE20#16, 0x4400#16] → Completes (.requestAbortBackgroundOperation iss inp) s fun d =>
            RepliesStd (d0.modBox box fun x => { x with bg := some { b with abort := true } }) d iss .success []) ∧
          (b.opcode ∉ [0xCE11#16, 0xCE20#16, 0x4400#16] → Completes (.requestAbortBackgroundOperation iss inp) s fun d =>
            RepliesStd d0 d iss .unsupported [])) ∧
        (d0.bgBusy iss = false → Completes (.requestAbortBackgroundOperation iss inp) s fun d => RepliesStd d0 d iss .success [])) ∧
      (let n := field inp 0 1
       let set := d0.modBox box fun b => { b with respLimit := 2 ^ min n 15 }
       (inp.length = 1 → 8 ≤ n → n ≤ 20 → Completes (.setResponseMessageLimit iss inp) s fun d =>
         RepliesStd set d iss .success [BitVec.ofNat 8 (min n 15)]) ∧
       (inp.length = 1 → n < 8 ∨ 20 < n → Completes (.setResponseMessageLimit iss inp) s fun d => RepliesStd d0 d iss .invalidInput []))) ∧
  (
    ∀ (s : State) (iss : Issuer) (inp : List Byte), Takes s →
      let d0 := s.dev.doorbell (mailDoorbell iss)
      (inp.length = 8 → Completes (.setTimestamp iss inp) s fun d => ∃ e : Dev, RepliesStd e d iss .success [] ∧
        e = { d0 with host.timestamp := BitVec.ofNat 64 (field inp 0 8), host.timestampAt := d0.clk.bnd }) ∧
      (inp = [] →
        let t := s.dev.host.timestamp
        (t = 0 → Completes (.getTimestamp iss inp) s fun d => RepliesStd d0 d iss .success (zeros 8)) ∧
        (t ≠ 0 → Completes (.getTimestamp iss inp) s fun d => RepliesStd d0 d iss .success
          (leBytes 8 (t.toNat + 250 * (s.dev.clk.bnd - s.dev.host.timestampAt) + s.dev.clk.clk / 2)))) ∧
      (∀ ld, inp = [] → issuerLd iss = some ld → Completes (.getSupportedLogs iss inp) s fun d => RepliesStd d0 d iss .success
        ([2, 0] ++ zeros 6 ++ uuidBytes uuidCel ++ leBytes 4 celBytes.length ++ uuidBytes Config.vendorLog.toNat ++
          leBytes 4 (d0.vendorBytes ld).length)) ∧
      (∀ ld, inp.length = 24 → issuerLd iss = some ld → inp.take 16 = uuidBytes uuidCel ∨ inp.take 16 = uuidBytes Config.vendorLog.toNat →
        let log := if inp.take 16 = uuidBytes uuidCel then celBytes else d0.vendorBytes ld
        (field inp 16 4 + field inp 20 4 ≤ log.length → field inp 20 4 ≤ (d0.mbox (issuerBox iss)).respLimit → Completes (.getLog iss inp) s fun d =>
          RepliesStd d0 d iss .success (slice log (field inp 16 4) (field inp 20 4))) ∧
        (log.length < field inp 16 4 + field inp 20 4 → Completes (.getLog iss inp) s fun d => RepliesStd d0 d iss .invalidInput [])) ∧
      (inp.length = 8 →
        (rsvd inp 6 2 = true → Completes (.getSupportedFeatures iss inp) s fun d => RepliesStd d0 d iss .success (zeros 8)) ∧
        (rsvd inp 6 2 = false → Completes (.getSupportedFeatures iss inp) s fun d => RepliesStd d0 d iss .invalidInput [])) ∧
      (inp.length = 21 → Completes (.getFeature iss inp) s fun d => RepliesStd d0 d iss .invalidInput []) ∧
      (32 ≤ inp.length → Completes (.setFeature iss inp) s fun d => RepliesStd d0 d iss .invalidInput []))

/-- The memory device, its health and alerts, poison and Sanitize. Inject and Clear Poison write a line as a service request while
diagnostics are unlocked, with an entry for it in the service engines' queue, and are refused otherwise (R333, R386; log 71); the poison
list names the lost lines and the poisoned lines found (R128); Sanitize is a job over every region of the LD with NewKey FFh, as the
interface's background command (R333, R365). Layouts PRESUMED (log 8). -/
def Obligations.StandardMemoryCommands : Prop :=
  ∀ (s : State) (iss : Issuer) (inp : List Byte), Takes s →
    let d0 := s.dev.doorbell (mailDoorbell iss)
    (inp = [] →
      (Completes (.identifyMemoryDevice iss inp) s fun d => RepliesStd d0 d iss .success
        (leBytes 16 d0.flash.version.toNat ++ zeros 32 ++ leBytes 2 128 ++ leBytes 2 128 ++ leBytes 2 128 ++ leBytes 2 128 ++ zeros 4 ++
          leBytes 3 Config.poisonRecords.toNat ++ leBytes 2 Config.poisonInjects.toNat ++ [Config.poisonCaps, Config.qosCaps] ++ leBytes 2 128)) ∧
      (Completes (.getHealthInfo iss inp) s fun d => ∃ h a : Byte, h.toNat < 8 ∧ AnsweredStd d iss .success
        ([h, BitVec.ofNat 8 (flag !(d0.dram.formed && d0.flash.memActive)), a, 0xFF] ++
          leBytes 2 (d0.fault.monitors.foldl (fun n e => max n e.2.1) 0) ++ zeros 4 ++
          leBytes 4 ((d0.ev.ctr.val (ctrDev 0x160) 0).toNat % 2 ^ 32) ++ zeros 4)) ∧
      (Completes (.getAlertConfiguration iss inp) s fun d => RepliesStd d0 d iss .success
        (slice d0.alerts 0 1 ++ [0x1F] ++ slice (leBytes 5 Config.alertCritical.toNat) 0 1 ++ slice d0.alerts 1 1 ++
          slice (leBytes 5 Config.alertCritical.toNat) 1 4 ++ d0.alerts.drop 2))) ∧
    (inp.length = 12 → field inp 0 1 ≤ 31 → field inp 1 1 ≤ 31 → rsvd inp 3 1 = true → Completes (.setAlertConfiguration iss inp) s fun d =>
      AnsweredStd d iss .success [] ∧ d.alerts.length = 10 ∧
      (∀ b < 5, (d.alerts.getD 0 0).getLsbD b = if bit (field inp 0 1) b then bit (field inp 1 1) b else (d0.alerts.getD 0 0).getLsbD b) ∧
      (slice d.alerts 1 1 = if bit (field inp 0 1) 0 then slice inp 2 1 else slice d0.alerts 1 1) ∧
      (∀ b < 4, slice d.alerts (2 + 2 * b) 2 = if bit (field inp 0 1) (b + 1) then slice inp (4 + 2 * b) 2 else slice d0.alerts (2 + 2 * b) 2)) ∧
    (inp.length = 12 → 31 < field inp 0 1 ∨ 31 < field inp 1 1 ∨ rsvd inp 3 1 = false → Completes (.setAlertConfiguration iss inp) s fun d =>
      RepliesStd d0 d iss .invalidInput []) ∧
    (∀ ld, issuerLd iss = some ld →
      (inp.length = 16 → field inp 0 8 % 64 = 0 → Completes (.getPoisonList iss inp) s fun d =>
        let l := (d0.poisonDpas ld).filter fun a => field inp 0 8 ≤ a && a < field inp 0 8 + 64 * field inp 8 8
        let n := min l.length (((d0.mbox (issuerBox iss)).respLimit - 32) / 16)
        RepliesStd d0 d iss .success ([BitVec.ofNat 8 (flag (n < l.length)), 0] ++ zeros 8 ++ leBytes 2 n ++ zeros 20 ++
          (l.take n).flatMap fun a => leBytes 8 a ++ leBytes 4 1 ++ zeros 4)) ∧
      (∀ c x, (c, x) ∈ [(Instr.injectPoison iss inp, none), (.clearPoison iss inp, some (BitVec.ofNat 512 (field inp 8 64)))] →
        inp.length = (if x.isNone then 8 else 72) →
        (d0.unlocked = false → Completes c s fun d => RepliesStd d0 d iss .invalidSecurity []) ∧
        (d0.unlocked = true → field inp 0 8 % 64 = 0 → d0.regionAt ld (field inp 0 8) = none → Completes c s fun d =>
          RepliesStd d0 d iss .invalidPa []) ∧
        (d0.unlocked = true → field inp 0 8 % 64 ≠ 0 → Completes c s fun d => RepliesStd d0 d iss .invalidInput []) ∧
        (d0.unlocked = true → field inp 0 8 % 64 = 0 → d0.regionAt ld (field inp 0 8) ≠ none →
          (d0.power.quiet = false → d0.serviceRoom 3 = true → Completes c s fun d =>
            AnsweredStd d iss .success [] ∧ d.line = d0.line ∧ (∀ n < 256, d.job n = d0.job n) ∧ d.path.reqs = d0.path.reqs ++
              [{ jobReq .write ld (field inp 0 8) 0xC0 with
                 id := d0.fresh.1, src := .job 256, owner := ((d0.job 256).bind (·.owner)).getD 32, data := x.getD 0, poison := x.isNone, atBnd := d0.clk.bnd, atClk := d0.clk.clk }]) ∧
          (d0.power.quiet = true ∨ d0.serviceRoom 3 = false → Completes c s fun d => RepliesStd d0 d iss .retry []))) ∧
      (inp = [] → d0.bgBusy iss = false →
        let rs := (d0.conf.regions.filter fun r => r.home.isNone && r.ld = ld).mergeSort fun a b => a.base ≤ b.base
        (rs = [] → Completes (.sanitizeCommand iss inp) s fun d => RepliesStd d0 d iss .success []) ∧
        (∀ slot, rs ≠ [] → 7 < d0.coresUp → lowestFree d0.jobs.slots.keys 256 = some slot → Completes (.sanitizeCommand iss inp) s fun d =>
          Out.mailbox (issuerBox iss) .bgStarted [] ∈ d.out ∧
          ∃ j b, d.job slot = some j ∧ j.kind = .sanitize ∧ j.st = .queued ∧ j.todo = (rs.flatMap fun r => (List.range r.size).map (r.base + ·)) ∧
            (d.mbox (issuerBox iss)).bg = some b ∧ b.running = true ∧ b.job = some slot)) ∧
      (inp = [] → d0.bgBusy iss = true → Completes (.sanitizeCommand iss inp) s fun d => RepliesStd d0 d iss .busy []))

/-- The commands of the FM-owned LD. They are the management controller's, about an LD of an MLD link, and read and write what the link
holds of its LDs: allocations, QoS control, allocated bandwidth, and the bandwidth limits that cap their admission (R251). Anyone else's
are unsupported (R333). Layouts PRESUMED (log 8). -/
def Obligations.FmOwnedCommands : Prop :=
  ∀ (s : State) (iss : Issuer) (inp : List Byte), Takes s →
    let d0 := s.dev.doorbell (mailDoorbell iss)
    (issuerMc iss = false → ∀ c ∈ [Instr.getLdInfo iss inp, .getLdAllocations iss inp, .setLdAllocations iss inp, .getQosControl iss inp, .setQosControl iss inp,
        .getQosStatus iss inp, .getQosAllocatedBw iss inp, .setQosAllocatedBw iss inp, .getQosBwLimit iss inp, .setQosBwLimit iss inp],
      Completes c s fun d => RepliesStd d0 d iss .unsupported []) ∧
    (∀ ld l, issuerMc iss = true → issuerLd iss = some ld → d0.ldLink ld = some l → (d0.link l).mld = true →
      let x := d0.link l
      let lds := d0.linkLds l
      let a := field inp 0 1
      let b := field inp 1 1
      (inp = [] →
        (Completes (.getLdInfo iss inp) s fun d => ∃ v : BitVec 64, AnsweredStd d iss .success
          (leBytes 8 v.toNat ++ leBytes 2 lds.length ++ [Config.qosCaps])) ∧
        (x.qosControl.length = 7 → Completes (.getQosControl iss inp) s fun d => RepliesStd d0 d iss .success x.qosControl) ∧
        (Completes (.getQosStatus iss inp) s fun d => ∃ v : Byte, AnsweredStd d iss .success [v])) ∧
      (inp.length = 2 →
        (a + b ≤ lds.length → Completes (.getLdAllocations iss inp) s fun d => RepliesStd d0 d iss .success
          ([BitVec.ofNat 8 lds.length, 0, BitVec.ofNat 8 a, BitVec.ofNat 8 b] ++ slice (kept x.ldAlloc 16) (16 * a) (16 * b))) ∧
        (b + a ≤ lds.length →
          (Completes (.getQosAllocatedBw iss inp) s fun d => RepliesStd d0 d iss .success
            ([BitVec.ofNat 8 a, BitVec.ofNat 8 b] ++ slice (kept x.qosBw 1) b a)) ∧
          (Completes (.getQosBwLimit iss inp) s fun d => RepliesStd d0 d iss .success
            ([BitVec.ofNat 8 a, BitVec.ofNat 8 b] ++ ((lds.drop b).take a).map fun ld => (d0.ld ld).bwLimit)))) ∧
      (inp.length = 4 + 16 * a → b + a ≤ lds.length → rsvd inp 2 2 = true → Completes (.setLdAllocations iss inp) s fun d =>
        RepliesStd (d0.setLink l { x with ldAlloc := overlay (kept x.ldAlloc 16) (16 * b) (inp.drop 4) }) d iss .success inp) ∧
      (inp.length = 7 →
        let bad := 3 < a ∨ 127 < b ∨ 127 < field inp 2 1 ∨ 15 < field inp 3 1
        (¬bad → Completes (.setQosControl iss inp) s fun d => RepliesStd (d0.setLink l { x with qosControl := inp }) d iss .success inp) ∧
        (bad → Completes (.setQosControl iss inp) s fun d => RepliesStd d0 d iss .invalidInput [])) ∧
      (inp.length = 2 + a → b + a ≤ lds.length →
        (Completes (.setQosAllocatedBw iss inp) s fun d =>
          RepliesStd (d0.setLink l { x with qosBw := overlay (kept x.qosBw 1) b (inp.drop 2) }) d iss .success inp) ∧
        (Completes (.setQosBwLimit iss inp) s fun d => AnsweredStd d iss .success inp ∧
          (∀ i < a, ∀ k, lds[b + i]? = some k → (d.ld k).bwLimit = inp.getD (2 + i) 0) ∧
          ∀ k, k ∉ (lds.drop b).take a → (d.ld k).bwLimit = (d0.ld k).bwLimit)))
end

