-- ==== Sys2Proof/Laws/Tab.lean ====
section
/-! SUPPORT. What reading a sparse table gives after an entry was put in it or taken out, and what `each` keeps. -/

namespace Sys2Proof.Machine

open Sys2Proof

variable {α σ : Type}

/-- The entry just put is the one read. -/
@[simp] theorem Tab.look_put_self (t : Tab α) (k : Nat) (v : α) : (t.put k v).look k = some v := by
  induction t with
  | nil => simp [Tab.put, Tab.look]
  | cons e t ih =>
    obtain ⟨k', v'⟩ := e
    simp only [Tab.put]
    split
    · simp [Tab.look]
    · split
      · simp [Tab.look]
      · rename_i h; simp [Tab.look, h, ih]

/-- Of two entries put at one index the later stays. -/
@[simp] theorem Tab.put_put (t : Tab α) (k : Nat) (v w : α) : (t.put k v).put k w = t.put k w := by
  induction t with
  | nil => simp [Tab.put]
  | cons e t ih =>
    obtain ⟨k', v'⟩ := e
    by_cases h : k < k'
    · simp [Tab.put, h]
    · by_cases h' : k = k'
      · simp [Tab.put, h']
      · simp [Tab.put, h, h', ih]

/-- Every other entry reads as before. -/
@[simp] theorem Tab.look_put_ne (t : Tab α) {k j : Nat} (v : α) (h : j ≠ k) : (t.put k v).look j = t.look j := by
  induction t with
  | nil => simp [Tab.put, Tab.look, h]
  | cons e t ih =>
    obtain ⟨k', v'⟩ := e
    simp only [Tab.put]
    split
    · simp [Tab.look, h]
    · split
      · rename_i _ hk; subst hk; simp [Tab.look, h]
      · simp [Tab.look, ih]

@[simp] theorem Tab.val_put_self (t : Tab α) (k : Nat) (v d : α) : (t.put k v).val k d = v := by
  simp [Tab.val]

@[simp] theorem Tab.val_put_ne (t : Tab α) {k j : Nat} (v d : α) (h : j ≠ k) : (t.put k v).val j d = t.val j d := by
  simp [Tab.val, h]

@[simp] theorem Tab.has_put_self (t : Tab α) (k : Nat) (v : α) : (t.put k v).has k = true := by simp [Tab.has]

/-- An entry taken out reads as unlisted. -/
@[simp] theorem Tab.look_del_self (t : Tab α) (k : Nat) : (t.del k).look k = none := by
  induction t with
  | nil => rfl
  | cons e t ih =>
    obtain ⟨k', v'⟩ := e
    by_cases h : k' = k
    · subst h; simpa [Tab.del] using ih
    · have h' : ¬ k = k' := fun x => h x.symm
      simpa [Tab.del, h, Tab.look, h'] using ih

@[simp] theorem Tab.look_del_ne (t : Tab α) {k j : Nat} (h : j ≠ k) : (t.del k).look j = t.look j := by
  induction t with
  | nil => rfl
  | cons e t ih =>
    obtain ⟨k', v'⟩ := e
    by_cases hk : k' = k
    · subst hk; simpa [Tab.del, Tab.look, h] using ih
    · simp only [Tab.del, Tab.look, List.filter_cons] at ih ⊢
      simp only [ne_eq, hk, not_false_eq_true, decide_true, if_true, Tab.look]
      split
      · rfl
      · exact ih

/-- What holds of a state and every step of the loop keeps holds after the loop. -/
theorem each_induct {l : List α} {s : σ} {f : σ → α → σ} (P : σ → Prop) (h : P s) (step : ∀ s a, a ∈ l → P s → P (f s a)) :
    P (each l s f) := by
  induction l generalizing s with
  | nil => exact h
  | cons a l ih =>
    exact ih (step s a (List.mem_cons_self ..) h) fun s b hb => step s b (List.mem_cons_of_mem _ hb)

/-- A part of the state that every step of a loop leaves alone is as it was. -/
theorem each_keeps {β : Type} (l : List α) (s : σ) (f : σ → α → σ) (g : σ → β) (step : ∀ s a, g (f s a) = g s) :
    g (each l s f) = g s :=
  each_induct (fun t => g t = g s) rfl fun t a _ h => (step t a).trans h

end Sys2Proof.Machine
end

