-- ==== Sys2Proof/Laws/State.lean ====
section
/-! SUPPORT. What each update of a numbered part of the device writes and leaves alone, field by field, and what reading the part
back gives. -/

namespace Sys2Proof.Machine

open Sys2Proof

variable (d : Dev)

/-! ### Dev.setLd -/

@[simp] theorem Dev.setLd_boot (n : Nat) (x : Ld) : (d.setLd n x).boot = d.boot := rfl
@[simp] theorem Dev.setLd_clk (n : Nat) (x : Ld) : (d.setLd n x).clk = d.clk := rfl
@[simp] theorem Dev.setLd_conf (n : Nat) (x : Ld) : (d.setLd n x).conf = d.conf := rfl
@[simp] theorem Dev.setLd_path (n : Nat) (x : Ld) : (d.setLd n x).path = d.path := rfl
@[simp] theorem Dev.setLd_xl (n : Nat) (x : Ld) : (d.setLd n x).xl = d.xl := rfl
@[simp] theorem Dev.setLd_line (n : Nat) (x : Ld) : (d.setLd n x).line = d.line := rfl
@[simp] theorem Dev.setLd_tiers (n : Nat) (x : Ld) : (d.setLd n x).tiers = d.tiers := rfl
@[simp] theorem Dev.setLd_prism (n : Nat) (x : Ld) : (d.setLd n x).prism = d.prism := rfl
@[simp] theorem Dev.setLd_dram (n : Nat) (x : Ld) : (d.setLd n x).dram = d.dram := rfl
@[simp] theorem Dev.setLd_home (n : Nat) (x : Ld) : (d.setLd n x).home = d.home := rfl
@[simp] theorem Dev.setLd_fault (n : Nat) (x : Ld) : (d.setLd n x).fault = d.fault := rfl
@[simp] theorem Dev.setLd_ev (n : Nat) (x : Ld) : (d.setLd n x).ev = d.ev := rfl
@[simp] theorem Dev.setLd_chain (n : Nat) (x : Ld) : (d.setLd n x).chain = d.chain := rfl
@[simp] theorem Dev.setLd_jobs (n : Nat) (x : Ld) : (d.setLd n x).jobs = d.jobs := rfl
@[simp] theorem Dev.setLd_glint (n : Nat) (x : Ld) : (d.setLd n x).glint = d.glint := rfl
@[simp] theorem Dev.setLd_hitch (n : Nat) (x : Ld) : (d.setLd n x).hitch = d.hitch := rfl
@[simp] theorem Dev.setLd_power (n : Nat) (x : Ld) : (d.setLd n x).power = d.power := rfl
@[simp] theorem Dev.setLd_flash (n : Nat) (x : Ld) : (d.setLd n x).flash = d.flash := rfl
@[simp] theorem Dev.setLd_out (n : Nat) (x : Ld) : (d.setLd n x).out = d.out := rfl
@[simp] theorem Dev.setLd_host_lds (n : Nat) (x : Ld) : (d.setLd n x).host.lds = d.host.lds.put n x := rfl
@[simp] theorem Dev.setLd_host_links (n : Nat) (x : Ld) : (d.setLd n x).host.links = d.host.links := rfl
@[simp] theorem Dev.setLd_host_ports (n : Nat) (x : Ld) : (d.setLd n x).host.ports = d.host.ports := rfl
@[simp] theorem Dev.setLd_host_boxes (n : Nat) (x : Ld) : (d.setLd n x).host.boxes = d.host.boxes := rfl
@[simp] theorem Dev.setLd_host_asks (n : Nat) (x : Ld) : (d.setLd n x).host.asks = d.host.asks := rfl
@[simp] theorem Dev.setLd_host_mcSession (n : Nat) (x : Ld) : (d.setLd n x).host.mcSession = d.host.mcSession := rfl
@[simp] theorem Dev.setLd_host_mctpPolicy (n : Nat) (x : Ld) : (d.setLd n x).host.mctpPolicy = d.host.mctpPolicy := rfl
@[simp] theorem Dev.setLd_host_timestamp (n : Nat) (x : Ld) : (d.setLd n x).host.timestamp = d.host.timestamp := rfl
@[simp] theorem Dev.setLd_host_timestampAt (n : Nat) (x : Ld) : (d.setLd n x).host.timestampAt = d.host.timestampAt := rfl
@[simp] theorem Dev.setLd_host_alerts (n : Nat) (x : Ld) : (d.setLd n x).host.alerts = d.host.alerts := rfl
@[simp] theorem Dev.setLd_host_i3cHeld (n : Nat) (x : Ld) : (d.setLd n x).host.i3cHeld = d.host.i3cHeld := rfl
@[simp] theorem Dev.setLd_host_diagUntil (n : Nat) (x : Ld) : (d.setLd n x).host.diagUntil = d.host.diagUntil := rfl

/-! ### Dev.modLd -/

@[simp] theorem Dev.modLd_boot (n : Nat) (f : Ld → Ld) : (d.modLd n f).boot = d.boot := rfl
@[simp] theorem Dev.modLd_clk (n : Nat) (f : Ld → Ld) : (d.modLd n f).clk = d.clk := rfl
@[simp] theorem Dev.modLd_conf (n : Nat) (f : Ld → Ld) : (d.modLd n f).conf = d.conf := rfl
@[simp] theorem Dev.modLd_path (n : Nat) (f : Ld → Ld) : (d.modLd n f).path = d.path := rfl
@[simp] theorem Dev.modLd_xl (n : Nat) (f : Ld → Ld) : (d.modLd n f).xl = d.xl := rfl
@[simp] theorem Dev.modLd_line (n : Nat) (f : Ld → Ld) : (d.modLd n f).line = d.line := rfl
@[simp] theorem Dev.modLd_tiers (n : Nat) (f : Ld → Ld) : (d.modLd n f).tiers = d.tiers := rfl
@[simp] theorem Dev.modLd_prism (n : Nat) (f : Ld → Ld) : (d.modLd n f).prism = d.prism := rfl
@[simp] theorem Dev.modLd_dram (n : Nat) (f : Ld → Ld) : (d.modLd n f).dram = d.dram := rfl
@[simp] theorem Dev.modLd_home (n : Nat) (f : Ld → Ld) : (d.modLd n f).home = d.home := rfl
@[simp] theorem Dev.modLd_fault (n : Nat) (f : Ld → Ld) : (d.modLd n f).fault = d.fault := rfl
@[simp] theorem Dev.modLd_ev (n : Nat) (f : Ld → Ld) : (d.modLd n f).ev = d.ev := rfl
@[simp] theorem Dev.modLd_chain (n : Nat) (f : Ld → Ld) : (d.modLd n f).chain = d.chain := rfl
@[simp] theorem Dev.modLd_jobs (n : Nat) (f : Ld → Ld) : (d.modLd n f).jobs = d.jobs := rfl
@[simp] theorem Dev.modLd_glint (n : Nat) (f : Ld → Ld) : (d.modLd n f).glint = d.glint := rfl
@[simp] theorem Dev.modLd_hitch (n : Nat) (f : Ld → Ld) : (d.modLd n f).hitch = d.hitch := rfl
@[simp] theorem Dev.modLd_power (n : Nat) (f : Ld → Ld) : (d.modLd n f).power = d.power := rfl
@[simp] theorem Dev.modLd_flash (n : Nat) (f : Ld → Ld) : (d.modLd n f).flash = d.flash := rfl
@[simp] theorem Dev.modLd_out (n : Nat) (f : Ld → Ld) : (d.modLd n f).out = d.out := rfl
@[simp] theorem Dev.modLd_host_lds (n : Nat) (f : Ld → Ld) : (d.modLd n f).host.lds = d.host.lds.put n (f (d.ld n)) := rfl
@[simp] theorem Dev.modLd_host_links (n : Nat) (f : Ld → Ld) : (d.modLd n f).host.links = d.host.links := rfl
@[simp] theorem Dev.modLd_host_ports (n : Nat) (f : Ld → Ld) : (d.modLd n f).host.ports = d.host.ports := rfl
@[simp] theorem Dev.modLd_host_boxes (n : Nat) (f : Ld → Ld) : (d.modLd n f).host.boxes = d.host.boxes := rfl
@[simp] theorem Dev.modLd_host_asks (n : Nat) (f : Ld → Ld) : (d.modLd n f).host.asks = d.host.asks := rfl
@[simp] theorem Dev.modLd_host_mcSession (n : Nat) (f : Ld → Ld) : (d.modLd n f).host.mcSession = d.host.mcSession := rfl
@[simp] theorem Dev.modLd_host_mctpPolicy (n : Nat) (f : Ld → Ld) : (d.modLd n f).host.mctpPolicy = d.host.mctpPolicy := rfl
@[simp] theorem Dev.modLd_host_timestamp (n : Nat) (f : Ld → Ld) : (d.modLd n f).host.timestamp = d.host.timestamp := rfl
@[simp] theorem Dev.modLd_host_timestampAt (n : Nat) (f : Ld → Ld) : (d.modLd n f).host.timestampAt = d.host.timestampAt := rfl
@[simp] theorem Dev.modLd_host_alerts (n : Nat) (f : Ld → Ld) : (d.modLd n f).host.alerts = d.host.alerts := rfl
@[simp] theorem Dev.modLd_host_i3cHeld (n : Nat) (f : Ld → Ld) : (d.modLd n f).host.i3cHeld = d.host.i3cHeld := rfl
@[simp] theorem Dev.modLd_host_diagUntil (n : Nat) (f : Ld → Ld) : (d.modLd n f).host.diagUntil = d.host.diagUntil := rfl

/-! ### Dev.setLink -/

@[simp] theorem Dev.setLink_boot (n : Nat) (x : HLink) : (d.setLink n x).boot = d.boot := rfl
@[simp] theorem Dev.setLink_clk (n : Nat) (x : HLink) : (d.setLink n x).clk = d.clk := rfl
@[simp] theorem Dev.setLink_conf (n : Nat) (x : HLink) : (d.setLink n x).conf = d.conf := rfl
@[simp] theorem Dev.setLink_path (n : Nat) (x : HLink) : (d.setLink n x).path = d.path := rfl
@[simp] theorem Dev.setLink_xl (n : Nat) (x : HLink) : (d.setLink n x).xl = d.xl := rfl
@[simp] theorem Dev.setLink_line (n : Nat) (x : HLink) : (d.setLink n x).line = d.line := rfl
@[simp] theorem Dev.setLink_tiers (n : Nat) (x : HLink) : (d.setLink n x).tiers = d.tiers := rfl
@[simp] theorem Dev.setLink_prism (n : Nat) (x : HLink) : (d.setLink n x).prism = d.prism := rfl
@[simp] theorem Dev.setLink_dram (n : Nat) (x : HLink) : (d.setLink n x).dram = d.dram := rfl
@[simp] theorem Dev.setLink_home (n : Nat) (x : HLink) : (d.setLink n x).home = d.home := rfl
@[simp] theorem Dev.setLink_fault (n : Nat) (x : HLink) : (d.setLink n x).fault = d.fault := rfl
@[simp] theorem Dev.setLink_ev (n : Nat) (x : HLink) : (d.setLink n x).ev = d.ev := rfl
@[simp] theorem Dev.setLink_chain (n : Nat) (x : HLink) : (d.setLink n x).chain = d.chain := rfl
@[simp] theorem Dev.setLink_jobs (n : Nat) (x : HLink) : (d.setLink n x).jobs = d.jobs := rfl
@[simp] theorem Dev.setLink_glint (n : Nat) (x : HLink) : (d.setLink n x).glint = d.glint := rfl
@[simp] theorem Dev.setLink_hitch (n : Nat) (x : HLink) : (d.setLink n x).hitch = d.hitch := rfl
@[simp] theorem Dev.setLink_power (n : Nat) (x : HLink) : (d.setLink n x).power = d.power := rfl
@[simp] theorem Dev.setLink_flash (n : Nat) (x : HLink) : (d.setLink n x).flash = d.flash := rfl
@[simp] theorem Dev.setLink_out (n : Nat) (x : HLink) : (d.setLink n x).out = d.out := rfl
@[simp] theorem Dev.setLink_host_links (n : Nat) (x : HLink) : (d.setLink n x).host.links = d.host.links.put n x := rfl
@[simp] theorem Dev.setLink_host_lds (n : Nat) (x : HLink) : (d.setLink n x).host.lds = d.host.lds := rfl
@[simp] theorem Dev.setLink_host_ports (n : Nat) (x : HLink) : (d.setLink n x).host.ports = d.host.ports := rfl
@[simp] theorem Dev.setLink_host_boxes (n : Nat) (x : HLink) : (d.setLink n x).host.boxes = d.host.boxes := rfl
@[simp] theorem Dev.setLink_host_i3cHeld (n : Nat) (x : HLink) : (d.setLink n x).host.i3cHeld = d.host.i3cHeld := rfl

/-! ### Dev.modLink -/

@[simp] theorem Dev.modLink_boot (n : Nat) (f : HLink → HLink) : (d.modLink n f).boot = d.boot := rfl
@[simp] theorem Dev.modLink_clk (n : Nat) (f : HLink → HLink) : (d.modLink n f).clk = d.clk := rfl
@[simp] theorem Dev.modLink_conf (n : Nat) (f : HLink → HLink) : (d.modLink n f).conf = d.conf := rfl
@[simp] theorem Dev.modLink_path (n : Nat) (f : HLink → HLink) : (d.modLink n f).path = d.path := rfl
@[simp] theorem Dev.modLink_xl (n : Nat) (f : HLink → HLink) : (d.modLink n f).xl = d.xl := rfl
@[simp] theorem Dev.modLink_line (n : Nat) (f : HLink → HLink) : (d.modLink n f).line = d.line := rfl
@[simp] theorem Dev.modLink_tiers (n : Nat) (f : HLink → HLink) : (d.modLink n f).tiers = d.tiers := rfl
@[simp] theorem Dev.modLink_prism (n : Nat) (f : HLink → HLink) : (d.modLink n f).prism = d.prism := rfl
@[simp] theorem Dev.modLink_dram (n : Nat) (f : HLink → HLink) : (d.modLink n f).dram = d.dram := rfl
@[simp] theorem Dev.modLink_home (n : Nat) (f : HLink → HLink) : (d.modLink n f).home = d.home := rfl
@[simp] theorem Dev.modLink_fault (n : Nat) (f : HLink → HLink) : (d.modLink n f).fault = d.fault := rfl
@[simp] theorem Dev.modLink_ev (n : Nat) (f : HLink → HLink) : (d.modLink n f).ev = d.ev := rfl
@[simp] theorem Dev.modLink_chain (n : Nat) (f : HLink → HLink) : (d.modLink n f).chain = d.chain := rfl
@[simp] theorem Dev.modLink_jobs (n : Nat) (f : HLink → HLink) : (d.modLink n f).jobs = d.jobs := rfl
@[simp] theorem Dev.modLink_glint (n : Nat) (f : HLink → HLink) : (d.modLink n f).glint = d.glint := rfl
@[simp] theorem Dev.modLink_hitch (n : Nat) (f : HLink → HLink) : (d.modLink n f).hitch = d.hitch := rfl
@[simp] theorem Dev.modLink_power (n : Nat) (f : HLink → HLink) : (d.modLink n f).power = d.power := rfl
@[simp] theorem Dev.modLink_flash (n : Nat) (f : HLink → HLink) : (d.modLink n f).flash = d.flash := rfl
@[simp] theorem Dev.modLink_out (n : Nat) (f : HLink → HLink) : (d.modLink n f).out = d.out := rfl
@[simp] theorem Dev.modLink_host_links (n : Nat) (f : HLink → HLink) : (d.modLink n f).host.links = d.host.links.put n (f (d.link n)) := rfl
@[simp] theorem Dev.modLink_host_lds (n : Nat) (f : HLink → HLink) : (d.modLink n f).host.lds = d.host.lds := rfl
@[simp] theorem Dev.modLink_host_ports (n : Nat) (f : HLink → HLink) : (d.modLink n f).host.ports = d.host.ports := rfl
@[simp] theorem Dev.modLink_host_boxes (n : Nat) (f : HLink → HLink) : (d.modLink n f).host.boxes = d.host.boxes := rfl
@[simp] theorem Dev.modLink_host_i3cHeld (n : Nat) (f : HLink → HLink) : (d.modLink n f).host.i3cHeld = d.host.i3cHeld := rfl

/-! ### Dev.modPort -/

@[simp] theorem Dev.modPort_boot (n : Nat) (f : HPortSt → HPortSt) : (d.modPort n f).boot = d.boot := rfl
@[simp] theorem Dev.modPort_clk (n : Nat) (f : HPortSt → HPortSt) : (d.modPort n f).clk = d.clk := rfl
@[simp] theorem Dev.modPort_conf (n : Nat) (f : HPortSt → HPortSt) : (d.modPort n f).conf = d.conf := rfl
@[simp] theorem Dev.modPort_path (n : Nat) (f : HPortSt → HPortSt) : (d.modPort n f).path = d.path := rfl
@[simp] theorem Dev.modPort_xl (n : Nat) (f : HPortSt → HPortSt) : (d.modPort n f).xl = d.xl := rfl
@[simp] theorem Dev.modPort_line (n : Nat) (f : HPortSt → HPortSt) : (d.modPort n f).line = d.line := rfl
@[simp] theorem Dev.modPort_tiers (n : Nat) (f : HPortSt → HPortSt) : (d.modPort n f).tiers = d.tiers := rfl
@[simp] theorem Dev.modPort_prism (n : Nat) (f : HPortSt → HPortSt) : (d.modPort n f).prism = d.prism := rfl
@[simp] theorem Dev.modPort_dram (n : Nat) (f : HPortSt → HPortSt) : (d.modPort n f).dram = d.dram := rfl
@[simp] theorem Dev.modPort_home (n : Nat) (f : HPortSt → HPortSt) : (d.modPort n f).home = d.home := rfl
@[simp] theorem Dev.modPort_fault (n : Nat) (f : HPortSt → HPortSt) : (d.modPort n f).fault = d.fault := rfl
@[simp] theorem Dev.modPort_ev (n : Nat) (f : HPortSt → HPortSt) : (d.modPort n f).ev = d.ev := rfl
@[simp] theorem Dev.modPort_chain (n : Nat) (f : HPortSt → HPortSt) : (d.modPort n f).chain = d.chain := rfl
@[simp] theorem Dev.modPort_jobs (n : Nat) (f : HPortSt → HPortSt) : (d.modPort n f).jobs = d.jobs := rfl
@[simp] theorem Dev.modPort_glint (n : Nat) (f : HPortSt → HPortSt) : (d.modPort n f).glint = d.glint := rfl
@[simp] theorem Dev.modPort_hitch (n : Nat) (f : HPortSt → HPortSt) : (d.modPort n f).hitch = d.hitch := rfl
@[simp] theorem Dev.modPort_power (n : Nat) (f : HPortSt → HPortSt) : (d.modPort n f).power = d.power := rfl
@[simp] theorem Dev.modPort_flash (n : Nat) (f : HPortSt → HPortSt) : (d.modPort n f).flash = d.flash := rfl
@[simp] theorem Dev.modPort_out (n : Nat) (f : HPortSt → HPortSt) : (d.modPort n f).out = d.out := rfl
@[simp] theorem Dev.modPort_host_ports (n : Nat) (f : HPortSt → HPortSt) : (d.modPort n f).host.ports = d.host.ports.put n (f (d.port n)) := rfl
@[simp] theorem Dev.modPort_host_lds (n : Nat) (f : HPortSt → HPortSt) : (d.modPort n f).host.lds = d.host.lds := rfl
@[simp] theorem Dev.modPort_host_links (n : Nat) (f : HPortSt → HPortSt) : (d.modPort n f).host.links = d.host.links := rfl
@[simp] theorem Dev.modPort_host_boxes (n : Nat) (f : HPortSt → HPortSt) : (d.modPort n f).host.boxes = d.host.boxes := rfl

/-! ### Dev.modBox -/

@[simp] theorem Dev.modBox_boot (n : Nat) (f : Mbox → Mbox) : (d.modBox n f).boot = d.boot := rfl
@[simp] theorem Dev.modBox_clk (n : Nat) (f : Mbox → Mbox) : (d.modBox n f).clk = d.clk := rfl
@[simp] theorem Dev.modBox_conf (n : Nat) (f : Mbox → Mbox) : (d.modBox n f).conf = d.conf := rfl
@[simp] theorem Dev.modBox_path (n : Nat) (f : Mbox → Mbox) : (d.modBox n f).path = d.path := rfl
@[simp] theorem Dev.modBox_xl (n : Nat) (f : Mbox → Mbox) : (d.modBox n f).xl = d.xl := rfl
@[simp] theorem Dev.modBox_line (n : Nat) (f : Mbox → Mbox) : (d.modBox n f).line = d.line := rfl
@[simp] theorem Dev.modBox_tiers (n : Nat) (f : Mbox → Mbox) : (d.modBox n f).tiers = d.tiers := rfl
@[simp] theorem Dev.modBox_prism (n : Nat) (f : Mbox → Mbox) : (d.modBox n f).prism = d.prism := rfl
@[simp] theorem Dev.modBox_dram (n : Nat) (f : Mbox → Mbox) : (d.modBox n f).dram = d.dram := rfl
@[simp] theorem Dev.modBox_home (n : Nat) (f : Mbox → Mbox) : (d.modBox n f).home = d.home := rfl
@[simp] theorem Dev.modBox_fault (n : Nat) (f : Mbox → Mbox) : (d.modBox n f).fault = d.fault := rfl
@[simp] theorem Dev.modBox_ev (n : Nat) (f : Mbox → Mbox) : (d.modBox n f).ev = d.ev := rfl
@[simp] theorem Dev.modBox_chain (n : Nat) (f : Mbox → Mbox) : (d.modBox n f).chain = d.chain := rfl
@[simp] theorem Dev.modBox_jobs (n : Nat) (f : Mbox → Mbox) : (d.modBox n f).jobs = d.jobs := rfl
@[simp] theorem Dev.modBox_glint (n : Nat) (f : Mbox → Mbox) : (d.modBox n f).glint = d.glint := rfl
@[simp] theorem Dev.modBox_hitch (n : Nat) (f : Mbox → Mbox) : (d.modBox n f).hitch = d.hitch := rfl
@[simp] theorem Dev.modBox_power (n : Nat) (f : Mbox → Mbox) : (d.modBox n f).power = d.power := rfl
@[simp] theorem Dev.modBox_flash (n : Nat) (f : Mbox → Mbox) : (d.modBox n f).flash = d.flash := rfl
@[simp] theorem Dev.modBox_out (n : Nat) (f : Mbox → Mbox) : (d.modBox n f).out = d.out := rfl
@[simp] theorem Dev.modBox_host_boxes (n : Nat) (f : Mbox → Mbox) : (d.modBox n f).host.boxes = d.host.boxes.put n (f (d.mbox n)) := rfl
@[simp] theorem Dev.modBox_host_lds (n : Nat) (f : Mbox → Mbox) : (d.modBox n f).host.lds = d.host.lds := rfl
@[simp] theorem Dev.modBox_host_links (n : Nat) (f : Mbox → Mbox) : (d.modBox n f).host.links = d.host.links := rfl
@[simp] theorem Dev.modBox_host_ports (n : Nat) (f : Mbox → Mbox) : (d.modBox n f).host.ports = d.host.ports := rfl
@[simp] theorem Dev.modBox_host_i3cHeld (n : Nat) (f : Mbox → Mbox) : (d.modBox n f).host.i3cHeld = d.host.i3cHeld := rfl

/-! ### Dev.setChan -/

@[simp] theorem Dev.setChan_boot (n : Nat) (x : Chan) : (d.setChan n x).boot = d.boot := rfl
@[simp] theorem Dev.setChan_clk (n : Nat) (x : Chan) : (d.setChan n x).clk = d.clk := rfl
@[simp] theorem Dev.setChan_conf (n : Nat) (x : Chan) : (d.setChan n x).conf = d.conf := rfl
@[simp] theorem Dev.setChan_host (n : Nat) (x : Chan) : (d.setChan n x).host = d.host := rfl
@[simp] theorem Dev.setChan_path (n : Nat) (x : Chan) : (d.setChan n x).path = d.path := rfl
@[simp] theorem Dev.setChan_xl (n : Nat) (x : Chan) : (d.setChan n x).xl = d.xl := rfl
@[simp] theorem Dev.setChan_line (n : Nat) (x : Chan) : (d.setChan n x).line = d.line := rfl
@[simp] theorem Dev.setChan_tiers (n : Nat) (x : Chan) : (d.setChan n x).tiers = d.tiers := rfl
@[simp] theorem Dev.setChan_prism (n : Nat) (x : Chan) : (d.setChan n x).prism = d.prism := rfl
@[simp] theorem Dev.setChan_home (n : Nat) (x : Chan) : (d.setChan n x).home = d.home := rfl
@[simp] theorem Dev.setChan_fault (n : Nat) (x : Chan) : (d.setChan n x).fault = d.fault := rfl
@[simp] theorem Dev.setChan_ev (n : Nat) (x : Chan) : (d.setChan n x).ev = d.ev := rfl
@[simp] theorem Dev.setChan_chain (n : Nat) (x : Chan) : (d.setChan n x).chain = d.chain := rfl
@[simp] theorem Dev.setChan_jobs (n : Nat) (x : Chan) : (d.setChan n x).jobs = d.jobs := rfl
@[simp] theorem Dev.setChan_glint (n : Nat) (x : Chan) : (d.setChan n x).glint = d.glint := rfl
@[simp] theorem Dev.setChan_hitch (n : Nat) (x : Chan) : (d.setChan n x).hitch = d.hitch := rfl
@[simp] theorem Dev.setChan_power (n : Nat) (x : Chan) : (d.setChan n x).power = d.power := rfl
@[simp] theorem Dev.setChan_flash (n : Nat) (x : Chan) : (d.setChan n x).flash = d.flash := rfl
@[simp] theorem Dev.setChan_out (n : Nat) (x : Chan) : (d.setChan n x).out = d.out := rfl
@[simp] theorem Dev.setChan_dram_chans (n : Nat) (x : Chan) : (d.setChan n x).dram.chans = d.dram.chans.put n x := rfl
@[simp] theorem Dev.setChan_dram_accs (n : Nat) (x : Chan) : (d.setChan n x).dram.accs = d.dram.accs := rfl
@[simp] theorem Dev.setChan_dram_ranks (n : Nat) (x : Chan) : (d.setChan n x).dram.ranks = d.dram.ranks := rfl

/-! ### Dev.modChan -/

@[simp] theorem Dev.modChan_boot (n : Nat) (f : Chan → Chan) : (d.modChan n f).boot = d.boot := rfl
@[simp] theorem Dev.modChan_clk (n : Nat) (f : Chan → Chan) : (d.modChan n f).clk = d.clk := rfl
@[simp] theorem Dev.modChan_conf (n : Nat) (f : Chan → Chan) : (d.modChan n f).conf = d.conf := rfl
@[simp] theorem Dev.modChan_host (n : Nat) (f : Chan → Chan) : (d.modChan n f).host = d.host := rfl
@[simp] theorem Dev.modChan_path (n : Nat) (f : Chan → Chan) : (d.modChan n f).path = d.path := rfl
@[simp] theorem Dev.modChan_xl (n : Nat) (f : Chan → Chan) : (d.modChan n f).xl = d.xl := rfl
@[simp] theorem Dev.modChan_line (n : Nat) (f : Chan → Chan) : (d.modChan n f).line = d.line := rfl
@[simp] theorem Dev.modChan_tiers (n : Nat) (f : Chan → Chan) : (d.modChan n f).tiers = d.tiers := rfl
@[simp] theorem Dev.modChan_prism (n : Nat) (f : Chan → Chan) : (d.modChan n f).prism = d.prism := rfl
@[simp] theorem Dev.modChan_home (n : Nat) (f : Chan → Chan) : (d.modChan n f).home = d.home := rfl
@[simp] theorem Dev.modChan_fault (n : Nat) (f : Chan → Chan) : (d.modChan n f).fault = d.fault := rfl
@[simp] theorem Dev.modChan_ev (n : Nat) (f : Chan → Chan) : (d.modChan n f).ev = d.ev := rfl
@[simp] theorem Dev.modChan_chain (n : Nat) (f : Chan → Chan) : (d.modChan n f).chain = d.chain := rfl
@[simp] theorem Dev.modChan_jobs (n : Nat) (f : Chan → Chan) : (d.modChan n f).jobs = d.jobs := rfl
@[simp] theorem Dev.modChan_glint (n : Nat) (f : Chan → Chan) : (d.modChan n f).glint = d.glint := rfl
@[simp] theorem Dev.modChan_hitch (n : Nat) (f : Chan → Chan) : (d.modChan n f).hitch = d.hitch := rfl
@[simp] theorem Dev.modChan_power (n : Nat) (f : Chan → Chan) : (d.modChan n f).power = d.power := rfl
@[simp] theorem Dev.modChan_flash (n : Nat) (f : Chan → Chan) : (d.modChan n f).flash = d.flash := rfl
@[simp] theorem Dev.modChan_out (n : Nat) (f : Chan → Chan) : (d.modChan n f).out = d.out := rfl
@[simp] theorem Dev.modChan_dram_chans (n : Nat) (f : Chan → Chan) : (d.modChan n f).dram.chans = d.dram.chans.put n (f (d.chan n)) := rfl
@[simp] theorem Dev.modChan_dram_accs (n : Nat) (f : Chan → Chan) : (d.modChan n f).dram.accs = d.dram.accs := rfl
@[simp] theorem Dev.modChan_dram_ranks (n : Nat) (f : Chan → Chan) : (d.modChan n f).dram.ranks = d.dram.ranks := rfl

/-! ### Dev.setKey -/

@[simp] theorem Dev.setKey_boot (n : Nat) (k : Key) : (d.setKey n k).boot = d.boot := rfl
@[simp] theorem Dev.setKey_clk (n : Nat) (k : Key) : (d.setKey n k).clk = d.clk := rfl
@[simp] theorem Dev.setKey_conf (n : Nat) (k : Key) : (d.setKey n k).conf = d.conf := rfl
@[simp] theorem Dev.setKey_host (n : Nat) (k : Key) : (d.setKey n k).host = d.host := rfl
@[simp] theorem Dev.setKey_path (n : Nat) (k : Key) : (d.setKey n k).path = d.path := rfl
@[simp] theorem Dev.setKey_xl (n : Nat) (k : Key) : (d.setKey n k).xl = d.xl := rfl
@[simp] theorem Dev.setKey_tiers (n : Nat) (k : Key) : (d.setKey n k).tiers = d.tiers := rfl
@[simp] theorem Dev.setKey_prism (n : Nat) (k : Key) : (d.setKey n k).prism = d.prism := rfl
@[simp] theorem Dev.setKey_dram (n : Nat) (k : Key) : (d.setKey n k).dram = d.dram := rfl
@[simp] theorem Dev.setKey_home (n : Nat) (k : Key) : (d.setKey n k).home = d.home := rfl
@[simp] theorem Dev.setKey_fault (n : Nat) (k : Key) : (d.setKey n k).fault = d.fault := rfl
@[simp] theorem Dev.setKey_ev (n : Nat) (k : Key) : (d.setKey n k).ev = d.ev := rfl
@[simp] theorem Dev.setKey_chain (n : Nat) (k : Key) : (d.setKey n k).chain = d.chain := rfl
@[simp] theorem Dev.setKey_jobs (n : Nat) (k : Key) : (d.setKey n k).jobs = d.jobs := rfl
@[simp] theorem Dev.setKey_glint (n : Nat) (k : Key) : (d.setKey n k).glint = d.glint := rfl
@[simp] theorem Dev.setKey_hitch (n : Nat) (k : Key) : (d.setKey n k).hitch = d.hitch := rfl
@[simp] theorem Dev.setKey_power (n : Nat) (k : Key) : (d.setKey n k).power = d.power := rfl
@[simp] theorem Dev.setKey_flash (n : Nat) (k : Key) : (d.setKey n k).flash = d.flash := rfl
@[simp] theorem Dev.setKey_out (n : Nat) (k : Key) : (d.setKey n k).out = d.out := rfl
@[simp] theorem Dev.setKey_line_keys (n : Nat) (k : Key) : (d.setKey n k).line.keys = d.line.keys.put n k := rfl
@[simp] theorem Dev.setKey_line_mem (n : Nat) (k : Key) : (d.setKey n k).line.mem = d.line.mem := rfl
@[simp] theorem Dev.setKey_line_wb (n : Nat) (k : Key) : (d.setKey n k).line.wb = d.line.wb := rfl
@[simp] theorem Dev.setKey_line_ct (n : Nat) (k : Key) : (d.setKey n k).line.ct = d.line.ct := rfl

/-! ### Dev.modSource -/

@[simp] theorem Dev.modSource_boot (n : Nat) (f : Source → Source) : (d.modSource n f).boot = d.boot := rfl
@[simp] theorem Dev.modSource_clk (n : Nat) (f : Source → Source) : (d.modSource n f).clk = d.clk := rfl
@[simp] theorem Dev.modSource_conf (n : Nat) (f : Source → Source) : (d.modSource n f).conf = d.conf := rfl
@[simp] theorem Dev.modSource_host (n : Nat) (f : Source → Source) : (d.modSource n f).host = d.host := rfl
@[simp] theorem Dev.modSource_path (n : Nat) (f : Source → Source) : (d.modSource n f).path = d.path := rfl
@[simp] theorem Dev.modSource_xl (n : Nat) (f : Source → Source) : (d.modSource n f).xl = d.xl := rfl
@[simp] theorem Dev.modSource_line (n : Nat) (f : Source → Source) : (d.modSource n f).line = d.line := rfl
@[simp] theorem Dev.modSource_tiers (n : Nat) (f : Source → Source) : (d.modSource n f).tiers = d.tiers := rfl
@[simp] theorem Dev.modSource_prism (n : Nat) (f : Source → Source) : (d.modSource n f).prism = d.prism := rfl
@[simp] theorem Dev.modSource_dram (n : Nat) (f : Source → Source) : (d.modSource n f).dram = d.dram := rfl
@[simp] theorem Dev.modSource_home (n : Nat) (f : Source → Source) : (d.modSource n f).home = d.home := rfl
@[simp] theorem Dev.modSource_ev (n : Nat) (f : Source → Source) : (d.modSource n f).ev = d.ev := rfl
@[simp] theorem Dev.modSource_chain (n : Nat) (f : Source → Source) : (d.modSource n f).chain = d.chain := rfl
@[simp] theorem Dev.modSource_jobs (n : Nat) (f : Source → Source) : (d.modSource n f).jobs = d.jobs := rfl
@[simp] theorem Dev.modSource_glint (n : Nat) (f : Source → Source) : (d.modSource n f).glint = d.glint := rfl
@[simp] theorem Dev.modSource_hitch (n : Nat) (f : Source → Source) : (d.modSource n f).hitch = d.hitch := rfl
@[simp] theorem Dev.modSource_power (n : Nat) (f : Source → Source) : (d.modSource n f).power = d.power := rfl
@[simp] theorem Dev.modSource_flash (n : Nat) (f : Source → Source) : (d.modSource n f).flash = d.flash := rfl
@[simp] theorem Dev.modSource_out (n : Nat) (f : Source → Source) : (d.modSource n f).out = d.out := rfl
@[simp] theorem Dev.modSource_fault_src (n : Nat) (f : Source → Source) : (d.modSource n f).fault.src = d.fault.src.put n (f (d.source n)) := rfl
@[simp] theorem Dev.modSource_fault_cores (n : Nat) (f : Source → Source) : (d.modSource n f).fault.cores = d.fault.cores := rfl

/-! ### Dev.setCore -/

@[simp] theorem Dev.setCore_boot (n : Nat) (c : Core) : (d.setCore n c).boot = d.boot := rfl
@[simp] theorem Dev.setCore_clk (n : Nat) (c : Core) : (d.setCore n c).clk = d.clk := rfl
@[simp] theorem Dev.setCore_conf (n : Nat) (c : Core) : (d.setCore n c).conf = d.conf := rfl
@[simp] theorem Dev.setCore_host (n : Nat) (c : Core) : (d.setCore n c).host = d.host := rfl
@[simp] theorem Dev.setCore_path (n : Nat) (c : Core) : (d.setCore n c).path = d.path := rfl
@[simp] theorem Dev.setCore_xl (n : Nat) (c : Core) : (d.setCore n c).xl = d.xl := rfl
@[simp] theorem Dev.setCore_line (n : Nat) (c : Core) : (d.setCore n c).line = d.line := rfl
@[simp] theorem Dev.setCore_tiers (n : Nat) (c : Core) : (d.setCore n c).tiers = d.tiers := rfl
@[simp] theorem Dev.setCore_prism (n : Nat) (c : Core) : (d.setCore n c).prism = d.prism := rfl
@[simp] theorem Dev.setCore_dram (n : Nat) (c : Core) : (d.setCore n c).dram = d.dram := rfl
@[simp] theorem Dev.setCore_home (n : Nat) (c : Core) : (d.setCore n c).home = d.home := rfl
@[simp] theorem Dev.setCore_ev (n : Nat) (c : Core) : (d.setCore n c).ev = d.ev := rfl
@[simp] theorem Dev.setCore_chain (n : Nat) (c : Core) : (d.setCore n c).chain = d.chain := rfl
@[simp] theorem Dev.setCore_jobs (n : Nat) (c : Core) : (d.setCore n c).jobs = d.jobs := rfl
@[simp] theorem Dev.setCore_glint (n : Nat) (c : Core) : (d.setCore n c).glint = d.glint := rfl
@[simp] theorem Dev.setCore_hitch (n : Nat) (c : Core) : (d.setCore n c).hitch = d.hitch := rfl
@[simp] theorem Dev.setCore_power (n : Nat) (c : Core) : (d.setCore n c).power = d.power := rfl
@[simp] theorem Dev.setCore_flash (n : Nat) (c : Core) : (d.setCore n c).flash = d.flash := rfl
@[simp] theorem Dev.setCore_out (n : Nat) (c : Core) : (d.setCore n c).out = d.out := rfl
@[simp] theorem Dev.setCore_fault_cores (n : Nat) (c : Core) : (d.setCore n c).fault.cores = d.fault.cores.put n c := rfl
@[simp] theorem Dev.setCore_fault_src (n : Nat) (c : Core) : (d.setCore n c).fault.src = d.fault.src := rfl

/-! ### Dev.say -/

@[simp] theorem Dev.say_boot (o : Out) : (d.say o).boot = d.boot := rfl
@[simp] theorem Dev.say_clk (o : Out) : (d.say o).clk = d.clk := rfl
@[simp] theorem Dev.say_conf (o : Out) : (d.say o).conf = d.conf := rfl
@[simp] theorem Dev.say_host (o : Out) : (d.say o).host = d.host := rfl
@[simp] theorem Dev.say_path (o : Out) : (d.say o).path = d.path := rfl
@[simp] theorem Dev.say_xl (o : Out) : (d.say o).xl = d.xl := rfl
@[simp] theorem Dev.say_line (o : Out) : (d.say o).line = d.line := rfl
@[simp] theorem Dev.say_tiers (o : Out) : (d.say o).tiers = d.tiers := rfl
@[simp] theorem Dev.say_prism (o : Out) : (d.say o).prism = d.prism := rfl
@[simp] theorem Dev.say_dram (o : Out) : (d.say o).dram = d.dram := rfl
@[simp] theorem Dev.say_home (o : Out) : (d.say o).home = d.home := rfl
@[simp] theorem Dev.say_fault (o : Out) : (d.say o).fault = d.fault := rfl
@[simp] theorem Dev.say_ev (o : Out) : (d.say o).ev = d.ev := rfl
@[simp] theorem Dev.say_chain (o : Out) : (d.say o).chain = d.chain := rfl
@[simp] theorem Dev.say_jobs (o : Out) : (d.say o).jobs = d.jobs := rfl
@[simp] theorem Dev.say_glint (o : Out) : (d.say o).glint = d.glint := rfl
@[simp] theorem Dev.say_hitch (o : Out) : (d.say o).hitch = d.hitch := rfl
@[simp] theorem Dev.say_power (o : Out) : (d.say o).power = d.power := rfl
@[simp] theorem Dev.say_flash (o : Out) : (d.say o).flash = d.flash := rfl
@[simp] theorem Dev.say_out (o : Out) : (d.say o).out = d.out ++ [o] := rfl

/-! ### Reading a part back -/

@[simp] theorem Dev.ld_setLd_self (n : Nat) (x : Ld) : (d.setLd n x).ld n = x := Tab.val_put_self ..
@[simp] theorem Dev.ld_setLd_ne (n m : Nat) (x : Ld) (h : m ≠ n) : (d.setLd n x).ld m = d.ld m := Tab.val_put_ne _ _ _ h
@[simp] theorem Dev.link_setLink_self (n : Nat) (x : HLink) : (d.setLink n x).link n = x := Tab.val_put_self ..
@[simp] theorem Dev.link_setLink_ne (n m : Nat) (x : HLink) (h : m ≠ n) : (d.setLink n x).link m = d.link m := Tab.val_put_ne _ _ _ h
@[simp] theorem Dev.chan_setChan_self (n : Nat) (x : Chan) : (d.setChan n x).chan n = x := Tab.val_put_self ..
@[simp] theorem Dev.chan_setChan_ne (n m : Nat) (x : Chan) (h : m ≠ n) : (d.setChan n x).chan m = d.chan m := Tab.val_put_ne _ _ _ h
@[simp] theorem Dev.key_setKey_self (n : Nat) (x : Key) : (d.setKey n x).key n = x := Tab.val_put_self ..
@[simp] theorem Dev.key_setKey_ne (n m : Nat) (x : Key) (h : m ≠ n) : (d.setKey n x).key m = d.key m := Tab.val_put_ne _ _ _ h
@[simp] theorem Dev.core_setCore_self (n : Nat) (x : Core) : (d.setCore n x).core n = x := Tab.val_put_self ..
@[simp] theorem Dev.core_setCore_ne (n m : Nat) (x : Core) (h : m ≠ n) : (d.setCore n x).core m = d.core m := Tab.val_put_ne _ _ _ h
@[simp] theorem Dev.ld_modLd_self (n : Nat) (f : Ld → Ld) : (d.modLd n f).ld n = f (d.ld n) := Tab.val_put_self ..
@[simp] theorem Dev.ld_modLd_ne (n m : Nat) (f : Ld → Ld) (h : m ≠ n) : (d.modLd n f).ld m = d.ld m := Tab.val_put_ne _ _ _ h
@[simp] theorem Dev.link_modLink_self (n : Nat) (f : HLink → HLink) : (d.modLink n f).link n = f (d.link n) := Tab.val_put_self ..
@[simp] theorem Dev.link_modLink_ne (n m : Nat) (f : HLink → HLink) (h : m ≠ n) : (d.modLink n f).link m = d.link m := Tab.val_put_ne _ _ _ h
@[simp] theorem Dev.port_modPort_self (n : Nat) (f : HPortSt → HPortSt) : (d.modPort n f).port n = f (d.port n) := Tab.val_put_self ..
@[simp] theorem Dev.port_modPort_ne (n m : Nat) (f : HPortSt → HPortSt) (h : m ≠ n) : (d.modPort n f).port m = d.port m := Tab.val_put_ne _ _ _ h
@[simp] theorem Dev.mbox_modBox_self (n : Nat) (f : Mbox → Mbox) : (d.modBox n f).mbox n = f (d.mbox n) := Tab.val_put_self ..
@[simp] theorem Dev.mbox_modBox_ne (n m : Nat) (f : Mbox → Mbox) (h : m ≠ n) : (d.modBox n f).mbox m = d.mbox m := Tab.val_put_ne _ _ _ h
@[simp] theorem Dev.chan_modChan_self (n : Nat) (f : Chan → Chan) : (d.modChan n f).chan n = f (d.chan n) := Tab.val_put_self ..
@[simp] theorem Dev.chan_modChan_ne (n m : Nat) (f : Chan → Chan) (h : m ≠ n) : (d.modChan n f).chan m = d.chan m := Tab.val_put_ne _ _ _ h
@[simp] theorem Dev.source_modSource_self (n : Nat) (f : Source → Source) : (d.modSource n f).source n = f (d.source n) := Tab.val_put_self ..
@[simp] theorem Dev.source_modSource_ne (n m : Nat) (f : Source → Source) (h : m ≠ n) : (d.modSource n f).source m = d.source m := Tab.val_put_ne _ _ _ h

end Sys2Proof.Machine
end

