-- ==== Sys2Proof/Laws/Ops.lean ====
section
/-! SUPPORT. What counting, signalling and recording can do: they change counters, watches, interrupts, records, vectors and what
the device sends out, and nothing else. -/

namespace Sys2Proof

open Sys2Proof.Machine

theorem Signals.refl (d : Dev) : Signals d d :=
  ⟨d.ev, d.host.lds, [], by simp, fun n => ⟨(d.ld n).vecs, rfl⟩⟩

theorem Signals.trans {a b c : Dev} (h : Signals a b) (g : Signals b c) : Signals a c := by
  obtain ⟨ev, lds, out, rfl, hv⟩ := h
  obtain ⟨ev', lds', out', rfl, hv'⟩ := g
  refine ⟨ev', lds', out ++ out', by simp, fun n => ?_⟩
  obtain ⟨v, h⟩ := hv' n
  obtain ⟨w, g⟩ := hv n
  refine ⟨v, h.trans ?_⟩
  show ({ Tab.val lds n {} with vecs := v } : Ld) = _
  rw [g]

/-! ### Projections -/

namespace Signals
variable {d d' : Dev} (h : Signals d d')
include h
theorem boot : d'.boot = d.boot := by obtain ⟨_, _, _, rfl, _⟩ := h; rfl
theorem clk : d'.clk = d.clk := by obtain ⟨_, _, _, rfl, _⟩ := h; rfl
theorem conf : d'.conf = d.conf := by obtain ⟨_, _, _, rfl, _⟩ := h; rfl
theorem path : d'.path = d.path := by obtain ⟨_, _, _, rfl, _⟩ := h; rfl
theorem xl : d'.xl = d.xl := by obtain ⟨_, _, _, rfl, _⟩ := h; rfl
theorem line : d'.line = d.line := by obtain ⟨_, _, _, rfl, _⟩ := h; rfl
theorem tiers : d'.tiers = d.tiers := by obtain ⟨_, _, _, rfl, _⟩ := h; rfl
theorem prism : d'.prism = d.prism := by obtain ⟨_, _, _, rfl, _⟩ := h; rfl
theorem dram : d'.dram = d.dram := by obtain ⟨_, _, _, rfl, _⟩ := h; rfl
theorem home : d'.home = d.home := by obtain ⟨_, _, _, rfl, _⟩ := h; rfl
theorem fault : d'.fault = d.fault := by obtain ⟨_, _, _, rfl, _⟩ := h; rfl
theorem chain : d'.chain = d.chain := by obtain ⟨_, _, _, rfl, _⟩ := h; rfl
theorem jobs : d'.jobs = d.jobs := by obtain ⟨_, _, _, rfl, _⟩ := h; rfl
theorem glint : d'.glint = d.glint := by obtain ⟨_, _, _, rfl, _⟩ := h; rfl
theorem hitch : d'.hitch = d.hitch := by obtain ⟨_, _, _, rfl, _⟩ := h; rfl
theorem power : d'.power = d.power := by obtain ⟨_, _, _, rfl, _⟩ := h; rfl
theorem flash : d'.flash = d.flash := by obtain ⟨_, _, _, rfl, _⟩ := h; rfl
theorem links : d'.host.links = d.host.links := by obtain ⟨_, _, _, rfl, _⟩ := h; rfl
theorem ports : d'.host.ports = d.host.ports := by obtain ⟨_, _, _, rfl, _⟩ := h; rfl
theorem boxes : d'.host.boxes = d.host.boxes := by obtain ⟨_, _, _, rfl, _⟩ := h; rfl
theorem out : ∃ more, d'.out = d.out ++ more := by obtain ⟨_, _, o, rfl, _⟩ := h; exact ⟨o, rfl⟩
theorem ld (n : Nat) : ∃ v, d'.ld n = { d.ld n with vecs := v } := by obtain ⟨_, _, _, rfl, hv⟩ := h; exact hv n
end Signals

end Sys2Proof

namespace Sys2Proof.Laws

open Sys2Proof Sys2Proof.Machine

/-- A change of the event part alone. -/
theorem signals_ev (d : Dev) (ev : Events) : Signals d { d with ev := ev } :=
  ⟨ev, d.host.lds, [], by simp, fun n => ⟨(d.ld n).vecs, rfl⟩⟩

theorem signals_say (d : Dev) (o : Out) : Signals d (d.say o) :=
  ⟨d.ev, d.host.lds, [o], rfl, fun n => ⟨(d.ld n).vecs, rfl⟩⟩

theorem signals_setVec (d : Dev) (ld v : Nat) (x : Vec) : Signals d (d.setVec ld v x) := by
  refine ⟨d.ev, _, [], by simp [Dev.setVec, Dev.modLd, Dev.setLd]; rfl, fun n => ?_⟩
  by_cases h : n = ld
  · subst h; exact ⟨_, Tab.val_put_self ..⟩
  · exact ⟨(d.ld n).vecs, Tab.val_put_ne _ _ _ h⟩

/-- A loop of signals is a signal. -/
theorem signals_each {α : Type} (l : List α) (d : Dev) (f : Dev → α → Dev) (h : ∀ d a, Signals d (f d a)) :
    Signals d (each l d f) :=
  each_induct (Signals d) (Signals.refl d) fun s a _ hs => hs.trans (h s a)

/-! ### The operations -/

theorem signals_count (d : Dev) (i n : Nat) : Signals d (d.count i n) := by
  unfold Dev.count
  refine Signals.trans ?_ (signals_each _ _ _ fun d (k, w) => ?_)
  · split
    · exact Signals.refl d
    · exact signals_ev ..
  · dsimp only
    split
    · split
      · exact signals_ev ..
      · exact signals_ev ..
    · exact Signals.refl d

theorem signals_deliver (d : Dev) (n : Nat) : Signals d (d.deliver n) := by
  unfold Dev.deliver
  dsimp only
  split
  · exact Signals.refl d
  · exact Signals.trans (signals_ev ..) (signals_count ..)

theorem signals_ring (d : Dev) (n : Nat) : Signals d (d.ring n) := by
  unfold Dev.ring
  dsimp only
  split
  · exact Signals.trans (signals_ev ..) (signals_deliver ..)
  · exact signals_ev ..

theorem signals_msix (d : Dev) (ld v : Nat) : Signals d (d.msix ld v) :=
  Signals.trans (signals_say ..) (signals_count ..)

theorem signals_fireVec (d : Dev) (ld v : Nat) : Signals d (d.fireVec ld v) := by
  unfold Dev.fireVec
  dsimp only
  split
  · exact signals_setVec ..
  · exact Signals.trans (signals_setVec ..) (signals_msix ..)

theorem signals_vecEvent (d : Dev) (ld v : Nat) : Signals d (d.vecEvent ld v) := by
  unfold Dev.vecEvent
  dsimp only
  split
  · exact signals_setVec ..
  · split
    · exact Signals.trans (signals_setVec ..) (signals_fireVec ..)
    · exact signals_setVec ..

theorem signals_settle (d : Dev) : Signals d d.settle := by
  unfold Dev.settle
  refine Signals.trans (signals_ev d _) (signals_each _ _ _ fun d k => ?_)
  refine Signals.trans (signals_ring d 0x38F) ?_
  dsimp only
  split
  · split
    · split
      · exact signals_say ..
      · exact signals_vecEvent ..
    · exact Signals.refl _
  · exact Signals.refl _

theorem signals_bump (d : Dev) (e n : Nat) : Signals d (d.bump e n) := by
  unfold Dev.bump
  split
  · exact Signals.refl d
  · exact Signals.trans (signals_count ..) (signals_settle _)

theorem signals_bumpLd (d : Dev) (ld e n : Nat) : Signals d (d.bumpLd ld e n) := by
  unfold Dev.bumpLd
  split
  · exact Signals.refl d
  · exact Signals.trans (signals_count ..) (signals_settle _)

theorem signals_doorbell (d : Dev) (n : Nat) : Signals d (d.doorbell n) :=
  Signals.trans (signals_ring ..) (signals_settle _)

theorem signals_record (d : Dev) (r : Rec) : Signals d (d.record r) := by
  unfold Dev.record
  refine Signals.trans ?_ (signals_ev ..)
  split
  · exact Signals.refl d
  · exact Signals.trans (signals_ev ..) (signals_bump ..)

theorem signals_raiseAlways (d : Dev) (t : Nat) (k : LogKind) (ld : Option Nat) (x : Nat) : Signals d (d.raiseAlways t k ld x) :=
  signals_record ..

theorem signals_raise (d : Dev) (t : Nat) (k : LogKind) (ld : Option Nat) (x : Nat) : Signals d (d.raise t k ld x) := by
  unfold Dev.raise
  split
  · exact Signals.trans (signals_ev ..) (signals_raiseAlways ..)
  · exact Signals.refl d

theorem signals_raiseAt (d : Dev) (p t : Nat) (k : LogKind) (ld : Option Nat) (x : Nat) : Signals d (d.raiseAt p t k ld x) := by
  unfold Dev.raiseAt
  split
  · exact Signals.trans (signals_ev ..) (signals_raiseAlways ..)
  · exact Signals.refl d

theorem signals_raiseFault (d : Dev) (t : Nat) (k : LogKind) (n r : Nat) (ld : Option Nat) : Signals d (d.raiseFault t k n r ld) :=
  signals_record ..

/-- An event of a fault source: the fault part, and the signals of its doorbell. -/
theorem faultEvent_signals (d : Dev) (n code detail : Nat) (label : Label) (who : BitVec 8) (hard : Bool) :
    ∃ f, f.cores = d.fault.cores ∧ (∀ m, m ≠ n → Tab.look f.src m = d.fault.src.look m) ∧ (Tab.val f.src n {}).sticky = true ∧
      Signals { d with fault := f } (d.faultEvent n code detail label who hard) := by
  refine ⟨_, ?_, ?_, ?_, signals_doorbell _ (sourceDoorbell n)⟩
  · rfl
  · intro m h; exact Tab.look_put_ne _ _ h
  · exact congrArg Source.sticky (Tab.val_put_self ..)

end Sys2Proof.Laws
end

