-- ==== Sys2Proof/Laws/Signals.lean ====
section
/-! SUPPORT. What counting, signalling and recording leave alone, field by field. -/

namespace Sys2Proof.Machine

open Sys2Proof

variable (d : Dev)

@[simp] theorem Dev.count_boot (i n : Nat) : (d.count i n).boot = d.boot := (Laws.signals_count ..).boot
@[simp] theorem Dev.count_clk (i n : Nat) : (d.count i n).clk = d.clk := (Laws.signals_count ..).clk
@[simp] theorem Dev.count_conf (i n : Nat) : (d.count i n).conf = d.conf := (Laws.signals_count ..).conf
@[simp] theorem Dev.count_path (i n : Nat) : (d.count i n).path = d.path := (Laws.signals_count ..).path
@[simp] theorem Dev.count_xl (i n : Nat) : (d.count i n).xl = d.xl := (Laws.signals_count ..).xl
@[simp] theorem Dev.count_line (i n : Nat) : (d.count i n).line = d.line := (Laws.signals_count ..).line
@[simp] theorem Dev.count_tiers (i n : Nat) : (d.count i n).tiers = d.tiers := (Laws.signals_count ..).tiers
@[simp] theorem Dev.count_prism (i n : Nat) : (d.count i n).prism = d.prism := (Laws.signals_count ..).prism
@[simp] theorem Dev.count_dram (i n : Nat) : (d.count i n).dram = d.dram := (Laws.signals_count ..).dram
@[simp] theorem Dev.count_home (i n : Nat) : (d.count i n).home = d.home := (Laws.signals_count ..).home
@[simp] theorem Dev.count_fault (i n : Nat) : (d.count i n).fault = d.fault := (Laws.signals_count ..).fault
@[simp] theorem Dev.count_chain (i n : Nat) : (d.count i n).chain = d.chain := (Laws.signals_count ..).chain
@[simp] theorem Dev.count_jobs (i n : Nat) : (d.count i n).jobs = d.jobs := (Laws.signals_count ..).jobs
@[simp] theorem Dev.count_glint (i n : Nat) : (d.count i n).glint = d.glint := (Laws.signals_count ..).glint
@[simp] theorem Dev.count_hitch (i n : Nat) : (d.count i n).hitch = d.hitch := (Laws.signals_count ..).hitch
@[simp] theorem Dev.count_power (i n : Nat) : (d.count i n).power = d.power := (Laws.signals_count ..).power
@[simp] theorem Dev.count_flash (i n : Nat) : (d.count i n).flash = d.flash := (Laws.signals_count ..).flash
@[simp] theorem Dev.count_links (i n : Nat) : (d.count i n).host.links = d.host.links := (Laws.signals_count ..).links
@[simp] theorem Dev.count_ports (i n : Nat) : (d.count i n).host.ports = d.host.ports := (Laws.signals_count ..).ports
@[simp] theorem Dev.count_boxes (i n : Nat) : (d.count i n).host.boxes = d.host.boxes := (Laws.signals_count ..).boxes

@[simp] theorem Dev.ring_boot (n : Nat) : (d.ring n).boot = d.boot := (Laws.signals_ring ..).boot
@[simp] theorem Dev.ring_clk (n : Nat) : (d.ring n).clk = d.clk := (Laws.signals_ring ..).clk
@[simp] theorem Dev.ring_conf (n : Nat) : (d.ring n).conf = d.conf := (Laws.signals_ring ..).conf
@[simp] theorem Dev.ring_path (n : Nat) : (d.ring n).path = d.path := (Laws.signals_ring ..).path
@[simp] theorem Dev.ring_xl (n : Nat) : (d.ring n).xl = d.xl := (Laws.signals_ring ..).xl
@[simp] theorem Dev.ring_line (n : Nat) : (d.ring n).line = d.line := (Laws.signals_ring ..).line
@[simp] theorem Dev.ring_tiers (n : Nat) : (d.ring n).tiers = d.tiers := (Laws.signals_ring ..).tiers
@[simp] theorem Dev.ring_prism (n : Nat) : (d.ring n).prism = d.prism := (Laws.signals_ring ..).prism
@[simp] theorem Dev.ring_dram (n : Nat) : (d.ring n).dram = d.dram := (Laws.signals_ring ..).dram
@[simp] theorem Dev.ring_home (n : Nat) : (d.ring n).home = d.home := (Laws.signals_ring ..).home
@[simp] theorem Dev.ring_fault (n : Nat) : (d.ring n).fault = d.fault := (Laws.signals_ring ..).fault
@[simp] theorem Dev.ring_chain (n : Nat) : (d.ring n).chain = d.chain := (Laws.signals_ring ..).chain
@[simp] theorem Dev.ring_jobs (n : Nat) : (d.ring n).jobs = d.jobs := (Laws.signals_ring ..).jobs
@[simp] theorem Dev.ring_glint (n : Nat) : (d.ring n).glint = d.glint := (Laws.signals_ring ..).glint
@[simp] theorem Dev.ring_hitch (n : Nat) : (d.ring n).hitch = d.hitch := (Laws.signals_ring ..).hitch
@[simp] theorem Dev.ring_power (n : Nat) : (d.ring n).power = d.power := (Laws.signals_ring ..).power
@[simp] theorem Dev.ring_flash (n : Nat) : (d.ring n).flash = d.flash := (Laws.signals_ring ..).flash
@[simp] theorem Dev.ring_links (n : Nat) : (d.ring n).host.links = d.host.links := (Laws.signals_ring ..).links
@[simp] theorem Dev.ring_ports (n : Nat) : (d.ring n).host.ports = d.host.ports := (Laws.signals_ring ..).ports
@[simp] theorem Dev.ring_boxes (n : Nat) : (d.ring n).host.boxes = d.host.boxes := (Laws.signals_ring ..).boxes

@[simp] theorem Dev.settle_boot : (d.settle).boot = d.boot := (Laws.signals_settle ..).boot
@[simp] theorem Dev.settle_clk : (d.settle).clk = d.clk := (Laws.signals_settle ..).clk
@[simp] theorem Dev.settle_conf : (d.settle).conf = d.conf := (Laws.signals_settle ..).conf
@[simp] theorem Dev.settle_path : (d.settle).path = d.path := (Laws.signals_settle ..).path
@[simp] theorem Dev.settle_xl : (d.settle).xl = d.xl := (Laws.signals_settle ..).xl
@[simp] theorem Dev.settle_line : (d.settle).line = d.line := (Laws.signals_settle ..).line
@[simp] theorem Dev.settle_tiers : (d.settle).tiers = d.tiers := (Laws.signals_settle ..).tiers
@[simp] theorem Dev.settle_prism : (d.settle).prism = d.prism := (Laws.signals_settle ..).prism
@[simp] theorem Dev.settle_dram : (d.settle).dram = d.dram := (Laws.signals_settle ..).dram
@[simp] theorem Dev.settle_home : (d.settle).home = d.home := (Laws.signals_settle ..).home
@[simp] theorem Dev.settle_fault : (d.settle).fault = d.fault := (Laws.signals_settle ..).fault
@[simp] theorem Dev.settle_chain : (d.settle).chain = d.chain := (Laws.signals_settle ..).chain
@[simp] theorem Dev.settle_jobs : (d.settle).jobs = d.jobs := (Laws.signals_settle ..).jobs
@[simp] theorem Dev.settle_glint : (d.settle).glint = d.glint := (Laws.signals_settle ..).glint
@[simp] theorem Dev.settle_hitch : (d.settle).hitch = d.hitch := (Laws.signals_settle ..).hitch
@[simp] theorem Dev.settle_power : (d.settle).power = d.power := (Laws.signals_settle ..).power
@[simp] theorem Dev.settle_flash : (d.settle).flash = d.flash := (Laws.signals_settle ..).flash
@[simp] theorem Dev.settle_links : (d.settle).host.links = d.host.links := (Laws.signals_settle ..).links
@[simp] theorem Dev.settle_ports : (d.settle).host.ports = d.host.ports := (Laws.signals_settle ..).ports
@[simp] theorem Dev.settle_boxes : (d.settle).host.boxes = d.host.boxes := (Laws.signals_settle ..).boxes

@[simp] theorem Dev.vecEvent_boot (ld v : Nat) : (d.vecEvent ld v).boot = d.boot := (Laws.signals_vecEvent ..).boot
@[simp] theorem Dev.vecEvent_clk (ld v : Nat) : (d.vecEvent ld v).clk = d.clk := (Laws.signals_vecEvent ..).clk
@[simp] theorem Dev.vecEvent_conf (ld v : Nat) : (d.vecEvent ld v).conf = d.conf := (Laws.signals_vecEvent ..).conf
@[simp] theorem Dev.vecEvent_path (ld v : Nat) : (d.vecEvent ld v).path = d.path := (Laws.signals_vecEvent ..).path
@[simp] theorem Dev.vecEvent_xl (ld v : Nat) : (d.vecEvent ld v).xl = d.xl := (Laws.signals_vecEvent ..).xl
@[simp] theorem Dev.vecEvent_line (ld v : Nat) : (d.vecEvent ld v).line = d.line := (Laws.signals_vecEvent ..).line
@[simp] theorem Dev.vecEvent_tiers (ld v : Nat) : (d.vecEvent ld v).tiers = d.tiers := (Laws.signals_vecEvent ..).tiers
@[simp] theorem Dev.vecEvent_prism (ld v : Nat) : (d.vecEvent ld v).prism = d.prism := (Laws.signals_vecEvent ..).prism
@[simp] theorem Dev.vecEvent_dram (ld v : Nat) : (d.vecEvent ld v).dram = d.dram := (Laws.signals_vecEvent ..).dram
@[simp] theorem Dev.vecEvent_home (ld v : Nat) : (d.vecEvent ld v).home = d.home := (Laws.signals_vecEvent ..).home
@[simp] theorem Dev.vecEvent_fault (ld v : Nat) : (d.vecEvent ld v).fault = d.fault := (Laws.signals_vecEvent ..).fault
@[simp] theorem Dev.vecEvent_chain (ld v : Nat) : (d.vecEvent ld v).chain = d.chain := (Laws.signals_vecEvent ..).chain
@[simp] theorem Dev.vecEvent_jobs (ld v : Nat) : (d.vecEvent ld v).jobs = d.jobs := (Laws.signals_vecEvent ..).jobs
@[simp] theorem Dev.vecEvent_glint (ld v : Nat) : (d.vecEvent ld v).glint = d.glint := (Laws.signals_vecEvent ..).glint
@[simp] theorem Dev.vecEvent_hitch (ld v : Nat) : (d.vecEvent ld v).hitch = d.hitch := (Laws.signals_vecEvent ..).hitch
@[simp] theorem Dev.vecEvent_power (ld v : Nat) : (d.vecEvent ld v).power = d.power := (Laws.signals_vecEvent ..).power
@[simp] theorem Dev.vecEvent_flash (ld v : Nat) : (d.vecEvent ld v).flash = d.flash := (Laws.signals_vecEvent ..).flash
@[simp] theorem Dev.vecEvent_links (ld v : Nat) : (d.vecEvent ld v).host.links = d.host.links := (Laws.signals_vecEvent ..).links
@[simp] theorem Dev.vecEvent_ports (ld v : Nat) : (d.vecEvent ld v).host.ports = d.host.ports := (Laws.signals_vecEvent ..).ports
@[simp] theorem Dev.vecEvent_boxes (ld v : Nat) : (d.vecEvent ld v).host.boxes = d.host.boxes := (Laws.signals_vecEvent ..).boxes

@[simp] theorem Dev.bump_boot (e n : Nat) : (d.bump e n).boot = d.boot := (Laws.signals_bump ..).boot
@[simp] theorem Dev.bump_clk (e n : Nat) : (d.bump e n).clk = d.clk := (Laws.signals_bump ..).clk
@[simp] theorem Dev.bump_conf (e n : Nat) : (d.bump e n).conf = d.conf := (Laws.signals_bump ..).conf
@[simp] theorem Dev.bump_path (e n : Nat) : (d.bump e n).path = d.path := (Laws.signals_bump ..).path
@[simp] theorem Dev.bump_xl (e n : Nat) : (d.bump e n).xl = d.xl := (Laws.signals_bump ..).xl
@[simp] theorem Dev.bump_line (e n : Nat) : (d.bump e n).line = d.line := (Laws.signals_bump ..).line
@[simp] theorem Dev.bump_tiers (e n : Nat) : (d.bump e n).tiers = d.tiers := (Laws.signals_bump ..).tiers
@[simp] theorem Dev.bump_prism (e n : Nat) : (d.bump e n).prism = d.prism := (Laws.signals_bump ..).prism
@[simp] theorem Dev.bump_dram (e n : Nat) : (d.bump e n).dram = d.dram := (Laws.signals_bump ..).dram
@[simp] theorem Dev.bump_home (e n : Nat) : (d.bump e n).home = d.home := (Laws.signals_bump ..).home
@[simp] theorem Dev.bump_fault (e n : Nat) : (d.bump e n).fault = d.fault := (Laws.signals_bump ..).fault
@[simp] theorem Dev.bump_chain (e n : Nat) : (d.bump e n).chain = d.chain := (Laws.signals_bump ..).chain
@[simp] theorem Dev.bump_jobs (e n : Nat) : (d.bump e n).jobs = d.jobs := (Laws.signals_bump ..).jobs
@[simp] theorem Dev.bump_glint (e n : Nat) : (d.bump e n).glint = d.glint := (Laws.signals_bump ..).glint
@[simp] theorem Dev.bump_hitch (e n : Nat) : (d.bump e n).hitch = d.hitch := (Laws.signals_bump ..).hitch
@[simp] theorem Dev.bump_power (e n : Nat) : (d.bump e n).power = d.power := (Laws.signals_bump ..).power
@[simp] theorem Dev.bump_flash (e n : Nat) : (d.bump e n).flash = d.flash := (Laws.signals_bump ..).flash
@[simp] theorem Dev.bump_links (e n : Nat) : (d.bump e n).host.links = d.host.links := (Laws.signals_bump ..).links
@[simp] theorem Dev.bump_ports (e n : Nat) : (d.bump e n).host.ports = d.host.ports := (Laws.signals_bump ..).ports
@[simp] theorem Dev.bump_boxes (e n : Nat) : (d.bump e n).host.boxes = d.host.boxes := (Laws.signals_bump ..).boxes

@[simp] theorem Dev.bumpLd_boot (ld e n : Nat) : (d.bumpLd ld e n).boot = d.boot := (Laws.signals_bumpLd ..).boot
@[simp] theorem Dev.bumpLd_clk (ld e n : Nat) : (d.bumpLd ld e n).clk = d.clk := (Laws.signals_bumpLd ..).clk
@[simp] theorem Dev.bumpLd_conf (ld e n : Nat) : (d.bumpLd ld e n).conf = d.conf := (Laws.signals_bumpLd ..).conf
@[simp] theorem Dev.bumpLd_path (ld e n : Nat) : (d.bumpLd ld e n).path = d.path := (Laws.signals_bumpLd ..).path
@[simp] theorem Dev.bumpLd_xl (ld e n : Nat) : (d.bumpLd ld e n).xl = d.xl := (Laws.signals_bumpLd ..).xl
@[simp] theorem Dev.bumpLd_line (ld e n : Nat) : (d.bumpLd ld e n).line = d.line := (Laws.signals_bumpLd ..).line
@[simp] theorem Dev.bumpLd_tiers (ld e n : Nat) : (d.bumpLd ld e n).tiers = d.tiers := (Laws.signals_bumpLd ..).tiers
@[simp] theorem Dev.bumpLd_prism (ld e n : Nat) : (d.bumpLd ld e n).prism = d.prism := (Laws.signals_bumpLd ..).prism
@[simp] theorem Dev.bumpLd_dram (ld e n : Nat) : (d.bumpLd ld e n).dram = d.dram := (Laws.signals_bumpLd ..).dram
@[simp] theorem Dev.bumpLd_home (ld e n : Nat) : (d.bumpLd ld e n).home = d.home := (Laws.signals_bumpLd ..).home
@[simp] theorem Dev.bumpLd_fault (ld e n : Nat) : (d.bumpLd ld e n).fault = d.fault := (Laws.signals_bumpLd ..).fault
@[simp] theorem Dev.bumpLd_chain (ld e n : Nat) : (d.bumpLd ld e n).chain = d.chain := (Laws.signals_bumpLd ..).chain
@[simp] theorem Dev.bumpLd_jobs (ld e n : Nat) : (d.bumpLd ld e n).jobs = d.jobs := (Laws.signals_bumpLd ..).jobs
@[simp] theorem Dev.bumpLd_glint (ld e n : Nat) : (d.bumpLd ld e n).glint = d.glint := (Laws.signals_bumpLd ..).glint
@[simp] theorem Dev.bumpLd_hitch (ld e n : Nat) : (d.bumpLd ld e n).hitch = d.hitch := (Laws.signals_bumpLd ..).hitch
@[simp] theorem Dev.bumpLd_power (ld e n : Nat) : (d.bumpLd ld e n).power = d.power := (Laws.signals_bumpLd ..).power
@[simp] theorem Dev.bumpLd_flash (ld e n : Nat) : (d.bumpLd ld e n).flash = d.flash := (Laws.signals_bumpLd ..).flash
@[simp] theorem Dev.bumpLd_links (ld e n : Nat) : (d.bumpLd ld e n).host.links = d.host.links := (Laws.signals_bumpLd ..).links
@[simp] theorem Dev.bumpLd_ports (ld e n : Nat) : (d.bumpLd ld e n).host.ports = d.host.ports := (Laws.signals_bumpLd ..).ports
@[simp] theorem Dev.bumpLd_boxes (ld e n : Nat) : (d.bumpLd ld e n).host.boxes = d.host.boxes := (Laws.signals_bumpLd ..).boxes

@[simp] theorem Dev.doorbell_boot (n : Nat) : (d.doorbell n).boot = d.boot := (Laws.signals_doorbell ..).boot
@[simp] theorem Dev.doorbell_clk (n : Nat) : (d.doorbell n).clk = d.clk := (Laws.signals_doorbell ..).clk
@[simp] theorem Dev.doorbell_conf (n : Nat) : (d.doorbell n).conf = d.conf := (Laws.signals_doorbell ..).conf
@[simp] theorem Dev.doorbell_path (n : Nat) : (d.doorbell n).path = d.path := (Laws.signals_doorbell ..).path
@[simp] theorem Dev.doorbell_xl (n : Nat) : (d.doorbell n).xl = d.xl := (Laws.signals_doorbell ..).xl
@[simp] theorem Dev.doorbell_line (n : Nat) : (d.doorbell n).line = d.line := (Laws.signals_doorbell ..).line
@[simp] theorem Dev.doorbell_tiers (n : Nat) : (d.doorbell n).tiers = d.tiers := (Laws.signals_doorbell ..).tiers
@[simp] theorem Dev.doorbell_prism (n : Nat) : (d.doorbell n).prism = d.prism := (Laws.signals_doorbell ..).prism
@[simp] theorem Dev.doorbell_dram (n : Nat) : (d.doorbell n).dram = d.dram := (Laws.signals_doorbell ..).dram
@[simp] theorem Dev.doorbell_home (n : Nat) : (d.doorbell n).home = d.home := (Laws.signals_doorbell ..).home
@[simp] theorem Dev.doorbell_fault (n : Nat) : (d.doorbell n).fault = d.fault := (Laws.signals_doorbell ..).fault
@[simp] theorem Dev.doorbell_chain (n : Nat) : (d.doorbell n).chain = d.chain := (Laws.signals_doorbell ..).chain
@[simp] theorem Dev.doorbell_jobs (n : Nat) : (d.doorbell n).jobs = d.jobs := (Laws.signals_doorbell ..).jobs
@[simp] theorem Dev.doorbell_glint (n : Nat) : (d.doorbell n).glint = d.glint := (Laws.signals_doorbell ..).glint
@[simp] theorem Dev.doorbell_hitch (n : Nat) : (d.doorbell n).hitch = d.hitch := (Laws.signals_doorbell ..).hitch
@[simp] theorem Dev.doorbell_power (n : Nat) : (d.doorbell n).power = d.power := (Laws.signals_doorbell ..).power
@[simp] theorem Dev.doorbell_flash (n : Nat) : (d.doorbell n).flash = d.flash := (Laws.signals_doorbell ..).flash
@[simp] theorem Dev.doorbell_links (n : Nat) : (d.doorbell n).host.links = d.host.links := (Laws.signals_doorbell ..).links
@[simp] theorem Dev.doorbell_ports (n : Nat) : (d.doorbell n).host.ports = d.host.ports := (Laws.signals_doorbell ..).ports
@[simp] theorem Dev.doorbell_boxes (n : Nat) : (d.doorbell n).host.boxes = d.host.boxes := (Laws.signals_doorbell ..).boxes

@[simp] theorem Dev.record_boot (r : Rec) : (d.record r).boot = d.boot := (Laws.signals_record ..).boot
@[simp] theorem Dev.record_clk (r : Rec) : (d.record r).clk = d.clk := (Laws.signals_record ..).clk
@[simp] theorem Dev.record_conf (r : Rec) : (d.record r).conf = d.conf := (Laws.signals_record ..).conf
@[simp] theorem Dev.record_path (r : Rec) : (d.record r).path = d.path := (Laws.signals_record ..).path
@[simp] theorem Dev.record_xl (r : Rec) : (d.record r).xl = d.xl := (Laws.signals_record ..).xl
@[simp] theorem Dev.record_line (r : Rec) : (d.record r).line = d.line := (Laws.signals_record ..).line
@[simp] theorem Dev.record_tiers (r : Rec) : (d.record r).tiers = d.tiers := (Laws.signals_record ..).tiers
@[simp] theorem Dev.record_prism (r : Rec) : (d.record r).prism = d.prism := (Laws.signals_record ..).prism
@[simp] theorem Dev.record_dram (r : Rec) : (d.record r).dram = d.dram := (Laws.signals_record ..).dram
@[simp] theorem Dev.record_home (r : Rec) : (d.record r).home = d.home := (Laws.signals_record ..).home
@[simp] theorem Dev.record_fault (r : Rec) : (d.record r).fault = d.fault := (Laws.signals_record ..).fault
@[simp] theorem Dev.record_chain (r : Rec) : (d.record r).chain = d.chain := (Laws.signals_record ..).chain
@[simp] theorem Dev.record_jobs (r : Rec) : (d.record r).jobs = d.jobs := (Laws.signals_record ..).jobs
@[simp] theorem Dev.record_glint (r : Rec) : (d.record r).glint = d.glint := (Laws.signals_record ..).glint
@[simp] theorem Dev.record_hitch (r : Rec) : (d.record r).hitch = d.hitch := (Laws.signals_record ..).hitch
@[simp] theorem Dev.record_power (r : Rec) : (d.record r).power = d.power := (Laws.signals_record ..).power
@[simp] theorem Dev.record_flash (r : Rec) : (d.record r).flash = d.flash := (Laws.signals_record ..).flash
@[simp] theorem Dev.record_links (r : Rec) : (d.record r).host.links = d.host.links := (Laws.signals_record ..).links
@[simp] theorem Dev.record_ports (r : Rec) : (d.record r).host.ports = d.host.ports := (Laws.signals_record ..).ports
@[simp] theorem Dev.record_boxes (r : Rec) : (d.record r).host.boxes = d.host.boxes := (Laws.signals_record ..).boxes

@[simp] theorem Dev.raiseAlways_boot (t : Nat) (k : LogKind) (ld : Option Nat) (x : Nat) : (d.raiseAlways t k ld x).boot = d.boot := (Laws.signals_raiseAlways ..).boot
@[simp] theorem Dev.raiseAlways_clk (t : Nat) (k : LogKind) (ld : Option Nat) (x : Nat) : (d.raiseAlways t k ld x).clk = d.clk := (Laws.signals_raiseAlways ..).clk
@[simp] theorem Dev.raiseAlways_conf (t : Nat) (k : LogKind) (ld : Option Nat) (x : Nat) : (d.raiseAlways t k ld x).conf = d.conf := (Laws.signals_raiseAlways ..).conf
@[simp] theorem Dev.raiseAlways_path (t : Nat) (k : LogKind) (ld : Option Nat) (x : Nat) : (d.raiseAlways t k ld x).path = d.path := (Laws.signals_raiseAlways ..).path
@[simp] theorem Dev.raiseAlways_xl (t : Nat) (k : LogKind) (ld : Option Nat) (x : Nat) : (d.raiseAlways t k ld x).xl = d.xl := (Laws.signals_raiseAlways ..).xl
@[simp] theorem Dev.raiseAlways_line (t : Nat) (k : LogKind) (ld : Option Nat) (x : Nat) : (d.raiseAlways t k ld x).line = d.line := (Laws.signals_raiseAlways ..).line
@[simp] theorem Dev.raiseAlways_tiers (t : Nat) (k : LogKind) (ld : Option Nat) (x : Nat) : (d.raiseAlways t k ld x).tiers = d.tiers := (Laws.signals_raiseAlways ..).tiers
@[simp] theorem Dev.raiseAlways_prism (t : Nat) (k : LogKind) (ld : Option Nat) (x : Nat) : (d.raiseAlways t k ld x).prism = d.prism := (Laws.signals_raiseAlways ..).prism
@[simp] theorem Dev.raiseAlways_dram (t : Nat) (k : LogKind) (ld : Option Nat) (x : Nat) : (d.raiseAlways t k ld x).dram = d.dram := (Laws.signals_raiseAlways ..).dram
@[simp] theorem Dev.raiseAlways_home (t : Nat) (k : LogKind) (ld : Option Nat) (x : Nat) : (d.raiseAlways t k ld x).home = d.home := (Laws.signals_raiseAlways ..).home
@[simp] theorem Dev.raiseAlways_fault (t : Nat) (k : LogKind) (ld : Option Nat) (x : Nat) : (d.raiseAlways t k ld x).fault = d.fault := (Laws.signals_raiseAlways ..).fault
@[simp] theorem Dev.raiseAlways_chain (t : Nat) (k : LogKind) (ld : Option Nat) (x : Nat) : (d.raiseAlways t k ld x).chain = d.chain := (Laws.signals_raiseAlways ..).chain
@[simp] theorem Dev.raiseAlways_jobs (t : Nat) (k : LogKind) (ld : Option Nat) (x : Nat) : (d.raiseAlways t k ld x).jobs = d.jobs := (Laws.signals_raiseAlways ..).jobs
@[simp] theorem Dev.raiseAlways_glint (t : Nat) (k : LogKind) (ld : Option Nat) (x : Nat) : (d.raiseAlways t k ld x).glint = d.glint := (Laws.signals_raiseAlways ..).glint
@[simp] theorem Dev.raiseAlways_hitch (t : Nat) (k : LogKind) (ld : Option Nat) (x : Nat) : (d.raiseAlways t k ld x).hitch = d.hitch := (Laws.signals_raiseAlways ..).hitch
@[simp] theorem Dev.raiseAlways_power (t : Nat) (k : LogKind) (ld : Option Nat) (x : Nat) : (d.raiseAlways t k ld x).power = d.power := (Laws.signals_raiseAlways ..).power
@[simp] theorem Dev.raiseAlways_flash (t : Nat) (k : LogKind) (ld : Option Nat) (x : Nat) : (d.raiseAlways t k ld x).flash = d.flash := (Laws.signals_raiseAlways ..).flash
@[simp] theorem Dev.raiseAlways_links (t : Nat) (k : LogKind) (ld : Option Nat) (x : Nat) : (d.raiseAlways t k ld x).host.links = d.host.links := (Laws.signals_raiseAlways ..).links
@[simp] theorem Dev.raiseAlways_ports (t : Nat) (k : LogKind) (ld : Option Nat) (x : Nat) : (d.raiseAlways t k ld x).host.ports = d.host.ports := (Laws.signals_raiseAlways ..).ports
@[simp] theorem Dev.raiseAlways_boxes (t : Nat) (k : LogKind) (ld : Option Nat) (x : Nat) : (d.raiseAlways t k ld x).host.boxes = d.host.boxes := (Laws.signals_raiseAlways ..).boxes

@[simp] theorem Dev.raise_boot (t : Nat) (k : LogKind) (ld : Option Nat) (x : Nat) : (d.raise t k ld x).boot = d.boot := (Laws.signals_raise ..).boot
@[simp] theorem Dev.raise_clk (t : Nat) (k : LogKind) (ld : Option Nat) (x : Nat) : (d.raise t k ld x).clk = d.clk := (Laws.signals_raise ..).clk
@[simp] theorem Dev.raise_conf (t : Nat) (k : LogKind) (ld : Option Nat) (x : Nat) : (d.raise t k ld x).conf = d.conf := (Laws.signals_raise ..).conf
@[simp] theorem Dev.raise_path (t : Nat) (k : LogKind) (ld : Option Nat) (x : Nat) : (d.raise t k ld x).path = d.path := (Laws.signals_raise ..).path
@[simp] theorem Dev.raise_xl (t : Nat) (k : LogKind) (ld : Option Nat) (x : Nat) : (d.raise t k ld x).xl = d.xl := (Laws.signals_raise ..).xl
@[simp] theorem Dev.raise_line (t : Nat) (k : LogKind) (ld : Option Nat) (x : Nat) : (d.raise t k ld x).line = d.line := (Laws.signals_raise ..).line
@[simp] theorem Dev.raise_tiers (t : Nat) (k : LogKind) (ld : Option Nat) (x : Nat) : (d.raise t k ld x).tiers = d.tiers := (Laws.signals_raise ..).tiers
@[simp] theorem Dev.raise_prism (t : Nat) (k : LogKind) (ld : Option Nat) (x : Nat) : (d.raise t k ld x).prism = d.prism := (Laws.signals_raise ..).prism
@[simp] theorem Dev.raise_dram (t : Nat) (k : LogKind) (ld : Option Nat) (x : Nat) : (d.raise t k ld x).dram = d.dram := (Laws.signals_raise ..).dram
@[simp] theorem Dev.raise_home (t : Nat) (k : LogKind) (ld : Option Nat) (x : Nat) : (d.raise t k ld x).home = d.home := (Laws.signals_raise ..).home
@[simp] theorem Dev.raise_fault (t : Nat) (k : LogKind) (ld : Option Nat) (x : Nat) : (d.raise t k ld x).fault = d.fault := (Laws.signals_raise ..).fault
@[simp] theorem Dev.raise_chain (t : Nat) (k : LogKind) (ld : Option Nat) (x : Nat) : (d.raise t k ld x).chain = d.chain := (Laws.signals_raise ..).chain
@[simp] theorem Dev.raise_jobs (t : Nat) (k : LogKind) (ld : Option Nat) (x : Nat) : (d.raise t k ld x).jobs = d.jobs := (Laws.signals_raise ..).jobs
@[simp] theorem Dev.raise_glint (t : Nat) (k : LogKind) (ld : Option Nat) (x : Nat) : (d.raise t k ld x).glint = d.glint := (Laws.signals_raise ..).glint
@[simp] theorem Dev.raise_hitch (t : Nat) (k : LogKind) (ld : Option Nat) (x : Nat) : (d.raise t k ld x).hitch = d.hitch := (Laws.signals_raise ..).hitch
@[simp] theorem Dev.raise_power (t : Nat) (k : LogKind) (ld : Option Nat) (x : Nat) : (d.raise t k ld x).power = d.power := (Laws.signals_raise ..).power
@[simp] theorem Dev.raise_flash (t : Nat) (k : LogKind) (ld : Option Nat) (x : Nat) : (d.raise t k ld x).flash = d.flash := (Laws.signals_raise ..).flash
@[simp] theorem Dev.raise_links (t : Nat) (k : LogKind) (ld : Option Nat) (x : Nat) : (d.raise t k ld x).host.links = d.host.links := (Laws.signals_raise ..).links
@[simp] theorem Dev.raise_ports (t : Nat) (k : LogKind) (ld : Option Nat) (x : Nat) : (d.raise t k ld x).host.ports = d.host.ports := (Laws.signals_raise ..).ports
@[simp] theorem Dev.raise_boxes (t : Nat) (k : LogKind) (ld : Option Nat) (x : Nat) : (d.raise t k ld x).host.boxes = d.host.boxes := (Laws.signals_raise ..).boxes

@[simp] theorem Dev.raiseAt_boot (p t : Nat) (k : LogKind) (ld : Option Nat) (x : Nat) : (d.raiseAt p t k ld x).boot = d.boot := (Laws.signals_raiseAt ..).boot
@[simp] theorem Dev.raiseAt_clk (p t : Nat) (k : LogKind) (ld : Option Nat) (x : Nat) : (d.raiseAt p t k ld x).clk = d.clk := (Laws.signals_raiseAt ..).clk
@[simp] theorem Dev.raiseAt_conf (p t : Nat) (k : LogKind) (ld : Option Nat) (x : Nat) : (d.raiseAt p t k ld x).conf = d.conf := (Laws.signals_raiseAt ..).conf
@[simp] theorem Dev.raiseAt_path (p t : Nat) (k : LogKind) (ld : Option Nat) (x : Nat) : (d.raiseAt p t k ld x).path = d.path := (Laws.signals_raiseAt ..).path
@[simp] theorem Dev.raiseAt_xl (p t : Nat) (k : LogKind) (ld : Option Nat) (x : Nat) : (d.raiseAt p t k ld x).xl = d.xl := (Laws.signals_raiseAt ..).xl
@[simp] theorem Dev.raiseAt_line (p t : Nat) (k : LogKind) (ld : Option Nat) (x : Nat) : (d.raiseAt p t k ld x).line = d.line := (Laws.signals_raiseAt ..).line
@[simp] theorem Dev.raiseAt_tiers (p t : Nat) (k : LogKind) (ld : Option Nat) (x : Nat) : (d.raiseAt p t k ld x).tiers = d.tiers := (Laws.signals_raiseAt ..).tiers
@[simp] theorem Dev.raiseAt_prism (p t : Nat) (k : LogKind) (ld : Option Nat) (x : Nat) : (d.raiseAt p t k ld x).prism = d.prism := (Laws.signals_raiseAt ..).prism
@[simp] theorem Dev.raiseAt_dram (p t : Nat) (k : LogKind) (ld : Option Nat) (x : Nat) : (d.raiseAt p t k ld x).dram = d.dram := (Laws.signals_raiseAt ..).dram
@[simp] theorem Dev.raiseAt_home (p t : Nat) (k : LogKind) (ld : Option Nat) (x : Nat) : (d.raiseAt p t k ld x).home = d.home := (Laws.signals_raiseAt ..).home
@[simp] theorem Dev.raiseAt_fault (p t : Nat) (k : LogKind) (ld : Option Nat) (x : Nat) : (d.raiseAt p t k ld x).fault = d.fault := (Laws.signals_raiseAt ..).fault
@[simp] theorem Dev.raiseAt_chain (p t : Nat) (k : LogKind) (ld : Option Nat) (x : Nat) : (d.raiseAt p t k ld x).chain = d.chain := (Laws.signals_raiseAt ..).chain
@[simp] theorem Dev.raiseAt_jobs (p t : Nat) (k : LogKind) (ld : Option Nat) (x : Nat) : (d.raiseAt p t k ld x).jobs = d.jobs := (Laws.signals_raiseAt ..).jobs
@[simp] theorem Dev.raiseAt_glint (p t : Nat) (k : LogKind) (ld : Option Nat) (x : Nat) : (d.raiseAt p t k ld x).glint = d.glint := (Laws.signals_raiseAt ..).glint
@[simp] theorem Dev.raiseAt_hitch (p t : Nat) (k : LogKind) (ld : Option Nat) (x : Nat) : (d.raiseAt p t k ld x).hitch = d.hitch := (Laws.signals_raiseAt ..).hitch
@[simp] theorem Dev.raiseAt_power (p t : Nat) (k : LogKind) (ld : Option Nat) (x : Nat) : (d.raiseAt p t k ld x).power = d.power := (Laws.signals_raiseAt ..).power
@[simp] theorem Dev.raiseAt_flash (p t : Nat) (k : LogKind) (ld : Option Nat) (x : Nat) : (d.raiseAt p t k ld x).flash = d.flash := (Laws.signals_raiseAt ..).flash
@[simp] theorem Dev.raiseAt_links (p t : Nat) (k : LogKind) (ld : Option Nat) (x : Nat) : (d.raiseAt p t k ld x).host.links = d.host.links := (Laws.signals_raiseAt ..).links
@[simp] theorem Dev.raiseAt_ports (p t : Nat) (k : LogKind) (ld : Option Nat) (x : Nat) : (d.raiseAt p t k ld x).host.ports = d.host.ports := (Laws.signals_raiseAt ..).ports
@[simp] theorem Dev.raiseAt_boxes (p t : Nat) (k : LogKind) (ld : Option Nat) (x : Nat) : (d.raiseAt p t k ld x).host.boxes = d.host.boxes := (Laws.signals_raiseAt ..).boxes

@[simp] theorem Dev.raiseFault_boot (t : Nat) (k : LogKind) (n r : Nat) (ld : Option Nat) : (d.raiseFault t k n r ld).boot = d.boot := (Laws.signals_raiseFault ..).boot
@[simp] theorem Dev.raiseFault_clk (t : Nat) (k : LogKind) (n r : Nat) (ld : Option Nat) : (d.raiseFault t k n r ld).clk = d.clk := (Laws.signals_raiseFault ..).clk
@[simp] theorem Dev.raiseFault_conf (t : Nat) (k : LogKind) (n r : Nat) (ld : Option Nat) : (d.raiseFault t k n r ld).conf = d.conf := (Laws.signals_raiseFault ..).conf
@[simp] theorem Dev.raiseFault_path (t : Nat) (k : LogKind) (n r : Nat) (ld : Option Nat) : (d.raiseFault t k n r ld).path = d.path := (Laws.signals_raiseFault ..).path
@[simp] theorem Dev.raiseFault_xl (t : Nat) (k : LogKind) (n r : Nat) (ld : Option Nat) : (d.raiseFault t k n r ld).xl = d.xl := (Laws.signals_raiseFault ..).xl
@[simp] theorem Dev.raiseFault_line (t : Nat) (k : LogKind) (n r : Nat) (ld : Option Nat) : (d.raiseFault t k n r ld).line = d.line := (Laws.signals_raiseFault ..).line
@[simp] theorem Dev.raiseFault_tiers (t : Nat) (k : LogKind) (n r : Nat) (ld : Option Nat) : (d.raiseFault t k n r ld).tiers = d.tiers := (Laws.signals_raiseFault ..).tiers
@[simp] theorem Dev.raiseFault_prism (t : Nat) (k : LogKind) (n r : Nat) (ld : Option Nat) : (d.raiseFault t k n r ld).prism = d.prism := (Laws.signals_raiseFault ..).prism
@[simp] theorem Dev.raiseFault_dram (t : Nat) (k : LogKind) (n r : Nat) (ld : Option Nat) : (d.raiseFault t k n r ld).dram = d.dram := (Laws.signals_raiseFault ..).dram
@[simp] theorem Dev.raiseFault_home (t : Nat) (k : LogKind) (n r : Nat) (ld : Option Nat) : (d.raiseFault t k n r ld).home = d.home := (Laws.signals_raiseFault ..).home
@[simp] theorem Dev.raiseFault_fault (t : Nat) (k : LogKind) (n r : Nat) (ld : Option Nat) : (d.raiseFault t k n r ld).fault = d.fault := (Laws.signals_raiseFault ..).fault
@[simp] theorem Dev.raiseFault_chain (t : Nat) (k : LogKind) (n r : Nat) (ld : Option Nat) : (d.raiseFault t k n r ld).chain = d.chain := (Laws.signals_raiseFault ..).chain
@[simp] theorem Dev.raiseFault_jobs (t : Nat) (k : LogKind) (n r : Nat) (ld : Option Nat) : (d.raiseFault t k n r ld).jobs = d.jobs := (Laws.signals_raiseFault ..).jobs
@[simp] theorem Dev.raiseFault_glint (t : Nat) (k : LogKind) (n r : Nat) (ld : Option Nat) : (d.raiseFault t k n r ld).glint = d.glint := (Laws.signals_raiseFault ..).glint
@[simp] theorem Dev.raiseFault_hitch (t : Nat) (k : LogKind) (n r : Nat) (ld : Option Nat) : (d.raiseFault t k n r ld).hitch = d.hitch := (Laws.signals_raiseFault ..).hitch
@[simp] theorem Dev.raiseFault_power (t : Nat) (k : LogKind) (n r : Nat) (ld : Option Nat) : (d.raiseFault t k n r ld).power = d.power := (Laws.signals_raiseFault ..).power
@[simp] theorem Dev.raiseFault_flash (t : Nat) (k : LogKind) (n r : Nat) (ld : Option Nat) : (d.raiseFault t k n r ld).flash = d.flash := (Laws.signals_raiseFault ..).flash
@[simp] theorem Dev.raiseFault_links (t : Nat) (k : LogKind) (n r : Nat) (ld : Option Nat) : (d.raiseFault t k n r ld).host.links = d.host.links := (Laws.signals_raiseFault ..).links
@[simp] theorem Dev.raiseFault_ports (t : Nat) (k : LogKind) (n r : Nat) (ld : Option Nat) : (d.raiseFault t k n r ld).host.ports = d.host.ports := (Laws.signals_raiseFault ..).ports
@[simp] theorem Dev.raiseFault_boxes (t : Nat) (k : LogKind) (n r : Nat) (ld : Option Nat) : (d.raiseFault t k n r ld).host.boxes = d.host.boxes := (Laws.signals_raiseFault ..).boxes

end Sys2Proof.Machine
end

