-- ==== Sys2Proof/Laws/Mail.lean ====
section
/-! SUPPORT. What an answer of a mailbox command can do. -/

namespace Sys2Proof.Laws

open Sys2Proof Sys2Proof.Machine

theorem finish_frame (d : Dev) (box counts st : Nat) (ret : Ret) (out : List Byte) :
    ∃ b, Signals { d with host.boxes := d.host.boxes.put box b } (d.finish box counts st ret out) :=
  ⟨_, (signals_say _ _).trans (signals_bumpLd ..)⟩

theorem finish_says (d : Dev) (box counts st : Nat) (ret : Ret) (out : List Byte) :
    Out.mailbox box ret out ∈ (d.finish box counts st ret out).out := by
  obtain ⟨m, h⟩ := (signals_bumpLd ((d.modBox box fun b => { b with inp := overlay b.inp 0 out, out := out, ret := ret, lastStatus := BitVec.ofNat 16 st }).say
    (.mailbox box ret out)) counts 0x28 1).out
  show _ ∈ (Dev.bumpLd _ counts 0x28).out
  rw [h]
  simp [Dev.say]

theorem reply_replies (d : Dev) (iss : Issuer) (st : Status) (body : List Byte) (nw : Bool) :
    Replies d (d.reply iss st body nw) iss st body nw :=
  ⟨finish_says .., finish_frame ..⟩

theorem answerStd_replies (d : Dev) (iss : Issuer) (ret : Ret) (out : List Byte) :
    RepliesStd d (d.answerStd iss ret out) iss ret out :=
  ⟨finish_says .., finish_frame ..⟩

/-- A command that firmware takes acts on the device whose doorbell has been rung. -/
theorem command_takes {s : State} (h : Takes s) (iss : Issuer) (op : Nat) (f : Dev → Dev) :
    s.dev.command iss op f = f (s.dev.doorbell (mailDoorbell iss)) := by
  simp [Dev.command, h.1, h.2]

end Sys2Proof.Laws
end

