-- ==== Sys2Proof/Laws/Memory.lean ====
section
/-! SUPPORT. Laws of the DRAM contents: every memory operation keeps the canonical form, a read gives what the last write of
the address gave, and a write leaves every other address alone. -/

namespace Sys2Proof.Laws

open Sys2Proof Sys2Proof.Machine

/-- A canonical list from a higher bound is one from a lower bound. -/
theorem memory_wfFrom_mono {lo lo' : Nat} {m : List Host.Cell} (hle : lo ≤ lo') (h : Memory.wfFrom lo' m = true) :
    Memory.wfFrom lo m = true := by
  cases m with
  | nil => rfl
  | cons c t => simp [Memory.wfFrom] at h ⊢; exact ⟨⟨by omega, h.1.2⟩, h.2⟩

/-- Below the bound of a canonical list every address reads as unlisted. -/
theorem memory_read_below {lo a : Nat} {m : List Host.Cell} (h : Memory.wfFrom lo m = true) (ha : a < lo) :
    Memory.read m a = Memory.blank a := by
  cases m with
  | nil => rfl
  | cons c t =>
    simp [Memory.wfFrom] at h
    simp [Memory.read, show a ≠ c.1 by omega, show a < c.1 by omega]

/-- Writing a byte keeps the canonical form. -/
theorem memory_write_wfFrom {a : Nat} {v : Byte} {m : List Host.Cell} : ∀ {lo : Nat}, lo ≤ a →
    Memory.wfFrom lo m = true → Memory.wfFrom lo (Memory.write m a v) = true := by
  induction m with
  | nil => intro lo hlo _; unfold Memory.write; split <;> simp_all [Memory.wfFrom]
  | cons c t ih =>
    intro lo hlo h
    obtain ⟨k, w⟩ := c
    simp only [Memory.wfFrom, Bool.and_eq_true, decide_eq_true_eq] at h
    unfold Memory.write
    split
    · rename_i hak
      split
      · simp [Memory.wfFrom, h]
      · rename_i hv
        simp only [Memory.wfFrom, Bool.and_eq_true, decide_eq_true_eq]
        exact ⟨⟨hlo, hv⟩, ⟨by omega, h.1.2⟩, h.2⟩
    · split
      · split
        · exact memory_wfFrom_mono (by omega) h.2
        · rename_i hv
          subst_vars
          simp only [Memory.wfFrom, Bool.and_eq_true, decide_eq_true_eq]
          exact ⟨⟨hlo, hv⟩, h.2⟩
      · simp only [Memory.wfFrom, Bool.and_eq_true, decide_eq_true_eq]
        exact ⟨h.1, ih (by omega) h.2⟩

theorem memory_write_wf {m : List Host.Cell} (a : Nat) (v : Byte) (h : Memory.wf m = true) :
    Memory.wf (Memory.write m a v) = true := memory_write_wfFrom (Nat.zero_le a) h

/-- What a read gives after a write: the byte written at its address, and what stood there at every other. -/
theorem memory_read_writeFrom {a b : Nat} {v : Byte} {m : List Host.Cell} : ∀ {lo : Nat}, Memory.wfFrom lo m = true →
    Memory.read (Memory.write m a v) b = if b = a then v else Memory.read m b := by
  induction m with
  | nil =>
    intro lo _
    unfold Memory.write
    split
    · rename_i hv; simp only [Memory.read]; split
      · simp_all
      · rfl
    · simp only [Memory.read]; split <;> simp_all
  | cons c t ih =>
    intro lo h
    obtain ⟨k, w⟩ := c
    simp only [Memory.wfFrom, Bool.and_eq_true, decide_eq_true_eq] at h
    unfold Memory.write
    split
    · rename_i hak
      split
      · rename_i hv
        split
        · rename_i hb; subst hb
          simp [Memory.read, show b ≠ k by omega, hak, hv]
        · rfl
      · simp only [Memory.read]
        split
        · rfl
        · split
          · simp [show b ≠ k by omega, show b < k by omega]
          · rfl
    · rename_i hak
      split
      · rename_i hk; subst hk
        split
        · rename_i hv
          split
          · rename_i hb; subst hb
            rw [memory_read_below h.2 (by omega), hv]
          · rename_i hb
            simp only [Memory.read, hb, if_false]
            split
            · rw [memory_read_below h.2 (by omega)]
            · rfl
        · simp only [Memory.read]
          split <;> rfl
      · rename_i hk
        simp only [Memory.read]
        split
        · rename_i hb; subst hb; simp [show ¬ b = a by omega]
        · split
          · simp [show b ≠ a by omega]
          · exact ih h.2

theorem memory_read_write {m : List Host.Cell} (a b : Nat) (v : Byte) (h : Memory.wf m = true) :
    Memory.read (Memory.write m a v) b = if b = a then v else Memory.read m b := memory_read_writeFrom h

/-- A run of bytes keeps the canonical form. -/
theorem memory_writeRun_wf {m : List Host.Cell} (a : Nat) (l : List Byte) (h : Memory.wf m = true) :
    Memory.wf (Memory.writeRun m a l) = true := by
  induction l generalizing m a with
  | nil => exact h
  | cons b t ih => exact ih (a + 1) (memory_write_wf a b h)

/-- What a read gives after a run of bytes is written. -/
theorem memory_read_writeRun {m : List Host.Cell} (a b : Nat) (l : List Byte) (h : Memory.wf m = true) :
    Memory.read (Memory.writeRun m a l) b =
      if a ≤ b ∧ b < a + l.length then l.getD (b - a) 0 else Memory.read m b := by
  induction l generalizing m a with
  | nil =>
    simp only [Memory.writeRun, List.length_nil, Nat.add_zero]
    rw [if_neg (by omega)]
  | cons x t ih =>
    simp only [Memory.writeRun, List.length_cons]
    rw [ih (a + 1) (memory_write_wf a x h), memory_read_write a b x h]
    by_cases h1 : b = a
    · subst h1
      rw [if_neg (by omega), if_pos rfl, if_pos (by omega), Nat.sub_self, List.getD_cons_zero]
    · by_cases h2 : a + 1 ≤ b ∧ b < a + 1 + t.length
      · have h3 : a ≤ b ∧ b < a + (t.length + 1) := by omega
        simp only [h2, h3, and_self, if_true]
        have : b - a = (b - (a + 1)) + 1 := by omega
        rw [this, List.getD_cons_succ]
      · have h3 : ¬ (a ≤ b ∧ b < a + (t.length + 1)) := by omega
        rw [if_neg h1, if_neg h2, if_neg h3]

/-- Leaving out the entries of some addresses keeps the canonical form. -/
theorem memory_filter_wf {m : List Host.Cell} (p : Host.Cell → Bool) (h : Memory.wf m = true) : Memory.wf (m.filter p) = true := by
  unfold Memory.wf at h ⊢
  generalize 0 = lo at h ⊢
  induction m generalizing lo with
  | nil => rfl
  | cons c t ih =>
    simp only [Memory.wfFrom, Bool.and_eq_true, decide_eq_true_eq] at h
    rw [List.filter_cons]
    split
    · simp only [Memory.wfFrom, Bool.and_eq_true, decide_eq_true_eq]; exact ⟨h.1, ih _ h.2⟩
    · exact memory_wfFrom_mono (by omega) (ih _ h.2)

/-- Erasing a run of addresses keeps the canonical form. -/
theorem memory_erase_wf {m : List Host.Cell} (lo hi : Nat) (h : Memory.wf m = true) : Memory.wf (Memory.erase m lo hi) = true :=
  memory_filter_wf _ h

/-- Storing a burst keeps the canonical form. -/
theorem memory_setBurst_wf {m : List Host.Cell} (n : Nat) (b : Burst) (h : Memory.wf m = true) :
    Memory.wf (Memory.setBurst m n b) = true := memory_writeRun_wf _ _ h

theorem leBytes_length (n v : Nat) : (leBytes n v).length = n := by
  induction n generalizing v with
  | zero => rfl
  | succ n ih => simp [leBytes, ih]

/-- The bytes of a number, read back little-endian, are the number (R14). -/
theorem leNat_leBytes (n v : Nat) : leNat (leBytes n v) = v % 256 ^ n := by
  induction n generalizing v with
  | zero => simp [leBytes, leNat, Nat.mod_one]
  | succ n ih =>
    have h8 : (BitVec.ofNat 8 v).toNat = v % 256 := BitVec.toNat_ofNat v 8
    rw [leBytes, leNat, ih, h8, Nat.pow_succ, Nat.mul_comm (256 ^ n) 256, Nat.mod_mul]

/-- A burst stored at a physical line reads back, and every other line's burst stays (R159). -/
theorem memory_burst_setBurst {m : List Host.Cell} (n k : Nat) (b : Burst) (h : Memory.wf m = true) :
    Memory.burst (Memory.setBurst m n b) k = if k = n then b else Memory.burst m k := by
  have hlen : (leBytes 80 b.toNat).length = 80 := leBytes_length 80 _
  unfold Memory.burst Memory.setBurst
  split
  · rename_i hk; subst hk
    have : Memory.readRun (Memory.writeRun m (128 * k) (leBytes 80 b.toNat)) (128 * k) 80 = leBytes 80 b.toNat := by
      apply List.ext_getElem
      · simp [Memory.readRun, hlen]
      · intro i h1 h2
        simp only [Memory.readRun, List.getElem_map, List.getElem_range]
        rw [memory_read_writeRun _ _ _ h, if_pos (by rw [hlen] at h2 ⊢; omega)]
        simp [List.getD_eq_getElem?_getD, h2]
    rw [this, leNat_leBytes]
    apply BitVec.eq_of_toNat_eq
    have h1 : (256 : Nat) ^ 80 = 2 ^ 640 := by rw [show (256 : Nat) = 2 ^ 8 from rfl, ← Nat.pow_mul]
    rw [h1, Nat.mod_eq_of_lt b.isLt, BitVec.toNat_ofNat, Nat.mod_eq_of_lt b.isLt]
  · rename_i hk
    have : Memory.readRun (Memory.writeRun m (128 * n) (leBytes 80 b.toNat)) (128 * k) 80 = Memory.readRun m (128 * k) 80 := by
      unfold Memory.readRun
      apply List.map_congr_left
      intro i hi
      rw [List.mem_range] at hi
      rw [memory_read_writeRun _ _ _ h, if_neg (by rw [hlen]; omega)]
    rw [this]

end Sys2Proof.Laws
end

