-- ==== Sys2Proof/Laws/MemOk1.lean ====
section
/-! SUPPORT. Every operation of the model keeps the media contents in their canonical form: one lemma an operation, and one a command's meaning (part 1 of 8). -/

set_option linter.unusedSimpArgs false
set_option linter.unusedVariables false

namespace Sys2Proof.Laws

open Sys2Proof Sys2Proof.Machine

/-- The media contents of a device are in their canonical form. -/
def MemOk (d : Dev) : Prop := Memory.wf d.line.mem = true
/-- The same of the part of State that holds them. -/
def LineOk (l : LineSt) : Prop := Memory.wf l.mem = true
theorem mk_iff {boot clk conf host path xl line tiers prism dram home fault ev chain jobs glint hitch power flash out} :
    MemOk ⟨boot, clk, conf, host, path, xl, line, tiers, prism, dram, home, fault, ev, chain, jobs, glint, hitch, power, flash, out⟩ = LineOk line := rfl
theorem line_iff {d : Dev} : LineOk d.line = MemOk d := rfl
theorem lineMk_iff {mem wb repairs keys kt roots ct fetches treeReady quar rekey poisonSeen} :
    LineOk ⟨mem, wb, repairs, keys, kt, roots, ct, fetches, treeReady, quar, rekey, poisonSeen⟩ = (Memory.wf mem = true) := rfl
theorem wf_iff {d : Dev} : (Memory.wf d.line.mem = true) = MemOk d := rfl
theorem each_ok {α : Type} {l : List α} {d : Dev} {f : Dev → α → Dev} (h : MemOk d) (hf : ∀ d a, MemOk d → MemOk (f d a)) : MemOk (each l d f) := by
  unfold each
  induction l generalizing d with
  | nil => exact h
  | cons a t ih => exact ih (hf _ _ h)
theorem each_ok1 {α β : Type} {l : List α} {s : Dev × β} {f : Dev × β → α → Dev × β} (h : MemOk s.1)
    (hf : ∀ s a, MemOk s.1 → MemOk (f s a).1) : MemOk (each l s f).1 := by
  unfold each
  induction l generalizing s with
  | nil => exact h
  | cons a t ih => exact ih (hf _ _ h)
theorem each_ok2 {α β : Type} {l : List α} {s : β × Dev} {f : β × Dev → α → β × Dev} (h : MemOk s.2)
    (hf : ∀ s a, MemOk s.2 → MemOk (f s a).2) : MemOk (each l s f).2 := by
  unfold each
  induction l generalizing s with
  | nil => exact h
  | cons a t ih => exact ih (hf _ _ h)
theorem each_ok22 {α β γ : Type} {l : List α} {s : β × γ × Dev} {f : β × γ × Dev → α → β × γ × Dev} (h : MemOk s.2.2)
    (hf : ∀ s a, MemOk s.2.2 → MemOk (f s a).2.2) : MemOk (each l s f).2.2 := by
  unfold each
  induction l generalizing s with
  | nil => exact h
  | cons a t ih => exact ih (hf _ _ h)
theorem each_ok21 {α β γ : Type} {l : List α} {s : β × Dev × γ} {f : β × Dev × γ → α → β × Dev × γ} (h : MemOk s.2.1)
    (hf : ∀ s a, MemOk s.2.1 → MemOk (f s a).2.1) : MemOk (each l s f).2.1 := by
  unfold each
  induction l generalizing s with
  | nil => exact h
  | cons a t ih => exact ih (hf _ _ h)
theorem each_ok12 {α β γ : Type} {l : List α} {s : (β × Dev) × γ} {f : (β × Dev) × γ → α → (β × Dev) × γ} (h : MemOk s.1.2)
    (hf : ∀ s a, MemOk s.1.2 → MemOk (f s a).1.2) : MemOk (each l s f).1.2 := by
  unfold each
  induction l generalizing s with
  | nil => exact h
  | cons a t ih => exact ih (hf _ _ h)
theorem getD_ok {o : Option Dev} {d : Dev} (h : MemOk d) (ho : ∀ e, o = some e → MemOk e) : MemOk (o.getD d) := by
  cases o with
  | none => exact h
  | some e => exact ho e rfl
theorem elim_ok {α : Type} {o : Option α} {d : Dev} {f : α → Dev} (h : MemOk d) (hf : ∀ a, o = some a → MemOk (f a)) :
    MemOk (o.elim d f) := by
  cases o with
  | none => exact h
  | some a => exact hf a rfl
theorem each_ok222 {α β γ δ : Type} {l : List α} {s : β × γ × δ × Dev} {f : β × γ × δ × Dev → α → β × γ × δ × Dev} (h : MemOk s.2.2.2)
    (hf : ∀ s a, MemOk s.2.2.2 → MemOk (f s a).2.2.2) : MemOk (each l s f).2.2.2 := by
  unfold each
  induction l generalizing s with
  | nil => exact h
  | cons a t ih => exact ih (hf _ _ h)
theorem elim_eq {α β : Type} {o : Option α} {e : β} {f : α → β} {r : β} (h : o.elim e f = r) :
    (o = none ∧ e = r) ∨ ∃ a, o = some a ∧ f a = r := by
  cases o with
  | none => exact .inl ⟨rfl, h⟩
  | some a => exact .inr ⟨a, rfl, h⟩
theorem wf_nil : Memory.wf [] = true := rfl
theorem memOk_setLd {d : Dev} {n : Nat} {x : Ld} (h_d : MemOk d) :
    MemOk (Dev.setLd d n x) := by
  unfold Dev.setLd
  try dsimp only
  repeat' first
    | with_reducible assumption
    | simp only [mk_iff, line_iff, lineMk_iff, wf_iff]
theorem memOk_modLd {d : Dev} {n : Nat} {f : Ld → Ld} (h_d : MemOk d) :
    MemOk (Dev.modLd d n f) := by
  unfold Dev.modLd
  try dsimp only
  repeat' first
    | with_reducible assumption
    | with_reducible apply memOk_setLd
theorem memOk_setLink {d : Dev} {n : Nat} {x : HLink} (h_d : MemOk d) :
    MemOk (Dev.setLink d n x) := by
  unfold Dev.setLink
  try dsimp only
  repeat' first
    | with_reducible assumption
    | simp only [mk_iff, line_iff, lineMk_iff, wf_iff]
theorem memOk_modLink {d : Dev} {n : Nat} {f : HLink → HLink} (h_d : MemOk d) :
    MemOk (Dev.modLink d n f) := by
  unfold Dev.modLink
  try dsimp only
  repeat' first
    | with_reducible assumption
    | with_reducible apply memOk_setLink
theorem memOk_modPort {d : Dev} {n : Nat} {f : HPortSt → HPortSt} (h_d : MemOk d) :
    MemOk (Dev.modPort d n f) := by
  unfold Dev.modPort
  try dsimp only
  repeat' first
    | with_reducible assumption
    | simp only [mk_iff, line_iff, lineMk_iff, wf_iff]
theorem memOk_modBox {d : Dev} {n : Nat} {f : Mbox → Mbox} (h_d : MemOk d) :
    MemOk (Dev.modBox d n f) := by
  unfold Dev.modBox
  try dsimp only
  repeat' first
    | with_reducible assumption
    | simp only [mk_iff, line_iff, lineMk_iff, wf_iff]
theorem memOk_setChan {d : Dev} {n : Nat} {x : Chan} (h_d : MemOk d) :
    MemOk (Dev.setChan d n x) := by
  unfold Dev.setChan
  try dsimp only
  repeat' first
    | with_reducible assumption
    | simp only [mk_iff, line_iff, lineMk_iff, wf_iff]
theorem memOk_modChan {d : Dev} {n : Nat} {f : Chan → Chan} (h_d : MemOk d) :
    MemOk (Dev.modChan d n f) := by
  unfold Dev.modChan
  try dsimp only
  repeat' first
    | with_reducible assumption
    | with_reducible apply memOk_setChan
theorem memOk_setKey {d : Dev} {n : Nat} {k : Key} (h_d : MemOk d) :
    MemOk (Dev.setKey d n k) := by
  unfold Dev.setKey
  try dsimp only
  repeat' first
    | with_reducible assumption
    | simp only [mk_iff, line_iff, lineMk_iff, wf_iff]
theorem memOk_modSource {d : Dev} {n : Nat} {f : Source → Source} (h_d : MemOk d) :
    MemOk (Dev.modSource d n f) := by
  unfold Dev.modSource
  try dsimp only
  repeat' first
    | with_reducible assumption
    | simp only [mk_iff, line_iff, lineMk_iff, wf_iff]
theorem memOk_setCore {d : Dev} {n : Nat} {c : Core} (h_d : MemOk d) :
    MemOk (Dev.setCore d n c) := by
  unfold Dev.setCore
  try dsimp only
  repeat' first
    | with_reducible assumption
    | simp only [mk_iff, line_iff, lineMk_iff, wf_iff]
theorem memOk_say {d : Dev} {o : Out} (h_d : MemOk d) :
    MemOk (Dev.say d o) := by
  unfold Dev.say
  try dsimp only
  repeat' first
    | with_reducible assumption
    | simp only [mk_iff, line_iff, lineMk_iff, wf_iff]
theorem memOk_random {d : Dev} {w : Nat} (h_d : MemOk d) :
    MemOk (Dev.random d w).2 := by
  unfold Dev.random
  try dsimp only
  repeat' first
    | with_reducible assumption
    | simp only [mk_iff, line_iff, lineMk_iff, wf_iff]
theorem memOk_random_eq {d : Dev} {w : Nat} (h_d : MemOk d) {q0 : BitVec w} {q1 : Dev} (hr : (Dev.random d w) = (q0, q1)) :
    MemOk q1 := by
  have h : MemOk (Dev.random d w).2 := memOk_random h_d
  rw [hr] at h
  exact h
theorem memOk_free {d : Dev} {w : Nat} (h_d : MemOk d) :
    MemOk (Dev.free d w).2 := by
  unfold Dev.free
  try dsimp only
  repeat' first
    | with_reducible assumption
    | simp only [mk_iff, line_iff, lineMk_iff, wf_iff]
theorem memOk_free_eq {d : Dev} {w : Nat} (h_d : MemOk d) {q0 : BitVec w} {q1 : Dev} (hr : (Dev.free d w) = (q0, q1)) :
    MemOk q1 := by
  have h : MemOk (Dev.free d w).2 := memOk_free h_d
  rw [hr] at h
  exact h
theorem memOk_trainRank {d : Dev} {ch rank : Nat} (h_d : MemOk d) :
    MemOk (Dev.trainRank d ch rank) := by
  unfold Dev.trainRank
  try dsimp only
  repeat' first
    | with_reducible assumption
    | with_reducible apply memOk_modChan
    | with_reducible apply memOk_free
theorem memOk_trainChan {d : Dev} {ch : Nat} (h_d : MemOk d) :
    MemOk (Dev.trainChan d ch) := by
  unfold Dev.trainChan
  try dsimp only
  repeat' first
    | with_reducible assumption
    | simp only [mk_iff, line_iff, lineMk_iff, wf_iff]
    | with_reducible apply memOk_trainRank
    | with_reducible apply each_ok
    | intro _
theorem memOk_count {d : Dev} {i n : Nat} (h_d : MemOk d) :
    MemOk (Dev.count d i n) := by
  unfold Dev.count
  try dsimp only
  repeat' first
    | with_reducible assumption
    | simp only [mk_iff, line_iff, lineMk_iff, wf_iff]
    | with_reducible apply each_ok
    | intro _
    | split
theorem memOk_deliver {d : Dev} {n : Nat} (h_d : MemOk d) :
    MemOk (Dev.deliver d n) := by
  unfold Dev.deliver
  try dsimp only
  repeat' first
    | with_reducible assumption
    | simp only [mk_iff, line_iff, lineMk_iff, wf_iff]
    | with_reducible apply memOk_count
    | split
theorem memOk_ring {d : Dev} {n : Nat} (h_d : MemOk d) :
    MemOk (Dev.ring d n) := by
  unfold Dev.ring
  try dsimp only
  repeat' first
    | with_reducible assumption
    | simp only [mk_iff, line_iff, lineMk_iff, wf_iff]
    | with_reducible apply memOk_deliver
    | split
theorem memOk_setVec {d : Dev} {ld v : Nat} {x : Vec} (h_d : MemOk d) :
    MemOk (Dev.setVec d ld v x) := by
  unfold Dev.setVec
  try dsimp only
  repeat' first
    | with_reducible assumption
    | with_reducible apply memOk_modLd
theorem memOk_msix {d : Dev} {ld v : Nat} (h_d : MemOk d) :
    MemOk (Dev.msix d ld v) := by
  unfold Dev.msix
  try dsimp only
  repeat' first
    | with_reducible assumption
    | with_reducible apply memOk_say
    | with_reducible apply memOk_count
theorem memOk_fireVec {d : Dev} {ld v : Nat} (h_d : MemOk d) :
    MemOk (Dev.fireVec d ld v) := by
  unfold Dev.fireVec
  try dsimp only
  repeat' first
    | with_reducible assumption
    | with_reducible apply memOk_setVec
    | with_reducible apply memOk_msix
    | split
theorem memOk_vecEvent {d : Dev} {ld v : Nat} (h_d : MemOk d) :
    MemOk (Dev.vecEvent d ld v) := by
  unfold Dev.vecEvent
  try dsimp only
  repeat' first
    | with_reducible assumption
    | with_reducible apply memOk_setVec
    | with_reducible apply memOk_fireVec
    | split
theorem memOk_settle {d : Dev} (h_d : MemOk d) :
    MemOk (Dev.settle d) := by
  unfold Dev.settle
  try dsimp only
  repeat' first
    | with_reducible assumption
    | simp only [mk_iff, line_iff, lineMk_iff, wf_iff]
    | with_reducible apply memOk_say
    | with_reducible apply memOk_ring
    | with_reducible apply memOk_vecEvent
    | with_reducible apply each_ok
    | intro _
    | split
theorem memOk_bump {d : Dev} {e : Nat} {n : Nat} (h_d : MemOk d) :
    MemOk (Dev.bump d e n) := by
  unfold Dev.bump
  try dsimp only
  repeat' first
    | with_reducible assumption
    | with_reducible apply memOk_count
    | with_reducible apply memOk_settle
    | split
theorem memOk_bumpLd {d : Dev} {ld e : Nat} {n : Nat} (h_d : MemOk d) :
    MemOk (Dev.bumpLd d ld e n) := by
  unfold Dev.bumpLd
  try dsimp only
  repeat' first
    | with_reducible assumption
    | with_reducible apply memOk_count
    | with_reducible apply memOk_settle
    | split
theorem memOk_doorbell {d : Dev} {n : Nat} (h_d : MemOk d) :
    MemOk (Dev.doorbell d n) := by
  unfold Dev.doorbell
  try dsimp only
  repeat' first
    | with_reducible assumption
    | with_reducible apply memOk_ring
    | with_reducible apply memOk_settle
theorem memOk_record {d : Dev} {r : Rec} (h_d : MemOk d) :
    MemOk (Dev.record d r) := by
  unfold Dev.record
  try dsimp only
  repeat' first
    | with_reducible assumption
    | simp only [mk_iff, line_iff, lineMk_iff, wf_iff]
    | with_reducible apply memOk_bump
    | split
theorem memOk_noteRecord {d : Dev} {key : Nat} (h_d : MemOk d) :
    MemOk (Dev.noteRecord d key) := by
  unfold Dev.noteRecord
  try dsimp only
  repeat' first
    | with_reducible assumption
    | simp only [mk_iff, line_iff, lineMk_iff, wf_iff]
theorem memOk_raiseAlways {d : Dev} {type : Nat} {log : LogKind} {ld : Option Nat} {detail : Nat} (h_d : MemOk d) :
    MemOk (Dev.raiseAlways d type log ld detail) := by
  unfold Dev.raiseAlways
  try dsimp only
  repeat' first
    | with_reducible assumption
    | with_reducible apply memOk_record
theorem memOk_raise {d : Dev} {type : Nat} {log : LogKind} {ld : Option Nat} {detail : Nat} (h_d : MemOk d) :
    MemOk (Dev.raise d type log ld detail) := by
  unfold Dev.raise
  try dsimp only
  repeat' first
    | with_reducible assumption
    | with_reducible apply memOk_noteRecord
    | with_reducible apply memOk_raiseAlways
    | split
theorem memOk_raiseAt {d : Dev} {place type : Nat} {log : LogKind} {ld : Option Nat} {detail : Nat} (h_d : MemOk d) :
    MemOk (Dev.raiseAt d place type log ld detail) := by
  unfold Dev.raiseAt
  try dsimp only
  repeat' first
    | with_reducible assumption
    | with_reducible apply memOk_noteRecord
    | with_reducible apply memOk_raiseAlways
    | split
theorem memOk_faultEvent {d : Dev} {n code detail : Nat} {label : Label} {who : BitVec 8} {hard : Bool} (h_d : MemOk d) :
    MemOk (Dev.faultEvent d n code detail label who hard) := by
  unfold Dev.faultEvent
  try dsimp only
  repeat' first
    | with_reducible assumption
    | simp only [mk_iff, line_iff, lineMk_iff, wf_iff]
    | with_reducible apply memOk_doorbell
theorem memOk_readLastError {d : Dev} {n : Nat} (h_d : MemOk d) :
    MemOk (Dev.readLastError d n) := by
  unfold Dev.readLastError
  try dsimp only
  repeat' first
    | with_reducible assumption
    | with_reducible apply memOk_modSource
theorem memOk_raiseFault {d : Dev} {type : Nat} {log : LogKind} {n reaction : Nat} {ld : Option Nat} (h_d : MemOk d) :
    MemOk (Dev.raiseFault d type log n reaction ld) := by
  unfold Dev.raiseFault
  try dsimp only
  repeat' first
    | with_reducible assumption
    | with_reducible apply memOk_record
theorem memOk_blankRank {d : Dev} {ch phys : Nat} (h_d : MemOk d) :
    MemOk (Dev.blankRank d ch phys) := by
  unfold Dev.blankRank
  exact memory_filter_wf _ h_d
theorem memOk_setBurst {d : Dev} {n : Nat} {b : Burst} (h_d : MemOk d) :
    MemOk (Dev.setBurst d n b) := by
  unfold Dev.setBurst
  simp only [mk_iff, lineMk_iff]
  exact memory_setBurst_wf _ _ h_d
theorem memOk_fresh {d : Dev} (h_d : MemOk d) :
    MemOk (Dev.fresh d).2 := by
  unfold Dev.fresh
  try dsimp only
  repeat' first
    | with_reducible assumption
    | simp only [mk_iff, line_iff, lineMk_iff, wf_iff]
theorem memOk_fresh_eq {d : Dev} (h_d : MemOk d) {q0 : Nat} {q1 : Dev} (hr : (Dev.fresh d) = (q0, q1)) :
    MemOk q1 := by
  have h : MemOk (Dev.fresh d).2 := memOk_fresh h_d
  rw [hr] at h
  exact h
theorem memOk_setWb {d : Dev} {w : Wb} (h_d : MemOk d) :
    MemOk (Dev.setWb d w) := by
  unfold Dev.setWb
  try dsimp only
  repeat' first
    | with_reducible assumption
    | simp only [mk_iff, line_iff, lineMk_iff, wf_iff]
theorem memOk_dropWb {d : Dev} {id : Nat} (h_d : MemOk d) :
    MemOk (Dev.dropWb d id) := by
  unfold Dev.dropWb
  try dsimp only
  repeat' first
    | with_reducible assumption
    | simp only [mk_iff, line_iff, lineMk_iff, wf_iff]
theorem memOk_addWb {d : Dev} {w : Wb} (h_d : MemOk d) :
    MemOk (Dev.addWb d w) := by
  unfold Dev.addWb
  try dsimp only
  repeat' first
    | with_reducible assumption
    | simp only [mk_iff, line_iff, lineMk_iff, wf_iff]
theorem memOk_acceptWb {d : Dev} {w : Wb} (h_d : MemOk d) :
    MemOk (Dev.acceptWb d w) := by
  unfold Dev.acceptWb
  try dsimp only
  repeat' first
    | with_reducible assumption
    | simp only [mk_iff, line_iff, lineMk_iff, wf_iff]
    | with_reducible apply memOk_setWb
    | with_reducible apply memOk_addWb
    | split
theorem memOk_dropEntries {d : Dev} {p : Nat → Bool} (h_d : MemOk d) :
    MemOk (Dev.dropEntries d p) := by
  unfold Dev.dropEntries
  try dsimp only
  repeat' first
    | with_reducible assumption
    | simp only [mk_iff, line_iff, lineMk_iff, wf_iff]
theorem memOk_supersede {d : Dev} {n : Nat} (h_d : MemOk d) :
    MemOk (Dev.supersede d n) := by
  unfold Dev.supersede
  try dsimp only
  repeat' first
    | with_reducible assumption
    | with_reducible apply memOk_dropEntries
theorem memOk_dropRewrites {d : Dev} {n : Nat} (h_d : MemOk d) :
    MemOk (Dev.dropRewrites d n) := by
  unfold Dev.dropRewrites
  try dsimp only
  repeat' first
    | with_reducible assumption
    | simp only [mk_iff, line_iff, lineMk_iff, wf_iff]
theorem memOk_repair {d : Dev} {w : Wb} (h_d : MemOk d) :
    MemOk (Dev.repair d w) := by
  unfold Dev.repair
  try dsimp only
  repeat' first
    | with_reducible assumption
    | simp only [mk_iff, line_iff, lineMk_iff, wf_iff]
    | with_reducible apply memOk_addWb
    | split
theorem memOk_takeRepairs {d : Dev} (h_d : MemOk d) :
    MemOk (Dev.takeRepairs d) := by
  unfold Dev.takeRepairs
  try dsimp only
  repeat' first
    | with_reducible assumption
    | simp only [mk_iff, line_iff, lineMk_iff, wf_iff]
    | with_reducible apply memOk_repair
    | with_reducible apply each_ok
theorem memOk_blankLines {d : Dev} {lo hi : Nat} (h_d : MemOk d) :
    MemOk (Dev.blankLines d lo hi) := by
  unfold Dev.blankLines
  extract_lets d'
  have h : MemOk d' := memOk_dropEntries h_d
  split
  · exact memory_filter_wf _ h
  · exact each_ok h fun d a h => memOk_setBurst h
theorem memOk_zeroFill {d : Dev} {n count : Nat} {reflected : Bool} (h_d : MemOk d) :
    MemOk (Dev.zeroFill d n count reflected) := by
  unfold Dev.zeroFill
  try dsimp only
  repeat' first
    | with_reducible assumption
    | with_reducible apply memOk_setBurst
    | with_reducible apply memOk_dropEntries
    | with_reducible apply memOk_blankLines
    | with_reducible apply each_ok
    | intro _
    | split
theorem memOk_alarm {d : Dev} {source code : Nat} {addr key level : Nat} {lds : List Nat} (h_d : MemOk d) :
    MemOk (Dev.alarm d source code addr key level lds) := by
  unfold Dev.alarm
  try dsimp only
  repeat' first
    | with_reducible assumption
    | with_reducible apply memOk_record
    | with_reducible apply memOk_noteRecord
    | with_reducible apply memOk_faultEvent
    | with_reducible apply memOk_raiseFault
    | with_reducible apply each_ok
    | intro _
    | split
theorem memOk_hardRow {d : Dev} {p : Place} (h_d : MemOk d) :
    MemOk (Dev.hardRow d p) := by
  unfold Dev.hardRow
  try dsimp only
  repeat' first
    | with_reducible assumption
    | simp only [mk_iff, line_iff, lineMk_iff, wf_iff]
    | split
theorem memOk_corrColumn {d : Dev} {p : Place} {k : Nat} (h_d : MemOk d) :
    MemOk (Dev.corrColumn d p k) := by
  unfold Dev.corrColumn
  try dsimp only
  repeat' first
    | with_reducible assumption
    | simp only [mk_iff, line_iff, lineMk_iff, wf_iff]
    | with_reducible apply memOk_hardRow
    | split
theorem memOk_retireRank {d : Dev} {ch rank : Nat} (h_d : MemOk d) :
    MemOk (Dev.retireRank d ch rank) := by
  unfold Dev.retireRank
  try dsimp only
  repeat' first
    | with_reducible assumption
    | with_reducible apply memOk_modChan
theorem memOk_noteVerdict {d : Dev} {n : Nat} {p : Place} {v : Verdict} {r : Reader} (h_d : MemOk d) :
    MemOk (Dev.noteVerdict d n p v r) := by
  unfold Dev.noteVerdict
  try dsimp only
  repeat' first
    | with_reducible assumption
    | simp only [mk_iff, line_iff, lineMk_iff, wf_iff]
    | with_reducible apply memOk_bump
    | with_reducible apply memOk_faultEvent
    | with_reducible apply memOk_alarm
    | with_reducible apply memOk_hardRow
    | with_reducible apply memOk_corrColumn
    | with_reducible apply memOk_retireRank
    | split
theorem memOk_rewriteAs {d : Dev} {check : Line → BitVec 64} {n : Nat} {a : Attr} {page copy : Nat} {j : Judged} {p : Place} {data : Line} (h_d : MemOk d) :
    MemOk (Dev.rewriteAs d check n a page copy j p data) := by
  unfold Dev.rewriteAs
  try dsimp only
  repeat' first
    | with_reducible assumption
    | simp only [mk_iff, line_iff, lineMk_iff, wf_iff]
    | with_reducible apply memOk_fresh
    | with_reducible apply memOk_repair
    | split
theorem memOk_readTable {d : Dev} {n : Nat} {err : Burst} {r : Reader} (h_d : MemOk d) :
    MemOk (Dev.readTable d n err r).2 := by
  unfold Dev.readTable
  try dsimp only
  repeat' first
    | with_reducible assumption
    | with_reducible apply memOk_noteVerdict
    | with_reducible apply memOk_rewriteAs
theorem memOk_readTable_eq {d : Dev} {n : Nat} {err : Burst} {r : Reader} (h_d : MemOk d) {q0 : Judged} {q1 : Dev} (hr : (Dev.readTable d n err r) = (q0, q1)) :
    MemOk q1 := by
  have h : MemOk (Dev.readTable d n err r).2 := memOk_readTable h_d
  rw [hr] at h
  exact h
theorem memOk_writeTable {d : Dev} {n : Nat} {data : Line} (h_d : MemOk d) :
    MemOk (Dev.writeTable d n data) := by
  unfold Dev.writeTable
  try dsimp only
  repeat' first
    | with_reducible assumption
    | with_reducible apply memOk_setBurst
    | with_reducible apply memOk_fresh
    | with_reducible apply memOk_acceptWb
    | with_reducible apply memOk_supersede
    | split
theorem memOk_writeEntry {d : Dev} {addr : Nat} {v : BitVec 64} (h_d : MemOk d) :
    MemOk (Dev.writeEntry d addr v) := by
  unfold Dev.writeEntry
  try dsimp only
  repeat' first
    | with_reducible assumption
    | with_reducible apply memOk_writeTable
theorem memOk_writeBits {d : Dev} {addr bitOff w v : Nat} (h_d : MemOk d) :
    MemOk (Dev.writeBits d addr bitOff w v) := by
  unfold Dev.writeBits
  try dsimp only
  repeat' first
    | with_reducible assumption
    | with_reducible apply memOk_writeTable
    | split
theorem memOk_writeTableBytes {d : Dev} {addr : Nat} {bytes : List Byte} (h_d : MemOk d) :
    MemOk (Dev.writeTableBytes d addr bytes) := by
  unfold Dev.writeTableBytes
  try dsimp only
  repeat' first
    | with_reducible assumption
    | with_reducible apply memOk_writeBits
    | with_reducible apply each_ok
    | intro _
theorem memOk_enterViral {d : Dev} {l : Nat} (h_d : MemOk d) :
    MemOk (Dev.enterViral d l) := by
  unfold Dev.enterViral
  try dsimp only
  repeat' first
    | with_reducible assumption
    | with_reducible apply memOk_modLink
    | split
theorem memOk_markLost {d : Dev} {page : Nat} {mask : BitVec 64} (h_d : MemOk d) :
    MemOk (Dev.markLost d page mask) := by
  unfold Dev.markLost
  try dsimp only
  repeat' first
    | with_reducible assumption
    | simp only [mk_iff, line_iff, lineMk_iff, wf_iff]
    | with_reducible apply memOk_enterViral
    | with_reducible apply each_ok
    | split
theorem memOk_clearLost {d : Dev} {page : Nat} {mask : BitVec 64} (h_d : MemOk d) :
    MemOk (Dev.clearLost d page mask) := by
  unfold Dev.clearLost
  try dsimp only
  repeat' first
    | with_reducible assumption
    | simp only [mk_iff, line_iff, lineMk_iff, wf_iff]
theorem memOk_setRoot {d : Dev} {r : BitVec 512} (h_d : MemOk d) :
    MemOk (Dev.setRoot d r) := by
  unfold Dev.setRoot
  try dsimp only
  repeat' first
    | with_reducible assumption
    | simp only [mk_iff, line_iff, lineMk_iff, wf_iff]
theorem memOk_ctPut {d : Dev} {x : CtLine} (h_d : MemOk d) :
    MemOk (Dev.ctPut d x) := by
  unfold Dev.ctPut
  try dsimp only
  repeat' first
    | with_reducible assumption
    | simp only [mk_iff, line_iff, lineMk_iff, wf_iff]
theorem memOk_ctDrop {d : Dev} {n : Nat} (h_d : MemOk d) :
    MemOk (Dev.ctDrop d n) := by
  unfold Dev.ctDrop
  try dsimp only
  repeat' first
    | with_reducible assumption
    | simp only [mk_iff, line_iff, lineMk_iff, wf_iff]
theorem memOk_fetchNode {d : Dev} {lvl idx : Nat} {err : Burst} (h_d : MemOk d) :
    MemOk (Dev.fetchNode d lvl idx err).2 := by
  unfold Dev.fetchNode
  try dsimp only
  repeat' first
    | with_reducible assumption
    | simp only [mk_iff, line_iff, lineMk_iff, wf_iff]
    | with_reducible apply memOk_alarm
    | with_reducible apply memOk_noteVerdict
    | with_reducible apply memOk_rewriteAs
    | with_reducible apply memOk_ctPut
    | split
theorem memOk_fetchNode_eq {d : Dev} {lvl idx : Nat} {err : Burst} (h_d : MemOk d) {q0 : Bool} {q1 : Dev} (hr : (Dev.fetchNode d lvl idx err) = (q0, q1)) :
    MemOk q1 := by
  have h : MemOk (Dev.fetchNode d lvl idx err).2 := memOk_fetchNode h_d
  rw [hr] at h
  exact h
theorem memOk_fetchPath {d : Dev} {y0 : List (Nat × Nat)} {y1 : List Burst} (h_d : MemOk d) :
    MemOk (Dev.fetchPath d y0 y1).2 := by
  induction y0 generalizing d y1 with
  | nil =>
    unfold Dev.fetchPath
    repeat' first
      | with_reducible assumption
  | cons a t ih =>
    unfold Dev.fetchPath
    try dsimp only
    repeat' first
      | with_reducible assumption
      | simp only [mk_iff, line_iff, lineMk_iff, wf_iff]
      | with_reducible apply ih
      | with_reducible apply memOk_fetchNode
      | split
theorem memOk_fetchPath_eq {d : Dev} {y0 : List (Nat × Nat)} {y1 : List Burst} (h_d : MemOk d) {q0 : Bool} {q1 : Dev} (hr : (Dev.fetchPath d y0 y1) = (q0, q1)) :
    MemOk q1 := by
  have h : MemOk (Dev.fetchPath d y0 y1).2 := memOk_fetchPath h_d
  rw [hr] at h
  exact h
theorem memOk_fetchTree {d : Dev} {lvl idx : Nat} {errs : List Burst} (h_d : MemOk d) :
    MemOk (Dev.fetchTree d lvl idx errs).2 := by
  unfold Dev.fetchTree
  try dsimp only
  repeat' first
    | with_reducible assumption
    | simp only [mk_iff, line_iff, lineMk_iff, wf_iff]
    | with_reducible (apply memOk_fetchPath_eq (hr := by assumption))
    | split
theorem memOk_fetchTree_eq {d : Dev} {lvl idx : Nat} {errs : List Burst} (h_d : MemOk d) {q0 : Bool} {q1 : Dev} (hr : (Dev.fetchTree d lvl idx errs) = (q0, q1)) :
    MemOk q1 := by
  have h : MemOk (Dev.fetchTree d lvl idx errs).2 := memOk_fetchTree h_d
  rw [hr] at h
  exact h
theorem memOk_fetchPlainHeader {d : Dev} {n : Nat} {err : Burst} (h_d : MemOk d) :
    MemOk (Dev.fetchPlainHeader d n err).2 := by
  unfold Dev.fetchPlainHeader
  try dsimp only
  repeat' first
    | with_reducible assumption
    | simp only [mk_iff, line_iff, lineMk_iff, wf_iff]
    | with_reducible apply memOk_readTable
    | with_reducible apply memOk_ctPut
    | split
theorem memOk_fetchPlainHeader_eq {d : Dev} {n : Nat} {err : Burst} (h_d : MemOk d) {q0 : Bool} {q1 : Dev} (hr : (Dev.fetchPlainHeader d n err) = (q0, q1)) :
    MemOk q1 := by
  have h : MemOk (Dev.fetchPlainHeader d n err).2 := memOk_fetchPlainHeader h_d
  rw [hr] at h
  exact h
theorem memOk_bumpParent {d : Dev} {lvl idx : Nat} (h_d : MemOk d) :
    MemOk (Dev.bumpParent d lvl idx) := by
  unfold Dev.bumpParent
  try dsimp only
  repeat' first
    | with_reducible assumption
    | with_reducible apply memOk_setRoot
    | with_reducible apply memOk_ctPut
    | with_reducible apply memOk_fetchTree
    | split
theorem memOk_putTree {d : Dev} {n : Nat} {data : Line} {counter : Nat} (h_d : MemOk d) :
    MemOk (Dev.putTree d n data counter) := by
  unfold Dev.putTree
  try dsimp only
  repeat' first
    | with_reducible assumption
    | with_reducible apply memOk_setBurst
    | with_reducible apply memOk_supersede
theorem memOk_writeBack {y0 : Nat} {y1 : Dev} {y2 : Nat} {y3 : Nat} (h_y1 : MemOk y1) :
    MemOk (Dev.writeBack y0 y1 y2 y3) := by
  induction y0 generalizing y1 y2 y3 with
  | zero =>
    unfold Dev.writeBack
    repeat' first
      | with_reducible assumption
  | succ k ih =>
    unfold Dev.writeBack
    try dsimp only
    repeat' first
      | with_reducible assumption
      | with_reducible apply ih
      | with_reducible apply memOk_writeTable
      | with_reducible apply memOk_ctPut
      | with_reducible apply memOk_bumpParent
      | with_reducible apply memOk_putTree
      | split
theorem memOk_writeBackLine {d : Dev} {n : Nat} (h_d : MemOk d) :
    MemOk (Dev.writeBackLine d n) := by
  unfold Dev.writeBackLine
  try dsimp only
  repeat' first
    | with_reducible assumption
    | with_reducible apply memOk_writeBack
    | with_reducible apply elim_ok
    | intro _
theorem memOk_ctEvict {d : Dev} (h_d : MemOk d) :
    MemOk (Dev.ctEvict d) := by
  unfold Dev.ctEvict
  try dsimp only
  repeat' first
    | with_reducible assumption
    | with_reducible apply memOk_ctDrop
    | with_reducible apply memOk_writeBackLine
    | split
theorem memOk_flushTree {d : Dev} (h_d : MemOk d) :
    MemOk (Dev.flushTree d) := by
  unfold Dev.flushTree
  try dsimp only
  repeat' first
    | with_reducible assumption
    | with_reducible apply memOk_writeBackLine
    | with_reducible apply each_ok
    | intro _
theorem memOk_initTree {d : Dev} (h_d : MemOk d) :
    MemOk (Dev.initTree d) := by
  unfold Dev.initTree
  try dsimp only
  repeat' first
    | with_reducible assumption
    | simp only [mk_iff, line_iff, lineMk_iff, wf_iff]
    | with_reducible apply memOk_blankLines
    | with_reducible apply memOk_setRoot
    | with_reducible apply memOk_ctPut
    | with_reducible apply each_ok
    | intro _
    | split
theorem memOk_fetchHeader {d : Dev} {a : Attr} {page : Nat} {errs : List Burst} (h_d : MemOk d) :
    MemOk (Dev.fetchHeader d a page errs).2 := by
  unfold Dev.fetchHeader
  try dsimp only
  repeat' first
    | with_reducible assumption
    | simp only [mk_iff, line_iff, lineMk_iff, wf_iff]
    | with_reducible apply memOk_fetchTree
    | with_reducible apply memOk_fetchPlainHeader
    | with_reducible apply memOk_ctEvict
    | split
theorem memOk_fetchHeader_eq {d : Dev} {a : Attr} {page : Nat} {errs : List Burst} (h_d : MemOk d) {q0 : Bool} {q1 : Dev} (hr : (Dev.fetchHeader d a page errs) = (q0, q1)) :
    MemOk q1 := by
  have h : MemOk (Dev.fetchHeader d a page errs).2 := memOk_fetchHeader h_d
  rw [hr] at h
  exact h
theorem memOk_setHeader {d : Dev} {a : Attr} {page : Nat} {h : Line} {incs : Nat} (h_d : MemOk d) :
    MemOk (Dev.setHeader d a page h incs) := by
  unfold Dev.setHeader
  try dsimp only
  repeat' first
    | with_reducible assumption
    | with_reducible apply memOk_ctPut
    | with_reducible apply memOk_ctEvict
theorem memOk_throughHeader {d : Dev} {a : Attr} {page : Nat} {h : Line} (h_d : MemOk d) :
    MemOk (Dev.throughHeader d a page h) := by
  unfold Dev.throughHeader
  try dsimp only
  repeat' first
    | with_reducible assumption
    | with_reducible apply memOk_writeBackLine
    | with_reducible apply memOk_setHeader
theorem memOk_placeMinor {d : Dev} {a : Attr} {page idx : Nat} (h_d : MemOk d) :
    MemOk (Dev.placeMinor d a page idx) := by
  unfold Dev.placeMinor
  try dsimp only
  repeat' first
    | with_reducible assumption
    | with_reducible apply memOk_setHeader
theorem memOk_raiseMajor {d : Dev} {a : Attr} {page : Nat} {key : Nat} {h : Line} (h_d : MemOk d) :
    MemOk (Dev.raiseMajor d a page key h).2 := by
  unfold Dev.raiseMajor
  try dsimp only
  repeat' first
    | with_reducible assumption
    | simp only [mk_iff, line_iff, lineMk_iff, wf_iff]
    | with_reducible apply memOk_setKey
    | with_reducible apply memOk_alarm
    | split
theorem memOk_raiseMajor_eq {d : Dev} {a : Attr} {page : Nat} {key : Nat} {h : Line} (h_d : MemOk d) {q0 : Option Line} {q1 : Dev} (hr : (Dev.raiseMajor d a page key h) = (q0, q1)) :
    MemOk q1 := by
  have h : MemOk (Dev.raiseMajor d a page key h).2 := memOk_raiseMajor h_d
  rw [hr] at h
  exact h
theorem memOk_resetHeader {d : Dev} {a : Attr} {page : Nat} (h_d : MemOk d) :
    MemOk (Dev.resetHeader d a page) := by
  unfold Dev.resetHeader
  try dsimp only
  repeat' first
    | with_reducible assumption
    | with_reducible apply memOk_fetchHeader
    | with_reducible apply memOk_throughHeader
    | with_reducible (apply memOk_raiseMajor_eq (hr := by assumption))
    | split
theorem memOk_quarantine {d : Dev} {n : Nat} (h_d : MemOk d) :
    MemOk (Dev.quarantine d n) := by
  unfold Dev.quarantine
  try dsimp only
  repeat' first
    | with_reducible assumption
    | simp only [mk_iff, line_iff, lineMk_iff, wf_iff]
    | with_reducible apply memOk_bump
    | with_reducible apply memOk_alarm
    | with_reducible apply memOk_ctDrop
    | with_reducible apply elim_ok
    | intro _
    | split
theorem memOk_flbLook {d : Dev} {buf ld ext : Nat} {r0 : BitVec 64} {r1 : Dev} (h_d : MemOk d) (hr : (Dev.flbLook d buf ld ext) = some (r0, r1)) :
    MemOk r1 := by
  unfold Dev.flbLook at hr
  try dsimp only at hr
  repeat' first
    | (simp only [Option.some.injEq, Prod.mk.injEq, Option.map_eq_some_iff, Option.bind_eq_some_iff, Except.ok.injEq, reduceCtorEq] at hr)
    | (obtain ⟨rfl, rfl⟩ := hr)
    | (split at hr)
    | with_reducible assumption
    | simp only [mk_iff, line_iff, lineMk_iff, wf_iff]
theorem memOk_flbFill {d : Dev} {buf ld ext : Nat} {e : BitVec 64} (h_d : MemOk d) :
    MemOk (Dev.flbFill d buf ld ext e) := by
  unfold Dev.flbFill
  try dsimp only
  repeat' first
    | with_reducible assumption
    | simp only [mk_iff, line_iff, lineMk_iff, wf_iff]
theorem memOk_xcLook {d : Dev} {k : XKind} {ld i : Nat} {r0 : BitVec 64} {r1 : Dev} (h_d : MemOk d) (hr : (Dev.xcLook d k ld i) = some (r0, r1)) :
    MemOk r1 := by
  unfold Dev.xcLook at hr
  try dsimp only at hr
  repeat' first
    | (simp only [Option.some.injEq, Prod.mk.injEq, Option.map_eq_some_iff, Option.bind_eq_some_iff, Except.ok.injEq, reduceCtorEq] at hr)
    | (obtain ⟨rfl, rfl⟩ := hr)
    | (split at hr)
    | with_reducible assumption
    | simp only [mk_iff, line_iff, lineMk_iff, wf_iff]
theorem memOk_xcFill {d : Dev} {k : XKind} {ld i : Nat} {v : BitVec 64} {addr : Nat} {pin : Bool} (h_d : MemOk d) :
    MemOk (Dev.xcFill d k ld i v addr pin) := by
  unfold Dev.xcFill
  try dsimp only
  repeat' first
    | with_reducible assumption
    | simp only [mk_iff, line_iff, lineMk_iff, wf_iff]
theorem memOk_xcBeside {d : Dev} {k : XKind} {ld i : Nat} {v : BitVec 64} {addr : Nat} (h_d : MemOk d) :
    MemOk (Dev.xcBeside d k ld i v addr) := by
  unfold Dev.xcBeside
  try dsimp only
  repeat' first
    | with_reducible assumption
    | with_reducible apply memOk_xcFill
    | split
theorem memOk_kcWriteRecs {d : Dev} {s : KSlot} (h_d : MemOk d) :
    MemOk (Dev.kcWriteRecs d s) := by
  unfold Dev.kcWriteRecs
  try dsimp only
  repeat' first
    | with_reducible assumption
    | with_reducible apply memOk_writeTable
    | with_reducible apply each_ok
    | intro _
    | split
theorem memOk_kcPut {d : Dev} {s : KSlot} (h_d : MemOk d) :
    MemOk (Dev.kcPut d s) := by
  unfold Dev.kcPut
  try dsimp only
  repeat' first
    | with_reducible assumption
    | simp only [mk_iff, line_iff, lineMk_iff, wf_iff]
    | with_reducible apply memOk_kcWriteRecs
    | with_reducible apply each_ok
theorem memOk_walk1 {d : Dev} {ld ext : Nat} {errs : List Burst} {r : Reader} (h_d : MemOk d) :
    MemOk (Dev.walk1 d ld ext errs r).2 := by
  unfold Dev.walk1
  try dsimp only
  repeat' first
    | with_reducible assumption
    | simp only [mk_iff, line_iff, lineMk_iff, wf_iff]
    | with_reducible apply memOk_readTable
    | with_reducible (apply memOk_xcLook (hr := by assumption))
    | with_reducible apply memOk_xcFill
    | with_reducible apply memOk_xcBeside
    | with_reducible apply each_ok
    | intro _
    | split
theorem memOk_walk1_eq {d : Dev} {ld ext : Nat} {errs : List Burst} {r : Reader} (h_d : MemOk d) {q0 : Except WFault (BitVec 64)} {q1 : Dev} (hr : (Dev.walk1 d ld ext errs r) = (q0, q1)) :
    MemOk q1 := by
  have h : MemOk (Dev.walk1 d ld ext errs r).2 := memOk_walk1 h_d
  rw [hr] at h
  exact h
theorem memOk_resolveKnot {d : Dev} {s : BitVec 64} {k : BitVec 36} {addr : Nat} {err : Burst} {r : Reader} (h_d : MemOk d) :
    MemOk (Dev.resolveKnot d s k addr err r).2 := by
  unfold Dev.resolveKnot
  try dsimp only
  repeat' first
    | with_reducible assumption
    | simp only [mk_iff, line_iff, lineMk_iff, wf_iff]
    | with_reducible apply memOk_readTable
    | split
theorem memOk_resolveKnot_eq {d : Dev} {s : BitVec 64} {k : BitVec 36} {addr : Nat} {err : Burst} {r : Reader} (h_d : MemOk d) {q0 : Except WFault Found2} {q1 : Dev} (hr : (Dev.resolveKnot d s k addr err r) = (q0, q1)) :
    MemOk q1 := by
  have h : MemOk (Dev.resolveKnot d s k addr err r).2 := memOk_resolveKnot h_d
  rw [hr] at h
  exact h
theorem memOk_kcFillLines {d : Dev} {block : Nat} {y0 : List Nat} {y1 : List Burst} {y2 : Reader} (h_d : MemOk d) :
    MemOk (Dev.kcFillLines d block y0 y1 y2).2 := by
  induction y0 generalizing d y1 y2 with
  | nil =>
    unfold Dev.kcFillLines
    repeat' first
      | with_reducible assumption
  | cons a t ih =>
    unfold Dev.kcFillLines
    try dsimp only
    repeat' first
      | with_reducible assumption
      | simp only [mk_iff, line_iff, lineMk_iff, wf_iff]
      | with_reducible apply ih
      | with_reducible apply memOk_readTable
      | with_reducible apply memOk_kcPut
      | split
theorem memOk_kcFillLines_eq {d : Dev} {block : Nat} {y0 : List Nat} {y1 : List Burst} {y2 : Reader} (h_d : MemOk d) {q0 : Option Nat} {q1 : Dev} (hr : (Dev.kcFillLines d block y0 y1 y2) = (q0, q1)) :
    MemOk q1 := by
  have h : MemOk (Dev.kcFillLines d block y0 y1 y2).2 := memOk_kcFillLines h_d
  rw [hr] at h
  exact h
theorem memOk_walkS2 {d : Dev} {page : Nat} {errs : List Burst} {r : Reader} (h_d : MemOk d) :
    MemOk (Dev.walkS2 d page errs r).2.2 := by
  unfold Dev.walkS2
  try dsimp only
  repeat' first
    | with_reducible assumption
    | simp only [mk_iff, line_iff, lineMk_iff, wf_iff]
    | with_reducible apply memOk_readTable
    | with_reducible (apply memOk_xcLook (hr := by assumption))
    | with_reducible apply memOk_xcFill
    | with_reducible apply memOk_xcBeside
    | with_reducible apply each_ok
    | intro _
    | split
theorem memOk_walkS2_eq {d : Dev} {page : Nat} {errs : List Burst} {r : Reader} (h_d : MemOk d) {q0 : Except WFault (BitVec 64)} {q1 : List Burst} {q2 : Dev} (hr : (Dev.walkS2 d page errs r) = (q0, q1, q2)) :
    MemOk q2 := by
  have h : MemOk (Dev.walkS2 d page errs r).2.2 := memOk_walkS2 h_d
  rw [hr] at h
  exact h
theorem memOk_kcForget {d : Dev} {block i : Nat} (h_d : MemOk d) :
    MemOk (Dev.kcForget d block i) := by
  unfold Dev.kcForget
  try dsimp only
  repeat' first
    | with_reducible assumption
    | simp only [mk_iff, line_iff, lineMk_iff, wf_iff]
theorem memOk_walk2 {d : Dev} {page : Nat} {errs : List Burst} {r : Reader} (h_d : MemOk d) :
    MemOk (Dev.walk2 d page errs r).2 := by
  unfold Dev.walk2
  try dsimp only
  repeat' first
    | with_reducible assumption
    | simp only [mk_iff, line_iff, lineMk_iff, wf_iff]
    | with_reducible apply memOk_resolveKnot
    | with_reducible (apply memOk_resolveKnot_eq (hr := by assumption))
    | with_reducible (apply memOk_kcFillLines_eq (hr := by assumption))
    | with_reducible (apply memOk_walkS2_eq (hr := by assumption))
    | with_reducible apply memOk_kcForget
    | split
theorem memOk_walk2_eq {d : Dev} {page : Nat} {errs : List Burst} {r : Reader} (h_d : MemOk d) {q0 : Except WFault Found2} {q1 : Dev} (hr : (Dev.walk2 d page errs r) = (q0, q1)) :
    MemOk q1 := by
  have h : MemOk (Dev.walk2 d page errs r).2 := memOk_walk2 h_d
  rw [hr] at h
  exact h
theorem memOk_look1 {d : Dev} {buf ld ext : Nat} {r0 : BitVec 64} {r1 : Dev} (h_d : MemOk d) (hr : (Dev.look1 d buf ld ext) = some (r0, r1)) :
    MemOk r1 := by
  unfold Dev.look1 at hr
  try dsimp only at hr
  repeat' first
    | (simp only [Option.some.injEq, Prod.mk.injEq, Option.map_eq_some_iff, Option.bind_eq_some_iff, Except.ok.injEq, reduceCtorEq] at hr)
    | (subst hr)
    | (obtain ⟨rfl, rfl⟩ := hr)
    | (split at hr)
    | with_reducible assumption
    | with_reducible (apply memOk_flbLook (hr := by assumption))
    | with_reducible apply memOk_flbFill
    | with_reducible (apply memOk_xcLook (hr := by assumption))
theorem memOk_look2 {d : Dev} {page : Nat} {r0 : Found2} {r1 : Dev} (h_d : MemOk d) (hr : (Dev.look2 d page) = some (r0, r1)) :
    MemOk r1 := by
  unfold Dev.look2 at hr
  try dsimp only at hr
  repeat' first
    | (simp only [Option.some.injEq, Prod.mk.injEq, Option.map_eq_some_iff, Option.bind_eq_some_iff, Except.ok.injEq, reduceCtorEq] at hr)
    | (obtain ⟨rfl, rfl⟩ := hr)
    | (split at hr)
    | with_reducible assumption
    | with_reducible (apply memOk_xcLook (hr := by assumption))
    | with_reducible apply memOk_kcPut
theorem memOk_setKnot {d : Dev} {block i : Nat} {k : BitVec 36} (h_d : MemOk d) :
    MemOk (Dev.setKnot d block i k) := by
  unfold Dev.setKnot
  try dsimp only
  repeat' first
    | with_reducible assumption
    | with_reducible apply memOk_writeTable
    | with_reducible apply memOk_kcPut
    | with_reducible apply each_ok
    | intro _
    | split
theorem memOk_casKnot {d : Dev} {block i : Nat} {expected new : BitVec 36} (h_d : MemOk d) :
    MemOk (Dev.casKnot d block i expected new).2 := by
  unfold Dev.casKnot
  try dsimp only
  repeat' first
    | with_reducible assumption
    | simp only [mk_iff, line_iff, lineMk_iff, wf_iff]
    | with_reducible apply memOk_setKnot
    | split
theorem memOk_casKnot_eq {d : Dev} {block i : Nat} {expected new : BitVec 36} (h_d : MemOk d) {q0 : Bool} {q1 : Dev} (hr : (Dev.casKnot d block i expected new) = (q0, q1)) :
    MemOk q1 := by
  have h : MemOk (Dev.casKnot d block i expected new).2 := memOk_casKnot h_d
  rw [hr] at h
  exact h
theorem memOk_setTierRec {d : Dev} {block i v : Nat} (h_d : MemOk d) :
    MemOk (Dev.setTierRec d block i v) := by
  unfold Dev.setTierRec
  try dsimp only
  repeat' first
    | with_reducible assumption
    | simp only [mk_iff, line_iff, lineMk_iff, wf_iff]
    | with_reducible apply memOk_writeBits
    | split
theorem memOk_heat {d : Dev} {block i : Nat} {write : Bool} (h_d : MemOk d) :
    MemOk (Dev.heat d block i write) := by
  unfold Dev.heat
  try dsimp only
  repeat' first
    | with_reducible assumption
    | with_reducible apply memOk_setTierRec
    | split
theorem memOk_setTport {d : Dev} {p : Nat} {x : TPort} (h_d : MemOk d) :
    MemOk (Dev.setTport d p x) := by
  unfold Dev.setTport
  try dsimp only
  repeat' first
    | with_reducible assumption
    | simp only [mk_iff, line_iff, lineMk_iff, wf_iff]
theorem memOk_modTport {d : Dev} {p : Nat} {f : TPort → TPort} (h_d : MemOk d) :
    MemOk (Dev.modTport d p f) := by
  unfold Dev.modTport
  try dsimp only
  repeat' first
    | with_reducible assumption
    | with_reducible apply memOk_setTport
theorem memOk_sendIdle {d : Dev} {p : Nat} {nak : Bool} (h_d : MemOk d) :
    MemOk (Dev.sendIdle d p nak) := by
  unfold Dev.sendIdle
  try dsimp only
  repeat' first
    | with_reducible assumption
    | with_reducible apply memOk_say
    | with_reducible apply memOk_bump
    | with_reducible apply memOk_setTport
theorem memOk_sendFlit {d : Dev} {p : Nat} {m : Msg} (h_d : MemOk d) :
    MemOk (Dev.sendFlit d p m) := by
  unfold Dev.sendFlit
  try dsimp only
  repeat' first
    | with_reducible assumption
    | with_reducible apply memOk_say
    | with_reducible apply memOk_bump
    | with_reducible apply memOk_setTport
theorem memOk_launch {d : Dev} {p : Nat} {m : Msg} {from_ : Option Nat} (h_d : MemOk d) :
    MemOk (Dev.launch d p m from_) := by
  unfold Dev.launch
  try dsimp only
  repeat' first
    | with_reducible assumption
    | with_reducible apply memOk_modTport
    | with_reducible apply memOk_sendFlit
    | split
theorem memOk_pumpList {d : Dev} {p : Nat} {y0 : List (Msg × Option Nat)} {y1 : List (Bool × Nat)} {y2 : List (Msg × Option Nat)} (h_d : MemOk d) :
    MemOk (Dev.pumpList d p y0 y1 y2) := by
  induction y0 generalizing d y1 y2 with
  | nil =>
    unfold Dev.pumpList
    repeat' first
      | with_reducible assumption
      | with_reducible apply memOk_modTport
  | cons a t ih =>
    unfold Dev.pumpList
    try dsimp only
    repeat' first
      | with_reducible assumption
      | with_reducible apply ih
      | with_reducible apply memOk_launch
      | split
theorem memOk_pump {d : Dev} {p : Nat} (h_d : MemOk d) :
    MemOk (Dev.pump d p) := by
  unfold Dev.pump
  try dsimp only
  repeat' first
    | with_reducible assumption
    | with_reducible apply memOk_pumpList
theorem memOk_sendMsg {d : Dev} {p : Nat} {m : Msg} {from_ : Option Nat} (h_d : MemOk d) :
    MemOk (Dev.sendMsg d p m from_) := by
  unfold Dev.sendMsg
  try dsimp only
  repeat' first
    | with_reducible assumption
    | with_reducible apply memOk_modTport
    | with_reducible apply memOk_pump
theorem memOk_noRoute {d : Dev} {addr origin : Nat} (h_d : MemOk d) :
    MemOk (Dev.noRoute d addr origin) := by
  unfold Dev.noRoute
  try dsimp only
  repeat' first
    | with_reducible assumption
    | with_reducible apply memOk_bump
    | with_reducible apply memOk_raiseAt
theorem memOk_setReq {d : Dev} {q : Req} (h_d : MemOk d) :
    MemOk (Dev.setReq d q) := by
  unfold Dev.setReq
  try dsimp only
  repeat' first
    | with_reducible assumption
    | simp only [mk_iff, line_iff, lineMk_iff, wf_iff]
theorem memOk_stageReq {d : Dev} {q : Req} {st : Stage} (h_d : MemOk d) :
    MemOk (Dev.stageReq d q st) := by
  unfold Dev.stageReq
  try dsimp only
  repeat' first
    | with_reducible assumption
    | with_reducible apply memOk_setReq
theorem memOk_modElastic {d : Dev} {key : Nat} {f : Elastic → Elastic} (h_d : MemOk d) :
    MemOk (Dev.modElastic d key f) := by
  unfold Dev.modElastic
  try dsimp only
  repeat' first
    | with_reducible assumption
    | simp only [mk_iff, line_iff, lineMk_iff, wf_iff]
theorem memOk_countResp {d : Dev} {o : Owed} {r : Resp} (h_d : MemOk d) :
    MemOk (Dev.countResp d o r) := by
  unfold Dev.countResp
  try dsimp only
  repeat' first
    | with_reducible assumption
    | with_reducible apply memOk_bumpLd
    | split
theorem memOk_flushEgress {y0 : Nat} {y1 : Dev} {y2 : Nat} (h_y1 : MemOk y1) :
    MemOk (Dev.flushEgress y0 y1 y2) := by
  induction y0 generalizing y1 y2 with
  | zero =>
    unfold Dev.flushEgress
    repeat' first
      | with_reducible assumption
  | succ k ih =>
    unfold Dev.flushEgress
    try dsimp only
    repeat' first
      | with_reducible assumption
      | with_reducible apply ih
      | with_reducible apply memOk_setLink
      | with_reducible apply memOk_say
      | with_reducible apply memOk_countResp
      | split
theorem memOk_flushSnoops {y0 : Nat} {y1 : Dev} {y2 : Nat} (h_y1 : MemOk y1) :
    MemOk (Dev.flushSnoops y0 y1 y2) := by
  induction y0 generalizing y1 y2 with
  | zero =>
    unfold Dev.flushSnoops
    repeat' first
      | with_reducible assumption
  | succ k ih =>
    unfold Dev.flushSnoops
    try dsimp only
    repeat' first
      | with_reducible assumption
      | with_reducible apply ih
      | with_reducible apply memOk_setLink
      | with_reducible apply memOk_say
      | split
theorem memOk_flush {d : Dev} {l : Nat} (h_d : MemOk d) :
    MemOk (Dev.flush d l) := by
  unfold Dev.flush
  try dsimp only
  repeat' first
    | with_reducible assumption
    | with_reducible apply memOk_flushEgress
    | with_reducible apply memOk_flushSnoops
theorem memOk_owe {d : Dev} {l : Nat} {o : Owed} (h_d : MemOk d) :
    MemOk (Dev.owe d l o) := by
  unfold Dev.owe
  try dsimp only
  repeat' first
    | with_reducible assumption
    | with_reducible apply memOk_modLink
    | with_reducible apply memOk_flush
    | split
theorem memOk_answerAtIngress {d : Dev} {l : Nat} {ld : Option Nat} {tag : BitVec 16} {read : Bool} (h_d : MemOk d) :
    MemOk (Dev.answerAtIngress d l ld tag read) := by
  unfold Dev.answerAtIngress
  try dsimp only
  repeat' first
    | with_reducible assumption
    | with_reducible apply memOk_owe
theorem memOk_passed {d : Dev} {id : Nat} (h_d : MemOk d) :
    MemOk (Dev.passed d id) := by
  unfold Dev.passed
  try dsimp only
  repeat' first
    | with_reducible assumption
    | simp only [mk_iff, line_iff, lineMk_iff, wf_iff]
theorem memOk_useChannel {d : Dev} {label : Label} {ch : Nat} (h_d : MemOk d) :
    MemOk (Dev.useChannel d label ch) := by
  unfold Dev.useChannel
  try dsimp only
  repeat' first
    | with_reducible assumption
    | simp only [mk_iff, line_iff, lineMk_iff, wf_iff]
    | split
theorem memOk_completeC1 {d : Dev} {q : Req} (h_d : MemOk d) :
    MemOk (Dev.completeC1 d q) := by
  unfold Dev.completeC1
  try dsimp only
  repeat' first
    | with_reducible assumption
    | simp only [mk_iff, line_iff, lineMk_iff, wf_iff]
    | split
theorem memOk_answer {d : Dev} {q : Req} {a : Answer} {failed : Bool} (h_d : MemOk d) :
    MemOk (Dev.answer d q a failed) := by
  unfold Dev.answer
  try dsimp only
  repeat' first
    | with_reducible assumption
    | simp only [mk_iff, line_iff, lineMk_iff, wf_iff]
    | with_reducible apply memOk_doorbell
    | with_reducible apply memOk_sendMsg
    | with_reducible apply memOk_owe
    | with_reducible apply memOk_passed
    | with_reducible apply memOk_completeC1
    | split
theorem memOk_fail {d : Dev} {q : Req} (h_d : MemOk d) :
    MemOk (Dev.fail d q) := by
  unfold Dev.fail
  try dsimp only
  repeat' first
    | with_reducible assumption
    | with_reducible apply memOk_answer
theorem memOk_takeFrame {d : Dev} {n : Nat} (h_d : MemOk d) :
    MemOk (Dev.takeFrame d n) := by
  unfold Dev.takeFrame
  try dsimp only
  repeat' first
    | with_reducible assumption
    | simp only [mk_iff, line_iff, lineMk_iff, wf_iff]
theorem memOk_takeSlots {d : Dev} {k s : Nat} (h_d : MemOk d) :
    MemOk (Dev.takeSlots d k s) := by
  unfold Dev.takeSlots
  try dsimp only
  repeat' first
    | with_reducible assumption
    | simp only [mk_iff, line_iff, lineMk_iff, wf_iff]
theorem memOk_dropWrites {d : Dev} {p : Wb → Bool} (h_d : MemOk d) :
    MemOk (Dev.dropWrites d p) := by
  unfold Dev.dropWrites
  try dsimp only
  repeat' first
    | with_reducible assumption
    | simp only [mk_iff, line_iff, lineMk_iff, wf_iff]
theorem memOk_dropPage {d : Dev} {page : Nat} (h_d : MemOk d) :
    MemOk (Dev.dropPage d page) := by
  unfold Dev.dropPage
  try dsimp only
  repeat' first
    | with_reducible assumption
    | with_reducible apply memOk_dropWrites
theorem memOk_takeBig {d : Dev} {n : Nat} {reflected : Bool} (h_d : MemOk d) :
    MemOk (Dev.takeBig d n reflected) := by
  unfold Dev.takeBig
  try dsimp only
  repeat' first
    | with_reducible assumption
    | simp only [mk_iff, line_iff, lineMk_iff, wf_iff]
theorem memOk_freeBigFrame {d : Dev} {n : Nat} {reflected : Bool} (h_d : MemOk d) :
    MemOk (Dev.freeBigFrame d n reflected) := by
  unfold Dev.freeBigFrame
  try dsimp only
  repeat' first
    | with_reducible assumption
    | simp only [mk_iff, line_iff, lineMk_iff, wf_iff]
    | with_reducible apply memOk_dropWrites
theorem memOk_freeKnot {d : Dev} {k : BitVec 36} (h_d : MemOk d) :
    MemOk (Dev.freeKnot d k) := by
  unfold Dev.freeKnot
  try dsimp only
  repeat' first
    | with_reducible assumption
    | simp only [mk_iff, line_iff, lineMk_iff, wf_iff]
    | split
theorem memOk_use {d : Dev} {key : Nat} {n : Nat} (h_d : MemOk d) :
    MemOk (Dev.use d key n) := by
  unfold Dev.use
  try dsimp only
  repeat' first
    | with_reducible assumption
    | with_reducible apply memOk_modElastic
theorem memOk_credit {d : Dev} {key : Nat} {n : Nat} (h_d : MemOk d) :
    MemOk (Dev.credit d key n) := by
  unfold Dev.credit
  try dsimp only
  repeat' first
    | with_reducible assumption
    | with_reducible apply memOk_modElastic
theorem memOk_takeKnot {d : Dev} {k : BitVec 36} (h_d : MemOk d) :
    MemOk (Dev.takeKnot d k) := by
  unfold Dev.takeKnot
  try dsimp only
  repeat' first
    | with_reducible assumption
    | with_reducible apply memOk_takeFrame
    | with_reducible apply memOk_takeSlots
    | split
theorem memOk_allocPage {d : Dev} {page n : Nat} {r0 : BitVec 36} {r1 : Dev} (h_d : MemOk d) (hr : (Dev.allocPage d page n) = .ok (r0, r1)) :
    MemOk r1 := by
  unfold Dev.allocPage at hr
  try dsimp only at hr
  generalize Bool.not _ = c at hr
  cases c with
  | true => simp at hr
  | false =>
    simp only [Bool.false_eq_true, if_false] at hr
    rcases elim_eq hr with ⟨_, h⟩ | ⟨a, _, h⟩
    · simp at h
    · simp only [Except.ok.injEq, Prod.mk.injEq] at h
      obtain ⟨_, rfl⟩ := h
      apply memOk_takeKnot
      cases d.pageRegion page with
      | none => exact h_d
      | some r => exact memOk_use h_d
theorem memOk_capacityRecord {d : Dev} {key lines : Nat} (h_d : MemOk d) :
    MemOk (Dev.capacityRecord d key lines) := by
  unfold Dev.capacityRecord
  try dsimp only
  repeat' first
    | with_reducible assumption
    | with_reducible apply memOk_record
    | with_reducible apply memOk_modElastic
theorem memOk_unplaced {d : Dev} {page idx : Nat} {why : NoSpace} {label : Label} {who : BitVec 8} (h_d : MemOk d) :
    MemOk (Dev.unplaced d page idx why label who) := by
  unfold Dev.unplaced
  try dsimp only
  repeat' first
    | with_reducible assumption
    | with_reducible apply memOk_bump
    | with_reducible apply memOk_faultEvent
    | with_reducible apply memOk_markLost
    | with_reducible apply memOk_modElastic
    | with_reducible apply memOk_capacityRecord
    | split
theorem memOk_capacityInterval {d : Dev} {ld entry : Nat} (h_d : MemOk d) :
    MemOk (Dev.capacityInterval d ld entry) := by
  unfold Dev.capacityInterval
  try dsimp only
  repeat' first
    | with_reducible assumption
    | with_reducible apply memOk_capacityRecord
    | split
theorem memOk_unstage {d : Dev} {k : BitVec 36} (h_d : MemOk d) :
    MemOk (Dev.unstage d k) := by
  unfold Dev.unstage
  try dsimp only
  repeat' first
    | with_reducible assumption
    | simp only [mk_iff, line_iff, lineMk_iff, wf_iff]
    | split
theorem memOk_changeKnot {d : Dev} {block page : Nat} {old new : BitVec 36} (h_d : MemOk d) :
    MemOk (Dev.changeKnot d block page old new) := by
  unfold Dev.changeKnot
  try dsimp only
  repeat' first
    | with_reducible assumption
    | with_reducible apply memOk_setKnot
    | with_reducible apply memOk_unstage
theorem memOk_resetPage {d : Dev} {a : Attr} {page : Nat} (h_d : MemOk d) :
    MemOk (Dev.resetPage d a page) := by
  unfold Dev.resetPage
  try dsimp only
  repeat' first
    | with_reducible assumption
    | with_reducible apply memOk_clearLost
    | with_reducible apply memOk_resetHeader
    | with_reducible apply memOk_setTierRec
    | with_reducible apply memOk_dropPage
    | with_reducible apply memOk_freeKnot
    | with_reducible apply memOk_credit
    | with_reducible apply memOk_changeKnot
    | split
theorem memOk_stickPage {d : Dev} {page : Nat} (h_d : MemOk d) :
    MemOk (Dev.stickPage d page) := by
  unfold Dev.stickPage
  try dsimp only
  repeat' first
    | with_reducible assumption
    | simp only [mk_iff, line_iff, lineMk_iff, wf_iff]
    | with_reducible apply memOk_markLost
    | split
theorem memOk_addAcc {d : Dev} {a : Acc} (h_d : MemOk d) :
    MemOk (Dev.addAcc d a) := by
  unfold Dev.addAcc
  try dsimp only
  repeat' first
    | with_reducible assumption
    | simp only [mk_iff, line_iff, lineMk_iff, wf_iff]
    | with_reducible apply memOk_useChannel
theorem memOk_dropAcc {d : Dev} {id : Nat} (h_d : MemOk d) :
    MemOk (Dev.dropAcc d id) := by
  unfold Dev.dropAcc
  try dsimp only
  repeat' first
    | with_reducible assumption
    | simp only [mk_iff, line_iff, lineMk_iff, wf_iff]
theorem memOk_wantHeader {d : Dev} {a : Attr} {page : Nat} (h_d : MemOk d) :
    MemOk (Dev.wantHeader d a page).2 := by
  unfold Dev.wantHeader
  try dsimp only
  repeat' first
    | with_reducible assumption
    | simp only [mk_iff, line_iff, lineMk_iff, wf_iff]
    | with_reducible apply memOk_fresh
    | split
theorem memOk_wantHeader_eq {d : Dev} {a : Attr} {page : Nat} (h_d : MemOk d) {q0 : Nat} {q1 : Dev} (hr : (Dev.wantHeader d a page) = (q0, q1)) :
    MemOk q1 := by
  have h : MemOk (Dev.wantHeader d a page).2 := memOk_wantHeader h_d
  rw [hr] at h
  exact h
theorem memOk_countLd {d : Dev} {q : Req} {e : Nat} (h_d : MemOk d) :
    MemOk (Dev.countLd d q e) := by
  unfold Dev.countLd
  try dsimp only
  repeat' first
    | with_reducible assumption
    | with_reducible apply memOk_bumpLd
theorem memOk_stagedHit {d : Dev} {first sub : Nat} {r0 : List Byte} {r1 : Dev} (h_d : MemOk d) (hr : (Dev.stagedHit d first sub) = some (r0, r1)) :
    MemOk r1 := by
  unfold Dev.stagedHit at hr
  try dsimp only at hr
  repeat' first
    | (simp only [Option.some.injEq, Prod.mk.injEq, Option.map_eq_some_iff, Option.bind_eq_some_iff, Except.ok.injEq, reduceCtorEq] at hr)
    | (obtain ⟨rfl, rfl⟩ := hr)
    | (obtain ⟨_, _, hr⟩ := hr)
    | with_reducible assumption
    | simp only [mk_iff, line_iff, lineMk_iff, wf_iff]
theorem memOk_readShade {d : Dev} {q : Req} {cls first : Nat} (h_d : MemOk d) :
    MemOk (Dev.readShade d q cls first) := by
  unfold Dev.readShade
  try dsimp only
  repeat' first
    | with_reducible assumption
    | simp only [mk_iff, line_iff, lineMk_iff, wf_iff]
    | with_reducible apply memOk_bump
    | with_reducible apply memOk_fresh
    | with_reducible apply memOk_stageReq
    | with_reducible apply memOk_answer
    | with_reducible apply memOk_countLd
    | with_reducible (apply memOk_stagedHit (hr := by assumption))
    | split
theorem memOk_readDram {d : Dev} {q : Req} {n : Nat} (h_d : MemOk d) :
    MemOk (Dev.readDram d q n) := by
  unfold Dev.readDram
  try dsimp only
  repeat' first
    | with_reducible assumption
    | with_reducible apply memOk_fresh
    | with_reducible apply memOk_setReq
    | with_reducible apply memOk_stageReq
    | with_reducible apply memOk_answer
    | with_reducible apply memOk_addAcc
    | split
theorem memOk_readZeros {d : Dev} {q : Req} {n : Nat} (h_d : MemOk d) :
    MemOk (Dev.readZeros d q n) := by
  unfold Dev.readZeros
  try dsimp only
  repeat' first
    | with_reducible assumption
    | with_reducible apply memOk_answer
    | with_reducible apply memOk_countLd
theorem memOk_stationRead {d : Dev} {q : Req} (h_d : MemOk d) :
    MemOk (Dev.stationRead d q) := by
  unfold Dev.stationRead
  try dsimp only
  repeat' first
    | with_reducible assumption
    | with_reducible apply memOk_stageReq
    | with_reducible apply memOk_answer
    | with_reducible apply memOk_wantHeader
    | with_reducible apply memOk_countLd
    | with_reducible apply memOk_readShade
    | with_reducible apply memOk_readDram
    | with_reducible apply memOk_readZeros
    | split
theorem memOk_carry {d : Dev} {q : Req} {n : Nat} (h_d : MemOk d) :
    MemOk (Dev.carry d q n) := by
  unfold Dev.carry
  try dsimp only
  repeat' first
    | with_reducible assumption
    | with_reducible apply memOk_setWb
    | split
theorem memOk_remoteWrite {d : Dev} {label : Label} {dev line : Nat} {data : Line} {mask : BitVec 64} {poison : Bool} (h_d : MemOk d) :
    MemOk (Dev.remoteWrite d label dev line data mask poison) := by
  unfold Dev.remoteWrite
  try dsimp only
  repeat' first
    | with_reducible assumption
    | simp only [mk_iff, line_iff, lineMk_iff, wf_iff]
    | with_reducible apply memOk_sendMsg
    | split
theorem memOk_placeWrite {d : Dev} {q : Req} {n : Nat} (h_d : MemOk d) :
    MemOk (Dev.placeWrite d q n) := by
  unfold Dev.placeWrite
  try dsimp only
  repeat' first
    | with_reducible assumption
    | with_reducible apply memOk_fresh
    | with_reducible apply memOk_acceptWb
    | with_reducible apply memOk_carry
    | with_reducible apply memOk_remoteWrite
    | split
theorem memOk_stationWrite {d : Dev} {q : Req} (h_d : MemOk d) :
    MemOk (Dev.stationWrite d q) := by
  unfold Dev.stationWrite
  try dsimp only
  repeat' first
    | with_reducible assumption
    | with_reducible apply memOk_clearLost
    | with_reducible apply memOk_stageReq
    | with_reducible apply memOk_answer
    | with_reducible apply memOk_fail
    | with_reducible apply memOk_countLd
    | with_reducible apply memOk_placeWrite
    | split
theorem memOk_station {d : Dev} {q : Req} (h_d : MemOk d) :
    MemOk (Dev.station d q) := by
  unfold Dev.station
  try dsimp only
  repeat' first
    | with_reducible assumption
    | with_reducible apply memOk_answer
    | with_reducible apply memOk_stationRead
    | with_reducible apply memOk_stationWrite
    | split
theorem memOk_askWb {d : Dev} {w : Wb} {kind : AKind} {n : Nat} {a : Attr} {copy : Nat} {src : Bool} (h_d : MemOk d) :
    MemOk (Dev.askWb d w kind n a copy src) := by
  unfold Dev.askWb
  try dsimp only
  repeat' first
    | with_reducible assumption
    | with_reducible apply memOk_fresh
    | with_reducible apply memOk_addAcc
    | split
theorem memOk_feedWb {d : Dev} {w : Wb} (h_d : MemOk d) :
    MemOk (Dev.feedWb d w) := by
  unfold Dev.feedWb
  try dsimp only
  repeat' first
    | with_reducible assumption
    | with_reducible apply memOk_setWb
    | with_reducible apply memOk_wantHeader
    | with_reducible apply memOk_askWb
    | with_reducible apply each_ok
    | intro _
    | split
theorem memOk_feed {d : Dev} (h_d : MemOk d) :
    MemOk (Dev.feed d) := by
  unfold Dev.feed
  try dsimp only
  repeat' first
    | with_reducible assumption
    | with_reducible apply memOk_feedWb
    | with_reducible apply each_ok
theorem memOk_poisonIn {d : Dev} {slot : Nat} (h_d : MemOk d) :
    MemOk (Dev.poisonIn d slot) := by
  unfold Dev.poisonIn
  try dsimp only
  repeat' first
    | with_reducible assumption
    | simp only [mk_iff, line_iff, lineMk_iff, wf_iff]
theorem memOk_poisonMoved {d : Dev} {reg : Nat} (h_d : MemOk d) :
    MemOk (Dev.poisonMoved d reg) := by
  unfold Dev.poisonMoved
  try dsimp only
  repeat' first
    | with_reducible assumption
    | with_reducible apply memOk_poisonIn
    | split
theorem memOk_poisonCopied {d : Dev} {m : Nat} (h_d : MemOk d) :
    MemOk (Dev.poisonCopied d m) := by
  unfold Dev.poisonCopied
  try dsimp only
  repeat' first
    | with_reducible assumption
    | with_reducible apply memOk_poisonIn
    | with_reducible apply memOk_poisonMoved
    | split
theorem memOk_countMinor {d : Dev} {w : Wb} (h_d : MemOk d) :
    MemOk (Dev.countMinor d w) := by
  unfold Dev.countMinor
  try dsimp only
  repeat' first
    | with_reducible assumption
    | with_reducible apply memOk_setWb
    | with_reducible apply memOk_placeMinor
    | split
theorem memOk_countCarried {d : Dev} {w : Wb} {a : Attr} {dest : Nat} (h_d : MemOk d) :
    MemOk (Dev.countCarried d w a dest) := by
  unfold Dev.countCarried
  try dsimp only
  repeat' first
    | with_reducible assumption
    | with_reducible apply memOk_fresh
    | with_reducible apply memOk_setWb
    | with_reducible apply memOk_addWb
    | with_reducible apply memOk_placeMinor
    | with_reducible apply each_ok
    | intro _
    | split

end Sys2Proof.Laws
end

