-- ==== Sys2Proof/Laws/MemOk2.lean ====
section
/-! SUPPORT. Every operation of the model keeps the media contents in their canonical form: one lemma an operation, and one a command's meaning (part 2 of 8). -/

set_option linter.unusedSimpArgs false
set_option linter.unusedVariables false

namespace Sys2Proof.Laws

open Sys2Proof Sys2Proof.Machine

theorem memOk_entryFails {d : Dev} {w : Wb} (h_d : MemOk d) :
    MemOk (Dev.entryFails d w).2 := by
  unfold Dev.entryFails
  try dsimp only
  repeat' first
    | with_reducible assumption
    | simp only [mk_iff, line_iff, lineMk_iff, wf_iff]
    | with_reducible apply memOk_fetchHeader
    | split
theorem memOk_entryFails_eq {d : Dev} {w : Wb} (h_d : MemOk d) {q0 : Bool} {q1 : Dev} (hr : (Dev.entryFails d w) = (q0, q1)) :
    MemOk q1 := by
  have h : MemOk (Dev.entryFails d w).2 := memOk_entryFails h_d
  rw [hr] at h
  exact h
theorem memOk_issueWrite {d : Dev} {w : Wb} {copy : Nat} (h_d : MemOk d) :
    MemOk (Dev.issueWrite d w copy) := by
  unfold Dev.issueWrite
  try dsimp only
  repeat' first
    | with_reducible assumption
    | with_reducible apply memOk_setBurst
    | with_reducible apply memOk_setWb
    | with_reducible apply memOk_dropWb
    | with_reducible apply memOk_remoteWrite
    | with_reducible apply memOk_poisonMoved
    | with_reducible apply memOk_poisonCopied
    | with_reducible apply memOk_countMinor
    | with_reducible apply memOk_countCarried
    | with_reducible apply memOk_entryFails
    | split
theorem memOk_wantContent {d : Dev} {n : Nat} (h_d : MemOk d) :
    MemOk (Dev.wantContent d n) := by
  have key (l i : Nat) : MemOk ((d.fetchTree l i []).2.ctEvict) := memOk_ctEvict (memOk_fetchTree h_d)
  have key2 (c : Content) : MemOk ((d.fetchHeader c.attr c.page []).2) := memOk_fetchHeader h_d
  unfold Dev.wantContent
  generalize d.contentAt n = o
  generalize d.nodeOfLine n = p
  cases o with
  | some c =>
    by_cases h : (c.attr.knotted && c.attr.prot = .sealed) = true
    · simp only [h, if_true]
      exact key2 c
    · simp only [h]
      exact h_d
  | none =>
    cases p with
    | none => exact h_d
    | some e =>
      obtain ⟨lvl, idx⟩ := e
      dsimp only
      generalize hk : (d.fetchTree (lvl + 1) (idx / 8) []).2.ctEvict = k
      have hk' : MemOk k := hk ▸ key _ _
      split
      · exact hk'
      · exact h_d
theorem memOk_rewrite {d : Dev} {b : Bind} {n : Nat} {a : Attr} {page copy : Nat} {j : Judged} {p : Place} (h_d : MemOk d) :
    MemOk (Dev.rewrite d b n a page copy j p) := by
  unfold Dev.rewrite
  try dsimp only
  repeat' first
    | with_reducible assumption
    | with_reducible apply memOk_rewriteAs
theorem memOk_noteLine {d : Dev} {a : Attr} {n page : Nat} {p : Place} {v : Verdict} {label : Label} {who : BitVec 8} {scrub : Bool} (h_d : MemOk d) :
    MemOk (Dev.noteLine d a n page p v label who scrub) := by
  unfold Dev.noteLine
  try dsimp only
  repeat' first
    | with_reducible assumption
    | with_reducible apply memOk_noteVerdict
theorem memOk_mediaRecord {d : Dev} {q : Req} (h_d : MemOk d) :
    MemOk (Dev.mediaRecord d q) := by
  unfold Dev.mediaRecord
  try dsimp only
  repeat' first
    | with_reducible assumption
    | with_reducible apply memOk_record
    | split
theorem memOk_uncorrectable {d : Dev} {p : Place} (h_d : MemOk d) :
    MemOk (Dev.uncorrectable d p) := by
  unfold Dev.uncorrectable
  try dsimp only
  repeat' first
    | with_reducible assumption
    | with_reducible apply memOk_raiseFault
theorem memOk_returnRead {d : Dev} {q : Req} {copy : Nat} {second : Bool} {err : Burst} (h_d : MemOk d) :
    MemOk (Dev.returnRead d q copy second err) := by
  unfold Dev.returnRead
  try dsimp only
  repeat' first
    | with_reducible assumption
    | simp only [mk_iff, line_iff, lineMk_iff, wf_iff]
    | with_reducible apply memOk_fresh
    | with_reducible apply memOk_repair
    | with_reducible apply memOk_fetchHeader
    | with_reducible apply memOk_useChannel
    | with_reducible apply memOk_answer
    | with_reducible apply memOk_rewrite
    | with_reducible apply memOk_noteLine
    | with_reducible apply memOk_mediaRecord
    | split
theorem memOk_returnCopy {d : Dev} {w : Wb} {err : Burst} (h_d : MemOk d) :
    MemOk (Dev.returnCopy d w err) := by
  unfold Dev.returnCopy
  try dsimp only
  repeat' first
    | with_reducible assumption
    | with_reducible apply memOk_setWb
    | with_reducible apply memOk_noteLine
    | with_reducible apply memOk_uncorrectable
    | split
theorem memOk_returnMerge {d : Dev} {w : Wb} {copy : Nat} {err : Burst} (h_d : MemOk d) :
    MemOk (Dev.returnMerge d w copy err) := by
  unfold Dev.returnMerge
  try dsimp only
  repeat' first
    | with_reducible assumption
    | with_reducible apply memOk_setWb
    | with_reducible apply memOk_fetchHeader
    | with_reducible apply memOk_wantContent
    | with_reducible apply memOk_rewrite
    | with_reducible apply memOk_noteLine
    | with_reducible apply memOk_uncorrectable
    | with_reducible apply memOk_returnCopy
    | split
theorem memOk_dropDecode {d : Dev} {id : Nat} (h_d : MemOk d) :
    MemOk (Dev.dropDecode d id) := by
  unfold Dev.dropDecode
  try dsimp only
  repeat' first
    | with_reducible assumption
    | simp only [mk_iff, line_iff, lineMk_iff, wf_iff]
theorem memOk_imageLine {d : Dev} {c : Decode} {i : Nat} {err : Burst} (h_d : MemOk d) :
    MemOk (Dev.imageLine d c i err) := by
  unfold Dev.imageLine
  try dsimp only
  repeat' first
    | with_reducible assumption
    | simp only [mk_iff, line_iff, lineMk_iff, wf_iff]
    | with_reducible apply memOk_fetchHeader
    | with_reducible apply memOk_answer
    | with_reducible apply memOk_rewrite
    | with_reducible apply memOk_noteLine
    | with_reducible apply memOk_mediaRecord
    | with_reducible apply memOk_dropDecode
    | with_reducible apply each_ok
    | intro _
    | split
theorem memOk_returnImage {d : Dev} {id i : Nat} {err : Burst} (h_d : MemOk d) :
    MemOk (Dev.returnImage d id i err) := by
  unfold Dev.returnImage
  try dsimp only
  repeat' first
    | with_reducible assumption
    | with_reducible apply memOk_imageLine
    | split
theorem memOk_feedImage {d : Dev} {id i : Nat} (h_d : MemOk d) :
    MemOk (Dev.feedImage d id i) := by
  unfold Dev.feedImage
  try dsimp only
  repeat' first
    | with_reducible assumption
    | simp only [mk_iff, line_iff, lineMk_iff, wf_iff]
    | with_reducible apply memOk_fresh
    | with_reducible apply memOk_addAcc
    | with_reducible apply memOk_imageLine
    | split
theorem memOk_feedImages {d : Dev} (h_d : MemOk d) :
    MemOk (Dev.feedImages d) := by
  unfold Dev.feedImages
  try dsimp only
  repeat' first
    | with_reducible assumption
    | with_reducible apply memOk_feedImage
    | with_reducible apply each_ok
    | intro _
theorem memOk_drawDecodes {d : Dev} {k : BitVec 36} (h_d : MemOk d) :
    MemOk (Dev.drawDecodes d k) := by
  unfold Dev.drawDecodes
  try dsimp only
  repeat' first
    | with_reducible assumption
    | simp only [mk_iff, line_iff, lineMk_iff, wf_iff]
    | with_reducible apply memOk_returnImage
    | with_reducible apply each_ok
    | intro _
    | split
theorem memOk_readLine {d : Dev} {a : Attr} {n page : Nat} {label : Label} (h_d : MemOk d) :
    MemOk (Dev.readLine d a n page label).2 := by
  unfold Dev.readLine
  try dsimp only
  repeat' first
    | with_reducible assumption
    | simp only [mk_iff, line_iff, lineMk_iff, wf_iff]
    | with_reducible apply memOk_fetchHeader
    | with_reducible apply memOk_rewrite
    | with_reducible apply memOk_noteLine
    | with_reducible apply memOk_uncorrectable
    | split
theorem memOk_readLine_eq {d : Dev} {a : Attr} {n page : Nat} {label : Label} (h_d : MemOk d) {q0 : Option Line} {q1 : Dev} (hr : (Dev.readLine d a n page label) = (q0, q1)) :
    MemOk q1 := by
  have h : MemOk (Dev.readLine d a n page label).2 := memOk_readLine h_d
  rw [hr] at h
  exact h
theorem memOk_writeLine {d : Dev} {a : Attr} {n page : Nat} {label : Label} {x : Option Line} (h_d : MemOk d) :
    MemOk (Dev.writeLine d a n page label x) := by
  unfold Dev.writeLine
  try dsimp only
  repeat' first
    | with_reducible assumption
    | with_reducible apply memOk_fresh
    | with_reducible apply memOk_acceptWb
theorem memOk_readImage {d : Dev} {a : Attr} {page : Nat} {k : BitVec 36} {label : Label} (h_d : MemOk d) :
    MemOk (Dev.readImage d a page k label).2 := by
  unfold Dev.readImage
  try dsimp only
  repeat' first
    | with_reducible assumption
    | simp only [mk_iff, line_iff, lineMk_iff, wf_iff]
    | with_reducible apply memOk_rewrite
    | with_reducible apply memOk_noteLine
    | with_reducible apply each_ok2
    | intro _
theorem memOk_readImage_eq {d : Dev} {a : Attr} {page : Nat} {k : BitVec 36} {label : Label} (h_d : MemOk d) {q0 : List (Option Line)} {q1 : Dev} (hr : (Dev.readImage d a page k label) = (q0, q1)) :
    MemOk q1 := by
  have h : MemOk (Dev.readImage d a page k label).2 := memOk_readImage h_d
  rw [hr] at h
  exact h
theorem memOk_setDe {d : Dev} {set way : Nat} {e : BitVec 64} (h_d : MemOk d) :
    MemOk (Dev.setDe d set way e) := by
  unfold Dev.setDe
  try dsimp only
  repeat' first
    | with_reducible assumption
    | simp only [mk_iff, line_iff, lineMk_iff, wf_iff]
theorem memOk_touchDir {d : Dev} {set way : Nat} (h_d : MemOk d) :
    MemOk (Dev.touchDir d set way) := by
  unfold Dev.touchDir
  try dsimp only
  repeat' first
    | with_reducible assumption
    | with_reducible apply memOk_setDe
    | with_reducible apply each_ok
    | intro _
    | split
theorem memOk_remoteDpa {d : Dev} {n dev ld : Nat} (h_d : MemOk d) :
    MemOk (Dev.remoteDpa d n dev ld).2 := by
  unfold Dev.remoteDpa
  try dsimp only
  repeat' first
    | with_reducible assumption
    | with_reducible apply memOk_free
    | split
theorem memOk_remoteDpa_eq {d : Dev} {n dev ld : Nat} (h_d : MemOk d) {q0 : BitVec 38} {q1 : Dev} (hr : (Dev.remoteDpa d n dev ld) = (q0, q1)) :
    MemOk q1 := by
  have h : MemOk (Dev.remoteDpa d n dev ld).2 := memOk_remoteDpa h_d
  rw [hr] at h
  exact h
theorem memOk_sendSnp {d : Dev} {n s k : Nat} {label : Label} (h_d : MemOk d) :
    MemOk (Dev.sendSnp d n s k label).2 := by
  unfold Dev.sendSnp
  try dsimp only
  repeat' first
    | with_reducible assumption
    | simp only [mk_iff, line_iff, lineMk_iff, wf_iff]
    | with_reducible apply memOk_sendMsg
    | with_reducible apply memOk_noRoute
    | with_reducible apply memOk_remoteDpa
    | split
theorem memOk_sendSnp_eq {d : Dev} {n s k : Nat} {label : Label} (h_d : MemOk d) {q0 : Bool} {q1 : Dev} (hr : (Dev.sendSnp d n s k label) = (q0, q1)) :
    MemOk q1 := by
  have h : MemOk (Dev.sendSnp d n s k label).2 := memOk_sendSnp h_d
  rw [hr] at h
  exact h
theorem memOk_snoopSlot {d : Dev} {n s k : Nat} {label : Label} (h_d : MemOk d) :
    MemOk (Dev.snoopSlot d n s k label).2 := by
  unfold Dev.snoopSlot
  try dsimp only
  repeat' first
    | with_reducible assumption
    | simp only [mk_iff, line_iff, lineMk_iff, wf_iff]
    | with_reducible apply memOk_modLink
    | with_reducible apply memOk_bump
    | with_reducible apply memOk_flush
    | with_reducible apply memOk_sendSnp
    | split
theorem memOk_snoopSlot_eq {d : Dev} {n s k : Nat} {label : Label} (h_d : MemOk d) {q0 : Bool} {q1 : Dev} (hr : (Dev.snoopSlot d n s k label) = (q0, q1)) :
    MemOk q1 := by
  have h : MemOk (Dev.snoopSlot d n s k label).2 := memOk_snoopSlot h_d
  rw [hr] at h
  exact h
theorem memOk_sendUnsent {d : Dev} (h_d : MemOk d) :
    MemOk (Dev.sendUnsent d) := by
  unfold Dev.sendUnsent
  try dsimp only
  repeat' first
    | with_reducible assumption
    | simp only [mk_iff, line_iff, lineMk_iff, wf_iff]
    | with_reducible apply memOk_sendSnp
    | with_reducible apply each_ok
    | intro _
    | split
theorem memOk_startFlow {d : Dev} {n set way : Nat} {slots : List Nat} {k : Nat} {what : FlowFor} {label : Label} (h_d : MemOk d) :
    MemOk (Dev.startFlow d n set way slots k what label) := by
  unfold Dev.startFlow
  try dsimp only
  repeat' first
    | with_reducible assumption
    | simp only [mk_iff, line_iff, lineMk_iff, wf_iff]
    | with_reducible apply memOk_setDe
    | with_reducible apply memOk_snoopSlot
    | with_reducible apply each_ok2
    | intro _
theorem memOk_mgmt {d : Dev} {dest subOp : Nat} {body : List Byte} (h_d : MemOk d) :
    MemOk (Dev.mgmt d dest subOp body) := by
  unfold Dev.mgmt
  try dsimp only
  repeat' first
    | with_reducible assumption
    | simp only [mk_iff, line_iff, lineMk_iff, wf_iff]
    | with_reducible apply memOk_sendMsg
    | with_reducible apply memOk_noRoute
    | split
theorem memOk_viralLd {d : Dev} {ld : Nat} (h_d : MemOk d) :
    MemOk (Dev.viralLd d ld) := by
  unfold Dev.viralLd
  try dsimp only
  repeat' first
    | with_reducible assumption
    | with_reducible apply memOk_enterViral
    | split
theorem memOk_directoryError {d : Dev} {set way : Nat} (h_d : MemOk d) :
    MemOk (Dev.directoryError d set way) := by
  unfold Dev.directoryError
  try dsimp only
  repeat' first
    | with_reducible assumption
    | simp only [mk_iff, line_iff, lineMk_iff, wf_iff]
    | with_reducible apply memOk_doorbell
    | with_reducible apply memOk_raise
    | with_reducible apply memOk_faultEvent
    | with_reducible apply memOk_mgmt
    | with_reducible apply memOk_viralLd
    | with_reducible apply each_ok
    | intro _
theorem memOk_queueHome {d : Dev} {q : Req} (h_d : MemOk d) :
    MemOk (Dev.queueHome d q) := by
  unfold Dev.queueHome
  try dsimp only
  repeat' first
    | with_reducible assumption
    | simp only [mk_iff, line_iff, lineMk_iff, wf_iff]
    | with_reducible apply memOk_stageReq
    | split
theorem memOk_leaveHome {d : Dev} {id : Nat} (h_d : MemOk d) :
    MemOk (Dev.leaveHome d id) := by
  unfold Dev.leaveHome
  try dsimp only
  repeat' first
    | with_reducible assumption
    | simp only [mk_iff, line_iff, lineMk_iff, wf_iff]
theorem memOk_grant {d : Dev} {q : Req} (h_d : MemOk d) :
    MemOk (Dev.grant d q) := by
  unfold Dev.grant
  try dsimp only
  repeat' first
    | with_reducible assumption
    | with_reducible apply memOk_setReq
    | with_reducible apply memOk_station
    | with_reducible apply memOk_leaveHome
theorem memOk_waitBusy {d : Dev} {q : Req} (h_d : MemOk d) :
    MemOk (Dev.waitBusy d q) := by
  unfold Dev.waitBusy
  try dsimp only
  repeat' first
    | with_reducible assumption
    | simp only [mk_iff, line_iff, lineMk_iff, wf_iff]
    | with_reducible apply memOk_bump
    | with_reducible apply memOk_queueHome
    | split
theorem memOk_poisonLine {d : Dev} {a : Attr} {n page : Nat} (h_d : MemOk d) :
    MemOk (Dev.poisonLine d a n page) := by
  unfold Dev.poisonLine
  try dsimp only
  repeat' first
    | with_reducible assumption
    | with_reducible apply memOk_bump
    | with_reducible apply memOk_writeLine
theorem memOk_allocDir {d : Dev} {q : Req} {n st slot : Nat} (h_d : MemOk d) :
    MemOk (Dev.allocDir d q n st slot) := by
  unfold Dev.allocDir
  try dsimp only
  repeat' first
    | with_reducible assumption
    | with_reducible apply memOk_bump
    | with_reducible apply memOk_stageReq
    | with_reducible apply memOk_setDe
    | with_reducible apply memOk_touchDir
    | with_reducible apply memOk_startFlow
    | with_reducible apply memOk_queueHome
    | with_reducible apply memOk_leaveHome
    | with_reducible apply memOk_grant
    | split
theorem memOk_serveHome {d : Dev} {q : Req} {n : Nat} (h_d : MemOk d) :
    MemOk (Dev.serveHome d q n) := by
  unfold Dev.serveHome
  try dsimp only
  repeat' first
    | with_reducible assumption
    | with_reducible apply memOk_stageReq
    | with_reducible apply memOk_setDe
    | with_reducible apply memOk_touchDir
    | with_reducible apply memOk_startFlow
    | with_reducible apply memOk_leaveHome
    | with_reducible apply memOk_grant
    | with_reducible apply memOk_allocDir
    | split
theorem memOk_presentHome {d : Dev} {q : Req} (h_d : MemOk d) :
    MemOk (Dev.presentHome d q) := by
  unfold Dev.presentHome
  try dsimp only
  repeat' first
    | with_reducible assumption
    | with_reducible apply memOk_fail
    | with_reducible apply memOk_setDe
    | with_reducible apply memOk_directoryError
    | with_reducible apply memOk_queueHome
    | with_reducible apply memOk_leaveHome
    | with_reducible apply memOk_grant
    | with_reducible apply memOk_waitBusy
    | with_reducible apply memOk_poisonLine
    | with_reducible apply memOk_serveHome
    | split
theorem memOk_scanRecall {d : Dev} {reg : Nat} {r : Recall} (h_d : MemOk d) :
    MemOk (Dev.scanRecall d reg r) := by
  unfold Dev.scanRecall
  try dsimp only
  repeat' first
    | with_reducible assumption
    | simp only [mk_iff, line_iff, lineMk_iff, wf_iff]
    | with_reducible apply memOk_startFlow
    | with_reducible apply each_ok
    | intro _
    | split
theorem memOk_wakeHome {d : Dev} (h_d : MemOk d) :
    MemOk (Dev.wakeHome d) := by
  unfold Dev.wakeHome
  try dsimp only
  repeat' first
    | with_reducible assumption
    | with_reducible apply memOk_leaveHome
    | with_reducible apply memOk_presentHome
    | with_reducible apply each_ok
    | intro _
    | split
theorem memOk_poisonLost {d : Dev} {n : Nat} (h_d : MemOk d) :
    MemOk (Dev.poisonLost d n) := by
  unfold Dev.poisonLost
  try dsimp only
  repeat' first
    | with_reducible assumption
    | with_reducible apply memOk_bump
    | with_reducible apply memOk_poisonLine
    | split
theorem memOk_endFlow {d : Dev} {f : Flow} (h_d : MemOk d) :
    MemOk (Dev.endFlow d f) := by
  have key (d2 : Dev) (free : BitVec 64) (c : Bool) (h2 : MemOk d2) : MemOk (match f.for_ with
      | .request id =>
        let d := d2.setDe f.set f.way free
        match d.req id with
        | some q => if f.kind = 0 && !c then d.grant q else d.presentHome q
        | none => d
      | .evict id =>
        let d := d2.setDe f.set f.way 0
        match d.req id with
        | some q => d.presentHome q
        | none => d
      | .recalled reg =>
        let d := d2.setDe f.set f.way 0
        match d.home.recalls.look reg with
        | some r => d.scanRecall reg r
        | none => d
      | .job =>
        let d := d2.setDe f.set f.way free
        if f.kind = 0 && !c then { d with home.cur := f.line :: d.home.cur } else d) := by
    have h3 (v : BitVec 64) : MemOk (d2.setDe f.set f.way v) := memOk_setDe h2
    split
    · dsimp only
      split
      · split
        · exact memOk_grant (h3 _)
        · exact memOk_presentHome (h3 _)
      · exact h3 _
    · dsimp only
      split
      · exact memOk_presentHome (h3 _)
      · exact h3 _
    · dsimp only
      split
      · exact memOk_scanRecall (h3 _)
      · exact h3 _
    · dsimp only
      split
      · exact h3 free
      · exact h3 free
  unfold Dev.endFlow
  refine key _ _ _ ?_
  split
  · exact memOk_poisonLost h_d
  · exact h_d
theorem memOk_scanRecalls {d : Dev} (h_d : MemOk d) :
    MemOk (Dev.scanRecalls d) := by
  unfold Dev.scanRecalls
  try dsimp only
  repeat' first
    | with_reducible assumption
    | with_reducible apply memOk_scanRecall
    | with_reducible apply each_ok
    | intro _
theorem memOk_endFlows {y0 : Nat} {y1 : Dev} (h_y1 : MemOk y1) :
    MemOk (Dev.endFlows y0 y1) := by
  induction y0 generalizing y1 with
  | zero =>
    unfold Dev.endFlows
    repeat' first
      | with_reducible assumption
  | succ k ih =>
    unfold Dev.endFlows
    try dsimp only
    repeat' first
      | with_reducible assumption
      | with_reducible apply ih
      | with_reducible apply memOk_wakeHome
      | with_reducible apply memOk_endFlow
      | with_reducible apply memOk_scanRecalls
      | split
theorem memOk_settleHome {d : Dev} (h_d : MemOk d) :
    MemOk (Dev.settleHome d) := by
  unfold Dev.settleHome
  try dsimp only
  repeat' first
    | with_reducible assumption
    | with_reducible apply memOk_endFlows
theorem memOk_answerSnoop {d : Dev} {s n : Nat} {keeps : Bool} (h_d : MemOk d) :
    MemOk (Dev.answerSnoop d s n keeps) := by
  unfold Dev.answerSnoop
  try dsimp only
  repeat' first
    | with_reducible assumption
    | simp only [mk_iff, line_iff, lineMk_iff, wf_iff]
    | with_reducible apply memOk_setDe
    | split
theorem memOk_takeBirsp {d : Dev} {s n : Nat} {keeps : Bool} (h_d : MemOk d) :
    MemOk (Dev.takeBirsp d s n keeps) := by
  unfold Dev.takeBirsp
  try dsimp only
  repeat' first
    | with_reducible assumption
    | simp only [mk_iff, line_iff, lineMk_iff, wf_iff]
    | with_reducible apply memOk_settleHome
    | with_reducible apply memOk_answerSnoop
    | split
theorem memOk_releaseRsps {d : Dev} (h_d : MemOk d) :
    MemOk (Dev.releaseRsps d) := by
  unfold Dev.releaseRsps
  try dsimp only
  repeat' first
    | with_reducible assumption
    | simp only [mk_iff, line_iff, lineMk_iff, wf_iff]
    | with_reducible apply memOk_settleHome
    | with_reducible apply memOk_answerSnoop
    | with_reducible apply each_ok
    | intro _
    | split
theorem memOk_ackOn {d : Dev} {l : Nat} {ld : Option Nat} (h_d : MemOk d) :
    MemOk (Dev.ackOn d l ld) := by
  unfold Dev.ackOn
  try dsimp only
  repeat' first
    | with_reducible assumption
    | with_reducible apply memOk_owe
theorem memOk_sendAck {d : Dev} {s n : Nat} (h_d : MemOk d) :
    MemOk (Dev.sendAck d s n) := by
  unfold Dev.sendAck
  try dsimp only
  repeat' first
    | with_reducible assumption
    | with_reducible apply memOk_sendSnp
    | with_reducible apply memOk_ackOn
    | split
theorem memOk_takeConflict {d : Dev} {s n : Nat} (h_d : MemOk d) :
    MemOk (Dev.takeConflict d s n) := by
  unfold Dev.takeConflict
  try dsimp only
  repeat' first
    | with_reducible assumption
    | simp only [mk_iff, line_iff, lineMk_iff, wf_iff]
    | with_reducible apply memOk_bump
    | with_reducible apply memOk_sendAck
    | split
theorem memOk_releaseAcks {d : Dev} (h_d : MemOk d) :
    MemOk (Dev.releaseAcks d) := by
  unfold Dev.releaseAcks
  try dsimp only
  repeat' first
    | with_reducible assumption
    | simp only [mk_iff, line_iff, lineMk_iff, wf_iff]
    | with_reducible apply memOk_sendAck
    | with_reducible apply each_ok
    | intro _
    | split
theorem memOk_losing {d : Dev} {s cause : Nat} (h_d : MemOk d) :
    MemOk (Dev.losing d s cause) := by
  unfold Dev.losing
  try dsimp only
  repeat' first
    | with_reducible assumption
    | simp only [mk_iff, line_iff, lineMk_iff, wf_iff]
    | split
theorem memOk_loseLd {d : Dev} {ld cause : Nat} (h_d : MemOk d) :
    MemOk (Dev.loseLd d ld cause) := by
  unfold Dev.loseLd
  try dsimp only
  repeat' first
    | with_reducible assumption
    | with_reducible apply memOk_losing
    | split
theorem memOk_applyGone {d : Dev} (h_d : MemOk d) :
    MemOk (Dev.applyGone d) := by
  unfold Dev.applyGone
  try dsimp only
  repeat' first
    | with_reducible assumption
    | simp only [mk_iff, line_iff, lineMk_iff, wf_iff]
    | with_reducible apply memOk_doorbell
    | with_reducible apply memOk_raiseAlways
    | with_reducible apply memOk_settleHome
    | with_reducible apply each_ok
    | intro _
    | split
theorem memOk_sweep {d : Dev} {s : Nat} (h_d : MemOk d) :
    MemOk (Dev.sweep d s) := by
  unfold Dev.sweep
  try dsimp only
  repeat' first
    | with_reducible assumption
    | simp only [mk_iff, line_iff, lineMk_iff, wf_iff]
    | with_reducible apply memOk_setDe
    | with_reducible apply memOk_wakeHome
    | with_reducible apply memOk_poisonLost
    | with_reducible apply memOk_settleHome
    | with_reducible apply each_ok
    | intro _
    | split
theorem memOk_loadRecall {d : Dev} {src dst bytes : Nat} {label : Label} {dstDev : Option Nat} (h_d : MemOk d) :
    MemOk (Dev.loadRecall d src dst bytes label dstDev).2 := by
  unfold Dev.loadRecall
  try dsimp only
  repeat' first
    | with_reducible assumption
    | simp only [mk_iff, line_iff, lineMk_iff, wf_iff]
    | with_reducible apply memOk_bump
    | with_reducible apply memOk_scanRecall
    | with_reducible apply memOk_settleHome
    | split
theorem memOk_loadRecall_eq {d : Dev} {src dst bytes : Nat} {label : Label} {dstDev : Option Nat} (h_d : MemOk d) {q0 : Option Nat} {q1 : Dev} (hr : (Dev.loadRecall d src dst bytes label dstDev) = (q0, q1)) :
    MemOk q1 := by
  have h : MemOk (Dev.loadRecall d src dst bytes label dstDev).2 := memOk_loadRecall h_d
  rw [hr] at h
  exact h
theorem memOk_clearRecall {d : Dev} {reg : Nat} (h_d : MemOk d) :
    MemOk (Dev.clearRecall d reg) := by
  unfold Dev.clearRecall
  try dsimp only
  repeat' first
    | with_reducible assumption
    | simp only [mk_iff, line_iff, lineMk_iff, wf_iff]
    | with_reducible apply memOk_leaveHome
    | with_reducible apply memOk_wakeHome
    | with_reducible apply memOk_settleHome
    | with_reducible apply each_ok
    | split
theorem memOk_lineStation {d : Dev} {q : Req} (h_d : MemOk d) :
    MemOk (Dev.lineStation d q) := by
  unfold Dev.lineStation
  try dsimp only
  repeat' first
    | with_reducible assumption
    | with_reducible apply memOk_stageReq
    | with_reducible apply memOk_station
    | with_reducible apply memOk_presentHome
    | split
theorem memOk_enterStation {d : Dev} {q : Req} {back : Stage} (h_d : MemOk d) :
    MemOk (Dev.enterStation d q back) := by
  unfold Dev.enterStation
  try dsimp only
  repeat' first
    | with_reducible assumption
    | with_reducible apply memOk_stageReq
    | with_reducible apply memOk_lineStation
    | split
theorem memOk_abandonMove {d : Dev} {m : Move} (h_d : MemOk d) :
    MemOk (Dev.abandonMove d m) := by
  unfold Dev.abandonMove
  try dsimp only
  repeat' first
    | with_reducible assumption
    | simp only [mk_iff, line_iff, lineMk_iff, wf_iff]
    | with_reducible apply memOk_freeKnot
    | with_reducible apply memOk_credit
    | with_reducible apply memOk_changeKnot
    | split
theorem memOk_allocZero {d : Dev} {q : Req} {block : Nat} (h_d : MemOk d) :
    MemOk (Dev.allocZero d q block) := by
  unfold Dev.allocZero
  try dsimp only
  repeat' first
    | with_reducible assumption
    | with_reducible apply memOk_answer
    | with_reducible apply memOk_fail
    | with_reducible (apply memOk_allocPage (hr := by assumption))
    | with_reducible apply memOk_unplaced
    | with_reducible apply memOk_changeKnot
    | with_reducible apply memOk_enterStation
    | split
theorem memOk_promoteWrite {d : Dev} {q : Req} {k : BitVec 36} (h_d : MemOk d) :
    MemOk (Dev.promoteWrite d q k) := by
  unfold Dev.promoteWrite
  try dsimp only
  repeat' first
    | with_reducible assumption
    | simp only [mk_iff, line_iff, lineMk_iff, wf_iff]
    | with_reducible apply memOk_stageReq
    | with_reducible apply memOk_answer
    | with_reducible apply memOk_fail
    | with_reducible (apply memOk_allocPage (hr := by assumption))
    | with_reducible apply memOk_unplaced
    | split
theorem memOk_postPromotion {d : Dev} {q : Req} {block : Nat} (h_d : MemOk d) :
    MemOk (Dev.postPromotion d q block) := by
  unfold Dev.postPromotion
  try dsimp only
  repeat' first
    | with_reducible assumption
    | simp only [mk_iff, line_iff, lineMk_iff, wf_iff]
    | with_reducible apply memOk_bump
    | with_reducible apply memOk_setTierRec
    | split
theorem memOk_throughKnot {d : Dev} {q : Req} {block : Nat} {k : BitVec 36} {counts : Bool} (h_d : MemOk d) :
    MemOk (Dev.throughKnot d q block k counts) := by
  unfold Dev.throughKnot
  try dsimp only
  repeat' first
    | with_reducible assumption
    | with_reducible apply memOk_enterStation
    | with_reducible apply memOk_allocZero
    | with_reducible apply memOk_promoteWrite
    | with_reducible apply memOk_postPromotion
    | split
theorem memOk_forgetDemotion {d : Dev} {page : Nat} (h_d : MemOk d) :
    MemOk (Dev.forgetDemotion d page) := by
  unfold Dev.forgetDemotion
  try dsimp only
  repeat' first
    | with_reducible assumption
    | simp only [mk_iff, line_iff, lineMk_iff, wf_iff]
theorem memOk_stage2Found {d : Dev} {q : Req} {f : Found2} (h_d : MemOk d) :
    MemOk (Dev.stage2Found d q f) := by
  unfold Dev.stage2Found
  try dsimp only
  repeat' first
    | with_reducible assumption
    | with_reducible apply memOk_heat
    | with_reducible apply memOk_stageReq
    | with_reducible apply memOk_answer
    | with_reducible apply memOk_enterStation
    | with_reducible apply memOk_abandonMove
    | with_reducible apply memOk_throughKnot
    | with_reducible apply memOk_forgetDemotion
    | split
theorem memOk_wantWalk {d : Dev} {t : Target} {label : Label} {r0 : Nat} {r1 : Dev} (h_d : MemOk d) (hr : (Dev.wantWalk d t label) = some (r0, r1)) :
    MemOk r1 := by
  unfold Dev.wantWalk at hr
  try dsimp only at hr
  repeat' first
    | (simp only [Option.some.injEq, Prod.mk.injEq, Option.map_eq_some_iff, Option.bind_eq_some_iff, Except.ok.injEq, reduceCtorEq] at hr)
    | (obtain ⟨rfl, rfl⟩ := hr)
    | (split at hr)
    | with_reducible assumption
    | simp only [mk_iff, line_iff, lineMk_iff, wf_iff]
    | with_reducible apply memOk_bump
    | with_reducible apply memOk_fresh
theorem memOk_prefetch {d : Dev} {t : Target} (h_d : MemOk d) :
    MemOk (Dev.prefetch d t) := by
  unfold Dev.prefetch
  try dsimp only
  repeat' first
    | with_reducible assumption
    | simp only [mk_iff, line_iff, lineMk_iff, wf_iff]
    | with_reducible apply memOk_bump
    | with_reducible apply memOk_fresh
    | split
theorem memOk_noteMiss1 {d : Dev} {ld ext : Nat} (h_d : MemOk d) :
    MemOk (Dev.noteMiss1 d ld ext) := by
  unfold Dev.noteMiss1
  try dsimp only
  repeat' first
    | with_reducible assumption
    | simp only [mk_iff, line_iff, lineMk_iff, wf_iff]
    | with_reducible apply memOk_prefetch
    | with_reducible apply each_ok
    | intro _
    | split
theorem memOk_noteMiss2 {d : Dev} {range : Nat} (h_d : MemOk d) :
    MemOk (Dev.noteMiss2 d range) := by
  unfold Dev.noteMiss2
  try dsimp only
  repeat' first
    | with_reducible assumption
    | simp only [mk_iff, line_iff, lineMk_iff, wf_iff]
    | with_reducible apply memOk_prefetch
    | split
theorem memOk_walkFault {d : Dev} {q : Req} {f : WFault} (h_d : MemOk d) :
    MemOk (Dev.walkFault d q f) := by
  unfold Dev.walkFault
  try dsimp only
  repeat' first
    | with_reducible assumption
    | with_reducible apply memOk_bumpLd
    | with_reducible apply memOk_doorbell
    | with_reducible apply memOk_raiseAt
    | with_reducible apply memOk_fail
theorem memOk_stage2 {d : Dev} {q : Req} (h_d : MemOk d) :
    MemOk (Dev.stage2 d q) := by
  unfold Dev.stage2
  try dsimp only
  repeat' first
    | with_reducible assumption
    | with_reducible apply memOk_bump
    | with_reducible (apply memOk_look2 (hr := by assumption))
    | with_reducible apply memOk_stageReq
    | with_reducible apply memOk_fail
    | with_reducible apply memOk_stage2Found
    | with_reducible (apply memOk_wantWalk (hr := by assumption))
    | with_reducible apply memOk_noteMiss2
    | split
theorem memOk_braidSync {d : Dev} {dev : Nat} (h_d : MemOk d) :
    MemOk (Dev.braidSync d dev) := by
  unfold Dev.braidSync
  try dsimp only
  repeat' first
    | with_reducible assumption
    | simp only [mk_iff, line_iff, lineMk_iff, wf_iff]
    | with_reducible apply memOk_sendMsg
    | split
theorem memOk_snoopWriteback {d : Dev} {q : Req} {f : Foreign} (h_d : MemOk d) :
    MemOk (Dev.snoopWriteback d q f) := by
  unfold Dev.snoopWriteback
  try dsimp only
  repeat' first
    | with_reducible assumption
    | with_reducible apply memOk_sendMsg
    | with_reducible apply memOk_answer
theorem memOk_forward {d : Dev} {q : Req} (h_d : MemOk d) :
    MemOk (Dev.forward d q) := by
  unfold Dev.forward
  try dsimp only
  repeat' first
    | with_reducible assumption
    | simp only [mk_iff, line_iff, lineMk_iff, wf_iff]
    | with_reducible apply memOk_sendMsg
    | with_reducible apply memOk_noRoute
    | with_reducible apply memOk_stageReq
    | with_reducible apply memOk_fail
    | with_reducible apply memOk_braidSync
    | split
theorem memOk_router {d : Dev} {q : Req} (h_d : MemOk d) :
    MemOk (Dev.router d q) := by
  unfold Dev.router
  try dsimp only
  repeat' first
    | with_reducible assumption
    | with_reducible apply memOk_stageReq
    | with_reducible apply memOk_answer
    | with_reducible apply memOk_enterStation
    | with_reducible apply memOk_stage2
    | with_reducible apply memOk_snoopWriteback
    | with_reducible apply memOk_forward
    | split
theorem memOk_countAccepted {d : Dev} {q : Req} (h_d : MemOk d) :
    MemOk (Dev.countAccepted d q) := by
  unfold Dev.countAccepted
  try dsimp only
  repeat' first
    | with_reducible assumption
    | with_reducible apply memOk_bumpLd
    | split
theorem memOk_stage1Found {d : Dev} {q : Req} {e : BitVec 64} (h_d : MemOk d) :
    MemOk (Dev.stage1Found d q e) := by
  unfold Dev.stage1Found
  try dsimp only
  repeat' first
    | with_reducible assumption
    | simp only [mk_iff, line_iff, lineMk_iff, wf_iff]
    | with_reducible apply memOk_bumpLd
    | with_reducible apply memOk_stageReq
    | with_reducible apply memOk_router
    | with_reducible apply memOk_countAccepted
    | split
theorem memOk_stage1 {d : Dev} {q : Req} (h_d : MemOk d) :
    MemOk (Dev.stage1 d q) := by
  unfold Dev.stage1
  try dsimp only
  repeat' first
    | with_reducible assumption
    | with_reducible apply memOk_bump
    | with_reducible (apply memOk_look1 (hr := by assumption))
    | with_reducible apply memOk_stageReq
    | with_reducible (apply memOk_wantWalk (hr := by assumption))
    | with_reducible apply memOk_noteMiss1
    | with_reducible apply memOk_stage1Found
    | split
theorem memOk_scrubSend {d : Dev} {q : Req} {h : Nat} (h_d : MemOk d) :
    MemOk (Dev.scrubSend d q h) := by
  unfold Dev.scrubSend
  try dsimp only
  repeat' first
    | with_reducible assumption
    | with_reducible apply memOk_fresh
    | with_reducible apply memOk_stageReq
    | with_reducible apply memOk_answer
    | with_reducible apply memOk_addAcc
    | split
theorem memOk_letIn {d : Dev} {q : Req} (h_d : MemOk d) :
    MemOk (Dev.letIn d q) := by
  unfold Dev.letIn
  try dsimp only
  repeat' first
    | with_reducible assumption
    | simp only [mk_iff, line_iff, lineMk_iff, wf_iff]
    | with_reducible apply memOk_stage2
    | with_reducible apply memOk_stage1
    | with_reducible apply memOk_scrubSend
    | split
theorem memOk_again {d : Dev} {q : Req} (h_d : MemOk d) :
    MemOk (Dev.again d q) := by
  unfold Dev.again
  try dsimp only
  repeat' first
    | with_reducible assumption
    | with_reducible apply memOk_lineStation
    | with_reducible apply memOk_stage2
    | with_reducible apply memOk_router
    | with_reducible apply memOk_stage1
    | with_reducible apply memOk_scrubSend
    | split
theorem memOk_retry {d : Dev} (h_d : MemOk d) :
    MemOk (Dev.retry d) := by
  unfold Dev.retry
  try dsimp only
  repeat' first
    | with_reducible assumption
    | with_reducible apply memOk_again
    | with_reducible apply each_ok
    | intro _
    | split
theorem memOk_retryHome {d : Dev} (h_d : MemOk d) :
    MemOk (Dev.retryHome d) := by
  unfold Dev.retryHome
  try dsimp only
  repeat' first
    | with_reducible assumption
    | with_reducible apply memOk_wakeHome
    | with_reducible apply memOk_settleHome
    | split
theorem memOk_snoopAnswer {d : Dev} {f : Foreign} {type : Nat} (h_d : MemOk d) :
    MemOk (Dev.snoopAnswer d f type) := by
  unfold Dev.snoopAnswer
  try dsimp only
  repeat' first
    | with_reducible assumption
    | with_reducible apply memOk_sendMsg
theorem memOk_snoopFails {d : Dev} {f : Foreign} (h_d : MemOk d) :
    MemOk (Dev.snoopFails d f) := by
  unfold Dev.snoopFails
  try dsimp only
  repeat' first
    | with_reducible assumption
    | with_reducible apply memOk_sendMsg
theorem memOk_releaseForeign {d : Dev} (h_d : MemOk d) :
    MemOk (Dev.releaseForeign d) := by
  unfold Dev.releaseForeign
  try dsimp only
  repeat' first
    | with_reducible assumption
    | simp only [mk_iff, line_iff, lineMk_iff, wf_iff]
    | with_reducible apply memOk_snoopAnswer
    | with_reducible apply each_ok
    | intro _
    | split
theorem memOk_flow {d : Dev} (h_d : MemOk d) :
    MemOk (Dev.flow d) := by
  unfold Dev.flow
  try dsimp only
  repeat' first
    | with_reducible assumption
    | with_reducible apply memOk_takeRepairs
    | with_reducible apply memOk_feed
    | with_reducible apply memOk_feedImages
    | with_reducible apply memOk_sendUnsent
    | with_reducible apply memOk_releaseRsps
    | with_reducible apply memOk_releaseAcks
    | with_reducible apply memOk_retry
    | with_reducible apply memOk_retryHome
    | with_reducible apply memOk_releaseForeign
theorem memOk_grantIngress {d : Dev} {l c : Nat} (h_d : MemOk d) :
    MemOk (Dev.grantIngress d l c) := by
  unfold Dev.grantIngress
  try dsimp only
  repeat' first
    | with_reducible assumption
    | with_reducible apply memOk_modLd
    | with_reducible apply memOk_say
    | with_reducible apply memOk_stageReq
    | split
theorem memOk_unmapped {d : Dev} {l ld : Nat} {dpa : Option Nat} {tag : BitVec 16} {read : Bool} (h_d : MemOk d) :
    MemOk (Dev.unmapped d l ld dpa tag read) := by
  unfold Dev.unmapped
  try dsimp only
  repeat' first
    | with_reducible assumption
    | simp only [mk_iff, line_iff, lineMk_iff, wf_iff]
    | with_reducible apply memOk_free
    | with_reducible apply memOk_bumpLd
    | with_reducible apply memOk_doorbell
    | with_reducible apply memOk_raise
    | with_reducible apply memOk_answerAtIngress
    | split
theorem memOk_accept {d : Dev} {r : Region} {q : Req} {ld : Nat} {l : Nat} (h_d : MemOk d) :
    MemOk (Dev.accept d r q ld l) := by
  unfold Dev.accept
  try dsimp only
  repeat' first
    | with_reducible assumption
    | simp only [mk_iff, line_iff, lineMk_iff, wf_iff]
    | with_reducible apply memOk_modLd
    | with_reducible apply memOk_bumpLd
    | with_reducible apply memOk_fresh
    | with_reducible apply memOk_grantIngress
    | split
theorem memOk_arrive {d : Dev} {k : Link} {ldId : BitVec 16} {hpa : BitVec 64} {q : Req} {tag : BitVec 16} (h_d : MemOk d) :
    MemOk (Dev.arrive d k ldId hpa q tag) := by
  unfold Dev.arrive
  try dsimp only
  repeat' first
    | with_reducible assumption
    | with_reducible apply memOk_bump
    | with_reducible apply memOk_answerAtIngress
    | with_reducible apply memOk_unmapped
    | with_reducible apply memOk_accept
    | split
theorem memOk_execMemrd {l : Link} {ldId : BitVec 16} {hpa : BitVec 64} {mv : Meta} {tag : BitVec 16} {s t : State} (h_s : MemOk s.dev) (hr : execMemrd l ldId hpa mv tag s = .next t) :
    MemOk t.dev := by
  unfold execMemrd ok at hr
  cases hr
  show MemOk _
  repeat' first
    | with_reducible assumption
    | simp only [mk_iff, line_iff, lineMk_iff, wf_iff]
    | with_reducible apply memOk_arrive
theorem memOk_memwr {d : Dev} {l : Link} {ldId : BitVec 16} {hpa : BitVec 64} {mv : Meta} {tag : BitVec 16} {data : Line} {mask : BitVec 64} {poison : Bool} (h_d : MemOk d) :
    MemOk (Dev.memwr d l ldId hpa mv tag data mask poison) := by
  unfold Dev.memwr
  try dsimp only
  repeat' first
    | with_reducible assumption
    | with_reducible apply memOk_arrive
theorem memOk_execMemwr {l : Link} {ldId : BitVec 16} {hpa : BitVec 64} {mv : Meta} {tag : BitVec 16} {data : Line} {mask : BitVec 64} {poison : Bool} {s t : State} (h_s : MemOk s.dev) (hr : execMemwr l ldId hpa mv tag data mask poison s = .next t) :
    MemOk t.dev := by
  unfold execMemwr ok at hr
  cases hr
  show MemOk _
  repeat' first
    | with_reducible assumption
    | simp only [mk_iff, line_iff, lineMk_iff, wf_iff]
    | with_reducible apply memOk_memwr
theorem memOk_execMeminv {l : Link} {ldId : BitVec 16} {hpa : BitVec 64} {tag : BitVec 16} {s t : State} (h_s : MemOk s.dev) (hr : execMeminv l ldId hpa tag s = .next t) :
    MemOk t.dev := by
  unfold execMeminv ok at hr
  cases hr
  show MemOk _
  repeat' first
    | with_reducible assumption
    | simp only [mk_iff, line_iff, lineMk_iff, wf_iff]
    | with_reducible apply memOk_arrive
theorem memOk_execMemclnevct {l : Link} {ldId : BitVec 16} {hpa : BitVec 64} {tag : BitVec 16} {s t : State} (h_s : MemOk s.dev) (hr : execMemclnevct l ldId hpa tag s = .next t) :
    MemOk t.dev := by
  unfold execMemclnevct ok at hr
  cases hr
  show MemOk _
  repeat' first
    | with_reducible assumption
    | simp only [mk_iff, line_iff, lineMk_iff, wf_iff]
    | with_reducible apply memOk_arrive
theorem memOk_execIngressEntryGrant {l : Link} {cls : Cls} {s t : State} (h_s : MemOk s.dev) (hr : execIngressEntryGrant l cls s = .next t) :
    MemOk t.dev := by
  unfold execIngressEntryGrant ok at hr
  cases hr
  show MemOk _
  repeat' first
    | with_reducible assumption
    | simp only [mk_iff, line_iff, lineMk_iff, wf_iff]
    | with_reducible apply memOk_grantIngress
theorem memOk_regulate {d : Dev} (h_d : MemOk d) :
    MemOk (Dev.regulate d) := by
  unfold Dev.regulate
  try dsimp only
  repeat' first
    | with_reducible assumption
    | simp only [mk_iff, line_iff, lineMk_iff, wf_iff]
    | with_reducible apply memOk_letIn
    | with_reducible apply memOk_flow
    | split
theorem memOk_execRegulatorAdmit  {s t : State} (h_s : MemOk s.dev) (hr : execRegulatorAdmit s = .next t) :
    MemOk t.dev := by
  unfold execRegulatorAdmit ok at hr
  cases hr
  show MemOk _
  repeat' first
    | with_reducible assumption
    | simp only [mk_iff, line_iff, lineMk_iff, wf_iff]
    | with_reducible apply memOk_regulate
theorem memOk_promoteAge {d : Dev} {id : Nat} (h_d : MemOk d) :
    MemOk (Dev.promoteAge d id) := by
  unfold Dev.promoteAge
  try dsimp only
  repeat' first
    | with_reducible assumption
    | simp only [mk_iff, line_iff, lineMk_iff, wf_iff]
theorem memOk_execAgePromotion {req : Nat} {s t : State} (h_s : MemOk s.dev) (hr : execAgePromotion req s = .next t) :
    MemOk t.dev := by
  unfold execAgePromotion ok at hr
  cases hr
  show MemOk _
  repeat' first
    | with_reducible assumption
    | simp only [mk_iff, line_iff, lineMk_iff, wf_iff]
    | with_reducible apply memOk_promoteAge
theorem memOk_markFilling {d : Dev} {block : Nat} (h_d : MemOk d) :
    MemOk (Dev.markFilling d block) := by
  unfold Dev.markFilling
  try dsimp only
  repeat' first
    | with_reducible assumption
    | simp only [mk_iff, line_iff, lineMk_iff, wf_iff]
theorem memOk_eachReq {d : Dev} {ids : List Nat} {f : Dev → Req → Dev} (h_d : MemOk d) (h_f : ∀ (x0 : Dev) (x1 : Req), MemOk x0 → MemOk (f x0 x1)) :
    MemOk (Dev.eachReq d ids f) := by
  unfold Dev.eachReq
  try dsimp only
  repeat' first
    | with_reducible assumption
    | with_reducible apply h_f
    | with_reducible apply each_ok
    | intro _
    | split
theorem memOk_walkDone {d : Dev} {id : Nat} {errs : List Burst} (h_d : MemOk d) :
    MemOk (Dev.walkDone d id errs) := by
  unfold Dev.walkDone
  try dsimp only
  repeat' first
    | with_reducible assumption
    | simp only [mk_iff, line_iff, lineMk_iff, wf_iff]
    | with_reducible apply memOk_bump
    | with_reducible apply memOk_flbFill
    | with_reducible (apply memOk_walk1_eq (hr := by assumption))
    | with_reducible (apply memOk_walk2_eq (hr := by assumption))
    | with_reducible apply memOk_stage2Found
    | with_reducible apply memOk_walkFault
    | with_reducible apply memOk_stage2
    | with_reducible apply memOk_countAccepted
    | with_reducible apply memOk_stage1Found
    | with_reducible apply memOk_markFilling
    | with_reducible apply memOk_eachReq
    | intro _
    | split
theorem memOk_execTableWalkComplete {walk : Nat} {errs : List Burst} {s t : State} (h_s : MemOk s.dev) (hr : execTableWalkComplete walk errs s = .next t) :
    MemOk t.dev := by
  unfold execTableWalkComplete ok at hr
  cases hr
  show MemOk _
  repeat' first
    | with_reducible assumption
    | simp only [mk_iff, line_iff, lineMk_iff, wf_iff]
    | with_reducible apply memOk_flow
    | with_reducible apply memOk_walkDone
theorem memOk_fillRecs {d : Dev} {block : Nat} {errs : List Burst} (h_d : MemOk d) :
    MemOk (Dev.fillRecs d block errs) := by
  unfold Dev.fillRecs
  try dsimp only
  repeat' first
    | with_reducible assumption
    | simp only [mk_iff, line_iff, lineMk_iff, wf_iff]
    | with_reducible apply memOk_bump
    | with_reducible apply memOk_readTable
    | with_reducible apply each_ok2
    | intro _
    | split
theorem memOk_blockFill {d : Dev} {block : Nat} {errs : List Burst} (h_d : MemOk d) :
    MemOk (Dev.blockFill d block errs) := by
  unfold Dev.blockFill
  try dsimp only
  repeat' first
    | with_reducible assumption
    | simp only [mk_iff, line_iff, lineMk_iff, wf_iff]
    | with_reducible apply memOk_kcFillLines
    | with_reducible apply memOk_fillRecs
    | with_reducible apply each_ok
    | intro _
    | split
theorem memOk_execKnotBlockFillDone {block : Nat} {errs : List Burst} {s t : State} (h_s : MemOk s.dev) (hr : execKnotBlockFillDone block errs s = .next t) :
    MemOk t.dev := by
  unfold execKnotBlockFillDone ok at hr
  cases hr
  show MemOk _
  repeat' first
    | with_reducible assumption
    | simp only [mk_iff, line_iff, lineMk_iff, wf_iff]
    | with_reducible apply memOk_flow
    | with_reducible apply memOk_blockFill
theorem memOk_fetchDone {d : Dev} {id : Nat} {errs : List Burst} (h_d : MemOk d) :
    MemOk (Dev.fetchDone d id errs) := by
  unfold Dev.fetchDone
  try dsimp only
  repeat' first
    | with_reducible assumption
    | simp only [mk_iff, line_iff, lineMk_iff, wf_iff]
    | with_reducible (apply memOk_fetchHeader_eq (hr := by assumption))
    | with_reducible apply memOk_fail
    | with_reducible apply memOk_station
    | with_reducible apply memOk_eachReq
    | split
theorem memOk_execCounterTreeFetchDone {fetch : Nat} {errs : List Burst} {s t : State} (h_s : MemOk s.dev) (hr : execCounterTreeFetchDone fetch errs s = .next t) :
    MemOk t.dev := by
  unfold execCounterTreeFetchDone ok at hr
  cases hr
  show MemOk _
  repeat' first
    | with_reducible assumption
    | simp only [mk_iff, line_iff, lineMk_iff, wf_iff]
    | with_reducible apply memOk_flow
    | with_reducible apply memOk_fetchDone
theorem memOk_writebackCount {d : Dev} {n : Nat} (h_d : MemOk d) :
    MemOk (Dev.writebackCount d n) := by
  unfold Dev.writebackCount
  try dsimp only
  repeat' first
    | with_reducible assumption
    | with_reducible apply memOk_writeBackLine
    | split
theorem memOk_execCounterWritebackCount {line : Nat} {s t : State} (h_s : MemOk s.dev) (hr : execCounterWritebackCount line s = .next t) :
    MemOk t.dev := by
  unfold execCounterWritebackCount ok at hr
  cases hr
  show MemOk _
  repeat' first
    | with_reducible assumption
    | simp only [mk_iff, line_iff, lineMk_iff, wf_iff]
    | with_reducible apply memOk_writebackCount
theorem memOk_flbExpiry {d : Dev} {buf ld ext : Nat} (h_d : MemOk d) :
    MemOk (Dev.flbExpiry d buf ld ext) := by
  unfold Dev.flbExpiry
  try dsimp only
  repeat' first
    | with_reducible assumption
    | simp only [mk_iff, line_iff, lineMk_iff, wf_iff]
theorem memOk_execFirstLevelExpiry {buf : Option Link} {ld : Fin 32} {ext : Nat} {s t : State} (h_s : MemOk s.dev) (hr : execFirstLevelExpiry buf ld ext s = .next t) :
    MemOk t.dev := by
  unfold execFirstLevelExpiry ok at hr
  cases hr
  show MemOk _
  repeat' first
    | with_reducible assumption
    | simp only [mk_iff, line_iff, lineMk_iff, wf_iff]
    | with_reducible apply memOk_flbExpiry
theorem memOk_prismFault {d : Dev} {engine code page sub : Nat} {k : BitVec 36} (h_d : MemOk d) :
    MemOk (Dev.prismFault d engine code page sub k) := by
  unfold Dev.prismFault
  try dsimp only
  repeat' first
    | with_reducible assumption
    | with_reducible apply memOk_raise
    | with_reducible apply memOk_faultEvent
theorem memOk_readImageLines {d : Dev} {a : Attr} {page : Nat} {k : BitVec 36} {lines : List Nat} {label : Label} {who : BitVec 8} (h_d : MemOk d) :
    MemOk (Dev.readImageLines d a page k lines label who).2.2.2 := by
  unfold Dev.readImageLines
  try dsimp only
  repeat' first
    | with_reducible assumption
    | simp only [mk_iff, line_iff, lineMk_iff, wf_iff]
    | with_reducible apply memOk_rewrite
    | with_reducible apply memOk_noteLine
    | with_reducible apply each_ok222
    | intro _
    | split
theorem memOk_readImageLines_eq {d : Dev} {a : Attr} {page : Nat} {k : BitVec 36} {lines : List Nat} {label : Label} {who : BitVec 8} (h_d : MemOk d) {q0 : List Byte} {q1 : Bool} {q2 : Bool} {q3 : Dev} (hr : (Dev.readImageLines d a page k lines label who) = (q0, q1, q2, q3)) :
    MemOk q3 := by
  have h : MemOk (Dev.readImageLines d a page k lines label who).2.2.2 := memOk_readImageLines h_d
  rw [hr] at h
  exact h
theorem memOk_stage {d : Dev} {x : Staging} (h_d : MemOk d) :
    MemOk (Dev.stage d x) := by
  unfold Dev.stage
  try dsimp only
  repeat' first
    | with_reducible assumption
    | simp only [mk_iff, line_iff, lineMk_iff, wf_iff]
theorem memOk_decodeDone {d : Dev} {id : Nat} (h_d : MemOk d) :
    MemOk (Dev.decodeDone d id) := by
  unfold Dev.decodeDone
  try dsimp only
  repeat' first
    | with_reducible assumption
    | with_reducible apply memOk_bump
    | with_reducible apply memOk_answer
    | with_reducible apply memOk_dropDecode
    | with_reducible apply memOk_eachReq
    | with_reducible apply memOk_prismFault
    | with_reducible apply memOk_stage
    | intro _
    | split
theorem memOk_execPrismSubblockDecodeDone {dec : Nat} {s t : State} (h_s : MemOk s.dev) (hr : execPrismSubblockDecodeDone dec s = .next t) :
    MemOk t.dev := by
  unfold execPrismSubblockDecodeDone ok at hr
  cases hr
  show MemOk _
  repeat' first
    | with_reducible assumption
    | simp only [mk_iff, line_iff, lineMk_iff, wf_iff]
    | with_reducible apply memOk_flow
    | with_reducible apply memOk_decodeDone
theorem memOk_putLine {d : Dev} {a : Attr} {n page minor : Nat} {x : Option Line} (h_d : MemOk d) :
    MemOk (Dev.putLine d a n page minor x) := by
  unfold Dev.putLine
  try dsimp only
  repeat' first
    | with_reducible assumption
    | with_reducible apply memOk_setBurst
    | with_reducible apply memOk_supersede
theorem memOk_placePromotion {d : Dev} {p : Promo} {h : Line} (h_d : MemOk d) :
    MemOk (Dev.placePromotion d p h) := by
  unfold Dev.placePromotion
  try dsimp only
  repeat' first
    | with_reducible assumption
    | simp only [mk_iff, line_iff, lineMk_iff, wf_iff]
    | with_reducible apply memOk_bump
    | with_reducible apply memOk_markLost
    | with_reducible apply memOk_prismFault
    | with_reducible apply memOk_readImageLines
    | with_reducible apply memOk_putLine
    | with_reducible apply each_ok
    | intro _
    | split
theorem memOk_promotionDone {d : Dev} {e : Nat} (h_d : MemOk d) :
    MemOk (Dev.promotionDone d e) := by
  unfold Dev.promotionDone
  try dsimp only
  repeat' first
    | with_reducible assumption
    | simp only [mk_iff, line_iff, lineMk_iff, wf_iff]
    | with_reducible apply memOk_bump
    | with_reducible apply memOk_fetchHeader
    | with_reducible apply memOk_fail
    | with_reducible apply memOk_freeKnot
    | with_reducible apply memOk_credit
    | with_reducible apply memOk_changeKnot
    | with_reducible apply memOk_drawDecodes
    | with_reducible apply memOk_stage2
    | with_reducible apply memOk_eachReq
    | with_reducible apply memOk_placePromotion
    | intro _
    | split
theorem memOk_execPromotionDone {entry : Fin 32} {s t : State} (h_s : MemOk s.dev) (hr : execPromotionDone entry s = .next t) :
    MemOk t.dev := by
  unfold execPromotionDone ok at hr
  cases hr
  show MemOk _
  repeat' first
    | with_reducible assumption
    | simp only [mk_iff, line_iff, lineMk_iff, wf_iff]
    | with_reducible apply memOk_flow
    | with_reducible apply memOk_promotionDone
theorem memOk_overflowLines {d : Dev} {w : Wb} {h : Line} (h_d : MemOk d) :
    MemOk (Dev.overflowLines d w h).2 := by
  unfold Dev.overflowLines
  try dsimp only
  repeat' first
    | with_reducible assumption
    | simp only [mk_iff, line_iff, lineMk_iff, wf_iff]
    | with_reducible apply memOk_noteLine
    | with_reducible apply each_ok2
    | intro _
    | split
theorem memOk_overflowLines_eq {d : Dev} {w : Wb} {h : Line} (h_d : MemOk d) {q0 : List (Nat × Nat × Option Line)} {q1 : Dev} (hr : (Dev.overflowLines d w h) = (q0, q1)) :
    MemOk q1 := by
  have h : MemOk (Dev.overflowLines d w h).2 := memOk_overflowLines h_d
  rw [hr] at h
  exact h
theorem memOk_reseal {d : Dev} {w : Wb} {n : Nat} {x : Option Line} (h_d : MemOk d) :
    MemOk (Dev.reseal d w n x) := by
  unfold Dev.reseal
  try dsimp only
  repeat' first
    | with_reducible assumption
    | with_reducible apply memOk_setBurst
    | with_reducible apply memOk_dropRewrites
theorem memOk_placeOverflow {d : Dev} {w : Wb} {h : Line} {lines : List (Nat × Nat × Option Line)} (h_d : MemOk d) :
    MemOk (Dev.placeOverflow d w h lines) := by
  unfold Dev.placeOverflow
  try dsimp only
  repeat' first
    | with_reducible assumption
    | with_reducible apply memOk_bump
    | with_reducible apply memOk_setWb
    | with_reducible apply memOk_dropWb
    | with_reducible apply memOk_throughHeader
    | with_reducible apply memOk_reseal
    | with_reducible apply each_ok
    | intro _
    | split
theorem memOk_minorOverflow {d : Dev} {id : Nat} (h_d : MemOk d) :
    MemOk (Dev.minorOverflow d id) := by
  unfold Dev.minorOverflow
  try dsimp only
  repeat' first
    | with_reducible assumption
    | with_reducible apply memOk_dropWb
    | with_reducible (apply memOk_raiseMajor_eq (hr := by assumption))
    | with_reducible apply memOk_overflowLines
    | with_reducible apply memOk_placeOverflow
    | split
theorem memOk_execMinorOverflow {entry : Nat} {s t : State} (h_s : MemOk s.dev) (hr : execMinorOverflow entry s = .next t) :
    MemOk t.dev := by
  unfold execMinorOverflow ok at hr
  cases hr
  show MemOk _
  repeat' first
    | with_reducible assumption
    | simp only [mk_iff, line_iff, lineMk_iff, wf_iff]
    | with_reducible apply memOk_flow
    | with_reducible apply memOk_minorOverflow
theorem memOk_post {d : Dev} {s : Scope} {a : After} {keys : List (Nat × Nat)} (h_d : MemOk d) :
    MemOk (Dev.post d s a keys) := by
  unfold Dev.post
  try dsimp only
  repeat' first
    | with_reducible assumption
    | simp only [mk_iff, line_iff, lineMk_iff, wf_iff]
    | with_reducible apply memOk_fresh
theorem memOk_blankTable {d : Dev} {addr : Nat} (h_d : MemOk d) :
    MemOk (Dev.blankTable d addr) := by
  unfold Dev.blankTable
  try dsimp only
  repeat' first
    | with_reducible assumption
    | with_reducible apply memOk_blankLines
theorem memOk_makeS1 {d : Dev} {ld ext : Nat} {r0 : Dev} (h_d : MemOk d) (hr : (Dev.makeS1 d ld ext) = some r0) :
    MemOk r0 := by
  unfold Dev.makeS1 at hr
  try dsimp only at hr
  repeat' first
    | (simp only [Option.some.injEq, Prod.mk.injEq, Option.map_eq_some_iff, Option.bind_eq_some_iff, Except.ok.injEq, reduceCtorEq] at hr)
    | (subst hr)
    | (obtain ⟨_, _, hr⟩ := hr)
    | (split at hr)
    | with_reducible assumption
    | simp only [mk_iff, line_iff, lineMk_iff, wf_iff]
    | with_reducible apply memOk_writeEntry
    | with_reducible apply memOk_post
    | with_reducible apply memOk_blankTable
theorem memOk_makeS2 {d : Dev} {range : Nat} {r0 : Dev} (h_d : MemOk d) (hr : (Dev.makeS2 d range) = some r0) :
    MemOk r0 := by
  unfold Dev.makeS2 at hr
  try dsimp only at hr
  repeat' first
    | (simp only [Option.some.injEq, Prod.mk.injEq, Option.map_eq_some_iff, Option.bind_eq_some_iff, Except.ok.injEq, reduceCtorEq] at hr)
    | (subst hr)
    | (obtain ⟨_, _, hr⟩ := hr)
    | (split at hr)
    | with_reducible assumption
    | simp only [mk_iff, line_iff, lineMk_iff, wf_iff]
    | with_reducible apply memOk_writeEntry
    | with_reducible apply memOk_post
    | with_reducible apply memOk_blankTable
theorem memOk_setExt {d : Dev} {ld ext : Nat} {v : BitVec 64} (h_d : MemOk d) :
    MemOk (Dev.setExt d ld ext v) := by
  unfold Dev.setExt
  try dsimp only
  repeat' first
    | with_reducible assumption
    | with_reducible apply memOk_writeEntry
    | with_reducible apply elim_ok
    | intro _
theorem memOk_setS2 {d : Dev} {range : Nat} {v : BitVec 64} (h_d : MemOk d) :
    MemOk (Dev.setS2 d range v) := by
  unfold Dev.setS2
  try dsimp only
  repeat' first
    | with_reducible assumption
    | with_reducible apply memOk_writeEntry
    | with_reducible apply elim_ok
    | intro _
theorem memOk_initUnit {d : Dev} {u : Nat} {a : Attr} (h_d : MemOk d) :
    MemOk (Dev.initUnit d u a) := by
  unfold Dev.initUnit
  try dsimp only
  repeat' first
    | with_reducible assumption
    | simp only [mk_iff, line_iff, lineMk_iff, wf_iff]
    | with_reducible apply memOk_blankLines
    | with_reducible apply memOk_ctPut
    | with_reducible apply memOk_writeBackLine
    | with_reducible apply memOk_ctEvict
    | with_reducible apply memOk_initTree
    | with_reducible apply memOk_fetchHeader
    | with_reducible apply memOk_resetHeader
    | with_reducible apply each_ok
    | intro _
    | split
theorem memOk_openRange {d : Dev} {r : Region} {unit : Nat} {r0 : Nat} {r1 : Dev} (h_d : MemOk d) (hr : (Dev.openRange d r unit) = some (r0, r1)) :
    MemOk r1 := by
  unfold Dev.openRange at hr
  try dsimp only at hr
  repeat' first
    | (simp only [Option.some.injEq, Prod.mk.injEq, Option.map_eq_some_iff, Option.bind_eq_some_iff, Except.ok.injEq, reduceCtorEq] at hr)
    | (obtain ⟨rfl, rfl⟩ := hr)
    | (obtain ⟨_, _, hr⟩ := hr)
    | (split at hr)
    | with_reducible assumption
    | simp only [mk_iff, line_iff, lineMk_iff, wf_iff]
    | with_reducible apply memOk_post
    | with_reducible (apply memOk_makeS2 (hr := by assumption))
    | with_reducible apply memOk_setS2
    | with_reducible apply memOk_initUnit
theorem memOk_markUnits {d : Dev} {ld : Nat} {p : Nat → Bool} {from_ dest : ExtSt} (h_d : MemOk d) :
    MemOk (Dev.markUnits d ld p from_ dest) := by
  unfold Dev.markUnits
  try dsimp only
  repeat' first
    | with_reducible assumption
    | with_reducible apply memOk_modLd
theorem memOk_addExtent {d : Dev} {ld : Nat} {x : Extent} (h_d : MemOk d) :
    MemOk (Dev.addExtent d ld x) := by
  unfold Dev.addExtent
  try dsimp only
  repeat' first
    | with_reducible assumption
    | with_reducible apply memOk_modLd
theorem memOk_setPlace {d : Dev} {ld unit place : Nat} (h_d : MemOk d) :
    MemOk (Dev.setPlace d ld unit place) := by
  unfold Dev.setPlace
  try dsimp only
  repeat' first
    | with_reducible assumption
    | with_reducible apply memOk_modLd

end Sys2Proof.Laws
end

