-- ==== Sys2Proof/Laws/MemOk3.lean ====
section
/-! SUPPORT. Every operation of the model keeps the media contents in their canonical form: one lemma an operation, and one a command's meaning (part 3 of 8). -/

set_option linter.unusedSimpArgs false
set_option linter.unusedVariables false

namespace Sys2Proof.Laws

open Sys2Proof Sys2Proof.Machine

theorem memOk_suspend {d : Dev} {ld cond : Nat} (h_d : MemOk d) :
    MemOk (Dev.suspend d ld cond) := by
  unfold Dev.suspend
  try dsimp only
  repeat' first
    | with_reducible assumption
    | with_reducible apply memOk_modLd
    | with_reducible apply memOk_raise
    | split
theorem memOk_restore {d : Dev} {ld cond : Nat} (h_d : MemOk d) :
    MemOk (Dev.restore d ld cond) := by
  unfold Dev.restore
  try dsimp only
  repeat' first
    | with_reducible assumption
    | with_reducible apply memOk_modLd
    | with_reducible apply memOk_raise
    | split
theorem memOk_faultRecord {d : Dev} {ld : Option Nat} {addr : Nat} {f : WFault} (h_d : MemOk d) :
    MemOk (Dev.faultRecord d ld addr f) := by
  unfold Dev.faultRecord
  try dsimp only
  repeat' first
    | with_reducible assumption
    | with_reducible apply memOk_doorbell
    | with_reducible apply memOk_raiseAt
theorem memOk_pinEntry {d : Dev} {x : XEntry} (h_d : MemOk d) :
    MemOk (Dev.pinEntry d x).2 := by
  unfold Dev.pinEntry
  try dsimp only
  repeat' first
    | with_reducible assumption
    | simp only [mk_iff, line_iff, lineMk_iff, wf_iff]
    | with_reducible apply memOk_readTable
    | with_reducible apply memOk_xcFill
    | with_reducible apply memOk_suspend
    | with_reducible apply memOk_faultRecord
    | split
theorem memOk_pinEntry_eq {d : Dev} {x : XEntry} (h_d : MemOk d) {q0 : Bool} {q1 : Dev} (hr : (Dev.pinEntry d x) = (q0, q1)) :
    MemOk q1 := by
  have h : MemOk (Dev.pinEntry d x).2 := memOk_pinEntry h_d
  rw [hr] at h
  exact h
theorem memOk_pinExt {d : Dev} {ld ext : Nat} (h_d : MemOk d) :
    MemOk (Dev.pinExt d ld ext) := by
  unfold Dev.pinExt
  try dsimp only
  repeat' first
    | with_reducible assumption
    | with_reducible apply memOk_pinEntry
    | split
theorem memOk_repin {d : Dev} (h_d : MemOk d) :
    MemOk (Dev.repin d) := by
  unfold Dev.repin
  try dsimp only
  repeat' first
    | with_reducible assumption
    | simp only [mk_iff, line_iff, lineMk_iff, wf_iff]
    | with_reducible apply memOk_pinExt
    | with_reducible apply each_ok
    | intro _
    | split
theorem memOk_cdat {d : Dev} {ld : Nat} (h_d : MemOk d) :
    MemOk (Dev.cdat d ld) := by
  unfold Dev.cdat
  try dsimp only
  repeat' first
    | with_reducible assumption
    | with_reducible apply memOk_modLd
    | with_reducible apply memOk_raiseAlways
theorem memOk_dcRecords {y0 : Nat} {y1 : Dev} {y2 : Nat} {y3 : Bool} {y4 : List (Nat × Nat)} {y5 : BitVec 16} (h_y1 : MemOk y1) :
    MemOk (Dev.dcRecords y0 y1 y2 y3 y4 y5) := by
  induction y0 generalizing y1 y2 y3 y4 y5 with
  | zero =>
    unfold Dev.dcRecords
    repeat' first
      | with_reducible assumption
  | succ k ih =>
    unfold Dev.dcRecords
    try dsimp only
    repeat' first
      | with_reducible assumption
      | with_reducible apply ih
      | with_reducible apply memOk_record
      | split
theorem memOk_dcEvent {d : Dev} {ld : Nat} {release : Bool} {exts : List (Nat × Nat)} {tag : BitVec 16} (h_d : MemOk d) :
    MemOk (Dev.dcEvent d ld release exts tag) := by
  unfold Dev.dcEvent
  try dsimp only
  repeat' first
    | with_reducible assumption
    | with_reducible apply memOk_dcRecords
theorem memOk_finish {d : Dev} {box counts st : Nat} {ret : Ret} {out : List Byte} (h_d : MemOk d) :
    MemOk (Dev.finish d box counts st ret out) := by
  unfold Dev.finish
  try dsimp only
  repeat' first
    | with_reducible assumption
    | with_reducible apply memOk_modBox
    | with_reducible apply memOk_say
    | with_reducible apply memOk_bumpLd
theorem memOk_reply {d : Dev} {iss : Issuer} {st : Status} {body : List Byte} {noWork : Bool} (h_d : MemOk d) :
    MemOk (Dev.reply d iss st body noWork) := by
  unfold Dev.reply
  try dsimp only
  repeat' first
    | with_reducible assumption
    | with_reducible apply memOk_finish
theorem memOk_refuse {d : Dev} {iss : Issuer} {st : Status} {n : Nat} (h_d : MemOk d) :
    MemOk (Dev.refuse d iss st n) := by
  unfold Dev.refuse
  try dsimp only
  repeat' first
    | with_reducible assumption
    | with_reducible apply memOk_reply
theorem memOk_badLength {d : Dev} {iss : Issuer} (h_d : MemOk d) :
    MemOk (Dev.badLength d iss) := by
  unfold Dev.badLength
  try dsimp only
  repeat' first
    | with_reducible assumption
    | with_reducible apply memOk_refuse
theorem memOk_answerStd {d : Dev} {iss : Issuer} {ret : Ret} {out : List Byte} (h_d : MemOk d) :
    MemOk (Dev.answerStd d iss ret out) := by
  unfold Dev.answerStd
  try dsimp only
  repeat' first
    | with_reducible assumption
    | with_reducible apply memOk_finish
theorem memOk_startBg {d : Dev} {iss : Issuer} {opcode : Nat} {job : Option Nat} (h_d : MemOk d) :
    MemOk (Dev.startBg d iss opcode job) := by
  unfold Dev.startBg
  try dsimp only
  repeat' first
    | with_reducible assumption
    | with_reducible apply memOk_modBox
    | with_reducible apply memOk_say
theorem memOk_endBgRet {d : Dev} {box : Nat} {ret : Ret} {st : Nat} {out : List Byte} (h_d : MemOk d) :
    MemOk (Dev.endBgRet d box ret st out) := by
  unfold Dev.endBgRet
  try dsimp only
  repeat' first
    | with_reducible assumption
    | with_reducible apply memOk_modBox
    | with_reducible apply memOk_vecEvent
    | with_reducible apply memOk_finish
    | split
theorem memOk_endBg {d : Dev} {box : Nat} {st : Status} {body : List Byte} {noWork : Bool} (h_d : MemOk d) :
    MemOk (Dev.endBg d box st body noWork) := by
  unfold Dev.endBg
  try dsimp only
  repeat' first
    | with_reducible assumption
    | with_reducible apply memOk_endBgRet
theorem memOk_command {d : Dev} {iss : Issuer} {opcode : Nat} {f : Dev → Dev} (h_d : MemOk d) (h_f : ∀ (x0 : Dev), MemOk x0 → MemOk (f x0)) :
    MemOk (Dev.command d iss opcode f) := by
  unfold Dev.command
  try dsimp only
  repeat' first
    | with_reducible assumption
    | with_reducible apply h_f
    | with_reducible apply memOk_doorbell
    | with_reducible apply memOk_finish
    | split
theorem memOk_dropScope {d : Dev} {s : Scope} (h_d : MemOk d) :
    MemOk (Dev.dropScope d s).2.2 := by
  unfold Dev.dropScope
  try dsimp only
  repeat' first
    | with_reducible assumption
    | simp only [mk_iff, line_iff, lineMk_iff, wf_iff]
    | with_reducible apply memOk_kcWriteRecs
    | with_reducible apply memOk_pinEntry
    | with_reducible apply each_ok
    | with_reducible apply each_ok2
    | intro _
theorem memOk_dropScope_eq {d : Dev} {s : Scope} (h_d : MemOk d) {q0 : Nat} {q1 : Nat} {q2 : Dev} (hr : (Dev.dropScope d s) = (q0, q1, q2)) :
    MemOk q2 := by
  have h : MemOk (Dev.dropScope d s).2.2 := memOk_dropScope h_d
  rw [hr] at h
  exact h
theorem memOk_applyChanges {d : Dev} (h_d : MemOk d) :
    MemOk (Dev.applyChanges d) := by
  unfold Dev.applyChanges
  try dsimp only
  repeat' first
    | with_reducible assumption
    | simp only [mk_iff, line_iff, lineMk_iff, wf_iff]
    | with_reducible apply memOk_dropScope
    | with_reducible apply each_ok
    | intro _
theorem memOk_dropSharer {d : Dev} {ld lo hi : Nat} (h_d : MemOk d) :
    MemOk (Dev.dropSharer d ld lo hi) := by
  unfold Dev.dropSharer
  try dsimp only
  repeat' first
    | with_reducible assumption
    | simp only [mk_iff, line_iff, lineMk_iff, wf_iff]
    | with_reducible apply memOk_setDe
    | with_reducible apply memOk_settleHome
    | with_reducible apply each_ok
    | intro _
    | split
theorem memOk_takePage {d : Dev} {a : Attr} {page : Nat} (h_d : MemOk d) :
    MemOk (Dev.takePage d a page).2 := by
  unfold Dev.takePage
  try dsimp only
  repeat' first
    | with_reducible assumption
    | simp only [mk_iff, line_iff, lineMk_iff, wf_iff]
    | with_reducible apply memOk_resetPage
    | with_reducible apply memOk_stickPage
    | with_reducible apply memOk_faultRecord
    | split
theorem memOk_takePage_eq {d : Dev} {a : Attr} {page : Nat} (h_d : MemOk d) {q0 : Bool} {q1 : Dev} (hr : (Dev.takePage d a page) = (q0, q1)) :
    MemOk q1 := by
  have h : MemOk (Dev.takePage d a page).2 := memOk_takePage h_d
  rw [hr] at h
  exact h
theorem memOk_takePages {d : Dev} {range : Nat} (h_d : MemOk d) :
    MemOk (Dev.takePages d range).2 := by
  unfold Dev.takePages
  try dsimp only
  repeat' first
    | with_reducible assumption
    | simp only [mk_iff, line_iff, lineMk_iff, wf_iff]
    | with_reducible apply memOk_takePage
    | with_reducible apply each_ok2
    | intro _
theorem memOk_takePages_eq {d : Dev} {range : Nat} (h_d : MemOk d) {q0 : Bool} {q1 : Dev} (hr : (Dev.takePages d range) = (q0, q1)) :
    MemOk q1 := by
  have h : MemOk (Dev.takePages d range).2 := memOk_takePages h_d
  rw [hr] at h
  exact h
theorem memOk_freeS1 {d : Dev} {ld ext : Nat} (h_d : MemOk d) :
    MemOk (Dev.freeS1 d ld ext) := by
  unfold Dev.freeS1
  try dsimp only
  repeat' first
    | with_reducible assumption
    | simp only [mk_iff, line_iff, lineMk_iff, wf_iff]
    | with_reducible apply memOk_writeEntry
    | with_reducible apply memOk_post
    | split
theorem memOk_freeS2 {d : Dev} {range : Nat} (h_d : MemOk d) :
    MemOk (Dev.freeS2 d range) := by
  unfold Dev.freeS2
  try dsimp only
  repeat' first
    | with_reducible assumption
    | simp only [mk_iff, line_iff, lineMk_iff, wf_iff]
    | with_reducible apply memOk_writeEntry
    | with_reducible apply memOk_post
    | split
theorem memOk_freeUnitMedia {d : Dev} {knotted reflected : Bool} {dev place : Nat} (h_d : MemOk d) :
    MemOk (Dev.freeUnitMedia d knotted reflected dev place) := by
  unfold Dev.freeUnitMedia
  split
  · exact h_d
  · split
    · exact memOk_freeBigFrame h_d
    · split
      · exact h_d
      · split
        rename_i all d' h
        have h' : MemOk d' := memOk_takePages_eq h_d h
        split
        · exact memOk_post (memOk_setS2 h')
        · exact h'
theorem memOk_freeDrained {d : Dev} {ld : Nat} {p : Nat → Bool} {reflected knotted : Bool} (h_d : MemOk d) :
    MemOk (Dev.freeDrained d ld p reflected knotted) := by
  unfold Dev.freeDrained
  try dsimp only
  repeat' first
    | with_reducible assumption
    | with_reducible apply memOk_modLd
    | with_reducible apply memOk_freeS1
    | with_reducible apply memOk_freeUnitMedia
    | with_reducible apply each_ok
    | intro _
    | split
theorem memOk_closeRange {d : Dev} {range : Nat} (h_d : MemOk d) :
    MemOk (Dev.closeRange d range) := by
  unfold Dev.closeRange
  try dsimp only
  repeat' first
    | with_reducible assumption
    | simp only [mk_iff, line_iff, lineMk_iff, wf_iff]
    | with_reducible apply memOk_freeS2
theorem memOk_endMove {d : Dev} {id : Nat} (h_d : MemOk d) :
    MemOk (Dev.endMove d id) := by
  unfold Dev.endMove
  try dsimp only
  repeat' first
    | with_reducible assumption
    | simp only [mk_iff, line_iff, lineMk_iff, wf_iff]
    | with_reducible apply memOk_freeKnot
    | with_reducible apply memOk_credit
    | with_reducible apply memOk_clearRecall
    | split
theorem memOk_endExtMove {d : Dev} {reg : Nat} (h_d : MemOk d) :
    MemOk (Dev.endExtMove d reg) := by
  unfold Dev.endExtMove
  try dsimp only
  repeat' first
    | with_reducible assumption
    | simp only [mk_iff, line_iff, lineMk_iff, wf_iff]
    | with_reducible apply memOk_freeBigFrame
    | with_reducible apply memOk_clearRecall
    | split
theorem memOk_after {d : Dev} {a : After} (h_d : MemOk d) :
    MemOk (Dev.after d a) := by
  unfold Dev.after
  try dsimp only
  repeat' first
    | with_reducible assumption
    | simp only [mk_iff, line_iff, lineMk_iff, wf_iff]
    | with_reducible apply memOk_endBg
    | with_reducible apply memOk_freeDrained
    | with_reducible apply memOk_closeRange
    | with_reducible apply memOk_endMove
    | with_reducible apply memOk_endExtMove
    | split
theorem memOk_changeDrained {d : Dev} {id : Nat} (h_d : MemOk d) :
    MemOk (Dev.changeDrained d id) := by
  unfold Dev.changeDrained
  try dsimp only
  repeat' first
    | with_reducible assumption
    | simp only [mk_iff, line_iff, lineMk_iff, wf_iff]
    | with_reducible apply memOk_after
    | split
theorem memOk_execChangeDrained {change : Nat} {s t : State} (h_s : MemOk s.dev) (hr : execChangeDrained change s = .next t) :
    MemOk t.dev := by
  unfold execChangeDrained ok at hr
  cases hr
  show MemOk _
  repeat' first
    | with_reducible assumption
    | simp only [mk_iff, line_iff, lineMk_iff, wf_iff]
    | with_reducible apply memOk_flow
    | with_reducible apply memOk_changeDrained
theorem memOk_tableInval {d : Dev} {iss : Issuer} {inp : List Byte} (h_d : MemOk d) :
    MemOk (Dev.tableInval d iss inp) := by
  unfold Dev.tableInval
  try dsimp only
  repeat' first
    | with_reducible assumption
    | with_reducible apply memOk_post
    | with_reducible apply memOk_reply
    | with_reducible apply memOk_refuse
    | with_reducible apply memOk_badLength
    | with_reducible apply memOk_startBg
    | split
theorem memOk_execTableInval {iss : Issuer} {inp : List Byte} {s t : State} (h_s : MemOk s.dev) (hr : execTableInval iss inp s = .next t) :
    MemOk t.dev := by
  unfold execTableInval ok at hr
  cases hr
  show MemOk _
  repeat' first
    | with_reducible assumption
    | simp only [mk_iff, line_iff, lineMk_iff, wf_iff]
    | with_reducible apply memOk_command
    | with_reducible apply memOk_tableInval
    | intro _
theorem memOk_pokeLine {d : Dev} {n : Nat} (h_d : MemOk d) :
    MemOk (Dev.pokeLine d n).2.2 := by
  unfold Dev.pokeLine
  try dsimp only
  repeat' first
    | with_reducible assumption
    | simp only [mk_iff, line_iff, lineMk_iff, wf_iff]
    | with_reducible apply memOk_readTable
    | split
theorem memOk_pokeLine_eq {d : Dev} {n : Nat} (h_d : MemOk d) {q0 : Line} {q1 : Bool} {q2 : Dev} (hr : (Dev.pokeLine d n) = (q0, q1, q2)) :
    MemOk q2 := by
  have h : MemOk (Dev.pokeLine d n).2.2 := memOk_pokeLine h_d
  rw [hr] at h
  exact h
theorem memOk_poke {d : Dev} {addr off w v : Nat} (h_d : MemOk d) :
    MemOk (Dev.poke d addr off w v).2.2 := by
  unfold Dev.poke
  try dsimp only
  repeat' first
    | with_reducible assumption
    | simp only [mk_iff, line_iff, lineMk_iff, wf_iff]
    | with_reducible apply memOk_writeTable
    | with_reducible apply memOk_pokeLine
    | split
theorem memOk_poke_eq {d : Dev} {addr off w v : Nat} (h_d : MemOk d) {q0 : Nat} {q1 : Bool} {q2 : Dev} (hr : (Dev.poke d addr off w v) = (q0, q1, q2)) :
    MemOk q2 := by
  have h : MemOk (Dev.poke d addr off w v).2.2 := memOk_poke h_d
  rw [hr] at h
  exact h
theorem memOk_diagPoke {d : Dev} {iss : Issuer} {inp : List Byte} (h_d : MemOk d) :
    MemOk (Dev.diagPoke d iss inp) := by
  unfold Dev.diagPoke
  try dsimp only
  repeat' first
    | with_reducible assumption
    | with_reducible apply memOk_reply
    | with_reducible apply memOk_refuse
    | with_reducible apply memOk_badLength
    | with_reducible apply memOk_poke
    | split
theorem memOk_execDiagPoke {iss : Issuer} {inp : List Byte} {s t : State} (h_s : MemOk s.dev) (hr : execDiagPoke iss inp s = .next t) :
    MemOk t.dev := by
  unfold execDiagPoke ok at hr
  cases hr
  show MemOk _
  repeat' first
    | with_reducible assumption
    | simp only [mk_iff, line_iff, lineMk_iff, wf_iff]
    | with_reducible apply memOk_command
    | with_reducible apply memOk_diagPoke
    | intro _
theorem memOk_countIdle {d : Dev} {ch sub i : Nat} {turn : Bool} (h_d : MemOk d) :
    MemOk (Dev.countIdle d ch sub i turn) := by
  unfold Dev.countIdle
  try dsimp only
  repeat' first
    | with_reducible assumption
    | with_reducible apply memOk_bump
    | split
theorem memOk_countTo {d : Dev} {ch sub i : Nat} (h_d : MemOk d) :
    MemOk (Dev.countTo d ch sub i) := by
  unfold Dev.countTo
  try dsimp only
  repeat' first
    | with_reducible assumption
    | with_reducible apply memOk_modChan
    | with_reducible apply memOk_countIdle
    | with_reducible apply each_ok
    | intro _
theorem memOk_setBank {d : Dev} {k : Nat} {b : Bank} (h_d : MemOk d) :
    MemOk (Dev.setBank d k b) := by
  unfold Dev.setBank
  try dsimp only
  repeat' first
    | with_reducible assumption
    | simp only [mk_iff, line_iff, lineMk_iff, wf_iff]
theorem memOk_activate {d : Dev} {a : Acc} (h_d : MemOk d) :
    MemOk (Dev.activate d a) := by
  unfold Dev.activate
  try dsimp only
  repeat' first
    | with_reducible assumption
    | with_reducible apply memOk_bump
    | with_reducible apply memOk_setBank
theorem memOk_tryRfm {d : Dev} {k g : Nat} (h_d : MemOk d) :
    MemOk (Dev.tryRfm d k g) := by
  unfold Dev.tryRfm
  try dsimp only
  repeat' first
    | with_reducible assumption
    | with_reducible apply memOk_setChan
    | with_reducible apply memOk_bump
    | with_reducible apply memOk_setBank
    | split
theorem memOk_heldRfms {d : Dev} {ch : Nat} (h_d : MemOk d) :
    MemOk (Dev.heldRfms d ch) := by
  unfold Dev.heldRfms
  try dsimp only
  repeat' first
    | with_reducible assumption
    | with_reducible apply memOk_tryRfm
    | with_reducible apply each_ok
    | intro _
theorem memOk_rowTrip {d : Dev} {ch rank sub bank g : Nat} (h_d : MemOk d) :
    MemOk (Dev.rowTrip d ch rank sub bank g) := by
  unfold Dev.rowTrip
  try dsimp only
  repeat' first
    | with_reducible assumption
    | with_reducible apply memOk_bump
    | with_reducible apply memOk_doorbell
    | with_reducible apply memOk_raiseAt
    | with_reducible apply memOk_setBank
    | with_reducible apply memOk_tryRfm
    | split
theorem memOk_execRowDisturbanceTrip {ch : Fin 8} {rank : Fin 4} {sub : Fin 2} {bank : Fin 32} {group : Nat} {s t : State} (h_s : MemOk s.dev) (hr : execRowDisturbanceTrip ch rank sub bank group s = .next t) :
    MemOk t.dev := by
  unfold execRowDisturbanceTrip ok at hr
  cases hr
  show MemOk _
  repeat' first
    | with_reducible assumption
    | simp only [mk_iff, line_iff, lineMk_iff, wf_iff]
    | with_reducible apply memOk_rowTrip
theorem memOk_capExpiry {d : Dev} {k : Nat} (h_d : MemOk d) :
    MemOk (Dev.capExpiry d k) := by
  unfold Dev.capExpiry
  try dsimp only
  repeat' first
    | with_reducible assumption
    | with_reducible apply memOk_setBank
theorem memOk_capExpiries {d : Dev} {ch rank sub bank : Nat} (h_d : MemOk d) :
    MemOk (Dev.capExpiries d ch rank sub bank) := by
  unfold Dev.capExpiries
  try dsimp only
  repeat' first
    | with_reducible assumption
    | with_reducible apply memOk_capExpiry
    | with_reducible apply each_ok
    | intro _
theorem memOk_execRowCapExpiry {ch : Fin 8} {rank : Fin 4} {sub : Fin 2} {bank : Fin 32} {s t : State} (h_s : MemOk s.dev) (hr : execRowCapExpiry ch rank sub bank s = .next t) :
    MemOk t.dev := by
  unfold execRowCapExpiry ok at hr
  cases hr
  show MemOk _
  repeat' first
    | with_reducible assumption
    | simp only [mk_iff, line_iff, lineMk_iff, wf_iff]
    | with_reducible apply memOk_capExpiries
theorem memOk_issueAcc {d : Dev} {a : Acc} {hit : Bool} (h_d : MemOk d) :
    MemOk (Dev.issueAcc d a hit) := by
  unfold Dev.issueAcc
  try dsimp only
  repeat' first
    | with_reducible assumption
    | simp only [mk_iff, line_iff, lineMk_iff, wf_iff]
    | with_reducible apply memOk_bump
    | with_reducible apply memOk_dropAcc
    | with_reducible apply memOk_issueWrite
    | with_reducible apply memOk_activate
    | split
theorem memOk_slotFill {d : Dev} {ch sub i : Nat} {l : List (Nat × Bool)} {turn : Bool} (h_d : MemOk d) :
    MemOk (Dev.slotFill d ch sub i l turn) := by
  unfold Dev.slotFill
  try dsimp only
  repeat' first
    | with_reducible assumption
    | with_reducible apply memOk_modChan
    | with_reducible apply memOk_countIdle
    | with_reducible apply memOk_countTo
    | with_reducible apply memOk_heldRfms
    | with_reducible apply memOk_issueAcc
    | split
theorem memOk_scrubBegin {d : Dev} (h_d : MemOk d) :
    MemOk (Dev.scrubBegin d) := by
  unfold Dev.scrubBegin
  try dsimp only
  repeat' first
    | with_reducible assumption
    | simp only [mk_iff, line_iff, lineMk_iff, wf_iff]
theorem memOk_scrubRead {d : Dev} (h_d : MemOk d) :
    MemOk (Dev.scrubRead d) := by
  unfold Dev.scrubRead
  try dsimp only
  repeat' first
    | with_reducible assumption
    | simp only [mk_iff, line_iff, lineMk_iff, wf_iff]
    | with_reducible apply memOk_doorbell
    | with_reducible apply memOk_fresh
    | with_reducible apply memOk_addAcc
    | with_reducible apply memOk_scrubBegin
    | split
theorem memOk_execPatrolScrubRead  {s t : State} (h_s : MemOk s.dev) (hr : execPatrolScrubRead s = .next t) :
    MemOk t.dev := by
  unfold execPatrolScrubRead ok at hr
  cases hr
  show MemOk _
  repeat' first
    | with_reducible assumption
    | simp only [mk_iff, line_iff, lineMk_iff, wf_iff]
    | with_reducible apply memOk_scrubRead
theorem memOk_scrubTooLate {d : Dev} (h_d : MemOk d) :
    MemOk (Dev.scrubTooLate d) := by
  unfold Dev.scrubTooLate
  try dsimp only
  repeat' first
    | with_reducible assumption
    | simp only [mk_iff, line_iff, lineMk_iff, wf_iff]
    | with_reducible apply memOk_raise
    | split
theorem memOk_execScrubLate  {s t : State} (h_s : MemOk s.dev) (hr : execScrubLate s = .next t) :
    MemOk t.dev := by
  unfold execScrubLate ok at hr
  cases hr
  show MemOk _
  repeat' first
    | with_reducible assumption
    | simp only [mk_iff, line_iff, lineMk_iff, wf_iff]
    | with_reducible apply memOk_scrubTooLate
theorem memOk_scrubJudge {d : Dev} {a : Acc} {err : Burst} (h_d : MemOk d) :
    MemOk (Dev.scrubJudge d a err).2 := by
  unfold Dev.scrubJudge
  try dsimp only
  repeat' first
    | with_reducible assumption
    | simp only [mk_iff, line_iff, lineMk_iff, wf_iff]
    | with_reducible apply memOk_bump
    | with_reducible apply memOk_setBurst
    | with_reducible apply memOk_noteVerdict
    | with_reducible apply memOk_wantContent
    | with_reducible apply memOk_rewrite
    | with_reducible apply memOk_uncorrectable
    | split
theorem memOk_scrubJudge_eq {d : Dev} {a : Acc} {err : Burst} (h_d : MemOk d) {q0 : Option Verdict} {q1 : Dev} (hr : (Dev.scrubJudge d a err) = (q0, q1)) :
    MemOk q1 := by
  have h : MemOk (Dev.scrubJudge d a err).2 := memOk_scrubJudge h_d
  rw [hr] at h
  exact h
theorem memOk_scrubReturn {d : Dev} {a : Acc} {err : Burst} (h_d : MemOk d) :
    MemOk (Dev.scrubReturn d a err) := by
  unfold Dev.scrubReturn
  try dsimp only
  repeat' first
    | with_reducible assumption
    | with_reducible apply memOk_scrubJudge
theorem memOk_scrubJobRead {d : Dev} {q : Req} {a : Acc} {err : Burst} (h_d : MemOk d) :
    MemOk (Dev.scrubJobRead d q a err) := by
  unfold Dev.scrubJobRead
  try dsimp only
  repeat' first
    | with_reducible assumption
    | simp only [mk_iff, line_iff, lineMk_iff, wf_iff]
    | with_reducible apply memOk_answer
    | with_reducible apply memOk_scrubJudge
theorem memOk_dataReturn {d : Dev} {id : Nat} {err : Burst} (h_d : MemOk d) :
    MemOk (Dev.dataReturn d id err) := by
  unfold Dev.dataReturn
  try dsimp only
  repeat' first
    | with_reducible assumption
    | with_reducible apply memOk_dropAcc
    | with_reducible apply memOk_returnRead
    | with_reducible apply memOk_returnMerge
    | with_reducible apply memOk_returnImage
    | with_reducible apply memOk_scrubReturn
    | with_reducible apply memOk_scrubJobRead
    | split
theorem memOk_fromBuffer {d : Dev} {ch : Nat} (h_d : MemOk d) :
    MemOk (Dev.fromBuffer d ch) := by
  unfold Dev.fromBuffer
  try dsimp only
  repeat' first
    | with_reducible assumption
    | simp only [mk_iff, line_iff, lineMk_iff, wf_iff]
    | with_reducible apply memOk_dropAcc
    | with_reducible apply memOk_issueWrite
    | with_reducible apply memOk_dataReturn
    | with_reducible apply each_ok
    | intro _
    | split
theorem memOk_execDramReadDataReturn {acc : Nat} {err : Burst} {s t : State} (h_s : MemOk s.dev) (hr : execDramReadDataReturn acc err s = .next t) :
    MemOk t.dev := by
  unfold execDramReadDataReturn ok at hr
  cases hr
  show MemOk _
  repeat' first
    | with_reducible assumption
    | simp only [mk_iff, line_iff, lineMk_iff, wf_iff]
    | with_reducible apply memOk_flow
    | with_reducible apply memOk_dataReturn
theorem memOk_execDramSlotFill {ch : Fin 8} {sub : Fin 2} {slot : Nat} {eligible : List (Nat × Bool)} {turnaround : Bool} {s t : State} (h_s : MemOk s.dev) (hr : execDramSlotFill ch sub slot eligible turnaround s = .next t) :
    MemOk t.dev := by
  unfold execDramSlotFill ok at hr
  cases hr
  show MemOk _
  repeat' first
    | with_reducible assumption
    | simp only [mk_iff, line_iff, lineMk_iff, wf_iff]
    | with_reducible apply memOk_flow
    | with_reducible apply memOk_slotFill
    | with_reducible apply memOk_fromBuffer
theorem memOk_halveBanks {d : Dev} {ch : Nat} (h_d : MemOk d) :
    MemOk (Dev.halveBanks d ch) := by
  unfold Dev.halveBanks
  try dsimp only
  repeat' first
    | with_reducible assumption
    | simp only [mk_iff, line_iff, lineMk_iff, wf_iff]
theorem memOk_windowStart {d : Dev} {half : Bool} (h_d : MemOk d) :
    MemOk (Dev.windowStart d half) := by
  unfold Dev.windowStart
  try dsimp only
  repeat' first
    | with_reducible assumption
    | with_reducible apply memOk_modChan
    | with_reducible apply memOk_halveBanks
    | with_reducible apply each_ok
    | intro _
    | split
theorem memOk_execRefreshWindowStart {half : Bool} {s t : State} (h_s : MemOk s.dev) (hr : execRefreshWindowStart half s = .next t) :
    MemOk t.dev := by
  unfold execRefreshWindowStart ok at hr
  cases hr
  show MemOk _
  repeat' first
    | with_reducible assumption
    | simp only [mk_iff, line_iff, lineMk_iff, wf_iff]
    | with_reducible apply memOk_windowStart
theorem memOk_execRefreshWindowEnd {ch : Fin 8} {s t : State} (h_s : MemOk s.dev) (hr : execRefreshWindowEnd ch s = .next t) :
    MemOk t.dev := by
  unfold execRefreshWindowEnd ok at hr
  cases hr
  show MemOk _
  repeat' first
    | with_reducible assumption
    | simp only [mk_iff, line_iff, lineMk_iff, wf_iff]
    | with_reducible apply memOk_modChan
    | with_reducible apply memOk_flow
    | with_reducible apply memOk_heldRfms
theorem memOk_thermalRead {d : Dev} {celsius : List Nat} (h_d : MemOk d) :
    MemOk (Dev.thermalRead d celsius) := by
  unfold Dev.thermalRead
  try dsimp only
  repeat' first
    | with_reducible assumption
    | simp only [mk_iff, line_iff, lineMk_iff, wf_iff]
theorem memOk_execModuleThermalRead {celsius : List Nat} {s t : State} (h_s : MemOk s.dev) (hr : execModuleThermalRead celsius s = .next t) :
    MemOk t.dev := by
  unfold execModuleThermalRead ok at hr
  cases hr
  show MemOk _
  repeat' first
    | with_reducible assumption
    | simp only [mk_iff, line_iff, lineMk_iff, wf_iff]
    | with_reducible apply memOk_thermalRead
theorem memOk_driftCheck {d : Dev} {readings : List Nat} (h_d : MemOk d) :
    MemOk (Dev.driftCheck d readings) := by
  unfold Dev.driftCheck
  try dsimp only
  repeat' first
    | with_reducible assumption
    | simp only [mk_iff, line_iff, lineMk_iff, wf_iff]
    | with_reducible apply memOk_setChan
    | with_reducible apply each_ok
    | intro _
    | split
theorem memOk_execDriftCheck {readings : List Nat} {s t : State} (h_s : MemOk s.dev) (hr : execDriftCheck readings s = .next t) :
    MemOk t.dev := by
  unfold execDriftCheck ok at hr
  cases hr
  show MemOk _
  repeat' first
    | with_reducible assumption
    | simp only [mk_iff, line_iff, lineMk_iff, wf_iff]
    | with_reducible apply memOk_driftCheck
theorem memOk_repairLine {d : Dev} {h : Nat} {p : Place} {err : Burst} (h_d : MemOk d) :
    MemOk (Dev.repairLine d h p err) := by
  unfold Dev.repairLine
  try dsimp only
  repeat' first
    | with_reducible assumption
    | with_reducible apply memOk_setBurst
    | with_reducible apply memOk_noteLine
    | split
theorem memOk_repairRow {d : Dev} {ch rank sub row : Nat} {spare : Bool} {errs : List Burst} (h_d : MemOk d) :
    MemOk (Dev.repairRow d ch rank sub row spare errs) := by
  unfold Dev.repairRow
  try dsimp only
  repeat' first
    | with_reducible assumption
    | simp only [mk_iff, line_iff, lineMk_iff, wf_iff]
    | with_reducible apply memOk_modChan
    | with_reducible apply memOk_faultEvent
    | with_reducible apply memOk_repairLine
    | with_reducible apply each_ok
    | intro _
    | split
theorem memOk_execPostPackageRepair {ch : Fin 8} {rank : Fin 4} {sub : Fin 2} {row : Nat} {spare : Bool} {errs : List Burst} {s t : State} (h_s : MemOk s.dev) (hr : execPostPackageRepair ch rank sub row spare errs s = .next t) :
    MemOk t.dev := by
  unfold execPostPackageRepair ok at hr
  cases hr
  show MemOk _
  repeat' first
    | with_reducible assumption
    | simp only [mk_iff, line_iff, lineMk_iff, wf_iff]
    | with_reducible apply memOk_repairRow
theorem memOk_startCopy {d : Dev} {ch logical : Nat} {r0 : Dev} (h_d : MemOk d) (hr : (Dev.startCopy d ch logical) = some r0) :
    MemOk r0 := by
  unfold Dev.startCopy at hr
  try dsimp only at hr
  repeat' first
    | (simp only [Option.some.injEq, Prod.mk.injEq, Option.map_eq_some_iff, Option.bind_eq_some_iff, Except.ok.injEq, reduceCtorEq] at hr)
    | (subst hr)
    | (split at hr)
    | with_reducible assumption
    | with_reducible apply memOk_setChan
theorem memOk_startDrain {d : Dev} {ch logical : Nat} (h_d : MemOk d) :
    MemOk (Dev.startDrain d ch logical) := by
  unfold Dev.startDrain
  try dsimp only
  repeat' first
    | with_reducible assumption
    | simp only [mk_iff, line_iff, lineMk_iff, wf_iff]
    | with_reducible apply memOk_setChan
    | with_reducible apply memOk_raise
    | split
theorem memOk_rankRecord {d : Dev} {ch phys : Nat} (h_d : MemOk d) :
    MemOk (Dev.rankRecord d ch phys) := by
  unfold Dev.rankRecord
  try dsimp only
  repeat' first
    | with_reducible assumption
    | with_reducible apply memOk_modSource
    | with_reducible apply memOk_raiseFault
theorem memOk_logFault {d : Dev} {ch phys sub dev : Nat} (h_d : MemOk d) :
    MemOk (Dev.logFault d ch phys sub dev) := by
  unfold Dev.logFault
  try dsimp only
  repeat' first
    | with_reducible assumption
    | simp only [mk_iff, line_iff, lineMk_iff, wf_iff]
    | split
theorem memOk_dropCopies {d : Dev} {ch : Nat} (h_d : MemOk d) :
    MemOk (Dev.dropCopies d ch) := by
  unfold Dev.dropCopies
  try dsimp only
  repeat' first
    | with_reducible assumption
    | simp only [mk_iff, line_iff, lineMk_iff, wf_iff]
theorem memOk_retireNow {d : Dev} {ch phys : Nat} (h_d : MemOk d) :
    MemOk (Dev.retireNow d ch phys) := by
  unfold Dev.retireNow
  try dsimp only
  repeat' first
    | with_reducible assumption
    | with_reducible apply memOk_modChan
    | with_reducible (apply memOk_startCopy (hr := by assumption))
    | with_reducible apply memOk_startDrain
    | with_reducible apply memOk_rankRecord
    | with_reducible apply memOk_logFault
    | with_reducible apply memOk_dropCopies
    | with_reducible apply getD_ok
    | intro _
    | split
theorem memOk_eraseNow {d : Dev} {ch phys sub dev : Nat} (h_d : MemOk d) :
    MemOk (Dev.eraseNow d ch phys sub dev) := by
  unfold Dev.eraseNow
  try dsimp only
  repeat' first
    | with_reducible assumption
    | with_reducible apply memOk_setChan
    | with_reducible (apply memOk_startCopy (hr := by assumption))
    | with_reducible apply memOk_logFault
    | with_reducible apply getD_ok
    | intro _
    | split
theorem memOk_copyStep {d : Dev} {ch : Nat} (h_d : MemOk d) :
    MemOk (Dev.copyStep d ch) := by
  unfold Dev.copyStep
  try dsimp only
  repeat' first
    | with_reducible assumption
    | with_reducible apply memOk_modChan
    | with_reducible apply memOk_fresh
    | with_reducible apply memOk_addWb
    | with_reducible apply each_ok
    | intro _
    | split
theorem memOk_execRankCopyStep {ch : Fin 8} {s t : State} (h_s : MemOk s.dev) (hr : execRankCopyStep ch s = .next t) :
    MemOk t.dev := by
  unfold execRankCopyStep ok at hr
  cases hr
  show MemOk _
  repeat' first
    | with_reducible assumption
    | simp only [mk_iff, line_iff, lineMk_iff, wf_iff]
    | with_reducible apply memOk_flow
    | with_reducible apply memOk_copyStep
theorem memOk_copyComplete {d : Dev} {ch : Nat} (h_d : MemOk d) :
    MemOk (Dev.copyComplete d ch) := by
  unfold Dev.copyComplete
  try dsimp only
  repeat' first
    | with_reducible assumption
    | with_reducible apply memOk_setChan
    | with_reducible apply memOk_rankRecord
    | with_reducible apply memOk_logFault
    | split
theorem memOk_execRankCopyComplete {ch : Fin 8} {s t : State} (h_s : MemOk s.dev) (hr : execRankCopyComplete ch s = .next t) :
    MemOk t.dev := by
  unfold execRankCopyComplete ok at hr
  cases hr
  show MemOk _
  repeat' first
    | with_reducible assumption
    | simp only [mk_iff, line_iff, lineMk_iff, wf_iff]
    | with_reducible apply memOk_flow
    | with_reducible apply memOk_copyComplete
theorem memOk_closeSlots {d : Dev} (h_d : MemOk d) :
    MemOk (Dev.closeSlots d) := by
  unfold Dev.closeSlots
  try dsimp only
  repeat' first
    | with_reducible assumption
    | with_reducible apply memOk_countTo
    | with_reducible apply each_ok
    | intro _
    | split
theorem memOk_stepPhase {d : Dev} (h_d : MemOk d) :
    MemOk (Dev.stepPhase d) := by
  unfold Dev.stepPhase
  try dsimp only
  repeat' first
    | with_reducible assumption
    | simp only [mk_iff, line_iff, lineMk_iff, wf_iff]
    | with_reducible apply memOk_doorbell
    | split
theorem memOk_chanBoundary {d : Dev} {ch : Nat} (h_d : MemOk d) :
    MemOk (Dev.chanBoundary d ch) := by
  unfold Dev.chanBoundary
  try dsimp only
  repeat' first
    | with_reducible assumption
    | simp only [mk_iff, line_iff, lineMk_iff, wf_iff]
    | with_reducible apply memOk_setChan
    | with_reducible apply memOk_modChan
    | with_reducible apply memOk_heldRfms
    | with_reducible apply memOk_retireNow
    | with_reducible apply memOk_eraseNow
    | with_reducible apply each_ok
    | intro _
theorem memOk_dramBoundary {d : Dev} (h_d : MemOk d) :
    MemOk (Dev.dramBoundary d) := by
  unfold Dev.dramBoundary
  try dsimp only
  repeat' first
    | with_reducible assumption
    | with_reducible apply memOk_stepPhase
    | with_reducible apply memOk_chanBoundary
    | with_reducible apply each_ok
theorem memOk_birsp {d : Dev} {l : Nat} {ldId : BitVec 16} {hpa : BitVec 64} {keeps : Bool} (h_d : MemOk d) :
    MemOk (Dev.birsp d l ldId hpa keeps) := by
  unfold Dev.birsp
  try dsimp only
  repeat' first
    | with_reducible assumption
    | simp only [mk_iff, line_iff, lineMk_iff, wf_iff]
    | with_reducible apply memOk_takeBirsp
    | with_reducible apply memOk_releaseForeign
    | split
theorem memOk_execBirsp {l : Link} {ldId : BitVec 16} {hpa : BitVec 64} {keepsShared : Bool} {s t : State} (h_s : MemOk s.dev) (hr : execBirsp l ldId hpa keepsShared s = .next t) :
    MemOk t.dev := by
  unfold execBirsp ok at hr
  cases hr
  show MemOk _
  repeat' first
    | with_reducible assumption
    | simp only [mk_iff, line_iff, lineMk_iff, wf_iff]
    | with_reducible apply memOk_flow
    | with_reducible apply memOk_birsp
theorem memOk_biconflict {d : Dev} {l : Nat} {ldId : BitVec 16} {hpa : BitVec 64} (h_d : MemOk d) :
    MemOk (Dev.biconflict d l ldId hpa) := by
  unfold Dev.biconflict
  try dsimp only
  repeat' first
    | with_reducible assumption
    | with_reducible apply memOk_bump
    | with_reducible apply memOk_ackOn
    | with_reducible apply memOk_takeConflict
    | with_reducible apply memOk_snoopAnswer
    | split
theorem memOk_execBiconflict {l : Link} {ldId : BitVec 16} {hpa : BitVec 64} {s t : State} (h_s : MemOk s.dev) (hr : execBiconflict l ldId hpa s = .next t) :
    MemOk t.dev := by
  unfold execBiconflict ok at hr
  cases hr
  show MemOk _
  repeat' first
    | with_reducible assumption
    | simp only [mk_iff, line_iff, lineMk_iff, wf_iff]
    | with_reducible apply memOk_flow
    | with_reducible apply memOk_biconflict
theorem memOk_biTimeout {d : Dev} {s : Nat} (h_d : MemOk d) :
    MemOk (Dev.biTimeout d s) := by
  unfold Dev.biTimeout
  try dsimp only
  repeat' first
    | with_reducible assumption
    | with_reducible apply memOk_bump
    | with_reducible apply memOk_doorbell
    | with_reducible apply memOk_losing
    | split
theorem memOk_execBiTimeout {slot : Fin 32} {s t : State} (h_s : MemOk s.dev) (hr : execBiTimeout slot s = .next t) :
    MemOk t.dev := by
  unfold execBiTimeout ok at hr
  cases hr
  show MemOk _
  repeat' first
    | with_reducible assumption
    | simp only [mk_iff, line_iff, lineMk_iff, wf_iff]
    | with_reducible apply memOk_biTimeout
theorem memOk_execSharerSweep {slot : Fin 32} {s t : State} (h_s : MemOk s.dev) (hr : execSharerSweep slot s = .next t) :
    MemOk t.dev := by
  unfold execSharerSweep ok at hr
  cases hr
  show MemOk _
  repeat' first
    | with_reducible assumption
    | simp only [mk_iff, line_iff, lineMk_iff, wf_iff]
    | with_reducible apply memOk_sweep
    | with_reducible apply memOk_flow
theorem memOk_execDirectoryError {set : Nat} {way : Fin 16} {s t : State} (h_s : MemOk s.dev) (hr : execDirectoryError set way s = .next t) :
    MemOk t.dev := by
  unfold execDirectoryError at hr
  generalize set % 131072 = n at hr
  have h := memOk_directoryError (set := n) (way := way.val) h_s
  generalize s.dev.directoryError n way.val = e at hr h
  unfold ok at hr
  cases hr
  exact h
theorem memOk_countSwitch {d : Dev} {slot : Nat} (h_d : MemOk d) :
    MemOk (Dev.countSwitch d slot) := by
  unfold Dev.countSwitch
  try dsimp only
  repeat' first
    | with_reducible assumption
    | simp only [mk_iff, line_iff, lineMk_iff, wf_iff]
theorem memOk_drainKnot {d : Dev} {page : Nat} {a : After} (h_d : MemOk d) :
    MemOk (Dev.drainKnot d page a) := by
  unfold Dev.drainKnot
  try dsimp only
  repeat' first
    | with_reducible assumption
    | simp only [mk_iff, line_iff, lineMk_iff, wf_iff]
    | with_reducible apply memOk_fresh
theorem memOk_sameTier {d : Dev} {page : Nat} {k : BitVec 36} {r0 : BitVec 36} {r1 : Dev} (h_d : MemOk d) (hr : (Dev.sameTier d page k) = some (r0, r1)) :
    MemOk r1 := by
  unfold Dev.sameTier at hr
  try dsimp only at hr
  repeat' first
    | (simp only [Option.some.injEq, Prod.mk.injEq, Option.map_eq_some_iff, Option.bind_eq_some_iff, Except.ok.injEq, reduceCtorEq] at hr)
    | (obtain ⟨rfl, rfl⟩ := hr)
    | (obtain ⟨_, _, hr⟩ := hr)
    | (split at hr)
    | with_reducible assumption
    | with_reducible apply memOk_use
    | with_reducible apply memOk_takeKnot
theorem memOk_giveBack {d : Dev} {page : Nat} {k : BitVec 36} (h_d : MemOk d) :
    MemOk (Dev.giveBack d page k) := by
  unfold Dev.giveBack
  try dsimp only
  repeat' first
    | with_reducible assumption
    | with_reducible apply memOk_freeKnot
    | with_reducible apply memOk_credit
    | split
theorem memOk_moveRecall {d : Dev} {a : Attr} {src dst : BitVec 36} {slot : Nat} {r0 : Option Nat} {r1 : Dev} (h_d : MemOk d) (hr : (Dev.moveRecall d a src dst slot) = some (r0, r1)) :
    MemOk r1 := by
  unfold Dev.moveRecall at hr
  try dsimp only at hr
  repeat' first
    | (simp only [Option.some.injEq, Prod.mk.injEq, Option.map_eq_some_iff, Option.bind_eq_some_iff, Except.ok.injEq, reduceCtorEq] at hr)
    | (obtain ⟨rfl, rfl⟩ := hr)
    | (split at hr)
    | with_reducible assumption
    | with_reducible (apply memOk_loadRecall_eq (hr := by assumption))
theorem memOk_startMove {d : Dev} {page : Nat} {a : Attr} {src dst : BitVec 36} {dir slot : Nat} {image : List Byte} {r0 : Dev} (h_d : MemOk d) (hr : (Dev.startMove d page a src dst dir slot image) = some r0) :
    MemOk r0 := by
  unfold Dev.startMove at hr
  extract_lets block at hr
  split at hr
  · simp at hr
  · split at hr
    · simp at hr
    · split at hr
      · simp at hr
      · rename_i recallSlot d1 he
        have h1 : MemOk d1 := memOk_moveRecall h_d he
        extract_lets r at hr
        have h2 : MemOk r.2 := memOk_casKnot (memOk_writeTableBytes h1)
        clear_value r
        split at hr
        · simp at hr
        · simp only [Option.some.injEq] at hr
          subst hr
          simp only [mk_iff, line_iff, lineMk_iff, wf_iff]
          exact memOk_unstage (memOk_fresh h2)
theorem memOk_placeMove {d : Dev} {id : Nat} (h_d : MemOk d) :
    MemOk (Dev.placeMove d id) := by
  unfold Dev.placeMove
  try dsimp only
  repeat' first
    | with_reducible assumption
    | simp only [mk_iff, line_iff, lineMk_iff, wf_iff]
    | with_reducible apply memOk_fresh
    | with_reducible apply memOk_addWb
    | with_reducible apply each_ok
    | intro _
    | split
theorem memOk_cancelMove {d : Dev} {m : Move} (h_d : MemOk d) :
    MemOk (Dev.cancelMove d m) := by
  unfold Dev.cancelMove
  try dsimp only
  repeat' first
    | with_reducible assumption
    | simp only [mk_iff, line_iff, lineMk_iff, wf_iff]
    | with_reducible apply memOk_clearRecall
    | with_reducible apply memOk_abandonMove
    | with_reducible apply memOk_stage2
    | with_reducible apply memOk_eachReq
    | split
theorem memOk_writeImage {d : Dev} {m : Move} (h_d : MemOk d) :
    MemOk (Dev.writeImage d m).2 := by
  unfold Dev.writeImage
  extract_lets h lines go
  have hg : ∀ e, MemOk e → MemOk (go e) := fun e he => each_ok he fun f i hf => memOk_setBurst (memOk_supersede hf)
  split
  · split
    · rename_i d' h'
      exact memOk_raiseMajor_eq h_d h'
    · rename_i x d' h'
      exact memOk_raiseMajor_eq h_d h'
  · exact h_d
theorem memOk_writeImage_opt {d : Dev} {m : Move} (h_d : MemOk d) {r0 : Dev} (hr : (Dev.writeImage d m).1 = some r0) :
    MemOk r0 := by
  unfold Dev.writeImage at hr
  extract_lets h lines go at hr
  have hg : ∀ e, MemOk e → MemOk (go e) := fun e he => each_ok he fun f i hf => memOk_setBurst (memOk_supersede hf)
  split at hr
  · split at hr
    · simp at hr
    · rename_i x d' h'
      simp only [Option.some.injEq] at hr
      subst hr
      exact hg _ (memOk_throughHeader (memOk_raiseMajor_eq h_d h'))
  · simp only [Option.some.injEq] at hr
    subst hr
    exact hg _ h_d
theorem memOk_writeImage_eq {d : Dev} {m : Move} (h_d : MemOk d) {q0 : Option Dev} {q1 : Dev} (hr : (Dev.writeImage d m) = (q0, q1)) :
    MemOk q1 := by
  have h : MemOk (Dev.writeImage d m).2 := memOk_writeImage h_d
  rw [hr] at h
  exact h
theorem memOk_copyRaw {d : Dev} {m : Move} (h_d : MemOk d) :
    MemOk (Dev.copyRaw d m) := by
  unfold Dev.copyRaw
  try dsimp only
  repeat' first
    | with_reducible assumption
    | with_reducible apply memOk_supersede
    | with_reducible apply memOk_countMinor
    | with_reducible apply memOk_readLine
    | with_reducible apply memOk_putLine
    | with_reducible apply each_ok
    | intro _
theorem memOk_switchMove {d : Dev} {m : Move} (h_d : MemOk d) :
    MemOk (Dev.switchMove d m) := by
  unfold Dev.switchMove
  try dsimp only
  repeat' first
    | with_reducible assumption
    | simp only [mk_iff, line_iff, lineMk_iff, wf_iff]
    | with_reducible apply memOk_bump
    | with_reducible apply memOk_unstage
    | with_reducible apply memOk_changeKnot
    | with_reducible apply memOk_stage2
    | with_reducible apply memOk_eachReq
    | with_reducible apply memOk_countSwitch
    | with_reducible apply memOk_drainKnot
    | split
theorem memOk_moveDrained {d : Dev} {id : Nat} (h_d : MemOk d) :
    MemOk (Dev.moveDrained d id) := by
  unfold Dev.moveDrained
  split
  · exact h_d
  · split
    · exact h_d
    · split
      · exact memOk_switchMove h_d
      · split
        · exact h_d
        · split
          rename_i good d1 he
          have h1 : MemOk d1 := memOk_fetchHeader_eq h_d he
          repeat' first
            | with_reducible assumption
            | with_reducible apply memOk_switchMove
            | with_reducible apply memOk_abandonMove
            | with_reducible apply memOk_copyRaw
            | with_reducible apply memOk_placePromotion
            | with_reducible (apply memOk_writeImage_eq (hr := by assumption))
            | exact memOk_writeImage_opt (by assumption) (congrArg Prod.fst (by assumption))
            | split
theorem memOk_execMoveCopyDrained {move : Nat} {s t : State} (h_s : MemOk s.dev) (hr : execMoveCopyDrained move s = .next t) :
    MemOk t.dev := by
  unfold execMoveCopyDrained ok at hr
  cases hr
  show MemOk _
  repeat' first
    | with_reducible assumption
    | simp only [mk_iff, line_iff, lineMk_iff, wf_iff]
    | with_reducible apply memOk_flow
    | with_reducible apply memOk_moveDrained
theorem memOk_startExtMove {d : Dev} {ld unit : Nat} {r : Region} {src dstDev slot : Nat} {r0 : Dev} (h_d : MemOk d) (hr : (Dev.startExtMove d ld unit r src dstDev slot) = some r0) :
    MemOk r0 := by
  unfold Dev.startExtMove at hr
  split at hr
  · simp at hr
  · extract_lets key a got at hr
    have hg : ∀ x e, got = some (x, e) → MemOk e := by
      intro x e he
      simp only [got] at he
      split at he
      · simp only [Option.map_eq_some_iff, Prod.mk.injEq] at he
        obtain ⟨_, _, _, rfl⟩ := he
        exact memOk_takeBig h_d
      · simp only [Option.some.injEq, Prod.mk.injEq] at he
        obtain ⟨_, rfl⟩ := he
        exact memOk_free h_d
    clear_value got
    split at hr
    · simp at hr
    · rename_i dst d'
      have h' : MemOk d' := hg _ _ rfl
      dsimp only at hr
      split at hr
      · split at hr
        · rename_i x e he
          simp only [Option.some.injEq] at hr
          subst hr
          have h2 : MemOk e := memOk_loadRecall_eq h' he
          exact h2
        · simp at hr
      · simp only [Option.some.injEq] at hr
        subst hr
        exact h'
theorem memOk_extentPage {d : Dev} {reg : Nat} (h_d : MemOk d) :
    MemOk (Dev.extentPage d reg) := by
  unfold Dev.extentPage
  try dsimp only
  repeat' first
    | with_reducible assumption
    | simp only [mk_iff, line_iff, lineMk_iff, wf_iff]
    | with_reducible apply memOk_fresh
    | with_reducible apply memOk_addWb
    | with_reducible apply each_ok
    | intro _
    | split
theorem memOk_execExtentMovePage {reg : Fin 8} {s t : State} (h_s : MemOk s.dev) (hr : execExtentMovePage reg s = .next t) :
    MemOk t.dev := by
  unfold execExtentMovePage ok at hr
  cases hr
  show MemOk _
  repeat' first
    | with_reducible assumption
    | simp only [mk_iff, line_iff, lineMk_iff, wf_iff]
    | with_reducible apply memOk_flow
    | with_reducible apply memOk_extentPage
theorem memOk_reseat {d : Dev} {ld unit dev place : Nat} (h_d : MemOk d) :
    MemOk (Dev.reseat d ld unit dev place) := by
  unfold Dev.reseat
  try dsimp only
  repeat' first
    | with_reducible assumption
    | with_reducible apply memOk_modLd
theorem memOk_rewriteExt {d : Dev} {ld unit : Nat} {a : After} (h_d : MemOk d) :
    MemOk (Dev.rewriteExt d ld unit a) := by
  unfold Dev.rewriteExt
  try dsimp only
  repeat' first
    | with_reducible assumption
    | with_reducible apply memOk_post
    | with_reducible apply memOk_setExt
    | split
theorem memOk_extentSwitch {d : Dev} {reg : Nat} (h_d : MemOk d) :
    MemOk (Dev.extentSwitch d reg) := by
  unfold Dev.extentSwitch
  try dsimp only
  repeat' first
    | with_reducible assumption
    | simp only [mk_iff, line_iff, lineMk_iff, wf_iff]
    | with_reducible apply memOk_endExtMove
    | with_reducible apply memOk_countSwitch
    | with_reducible apply memOk_reseat
    | with_reducible apply memOk_rewriteExt
    | with_reducible apply each_ok
    | intro _
    | split
theorem memOk_execExtentMoveSwitch {reg : Fin 8} {s t : State} (h_s : MemOk s.dev) (hr : execExtentMoveSwitch reg s = .next t) :
    MemOk t.dev := by
  unfold execExtentMoveSwitch ok at hr
  cases hr
  show MemOk _
  repeat' first
    | with_reducible assumption
    | simp only [mk_iff, line_iff, lineMk_iff, wf_iff]
    | with_reducible apply memOk_flow
    | with_reducible apply memOk_extentSwitch
theorem memOk_cancelExtMove {d : Dev} {reg : Nat} (h_d : MemOk d) :
    MemOk (Dev.cancelExtMove d reg) := by
  unfold Dev.cancelExtMove
  try dsimp only
  repeat' first
    | with_reducible assumption
    | simp only [mk_iff, line_iff, lineMk_iff, wf_iff]
    | with_reducible apply memOk_freeBigFrame
    | with_reducible apply memOk_clearRecall
    | split
theorem memOk_queueDemotion {d : Dev} {page : Nat} (h_d : MemOk d) :
    MemOk (Dev.queueDemotion d page) := by
  unfold Dev.queueDemotion
  try dsimp only
  repeat' first
    | with_reducible assumption
    | simp only [mk_iff, line_iff, lineMk_iff, wf_iff]
    | split
theorem memOk_ageRange {d : Dev} {range : Nat} (h_d : MemOk d) :
    MemOk (Dev.ageRange d range) := by
  unfold Dev.ageRange
  try dsimp only
  repeat' first
    | with_reducible assumption
    | with_reducible apply memOk_setTierRec
    | with_reducible apply each_ok
    | intro _
theorem memOk_sweepRegion {d : Dev} {r : Region} (h_d : MemOk d) :
    MemOk (Dev.sweepRegion d r).2 := by
  unfold Dev.sweepRegion
  try dsimp only
  repeat' first
    | with_reducible assumption
    | with_reducible apply memOk_ageRange
    | with_reducible apply each_ok
theorem memOk_sweepRegion_eq {d : Dev} {r : Region} (h_d : MemOk d) {q0 : List Nat} {q1 : Dev} (hr : (Dev.sweepRegion d r) = (q0, q1)) :
    MemOk q1 := by
  have h : MemOk (Dev.sweepRegion d r).2 := memOk_sweepRegion h_d
  rw [hr] at h
  exact h
theorem memOk_epochEnd {d : Dev} (h_d : MemOk d) :
    MemOk (Dev.epochEnd d) := by
  unfold Dev.epochEnd
  try dsimp only
  repeat' first
    | with_reducible assumption
    | simp only [mk_iff, line_iff, lineMk_iff, wf_iff]
    | with_reducible apply memOk_queueDemotion
    | with_reducible apply memOk_sweepRegion
    | with_reducible apply each_ok
    | intro _
    | split
theorem memOk_execTierEpochEnd  {s t : State} (h_s : MemOk s.dev) (hr : execTierEpochEnd s = .next t) :
    MemOk t.dev := by
  unfold execTierEpochEnd ok at hr
  cases hr
  show MemOk _
  repeat' first
    | with_reducible assumption
    | simp only [mk_iff, line_iff, lineMk_iff, wf_iff]
    | with_reducible apply memOk_epochEnd
theorem memOk_pageContent {d : Dev} {a : Attr} {page : Nat} {k : BitVec 36} (h_d : MemOk d) :
    MemOk (Dev.pageContent d a page k).2 := by
  unfold Dev.pageContent
  try dsimp only
  repeat' first
    | with_reducible assumption
    | simp only [mk_iff, line_iff, lineMk_iff, wf_iff]
    | with_reducible apply memOk_readLine
    | with_reducible apply each_ok2
    | intro _
theorem memOk_pageContent_eq {d : Dev} {a : Attr} {page : Nat} {k : BitVec 36} (h_d : MemOk d) {q0 : Option (List Byte)} {q1 : Dev} (hr : (Dev.pageContent d a page k) = (q0, q1)) :
    MemOk q1 := by
  have h : MemOk (Dev.pageContent d a page k).2 := memOk_pageContent h_d
  rw [hr] at h
  exact h
theorem memOk_demoteTo {d : Dev} {page : Nat} {a : Attr} {k : BitVec 36} {c : Nat} {image : List Byte} (h_d : MemOk d) :
    MemOk (Dev.demoteTo d page a k c image) := by
  unfold Dev.demoteTo
  try dsimp only
  repeat' first
    | with_reducible assumption
    | with_reducible apply memOk_use
    | with_reducible apply memOk_takeKnot
    | with_reducible (apply memOk_startMove (hr := by assumption))
    | with_reducible apply memOk_placeMove
    | split
theorem memOk_demoteCoded {d : Dev} {engine page : Nat} {a : Attr} {k : BitVec 36} {content image : List Byte} (h_d : MemOk d) :
    MemOk (Dev.demoteCoded d engine page a k content image) := by
  unfold Dev.demoteCoded
  try dsimp only
  repeat' first
    | with_reducible assumption
    | with_reducible apply memOk_bump
    | with_reducible apply memOk_setTierRec
    | with_reducible apply memOk_prismFault
    | with_reducible apply memOk_demoteTo
    | split
theorem memOk_demoteNow {d : Dev} {engine page : Nat} {a : Attr} {k : BitVec 36} {image : List Byte} (h_d : MemOk d) :
    MemOk (Dev.demoteNow d engine page a k image) := by
  unfold Dev.demoteNow
  try dsimp only
  repeat' first
    | with_reducible assumption
    | with_reducible (apply memOk_fetchHeader_eq (hr := by assumption))
    | with_reducible (apply memOk_pageContent_eq (hr := by assumption))
    | with_reducible apply memOk_demoteCoded
    | split
theorem memOk_demoteIf {d : Dev} {engine page : Nat} {image : List Byte} (h_d : MemOk d) :
    MemOk (Dev.demoteIf d engine page image) := by
  unfold Dev.demoteIf
  try dsimp only
  repeat' first
    | with_reducible assumption
    | with_reducible apply memOk_demoteNow
    | split
theorem memOk_demotionVerified {d : Dev} {page : Nat} {image : List Byte} (h_d : MemOk d) :
    MemOk (Dev.demotionVerified d page image) := by
  unfold Dev.demotionVerified
  try dsimp only
  repeat' first
    | with_reducible assumption
    | simp only [mk_iff, line_iff, lineMk_iff, wf_iff]
    | with_reducible apply memOk_demoteIf
    | split
theorem memOk_execDemotionVerifyDone {page : BitVec 32} {image : List Byte} {s t : State} (h_s : MemOk s.dev) (hr : execDemotionVerifyDone page image s = .next t) :
    MemOk t.dev := by
  unfold execDemotionVerifyDone ok at hr
  cases hr
  show MemOk _
  repeat' first
    | with_reducible assumption
    | simp only [mk_iff, line_iff, lineMk_iff, wf_iff]
    | with_reducible apply memOk_flow
    | with_reducible apply memOk_demotionVerified
theorem memOk_brighten {d : Dev} {page slot : Nat} {r0 : Dev} (h_d : MemOk d) (hr : (Dev.brighten d page slot) = some r0) :
    MemOk r0 := by
  unfold Dev.brighten at hr
  try dsimp only at hr
  repeat' first
    | (simp only [Option.some.injEq, Prod.mk.injEq, Option.map_eq_some_iff, Option.bind_eq_some_iff, Except.ok.injEq, reduceCtorEq] at hr)
    | (subst hr)
    | (obtain ⟨_, _, hr⟩ := hr)
    | (split at hr)
    | with_reducible assumption
    | with_reducible (apply memOk_fetchHeader_eq (hr := by assumption))
    | with_reducible apply memOk_takeFrame
    | with_reducible apply memOk_use
    | with_reducible (apply memOk_startMove (hr := by assumption))
    | with_reducible apply memOk_placeMove
    | split
theorem memOk_readPromotion {d : Dev} (h_d : MemOk d) :
    MemOk (Dev.readPromotion d) := by
  unfold Dev.readPromotion
  try dsimp only
  repeat' first
    | with_reducible assumption
    | simp only [mk_iff, line_iff, lineMk_iff, wf_iff]
    | with_reducible apply memOk_setTierRec
    | with_reducible (apply memOk_brighten (hr := by assumption))
    | with_reducible apply getD_ok
    | intro _
    | split
theorem memOk_execReadPromotion  {s t : State} (h_s : MemOk s.dev) (hr : execReadPromotion s = .next t) :
    MemOk t.dev := by
  unfold execReadPromotion ok at hr
  cases hr
  show MemOk _
  repeat' first
    | with_reducible assumption
    | simp only [mk_iff, line_iff, lineMk_iff, wf_iff]
    | with_reducible apply memOk_flow
    | with_reducible apply memOk_readPromotion
theorem memOk_movePage {d : Dev} {page slot : Nat} {r0 : Dev} (h_d : MemOk d) (hr : (Dev.movePage d page slot) = some r0) :
    MemOk r0 := by
  unfold Dev.movePage at hr
  try dsimp only at hr
  repeat' first
    | (simp only [Option.some.injEq, Prod.mk.injEq, Option.map_eq_some_iff, Option.bind_eq_some_iff, Except.ok.injEq, reduceCtorEq] at hr)
    | (subst hr)
    | (obtain ⟨_, _, hr⟩ := hr)
    | (split at hr)
    | with_reducible assumption
    | with_reducible (apply memOk_fetchHeader_eq (hr := by assumption))
    | with_reducible (apply memOk_sameTier (hr := by assumption))
    | with_reducible (apply memOk_startMove (hr := by assumption))
    | with_reducible apply memOk_placeMove
    | split
theorem memOk_rankDrain {d : Dev} {ch logical : Nat} (h_d : MemOk d) :
    MemOk (Dev.rankDrain d ch logical) := by
  unfold Dev.rankDrain
  dsimp only
  repeat' first
    | with_reducible assumption
    | with_reducible apply memOk_rankRecord
    | with_reducible apply memOk_logFault
    | with_reducible apply memOk_modChan
    | with_reducible apply memOk_setChan
    | with_reducible apply memOk_raise
    | exact memOk_startExtMove h_d (by assumption)
    | exact memOk_movePage h_d (by assumption)
    | split
    | (rename_i h; split at h)
theorem memOk_execRankDrain {ch : Fin 8} {rank : Fin 4} {s t : State} (h_s : MemOk s.dev) (hr : execRankDrain ch rank s = .next t) :
    MemOk t.dev := by
  unfold execRankDrain ok at hr
  cases hr
  show MemOk _
  repeat' first
    | with_reducible assumption
    | simp only [mk_iff, line_iff, lineMk_iff, wf_iff]
    | with_reducible apply memOk_flow
    | with_reducible apply memOk_rankDrain
theorem memOk_rekeyEnd {d : Dev} {reg : Nat} {x : Rekey} (h_d : MemOk d) :
    MemOk (Dev.rekeyEnd d reg x) := by
  unfold Dev.rekeyEnd
  try dsimp only
  repeat' first
    | with_reducible assumption
    | simp only [mk_iff, line_iff, lineMk_iff, wf_iff]
    | with_reducible apply memOk_post
    | with_reducible apply memOk_setExt
    | with_reducible apply memOk_setS2
    | with_reducible apply each_ok
    | intro _
    | split
theorem memOk_rekeyPage {d : Dev} {reg : Nat} (h_d : MemOk d) :
    MemOk (Dev.rekeyPage d reg) := by
  unfold Dev.rekeyPage
  try dsimp only
  repeat' first
    | with_reducible assumption
    | simp only [mk_iff, line_iff, lineMk_iff, wf_iff]
    | with_reducible apply memOk_fresh
    | with_reducible apply memOk_addWb
    | with_reducible apply memOk_fetchHeader
    | with_reducible apply memOk_rekeyEnd
    | with_reducible apply each_ok
    | intro _
    | split
theorem memOk_execRekeyPage {reg : Fin 8} {s t : State} (h_s : MemOk s.dev) (hr : execRekeyPage reg s = .next t) :
    MemOk t.dev := by
  unfold execRekeyPage ok at hr
  cases hr
  show MemOk _
  repeat' first
    | with_reducible assumption
    | simp only [mk_iff, line_iff, lineMk_iff, wf_iff]
    | with_reducible apply memOk_flow
    | with_reducible apply memOk_rekeyPage
theorem memOk_sealKeyLoad {d : Dev} {iss : Issuer} {inp : List Byte} (h_d : MemOk d) :
    MemOk (Dev.sealKeyLoad d iss inp) := by
  unfold Dev.sealKeyLoad
  try dsimp only
  repeat' first
    | with_reducible assumption
    | with_reducible apply memOk_setKey
    | with_reducible apply memOk_reply
    | with_reducible apply memOk_refuse
    | with_reducible apply memOk_badLength
    | with_reducible apply elim_ok
    | intro _
    | split
theorem memOk_execSealKeyLoad {iss : Issuer} {inp : List Byte} {s t : State} (h_s : MemOk s.dev) (hr : execSealKeyLoad iss inp s = .next t) :
    MemOk t.dev := by
  unfold execSealKeyLoad ok at hr
  cases hr
  show MemOk _
  repeat' first
    | with_reducible assumption
    | simp only [mk_iff, line_iff, lineMk_iff, wf_iff]
    | with_reducible apply memOk_command
    | with_reducible apply memOk_sealKeyLoad
    | intro _

end Sys2Proof.Laws
end

