-- ==== Sys2Proof/Laws/MemOk4.lean ====
section
/-! SUPPORT. Every operation of the model keeps the media contents in their canonical form: one lemma an operation, and one a command's meaning (part 4 of 8). -/

set_option linter.unusedSimpArgs false
set_option linter.unusedVariables false

namespace Sys2Proof.Laws

open Sys2Proof Sys2Proof.Machine

theorem memOk_sealKeyGen {d : Dev} {iss : Issuer} {inp : List Byte} (h_d : MemOk d) :
    MemOk (Dev.sealKeyGen d iss inp) := by
  unfold Dev.sealKeyGen
  try dsimp only
  repeat' first
    | with_reducible assumption
    | with_reducible apply memOk_setKey
    | with_reducible apply memOk_random
    | with_reducible apply memOk_reply
    | with_reducible apply memOk_refuse
    | with_reducible apply memOk_badLength
    | split
theorem memOk_execSealKeyGen {iss : Issuer} {inp : List Byte} {s t : State} (h_s : MemOk s.dev) (hr : execSealKeyGen iss inp s = .next t) :
    MemOk t.dev := by
  unfold execSealKeyGen ok at hr
  cases hr
  show MemOk _
  repeat' first
    | with_reducible assumption
    | simp only [mk_iff, line_iff, lineMk_iff, wf_iff]
    | with_reducible apply memOk_command
    | with_reducible apply memOk_sealKeyGen
    | intro _
theorem memOk_sealKeyRetire {d : Dev} {iss : Issuer} {inp : List Byte} (h_d : MemOk d) :
    MemOk (Dev.sealKeyRetire d iss inp) := by
  unfold Dev.sealKeyRetire
  try dsimp only
  repeat' first
    | with_reducible assumption
    | with_reducible apply memOk_setKey
    | with_reducible apply memOk_reply
    | with_reducible apply memOk_refuse
    | with_reducible apply memOk_badLength
    | split
theorem memOk_execSealKeyRetire {iss : Issuer} {inp : List Byte} {s t : State} (h_s : MemOk s.dev) (hr : execSealKeyRetire iss inp s = .next t) :
    MemOk t.dev := by
  unfold execSealKeyRetire ok at hr
  cases hr
  show MemOk _
  repeat' first
    | with_reducible assumption
    | simp only [mk_iff, line_iff, lineMk_iff, wf_iff]
    | with_reducible apply memOk_command
    | with_reducible apply memOk_sealKeyRetire
    | intro _
theorem memOk_freeRetired {d : Dev} (h_d : MemOk d) :
    MemOk (Dev.freeRetired d) := by
  unfold Dev.freeRetired
  try dsimp only
  repeat' first
    | with_reducible assumption
    | with_reducible apply memOk_setKey
    | with_reducible apply each_ok
    | intro _
    | split
theorem memOk_sealKeyStatus {d : Dev} {iss : Issuer} {inp : List Byte} (h_d : MemOk d) :
    MemOk (Dev.sealKeyStatus d iss inp) := by
  unfold Dev.sealKeyStatus
  try dsimp only
  repeat' first
    | with_reducible assumption
    | with_reducible apply memOk_reply
    | with_reducible apply memOk_badLength
    | split
theorem memOk_execSealKeyStatus {iss : Issuer} {inp : List Byte} {s t : State} (h_s : MemOk s.dev) (hr : execSealKeyStatus iss inp s = .next t) :
    MemOk t.dev := by
  unfold execSealKeyStatus ok at hr
  cases hr
  show MemOk _
  repeat' first
    | with_reducible assumption
    | simp only [mk_iff, line_iff, lineMk_iff, wf_iff]
    | with_reducible apply memOk_command
    | with_reducible apply memOk_sealKeyStatus
    | intro _
theorem memOk_spdmSession {d : Dev} {who : Option Nat} {session : BitVec 32} {up : Bool} (h_d : MemOk d) :
    MemOk (Dev.spdmSession d who session up) := by
  unfold Dev.spdmSession
  try dsimp only
  repeat' first
    | with_reducible assumption
    | simp only [mk_iff, line_iff, lineMk_iff, wf_iff]
    | with_reducible apply memOk_modLd
    | split
theorem memOk_execSpdmSecureSession {who : Option (Fin 32)} {session : BitVec 32} {established : Bool} {s t : State} (h_s : MemOk s.dev) (hr : execSpdmSecureSession who session established s = .next t) :
    MemOk t.dev := by
  unfold execSpdmSecureSession ok at hr
  cases hr
  show MemOk _
  repeat' first
    | with_reducible assumption
    | simp only [mk_iff, line_iff, lineMk_iff, wf_iff]
    | with_reducible apply memOk_spdmSession
theorem memOk_sealQuarantine {d : Dev} {iss : Issuer} {inp : List Byte} (h_d : MemOk d) :
    MemOk (Dev.sealQuarantine d iss inp) := by
  unfold Dev.sealQuarantine
  try dsimp only
  repeat' first
    | with_reducible assumption
    | with_reducible apply memOk_reply
    | with_reducible apply memOk_badLength
    | split
theorem memOk_execSealQuarantine {iss : Issuer} {inp : List Byte} {s t : State} (h_s : MemOk s.dev) (hr : execSealQuarantine iss inp s = .next t) :
    MemOk t.dev := by
  unfold execSealQuarantine ok at hr
  cases hr
  show MemOk _
  repeat' first
    | with_reducible assumption
    | simp only [mk_iff, line_iff, lineMk_iff, wf_iff]
    | with_reducible apply memOk_command
    | with_reducible apply memOk_sealQuarantine
    | intro _
theorem memOk_rebuildNode {d : Dev} {lvl idx : Nat} (h_d : MemOk d) :
    MemOk (Dev.rebuildNode d lvl idx) := by
  unfold Dev.rebuildNode
  try dsimp only
  repeat' first
    | with_reducible assumption
    | simp only [mk_iff, line_iff, lineMk_iff, wf_iff]
    | with_reducible apply memOk_ctPut
    | with_reducible apply memOk_putTree
    | with_reducible apply memOk_writeBackLine
    | with_reducible apply memOk_ctEvict
    | with_reducible apply each_ok
    | intro _
    | split
theorem memOk_recoverHeader {d : Dev} {unit i : Nat} (h_d : MemOk d) :
    MemOk (Dev.recoverHeader d unit i).2.2 := by
  unfold Dev.recoverHeader
  try dsimp only
  repeat' first
    | with_reducible assumption
    | simp only [mk_iff, line_iff, lineMk_iff, wf_iff]
    | with_reducible apply memOk_setBurst
    | with_reducible apply memOk_dropRewrites
    | with_reducible apply memOk_markLost
    | with_reducible apply memOk_throughHeader
    | with_reducible (apply memOk_raiseMajor_eq (hr := by assumption))
    | with_reducible apply each_ok
    | intro _
    | split
theorem memOk_recoverHeader_eq {d : Dev} {unit i : Nat} (h_d : MemOk d) {q0 : Nat} {q1 : Nat} {q2 : Dev} (hr : (Dev.recoverHeader d unit i) = (q0, q1, q2)) :
    MemOk q2 := by
  have h : MemOk (Dev.recoverHeader d unit i).2.2 := memOk_recoverHeader h_d
  rw [hr] at h
  exact h
theorem memOk_reknotEntry {d : Dev} {q : Quar} (h_d : MemOk d) :
    MemOk (Dev.reknotEntry d q).2.2 := by
  unfold Dev.reknotEntry
  try dsimp only
  repeat' first
    | with_reducible assumption
    | simp only [mk_iff, line_iff, lineMk_iff, wf_iff]
    | with_reducible apply memOk_rebuildNode
    | with_reducible apply memOk_recoverHeader
    | with_reducible apply each_ok
    | with_reducible apply each_ok22
    | intro _
    | split
theorem memOk_reknotEntry_eq {d : Dev} {q : Quar} (h_d : MemOk d) {q0 : Nat} {q1 : Nat} {q2 : Dev} (hr : (Dev.reknotEntry d q) = (q0, q1, q2)) :
    MemOk q2 := by
  have h : MemOk (Dev.reknotEntry d q).2.2 := memOk_reknotEntry h_d
  rw [hr] at h
  exact h
theorem memOk_sealReknot {d : Dev} {iss : Issuer} {inp : List Byte} (h_d : MemOk d) :
    MemOk (Dev.sealReknot d iss inp) := by
  unfold Dev.sealReknot
  try dsimp only
  repeat' first
    | with_reducible assumption
    | simp only [mk_iff, line_iff, lineMk_iff, wf_iff]
    | with_reducible apply memOk_refuse
    | with_reducible apply memOk_badLength
    | with_reducible apply memOk_startBg
    | with_reducible apply memOk_endBg
    | with_reducible apply memOk_reknotEntry
    | with_reducible apply each_ok22
    | intro _
    | split
theorem memOk_execSealReknot {iss : Issuer} {inp : List Byte} {s t : State} (h_s : MemOk s.dev) (hr : execSealReknot iss inp s = .next t) :
    MemOk t.dev := by
  unfold execSealReknot ok at hr
  cases hr
  show MemOk _
  repeat' first
    | with_reducible assumption
    | simp only [mk_iff, line_iff, lineMk_iff, wf_iff]
    | with_reducible apply memOk_command
    | with_reducible apply memOk_sealReknot
    | intro _
theorem memOk_sanitizedQuar {d : Dev} {done : List Nat} (h_d : MemOk d) :
    MemOk (Dev.sanitizedQuar d done) := by
  unfold Dev.sanitizedQuar
  try dsimp only
  repeat' first
    | with_reducible assumption
    | simp only [mk_iff, line_iff, lineMk_iff, wf_iff]
    | with_reducible apply memOk_rebuildNode
    | with_reducible apply memOk_reknotEntry
    | with_reducible apply each_ok
    | intro _
    | split
theorem memOk_setJob {d : Dev} {slot : Nat} {j : Job} (h_d : MemOk d) :
    MemOk (Dev.setJob d slot j) := by
  unfold Dev.setJob
  try dsimp only
  repeat' first
    | with_reducible assumption
    | simp only [mk_iff, line_iff, lineMk_iff, wf_iff]
theorem memOk_modJob {d : Dev} {slot : Nat} {f : Job → Job} (h_d : MemOk d) :
    MemOk (Dev.modJob d slot f) := by
  unfold Dev.modJob
  try dsimp only
  repeat' first
    | with_reducible assumption
    | with_reducible apply memOk_setJob
    | split
theorem memOk_jobEvent {d : Dev} {j : Job} (h_d : MemOk d) :
    MemOk (Dev.jobEvent d j) := by
  unfold Dev.jobEvent
  try dsimp only
  repeat' first
    | with_reducible assumption
    | with_reducible apply memOk_vecEvent
    | split
theorem memOk_retireJob {d : Dev} {slot : Nat} {j : Job} {st : JState} (h_d : MemOk d) :
    MemOk (Dev.retireJob d slot j st) := by
  unfold Dev.retireJob
  try dsimp only
  repeat' first
    | with_reducible assumption
    | simp only [mk_iff, line_iff, lineMk_iff, wf_iff]
    | with_reducible apply memOk_bumpLd
    | with_reducible apply memOk_endBgRet
    | with_reducible apply memOk_jobEvent
    | split
theorem memOk_finishJob {d : Dev} {slot : Nat} (h_d : MemOk d) :
    MemOk (Dev.finishJob d slot) := by
  unfold Dev.finishJob
  try dsimp only
  repeat' first
    | with_reducible assumption
    | with_reducible apply memOk_modJob
theorem memOk_failJob {d : Dev} {slot : Nat} {st : Status} (h_d : MemOk d) :
    MemOk (Dev.failJob d slot st) := by
  unfold Dev.failJob
  try dsimp only
  repeat' first
    | with_reducible assumption
    | with_reducible apply memOk_modJob
theorem memOk_strayJob {d : Dev} {slot dpa : Nat} (h_d : MemOk d) :
    MemOk (Dev.strayJob d slot dpa) := by
  unfold Dev.strayJob
  try dsimp only
  repeat' first
    | with_reducible assumption
    | with_reducible apply memOk_modJob
    | with_reducible apply memOk_failJob
theorem memOk_jobReply {d : Dev} {iss : Issuer} {st : Status} {id : Nat} {noWork : Bool} (h_d : MemOk d) :
    MemOk (Dev.jobReply d iss st id noWork) := by
  unfold Dev.jobReply
  try dsimp only
  repeat' first
    | with_reducible assumption
    | with_reducible apply memOk_reply
theorem memOk_queueJob {d : Dev} {slot : Nat} {j : Job} (h_d : MemOk d) :
    MemOk (Dev.queueJob d slot j) := by
  unfold Dev.queueJob
  try dsimp only
  repeat' first
    | with_reducible assumption
    | simp only [mk_iff, line_iff, lineMk_iff, wf_iff]
theorem memOk_submit {d : Dev} {iss : Issuer} {k : JKind} {inp : List Byte} {plan : Dev → Job → Option Job} {take : Dev → Nat → Job → Dev × Job} (h_d : MemOk d) (h_take : ∀ (x0 : Dev) (x1 : Nat) (x2 : Job), MemOk x0 → MemOk (take x0 x1 x2).1) :
    MemOk (Dev.submit d iss k inp plan take) := by
  unfold Dev.submit
  try dsimp only
  repeat' first
    | with_reducible assumption
    | with_reducible apply h_take
    | with_reducible apply memOk_badLength
    | with_reducible apply memOk_jobReply
    | with_reducible apply memOk_queueJob
    | split
theorem memOk_issueJob {d : Dev} {slot : Nat} {q : Req} {r0 : Dev} (h_d : MemOk d) (hr : (Dev.issueJob d slot q) = some r0) :
    MemOk r0 := by
  unfold Dev.issueJob at hr
  try dsimp only at hr
  repeat' first
    | (simp only [Option.some.injEq, Prod.mk.injEq, Option.map_eq_some_iff, Option.bind_eq_some_iff, Except.ok.injEq, reduceCtorEq] at hr)
    | (subst hr)
    | (split at hr)
    | with_reducible assumption
    | simp only [mk_iff, line_iff, lineMk_iff, wf_iff]
    | with_reducible apply memOk_fresh
    | with_reducible apply memOk_modJob
theorem memOk_jobRead {d : Dev} {slot ld dpa : Nat} {label : Label} {r0 : Dev} (h_d : MemOk d) (hr : (Dev.jobRead d slot ld dpa label) = some r0) :
    MemOk r0 := by
  unfold Dev.jobRead at hr
  try dsimp only at hr
  repeat' first
    | (simp only [Option.some.injEq, Prod.mk.injEq, Option.map_eq_some_iff, Option.bind_eq_some_iff, Except.ok.injEq, reduceCtorEq] at hr)
    | (subst hr)
    | (split at hr)
    | with_reducible assumption
    | with_reducible apply memOk_strayJob
    | with_reducible (apply memOk_issueJob (hr := by assumption))
theorem memOk_jobWrite {d : Dev} {slot ld dpa : Nat} {label : Label} {x : Option Line} {mask : BitVec 64} {r0 : Dev} (h_d : MemOk d) (hr : (Dev.jobWrite d slot ld dpa label x mask) = some r0) :
    MemOk r0 := by
  unfold Dev.jobWrite at hr
  try dsimp only at hr
  repeat' first
    | (simp only [Option.some.injEq, Prod.mk.injEq, Option.map_eq_some_iff, Option.bind_eq_some_iff, Except.ok.injEq, reduceCtorEq] at hr)
    | (subst hr)
    | (split at hr)
    | with_reducible assumption
    | with_reducible apply memOk_strayJob
    | with_reducible (apply memOk_issueJob (hr := by assumption))
theorem memOk_spend {d : Dev} {label : Label} {r0 : Dev} (h_d : MemOk d) (hr : (Dev.spend d label) = some r0) :
    MemOk r0 := by
  unfold Dev.spend at hr
  try dsimp only at hr
  repeat' first
    | (simp only [Option.some.injEq, Prod.mk.injEq, Option.map_eq_some_iff, Option.bind_eq_some_iff, Except.ok.injEq, reduceCtorEq] at hr)
    | (subst hr)
    | (split at hr)
    | with_reducible assumption
    | simp only [mk_iff, line_iff, lineMk_iff, wf_iff]
theorem memOk_copyCmd {d : Dev} {iss : Issuer} {inp : List Byte} (h_d : MemOk d) :
    MemOk (Dev.copyCmd d iss inp) := by
  unfold Dev.copyCmd
  try dsimp only
  repeat' first
    | with_reducible assumption
    | simp only [mk_iff, line_iff, lineMk_iff, wf_iff]
    | with_reducible apply memOk_submit
    | intro _
theorem memOk_execCopy {iss : Issuer} {inp : List Byte} {s t : State} (h_s : MemOk s.dev) (hr : execCopy iss inp s = .next t) :
    MemOk t.dev := by
  unfold execCopy ok at hr
  cases hr
  show MemOk _
  repeat' first
    | with_reducible assumption
    | simp only [mk_iff, line_iff, lineMk_iff, wf_iff]
    | with_reducible apply memOk_command
    | with_reducible apply memOk_copyCmd
    | intro _
theorem memOk_copyStepJob {d : Dev} {slot : Nat} {r0 : Dev} (h_d : MemOk d) (hr : (Dev.copyStepJob d slot) = some r0) :
    MemOk r0 := by
  unfold Dev.copyStepJob at hr
  try dsimp only at hr
  repeat' first
    | (simp only [Option.some.injEq, Prod.mk.injEq, Option.map_eq_some_iff, Option.bind_eq_some_iff, Except.ok.injEq, reduceCtorEq] at hr)
    | (subst hr)
    | (split at hr)
    | with_reducible assumption
    | with_reducible apply memOk_setJob
    | with_reducible (apply memOk_jobRead (hr := by assumption))
    | with_reducible (apply memOk_jobWrite (hr := by assumption))
theorem memOk_repeatStep {f : Dev → Option Dev} {y0 : Nat} {y1 : Dev} (h_f : ∀ (x0 : Dev), MemOk x0 → ∀ e, f x0 = some e → MemOk e) (h_y1 : MemOk y1) :
    MemOk (repeatStep f y0 y1) := by
  induction y0 generalizing y1 with
  | zero => exact h_y1
  | succ k ih =>
    unfold repeatStep
    split
    · exact ih (h_f _ h_y1 _ (by assumption))
    · exact h_y1
theorem memOk_copyBatch {d : Dev} {slot lines : Nat} (h_d : MemOk d) :
    MemOk (Dev.copyBatch d slot lines) := by
  unfold Dev.copyBatch
  try dsimp only
  repeat' first
    | with_reducible assumption
    | with_reducible (apply memOk_copyStepJob (hr := by assumption))
    | with_reducible apply memOk_repeatStep
    | intro _
theorem memOk_execCopyBatchDone {slot : Nat} {lines : Nat} {s t : State} (h_s : MemOk s.dev) (hr : execCopyBatchDone slot lines s = .next t) :
    MemOk t.dev := by
  unfold execCopyBatchDone ok at hr
  cases hr
  show MemOk _
  repeat' first
    | with_reducible assumption
    | simp only [mk_iff, line_iff, lineMk_iff, wf_iff]
    | with_reducible apply memOk_copyBatch
theorem memOk_fillCmd {d : Dev} {iss : Issuer} {inp : List Byte} (h_d : MemOk d) :
    MemOk (Dev.fillCmd d iss inp) := by
  unfold Dev.fillCmd
  try dsimp only
  repeat' first
    | with_reducible assumption
    | simp only [mk_iff, line_iff, lineMk_iff, wf_iff]
    | with_reducible apply memOk_submit
    | intro _
theorem memOk_execFill {iss : Issuer} {inp : List Byte} {s t : State} (h_s : MemOk s.dev) (hr : execFill iss inp s = .next t) :
    MemOk t.dev := by
  unfold execFill ok at hr
  cases hr
  show MemOk _
  repeat' first
    | with_reducible assumption
    | simp only [mk_iff, line_iff, lineMk_iff, wf_iff]
    | with_reducible apply memOk_command
    | with_reducible apply memOk_fillCmd
    | intro _
theorem memOk_fillStepJob {d : Dev} {slot : Nat} {r0 : Dev} (h_d : MemOk d) (hr : (Dev.fillStepJob d slot) = some r0) :
    MemOk r0 := by
  unfold Dev.fillStepJob at hr
  try dsimp only at hr
  repeat' first
    | (simp only [Option.some.injEq, Prod.mk.injEq, Option.map_eq_some_iff, Option.bind_eq_some_iff, Except.ok.injEq, reduceCtorEq] at hr)
    | (subst hr)
    | (split at hr)
    | with_reducible assumption
    | with_reducible apply memOk_setJob
    | with_reducible (apply memOk_jobWrite (hr := by assumption))
theorem memOk_fillBatch {d : Dev} {slot lines : Nat} (h_d : MemOk d) :
    MemOk (Dev.fillBatch d slot lines) := by
  unfold Dev.fillBatch
  try dsimp only
  repeat' first
    | with_reducible assumption
    | with_reducible apply memOk_repeatStep
    | with_reducible (apply memOk_fillStepJob (hr := by assumption))
    | intro _
theorem memOk_execFillBatchDone {slot : Nat} {lines : Nat} {s t : State} (h_s : MemOk s.dev) (hr : execFillBatchDone slot lines s = .next t) :
    MemOk t.dev := by
  unfold execFillBatchDone ok at hr
  cases hr
  show MemOk _
  repeat' first
    | with_reducible assumption
    | simp only [mk_iff, line_iff, lineMk_iff, wf_iff]
    | with_reducible apply memOk_fillBatch
theorem memOk_scrubCmd {d : Dev} {iss : Issuer} {inp : List Byte} (h_d : MemOk d) :
    MemOk (Dev.scrubCmd d iss inp) := by
  unfold Dev.scrubCmd
  try dsimp only
  repeat' first
    | with_reducible assumption
    | simp only [mk_iff, line_iff, lineMk_iff, wf_iff]
    | with_reducible apply memOk_submit
    | intro _
theorem memOk_execScrub {iss : Issuer} {inp : List Byte} {s t : State} (h_s : MemOk s.dev) (hr : execScrub iss inp s = .next t) :
    MemOk t.dev := by
  unfold execScrub ok at hr
  cases hr
  show MemOk _
  repeat' first
    | with_reducible assumption
    | simp only [mk_iff, line_iff, lineMk_iff, wf_iff]
    | with_reducible apply memOk_command
    | with_reducible apply memOk_scrubCmd
    | intro _
theorem memOk_scrubStepJob {d : Dev} {slot : Nat} {r0 : Dev} (h_d : MemOk d) (hr : (Dev.scrubStepJob d slot) = some r0) :
    MemOk r0 := by
  unfold Dev.scrubStepJob at hr
  try dsimp only at hr
  repeat' first
    | (simp only [Option.some.injEq, Prod.mk.injEq, Option.map_eq_some_iff, Option.bind_eq_some_iff, Except.ok.injEq, reduceCtorEq] at hr)
    | (subst hr)
    | (split at hr)
    | with_reducible assumption
    | with_reducible apply memOk_modJob
    | with_reducible (apply memOk_issueJob (hr := by assumption))
theorem memOk_scrubBatch {d : Dev} {slot lines : Nat} (h_d : MemOk d) :
    MemOk (Dev.scrubBatch d slot lines) := by
  unfold Dev.scrubBatch
  try dsimp only
  repeat' first
    | with_reducible assumption
    | with_reducible apply memOk_repeatStep
    | with_reducible (apply memOk_scrubStepJob (hr := by assumption))
    | intro _
theorem memOk_execScrubBatchDone {slot : Nat} {lines : Nat} {s t : State} (h_s : MemOk s.dev) (hr : execScrubBatchDone slot lines s = .next t) :
    MemOk t.dev := by
  unfold execScrubBatchDone ok at hr
  cases hr
  show MemOk _
  repeat' first
    | with_reducible assumption
    | simp only [mk_iff, line_iff, lineMk_iff, wf_iff]
    | with_reducible apply memOk_scrubBatch
theorem memOk_runUnder {d : Dev} {label : Label} {lines : Nat} (h_d : MemOk d) :
    MemOk (Dev.runUnder d label lines) := by
  unfold Dev.runUnder
  try dsimp only
  repeat' first
    | with_reducible assumption
    | simp only [mk_iff, line_iff, lineMk_iff, wf_iff]
    | with_reducible apply memOk_useChannel
    | with_reducible apply each_ok
    | intro _
    | split
theorem memOk_fillFrame {d : Dev} {a : Attr} {frame : Nat} (h_d : MemOk d) :
    MemOk (Dev.fillFrame d a frame) := by
  unfold Dev.fillFrame
  try dsimp only
  repeat' first
    | with_reducible assumption
    | with_reducible apply memOk_setBurst
    | with_reducible apply memOk_zeroFill
    | with_reducible apply memOk_dropWrites
    | with_reducible apply each_ok
    | intro _
    | split
theorem memOk_sanitizeCmd {d : Dev} {iss : Issuer} {inp : List Byte} (h_d : MemOk d) :
    MemOk (Dev.sanitizeCmd d iss inp) := by
  unfold Dev.sanitizeCmd
  try dsimp only
  repeat' first
    | with_reducible assumption
    | simp only [mk_iff, line_iff, lineMk_iff, wf_iff]
    | with_reducible apply memOk_submit
    | intro _
theorem memOk_execSanitize {iss : Issuer} {inp : List Byte} {s t : State} (h_s : MemOk s.dev) (hr : execSanitize iss inp s = .next t) :
    MemOk t.dev := by
  unfold execSanitize ok at hr
  cases hr
  show MemOk _
  repeat' first
    | with_reducible assumption
    | simp only [mk_iff, line_iff, lineMk_iff, wf_iff]
    | with_reducible apply memOk_command
    | with_reducible apply memOk_sanitizeCmd
    | intro _
theorem memOk_recallLines {d : Dev} {lines : List (Nat × Nat)} {label : Label} (h_d : MemOk d) :
    MemOk (Dev.recallLines d lines label).2 := by
  unfold Dev.recallLines
  try dsimp only
  repeat' first
    | with_reducible assumption
    | with_reducible apply memOk_startFlow
    | with_reducible apply memOk_settleHome
    | with_reducible apply each_ok
    | intro _
theorem memOk_recallLines_eq {d : Dev} {lines : List (Nat × Nat)} {label : Label} (h_d : MemOk d) {q0 : Bool} {q1 : Dev} (hr : (Dev.recallLines d lines label) = (q0, q1)) :
    MemOk q1 := by
  have h : MemOk (Dev.recallLines d lines label).2 := memOk_recallLines h_d
  rw [hr] at h
  exact h
theorem memOk_reencipherLine {d : Dev} {x : Rekey} {a : Attr} {page : Nat} {e : Nat × Option Nat} (h_d : MemOk d) :
    MemOk (Dev.reencipherLine d x a page e) := by
  unfold Dev.reencipherLine
  exact each_ok h_d fun d c h => memOk_setBurst h
theorem memOk_reencipherPage {d : Dev} {x : Rekey} {a : Attr} {p : Nat} (h_d : MemOk d) :
    MemOk (Dev.reencipherPage d x a p) := by
  unfold Dev.reencipherPage
  extract_lets page d2
  have h2 : MemOk d2 := by
    simp only [d2]
    cases x.knotted with
    | true => exact memOk_fetchHeader h_d
    | false => exact h_d
  exact each_ok h2 fun d e h => memOk_reencipherLine h
theorem memOk_reencipher {d : Dev} {x : Rekey} (h_d : MemOk d) :
    MemOk (Dev.reencipher d x) := by
  unfold Dev.reencipher
  try dsimp only
  repeat' first
    | with_reducible assumption
    | simp only [mk_iff, line_iff, lineMk_iff, wf_iff]
    | with_reducible apply memOk_reencipherPage
    | with_reducible apply each_ok
    | intro _
theorem memOk_sanitizeKey {d : Dev} {slot key : Nat} {rs : List Region} (h_d : MemOk d) :
    MemOk (Dev.sanitizeKey d slot key rs) := by
  unfold Dev.sanitizeKey
  try dsimp only
  repeat' first
    | with_reducible assumption
    | simp only [mk_iff, line_iff, lineMk_iff, wf_iff]
    | with_reducible apply memOk_post
    | with_reducible apply memOk_setExt
    | with_reducible apply memOk_setS2
    | with_reducible apply memOk_modJob
    | with_reducible apply memOk_finishJob
    | with_reducible apply memOk_reencipher
    | with_reducible apply each_ok
    | intro _
    | split
theorem memOk_sanitizeNext {d : Dev} {slot : Nat} {f : Job → Job} (h_d : MemOk d) :
    MemOk (Dev.sanitizeNext d slot f) := by
  unfold Dev.sanitizeNext
  try dsimp only
  repeat' first
    | with_reducible assumption
    | with_reducible apply memOk_sanitizedQuar
    | with_reducible apply memOk_modJob
    | with_reducible apply memOk_finishJob
    | with_reducible apply memOk_sanitizeKey
    | split
theorem memOk_sanitizeRange {d : Dev} {slot : Nat} (h_d : MemOk d) :
    MemOk (Dev.sanitizeRange d slot) := by
  unfold Dev.sanitizeRange
  try dsimp only
  repeat' first
    | with_reducible assumption
    | simp only [mk_iff, line_iff, lineMk_iff, wf_iff]
    | with_reducible apply memOk_takePages
    | with_reducible apply memOk_runUnder
    | with_reducible apply memOk_fillFrame
    | with_reducible apply memOk_recallLines
    | with_reducible apply memOk_sanitizeNext
    | split
theorem memOk_execSanitizeRangeDone {slot : Nat} {s t : State} (h_s : MemOk s.dev) (hr : execSanitizeRangeDone slot s = .next t) :
    MemOk t.dev := by
  unfold execSanitizeRangeDone ok at hr
  cases hr
  show MemOk _
  repeat' first
    | with_reducible assumption
    | simp only [mk_iff, line_iff, lineMk_iff, wf_iff]
    | with_reducible apply memOk_flow
    | with_reducible apply memOk_sanitizeRange
theorem memOk_migrateCmd {d : Dev} {iss : Issuer} {inp : List Byte} (h_d : MemOk d) :
    MemOk (Dev.migrateCmd d iss inp) := by
  unfold Dev.migrateCmd
  try dsimp only
  repeat' first
    | with_reducible assumption
    | simp only [mk_iff, line_iff, lineMk_iff, wf_iff]
    | with_reducible apply memOk_submit
    | intro _
theorem memOk_execMigrate {iss : Issuer} {inp : List Byte} {s t : State} (h_s : MemOk s.dev) (hr : execMigrate iss inp s = .next t) :
    MemOk t.dev := by
  unfold execMigrate ok at hr
  cases hr
  show MemOk _
  repeat' first
    | with_reducible assumption
    | simp only [mk_iff, line_iff, lineMk_iff, wf_iff]
    | with_reducible apply memOk_command
    | with_reducible apply memOk_migrateCmd
    | intro _
theorem memOk_migrateTurn {d : Dev} {slot : Nat} (h_d : MemOk d) :
    MemOk (Dev.migrateTurn d slot).2 := by
  unfold Dev.migrateTurn
  try dsimp only
  repeat' first
    | with_reducible assumption
    | simp only [mk_iff, line_iff, lineMk_iff, wf_iff]
    | with_reducible apply memOk_stickPage
    | with_reducible apply memOk_faultRecord
    | with_reducible (apply memOk_startExtMove (hr := by assumption))
    | with_reducible (apply memOk_movePage (hr := by assumption))
    | with_reducible apply memOk_modJob
    | with_reducible apply memOk_finishJob
    | with_reducible apply memOk_strayJob
    | split
theorem memOk_migrateTurn_eq {d : Dev} {slot : Nat} (h_d : MemOk d) {q0 : Turn} {q1 : Dev} (hr : (Dev.migrateTurn d slot) = (q0, q1)) :
    MemOk q1 := by
  have h : MemOk (Dev.migrateTurn d slot).2 := memOk_migrateTurn h_d
  rw [hr] at h
  exact h
theorem memOk_tierCmd {d : Dev} {iss : Issuer} {inp : List Byte} (h_d : MemOk d) :
    MemOk (Dev.tierCmd d iss inp) := by
  unfold Dev.tierCmd
  try dsimp only
  repeat' first
    | with_reducible assumption
    | simp only [mk_iff, line_iff, lineMk_iff, wf_iff]
    | with_reducible apply memOk_submit
    | intro _
theorem memOk_execTier {iss : Issuer} {inp : List Byte} {s t : State} (h_s : MemOk s.dev) (hr : execTier iss inp s = .next t) :
    MemOk t.dev := by
  unfold execTier ok at hr
  cases hr
  show MemOk _
  repeat' first
    | with_reducible assumption
    | simp only [mk_iff, line_iff, lineMk_iff, wf_iff]
    | with_reducible apply memOk_command
    | with_reducible apply memOk_tierCmd
    | intro _
theorem memOk_tierEntry {d : Dev} {e : List Byte} (h_d : MemOk d) :
    MemOk (Dev.tierEntry d e).2 := by
  unfold Dev.tierEntry
  try dsimp only
  repeat' first
    | with_reducible assumption
    | simp only [mk_iff, line_iff, lineMk_iff, wf_iff]
    | with_reducible apply memOk_queueDemotion
    | with_reducible apply memOk_sweepRegion
    | with_reducible apply each_ok
    | split
theorem memOk_tierEntry_eq {d : Dev} {e : List Byte} (h_d : MemOk d) {q0 : List Nat} {q1 : Dev} (hr : (Dev.tierEntry d e) = (q0, q1)) :
    MemOk q1 := by
  have h : MemOk (Dev.tierEntry d e).2 := memOk_tierEntry h_d
  rw [hr] at h
  exact h
theorem memOk_tierTurn {d : Dev} {slot : Nat} (h_d : MemOk d) :
    MemOk (Dev.tierTurn d slot).2 := by
  unfold Dev.tierTurn
  try dsimp only
  repeat' first
    | with_reducible assumption
    | simp only [mk_iff, line_iff, lineMk_iff, wf_iff]
    | with_reducible (apply memOk_brighten (hr := by assumption))
    | with_reducible apply memOk_modJob
    | with_reducible apply memOk_finishJob
    | with_reducible apply memOk_tierEntry
    | with_reducible apply each_ok2
    | intro _
    | split
theorem memOk_tierTurn_eq {d : Dev} {slot : Nat} (h_d : MemOk d) {q0 : Turn} {q1 : Dev} (hr : (Dev.tierTurn d slot) = (q0, q1)) :
    MemOk q1 := by
  have h : MemOk (Dev.tierTurn d slot).2 := memOk_tierTurn h_d
  rw [hr] at h
  exact h
theorem memOk_rekeyCmd {d : Dev} {iss : Issuer} {inp : List Byte} (h_d : MemOk d) :
    MemOk (Dev.rekeyCmd d iss inp) := by
  unfold Dev.rekeyCmd
  try dsimp only
  repeat' first
    | with_reducible assumption
    | simp only [mk_iff, line_iff, lineMk_iff, wf_iff]
    | with_reducible apply memOk_submit
    | intro _
theorem memOk_execRekey {iss : Issuer} {inp : List Byte} {s t : State} (h_s : MemOk s.dev) (hr : execRekey iss inp s = .next t) :
    MemOk t.dev := by
  unfold execRekey ok at hr
  cases hr
  show MemOk _
  repeat' first
    | with_reducible assumption
    | simp only [mk_iff, line_iff, lineMk_iff, wf_iff]
    | with_reducible apply memOk_command
    | with_reducible apply memOk_rekeyCmd
    | intro _
theorem memOk_rekeyTurn {d : Dev} {slot : Nat} (h_d : MemOk d) :
    MemOk (Dev.rekeyTurn d slot).2 := by
  unfold Dev.rekeyTurn
  try dsimp only
  repeat' first
    | with_reducible assumption
    | simp only [mk_iff, line_iff, lineMk_iff, wf_iff]
    | with_reducible apply memOk_modJob
    | with_reducible apply memOk_finishJob
    | split
theorem memOk_rekeyTurn_eq {d : Dev} {slot : Nat} (h_d : MemOk d) {q0 : Turn} {q1 : Dev} (hr : (Dev.rekeyTurn d slot) = (q0, q1)) :
    MemOk q1 := by
  have h : MemOk (Dev.rekeyTurn d slot).2 := memOk_rekeyTurn h_d
  rw [hr] at h
  exact h
theorem memOk_dropUnits {d : Dev} {ld : Nat} {st : ExtSt} {p : Nat → Bool} (h_d : MemOk d) :
    MemOk (Dev.dropUnits d ld st p) := by
  unfold Dev.dropUnits
  try dsimp only
  repeat' first
    | with_reducible assumption
    | with_reducible apply memOk_modLd
    | with_reducible apply memOk_freeUnitMedia
    | with_reducible apply each_ok
    | intro _
    | split
theorem memOk_notePlaced {d : Dev} {r : Region} {dev : Nat} (h_d : MemOk d) :
    MemOk (Dev.notePlaced d r dev) := by
  unfold Dev.notePlaced
  try dsimp only
  repeat' first
    | with_reducible assumption
    | with_reducible apply memOk_modTport
    | split
theorem memOk_takeAdd {d : Dev} {slot : Nat} {j : Job} (h_d : MemOk d) :
    MemOk (Dev.takeAdd d slot j).1 := by
  unfold Dev.takeAdd
  try dsimp only
  repeat' first
    | with_reducible assumption
    | simp only [mk_iff, line_iff, lineMk_iff, wf_iff]
    | with_reducible apply memOk_fresh
    | with_reducible apply memOk_addExtent
    | with_reducible apply memOk_notePlaced
    | with_reducible apply each_ok1
    | intro _
    | split
theorem memOk_takeAdd_eq {d : Dev} {slot : Nat} {j : Job} (h_d : MemOk d) {q0 : Dev} {q1 : Job} (hr : (Dev.takeAdd d slot j) = (q0, q1)) :
    MemOk q0 := by
  have h : MemOk (Dev.takeAdd d slot j).1 := memOk_takeAdd h_d
  rw [hr] at h
  exact h
theorem memOk_poolAdd {d : Dev} {iss : Issuer} {inp : List Byte} (h_d : MemOk d) :
    MemOk (Dev.poolAdd d iss inp) := by
  unfold Dev.poolAdd
  try dsimp only
  repeat' first
    | with_reducible assumption
    | with_reducible apply memOk_submit
    | with_reducible apply memOk_takeAdd
theorem memOk_execPoolAdd {iss : Issuer} {inp : List Byte} {s t : State} (h_s : MemOk s.dev) (hr : execPoolAdd iss inp s = .next t) :
    MemOk t.dev := by
  unfold execPoolAdd ok at hr
  cases hr
  show MemOk _
  repeat' first
    | with_reducible assumption
    | simp only [mk_iff, line_iff, lineMk_iff, wf_iff]
    | with_reducible apply memOk_command
    | with_reducible apply memOk_poolAdd
    | intro _
theorem memOk_mapExts {d : Dev} {f : Extent → Extent} (h_d : MemOk d) :
    MemOk (Dev.mapExts d f) := by
  unfold Dev.mapExts
  try dsimp only
  repeat' first
    | with_reducible assumption
    | simp only [mk_iff, line_iff, lineMk_iff, wf_iff]
theorem memOk_placeUnit {d : Dev} {old new : Nat} (h_d : MemOk d) :
    MemOk (Dev.placeUnit d old new) := by
  unfold Dev.placeUnit
  try dsimp only
  repeat' first
    | with_reducible assumption
    | with_reducible apply memOk_mapExts
theorem memOk_unitMedia {d : Dev} {r : Region} {unit dev : Nat} {r0 : Nat} {r1 : Dev} (h_d : MemOk d) (hr : (Dev.unitMedia d r unit dev) = some (r0, r1)) :
    MemOk r1 := by
  unfold Dev.unitMedia at hr
  try dsimp only at hr
  repeat' first
    | (simp only [Option.some.injEq, Prod.mk.injEq, Option.map_eq_some_iff, Option.bind_eq_some_iff, Except.ok.injEq, reduceCtorEq] at hr)
    | (obtain ⟨rfl, rfl⟩ := hr)
    | (obtain ⟨_, _, hr⟩ := hr)
    | (split at hr)
    | with_reducible assumption
    | with_reducible apply memOk_free
    | with_reducible apply memOk_takeBig
    | with_reducible (apply memOk_openRange (hr := by assumption))
theorem memOk_placeAll {d : Dev} {y0 : List (Nat × Extent)} {r0 : Dev} (h_d : MemOk d) (hr : (Dev.placeAll d y0) = some r0) :
    MemOk r0 := by
  induction y0 generalizing d with
  | nil =>
    simp only [Dev.placeAll, Option.some.injEq] at hr
    exact hr ▸ h_d
  | cons a t ih =>
    obtain ⟨ld, x⟩ := a
    unfold Dev.placeAll at hr
    split at hr
    · exact ih h_d hr
    · rename_i r _
      extract_lets step at hr
      have hs : ∀ (l : List Nat) (o : Option Dev) (e : Dev), (∀ d, o = some d → MemOk d) → l.foldl step o = some e → MemOk e := by
        intro l
        induction l with
        | nil => intro o e ho he; exact ho e he
        | cons i l ihl =>
          intro o e ho he
          refine ihl _ e ?_ he
          intro d' hd
          simp only [step, Option.bind_eq_some_iff] at hd
          obtain ⟨d2, h2, hd⟩ := hd
          have m2 := ho d2 h2
          split at hd
          · split at hd
            · simp only [Option.some.injEq] at hd
              exact hd ▸ m2
            · simp only [Option.map_eq_some_iff] at hd
              obtain ⟨⟨q, d3⟩, h3, hd⟩ := hd
              subst hd
              exact memOk_placeUnit (memOk_unitMedia m2 h3)
          · simp only [Option.some.injEq] at hd
            exact hd ▸ m2
      simp only [Option.bind_eq_some_iff] at hr
      obtain ⟨e, he, hr⟩ := hr
      exact ih (hs _ _ _ (fun d' h => by simp only [Option.some.injEq] at h; exact h ▸ h_d) he) hr
theorem memOk_offerJob {d : Dev} {slot : Nat} (h_d : MemOk d) :
    MemOk (Dev.offerJob d slot) := by
  unfold Dev.offerJob
  try dsimp only
  repeat' first
    | with_reducible assumption
    | with_reducible apply memOk_modLd
    | with_reducible apply memOk_dcEvent
    | with_reducible apply memOk_modJob
    | with_reducible apply memOk_mapExts
    | with_reducible apply each_ok
    | intro _
theorem memOk_withdrawAdd {d : Dev} {slot : Nat} (h_d : MemOk d) :
    MemOk (Dev.withdrawAdd d slot) := by
  unfold Dev.withdrawAdd
  try dsimp only
  repeat' first
    | with_reducible assumption
    | with_reducible apply memOk_modLd
    | with_reducible apply memOk_freeUnitMedia
    | with_reducible apply each_ok
    | intro _
    | split
theorem memOk_addTurn {d : Dev} {slot : Nat} (h_d : MemOk d) :
    MemOk (Dev.addTurn d slot).2 := by
  unfold Dev.addTurn
  try dsimp only
  repeat' first
    | with_reducible assumption
    | simp only [mk_iff, line_iff, lineMk_iff, wf_iff]
    | with_reducible apply memOk_modJob
    | with_reducible apply memOk_finishJob
    | with_reducible (apply memOk_placeAll (hr := by assumption))
    | with_reducible apply memOk_offerJob
    | split
theorem memOk_addTurn_eq {d : Dev} {slot : Nat} (h_d : MemOk d) {q0 : Turn} {q1 : Dev} (hr : (Dev.addTurn d slot) = (q0, q1)) :
    MemOk q1 := by
  have h : MemOk (Dev.addTurn d slot).2 := memOk_addTurn h_d
  rw [hr] at h
  exact h
theorem memOk_addFilled {d : Dev} {slot : Nat} (h_d : MemOk d) :
    MemOk (Dev.addFilled d slot) := by
  unfold Dev.addFilled
  try dsimp only
  repeat' first
    | with_reducible assumption
    | with_reducible apply memOk_runUnder
    | with_reducible apply memOk_fillFrame
    | with_reducible apply memOk_offerJob
    | with_reducible apply each_ok
    | intro _
    | split
theorem memOk_execPoolAddFillDone {slot : Nat} {s t : State} (h_s : MemOk s.dev) (hr : execPoolAddFillDone slot s = .next t) :
    MemOk t.dev := by
  unfold execPoolAddFillDone ok at hr
  cases hr
  show MemOk _
  repeat' first
    | with_reducible assumption
    | simp only [mk_iff, line_iff, lineMk_iff, wf_iff]
    | with_reducible apply memOk_addFilled
theorem memOk_zeroFilled {d : Dev} {fill : Nat} (h_d : MemOk d) :
    MemOk (Dev.zeroFilled d fill) := by
  unfold Dev.zeroFilled
  try dsimp only
  repeat' first
    | with_reducible assumption
    | simp only [mk_iff, line_iff, lineMk_iff, wf_iff]
theorem memOk_execZeroFillDone {fill : Nat} {s t : State} (h_s : MemOk s.dev) (hr : execZeroFillDone fill s = .next t) :
    MemOk t.dev := by
  unfold execZeroFillDone ok at hr
  cases hr
  show MemOk _
  repeat' first
    | with_reducible assumption
    | simp only [mk_iff, line_iff, lineMk_iff, wf_iff]
    | with_reducible apply memOk_zeroFilled
theorem memOk_poolRelease {d : Dev} {iss : Issuer} {inp : List Byte} (h_d : MemOk d) :
    MemOk (Dev.poolRelease d iss inp) := by
  unfold Dev.poolRelease
  try dsimp only
  repeat' first
    | with_reducible assumption
    | simp only [mk_iff, line_iff, lineMk_iff, wf_iff]
    | with_reducible apply memOk_submit
    | intro _
theorem memOk_execPoolRelease {iss : Issuer} {inp : List Byte} {s t : State} (h_s : MemOk s.dev) (hr : execPoolRelease iss inp s = .next t) :
    MemOk t.dev := by
  unfold execPoolRelease ok at hr
  cases hr
  show MemOk _
  repeat' first
    | with_reducible assumption
    | simp only [mk_iff, line_iff, lineMk_iff, wf_iff]
    | with_reducible apply memOk_command
    | with_reducible apply memOk_poolRelease
    | intro _
theorem memOk_countReleased {d : Dev} {slot : Nat} (h_d : MemOk d) :
    MemOk (Dev.countReleased d slot) := by
  unfold Dev.countReleased
  try dsimp only
  repeat' first
    | with_reducible assumption
    | with_reducible apply memOk_modJob
theorem memOk_releaseTurn {d : Dev} {slot : Nat} (h_d : MemOk d) :
    MemOk (Dev.releaseTurn d slot).2 := by
  unfold Dev.releaseTurn
  try dsimp only
  repeat' first
    | with_reducible assumption
    | simp only [mk_iff, line_iff, lineMk_iff, wf_iff]
    | with_reducible apply memOk_dcEvent
    | with_reducible apply memOk_modJob
    | with_reducible apply memOk_finishJob
    | with_reducible apply memOk_countReleased
    | split
theorem memOk_releaseTurn_eq {d : Dev} {slot : Nat} (h_d : MemOk d) {q0 : Turn} {q1 : Dev} (hr : (Dev.releaseTurn d slot) = (q0, q1)) :
    MemOk q1 := by
  have h : MemOk (Dev.releaseTurn d slot).2 := memOk_releaseTurn h_d
  rw [hr] at h
  exact h
theorem memOk_releaseTimeout {d : Dev} {slot : Nat} (h_d : MemOk d) :
    MemOk (Dev.releaseTimeout d slot) := by
  unfold Dev.releaseTimeout
  try dsimp only
  repeat' first
    | with_reducible assumption
    | with_reducible apply memOk_finishJob
    | with_reducible apply memOk_countReleased
    | split
theorem memOk_execPoolReleaseTimeout {slot : Nat} {s t : State} (h_s : MemOk s.dev) (hr : execPoolReleaseTimeout slot s = .next t) :
    MemOk t.dev := by
  unfold execPoolReleaseTimeout ok at hr
  cases hr
  show MemOk _
  repeat' first
    | with_reducible assumption
    | simp only [mk_iff, line_iff, lineMk_iff, wf_iff]
    | with_reducible apply memOk_releaseTimeout
theorem memOk_openUnits {d : Dev} {r : Region} {units : List Nat} (h_d : MemOk d) :
    MemOk (Dev.openUnits d r units).2 := by
  unfold Dev.openUnits
  try dsimp only
  repeat' first
    | with_reducible assumption
    | simp only [mk_iff, line_iff, lineMk_iff, wf_iff]
    | with_reducible (apply memOk_openRange (hr := by assumption))
    | with_reducible apply each_ok2
    | intro _
    | split
theorem memOk_openUnits_eq {d : Dev} {r : Region} {units : List Nat} (h_d : MemOk d) {q0 : List (Nat × Nat)} {q1 : Dev} (hr : (Dev.openUnits d r units) = (q0, q1)) :
    MemOk q1 := by
  have h : MemOk (Dev.openUnits d r units).2 := memOk_openUnits h_d
  rw [hr] at h
  exact h
theorem memOk_offerOwn {d : Dev} {r : Region} {n : Nat} (h_d : MemOk d) :
    MemOk (Dev.offerOwn d r n) := by
  unfold Dev.offerOwn
  try dsimp only
  repeat' first
    | with_reducible assumption
    | with_reducible apply memOk_modLd
    | with_reducible apply memOk_modElastic
    | with_reducible apply memOk_addExtent
    | with_reducible apply memOk_dcEvent
    | with_reducible apply memOk_openUnits
    | with_reducible apply each_ok
    | intro _
    | split
theorem memOk_addOffer {d : Dev} {ld entry : Nat} (h_d : MemOk d) :
    MemOk (Dev.addOffer d ld entry) := by
  unfold Dev.addOffer
  try dsimp only
  repeat' first
    | with_reducible assumption
    | with_reducible apply memOk_offerOwn
    | split
theorem memOk_execAddOfferTimer {ld : Fin 32} {entry : Fin 16} {s t : State} (h_s : MemOk s.dev) (hr : execAddOfferTimer ld entry s = .next t) :
    MemOk t.dev := by
  unfold execAddOfferTimer ok at hr
  cases hr
  show MemOk _
  repeat' first
    | with_reducible assumption
    | simp only [mk_iff, line_iff, lineMk_iff, wf_iff]
    | with_reducible apply memOk_addOffer
theorem memOk_execCapacityRecordInterval {ld : Fin 32} {entry : Fin 16} {s t : State} (h_s : MemOk s.dev) (hr : execCapacityRecordInterval ld entry s = .next t) :
    MemOk t.dev := by
  unfold execCapacityRecordInterval ok at hr
  cases hr
  show MemOk _
  repeat' first
    | with_reducible assumption
    | simp only [mk_iff, line_iff, lineMk_iff, wf_iff]
    | with_reducible apply memOk_capacityInterval
theorem memOk_dcConfig {d : Dev} {iss : Issuer} {inp : List Byte} (h_d : MemOk d) :
    MemOk (Dev.dcConfig d iss inp) := by
  unfold Dev.dcConfig
  try dsimp only
  repeat' first
    | with_reducible assumption
    | with_reducible apply memOk_answerStd
    | split
theorem memOk_execGetDynamicCapacityConfiguration {iss : Issuer} {inp : List Byte} {s t : State} (h_s : MemOk s.dev) (hr : execGetDynamicCapacityConfiguration iss inp s = .next t) :
    MemOk t.dev := by
  unfold execGetDynamicCapacityConfiguration ok at hr
  cases hr
  show MemOk _
  repeat' first
    | with_reducible assumption
    | simp only [mk_iff, line_iff, lineMk_iff, wf_iff]
    | with_reducible apply memOk_command
    | with_reducible apply memOk_dcConfig
    | intro _
theorem memOk_dcList {d : Dev} {iss : Issuer} {inp : List Byte} (h_d : MemOk d) :
    MemOk (Dev.dcList d iss inp) := by
  unfold Dev.dcList
  try dsimp only
  repeat' first
    | with_reducible assumption
    | with_reducible apply memOk_answerStd
    | split
theorem memOk_execGetDynamicCapacityExtentList {iss : Issuer} {inp : List Byte} {s t : State} (h_s : MemOk s.dev) (hr : execGetDynamicCapacityExtentList iss inp s = .next t) :
    MemOk t.dev := by
  unfold execGetDynamicCapacityExtentList ok at hr
  cases hr
  show MemOk _
  repeat' first
    | with_reducible assumption
    | simp only [mk_iff, line_iff, lineMk_iff, wf_iff]
    | with_reducible apply memOk_command
    | with_reducible apply memOk_dcList
    | intro _
theorem memOk_answered {d : Dev} {ld slot accepted refused : Nat} (h_d : MemOk d) :
    MemOk (Dev.answered d ld slot accepted refused) := by
  unfold Dev.answered
  try dsimp only
  repeat' first
    | with_reducible assumption
    | with_reducible apply memOk_modJob
theorem memOk_ownAnswered {d : Dev} {ld entry : Nat} (h_d : MemOk d) :
    MemOk (Dev.ownAnswered d ld entry) := by
  unfold Dev.ownAnswered
  try dsimp only
  repeat' first
    | with_reducible assumption
    | with_reducible apply memOk_modElastic
theorem memOk_dcResponse {d : Dev} {iss : Issuer} {inp : List Byte} (h_d : MemOk d) :
    MemOk (Dev.dcResponse d iss inp) := by
  unfold Dev.dcResponse
  try dsimp only
  repeat' first
    | with_reducible assumption
    | simp only [mk_iff, line_iff, lineMk_iff, wf_iff]
    | with_reducible apply memOk_modLd
    | with_reducible apply memOk_doorbell
    | with_reducible apply memOk_answerStd
    | with_reducible apply memOk_modJob
    | with_reducible apply memOk_dropUnits
    | with_reducible apply memOk_answered
    | with_reducible apply memOk_ownAnswered
    | split
theorem memOk_execAddDynamicCapacityResponse {iss : Issuer} {inp : List Byte} {s t : State} (h_s : MemOk s.dev) (hr : execAddDynamicCapacityResponse iss inp s = .next t) :
    MemOk t.dev := by
  unfold execAddDynamicCapacityResponse ok at hr
  cases hr
  show MemOk _
  repeat' first
    | with_reducible assumption
    | simp only [mk_iff, line_iff, lineMk_iff, wf_iff]
    | with_reducible apply memOk_command
    | with_reducible apply memOk_dcResponse
    | intro _
theorem memOk_dcRelease {d : Dev} {iss : Issuer} {inp : List Byte} (h_d : MemOk d) :
    MemOk (Dev.dcRelease d iss inp) := by
  unfold Dev.dcRelease
  try dsimp only
  repeat' first
    | with_reducible assumption
    | with_reducible apply memOk_doorbell
    | with_reducible apply memOk_markUnits
    | with_reducible apply memOk_answerStd
    | split
theorem memOk_execReleaseDynamicCapacity {iss : Issuer} {inp : List Byte} {s t : State} (h_s : MemOk s.dev) (hr : execReleaseDynamicCapacity iss inp s = .next t) :
    MemOk t.dev := by
  unfold execReleaseDynamicCapacity ok at hr
  cases hr
  show MemOk _
  repeat' first
    | with_reducible assumption
    | simp only [mk_iff, line_iff, lineMk_iff, wf_iff]
    | with_reducible apply memOk_command
    | with_reducible apply memOk_dcRelease
    | intro _
theorem memOk_validate {d : Dev} {ld : Nat} {x : Extent} (h_d : MemOk d) :
    MemOk (Dev.validate d ld x) := by
  unfold Dev.validate
  try dsimp only
  repeat' first
    | with_reducible assumption
    | with_reducible apply memOk_post
    | with_reducible (apply memOk_makeS1 (hr := by assumption))
    | with_reducible apply memOk_setExt
    | with_reducible apply each_ok
    | intro _
    | split
theorem memOk_invalidate {d : Dev} {ld : Nat} {x : Extent} (h_d : MemOk d) :
    MemOk (Dev.invalidate d ld x) := by
  unfold Dev.invalidate
  try dsimp only
  repeat' first
    | with_reducible assumption
    | with_reducible apply memOk_post
    | with_reducible apply memOk_setExt
    | with_reducible apply memOk_dropSharer
    | with_reducible apply each_ok
    | intro _
    | split
theorem memOk_pinNew {d : Dev} {ld : Nat} {new : List Extent} (h_d : MemOk d) :
    MemOk (Dev.pinNew d ld new) := by
  unfold Dev.pinNew
  try dsimp only
  repeat' first
    | with_reducible assumption
    | with_reducible apply memOk_pinExt
    | with_reducible apply each_ok
    | intro _
    | split
theorem memOk_extentsBoundary {d : Dev} (h_d : MemOk d) :
    MemOk (Dev.extentsBoundary d) := by
  unfold Dev.extentsBoundary
  try dsimp only
  repeat' first
    | with_reducible assumption
    | with_reducible apply memOk_modLd
    | with_reducible apply memOk_cdat
    | with_reducible apply memOk_validate
    | with_reducible apply memOk_invalidate
    | with_reducible apply memOk_pinNew
    | with_reducible apply each_ok
    | intro _
    | split
theorem memOk_streamCmd {d : Dev} {iss : Issuer} {inp : List Byte} (h_d : MemOk d) :
    MemOk (Dev.streamCmd d iss inp) := by
  unfold Dev.streamCmd
  try dsimp only
  repeat' first
    | with_reducible assumption
    | simp only [mk_iff, line_iff, lineMk_iff, wf_iff]
    | with_reducible apply memOk_submit
    | intro _
theorem memOk_execPrismStream {iss : Issuer} {inp : List Byte} {s t : State} (h_s : MemOk s.dev) (hr : execPrismStream iss inp s = .next t) :
    MemOk t.dev := by
  unfold execPrismStream ok at hr
  cases hr
  show MemOk _
  repeat' first
    | with_reducible assumption
    | simp only [mk_iff, line_iff, lineMk_iff, wf_iff]
    | with_reducible apply memOk_command
    | with_reducible apply memOk_streamCmd
    | intro _
theorem memOk_bytesRead {d : Dev} {l : List (Option Line)} (h_d : MemOk d) :
    MemOk (Dev.bytesRead d l).2 := by
  unfold Dev.bytesRead
  try dsimp only
  repeat' first
    | with_reducible assumption
    | simp only [mk_iff, line_iff, lineMk_iff, wf_iff]
    | with_reducible apply memOk_free
    | with_reducible apply each_ok2
    | intro _
    | split
theorem memOk_bytesRead_eq {d : Dev} {l : List (Option Line)} (h_d : MemOk d) {q0 : List Byte} {q1 : Dev} (hr : (Dev.bytesRead d l) = (q0, q1)) :
    MemOk q1 := by
  have h : MemOk (Dev.bytesRead d l).2 := memOk_bytesRead h_d
  rw [hr] at h
  exact h
theorem memOk_streamStop {d : Dev} {slot : Nat} {fin : JState} {result : Nat} (h_d : MemOk d) :
    MemOk (Dev.streamStop d slot fin result) := by
  unfold Dev.streamStop
  try dsimp only
  repeat' first
    | with_reducible assumption
    | with_reducible apply memOk_modJob
theorem memOk_streamRead {d : Dev} {slot : Nat} {j : Job} {a i : Nat} {r0 : Dev} (h_d : MemOk d) (hr : (Dev.streamRead d slot j a i) = some r0) :
    MemOk r0 := by
  unfold Dev.streamRead at hr
  try dsimp only at hr
  repeat' first
    | (simp only [Option.some.injEq, Prod.mk.injEq, Option.map_eq_some_iff, Option.bind_eq_some_iff, Except.ok.injEq, reduceCtorEq] at hr)
    | (subst hr)
    | (split at hr)
    | with_reducible assumption
    | with_reducible apply memOk_setJob
    | with_reducible (apply memOk_jobRead (hr := by assumption))
theorem memOk_streamLoad {d : Dev} {slot : Nat} {j : Job} (h_d : MemOk d) :
    MemOk (Dev.streamLoad d slot j) := by
  unfold Dev.streamLoad
  try dsimp only
  repeat' first
    | with_reducible assumption
    | with_reducible apply memOk_setJob
    | with_reducible apply memOk_bytesRead
    | with_reducible apply memOk_streamStop
    | split
theorem memOk_streamStepJob {d : Dev} {slot : Nat} {r0 : Dev} (h_d : MemOk d) (hr : (Dev.streamStepJob d slot) = some r0) :
    MemOk r0 := by
  unfold Dev.streamStepJob at hr
  try dsimp only at hr
  repeat' first
    | (simp only [Option.some.injEq, Prod.mk.injEq, Option.map_eq_some_iff, Option.bind_eq_some_iff, Except.ok.injEq, reduceCtorEq] at hr)
    | (subst hr)
    | (split at hr)
    | with_reducible assumption
    | with_reducible apply memOk_setJob
    | with_reducible apply memOk_finishJob
    | with_reducible (apply memOk_jobWrite (hr := by assumption))
    | with_reducible (apply memOk_streamRead (hr := by assumption))
    | with_reducible apply memOk_streamLoad
theorem memOk_streamPump {d : Dev} {slot : Nat} (h_d : MemOk d) :
    MemOk (Dev.streamPump d slot) := by
  unfold Dev.streamPump
  try dsimp only
  repeat' first
    | with_reducible assumption
    | with_reducible apply memOk_repeatStep
    | with_reducible (apply memOk_streamStepJob (hr := by assumption))
    | intro _
theorem memOk_streamDone {d : Dev} {slot : Nat} {j : Job} {e : List Byte} {s : Stream} {out : List Byte} {inDone : Nat} {full : Bool} (h_d : MemOk d) :
    MemOk (Dev.streamDone d slot j e s out inDone full) := by
  unfold Dev.streamDone
  try dsimp only
  repeat' first
    | with_reducible assumption
    | with_reducible apply memOk_setJob
theorem memOk_streamFail {d : Dev} {slot : Nat} {j : Job} {e : List Byte} {s : Stream} {out : List Byte} {st : Status} (h_d : MemOk d) :
    MemOk (Dev.streamFail d slot j e s out st) := by
  unfold Dev.streamFail
  try dsimp only
  repeat' first
    | with_reducible assumption
    | with_reducible apply memOk_setJob
    | with_reducible apply memOk_streamStop
theorem memOk_runDescriptor {d : Dev} {slot : Nat} {j : Job} {coded : List Byte} (h_d : MemOk d) :
    MemOk (Dev.runDescriptor d slot j coded) := by
  unfold Dev.runDescriptor
  try dsimp only
  repeat' first
    | with_reducible assumption
    | with_reducible apply memOk_bytesRead
    | with_reducible apply memOk_streamDone
    | with_reducible apply memOk_streamFail
    | split
theorem memOk_descriptorDone {d : Dev} {slot : Nat} {coded : List Byte} (h_d : MemOk d) :
    MemOk (Dev.descriptorDone d slot coded) := by
  unfold Dev.descriptorDone
  try dsimp only
  repeat' first
    | with_reducible assumption
    | with_reducible apply memOk_streamPump
    | with_reducible apply memOk_runDescriptor
    | split
theorem memOk_execStreamDescriptorDone {slot : Nat} {coded : List Byte} {s t : State} (h_s : MemOk s.dev) (hr : execStreamDescriptorDone slot coded s = .next t) :
    MemOk t.dev := by
  unfold execStreamDescriptorDone ok at hr
  cases hr
  show MemOk _
  repeat' first
    | with_reducible assumption
    | simp only [mk_iff, line_iff, lineMk_iff, wf_iff]
    | with_reducible apply memOk_descriptorDone
theorem memOk_streamEngines {d : Dev} (h_d : MemOk d) :
    MemOk (Dev.streamEngines d) := by
  unfold Dev.streamEngines
  try dsimp only
  repeat' first
    | with_reducible assumption
    | simp only [mk_iff, line_iff, lineMk_iff, wf_iff]
    | with_reducible apply each_ok
    | intro _
    | split
theorem memOk_streamProgress {d : Dev} {slot : Nat} {j : Job} (h_d : MemOk d) :
    MemOk (Dev.streamProgress d slot j) := by
  unfold Dev.streamProgress
  try dsimp only
  repeat' first
    | with_reducible assumption
    | with_reducible apply memOk_free
    | with_reducible apply memOk_setJob
    | with_reducible apply memOk_bytesRead
    | split
theorem memOk_streamYield {d : Dev} {slot : Nat} (h_d : MemOk d) :
    MemOk (Dev.streamYield d slot) := by
  unfold Dev.streamYield
  try dsimp only
  repeat' first
    | with_reducible assumption
    | simp only [mk_iff, line_iff, lineMk_iff, wf_iff]
    | with_reducible apply memOk_modJob
    | with_reducible apply memOk_streamProgress
    | split
theorem memOk_streamYields {d : Dev} (h_d : MemOk d) :
    MemOk (Dev.streamYields d) := by
  unfold Dev.streamYields
  try dsimp only
  repeat' first
    | with_reducible assumption
    | simp only [mk_iff, line_iff, lineMk_iff, wf_iff]
    | with_reducible apply memOk_streamYield
    | with_reducible apply each_ok
    | intro _
    | split
theorem memOk_sliceExpiry {d : Dev} {slot : Nat} (h_d : MemOk d) :
    MemOk (Dev.sliceExpiry d slot) := by
  unfold Dev.sliceExpiry
  try dsimp only
  repeat' first
    | with_reducible assumption
    | simp only [mk_iff, line_iff, lineMk_iff, wf_iff]
    | split
theorem memOk_execStreamSliceExpiry {slot : Nat} {s t : State} (h_s : MemOk s.dev) (hr : execStreamSliceExpiry slot s = .next t) :
    MemOk t.dev := by
  unfold execStreamSliceExpiry ok at hr
  cases hr
  show MemOk _
  repeat' first
    | with_reducible assumption
    | simp only [mk_iff, line_iff, lineMk_iff, wf_iff]
    | with_reducible apply memOk_sliceExpiry
theorem memOk_endScan {d : Dev} {x : Scan} (h_d : MemOk d) :
    MemOk (Dev.endScan d x) := by
  unfold Dev.endScan
  try dsimp only
  repeat' first
    | with_reducible assumption
    | simp only [mk_iff, line_iff, lineMk_iff, wf_iff]
    | with_reducible apply memOk_endBg
    | split
theorem memOk_checkScan {d : Dev} (h_d : MemOk d) :
    MemOk (Dev.checkScan d) := by
  unfold Dev.checkScan
  try dsimp only
  repeat' first
    | with_reducible assumption
    | with_reducible apply memOk_endScan
    | split
theorem memOk_abortForeground {d : Dev} {ld : Nat} (h_d : MemOk d) :
    MemOk (Dev.abortForeground d ld) := by
  unfold Dev.abortForeground
  try dsimp only
  repeat' first
    | with_reducible assumption
    | simp only [mk_iff, line_iff, lineMk_iff, wf_iff]
theorem memOk_dropForeign {d : Dev} {ld : Nat} (h_d : MemOk d) :
    MemOk (Dev.dropForeign d ld) := by
  unfold Dev.dropForeign
  try dsimp only
  repeat' first
    | with_reducible assumption
    | simp only [mk_iff, line_iff, lineMk_iff, wf_iff]
    | with_reducible apply memOk_snoopFails
    | with_reducible apply each_ok
theorem memOk_ldReset {d : Dev} {ld cause : Nat} (h_d : MemOk d) :
    MemOk (Dev.ldReset d ld cause) := by
  unfold Dev.ldReset
  try dsimp only
  repeat' first
    | with_reducible assumption
    | simp only [mk_iff, line_iff, lineMk_iff, wf_iff]
    | with_reducible apply memOk_modLd
    | with_reducible apply memOk_loseLd
    | with_reducible apply memOk_abortForeground
    | with_reducible apply memOk_dropForeign
theorem memOk_ldResetEnd {d : Dev} {ld : Nat} (h_d : MemOk d) :
    MemOk (Dev.ldResetEnd d ld) := by
  unfold Dev.ldResetEnd
  try dsimp only
  repeat' first
    | with_reducible assumption
    | with_reducible apply memOk_modLd
    | split
theorem memOk_execLdResetEnd {ld : Fin 32} {s t : State} (h_s : MemOk s.dev) (hr : execLdResetEnd ld s = .next t) :
    MemOk t.dev := by
  unfold execLdResetEnd ok at hr
  cases hr
  show MemOk _
  repeat' first
    | with_reducible assumption
    | simp only [mk_iff, line_iff, lineMk_iff, wf_iff]
    | with_reducible apply memOk_ldResetEnd
theorem memOk_flr {d : Dev} {ld : Nat} (h_d : MemOk d) :
    MemOk (Dev.flr d ld) := by
  unfold Dev.flr
  try dsimp only
  repeat' first
    | with_reducible assumption
    | with_reducible apply memOk_ldReset
    | split
theorem memOk_execFunctionLevelReset {ld : Fin 32} {s t : State} (h_s : MemOk s.dev) (hr : execFunctionLevelReset ld s = .next t) :
    MemOk t.dev := by
  unfold execFunctionLevelReset ok at hr
  cases hr
  show MemOk _
  repeat' first
    | with_reducible assumption
    | simp only [mk_iff, line_iff, lineMk_iff, wf_iff]
    | with_reducible apply memOk_flow
    | with_reducible apply memOk_flr
theorem memOk_execFmApiResetCommand {lds : BitVec 32} {s t : State} (h_s : MemOk s.dev) (hr : execFmApiResetCommand lds s = .next t) :
    MemOk t.dev := by
  unfold execFmApiResetCommand ok at hr
  cases hr
  show MemOk _
  repeat' first
    | with_reducible assumption
    | simp only [mk_iff, line_iff, lineMk_iff, wf_iff]
    | with_reducible apply memOk_flow
    | with_reducible apply memOk_flr
    | with_reducible apply each_ok
theorem memOk_hostDown {d : Dev} {l cause : Nat} (h_d : MemOk d) :
    MemOk (Dev.hostDown d l cause) := by
  unfold Dev.hostDown
  try dsimp only
  repeat' first
    | with_reducible assumption
    | simp only [mk_iff, line_iff, lineMk_iff, wf_iff]
    | with_reducible apply memOk_modLink
    | with_reducible apply memOk_checkScan
    | with_reducible apply memOk_ldReset
    | with_reducible apply each_ok
    | intro _
    | split
theorem memOk_execHostLinkDown {l : Link} {s t : State} (h_s : MemOk s.dev) (hr : execHostLinkDown l s = .next t) :
    MemOk t.dev := by
  unfold execHostLinkDown ok at hr
  cases hr
  show MemOk _
  repeat' first
    | with_reducible assumption
    | simp only [mk_iff, line_iff, lineMk_iff, wf_iff]
    | with_reducible apply memOk_flow
    | with_reducible apply memOk_hostDown
theorem memOk_execHostHotReset {l : Link} {s t : State} (h_s : MemOk s.dev) (hr : execHostHotReset l s = .next t) :
    MemOk t.dev := by
  unfold execHostHotReset ok at hr
  cases hr
  show MemOk _
  repeat' first
    | with_reducible assumption
    | simp only [mk_iff, line_iff, lineMk_iff, wf_iff]
    | with_reducible apply memOk_flow
    | with_reducible apply memOk_hostDown

end Sys2Proof.Laws
end

