-- ==== Sys2Proof/Laws/MemOk5.lean ====
section
/-! SUPPORT. Every operation of the model keeps the media contents in their canonical form: one lemma an operation, and one a command's meaning (part 5 of 8). -/

set_option linter.unusedSimpArgs false
set_option linter.unusedVariables false

namespace Sys2Proof.Laws

open Sys2Proof Sys2Proof.Machine

theorem memOk_hostUp {d : Dev} {l : Nat} {cxl flit256 mld : Bool} {width : Nat} {rate : BitVec 8} {ndr drs bisnp : Nat} (h_d : MemOk d) :
    MemOk (Dev.hostUp d l cxl flit256 mld width rate ndr drs bisnp) := by
  unfold Dev.hostUp
  try dsimp only
  repeat' first
    | with_reducible assumption
    | with_reducible apply memOk_setLink
    | with_reducible apply memOk_flush
    | with_reducible apply memOk_loseLd
    | with_reducible apply memOk_dropForeign
    | with_reducible apply each_ok
    | intro _
    | split
theorem memOk_execHostLinkUp {l : Link} {cxl : Bool} {flit256 : Bool} {mld : Bool} {width : Nat} {rate : BitVec 8} {ndr : Nat} {drs : Nat} {bisnp : Nat} {s t : State} (h_s : MemOk s.dev) (hr : execHostLinkUp l cxl flit256 mld width rate ndr drs bisnp s = .next t) :
    MemOk t.dev := by
  unfold execHostLinkUp ok at hr
  cases hr
  show MemOk _
  repeat' first
    | with_reducible assumption
    | simp only [mk_iff, line_iff, lineMk_iff, wf_iff]
    | with_reducible apply memOk_flow
    | with_reducible apply memOk_hostUp
theorem memOk_hostLinkError {d : Dev} {l : Nat} {correctable : Bool} {n : Nat} (h_d : MemOk d) :
    MemOk (Dev.hostLinkError d l correctable n) := by
  unfold Dev.hostLinkError
  try dsimp only
  repeat' first
    | with_reducible assumption
    | with_reducible apply memOk_modLink
    | with_reducible apply memOk_faultEvent
    | split
theorem memOk_execHostLinkError {l : Link} {correctable : Bool} {bit : BitVec 5} {s t : State} (h_s : MemOk s.dev) (hr : execHostLinkError l correctable bit s = .next t) :
    MemOk t.dev := by
  unfold execHostLinkError ok at hr
  cases hr
  show MemOk _
  repeat' first
    | with_reducible assumption
    | simp only [mk_iff, line_iff, lineMk_iff, wf_iff]
    | with_reducible apply memOk_hostLinkError
theorem memOk_creditReturn {d : Dev} {l ndr drs bisnp : Nat} (h_d : MemOk d) :
    MemOk (Dev.creditReturn d l ndr drs bisnp) := by
  unfold Dev.creditReturn
  try dsimp only
  repeat' first
    | with_reducible assumption
    | with_reducible apply memOk_modLink
    | with_reducible apply memOk_flush
    | split
theorem memOk_execS2mCreditReturn {l : Link} {ndr : Nat} {drs : Nat} {bisnp : Nat} {s t : State} (h_s : MemOk s.dev) (hr : execS2mCreditReturn l ndr drs bisnp s = .next t) :
    MemOk t.dev := by
  unfold execS2mCreditReturn ok at hr
  cases hr
  show MemOk _
  repeat' first
    | with_reducible assumption
    | simp only [mk_iff, line_iff, lineMk_iff, wf_iff]
    | with_reducible apply memOk_creditReturn
theorem memOk_wantWidth {d : Dev} {l : Nat} (h_d : MemOk d) :
    MemOk (Dev.wantWidth d l) := by
  unfold Dev.wantWidth
  try dsimp only
  repeat' first
    | with_reducible assumption
    | with_reducible apply memOk_modLink
    | split
theorem memOk_startWidths {d : Dev} (h_d : MemOk d) :
    MemOk (Dev.startWidths d) := by
  unfold Dev.startWidths
  try dsimp only
  repeat' first
    | with_reducible assumption
    | with_reducible apply memOk_modLink
    | with_reducible apply memOk_checkScan
    | with_reducible apply each_ok
    | intro _
    | split
theorem memOk_loseHostLane {d : Dev} {p lane : Nat} (h_d : MemOk d) :
    MemOk (Dev.loseHostLane d p lane) := by
  unfold Dev.loseHostLane
  try dsimp only
  repeat' first
    | with_reducible assumption
    | with_reducible apply memOk_modLink
    | with_reducible apply memOk_modPort
    | with_reducible apply memOk_hostDown
    | with_reducible apply memOk_wantWidth
    | split
theorem memOk_hostWidthDone {d : Dev} {l : Nat} (h_d : MemOk d) :
    MemOk (Dev.hostWidthDone d l) := by
  unfold Dev.hostWidthDone
  try dsimp only
  repeat' first
    | with_reducible assumption
    | with_reducible apply memOk_setLink
    | with_reducible apply memOk_flush
    | with_reducible apply memOk_cdat
    | with_reducible apply memOk_hostDown
    | with_reducible apply each_ok
    | split
theorem memOk_execHostWidthResetDone {l : Link} {s t : State} (h_s : MemOk s.dev) (hr : execHostWidthResetDone l s = .next t) :
    MemOk t.dev := by
  unfold execHostWidthResetDone ok at hr
  cases hr
  show MemOk _
  repeat' first
    | with_reducible assumption
    | simp only [mk_iff, line_iff, lineMk_iff, wf_iff]
    | with_reducible apply memOk_flow
    | with_reducible apply memOk_hostWidthDone
theorem memOk_viralBoundary {d : Dev} (h_d : MemOk d) :
    MemOk (Dev.viralBoundary d) := by
  unfold Dev.viralBoundary
  try dsimp only
  repeat' first
    | with_reducible assumption
    | with_reducible apply memOk_modLink
    | with_reducible apply memOk_loseLd
    | with_reducible apply memOk_dropForeign
    | with_reducible apply each_ok
    | intro _
    | split
theorem memOk_ideKm {d : Dev} {l : Nat} {io containment : Bool} {key : BitVec 256} (h_d : MemOk d) :
    MemOk (Dev.ideKm d l io containment key) := by
  unfold Dev.ideKm
  try dsimp only
  repeat' first
    | with_reducible assumption
    | with_reducible apply memOk_modLink
    | split
theorem memOk_execIdeKmKeyProgramming {l : Link} {cxlIo : Bool} {containment : Bool} {key : BitVec 256} {s t : State} (h_s : MemOk s.dev) (hr : execIdeKmKeyProgramming l cxlIo containment key s = .next t) :
    MemOk t.dev := by
  unfold execIdeKmKeyProgramming ok at hr
  cases hr
  show MemOk _
  repeat' first
    | with_reducible assumption
    | simp only [mk_iff, line_iff, lineMk_iff, wf_iff]
    | with_reducible apply memOk_ideKm
theorem memOk_ideFail {d : Dev} {l : Nat} {io : Bool} (h_d : MemOk d) :
    MemOk (Dev.ideFail d l io) := by
  unfold Dev.ideFail
  try dsimp only
  repeat' first
    | with_reducible assumption
    | with_reducible apply memOk_setLink
    | with_reducible apply memOk_alarm
    | with_reducible apply memOk_enterViral
    | split
theorem memOk_execIdeIntegrityFailure {l : Link} {cxlIo : Bool} {s t : State} (h_s : MemOk s.dev) (hr : execIdeIntegrityFailure l cxlIo s = .next t) :
    MemOk t.dev := by
  unfold execIdeIntegrityFailure ok at hr
  cases hr
  show MemOk _
  repeat' first
    | with_reducible assumption
    | simp only [mk_iff, line_iff, lineMk_iff, wf_iff]
    | with_reducible apply memOk_ideFail
theorem memOk_commitDecoder {d : Dev} {ld n : Nat} {k : Decoder} (h_d : MemOk d) :
    MemOk (Dev.commitDecoder d ld n k) := by
  unfold Dev.commitDecoder
  try dsimp only
  repeat' first
    | with_reducible assumption
    | with_reducible apply memOk_modLd
    | split
theorem memOk_execHdmDecoderCommit {ld : Fin 32} {n : Fin 4} {dec : Decoder} {s t : State} (h_s : MemOk s.dev) (hr : execHdmDecoderCommit ld n dec s = .next t) :
    MemOk t.dev := by
  unfold execHdmDecoderCommit ok at hr
  cases hr
  show MemOk _
  repeat' first
    | with_reducible assumption
    | simp only [mk_iff, line_iff, lineMk_iff, wf_iff]
    | with_reducible apply memOk_commitDecoder
theorem memOk_biWrite {d : Dev} {l : Nat} {enable : Bool} (h_d : MemOk d) :
    MemOk (Dev.biWrite d l enable) := by
  unfold Dev.biWrite
  try dsimp only
  repeat' first
    | with_reducible assumption
    | with_reducible apply memOk_modLd
    | with_reducible apply memOk_modLink
    | with_reducible apply memOk_loseLd
    | with_reducible apply memOk_dropForeign
    | with_reducible apply each_ok
    | intro _
    | split
theorem memOk_execBiEnableWrite {l : Link} {enable : Bool} {s t : State} (h_s : MemOk s.dev) (hr : execBiEnableWrite l enable s = .next t) :
    MemOk t.dev := by
  unfold execBiEnableWrite ok at hr
  cases hr
  show MemOk _
  repeat' first
    | with_reducible assumption
    | simp only [mk_iff, line_iff, lineMk_iff, wf_iff]
    | with_reducible apply memOk_flow
    | with_reducible apply memOk_biWrite
theorem memOk_unmask {d : Dev} {ld v : Nat} (h_d : MemOk d) :
    MemOk (Dev.unmask d ld v) := by
  unfold Dev.unmask
  try dsimp only
  repeat' first
    | with_reducible assumption
    | with_reducible apply memOk_setVec
    | with_reducible apply memOk_msix
    | split
theorem memOk_execMsixVectorUnmask {ld : Fin 32} {vec : Fin 8} {s t : State} (h_s : MemOk s.dev) (hr : execMsixVectorUnmask ld vec s = .next t) :
    MemOk t.dev := by
  unfold execMsixVectorUnmask ok at hr
  cases hr
  show MemOk _
  repeat' first
    | with_reducible assumption
    | simp only [mk_iff, line_iff, lineMk_iff, wf_iff]
    | with_reducible apply memOk_settle
    | with_reducible apply memOk_unmask
theorem memOk_cdatRead {d : Dev} {ld entry : Nat} (h_d : MemOk d) :
    MemOk (Dev.cdatRead d ld entry) := by
  unfold Dev.cdatRead
  try dsimp only
  repeat' first
    | with_reducible assumption
    | with_reducible apply memOk_modLd
    | with_reducible apply memOk_say
    | with_reducible apply memOk_free
    | split
theorem memOk_execDoeCdatRead {ld : Fin 32} {entry : Nat} {s t : State} (h_s : MemOk s.dev) (hr : execDoeCdatRead ld entry s = .next t) :
    MemOk t.dev := by
  unfold execDoeCdatRead ok at hr
  cases hr
  show MemOk _
  repeat' first
    | with_reducible assumption
    | simp only [mk_iff, line_iff, lineMk_iff, wf_iff]
    | with_reducible apply memOk_cdatRead
theorem memOk_doorbellWrite {d : Dev} {n : Nat} (h_d : MemOk d) :
    MemOk (Dev.doorbellWrite d n) := by
  unfold Dev.doorbellWrite
  try dsimp only
  repeat' first
    | with_reducible assumption
    | with_reducible apply memOk_doorbell
    | split
theorem memOk_execInterruptDoorbell {source : BitVec 10} {s t : State} (h_s : MemOk s.dev) (hr : execInterruptDoorbell source s = .next t) :
    MemOk t.dev := by
  unfold execInterruptDoorbell ok at hr
  cases hr
  show MemOk _
  repeat' first
    | with_reducible assumption
    | simp only [mk_iff, line_iff, lineMk_iff, wf_iff]
    | with_reducible apply memOk_doorbellWrite
theorem memOk_acknowledge {d : Dev} {core n : Nat} (h_d : MemOk d) :
    MemOk (Dev.acknowledge d core n) := by
  unfold Dev.acknowledge
  try dsimp only
  repeat' first
    | with_reducible assumption
    | simp only [mk_iff, line_iff, lineMk_iff, wf_iff]
    | with_reducible apply memOk_readLastError
    | split
theorem memOk_execInterruptAcknowledge {core : Fin 16} {source : Nat} {s t : State} (h_s : MemOk s.dev) (hr : execInterruptAcknowledge core source s = .next t) :
    MemOk t.dev := by
  unfold execInterruptAcknowledge ok at hr
  cases hr
  show MemOk _
  repeat' first
    | with_reducible assumption
    | simp only [mk_iff, line_iff, lineMk_iff, wf_iff]
    | with_reducible apply memOk_acknowledge
theorem memOk_coalesceTime {d : Dev} {w : Coalesced} (h_d : MemOk d) :
    MemOk (Dev.coalesceTime d w) := by
  unfold Dev.coalesceTime
  try dsimp only
  repeat' first
    | with_reducible assumption
    | with_reducible apply memOk_deliver
    | with_reducible apply memOk_fireVec
    | with_reducible apply memOk_settle
    | split
theorem memOk_execCoalesceTimeExpiry {what : Coalesced} {s t : State} (h_s : MemOk s.dev) (hr : execCoalesceTimeExpiry what s = .next t) :
    MemOk t.dev := by
  unfold execCoalesceTimeExpiry ok at hr
  cases hr
  show MemOk _
  repeat' first
    | with_reducible assumption
    | simp only [mk_iff, line_iff, lineMk_iff, wf_iff]
    | with_reducible apply memOk_coalesceTime
theorem memOk_intBoundary {d : Dev} (h_d : MemOk d) :
    MemOk (Dev.intBoundary d) := by
  unfold Dev.intBoundary
  try dsimp only
  repeat' first
    | with_reducible assumption
    | simp only [mk_iff, line_iff, lineMk_iff, wf_iff]
    | with_reducible apply memOk_deliver
    | with_reducible apply memOk_ring
    | with_reducible apply memOk_settle
    | with_reducible apply each_ok
    | intro _
    | split
theorem memOk_pinEdge {d : Dev} {p : Nat} {high : Bool} (h_d : MemOk d) :
    MemOk (Dev.pinEdge d p high) := by
  unfold Dev.pinEdge
  try dsimp only
  repeat' first
    | with_reducible assumption
    | simp only [mk_iff, line_iff, lineMk_iff, wf_iff]
    | with_reducible apply memOk_doorbell
    | split
theorem memOk_logRecord {d : Dev} {ld : Nat} {r : Rec} (h_d : MemOk d) :
    MemOk (Dev.logRecord d ld r) := by
  unfold Dev.logRecord
  try dsimp only
  repeat' first
    | with_reducible assumption
    | with_reducible apply memOk_modLd
    | with_reducible apply memOk_vecEvent
    | split
theorem memOk_deliverRecord {d : Dev} (h_d : MemOk d) :
    MemOk (Dev.deliverRecord d) := by
  unfold Dev.deliverRecord
  try dsimp only
  repeat' first
    | with_reducible assumption
    | simp only [mk_iff, line_iff, lineMk_iff, wf_iff]
    | with_reducible apply memOk_say
    | with_reducible apply memOk_settle
    | with_reducible apply memOk_logRecord
    | with_reducible apply each_ok
    | intro _
    | split
theorem memOk_execRecordDelivery  {s t : State} (h_s : MemOk s.dev) (hr : execRecordDelivery s = .next t) :
    MemOk t.dev := by
  unfold execRecordDelivery ok at hr
  cases hr
  show MemOk _
  repeat' first
    | with_reducible assumption
    | simp only [mk_iff, line_iff, lineMk_iff, wf_iff]
    | with_reducible apply memOk_deliverRecord
theorem memOk_countRead {d : Dev} {iss : Issuer} {inp : List Byte} (h_d : MemOk d) :
    MemOk (Dev.countRead d iss inp) := by
  unfold Dev.countRead
  try dsimp only
  repeat' first
    | with_reducible assumption
    | simp only [mk_iff, line_iff, lineMk_iff, wf_iff]
    | with_reducible apply memOk_reply
    | with_reducible apply memOk_refuse
    | with_reducible apply memOk_badLength
    | split
theorem memOk_execCountRead {iss : Issuer} {inp : List Byte} {s t : State} (h_s : MemOk s.dev) (hr : execCountRead iss inp s = .next t) :
    MemOk t.dev := by
  unfold execCountRead ok at hr
  cases hr
  show MemOk _
  repeat' first
    | with_reducible assumption
    | simp only [mk_iff, line_iff, lineMk_iff, wf_iff]
    | with_reducible apply memOk_command
    | with_reducible apply memOk_countRead
    | intro _
theorem memOk_answerCounts {d : Dev} (h_d : MemOk d) :
    MemOk (Dev.answerCounts d) := by
  unfold Dev.answerCounts
  try dsimp only
  repeat' first
    | with_reducible assumption
    | simp only [mk_iff, line_iff, lineMk_iff, wf_iff]
    | with_reducible apply memOk_finish
    | with_reducible apply each_ok
    | intro _
theorem memOk_countWatch {d : Dev} {iss : Issuer} {inp : List Byte} (h_d : MemOk d) :
    MemOk (Dev.countWatch d iss inp) := by
  unfold Dev.countWatch
  try dsimp only
  repeat' first
    | with_reducible assumption
    | simp only [mk_iff, line_iff, lineMk_iff, wf_iff]
    | with_reducible apply memOk_reply
    | with_reducible apply memOk_refuse
    | with_reducible apply memOk_badLength
    | split
theorem memOk_execCountWatch {iss : Issuer} {inp : List Byte} {s t : State} (h_s : MemOk s.dev) (hr : execCountWatch iss inp s = .next t) :
    MemOk t.dev := by
  unfold execCountWatch ok at hr
  cases hr
  show MemOk _
  repeat' first
    | with_reducible assumption
    | simp only [mk_iff, line_iff, lineMk_iff, wf_iff]
    | with_reducible apply memOk_command
    | with_reducible apply memOk_countWatch
    | intro _
theorem memOk_counterError {d : Dev} {w : CtrWord} (h_d : MemOk d) :
    MemOk (Dev.counterError d w) := by
  unfold Dev.counterError
  try dsimp only
  repeat' first
    | with_reducible assumption
    | simp only [mk_iff, line_iff, lineMk_iff, wf_iff]
    | with_reducible apply memOk_modLd
    | with_reducible apply memOk_faultEvent
    | split
theorem memOk_execCounterStoreError {where_ : CtrWord} {s t : State} (h_s : MemOk s.dev) (hr : execCounterStoreError where_ s = .next t) :
    MemOk t.dev := by
  unfold execCounterStoreError ok at hr
  cases hr
  show MemOk _
  repeat' first
    | with_reducible assumption
    | simp only [mk_iff, line_iff, lineMk_iff, wf_iff]
    | with_reducible apply memOk_counterError
theorem memOk_clearInvalid {d : Dev} {i : Nat} (h_d : MemOk d) :
    MemOk (Dev.clearInvalid d i) := by
  unfold Dev.clearInvalid
  try dsimp only
  repeat' first
    | with_reducible assumption
    | simp only [mk_iff, line_iff, lineMk_iff, wf_iff]
    | split
theorem memOk_execCounterInvalidClear {ctr : Nat} {s t : State} (h_s : MemOk s.dev) (hr : execCounterInvalidClear ctr s = .next t) :
    MemOk t.dev := by
  unfold execCounterInvalidClear ok at hr
  cases hr
  show MemOk _
  repeat' first
    | with_reducible assumption
    | simp only [mk_iff, line_iff, lineMk_iff, wf_iff]
    | with_reducible apply memOk_clearInvalid
theorem memOk_restartCounters {d : Dev} (h_d : MemOk d) :
    MemOk (Dev.restartCounters d) := by
  unfold Dev.restartCounters
  try dsimp only
  repeat' first
    | with_reducible assumption
    | simp only [mk_iff, line_iff, lineMk_iff, wf_iff]
    | with_reducible apply memOk_bump
    | with_reducible apply each_ok
    | intro _
theorem memOk_loadWatches {d : Dev} (h_d : MemOk d) :
    MemOk (Dev.loadWatches d) := by
  unfold Dev.loadWatches
  try dsimp only
  repeat' first
    | with_reducible assumption
    | simp only [mk_iff, line_iff, lineMk_iff, wf_iff]
    | with_reducible apply each_ok
    | intro _
theorem memOk_snapAsk {d : Dev} {ld : Nat} (h_d : MemOk d) :
    MemOk (Dev.snapAsk d ld) := by
  unfold Dev.snapAsk
  try dsimp only
  repeat' first
    | with_reducible assumption
    | with_reducible apply memOk_modLd
    | split
theorem memOk_execSnapDoorbell {ld : Fin 32} {s t : State} (h_s : MemOk s.dev) (hr : execSnapDoorbell ld s = .next t) :
    MemOk t.dev := by
  unfold execSnapDoorbell ok at hr
  cases hr
  show MemOk _
  repeat' first
    | with_reducible assumption
    | simp only [mk_iff, line_iff, lineMk_iff, wf_iff]
    | with_reducible apply memOk_snapAsk
theorem memOk_snapshots {d : Dev} (h_d : MemOk d) :
    MemOk (Dev.snapshots d) := by
  unfold Dev.snapshots
  try dsimp only
  repeat' first
    | with_reducible assumption
    | with_reducible apply memOk_modLd
    | with_reducible apply memOk_ring
    | with_reducible apply memOk_vecEvent
    | with_reducible apply memOk_settle
    | with_reducible apply each_ok
    | intro _
theorem memOk_execSnapReadyClear {ld : Fin 32} {s t : State} (h_s : MemOk s.dev) (hr : execSnapReadyClear ld s = .next t) :
    MemOk t.dev := by
  unfold execSnapReadyClear ok at hr
  cases hr
  show MemOk _
  repeat' first
    | with_reducible assumption
    | simp only [mk_iff, line_iff, lineMk_iff, wf_iff]
    | with_reducible apply memOk_modLd
theorem memOk_clearWatchOvf {d : Dev} {ld : Nat} {bits : BitVec 32} (h_d : MemOk d) :
    MemOk (Dev.clearWatchOvf d ld bits) := by
  unfold Dev.clearWatchOvf
  try dsimp only
  repeat' first
    | with_reducible assumption
    | simp only [mk_iff, line_iff, lineMk_iff, wf_iff]
theorem memOk_execWatchOvfClear {ld : Fin 32} {bits : BitVec 32} {s t : State} (h_s : MemOk s.dev) (hr : execWatchOvfClear ld bits s = .next t) :
    MemOk t.dev := by
  unfold execWatchOvfClear ok at hr
  cases hr
  show MemOk _
  repeat' first
    | with_reducible assumption
    | simp only [mk_iff, line_iff, lineMk_iff, wf_iff]
    | with_reducible apply memOk_clearWatchOvf
theorem memOk_faultRead {d : Dev} {iss : Issuer} {inp : List Byte} (h_d : MemOk d) :
    MemOk (Dev.faultRead d iss inp) := by
  unfold Dev.faultRead
  try dsimp only
  repeat' first
    | with_reducible assumption
    | with_reducible apply memOk_modSource
    | with_reducible apply memOk_reply
    | with_reducible apply memOk_refuse
    | with_reducible apply memOk_badLength
    | split
theorem memOk_execFaultRead {iss : Issuer} {inp : List Byte} {s t : State} (h_s : MemOk s.dev) (hr : execFaultRead iss inp s = .next t) :
    MemOk t.dev := by
  unfold execFaultRead ok at hr
  cases hr
  show MemOk _
  repeat' first
    | with_reducible assumption
    | simp only [mk_iff, line_iff, lineMk_iff, wf_iff]
    | with_reducible apply memOk_command
    | with_reducible apply memOk_faultRead
    | intro _
theorem memOk_faultN {d : Dev} {drive : Bool} (h_d : MemOk d) :
    MemOk (Dev.faultN d drive) := by
  unfold Dev.faultN
  try dsimp only
  repeat' first
    | with_reducible assumption
    | simp only [mk_iff, line_iff, lineMk_iff, wf_iff]
    | with_reducible apply memOk_say
    | split
theorem memOk_faultPin {d : Dev} {iss : Issuer} {inp : List Byte} (h_d : MemOk d) :
    MemOk (Dev.faultPin d iss inp) := by
  unfold Dev.faultPin
  try dsimp only
  repeat' first
    | with_reducible assumption
    | simp only [mk_iff, line_iff, lineMk_iff, wf_iff]
    | with_reducible apply memOk_reply
    | with_reducible apply memOk_refuse
    | with_reducible apply memOk_badLength
    | with_reducible apply memOk_faultN
    | split
theorem memOk_execFaultPin {iss : Issuer} {inp : List Byte} {s t : State} (h_s : MemOk s.dev) (hr : execFaultPin iss inp s = .next t) :
    MemOk t.dev := by
  unfold execFaultPin ok at hr
  cases hr
  show MemOk _
  repeat' first
    | with_reducible assumption
    | simp only [mk_iff, line_iff, lineMk_iff, wf_iff]
    | with_reducible apply memOk_command
    | with_reducible apply memOk_faultPin
    | intro _
theorem memOk_aboutLd {d : Dev} {iss : Issuer} {f : Nat → Dev} (h_d : MemOk d) (h_f : ∀ (x0 : Nat), MemOk (f x0)) :
    MemOk (Dev.aboutLd d iss f) := by
  unfold Dev.aboutLd
  try dsimp only
  repeat' first
    | with_reducible assumption
    | with_reducible apply h_f
    | with_reducible apply memOk_answerStd
    | split
theorem memOk_getRecords {d : Dev} {iss : Issuer} {inp : List Byte} (h_d : MemOk d) :
    MemOk (Dev.getRecords d iss inp) := by
  unfold Dev.getRecords
  try dsimp only
  repeat' first
    | with_reducible assumption
    | with_reducible apply memOk_answerStd
    | with_reducible apply memOk_aboutLd
    | intro _
    | split
theorem memOk_execGetEventRecords {iss : Issuer} {inp : List Byte} {s t : State} (h_s : MemOk s.dev) (hr : execGetEventRecords iss inp s = .next t) :
    MemOk t.dev := by
  unfold execGetEventRecords ok at hr
  cases hr
  show MemOk _
  repeat' first
    | with_reducible assumption
    | simp only [mk_iff, line_iff, lineMk_iff, wf_iff]
    | with_reducible apply memOk_command
    | with_reducible apply memOk_getRecords
    | intro _
theorem memOk_clearRecords {d : Dev} {iss : Issuer} {inp : List Byte} (h_d : MemOk d) :
    MemOk (Dev.clearRecords d iss inp) := by
  unfold Dev.clearRecords
  try dsimp only
  repeat' first
    | with_reducible assumption
    | with_reducible apply memOk_modLd
    | with_reducible apply memOk_answerStd
    | with_reducible apply memOk_aboutLd
    | intro _
    | split
theorem memOk_execClearEventRecords {iss : Issuer} {inp : List Byte} {s t : State} (h_s : MemOk s.dev) (hr : execClearEventRecords iss inp s = .next t) :
    MemOk t.dev := by
  unfold execClearEventRecords ok at hr
  cases hr
  show MemOk _
  repeat' first
    | with_reducible assumption
    | simp only [mk_iff, line_iff, lineMk_iff, wf_iff]
    | with_reducible apply memOk_command
    | with_reducible apply memOk_clearRecords
    | intro _
theorem memOk_getPolicy {d : Dev} {iss : Issuer} {inp : List Byte} (h_d : MemOk d) :
    MemOk (Dev.getPolicy d iss inp) := by
  unfold Dev.getPolicy
  try dsimp only
  repeat' first
    | with_reducible assumption
    | with_reducible apply memOk_answerStd
    | with_reducible apply memOk_aboutLd
    | intro _
    | split
theorem memOk_execGetEventInterruptPolicy {iss : Issuer} {inp : List Byte} {s t : State} (h_s : MemOk s.dev) (hr : execGetEventInterruptPolicy iss inp s = .next t) :
    MemOk t.dev := by
  unfold execGetEventInterruptPolicy ok at hr
  cases hr
  show MemOk _
  repeat' first
    | with_reducible assumption
    | simp only [mk_iff, line_iff, lineMk_iff, wf_iff]
    | with_reducible apply memOk_command
    | with_reducible apply memOk_getPolicy
    | intro _
theorem memOk_setPolicy {d : Dev} {iss : Issuer} {inp : List Byte} (h_d : MemOk d) :
    MemOk (Dev.setPolicy d iss inp) := by
  unfold Dev.setPolicy
  try dsimp only
  repeat' first
    | with_reducible assumption
    | with_reducible apply memOk_modLd
    | with_reducible apply memOk_answerStd
    | with_reducible apply memOk_aboutLd
    | intro _
    | split
theorem memOk_execSetEventInterruptPolicy {iss : Issuer} {inp : List Byte} {s t : State} (h_s : MemOk s.dev) (hr : execSetEventInterruptPolicy iss inp s = .next t) :
    MemOk t.dev := by
  unfold execSetEventInterruptPolicy ok at hr
  cases hr
  show MemOk _
  repeat' first
    | with_reducible assumption
    | simp only [mk_iff, line_iff, lineMk_iff, wf_iff]
    | with_reducible apply memOk_command
    | with_reducible apply memOk_setPolicy
    | intro _
theorem memOk_getMctp {d : Dev} {iss : Issuer} {inp : List Byte} (h_d : MemOk d) :
    MemOk (Dev.getMctp d iss inp) := by
  unfold Dev.getMctp
  try dsimp only
  repeat' first
    | with_reducible assumption
    | with_reducible apply memOk_answerStd
    | split
theorem memOk_execGetMctpEventInterruptPolicy {iss : Issuer} {inp : List Byte} {s t : State} (h_s : MemOk s.dev) (hr : execGetMctpEventInterruptPolicy iss inp s = .next t) :
    MemOk t.dev := by
  unfold execGetMctpEventInterruptPolicy ok at hr
  cases hr
  show MemOk _
  repeat' first
    | with_reducible assumption
    | simp only [mk_iff, line_iff, lineMk_iff, wf_iff]
    | with_reducible apply memOk_command
    | with_reducible apply memOk_getMctp
    | intro _
theorem memOk_setMctp {d : Dev} {iss : Issuer} {inp : List Byte} (h_d : MemOk d) :
    MemOk (Dev.setMctp d iss inp) := by
  unfold Dev.setMctp
  try dsimp only
  repeat' first
    | with_reducible assumption
    | simp only [mk_iff, line_iff, lineMk_iff, wf_iff]
    | with_reducible apply memOk_answerStd
    | split
theorem memOk_execSetMctpEventInterruptPolicy {iss : Issuer} {inp : List Byte} {s t : State} (h_s : MemOk s.dev) (hr : execSetMctpEventInterruptPolicy iss inp s = .next t) :
    MemOk t.dev := by
  unfold execSetMctpEventInterruptPolicy ok at hr
  cases hr
  show MemOk _
  repeat' first
    | with_reducible assumption
    | simp only [mk_iff, line_iff, lineMk_iff, wf_iff]
    | with_reducible apply memOk_command
    | with_reducible apply memOk_setMctp
    | intro _
theorem memOk_eventNotice {d : Dev} {iss : Issuer} {inp : List Byte} (h_d : MemOk d) :
    MemOk (Dev.eventNotice d iss inp) := by
  unfold Dev.eventNotice
  try dsimp only
  repeat' first
    | with_reducible assumption
    | with_reducible apply memOk_answerStd
    | split
theorem memOk_execEventNotification {iss : Issuer} {inp : List Byte} {s t : State} (h_s : MemOk s.dev) (hr : execEventNotification iss inp s = .next t) :
    MemOk t.dev := by
  unfold execEventNotification ok at hr
  cases hr
  show MemOk _
  repeat' first
    | with_reducible assumption
    | simp only [mk_iff, line_iff, lineMk_iff, wf_iff]
    | with_reducible apply memOk_command
    | with_reducible apply memOk_eventNotice
    | intro _
theorem memOk_startWake {d : Dev} (h_d : MemOk d) :
    MemOk (Dev.startWake d) := by
  unfold Dev.startWake
  try dsimp only
  repeat' first
    | with_reducible assumption
    | simp only [mk_iff, line_iff, lineMk_iff, wf_iff]
    | with_reducible apply memOk_say
    | split
theorem memOk_wakeEvent {d : Dev} {cause : Nat} {always : Bool} (h_d : MemOk d) :
    MemOk (Dev.wakeEvent d cause always) := by
  unfold Dev.wakeEvent
  try dsimp only
  repeat' first
    | with_reducible assumption
    | simp only [mk_iff, line_iff, lineMk_iff, wf_iff]
    | with_reducible apply memOk_startWake
    | split
theorem memOk_wakeFault {d : Dev} (h_d : MemOk d) :
    MemOk (Dev.wakeFault d) := by
  unfold Dev.wakeFault
  try dsimp only
  repeat' first
    | with_reducible assumption
    | with_reducible apply memOk_wakeEvent
    | split
theorem memOk_modHchan {d : Dev} {c : Nat} {f : HChan → HChan} (h_d : MemOk d) :
    MemOk (Dev.modHchan d c f) := by
  unfold Dev.modHchan
  try dsimp only
  repeat' first
    | with_reducible assumption
    | simp only [mk_iff, line_iff, lineMk_iff, wf_iff]
theorem memOk_unqualify {d : Dev} {slot row : Nat} (h_d : MemOk d) :
    MemOk (Dev.unqualify d slot row) := by
  unfold Dev.unqualify
  try dsimp only
  repeat' first
    | with_reducible assumption
    | with_reducible apply memOk_raiseAt
    | with_reducible apply memOk_modHchan
theorem memOk_mismatch {d : Dev} {slot code : Nat} (h_d : MemOk d) :
    MemOk (Dev.mismatch d slot code) := by
  unfold Dev.mismatch
  try dsimp only
  repeat' first
    | with_reducible assumption
    | with_reducible apply memOk_raise
    | with_reducible apply memOk_modHchan
theorem memOk_ramp {d : Dev} {ch : Nat} (h_d : MemOk d) :
    MemOk (Dev.ramp d ch) := by
  unfold Dev.ramp
  try dsimp only
  repeat' first
    | with_reducible assumption
    | simp only [mk_iff, line_iff, lineMk_iff, wf_iff]
    | with_reducible apply memOk_modHchan
    | split
theorem memOk_dropModule {d : Dev} {slot : Nat} {cause : LossCause} (h_d : MemOk d) :
    MemOk (Dev.dropModule d slot cause) := by
  unfold Dev.dropModule
  try dsimp only
  repeat' first
    | with_reducible assumption
    | simp only [mk_iff, line_iff, lineMk_iff, wf_iff]
    | split
theorem memOk_slotOff {d : Dev} {slot : Nat} (h_d : MemOk d) :
    MemOk (Dev.slotOff d slot) := by
  unfold Dev.slotOff
  try dsimp only
  repeat' first
    | with_reducible assumption
    | with_reducible apply memOk_modHchan
    | split
theorem memOk_nextPhase {d : Dev} {job : Nat} (h_d : MemOk d) :
    MemOk (Dev.nextPhase d job) := by
  unfold Dev.nextPhase
  try dsimp only
  repeat' first
    | with_reducible assumption
    | with_reducible apply memOk_setJob
    | split
theorem memOk_toPhase {d : Dev} {job phase : Nat} (h_d : MemOk d) :
    MemOk (Dev.toPhase d job phase) := by
  unfold Dev.toPhase
  try dsimp only
  repeat' first
    | with_reducible assumption
    | with_reducible apply memOk_modJob
theorem memOk_trip {d : Dev} {ch cause : Nat} {sense vout : BitVec 16} (h_d : MemOk d) :
    MemOk (Dev.trip d ch cause sense vout) := by
  unfold Dev.trip
  extract_lets old counted stays k latch d1 hs d2 d3 d4 d5 d6
  have e1 : MemOk d1 := memOk_modHchan (memOk_faultEvent h_d)
  have e2 : MemOk d2 := by
    simp only [d2]; split
    · exact e1
    · exact e1
  have e3 : MemOk d3 := memOk_raise e2
  have e4 : MemOk d4 := by
    simp only [d4]; split
    · exact memOk_raise e3
    · exact e3
  have e5 : MemOk d5 := memOk_wakeEvent e4
  have e6 : MemOk d6 := by
    simp only [d6]; split
    · exact memOk_dropModule e5
    · exact e5
  split
  · exact e5
  · repeat' first
      | with_reducible assumption
      | with_reducible apply memOk_failJob
      | with_reducible apply memOk_modJob
      | split
theorem memOk_limitHeld {d : Dev} {ch : Nat} {sense vout : BitVec 16} (h_d : MemOk d) :
    MemOk (Dev.limitHeld d ch sense vout) := by
  unfold Dev.limitHeld
  try dsimp only
  repeat' first
    | with_reducible assumption
    | with_reducible apply memOk_trip
    | split
theorem memOk_execHitchLimitHeld {ch : Fin 17} {sense : BitVec 16} {vout : BitVec 16} {s t : State} (h_s : MemOk s.dev) (hr : execHitchLimitHeld ch sense vout s = .next t) :
    MemOk t.dev := by
  unfold execHitchLimitHeld ok at hr
  cases hr
  show MemOk _
  repeat' first
    | with_reducible assumption
    | simp only [mk_iff, line_iff, lineMk_iff, wf_iff]
    | with_reducible apply memOk_limitHeld
theorem memOk_fastTrip {d : Dev} {ch : Nat} {sense vout : BitVec 16} (h_d : MemOk d) :
    MemOk (Dev.fastTrip d ch sense vout) := by
  unfold Dev.fastTrip
  try dsimp only
  repeat' first
    | with_reducible assumption
    | with_reducible apply memOk_trip
    | split
theorem memOk_execHitchFastTrip {ch : Fin 17} {sense : BitVec 16} {vout : BitVec 16} {s t : State} (h_s : MemOk s.dev) (hr : execHitchFastTrip ch sense vout s = .next t) :
    MemOk t.dev := by
  unfold execHitchFastTrip ok at hr
  cases hr
  show MemOk _
  repeat' first
    | with_reducible assumption
    | simp only [mk_iff, line_iff, lineMk_iff, wf_iff]
    | with_reducible apply memOk_fastTrip
theorem memOk_retryTimer {d : Dev} {ch : Nat} (h_d : MemOk d) :
    MemOk (Dev.retryTimer d ch) := by
  unfold Dev.retryTimer
  try dsimp only
  repeat' first
    | with_reducible assumption
    | with_reducible apply memOk_ramp
    | split
theorem memOk_execHitchRetryTimer {ch : Fin 17} {s t : State} (h_s : MemOk s.dev) (hr : execHitchRetryTimer ch s = .next t) :
    MemOk t.dev := by
  unfold execHitchRetryTimer ok at hr
  cases hr
  show MemOk _
  repeat' first
    | with_reducible assumption
    | simp only [mk_iff, line_iff, lineMk_iff, wf_iff]
    | with_reducible apply memOk_retryTimer
theorem memOk_on60s {d : Dev} {ch : Nat} (h_d : MemOk d) :
    MemOk (Dev.on60s d ch) := by
  unfold Dev.on60s
  try dsimp only
  repeat' first
    | with_reducible assumption
    | with_reducible apply memOk_modHchan
    | split
theorem memOk_execHitchOn60s {ch : Fin 17} {s t : State} (h_s : MemOk s.dev) (hr : execHitchOn60s ch s = .next t) :
    MemOk t.dev := by
  unfold execHitchOn60s ok at hr
  cases hr
  show MemOk _
  repeat' first
    | with_reducible assumption
    | simp only [mk_iff, line_iff, lineMk_iff, wf_iff]
    | with_reducible apply memOk_on60s
theorem memOk_chanOn {d : Dev} {ch : Nat} {good : Bool} (h_d : MemOk d) :
    MemOk (Dev.chanOn d ch good) := by
  unfold Dev.chanOn
  try dsimp only
  repeat' first
    | with_reducible assumption
    | with_reducible apply memOk_modHchan
theorem memOk_execSlotOutputGood {slot : Fin 16} {s t : State} (h_s : MemOk s.dev) (hr : execSlotOutputGood slot s = .next t) :
    MemOk t.dev := by
  unfold execSlotOutputGood ok at hr
  cases hr
  show MemOk _
  repeat' first
    | with_reducible assumption
    | simp only [mk_iff, line_iff, lineMk_iff, wf_iff]
    | with_reducible apply memOk_chanOn
    | split
theorem memOk_execSlotRampTimeout {slot : Fin 16} {s t : State} (h_s : MemOk s.dev) (hr : execSlotRampTimeout slot s = .next t) :
    MemOk t.dev := by
  unfold execSlotRampTimeout ok at hr
  cases hr
  show MemOk _
  repeat' first
    | with_reducible assumption
    | simp only [mk_iff, line_iff, lineMk_iff, wf_iff]
    | with_reducible apply memOk_trip
    | split
theorem memOk_pmicGood {d : Dev} {slot : Nat} (h_d : MemOk d) :
    MemOk (Dev.pmicGood d slot) := by
  unfold Dev.pmicGood
  try dsimp only
  repeat' first
    | with_reducible assumption
    | with_reducible apply memOk_modHchan
    | with_reducible apply memOk_nextPhase
    | split
theorem memOk_execPmicPowerGood {slot : Fin 16} {s t : State} (h_s : MemOk s.dev) (hr : execPmicPowerGood slot s = .next t) :
    MemOk t.dev := by
  unfold execPmicPowerGood ok at hr
  cases hr
  show MemOk _
  repeat' first
    | with_reducible assumption
    | simp only [mk_iff, line_iff, lineMk_iff, wf_iff]
    | with_reducible apply memOk_pmicGood
theorem memOk_pmicLate {d : Dev} {slot : Nat} (h_d : MemOk d) :
    MemOk (Dev.pmicLate d slot) := by
  unfold Dev.pmicLate
  try dsimp only
  repeat' first
    | with_reducible assumption
    | with_reducible apply memOk_trip
    | split
theorem memOk_execPmicTimeout {slot : Fin 16} {s t : State} (h_s : MemOk s.dev) (hr : execPmicTimeout slot s = .next t) :
    MemOk t.dev := by
  unfold execPmicTimeout ok at hr
  cases hr
  show MemOk _
  repeat' first
    | with_reducible assumption
    | simp only [mk_iff, line_iff, lineMk_iff, wf_iff]
    | with_reducible apply memOk_pmicLate
theorem memOk_startInput {d : Dev} (h_d : MemOk d) :
    MemOk (Dev.startInput d) := by
  unfold Dev.startInput
  try dsimp only
  repeat' first
    | with_reducible assumption
    | with_reducible apply memOk_ramp
    | split
theorem memOk_execVinPgAssert  {s t : State} (h_s : MemOk s.dev) (hr : execVinPgAssert s = .next t) :
    MemOk t.dev := by
  unfold execVinPgAssert ok at hr
  cases hr
  show MemOk _
  repeat' first
    | with_reducible assumption
    | simp only [mk_iff, line_iff, lineMk_iff, wf_iff]
    | with_reducible apply memOk_startInput
theorem memOk_gateOn {d : Dev} (h_d : MemOk d) :
    MemOk (Dev.gateOn d) := by
  unfold Dev.gateOn
  try dsimp only
  repeat' first
    | with_reducible assumption
    | simp only [mk_iff, line_iff, lineMk_iff, wf_iff]
    | with_reducible apply memOk_chanOn
theorem memOk_execPrechargeDone  {s t : State} (h_s : MemOk s.dev) (hr : execPrechargeDone s = .next t) :
    MemOk t.dev := by
  unfold execPrechargeDone ok at hr
  cases hr
  show MemOk _
  repeat' first
    | with_reducible assumption
    | simp only [mk_iff, line_iff, lineMk_iff, wf_iff]
    | with_reducible apply memOk_gateOn
    | split
theorem memOk_prechargeLate {d : Dev} {vbulk vmon : BitVec 16} (h_d : MemOk d) :
    MemOk (Dev.prechargeLate d vbulk vmon) := by
  unfold Dev.prechargeLate
  try dsimp only
  repeat' first
    | with_reducible assumption
    | with_reducible apply memOk_free
    | with_reducible apply memOk_raise
    | with_reducible apply memOk_faultEvent
    | with_reducible apply memOk_gateOn
    | split
theorem memOk_execPrechargeTimeout {vbulk : BitVec 16} {vmon : BitVec 16} {s t : State} (h_s : MemOk s.dev) (hr : execPrechargeTimeout vbulk vmon s = .next t) :
    MemOk t.dev := by
  unfold execPrechargeTimeout ok at hr
  cases hr
  show MemOk _
  repeat' first
    | with_reducible assumption
    | simp only [mk_iff, line_iff, lineMk_iff, wf_iff]
    | with_reducible apply memOk_prechargeLate
theorem memOk_execVinPreOff  {s t : State} (h_s : MemOk s.dev) (hr : execVinPreOff s = .next t) :
    MemOk t.dev := by
  unfold execVinPreOff ok at hr
  cases hr
  show MemOk _
  repeat' first
    | with_reducible assumption
    | simp only [mk_iff, line_iff, lineMk_iff, wf_iff]
    | split
theorem memOk_moduleRemoved {d : Dev} {slot : Nat} (h_d : MemOk d) :
    MemOk (Dev.moduleRemoved d slot) := by
  unfold Dev.moduleRemoved
  try dsimp only
  repeat' first
    | with_reducible assumption
    | with_reducible apply memOk_raise
    | with_reducible apply memOk_modHchan
    | with_reducible apply memOk_dropModule
    | with_reducible apply memOk_nextPhase
    | split
theorem memOk_execModuleRemoved {slot : Fin 16} {s t : State} (h_s : MemOk s.dev) (hr : execModuleRemoved slot s = .next t) :
    MemOk t.dev := by
  unfold execModuleRemoved ok at hr
  cases hr
  show MemOk _
  repeat' first
    | with_reducible assumption
    | simp only [mk_iff, line_iff, lineMk_iff, wf_iff]
    | with_reducible apply memOk_moduleRemoved
theorem memOk_hubRead {d : Dev} {slot : Nat} {spd : Option Spd} (h_d : MemOk d) :
    MemOk (Dev.hubRead d slot spd) := by
  unfold Dev.hubRead
  try dsimp only
  repeat' first
    | with_reducible assumption
    | with_reducible apply memOk_raise
    | with_reducible apply memOk_modHchan
    | with_reducible apply memOk_nextPhase
    | split
theorem memOk_execModuleInserted {slot : Fin 16} {spd : Option Spd} {s t : State} (h_s : MemOk s.dev) (hr : execModuleInserted slot spd s = .next t) :
    MemOk t.dev := by
  unfold execModuleInserted ok at hr
  cases hr
  show MemOk _
  repeat' first
    | with_reducible assumption
    | simp only [mk_iff, line_iff, lineMk_iff, wf_iff]
    | with_reducible apply memOk_hubRead
    | split
theorem memOk_execSpdReadRetry {slot : Fin 16} {spd : Option Spd} {s t : State} (h_s : MemOk s.dev) (hr : execSpdReadRetry slot spd s = .next t) :
    MemOk t.dev := by
  unfold execSpdReadRetry ok at hr
  cases hr
  show MemOk _
  repeat' first
    | with_reducible assumption
    | simp only [mk_iff, line_iff, lineMk_iff, wf_iff]
    | with_reducible apply memOk_hubRead
    | split
theorem memOk_loseRank {d : Dev} {ch logical : Nat} (h_d : MemOk d) :
    MemOk (Dev.loseRank d ch logical) := by
  unfold Dev.loseRank
  try dsimp only
  repeat' first
    | with_reducible assumption
    | with_reducible apply memOk_modChan
    | with_reducible apply memOk_startDrain
    | with_reducible apply memOk_rankRecord
    | with_reducible apply memOk_logFault
theorem memOk_loseCopy {d : Dev} {slot : Nat} (h_d : MemOk d) :
    MemOk (Dev.loseCopy d slot).2 := by
  unfold Dev.loseCopy
  try dsimp only
  repeat' first
    | with_reducible assumption
    | simp only [mk_iff, line_iff, lineMk_iff, wf_iff]
    | with_reducible apply memOk_setChan
    | with_reducible apply memOk_modChan
    | with_reducible apply memOk_startDrain
    | with_reducible apply memOk_rankRecord
    | with_reducible apply memOk_logFault
    | with_reducible apply memOk_dropCopies
    | split
theorem memOk_loseCopy_eq {d : Dev} {slot : Nat} (h_d : MemOk d) {q0 : Option Nat} {q1 : Dev} (hr : (Dev.loseCopy d slot) = (q0, q1)) :
    MemOk q1 := by
  have h : MemOk (Dev.loseCopy d slot).2 := memOk_loseCopy h_d
  rw [hr] at h
  exact h
theorem memOk_loseModule {d : Dev} {slot : Nat} {cause : LossCause} (h_d : MemOk d) :
    MemOk (Dev.loseModule d slot cause) := by
  unfold Dev.loseModule
  try dsimp only
  repeat' first
    | with_reducible assumption
    | with_reducible apply memOk_modChan
    | with_reducible apply memOk_raise
    | with_reducible apply memOk_toPhase
    | with_reducible apply memOk_loseRank
    | with_reducible apply memOk_loseCopy
    | with_reducible apply each_ok
    | intro _
    | split
theorem memOk_applyLosses {d : Dev} (h_d : MemOk d) :
    MemOk (Dev.applyLosses d) := by
  unfold Dev.applyLosses
  try dsimp only
  repeat' first
    | with_reducible assumption
    | simp only [mk_iff, line_iff, lineMk_iff, wf_iff]
    | with_reducible apply memOk_loseModule
    | with_reducible apply each_ok
    | intro _
theorem memOk_execModuleLost {slot : Fin 16} {cause : LossCause} {s t : State} (h_s : MemOk s.dev) (hr : execModuleLost slot cause s = .next t) :
    MemOk t.dev := by
  unfold execModuleLost ok at hr
  cases hr
  show MemOk _
  repeat' first
    | with_reducible assumption
    | simp only [mk_iff, line_iff, lineMk_iff, wf_iff]
    | with_reducible apply memOk_dropModule
    | split
theorem memOk_fetDamaged {d : Dev} {ch : Nat} {mv : BitVec 16} (h_d : MemOk d) :
    MemOk (Dev.fetDamaged d ch mv) := by
  unfold Dev.fetDamaged
  try dsimp only
  repeat' first
    | with_reducible assumption
    | with_reducible apply memOk_free
    | with_reducible apply memOk_raise
    | with_reducible apply memOk_faultEvent
    | with_reducible apply memOk_failJob
    | with_reducible apply memOk_modHchan
    | split
theorem memOk_execFetDamaged {ch : Fin 17} {mv : BitVec 16} {s t : State} (h_s : MemOk s.dev) (hr : execFetDamaged ch mv s = .next t) :
    MemOk t.dev := by
  unfold execFetDamaged ok at hr
  cases hr
  show MemOk _
  repeat' first
    | with_reducible assumption
    | simp only [mk_iff, line_iff, lineMk_iff, wf_iff]
    | with_reducible apply memOk_fetDamaged
theorem memOk_announce {d : Dev} {ch : Nat} {slotOff job : Option Nat} (h_d : MemOk d) :
    MemOk (Dev.announce d ch slotOff job) := by
  unfold Dev.announce
  try dsimp only
  repeat' first
    | with_reducible assumption
    | simp only [mk_iff, line_iff, lineMk_iff, wf_iff]
    | with_reducible apply memOk_raise
    | with_reducible apply memOk_cdat
    | with_reducible apply each_ok
    | intro _
theorem memOk_withdrawWindow {d : Dev} {job : Nat} (h_d : MemOk d) :
    MemOk (Dev.withdrawWindow d job) := by
  unfold Dev.withdrawWindow
  try dsimp only
  repeat' first
    | with_reducible assumption
    | simp only [mk_iff, line_iff, lineMk_iff, wf_iff]
    | with_reducible apply memOk_cdat
    | with_reducible apply each_ok
    | split
theorem memOk_windowOpen {d : Dev} {ch : Nat} (h_d : MemOk d) :
    MemOk (Dev.windowOpen d ch) := by
  unfold Dev.windowOpen
  try dsimp only
  repeat' first
    | with_reducible assumption
    | simp only [mk_iff, line_iff, lineMk_iff, wf_iff]
    | with_reducible apply memOk_modChan
    | with_reducible apply memOk_modJob
    | with_reducible apply memOk_slotOff
    | with_reducible apply memOk_nextPhase
    | split
theorem memOk_execTrainingWindowOpen {ch : Fin 8} {s t : State} (h_s : MemOk s.dev) (hr : execTrainingWindowOpen ch s = .next t) :
    MemOk t.dev := by
  unfold execTrainingWindowOpen ok at hr
  cases hr
  show MemOk _
  repeat' first
    | with_reducible assumption
    | simp only [mk_iff, line_iff, lineMk_iff, wf_iff]
    | with_reducible apply memOk_windowOpen
theorem memOk_windowClose {d : Dev} {ch : Nat} {trained : Bool} (h_d : MemOk d) :
    MemOk (Dev.windowClose d ch trained) := by
  unfold Dev.windowClose
  try dsimp only
  repeat' first
    | with_reducible assumption
    | simp only [mk_iff, line_iff, lineMk_iff, wf_iff]
    | with_reducible apply memOk_modChan
    | with_reducible apply memOk_trainChan
    | with_reducible apply memOk_failJob
    | with_reducible apply memOk_modHchan
    | with_reducible apply memOk_slotOff
    | with_reducible apply memOk_nextPhase
    | split
theorem memOk_execTrainingWindowClose {ch : Fin 8} {trained : Bool} {s t : State} (h_s : MemOk s.dev) (hr : execTrainingWindowClose ch trained s = .next t) :
    MemOk t.dev := by
  unfold execTrainingWindowClose ok at hr
  cases hr
  show MemOk _
  repeat' first
    | with_reducible assumption
    | simp only [mk_iff, line_iff, lineMk_iff, wf_iff]
    | with_reducible apply memOk_windowClose
theorem memOk_windowBoundary {d : Dev} (h_d : MemOk d) :
    MemOk (Dev.windowBoundary d) := by
  unfold Dev.windowBoundary
  try dsimp only
  repeat' first
    | with_reducible assumption
    | simp only [mk_iff, line_iff, lineMk_iff, wf_iff]
    | with_reducible apply memOk_raise
    | with_reducible apply memOk_cdat
    | with_reducible apply memOk_slotOff
    | with_reducible apply memOk_announce
    | with_reducible apply each_ok
    | split
theorem memOk_hitchStatus {d : Dev} {iss : Issuer} {inp : List Byte} (h_d : MemOk d) :
    MemOk (Dev.hitchStatus d iss inp) := by
  unfold Dev.hitchStatus
  try dsimp only
  repeat' first
    | with_reducible assumption
    | with_reducible apply memOk_reply
    | with_reducible apply memOk_badLength
    | split
theorem memOk_execHitchStatus {iss : Issuer} {inp : List Byte} {s t : State} (h_s : MemOk s.dev) (hr : execHitchStatus iss inp s = .next t) :
    MemOk t.dev := by
  unfold execHitchStatus ok at hr
  cases hr
  show MemOk _
  repeat' first
    | with_reducible assumption
    | simp only [mk_iff, line_iff, lineMk_iff, wf_iff]
    | with_reducible apply memOk_command
    | with_reducible apply memOk_hitchStatus
    | intro _
theorem memOk_slotOn {d : Dev} {slot : Nat} (h_d : MemOk d) :
    MemOk (Dev.slotOn d slot) := by
  unfold Dev.slotOn
  try dsimp only
  repeat' first
    | with_reducible assumption
    | with_reducible apply memOk_unqualify
    | with_reducible apply memOk_mismatch
    | with_reducible apply memOk_ramp
    | split
theorem memOk_hitchSet {d : Dev} {iss : Issuer} {inp : List Byte} (h_d : MemOk d) :
    MemOk (Dev.hitchSet d iss inp) := by
  unfold Dev.hitchSet
  try dsimp only
  repeat' first
    | with_reducible assumption
    | simp only [mk_iff, line_iff, lineMk_iff, wf_iff]
    | with_reducible apply memOk_reply
    | with_reducible apply memOk_refuse
    | with_reducible apply memOk_badLength
    | with_reducible apply memOk_modHchan
    | with_reducible apply memOk_dropModule
    | with_reducible apply memOk_slotOff
    | with_reducible apply memOk_slotOn
    | split
theorem memOk_execHitchSet {iss : Issuer} {inp : List Byte} {s t : State} (h_s : MemOk s.dev) (hr : execHitchSet iss inp s = .next t) :
    MemOk t.dev := by
  unfold execHitchSet ok at hr
  cases hr
  show MemOk _
  repeat' first
    | with_reducible assumption
    | simp only [mk_iff, line_iff, lineMk_iff, wf_iff]
    | with_reducible apply memOk_command
    | with_reducible apply memOk_hitchSet
    | intro _
theorem memOk_moduleReplace {d : Dev} {iss : Issuer} {inp : List Byte} (h_d : MemOk d) :
    MemOk (Dev.moduleReplace d iss inp) := by
  unfold Dev.moduleReplace
  try dsimp only
  repeat' first
    | with_reducible assumption
    | simp only [mk_iff, line_iff, lineMk_iff, wf_iff]
    | with_reducible apply memOk_submit
    | intro _
theorem memOk_execModuleReplace {iss : Issuer} {inp : List Byte} {s t : State} (h_s : MemOk s.dev) (hr : execModuleReplace iss inp s = .next t) :
    MemOk t.dev := by
  unfold execModuleReplace ok at hr
  cases hr
  show MemOk _
  repeat' first
    | with_reducible assumption
    | simp only [mk_iff, line_iff, lineMk_iff, wf_iff]
    | with_reducible apply memOk_command
    | with_reducible apply memOk_moduleReplace
    | intro _
theorem memOk_giveUpShadows {d : Dev} {slot : Nat} (h_d : MemOk d) :
    MemOk (Dev.giveUpShadows d slot) := by
  unfold Dev.giveUpShadows
  try dsimp only
  repeat' first
    | with_reducible assumption
    | with_reducible apply memOk_modChan
theorem memOk_evacuate {d : Dev} {job slot : Nat} (h_d : MemOk d) :
    MemOk (Dev.evacuate d job slot).2 := by
  unfold Dev.evacuate
  try dsimp only
  repeat' first
    | with_reducible assumption
    | simp only [mk_iff, line_iff, lineMk_iff, wf_iff]
    | with_reducible (apply memOk_startCopy (hr := by assumption))
    | with_reducible apply memOk_startDrain
    | with_reducible apply memOk_failJob
    | with_reducible apply memOk_giveUpShadows
    | with_reducible apply getD_ok
    | intro _
    | split
theorem memOk_evacuate_eq {d : Dev} {job slot : Nat} (h_d : MemOk d) {q0 : Turn} {q1 : Dev} (hr : (Dev.evacuate d job slot) = (q0, q1)) :
    MemOk q1 := by
  have h : MemOk (Dev.evacuate d job slot).2 := memOk_evacuate h_d
  rw [hr] at h
  exact h
theorem memOk_zeroRanks {d : Dev} {slot : Nat} (h_d : MemOk d) :
    MemOk (Dev.zeroRanks d slot) := by
  unfold Dev.zeroRanks
  try dsimp only
  repeat' first
    | with_reducible assumption
    | with_reducible apply memOk_blankRank
    | with_reducible apply each_ok
    | intro _
theorem memOk_restoreRank {d : Dev} {ch logical shadow : Nat} (h_d : MemOk d) :
    MemOk (Dev.restoreRank d ch logical shadow) := by
  unfold Dev.restoreRank
  try dsimp only
  repeat' first
    | with_reducible assumption
    | simp only [mk_iff, line_iff, lineMk_iff, wf_iff]
    | with_reducible apply memOk_modChan
    | with_reducible apply memOk_setBurst
    | with_reducible apply each_ok
    | intro _
    | split
theorem memOk_restoreRanks {d : Dev} {ch : Nat} (h_d : MemOk d) :
    MemOk (Dev.restoreRanks d ch) := by
  unfold Dev.restoreRanks
  try dsimp only
  repeat' first
    | with_reducible assumption
    | with_reducible apply memOk_restoreRank
    | with_reducible apply each_ok
    | intro _
    | split
theorem memOk_clearMarks {d : Dev} {slot : Nat} (h_d : MemOk d) :
    MemOk (Dev.clearMarks d slot) := by
  unfold Dev.clearMarks
  try dsimp only
  repeat' first
    | with_reducible assumption
    | simp only [mk_iff, line_iff, lineMk_iff, wf_iff]
    | with_reducible apply memOk_modChan
    | with_reducible apply memOk_modSource
    | with_reducible apply each_ok
    | intro _
    | split
theorem memOk_join {d : Dev} {slot : Nat} (h_d : MemOk d) :
    MemOk (Dev.join d slot) := by
  unfold Dev.join
  try dsimp only
  repeat' first
    | with_reducible assumption
    | with_reducible apply memOk_modChan
    | with_reducible apply memOk_restoreRanks
    | with_reducible apply memOk_clearMarks
theorem memOk_askWindow {d : Dev} {job ch : Nat} {slotOff : Option Nat} (h_d : MemOk d) :
    MemOk (Dev.askWindow d job ch slotOff).2 := by
  unfold Dev.askWindow
  try dsimp only
  repeat' first
    | with_reducible assumption
    | simp only [mk_iff, line_iff, lineMk_iff, wf_iff]
    | with_reducible apply memOk_announce
    | split
theorem memOk_askWindow_eq {d : Dev} {job ch : Nat} {slotOff : Option Nat} (h_d : MemOk d) {q0 : Turn} {q1 : Dev} (hr : (Dev.askWindow d job ch slotOff) = (q0, q1)) :
    MemOk q1 := by
  have h : MemOk (Dev.askWindow d job ch slotOff).2 := memOk_askWindow h_d
  rw [hr] at h
  exact h
theorem memOk_checkModule {d : Dev} {job slot : Nat} {m : Spd} (h_d : MemOk d) :
    MemOk (Dev.checkModule d job slot m) := by
  unfold Dev.checkModule
  try dsimp only
  repeat' first
    | with_reducible assumption
    | with_reducible apply memOk_modJob
    | with_reducible apply memOk_failJob
    | with_reducible apply memOk_modHchan
    | with_reducible apply memOk_unqualify
    | with_reducible apply memOk_mismatch
    | with_reducible apply memOk_ramp
    | with_reducible apply memOk_nextPhase
    | split
theorem memOk_replaceTurn {d : Dev} {job : Nat} (h_d : MemOk d) :
    MemOk (Dev.replaceTurn d job).2 := by
  unfold Dev.replaceTurn
  try dsimp only
  repeat' first
    | with_reducible assumption
    | simp only [mk_iff, line_iff, lineMk_iff, wf_iff]
    | with_reducible apply memOk_modJob
    | with_reducible apply memOk_slotOff
    | with_reducible apply memOk_nextPhase
    | with_reducible apply memOk_evacuate
    | with_reducible apply memOk_join
    | with_reducible apply memOk_askWindow
    | split
theorem memOk_replaceTurn_eq {d : Dev} {job : Nat} (h_d : MemOk d) {q0 : Turn} {q1 : Dev} (hr : (Dev.replaceTurn d job) = (q0, q1)) :
    MemOk q1 := by
  have h : MemOk (Dev.replaceTurn d job).2 := memOk_replaceTurn h_d
  rw [hr] at h
  exact h
theorem memOk_phaseEnd {d : Dev} {job : Nat} {spd : Option Spd} (h_d : MemOk d) :
    MemOk (Dev.phaseEnd d job spd) := by
  unfold Dev.phaseEnd
  try dsimp only
  repeat' first
    | with_reducible assumption
    | simp only [mk_iff, line_iff, lineMk_iff, wf_iff]
    | with_reducible apply memOk_failJob
    | with_reducible apply memOk_nextPhase
    | with_reducible apply memOk_zeroRanks
    | with_reducible apply memOk_checkModule
    | split
theorem memOk_execModuleReplacePhaseEnd {slot : Nat} {spd : Option Spd} {s t : State} (h_s : MemOk s.dev) (hr : execModuleReplacePhaseEnd slot spd s = .next t) :
    MemOk t.dev := by
  unfold execModuleReplacePhaseEnd ok at hr
  cases hr
  show MemOk _
  repeat' first
    | with_reducible assumption
    | simp only [mk_iff, line_iff, lineMk_iff, wf_iff]
    | with_reducible apply memOk_phaseEnd
theorem memOk_replaceCancel {d : Dev} {job : Nat} {j : Job} (h_d : MemOk d) :
    MemOk (Dev.replaceCancel d job j).2 := by
  unfold Dev.replaceCancel
  try dsimp only
  repeat' first
    | with_reducible assumption
    | simp only [mk_iff, line_iff, lineMk_iff, wf_iff]
    | with_reducible apply memOk_slotOff
    | with_reducible apply memOk_withdrawWindow
    | split
theorem memOk_replaceCancel_eq {d : Dev} {job : Nat} {j : Job} (h_d : MemOk d) {q0 : Bool} {q1 : Dev} (hr : (Dev.replaceCancel d job j) = (q0, q1)) :
    MemOk q1 := by
  have h : MemOk (Dev.replaceCancel d job j).2 := memOk_replaceCancel h_d
  rw [hr] at h
  exact h
theorem memOk_jobStatus {d : Dev} {iss : Issuer} {inp : List Byte} (h_d : MemOk d) :
    MemOk (Dev.jobStatus d iss inp) := by
  unfold Dev.jobStatus
  try dsimp only
  repeat' first
    | with_reducible assumption
    | with_reducible apply memOk_reply
    | with_reducible apply memOk_refuse
    | with_reducible apply memOk_badLength
    | split
theorem memOk_execJobStatus {iss : Issuer} {inp : List Byte} {s t : State} (h_s : MemOk s.dev) (hr : execJobStatus iss inp s = .next t) :
    MemOk t.dev := by
  unfold execJobStatus ok at hr
  cases hr
  show MemOk _
  repeat' first
    | with_reducible assumption
    | simp only [mk_iff, line_iff, lineMk_iff, wf_iff]
    | with_reducible apply memOk_command
    | with_reducible apply memOk_jobStatus
    | intro _
theorem memOk_jobCancel {d : Dev} {iss : Issuer} {inp : List Byte} (h_d : MemOk d) :
    MemOk (Dev.jobCancel d iss inp) := by
  unfold Dev.jobCancel
  try dsimp only
  repeat' first
    | with_reducible assumption
    | with_reducible apply memOk_reply
    | with_reducible apply memOk_refuse
    | with_reducible apply memOk_badLength
    | with_reducible apply memOk_setJob
    | with_reducible apply memOk_retireJob
    | with_reducible apply memOk_withdrawAdd
    | split
theorem memOk_execJobCancel {iss : Issuer} {inp : List Byte} {s t : State} (h_s : MemOk s.dev) (hr : execJobCancel iss inp s = .next t) :
    MemOk t.dev := by
  unfold execJobCancel ok at hr
  cases hr
  show MemOk _
  repeat' first
    | with_reducible assumption
    | simp only [mk_iff, line_iff, lineMk_iff, wf_iff]
    | with_reducible apply memOk_command
    | with_reducible apply memOk_jobCancel
    | intro _
theorem memOk_cancelMoves {d : Dev} {slot : Nat} (h_d : MemOk d) :
    MemOk (Dev.cancelMoves d slot) := by
  unfold Dev.cancelMoves
  try dsimp only
  repeat' first
    | with_reducible assumption
    | with_reducible apply memOk_cancelMove
    | with_reducible apply memOk_cancelExtMove
    | with_reducible apply each_ok
    | intro _
theorem memOk_cancelStep {d : Dev} {slot : Nat} {j : Job} (h_d : MemOk d) :
    MemOk (Dev.cancelStep d slot j) := by
  unfold Dev.cancelStep
  try dsimp only
  repeat' first
    | with_reducible assumption
    | with_reducible apply memOk_modJob
    | with_reducible apply memOk_withdrawAdd
    | with_reducible apply memOk_streamStop
    | with_reducible apply memOk_replaceCancel
    | with_reducible apply memOk_cancelMoves
    | split
theorem memOk_leaveSlots {d : Dev} (h_d : MemOk d) :
    MemOk (Dev.leaveSlots d) := by
  unfold Dev.leaveSlots
  try dsimp only
  repeat' first
    | with_reducible assumption
    | with_reducible apply memOk_retireJob
    | with_reducible apply each_ok
    | intro _
theorem memOk_startJobs {d : Dev} (h_d : MemOk d) :
    MemOk (Dev.startJobs d) := by
  unfold Dev.startJobs
  try dsimp only
  repeat' first
    | with_reducible assumption
    | with_reducible apply memOk_setJob
    | with_reducible apply each_ok
    | intro _
theorem memOk_turnOf {d : Dev} {slot : Nat} {j : Job} (h_d : MemOk d) :
    MemOk (Dev.turnOf d slot j).2 := by
  unfold Dev.turnOf
  try dsimp only
  repeat' first
    | with_reducible assumption
    | simp only [mk_iff, line_iff, lineMk_iff, wf_iff]
    | with_reducible apply memOk_copyBatch
    | with_reducible apply memOk_fillBatch
    | with_reducible apply memOk_scrubBatch
    | with_reducible apply memOk_migrateTurn
    | with_reducible apply memOk_tierTurn
    | with_reducible apply memOk_rekeyTurn
    | with_reducible apply memOk_addTurn
    | with_reducible apply memOk_releaseTurn
    | with_reducible apply memOk_replaceTurn
    | split
theorem memOk_turnOf_eq {d : Dev} {slot : Nat} {j : Job} (h_d : MemOk d) {q0 : Turn} {q1 : Dev} (hr : (Dev.turnOf d slot j) = (q0, q1)) :
    MemOk q1 := by
  have h : MemOk (Dev.turnOf d slot j).2 := memOk_turnOf h_d
  rw [hr] at h
  exact h
theorem memOk_turns {y0 : Nat} {y1 : Dev} {y2 : Nat} (h_y1 : MemOk y1) :
    MemOk (Dev.turns y0 y1 y2).2 := by
  induction y0 generalizing y1 y2 with
  | zero =>
    unfold Dev.turns
    repeat' first
      | with_reducible assumption
  | succ k ih =>
    unfold Dev.turns
    try dsimp only
    repeat' first
      | with_reducible assumption
      | with_reducible apply ih
      | with_reducible apply memOk_turnOf
      | with_reducible (apply memOk_turnOf_eq (hr := by assumption))
      | split

end Sys2Proof.Laws
end

