-- ==== Sys2Proof/Laws/MemOk6.lean ====
section
/-! SUPPORT. Every operation of the model keeps the media contents in their canonical form: one lemma an operation, and one a command's meaning (part 6 of 8). -/

set_option linter.unusedSimpArgs false
set_option linter.unusedVariables false

namespace Sys2Proof.Laws

open Sys2Proof Sys2Proof.Machine

theorem memOk_turns_eq {y0 : Nat} {y1 : Dev} {y2 : Nat} (h_y1 : MemOk y1) {q0 : Turn} {q1 : Dev} (hr : (Dev.turns y0 y1 y2) = (q0, q1)) :
    MemOk q1 := by
  have h : MemOk (Dev.turns y0 y1 y2).2 := memOk_turns h_y1
  rw [hr] at h
  exact h
theorem memOk_noteGate {d : Dev} {slot : Nat} {waits : Bool} (h_d : MemOk d) :
    MemOk (Dev.noteGate d slot waits) := by
  unfold Dev.noteGate
  try dsimp only
  repeat' first
    | with_reducible assumption
    | with_reducible apply memOk_modJob
theorem memOk_noteReason {d : Dev} {slot : Nat} {r : JReason} (h_d : MemOk d) :
    MemOk (Dev.noteReason d slot r) := by
  unfold Dev.noteReason
  try dsimp only
  repeat' first
    | with_reducible assumption
    | with_reducible apply memOk_modJob
theorem memOk_workJob {d : Dev} {slot : Nat} {j : Job} (h_d : MemOk d) :
    MemOk (Dev.workJob d slot j) := by
  unfold Dev.workJob
  try dsimp only
  repeat' first
    | with_reducible assumption
    | with_reducible apply memOk_modJob
    | with_reducible apply memOk_turns
    | with_reducible apply memOk_noteGate
    | with_reducible apply memOk_noteReason
    | split
theorem memOk_waitJob {d : Dev} {slot : Nat} (h_d : MemOk d) :
    MemOk (Dev.waitJob d slot) := by
  unfold Dev.waitJob
  try dsimp only
  repeat' first
    | with_reducible assumption
    | with_reducible apply memOk_noteGate
    | with_reducible apply memOk_noteReason
    | split
theorem memOk_jobsBoundary {d : Dev} (h_d : MemOk d) :
    MemOk (Dev.jobsBoundary d) := by
  unfold Dev.jobsBoundary
  try dsimp only
  repeat' first
    | with_reducible assumption
    | with_reducible apply memOk_streamPump
    | with_reducible apply memOk_streamEngines
    | with_reducible apply memOk_streamYields
    | with_reducible apply memOk_cancelStep
    | with_reducible apply memOk_leaveSlots
    | with_reducible apply memOk_startJobs
    | with_reducible apply memOk_workJob
    | with_reducible apply memOk_waitJob
    | with_reducible apply each_ok
    | intro _
    | split
theorem memOk_linkEvent {d : Dev} {p code : Nat} (h_d : MemOk d) :
    MemOk (Dev.linkEvent d p code) := by
  unfold Dev.linkEvent
  try dsimp only
  repeat' first
    | with_reducible assumption
    | with_reducible apply memOk_mgmt
    | split
theorem memOk_loseRequest {d : Dev} {id p : Nat} {noRoute : Bool} (h_d : MemOk d) :
    MemOk (Dev.loseRequest d id p noRoute) := by
  unfold Dev.loseRequest
  try dsimp only
  repeat' first
    | with_reducible assumption
    | with_reducible apply memOk_raise
    | with_reducible apply memOk_raiseAt
    | with_reducible apply memOk_fail
    | split
theorem memOk_outcome {d : Dev} {tag p status : Nat} (h_d : MemOk d) :
    MemOk (Dev.outcome d tag p status) := by
  unfold Dev.outcome
  try dsimp only
  repeat' first
    | with_reducible assumption
    | simp only [mk_iff, line_iff, lineMk_iff, wf_iff]
    | with_reducible apply memOk_bump
    | with_reducible apply memOk_fail
    | with_reducible apply memOk_loseRequest
    | split
theorem memOk_lostMessage {d : Dev} {p : Nat} {t : Transit} (h_d : MemOk d) :
    MemOk (Dev.lostMessage d p t) := by
  unfold Dev.lostMessage
  try dsimp only
  repeat' first
    | with_reducible assumption
    | with_reducible apply memOk_sendMsg
    | with_reducible apply memOk_outcome
    | split
theorem memOk_tetherDown {d : Dev} {p : Nat} (h_d : MemOk d) :
    MemOk (Dev.tetherDown d p) := by
  unfold Dev.tetherDown
  try dsimp only
  repeat' first
    | with_reducible assumption
    | simp only [mk_iff, line_iff, lineMk_iff, wf_iff]
    | with_reducible apply memOk_raise
    | with_reducible apply memOk_faultEvent
    | with_reducible apply memOk_setTport
    | with_reducible apply memOk_modTport
    | with_reducible apply memOk_checkScan
    | with_reducible apply memOk_linkEvent
    | with_reducible apply memOk_lostMessage
    | with_reducible apply each_ok
    | intro _
theorem memOk_tstate {d : Dev} {p : Nat} {st : TState} (h_d : MemOk d) :
    MemOk (Dev.tstate d p st) := by
  unfold Dev.tstate
  try dsimp only
  repeat' first
    | with_reducible assumption
    | with_reducible apply memOk_modTport
theorem memOk_toTd {d : Dev} {p : Nat} (h_d : MemOk d) :
    MemOk (Dev.toTd d p) := by
  unfold Dev.toTd
  try dsimp only
  repeat' first
    | with_reducible assumption
    | with_reducible apply memOk_raise
    | with_reducible apply memOk_modTport
    | with_reducible apply memOk_tetherDown
    | split
theorem memOk_toTa {d : Dev} {p : Nat} (h_d : MemOk d) :
    MemOk (Dev.toTa d p) := by
  unfold Dev.toTa
  try dsimp only
  repeat' first
    | with_reducible assumption
    | with_reducible apply memOk_say
    | with_reducible apply memOk_random
    | with_reducible apply memOk_modTport
    | with_reducible apply memOk_tstate
theorem memOk_startReset {d : Dev} {p : Nat} (h_d : MemOk d) :
    MemOk (Dev.startReset d p) := by
  unfold Dev.startReset
  try dsimp only
  repeat' first
    | with_reducible assumption
    | with_reducible apply memOk_modTport
    | with_reducible apply memOk_checkScan
    | with_reducible apply memOk_toTa
theorem memOk_wantReset {d : Dev} {p : Nat} (h_d : MemOk d) :
    MemOk (Dev.wantReset d p) := by
  unfold Dev.wantReset
  try dsimp only
  repeat' first
    | with_reducible assumption
    | with_reducible apply memOk_modTport
    | split
theorem memOk_startResets {d : Dev} (h_d : MemOk d) :
    MemOk (Dev.startResets d) := by
  unfold Dev.startResets
  try dsimp only
  repeat' first
    | with_reducible assumption
    | with_reducible apply memOk_startReset
    | with_reducible apply each_ok
    | intro _
    | split
theorem memOk_loseTetherLane {d : Dev} {p lane : Nat} (h_d : MemOk d) :
    MemOk (Dev.loseTetherLane d p lane) := by
  unfold Dev.loseTetherLane
  try dsimp only
  repeat' first
    | with_reducible assumption
    | with_reducible apply memOk_modTport
    | with_reducible apply memOk_tetherDown
    | with_reducible apply memOk_startReset
    | with_reducible apply memOk_wantReset
    | split
theorem memOk_toHandshake {d : Dev} {p : Nat} (h_d : MemOk d) :
    MemOk (Dev.toHandshake d p) := by
  unfold Dev.toHandshake
  try dsimp only
  repeat' first
    | with_reducible assumption
    | with_reducible apply memOk_say
    | with_reducible apply memOk_modTport
    | with_reducible apply memOk_tstate
theorem memOk_replay {d : Dev} {p : Nat} (h_d : MemOk d) :
    MemOk (Dev.replay d p) := by
  unfold Dev.replay
  try dsimp only
  repeat' first
    | with_reducible assumption
    | with_reducible apply memOk_say
    | with_reducible apply memOk_bump
    | with_reducible apply memOk_modTport
    | with_reducible apply each_ok
    | intro _
    | split
theorem memOk_tetherUp {d : Dev} {p : Nat} (h_d : MemOk d) :
    MemOk (Dev.tetherUp d p) := by
  unfold Dev.tetherUp
  extract_lets x held d1 hc d2 d3 d4 d5 d6
  have e1 : MemOk d1 := memOk_setTport h_d
  have e2 : MemOk d2 := e1
  have e3 : MemOk d3 := by
    simp only [d3]; split
    · exact memOk_raise e2
    · exact e2
  have e4 : MemOk d4 := by
    simp only [d4]; split
    · exact memOk_replay e3
    · exact e3
  have e5 : MemOk d5 := memOk_linkEvent e4
  have e6 : MemOk d6 := by
    simp only [d6]
    repeat' first
      | with_reducible assumption
      | with_reducible apply memOk_mgmt
      | split
  split
  · exact e3
  · exact memOk_pump e6
theorem memOk_ackLink {d : Dev} {p : Nat} (h_d : MemOk d) :
    MemOk (Dev.ackLink d p) := by
  unfold Dev.ackLink
  try dsimp only
  repeat' first
    | with_reducible assumption
    | with_reducible apply memOk_say
    | with_reducible apply memOk_setTport
    | with_reducible apply memOk_tetherUp
    | split
theorem memOk_sendPing {d : Dev} {p i : Nat} (h_d : MemOk d) :
    MemOk (Dev.sendPing d p i) := by
  unfold Dev.sendPing
  try dsimp only
  repeat' first
    | with_reducible assumption
    | with_reducible apply memOk_say
    | with_reducible apply memOk_free
theorem memOk_takeLinkup {d : Dev} {p : Nat} {m : LinkUp} (h_d : MemOk d) :
    MemOk (Dev.takeLinkup d p m) := by
  unfold Dev.takeLinkup
  try dsimp only
  repeat' first
    | with_reducible assumption
    | with_reducible apply memOk_setTport
    | with_reducible apply memOk_tetherDown
    | with_reducible apply memOk_ackLink
    | with_reducible apply memOk_sendPing
    | with_reducible apply each_ok
    | intro _
    | split
theorem memOk_execLinkup {p : Fin 3} {m : LinkUp} {s t : State} (h_s : MemOk s.dev) (hr : execLinkup p m s = .next t) :
    MemOk t.dev := by
  unfold execLinkup ok at hr
  cases hr
  show MemOk _
  repeat' first
    | with_reducible assumption
    | simp only [mk_iff, line_iff, lineMk_iff, wf_iff]
    | with_reducible apply memOk_takeLinkup
theorem memOk_execLinkack {p : Fin 3} {s t : State} (h_s : MemOk s.dev) (hr : execLinkack p s = .next t) :
    MemOk t.dev := by
  unfold execLinkack ok at hr
  cases hr
  show MemOk _
  repeat' first
    | with_reducible assumption
    | simp only [mk_iff, line_iff, lineMk_iff, wf_iff]
    | with_reducible apply memOk_modTport
    | with_reducible apply memOk_ackLink
    | split
theorem memOk_execPing {p : Fin 3} {index : Fin 8} {t1 : BitVec 48} {t2 : BitVec 48} {t3 : BitVec 48} {s t : State} (h_s : MemOk s.dev) (hr : execPing p index t1 t2 t3 s = .next t) :
    MemOk t.dev := by
  unfold execPing ok at hr
  cases hr
  show MemOk _
  repeat' first
    | with_reducible assumption
    | simp only [mk_iff, line_iff, lineMk_iff, wf_iff]
    | with_reducible apply memOk_say
    | split
theorem memOk_takePong {d : Dev} {p i : Nat} {t1 t2 t3 t4 : BitVec 48} (h_d : MemOk d) :
    MemOk (Dev.takePong d p i t1 t2 t3 t4) := by
  unfold Dev.takePong
  try dsimp only
  repeat' first
    | with_reducible assumption
    | with_reducible apply memOk_modTport
    | with_reducible apply memOk_ackLink
    | split
theorem memOk_execPong {p : Fin 3} {index : Fin 8} {t1 : BitVec 48} {t2 : BitVec 48} {t3 : BitVec 48} {t4 : BitVec 48} {s t : State} (h_s : MemOk s.dev) (hr : execPong p index t1 t2 t3 t4 s = .next t) :
    MemOk t.dev := by
  unfold execPong ok at hr
  cases hr
  show MemOk _
  repeat' first
    | with_reducible assumption
    | simp only [mk_iff, line_iff, lineMk_iff, wf_iff]
    | with_reducible apply memOk_takePong
theorem memOk_execPingResend {p : Fin 3} {index : Fin 8} {t1 : BitVec 48} {s t : State} (h_s : MemOk s.dev) (hr : execPingResend p index t1 s = .next t) :
    MemOk t.dev := by
  unfold execPingResend ok at hr
  cases hr
  show MemOk _
  repeat' first
    | with_reducible assumption
    | simp only [mk_iff, line_iff, lineMk_iff, wf_iff]
    | with_reducible apply memOk_say
    | split
theorem memOk_execHandshakeTimeout {p : Fin 3} {s t : State} (h_s : MemOk s.dev) (hr : execHandshakeTimeout p s = .next t) :
    MemOk t.dev := by
  unfold execHandshakeTimeout ok at hr
  cases hr
  show MemOk _
  repeat' first
    | with_reducible assumption
    | simp only [mk_iff, line_iff, lineMk_iff, wf_iff]
    | with_reducible apply memOk_tetherDown
    | with_reducible apply memOk_toTd
    | split
theorem memOk_startRetrain {d : Dev} {p : Nat} (h_d : MemOk d) :
    MemOk (Dev.startRetrain d p) := by
  unfold Dev.startRetrain
  try dsimp only
  repeat' first
    | with_reducible assumption
    | with_reducible apply memOk_say
    | with_reducible apply memOk_bump
    | with_reducible apply memOk_faultEvent
    | with_reducible apply memOk_setTport
    | with_reducible apply memOk_checkScan
    | split
theorem memOk_execRetrain {p : Fin 3} {s t : State} (h_s : MemOk s.dev) (hr : execRetrain p s = .next t) :
    MemOk t.dev := by
  unfold execRetrain ok at hr
  cases hr
  show MemOk _
  repeat' first
    | with_reducible assumption
    | simp only [mk_iff, line_iff, lineMk_iff, wf_iff]
    | with_reducible apply memOk_startRetrain
theorem memOk_execTetherReceiveSilence {p : Fin 3} {s t : State} (h_s : MemOk s.dev) (hr : execTetherReceiveSilence p s = .next t) :
    MemOk t.dev := by
  unfold execTetherReceiveSilence ok at hr
  cases hr
  show MemOk _
  repeat' first
    | with_reducible assumption
    | simp only [mk_iff, line_iff, lineMk_iff, wf_iff]
    | with_reducible apply memOk_startRetrain
theorem memOk_flitFails {d : Dev} {p : Nat} (h_d : MemOk d) :
    MemOk (Dev.flitFails d p) := by
  unfold Dev.flitFails
  try dsimp only
  repeat' first
    | with_reducible assumption
    | with_reducible apply memOk_setTport
    | with_reducible apply memOk_tetherDown
    | with_reducible apply memOk_replay
    | with_reducible apply memOk_startRetrain
    | split
theorem memOk_execTetherReplayTimerExpiry {p : Fin 3} {s t : State} (h_s : MemOk s.dev) (hr : execTetherReplayTimerExpiry p s = .next t) :
    MemOk t.dev := by
  unfold execTetherReplayTimerExpiry ok at hr
  cases hr
  show MemOk _
  repeat' first
    | with_reducible assumption
    | simp only [mk_iff, line_iff, lineMk_iff, wf_iff]
    | with_reducible apply memOk_flitFails
theorem memOk_takeHeader {d : Dev} {p : Nat} {h : FlitHdr} (h_d : MemOk d) :
    MemOk (Dev.takeHeader d p h) := by
  unfold Dev.takeHeader
  try dsimp only
  repeat' first
    | with_reducible assumption
    | with_reducible apply memOk_modTport
    | with_reducible apply memOk_pump
theorem memOk_takeNak {d : Dev} {p : Nat} {ack : BitVec 12} (h_d : MemOk d) :
    MemOk (Dev.takeNak d p ack) := by
  unfold Dev.takeNak
  try dsimp only
  repeat' first
    | with_reducible assumption
    | with_reducible apply memOk_modTport
    | with_reducible apply memOk_pump
    | with_reducible apply memOk_flitFails
    | split
theorem memOk_execNak {p : Fin 3} {ack : BitVec 12} {s t : State} (h_s : MemOk s.dev) (hr : execNak p ack s = .next t) :
    MemOk t.dev := by
  unfold execNak ok at hr
  cases hr
  show MemOk _
  repeat' first
    | with_reducible assumption
    | simp only [mk_iff, line_iff, lineMk_iff, wf_iff]
    | with_reducible apply memOk_takeNak
theorem memOk_idleFlit {d : Dev} {p : Nat} {h : FlitHdr} (h_d : MemOk d) :
    MemOk (Dev.idleFlit d p h) := by
  unfold Dev.idleFlit
  try dsimp only
  repeat' first
    | with_reducible assumption
    | with_reducible apply memOk_pump
    | with_reducible apply memOk_flitFails
    | with_reducible apply memOk_takeHeader
    | split
theorem memOk_execIdleFlit {p : Fin 3} {hdr : FlitHdr} {s t : State} (h_s : MemOk s.dev) (hr : execIdleFlit p hdr s = .next t) :
    MemOk t.dev := by
  unfold execIdleFlit ok at hr
  cases hr
  show MemOk _
  repeat' first
    | with_reducible assumption
    | simp only [mk_iff, line_iff, lineMk_iff, wf_iff]
    | with_reducible apply memOk_flow
    | with_reducible apply memOk_idleFlit
theorem memOk_sendNak {d : Dev} {p : Nat} (h_d : MemOk d) :
    MemOk (Dev.sendNak d p) := by
  unfold Dev.sendNak
  try dsimp only
  repeat' first
    | with_reducible assumption
    | with_reducible apply memOk_modTport
    | with_reducible apply memOk_sendIdle
    | split
theorem memOk_badFlit {d : Dev} {p : Nat} (h_d : MemOk d) :
    MemOk (Dev.badFlit d p) := by
  unfold Dev.badFlit
  try dsimp only
  repeat' first
    | with_reducible assumption
    | with_reducible apply memOk_bump
    | with_reducible apply memOk_modTport
    | with_reducible apply memOk_sendNak
    | split
theorem memOk_execBadFlit {p : Fin 3} {s t : State} (h_s : MemOk s.dev) (hr : execBadFlit p s = .next t) :
    MemOk t.dev := by
  unfold execBadFlit ok at hr
  cases hr
  show MemOk _
  repeat' first
    | with_reducible assumption
    | simp only [mk_iff, line_iff, lineMk_iff, wf_iff]
    | with_reducible apply memOk_badFlit
theorem memOk_sequenced {d : Dev} {p : Nat} {f : Flit} (h_d : MemOk d) :
    MemOk (Dev.sequenced d p f) := by
  unfold Dev.sequenced
  try dsimp only
  repeat' first
    | with_reducible assumption
    | with_reducible apply memOk_bump
    | with_reducible apply memOk_setTport
    | with_reducible apply memOk_sendIdle
    | with_reducible apply memOk_pump
    | with_reducible apply memOk_flitFails
    | with_reducible apply memOk_takeHeader
    | with_reducible apply memOk_sendNak
    | with_reducible apply memOk_badFlit
    | split
theorem memOk_execRequestFlit {p : Fin 3} {flit : Flit} {s t : State} (h_s : MemOk s.dev) (hr : execRequestFlit p flit s = .next t) :
    MemOk t.dev := by
  unfold execRequestFlit ok at hr
  cases hr
  show MemOk _
  repeat' first
    | with_reducible assumption
    | simp only [mk_iff, line_iff, lineMk_iff, wf_iff]
    | with_reducible apply memOk_flow
    | with_reducible apply memOk_badFlit
    | with_reducible apply memOk_sequenced
    | split
theorem memOk_execResponseFlit {p : Fin 3} {flit : Flit} {s t : State} (h_s : MemOk s.dev) (hr : execResponseFlit p flit s = .next t) :
    MemOk t.dev := by
  unfold execResponseFlit ok at hr
  cases hr
  show MemOk _
  repeat' first
    | with_reducible assumption
    | simp only [mk_iff, line_iff, lineMk_iff, wf_iff]
    | with_reducible apply memOk_flow
    | with_reducible apply memOk_badFlit
    | with_reducible apply memOk_sequenced
    | split
theorem memOk_writeBlock {d : Dev} {slot : Nat} (h_d : MemOk d) :
    MemOk (Dev.writeBlock d slot) := by
  unfold Dev.writeBlock
  try dsimp only
  repeat' first
    | with_reducible assumption
    | simp only [mk_iff, line_iff, lineMk_iff, wf_iff]
theorem memOk_loadFirmware {d : Dev} {bank : Nat} {r0 : Dev} (h_d : MemOk d) (hr : (Dev.loadFirmware d bank) = some r0) :
    MemOk r0 := by
  unfold Dev.loadFirmware at hr
  try dsimp only at hr
  repeat' first
    | (simp only [Option.some.injEq, Prod.mk.injEq, Option.map_eq_some_iff, Option.bind_eq_some_iff, Except.ok.injEq, reduceCtorEq] at hr)
    | (subst hr)
    | (obtain ⟨_, _, hr⟩ := hr)
    | with_reducible assumption
    | simp only [mk_iff, line_iff, lineMk_iff, wf_iff]
theorem memOk_coresTo {d : Dev} {bank : Nat} (h_d : MemOk d) :
    MemOk (Dev.coresTo d bank) := by
  unfold Dev.coresTo
  try dsimp only
  repeat' first
    | with_reducible assumption
    | with_reducible apply memOk_setCore
    | with_reducible apply each_ok
    | intro _
    | split
theorem memOk_bootFirmware {d : Dev} (h_d : MemOk d) :
    MemOk (Dev.bootFirmware d) := by
  unfold Dev.bootFirmware
  try dsimp only
  repeat' first
    | with_reducible assumption
    | simp only [mk_iff, line_iff, lineMk_iff, wf_iff]
    | with_reducible apply memOk_faultN
    | with_reducible (apply memOk_loadFirmware (hr := by assumption))
    | with_reducible apply memOk_coresTo
    | split
theorem memOk_fwInfo {d : Dev} {iss : Issuer} {inp : List Byte} (h_d : MemOk d) :
    MemOk (Dev.fwInfo d iss inp) := by
  unfold Dev.fwInfo
  try dsimp only
  repeat' first
    | with_reducible assumption
    | with_reducible apply memOk_answerStd
    | split
theorem memOk_execGetFwInfo {iss : Issuer} {inp : List Byte} {s t : State} (h_s : MemOk s.dev) (hr : execGetFwInfo iss inp s = .next t) :
    MemOk t.dev := by
  unfold execGetFwInfo ok at hr
  cases hr
  show MemOk _
  repeat' first
    | with_reducible assumption
    | simp only [mk_iff, line_iff, lineMk_iff, wf_iff]
    | with_reducible apply memOk_command
    | with_reducible apply memOk_fwInfo
    | intro _
theorem memOk_transferFw {d : Dev} {iss : Issuer} {inp : List Byte} (h_d : MemOk d) :
    MemOk (Dev.transferFw d iss inp) := by
  unfold Dev.transferFw
  try dsimp only
  repeat' first
    | with_reducible assumption
    | simp only [mk_iff, line_iff, lineMk_iff, wf_iff]
    | with_reducible apply memOk_answerStd
    | split
theorem memOk_execTransferFw {iss : Issuer} {inp : List Byte} {s t : State} (h_s : MemOk s.dev) (hr : execTransferFw iss inp s = .next t) :
    MemOk t.dev := by
  unfold execTransferFw ok at hr
  cases hr
  show MemOk _
  repeat' first
    | with_reducible assumption
    | simp only [mk_iff, line_iff, lineMk_iff, wf_iff]
    | with_reducible apply memOk_command
    | with_reducible apply memOk_transferFw
    | intro _
theorem memOk_loadBank {d : Dev} {action : Nat} {img : List Byte} (h_d : MemOk d) :
    MemOk (Dev.loadBank d action img) := by
  unfold Dev.loadBank
  try dsimp only
  repeat' first
    | with_reducible assumption
    | simp only [mk_iff, line_iff, lineMk_iff, wf_iff]
    | split
theorem memOk_activateFw {d : Dev} {iss : Issuer} {inp : List Byte} (h_d : MemOk d) :
    MemOk (Dev.activateFw d iss inp) := by
  unfold Dev.activateFw
  try dsimp only
  repeat' first
    | with_reducible assumption
    | simp only [mk_iff, line_iff, lineMk_iff, wf_iff]
    | with_reducible apply memOk_answerStd
    | with_reducible apply memOk_startBg
    | with_reducible apply memOk_writeBlock
    | with_reducible apply memOk_bootFirmware
    | with_reducible apply memOk_loadBank
    | split
theorem memOk_execActivateFw {iss : Issuer} {inp : List Byte} {s t : State} (h_s : MemOk s.dev) (hr : execActivateFw iss inp s = .next t) :
    MemOk t.dev := by
  unfold execActivateFw ok at hr
  cases hr
  show MemOk _
  repeat' first
    | with_reducible assumption
    | simp only [mk_iff, line_iff, lineMk_iff, wf_iff]
    | with_reducible apply memOk_command
    | with_reducible apply memOk_activateFw
    | intro _
theorem memOk_abandonActivation {d : Dev} (h_d : MemOk d) :
    MemOk (Dev.abandonActivation d) := by
  unfold Dev.abandonActivation
  try dsimp only
  repeat' first
    | with_reducible assumption
    | simp only [mk_iff, line_iff, lineMk_iff, wf_iff]
    | with_reducible apply memOk_endBgRet
    | with_reducible apply memOk_coresTo
    | split
theorem memOk_pairHandover {d : Dev} {check : Bool} (h_d : MemOk d) :
    MemOk (Dev.pairHandover d check) := by
  unfold Dev.pairHandover
  try dsimp only
  repeat' first
    | with_reducible assumption
    | simp only [mk_iff, line_iff, lineMk_iff, wf_iff]
    | with_reducible apply memOk_setCore
    | with_reducible apply memOk_endBgRet
    | with_reducible apply memOk_writeBlock
    | with_reducible apply memOk_abandonActivation
    | with_reducible apply each_ok
    | intro _
    | split
theorem memOk_execFwPairHandover {selfCheck : Bool} {s t : State} (h_s : MemOk s.dev) (hr : execFwPairHandover selfCheck s = .next t) :
    MemOk t.dev := by
  unfold execFwPairHandover ok at hr
  cases hr
  show MemOk _
  repeat' first
    | with_reducible assumption
    | simp only [mk_iff, line_iff, lineMk_iff, wf_iff]
    | with_reducible apply memOk_pairHandover
theorem memOk_toHeld {d : Dev} {keep : Option (Nat × Nat)} (h_d : MemOk d) :
    MemOk (Dev.toHeld d keep) := by
  unfold Dev.toHeld
  try dsimp only
  repeat' first
    | simp only [mk_iff, line_iff, lineMk_iff, wf_iff]
    | with_reducible apply memOk_faultN
    | with_reducible apply memOk_startInput
    | split
    | (exact wf_nil)
theorem memOk_coldWake {d : Dev} {cause step : Nat} (h_d : MemOk d) :
    MemOk (Dev.coldWake d cause step) := by
  unfold Dev.coldWake
  try dsimp only
  repeat' first
    | with_reducible assumption
    | simp only [mk_iff, line_iff, lineMk_iff, wf_iff]
    | with_reducible apply memOk_say
    | with_reducible apply memOk_toHeld
    | split
theorem memOk_mgmtLocal {d : Dev} {p subOp : Nat} {body : List Byte} (h_d : MemOk d) :
    MemOk (Dev.mgmtLocal d p subOp body) := by
  unfold Dev.mgmtLocal
  try dsimp only
  repeat' first
    | with_reducible assumption
    | simp only [mk_iff, line_iff, lineMk_iff, wf_iff]
    | with_reducible apply memOk_sendMsg
    | split
theorem memOk_tryDoze {d : Dev} {p : Nat} (h_d : MemOk d) :
    MemOk (Dev.tryDoze d p) := by
  unfold Dev.tryDoze
  try dsimp only
  repeat' first
    | with_reducible assumption
    | with_reducible apply memOk_say
    | with_reducible apply memOk_setTport
    | with_reducible apply memOk_checkScan
    | split
theorem memOk_undoze {d : Dev} {p : Nat} (h_d : MemOk d) :
    MemOk (Dev.undoze d p) := by
  unfold Dev.undoze
  try dsimp only
  repeat' first
    | with_reducible assumption
    | with_reducible apply memOk_modTport
    | with_reducible apply memOk_pump
    | with_reducible apply memOk_toTa
    | split
theorem memOk_dozeActivity {d : Dev} {p : Nat} (h_d : MemOk d) :
    MemOk (Dev.dozeActivity d p) := by
  unfold Dev.dozeActivity
  try dsimp only
  repeat' first
    | with_reducible assumption
    | with_reducible apply memOk_wakeEvent
    | with_reducible apply memOk_undoze
    | split
theorem memOk_suspendAll {d : Dev} (h_d : MemOk d) :
    MemOk (Dev.suspendAll d) := by
  unfold Dev.suspendAll
  try dsimp only
  repeat' first
    | with_reducible assumption
    | simp only [mk_iff, line_iff, lineMk_iff, wf_iff]
    | with_reducible apply memOk_suspend
    | with_reducible apply each_ok
    | intro _
theorem memOk_restoreAll {d : Dev} (h_d : MemOk d) :
    MemOk (Dev.restoreAll d) := by
  unfold Dev.restoreAll
  try dsimp only
  repeat' first
    | with_reducible assumption
    | simp only [mk_iff, line_iff, lineMk_iff, wf_iff]
    | with_reducible apply memOk_restore
    | with_reducible apply each_ok
    | intro _
theorem memOk_endEnter {d : Dev} {outcome cause : Nat} (h_d : MemOk d) :
    MemOk (Dev.endEnter d outcome cause) := by
  unfold Dev.endEnter
  try dsimp only
  repeat' first
    | with_reducible assumption
    | simp only [mk_iff, line_iff, lineMk_iff, wf_iff]
    | with_reducible apply memOk_endBg
    | split
theorem memOk_powerEnter {d : Dev} {iss : Issuer} {inp : List Byte} (h_d : MemOk d) :
    MemOk (Dev.powerEnter d iss inp) := by
  unfold Dev.powerEnter
  try dsimp only
  repeat' first
    | with_reducible assumption
    | simp only [mk_iff, line_iff, lineMk_iff, wf_iff]
    | with_reducible apply memOk_refuse
    | with_reducible apply memOk_badLength
    | with_reducible apply memOk_startBg
    | with_reducible apply memOk_suspendAll
    | split
theorem memOk_execPowerEnter {iss : Issuer} {inp : List Byte} {s t : State} (h_s : MemOk s.dev) (hr : execPowerEnter iss inp s = .next t) :
    MemOk t.dev := by
  unfold execPowerEnter ok at hr
  cases hr
  show MemOk _
  repeat' first
    | with_reducible assumption
    | simp only [mk_iff, line_iff, lineMk_iff, wf_iff]
    | with_reducible apply memOk_command
    | with_reducible apply memOk_powerEnter
    | intro _
theorem memOk_powerStatus {d : Dev} {iss : Issuer} {inp : List Byte} (h_d : MemOk d) :
    MemOk (Dev.powerStatus d iss inp) := by
  unfold Dev.powerStatus
  try dsimp only
  repeat' first
    | with_reducible assumption
    | with_reducible apply memOk_reply
    | with_reducible apply memOk_refuse
    | split
theorem memOk_execPowerStatus {iss : Issuer} {inp : List Byte} {s t : State} (h_s : MemOk s.dev) (hr : execPowerStatus iss inp s = .next t) :
    MemOk t.dev := by
  unfold execPowerStatus ok at hr
  cases hr
  show MemOk _
  repeat' first
    | with_reducible assumption
    | simp only [mk_iff, line_iff, lineMk_iff, wf_iff]
    | with_reducible apply memOk_command
    | with_reducible apply memOk_powerStatus
    | intro _
theorem memOk_abandonEntry {d : Dev} {point cause : Nat} (h_d : MemOk d) :
    MemOk (Dev.abandonEntry d point cause) := by
  unfold Dev.abandonEntry
  try dsimp only
  repeat' first
    | with_reducible assumption
    | simp only [mk_iff, line_iff, lineMk_iff, wf_iff]
    | with_reducible apply memOk_modLink
    | with_reducible apply memOk_raise
    | with_reducible apply memOk_undoze
    | with_reducible apply memOk_restoreAll
    | with_reducible apply memOk_endEnter
    | with_reducible apply each_ok
    | intro _
theorem memOk_startLinks {d : Dev} {e : Entry} (h_d : MemOk d) :
    MemOk (Dev.startLinks d e) := by
  unfold Dev.startLinks
  try dsimp only
  repeat' first
    | with_reducible assumption
    | simp only [mk_iff, line_iff, lineMk_iff, wf_iff]
    | with_reducible apply memOk_modTport
    | with_reducible apply memOk_mgmtLocal
    | with_reducible apply each_ok
    | intro _
theorem memOk_entryStep {d : Dev} {e : Entry} {r0 : Dev} (h_d : MemOk d) (hr : (Dev.entryStep d e) = some r0) :
    MemOk r0 := by
  unfold Dev.entryStep at hr
  try dsimp only at hr
  repeat' first
    | (simp only [Option.some.injEq, Prod.mk.injEq, Option.map_eq_some_iff, Option.bind_eq_some_iff, Except.ok.injEq, reduceCtorEq] at hr)
    | (subst hr)
    | (split at hr)
    | with_reducible assumption
    | simp only [mk_iff, line_iff, lineMk_iff, wf_iff]
    | with_reducible apply memOk_modLink
    | with_reducible apply memOk_say
    | with_reducible apply memOk_flushTree
    | with_reducible apply memOk_tryDoze
    | with_reducible apply memOk_startLinks
    | with_reducible apply each_ok
    | intro _
    | split
theorem memOk_darken {d : Dev} (h_d : MemOk d) :
    MemOk (Dev.darken d) := by
  unfold Dev.darken
  try dsimp only
  repeat' first
    | with_reducible assumption
    | simp only [mk_iff, line_iff, lineMk_iff, wf_iff]
theorem memOk_entered {d : Dev} {e : Entry} (h_d : MemOk d) :
    MemOk (Dev.entered d e) := by
  unfold Dev.entered
  try dsimp only
  repeat' first
    | with_reducible assumption
    | simp only [mk_iff, line_iff, lineMk_iff, wf_iff]
    | with_reducible apply memOk_raise
    | with_reducible apply memOk_startWake
    | with_reducible apply memOk_darken
    | split
theorem memOk_entryDone {d : Dev} (h_d : MemOk d) :
    MemOk (Dev.entryDone d) := by
  unfold Dev.entryDone
  try dsimp only
  repeat' first
    | with_reducible assumption
    | with_reducible apply memOk_abandonEntry
    | with_reducible (apply memOk_entryStep (hr := by assumption))
    | with_reducible apply memOk_entered
    | split
theorem memOk_execPowerEntryStepDone  {s t : State} (h_s : MemOk s.dev) (hr : execPowerEntryStepDone s = .next t) :
    MemOk t.dev := by
  unfold execPowerEntryStepDone ok at hr
  cases hr
  show MemOk _
  repeat' first
    | with_reducible assumption
    | simp only [mk_iff, line_iff, lineMk_iff, wf_iff]
    | with_reducible apply memOk_entryDone
theorem memOk_dozeTimeout {d : Dev} {p : Nat} (h_d : MemOk d) :
    MemOk (Dev.dozeTimeout d p) := by
  unfold Dev.dozeTimeout
  try dsimp only
  repeat' first
    | with_reducible assumption
    | with_reducible apply memOk_free
    | with_reducible apply memOk_abandonEntry
    | split
theorem memOk_execDozeTimeout {p : Fin 3} {s t : State} (h_s : MemOk s.dev) (hr : execDozeTimeout p s = .next t) :
    MemOk t.dev := by
  unfold execDozeTimeout ok at hr
  cases hr
  show MemOk _
  repeat' first
    | with_reducible assumption
    | simp only [mk_iff, line_iff, lineMk_iff, wf_iff]
    | with_reducible apply memOk_dozeTimeout
theorem memOk_dozeAnswer {d : Dev} {p result : Nat} (h_d : MemOk d) :
    MemOk (Dev.dozeAnswer d p result) := by
  unfold Dev.dozeAnswer
  try dsimp only
  repeat' first
    | with_reducible assumption
    | simp only [mk_iff, line_iff, lineMk_iff, wf_iff]
    | with_reducible apply memOk_tryDoze
    | with_reducible apply memOk_dozeTimeout
    | split
theorem memOk_wakeDone {d : Dev} {w : Waking} (h_d : MemOk d) :
    MemOk (Dev.wakeDone d w) := by
  unfold Dev.wakeDone
  try dsimp only
  repeat' first
    | with_reducible assumption
    | simp only [mk_iff, line_iff, lineMk_iff, wf_iff]
    | with_reducible apply memOk_modLink
    | with_reducible apply memOk_doorbell
    | with_reducible apply memOk_raise
    | with_reducible apply memOk_undoze
    | with_reducible apply memOk_restoreAll
    | with_reducible apply memOk_endEnter
    | with_reducible apply each_ok
    | intro _
    | split
theorem memOk_wakeBoundary {d : Dev} (h_d : MemOk d) :
    MemOk (Dev.wakeBoundary d) := by
  unfold Dev.wakeBoundary
  try dsimp only
  repeat' first
    | with_reducible assumption
    | with_reducible apply memOk_wakeDone
    | split
theorem memOk_untrained {d : Dev} {ch phys : Nat} (h_d : MemOk d) :
    MemOk (Dev.untrained d ch phys) := by
  unfold Dev.untrained
  try dsimp only
  repeat' first
    | with_reducible assumption
    | with_reducible apply memOk_modChan
    | with_reducible apply memOk_loseRank
    | split
theorem memOk_wakeLogic {d : Dev} {w : Waking} {failed : List (Nat × Nat)} {r0 : Dev} (h_d : MemOk d) (hr : (Dev.wakeLogic d w failed) = some r0) :
    MemOk r0 := by
  unfold Dev.wakeLogic at hr
  extract_lets kept code at hr
  simp only [Option.map_eq_some_iff] at hr
  obtain ⟨e, he, hr⟩ := hr
  have m : MemOk e := by
    simp only [code] at he
    split at he
    · simp only [Option.some.injEq] at he
      exact he ▸ h_d
    · exact memOk_loadFirmware h_d he
  subst hr
  repeat' first
    | with_reducible assumption
    | with_reducible apply memOk_wakeDone
    | with_reducible apply memOk_repin
    | with_reducible apply memOk_applyLosses
    | with_reducible apply each_ok
    | with_reducible apply memOk_faultEvent
    | with_reducible apply memOk_untrained
    | with_reducible apply memOk_trainChan
    | intro _
theorem memOk_wakeRecord {d : Dev} {w : Waking} {mask : Nat} {second : Bool} (h_d : MemOk d) :
    MemOk (Dev.wakeRecord d w mask second) := by
  unfold Dev.wakeRecord
  try dsimp only
  repeat' first
    | with_reducible assumption
    | with_reducible apply memOk_raise
theorem memOk_wakeReady {d : Dev} {failed : List (Nat × Nat)} (h_d : MemOk d) :
    MemOk (Dev.wakeReady d failed) := by
  unfold Dev.wakeReady
  try dsimp only
  repeat' first
    | with_reducible assumption
    | simp only [mk_iff, line_iff, lineMk_iff, wf_iff]
    | with_reducible (apply memOk_wakeLogic (hr := by assumption))
    | with_reducible apply memOk_wakeRecord
    | with_reducible apply getD_ok
    | intro _
    | split
theorem memOk_wakeTimeout {d : Dev} {stuck : BitVec 8} (h_d : MemOk d) :
    MemOk (Dev.wakeTimeout d stuck) := by
  unfold Dev.wakeTimeout
  try dsimp only
  repeat' first
    | with_reducible assumption
    | simp only [mk_iff, line_iff, lineMk_iff, wf_iff]
    | with_reducible apply memOk_dropModule
    | with_reducible apply memOk_coldWake
    | with_reducible apply memOk_wakeRecord
    | with_reducible apply each_ok
    | intro _
    | split
theorem memOk_execWakeStepTimeout {stuck : BitVec 8} {s t : State} (h_s : MemOk s.dev) (hr : execWakeStepTimeout stuck s = .next t) :
    MemOk t.dev := by
  unfold execWakeStepTimeout ok at hr
  cases hr
  show MemOk _
  repeat' first
    | with_reducible assumption
    | simp only [mk_iff, line_iff, lineMk_iff, wf_iff]
    | with_reducible apply memOk_wakeTimeout
theorem memOk_execWakeEvent {cause : WakeCause} {s t : State} (h_s : MemOk s.dev) (hr : execWakeEvent cause s = .next t) :
    MemOk t.dev := by
  unfold execWakeEvent ok at hr
  cases hr
  show MemOk _
  repeat' first
    | with_reducible assumption
    | simp only [mk_iff, line_iff, lineMk_iff, wf_iff]
    | with_reducible apply memOk_wakeEvent
    | with_reducible apply memOk_wakeFault
    | split
theorem memOk_execBrownOut  {s t : State} (h_s : MemOk s.dev) (hr : execBrownOut s = .next t) :
    MemOk t.dev := by
  unfold execBrownOut ok at hr
  cases hr
  show MemOk _
  repeat' first
    | with_reducible assumption
    | simp only [mk_iff, line_iff, lineMk_iff, wf_iff]
    | with_reducible apply memOk_coldWake
    | split
theorem memOk_execVddqDLoss  {s t : State} (h_s : MemOk s.dev) (hr : execVddqDLoss s = .next t) :
    MemOk t.dev := by
  unfold execVddqDLoss ok at hr
  cases hr
  show MemOk _
  repeat' first
    | with_reducible assumption
    | simp only [mk_iff, line_iff, lineMk_iff, wf_iff]
    | with_reducible apply memOk_coldWake
    | split
theorem memOk_linkPower {d : Dev} {l : Nat} {dest : LState} (h_d : MemOk d) :
    MemOk (Dev.linkPower d l dest) := by
  unfold Dev.linkPower
  try dsimp only
  repeat' first
    | with_reducible assumption
    | with_reducible apply memOk_modLink
    | with_reducible apply memOk_flush
    | with_reducible apply memOk_checkScan
    | with_reducible apply memOk_wakeEvent
    | split
theorem memOk_execHostLinkPowerStateChange {l : Link} {dest : LState} {s t : State} (h_s : MemOk s.dev) (hr : execHostLinkPowerStateChange l dest s = .next t) :
    MemOk t.dev := by
  unfold execHostLinkPowerStateChange ok at hr
  cases hr
  show MemOk _
  repeat' first
    | with_reducible assumption
    | simp only [mk_iff, line_iff, lineMk_iff, wf_iff]
    | with_reducible apply memOk_flow
    | with_reducible apply memOk_linkPower
theorem memOk_toTc {d : Dev} {p : Nat} (h_d : MemOk d) :
    MemOk (Dev.toTc d p) := by
  unfold Dev.toTc
  try dsimp only
  repeat' first
    | with_reducible assumption
    | with_reducible apply memOk_say
    | with_reducible apply memOk_tstate
theorem memOk_receiverFound {d : Dev} {p : Nat} {lanes : BitVec 8} (h_d : MemOk d) :
    MemOk (Dev.receiverFound d p lanes) := by
  unfold Dev.receiverFound
  try dsimp only
  repeat' first
    | with_reducible assumption
    | with_reducible apply memOk_modTport
    | with_reducible apply memOk_toTa
    | split
theorem memOk_execTetherReceiverDetected {p : Fin 3} {lanes : BitVec 8} {s t : State} (h_s : MemOk s.dev) (hr : execTetherReceiverDetected p lanes s = .next t) :
    MemOk t.dev := by
  unfold execTetherReceiverDetected ok at hr
  cases hr
  show MemOk _
  repeat' first
    | with_reducible assumption
    | simp only [mk_iff, line_iff, lineMk_iff, wf_iff]
    | with_reducible apply memOk_receiverFound
theorem memOk_takeTts1 {d : Dev} {p lane : Nat} {set : TrainSet} (h_d : MemOk d) :
    MemOk (Dev.takeTts1 d p lane set) := by
  unfold Dev.takeTts1
  try dsimp only
  repeat' first
    | with_reducible assumption
    | with_reducible apply memOk_setTport
    | with_reducible apply memOk_startReset
    | with_reducible apply memOk_dozeActivity
    | with_reducible apply memOk_toTc
    | split
theorem memOk_execTts1 {p : Fin 3} {lane : Fin 8} {set : TrainSet} {s t : State} (h_s : MemOk s.dev) (hr : execTts1 p lane set s = .next t) :
    MemOk t.dev := by
  unfold execTts1 ok at hr
  cases hr
  show MemOk _
  repeat' first
    | with_reducible assumption
    | simp only [mk_iff, line_iff, lineMk_iff, wf_iff]
    | with_reducible apply memOk_takeTts1
theorem memOk_lockWindow {d : Dev} {p : Nat} (h_d : MemOk d) :
    MemOk (Dev.lockWindow d p) := by
  unfold Dev.lockWindow
  try dsimp only
  repeat' first
    | with_reducible assumption
    | with_reducible apply memOk_toTc
    | split
theorem memOk_execTaLockWindowExpiry {p : Fin 3} {s t : State} (h_s : MemOk s.dev) (hr : execTaLockWindowExpiry p s = .next t) :
    MemOk t.dev := by
  unfold execTaLockWindowExpiry ok at hr
  cases hr
  show MemOk _
  repeat' first
    | with_reducible assumption
    | simp only [mk_iff, line_iff, lineMk_iff, wf_iff]
    | with_reducible apply memOk_lockWindow
theorem memOk_takeTts2 {d : Dev} {p lane : Nat} {set : TrainSet} (h_d : MemOk d) :
    MemOk (Dev.takeTts2 d p lane set) := by
  unfold Dev.takeTts2
  try dsimp only
  repeat' first
    | with_reducible assumption
    | with_reducible apply memOk_say
    | with_reducible apply memOk_setTport
    | with_reducible apply memOk_tstate
    | with_reducible apply memOk_toTd
    | split
theorem memOk_execTts2 {p : Fin 3} {lane : Fin 8} {set : TrainSet} {s t : State} (h_s : MemOk s.dev) (hr : execTts2 p lane set s = .next t) :
    MemOk t.dev := by
  unfold execTts2 ok at hr
  cases hr
  show MemOk _
  repeat' first
    | with_reducible assumption
    | simp only [mk_iff, line_iff, lineMk_iff, wf_iff]
    | with_reducible apply memOk_takeTts2
theorem memOk_speedLock {d : Dev} {p : Nat} (h_d : MemOk d) :
    MemOk (Dev.speedLock d p) := by
  unfold Dev.speedLock
  try dsimp only
  repeat' first
    | with_reducible assumption
    | with_reducible apply memOk_setTport
    | with_reducible apply memOk_tstate
    | split
theorem memOk_execTetherSpeedLock {p : Fin 3} {s t : State} (h_s : MemOk s.dev) (hr : execTetherSpeedLock p s = .next t) :
    MemOk t.dev := by
  unfold execTetherSpeedLock ok at hr
  cases hr
  show MemOk _
  repeat' first
    | with_reducible assumption
    | simp only [mk_iff, line_iff, lineMk_iff, wf_iff]
    | with_reducible apply memOk_speedLock
theorem memOk_equalised {d : Dev} {p : Nat} (h_d : MemOk d) :
    MemOk (Dev.equalised d p) := by
  unfold Dev.equalised
  try dsimp only
  repeat' first
    | with_reducible assumption
    | with_reducible apply memOk_setTport
    | with_reducible apply memOk_tstate
    | split
theorem memOk_eqRequest {d : Dev} {p : Nat} {k : Coef} {up done : Bool} (h_d : MemOk d) :
    MemOk (Dev.eqRequest d p k up done) := by
  unfold Dev.eqRequest
  try dsimp only
  repeat' first
    | with_reducible assumption
    | with_reducible apply memOk_setTport
    | with_reducible apply memOk_equalised
    | split
theorem memOk_execEqualisationRequest {p : Fin 3} {coef : Coef} {up : Bool} {done : Bool} {s t : State} (h_s : MemOk s.dev) (hr : execEqualisationRequest p coef up done s = .next t) :
    MemOk t.dev := by
  unfold execEqualisationRequest ok at hr
  cases hr
  show MemOk _
  repeat' first
    | with_reducible assumption
    | simp only [mk_iff, line_iff, lineMk_iff, wf_iff]
    | with_reducible apply memOk_eqRequest
theorem memOk_eqLimit {d : Dev} {p : Nat} {mine : Bool} (h_d : MemOk d) :
    MemOk (Dev.eqLimit d p mine) := by
  unfold Dev.eqLimit
  try dsimp only
  repeat' first
    | with_reducible assumption
    | with_reducible apply memOk_setTport
    | with_reducible apply memOk_equalised
    | split
theorem memOk_execEqualisationTimeLimit {p : Fin 3} {mine : Bool} {s t : State} (h_s : MemOk s.dev) (hr : execEqualisationTimeLimit p mine s = .next t) :
    MemOk t.dev := by
  unfold execEqualisationTimeLimit ok at hr
  cases hr
  show MemOk _
  repeat' first
    | with_reducible assumption
    | simp only [mk_iff, line_iff, lineMk_iff, wf_iff]
    | with_reducible apply memOk_eqLimit
theorem memOk_deskewed {d : Dev} {p : Nat} (h_d : MemOk d) :
    MemOk (Dev.deskewed d p) := by
  unfold Dev.deskewed
  try dsimp only
  repeat' first
    | with_reducible assumption
    | with_reducible apply memOk_toHandshake
    | split
theorem memOk_execThDeskewDone {p : Fin 3} {s t : State} (h_s : MemOk s.dev) (hr : execThDeskewDone p s = .next t) :
    MemOk t.dev := by
  unfold execThDeskewDone ok at hr
  cases hr
  show MemOk _
  repeat' first
    | with_reducible assumption
    | simp only [mk_iff, line_iff, lineMk_iff, wf_iff]
    | with_reducible apply memOk_deskewed
theorem memOk_resetDone {d : Dev} {p : Nat} (h_d : MemOk d) :
    MemOk (Dev.resetDone d p) := by
  unfold Dev.resetDone
  try dsimp only
  repeat' first
    | with_reducible assumption
    | with_reducible apply memOk_setTport
    | with_reducible apply memOk_toTd
    | with_reducible apply memOk_toHandshake
    | split
theorem memOk_execTetherWidthResetDone {p : Fin 3} {s t : State} (h_s : MemOk s.dev) (hr : execTetherWidthResetDone p s = .next t) :
    MemOk t.dev := by
  unfold execTetherWidthResetDone ok at hr
  cases hr
  show MemOk _
  repeat' first
    | with_reducible assumption
    | simp only [mk_iff, line_iff, lineMk_iff, wf_iff]
    | with_reducible apply memOk_resetDone
theorem memOk_trainTimeout {d : Dev} {p : Nat} (h_d : MemOk d) :
    MemOk (Dev.trainTimeout d p) := by
  unfold Dev.trainTimeout
  try dsimp only
  repeat' first
    | with_reducible assumption
    | with_reducible apply memOk_toTd
    | split
theorem memOk_execTetherTrainStateTimeout {p : Fin 3} {s t : State} (h_s : MemOk s.dev) (hr : execTetherTrainStateTimeout p s = .next t) :
    MemOk t.dev := by
  unfold execTetherTrainStateTimeout ok at hr
  cases hr
  show MemOk _
  repeat' first
    | with_reducible assumption
    | simp only [mk_iff, line_iff, lineMk_iff, wf_iff]
    | with_reducible apply memOk_trainTimeout
theorem memOk_partnerStirs {d : Dev} {p : Nat} (h_d : MemOk d) :
    MemOk (Dev.partnerStirs d p) := by
  unfold Dev.partnerStirs
  try dsimp only
  repeat' first
    | with_reducible assumption
    | with_reducible apply memOk_modTport
    | with_reducible apply memOk_dozeActivity
    | split
theorem memOk_execPartnerLeavesElectricalIdle {p : Fin 3} {s t : State} (h_s : MemOk s.dev) (hr : execPartnerLeavesElectricalIdle p s = .next t) :
    MemOk t.dev := by
  unfold execPartnerLeavesElectricalIdle ok at hr
  cases hr
  show MemOk _
  repeat' first
    | with_reducible assumption
    | simp only [mk_iff, line_iff, lineMk_iff, wf_iff]
    | with_reducible apply memOk_partnerStirs
theorem memOk_skipBlock {d : Dev} {p lane : Nat} {units : Int} (h_d : MemOk d) :
    MemOk (Dev.skipBlock d p lane units) := by
  unfold Dev.skipBlock
  try dsimp only
  repeat' first
    | with_reducible assumption
    | with_reducible apply memOk_setTport
    | split
theorem memOk_execSkipBlock {p : Fin 3} {lane : Fin 8} {units : Int} {s t : State} (h_s : MemOk s.dev) (hr : execSkipBlock p lane units s = .next t) :
    MemOk t.dev := by
  unfold execSkipBlock ok at hr
  cases hr
  show MemOk _
  repeat' first
    | with_reducible assumption
    | simp only [mk_iff, line_iff, lineMk_iff, wf_iff]
    | with_reducible apply memOk_skipBlock
theorem memOk_withBanks {d : Dev} {cur : Tab Nat} {regions : List Region} (h_d : MemOk d) :
    MemOk (Dev.withBanks d cur regions) := by
  unfold Dev.withBanks
  try dsimp only
  repeat' first
    | with_reducible assumption
    | simp only [mk_iff, line_iff, lineMk_iff, wf_iff]
    | split
theorem memOk_staged {d : Dev} {l : List Staged} (h_d : MemOk d) :
    MemOk (Dev.staged d l) := by
  unfold Dev.staged
  try dsimp only
  repeat' first
    | with_reducible assumption
    | with_reducible apply memOk_withBanks
theorem memOk_modSheet {d : Dev} {f : Sheet → Sheet} (h_d : MemOk d) :
    MemOk (Dev.modSheet d f) := by
  unfold Dev.modSheet
  try dsimp only
  repeat' first
    | with_reducible assumption
    | simp only [mk_iff, line_iff, lineMk_iff, wf_iff]
theorem memOk_modCinch {d : Dev} {f : Cinch → Cinch} (h_d : MemOk d) :
    MemOk (Dev.modCinch d f) := by
  unfold Dev.modCinch
  try dsimp only
  repeat' first
    | with_reducible assumption
    | with_reducible apply memOk_modSheet
theorem memOk_slip {d : Dev} (h_d : MemOk d) :
    MemOk (Dev.slip d) := by
  unfold Dev.slip
  try dsimp only
  repeat' first
    | with_reducible assumption
    | simp only [mk_iff, line_iff, lineMk_iff, wf_iff]
    | with_reducible apply memOk_mgmt
    | with_reducible apply memOk_repin
    | with_reducible apply each_ok
    | intro _
    | split
theorem memOk_evict {d : Dev} {type : Nat} (h_d : MemOk d) :
    MemOk (Dev.evict d type) := by
  unfold Dev.evict
  try dsimp only
  repeat' first
    | with_reducible assumption
    | simp only [mk_iff, line_iff, lineMk_iff, wf_iff]
    | with_reducible apply memOk_raise
    | with_reducible apply memOk_slip
    | split
theorem memOk_sheetExpired {d : Dev} (h_d : MemOk d) :
    MemOk (Dev.sheetExpired d) := by
  unfold Dev.sheetExpired
  try dsimp only
  repeat' first
    | with_reducible assumption
    | with_reducible apply memOk_evict
    | split
theorem memOk_execSheetExpired  {s t : State} (h_s : MemOk s.dev) (hr : execSheetExpired s = .next t) :
    MemOk t.dev := by
  unfold execSheetExpired ok at hr
  cases hr
  show MemOk _
  repeat' first
    | with_reducible assumption
    | simp only [mk_iff, line_iff, lineMk_iff, wf_iff]
    | with_reducible apply memOk_sheetExpired
theorem memOk_sheetCommand {d : Dev} {iss : Issuer} {opcode : Nat} {f : Dev → Dev} (h_d : MemOk d) (h_f : ∀ (x0 : Dev), MemOk x0 → MemOk (f x0)) :
    MemOk (Dev.sheetCommand d iss opcode f) := by
  unfold Dev.sheetCommand
  try dsimp only
  repeat' first
    | with_reducible assumption
    | with_reducible apply h_f
    | with_reducible apply memOk_command
    | with_reducible apply memOk_modSheet
    | intro _
    | split
theorem memOk_heard {d : Dev} {box : Nat} (h_d : MemOk d) :
    MemOk (Dev.heard d box) := by
  unfold Dev.heard
  try dsimp only
  repeat' first
    | with_reducible assumption
    | simp only [mk_iff, line_iff, lineMk_iff, wf_iff]
theorem memOk_openFor {d : Dev} {box lease : Nat} {chain : Bool} {id : BitVec 16} (h_d : MemOk d) :
    MemOk (Dev.openFor d box lease chain id) := by
  unfold Dev.openFor
  try dsimp only
  repeat' first
    | with_reducible assumption
    | simp only [mk_iff, line_iff, lineMk_iff, wf_iff]
theorem memOk_sheetOpen {d : Dev} {iss : Issuer} {inp : List Byte} (h_d : MemOk d) :
    MemOk (Dev.sheetOpen d iss inp) := by
  unfold Dev.sheetOpen
  try dsimp only
  repeat' first
    | with_reducible assumption
    | simp only [mk_iff, line_iff, lineMk_iff, wf_iff]
    | with_reducible apply memOk_mgmt
    | with_reducible apply memOk_reply
    | with_reducible apply memOk_refuse
    | with_reducible apply memOk_badLength
    | with_reducible apply memOk_heard
    | with_reducible apply memOk_openFor
    | with_reducible apply each_ok
    | intro _
    | split
theorem memOk_execSheetOpen {iss : Issuer} {inp : List Byte} {s t : State} (h_s : MemOk s.dev) (hr : execSheetOpen iss inp s = .next t) :
    MemOk t.dev := by
  unfold execSheetOpen ok at hr
  cases hr
  show MemOk _
  repeat' first
    | with_reducible assumption
    | simp only [mk_iff, line_iff, lineMk_iff, wf_iff]
    | with_reducible apply memOk_sheetCommand
    | with_reducible apply memOk_sheetOpen
    | intro _
theorem memOk_lockAnswered {d : Dev} {dev : Nat} {result : Option Nat} (h_d : MemOk d) :
    MemOk (Dev.lockAnswered d dev result) := by
  unfold Dev.lockAnswered
  try dsimp only
  repeat' first
    | with_reducible assumption
    | simp only [mk_iff, line_iff, lineMk_iff, wf_iff]
    | with_reducible apply memOk_mgmt
    | with_reducible apply memOk_finish
    | with_reducible apply memOk_openFor
    | with_reducible apply each_ok
    | intro _
    | split
theorem memOk_sheetSet {d : Dev} {iss : Issuer} {inp : List Byte} (h_d : MemOk d) :
    MemOk (Dev.sheetSet d iss inp) := by
  unfold Dev.sheetSet
  try dsimp only
  repeat' first
    | with_reducible assumption
    | with_reducible apply memOk_reply
    | with_reducible apply memOk_badLength
    | with_reducible apply memOk_modSheet
    | with_reducible apply memOk_heard
    | split
theorem memOk_execSheetSet {iss : Issuer} {inp : List Byte} {s t : State} (h_s : MemOk s.dev) (hr : execSheetSet iss inp s = .next t) :
    MemOk t.dev := by
  unfold execSheetSet ok at hr
  cases hr
  show MemOk _
  repeat' first
    | with_reducible assumption
    | simp only [mk_iff, line_iff, lineMk_iff, wf_iff]
    | with_reducible apply memOk_sheetCommand
    | with_reducible apply memOk_sheetSet
    | intro _
theorem memOk_sheetRead {d : Dev} {iss : Issuer} {inp : List Byte} (h_d : MemOk d) :
    MemOk (Dev.sheetRead d iss inp) := by
  unfold Dev.sheetRead
  try dsimp only
  repeat' first
    | with_reducible assumption
    | simp only [mk_iff, line_iff, lineMk_iff, wf_iff]
    | with_reducible apply memOk_free
    | with_reducible apply memOk_reply
    | with_reducible apply memOk_refuse
    | with_reducible apply memOk_badLength
    | split
theorem memOk_execSheetRead {iss : Issuer} {inp : List Byte} {s t : State} (h_s : MemOk s.dev) (hr : execSheetRead iss inp s = .next t) :
    MemOk t.dev := by
  unfold execSheetRead ok at hr
  cases hr
  show MemOk _
  repeat' first
    | with_reducible assumption
    | simp only [mk_iff, line_iff, lineMk_iff, wf_iff]
    | with_reducible apply memOk_sheetCommand
    | with_reducible apply memOk_sheetRead
    | intro _
theorem memOk_peersFail {d : Dev} {chain : Bool} (h_d : MemOk d) :
    MemOk (Dev.peersFail d chain).2 := by
  unfold Dev.peersFail
  try dsimp only
  repeat' first
    | with_reducible assumption
    | simp only [mk_iff, line_iff, lineMk_iff, wf_iff]
    | with_reducible apply memOk_free
    | split
theorem memOk_peersFail_eq {d : Dev} {chain : Bool} (h_d : MemOk d) {q0 : Option Failed} {q1 : Dev} (hr : (Dev.peersFail d chain) = (q0, q1)) :
    MemOk q1 := by
  have h : MemOk (Dev.peersFail d chain).2 := memOk_peersFail h_d
  rw [hr] at h
  exact h
theorem memOk_sheetCheck {d : Dev} {iss : Issuer} {inp : List Byte} (h_d : MemOk d) :
    MemOk (Dev.sheetCheck d iss inp) := by
  unfold Dev.sheetCheck
  try dsimp only
  repeat' first
    | with_reducible assumption
    | with_reducible apply memOk_reply
    | with_reducible apply memOk_refuse
    | with_reducible apply memOk_heard
    | with_reducible apply memOk_peersFail
    | split
theorem memOk_execSheetCheck {iss : Issuer} {inp : List Byte} {s t : State} (h_s : MemOk s.dev) (hr : execSheetCheck iss inp s = .next t) :
    MemOk t.dev := by
  unfold execSheetCheck ok at hr
  cases hr
  show MemOk _
  repeat' first
    | with_reducible assumption
    | simp only [mk_iff, line_iff, lineMk_iff, wf_iff]
    | with_reducible apply memOk_sheetCommand
    | with_reducible apply memOk_sheetCheck
    | intro _
theorem memOk_sheetSlip {d : Dev} {iss : Issuer} {inp : List Byte} (h_d : MemOk d) :
    MemOk (Dev.sheetSlip d iss inp) := by
  unfold Dev.sheetSlip
  try dsimp only
  repeat' first
    | with_reducible assumption
    | with_reducible apply memOk_reply
    | with_reducible apply memOk_refuse
    | with_reducible apply memOk_badLength
    | with_reducible apply memOk_slip
    | with_reducible apply memOk_evict
    | with_reducible apply memOk_heard
    | split
theorem memOk_execSheetSlip {iss : Issuer} {inp : List Byte} {s t : State} (h_s : MemOk s.dev) (hr : execSheetSlip iss inp s = .next t) :
    MemOk t.dev := by
  unfold execSheetSlip ok at hr
  cases hr
  show MemOk _
  repeat' first
    | with_reducible assumption
    | simp only [mk_iff, line_iff, lineMk_iff, wf_iff]
    | with_reducible apply memOk_sheetCommand
    | with_reducible apply memOk_sheetSlip
    | intro _
theorem memOk_stageRegion {d : Dev} {iss : Issuer} {x : Sheet} {e : Staged} (h_d : MemOk d) :
    MemOk (Dev.stageRegion d iss x e) := by
  unfold Dev.stageRegion
  try dsimp only
  repeat' first
    | with_reducible assumption
    | with_reducible apply memOk_reply
    | with_reducible apply memOk_refuse
    | with_reducible apply memOk_modSheet
    | split
theorem memOk_regionStage {d : Dev} {iss : Issuer} {inp : List Byte} (h_d : MemOk d) :
    MemOk (Dev.regionStage d iss inp) := by
  unfold Dev.regionStage
  try dsimp only
  repeat' first
    | with_reducible assumption
    | with_reducible apply memOk_refuse
    | with_reducible apply memOk_badLength
    | with_reducible apply memOk_stageRegion
    | split
theorem memOk_execRegionStage {iss : Issuer} {inp : List Byte} {s t : State} (h_s : MemOk s.dev) (hr : execRegionStage iss inp s = .next t) :
    MemOk t.dev := by
  unfold execRegionStage ok at hr
  cases hr
  show MemOk _
  repeat' first
    | with_reducible assumption
    | simp only [mk_iff, line_iff, lineMk_iff, wf_iff]
    | with_reducible apply memOk_command
    | with_reducible apply memOk_regionStage
    | intro _
theorem memOk_regionRemove {d : Dev} {iss : Issuer} {inp : List Byte} (h_d : MemOk d) :
    MemOk (Dev.regionRemove d iss inp) := by
  unfold Dev.regionRemove
  try dsimp only
  repeat' first
    | with_reducible assumption
    | with_reducible apply memOk_refuse
    | with_reducible apply memOk_badLength
    | with_reducible apply memOk_stageRegion
    | split
theorem memOk_execRegionRemove {iss : Issuer} {inp : List Byte} {s t : State} (h_s : MemOk s.dev) (hr : execRegionRemove iss inp s = .next t) :
    MemOk t.dev := by
  unfold execRegionRemove ok at hr
  cases hr
  show MemOk _
  repeat' first
    | with_reducible assumption
    | simp only [mk_iff, line_iff, lineMk_iff, wf_iff]
    | with_reducible apply memOk_command
    | with_reducible apply memOk_regionRemove
    | intro _
theorem memOk_regionUse {d : Dev} {r : Region} {dev : Nat} (h_d : MemOk d) :
    MemOk (Dev.regionUse d r dev).2 := by
  unfold Dev.regionUse
  try dsimp only
  repeat' first
    | with_reducible assumption
    | simp only [mk_iff, line_iff, lineMk_iff, wf_iff]
    | with_reducible apply memOk_free
    | split
theorem memOk_regionUse_eq {d : Dev} {r : Region} {dev : Nat} (h_d : MemOk d) {q0 : (Nat × Nat × Nat)} {q1 : Dev} (hr : (Dev.regionUse d r dev) = (q0, q1)) :
    MemOk q1 := by
  have h : MemOk (Dev.regionUse d r dev).2 := memOk_regionUse h_d
  rw [hr] at h
  exact h
theorem memOk_regionRead {d : Dev} {iss : Issuer} {inp : List Byte} (h_d : MemOk d) :
    MemOk (Dev.regionRead d iss inp) := by
  unfold Dev.regionRead
  try dsimp only
  repeat' first
    | with_reducible assumption
    | with_reducible apply memOk_reply
    | with_reducible apply memOk_refuse
    | with_reducible apply memOk_badLength
    | with_reducible apply memOk_regionUse
    | split
theorem memOk_execRegionRead {iss : Issuer} {inp : List Byte} {s t : State} (h_s : MemOk s.dev) (hr : execRegionRead iss inp s = .next t) :
    MemOk t.dev := by
  unfold execRegionRead ok at hr
  cases hr
  show MemOk _
  repeat' first
    | with_reducible assumption
    | simp only [mk_iff, line_iff, lineMk_iff, wf_iff]
    | with_reducible apply memOk_command
    | with_reducible apply memOk_regionRead
    | intro _
theorem memOk_removeRegion {d : Dev} {r : Region} (h_d : MemOk d) :
    MemOk (Dev.removeRegion d r) := by
  unfold Dev.removeRegion
  try dsimp only
  repeat' first
    | with_reducible assumption
    | with_reducible apply memOk_modLd
    | with_reducible apply memOk_post
    | with_reducible apply memOk_setExt
    | with_reducible apply memOk_dropSharer
    | with_reducible apply memOk_dropUnits
    | with_reducible apply each_ok
    | intro _
    | split
theorem memOk_relabel {d : Dev} {r : Region} (h_d : MemOk d) :
    MemOk (Dev.relabel d r) := by
  unfold Dev.relabel
  try dsimp only
  repeat' first
    | with_reducible assumption
    | with_reducible apply memOk_post
    | with_reducible apply memOk_setExt
    | with_reducible apply memOk_notePlaced
    | with_reducible apply each_ok
    | intro _
theorem memOk_rebuildTables {d : Dev} (h_d : MemOk d) :
    MemOk (Dev.rebuildTables d) := by
  unfold Dev.rebuildTables
  try dsimp only
  repeat' first
    | with_reducible assumption
    | simp only [mk_iff, line_iff, lineMk_iff, wf_iff]
    | with_reducible apply memOk_blankLines
    | with_reducible apply memOk_writeEntry
    | with_reducible apply memOk_post
    | with_reducible apply memOk_setExt
    | with_reducible apply each_ok
    | intro _
theorem memOk_setShadows {d : Dev} (h_d : MemOk d) :
    MemOk (Dev.setShadows d) := by
  unfold Dev.setShadows
  try dsimp only
  repeat' first
    | with_reducible assumption
    | with_reducible apply memOk_modChan
    | with_reducible apply memOk_blankRank
    | with_reducible apply each_ok
    | intro _
    | split

end Sys2Proof.Laws
end

