-- ==== Sys2Proof/Laws/MemOk7.lean ====
section
/-! SUPPORT. Every operation of the model keeps the media contents in their canonical form: one lemma an operation, and one a command's meaning (part 7 of 8). -/

set_option linter.unusedSimpArgs false
set_option linter.unusedVariables false

namespace Sys2Proof.Laws

open Sys2Proof Sys2Proof.Machine

theorem memOk_touchPort {d : Dev} {p : Nat} {newRate : Bool} (h_d : MemOk d) :
    MemOk (Dev.touchPort d p newRate) := by
  unfold Dev.touchPort
  try dsimp only
  repeat' first
    | with_reducible assumption
    | with_reducible apply memOk_modSource
    | with_reducible apply memOk_say
    | with_reducible apply memOk_modTport
    | with_reducible apply memOk_tetherDown
    | with_reducible apply memOk_startReset
    | split
theorem memOk_applySheet {d : Dev} {cur : Tab Nat} {l : List Staged} (h_d : MemOk d) :
    MemOk (Dev.applySheet d cur l) := by
  unfold Dev.applySheet
  try dsimp only
  repeat' first
    | with_reducible assumption
    | simp only [mk_iff, line_iff, lineMk_iff, wf_iff]
    | with_reducible apply memOk_modElastic
    | with_reducible apply memOk_repin
    | with_reducible apply memOk_cdat
    | with_reducible apply memOk_withBanks
    | with_reducible apply memOk_removeRegion
    | with_reducible apply memOk_relabel
    | with_reducible apply memOk_rebuildTables
    | with_reducible apply memOk_setShadows
    | with_reducible apply memOk_touchPort
    | with_reducible apply each_ok
    | intro _
    | split
theorem memOk_failCinch {d : Dev} {st : Status} {rule dev : Nat} (h_d : MemOk d) :
    MemOk (Dev.failCinch d st rule dev) := by
  unfold Dev.failCinch
  try dsimp only
  repeat' first
    | with_reducible assumption
    | simp only [mk_iff, line_iff, lineMk_iff, wf_iff]
    | with_reducible apply memOk_repin
    | with_reducible apply memOk_endBg
    | with_reducible apply memOk_modSheet
    | split
theorem memOk_endCollect {d : Dev} {late : Bool} (h_d : MemOk d) :
    MemOk (Dev.endCollect d late) := by
  unfold Dev.endCollect
  try dsimp only
  repeat' first
    | with_reducible assumption
    | simp only [mk_iff, line_iff, lineMk_iff, wf_iff]
    | with_reducible apply memOk_endBg
    | split
theorem memOk_startPrepare {d : Dev} {l : List Staged} (h_d : MemOk d) :
    MemOk (Dev.startPrepare d l).2 := by
  unfold Dev.startPrepare
  try dsimp only
  repeat' first
    | with_reducible assumption
    | with_reducible apply memOk_cdat
    | with_reducible apply each_ok
theorem memOk_startPrepare_eq {d : Dev} {l : List Staged} (h_d : MemOk d) {q0 : CinchPhase} {q1 : Dev} (hr : (Dev.startPrepare d l) = (q0, q1)) :
    MemOk q1 := by
  have h : MemOk (Dev.startPrepare d l).2 := memOk_startPrepare h_d
  rw [hr] at h
  exact h
theorem memOk_mrsp {d : Dev} {p : Nat} {m : Msg} {result : Nat} {body : List Byte} (h_d : MemOk d) :
    MemOk (Dev.mrsp d p m result body) := by
  unfold Dev.mrsp
  try dsimp only
  repeat' first
    | with_reducible assumption
    | with_reducible apply memOk_sendMsg
theorem memOk_prepared {d : Dev} (h_d : MemOk d) :
    MemOk (Dev.prepared d) := by
  unfold Dev.prepared
  try dsimp only
  repeat' first
    | with_reducible assumption
    | with_reducible apply memOk_repin
    | with_reducible apply memOk_modCinch
    | with_reducible apply memOk_mrsp
    | split
theorem memOk_prepareDone {d : Dev} (h_d : MemOk d) :
    MemOk (Dev.prepareDone d) := by
  unfold Dev.prepareDone
  try dsimp only
  repeat' first
    | with_reducible assumption
    | with_reducible apply memOk_prepared
    | split
theorem memOk_execCinchPrepareDone  {s t : State} (h_s : MemOk s.dev) (hr : execCinchPrepareDone s = .next t) :
    MemOk t.dev := by
  unfold execCinchPrepareDone ok at hr
  cases hr
  show MemOk _
  repeat' first
    | with_reducible assumption
    | simp only [mk_iff, line_iff, lineMk_iff, wf_iff]
    | with_reducible apply memOk_prepareDone
theorem memOk_sendPrepare {d : Dev} {x : Sheet} {n : Beat} {dev : Nat} (h_d : MemOk d) :
    MemOk (Dev.sendPrepare d x n dev) := by
  unfold Dev.sendPrepare
  try dsimp only
  repeat' first
    | with_reducible assumption
    | with_reducible apply memOk_mgmt
    | with_reducible apply each_ok
    | intro _
theorem memOk_prepareAnswered {d : Dev} {dev : Nat} {answer : Option (List Byte)} (h_d : MemOk d) :
    MemOk (Dev.prepareAnswered d dev answer) := by
  unfold Dev.prepareAnswered
  try dsimp only
  repeat' first
    | with_reducible assumption
    | with_reducible apply memOk_modCinch
    | with_reducible apply memOk_sendPrepare
    | split
theorem memOk_decide_ {d : Dev} (h_d : MemOk d) :
    MemOk (Dev.decide_ d) := by
  unfold Dev.decide_
  try dsimp only
  repeat' first
    | with_reducible assumption
    | simp only [mk_iff, line_iff, lineMk_iff, wf_iff]
    | with_reducible apply memOk_mgmt
    | with_reducible apply memOk_modCinch
    | with_reducible apply memOk_failCinch
    | with_reducible apply each_ok
    | intro _
    | split
theorem memOk_cinchDecision {d : Dev} (h_d : MemOk d) :
    MemOk (Dev.cinchDecision d) := by
  unfold Dev.cinchDecision
  try dsimp only
  repeat' first
    | with_reducible assumption
    | with_reducible apply memOk_decide_
    | split
theorem memOk_execChainCinchDecision  {s t : State} (h_s : MemOk s.dev) (hr : execChainCinchDecision s = .next t) :
    MemOk t.dev := by
  unfold execChainCinchDecision ok at hr
  cases hr
  show MemOk _
  repeat' first
    | with_reducible assumption
    | simp only [mk_iff, line_iff, lineMk_iff, wf_iff]
    | with_reducible apply memOk_cinchDecision
theorem memOk_startCinch {d : Dev} {iss : Issuer} {x : Sheet} {mode : Nat} {named : Beat} (h_d : MemOk d) :
    MemOk (Dev.startCinch d iss x mode named) := by
  unfold Dev.startCinch
  try dsimp only
  repeat' first
    | with_reducible assumption
    | with_reducible apply memOk_startBg
    | with_reducible apply memOk_modSheet
    | with_reducible apply memOk_failCinch
    | with_reducible apply memOk_startPrepare
    | with_reducible apply memOk_prepared
    | with_reducible apply memOk_sendPrepare
    | with_reducible apply each_ok
    | intro _
    | split
theorem memOk_sheetCinch {d : Dev} {iss : Issuer} {inp : List Byte} (h_d : MemOk d) :
    MemOk (Dev.sheetCinch d iss inp) := by
  unfold Dev.sheetCinch
  try dsimp only
  repeat' first
    | with_reducible assumption
    | with_reducible apply memOk_reply
    | with_reducible apply memOk_badLength
    | with_reducible apply memOk_heard
    | with_reducible apply memOk_startCinch
    | split
theorem memOk_execSheetCinch {iss : Issuer} {inp : List Byte} {s t : State} (h_s : MemOk s.dev) (hr : execSheetCinch iss inp s = .next t) :
    MemOk t.dev := by
  unfold execSheetCinch ok at hr
  cases hr
  show MemOk _
  repeat' first
    | with_reducible assumption
    | simp only [mk_iff, line_iff, lineMk_iff, wf_iff]
    | with_reducible apply memOk_sheetCommand
    | with_reducible apply memOk_sheetCinch
    | intro _
theorem memOk_bankWrite {d : Dev} (h_d : MemOk d) :
    MemOk (Dev.bankWrite d) := by
  unfold Dev.bankWrite
  try dsimp only
  repeat' first
    | with_reducible assumption
    | simp only [mk_iff, line_iff, lineMk_iff, wf_iff]
    | with_reducible apply memOk_modCinch
    | with_reducible apply memOk_failCinch
    | split
theorem memOk_cinchBankWrite {d : Dev} (h_d : MemOk d) :
    MemOk (Dev.cinchBankWrite d) := by
  unfold Dev.cinchBankWrite
  try dsimp only
  repeat' first
    | with_reducible assumption
    | with_reducible apply memOk_bankWrite
    | split
theorem memOk_execCinchBankWrite  {s t : State} (h_s : MemOk s.dev) (hr : execCinchBankWrite s = .next t) :
    MemOk t.dev := by
  unfold execCinchBankWrite ok at hr
  cases hr
  show MemOk _
  repeat' first
    | with_reducible assumption
    | simp only [mk_iff, line_iff, lineMk_iff, wf_iff]
    | with_reducible apply memOk_cinchBankWrite
theorem memOk_cinchBoundary {d : Dev} {x : Sheet} {c : Cinch} (h_d : MemOk d) :
    MemOk (Dev.cinchBoundary d x c) := by
  unfold Dev.cinchBoundary
  try dsimp only
  repeat' first
    | with_reducible assumption
    | simp only [mk_iff, line_iff, lineMk_iff, wf_iff]
    | with_reducible apply memOk_mgmt
    | with_reducible apply memOk_endBg
    | with_reducible apply memOk_applySheet
    | with_reducible apply memOk_endCollect
    | split
theorem memOk_sheetBoundary {d : Dev} (h_d : MemOk d) :
    MemOk (Dev.sheetBoundary d) := by
  unfold Dev.sheetBoundary
  try dsimp only
  repeat' first
    | with_reducible assumption
    | with_reducible apply memOk_raise
    | with_reducible apply memOk_modCinch
    | with_reducible apply memOk_failCinch
    | with_reducible apply memOk_endCollect
    | with_reducible apply memOk_decide_
    | with_reducible apply memOk_bankWrite
    | with_reducible apply memOk_cinchBoundary
    | split
theorem memOk_takeLock {d : Dev} {origin : Nat} {body : List Byte} (h_d : MemOk d) :
    MemOk (Dev.takeLock d origin body).2 := by
  unfold Dev.takeLock
  try dsimp only
  repeat' first
    | with_reducible assumption
    | simp only [mk_iff, line_iff, lineMk_iff, wf_iff]
    | with_reducible apply memOk_repin
    | with_reducible apply memOk_evict
    | split
theorem memOk_takeLock_eq {d : Dev} {origin : Nat} {body : List Byte} (h_d : MemOk d) {q0 : Nat} {q1 : Dev} (hr : (Dev.takeLock d origin body) = (q0, q1)) :
    MemOk q1 := by
  have h : MemOk (Dev.takeLock d origin body).2 := memOk_takeLock h_d
  rw [hr] at h
  exact h
theorem memOk_takePart {d : Dev} {origin : Nat} {body : List Byte} (h_d : MemOk d) :
    MemOk (Dev.takePart d origin body).2 := by
  unfold Dev.takePart
  try dsimp only
  repeat' first
    | with_reducible assumption
    | simp only [mk_iff, line_iff, lineMk_iff, wf_iff]
    | with_reducible apply memOk_modSheet
    | split
theorem memOk_takePart_eq {d : Dev} {origin : Nat} {body : List Byte} (h_d : MemOk d) {q0 : Nat} {q1 : Dev} (hr : (Dev.takePart d origin body) = (q0, q1)) :
    MemOk q1 := by
  have h : MemOk (Dev.takePart d origin body).2 := memOk_takePart h_d
  rw [hr] at h
  exact h
theorem memOk_takePrepare {d : Dev} {p origin : Nat} {m : Msg} {body : List Byte} (h_d : MemOk d) :
    MemOk (Dev.takePrepare d p origin m body).2 := by
  unfold Dev.takePrepare
  try dsimp only
  repeat' first
    | with_reducible assumption
    | simp only [mk_iff, line_iff, lineMk_iff, wf_iff]
    | with_reducible apply memOk_modSheet
    | with_reducible apply memOk_startPrepare
    | with_reducible apply memOk_prepared
    | split
theorem memOk_takePrepare_eq {d : Dev} {p origin : Nat} {m : Msg} {body : List Byte} (h_d : MemOk d) {q0 : Option (Nat × List Byte)} {q1 : Dev} (hr : (Dev.takePrepare d p origin m body) = (q0, q1)) :
    MemOk q1 := by
  have h : MemOk (Dev.takePrepare d p origin m body).2 := memOk_takePrepare h_d
  rw [hr] at h
  exact h
theorem memOk_takeDecision {d : Dev} {origin : Nat} {commit : Bool} {body : List Byte} (h_d : MemOk d) :
    MemOk (Dev.takeDecision d origin commit body).2 := by
  unfold Dev.takeDecision
  try dsimp only
  repeat' first
    | with_reducible assumption
    | simp only [mk_iff, line_iff, lineMk_iff, wf_iff]
    | with_reducible apply memOk_repin
    | with_reducible apply memOk_modSheet
    | with_reducible apply memOk_modCinch
    | split
theorem memOk_takeDecision_eq {d : Dev} {origin : Nat} {commit : Bool} {body : List Byte} (h_d : MemOk d) {q0 : Nat} {q1 : Dev} (hr : (Dev.takeDecision d origin commit body) = (q0, q1)) :
    MemOk q1 := by
  have h : MemOk (Dev.takeDecision d origin commit body).2 := memOk_takeDecision h_d
  rw [hr] at h
  exact h
theorem memOk_takeOutcome {d : Dev} {origin : Nat} {body : List Byte} (h_d : MemOk d) :
    MemOk (Dev.takeOutcome d origin body).2 := by
  unfold Dev.takeOutcome
  try dsimp only
  repeat' first
    | with_reducible assumption
    | simp only [mk_iff, line_iff, lineMk_iff, wf_iff]
    | with_reducible apply memOk_modCinch
    | with_reducible apply memOk_endCollect
    | split
theorem memOk_takeOutcome_eq {d : Dev} {origin : Nat} {body : List Byte} (h_d : MemOk d) {q0 : Nat} {q1 : Dev} (hr : (Dev.takeOutcome d origin body) = (q0, q1)) :
    MemOk q1 := by
  have h : MemOk (Dev.takeOutcome d origin body).2 := memOk_takeOutcome h_d
  rw [hr] at h
  exact h
theorem memOk_takeFrom {d : Dev} {p : Nat} {m : Msg} (h_d : MemOk d) :
    MemOk (Dev.takeFrom d p m) := by
  unfold Dev.takeFrom
  try dsimp only
  repeat' first
    | with_reducible assumption
    | with_reducible apply memOk_modTport
    | with_reducible apply memOk_tryDoze
theorem memOk_passOn {d : Dev} {p : Nat} {m : Msg} (h_d : MemOk d) :
    MemOk (Dev.passOn d p m) := by
  unfold Dev.passOn
  try dsimp only
  repeat' first
    | with_reducible assumption
    | with_reducible apply memOk_sendMsg
    | with_reducible apply memOk_noRoute
    | with_reducible apply memOk_takeFrom
    | split
theorem memOk_braidCopy {d : Dev} {m : Msg} {r0 : Bool} {r1 : Dev} (h_d : MemOk d) (hr : (Dev.braidCopy d m) = some (r0, r1)) :
    MemOk r1 := by
  unfold Dev.braidCopy at hr
  try dsimp only at hr
  repeat' first
    | (simp only [Option.some.injEq, Prod.mk.injEq, Option.map_eq_some_iff, Option.bind_eq_some_iff, Except.ok.injEq, reduceCtorEq] at hr)
    | (obtain ⟨rfl, rfl⟩ := hr)
    | (obtain ⟨_, _, hr⟩ := hr)
    | with_reducible assumption
    | simp only [mk_iff, line_iff, lineMk_iff, wf_iff]
theorem memOk_takeRequest {d : Dev} {p : Nat} {m : Msg} (h_d : MemOk d) :
    MemOk (Dev.takeRequest d p m) := by
  unfold Dev.takeRequest
  try dsimp only
  repeat' first
    | with_reducible assumption
    | simp only [mk_iff, line_iff, lineMk_iff, wf_iff]
    | with_reducible apply memOk_fresh
    | with_reducible apply memOk_sendMsg
    | with_reducible apply memOk_takeFrom
    | with_reducible (apply memOk_braidCopy (hr := by assumption))
    | split
theorem memOk_takeReqMsg {d : Dev} {p : Nat} {op : MsgOp} (h_d : MemOk d) :
    MemOk (Dev.takeReqMsg d p op) := by
  unfold Dev.takeReqMsg
  try dsimp only
  repeat' first
    | with_reducible assumption
    | with_reducible apply memOk_passOn
    | with_reducible apply memOk_takeRequest
    | split
theorem memOk_execRd {p : Fin 3} {s t : State} (h_s : MemOk s.dev) (hr : execRd p s = .next t) :
    MemOk t.dev := by
  unfold execRd ok at hr
  cases hr
  show MemOk _
  repeat' first
    | with_reducible assumption
    | simp only [mk_iff, line_iff, lineMk_iff, wf_iff]
    | with_reducible apply memOk_flow
    | with_reducible apply memOk_takeReqMsg
theorem memOk_execWr {p : Fin 3} {s t : State} (h_s : MemOk s.dev) (hr : execWr p s = .next t) :
    MemOk t.dev := by
  unfold execWr ok at hr
  cases hr
  show MemOk _
  repeat' first
    | with_reducible assumption
    | simp only [mk_iff, line_iff, lineMk_iff, wf_iff]
    | with_reducible apply memOk_flow
    | with_reducible apply memOk_takeReqMsg
theorem memOk_execWrp {p : Fin 3} {s t : State} (h_s : MemOk s.dev) (hr : execWrp p s = .next t) :
    MemOk t.dev := by
  unfold execWrp ok at hr
  cases hr
  show MemOk _
  repeat' first
    | with_reducible assumption
    | simp only [mk_iff, line_iff, lineMk_iff, wf_iff]
    | with_reducible apply memOk_flow
    | with_reducible apply memOk_takeReqMsg
theorem memOk_execInv {p : Fin 3} {s t : State} (h_s : MemOk s.dev) (hr : execInv p s = .next t) :
    MemOk t.dev := by
  unfold execInv ok at hr
  cases hr
  show MemOk _
  repeat' first
    | with_reducible assumption
    | simp only [mk_iff, line_iff, lineMk_iff, wf_iff]
    | with_reducible apply memOk_flow
    | with_reducible apply memOk_takeReqMsg
theorem memOk_execEvct {p : Fin 3} {s t : State} (h_s : MemOk s.dev) (hr : execEvct p s = .next t) :
    MemOk t.dev := by
  unfold execEvct ok at hr
  cases hr
  show MemOk _
  repeat' first
    | with_reducible assumption
    | simp only [mk_iff, line_iff, lineMk_iff, wf_iff]
    | with_reducible apply memOk_flow
    | with_reducible apply memOk_takeReqMsg
theorem memOk_takeSnoop {d : Dev} {p : Nat} {m : Msg} (h_d : MemOk d) :
    MemOk (Dev.takeSnoop d p m) := by
  unfold Dev.takeSnoop
  try dsimp only
  repeat' first
    | with_reducible assumption
    | simp only [mk_iff, line_iff, lineMk_iff, wf_iff]
    | with_reducible apply memOk_modLink
    | with_reducible apply memOk_bump
    | with_reducible apply memOk_flush
    | with_reducible apply memOk_snoopAnswer
    | with_reducible apply memOk_snoopFails
    | split
theorem memOk_takeConflictAck {d : Dev} {p : Nat} {m : Msg} (h_d : MemOk d) :
    MemOk (Dev.takeConflictAck d p m) := by
  unfold Dev.takeConflictAck
  try dsimp only
  repeat' first
    | with_reducible assumption
    | simp only [mk_iff, line_iff, lineMk_iff, wf_iff]
    | with_reducible apply memOk_ackOn
    | split
theorem memOk_takeSnp {d : Dev} {p : Nat} (h_d : MemOk d) :
    MemOk (Dev.takeSnp d p) := by
  unfold Dev.takeSnp
  try dsimp only
  repeat' first
    | with_reducible assumption
    | with_reducible apply memOk_takeFrom
    | with_reducible apply memOk_passOn
    | with_reducible apply memOk_takeSnoop
    | with_reducible apply memOk_takeConflictAck
    | split
theorem memOk_execSnp {p : Fin 3} {s t : State} (h_s : MemOk s.dev) (hr : execSnp p s = .next t) :
    MemOk t.dev := by
  unfold execSnp ok at hr
  cases hr
  show MemOk _
  repeat' first
    | with_reducible assumption
    | simp only [mk_iff, line_iff, lineMk_iff, wf_iff]
    | with_reducible apply memOk_flow
    | with_reducible apply memOk_takeSnp
theorem memOk_takeResponse {d : Dev} {p : Nat} {op : MsgOp} {here : Dev → Msg → Dev} (h_d : MemOk d) (h_here : ∀ (x0 : Dev) (x1 : Msg), MemOk x0 → MemOk (here x0 x1)) :
    MemOk (Dev.takeResponse d p op here) := by
  unfold Dev.takeResponse
  try dsimp only
  repeat' first
    | with_reducible assumption
    | with_reducible apply h_here
    | with_reducible apply memOk_bump
    | with_reducible apply memOk_setTport
    | with_reducible apply memOk_modTport
    | with_reducible apply memOk_pump
    | with_reducible apply memOk_sendMsg
    | with_reducible apply memOk_tryDoze
    | split
theorem memOk_remoteLevel {d : Dev} {q : Req} {level : Nat} (h_d : MemOk d) :
    MemOk (Dev.remoteLevel d q level) := by
  unfold Dev.remoteLevel
  try dsimp only
  repeat' first
    | with_reducible assumption
    | simp only [mk_iff, line_iff, lineMk_iff, wf_iff]
    | split
theorem memOk_remoteDone {d : Dev} {id : Nat} {m : Msg} (h_d : MemOk d) :
    MemOk (Dev.remoteDone d id m) := by
  unfold Dev.remoteDone
  try dsimp only
  repeat' first
    | with_reducible assumption
    | with_reducible apply memOk_answer
    | with_reducible apply memOk_fail
    | with_reducible apply memOk_remoteLevel
    | split
theorem memOk_rspHere {d : Dev} {p : Nat} {m : Msg} (h_d : MemOk d) :
    MemOk (Dev.rspHere d p m) := by
  unfold Dev.rspHere
  try dsimp only
  repeat' first
    | with_reducible assumption
    | simp only [mk_iff, line_iff, lineMk_iff, wf_iff]
    | with_reducible apply memOk_bump
    | with_reducible apply memOk_outcome
    | with_reducible apply memOk_remoteDone
    | split
theorem memOk_execRsp {p : Fin 3} {s t : State} (h_s : MemOk s.dev) (hr : execRsp p s = .next t) :
    MemOk t.dev := by
  unfold execRsp ok at hr
  cases hr
  show MemOk _
  repeat' first
    | with_reducible assumption
    | simp only [mk_iff, line_iff, lineMk_iff, wf_iff]
    | with_reducible apply memOk_flow
    | with_reducible apply memOk_takeResponse
    | with_reducible apply memOk_rspHere
    | intro _
theorem memOk_srspHere {d : Dev} {m : Msg} (h_d : MemOk d) :
    MemOk (Dev.srspHere d m) := by
  unfold Dev.srspHere
  try dsimp only
  repeat' first
    | with_reducible assumption
    | simp only [mk_iff, line_iff, lineMk_iff, wf_iff]
    | with_reducible apply memOk_takeBirsp
    | with_reducible apply memOk_takeConflict
    | split
theorem memOk_execSrsp {p : Fin 3} {s t : State} (h_s : MemOk s.dev) (hr : execSrsp p s = .next t) :
    MemOk t.dev := by
  unfold execSrsp ok at hr
  cases hr
  show MemOk _
  repeat' first
    | with_reducible assumption
    | simp only [mk_iff, line_iff, lineMk_iff, wf_iff]
    | with_reducible apply memOk_flow
    | with_reducible apply memOk_takeResponse
    | with_reducible apply memOk_srspHere
theorem memOk_swbHere {d : Dev} {m : Msg} (h_d : MemOk d) :
    MemOk (Dev.swbHere d m) := by
  unfold Dev.swbHere
  try dsimp only
  repeat' first
    | with_reducible assumption
    | with_reducible apply memOk_fresh
    | with_reducible apply memOk_placeWrite
    | split
theorem memOk_execSwb {p : Fin 3} {s t : State} (h_s : MemOk s.dev) (hr : execSwb p s = .next t) :
    MemOk t.dev := by
  unfold execSwb ok at hr
  cases hr
  show MemOk _
  repeat' first
    | with_reducible assumption
    | simp only [mk_iff, line_iff, lineMk_iff, wf_iff]
    | with_reducible apply memOk_flow
    | with_reducible apply memOk_takeResponse
    | with_reducible apply memOk_swbHere
theorem memOk_takeIndex {d : Dev} {index depth : Nat} {parent : Option Nat} {walk : Nat} (h_d : MemOk d) :
    MemOk (Dev.takeIndex d index depth parent walk) := by
  unfold Dev.takeIndex
  try dsimp only
  repeat' first
    | with_reducible assumption
    | simp only [mk_iff, line_iff, lineMk_iff, wf_iff]
    | with_reducible apply memOk_modLd
    | with_reducible apply memOk_modSheet
    | with_reducible apply each_ok
    | intro _
    | split
theorem memOk_takeAssign {d : Dev} {body : List Byte} (h_d : MemOk d) :
    MemOk (Dev.takeAssign d body).2 := by
  unfold Dev.takeAssign
  try dsimp only
  repeat' first
    | with_reducible assumption
    | simp only [mk_iff, line_iff, lineMk_iff, wf_iff]
    | with_reducible apply memOk_takeIndex
    | split
theorem memOk_takeAssign_eq {d : Dev} {body : List Byte} (h_d : MemOk d) {q0 : Nat} {q1 : Dev} (hr : (Dev.takeAssign d body) = (q0, q1)) :
    MemOk q1 := by
  have h : MemOk (Dev.takeAssign d body).2 := memOk_takeAssign h_d
  rw [hr] at h
  exact h
theorem memOk_relink {d : Dev} (h_d : MemOk d) :
    MemOk (Dev.relink d) := by
  unfold Dev.relink
  try dsimp only
  repeat' first
    | with_reducible assumption
    | simp only [mk_iff, line_iff, lineMk_iff, wf_iff]
theorem memOk_holdOverflow {d : Dev} (h_d : MemOk d) :
    MemOk (Dev.holdOverflow d) := by
  unfold Dev.holdOverflow
  try dsimp only
  repeat' first
    | with_reducible assumption
    | with_reducible apply memOk_raise
    | with_reducible apply memOk_modTport
    | with_reducible apply each_ok
    | intro _
    | split
theorem memOk_takeTopology {d : Dev} {body : List Byte} (h_d : MemOk d) :
    MemOk (Dev.takeTopology d body).2 := by
  unfold Dev.takeTopology
  try dsimp only
  repeat' first
    | with_reducible assumption
    | simp only [mk_iff, line_iff, lineMk_iff, wf_iff]
    | with_reducible apply memOk_free
    | with_reducible apply memOk_relink
    | with_reducible apply memOk_holdOverflow
    | with_reducible apply each_ok
    | intro _
    | split
theorem memOk_takeTopology_eq {d : Dev} {body : List Byte} (h_d : MemOk d) {q0 : Nat} {q1 : Dev} (hr : (Dev.takeTopology d body) = (q0, q1)) :
    MemOk q1 := by
  have h : MemOk (Dev.takeTopology d body).2 := memOk_takeTopology h_d
  rw [hr] at h
  exact h
theorem memOk_takePressure {d : Dev} {body : List Byte} (h_d : MemOk d) :
    MemOk (Dev.takePressure d body).2 := by
  unfold Dev.takePressure
  try dsimp only
  repeat' first
    | with_reducible assumption
    | simp only [mk_iff, line_iff, lineMk_iff, wf_iff]
    | with_reducible apply memOk_dcEvent
    | split
theorem memOk_takePressure_eq {d : Dev} {body : List Byte} (h_d : MemOk d) {q0 : Nat} {q1 : Dev} (hr : (Dev.takePressure d body) = (q0, q1)) :
    MemOk q1 := by
  have h : MemOk (Dev.takePressure d body).2 := memOk_takePressure h_d
  rw [hr] at h
  exact h
theorem memOk_takeDoze {d : Dev} {p : Nat} {body : List Byte} (h_d : MemOk d) :
    MemOk (Dev.takeDoze d p body).2 := by
  unfold Dev.takeDoze
  try dsimp only
  repeat' first
    | with_reducible assumption
    | simp only [mk_iff, line_iff, lineMk_iff, wf_iff]
    | with_reducible apply memOk_modTport
    | split
theorem memOk_takeDoze_eq {d : Dev} {p : Nat} {body : List Byte} (h_d : MemOk d) {q0 : Nat} {q1 : Dev} (hr : (Dev.takeDoze d p body) = (q0, q1)) :
    MemOk q1 := by
  have h : MemOk (Dev.takeDoze d p body).2 := memOk_takeDoze h_d
  rw [hr] at h
  exact h
theorem memOk_serveMgmt {d : Dev} {p : Nat} {m : Msg} (h_d : MemOk d) :
    MemOk (Dev.serveMgmt d p m).2 := by
  unfold Dev.serveMgmt
  try dsimp only
  repeat' first
    | with_reducible assumption
    | simp only [mk_iff, line_iff, lineMk_iff, wf_iff]
    | with_reducible apply memOk_viralLd
    | with_reducible apply memOk_takeLock
    | with_reducible apply memOk_takePart
    | with_reducible apply memOk_takePrepare
    | with_reducible apply memOk_takeDecision
    | with_reducible apply memOk_takeOutcome
    | with_reducible apply memOk_takeAssign
    | with_reducible apply memOk_takeTopology
    | with_reducible apply memOk_takePressure
    | with_reducible apply memOk_takeDoze
    | with_reducible apply each_ok
    | split
theorem memOk_serveMgmt_eq {d : Dev} {p : Nat} {m : Msg} (h_d : MemOk d) {q0 : Option (Nat × List Byte)} {q1 : Dev} (hr : (Dev.serveMgmt d p m) = (q0, q1)) :
    MemOk q1 := by
  have h : MemOk (Dev.serveMgmt d p m).2 := memOk_serveMgmt h_d
  rw [hr] at h
  exact h
theorem memOk_deliverMgmt {d : Dev} {p : Nat} {m : Msg} (h_d : MemOk d) :
    MemOk (Dev.deliverMgmt d p m) := by
  unfold Dev.deliverMgmt
  try dsimp only
  repeat' first
    | with_reducible assumption
    | with_reducible apply memOk_doorbell
    | with_reducible apply memOk_tryDoze
    | with_reducible apply memOk_mrsp
    | with_reducible apply memOk_takeFrom
    | with_reducible apply memOk_serveMgmt
    | split
theorem memOk_forwardPath {d : Dev} {p : Nat} {m : Msg} (h_d : MemOk d) :
    MemOk (Dev.forwardPath d p m) := by
  unfold Dev.forwardPath
  try dsimp only
  repeat' first
    | with_reducible assumption
    | with_reducible apply memOk_sendMsg
    | with_reducible apply memOk_takeFrom
    | split
theorem memOk_takeMgmt {d : Dev} {p : Nat} (h_d : MemOk d) :
    MemOk (Dev.takeMgmt d p) := by
  unfold Dev.takeMgmt
  try dsimp only
  repeat' first
    | with_reducible assumption
    | with_reducible apply memOk_passOn
    | with_reducible apply memOk_deliverMgmt
    | with_reducible apply memOk_forwardPath
    | split
theorem memOk_execMgmt {p : Fin 3} {s t : State} (h_s : MemOk s.dev) (hr : execMgmt p s = .next t) :
    MemOk t.dev := by
  unfold execMgmt ok at hr
  cases hr
  show MemOk _
  repeat' first
    | with_reducible assumption
    | simp only [mk_iff, line_iff, lineMk_iff, wf_iff]
    | with_reducible apply memOk_flow
    | with_reducible apply memOk_takeMgmt
theorem memOk_mgmtAnswered {d : Dev} {subOp dest : Nat} {sent : List Byte} {answer : Option (List Byte)} (h_d : MemOk d) :
    MemOk (Dev.mgmtAnswered d subOp dest sent answer) := by
  unfold Dev.mgmtAnswered
  try dsimp only
  repeat' first
    | with_reducible assumption
    | simp only [mk_iff, line_iff, lineMk_iff, wf_iff]
    | with_reducible apply memOk_dozeAnswer
    | with_reducible apply memOk_lockAnswered
    | with_reducible apply memOk_prepareAnswered
    | split
theorem memOk_mrspHere {d : Dev} {p : Nat} {m : Msg} (h_d : MemOk d) :
    MemOk (Dev.mrspHere d p m) := by
  unfold Dev.mrspHere
  try dsimp only
  repeat' first
    | with_reducible assumption
    | simp only [mk_iff, line_iff, lineMk_iff, wf_iff]
    | with_reducible apply memOk_doorbell
    | with_reducible apply memOk_mgmtAnswered
    | split
theorem memOk_execMrsp {p : Fin 3} {s t : State} (h_s : MemOk s.dev) (hr : execMrsp p s = .next t) :
    MemOk t.dev := by
  unfold execMrsp ok at hr
  cases hr
  show MemOk _
  repeat' first
    | with_reducible assumption
    | simp only [mk_iff, line_iff, lineMk_iff, wf_iff]
    | with_reducible apply memOk_flow
    | with_reducible apply memOk_takeResponse
    | with_reducible apply memOk_mrspHere
    | intro _
theorem memOk_mgmtTimeout {d : Dev} {tag : Nat} (h_d : MemOk d) :
    MemOk (Dev.mgmtTimeout d tag) := by
  unfold Dev.mgmtTimeout
  try dsimp only
  repeat' first
    | with_reducible assumption
    | simp only [mk_iff, line_iff, lineMk_iff, wf_iff]
    | with_reducible apply memOk_mgmtAnswered
    | split
theorem memOk_execMgmtResponseTimeout {tag : BitVec 16} {s t : State} (h_s : MemOk s.dev) (hr : execMgmtResponseTimeout tag s = .next t) :
    MemOk t.dev := by
  unfold execMgmtResponseTimeout ok at hr
  cases hr
  show MemOk _
  repeat' first
    | with_reducible assumption
    | simp only [mk_iff, line_iff, lineMk_iff, wf_iff]
    | with_reducible apply memOk_flow
    | with_reducible apply memOk_mgmtTimeout
theorem memOk_noRoot {d : Dev} (h_d : MemOk d) :
    MemOk (Dev.noRoot d) := by
  unfold Dev.noRoot
  try dsimp only
  repeat' first
    | with_reducible assumption
    | simp only [mk_iff, line_iff, lineMk_iff, wf_iff]
    | with_reducible apply memOk_raise
    | with_reducible apply memOk_modTport
    | with_reducible apply each_ok
    | intro _
    | split
theorem memOk_execNoRoot  {s t : State} (h_s : MemOk s.dev) (hr : execNoRoot s = .next t) :
    MemOk t.dev := by
  unfold execNoRoot ok at hr
  cases hr
  show MemOk _
  repeat' first
    | with_reducible assumption
    | simp only [mk_iff, line_iff, lineMk_iff, wf_iff]
    | with_reducible apply memOk_noRoot
theorem memOk_mgmtPath {d : Dev} {path : List Nat} {subOp : Nat} {body : List Byte} (h_d : MemOk d) :
    MemOk (Dev.mgmtPath d path subOp body) := by
  unfold Dev.mgmtPath
  try dsimp only
  repeat' first
    | with_reducible assumption
    | simp only [mk_iff, line_iff, lineMk_iff, wf_iff]
    | with_reducible apply memOk_sendMsg
    | split
theorem memOk_sendTopology {d : Dev} {a : Found} {body : List Byte} (h_d : MemOk d) :
    MemOk (Dev.sendTopology d a body) := by
  unfold Dev.sendTopology
  try dsimp only
  repeat' first
    | with_reducible assumption
    | simp only [mk_iff, line_iff, lineMk_iff, wf_iff]
    | with_reducible apply memOk_sendMsg
    | with_reducible apply memOk_mgmt
    | split
theorem memOk_walkChain {d : Dev} {answers : List ProbeAnswer} (h_d : MemOk d) :
    MemOk (Dev.walkChain d answers) := by
  unfold Dev.walkChain
  try dsimp only
  repeat' first
    | with_reducible assumption
    | simp only [mk_iff, line_iff, lineMk_iff, wf_iff]
    | with_reducible apply memOk_raise
    | with_reducible apply memOk_takeIndex
    | with_reducible apply memOk_holdOverflow
    | with_reducible apply memOk_mgmtPath
    | with_reducible apply memOk_sendTopology
    | with_reducible apply each_ok
    | intro _
    | split
theorem memOk_execTetherDiscoveryWalk {answers : List ProbeAnswer} {s t : State} (h_s : MemOk s.dev) (hr : execTetherDiscoveryWalk answers s = .next t) :
    MemOk t.dev := by
  unfold execTetherDiscoveryWalk ok at hr
  cases hr
  show MemOk _
  repeat' first
    | with_reducible assumption
    | simp only [mk_iff, line_iff, lineMk_iff, wf_iff]
    | with_reducible apply memOk_flow
    | with_reducible apply memOk_walkChain
theorem memOk_applyRanges {d : Dev} (h_d : MemOk d) :
    MemOk (Dev.applyRanges d) := by
  unfold Dev.applyRanges
  try dsimp only
  repeat' first
    | with_reducible assumption
    | simp only [mk_iff, line_iff, lineMk_iff, wf_iff]
    | with_reducible apply memOk_raise
    | with_reducible apply memOk_cdat
    | with_reducible apply each_ok
    | intro _
    | split
theorem memOk_sendMarkers {d : Dev} (h_d : MemOk d) :
    MemOk (Dev.sendMarkers d) := by
  unfold Dev.sendMarkers
  try dsimp only
  repeat' first
    | with_reducible assumption
    | with_reducible apply memOk_modTport
    | with_reducible apply memOk_sendIdle
    | with_reducible apply each_ok
    | intro _
    | split
theorem memOk_followSource {d : Dev} {p : Nat} {m : Marker} {offset : Int} (h_d : MemOk d) :
    MemOk (Dev.followSource d p m offset) := by
  unfold Dev.followSource
  try dsimp only
  repeat' first
    | with_reducible assumption
    | simp only [mk_iff, line_iff, lineMk_iff, wf_iff]
    | with_reducible apply memOk_doorbell
    | with_reducible apply memOk_raise
    | split
theorem memOk_takeMarker {d : Dev} {p : Nat} {m : Marker} {offset : Int} (h_d : MemOk d) :
    MemOk (Dev.takeMarker d p m offset) := by
  unfold Dev.takeMarker
  try dsimp only
  repeat' first
    | with_reducible assumption
    | simp only [mk_iff, line_iff, lineMk_iff, wf_iff]
    | with_reducible apply memOk_modTport
    | with_reducible apply memOk_followSource
    | split
theorem memOk_execBeatMarker {p : Fin 3} {m : Marker} {offset : Int} {s t : State} (h_s : MemOk s.dev) (hr : execBeatMarker p m offset s = .next t) :
    MemOk t.dev := by
  unfold execBeatMarker ok at hr
  cases hr
  show MemOk _
  repeat' first
    | with_reducible assumption
    | simp only [mk_iff, line_iff, lineMk_iff, wf_iff]
    | with_reducible apply memOk_takeMarker
theorem memOk_holdover {d : Dev} (h_d : MemOk d) :
    MemOk (Dev.holdover d) := by
  unfold Dev.holdover
  try dsimp only
  repeat' first
    | with_reducible assumption
    | simp only [mk_iff, line_iff, lineMk_iff, wf_iff]
    | with_reducible apply memOk_doorbell
    | with_reducible apply memOk_raise
    | split
theorem memOk_execBeatHoldover  {s t : State} (h_s : MemOk s.dev) (hr : execBeatHoldover s = .next t) :
    MemOk t.dev := by
  unfold execBeatHoldover ok at hr
  cases hr
  show MemOk _
  repeat' first
    | with_reducible assumption
    | simp only [mk_iff, line_iff, lineMk_iff, wf_iff]
    | with_reducible apply memOk_holdover
theorem memOk_sourceLoss {d : Dev} (h_d : MemOk d) :
    MemOk (Dev.sourceLoss d) := by
  unfold Dev.sourceLoss
  try dsimp only
  repeat' first
    | with_reducible assumption
    | simp only [mk_iff, line_iff, lineMk_iff, wf_iff]
    | split
theorem memOk_execBeatSourceLoss  {s t : State} (h_s : MemOk s.dev) (hr : execBeatSourceLoss s = .next t) :
    MemOk t.dev := by
  unfold execBeatSourceLoss ok at hr
  cases hr
  show MemOk _
  repeat' first
    | with_reducible assumption
    | simp only [mk_iff, line_iff, lineMk_iff, wf_iff]
    | with_reducible apply memOk_sourceLoss
theorem memOk_pulseN {d : Dev} {cls : Nat} (h_d : MemOk d) :
    MemOk (Dev.pulseN d cls) := by
  unfold Dev.pulseN
  try dsimp only
  repeat' first
    | with_reducible assumption
    | simp only [mk_iff, line_iff, lineMk_iff, wf_iff]
    | with_reducible apply memOk_faultN
    | split
theorem memOk_severe {d : Dev} {n cls : Nat} (h_d : MemOk d) :
    MemOk (Dev.severe d n cls) := by
  unfold Dev.severe
  try dsimp only
  repeat' first
    | with_reducible assumption
    | simp only [mk_iff, line_iff, lineMk_iff, wf_iff]
    | with_reducible apply memOk_wakeFault
    | with_reducible apply memOk_pulseN
    | split
theorem memOk_faultBoundary {d : Dev} (h_d : MemOk d) :
    MemOk (Dev.faultBoundary d) := by
  unfold Dev.faultBoundary
  try dsimp only
  repeat' first
    | with_reducible assumption
    | with_reducible apply memOk_modSource
    | with_reducible apply memOk_severe
    | with_reducible apply each_ok
    | intro _
    | split
theorem memOk_pulseEnd {d : Dev} (h_d : MemOk d) :
    MemOk (Dev.pulseEnd d) := by
  unfold Dev.pulseEnd
  try dsimp only
  repeat' first
    | with_reducible assumption
    | simp only [mk_iff, line_iff, lineMk_iff, wf_iff]
    | with_reducible apply memOk_faultN
    | split
theorem memOk_execFaultNPulseEnd  {s t : State} (h_s : MemOk s.dev) (hr : execFaultNPulseEnd s = .next t) :
    MemOk t.dev := by
  unfold execFaultNPulseEnd ok at hr
  cases hr
  show MemOk _
  repeat' first
    | with_reducible assumption
    | simp only [mk_iff, line_iff, lineMk_iff, wf_iff]
    | with_reducible apply memOk_pulseEnd
theorem memOk_retireSource {d : Dev} {n type reaction : Nat} {log : LogKind} (h_d : MemOk d) :
    MemOk (Dev.retireSource d n type reaction log) := by
  unfold Dev.retireSource
  try dsimp only
  repeat' first
    | with_reducible assumption
    | with_reducible apply memOk_modSource
    | with_reducible apply memOk_raiseFault
theorem memOk_severeOnly {d : Dev} {n : Nat} (h_d : MemOk d) :
    MemOk (Dev.severeOnly d n) := by
  unfold Dev.severeOnly
  try dsimp only
  repeat' first
    | with_reducible assumption
    | with_reducible apply memOk_raiseFault
theorem memOk_reactDevice {d : Dev} {n : Nat} (h_d : MemOk d) :
    MemOk (Dev.reactDevice d n) := by
  unfold Dev.reactDevice
  try dsimp only
  repeat' first
    | with_reducible assumption
    | with_reducible apply memOk_modChan
    | with_reducible apply memOk_retireRank
    | with_reducible apply memOk_retireSource
    | split
theorem memOk_reactSram {d : Dev} {part : Nat} (h_d : MemOk d) :
    MemOk (Dev.reactSram d part) := by
  unfold Dev.reactSram
  try dsimp only
  repeat' first
    | with_reducible assumption
    | simp only [mk_iff, line_iff, lineMk_iff, wf_iff]
    | with_reducible apply memOk_raiseFault
    | with_reducible apply memOk_modTport
    | with_reducible apply memOk_severeOnly
    | split
theorem memOk_reactLane {d : Dev} {n : Nat} (h_d : MemOk d) :
    MemOk (Dev.reactLane d n) := by
  unfold Dev.reactLane
  try dsimp only
  repeat' first
    | with_reducible assumption
    | with_reducible apply memOk_loseHostLane
    | with_reducible apply memOk_loseTetherLane
    | with_reducible apply memOk_retireSource
    | split
theorem memOk_reactTether {d : Dev} {p : Nat} (h_d : MemOk d) :
    MemOk (Dev.reactTether d p) := by
  unfold Dev.reactTether
  try dsimp only
  repeat' first
    | with_reducible assumption
    | with_reducible apply memOk_modTport
    | with_reducible apply memOk_linkEvent
    | with_reducible apply memOk_tetherDown
    | with_reducible apply memOk_retireSource
    | split
theorem memOk_depleted {d : Dev} {n : Nat} (h_d : MemOk d) :
    MemOk (Dev.depleted d n) := by
  unfold Dev.depleted
  try dsimp only
  repeat' first
    | with_reducible assumption
    | with_reducible apply memOk_raiseFault
    | split
theorem memOk_reactCore {d : Dev} {c : Nat} (h_d : MemOk d) :
    MemOk (Dev.reactCore d c) := by
  unfold Dev.reactCore
  try dsimp only
  repeat' first
    | with_reducible assumption
    | with_reducible apply memOk_setCore
    | with_reducible apply memOk_abandonActivation
    | with_reducible apply memOk_retireSource
    | with_reducible apply memOk_depleted
    | split
theorem memOk_reactEngine {d : Dev} {e : Nat} (h_d : MemOk d) :
    MemOk (Dev.reactEngine d e) := by
  unfold Dev.reactEngine
  try dsimp only
  repeat' first
    | with_reducible assumption
    | simp only [mk_iff, line_iff, lineMk_iff, wf_iff]
    | with_reducible apply memOk_retireSource
    | with_reducible apply memOk_severeOnly
    | split
theorem memOk_react {d : Dev} {n : Nat} (h_d : MemOk d) :
    MemOk (Dev.react d n) := by
  unfold Dev.react
  try dsimp only
  repeat' first
    | with_reducible assumption
    | with_reducible apply memOk_retireRank
    | with_reducible apply memOk_modHchan
    | with_reducible apply memOk_retireSource
    | with_reducible apply memOk_severeOnly
    | with_reducible apply memOk_reactDevice
    | with_reducible apply memOk_reactSram
    | with_reducible apply memOk_reactLane
    | with_reducible apply memOk_reactTether
    | with_reducible apply memOk_reactCore
    | with_reducible apply memOk_reactEngine
    | split
theorem memOk_reactionStart {d : Dev} {n : Nat} (h_d : MemOk d) :
    MemOk (Dev.reactionStart d n) := by
  unfold Dev.reactionStart
  try dsimp only
  repeat' first
    | with_reducible assumption
    | simp only [mk_iff, line_iff, lineMk_iff, wf_iff]
    | with_reducible apply memOk_react
    | split
theorem memOk_execFaultReactionStart {source : BitVec 16} {s t : State} (h_s : MemOk s.dev) (hr : execFaultReactionStart source s = .next t) :
    MemOk t.dev := by
  unfold execFaultReactionStart ok at hr
  cases hr
  show MemOk _
  repeat' first
    | with_reducible assumption
    | simp only [mk_iff, line_iff, lineMk_iff, wf_iff]
    | with_reducible apply memOk_flow
    | with_reducible apply memOk_reactionStart
theorem memOk_restartCore {d : Dev} {c code detail : Nat} {hard : Bool} (h_d : MemOk d) :
    MemOk (Dev.restartCore d c code detail hard) := by
  unfold Dev.restartCore
  try dsimp only
  repeat' first
    | with_reducible assumption
    | with_reducible apply memOk_setCore
    | with_reducible apply memOk_faultEvent
    | with_reducible apply memOk_raiseFault
    | with_reducible apply memOk_abandonActivation
    | with_reducible apply memOk_depleted
    | split
theorem memOk_execCoreException {core : Fin 16} {pc : BitVec 36} {addr : BitVec 36} {s t : State} (h_s : MemOk s.dev) (hr : execCoreException core pc addr s = .next t) :
    MemOk t.dev := by
  unfold execCoreException ok at hr
  cases hr
  show MemOk _
  repeat' first
    | with_reducible assumption
    | simp only [mk_iff, line_iff, lineMk_iff, wf_iff]
    | with_reducible apply memOk_restartCore
theorem memOk_heartbeatLoss {d : Dev} {c : Nat} (h_d : MemOk d) :
    MemOk (Dev.heartbeatLoss d c) := by
  unfold Dev.heartbeatLoss
  try dsimp only
  repeat' first
    | with_reducible assumption
    | with_reducible apply memOk_free
    | with_reducible apply memOk_restartCore
theorem memOk_execCoreHeartbeatLoss {core : Fin 16} {s t : State} (h_s : MemOk s.dev) (hr : execCoreHeartbeatLoss core s = .next t) :
    MemOk t.dev := by
  unfold execCoreHeartbeatLoss ok at hr
  cases hr
  show MemOk _
  repeat' first
    | with_reducible assumption
    | simp only [mk_iff, line_iff, lineMk_iff, wf_iff]
    | with_reducible apply memOk_heartbeatLoss
theorem memOk_restartDone {d : Dev} {c : Nat} {good : Bool} (h_d : MemOk d) :
    MemOk (Dev.restartDone d c good) := by
  unfold Dev.restartDone
  try dsimp only
  repeat' first
    | with_reducible assumption
    | with_reducible apply memOk_setCore
    | with_reducible apply memOk_free
    | with_reducible apply memOk_faultEvent
    | split
theorem memOk_execCoreRestartDone {core : Fin 16} {selfTest : Bool} {s t : State} (h_s : MemOk s.dev) (hr : execCoreRestartDone core selfTest s = .next t) :
    MemOk t.dev := by
  unfold execCoreRestartDone ok at hr
  cases hr
  show MemOk _
  repeat' first
    | with_reducible assumption
    | simp only [mk_iff, line_iff, lineMk_iff, wf_iff]
    | with_reducible apply memOk_restartDone
theorem memOk_poisonWb {d : Dev} {i : Nat} (h_d : MemOk d) :
    MemOk (Dev.poisonWb d i) := by
  unfold Dev.poisonWb
  try dsimp only
  repeat' first
    | with_reducible assumption
    | with_reducible apply memOk_setWb
    | split
theorem memOk_poisonRead {d : Dev} {i : Nat} (h_d : MemOk d) :
    MemOk (Dev.poisonRead d i) := by
  unfold Dev.poisonRead
  try dsimp only
  repeat' first
    | with_reducible assumption
    | simp only [mk_iff, line_iff, lineMk_iff, wf_iff]
    | with_reducible apply memOk_setWb
    | with_reducible apply memOk_answer
    | with_reducible apply memOk_dropDecode
    | with_reducible apply each_ok
    | intro _
    | split
theorem memOk_poisonPrism {d : Dev} {i : Nat} (h_d : MemOk d) :
    MemOk (Dev.poisonPrism d i) := by
  unfold Dev.poisonPrism
  try dsimp only
  repeat' first
    | with_reducible assumption
    | simp only [mk_iff, line_iff, lineMk_iff, wf_iff]
    | with_reducible apply memOk_answer
    | with_reducible apply memOk_dropDecode
    | with_reducible apply each_ok
    | intro _
    | split
theorem memOk_losesCt {d : Dev} {i : Nat} (h_d : MemOk d) :
    MemOk (Dev.losesCt d i) := by
  unfold Dev.losesCt
  try dsimp only
  repeat' first
    | with_reducible assumption
    | with_reducible apply memOk_ctDrop
    | with_reducible apply memOk_fetchTree
    | with_reducible apply memOk_quarantine
    | split
theorem memOk_losesXc {d : Dev} {i : Nat} (h_d : MemOk d) :
    MemOk (Dev.losesXc d i) := by
  unfold Dev.losesXc
  try dsimp only
  repeat' first
    | with_reducible assumption
    | simp only [mk_iff, line_iff, lineMk_iff, wf_iff]
    | with_reducible apply memOk_repin
    | split
theorem memOk_losesRecord {d : Dev} {i : Nat} (h_d : MemOk d) :
    MemOk (Dev.losesRecord d i) := by
  unfold Dev.losesRecord
  try dsimp only
  repeat' first
    | with_reducible assumption
    | simp only [mk_iff, line_iff, lineMk_iff, wf_iff]
    | with_reducible apply memOk_bump
    | split
theorem memOk_sramLoss {d : Dev} {part word : Nat} (h_d : MemOk d) :
    MemOk (Dev.sramLoss d part word) := by
  unfold Dev.sramLoss
  try dsimp only
  repeat' first
    | with_reducible assumption
    | simp only [mk_iff, line_iff, lineMk_iff, wf_iff]
    | with_reducible apply memOk_free
    | with_reducible apply memOk_kcWriteRecs
    | with_reducible apply memOk_failJob
    | with_reducible apply memOk_evict
    | with_reducible apply memOk_restartCore
    | with_reducible apply memOk_poisonWb
    | with_reducible apply memOk_poisonRead
    | with_reducible apply memOk_poisonPrism
    | with_reducible apply memOk_losesCt
    | with_reducible apply memOk_losesXc
    | with_reducible apply memOk_losesRecord
    | with_reducible apply each_ok
    | intro _
    | split
theorem memOk_sramError {d : Dev} {part word bitNum : Nat} {correctable : Bool} (h_d : MemOk d) :
    MemOk (Dev.sramError d part word bitNum correctable) := by
  unfold Dev.sramError
  try dsimp only
  repeat' first
    | with_reducible assumption
    | simp only [mk_iff, line_iff, lineMk_iff, wf_iff]
    | with_reducible apply memOk_faultEvent
    | with_reducible apply memOk_directoryError
    | with_reducible apply memOk_counterError
    | with_reducible apply memOk_sramLoss
    | split
theorem memOk_execSramError {part : Fin 14} {word : BitVec 32} {bit : BitVec 8} {correctable : Bool} {s t : State} (h_s : MemOk s.dev) (hr : execSramError part word bit correctable s = .next t) :
    MemOk t.dev := by
  unfold execSramError ok at hr
  cases hr
  show MemOk _
  repeat' first
    | with_reducible assumption
    | simp only [mk_iff, line_iff, lineMk_iff, wf_iff]
    | with_reducible apply memOk_flow
    | with_reducible apply memOk_sramError
theorem memOk_laneEvent {d : Dev} {port lane code : Nat} (h_d : MemOk d) :
    MemOk (Dev.laneEvent d port lane code) := by
  unfold Dev.laneEvent
  try dsimp only
  repeat' first
    | with_reducible assumption
    | with_reducible apply memOk_faultEvent
theorem memOk_lossOfLock {d : Dev} {port lane : Nat} (h_d : MemOk d) :
    MemOk (Dev.lossOfLock d port lane) := by
  unfold Dev.lossOfLock
  try dsimp only
  repeat' first
    | with_reducible assumption
    | with_reducible apply memOk_loseHostLane
    | with_reducible apply memOk_loseTetherLane
    | with_reducible apply memOk_startRetrain
    | with_reducible apply memOk_retireSource
    | with_reducible apply memOk_laneEvent
    | split
theorem memOk_execLaneLossOfLock {lane : Lane} {s t : State} (h_s : MemOk s.dev) (hr : execLaneLossOfLock lane s = .next t) :
    MemOk t.dev := by
  unfold execLaneLossOfLock ok at hr
  cases hr
  show MemOk _
  repeat' first
    | with_reducible assumption
    | simp only [mk_iff, line_iff, lineMk_iff, wf_iff]
    | with_reducible apply memOk_flow
    | with_reducible apply memOk_lossOfLock
theorem memOk_fecCount {d : Dev} {port lane : Nat} (h_d : MemOk d) :
    MemOk (Dev.fecCount d port lane) := by
  unfold Dev.fecCount
  try dsimp only
  repeat' first
    | with_reducible assumption
    | with_reducible apply memOk_laneEvent
    | split
theorem memOk_execLaneFecSymbolCount {lane : Lane} {s t : State} (h_s : MemOk s.dev) (hr : execLaneFecSymbolCount lane s = .next t) :
    MemOk t.dev := by
  unfold execLaneFecSymbolCount ok at hr
  cases hr
  show MemOk _
  repeat' first
    | with_reducible assumption
    | simp only [mk_iff, line_iff, lineMk_iff, wf_iff]
    | with_reducible apply memOk_fecCount
theorem memOk_glintStart {d : Dev} {iss : Issuer} {inp : List Byte} (h_d : MemOk d) :
    MemOk (Dev.glintStart d iss inp) := by
  unfold Dev.glintStart
  try dsimp only
  repeat' first
    | with_reducible assumption
    | simp only [mk_iff, line_iff, lineMk_iff, wf_iff]
    | with_reducible apply memOk_free
    | with_reducible apply memOk_reply
    | with_reducible apply memOk_refuse
    | with_reducible apply memOk_badLength
    | with_reducible apply memOk_startBg
    | split
theorem memOk_execGlintStart {iss : Issuer} {inp : List Byte} {s t : State} (h_s : MemOk s.dev) (hr : execGlintStart iss inp s = .next t) :
    MemOk t.dev := by
  unfold execGlintStart ok at hr
  cases hr
  show MemOk _
  repeat' first
    | with_reducible assumption
    | simp only [mk_iff, line_iff, lineMk_iff, wf_iff]
    | with_reducible apply memOk_command
    | with_reducible apply memOk_glintStart
    | intro _
theorem memOk_pointDone {d : Dev} {dis : Nat} (h_d : MemOk d) :
    MemOk (Dev.pointDone d dis) := by
  unfold Dev.pointDone
  try dsimp only
  repeat' first
    | with_reducible assumption
    | simp only [mk_iff, line_iff, lineMk_iff, wf_iff]
    | with_reducible apply memOk_endScan
    | split
theorem memOk_execGlintPointDone {disagree : BitVec 32} {s t : State} (h_s : MemOk s.dev) (hr : execGlintPointDone disagree s = .next t) :
    MemOk t.dev := by
  unfold execGlintPointDone ok at hr
  cases hr
  show MemOk _
  repeat' first
    | with_reducible assumption
    | simp only [mk_iff, line_iff, lineMk_iff, wf_iff]
    | with_reducible apply memOk_pointDone
theorem memOk_glintResult {d : Dev} {iss : Issuer} {inp : List Byte} (h_d : MemOk d) :
    MemOk (Dev.glintResult d iss inp) := by
  unfold Dev.glintResult
  try dsimp only
  repeat' first
    | with_reducible assumption
    | with_reducible apply memOk_free
    | with_reducible apply memOk_reply
    | with_reducible apply memOk_refuse
    | with_reducible apply memOk_badLength
    | split
theorem memOk_execGlintResult {iss : Issuer} {inp : List Byte} {s t : State} (h_s : MemOk s.dev) (hr : execGlintResult iss inp s = .next t) :
    MemOk t.dev := by
  unfold execGlintResult ok at hr
  cases hr
  show MemOk _
  repeat' first
    | with_reducible assumption
    | simp only [mk_iff, line_iff, lineMk_iff, wf_iff]
    | with_reducible apply memOk_command
    | with_reducible apply memOk_glintResult
    | intro _
theorem memOk_margining {d : Dev} {port lane : Nat} {start : Bool} (h_d : MemOk d) :
    MemOk (Dev.margining d port lane start) := by
  unfold Dev.margining
  try dsimp only
  repeat' first
    | with_reducible assumption
    | simp only [mk_iff, line_iff, lineMk_iff, wf_iff]
    | split
theorem memOk_execLaneMarginingCommand {lane : Lane} {start : Bool} {s t : State} (h_s : MemOk s.dev) (hr : execLaneMarginingCommand lane start s = .next t) :
    MemOk t.dev := by
  unfold execLaneMarginingCommand ok at hr
  cases hr
  show MemOk _
  repeat' first
    | with_reducible assumption
    | simp only [mk_iff, line_iff, lineMk_iff, wf_iff]
    | with_reducible apply memOk_margining
theorem memOk_periodicScan {d : Dev} {port lane : Nat} {eyes : List EyeMargins} (h_d : MemOk d) :
    MemOk (Dev.periodicScan d port lane eyes) := by
  unfold Dev.periodicScan
  try dsimp only
  repeat' first
    | with_reducible assumption
    | simp only [mk_iff, line_iff, lineMk_iff, wf_iff]
    | with_reducible apply memOk_reactLane
    | split
theorem memOk_execGlintPeriodicScan {lane : Lane} {eyes : List EyeMargins} {s t : State} (h_s : MemOk s.dev) (hr : execGlintPeriodicScan lane eyes s = .next t) :
    MemOk t.dev := by
  unfold execGlintPeriodicScan ok at hr
  cases hr
  show MemOk _
  repeat' first
    | with_reducible assumption
    | simp only [mk_iff, line_iff, lineMk_iff, wf_iff]
    | with_reducible apply memOk_flow
    | with_reducible apply memOk_periodicScan
theorem memOk_vauxChange {d : Dev} {good : Bool} (h_d : MemOk d) :
    MemOk (Dev.vauxChange d good) := by
  unfold Dev.vauxChange
  try dsimp only
  repeat' first
    | with_reducible assumption
    | simp only [mk_iff, line_iff, lineMk_iff, wf_iff]
    | with_reducible apply memOk_modHchan
    | with_reducible apply memOk_startInput
    | with_reducible apply memOk_toHeld
    | split
theorem memOk_execVauxChange {good : Bool} {s t : State} (h_s : MemOk s.dev) (hr : execVauxChange good s = .next t) :
    MemOk t.dev := by
  unfold execVauxChange ok at hr
  cases hr
  show MemOk _
  repeat' first
    | with_reducible assumption
    | simp only [mk_iff, line_iff, lineMk_iff, wf_iff]
    | with_reducible apply memOk_vauxChange
theorem memOk_execCoreEnRelease  {s t : State} (h_s : MemOk s.dev) (hr : execCoreEnRelease s = .next t) :
    MemOk t.dev := by
  unfold execCoreEnRelease ok at hr
  cases hr
  show MemOk _
  repeat' first
    | with_reducible assumption
    | simp only [mk_iff, line_iff, lineMk_iff, wf_iff]
    | with_reducible apply memOk_say
    | split
theorem memOk_execCorePgChange {good : Bool} {s t : State} (h_s : MemOk s.dev) (hr : execCorePgChange good s = .next t) :
    MemOk t.dev := by
  unfold execCorePgChange ok at hr
  cases hr
  show MemOk _
  repeat' first
    | with_reducible assumption
    | simp only [mk_iff, line_iff, lineMk_iff, wf_iff]
    | split
theorem memOk_rstAssert {d : Dev} (h_d : MemOk d) :
    MemOk (Dev.rstAssert d) := by
  unfold Dev.rstAssert
  try dsimp only
  repeat' first
    | with_reducible assumption
    | simp only [mk_iff, line_iff, lineMk_iff, wf_iff]
    | with_reducible apply memOk_say
    | with_reducible apply memOk_toHeld
    | split
theorem memOk_execRstNAssert  {s t : State} (h_s : MemOk s.dev) (hr : execRstNAssert s = .next t) :
    MemOk t.dev := by
  unfold execRstNAssert ok at hr
  cases hr
  show MemOk _
  repeat' first
    | with_reducible assumption
    | simp only [mk_iff, line_iff, lineMk_iff, wf_iff]
    | with_reducible apply memOk_rstAssert
theorem memOk_railFault {d : Dev} {r : Rail} (h_d : MemOk d) :
    MemOk (Dev.railFault d r) := by
  unfold Dev.railFault
  try dsimp only
  repeat' first
    | with_reducible assumption
    | simp only [mk_iff, line_iff, lineMk_iff, wf_iff]
    | with_reducible apply memOk_coldWake
    | with_reducible apply memOk_rstAssert
    | split
theorem memOk_execRailFault {rail : Rail} {s t : State} (h_s : MemOk s.dev) (hr : execRailFault rail s = .next t) :
    MemOk t.dev := by
  unfold execRailFault ok at hr
  cases hr
  show MemOk _
  repeat' first
    | with_reducible assumption
    | simp only [mk_iff, line_iff, lineMk_iff, wf_iff]
    | with_reducible apply memOk_railFault
theorem memOk_perstAssert {d : Dev} {p : Nat} (h_d : MemOk d) :
    MemOk (Dev.perstAssert d p) := by
  unfold Dev.perstAssert
  try dsimp only
  repeat' first
    | with_reducible assumption
    | simp only [mk_iff, line_iff, lineMk_iff, wf_iff]
    | with_reducible apply memOk_modLink
    | with_reducible apply memOk_modPort
    | with_reducible apply memOk_modSource
    | with_reducible apply memOk_hostDown
    | with_reducible apply memOk_pinEdge
    | with_reducible apply each_ok
    | intro _
theorem memOk_execPerstNAssert {hp : HPort} {s t : State} (h_s : MemOk s.dev) (hr : execPerstNAssert hp s = .next t) :
    MemOk t.dev := by
  unfold execPerstNAssert ok at hr
  cases hr
  show MemOk _
  repeat' first
    | with_reducible assumption
    | simp only [mk_iff, line_iff, lineMk_iff, wf_iff]
    | with_reducible apply memOk_flow
    | with_reducible apply memOk_perstAssert
theorem memOk_perstDeassert {d : Dev} {p : Nat} {x8 : Bool} (h_d : MemOk d) :
    MemOk (Dev.perstDeassert d p x8) := by
  unfold Dev.perstDeassert
  try dsimp only
  repeat' first
    | with_reducible assumption
    | with_reducible apply memOk_modPort
    | with_reducible apply memOk_pinEdge
    | with_reducible apply memOk_wakeEvent
    | split
theorem memOk_execPerstNDeassert {hp : HPort} {x8 : Bool} {s t : State} (h_s : MemOk s.dev) (hr : execPerstNDeassert hp x8 s = .next t) :
    MemOk t.dev := by
  unfold execPerstNDeassert ok at hr
  cases hr
  show MemOk _
  repeat' first
    | with_reducible assumption
    | simp only [mk_iff, line_iff, lineMk_iff, wf_iff]
    | with_reducible apply memOk_perstDeassert
theorem memOk_coldBoot {d : Dev} {x : Straps} (h_d : MemOk d) :
    MemOk (Dev.coldBoot d x) := by
  unfold Dev.coldBoot
  try dsimp only
  repeat' first
    | with_reducible assumption
    | simp only [mk_iff, line_iff, lineMk_iff, wf_iff]
    | with_reducible apply memOk_modSource
    | with_reducible apply memOk_setCore
    | with_reducible apply memOk_bootFirmware
    | with_reducible apply each_ok
    | intro _
    | split
theorem memOk_execColdBoot {straps : Straps} {s t : State} (h_s : MemOk s.dev) (hr : execColdBoot straps s = .next t) :
    MemOk t.dev := by
  unfold execColdBoot ok at hr
  cases hr
  show MemOk _
  repeat' first
    | with_reducible assumption
    | simp only [mk_iff, line_iff, lineMk_iff, wf_iff]
    | with_reducible apply memOk_coldBoot
theorem memOk_formMedia {d : Dev} {t : Population} (h_d : MemOk d) :
    MemOk (Dev.formMedia d t) := by
  unfold Dev.formMedia
  try dsimp only
  repeat' first
    | with_reducible assumption
    | simp only [mk_iff, line_iff, lineMk_iff, wf_iff]
    | with_reducible apply memOk_trainChan
    | with_reducible apply each_ok
    | split
theorem memOk_applyLog {d : Dev} (h_d : MemOk d) :
    MemOk (Dev.applyLog d) := by
  unfold Dev.applyLog
  try dsimp only
  repeat' first
    | with_reducible assumption
    | simp only [mk_iff, line_iff, lineMk_iff, wf_iff]
    | with_reducible apply memOk_modChan
    | with_reducible apply memOk_modSource
    | with_reducible apply each_ok
    | intro _
    | split
theorem memOk_readModules {d : Dev} {spds : List (Option Spd)} (h_d : MemOk d) :
    MemOk (Dev.readModules d spds).2 := by
  unfold Dev.readModules
  try dsimp only
  repeat' first
    | with_reducible assumption
    | simp only [mk_iff, line_iff, lineMk_iff, wf_iff]
    | with_reducible apply memOk_modHchan
    | with_reducible apply memOk_unqualify
    | with_reducible apply each_ok2
    | intro _
    | split
theorem memOk_readModules_eq {d : Dev} {spds : List (Option Spd)} (h_d : MemOk d) {q0 : Population} {q1 : Dev} (hr : (Dev.readModules d spds) = (q0, q1)) :
    MemOk q1 := by
  have h : MemOk (Dev.readModules d spds).2 := memOk_readModules h_d
  rw [hr] at h
  exact h
theorem memOk_untrainModules {d : Dev} {t : Population} {failed : List (Nat × Nat)} (h_d : MemOk d) :
    MemOk (Dev.untrainModules d t failed).2 := by
  unfold Dev.untrainModules
  try dsimp only
  repeat' first
    | with_reducible assumption
    | simp only [mk_iff, line_iff, lineMk_iff, wf_iff]
    | with_reducible apply memOk_free
    | with_reducible apply memOk_faultEvent
    | with_reducible apply memOk_modHchan
    | with_reducible apply memOk_unqualify
    | with_reducible apply each_ok
    | with_reducible apply each_ok2
    | intro _
    | split

end Sys2Proof.Laws
end

