-- ==== Sys2Proof/Laws/MemOk8.lean ====
section
/-! SUPPORT. Every operation of the model keeps the media contents in their canonical form: one lemma an operation, and one a command's meaning (part 8 of 8). -/

set_option linter.unusedSimpArgs false
set_option linter.unusedVariables false

namespace Sys2Proof.Laws

open Sys2Proof Sys2Proof.Machine

theorem memOk_untrainModules_eq {d : Dev} {t : Population} {failed : List (Nat × Nat)} (h_d : MemOk d) {q0 : Population} {q1 : Dev} (hr : (Dev.untrainModules d t failed) = (q0, q1)) :
    MemOk q1 := by
  have h : MemOk (Dev.untrainModules d t failed).2 := memOk_untrainModules h_d
  rw [hr] at h
  exact h
theorem memOk_population {d : Dev} {t : Population} (h_d : MemOk d) :
    MemOk (Dev.population d t) := by
  unfold Dev.population
  try dsimp only
  repeat' first
    | with_reducible assumption
    | with_reducible apply memOk_raise
    | with_reducible apply memOk_formMedia
    | split
theorem memOk_firmwareBoot {d : Dev} {spds : List (Option Spd)} {failed : List (Nat × Nat)} (h_d : MemOk d) :
    MemOk (Dev.firmwareBoot d spds failed) := by
  unfold Dev.firmwareBoot
  try dsimp only
  repeat' first
    | with_reducible assumption
    | simp only [mk_iff, line_iff, lineMk_iff, wf_iff]
    | with_reducible apply memOk_random
    | with_reducible apply memOk_raise
    | with_reducible apply memOk_raiseFault
    | with_reducible apply memOk_applyLog
    | with_reducible apply memOk_readModules
    | with_reducible apply memOk_untrainModules
    | with_reducible apply memOk_population
    | split
theorem memOk_execFirmwareBoot {spds : List (Option Spd)} {untrained : List (Fin 8 × Fin 4)} {s t : State} (h_s : MemOk s.dev) (hr : execFirmwareBoot spds untrained s = .next t) :
    MemOk t.dev := by
  unfold execFirmwareBoot ok at hr
  cases hr
  show MemOk _
  repeat' first
    | with_reducible assumption
    | simp only [mk_iff, line_iff, lineMk_iff, wf_iff]
    | with_reducible apply memOk_firmwareBoot
theorem memOk_trip115 {d : Dev} (h_d : MemOk d) :
    MemOk (Dev.trip115 d) := by
  unfold Dev.trip115
  try dsimp only
  repeat' first
    | with_reducible assumption
    | simp only [mk_iff, line_iff, lineMk_iff, wf_iff]
    | with_reducible apply memOk_say
    | with_reducible apply memOk_faultN
    | split
theorem memOk_execThermtrip  {s t : State} (h_s : MemOk s.dev) (hr : execThermtrip s = .next t) :
    MemOk t.dev := by
  unfold execThermtrip ok at hr
  cases hr
  show MemOk _
  repeat' first
    | with_reducible assumption
    | simp only [mk_iff, line_iff, lineMk_iff, wf_iff]
    | with_reducible apply memOk_trip115
theorem memOk_trim {d : Dev} {mv : Nat} {answered : Bool} (h_d : MemOk d) :
    MemOk (Dev.trim d mv answered) := by
  unfold Dev.trim
  try dsimp only
  repeat' first
    | with_reducible assumption
    | simp only [mk_iff, line_iff, lineMk_iff, wf_iff]
    | with_reducible apply memOk_say
    | split
theorem memOk_execVddCoreTrim {mv : Nat} {answered : Bool} {s t : State} (h_s : MemOk s.dev) (hr : execVddCoreTrim mv answered s = .next t) :
    MemOk t.dev := by
  unfold execVddCoreTrim ok at hr
  cases hr
  show MemOk _
  repeat' first
    | with_reducible assumption
    | simp only [mk_iff, line_iff, lineMk_iff, wf_iff]
    | with_reducible apply memOk_trim
theorem memOk_readMonitor {d : Dev} {c mv : List Nat} {m : Nat} (h_d : MemOk d) :
    MemOk (Dev.readMonitor d c mv m) := by
  unfold Dev.readMonitor
  try dsimp only
  repeat' first
    | with_reducible assumption
    | simp only [mk_iff, line_iff, lineMk_iff, wf_iff]
    | with_reducible apply memOk_faultEvent
    | split
theorem memOk_readMonitors {d : Dev} {c mv : List Nat} (h_d : MemOk d) :
    MemOk (Dev.readMonitors d c mv) := by
  unfold Dev.readMonitors
  try dsimp only
  repeat' first
    | with_reducible assumption
    | simp only [mk_iff, line_iff, lineMk_iff, wf_iff]
    | with_reducible apply memOk_wakeEvent
    | with_reducible apply memOk_readMonitor
    | with_reducible apply each_ok
    | intro _
    | split
theorem memOk_execDieMonitorRead {celsius : List Nat} {millivolt : List Nat} {s t : State} (h_s : MemOk s.dev) (hr : execDieMonitorRead celsius millivolt s = .next t) :
    MemOk t.dev := by
  unfold execDieMonitorRead ok at hr
  cases hr
  show MemOk _
  repeat' first
    | with_reducible assumption
    | simp only [mk_iff, line_iff, lineMk_iff, wf_iff]
    | with_reducible apply memOk_readMonitors
theorem memOk_throttleEnds {d : Dev} (h_d : MemOk d) :
    MemOk (Dev.throttleEnds d) := by
  unfold Dev.throttleEnds
  try dsimp only
  repeat' first
    | with_reducible assumption
    | simp only [mk_iff, line_iff, lineMk_iff, wf_iff]
    | split
theorem memOk_execThrottleEnd  {s t : State} (h_s : MemOk s.dev) (hr : execThrottleEnd s = .next t) :
    MemOk t.dev := by
  unfold execThrottleEnd ok at hr
  cases hr
  show MemOk _
  repeat' first
    | with_reducible assumption
    | simp only [mk_iff, line_iff, lineMk_iff, wf_iff]
    | with_reducible apply memOk_throttleEnds
theorem memOk_pinEvent {d : Dev} {p : Nat} {high : Bool} (h_d : MemOk d) :
    MemOk (Dev.pinEvent d p high) := by
  unfold Dev.pinEvent
  try dsimp only
  repeat' first
    | with_reducible assumption
    | with_reducible apply memOk_pinEdge
    | with_reducible apply memOk_wakeEvent
    | split
theorem memOk_execPinSourceEvent {pin : Fin 24} {high : Bool} {s t : State} (h_s : MemOk s.dev) (hr : execPinSourceEvent pin high s = .next t) :
    MemOk t.dev := by
  unfold execPinSourceEvent ok at hr
  cases hr
  show MemOk _
  repeat' first
    | with_reducible assumption
    | simp only [mk_iff, line_iff, lineMk_iff, wf_iff]
    | with_reducible apply memOk_pinEvent
theorem memOk_noInput {d : Dev} {iss : Issuer} {inp : List Byte} {f : Dev → Dev} (h_d : MemOk d) (h_f : ∀ (x0 : Dev), MemOk x0 → MemOk (f x0)) :
    MemOk (Dev.noInput d iss inp f) := by
  unfold Dev.noInput
  try dsimp only
  repeat' first
    | with_reducible assumption
    | with_reducible apply h_f
    | with_reducible apply memOk_answerStd
    | split
theorem memOk_sized {d : Dev} {iss : Issuer} {inp : List Byte} {n : Nat} {f : Dev → Dev} (h_d : MemOk d) (h_f : ∀ (x0 : Dev), MemOk x0 → MemOk (f x0)) :
    MemOk (Dev.sized d iss inp n f) := by
  unfold Dev.sized
  try dsimp only
  repeat' first
    | with_reducible assumption
    | with_reducible apply h_f
    | with_reducible apply memOk_answerStd
    | split
theorem memOk_identify {d : Dev} {iss : Issuer} {inp : List Byte} (h_d : MemOk d) :
    MemOk (Dev.identify d iss inp) := by
  unfold Dev.identify
  try dsimp only
  repeat' first
    | with_reducible assumption
    | with_reducible apply memOk_answerStd
    | with_reducible apply memOk_noInput
    | intro _
theorem memOk_execIdentify {iss : Issuer} {inp : List Byte} {s t : State} (h_s : MemOk s.dev) (hr : execIdentify iss inp s = .next t) :
    MemOk t.dev := by
  unfold execIdentify ok at hr
  cases hr
  show MemOk _
  repeat' first
    | with_reducible assumption
    | simp only [mk_iff, line_iff, lineMk_iff, wf_iff]
    | with_reducible apply memOk_command
    | with_reducible apply memOk_identify
    | intro _
theorem memOk_bgStatus {d : Dev} {iss : Issuer} {inp : List Byte} (h_d : MemOk d) :
    MemOk (Dev.bgStatus d iss inp) := by
  unfold Dev.bgStatus
  try dsimp only
  repeat' first
    | with_reducible assumption
    | simp only [mk_iff, line_iff, lineMk_iff, wf_iff]
    | with_reducible apply memOk_free
    | with_reducible apply memOk_answerStd
    | with_reducible apply memOk_noInput
    | intro _
    | split
theorem memOk_execBackgroundOperationStatus {iss : Issuer} {inp : List Byte} {s t : State} (h_s : MemOk s.dev) (hr : execBackgroundOperationStatus iss inp s = .next t) :
    MemOk t.dev := by
  unfold execBackgroundOperationStatus ok at hr
  cases hr
  show MemOk _
  repeat' first
    | with_reducible assumption
    | simp only [mk_iff, line_iff, lineMk_iff, wf_iff]
    | with_reducible apply memOk_command
    | with_reducible apply memOk_bgStatus
    | intro _
theorem memOk_execGetResponseMessageLimit {iss : Issuer} {inp : List Byte} {s t : State} (h_s : MemOk s.dev) (hr : execGetResponseMessageLimit iss inp s = .next t) :
    MemOk t.dev := by
  unfold execGetResponseMessageLimit ok at hr
  cases hr
  show MemOk _
  repeat' first
    | with_reducible assumption
    | simp only [mk_iff, line_iff, lineMk_iff, wf_iff]
    | with_reducible apply memOk_answerStd
    | with_reducible apply memOk_command
    | with_reducible apply memOk_noInput
    | intro _
theorem memOk_setRespLimit {d : Dev} {iss : Issuer} {inp : List Byte} (h_d : MemOk d) :
    MemOk (Dev.setRespLimit d iss inp) := by
  unfold Dev.setRespLimit
  try dsimp only
  repeat' first
    | with_reducible assumption
    | with_reducible apply memOk_modBox
    | with_reducible apply memOk_answerStd
    | with_reducible apply memOk_sized
    | intro _
    | split
theorem memOk_execSetResponseMessageLimit {iss : Issuer} {inp : List Byte} {s t : State} (h_s : MemOk s.dev) (hr : execSetResponseMessageLimit iss inp s = .next t) :
    MemOk t.dev := by
  unfold execSetResponseMessageLimit ok at hr
  cases hr
  show MemOk _
  repeat' first
    | with_reducible assumption
    | simp only [mk_iff, line_iff, lineMk_iff, wf_iff]
    | with_reducible apply memOk_command
    | with_reducible apply memOk_setRespLimit
    | intro _
theorem memOk_askAbort {d : Dev} {iss : Issuer} {inp : List Byte} (h_d : MemOk d) :
    MemOk (Dev.askAbort d iss inp) := by
  unfold Dev.askAbort
  try dsimp only
  repeat' first
    | with_reducible assumption
    | with_reducible apply memOk_modBox
    | with_reducible apply memOk_answerStd
    | with_reducible apply memOk_noInput
    | intro _
    | split
theorem memOk_execRequestAbortBackgroundOperation {iss : Issuer} {inp : List Byte} {s t : State} (h_s : MemOk s.dev) (hr : execRequestAbortBackgroundOperation iss inp s = .next t) :
    MemOk t.dev := by
  unfold execRequestAbortBackgroundOperation ok at hr
  cases hr
  show MemOk _
  repeat' first
    | with_reducible assumption
    | simp only [mk_iff, line_iff, lineMk_iff, wf_iff]
    | with_reducible apply memOk_command
    | with_reducible apply memOk_askAbort
    | intro _
theorem memOk_stopInval {d : Dev} {box : Nat} (h_d : MemOk d) :
    MemOk (Dev.stopInval d box) := by
  unfold Dev.stopInval
  try dsimp only
  repeat' first
    | with_reducible assumption
    | simp only [mk_iff, line_iff, lineMk_iff, wf_iff]
theorem memOk_abortsBoundary {d : Dev} (h_d : MemOk d) :
    MemOk (Dev.abortsBoundary d) := by
  unfold Dev.abortsBoundary
  try dsimp only
  repeat' first
    | with_reducible assumption
    | simp only [mk_iff, line_iff, lineMk_iff, wf_iff]
    | with_reducible apply memOk_endBgRet
    | with_reducible apply memOk_modJob
    | with_reducible apply memOk_stopInval
    | with_reducible apply each_ok
    | intro _
    | split
theorem memOk_execGetTimestamp {iss : Issuer} {inp : List Byte} {s t : State} (h_s : MemOk s.dev) (hr : execGetTimestamp iss inp s = .next t) :
    MemOk t.dev := by
  unfold execGetTimestamp ok at hr
  cases hr
  show MemOk _
  repeat' first
    | with_reducible assumption
    | simp only [mk_iff, line_iff, lineMk_iff, wf_iff]
    | with_reducible apply memOk_answerStd
    | with_reducible apply memOk_command
    | with_reducible apply memOk_noInput
    | intro _
theorem memOk_setTimestamp {d : Dev} {iss : Issuer} {inp : List Byte} (h_d : MemOk d) :
    MemOk (Dev.setTimestamp d iss inp) := by
  unfold Dev.setTimestamp
  try dsimp only
  repeat' first
    | with_reducible assumption
    | simp only [mk_iff, line_iff, lineMk_iff, wf_iff]
    | with_reducible apply memOk_answerStd
    | with_reducible apply memOk_sized
    | intro _
theorem memOk_execSetTimestamp {iss : Issuer} {inp : List Byte} {s t : State} (h_s : MemOk s.dev) (hr : execSetTimestamp iss inp s = .next t) :
    MemOk t.dev := by
  unfold execSetTimestamp ok at hr
  cases hr
  show MemOk _
  repeat' first
    | with_reducible assumption
    | simp only [mk_iff, line_iff, lineMk_iff, wf_iff]
    | with_reducible apply memOk_command
    | with_reducible apply memOk_setTimestamp
    | intro _
theorem memOk_supportedLogs {d : Dev} {iss : Issuer} {inp : List Byte} (h_d : MemOk d) :
    MemOk (Dev.supportedLogs d iss inp) := by
  unfold Dev.supportedLogs
  try dsimp only
  repeat' first
    | with_reducible assumption
    | with_reducible apply memOk_answerStd
    | with_reducible apply memOk_noInput
    | intro _
theorem memOk_execGetSupportedLogs {iss : Issuer} {inp : List Byte} {s t : State} (h_s : MemOk s.dev) (hr : execGetSupportedLogs iss inp s = .next t) :
    MemOk t.dev := by
  unfold execGetSupportedLogs ok at hr
  cases hr
  show MemOk _
  repeat' first
    | with_reducible assumption
    | simp only [mk_iff, line_iff, lineMk_iff, wf_iff]
    | with_reducible apply memOk_command
    | with_reducible apply memOk_supportedLogs
    | intro _
theorem memOk_getLog {d : Dev} {iss : Issuer} {inp : List Byte} (h_d : MemOk d) :
    MemOk (Dev.getLog d iss inp) := by
  unfold Dev.getLog
  try dsimp only
  repeat' first
    | with_reducible assumption
    | with_reducible apply memOk_answerStd
    | with_reducible apply memOk_sized
    | intro _
    | split
theorem memOk_execGetLog {iss : Issuer} {inp : List Byte} {s t : State} (h_s : MemOk s.dev) (hr : execGetLog iss inp s = .next t) :
    MemOk t.dev := by
  unfold execGetLog ok at hr
  cases hr
  show MemOk _
  repeat' first
    | with_reducible assumption
    | simp only [mk_iff, line_iff, lineMk_iff, wf_iff]
    | with_reducible apply memOk_command
    | with_reducible apply memOk_getLog
    | intro _
theorem memOk_execGetSupportedFeatures {iss : Issuer} {inp : List Byte} {s t : State} (h_s : MemOk s.dev) (hr : execGetSupportedFeatures iss inp s = .next t) :
    MemOk t.dev := by
  unfold execGetSupportedFeatures ok at hr
  cases hr
  show MemOk _
  repeat' first
    | with_reducible assumption
    | simp only [mk_iff, line_iff, lineMk_iff, wf_iff]
    | with_reducible apply memOk_answerStd
    | with_reducible apply memOk_command
    | with_reducible apply memOk_sized
    | intro _
    | split
theorem memOk_execGetFeature {iss : Issuer} {inp : List Byte} {s t : State} (h_s : MemOk s.dev) (hr : execGetFeature iss inp s = .next t) :
    MemOk t.dev := by
  unfold execGetFeature ok at hr
  cases hr
  show MemOk _
  repeat' first
    | with_reducible assumption
    | simp only [mk_iff, line_iff, lineMk_iff, wf_iff]
    | with_reducible apply memOk_answerStd
    | with_reducible apply memOk_command
    | with_reducible apply memOk_sized
    | intro _
theorem memOk_execSetFeature {iss : Issuer} {inp : List Byte} {s t : State} (h_s : MemOk s.dev) (hr : execSetFeature iss inp s = .next t) :
    MemOk t.dev := by
  unfold execSetFeature ok at hr
  cases hr
  show MemOk _
  repeat' first
    | with_reducible assumption
    | simp only [mk_iff, line_iff, lineMk_iff, wf_iff]
    | with_reducible apply memOk_answerStd
    | with_reducible apply memOk_command
    | intro _
    | split
theorem memOk_identifyMemory {d : Dev} {iss : Issuer} {inp : List Byte} (h_d : MemOk d) :
    MemOk (Dev.identifyMemory d iss inp) := by
  unfold Dev.identifyMemory
  try dsimp only
  repeat' first
    | with_reducible assumption
    | with_reducible apply memOk_answerStd
    | with_reducible apply memOk_noInput
    | intro _
theorem memOk_execIdentifyMemoryDevice {iss : Issuer} {inp : List Byte} {s t : State} (h_s : MemOk s.dev) (hr : execIdentifyMemoryDevice iss inp s = .next t) :
    MemOk t.dev := by
  unfold execIdentifyMemoryDevice ok at hr
  cases hr
  show MemOk _
  repeat' first
    | with_reducible assumption
    | simp only [mk_iff, line_iff, lineMk_iff, wf_iff]
    | with_reducible apply memOk_command
    | with_reducible apply memOk_identifyMemory
    | intro _
theorem memOk_health {d : Dev} {iss : Issuer} {inp : List Byte} (h_d : MemOk d) :
    MemOk (Dev.health d iss inp) := by
  unfold Dev.health
  try dsimp only
  repeat' first
    | with_reducible assumption
    | with_reducible apply memOk_free
    | with_reducible apply memOk_answerStd
    | with_reducible apply memOk_noInput
    | intro _
theorem memOk_execGetHealthInfo {iss : Issuer} {inp : List Byte} {s t : State} (h_s : MemOk s.dev) (hr : execGetHealthInfo iss inp s = .next t) :
    MemOk t.dev := by
  unfold execGetHealthInfo ok at hr
  cases hr
  show MemOk _
  repeat' first
    | with_reducible assumption
    | simp only [mk_iff, line_iff, lineMk_iff, wf_iff]
    | with_reducible apply memOk_command
    | with_reducible apply memOk_health
    | intro _
theorem memOk_getAlerts {d : Dev} {iss : Issuer} {inp : List Byte} (h_d : MemOk d) :
    MemOk (Dev.getAlerts d iss inp) := by
  unfold Dev.getAlerts
  try dsimp only
  repeat' first
    | with_reducible assumption
    | with_reducible apply memOk_answerStd
    | with_reducible apply memOk_noInput
    | intro _
theorem memOk_execGetAlertConfiguration {iss : Issuer} {inp : List Byte} {s t : State} (h_s : MemOk s.dev) (hr : execGetAlertConfiguration iss inp s = .next t) :
    MemOk t.dev := by
  unfold execGetAlertConfiguration ok at hr
  cases hr
  show MemOk _
  repeat' first
    | with_reducible assumption
    | simp only [mk_iff, line_iff, lineMk_iff, wf_iff]
    | with_reducible apply memOk_command
    | with_reducible apply memOk_getAlerts
    | intro _
theorem memOk_setAlerts {d : Dev} {iss : Issuer} {inp : List Byte} (h_d : MemOk d) :
    MemOk (Dev.setAlerts d iss inp) := by
  unfold Dev.setAlerts
  try dsimp only
  repeat' first
    | with_reducible assumption
    | simp only [mk_iff, line_iff, lineMk_iff, wf_iff]
    | with_reducible apply memOk_answerStd
    | with_reducible apply memOk_sized
    | intro _
    | split
theorem memOk_execSetAlertConfiguration {iss : Issuer} {inp : List Byte} {s t : State} (h_s : MemOk s.dev) (hr : execSetAlertConfiguration iss inp s = .next t) :
    MemOk t.dev := by
  unfold execSetAlertConfiguration ok at hr
  cases hr
  show MemOk _
  repeat' first
    | with_reducible assumption
    | simp only [mk_iff, line_iff, lineMk_iff, wf_iff]
    | with_reducible apply memOk_command
    | with_reducible apply memOk_setAlerts
    | intro _
theorem memOk_poisonList {d : Dev} {iss : Issuer} {inp : List Byte} (h_d : MemOk d) :
    MemOk (Dev.poisonList d iss inp) := by
  unfold Dev.poisonList
  try dsimp only
  repeat' first
    | with_reducible assumption
    | with_reducible apply memOk_answerStd
    | with_reducible apply memOk_aboutLd
    | with_reducible apply memOk_sized
    | intro _
    | split
theorem memOk_execGetPoisonList {iss : Issuer} {inp : List Byte} {s t : State} (h_s : MemOk s.dev) (hr : execGetPoisonList iss inp s = .next t) :
    MemOk t.dev := by
  unfold execGetPoisonList ok at hr
  cases hr
  show MemOk _
  repeat' first
    | with_reducible assumption
    | simp only [mk_iff, line_iff, lineMk_iff, wf_iff]
    | with_reducible apply memOk_command
    | with_reducible apply memOk_poisonList
    | intro _
theorem memOk_placeLine {d : Dev} {iss : Issuer} {ld dpa : Nat} {x : Option Line} (h_d : MemOk d) :
    MemOk (Dev.placeLine d iss ld dpa x) := by
  unfold Dev.placeLine
  try dsimp only
  repeat' first
    | with_reducible assumption
    | with_reducible apply memOk_answerStd
    | with_reducible (apply memOk_jobWrite (hr := by assumption))
    | split
theorem memOk_injectPoison {d : Dev} {iss : Issuer} {inp : List Byte} (h_d : MemOk d) :
    MemOk (Dev.injectPoison d iss inp) := by
  unfold Dev.injectPoison
  try dsimp only
  repeat' first
    | with_reducible assumption
    | with_reducible apply memOk_answerStd
    | with_reducible apply memOk_aboutLd
    | with_reducible apply memOk_sized
    | with_reducible apply memOk_placeLine
    | intro _
    | split
theorem memOk_execInjectPoison {iss : Issuer} {inp : List Byte} {s t : State} (h_s : MemOk s.dev) (hr : execInjectPoison iss inp s = .next t) :
    MemOk t.dev := by
  unfold execInjectPoison ok at hr
  cases hr
  show MemOk _
  repeat' first
    | with_reducible assumption
    | simp only [mk_iff, line_iff, lineMk_iff, wf_iff]
    | with_reducible apply memOk_command
    | with_reducible apply memOk_injectPoison
    | intro _
theorem memOk_clearPoison {d : Dev} {iss : Issuer} {inp : List Byte} (h_d : MemOk d) :
    MemOk (Dev.clearPoison d iss inp) := by
  unfold Dev.clearPoison
  try dsimp only
  repeat' first
    | with_reducible assumption
    | with_reducible apply memOk_answerStd
    | with_reducible apply memOk_aboutLd
    | with_reducible apply memOk_sized
    | with_reducible apply memOk_placeLine
    | intro _
    | split
theorem memOk_execClearPoison {iss : Issuer} {inp : List Byte} {s t : State} (h_s : MemOk s.dev) (hr : execClearPoison iss inp s = .next t) :
    MemOk t.dev := by
  unfold execClearPoison ok at hr
  cases hr
  show MemOk _
  repeat' first
    | with_reducible assumption
    | simp only [mk_iff, line_iff, lineMk_iff, wf_iff]
    | with_reducible apply memOk_command
    | with_reducible apply memOk_clearPoison
    | intro _
theorem memOk_sanitizeLd {d : Dev} {iss : Issuer} {inp : List Byte} (h_d : MemOk d) :
    MemOk (Dev.sanitizeLd d iss inp) := by
  unfold Dev.sanitizeLd
  try dsimp only
  repeat' first
    | with_reducible assumption
    | with_reducible apply memOk_answerStd
    | with_reducible apply memOk_startBg
    | with_reducible apply memOk_queueJob
    | with_reducible apply memOk_aboutLd
    | with_reducible apply memOk_noInput
    | intro _
    | split
theorem memOk_execSanitizeCommand {iss : Issuer} {inp : List Byte} {s t : State} (h_s : MemOk s.dev) (hr : execSanitizeCommand iss inp s = .next t) :
    MemOk t.dev := by
  unfold execSanitizeCommand ok at hr
  cases hr
  show MemOk _
  repeat' first
    | with_reducible assumption
    | simp only [mk_iff, line_iff, lineMk_iff, wf_iff]
    | with_reducible apply memOk_command
    | with_reducible apply memOk_sanitizeLd
    | intro _
theorem memOk_fmOwned {d : Dev} {iss : Issuer} {f : Nat → Dev} (h_d : MemOk d) (h_f : ∀ (x0 : Nat), MemOk (f x0)) :
    MemOk (Dev.fmOwned d iss f) := by
  unfold Dev.fmOwned
  try dsimp only
  repeat' first
    | with_reducible assumption
    | with_reducible apply h_f
    | with_reducible apply memOk_answerStd
    | split
theorem memOk_ldInfo {d : Dev} {iss : Issuer} {inp : List Byte} (h_d : MemOk d) :
    MemOk (Dev.ldInfo d iss inp) := by
  unfold Dev.ldInfo
  try dsimp only
  repeat' first
    | with_reducible assumption
    | with_reducible apply memOk_free
    | with_reducible apply memOk_answerStd
    | with_reducible apply memOk_noInput
    | with_reducible apply memOk_fmOwned
    | intro _
theorem memOk_execGetLdInfo {iss : Issuer} {inp : List Byte} {s t : State} (h_s : MemOk s.dev) (hr : execGetLdInfo iss inp s = .next t) :
    MemOk t.dev := by
  unfold execGetLdInfo ok at hr
  cases hr
  show MemOk _
  repeat' first
    | with_reducible assumption
    | simp only [mk_iff, line_iff, lineMk_iff, wf_iff]
    | with_reducible apply memOk_command
    | with_reducible apply memOk_ldInfo
    | intro _
theorem memOk_getAllocations {d : Dev} {iss : Issuer} {inp : List Byte} (h_d : MemOk d) :
    MemOk (Dev.getAllocations d iss inp) := by
  unfold Dev.getAllocations
  try dsimp only
  repeat' first
    | with_reducible assumption
    | with_reducible apply memOk_answerStd
    | with_reducible apply memOk_sized
    | with_reducible apply memOk_fmOwned
    | intro _
theorem memOk_execGetLdAllocations {iss : Issuer} {inp : List Byte} {s t : State} (h_s : MemOk s.dev) (hr : execGetLdAllocations iss inp s = .next t) :
    MemOk t.dev := by
  unfold execGetLdAllocations ok at hr
  cases hr
  show MemOk _
  repeat' first
    | with_reducible assumption
    | simp only [mk_iff, line_iff, lineMk_iff, wf_iff]
    | with_reducible apply memOk_command
    | with_reducible apply memOk_getAllocations
    | intro _
theorem memOk_setList {d : Dev} {iss : Issuer} {inp : List Byte} {l n skip : Nat} {get : HLink → List Byte} {put : HLink → List Byte → HLink} (h_d : MemOk d) :
    MemOk (Dev.setList d iss inp l n skip get put) := by
  unfold Dev.setList
  try dsimp only
  repeat' first
    | with_reducible assumption
    | with_reducible apply memOk_modLink
    | with_reducible apply memOk_answerStd
    | split
theorem memOk_execSetLdAllocations {iss : Issuer} {inp : List Byte} {s t : State} (h_s : MemOk s.dev) (hr : execSetLdAllocations iss inp s = .next t) :
    MemOk t.dev := by
  unfold execSetLdAllocations ok at hr
  cases hr
  show MemOk _
  repeat' first
    | with_reducible assumption
    | simp only [mk_iff, line_iff, lineMk_iff, wf_iff]
    | with_reducible apply memOk_command
    | with_reducible apply memOk_fmOwned
    | with_reducible apply memOk_setList
    | intro _
theorem memOk_execGetQosControl {iss : Issuer} {inp : List Byte} {s t : State} (h_s : MemOk s.dev) (hr : execGetQosControl iss inp s = .next t) :
    MemOk t.dev := by
  unfold execGetQosControl ok at hr
  cases hr
  show MemOk _
  repeat' first
    | with_reducible assumption
    | simp only [mk_iff, line_iff, lineMk_iff, wf_iff]
    | with_reducible apply memOk_answerStd
    | with_reducible apply memOk_command
    | with_reducible apply memOk_noInput
    | with_reducible apply memOk_fmOwned
    | intro _
theorem memOk_setQos {d : Dev} {iss : Issuer} {inp : List Byte} {l : Nat} (h_d : MemOk d) :
    MemOk (Dev.setQos d iss inp l) := by
  unfold Dev.setQos
  try dsimp only
  repeat' first
    | with_reducible assumption
    | with_reducible apply memOk_modLink
    | with_reducible apply memOk_answerStd
    | with_reducible apply memOk_sized
    | intro _
    | split
theorem memOk_execSetQosControl {iss : Issuer} {inp : List Byte} {s t : State} (h_s : MemOk s.dev) (hr : execSetQosControl iss inp s = .next t) :
    MemOk t.dev := by
  unfold execSetQosControl ok at hr
  cases hr
  show MemOk _
  repeat' first
    | with_reducible assumption
    | simp only [mk_iff, line_iff, lineMk_iff, wf_iff]
    | with_reducible apply memOk_command
    | with_reducible apply memOk_fmOwned
    | with_reducible apply memOk_setQos
    | intro _
theorem memOk_qosStatus {d : Dev} {iss : Issuer} {inp : List Byte} (h_d : MemOk d) :
    MemOk (Dev.qosStatus d iss inp) := by
  unfold Dev.qosStatus
  try dsimp only
  repeat' first
    | with_reducible assumption
    | with_reducible apply memOk_free
    | with_reducible apply memOk_answerStd
    | with_reducible apply memOk_noInput
    | with_reducible apply memOk_fmOwned
    | intro _
theorem memOk_execGetQosStatus {iss : Issuer} {inp : List Byte} {s t : State} (h_s : MemOk s.dev) (hr : execGetQosStatus iss inp s = .next t) :
    MemOk t.dev := by
  unfold execGetQosStatus ok at hr
  cases hr
  show MemOk _
  repeat' first
    | with_reducible assumption
    | simp only [mk_iff, line_iff, lineMk_iff, wf_iff]
    | with_reducible apply memOk_command
    | with_reducible apply memOk_qosStatus
    | intro _
theorem memOk_someLds {d : Dev} {iss : Issuer} {inp : List Byte} {l : Nat} {f : Nat → Nat → Dev} (h_d : MemOk d) (h_f : ∀ (x0 : Nat) (x1 : Nat), MemOk (f x0 x1)) :
    MemOk (Dev.someLds d iss inp l f) := by
  unfold Dev.someLds
  try dsimp only
  repeat' first
    | with_reducible assumption
    | with_reducible apply h_f
    | with_reducible apply memOk_answerStd
    | with_reducible apply memOk_sized
    | intro _
    | split
theorem memOk_execGetQosAllocatedBw {iss : Issuer} {inp : List Byte} {s t : State} (h_s : MemOk s.dev) (hr : execGetQosAllocatedBw iss inp s = .next t) :
    MemOk t.dev := by
  unfold execGetQosAllocatedBw ok at hr
  cases hr
  show MemOk _
  repeat' first
    | with_reducible assumption
    | simp only [mk_iff, line_iff, lineMk_iff, wf_iff]
    | with_reducible apply memOk_answerStd
    | with_reducible apply memOk_command
    | with_reducible apply memOk_fmOwned
    | with_reducible apply memOk_someLds
    | intro _
theorem memOk_execSetQosAllocatedBw {iss : Issuer} {inp : List Byte} {s t : State} (h_s : MemOk s.dev) (hr : execSetQosAllocatedBw iss inp s = .next t) :
    MemOk t.dev := by
  unfold execSetQosAllocatedBw ok at hr
  cases hr
  show MemOk _
  repeat' first
    | with_reducible assumption
    | simp only [mk_iff, line_iff, lineMk_iff, wf_iff]
    | with_reducible apply memOk_command
    | with_reducible apply memOk_fmOwned
    | with_reducible apply memOk_setList
    | intro _
theorem memOk_execGetQosBwLimit {iss : Issuer} {inp : List Byte} {s t : State} (h_s : MemOk s.dev) (hr : execGetQosBwLimit iss inp s = .next t) :
    MemOk t.dev := by
  unfold execGetQosBwLimit ok at hr
  cases hr
  show MemOk _
  repeat' first
    | with_reducible assumption
    | simp only [mk_iff, line_iff, lineMk_iff, wf_iff]
    | with_reducible apply memOk_answerStd
    | with_reducible apply memOk_command
    | with_reducible apply memOk_fmOwned
    | with_reducible apply memOk_someLds
    | intro _
theorem memOk_setBwLimits {d : Dev} {iss : Issuer} {inp : List Byte} {l : Nat} (h_d : MemOk d) :
    MemOk (Dev.setBwLimits d iss inp l) := by
  unfold Dev.setBwLimits
  try dsimp only
  repeat' first
    | with_reducible assumption
    | with_reducible apply memOk_modLd
    | with_reducible apply memOk_answerStd
    | with_reducible apply each_ok
    | intro _
    | split
theorem memOk_execSetQosBwLimit {iss : Issuer} {inp : List Byte} {s t : State} (h_s : MemOk s.dev) (hr : execSetQosBwLimit iss inp s = .next t) :
    MemOk t.dev := by
  unfold execSetQosBwLimit ok at hr
  cases hr
  show MemOk _
  repeat' first
    | with_reducible assumption
    | simp only [mk_iff, line_iff, lineMk_iff, wf_iff]
    | with_reducible apply memOk_command
    | with_reducible apply memOk_fmOwned
    | with_reducible apply memOk_setBwLimits
    | intro _
theorem memOk_tetherPort {d : Dev} {iss : Issuer} {inp : List Byte} (h_d : MemOk d) :
    MemOk (Dev.tetherPort d iss inp) := by
  unfold Dev.tetherPort
  try dsimp only
  repeat' first
    | with_reducible assumption
    | with_reducible apply memOk_reply
    | with_reducible apply memOk_refuse
    | with_reducible apply memOk_badLength
    | split
theorem memOk_execTetherPort {iss : Issuer} {inp : List Byte} {s t : State} (h_s : MemOk s.dev) (hr : execTetherPort iss inp s = .next t) :
    MemOk t.dev := by
  unfold execTetherPort ok at hr
  cases hr
  show MemOk _
  repeat' first
    | with_reducible assumption
    | simp only [mk_iff, line_iff, lineMk_iff, wf_iff]
    | with_reducible apply memOk_command
    | with_reducible apply memOk_tetherPort
    | intro _
theorem memOk_tetherChain {d : Dev} {iss : Issuer} {inp : List Byte} (h_d : MemOk d) :
    MemOk (Dev.tetherChain d iss inp) := by
  unfold Dev.tetherChain
  try dsimp only
  repeat' first
    | with_reducible assumption
    | with_reducible apply memOk_reply
    | with_reducible apply memOk_badLength
    | split
theorem memOk_execTetherChain {iss : Issuer} {inp : List Byte} {s t : State} (h_s : MemOk s.dev) (hr : execTetherChain iss inp s = .next t) :
    MemOk t.dev := by
  unfold execTetherChain ok at hr
  cases hr
  show MemOk _
  repeat' first
    | with_reducible assumption
    | simp only [mk_iff, line_iff, lineMk_iff, wf_iff]
    | with_reducible apply memOk_command
    | with_reducible apply memOk_tetherChain
    | intro _
theorem memOk_diagUnlock {d : Dev} {iss : Issuer} {inp : List Byte} (h_d : MemOk d) :
    MemOk (Dev.diagUnlock d iss inp) := by
  unfold Dev.diagUnlock
  try dsimp only
  repeat' first
    | with_reducible assumption
    | simp only [mk_iff, line_iff, lineMk_iff, wf_iff]
    | with_reducible apply memOk_raiseAlways
    | with_reducible apply memOk_reply
    | with_reducible apply memOk_refuse
    | with_reducible apply memOk_badLength
    | split
theorem memOk_execDiagUnlock {iss : Issuer} {inp : List Byte} {s t : State} (h_s : MemOk s.dev) (hr : execDiagUnlock iss inp s = .next t) :
    MemOk t.dev := by
  unfold execDiagUnlock ok at hr
  cases hr
  show MemOk _
  repeat' first
    | with_reducible assumption
    | simp only [mk_iff, line_iff, lineMk_iff, wf_iff]
    | with_reducible apply memOk_command
    | with_reducible apply memOk_diagUnlock
    | intro _
theorem memOk_diagLock {d : Dev} {iss : Issuer} {inp : List Byte} (h_d : MemOk d) :
    MemOk (Dev.diagLock d iss inp) := by
  unfold Dev.diagLock
  try dsimp only
  repeat' first
    | with_reducible assumption
    | simp only [mk_iff, line_iff, lineMk_iff, wf_iff]
    | with_reducible apply memOk_reply
    | with_reducible apply memOk_badLength
    | split
theorem memOk_execDiagLock {iss : Issuer} {inp : List Byte} {s t : State} (h_s : MemOk s.dev) (hr : execDiagLock iss inp s = .next t) :
    MemOk t.dev := by
  unfold execDiagLock ok at hr
  cases hr
  show MemOk _
  repeat' first
    | with_reducible assumption
    | simp only [mk_iff, line_iff, lineMk_iff, wf_iff]
    | with_reducible apply memOk_command
    | with_reducible apply memOk_diagLock
    | intro _
theorem memOk_diagExpires {d : Dev} (h_d : MemOk d) :
    MemOk (Dev.diagExpires d) := by
  unfold Dev.diagExpires
  try dsimp only
  repeat' first
    | with_reducible assumption
    | simp only [mk_iff, line_iff, lineMk_iff, wf_iff]
    | split
theorem memOk_execDiagUnlockExpiry  {s t : State} (h_s : MemOk s.dev) (hr : execDiagUnlockExpiry s = .next t) :
    MemOk t.dev := by
  unfold execDiagUnlockExpiry ok at hr
  cases hr
  show MemOk _
  repeat' first
    | with_reducible assumption
    | simp only [mk_iff, line_iff, lineMk_iff, wf_iff]
    | with_reducible apply memOk_diagExpires
theorem memOk_unknownOpcode {d : Dev} {iss : Issuer} {opcode : Nat} (h_d : MemOk d) :
    MemOk (Dev.unknownOpcode d iss opcode) := by
  unfold Dev.unknownOpcode
  try dsimp only
  repeat' first
    | with_reducible assumption
    | with_reducible apply memOk_refuse
    | with_reducible apply memOk_answerStd
    | split
theorem memOk_execUnsupportedOpcode {iss : Issuer} {opcode : BitVec 16} {_inp : List Byte} {s t : State} (h_s : MemOk s.dev) (hr : execUnsupportedOpcode iss opcode _inp s = .next t) :
    MemOk t.dev := by
  unfold execUnsupportedOpcode ok at hr
  cases hr
  show MemOk _
  repeat' first
    | with_reducible assumption
    | simp only [mk_iff, line_iff, lineMk_iff, wf_iff]
    | with_reducible apply memOk_command
    | with_reducible apply memOk_unknownOpcode
    | intro _
    | split
theorem memOk_readBeatLo {d : Dev} {box : Nat} (h_d : MemOk d) :
    MemOk (Dev.readBeatLo d box) := by
  unfold Dev.readBeatLo
  try dsimp only
  repeat' first
    | with_reducible assumption
    | with_reducible apply memOk_modBox
    | with_reducible apply memOk_say
    | split
theorem memOk_execBeatLoRead {ld : Fin 32} {box : Box} {s t : State} (h_s : MemOk s.dev) (hr : execBeatLoRead ld box s = .next t) :
    MemOk t.dev := by
  unfold execBeatLoRead ok at hr
  cases hr
  show MemOk _
  repeat' first
    | with_reducible assumption
    | simp only [mk_iff, line_iff, lineMk_iff, wf_iff]
    | with_reducible apply memOk_readBeatLo
theorem memOk_readPendingLo {d : Dev} {box : Nat} (h_d : MemOk d) :
    MemOk (Dev.readPendingLo d box) := by
  unfold Dev.readPendingLo
  try dsimp only
  repeat' first
    | with_reducible assumption
    | with_reducible apply memOk_modBox
    | with_reducible apply memOk_say
    | split
theorem memOk_execPendingLoRead {ld : Fin 32} {box : Box} {s t : State} (h_s : MemOk s.dev) (hr : execPendingLoRead ld box s = .next t) :
    MemOk t.dev := by
  unfold execPendingLoRead ok at hr
  cases hr
  show MemOk _
  repeat' first
    | with_reducible assumption
    | simp only [mk_iff, line_iff, lineMk_iff, wf_iff]
    | with_reducible apply memOk_readPendingLo
theorem memOk_writePayload {d : Dev} {box off : Nat} {v : List Byte} (h_d : MemOk d) :
    MemOk (Dev.writePayload d box off v) := by
  unfold Dev.writePayload
  try dsimp only
  repeat' first
    | with_reducible assumption
    | with_reducible apply memOk_modBox
theorem memOk_writeCommand {d : Dev} {box off : Nat} {v : List Byte} (h_d : MemOk d) :
    MemOk (Dev.writeCommand d box off v) := by
  unfold Dev.writeCommand
  try dsimp only
  repeat' first
    | with_reducible assumption
    | with_reducible apply memOk_modBox
theorem memOk_writeVector {d : Dev} {ld v off : Nat} {b : List Byte} (h_d : MemOk d) :
    MemOk (Dev.writeVector d ld v off b) := by
  unfold Dev.writeVector
  try dsimp only
  repeat' first
    | with_reducible assumption
    | with_reducible apply memOk_setVec
    | with_reducible apply memOk_unmask
    | split
theorem memOk_writeAer {d : Dev} {ld off : Nat} {v : BitVec 32} (h_d : MemOk d) :
    MemOk (Dev.writeAer d ld off v) := by
  unfold Dev.writeAer
  try dsimp only
  repeat' first
    | with_reducible assumption
    | with_reducible apply memOk_modLink
    | split
theorem memOk_writeReg {d : Dev} {ld : Nat} {r : Reg} (h_d : MemOk d) :
    MemOk (Dev.writeReg d ld r) := by
  unfold Dev.writeReg
  try dsimp only
  repeat' first
    | with_reducible assumption
    | with_reducible apply memOk_modLd
    | with_reducible apply memOk_writePayload
    | with_reducible apply memOk_writeCommand
    | with_reducible apply memOk_writeVector
    | with_reducible apply memOk_writeAer
    | split
theorem memOk_execRegisterWrite {ld : Fin 32} {reg : Reg} {s t : State} (h_s : MemOk s.dev) (hr : execRegisterWrite ld reg s = .next t) :
    MemOk t.dev := by
  unfold execRegisterWrite ok at hr
  cases hr
  show MemOk _
  repeat' first
    | with_reducible assumption
    | simp only [mk_iff, line_iff, lineMk_iff, wf_iff]
    | with_reducible apply memOk_settle
    | with_reducible apply memOk_writeReg
theorem memOk_opcode {d : Dev} {iss : Issuer} {opcode : Nat} {inp : List Byte} (h_d : MemOk d) :
    MemOk (Dev.opcode d iss opcode inp) := by
  unfold Dev.opcode
  split
  · rename_i t hr
    unfold runOpcode at hr
    split at hr
    · exact memOk_execIdentify (s := (⟨d, []⟩ : State)) h_d hr
    · exact memOk_execBackgroundOperationStatus (s := (⟨d, []⟩ : State)) h_d hr
    · exact memOk_execGetResponseMessageLimit (s := (⟨d, []⟩ : State)) h_d hr
    · exact memOk_execSetResponseMessageLimit (s := (⟨d, []⟩ : State)) h_d hr
    · exact memOk_execRequestAbortBackgroundOperation (s := (⟨d, []⟩ : State)) h_d hr
    · exact memOk_execGetEventRecords (s := (⟨d, []⟩ : State)) h_d hr
    · exact memOk_execClearEventRecords (s := (⟨d, []⟩ : State)) h_d hr
    · exact memOk_execGetEventInterruptPolicy (s := (⟨d, []⟩ : State)) h_d hr
    · exact memOk_execSetEventInterruptPolicy (s := (⟨d, []⟩ : State)) h_d hr
    · exact memOk_execGetMctpEventInterruptPolicy (s := (⟨d, []⟩ : State)) h_d hr
    · exact memOk_execSetMctpEventInterruptPolicy (s := (⟨d, []⟩ : State)) h_d hr
    · exact memOk_execEventNotification (s := (⟨d, []⟩ : State)) h_d hr
    · exact memOk_execGetFwInfo (s := (⟨d, []⟩ : State)) h_d hr
    · exact memOk_execTransferFw (s := (⟨d, []⟩ : State)) h_d hr
    · exact memOk_execActivateFw (s := (⟨d, []⟩ : State)) h_d hr
    · exact memOk_execGetTimestamp (s := (⟨d, []⟩ : State)) h_d hr
    · exact memOk_execSetTimestamp (s := (⟨d, []⟩ : State)) h_d hr
    · exact memOk_execGetSupportedLogs (s := (⟨d, []⟩ : State)) h_d hr
    · exact memOk_execGetLog (s := (⟨d, []⟩ : State)) h_d hr
    · exact memOk_execGetSupportedFeatures (s := (⟨d, []⟩ : State)) h_d hr
    · exact memOk_execGetFeature (s := (⟨d, []⟩ : State)) h_d hr
    · exact memOk_execSetFeature (s := (⟨d, []⟩ : State)) h_d hr
    · exact memOk_execIdentifyMemoryDevice (s := (⟨d, []⟩ : State)) h_d hr
    · exact memOk_execGetHealthInfo (s := (⟨d, []⟩ : State)) h_d hr
    · exact memOk_execGetAlertConfiguration (s := (⟨d, []⟩ : State)) h_d hr
    · exact memOk_execSetAlertConfiguration (s := (⟨d, []⟩ : State)) h_d hr
    · exact memOk_execGetPoisonList (s := (⟨d, []⟩ : State)) h_d hr
    · exact memOk_execInjectPoison (s := (⟨d, []⟩ : State)) h_d hr
    · exact memOk_execClearPoison (s := (⟨d, []⟩ : State)) h_d hr
    · exact memOk_execSanitizeCommand (s := (⟨d, []⟩ : State)) h_d hr
    · exact memOk_execGetDynamicCapacityConfiguration (s := (⟨d, []⟩ : State)) h_d hr
    · exact memOk_execGetDynamicCapacityExtentList (s := (⟨d, []⟩ : State)) h_d hr
    · exact memOk_execAddDynamicCapacityResponse (s := (⟨d, []⟩ : State)) h_d hr
    · exact memOk_execReleaseDynamicCapacity (s := (⟨d, []⟩ : State)) h_d hr
    · exact memOk_execGetLdInfo (s := (⟨d, []⟩ : State)) h_d hr
    · exact memOk_execGetLdAllocations (s := (⟨d, []⟩ : State)) h_d hr
    · exact memOk_execSetLdAllocations (s := (⟨d, []⟩ : State)) h_d hr
    · exact memOk_execGetQosControl (s := (⟨d, []⟩ : State)) h_d hr
    · exact memOk_execSetQosControl (s := (⟨d, []⟩ : State)) h_d hr
    · exact memOk_execGetQosStatus (s := (⟨d, []⟩ : State)) h_d hr
    · exact memOk_execGetQosAllocatedBw (s := (⟨d, []⟩ : State)) h_d hr
    · exact memOk_execSetQosAllocatedBw (s := (⟨d, []⟩ : State)) h_d hr
    · exact memOk_execGetQosBwLimit (s := (⟨d, []⟩ : State)) h_d hr
    · exact memOk_execSetQosBwLimit (s := (⟨d, []⟩ : State)) h_d hr
    · exact memOk_execSheetOpen (s := (⟨d, []⟩ : State)) h_d hr
    · exact memOk_execSheetSet (s := (⟨d, []⟩ : State)) h_d hr
    · exact memOk_execSheetRead (s := (⟨d, []⟩ : State)) h_d hr
    · exact memOk_execSheetCheck (s := (⟨d, []⟩ : State)) h_d hr
    · exact memOk_execSheetCinch (s := (⟨d, []⟩ : State)) h_d hr
    · exact memOk_execSheetSlip (s := (⟨d, []⟩ : State)) h_d hr
    · exact memOk_execRegionStage (s := (⟨d, []⟩ : State)) h_d hr
    · exact memOk_execRegionRemove (s := (⟨d, []⟩ : State)) h_d hr
    · exact memOk_execRegionRead (s := (⟨d, []⟩ : State)) h_d hr
    · exact memOk_execPoolAdd (s := (⟨d, []⟩ : State)) h_d hr
    · exact memOk_execPoolRelease (s := (⟨d, []⟩ : State)) h_d hr
    · exact memOk_execJobStatus (s := (⟨d, []⟩ : State)) h_d hr
    · exact memOk_execJobCancel (s := (⟨d, []⟩ : State)) h_d hr
    · exact memOk_execSanitize (s := (⟨d, []⟩ : State)) h_d hr
    · exact memOk_execMigrate (s := (⟨d, []⟩ : State)) h_d hr
    · exact memOk_execCopy (s := (⟨d, []⟩ : State)) h_d hr
    · exact memOk_execFill (s := (⟨d, []⟩ : State)) h_d hr
    · exact memOk_execTier (s := (⟨d, []⟩ : State)) h_d hr
    · exact memOk_execScrub (s := (⟨d, []⟩ : State)) h_d hr
    · exact memOk_execCountRead (s := (⟨d, []⟩ : State)) h_d hr
    · exact memOk_execCountWatch (s := (⟨d, []⟩ : State)) h_d hr
    · exact memOk_execFaultRead (s := (⟨d, []⟩ : State)) h_d hr
    · exact memOk_execFaultPin (s := (⟨d, []⟩ : State)) h_d hr
    · exact memOk_execTetherPort (s := (⟨d, []⟩ : State)) h_d hr
    · exact memOk_execTetherChain (s := (⟨d, []⟩ : State)) h_d hr
    · exact memOk_execSealKeyLoad (s := (⟨d, []⟩ : State)) h_d hr
    · exact memOk_execSealKeyGen (s := (⟨d, []⟩ : State)) h_d hr
    · exact memOk_execSealKeyRetire (s := (⟨d, []⟩ : State)) h_d hr
    · exact memOk_execSealKeyStatus (s := (⟨d, []⟩ : State)) h_d hr
    · exact memOk_execSealReknot (s := (⟨d, []⟩ : State)) h_d hr
    · exact memOk_execSealQuarantine (s := (⟨d, []⟩ : State)) h_d hr
    · exact memOk_execRekey (s := (⟨d, []⟩ : State)) h_d hr
    · exact memOk_execHitchStatus (s := (⟨d, []⟩ : State)) h_d hr
    · exact memOk_execHitchSet (s := (⟨d, []⟩ : State)) h_d hr
    · exact memOk_execModuleReplace (s := (⟨d, []⟩ : State)) h_d hr
    · exact memOk_execPowerEnter (s := (⟨d, []⟩ : State)) h_d hr
    · exact memOk_execPowerStatus (s := (⟨d, []⟩ : State)) h_d hr
    · exact memOk_execPrismStream (s := (⟨d, []⟩ : State)) h_d hr
    · exact memOk_execDiagUnlock (s := (⟨d, []⟩ : State)) h_d hr
    · exact memOk_execDiagLock (s := (⟨d, []⟩ : State)) h_d hr
    · exact memOk_execDiagPoke (s := (⟨d, []⟩ : State)) h_d hr
    · exact memOk_execTableInval (s := (⟨d, []⟩ : State)) h_d hr
    · exact memOk_execGlintStart (s := (⟨d, []⟩ : State)) h_d hr
    · exact memOk_execGlintResult (s := (⟨d, []⟩ : State)) h_d hr
    · simp only [ok] at hr
      cases hr
      apply memOk_command h_d
      intro e he
      exact memOk_unknownOpcode he
  · exact h_d
theorem memOk_takeAnswer {d : Dev} {box before : Nat} (h_d : MemOk d) :
    MemOk (Dev.takeAnswer d box before).2 := by
  unfold Dev.takeAnswer
  try dsimp only
  repeat' first
    | with_reducible assumption
    | simp only [mk_iff, line_iff, lineMk_iff, wf_iff]
    | split
theorem memOk_takeAnswer_eq {d : Dev} {box before : Nat} (h_d : MemOk d) {q0 : Option (Ret × List Byte)} {q1 : Dev} (hr : (Dev.takeAnswer d box before) = (q0, q1)) :
    MemOk q1 := by
  have h : MemOk (Dev.takeAnswer d box before).2 := memOk_takeAnswer h_d
  rw [hr] at h
  exact h
theorem memOk_tunnel {d : Dev} {iss : Issuer} {inp : List Byte} (h_d : MemOk d) :
    MemOk (Dev.tunnel d iss inp) := by
  unfold Dev.tunnel
  try dsimp only
  repeat' first
    | with_reducible assumption
    | with_reducible apply memOk_answerStd
    | with_reducible apply memOk_fmOwned
    | with_reducible apply memOk_opcode
    | with_reducible (apply memOk_takeAnswer_eq (hr := by assumption))
    | intro _
    | split
theorem memOk_execTunnelManagementCommand {iss : Issuer} {inp : List Byte} {s t : State} (h_s : MemOk s.dev) (hr : execTunnelManagementCommand iss inp s = .next t) :
    MemOk t.dev := by
  unfold execTunnelManagementCommand ok at hr
  cases hr
  show MemOk _
  repeat' first
    | with_reducible assumption
    | simp only [mk_iff, line_iff, lineMk_iff, wf_iff]
    | with_reducible apply memOk_command
    | with_reducible apply memOk_tunnel
    | intro _
theorem memOk_anyOpcode {d : Dev} {iss : Issuer} {opcode : Nat} {inp : List Byte} (h_d : MemOk d) :
    MemOk (Dev.anyOpcode d iss opcode inp) := by
  unfold Dev.anyOpcode
  try dsimp only
  repeat' first
    | with_reducible assumption
    | with_reducible apply memOk_command
    | with_reducible apply memOk_opcode
    | with_reducible apply memOk_tunnel
    | intro _
    | split
theorem memOk_ringBox {d : Dev} {ld : Fin 32} {box : Box} (h_d : MemOk d) :
    MemOk (Dev.ringBox d ld box) := by
  unfold Dev.ringBox
  try dsimp only
  repeat' first
    | with_reducible assumption
    | with_reducible apply memOk_anyOpcode
theorem memOk_execMailboxDoorbell {ld : Fin 32} {box : Box} {s t : State} (h_s : MemOk s.dev) (hr : execMailboxDoorbell ld box s = .next t) :
    MemOk t.dev := by
  unfold execMailboxDoorbell ok at hr
  cases hr
  show MemOk _
  repeat' first
    | with_reducible assumption
    | simp only [mk_iff, line_iff, lineMk_iff, wf_iff]
    | with_reducible apply memOk_ringBox
theorem memOk_heldWrites {d : Dev} (h_d : MemOk d) :
    MemOk (Dev.heldWrites d) := by
  unfold Dev.heldWrites
  try dsimp only
  repeat' first
    | with_reducible assumption
    | simp only [mk_iff, line_iff, lineMk_iff, wf_iff]
    | with_reducible apply memOk_anyOpcode
    | with_reducible apply each_ok
    | intro _
    | split
theorem memOk_i3cWrite {d : Dev} {ld : Option (Fin 32)} {opcode : Nat} {inp : List Byte} (h_d : MemOk d) :
    MemOk (Dev.i3cWrite d ld opcode inp) := by
  unfold Dev.i3cWrite
  try dsimp only
  repeat' first
    | with_reducible assumption
    | simp only [mk_iff, line_iff, lineMk_iff, wf_iff]
    | with_reducible apply memOk_say
    | with_reducible apply memOk_wakeEvent
    | with_reducible apply memOk_anyOpcode
    | split
theorem memOk_execI3cPrivateWrite {ld : Option (Fin 32)} {opcode : BitVec 16} {inp : List Byte} {s t : State} (h_s : MemOk s.dev) (hr : execI3cPrivateWrite ld opcode inp s = .next t) :
    MemOk t.dev := by
  unfold execI3cPrivateWrite ok at hr
  cases hr
  show MemOk _
  repeat' first
    | with_reducible assumption
    | simp only [mk_iff, line_iff, lineMk_iff, wf_iff]
    | with_reducible apply memOk_i3cWrite
theorem memOk_execWakeStepReady {untrained : List (Fin 8 × Fin 4)} {s t : State} (h_s : MemOk s.dev) (hr : execWakeStepReady untrained s = .next t) :
    MemOk t.dev := by
  unfold execWakeStepReady ok at hr
  cases hr
  show MemOk _
  repeat' first
    | with_reducible assumption
    | simp only [mk_iff, line_iff, lineMk_iff, wf_iff]
    | with_reducible apply memOk_wakeReady
    | with_reducible apply memOk_heldWrites
theorem memOk_reportLevels {d : Dev} (h_d : MemOk d) :
    MemOk (Dev.reportLevels d) := by
  unfold Dev.reportLevels
  try dsimp only
  repeat' first
    | with_reducible assumption
    | simp only [mk_iff, line_iff, lineMk_iff, wf_iff]
theorem memOk_stepsC1 {d : Dev} (h_d : MemOk d) :
    MemOk (Dev.stepsC1 d) := by
  unfold Dev.stepsC1
  try dsimp only
  repeat' first
    | with_reducible assumption
    | simp only [mk_iff, line_iff, lineMk_iff, wf_iff]
    | with_reducible apply memOk_bumpLd
    | with_reducible apply each_ok
    | intro _
    | split
theorem memOk_ratesC2 {d : Dev} (h_d : MemOk d) :
    MemOk (Dev.ratesC2 d) := by
  unfold Dev.ratesC2
  try dsimp only
  repeat' first
    | with_reducible assumption
    | simp only [mk_iff, line_iff, lineMk_iff, wf_iff]
theorem memOk_setGate {d : Dev} (h_d : MemOk d) :
    MemOk (Dev.setGate d) := by
  unfold Dev.setGate
  try dsimp only
  repeat' first
    | with_reducible assumption
    | simp only [mk_iff, line_iff, lineMk_iff, wf_iff]
theorem memOk_countHeld {d : Dev} {ws : List (Nat × Nat)} (h_d : MemOk d) :
    MemOk (Dev.countHeld d ws) := by
  unfold Dev.countHeld
  try dsimp only
  repeat' first
    | with_reducible assumption
    | with_reducible apply memOk_bumpLd
    | with_reducible apply each_ok
    | intro _
    | split
theorem memOk_regulatorBoundary {d : Dev} (h_d : MemOk d) :
    MemOk (Dev.regulatorBoundary d) := by
  unfold Dev.regulatorBoundary
  try dsimp only
  repeat' first
    | with_reducible assumption
    | simp only [mk_iff, line_iff, lineMk_iff, wf_iff]
    | with_reducible apply memOk_doorbell
    | with_reducible apply memOk_reportLevels
    | with_reducible apply memOk_stepsC1
    | with_reducible apply memOk_ratesC2
    | with_reducible apply memOk_setGate
    | with_reducible apply memOk_countHeld
    | with_reducible apply each_ok
    | intro _
theorem memOk_overload {d : Dev} {label : Nat} (h_d : MemOk d) :
    MemOk (Dev.overload d label) := by
  unfold Dev.overload
  try dsimp only
  repeat' first
    | with_reducible assumption
    | simp only [mk_iff, line_iff, lineMk_iff, wf_iff]
    | with_reducible apply memOk_bumpLd
    | with_reducible apply memOk_raiseAlways
    | with_reducible apply each_ok
    | intro _
    | split
theorem memOk_execOverload {cls : Cls} {group : Fin 64} {s t : State} (h_s : MemOk s.dev) (hr : execOverload cls group s = .next t) :
    MemOk t.dev := by
  unfold execOverload ok at hr
  cases hr
  show MemOk _
  repeat' first
    | with_reducible assumption
    | simp only [mk_iff, line_iff, lineMk_iff, wf_iff]
    | with_reducible apply memOk_overload
theorem memOk_newAllowances {d : Dev} (h_d : MemOk d) :
    MemOk (Dev.newAllowances d) := by
  unfold Dev.newAllowances
  try dsimp only
  repeat' first
    | with_reducible assumption
    | with_reducible apply memOk_setLd
    | with_reducible apply each_ok
    | intro _
    | split
theorem memOk_c0Recheck {d : Dev} (h_d : MemOk d) :
    MemOk (Dev.c0Recheck d) := by
  unfold Dev.c0Recheck
  try dsimp only
  repeat' first
    | with_reducible assumption
    | with_reducible apply memOk_suspend
    | with_reducible apply memOk_restore
    | with_reducible apply each_ok
    | intro _
    | split
theorem memOk_sendPressure {d : Dev} {r : Region} {home : Nat} {st : Pressure} {use : Nat} {units : List Nat} (h_d : MemOk d) :
    MemOk (Dev.sendPressure d r home st use units) := by
  unfold Dev.sendPressure
  try dsimp only
  repeat' first
    | with_reducible assumption
    | with_reducible apply memOk_mgmt
    | with_reducible apply each_ok
    | intro _
theorem memOk_askRelease {d : Dev} {r : Region} {st : Pressure} {use : Nat} {units : List Nat} (h_d : MemOk d) :
    MemOk (Dev.askRelease d r st use units) := by
  unfold Dev.askRelease
  try dsimp only
  repeat' first
    | with_reducible assumption
    | with_reducible apply memOk_dcEvent
    | with_reducible apply memOk_sendPressure
    | split
theorem memOk_pressRegion {d : Dev} {r : Region} (h_d : MemOk d) :
    MemOk (Dev.pressRegion d r) := by
  unfold Dev.pressRegion
  try dsimp only
  repeat' first
    | with_reducible assumption
    | with_reducible apply memOk_modElastic
    | with_reducible apply memOk_sendPressure
    | with_reducible apply memOk_askRelease
    | split
theorem memOk_pressureBoundary {d : Dev} (h_d : MemOk d) :
    MemOk (Dev.pressureBoundary d) := by
  unfold Dev.pressureBoundary
  try dsimp only
  repeat' first
    | with_reducible assumption
    | with_reducible apply memOk_pressRegion
    | with_reducible apply each_ok
theorem memOk_nextBeat {d : Dev} (h_d : MemOk d) :
    MemOk (Dev.nextBeat d) := by
  unfold Dev.nextBeat
  try dsimp only
  repeat' first
    | with_reducible assumption
    | simp only [mk_iff, line_iff, lineMk_iff, wf_iff]
    | with_reducible apply memOk_closeSlots
theorem memOk_dropDead {d : Dev} (h_d : MemOk d) :
    MemOk (Dev.dropDead d) := by
  unfold Dev.dropDead
  try dsimp only
  repeat' first
    | with_reducible assumption
    | simp only [mk_iff, line_iff, lineMk_iff, wf_iff]
theorem memOk_failHome {d : Dev} (h_d : MemOk d) :
    MemOk (Dev.failHome d) := by
  unfold Dev.failHome
  try dsimp only
  repeat' first
    | with_reducible assumption
    | simp only [mk_iff, line_iff, lineMk_iff, wf_iff]
theorem memOk_placeMoves {d : Dev} (h_d : MemOk d) :
    MemOk (Dev.placeMoves d) := by
  unfold Dev.placeMoves
  try dsimp only
  repeat' first
    | with_reducible assumption
    | with_reducible apply memOk_placeMove
    | with_reducible apply each_ok
    | intro _
theorem memOk_counterStep {d : Dev} (h_d : MemOk d) :
    MemOk (Dev.counterStep d) := by
  unfold Dev.counterStep
  try dsimp only
  repeat' first
    | with_reducible assumption
    | with_reducible apply memOk_answerCounts
    | with_reducible apply memOk_restartCounters
    | with_reducible apply memOk_loadWatches
    | with_reducible apply memOk_snapshots
theorem memOk_commitStep {d : Dev} (h_d : MemOk d) :
    MemOk (Dev.commitStep d) := by
  unfold Dev.commitStep
  try dsimp only
  repeat' first
    | with_reducible assumption
    | with_reducible apply memOk_applyChanges
    | with_reducible apply memOk_extentsBoundary
    | with_reducible apply memOk_sheetBoundary
    | with_reducible apply memOk_applyRanges
theorem memOk_lossStep {d : Dev} (h_d : MemOk d) :
    MemOk (Dev.lossStep d) := by
  unfold Dev.lossStep
  try dsimp only
  repeat' first
    | with_reducible assumption
    | with_reducible apply memOk_applyGone
    | with_reducible apply memOk_freeRetired
    | with_reducible apply memOk_checkScan
    | with_reducible apply memOk_startWidths
    | with_reducible apply memOk_viralBoundary
    | with_reducible apply memOk_applyLosses
    | with_reducible apply memOk_windowBoundary
    | with_reducible apply memOk_startResets
    | with_reducible apply memOk_wakeBoundary
    | with_reducible apply memOk_abortsBoundary
    | with_reducible apply memOk_dropDead
    | with_reducible apply memOk_failHome
theorem memOk_boundary {d : Dev} (h_d : MemOk d) :
    MemOk (Dev.boundary d) := by
  unfold Dev.boundary
  try dsimp only
  repeat' first
    | with_reducible assumption
    | with_reducible apply memOk_flow
    | with_reducible apply memOk_dramBoundary
    | with_reducible apply memOk_intBoundary
    | with_reducible apply memOk_jobsBoundary
    | with_reducible apply memOk_sendMarkers
    | with_reducible apply memOk_faultBoundary
    | with_reducible apply memOk_regulatorBoundary
    | with_reducible apply memOk_newAllowances
    | with_reducible apply memOk_c0Recheck
    | with_reducible apply memOk_pressureBoundary
    | with_reducible apply memOk_nextBeat
    | with_reducible apply memOk_placeMoves
    | with_reducible apply memOk_counterStep
    | with_reducible apply memOk_commitStep
    | with_reducible apply memOk_lossStep
    | split
theorem memOk_execBeatBoundary  {s t : State} (h_s : MemOk s.dev) (hr : execBeatBoundary s = .next t) :
    MemOk t.dev := by
  unfold execBeatBoundary ok at hr
  cases hr
  show MemOk _
  repeat' first
    | with_reducible assumption
    | simp only [mk_iff, line_iff, lineMk_iff, wf_iff]
    | with_reducible apply memOk_boundary

end Sys2Proof.Laws
end

