-- ==== Sys2Proof/Laws/Parts.lean ====
section
/-! SUPPORT. What each update of a Tether port, a hitch channel or a job slot writes and leaves alone, and what reading the part back gives, also
through what only counts, signals or records. -/

namespace Sys2Proof.Machine

open Sys2Proof

variable (d : Dev)

/-! ### Dev.setTport -/

@[simp] theorem Dev.setTport_boot (n : Nat) (x : TPort) : (d.setTport n x).boot = d.boot := rfl
@[simp] theorem Dev.setTport_clk (n : Nat) (x : TPort) : (d.setTport n x).clk = d.clk := rfl
@[simp] theorem Dev.setTport_conf (n : Nat) (x : TPort) : (d.setTport n x).conf = d.conf := rfl
@[simp] theorem Dev.setTport_host (n : Nat) (x : TPort) : (d.setTport n x).host = d.host := rfl
@[simp] theorem Dev.setTport_path (n : Nat) (x : TPort) : (d.setTport n x).path = d.path := rfl
@[simp] theorem Dev.setTport_xl (n : Nat) (x : TPort) : (d.setTport n x).xl = d.xl := rfl
@[simp] theorem Dev.setTport_line (n : Nat) (x : TPort) : (d.setTport n x).line = d.line := rfl
@[simp] theorem Dev.setTport_tiers (n : Nat) (x : TPort) : (d.setTport n x).tiers = d.tiers := rfl
@[simp] theorem Dev.setTport_prism (n : Nat) (x : TPort) : (d.setTport n x).prism = d.prism := rfl
@[simp] theorem Dev.setTport_dram (n : Nat) (x : TPort) : (d.setTport n x).dram = d.dram := rfl
@[simp] theorem Dev.setTport_home (n : Nat) (x : TPort) : (d.setTport n x).home = d.home := rfl
@[simp] theorem Dev.setTport_fault (n : Nat) (x : TPort) : (d.setTport n x).fault = d.fault := rfl
@[simp] theorem Dev.setTport_ev (n : Nat) (x : TPort) : (d.setTport n x).ev = d.ev := rfl
@[simp] theorem Dev.setTport_jobs (n : Nat) (x : TPort) : (d.setTport n x).jobs = d.jobs := rfl
@[simp] theorem Dev.setTport_glint (n : Nat) (x : TPort) : (d.setTport n x).glint = d.glint := rfl
@[simp] theorem Dev.setTport_hitch (n : Nat) (x : TPort) : (d.setTport n x).hitch = d.hitch := rfl
@[simp] theorem Dev.setTport_power (n : Nat) (x : TPort) : (d.setTport n x).power = d.power := rfl
@[simp] theorem Dev.setTport_flash (n : Nat) (x : TPort) : (d.setTport n x).flash = d.flash := rfl
@[simp] theorem Dev.setTport_out (n : Nat) (x : TPort) : (d.setTport n x).out = d.out := rfl

/-! ### Dev.modTport -/

@[simp] theorem Dev.modTport_boot (n : Nat) (f : TPort → TPort) : (d.modTport n f).boot = d.boot := rfl
@[simp] theorem Dev.modTport_clk (n : Nat) (f : TPort → TPort) : (d.modTport n f).clk = d.clk := rfl
@[simp] theorem Dev.modTport_conf (n : Nat) (f : TPort → TPort) : (d.modTport n f).conf = d.conf := rfl
@[simp] theorem Dev.modTport_host (n : Nat) (f : TPort → TPort) : (d.modTport n f).host = d.host := rfl
@[simp] theorem Dev.modTport_path (n : Nat) (f : TPort → TPort) : (d.modTport n f).path = d.path := rfl
@[simp] theorem Dev.modTport_xl (n : Nat) (f : TPort → TPort) : (d.modTport n f).xl = d.xl := rfl
@[simp] theorem Dev.modTport_line (n : Nat) (f : TPort → TPort) : (d.modTport n f).line = d.line := rfl
@[simp] theorem Dev.modTport_tiers (n : Nat) (f : TPort → TPort) : (d.modTport n f).tiers = d.tiers := rfl
@[simp] theorem Dev.modTport_prism (n : Nat) (f : TPort → TPort) : (d.modTport n f).prism = d.prism := rfl
@[simp] theorem Dev.modTport_dram (n : Nat) (f : TPort → TPort) : (d.modTport n f).dram = d.dram := rfl
@[simp] theorem Dev.modTport_home (n : Nat) (f : TPort → TPort) : (d.modTport n f).home = d.home := rfl
@[simp] theorem Dev.modTport_fault (n : Nat) (f : TPort → TPort) : (d.modTport n f).fault = d.fault := rfl
@[simp] theorem Dev.modTport_ev (n : Nat) (f : TPort → TPort) : (d.modTport n f).ev = d.ev := rfl
@[simp] theorem Dev.modTport_jobs (n : Nat) (f : TPort → TPort) : (d.modTport n f).jobs = d.jobs := rfl
@[simp] theorem Dev.modTport_glint (n : Nat) (f : TPort → TPort) : (d.modTport n f).glint = d.glint := rfl
@[simp] theorem Dev.modTport_hitch (n : Nat) (f : TPort → TPort) : (d.modTport n f).hitch = d.hitch := rfl
@[simp] theorem Dev.modTport_power (n : Nat) (f : TPort → TPort) : (d.modTport n f).power = d.power := rfl
@[simp] theorem Dev.modTport_flash (n : Nat) (f : TPort → TPort) : (d.modTport n f).flash = d.flash := rfl
@[simp] theorem Dev.modTport_out (n : Nat) (f : TPort → TPort) : (d.modTport n f).out = d.out := rfl

/-! ### Dev.modHchan -/

@[simp] theorem Dev.modHchan_boot (n : Nat) (f : HChan → HChan) : (d.modHchan n f).boot = d.boot := rfl
@[simp] theorem Dev.modHchan_clk (n : Nat) (f : HChan → HChan) : (d.modHchan n f).clk = d.clk := rfl
@[simp] theorem Dev.modHchan_conf (n : Nat) (f : HChan → HChan) : (d.modHchan n f).conf = d.conf := rfl
@[simp] theorem Dev.modHchan_host (n : Nat) (f : HChan → HChan) : (d.modHchan n f).host = d.host := rfl
@[simp] theorem Dev.modHchan_path (n : Nat) (f : HChan → HChan) : (d.modHchan n f).path = d.path := rfl
@[simp] theorem Dev.modHchan_xl (n : Nat) (f : HChan → HChan) : (d.modHchan n f).xl = d.xl := rfl
@[simp] theorem Dev.modHchan_line (n : Nat) (f : HChan → HChan) : (d.modHchan n f).line = d.line := rfl
@[simp] theorem Dev.modHchan_tiers (n : Nat) (f : HChan → HChan) : (d.modHchan n f).tiers = d.tiers := rfl
@[simp] theorem Dev.modHchan_prism (n : Nat) (f : HChan → HChan) : (d.modHchan n f).prism = d.prism := rfl
@[simp] theorem Dev.modHchan_dram (n : Nat) (f : HChan → HChan) : (d.modHchan n f).dram = d.dram := rfl
@[simp] theorem Dev.modHchan_home (n : Nat) (f : HChan → HChan) : (d.modHchan n f).home = d.home := rfl
@[simp] theorem Dev.modHchan_fault (n : Nat) (f : HChan → HChan) : (d.modHchan n f).fault = d.fault := rfl
@[simp] theorem Dev.modHchan_ev (n : Nat) (f : HChan → HChan) : (d.modHchan n f).ev = d.ev := rfl
@[simp] theorem Dev.modHchan_chain (n : Nat) (f : HChan → HChan) : (d.modHchan n f).chain = d.chain := rfl
@[simp] theorem Dev.modHchan_jobs (n : Nat) (f : HChan → HChan) : (d.modHchan n f).jobs = d.jobs := rfl
@[simp] theorem Dev.modHchan_glint (n : Nat) (f : HChan → HChan) : (d.modHchan n f).glint = d.glint := rfl
@[simp] theorem Dev.modHchan_power (n : Nat) (f : HChan → HChan) : (d.modHchan n f).power = d.power := rfl
@[simp] theorem Dev.modHchan_flash (n : Nat) (f : HChan → HChan) : (d.modHchan n f).flash = d.flash := rfl
@[simp] theorem Dev.modHchan_out (n : Nat) (f : HChan → HChan) : (d.modHchan n f).out = d.out := rfl

/-! ### Dev.setJob -/

@[simp] theorem Dev.setJob_boot (n : Nat) (j : Job) : (d.setJob n j).boot = d.boot := rfl
@[simp] theorem Dev.setJob_clk (n : Nat) (j : Job) : (d.setJob n j).clk = d.clk := rfl
@[simp] theorem Dev.setJob_conf (n : Nat) (j : Job) : (d.setJob n j).conf = d.conf := rfl
@[simp] theorem Dev.setJob_host (n : Nat) (j : Job) : (d.setJob n j).host = d.host := rfl
@[simp] theorem Dev.setJob_path (n : Nat) (j : Job) : (d.setJob n j).path = d.path := rfl
@[simp] theorem Dev.setJob_xl (n : Nat) (j : Job) : (d.setJob n j).xl = d.xl := rfl
@[simp] theorem Dev.setJob_line (n : Nat) (j : Job) : (d.setJob n j).line = d.line := rfl
@[simp] theorem Dev.setJob_tiers (n : Nat) (j : Job) : (d.setJob n j).tiers = d.tiers := rfl
@[simp] theorem Dev.setJob_prism (n : Nat) (j : Job) : (d.setJob n j).prism = d.prism := rfl
@[simp] theorem Dev.setJob_dram (n : Nat) (j : Job) : (d.setJob n j).dram = d.dram := rfl
@[simp] theorem Dev.setJob_home (n : Nat) (j : Job) : (d.setJob n j).home = d.home := rfl
@[simp] theorem Dev.setJob_fault (n : Nat) (j : Job) : (d.setJob n j).fault = d.fault := rfl
@[simp] theorem Dev.setJob_ev (n : Nat) (j : Job) : (d.setJob n j).ev = d.ev := rfl
@[simp] theorem Dev.setJob_chain (n : Nat) (j : Job) : (d.setJob n j).chain = d.chain := rfl
@[simp] theorem Dev.setJob_glint (n : Nat) (j : Job) : (d.setJob n j).glint = d.glint := rfl
@[simp] theorem Dev.setJob_hitch (n : Nat) (j : Job) : (d.setJob n j).hitch = d.hitch := rfl
@[simp] theorem Dev.setJob_power (n : Nat) (j : Job) : (d.setJob n j).power = d.power := rfl
@[simp] theorem Dev.setJob_flash (n : Nat) (j : Job) : (d.setJob n j).flash = d.flash := rfl
@[simp] theorem Dev.setJob_out (n : Nat) (j : Job) : (d.setJob n j).out = d.out := rfl

/-! ### Reading a part back -/

@[simp] theorem Dev.tport_setTport_self (n : Nat) (x : TPort) : (d.setTport n x).tport n = x := Tab.val_put_self ..
@[simp] theorem Dev.tport_setTport_ne (n m : Nat) (x : TPort) (h : m ≠ n) : (d.setTport n x).tport m = d.tport m := Tab.val_put_ne _ _ _ h
@[simp] theorem Dev.tport_modTport_self (n : Nat) (f : TPort → TPort) : (d.modTport n f).tport n = f (d.tport n) := Tab.val_put_self ..
@[simp] theorem Dev.tport_modTport_ne (n m : Nat) (f : TPort → TPort) (h : m ≠ n) : (d.modTport n f).tport m = d.tport m := Tab.val_put_ne _ _ _ h
@[simp] theorem Dev.hchan_modHchan_self (n : Nat) (f : HChan → HChan) : (d.modHchan n f).hchan n = f (d.hchan n) := Tab.val_put_self ..
@[simp] theorem Dev.hchan_modHchan_ne (n m : Nat) (f : HChan → HChan) (h : m ≠ n) : (d.modHchan n f).hchan m = d.hchan m := Tab.val_put_ne _ _ _ h
@[simp] theorem Dev.job_setJob_self (n : Nat) (j : Job) : (d.setJob n j).job n = some j := Tab.look_put_self ..
@[simp] theorem Dev.job_setJob_ne (n m : Nat) (j : Job) (h : m ≠ n) : (d.setJob n j).job m = d.job m := Tab.look_put_ne _ _ h
@[simp] theorem Dev.setTport_setTport (n : Nat) (x y : TPort) : (d.setTport n x).setTport n y = d.setTport n y := by simp [Dev.setTport]
@[simp] theorem Dev.modTport_setTport (n : Nat) (x : TPort) (f : TPort → TPort) : (d.setTport n x).modTport n f = d.setTport n (f x) := by
  simp [Dev.modTport]
@[simp] theorem Dev.setJob_setJob (n : Nat) (x y : Job) : (d.setJob n x).setJob n y = d.setJob n y := by simp [Dev.setJob]

/-! ### Through what counts, signals or records -/

@[simp] theorem Dev.tport_say (o : Out) (n : Nat) : (d.say o).tport n = d.tport n := by simp [Dev.tport]
@[simp] theorem Dev.tport_bump (e k : Nat) (n : Nat) : (d.bump e k).tport n = d.tport n := by simp [Dev.tport]
@[simp] theorem Dev.tport_bumpLd (l e k : Nat) (n : Nat) : (d.bumpLd l e k).tport n = d.tport n := by simp [Dev.tport]
@[simp] theorem Dev.tport_doorbell (k : Nat) (n : Nat) : (d.doorbell k).tport n = d.tport n := by simp [Dev.tport]
@[simp] theorem Dev.tport_settle (n : Nat) : (d.settle).tport n = d.tport n := by simp [Dev.tport]
@[simp] theorem Dev.tport_raise (t : Nat) (k : LogKind) (ld : Option Nat) (x : Nat) (n : Nat) : (d.raise t k ld x).tport n = d.tport n := by simp [Dev.tport]
@[simp] theorem Dev.tport_raiseAt (q t : Nat) (k : LogKind) (ld : Option Nat) (x : Nat) (n : Nat) : (d.raiseAt q t k ld x).tport n = d.tport n := by simp [Dev.tport]
@[simp] theorem Dev.hchan_say (o : Out) (n : Nat) : (d.say o).hchan n = d.hchan n := by simp [Dev.hchan]
@[simp] theorem Dev.hchan_bump (e k : Nat) (n : Nat) : (d.bump e k).hchan n = d.hchan n := by simp [Dev.hchan]
@[simp] theorem Dev.hchan_bumpLd (l e k : Nat) (n : Nat) : (d.bumpLd l e k).hchan n = d.hchan n := by simp [Dev.hchan]
@[simp] theorem Dev.hchan_doorbell (k : Nat) (n : Nat) : (d.doorbell k).hchan n = d.hchan n := by simp [Dev.hchan]
@[simp] theorem Dev.hchan_settle (n : Nat) : (d.settle).hchan n = d.hchan n := by simp [Dev.hchan]
@[simp] theorem Dev.hchan_raise (t : Nat) (k : LogKind) (ld : Option Nat) (x : Nat) (n : Nat) : (d.raise t k ld x).hchan n = d.hchan n := by simp [Dev.hchan]
@[simp] theorem Dev.hchan_raiseAt (q t : Nat) (k : LogKind) (ld : Option Nat) (x : Nat) (n : Nat) : (d.raiseAt q t k ld x).hchan n = d.hchan n := by simp [Dev.hchan]
@[simp] theorem Dev.job_say (o : Out) (n : Nat) : (d.say o).job n = d.job n := by simp [Dev.job]
@[simp] theorem Dev.job_bump (e k : Nat) (n : Nat) : (d.bump e k).job n = d.job n := by simp [Dev.job]
@[simp] theorem Dev.job_bumpLd (l e k : Nat) (n : Nat) : (d.bumpLd l e k).job n = d.job n := by simp [Dev.job]
@[simp] theorem Dev.job_doorbell (k : Nat) (n : Nat) : (d.doorbell k).job n = d.job n := by simp [Dev.job]
@[simp] theorem Dev.job_settle (n : Nat) : (d.settle).job n = d.job n := by simp [Dev.job]
@[simp] theorem Dev.job_raise (t : Nat) (k : LogKind) (ld : Option Nat) (x : Nat) (n : Nat) : (d.raise t k ld x).job n = d.job n := by simp [Dev.job]
@[simp] theorem Dev.job_raiseAt (q t : Nat) (k : LogKind) (ld : Option Nat) (x : Nat) (n : Nat) : (d.raiseAt q t k ld x).job n = d.job n := by simp [Dev.job]
@[simp] theorem Dev.source_say (o : Out) (n : Nat) : (d.say o).source n = d.source n := by simp [Dev.source]
@[simp] theorem Dev.source_bump (e k : Nat) (n : Nat) : (d.bump e k).source n = d.source n := by simp [Dev.source]
@[simp] theorem Dev.source_bumpLd (l e k : Nat) (n : Nat) : (d.bumpLd l e k).source n = d.source n := by simp [Dev.source]
@[simp] theorem Dev.source_doorbell (k : Nat) (n : Nat) : (d.doorbell k).source n = d.source n := by simp [Dev.source]
@[simp] theorem Dev.source_settle (n : Nat) : (d.settle).source n = d.source n := by simp [Dev.source]
@[simp] theorem Dev.source_raise (t : Nat) (k : LogKind) (ld : Option Nat) (x : Nat) (n : Nat) : (d.raise t k ld x).source n = d.source n := by simp [Dev.source]
@[simp] theorem Dev.source_raiseAt (q t : Nat) (k : LogKind) (ld : Option Nat) (x : Nat) (n : Nat) : (d.raiseAt q t k ld x).source n = d.source n := by simp [Dev.source]
@[simp] theorem Dev.chan_say (o : Out) (n : Nat) : (d.say o).chan n = d.chan n := by simp [Dev.chan]
@[simp] theorem Dev.chan_bump (e k : Nat) (n : Nat) : (d.bump e k).chan n = d.chan n := by simp [Dev.chan]
@[simp] theorem Dev.chan_bumpLd (l e k : Nat) (n : Nat) : (d.bumpLd l e k).chan n = d.chan n := by simp [Dev.chan]
@[simp] theorem Dev.chan_doorbell (k : Nat) (n : Nat) : (d.doorbell k).chan n = d.chan n := by simp [Dev.chan]
@[simp] theorem Dev.chan_settle (n : Nat) : (d.settle).chan n = d.chan n := by simp [Dev.chan]
@[simp] theorem Dev.chan_raise (t : Nat) (k : LogKind) (ld : Option Nat) (x : Nat) (n : Nat) : (d.raise t k ld x).chan n = d.chan n := by simp [Dev.chan]
@[simp] theorem Dev.chan_raiseAt (q t : Nat) (k : LogKind) (ld : Option Nat) (x : Nat) (n : Nat) : (d.raiseAt q t k ld x).chan n = d.chan n := by simp [Dev.chan]
@[simp] theorem Dev.core_say (o : Out) (n : Nat) : (d.say o).core n = d.core n := by simp [Dev.core]
@[simp] theorem Dev.core_bump (e k : Nat) (n : Nat) : (d.bump e k).core n = d.core n := by simp [Dev.core]
@[simp] theorem Dev.core_bumpLd (l e k : Nat) (n : Nat) : (d.bumpLd l e k).core n = d.core n := by simp [Dev.core]
@[simp] theorem Dev.core_doorbell (k : Nat) (n : Nat) : (d.doorbell k).core n = d.core n := by simp [Dev.core]
@[simp] theorem Dev.core_settle (n : Nat) : (d.settle).core n = d.core n := by simp [Dev.core]
@[simp] theorem Dev.core_raise (t : Nat) (k : LogKind) (ld : Option Nat) (x : Nat) (n : Nat) : (d.raise t k ld x).core n = d.core n := by simp [Dev.core]
@[simp] theorem Dev.core_raiseAt (q t : Nat) (k : LogKind) (ld : Option Nat) (x : Nat) (n : Nat) : (d.raiseAt q t k ld x).core n = d.core n := by simp [Dev.core]
@[simp] theorem Dev.key_say (o : Out) (n : Nat) : (d.say o).key n = d.key n := by simp [Dev.key]
@[simp] theorem Dev.key_bump (e k : Nat) (n : Nat) : (d.bump e k).key n = d.key n := by simp [Dev.key]
@[simp] theorem Dev.key_bumpLd (l e k : Nat) (n : Nat) : (d.bumpLd l e k).key n = d.key n := by simp [Dev.key]
@[simp] theorem Dev.key_doorbell (k : Nat) (n : Nat) : (d.doorbell k).key n = d.key n := by simp [Dev.key]
@[simp] theorem Dev.key_settle (n : Nat) : (d.settle).key n = d.key n := by simp [Dev.key]
@[simp] theorem Dev.key_raise (t : Nat) (k : LogKind) (ld : Option Nat) (x : Nat) (n : Nat) : (d.raise t k ld x).key n = d.key n := by simp [Dev.key]
@[simp] theorem Dev.key_raiseAt (q t : Nat) (k : LogKind) (ld : Option Nat) (x : Nat) (n : Nat) : (d.raiseAt q t k ld x).key n = d.key n := by simp [Dev.key]
@[simp] theorem Dev.link_say (o : Out) (n : Nat) : (d.say o).link n = d.link n := by simp [Dev.link]
@[simp] theorem Dev.link_bump (e k : Nat) (n : Nat) : (d.bump e k).link n = d.link n := by simp [Dev.link]
@[simp] theorem Dev.link_bumpLd (l e k : Nat) (n : Nat) : (d.bumpLd l e k).link n = d.link n := by simp [Dev.link]
@[simp] theorem Dev.link_doorbell (k : Nat) (n : Nat) : (d.doorbell k).link n = d.link n := by simp [Dev.link]
@[simp] theorem Dev.link_settle (n : Nat) : (d.settle).link n = d.link n := by simp [Dev.link]
@[simp] theorem Dev.link_raise (t : Nat) (k : LogKind) (ld : Option Nat) (x : Nat) (n : Nat) : (d.raise t k ld x).link n = d.link n := by simp [Dev.link]
@[simp] theorem Dev.link_raiseAt (q t : Nat) (k : LogKind) (ld : Option Nat) (x : Nat) (n : Nat) : (d.raiseAt q t k ld x).link n = d.link n := by simp [Dev.link]
@[simp] theorem Dev.port_say (o : Out) (n : Nat) : (d.say o).port n = d.port n := by simp [Dev.port]
@[simp] theorem Dev.port_bump (e k : Nat) (n : Nat) : (d.bump e k).port n = d.port n := by simp [Dev.port]
@[simp] theorem Dev.port_bumpLd (l e k : Nat) (n : Nat) : (d.bumpLd l e k).port n = d.port n := by simp [Dev.port]
@[simp] theorem Dev.port_doorbell (k : Nat) (n : Nat) : (d.doorbell k).port n = d.port n := by simp [Dev.port]
@[simp] theorem Dev.port_settle (n : Nat) : (d.settle).port n = d.port n := by simp [Dev.port]
@[simp] theorem Dev.port_raise (t : Nat) (k : LogKind) (ld : Option Nat) (x : Nat) (n : Nat) : (d.raise t k ld x).port n = d.port n := by simp [Dev.port]
@[simp] theorem Dev.port_raiseAt (q t : Nat) (k : LogKind) (ld : Option Nat) (x : Nat) (n : Nat) : (d.raiseAt q t k ld x).port n = d.port n := by simp [Dev.port]
@[simp] theorem Dev.mbox_say (o : Out) (n : Nat) : (d.say o).mbox n = d.mbox n := by simp [Dev.mbox]
@[simp] theorem Dev.mbox_bump (e k : Nat) (n : Nat) : (d.bump e k).mbox n = d.mbox n := by simp [Dev.mbox]
@[simp] theorem Dev.mbox_bumpLd (l e k : Nat) (n : Nat) : (d.bumpLd l e k).mbox n = d.mbox n := by simp [Dev.mbox]
@[simp] theorem Dev.mbox_doorbell (k : Nat) (n : Nat) : (d.doorbell k).mbox n = d.mbox n := by simp [Dev.mbox]
@[simp] theorem Dev.mbox_settle (n : Nat) : (d.settle).mbox n = d.mbox n := by simp [Dev.mbox]
@[simp] theorem Dev.mbox_raise (t : Nat) (k : LogKind) (ld : Option Nat) (x : Nat) (n : Nat) : (d.raise t k ld x).mbox n = d.mbox n := by simp [Dev.mbox]
@[simp] theorem Dev.mbox_raiseAt (q t : Nat) (k : LogKind) (ld : Option Nat) (x : Nat) (n : Nat) : (d.raiseAt q t k ld x).mbox n = d.mbox n := by simp [Dev.mbox]

end Sys2Proof.Machine
end

