-- ==== Sys2Proof/Laws/Path.lean ====
section
/-! SUPPORT. What each update of a request, a write-buffer entry, a line of the media, a directory entry, a region's elastic state or the
sheet writes and leaves alone, field by field. -/

namespace Sys2Proof.Machine

open Sys2Proof

variable (d : Dev)

/-! ### Dev.setReq -/

@[simp] theorem Dev.setReq_boot (q : Req) : (d.setReq q).boot = d.boot := rfl
@[simp] theorem Dev.setReq_clk (q : Req) : (d.setReq q).clk = d.clk := rfl
@[simp] theorem Dev.setReq_conf (q : Req) : (d.setReq q).conf = d.conf := rfl
@[simp] theorem Dev.setReq_host (q : Req) : (d.setReq q).host = d.host := rfl
@[simp] theorem Dev.setReq_xl (q : Req) : (d.setReq q).xl = d.xl := rfl
@[simp] theorem Dev.setReq_line (q : Req) : (d.setReq q).line = d.line := rfl
@[simp] theorem Dev.setReq_tiers (q : Req) : (d.setReq q).tiers = d.tiers := rfl
@[simp] theorem Dev.setReq_prism (q : Req) : (d.setReq q).prism = d.prism := rfl
@[simp] theorem Dev.setReq_dram (q : Req) : (d.setReq q).dram = d.dram := rfl
@[simp] theorem Dev.setReq_home (q : Req) : (d.setReq q).home = d.home := rfl
@[simp] theorem Dev.setReq_fault (q : Req) : (d.setReq q).fault = d.fault := rfl
@[simp] theorem Dev.setReq_ev (q : Req) : (d.setReq q).ev = d.ev := rfl
@[simp] theorem Dev.setReq_chain (q : Req) : (d.setReq q).chain = d.chain := rfl
@[simp] theorem Dev.setReq_jobs (q : Req) : (d.setReq q).jobs = d.jobs := rfl
@[simp] theorem Dev.setReq_glint (q : Req) : (d.setReq q).glint = d.glint := rfl
@[simp] theorem Dev.setReq_hitch (q : Req) : (d.setReq q).hitch = d.hitch := rfl
@[simp] theorem Dev.setReq_power (q : Req) : (d.setReq q).power = d.power := rfl
@[simp] theorem Dev.setReq_flash (q : Req) : (d.setReq q).flash = d.flash := rfl
@[simp] theorem Dev.setReq_out (q : Req) : (d.setReq q).out = d.out := rfl
@[simp] theorem Dev.setReq_path_reqs (q : Req) : (d.setReq q).path.reqs = replaceFirst (·.id = q.id) (fun _ => q) d.path.reqs := rfl

/-! ### Dev.setWb -/

@[simp] theorem Dev.setWb_boot (w : Wb) : (d.setWb w).boot = d.boot := rfl
@[simp] theorem Dev.setWb_clk (w : Wb) : (d.setWb w).clk = d.clk := rfl
@[simp] theorem Dev.setWb_conf (w : Wb) : (d.setWb w).conf = d.conf := rfl
@[simp] theorem Dev.setWb_host (w : Wb) : (d.setWb w).host = d.host := rfl
@[simp] theorem Dev.setWb_path (w : Wb) : (d.setWb w).path = d.path := rfl
@[simp] theorem Dev.setWb_xl (w : Wb) : (d.setWb w).xl = d.xl := rfl
@[simp] theorem Dev.setWb_tiers (w : Wb) : (d.setWb w).tiers = d.tiers := rfl
@[simp] theorem Dev.setWb_prism (w : Wb) : (d.setWb w).prism = d.prism := rfl
@[simp] theorem Dev.setWb_dram (w : Wb) : (d.setWb w).dram = d.dram := rfl
@[simp] theorem Dev.setWb_home (w : Wb) : (d.setWb w).home = d.home := rfl
@[simp] theorem Dev.setWb_fault (w : Wb) : (d.setWb w).fault = d.fault := rfl
@[simp] theorem Dev.setWb_ev (w : Wb) : (d.setWb w).ev = d.ev := rfl
@[simp] theorem Dev.setWb_chain (w : Wb) : (d.setWb w).chain = d.chain := rfl
@[simp] theorem Dev.setWb_jobs (w : Wb) : (d.setWb w).jobs = d.jobs := rfl
@[simp] theorem Dev.setWb_glint (w : Wb) : (d.setWb w).glint = d.glint := rfl
@[simp] theorem Dev.setWb_hitch (w : Wb) : (d.setWb w).hitch = d.hitch := rfl
@[simp] theorem Dev.setWb_power (w : Wb) : (d.setWb w).power = d.power := rfl
@[simp] theorem Dev.setWb_flash (w : Wb) : (d.setWb w).flash = d.flash := rfl
@[simp] theorem Dev.setWb_out (w : Wb) : (d.setWb w).out = d.out := rfl
@[simp] theorem Dev.setWb_line_wb (w : Wb) : (d.setWb w).line.wb = replaceFirst (·.id = w.id) (fun _ => w) d.line.wb := rfl
@[simp] theorem Dev.setWb_line_mem (w : Wb) : (d.setWb w).line.mem = d.line.mem := rfl
@[simp] theorem Dev.setWb_line_ct (w : Wb) : (d.setWb w).line.ct = d.line.ct := rfl

/-! ### Dev.dropWb -/

@[simp] theorem Dev.dropWb_boot (id : Nat) : (d.dropWb id).boot = d.boot := rfl
@[simp] theorem Dev.dropWb_clk (id : Nat) : (d.dropWb id).clk = d.clk := rfl
@[simp] theorem Dev.dropWb_conf (id : Nat) : (d.dropWb id).conf = d.conf := rfl
@[simp] theorem Dev.dropWb_host (id : Nat) : (d.dropWb id).host = d.host := rfl
@[simp] theorem Dev.dropWb_path (id : Nat) : (d.dropWb id).path = d.path := rfl
@[simp] theorem Dev.dropWb_xl (id : Nat) : (d.dropWb id).xl = d.xl := rfl
@[simp] theorem Dev.dropWb_tiers (id : Nat) : (d.dropWb id).tiers = d.tiers := rfl
@[simp] theorem Dev.dropWb_prism (id : Nat) : (d.dropWb id).prism = d.prism := rfl
@[simp] theorem Dev.dropWb_dram (id : Nat) : (d.dropWb id).dram = d.dram := rfl
@[simp] theorem Dev.dropWb_home (id : Nat) : (d.dropWb id).home = d.home := rfl
@[simp] theorem Dev.dropWb_fault (id : Nat) : (d.dropWb id).fault = d.fault := rfl
@[simp] theorem Dev.dropWb_ev (id : Nat) : (d.dropWb id).ev = d.ev := rfl
@[simp] theorem Dev.dropWb_chain (id : Nat) : (d.dropWb id).chain = d.chain := rfl
@[simp] theorem Dev.dropWb_jobs (id : Nat) : (d.dropWb id).jobs = d.jobs := rfl
@[simp] theorem Dev.dropWb_glint (id : Nat) : (d.dropWb id).glint = d.glint := rfl
@[simp] theorem Dev.dropWb_hitch (id : Nat) : (d.dropWb id).hitch = d.hitch := rfl
@[simp] theorem Dev.dropWb_power (id : Nat) : (d.dropWb id).power = d.power := rfl
@[simp] theorem Dev.dropWb_flash (id : Nat) : (d.dropWb id).flash = d.flash := rfl
@[simp] theorem Dev.dropWb_out (id : Nat) : (d.dropWb id).out = d.out := rfl
@[simp] theorem Dev.dropWb_line_wb (id : Nat) : (d.dropWb id).line.wb = d.line.wb.filter (·.id ≠ id) := rfl
@[simp] theorem Dev.dropWb_line_mem (id : Nat) : (d.dropWb id).line.mem = d.line.mem := rfl
@[simp] theorem Dev.dropWb_line_ct (id : Nat) : (d.dropWb id).line.ct = d.line.ct := rfl

/-! ### Dev.setBurst -/

@[simp] theorem Dev.setBurst_boot (n : Nat) (b : Burst) : (d.setBurst n b).boot = d.boot := by simp only [Dev.setBurst]
@[simp] theorem Dev.setBurst_clk (n : Nat) (b : Burst) : (d.setBurst n b).clk = d.clk := by simp only [Dev.setBurst]
@[simp] theorem Dev.setBurst_conf (n : Nat) (b : Burst) : (d.setBurst n b).conf = d.conf := by simp only [Dev.setBurst]
@[simp] theorem Dev.setBurst_host (n : Nat) (b : Burst) : (d.setBurst n b).host = d.host := by simp only [Dev.setBurst]
@[simp] theorem Dev.setBurst_path (n : Nat) (b : Burst) : (d.setBurst n b).path = d.path := by simp only [Dev.setBurst]
@[simp] theorem Dev.setBurst_xl (n : Nat) (b : Burst) : (d.setBurst n b).xl = d.xl := by simp only [Dev.setBurst]
@[simp] theorem Dev.setBurst_tiers (n : Nat) (b : Burst) : (d.setBurst n b).tiers = d.tiers := by simp only [Dev.setBurst]
@[simp] theorem Dev.setBurst_prism (n : Nat) (b : Burst) : (d.setBurst n b).prism = d.prism := by simp only [Dev.setBurst]
@[simp] theorem Dev.setBurst_dram (n : Nat) (b : Burst) : (d.setBurst n b).dram = d.dram := by simp only [Dev.setBurst]
@[simp] theorem Dev.setBurst_home (n : Nat) (b : Burst) : (d.setBurst n b).home = d.home := by simp only [Dev.setBurst]
@[simp] theorem Dev.setBurst_fault (n : Nat) (b : Burst) : (d.setBurst n b).fault = d.fault := by simp only [Dev.setBurst]
@[simp] theorem Dev.setBurst_ev (n : Nat) (b : Burst) : (d.setBurst n b).ev = d.ev := by simp only [Dev.setBurst]
@[simp] theorem Dev.setBurst_chain (n : Nat) (b : Burst) : (d.setBurst n b).chain = d.chain := by simp only [Dev.setBurst]
@[simp] theorem Dev.setBurst_jobs (n : Nat) (b : Burst) : (d.setBurst n b).jobs = d.jobs := by simp only [Dev.setBurst]
@[simp] theorem Dev.setBurst_glint (n : Nat) (b : Burst) : (d.setBurst n b).glint = d.glint := by simp only [Dev.setBurst]
@[simp] theorem Dev.setBurst_hitch (n : Nat) (b : Burst) : (d.setBurst n b).hitch = d.hitch := by simp only [Dev.setBurst]
@[simp] theorem Dev.setBurst_power (n : Nat) (b : Burst) : (d.setBurst n b).power = d.power := by simp only [Dev.setBurst]
@[simp] theorem Dev.setBurst_flash (n : Nat) (b : Burst) : (d.setBurst n b).flash = d.flash := by simp only [Dev.setBurst]
@[simp] theorem Dev.setBurst_out (n : Nat) (b : Burst) : (d.setBurst n b).out = d.out := by simp only [Dev.setBurst]
@[simp] theorem Dev.setBurst_line_mem (n : Nat) (b : Burst) : (d.setBurst n b).line.mem = Memory.setBurst d.line.mem n b := by simp only [Dev.setBurst]
@[simp] theorem Dev.setBurst_line_wb (n : Nat) (b : Burst) : (d.setBurst n b).line.wb = d.line.wb := by simp only [Dev.setBurst]
@[simp] theorem Dev.setBurst_line_ct (n : Nat) (b : Burst) : (d.setBurst n b).line.ct = d.line.ct := by simp only [Dev.setBurst]

/-! ### Dev.setRoot -/

@[simp] theorem Dev.setRoot_boot (r : BitVec 512) : (d.setRoot r).boot = d.boot := rfl
@[simp] theorem Dev.setRoot_clk (r : BitVec 512) : (d.setRoot r).clk = d.clk := rfl
@[simp] theorem Dev.setRoot_conf (r : BitVec 512) : (d.setRoot r).conf = d.conf := rfl
@[simp] theorem Dev.setRoot_host (r : BitVec 512) : (d.setRoot r).host = d.host := rfl
@[simp] theorem Dev.setRoot_path (r : BitVec 512) : (d.setRoot r).path = d.path := rfl
@[simp] theorem Dev.setRoot_xl (r : BitVec 512) : (d.setRoot r).xl = d.xl := rfl
@[simp] theorem Dev.setRoot_tiers (r : BitVec 512) : (d.setRoot r).tiers = d.tiers := rfl
@[simp] theorem Dev.setRoot_prism (r : BitVec 512) : (d.setRoot r).prism = d.prism := rfl
@[simp] theorem Dev.setRoot_dram (r : BitVec 512) : (d.setRoot r).dram = d.dram := rfl
@[simp] theorem Dev.setRoot_home (r : BitVec 512) : (d.setRoot r).home = d.home := rfl
@[simp] theorem Dev.setRoot_fault (r : BitVec 512) : (d.setRoot r).fault = d.fault := rfl
@[simp] theorem Dev.setRoot_ev (r : BitVec 512) : (d.setRoot r).ev = d.ev := rfl
@[simp] theorem Dev.setRoot_chain (r : BitVec 512) : (d.setRoot r).chain = d.chain := rfl
@[simp] theorem Dev.setRoot_jobs (r : BitVec 512) : (d.setRoot r).jobs = d.jobs := rfl
@[simp] theorem Dev.setRoot_glint (r : BitVec 512) : (d.setRoot r).glint = d.glint := rfl
@[simp] theorem Dev.setRoot_hitch (r : BitVec 512) : (d.setRoot r).hitch = d.hitch := rfl
@[simp] theorem Dev.setRoot_power (r : BitVec 512) : (d.setRoot r).power = d.power := rfl
@[simp] theorem Dev.setRoot_flash (r : BitVec 512) : (d.setRoot r).flash = d.flash := rfl
@[simp] theorem Dev.setRoot_out (r : BitVec 512) : (d.setRoot r).out = d.out := rfl
@[simp] theorem Dev.setRoot_line_roots (r : BitVec 512) : (d.setRoot r).line.roots = (r, r, r) := rfl
@[simp] theorem Dev.setRoot_line_mem (r : BitVec 512) : (d.setRoot r).line.mem = d.line.mem := rfl
@[simp] theorem Dev.setRoot_line_wb (r : BitVec 512) : (d.setRoot r).line.wb = d.line.wb := rfl
@[simp] theorem Dev.setRoot_line_ct (r : BitVec 512) : (d.setRoot r).line.ct = d.line.ct := rfl

/-! ### Dev.setDe -/

@[simp] theorem Dev.setDe_boot (set way : Nat) (e : BitVec 64) : (d.setDe set way e).boot = d.boot := rfl
@[simp] theorem Dev.setDe_clk (set way : Nat) (e : BitVec 64) : (d.setDe set way e).clk = d.clk := rfl
@[simp] theorem Dev.setDe_conf (set way : Nat) (e : BitVec 64) : (d.setDe set way e).conf = d.conf := rfl
@[simp] theorem Dev.setDe_host (set way : Nat) (e : BitVec 64) : (d.setDe set way e).host = d.host := rfl
@[simp] theorem Dev.setDe_path (set way : Nat) (e : BitVec 64) : (d.setDe set way e).path = d.path := rfl
@[simp] theorem Dev.setDe_xl (set way : Nat) (e : BitVec 64) : (d.setDe set way e).xl = d.xl := rfl
@[simp] theorem Dev.setDe_line (set way : Nat) (e : BitVec 64) : (d.setDe set way e).line = d.line := rfl
@[simp] theorem Dev.setDe_tiers (set way : Nat) (e : BitVec 64) : (d.setDe set way e).tiers = d.tiers := rfl
@[simp] theorem Dev.setDe_prism (set way : Nat) (e : BitVec 64) : (d.setDe set way e).prism = d.prism := rfl
@[simp] theorem Dev.setDe_dram (set way : Nat) (e : BitVec 64) : (d.setDe set way e).dram = d.dram := rfl
@[simp] theorem Dev.setDe_fault (set way : Nat) (e : BitVec 64) : (d.setDe set way e).fault = d.fault := rfl
@[simp] theorem Dev.setDe_ev (set way : Nat) (e : BitVec 64) : (d.setDe set way e).ev = d.ev := rfl
@[simp] theorem Dev.setDe_chain (set way : Nat) (e : BitVec 64) : (d.setDe set way e).chain = d.chain := rfl
@[simp] theorem Dev.setDe_jobs (set way : Nat) (e : BitVec 64) : (d.setDe set way e).jobs = d.jobs := rfl
@[simp] theorem Dev.setDe_glint (set way : Nat) (e : BitVec 64) : (d.setDe set way e).glint = d.glint := rfl
@[simp] theorem Dev.setDe_hitch (set way : Nat) (e : BitVec 64) : (d.setDe set way e).hitch = d.hitch := rfl
@[simp] theorem Dev.setDe_power (set way : Nat) (e : BitVec 64) : (d.setDe set way e).power = d.power := rfl
@[simp] theorem Dev.setDe_flash (set way : Nat) (e : BitVec 64) : (d.setDe set way e).flash = d.flash := rfl
@[simp] theorem Dev.setDe_out (set way : Nat) (e : BitVec 64) : (d.setDe set way e).out = d.out := rfl

/-! ### Dev.modElastic -/

@[simp] theorem Dev.modElastic_boot (key : Nat) (f : Elastic → Elastic) : (d.modElastic key f).boot = d.boot := rfl
@[simp] theorem Dev.modElastic_clk (key : Nat) (f : Elastic → Elastic) : (d.modElastic key f).clk = d.clk := rfl
@[simp] theorem Dev.modElastic_conf (key : Nat) (f : Elastic → Elastic) : (d.modElastic key f).conf = d.conf := rfl
@[simp] theorem Dev.modElastic_host (key : Nat) (f : Elastic → Elastic) : (d.modElastic key f).host = d.host := rfl
@[simp] theorem Dev.modElastic_path (key : Nat) (f : Elastic → Elastic) : (d.modElastic key f).path = d.path := rfl
@[simp] theorem Dev.modElastic_xl (key : Nat) (f : Elastic → Elastic) : (d.modElastic key f).xl = d.xl := rfl
@[simp] theorem Dev.modElastic_line (key : Nat) (f : Elastic → Elastic) : (d.modElastic key f).line = d.line := rfl
@[simp] theorem Dev.modElastic_prism (key : Nat) (f : Elastic → Elastic) : (d.modElastic key f).prism = d.prism := rfl
@[simp] theorem Dev.modElastic_dram (key : Nat) (f : Elastic → Elastic) : (d.modElastic key f).dram = d.dram := rfl
@[simp] theorem Dev.modElastic_home (key : Nat) (f : Elastic → Elastic) : (d.modElastic key f).home = d.home := rfl
@[simp] theorem Dev.modElastic_fault (key : Nat) (f : Elastic → Elastic) : (d.modElastic key f).fault = d.fault := rfl
@[simp] theorem Dev.modElastic_ev (key : Nat) (f : Elastic → Elastic) : (d.modElastic key f).ev = d.ev := rfl
@[simp] theorem Dev.modElastic_chain (key : Nat) (f : Elastic → Elastic) : (d.modElastic key f).chain = d.chain := rfl
@[simp] theorem Dev.modElastic_jobs (key : Nat) (f : Elastic → Elastic) : (d.modElastic key f).jobs = d.jobs := rfl
@[simp] theorem Dev.modElastic_glint (key : Nat) (f : Elastic → Elastic) : (d.modElastic key f).glint = d.glint := rfl
@[simp] theorem Dev.modElastic_hitch (key : Nat) (f : Elastic → Elastic) : (d.modElastic key f).hitch = d.hitch := rfl
@[simp] theorem Dev.modElastic_power (key : Nat) (f : Elastic → Elastic) : (d.modElastic key f).power = d.power := rfl
@[simp] theorem Dev.modElastic_flash (key : Nat) (f : Elastic → Elastic) : (d.modElastic key f).flash = d.flash := rfl
@[simp] theorem Dev.modElastic_out (key : Nat) (f : Elastic → Elastic) : (d.modElastic key f).out = d.out := rfl
@[simp] theorem Dev.modElastic_tiers_elastic (key : Nat) (f : Elastic → Elastic) : (d.modElastic key f).tiers.elastic = d.tiers.elastic.put key (f (d.elastic key)) := rfl

/-! ### Dev.modSheet -/

@[simp] theorem Dev.modSheet_boot (f : Sheet → Sheet) : (d.modSheet f).boot = d.boot := rfl
@[simp] theorem Dev.modSheet_clk (f : Sheet → Sheet) : (d.modSheet f).clk = d.clk := rfl
@[simp] theorem Dev.modSheet_host (f : Sheet → Sheet) : (d.modSheet f).host = d.host := rfl
@[simp] theorem Dev.modSheet_path (f : Sheet → Sheet) : (d.modSheet f).path = d.path := rfl
@[simp] theorem Dev.modSheet_xl (f : Sheet → Sheet) : (d.modSheet f).xl = d.xl := rfl
@[simp] theorem Dev.modSheet_line (f : Sheet → Sheet) : (d.modSheet f).line = d.line := rfl
@[simp] theorem Dev.modSheet_tiers (f : Sheet → Sheet) : (d.modSheet f).tiers = d.tiers := rfl
@[simp] theorem Dev.modSheet_prism (f : Sheet → Sheet) : (d.modSheet f).prism = d.prism := rfl
@[simp] theorem Dev.modSheet_dram (f : Sheet → Sheet) : (d.modSheet f).dram = d.dram := rfl
@[simp] theorem Dev.modSheet_home (f : Sheet → Sheet) : (d.modSheet f).home = d.home := rfl
@[simp] theorem Dev.modSheet_fault (f : Sheet → Sheet) : (d.modSheet f).fault = d.fault := rfl
@[simp] theorem Dev.modSheet_ev (f : Sheet → Sheet) : (d.modSheet f).ev = d.ev := rfl
@[simp] theorem Dev.modSheet_chain (f : Sheet → Sheet) : (d.modSheet f).chain = d.chain := rfl
@[simp] theorem Dev.modSheet_jobs (f : Sheet → Sheet) : (d.modSheet f).jobs = d.jobs := rfl
@[simp] theorem Dev.modSheet_glint (f : Sheet → Sheet) : (d.modSheet f).glint = d.glint := rfl
@[simp] theorem Dev.modSheet_hitch (f : Sheet → Sheet) : (d.modSheet f).hitch = d.hitch := rfl
@[simp] theorem Dev.modSheet_power (f : Sheet → Sheet) : (d.modSheet f).power = d.power := rfl
@[simp] theorem Dev.modSheet_flash (f : Sheet → Sheet) : (d.modSheet f).flash = d.flash := rfl
@[simp] theorem Dev.modSheet_out (f : Sheet → Sheet) : (d.modSheet f).out = d.out := rfl
@[simp] theorem Dev.modSheet_conf_sheet (f : Sheet → Sheet) : (d.modSheet f).conf.sheet = d.conf.sheet.map f := rfl
@[simp] theorem Dev.modSheet_conf_regions (f : Sheet → Sheet) : (d.modSheet f).conf.regions = d.conf.regions := rfl

/-! ### Dev.modCinch -/

@[simp] theorem Dev.modCinch_boot (f : Cinch → Cinch) : (d.modCinch f).boot = d.boot := rfl
@[simp] theorem Dev.modCinch_clk (f : Cinch → Cinch) : (d.modCinch f).clk = d.clk := rfl
@[simp] theorem Dev.modCinch_host (f : Cinch → Cinch) : (d.modCinch f).host = d.host := rfl
@[simp] theorem Dev.modCinch_path (f : Cinch → Cinch) : (d.modCinch f).path = d.path := rfl
@[simp] theorem Dev.modCinch_xl (f : Cinch → Cinch) : (d.modCinch f).xl = d.xl := rfl
@[simp] theorem Dev.modCinch_line (f : Cinch → Cinch) : (d.modCinch f).line = d.line := rfl
@[simp] theorem Dev.modCinch_tiers (f : Cinch → Cinch) : (d.modCinch f).tiers = d.tiers := rfl
@[simp] theorem Dev.modCinch_prism (f : Cinch → Cinch) : (d.modCinch f).prism = d.prism := rfl
@[simp] theorem Dev.modCinch_dram (f : Cinch → Cinch) : (d.modCinch f).dram = d.dram := rfl
@[simp] theorem Dev.modCinch_home (f : Cinch → Cinch) : (d.modCinch f).home = d.home := rfl
@[simp] theorem Dev.modCinch_fault (f : Cinch → Cinch) : (d.modCinch f).fault = d.fault := rfl
@[simp] theorem Dev.modCinch_ev (f : Cinch → Cinch) : (d.modCinch f).ev = d.ev := rfl
@[simp] theorem Dev.modCinch_chain (f : Cinch → Cinch) : (d.modCinch f).chain = d.chain := rfl
@[simp] theorem Dev.modCinch_jobs (f : Cinch → Cinch) : (d.modCinch f).jobs = d.jobs := rfl
@[simp] theorem Dev.modCinch_glint (f : Cinch → Cinch) : (d.modCinch f).glint = d.glint := rfl
@[simp] theorem Dev.modCinch_hitch (f : Cinch → Cinch) : (d.modCinch f).hitch = d.hitch := rfl
@[simp] theorem Dev.modCinch_power (f : Cinch → Cinch) : (d.modCinch f).power = d.power := rfl
@[simp] theorem Dev.modCinch_flash (f : Cinch → Cinch) : (d.modCinch f).flash = d.flash := rfl
@[simp] theorem Dev.modCinch_out (f : Cinch → Cinch) : (d.modCinch f).out = d.out := rfl
@[simp] theorem Dev.modCinch_conf_sheet (f : Cinch → Cinch) : (d.modCinch f).conf.sheet = d.conf.sheet.map fun x => { x with cinch := x.cinch.map f } := rfl
@[simp] theorem Dev.modCinch_conf_regions (f : Cinch → Cinch) : (d.modCinch f).conf.regions = d.conf.regions := rfl

@[simp] theorem Dev.elastic_modElastic_self (n : Nat) (f : Elastic → Elastic) : (d.modElastic n f).elastic n = f (d.elastic n) := Tab.val_put_self ..
@[simp] theorem Dev.elastic_modElastic_ne (n m : Nat) (f : Elastic → Elastic) (h : m ≠ n) : (d.modElastic n f).elastic m = d.elastic m :=
  Tab.val_put_ne _ _ _ h

end Sys2Proof.Machine
end

