-- ==== Sys2Proof/Laws/Requests.lean ====
section
/-! SUPPORT. Laws of the request list, and of what leaves through a link's egress. -/

namespace Sys2Proof.Laws

open Sys2Proof Sys2Proof.Machine

variable {α : Type}

/-- After the first element that satisfies p was replaced by one that satisfies it, the search finds the new one. -/
theorem find_replaceFirst (p : α → Bool) (b : α) (hb : p b = true) (l : List α) (a : α) (h : l.find? p = some a) :
    (replaceFirst p (fun _ => b) l).find? p = some b := by
  induction l with
  | nil => simp at h
  | cons x l ih =>
    unfold replaceFirst
    by_cases hx : p x = true
    · simp [hx, hb]
    · simp only [hx, Bool.false_eq_true, if_false, List.find?_cons] at h ⊢
      exact ih h

/-- A request that stands in the list is found in its new form. -/
theorem req_setReq {d : Dev} {q x : Req} (h : d.req q.id = some x) : (d.setReq q).req q.id = some q :=
  find_replaceFirst _ _ (by simp) _ _ h

theorem req_stageReq {d : Dev} {q x : Req} (st : Stage) (h : d.req q.id = some x) :
    (d.stageReq q st).req q.id = some { q with stage := st } :=
  req_setReq (q := { q with stage := st }) h

/-- A request that stands anywhere in the list is found by its number. -/
theorem req_isSome_of_mem {d : Dev} {q : Req} (h : q ∈ d.path.reqs) : ∃ x, d.req q.id = some x :=
  Option.isSome_iff_exists.mp (List.find?_isSome.mpr ⟨q, h, by simp⟩)

theorem req_mem {d : Dev} {q : Req} {n : Nat} (h : d.req n = some q) : q ∈ d.path.reqs := List.mem_of_find?_eq_some h

theorem mem_replaceFirst (p : α → Bool) (b : α) (l : List α) (a : α) (h : l.find? p = some a) :
    b ∈ replaceFirst p (fun _ => b) l := by
  induction l with
  | nil => simp at h
  | cons x l ih =>
    unfold replaceFirst
    by_cases hx : p x = true
    · simp [hx]
    · simp only [hx, Bool.false_eq_true, if_false, List.find?_cons] at h ⊢
      exact List.mem_cons_of_mem _ (ih h)

end Sys2Proof.Laws
end

