-- ==== Sys2Proof/Tests/Slice0.lean ====
section
/-! SUPPORT. Tests on fixed values: commands that nothing outside can send, the manual's worked examples, and for the statements in
Sys2Proof/Certificates/Slice0/Obligations.lean states and operands that meet their hypotheses, clause by clause. -/

namespace Sys2Proof.Tests

open Sys2Proof Sys2Proof.Machine

set_option Elab.async false
set_option maxRecDepth 4000

/-! ### Commands that nothing outside can send -/

theorem test_wf_slots : Instr.wf (.dramSlotFill 0 0 255 [] false) = true ∧ Instr.wf (.dramSlotFill 0 0 256 [] false) = false ∧
    Instr.wf (.streamSliceExpiry 255) = true ∧ Instr.wf (.streamSliceExpiry 256) = false ∧ Instr.wf (.copyBatchDone 256 0) = false ∧
    Instr.wf (.streamDescriptorDone 255 []) = true ∧ Instr.wf (.streamDescriptorDone 256 []) = false := by decide

theorem test_wf_indices : Instr.wf (.rowDisturbanceTrip 0 0 0 0 32767) = true ∧ Instr.wf (.rowDisturbanceTrip 0 0 0 0 32768) = false ∧
    Instr.wf (.directoryError 131071 0) = true ∧ Instr.wf (.directoryError 131072 0) = false ∧
    Instr.wf (.firstLevelExpiry none 0 8388607) = true ∧ Instr.wf (.firstLevelExpiry none 0 8388608) = false ∧
    Instr.wf (.counterInvalidClear 17407) = true ∧ Instr.wf (.counterInvalidClear 17408) = false := by decide

theorem test_wf_sources : Instr.wf (.faultReactionStart 0xA00) = true ∧ Instr.wf (.faultReactionStart 0xA01) = false ∧
    Instr.wf (.interruptAcknowledge 0 1047) = true ∧ Instr.wf (.interruptAcknowledge 0 1048) = false ∧
    Instr.wf (.coalesceTimeExpiry (.source 1047)) = true ∧ Instr.wf (.coalesceTimeExpiry (.source 1048)) = false := by decide

theorem test_wf_readings : Instr.wf (.moduleThermalRead (List.replicate 16 40)) = true ∧ Instr.wf (.moduleThermalRead [40]) = false ∧
    Instr.wf (.driftCheck (List.replicate 32 0)) = true ∧ Instr.wf (.driftCheck (List.replicate 33 0)) = false ∧
    Instr.wf (.dieMonitorRead (List.replicate 24 40) (List.replicate 24 750)) = true ∧
    Instr.wf (.dieMonitorRead (List.replicate 24 40) []) = false := by decide

theorem test_wf_links : Instr.wf (.hostLinkUp .h0a true true false 16 6 0 0 0) = true ∧ Instr.wf (.hostLinkUp .h0a true true false 3 6 0 0 0) = false ∧
    Instr.wf (.hostLinkUp .h0a true true false 16 0 0 0 0) = false ∧ Instr.wf (.hostLinkUp .h0a true true false 16 7 0 0 0) = false := by decide

theorem test_wf_decoders : Instr.wf (.hdmDecoderCommit 0 0 ⟨0, 268435456, 0, 14, 4⟩) = true ∧
    Instr.wf (.hdmDecoderCommit 0 0 ⟨0, 268435456, 0, 15, 4⟩) = false ∧ Instr.wf (.hdmDecoderCommit 0 0 ⟨0, 268435456, 0, 8, 5⟩) = false ∧
    Instr.wf (.hdmDecoderCommit 0 0 ⟨0, 268435456, 0, 7, 0⟩) = false := by decide

theorem test_wf_register : Instr.wf (.registerWrite 0 ⟨.bar0, 0, 4, 0xFFFFFFFF⟩) = true ∧
    Instr.wf (.registerWrite 0 ⟨.bar0, 0, 4, 0x100000000⟩) = false ∧ Instr.wf (.registerWrite 0 ⟨.bar0, 0, 3, 0⟩) = false := by decide

theorem test_wf_eyes : Instr.wf (.glintPeriodicScan (.host .h0 0) [⟨9, 9, 9, 9⟩]) = true ∧ Instr.wf (.glintPeriodicScan (.host .h0 0) []) = false := by
  decide

/-- A module that the tests plug in: two ranks of 32 Gb dies. -/
def module : Spd :=
  { kind := .rdimm, ecc80 := true, width := 4, ranks := 2, dies := 1, gib := 128, density := 32, trfcNs := 410, thermal := true, rfm := true
    rfmNs := 195, speed := 6400, serial := 7 }

theorem test_wf_modules : Instr.wf (.firmwareBoot (List.replicate 16 (some module)) []) = true ∧
    Instr.wf (.firmwareBoot [some module] []) = false ∧ Instr.wf (.firmwareBoot (List.replicate 16 (some { module with ranks := 0 })) []) = false ∧
    Instr.wf (.moduleReplacePhaseEnd 0 (some { module with gib := 0 })) = false := by decide

/-- A flit with the given messages. -/
def flit (l : List Msg) : Flit := { hdr := { kind := 1 }, marker := none, msgs := l }

theorem test_wf_flits : Instr.wf (.requestFlit 0 (flit (List.replicate 14 { op := .rd }))) = true ∧
    Instr.wf (.requestFlit 0 (flit (List.replicate 15 { op := .rd }))) = false ∧
    Instr.wf (.requestFlit 0 (flit [{ op := .mgmt, body := zeros 207 }])) = true ∧
    Instr.wf (.requestFlit 0 (flit [{ op := .mgmt, body := zeros 208 }])) = false ∧
    Instr.wf (.requestFlit 0 (flit [{ op := .rd, body := [0] }])) = false ∧
    Instr.wf (.responseFlit 0 { flit [] with hdr := { kind := 2, mark := true } }) = false := by decide +kernel

theorem test_wf_payload : (∀ l : List Byte, l.length = 32769 → Instr.wf (.identify (.mc none) l) = false) ∧
    (∀ l : List Byte, l.length = 32768 → Instr.wf (.identify (.mc none) l) = true) ∧
    (∀ l : List Byte, l.length = 4097 → Instr.wf (.demotionVerifyDone 0 l) = false) := by
  refine ⟨fun l h => ?_, fun l h => ?_, fun l h => ?_⟩ <;> simp [Instr.wf, wfPayload, payloadLimit, h]

/-- The table gives no row bits, so no word spells a command. -/
theorem test_no_word_spells (n w : Nat) : decodeTableWord n w = none := rfl

/-! ### The manual's worked examples -/

/-- R203's example: media address A31F07840h with 2^30 lines a rank. -/
theorem test_media_address : (0xA31F07840 / 256 % 8, chanLine (0xA31F07840 / 64)) = (0, 0, 0x518F83D) ∧
    let x := placeOf 0 (2 ^ 30) 0x518F83D
    (x.rank, x.sub, x.bank % 8, x.col, x.bank / 8, x.row) = (0, 1, 6, 3, 3, 0x28C7) := by decide

/-- R89's example: a DPA's indices, its pool page, and the knot that names the line. -/
theorem test_knot_address : 0xCA0A13840 / mib2 / 512 = 50 ∧ 0xCA0A13840 / mib2 % 512 = 261 ∧ 0x12345 * 512 + 0xCA0A13840 / 4096 % 512 = 0x2468A13 ∧
    knotState 0x400A31F07 = 1 ∧ knotBody 0x400A31F07 * 4096 + 0xCA0A13840 % 4096 = 0xA31F07840 := by decide

/-- The example after R402: device 4 of subchannel 1 of physical rank 0 on CH2 is source 00AEh. -/
theorem test_source_number : srcDevice 2 0 1 4 = 0xAE := by decide

/-- R135's example: after 41h 42h, a match with Offset 2 and Length 6 repeats the two bytes. -/
theorem test_match_repeats : decodeUnit 8 3 [0x01, 0x41, 0x42, 0x80, 0x01, 0x02] [] = some [0x41, 0x42, 0x41, 0x42, 0x41, 0x42, 0x41, 0x42] := by
  decide +kernel

/-- R148's example: a descriptor of 1,000,000 bytes with END set. -/
theorem test_output_bound : outMax 1000000 false true = 1031272 := by decide

/-! ### States that meet the statements' hypotheses -/

/-- A device that runs in P0, with every other field as at reset. -/
def dev : Dev := { boot := .running }

/-- The state of a device with no command waiting. -/
def on (d : Dev) : State := { dev := d }

/-- A device with 2 GiB of formed media, the table area in its upper half. -/
def media : Dev :=
  { dev with dram := { formed := true, ranks := 1, logical := 1, lines := 4194304, slots := 100 }, conf.cur := [(settingKey idKnotReach 0, 0)] }

/-- LD 0's primary mailbox, and the management controller naming LD 0. -/
def host : Issuer := .host 0 .primary
def mc : Issuer := .mc (some 0)

/-- A request of LD 0 with a label at a stage. -/
def req (id : Nat) (l : Label) (st : Stage) : Req := { id := id, src := .host .h0a 0 0, op := .read, label := l, stage := st }

/-- A region of LD 0: direct, plain, 16 units from 0 on, with a label. -/
def region (l : Label) : Region :=
  { ld := 0, entry := 0, kind := .firm, knotted := false, prot := .plain, reflected := false, key := 0, label := l, set := 0, base := 0, size := 16
    floor := [16] }

/-- LD 0 on link H0a, which is up as CXL, with its first 256 MiB mapped to DPA 0 and unit 0 held at frame 3. -/
def linked : Dev :=
  { media with
    conf.cur := [(settingKey idLdLink 0, 0), (settingKey idKnotReach 0, 0)]
    conf.regions := [region 0x05]
    host.links := [(0, { st := .up, cxl := true })]
    host.lds := [(0, { hdm := [(0, { hpaBase := 0, size := 268435456, dpaBase := 0, ig := 8, iw := 0 })]
                       exts := [{ start := 0, len := 1, entry := 0, dev := 0, st := .held, place := [3] }] })] }

/-- The extent entry of LD 0's unit 0 at frame 3 with label 45h, and the line of its table as it is stored. -/
def extEntry0 : BitVec 64 := 201609217
def extBurst0 : Burst := 1768982115598761574236142715594275312553522974847724260628862028788271961265035943767723733684434570496663824766019108524855964711858365605735700599440197484578674474551450550978694994437885953

/-- That line in a table of its own, behind a directory entry that the extent cache holds, and a walk for it. -/
def walking : Dev :=
  { media with line.mem := Memory.setBurst [] 16844800 extBurst0
               xl.walks := [{ id := 1, target := .stage1 0 0, label := 0x45, prefetch := false }]
               xl.xc := [{ kind := .s1l1, ld := 0, index := 0, value := mkDir 1078067200, addr := 0 }] }

/-- Input of a submission: header with a label, count and cookie, body and entries. -/
def submit (label count : Nat) (rest : List Byte) : List Byte := leBytes 1 label ++ [1, 0, 0] ++ leBytes 4 count ++ leBytes 8 7 ++ rest

/-- LD 0 with its region, active keys 5 and 6, and a module in slot 0. -/
def ready : Dev :=
  { linked with
    conf.regions := [{ region 0x85 with kind := .firm }, { region 0x85 with entry := 1, base := 16, kind := .elastic, knotted := true }]
    line.keys := [(5, { st := .active }), (6, { st := .active })]
    dram.mods := [(0, module)] }

/-- A job of LD 0, and a finished one of slot 0. -/
def job (k : JKind) (st : JState) : Job := { kind := k, label := 0xC0, owner := some 0, st := st, total := 1 }

def past : Finished := { id := 0, owner := some 0, st := .done, bytes := zeros 62 }

theorem meets_StepTakesFrontCommand : State.reset.pending = [] := rfl

theorem meets_StepKeepsMemoryCanonical : MemCanonical State.reset ∧ ∃ t, step (on { dev with line.mem := [⟨5, 1⟩] }) = .next t ∧
    MemCanonical (on { dev with line.mem := [⟨5, 1⟩] }) := ⟨rfl, _, rfl, rfl⟩

theorem meets_MediaReadAfterWrite : Memory.wf [] = true ∧ Memory.wf [⟨0, 1⟩, ⟨8796093022207, 255⟩] = true := by decide +kernel

theorem meets_MediaAddressDecode : 0 < 1 ∧ placeOf (chanLine 77).1 1 (chanLine 77).2 = placeOf (chanLine 77).1 1 (chanLine 77).2 ∧
    (∃ o < 32768, ∃ c < 2, mirrorLine (2 * 1 * 32768 + o) c = mirrorLine 65536 0) :=
  ⟨by decide, rfl, 0, by decide, 0, by decide, rfl⟩

/-- A class at its minimum with the shared part full is refused, and with one entry of it free granted; a port whose link is up may send. -/
theorem meets_QueueGrants : grants [4, 2, 1, 1] 3 [4, 2, 1, 4] 0 = false ∧ grants [4, 2, 1, 1] 3 [4, 2, 1, 3] 0 = true ∧ (3 : Nat) < 4 ∧
    (∃ (x : TPort) (m : Msg), m.op.isRequest = true ∧ x.maySend m = true) :=
  ⟨by decide, by decide, by decide, { st := .active }, { op := .rd }, rfl, by decide⟩

/-- Requests of the four classes wait at ingress with room before them. -/
theorem meets_RegulatorOrderAndAge :
    (let d := { dev with path.reqs := [req 1 0xC0 .ingress, req 2 0x81 .ingress, req 3 0x42 .ingress, req 4 0x05 .ingress] }
     d.clk.clk < 500 ∧ d.candidate = some (req 4 0x05 .ingress)) ∧
    (let d := { dev with path.reqs := [req 1 0xC0 .ingress, req 2 0x81 .ingress, req 3 0x42 .ingress], clk.clk := 499 }
     d.clk.clk < 500 ∧ d.candidate = some (req 3 0x42 .ingress)) ∧
    (let d := { dev with path.reqs := [req 1 0xC0 .ingress, req 2 0x81 .ingress], path.c2 := [(1, { r := 16, a := 16 })] }
     d.candidate = some (req 2 0x81 .ingress) ∧ (d.path.rr + 1 + 0) % 64 = 1) ∧
    (let d := { dev with path.reqs := [req 1 0xC0 .ingress, req 2 0x81 .ingress], path.c2 := [(1, { r := 16, a := 15 })] }
     d.path.gate = true ∧ d.candidate = some (req 1 0xC0 .ingress)) ∧
    (let d := { dev with path.reqs := [req 1 0xC0 .ingress], path.gate := false }
     d.clk.clk < 500 ∧ d.candidate = none) ∧
    (let d := { dev with path.reqs := [req 1 0x05 .sched], clk.bnd := 8 }
     (∃ q ∈ d.path.reqs, q.id = 1 ∧ q.regulated = false ∧ q.stage ≠ .store ∧ q.admitBnd + d.setting idAgeLimit 0 ≤ d.clk.bnd)) := by
  decide +kernel

/-- The plain check of a line, its word 3 in error, and its parity. -/
theorem meets_LineJudgment :
    let check : Line → BitVec 64 := plainCheck 0
    let b := mkBurst 5 (check 5)
    let x : Burst := b ^^^ (BitVec.ofNat 640 (2 ^ (64 * 3 + 7)))
    (∀ j < 10, j ≠ 3 → burstWord x j = burstWord b j) ∧ x ≠ b ∧ trial check x ≠ 1 ∧
    ((List.range 9).filter fun j => trial check (rebuild x j) ≠ 0) = [3] ∧
    (∀ j < 10, j ≠ 9 → burstWord (b ^^^ BitVec.ofNat 640 (2 ^ 576)) j = burstWord b j) := by
  decide +kernel

/-- Every interface may send a command to a device that runs and is awake. -/
theorem meets_Takes : Takes (on dev) := ⟨rfl, rfl⟩

theorem meets_FaultPin : (zeros 7).length ≠ 8 ∧ (issuerMc host = false) ∧ issuerMc mc = true ∧ 1 < field (2 :: zeros 7) 0 1 ∧
    field (1 :: zeros 7) 0 1 ≤ 1 ∧ rsvd (1 :: zeros 7) 1 7 = true ∧
    (let d := { dev with fault.pulse := true }
     d.fault.pulse = true ∧ d.power.thermtrip = false ∧ d.boot = .running) := by decide +kernel

/-- LD 0 reaches its region, in contract and out of it; a stored request finds an entry. -/
theorem meets_RequestEntersIngress :
    let d := linked
    ((d.link 0).carries = true ∧ (d.link 0).cxl = true ∧ (d.link 0).viral = false ∧ d.ldOnLink 0 0 = some 0 ∧ (d.ld 0).resetting = false ∧
     d.dpaOf 0 64 = some 64 ∧ d.regionAt 0 64 = some (region 0x05) ∧ d.mapped 0 64 = true ∧ (d.ld 0).allowance = 0) ∧
    (let d := { linked with path.reqs := [req 1 0x05 .store] }
     d.ingressRoom 0 0 = true ∧ d.power.quiet = false ∧ d.stored 0 0 = some (req 1 0x05 .store)) := by decide +kernel

theorem test_extent_entry : mkExt .firm false .plain 0 0x45 false 0 3 = extEntry0 ∧ media.s1l2Base = 1078067200 ∧
    mkBurst (BitVec.ofNat 512 extEntry0.toNat) (plainCheck 1078067200 (BitVec.ofNat 512 extEntry0.toNat)) = extBurst0 := by decide +kernel

/-- The walk of LD 0's unit 0 reads a good entry, of unit 1 an empty one. -/
theorem meets_WalksAndCaches :
    (let d0 : Dev := { walking with xl.walks := walking.xl.walks.filter (·.id ≠ 1) }
     let r : Reader := { label := 0x45, who := reqLd 0 }
     walking.xl.walks.find? (·.id = 1) = some { id := 1, target := .stage1 0 0, label := 0x45, prefetch := false } ∧
     (match d0.walk1 0 0 [] r with | (.ok e, _) => e == extEntry0 | _ => false) = true ∧
     (match d0.walk1 0 1 [] r with | (.error f, _) => f.cause == 1 | _ => false) = true) ∧
    (let x : KSlot := { block := 7, valid := BitVec.allOnes 36, knots := 0, recs := 0, recsValid := false, filling := true }
     ({ dev with xl.kc := [x] } : Dev).kslot 7 = some x ∧ x.filling = true ∧ x.recsValid = false) ∧
    (let f : CtFetch := { id := 4, line := 0, attr := {}, page := 0 }
     [f].find? (·.id = f.id) = some f) := by decide +kernel

theorem meets_BoundaryActionsInOrder : dev.clocked = true ∧ ({ dev with power.st := .p2 } : Dev).clocked = false := by decide +kernel

theorem meets_OverloadDeclared :
    (let d := { dev with path.overs := [(129, { run := 4001 })] }
     4001 ≤ (d.path.overs.val 129 {}).run ∧ (d.path.overs.val 129 {}).outside = none) ∧
    (let d := { dev with path.overs := [(129, { run := 4000 })] }
     (d.path.overs.val 129 {}).run < 4001) := by decide +kernel

/-- Input of TABLE.INVAL: kind, LD, count, start. -/
def invalInput (kind ld count start : Nat) : List Byte := leBytes 1 kind ++ leBytes 1 ld ++ [0, 0] ++ leBytes 4 count ++ leBytes 8 start

theorem meets_TableChangesAndPokes :
    (let c : Change := { id := 3, scope := .all, applied := true, waits := [], after := .nothing }
     [c].find? (·.id = c.id) = some c ∧ ({ dev with xl.changes := [c] } : Dev).afterReady c.after = true) ∧
    (let d0 := dev.doorbell (mailDoorbell host)
     d0.bgBusy host = false ∧
     (let i := invalInput 0 0 0 0
      i.length = 16 ∧ rsvd i 2 2 = true ∧ field i 0 1 = 0 ∧ field i 1 1 = 0 ∧ field i 4 4 = 0 ∧ field i 8 8 = 0) ∧
     (let i := invalInput 1 31 1 (2 ^ 44 - mib2)
      i.length = 16 ∧ rsvd i 2 2 = true ∧ field i 0 1 = 1 ∧ field i 1 1 < 32 ∧ 0 < field i 4 4 ∧ field i 8 8 % mib2 = 0 ∧
        field i 8 8 + field i 4 4 * mib2 ≤ 2 ^ 44) ∧
     (let i := invalInput 2 0 8388608 0
      i.length = 16 ∧ rsvd i 2 2 = true ∧ field i 0 1 = 2 ∧ field i 1 1 = 0 ∧ 0 < field i 4 4 ∧ field i 8 8 % 512 = 0 ∧
        field i 8 8 + field i 4 4 * 512 ≤ 2 ^ 32) ∧
     (let i := invalInput 1 0 0 (2 ^ 44)
      i.length = 16 ∧ rsvd i 2 2 = true ∧ field i 0 1 = 1 ∧ field i 1 1 < 32 ∧ field i 4 4 = 0 ∧ field i 8 8 % mib2 = 0 ∧ field i 8 8 ≤ 2 ^ 44)) ∧
    (let d0 := walking.doorbell (mailDoorbell mc)
     let addr := 1078067200
     let i := [1, 0, 0, 0, 0, 0, 0, 0] ++ leBytes 8 addr ++ leBytes 8 5
     i.length = 24 ∧ d0.conf.regions = [] ∧ 1 ≤ field i 0 1 ∧ field i 0 1 ≤ 4 ∧ rsvd i 1 3 = true ∧ rsvd i 6 2 = true ∧ field i 4 2 = 0 ∧
       field i 8 8 = addr ∧ addr % 8 = 0 ∧ d0.inTable addr 8 = true ∧ (d0.readTable (addr / 64) 0 {}).1.v.good = true) ∧
    (let d (n : Nat) (b : Bool) : Dev := { dev with line.ct := [{ line := 5, data := 0, dirty := b, incs := n }] }
     ((d 65535 true).ctLook 5).map (fun x => (x.dirty, x.incs)) = some (true, 65535) ∧
     ((d 65534 true).ctLook 5).map (fun x => (x.dirty, x.incs)) = some (true, 65534)) := by decide +kernel

/-- A sealed knotted page whose line 0 has its minor at the top; one major short of the last, and at it. -/
def overflown (major : Nat) : Dev :=
  let a : Attr := { prot := .sealed, key := 3, knotted := true, base := 1073741824 }
  { media with line.ct := [{ line := headerLine a.base 0, data := hdrSetMajor (hdrSetMinor 0 0 127) major, tree := true }]
               line.wb := [{ id := 9, line := 640, kind := .full, label := 0x80, attr := a, admitBnd := 0 }] }

theorem meets_minor_overflow : ∀ major ∈ [2 ^ 64 - 2, 2 ^ 64 - 1],
    let d := overflown major
    ∃ w ∈ d.line.wb, d.line.wb.find? (·.id = w.id) = some w ∧ d.overflowing w = true ∧ d.headerCached w.attr w.page = true ∧
      (d.wbOn w.line).head? = some w ∧ d.wbBusy w.id = false ∧ hdrMajor (d.header w.attr.base w.page) = major := by decide +kernel

/-- A page's header in the cache and its old knot in its block. -/
theorem meets_promotion :
    let a : Attr := { knotted := true, base := 1073741824 }
    let p : Promo := { page := 0, knot := 0, dest := 0x400000005, attr := a }
    let s : Dev := { media with tiers.promo := [(31, p)], line.ct := [{ line := headerLine a.base 0, data := 0 }] }
    let (good, d) := s.fetchHeader p.attr p.page []
    let d1 := { d with tiers.promo := d.tiers.promo.del 31 }
    s.tiers.promo.look 31 = some p ∧ good = true ∧ d1.knotAt (p.attr.base + unitLeaf) (p.page % 512) = p.knot := by decide +kernel

/-- A row group at the threshold with a C2 contributor; one short of it. -/
theorem meets_RowDisturbanceDefence :
    let b (n : Nat) : Dev := { dev with dram.banks := [(0, { groups := [(5, n)], contrib := [⟨0, 0x05, 9⟩, ⟨1, 0x81, 4⟩] })] }
    (let d := b (dev.setting idRhThreshold 0)
     d.setting idRhThreshold 0 ≤ (d.bank 0).groups.val 5 0 ∧ (d.chan 0).rfmDue = [] ∧ (d.chan 0).rfm.contains 0 = false ∧ d.c0Waits 0 = false ∧
       topContrib (d.bank 0).contrib = some ⟨1, 0x81, 4⟩) ∧
    (let d := b (dev.setting idRhThreshold 0 - 1)
     ∀ g ∈ (d.bank 0).groups, g.2 < d.setting idRhThreshold 0) := by decide +kernel

/-- An access in the queue of channel 0, subchannel 0. -/
def acc (id : Nat) (k : AKind) (l : Label) : Acc := { id := id, kind := k, line := 0, ch := 0, rank := 0, sub := 0, bank := 0, row := 0, label := l, who := 0 }

theorem meets_SlotCarriesThePick :
    (let s := { media with dram.accs := [acc 1 (.read 1) 0x81], dram.banks := [(0, { opened := some 0 })] }
     let b := s.fromBuffer 0
     let d0 := (b.countTo 0 0 99).modChan 0 fun c => { c with slot := c.slot.put 0 100 }
     let can := d0.eligible 0 0 [(1, true)]
     (s.chan 0).ppr = [] ∧ b.dram = s.dram ∧
       99 < s.dram.slots ∧ (s.chan 0).slot.val 0 0 ≤ 99 ∧ s.dram.selfRefresh = false ∧ (s.chan 0).plan.getD 99 .unmarked = .unmarked ∧
       d0.writeMode 0 0 can = 0 ∧ pickFill false (can.filter fun e => e.1.isWrite = false) = some (acc 1 (.read 1) 0x81, true) ∧
       (acc 1 (.read 1) 0x81).isWrite = false) ∧
    (let s := { media with dram.chans := [(0, { plan := [.blocked] })] }
     (s.chan 0).plan.getD 0 .unmarked = .blocked) := by decide +kernel

theorem meets_FillOrder :
    let l : List (Acc × Bool) := [(acc 1 (.write 1) 0x05, false), (acc 2 (.read 2) 0x81, true), ({ acc 3 (.read 3) 0x82 with promoted := true }, true),
      (acc 4 (.read 4) 0x05, false)]
    (∀ x ∈ l, x.1.admitBnd < 2 ^ 64) ∧ (∃ x ∈ l, x.1.cls = 0) ∧ pickFill false l = some (acc 1 (.write 1) 0x05, false) ∧
      (∃ x ∈ l, x.1.cls = 0 ∧ x.1.isWrite = false) ∧ pickFill true l = some (acc 4 (.read 4) 0x05, false) ∧
      (let m := l.filter fun x => decide (x.1.cls ≠ 0)
       (∀ x ∈ m, x.1.cls ≠ 0) ∧ (∃ x ∈ m, x.1.promoted = true) ∧ (pickFill false m).map (·.1.id) = some 3) := by decide +kernel

theorem meets_ReadsAndScrub :
    (let a := { acc 1 (.read 7) 0x81 with issued := true }
     let s : Dev := { media with dram.accs := [a], path.reqs := [req 7 0x81 .issued] }
     s.dram.accs.find? (fun x => x.id = a.id && x.issued) = some a ∧ s.req 7 = some (req 7 0x81 .issued)) ∧
    (let s : Dev := { media with conf.cur := [(settingKey idScrubHours 0, 24)] }
     s.setting idScrubHours 0 ≠ 0 ∧ s.power.quiet = false ∧ s.path.gate = true ∧ s.dram.formed = true ∧ s.dram.selfRefresh = false ∧
       s.dram.scrubPos + 1 < s.scrubTotal ∧ s.scrubPlace s.dram.scrubPos = some 0 ∧ s.line.wb = [] ∧ s.schedRoom (0 / 4 % 8) 3 = true ∧
       (let r := { s with dram.chans := [(0, { retired := [0] })] }
        r.scrubPlace r.dram.scrubPos = none) ∧
       (let r := { s with clk.bnd := 2 * 24 * hourBeats }
        r.dram.scrubPos < r.scrubTotal ∧ r.dram.scrubLate = false ∧
          r.dram.scrubFrom.2 + 2 * r.setting idScrubHours 0 * hourBeats ≤ r.clk.bnd)) := by decide +kernel

theorem meets_RefreshAndTemperature :
    (media.dram.phase = 0 ∧ media.dram.selfRefresh = false ∧ media.dram.formed = true ∧ ({ media with dram.phase := 7 } : Dev).refreshOff = 7) ∧
    (∃ x ∈ List.replicate 15 80 ++ [86], 85 < x) ∧ (∀ x ∈ List.replicate 16 82, x ≤ 82) ∧
    ((∀ x ∈ List.replicate 15 80 ++ [85], x ≤ 85) ∧ ∃ x ∈ List.replicate 15 80 ++ [85], 82 < x) ∧
    (let d := { media with clk.bnd := media.setting idDriftPeriod 0 * 4096 }
     d.setting idDriftPeriod 0 ≠ 0 ∧ d.dram.driftFrom + d.setting idDriftPeriod 0 * 4096 ≤ d.clk.bnd) := by decide +kernel

theorem meets_RowRepairAndRankCopy :
    (let k := rowKey { ch := 0, rank := 0, sub := 0, bank := 37 % 32, row := 37 / 32, col := 0 }
     let d := { linked with dram.hardRows := [k] }
     d.dram.hardRows.contains k = true ∧ d.c0OnRank 0 0 = true ∧ ({ d with conf.regions := [region 0x85] } : Dev).c0OnRank 0 0 = false) ∧
    (let r : CopyReg := { src := 0, shadow := 1, cursor := 4194240 }
     let d := { media with dram.ranks := 2, dram.chans := [(0, { copy := some r, shadows := [1] })] }
     (d.chan 0).copy = some r ∧ r.cursor < d.dram.lines ∧ d.line.wb.length + 64 ≤ 65536 ∧ d.wbRoom 2 = true) ∧
    (let r : CopyReg := { src := 0, shadow := 1, cursor := 4194304 }
     let d := { media with dram.ranks := 2, dram.chans := [(0, { copy := some r, shadows := [1] })] }
     (d.chan 0).copy = some r ∧ d.dram.lines ≤ r.cursor ∧ r.lost = none ∧ ∀ w ∈ d.line.wb, w.kind ≠ .rankCopy 0) := by decide +kernel

/-- A region of LD 0 whose only held unit names key 5, and keys in each state. -/
def keyed : Dev :=
  { linked with
    conf.regions := [{ region 0x85 with prot := .veiled, key := 5 }]
    line.keys := [(0, { st := .active, source := 2 }), (5, { st := .active, source := 2 }), (6, { st := .active, source := 1 })]
    host.mcSession := some 9 }

/-- The key ID FFh takes the lowest FREE one; key 6 is named by nothing, key 5 by a unit. -/
theorem meets_KeysLoadGenerateRetire :
    let d0 := keyed.doorbell (mailDoorbell mc)
    let f : Dev := { keyed with line.keys := [(5, { st := .failed })] }
    ((leBytes 8 255).length = 8 ∧ rsvd (leBytes 8 255) 1 7 = true ∧ field (leBytes 8 255) 0 1 = 255 ∧
      (List.range 64).find? (fun i => (d0.key i).st = .free) = some 1) ∧
    (let i := leBytes 4 63 ++ leBytes 4 9 ++ zeros 104
     i.length = 112 ∧ rsvd i 1 3 = true ∧ field i 0 1 < 64 ∧ (d0.key 63).st = .free ∧ d0.host.mcSession = some (BitVec.ofNat 32 (field i 4 4))) ∧
    (rsvd (leBytes 8 6) 1 7 = true ∧ (d0.key 6).st = .active ∧ d0.keyRefs 6 = 0) ∧ ((d0.key 5).st = .active ∧ d0.keyRefs 5 ≠ 0) ∧
    (let d0 := f.doorbell (mailDoorbell mc)
     (d0.key 5).st = .failed ∧ d0.keyRefs 5 ≠ 0) := by decide +kernel

theorem meets_KeyStatusSessionsQuarantine :
    (let d0 := dev.doorbell (mailDoorbell mc)
     d0.line.quar = [] ∧ (dev.ld 0).session ≠ some 1 ∧ d0.setting idAcceptMediaOnLoss 0 = 0) ∧
    (let d : Dev := { dev with line.quar := [(255, ⟨255, 0, 0⟩)], conf.cur := [(settingKey idAcceptMediaOnLoss 0, 1)] }
     let d0 := d.doorbell (mailDoorbell mc)
     let i : List Byte := [1, 0, 0, 0, 255, 0, 0, 0]
     i.length = 8 ∧ rsvd i 1 3 = true ∧ rsvd i 5 3 = true ∧ d0.bgBusy mc = false ∧ field i 0 1 = 1 ∧ d0.line.quar.has (field i 4 1) = true ∧
       d0.setting idAcceptMediaOnLoss 0 ≠ 0) := by decide +kernel

/-- LD 0 holds sharer slot 4 of this device, and a flow of the line at HPA 64 waits for it. -/
def snooping : Dev :=
  { linked with
    conf.cur := [(settingKey idKnotReach 0, 0), (settingKey idSharerSlot 4, 0), (settingKey idLdLink 0, 0)]
    home.flows := [{ line := 98305, set := 0, way := 0, wait := [4], kind := 2, for_ := .job, from_ := 0 }] }

theorem meets_SnoopAnswers :
    (snooping.snoopedLine 0 0 64 = some (0, 1) ∧ snooping.home.foreign = [] ∧ snooping.slotOf snooping.chain.index 0 = some 4 ∧
      snooping.flowFor 4 0 1 = some 98305 ∧ snooping.writesAhead 4 98305 = false) ∧
    (let f : Foreign := { ld := 0, dpaLine := 1, port := 2, origin := 5, tag := 9, kind := 1 }
     let d : Dev := { snooping with home.foreign := [f] }
     d.snoopedLine 0 0 64 = some (0, 1) ∧ d.home.foreign.find? (fun f => f.ld = 0 && f.dpaLine = 1) = some f) ∧
    (let d : Dev := { snooping with path.reqs := [{ req 3 0x45 .ingress with op := .write, dpa := 64 }] }
     d.writesAhead 4 98305 = true) ∧
    (let d : Dev := { snooping with home.flows := [] }
     d.snoopedLine 0 0 64 = some (0, 1) ∧ d.home.foreign = [] ∧ d.slotOf d.chain.index 0 = some 4 ∧ d.home.flows = []) := by decide +kernel

theorem meets_LossResetsAndLinkLoss :
    (let d : Dev := { snooping with clk.bnd := snooping.setting idBiTimeout 0 * 4096 }
     (∃ f ∈ d.home.flows, 4 ∈ f.wait ∧ f.from_ + d.setting idBiTimeout 0 * 4096 ≤ d.clk.bnd) ∧ d.home.gone = [] ∧ d.home.going = []) ∧
    (let d : Dev := { dev with home.gone := [31] }
     d.home.gone.contains 31 = true ∧ d.home.dir = []) ∧
    (let d : Dev := { dev with clk.bnd := 8, host.lds := [(31, { resetting := true, resetFrom := 7 })] }
     (d.ld 31).resetting = true ∧ (d.ld 31).resetFrom < d.clk.bnd) ∧
    linked.ldLink 0 = some 0 ∧
    (let d : Dev := { linked with conf.cur := [] }
     (d.link 0).st ≠ .down ∧ d.linkLds 0 = [] ∧ d.glint.scan = none) := by decide +kernel

theorem meets_directory_error : ∀ k, dev.setting idSharerSlot k = 0x400 := fun _ => rfl

theorem meets_HostLinksPortsIde :
    (let d : Dev := { dev with host.ports := [(0, { perst := false })] }
     d.mayTrain 0 true true false 16 6 = true ∧ (d.link 0).st = .down ∧ (d.link 0).egress = [] ∧ (d.link 0).snoops = []) ∧
    ((linked.link 0).st ≠ .down ∧ (linked.link 0).egress = [] ∧ (linked.link 0).snoops = []) ∧
    (let d : Dev := { linked with host.links := [(0, { st := .up, cxl := true, width := 8, lanes := 0xFF, widthReset := some 2 })] }
     (d.link 0).widthReset = some 2 ∧ widthOf (d.linkSize 0) (fun i => d.laneGood 0 i && (d.link 0).lanes.getLsbD i) = (8, false) ∧
       8 = (d.link 0).width ∧ (d.link 0).egress = [] ∧ (d.link 0).snoops = []) ∧
    (let d : Dev := { linked with host.lds := [(0, { session := some 3, msixOn := true, vecs := [(7, { pending := true })] })]
                                  host.links := [(0, { st := .up, ideIo := .secure, ideMem := .skid })] }
     (d.ideSession 0).isSome = true ∧ (d.link 0).ideIo = .secure ∧ (d.link 0).ideMem = .skid ∧ (d.link 0).viral = false ∧ d.ev.owed = [] ∧
       (d.vec 0 7).masked = true ∧ (d.vec 0 7).pending = true ∧ d.vecsDead 0 = false) ∧
    (let x (a : Nat) : Decoder := ⟨0, 268435456, a, 8, 0⟩
     (x 0).legal = true ∧ (linked.ldLink 0).isSome = true ∧
       ((x (2 ^ 44 - 268435456)).dpaBase + (x 0).span ≤ 2 ^ 44 ∧ (2 ^ 44 - 268435456) / 2 ^ 41 = (2 ^ 44 - 268435456 + (x 0).span - 1) / 2 ^ 41) ∧
       (x (2 ^ 41 - 1)).dpaBase / 2 ^ 41 ≠ ((x (2 ^ 41 - 1)).dpaBase + (x 0).span - 1) / 2 ^ 41) ∧
    dev.linkLds 0 = [] := by decide +kernel

theorem meets_moves :
    (let a : Attr := { knotted := true, base := 1073741824 }
     let src : BitVec 36 := 0x400000005
     let m : Move := { id := 2, page := 0, src := src, dst := 0x400000006, dir := 0, slot := 256, attr := a, placed := true, token := 77 }
     let k : KSlot := { block := 1073741824 + unitLeaf, valid := BitVec.allOnes 36, knots := (movingKnot 0 77).setWidth 18432, recs := 0, recsValid := true, filling := false }
     let d : Dev := { media with tiers.moves := [m], xl.kc := [k] }
     d.tiers.moves.find? (·.id = m.id) = some m ∧ m.placed = true ∧ m.switched = false ∧ d.moveCopies m.id = false ∧
       d.knotAt (m.attr.base + unitLeaf) (m.page % 512) = movingKnot m.dir m.token ∧ knotState m.src = knotState m.dst) ∧
    (let d : Dev := { dev with clk.bnd := dev.setting idTierEpoch 0 * 4096 }
     d.setting idTierEpoch 0 * 4096 ≠ 0 ∧ d.tiers.epochFrom + d.setting idTierEpoch 0 * 4096 ≤ d.clk.bnd) ∧
    (dev.clk.bnd < dev.tiers.epochFrom + dev.setting idTierEpoch 0 * 4096) := by decide +kernel

/-- An elastic region of LD 0 with pool range 0 in its unit, whose page 0 is bright, and its knots in the cache. -/
def tiered (knot : BitVec 36) : Dev :=
  { media with
    conf.regions := [{ region 0x85 with kind := .elastic, knotted := true }]
    tiers.owner := [(0, (0, 0))], tiers.units := [(0, 0)]
    line.ct := [{ line := headerLine 1073741824 0, data := 0 }]
    xl.kc := [{ block := media.unitAddr 0 + unitLeaf, valid := BitVec.allOnes 36, knots := knot.setWidth 18432, recs := 0, recsValid := true
                filling := false }] }

theorem meets_tier_queues :
    (let d : Dev := { tiered 0 with tiers.demote := [(0, 1)], tiers.readQ := [0] }
     let k := d.knotAt ((d.rangeAttr 0).base + unitLeaf) 0
     d.tiers.demote.find? (·.1 = 0) = some (0, 1) ∧ knotState k ≠ 1 ∧ d.tiers.readQ = [0] ∧
       (let d1 := d.setTierRec (media.unitAddr 0 + unitLeaf) 0 0
        (d1.pageRegion 0).bind d1.regionOf = some { region 0x85 with kind := .elastic, knotted := true })) ∧
    ({ dev with tiers.readQ := [0] } : Dev).tiers.owner.has 0 = false := by decide +kernel

/-- A bright page of zeros, never written: its 64 lines hold zeros under the checks that blank media have. -/
theorem meets_demotion :
    let d := tiered 0x400000000
    let a := d.rangeAttr 0
    let k := d.knotAt (a.base + unitLeaf) 0
    knotState k = 1 ∧ d.tiers.owner.has 0 = true ∧ d.knotTakes a 0 = true ∧ d.pageHeld 0 = false ∧ (∀ r ∈ d.path.reqs, r.isWrite = false) ∧
      (d.fetchHeader a 0 []).1 = true ∧ ((d.fetchHeader a 0 []).2.pageContent a 0 k).1.isSome = true := by decide +kernel

/-- For the kinds whose entries name no ranges that have to lie apart, an input that the checks take. -/
theorem meets_submission_plain :
    let d0 := ready.doorbell (mailDoorbell mc)
    let fits (k : JKind) (plan : Dev → Job → Option Job) (inp : List Byte) : Bool :=
      inp.length = 16 + k.body + field inp 4 4 * k.entry && field inp 4 4 ≠ 0 && ((jobOf mc k inp).bind (plan d0)).isSome
    7 < d0.coresUp ∧ lowestFree d0.jobs.slots.keys 256 = some 0 ∧
    fits .scrub Dev.planScrub (submit 0xC1 1 [0, 0, 0, 0, 0, 0, 0, 0]) = true ∧
    fits .tier Dev.planTier (submit 0xC1 1 [0, 1, 0, 0, 0, 0, 0, 0]) = true ∧
    fits .rekey Dev.planRekey (submit 0x81 1 [5, 6, 0, 0, 0, 0, 0, 0]) = true ∧
    fits .moduleReplace Dev.planReplace (submit 0xC1 1 [1, 1, 0, 0, 0, 0, 0, 0]) = true ∧
    fits .prismStream Dev.planStream (submit 0xC1 1 (zeros 32 ++ zeros 32)) = true := by decide +kernel

/-- And for the others: a line, or the held unit 0, of the region; 15 bare units. -/
theorem meets_submission_ranges :
    let d0 := ready.doorbell (mailDoorbell mc)
    let fits (k : JKind) (plan : Dev → Job → Option Job) (inp : List Byte) : Bool :=
      inp.length = 16 + k.body + field inp 4 4 * k.entry && field inp 4 4 ≠ 0 && ((jobOf mc k inp).bind (plan d0)).isSome
    let unit (u n : Nat) : List Byte := leBytes 8 (u * mib2) ++ leBytes 4 n ++ [255, 0, 0, 0]
    let plain (u n : Nat) : List Byte := leBytes 8 (u * mib2) ++ leBytes 4 n ++ [0, 0, 0, 0]
    fits .copy Dev.planCopy (submit 0xC1 1 (zeros 8 ++ leBytes 8 0 ++ leBytes 8 64 ++ leBytes 4 64 ++ zeros 4)) = true ∧
    fits .fill Dev.planFill (submit 0xC1 1 (zeros 16 ++ leBytes 8 0 ++ leBytes 4 64 ++ zeros 4)) = true ∧
    fits .sanitize Dev.planSanitize (submit 0xC1 1 ([0, 255] ++ zeros 6 ++ plain 0 1)) = true ∧
    fits .migrate Dev.planMigrate (submit 0xC1 1 (zeros 8 ++ unit 0 1)) = true ∧
    fits .poolAdd Dev.planAdd (submit 0xC1 1 (zeros 8 ++ unit 1 15)) = true ∧
    fits .poolRelease Dev.planRelease (submit 0xC1 1 (zeros 8 ++ plain 0 1)) = true := by decide +kernel

theorem meets_ExtentMovesRankDrainRekey :
    (let m (n : Nat) : ExtMove := { src := 3, dst := 5, dstDev := 0, cursor := n, job := 0, ld := 0, ext := 0, attr := {} }
     let d (n : Nat) : Dev := { linked with tiers.extMoves := [(7, m n)] }
     ((d 511).tiers.extMoves.look 7 = some (m 511) ∧ 511 < 512) ∧
     ((d 512).tiers.extMoves.look 7 = some (m 512) ∧ (m 512).switched = false ∧ (∀ w ∈ (d 512).line.wb, w.kind = .full) ∧
       (d 512).namers false 3 ≠ [])) ∧
    (let d : Dev := { media with dram.logical := 2, dram.ranks := 2, dram.chans := [(0, { draining := [0] })] }
     (d.chan 0).draining.contains 0 = true ∧ d.onRank 0 = [] ∧ d.movingOff 0 = false ∧
       ((d.rankFrames 0).1 + (d.rankFrames 0).2) * 4096 ≤ d.tableBase ∧ (d.chan 0).retired.contains 0 = false) ∧
    (let x (n : Nat) : Rekey := { unit2m := 3, knotted := false, old := 5, new := 6, cursor := n, job := 0 }
     [511, 512, 513].all (fun n => decide (({ linked with line.rekey := [(7, x n)] } : Dev).line.rekey.look 7 = some (x n))) = true) := by
  decide +kernel

/-- The input of a command that names LD 0's extents: count, reserved, and a range of units. -/
def extents (u n : Nat) : List Byte := leBytes 8 1 ++ leBytes 8 (u * mib2) ++ leBytes 8 (n * mib2) ++ zeros 8

theorem meets_CapacityOffersAndReleases :
    (let r : Region := { region 0x85 with kind := .elastic, knotted := true }
     let d : Dev := { media with conf.regions := [r], clk.bnd := 4096 }
     (d.conf.regions.find? fun r => r.home.isNone && r.ld = 0 && r.entry = 0) = some r ∧ 0 < d.offerUnits r ∧ (d.ld 0).exts.length < 8192 ∧
       ({ d with clk.bnd := 4095 } : Dev).offerUnits r = 0) ∧
    (let d (n : Nat) : Dev := { dev with clk.bnd := n, tiers.elastic := [(0, { lastRec := some 0, lostSince := 1 })] }
     ((d 4096).elastic 0).lastRec = some 0 ∧ 0 + 4096 ≤ (d 4096).clk.bnd ∧ 0 < ((d 4096).elastic 0).lostSince ∧ (d 4095).clk.bnd < 0 + 4096) ∧
    issuerLd host = some 0 ∧ field [0, 7] 1 1 < 8 ∧ field (zeros 8) 4 4 ≤ ((dev.doorbell 0x340).ld 0).heldExts.length ∧
    (let d : Dev := { linked with host.lds := [(0, { offers := [512], exts := [⟨0, 2, 0, 0, .offered, [3, 4], 0, some 512⟩] })] }
     let x := (d.doorbell (mailDoorbell host)).ld 0
     (extents 0 2).length = 8 + 24 * field (extents 0 2) 0 4 ∧ updatedExtents (extents 0 2) = some [(0, 2)] ∧ x.offers = [512] ∧ apart [(0, 2)] = true ∧
       namesOnly [(0, 2)] (x.unitsIn .offered (some 512)) = true ∧ bit (field (extents 0 2) 4 1) 0 = false) ∧
    (let x := (linked.doorbell (mailDoorbell host)).ld 0
     updatedExtents (extents 0 1) = some [(0, 1)] ∧
       namesOnly [(0, 1)] ((x.exts.filter (·.st = .held)).flatMap fun e => (List.range e.len).map (e.start + ·)) = true) := by decide +kernel

theorem meets_JobStatusAndCancel :
    (let d (st : JState) : Dev := { dev with jobs.slots := [(255, job .tier st)], jobs.ring := [past] }
     let d0 (st : JState) : Dev := (d st).doorbell (mailDoorbell host)
     let i := leBytes 8 255
     i.length = 8 ∧ rsvd i 4 4 = true ∧ (d0 .queued).liveJob host (field i 0 4) = some (255, job .tier .queued) ∧
       (d0 .active).liveJob host (field i 0 4) = some (255, job .tier .active) ∧
       ((d0 .active).liveJob host 0 = none ∧ (d0 .active).pastJob host 0 = some past) ∧
       ((d0 .active).liveJob host 1 = none ∧ (d0 .active).pastJob host 1 = none)) := by decide +kernel

/-- The entry of a COPY, or FILL, of two lines; an active job of a kind in slot 0. -/
def active (k : JKind) (j : Job) : Dev := { ready with jobs.slots := [(0, { j with kind := k, st := .active })] }

/-- A COPY of unit 0, a FILL of two lines, at line 1 of 2, and a scrub of a rank: with nothing held, a line held, a request on its way. -/
theorem meets_batches :
    (let j : Job := { job .copy .active with body := zeros 8, entries := [leBytes 8 0 ++ leBytes 8 128 ++ leBytes 4 128 ++ zeros 4], pos := 1, total := 2 }
     (active .copy j).working 0 .copy = some { j with kind := .copy, st := .active } ∧ j.sent = false ∧ j.hold = none ∧ j.buf = none ∧
       lineIn (j.entries.map fun e => (copyEntryOf e).2.2 / 64) j.pos = some (0, 1) ∧ (active .copy j).power.quiet = false ∧
       (active .copy j).serviceRoom ((jobReq .read 0 0 j.label).cls) = true ∧ ((active .copy j).regionAt 0 64).isSome = true ∧
       ((active .copy j).regionAt 0 192).isSome = true) ∧
    (let j : Job := { job .fill .active with body := zeros 16, entries := [leBytes 8 0 ++ leBytes 4 128 ++ zeros 4], pos := 1, total := 2 }
     (active .fill j).working 0 .fill = some { j with kind := .fill, st := .active } ∧ j.sent = false ∧ j.buf = none ∧
       lineIn (j.entries.map fun e => field e 8 4 / 64) j.pos = some (0, 1) ∧ ((active .fill j).regionAt 0 64).isSome = true) ∧
    (let j : Job := { job .scrub .active with todo := [0, 16] }
     (active .scrub j).working 0 .scrub = some { j with kind := .scrub, st := .active } ∧ j.pos + 1 < max 1 (active .scrub j).dram.lines) := by
  decide +kernel

theorem meets_media_jobs :
    (let j : Job := { job .sanitize .active with body := [0, 255, 0, 0, 0, 0, 0, 0], todo := [1, 2] }
     let d := active .sanitize j
     (d.working 0 .sanitize).map (·.todo) = some [1, 2] ∧ (d.regionAt 0 (1 * mib2)).isSome = true ∧ d.placeAt 0 1 = none ∧
       (d.placeAt 0 0).map (fun e => (e.1.dev, e.1.st, e.2)) = some (d.chain.index, .held, 3) ∧ d.unitHeld false 3 = false ∧
       (d.regionAt 0 0).map (fun r => (r.knotted, r.kind)) = some (false, .firm)) ∧
    (let j : Job := { job .prismStream .active with entries := [zeros 32], body := zeros 32 }
     let w : Job := { job .prismStream .active with kind := .prismStream }
     let d : Dev := { ready with jobs.slots := [(0, j), (1, w)], prism.stream := [(0, 0, 0)], clk.bnd := dev.setting idStreamSlice 0 }
     (d.prism.stream.find? fun x => x.2.1 = 0) = some (0, 0, 0) ∧ d.job 0 = some j ∧ 0 + d.setting idStreamSlice 0 ≤ d.clk.bnd ∧
       (d.streamWaiters.any fun w => decide (w.2.label.toNat / 64 ≤ j.label.toNat / 64)) = true ∧
       (let d0 := d.streamPump 0
        d0.working 0 .prismStream = some j ∧ (d0.streamEngine 0).isSome = true ∧ j.sent = false ∧ j.outs = [] ∧ j.pos < j.entries.length ∧
          bit (field j.body 0 1) 0 = false ∧ ceilDiv (sdInLen (j.entries.getD j.pos [])) 64 ≤ j.lines.length)) ∧
    (active .poolAdd { job .poolAdd .active with pos := 1 }).working 0 .poolAdd = some { job .poolAdd .active with pos := 1 } ∧
    (let j : Job := { job .poolRelease .active with pos := 1, body := [0, 0, 1, 0, 0, 0, 0, 0], from_ := 1 }
     let d (n : Nat) : Dev := { active .poolRelease j with clk.bnd := n }
     (d 4097).working 0 .poolRelease = some j ∧ field j.body 2 2 ≠ 0 ∧ j.from_ + field j.body 2 2 * 4096 ≤ (d 4097).clk.bnd ∧
       (d 4096).clk.bnd < j.from_ + field j.body 2 2 * 4096) ∧
    (let j : Job := { job .moduleReplace .active with pos := 3, todo := [0] }
     let d : Dev := { active .moduleReplace j with hitch.chans := [(0, { removed := true })] }
     d.working 0 .moduleReplace = some j ∧ (d.hchan j.repSlot).removed = true) := by decide +kernel

/-- LD 0's primary mailbox owns the sheet, with a setting staged. -/
def sheet (staged : List Staged) : Sheet := { id := 0, chain := false, owner := 0, ownerDev := 0, lease := 1, leaseFrom := 0, staged := staged }

def opened (x : Sheet) : Dev := { linked with conf.sheet := some x }

theorem meets_sheets :
    (let d0 := dev.doorbell 0x340
     let i : List Byte := [0, 0, 1, 0, 0, 0, 0, 0]
     i.length = 8 ∧ field i 0 1 = 0 ∧ field i 2 2 ≠ 0 ∧ rsvd i 1 1 = true ∧ rsvd i 4 4 = true ∧ d0.conf.sheet = none ∧ d0.conf.opening = none) ∧
    (let d0 := (opened (sheet [])).doorbell 0x340
     let e : List Byte := leBytes 2 idAgeLimit ++ [0, 0, 255, 0, 0, 0] ++ leBytes 8 9
     let i : List Byte := leBytes 2 1 ++ zeros 6 ++ e
     d0.sheetGate (issuerBox host) = none ∧ d0.conf.sheet = some (sheet []) ∧ i.length = 8 + 16 * field i 0 2 ∧ rsvd i 2 6 = true ∧ field i 0 2 ≠ 0 ∧
       (match d0.readEntries (sheet []) ((List.range (field i 0 2)).map fun k => slice i (8 + 16 * k) 16) 0 [] with
        | .ok l => l == [.setting idAgeLimit 0 0 9] && decide ((l.foldl stageEntry []).length ≤ 16384) | .error _ => false) = true) ∧
    (let d0 := dev.doorbell 0x340
     let i : List Byte := leBytes 2 idAgeLimit ++ [0, 0, 255, 0, 0, 0]
     i.length = 8 ∧ rsvd i 5 3 = true ∧ d0.entryDev true (field i 4 1) = some d0.chain.index ∧
       ((settingRow (field i 0 2)).map fun r => decide (0 < r.count) && settingLegal r 0 (settingDefault idAgeLimit 0)) = some true ∧
       d0.ownsSheet 0 = false) ∧
    (let d0 := (opened (sheet [.setting idAgeLimit 0 0 9])).doorbell 0x340
     d0.sheetGate 0 = none ∧ d0.checkSheet false [.setting idAgeLimit 0 0 9] = none) ∧
    (let bad : List Staged := [.setting idLowWater 0 0 7]
     let d0 := (opened (sheet bad)).doorbell 0x340
     d0.sheetGate 0 = none ∧ (d0.checkSheet false bad).isSome = true) ∧
    (let d (n : Nat) : Dev := { opened (sheet []) with clk.bnd := n }
     (d 4096).conf.sheet = some (sheet []) ∧ (sheet []).ownerDev = (d 4096).chain.index ∧ 0 + 1 * 4096 ≤ (d 4096).clk.bnd ∧
       (d 4095).clk.bnd < 0 + 1 * 4096) := by decide +kernel

theorem meets_region_commands :
    (let d0 := (opened (sheet [])).doorbell 0x340
     let i : List Byte := [0, 1, 0, 0, 0, 0x85, 0, 0] ++ leBytes 8 (16 * mib2) ++ leBytes 4 4 ++ zeros 4 ++ zeros 128
     i.length = 152 ∧ d0.regionGate 0 = none ∧
       ((readRegion i none).map fun r => (r.ld, r.entry, r.base, r.size)) = some (0, 1, 16, 4) ∧
       ((stagedRegions [] d0.conf.regions).any fun r => r.home.isNone && r.ld = field (zeros 8) 0 1 && r.entry = field (zeros 8) 1 1) = true) ∧
    (let d0 := linked.doorbell 0x340
     let i (e : Byte) : List Byte := [0, e, 255, 0, 0, 0, 0, 0]
     (i 0).length = 8 ∧ d0.entryDev true (field (i 0) 2 1) = some d0.chain.index ∧ rsvd (i 0) 3 5 = true ∧
       (d0.conf.regions.find? fun r => r.home.isNone && r.ld = 0 && r.entry = 15) = none ∧
       (d0.conf.regions.find? fun r => r.home.isNone && r.ld = 0 && r.entry = 0) = some (region 0x05)) := by decide +kernel

/-- A cinch of that sheet, in a phase, named for a beat. -/
def cinch (ph : CinchPhase) (named : Beat) : Cinch := { box := 0, mode := 0, named := named, phase := ph }

theorem meets_cinch :
    (let d0 := (opened (sheet [])).doorbell 0x340
     let i : List Byte := zeros 8
     i.length = 8 ∧ rsvd i 7 1 = true ∧ d0.bgBusy host = false ∧ d0.sheetGate 0 = none ∧ field i 6 1 = 0 ∧ field i 0 6 = 0) ∧
    (let x := { sheet [] with cinch := some (cinch .preparing 0) }
     let d : Dev := { opened x with clk.bnd := 4096 }
     d.sheetGate 0 = none ∧ d.conf.sheet = some x ∧ (cinch .preparing 0).fills = [] ∧ (cinch .preparing 0).preparedAt + 4096 ≤ d.clk.bnd ∧
       (cinch .preparing 0).ask = none) ∧
    (let x := { sheet [] with cinch := some { cinch .preparing 0 with fills := [3] } }
     (opened x).conf.sheet = some x) ∧
    (64 < beatsTo 0 65 ∧ beatsTo 0 64 ≤ 64 ∧ beatsTo 0 2 ≠ 1 ∧ beatsTo 0xFFFFFFFFFFFF 0 = 1) ∧
    (let x := { sheet [] with chain := true, cinch := some (cinch .prepared 64) }
     let d (b : Bool) : Dev := { opened x with chain.synced := b }
     (d true).refusal x (cinch .prepared 64) = none ∧ (d false).refusal x (cinch .prepared 64) ≠ none) ∧
    (let l : List Staged := [.setting idAgeLimit 0 0 9]
     (opened { sheet l with cinch := some (cinch .prepared 1) }).checkSheet false l = none) ∧
    (let bad : List Staged := [.setting idLowWater 0 0 7]
     ((opened { sheet bad with cinch := some (cinch .prepared 1) }).checkSheet false bad).isSome = true) := by decide +kernel

/-- The power conditions of the supply commands: off, on and held, running with its rails, latched. -/
theorem meets_SuppliesBootHeatPins :
    (let off : Dev := {}
     off.power.vaux = false ∧ off.boot = .held ∧ off.power.coreEn = false ∧ ({ off with power.rst := false } : Dev).power.rst = false) ∧
    (let d : Dev := { power := { vaux := true, coreEn := true, corePg := true } }
     d.boot = .held ∧ d.power.vaux = true ∧ d.power.coreEn = true ∧ d.power.corePg = true ∧ d.power.thermtrip = false) ∧
    (let d : Dev := { power := { vaux := true, latched := true } }
     d.power.coreEn = false ∧ d.power.latched = true) ∧
    (dev.port 1).perst = true ∧ ({ boot := .firmware } : Dev).boot = .firmware ∧
    (dev.boot = .running ∧ dev.awake = true ∧ dev.power.trimAt = none ∧ dev.power.st = .p0 ∧ 100 ≤ 100 ∧ dev.power.throttle = false) ∧
    (let d (n : Nat) : Dev := { dev with clk.bnd := n, power := { trimAt := some 0, coolFrom := some 0, throttle := true } }
     (d 4095).clk.bnd < 0 + 4096 ∧ 0 + 4096 ≤ (d 4096).clk.bnd ∧ (d 4096).power.coolFrom = some 0 ∧ (d 4096).power.throttle = true ∧
       (d 4095).power.trimAt = some 0) := by decide +kernel

theorem meets_die_monitors : (∀ m, (dev.source (srcMonitor m)).retired = false) ∧ ∃ mv, mv = max 720 (min 800 (Config.vddTarget + 5)) :=
  ⟨fun _ => rfl, _, rfl⟩

theorem meets_PowerStates :
    (let d0 := dev.doorbell (mailDoorbell mc)
     let i : List Byte := [1, 31, 0, 0, 0, 0, 0, 0]
     i.length = 8 ∧ issuerMc mc = true ∧ field i 0 1 = pstateNum .p1 ∧ PState.p1 ≠ .p0 ∧ 1 ≤ field i 1 1 ∧ field i 1 1 ≤ 31 ∧ rsvd i 2 6 = true ∧
       d0.bgBusy mc = false ∧ d0.enterBusy .p1 = false) ∧
    (let d (t : PState) (n : Nat) (w : List Nat) : Dev := { dev with power := { entry := some { target := t, wake := 31, next := n, dozing := [2] }, pending := w } }
     let e (t : PState) (n : Nat) : Entry := { target := t, wake := 31, next := n, dozing := [2] }
     (d .p2 3 [1]).power.entry = some (e .p2 3) ∧ (d .p2 3 [1]).power.pending ≠ [] ∧ (d .p1 1 []).power.entry = some (e .p1 1) ∧
       (d .p2 4 []).power.entry = some (e .p2 4) ∧ (d .p2 6 []).power.entry = some (e .p2 6) ∧ (e .p2 6).dozing.contains 2 = true ∧
       (e .p2 6).dozing.contains 0 = false) ∧
    (let d (st : Nat) (a : Option (BitVec 8)) : Dev := { dev with power := { st := .p2, waking := some { from_ := .p2, cause := 1, step := st, again := a } } }
     ((d 5 none).power.waking).map (fun w => (decide (w.from_ ≠ .p1), w.step, w.again)) = some (true, 5, none) ∧
       ((d 4 (some 1)).power.waking).map (fun w => (decide (w.from_ ≠ .p1), w.step, w.again)) = some (true, 4, some 1)) ∧
    (let d (st : PState) (w : BitVec 8) : Dev := { dev with power := { st := st, wake := w } }
     WakeCause.i3c ≠ .fault ∧ WakeCause.i3c ≠ .trip ∧ (d .p0 31).power.entry = none ∧ (d .p2 0).power.wake.getLsbD (causeNum .i3c) = false ∧
       (d .p2 31).power.wake.getLsbD (causeNum .i3c) = true ∧ (d .p2 31).power.pending = [] ∧ (d .p2 31).power.waking = none) ∧
    ({ dev with power.aoLow := true } : Dev).power.aoLow = true ∧ (linked.link 0).st = .up ∧
    (({ linked with host.links := [(0, { st := .l1 })] } : Dev).link 0).st = .l1 := by decide +kernel

/-- Source 38Eh with its core, a count and a time; a core that holds it. -/
theorem meets_records :
    (let x := dev.ev.ints.val 0x38E {}
     (0x38E : Nat) ≤ 0x390 ∧ (0x38E : Nat) ≠ 0x38F ∧ 0x390 < (0x391 : Nat) ∧ x.holder = none ∧
       (dueNow x.cn x.tm (x.count + 1) = true ∨ dueNow x.cn x.tm (x.count + 1) = false) ∧ (dev.target x).isSome = true) ∧
    (let d : Dev := { dev with ev.ints := [(5, { holder := some 3, pending := 9 })] }
     (d.ev.ints.val 5 {}).holder = some 3 ∧ (d.ev.ints.val 5 {}).holder ≠ some 4) ∧
    (let d (n : Nat) : Dev := { dev with clk.bnd := n, ev.ints := [(5, { tm := 2, count := 1, first := some 1 })] }
     let x := (d 3).ev.ints.val 5 {}
     x.holder = none ∧ (dueTime x.tm 3 x.first = true ∧ dueTime x.tm 2 x.first = false)) ∧
    (let d (n : Nat) : Dev := { linked with
       clk.bnd := n, conf.cur := [(settingKey idKnotReach 0, 0), (settingKey idLdLink 0, 0), (settingKey idMsixTime 7, 2)]
       host.lds := [(0, { msixOn := true, vecs := [(7, { masked := false, count := 1, first := some 1 })] })] }
     (dueTime ((d 3).setting idMsixTime (0 * 8 + 7)) 3 ((d 3).vec 0 7).first = true ∧ (d 3).vecsDead 0 = false) ∧
       dueTime ((d 2).setting idMsixTime (0 * 8 + 7)) 2 ((d 2).vec 0 7).first = false) ∧
    (let r : Rec := { type := 0x10B, log := .warning, ld := some 0, beat := 0, detail := 0 }
     let d (n : Nat) : Dev := { dev with ev.recQ := [r], host.lds := [(0, { logs := [(1, { recs := List.replicate n (1, r) })] })] }
     (d 127).ev.recQ = r :: [] ∧ r.ld = some 0 ∧ r.mcOnly = false ∧ (((d 127).ld 0).log r.log).recs.length < 128 ∧
       128 ≤ (((d 128).ld 0).log r.log).recs.length) := by decide +kernel

theorem meets_event_commands :
    (let r : Rec := { type := 0x10B, log := .warning, ld := some 0, beat := 0, detail := 0 }
     let d : Dev := { dev with host.lds := [(0, { logs := [(1, { recs := [(1, r), (2, r)] })] })] }
     let g := ((d.doorbell 0x340).ld 0).log .warning
     logOf (field [1] 0 1) = some .warning ∧
     (let i : List Byte := [1, 1, 0, 0, 0, 0]
      i.length = 6 + 2 * field i 2 1 ∧ bit (field i 1 1) 0 = true) ∧
     (let i : List Byte := [1, 0, 1, 0, 0, 0, 2, 0]
      i.length = 6 + 2 * field i 2 1 ∧ bit (field i 1 1) 0 = false ∧ (List.range (field i 2 1)).map (fun k => field i (6 + 2 * k) 2) = [2] ∧
        ∀ h ∈ [2], ∃ e ∈ g.recs, e.1 = h)) ∧
    ([1, 0, 1, 0, 0] : List Byte).length = 5 ∧ (∀ b ∈ ([1, 0, 1, 0, 0] : List Byte), b.toNat % 4 ≤ 1) := by decide +kernel

theorem meets_counters :
    (let d0 := linked.doorbell 0x340
     let i : List Byte := leBytes 2 1280 ++ leBytes 2 256 ++ [0, 0, 0, 0]
     i.length = 8 ∧ field i 4 1 = 0 ∧ rsvd i 5 3 = true ∧ field i 0 2 + field i 2 2 ≤ 1536 ∧ 8 + 8 * field i 2 2 ≤ (d0.mbox 0).respLimit ∧
       (issuerLd host).isSome = true ∧ field i 2 2 ≠ 0 ∧
       (let w (c : Byte) : List Byte := [31, c, 0x28, 0] ++ zeros 12
        (w 1).length = 16 ∧ field (w 1) 0 1 < 32 ∧ field (w 1) 2 2 ≤ 1535 ∧ rsvd (w 1) 4 4 = true ∧ rsvd (w 1) 14 2 = true ∧
          d0.ev.progs.look 31 = none ∧ d0.ev.watches.look 31 = none ∧ field (w 1) 1 1 = 1 ∧ field (w 3) 1 1 = 3 ∧ field (w 0) 1 1 = 0 ∧
          eventAssigned 0x28 = true ∧ 0x28 < 256)) ∧
    dev.ev.dead.contains 17407 = false ∧
    (let d (n : Nat) : Dev := { dev with clk.bnd := n, ev.invalid := [(17407, 3)] }
     (d 4100).ev.invalid.look 17407 = some 3 ∧ 3 + 4097 ≤ (d 4100).clk.bnd ∧ (d 4099).clk.bnd < 3 + 4097) ∧
    (let d : Dev := { dev with conf.cur := [(settingKey idCounterMode 0, 1)], ev.watches := [(31, { owner := 0, event := 0x28, signal := true, preset := 0, value := 0 })] }
     d.setting idCounterMode 0 = 1 ∧ dev.setting idCounterMode 0 ≠ 1 ∧
       (d.ev.watches.look 31).map (·.owner) = some 0 ∧ (0x80000000 : BitVec 32).getLsbD 31 = true ∧
       (∀ e ∈ d.ev.watches, e.1 = 30 → e.2.owner ≠ 0)) := by decide +kernel

theorem meets_faults :
    (let i : List Byte := [0x00, 0x0A, 0, 0, 0, 0, 0, 0]
     i.length = 8 ∧ (sourceClass (field [0, 9] 0 2)).isSome = true ∧ field i 2 1 = 0 ∧ rsvd i 3 5 = true ∧ field ([1] ++ zeros 7) 0 1 = 1) ∧
    ({ dev with fault.pulse := true } : Dev).fault.pulse = true ∧
    (let d (n : Nat) (r : Bool) : Dev := { dev with fault.due := [n], fault.src := [(n, { retired := r })] }
     (d (srcCore 15) true).awake = true ∧ ((d (srcCore 15) true).source (srcCore 15)).retired = true ∧
       (BitVec.ofNat 16 (srcCore 15)).toNat = srcCore 15 ∧ ((d (srcCore 15) false).source (srcCore 15)).retired = false ∧
       ((d (srcCore 15) false).core 15).st = .running ∧ (BitVec.ofNat 16 (srcTether 2)).toNat = srcTether 2 ∧
       ((d (srcTether 2) false).source (srcTether 2)).retired = false) ∧
    dev.coreUp 15 = true ∧ (let d : Dev := dev.setCore 15 { st := .restarting }; d.coreUp 15 = false ∧ (d.core 15).st = .restarting) ∧
    (let d : Dev := { linked with host.links := [(0, { st := .up, cxl := true, width := 16 })] }
     d.laneActive 0 15 = true ∧ d.laneResetting 0 15 = false ∧ d.laneActive 1 0 = false ∧ d.laneResetting 1 0 = false) ∧
    (let d : Dev := dev.setTport 2 { st := .active, width := 8 }
     d.laneActive 4 7 = true ∧ d.laneResetting 4 7 = false) := by decide +kernel

theorem meets_FirmwareUpdate :
    (let d0 := dev.doorbell 0x340
     let i : List Byte := [0, 2] ++ zeros 126
     128 ≤ i.length ∧ i.length ≤ 128 + slotBytes ∧ field i 0 1 = 0 ∧ d0.flash.xfer = none ∧ field i 1 1 = 2 ∧ field i 1 1 ≠ d0.flash.running + 1 ∧
       ([1, 2] : List Byte).length = 2 ∧ field [1, 2] 0 1 ≤ 1 ∧ field [1, 2] 1 1 = 2 ∧ 7 < d0.coresUp ∧ d0.cinchPending = false ∧ d0.flash.act = none ∧
       d0.bgBusy host = false) ∧
    (let d (n : Nat) : Dev := { dev with flash.act := some { slot := 1, pair := n, bank := 1, box := 64 } }
     (d 6).awake = true ∧ (d 6).flash.act = some { slot := 1, pair := 6, bank := 1, box := 64 } ∧
       (d 7).flash.act = some { slot := 1, pair := 7, bank := 1, box := 64 }) := by decide +kernel

theorem meets_DiagnosticsTopologyAndCdat :
    (let d0 := ({ dev with host.mcSession := some 3 } : Dev).doorbell 0x380
     let i : List Byte := [1, 0, 0, 0, 0, 0, 0, 0]
     i.length = 8 ∧ field [2, 0, 0, 0, 0, 0, 0, 0] 0 1 ≤ 2 ∧ rsvd [2, 0, 0, 0, 0, 0, 0, 0] 1 7 = true ∧ issuerMc mc = true ∧
       d0.host.mcSession = some 3 ∧ field i 0 2 ≠ 0 ∧ rsvd i 2 6 = true) ∧
    (opcodes.contains 0xC006 = false ∧ 0xC000 ≤ 0xC006 ∧ 0xC006 ≤ 0xCFFF ∧ opcodes.contains 0xBFFF = false ∧ 0xBFFF < 0xC000 ∧
      opcodes.contains 0xD000 = false ∧ 0xCFFF < 0xD000) ∧
    (let d (n : Nat) : Dev := { dev with clk.bnd := n, host.diagUntil := some 4096 }
     (d 4096).host.diagUntil = some 4096 ∧ 4096 ≤ (d 4096).clk.bnd ∧ (d 4095).clk.bnd < 4096) := by decide +kernel

theorem meets_cdat : (linked.ldLink 0).isSome = true ∧
    ∃ e, ((linked.free 16).2.cdatTable 0 (linked.free 16).1.toNat)[0]? = some e := ⟨by decide, _, rfl⟩

/-- Lane 15 of H0 carries a PAM4 link. -/
def laned : Dev := { linked with host.links := [(0, { st := .up, cxl := true, width := 16, rate := 6 })] }

def scan : Scan :=
  { port := 0, lane := 15, mode := 1, dwell := 10, mask := 7, box := some 0, rate := 6, width := 16, nrz := false, start := 0, step := 0
    todo := [0, 1, 2], eyes := [(0, {})] }

theorem meets_glint_commands :
    (let d0 := laned.doorbell 0x340
     let i (m : Byte) : List Byte := [0, 15, 1, 30, m, 0, 0, 0]
     (i 7).length = 8 ∧ field (i 7) 0 1 ≤ 4 ∧ field (i 7) 1 1 ≤ 15 ∧ field (i 7) 2 1 ≤ 1 ∧ 10 ≤ field (i 7) 3 1 ∧ field (i 7) 3 1 ≤ 30 ∧
       field (i 7) 4 1 ≤ 7 ∧ rsvd (i 7) 5 3 = true ∧ d0.bgBusy host = false ∧ d0.scanning = false ∧ d0.laneActive 0 15 = true ∧
       nrzRate (d0.laneRate 0 15) = false ∧ field (i 0) 4 1 = 0) ∧
    (let d0 := ({ laned with glint.scan := some scan } : Dev).doorbell 0x340
     d0.glint.scan = some scan ∧ scan.eyes.look (field (zeros 8) 0 1) = some {} ∧ ({} : EyeScan).disagree < 2 ^ 32) := by decide +kernel

/-- A point of an eye's grid, the last of it, and of a sparse scan; with eyes left and none. -/
theorem meets_glint_points :
    (let d (m : List Nat) : Dev := { laned with glint.scan := some scan, glint.margin := m }
     (d []).glint.scan = some scan ∧ scan.box.isSome = true ∧ scan.todo = 0 :: [1, 2] ∧
       (d [laneSrc 0 15]).glint.margin.contains (laneSrc scan.port scan.lane) = true ∧
       (d []).glint.margin.contains (laneSrc scan.port scan.lane) = false) ∧
    (({} : EyeScan).point 0 4094 0).2.2 = false ∧ (({} : EyeScan).point 0 4095 0).2.2 = true ∧ ([1, 2] : List Nat) ≠ [] := by decide +kernel

theorem meets_glint_periodic :
    (let e (n : Nat) : EyeMargins := ⟨n, 0, n, 0⟩
     let d : Dev := { laned with glint.fails := [(laneSrc 0 15, 2)] }
     let bad (e : EyeMargins) : Bool := e.left + e.right < d.setting idGlintMinWidth 0 || e.up + e.down < d.setting idGlintMinHeight 0
     d.awake = true ∧ d.setting idGlintPeriod 0 ≠ 0 ∧ d.glint.margin.contains (laneSrc 0 15) = false ∧ d.glint.scan = none ∧
       d.laneActive 0 15 = true ∧ [e 12].any bad = false ∧ [e 11].any bad = true ∧ d.glint.fails.val (laneSrc 0 15) 0 = 2 ∧
       (d.source (laneSrc 0 15)).retired = false) := by decide +kernel

/-- Channel 0 in a state, and one at the limit, above it, and above three times it. -/
theorem meets_hitch :
    (let d (c : HChan) : Dev := { dev with hitch.chans := [(0, c)], clk.bnd := 10 }
     let limit := dev.setting idHitchSense 0 * 100
     limit < (BitVec.ofNat 16 (limit + 1)).toNat ∧ (BitVec.ofNat 16 limit).toNat ≤ limit ∧ 3 * limit < (BitVec.ofNat 16 (3 * limit + 1)).toNat ∧
       (BitVec.ofNat 16 (3 * limit)).toNat ≤ 3 * limit ∧
     ((d { st := .on }).hchan 0).st = .on ∧ ((d { st := .ramping }).hchan 0).st = .ramping ∧ ((d {}).hchan 0).st = .off ∧
     (let x : HChan := { st := .tripped, timer := some 10 }
      ((d x).hchan 0).timer = some 10 ∧ ((d x).hchan 0).unmon = false ∧ 10 ≤ (d x).clk.bnd ∧
        (({ d x with clk.bnd := 9 } : Dev).clk.bnd < 10)) ∧
     (let x : HChan := { st := .on, good := true, onFrom := some 0 }
      let e (n : Nat) : Dev := { d x with clk.bnd := n }
      0 + beats60s ≤ (e beats60s).clk.bnd ∧ 0 + beats50ms ≤ (e beats50ms).clk.bnd ∧ ((e 0).hchan 0).good = true)) ∧
    (let d (h : Hitch) : Dev := { dev with power.vaux := true, hitch := h }
     (d {}).power.vaux = true ∧ ((d {}).hchan inputCh).st = .off ∧
       (let r := d { chans := [(inputCh, { st := .ramping })], pre := true }
        (r.hchan inputCh).st = .ramping ∧ r.hitch.pre = true) ∧ (d { gate := true }).hitch.gate = true) ∧
    (1000 < (1001 : BitVec 16).toNat ∧ (1000 : BitVec 16).toNat ≤ 1000 ∧ (dev.hchan 15).damaged = false) := by decide +kernel

theorem meets_modules :
    (let d (h : Bool) (c : HChan) : Dev := { ready with hitch.chans := [(0, c)], ev.pins := [(0, { high := h })] }
     ((d true {}).latchClosed 0 ≠ (d false {}).latchClosed 0) ∧ ((d true {}).hchan 0).removed = false ∧ ((d true {}).hchan 0).st ≠ .retired ∧
       ((d true { removed := true, spdWait := true }).hchan 0).removed = true ∧ ((d true { spdWait := true }).hchan 0).spdWait = true ∧
       (d true {}).servedOn 0 ≠ [] ∧ ((d true { st := .on }).hchan 0).st = .on) ∧
    (let w (b : Bool) : Window := { ch := 7, opens := 9, beat := 9, isOpen := b }
     let d (n : Nat) (b : Bool) : Dev := { dev with clk.bnd := n, hitch.window := some (w b) }
     (d 9 false).hitch.window = some (w false) ∧ (w false).closed = none ∧ (w false).opens ≤ (d 9 false).clk.bnd ∧ (d 9 false).clocked = true ∧
       (d 8 false).clk.bnd < (w false).opens ∧ (w true).isOpen = true) ∧
    (let d0 (c : HChan) : Dev := ({ ready with hitch.chans := [(0, c)] } : Dev).doorbell 0x380
     let i (a : Byte) : List Byte := [0, a, 0, 0, 0, 0, 0, 0]
     (i 2).length = 8 ∧ issuerMc mc = true ∧ rsvd (i 2) 2 6 = true ∧ field (i 2) 0 1 < 16 ∧ (d0 {}).slotHeld 0 = false ∧ field (i 2) 1 1 = 2 ∧
       ((d0 { st := .latchedOff }).hchan 0).st = .latchedOff ∧ ((d0 { present := true }).hchan 0).present = true ∧ (d0 {}).servedOn 0 ≠ []) := by
  decide +kernel

/-- Port 2 active with a message in its pool, of class 1. -/
def msg (op : MsgOp) : Msg := { op := op, label := 0x40, tag := 3 }

def chained (m : Msg) : Dev := dev.setTport 2 { st := .active, pool := [(1, [m])] }

/-- The same with a reach range of one hop on port 1 to the whole of device 1's pool addresses, and n entries of port 1's queue in use. -/
def farAway (m : Msg) (n : Nat) : Dev :=
  { (chained m).setTport 1 { st := .active, tx := List.replicate n (m, none), withdrawn := txShared } with
    conf.cur := [(settingKey idReachRange 16, 1 + 4 + 128 * 2 ^ 23 + 2 ^ 35 * 2 ^ 23)] }

/-- A message for device 1. -/
def msgFar (op : MsgOp) : Msg := { msg op with line := 274877906944, dest := 1 }

theorem meets_RequestChannelMessages :
    (∀ op ∈ [MsgOp.rd, .wr, .wrp, .inv, .evct],
      let d := chained (msg op)
      d.clocked = true ∧ (d.tport 2).firstOf op = some (msg op) ∧ (d.tport 2).doze = 0 ∧ (msg op).target = d.chain.index ∧
        d.room (fun st => st = .peerIn || inStage2 st) stage2Mins stage2Shared 1 = true ∧ (msg op).braid = false ∧
      (let m := msgFar op
       (farAway m 0).clocked = true ∧ ((farAway m 0).tport 2).firstOf op = some m ∧ m.target ≠ (farAway m 0).chain.index ∧
         (farAway m 0).route m.unit2m (some 2) = some 1 ∧ ((farAway m 0).tport 1).txRoom m.cls = true ∧
         (farAway m 256).route m.unit2m (some 2) = some 1 ∧ ((farAway m 256).tport 1).txRoom m.cls = false ∧
         ((chained m).tport 2).firstOf op = some m ∧ (chained m).route m.unit2m (some 2) = none)) := by decide +kernel

theorem meets_room :
    (let d : Dev := { chained (msg .rd) with path.reqs := List.replicate 448 { req 1 0x40 .peerIn with op := .read } }
     (d.tport 2).firstOf .rd = some (msg .rd) ∧ d.room (fun st => st = .peerIn || inStage2 st) stage2Mins stage2Shared 1 = false) ∧
    (let m : Msg := { msg .wr with braid := true, braidSeq := 5 }
     let d (h : Nat) : Dev := { chained m with chain.braidAt := [(0, (h, 9))] }
     (d 6).clocked = true ∧ ((d 6).tport 2).firstOf .wr = some m ∧ m.target = (d 6).chain.index ∧ m.braid = true ∧
       (d 6).chain.braidAt.look m.origin.toNat = some (6, 9) ∧ (9 + 65536 - m.braidSeq.toNat) % 65536 < 32768 ∧
       ¬ (1 + 65536 - { m with dir := true }.braidSeq.toNat) % 65536 < 32768 ∧ (chained m).chain.braidAt.look m.origin.toNat = none) ∧
    (let m : Msg := { msg .snp with label := 0x40, dpaLine := 0, ld := 0 }
     let d (b : Bool) : Dev := { linked.setTport 2 { st := .active, pool := [(1, [m])] } with host.links := [(0, { st := .up, cxl := true, flit256 := true, bi := b })] }
     (d true).clocked = true ∧ ((d true).tport 2).firstOf .snp = some m ∧ m.target = (d true).chain.index ∧ m.snpType ≠ 3 ∧
       (d true).biEnabled 0 = true ∧ (d true).ldLink 0 = some 0 ∧ (d true).hpaOf 0 0 = some 0 ∧ (d false).biEnabled 0 = false ∧
       ((d true).link 0).st ≠ .down ∧ ({ m with snpType := 3 } : Msg).snpType = 3) ∧
    (let m := msgFar .snp
     (farAway m 0).clocked = true ∧ ((farAway m 0).tport 2).firstOf .snp = some m ∧ m.target ≠ (farAway m 0).chain.index ∧
       (farAway m 0).route m.unit2m (some 2) = some 1 ∧ ((farAway m 0).tport 1).txRoom m.cls = true) := by decide +kernel

/-- A response on port 2 with a transit entry of a request that came from a port, of this device's own, and none. -/
def answered (op : MsgOp) (from_ : Option Nat) (u : List (Nat × TagUse)) : Dev :=
  { linked.setTport 2 { st := .active, rsps := [{ op := op, tag := 3 }], transit := [{ origin := 0, tag := 3, dir := false, from_ := from_, op := .rd, cls := 0 }] } with
    chain.tags := u, path.reqs := [req 9 0 .remote] }

theorem meets_ResponseMessages :
    (∀ op ∈ [MsgOp.rsp, .srsp, .swb, .mrsp],
      let d := answered op (some 1) []
      let m : Msg := { op := op, tag := 3 }
      d.clocked = true ∧ (d.tport 2).doze = 0 ∧ (d.tport 2).rsps = m :: [] ∧
        (d.tport 2).transitFor m = some { origin := 0, tag := 3, dir := false, from_ := some 1, op := .rd, cls := 0 } ∧
        (d.tport 2).transitFor { m with tag := 4 } = none) ∧
    (let d := answered .rsp none [(3, .req 9 false [])]
     let m : Msg := { op := .rsp, tag := 3 }
     let t : Transit := { origin := 0, tag := 3, dir := false, from_ := none, op := .rd, cls := 0 }
     (d.tport 2).transitFor m = some t ∧ t.from_ = none ∧
     (let f := ((d.setTport 2 { d.tport 2 with rsps := [] }).modTport 2 fun x => { x with transit := x.transit.erase t }).pump 2
      f.chain.tags.look 3 = some (.req 9 false []) ∧ f.req 9 = some (req 9 0 .remote))) ∧
    (let d := answered .srsp none [(3, .snoop 0 2)]
     let t : Transit := { origin := 0, tag := 3, dir := false, from_ := none, op := .rd, cls := 0 }
     let f := ((d.setTport 2 { d.tport 2 with rsps := [] }).modTport 2 fun x => { x with transit := x.transit.erase t }).pump 2
     f.chain.tags.look 3 = some (.snoop 0 2)) ∧
    (let d := { answered .swb none [(3, .snoop 98304 2)] with line.mem := Memory.setBurst [] 16844800 extBurst0 }
     let e := d.setTport 2 { d.tport 2 with rsps := [] }
     e.chain.tags.look 3 = some (.snoop 98304 2) ∧ (e.ownerOf 98304).isSome = true) := by decide +kernel

/-- Management messages for this device, by path and by index, each accepted, and one with a hop left. -/
theorem meets_ManagementMessages :
    (∀ e ∈ [(0x01, 10), (0x02, 5), (0x03, 1), (0x00, 0), (0x32, 0), (0xFF, 0)],
      let m : Msg := { msg .mgmt with pathMode := true, subOp := BitVec.ofNat 8 e.1, body := zeros 15 }
      let d := chained m
      d.clocked = true ∧ (d.tport 2).firstOf .mgmt = some m ∧ (d.tport 2).doze = 0 ∧ m.dest = 0 ∧ fits m.body e.2 = true ∧ field m.body 0 1 ≤ 2 ∧
        field m.body 1 1 ≤ 31 ∧ field m.body 2 1 ≤ 2 ∧ d.chain.assigned = false ∧ ({ m with pathMode := false } : Msg).target = d.chain.index ∧
        (({ d with chain.assigned := true } : Dev).chain.alone = false ∧ ({ d with chain.assigned := true, chain.index := 7 } : Dev).chain.index ≠ field m.body 0 1)) ∧
    (let m : Msg := { msg .mgmt with pathMode := true, dest := 1, path := 1 }
     let d := (chained m).setTport 1 { st := .active }
     d.clocked = true ∧ (d.tport 2).firstOf .mgmt = some m ∧ m.dest ≠ 0 ∧ m.path.toNat % 4 = 1 ∧ (d.tport 1).st = .active ∧ (d.tport 1).doze = 0 ∧
       (d.tport 1).txRoom m.cls = true) ∧
    (∀ k ∈ [1, 2, 3, 4, 5, 6, 0x31, 0x12],
      let d := answered .mrsp none [(3, .mgmt k 7 [])]
      let m : Msg := { op := .mrsp, tag := 3 }
      let t : Transit := { origin := 0, tag := 3, dir := false, from_ := none, op := .rd, cls := 0 }
      let f := ((d.setTport 2 { d.tport 2 with rsps := [] }).modTport 2 fun x => { x with transit := x.transit.erase t }).pump 2
      (d.tport 2).rsps = m :: [] ∧ (d.tport 2).transitFor m = some t ∧ f.chain.tags.look 3 = some (.mgmt k 7 []) ∧ field m.body 0 1 = 0 ∧
        d.chain.tags.look (3 : BitVec 16).toNat = some (.mgmt k 7 []) ∧ d.chain.tags.look (4 : BitVec 16).toNat = none) := by decide +kernel

theorem meets_ChainAndBeats :
    (let d (n : Nat) : Dev := { dev with clk.bnd := n, chain.firstUp := some 5 }
     (d 4000005).chain.firstUp = some 5 ∧ (d 4000005).clocked = true ∧ (d 4000005).chain.assigned = false ∧ (d 4000005).chain.rootStrap = false ∧
       (d 4000005).chain.alone = false ∧ 5 + 4000000 ≤ (d 4000005).clk.bnd ∧ (d 4000004).clk.bnd < 5 + 4000000) ∧
    (dev.isRoot = false ∧ (let d : Dev := { dev with chain.rootStrap := true }; d.clocked = true ∧ d.isRoot = true ∧ d.chain.topo = [])) ∧
    (let d (b : Bool) : Dev := { dev.setTport 2 { st := .active } with chain.source := some 2, chain.mayStep := b }
     (d true).clocked = true ∧ ((d true).tport 2).st = .active ∧ (d true).isRoot = false ∧ (d true).chain.source = some 2 ∧
       (d true).chain.mayStep = true ∧ (d false).chain.mayStep = false ∧ (d false).clk.beat ≠ 1) ∧
    (let d (n : Nat) : Dev := { dev with clk.bnd := n, chain.lastMark := 4, chain.source := some 2 }
     (d 68).chain.source = some 2 ∧ (d 68).isRoot = false ∧ 4 + 64 ≤ (d 68).clk.bnd ∧ (d 67).clk.bnd < 4 + 64) ∧
    (let d (n : Nat) : Dev := { dev with clk.bnd := n, chain.lastMark := 4 }
     (d 4100).chain.source = none ∧ 4 + 4096 ≤ (d 4100).clk.bnd ∧ (d 4099).clk.bnd < 4 + 4096) := by decide +kernel

theorem meets_registers :
    dev.clocked = true ∧ ({} : Dev).clocked = false ∧
    (let r (space : Space) (off size : Nat) (v : BitVec 64 := 1) : Reg := { space := space, off := off, size := size, value := v }
     (r .bar0 1 4).off % (r .bar0 1 4).size ≠ 0 ∧
     (∀ e ∈ [(0, 0x18000), (1, 0x28000)], ∀ k ∈ [e.2, e.2 + 0x7FF8], e.2 ≤ k ∧ k + 8 ≤ e.2 + 0x8000 ∧ k % 8 = 0) ∧
     0x17FE7 % 1 = 0 ∧ 0x30080 % 8 = 0 ∧ 0x17FE8 % 8 = 0 ∧ 0x27FE8 % 8 = 0 ∧ linked.ldLink 0 = some 0 ∧ (r .cfgMsix 0 8).value.getLsbD 0 = true ∧
       4 % 4 = 0 ∧ 16 % 4 = 0) := by decide +kernel

theorem meets_commands :
    (∀ o ∈ commandRows.map (·.1), (BitVec.ofNat 16 o).toNat = o) ∧ opcodes.contains (0xFFFF : BitVec 16).toNat = false ∧
    (dev.power.st = .p0 ∧ dev.awake = true ∧ dev.power.entry = none) ∧ ({ dev with power.st := .p2 } : Dev).power.st = .p2 ∧
      ({ dev with power.st := .p3 } : Dev).power.st = .p3 ∧
    (let d0 := ({ linked with host.links := [(0, { st := .up, cxl := true, mld := true })] } : Dev).doorbell 0x380
     let i (n : Byte) : List Byte := [n, 0] ++ leBytes 2 12 ++ zeros 13
     issuerMc mc = true ∧ issuerLd mc = some 0 ∧ d0.ldLink 0 = some 0 ∧ (d0.link 0).mld = true ∧ 17 ≤ (i 0).length ∧
       (i 0).length = 5 + field (i 0) 2 2 ∧ (d0.linkLds 0)[field (i 0) 0 1]? = some (0 : Fin 32).val ∧ field (i 0) 1 1 = 0 ∧
       (i 0).length = 17 + field (i 0) 10 3 % 2 ^ 21 ∧ (d0.linkLds 0)[field (i 9) 0 1]? = none) := by decide +kernel

/-- The command that a tunnel carries, which answers at once: an opcode that is not defined. -/
theorem meets_tunnel :
    let d0 := ({ linked with host.links := [(0, { st := .up, cxl := true, mld := true })] } : Dev).doorbell 0x380
    ∃ r out g, (d0.opcode (.mc (some 0)) (field ([0, 0] ++ leBytes 2 12 ++ zeros 13) 8 2) []).takeAnswer 64 d0.out.length = (some (r, out), g) :=
  ⟨_, _, _, rfl⟩

/-- A page image whose sixteen sub-blocks are a run of 256 zeros each, all in its first line, and that line as it is stored. -/
def image0 : BitVec 512 := 13385098436080941064202807835242531121449760119728950092991321948486346073144490260766456692586989126204607837420306134562972474486323489682363166050484258
def imageBurst0 : Burst := 341494465154304275411584016787127852168160258126502375940490998622991412669932065182046104298171333931774634196995617607109570026776573251771512083354450839337328700478644319015964407968825378

def decoding : Decode := { id := 4, engine := 0, page := 0, knot := shadeKnot 0 0, sub := 3, attr := { knotted := true }, label := 0x40 }

theorem meets_PrismDecodes :
    mkBurst image0 (plainCheck media.shadeBase image0) = imageBurst0 ∧
    leBytes 64 image0.toNat = ((List.range 16).flatMap fun i => leBytes 2 (34 + 2 * i)) ++ (List.replicate 16 [(0x90 : Byte), 255]).flatten ∧
    (let d : Dev := { media with line.mem := Memory.setBurst [] 16777216 imageBurst0, prism.decodes := [decoding] }
     let d0 := { d with prism.decodes := [] }.bump 0x170
     let r := d0.readImageLines {} 0 (shadeKnot 0 0) [0] 0x40 reqNone
     let r2 := r.2.2.2.readImageLines {} 0 (shadeKnot 0 0) (subLines r.1 3) 0x40 reqNone
     d.prism.decodes.find? (·.id = 4) = some decoding ∧ r.2.1 = true ∧ indexValid r.1 1024 = true ∧ r2.2.1 = true ∧
       decodeSub (overlay r2.1 0 (r.1.take 64)) 1024 3 = some (zeros 256)) ∧
    (let d : Dev := { media with line.mem := Memory.setBurst [] 16777216 (imageBurst0 ^^^ 0xFFFFFFFFFFFFFFFFFFFFFFFF), prism.decodes := [decoding] }
     (d.readImageLines {} 0 (shadeKnot 0 0) [0] 0x40 reqNone).2.1 = false) := by decide +kernel

/-- Port 2 in a state. -/
def port (x : TPort) : Dev := dev.setTport 2 x

def linkup : LinkUp :=
  { resume := true, nextExpected := 7, crTotals := 0, index := 1, assigned := true, port := 1, rootStrap := false, synced := true, uniqueId := 9, epoch := 2 }

def heldFlit (seq : BitVec 12) : Flit := { hdr := { seq := seq, kind := 1, flitClass := 1 }, marker := none, msgs := [msg .rd] }

theorem meets_LinkUpHandshake :
    (let d := port { st := .handshake }
     let x := d.tport 2
     x.st = .handshake ∧ x.gotUp = false ∧ x.sentAck = false ∧ x.samples = [] ∧ x.kept = false) ∧
    (let d := port { st := .handshake, kept := true, uid := 9, epoch := 2, seq := 8, replay := [heldFlit 7] }
     let x := d.tport 2
     x.kept = true ∧ linkup.resume = true ∧ linkup.uniqueId = x.uid ∧ linkup.epoch = x.epoch ∧
       (x.seq - linkup.nextExpected).toNat ≤ x.replay.length ∧
       ((port { st := .handshake, gotUp := true }).tport 2).gotUp = true) ∧
    (((port { st := .handshake, sentAck := true }).tport 2).sentAck = true) ∧
    (let x : TPort := { st := .handshake, gotUp := true, samples := (List.range 7).map fun i => (i, 100) }
     let y := (port x).tport 2
     (y.samples.put 6 (((9 - 1) - (3 - 2) : BitVec 48).toNat / 2)).length ≠ 8 ∧
       (y.samples.put 7 (((9 - 1) - (3 - 2) : BitVec 48).toNat / 2)).length = 8 ∧ y.gotUp = true ∧ y.sentAck = false ∧ y.gotAck = false ∧
       y.samples.has 6 = true ∧ y.samples.has 7 = false) ∧
    (∀ st ∈ [TState.handshake, .active, .standby], ((port { st := st }).tport 2).st = st) := by decide +kernel

theorem meets_LinkFailures :
    (∀ n ∈ [0, 3, 4, 5, 7, 8, 20],
      let x := (port { st := .active, replay := [heldFlit 7], failures := n }).tport 2
      x.st = .active ∧ x.replay ≠ [] ∧ x.failures = n ∧ (n + 1 < 5 ∨ n + 1 = 6 ∨ n + 1 = 7 ∨ n + 1 = 8 ∨ n + 1 = 5 ∨ 9 ≤ n + 1)) ∧
    ((dev.tport 2).replay = []) ∧
    (let x := (port { st := .active, replay := [heldFlit 7], failures := 3 }).tport 2
     (x.ackTo 7).replay = [] ∧ (x.ackTo 6).replay ≠ [] ∧ (x.ackTo 6).failures < 4) ∧
    (∀ st ∈ [TState.retraining, .td, .handshake, .active], ∀ n ∈ [0, 1, 2],
      let x := (port { st := st, kept := true, returns := n }).tport 2
      x.st = st ∧ x.kept = true ∧ x.doze = 0 ∧ x.returns = n ∧ ((port { st := st, returns := n }).tport 2).kept = false) := by decide +kernel

theorem meets_FlitsInOrder :
    (let x := (port { st := .active, ne := 4095 }).tport 2
     x.st = .active ∧ x.nak = false ∧ ((port { st := .active, nak := true }).tport 2).nak = true ∧ (heldFlit 0).hdr.nak = false) ∧
    (∀ e ∈ [((1 : BitVec 2), msg .rd), (2, msg .rsp)],
      let f (n : Nat) : Flit := { hdr := { seq := 0, kind := e.1, flitClass := 1 }, marker := none, msgs := List.replicate n e.2 }
      (f 14).hdr.kind = e.1 ∧ flitFormed (f 14) = true ∧ flitFormed (f 15) = false ∧ flitFormed (f 0) = false ∧
        2048 ≤ ((f 1).hdr.seq - 1).toNat ∧ ((f 1).hdr.seq - 2049).toNat < 2048) ∧
    2048 ≤ ((0 : BitVec 12) - 2048).toNat := by decide +kernel

def ttsSet : TrainSet := { rates := 3, width := 8, reset := 1, port := 1, nonce := 0x35 }

theorem meets_TetherTraining :
    (let d : Dev := { dev with conf.cur := [(settingKey idTetherEnable 2, 1)] }
     d.clocked = true ∧ (d.tport 2).st = .td ∧ (d.tport 2).doze = 0 ∧ (d.tport 2).retiredLink = false ∧ d.setting idTetherEnable 2 ≠ 0 ∧
       (0x80 : BitVec 8) ≠ 0 ∧ ({ dev with conf.cur := [(settingKey idTetherEnable 2, 0)] } : Dev).setting idTetherEnable 2 = 0) ∧
    (let x := (port { st := .ta, present := 0x81, lock := 0x01 }).tport 2
     let y (lane : Nat) : BitVec 8 := x.lock ||| BitVec.ofNat 8 (2 ^ lane)
     x.st = .ta ∧ x.present.getLsbD 7 = true ∧ x.retired.getLsbD 7 = false ∧ (x.present &&& ~~~x.retired &&& ~~~(y 7) = 0) ∧
       x.present.getLsbD 0 = true ∧ (x.present &&& ~~~x.retired &&& ~~~(y 0) ≠ 0) ∧ x.lock ≠ 0 ∧ ttsSet.reset.getLsbD 0 = true) ∧
    (let x : TPort := { st := .tc, present := 0xFF, lock := 0xFF, laneNonce := (List.range 8).map fun i => (i, 0x35) }
     let y (x : TPort) (lane : Nat) (w : BitVec 8) : TPort := { x with partnerWidth := w, cfg := x.cfg ||| BitVec.ofNat 8 (2 ^ lane) }
     ((port x).tport 2).lock.getLsbD 7 = true ∧ (y x 7 8).fit.1 ≠ 0 ∧ (y x 7 8).cfg.getLsbD 0 = false ∧ laneUsed 8 (y x 7 8).fit.1 (y x 7 8).fit.2 0 = true ∧
       (y x 0 1).fit.1 = 1 ∧ (∀ i < 8, laneUsed 8 (y x 0 1).fit.1 (y x 0 1).fit.2 i = true → (y x 0 1).cfg.getLsbD i = true) ∧
       (y x 7 0).fit.1 = 0 ∧ x.kept = false ∧ x.returns < 2) ∧
    (∀ b ∈ [true, false],
      let x := (port { st := .ts, resetting := b, rate := 2, coefRate := 2 }).tport 2
      x.st = .ts ∧ x.resetting = b ∧ x.coefRate = x.rate) ∧
    (∀ e ∈ [(false, false, 62), (true, false, 62), (false, false, 63), (true, false, 0)],
      let x := (port { st := .te, eqDone := (e.1, e.2.1), eqAsks := e.2.2 }).tport 2
      x.st = .te ∧ x.eqDone = (e.1, e.2.1) ∧ x.eqDone.2 = false ∧ (x.eqAsks < 63 ∨ 63 ≤ x.eqAsks)) ∧
    (∀ st ∈ [TState.ta, .tc, .ts, .te, .th, .heldDown, .retraining], ∀ n ∈ [0, 1, 2],
      let x := (port { st := st, resetting := true, present := 0xFF, retired := 0x01, lock := 0, returns := n }).tport 2
      x.st = st ∧ x.resetting = true ∧ x.returns = n ∧ x.retiredLink = false ∧
        (widthOf 8 fun i => x.present.getLsbD i && !x.retired.getLsbD i && (x.lock = 0 || x.lock.getLsbD i)) = (4, true) ∧
        (widthOf 8 fun i => (0 : BitVec 8).getLsbD i) = (0, false)) ∧
    (let x := (port { st := .active, width := 4, reversed := true }).tport 2
     x.width ≠ 0 ∧ laneUsed 8 x.width x.reversed 4 = true ∧ laneUsed 8 x.width x.reversed 7 = true ∧ laneUsed 8 x.width x.reversed 3 = false ∧
       (-2 : Int) ≤ -2 ∧ (2 : Int) < 3) := by decide +kernel

theorem meets_StandardInformation :
    (let b (r : Bool) (o : BitVec 16) : Bg := { opcode := o, running := r, ret := .success, out := [] }
     let d (x : Option Bg) : Dev := ({ dev with host.boxes := [(0, { bg := x })] } : Dev).doorbell 0x340
     ((d none).mbox 0).bg = none ∧ ((d (some (b false 0xCE20))).mbox 0).bg = some (b false 0xCE20) ∧ (b false 0xCE20).running = false ∧
       ((d (some (b true 0xCE20))).mbox 0).bg = some (b true 0xCE20) ∧ (b true 0xCE20).running = true ∧ 0xCE20#16 ∈ [0xCE11#16, 0xCE20#16, 0x4400#16] ∧
       0xC830#16 ∉ [0xCE11#16, 0xCE20#16, 0x4400#16] ∧ (d none).bgBusy host = false) ∧
    (∀ n ∈ ([7, 8, 20, 21] : List Nat), field [BitVec.ofNat 8 n] 0 1 = n) ∧
    (leBytes 8 12345).length = 8 ∧ (let d : Dev := { dev with host.timestamp := 5 }; d.host.timestamp ≠ 0 ∧ dev.host.timestamp = 0) ∧
    (let i (a b : Nat) : List Byte := uuidBytes uuidCel ++ leBytes 4 a ++ leBytes 4 b
     (i 0 celBytes.length).length = 24 ∧ (i 0 celBytes.length).take 16 = uuidBytes uuidCel ∧
       field (i 0 celBytes.length) 16 4 + field (i 0 celBytes.length) 20 4 ≤ celBytes.length ∧
       field (i 0 celBytes.length) 20 4 ≤ (dev.mbox 0).respLimit ∧ celBytes.length < field (i 1 celBytes.length) 16 4 + field (i 1 celBytes.length) 20 4) ∧
    (zeros 8).length = 8 ∧ (zeros 21).length = 21 ∧ 32 ≤ (zeros 32).length ∧ issuerLd host = some 0 := by decide +kernel

theorem meets_StandardMemory :
    (let i : List Byte := [31, 31] ++ zeros 10
     i.length = 12 ∧ field i 0 1 ≤ 31 ∧ field i 1 1 ≤ 31) ∧
    (let d : Dev := ready.doorbell 0x340
     (zeros 16).length = 16 ∧ field (zeros 16) 0 8 % 64 = 0 ∧ (zeros 8).length = 8 ∧ (zeros 72).length = 72 ∧ d.unlocked = false ∧
       ({ d with host.diagUntil := some 9 } : Dev).unlocked = true ∧ d.regionAt 0 0 ≠ none ∧ d.regionAt 0 (2 ^ 40) = none ∧
       field (leBytes 8 (2 ^ 40)) 0 8 % 64 = 0 ∧ d.bgBusy host = false ∧ 7 < d.coresUp ∧ lowestFree d.jobs.slots.keys 256 = some 0 ∧
       (let e : Dev := { d with host.boxes := [(0, { bg := some { opcode := 0x4400, running := true, ret := .success, out := [] } })] }
        e.bgBusy host = true)) := by decide +kernel

/-- The regions of an LD that Sanitize is given, one and none. -/
theorem meets_Sanitize :
    let rs (d : Dev) : List Region := (d.conf.regions.filter fun r => r.home.isNone && r.ld = 0).mergeSort fun a b => a.base ≤ b.base
    rs dev = [] ∧ rs linked ≠ [] := by decide +kernel

theorem meets_FmOwned :
    issuerMc host = false ∧
    (let d0 := ({ linked with host.links := [(0, { st := .up, cxl := true, mld := true, qosControl := zeros 7 })] } : Dev).doorbell 0x380
     issuerMc mc = true ∧ issuerLd mc = some 0 ∧ d0.ldLink 0 = some 0 ∧ (d0.link 0).mld = true ∧ (d0.link 0).qosControl.length = 7 ∧
       (d0.linkLds 0).length = 1 ∧ field [0, 1] 0 1 + field [0, 1] 1 1 ≤ (d0.linkLds 0).length ∧
       ([1, 0, 0, 0] ++ zeros 16 : List Byte).length = 4 + 16 * field [1, 0, 0, 0] 0 1 ∧ ([1, 0, 7] : List Byte).length = 2 + field [1, 0, 7] 0 1 ∧
       (zeros 7).length = 7) := by decide +kernel

/-! ### More of the clauses -/

/-- A line of the table area that the write buffer holds, and one that it holds poisoned. -/
def tl (n : Nat) (x : Line) : Wb := { id := n, line := n, kind := .full, data := x, label := 0x7F, admitBnd := 0 }
def bad (n : Nat) : Wb := { tl n 0 with poison := true }

theorem meets_QueueGrants_sender :
    let x : TPort := { st := .active }
    let m : Msg := { op := .rd }
    m.op.isRequest = true ∧ x.maySend m = true := by decide +kernel

/-- A write-buffer entry and an access of the age; one a boundary short of it. -/
theorem meets_RegulatorOrderAndAge_entries :
    let d : Dev := { dev with line.wb := [{ id := 1, line := 0, kind := .full, label := 0x81, admitBnd := 0 }]
                              dram.accs := [{ id := 7, kind := .read 1, line := 0, ch := 0, rank := 0, sub := 0, bank := 0, row := 0, label := 0x81, who := 0 }], clk.bnd := 8 }
    (∃ w ∈ d.line.wb, w.id = 1 ∧ w.admitBnd + d.setting idAgeLimit 0 ≤ d.clk.bnd) ∧
      (∃ a ∈ d.dram.accs, a.kind = .read 1 ∧ a.admitBnd + d.setting idAgeLimit 0 ≤ d.clk.bnd) ∧
      ¬ (0 + d.setting idAgeLimit 0 ≤ 7) := by decide +kernel

/-- A walk to an empty entry, and one of stage 2 whose page has no directory; a block with nothing left to read, and one that does not
fill; a header at hand, and one whose line of a plain range judges good; a first-level entry of 4,096 boundaries, and one of 4,095. -/
theorem meets_WalksAndCaches_ends :
    (let d : Dev := { walking with xl.walks := [{ id := 1, target := .stage1 0 1, label := 0x45, prefetch := false }] }
     d.xl.walks.find? (·.id = 1) = some { id := 1, target := .stage1 0 1, label := 0x45, prefetch := false }) ∧
    (let d : Dev := { media with xl.walks := [{ id := 2, target := .stage2 5, label := 0x45, prefetch := false }] }
     d.xl.walks.find? (·.id = 2) = some { id := 2, target := .stage2 5, label := 0x45, prefetch := false }) ∧
    (let d (full filling : Bool) : Dev :=
       { media with xl.kc := [{ block := 7, valid := BitVec.allOnes 36, knots := 0, recs := 0, recsValid := full, filling := filling }] }
     ((d true true).kslot 7).map (·.filling) = some true ∧ ((d false true).kslot 7).map (·.recsValid) = some false ∧
       ((d true false).kslot 7).map (·.filling) = some false) ∧
    (let f : CtFetch := { id := 4, line := headerLine 1073741824 0, attr := { knotted := true, base := 1073741824 }, page := 0 }
     let d (l : List CtLine) : Dev := { media with line.fetches := [f], line.ct := l, line.wb := [tl f.line 77], path.reqs := [req 3 0x42 (.header 4)] }
     (d []).line.fetches.find? (·.id = 4) = some f ∧ (d [{ line := f.line, data := 5 }]).headerCached f.attr f.page = true ∧
       (d []).headerCached f.attr f.page = false ∧ f.attr.prot ≠ .sealed ∧ ((d []).judgeTable f.line 0).v.good = true) ∧
    (let d (n : Nat) : Dev := { dev with clk.bnd := n, xl.flb := [(0, [⟨0, 2, extEntry0, 0⟩]), (serviceBuf, [⟨0, 2, extEntry0, 0⟩, ⟨0, 3, extEntry0, 0⟩])] }
     0 + 4096 ≤ (d 4096).clk.bnd ∧ (d 4095).clk.bnd < 0 + 4096 ∧ linkNum .h0a = 0) := by decide +kernel

theorem meets_TableChangesAndPokes_drained :
    let c : Change := { id := 3, scope := .all, applied := true, waits := [], after := .nothing }
    let d : Dev := { dev with xl.changes := [c] }
    d.xl.changes.find? (·.id = 3) = some c ∧ d.afterReady c.after = true := by decide +kernel

/-- The engine's next decode, one whose image is bad, one behind it; a page whose old knot stands, one whose knot has changed, and one
whose header does not judge good. -/
theorem meets_PrismDecodesPromotesOverflows_ends :
    (let c : Decode := { decoding with want := [], indexed := true, img := leBytes 64 image0.toNat }
     let q : Req := { req 3 0x40 (.image 4) with media := 0 }
     let d (l : List Decode) : Dev := { media with prism.decodes := l, path.reqs := [q] }
     (d [c]).engineNext 0 = some c ∧ (decodeSub c.img 1024 3).isSome = true ∧ (d [{ c with stale := true }]).engineNext 0 = some { c with stale := true } ∧
       (d [{ c with img := [] }]).engineNext 0 = some { c with img := [] } ∧ decodeSub [] 1024 3 = none ∧
       (d [{ c with id := 6, label := 0xC0 }, c]).engineNext 0 = some c) ∧
    (let a : Attr := { knotted := true, base := 1073741824 }
     let p (k : BitVec 36) : Promo := { page := 0, knot := k, dest := 0x400000005, attr := a }
     let d (k : BitVec 36) (l : List CtLine) : Dev := { media with tiers.promo := [(31, p k)], line.ct := l, line.wb := [tl 16777728 0, tl 16777729 0], path.reqs := [req 3 0x42 (.promo 31)] }
     let ct : List CtLine := [{ line := headerLine a.base 0, data := 0 }]
     (d 0 ct).tiers.promo.look 31 = some (p 0) ∧ ((d 0 ct).fetchHeader a 0 []).1 = true ∧ ((d 0 ct).fetchHeader a 0 []).2.knotAt (a.base + unitLeaf) 0 = 0 ∧
       (d 5 ct).tiers.promo.look 31 = some (p 5) ∧
       (let e := { d 0 [] with line.wb := [bad (headerLine a.base 0)] }
        e.tiers.promo.look 31 = some (p 0) ∧ (e.fetchHeader a 0 []).1 = false)) := by decide +kernel

/-- An entry whose minor is at the top. -/
theorem meets_PrismDecodesPromotesOverflows_minors :
    let w : Wb := { id := 9, line := 640, kind := .full, label := 0x80, attr := { prot := .sealed, key := 3, knotted := true, base := 1073741824 }, admitBnd := 0 }
    (let d := overflown (2 ^ 64 - 2); d.line.wb.find? (·.id = 9) = some w ∧ d.overflowing w = true ∧ (d.wbOn 640).head? = some w ∧ d.wbBusy 9 = false) ∧
    (let d := overflown (2 ^ 64 - 1); d.line.wb.find? (·.id = 9) = some w ∧ d.overflowing w = true ∧ (d.wbOn 640).head? = some w ∧ d.wbBusy 9 = false) := by
  decide +kernel

/-- A row group of chip 5 of a bank at the threshold, with a C2 contributor beside a C0 one. -/
theorem meets_RowDisturbanceDefence_trip :
    let x : Contrib := ⟨1, 0x81, 4⟩
    let d : Dev := { media with dram.banks := [(10240, { groups := [(5, 64)], contrib := [⟨0, 0x05, 9⟩, x] })], conf.cur := [(settingKey idRhThreshold 0, 64)] }
    d.bankKey 0 0 0 0 (5 * 512) = 10240 ∧ d.setting idRhThreshold 0 ≤ (d.bank 10240).groups.val 5 0 ∧ (d.chan 0).rfmDue = [] ∧ (d.chan 0).window = false ∧
      (d.chan 0).rfm.contains 10240 = false ∧ d.c0Waits 10240 = false ∧ topContrib (d.bank 10240).contrib = some x := by decide +kernel

/-- Reads on their way for a merge, for an image and for patrol scrub. -/
theorem meets_ReadsAndScrub_returns :
    let w : Wb := { id := 9, line := 0, kind := .masked, label := 0x81, admitBnd := 0, phase := .reading }
    let c : Decode := { decoding with asked := [0], want := [] }
    let m : Acc := { acc 1 (.merge 9) 0x81 with issued := true }
    let i : Acc := { acc 2 (.image 4 0) 0x40 with issued := true, line := 16777216 }
    let r : Acc := { acc 3 .scrub 0xC2 with issued := true }
    let d : Dev := { media with dram.accs := [m, i, r], line.wb := [w], prism.decodes := [c] }
    d.dram.accs.find? (fun x => x.id = 1 && x.issued) = some m ∧ d.dram.accs.find? (fun x => x.id = 2 && x.issued) = some i ∧
      d.dram.accs.find? (fun x => x.id = 3 && x.issued) = some r ∧ d.line.wb.find? (·.id = 9) = some w := by decide +kernel

/-- A bank whose row is open as the window of its half starts. -/
theorem meets_RefreshAndTemperature_open :
    let d : Dev := { media with dram.phase := 0, dram.banks := [(0, { opened := some 3 })] }
    d.dram.phase = 0 ∧ (d.chan 0).window = false ∧ (d.bank 0).opened = some 3 := by decide +kernel

/-- A row whose repair has its slots in the next beat, and one that has them in this one. -/
theorem meets_RowRepairAndRankCopy_boundaries :
    let d : Dev := { media with dram.chans := [(0, { ppr := [(7, false), (3, true)] })] }
    (d.chan 0).toErase = [] ∧ (d.chan 0).toRetire = [] ∧ (7, false) ∈ (d.chan 0).ppr ∧ (3, true) ∈ (d.chan 0).ppr := by decide +kernel

theorem meets_KeysLoadGenerateRetire_referenced :
    let d0 := keyed.doorbell (mailDoorbell mc)
    let i := leBytes 8 5
    i.length = 8 ∧ rsvd i 1 7 = true ∧ field i 0 1 = 5 ∧ (d0.key 5).st = .active ∧ d0.keyRefs 5 ≠ 0 ∧
      (let f : Dev := { keyed with line.keys := [(5, { st := .failed })] }
       ((f.doorbell (mailDoorbell mc)).key 5).st = .failed) := by decide +kernel

/-- Link H0a in reset's release trains at x8 and 32 GT/s. -/
theorem meets_HostLinksPortsIde_trains :
    let d : Dev := { dev with host.ports := [(0, { perst := false })] }
    let r : BitVec 8 := 5
    d.mayTrain 0 true false false 16 r.toNat = true ∧ (d.link 0).st = .down := by decide +kernel

/-- An epoch with a page queued; a queued page behind a decode of its engine, and one whose frame stands; a page's coded image that
decodes, one that does not, and one above 3 KiB. -/
theorem meets_TieringService_demotions :
    let q : Dev := { tiered 0x400000000 with tiers.demote := [(0, 1)], clk.bnd := dev.setting idTierEpoch 0 * 4096 }
    let c : Decode := { decoding with engine := 1, want := [], indexed := true, img := leBytes 64 image0.toNat }
    let b : Dev := { q with prism.decodes := [c] }
    let i := leBytes 64 image0.toNat
    let z := zeros 4096
    let long : List Byte := (List.range 16).flatMap (fun i => leBytes 2 (32 + 256 * i)) ++ zeros 64
    q.tiers.demote.find? (·.1 = 0) = some (0, 1) ∧ q.engineNext 1 = none ∧ b.engineNext 1 = some c ∧
      knotState (q.knotAt ((q.rangeAttr 0).base + unitLeaf) 0) = 1 ∧ sizeClass (imgEnd (i.take 32) 15) = some 0 ∧
      imageDecodes (i ++ zeros 960) z = true ∧ imageDecodes (i ++ zeros 960) (leBytes 4096 1) = false ∧ sizeClass (imgEnd (long.take 32) 15) = none := by
  decide +kernel

/-- A bright page on a draining rank that may move, and one whose region is at its quota; a conversion of a direct extent's page, of a
sealed page in quarantine, and at the end of its range. -/
theorem meets_ExtentMovesRankDrainRekey_pages :
    (let d : Dev := { tiered 0x400000000 with dram.chans := [(0, { draining := [0] })] }
     let e : Dev := { d with tiers.elastic := [(0, { use := 100000000 })] }
     (d.chan 0).draining.contains 0 = true ∧ d.pageHeld 0 = false ∧ (d.movePage 0 slotDrain).isSome = true ∧ (e.movePage 0 slotDrain).isNone = true ∧
       e.noFrame (.page 0) = false) ∧
    (let x : Rekey := { unit2m := 3, knotted := false, old := 5, new := 6, cursor := 511, job := 0 }
     let y : Rekey := { x with unit2m := 0, knotted := true }
     let d (z : Rekey) : Dev := { linked with line.rekey := [(7, z)] }
     let t : Dev := { tiered 0x400000000 with line.rekey := [(7, { y with cursor := 0 })] }
     (d x).line.rekey.look 7 = some x ∧ (d { x with cursor := 512 }).line.rekey.look 7 = some { x with cursor := 512 } ∧
       (d { x with cursor := 513 }).line.rekey.look 7 = some { x with cursor := 513 } ∧ t.line.rekey.look 7 = some { y with cursor := 0 } ∧
       (t.dataLines { y with cursor := 0 } (t.rekeyAttr y) 0) = []) := by decide +kernel

/-- A sealed range whose pages are all in quarantine, in a conversion. -/
theorem meets_ExtentMovesRankDrainRekey_held :
    let x : Rekey := { unit2m := 0, knotted := true, old := 5, new := 6, cursor := 0, job := 0 }
    let s := media.s2Base
    let w := [tl (s / 64) ((mkDir (s + 4096)).setWidth 512), tl ((s + 4096) / 64) ((mkS2 false .sealed false false (media.unitAddr 0 + unitLeaf) 5).setWidth 512)]
    let d : Dev := { tiered 0x400000000 with line.rekey := [(7, x)], line.wb := w, line.quar := [(0, ⟨255, 0, 0⟩)] }
    d.line.rekey.look 7 = some x ∧ x.cursor < 512 ∧ d.quarantined (d.rekeyAttr x) 0 = true := by decide +kernel

/-- Answers with a reserved flag, with ranges that overlap, and with another unit than those offered or held. -/
theorem meets_CapacityOffersAndReleases_refusals :
    let e := (extents 0 1).drop 8
    let flag := leBytes 8 (1 + 2 ^ 33) ++ e
    let two := leBytes 8 2 ++ e ++ e
    let far := extents 5 1
    let o : Dev := { linked with host.lds := [(0, { offers := [512, 3], exts := [⟨0, 2, 0, 0, .offered, [3, 4], 0, some 512⟩] })] }
    flag.length = 8 + 24 * field flag 0 4 ∧ updatedExtents flag = none ∧
      two.length = 8 + 24 * field two 0 4 ∧ updatedExtents two = some [(0, 1), (0, 1)] ∧ apart [(0, 1), (0, 1)] = false ∧
      updatedExtents far = some [(5, 1)] ∧ apart [(5, 1)] = true ∧ namesOnly [(5, 1)] ((o.ld 0).unitsIn .offered (some 512)) = false ∧
      (linked.ld 0).offers = [] := by decide +kernel

/-- A device with one core fewer than jobs need, one with all 256 slots taken, and one in which JobId 255 is the lowest free. -/
theorem meets_JobSubmissionTakesSlot_refusals :
    let few : Dev := { ready with fault.cores := (List.range 9).map fun n => (n, { st := .retired }) }
    let full (n : Nat) : Dev := { ready with jobs.slots := (List.range n).map fun i => (i, job .tier .queued) }
    (few.doorbell (mailDoorbell mc)).coresUp = 7 ∧ (ready.doorbell (mailDoorbell mc)).coresUp = 16 ∧
      lowestFree ((full 256).doorbell (mailDoorbell mc)).jobs.slots.keys 256 = none ∧
      lowestFree ((full 255).doorbell (mailDoorbell mc)).jobs.slots.keys 256 = some 255 := by decide +kernel

/-- Jobs with a request on its way, with a line to write, and with an answer that has come back. -/
theorem meets_JobBatchesAndSteps_answers :
    let c : Job := { job .copy .active with body := zeros 8, entries := [leBytes 8 0 ++ leBytes 8 128 ++ leBytes 4 128 ++ zeros 4], pos := 1, total := 2 }
    let f : Job := { job .fill .active with body := zeros 16, entries := [leBytes 8 0 ++ leBytes 4 128 ++ zeros 4], pos := 1, total := 2 }
    let r : Job := { job .scrub .active with todo := [0, 16] }
    let on (j : Job) : Dev := { ready with jobs.slots := [(0, j)] }
    let cs : Dev := on { c with sent := true }
    let fs : Dev := on { f with sent := true }
    let rs : Dev := on { r with sent := true }
    let ch : Dev := on { c with hold := some (some 5) }
    let f0 : Dev := on f
    let r0 : Dev := on r
    let cb : Dev := on { c with buf := some (.data 5) }
    let cw : Dev := on { c with hold := some none, buf := some .cmp }
    let fw : Dev := on { f with buf := some .cmp }
    let rd : Dev := on { r with buf := some (.data 0) }
    cs.working 0 .copy = some { c with sent := true } ∧ fs.working 0 .fill = some { f with sent := true } ∧
      rs.working 0 .scrub = some { r with sent := true } ∧ ch.working 0 .copy = some { c with hold := some (some 5) } ∧
      f0.working 0 .fill = some f ∧ r0.working 0 .scrub = some r ∧ cb.working 0 .copy = some { c with buf := some (.data 5) } ∧
      cw.working 0 .copy = some { c with hold := some none, buf := some .cmp } ∧ fw.working 0 .fill = some { f with buf := some .cmp } ∧
      rd.working 0 .scrub = some { r with buf := some (.data 0) } := by decide +kernel

/-- A SANITIZE at a unit outside every region, at a direct unit that is free or held by a move, and at a knotted one. -/
theorem meets_JobBatchesAndSteps_sanitize :
    let j (u : Nat) : Job := { job .sanitize .active with body := [0, 255, 0, 0, 0, 0, 0, 0], todo := [u, 2] }
    let on (u : Nat) : Dev := { ready with jobs.slots := [(0, j u)] }
    let out : Dev := on 100
    let free : Dev := on 0
    let held : Dev := { on 0 with tiers.extMoves := [(7, { src := 3, dst := 5, dstDev := 0, job := 0, ld := 0, ext := 0, attr := {} })] }
    let knot : Dev := { on 16 with host.lds := [(0, { exts := [{ start := 16, len := 1, entry := 1, dev := 0, st := .held, place := [0] }] })]
                                   tiers.owner := [(0, (1, 16))], tiers.units := [(0, 0)] }
    out.regionAt 0 (100 * mib2) = none ∧ (free.placeAt 0 0).map (·.2) = some 3 ∧ free.unitHeld false 3 = false ∧ held.unitHeld false 3 = true ∧
      (knot.placeAt 0 16).map (·.2) = some 0 ∧ knot.unitHeld true 0 = false ∧ knot.rangeBusy 0 = false := by decide +kernel

/-- A stream whose slice has time left, and one that is to yield; a cinch that waits for a job's fill. -/
theorem meets_JobBatchesAndSteps_yields :
    let j : Job := { job .prismStream .active with entries := [zeros 32], body := zeros 32, sent := true }
    let w : Job := { job .prismStream .active with entries := [zeros 32], body := zeros 32 }
    let d : Dev := { ready with jobs.slots := [(0, j), (1, w)], prism.stream := [(0, 0, 0)] }
    let y : Dev := { d with prism.yields := [0], clk.bnd := dev.setting idStreamSlice 0 }
    (d.prism.stream.find? fun x => x.2.1 = 0) = some (0, 0, 0) ∧ d.clk.bnd + 1 < 0 + d.setting idStreamSlice 0 ∧ y.prism.yields = [0] ∧
      y.sliceOver 0 y.clk.bnd = true ∧ y.streamEngine 0 = some 0 ∧ j.streamReady = false ∧
      (let x : Sheet := { sheet [] with cinch := some { cinch .preparing 0 with fills := [3] } }
       (opened x).conf.sheet = some x) := by decide +kernel

/-- MODULE.REPLACE at each of its phases, its condition come about and not. -/
theorem meets_JobBatchesAndSteps_replaces :
    let j (n : Nat) : Job := { job .moduleReplace .active with pos := n, todo := [0] }
    let on (n : Nat) (c : HChan) (b : Nat) : Dev := { ready with jobs.slots := [(0, j n)], hitch.chans := [(0, c)], clk.bnd := b }
    let p1 : Dev := { on 1 {} 0 with dram.chans := [(0, { retired := [0] })] }
    let q1 : Dev := on 1 {} 0
    let p2 : Dev := on 2 {} beats5ms
    let q2 : Dev := on 2 {} (beats5ms - 1)
    let p4 : Dev := on 4 { present := true } 0
    let q4 : Dev := on 4 {} 0
    let p6 : Dev := on 6 { st := .on } 0
    let q6 : Dev := on 6 { st := .on, good := true } 0
    let p9 : Dev := on 9 {} 0
    let p5 : Dev := on 5 { mod := some module } 0
    let q5 : Dev := on 5 { mod := some module, st := .retired } 0
    p1.working 0 .moduleReplace = some (j 1) ∧ (p1.servedOn 0).isEmpty = true ∧ q1.working 0 .moduleReplace = some (j 1) ∧
      p2.working 0 .moduleReplace = some (j 2) ∧ p2.slotLive 0 = false ∧ 0 + beats5ms ≤ p2.clk.bnd ∧ q2.clk.bnd < 0 + beats5ms ∧
      (p4.hchan 0).present = true ∧ (q4.hchan 0).present = false ∧ (p6.hchan 0).st = .on ∧ (q6.hchan 0).good = true ∧
      p9.working 0 .moduleReplace = some (j 9) ∧ (p5.hchan 0).mod = some module ∧ (q5.hchan 0).st = .retired := by decide +kernel

/-- An entry of a setting that does not exist; a REGION.STAGE of a bad kind, and one of size 0. -/
theorem meets_SheetAndRegionStaging_refusals :
    let d0 := (opened (sheet [])).doorbell 0x340
    let i : List Byte := leBytes 2 1 ++ zeros 6 ++ (leBytes 2 0xFFFF ++ [0, 0, 255, 0, 0, 0] ++ leBytes 8 9)
    let bad : List Byte := [0, 1, 9, 0, 0, 0x85, 0, 0] ++ leBytes 8 (16 * mib2) ++ leBytes 4 4 ++ zeros 4 ++ zeros 128
    let none_ : List Byte := [0, 1, 0, 0, 0, 0x85, 0, 0] ++ leBytes 8 (16 * mib2) ++ leBytes 4 0 ++ zeros 4 ++ zeros 128
    i.length = 8 + 16 * field i 0 2 ∧ rsvd i 2 6 = true ∧
      (match d0.readEntries (sheet []) ((List.range (field i 0 2)).map fun k => slice i (8 + 16 * k) 16) 0 [] with | .ok _ => false | .error _ => true) = true ∧
      bad.length = 152 ∧ readRegion bad none = none ∧ none_.length = 152 ∧ (readRegion none_ none).map (·.size) = some 0 := by decide +kernel

/-- A cinch 65 beats off. -/
theorem meets_CinchPreparesDecidesBanks_far :
    let x : Sheet := { sheet [] with chain := true, cinch := some (cinch .prepared 65) }
    (opened x).conf.sheet = some x ∧ 64 < beatsTo (opened x).clk.beat 65 := by decide +kernel

/-- Straps that firmware finds at a cold boot. -/
theorem meets_SuppliesBootHeatPins_straps :
    let x : Straps := { i3cAddr := 2, tetherRoot := true, failedCores := 1 }
    let d : Dev := { power := { vaux := true, coreEn := true, corePg := true } }
    x.tetherRoot = true ∧ d.boot = .held := by decide +kernel

theorem meets_PowerStates_latched :
    let d : Dev := { dev with power.latched := true }
    d.power.latched = true := by decide +kernel

/-- A source above the last, and one that waits for its third event; policies with a mode the model does not have. -/
theorem meets_RecordsAndEventCommands_refusals :
    let d : Dev := { dev with ev.ints := [(5, { cn := 3 })] }
    let x := d.ev.ints.val 5 {}
    0x390 < (0x391 : Nat) ∧ x.holder = none ∧ dueNow x.cn x.tm (x.count + 1) = false ∧
      (∃ b ∈ ([0, 2, 0, 0, 0] : List Byte), 1 < b.toNat % 16) ∧ bits (field [0x20, 0] 0 2) 14 5 ≠ 0 := by decide +kernel

theorem meets_CountersWatchesSnapshots_clear :
    let d (n : Nat) : Dev := { dev with clk.bnd := n, ev.invalid := [(5, 3)] }
    let a : Dev := d 4100
    let b : Dev := d 4099
    a.ev.invalid.look 5 = some 3 ∧ 3 + 4097 ≤ a.clk.bnd ∧ b.clk.bnd < 3 + 4097 := by decide +kernel

/-- A read that clears; a source at the end of its window, inside it with its event made, and inside it with a hard signature; lanes. -/
theorem meets_FaultsAndReactions_windows :
    (let i : List Byte := [0, 9, 1, 0, 0, 0, 0, 0]
     i.length = 8 ∧ (sourceClass (field i 0 2)).isSome = true ∧ field i 2 1 = 1 ∧ rsvd i 3 5 = true ∧ issuerMc mc = true) ∧
    (let a : Source := { fresh := 3, opened := some 0 }
     let b : Source := { fresh := 3, opened := some 0, made := true }
     let c : Source := { fresh := 3, opened := none, hard := true }
     0 < a.fresh ∧ (1 : Nat) ≠ 10 ∧ a.opened = some 0 ∧ 0 + 7 ≤ (7 : Nat) ∧ b.made = true ∧ b.hard = false ∧ c.hard = true) ∧
    (let h : Lane := .host .h0 15
     let t : Lane := .tether 2 7
     let u : Lane := .tether 0 0
     let d : Dev := { linked with host.links := [(0, { st := .up, cxl := true, width := 16 })] }
     let e : Dev := dev.setTport 2 { st := .active, width := 8 }
     laneOf h = (0, 15) ∧ laneOf t = (4, 7) ∧ laneOf u = (2, 0) ∧ d.laneActive 0 15 = true ∧ e.laneActive 4 7 = true ∧ d.laneActive 2 0 = false) := by
  decide +kernel

theorem meets_FirmwareUpdate_refusals :
    let a : List Byte := [2, 1]
    let b : List Byte := [0, 3]
    let c : List Byte := [0, 2]
    a.length = 2 ∧ 1 < field a 0 1 ∧ field b 0 1 ≤ 1 ∧ field b 1 1 ≠ 1 ∧ field b 1 1 ≠ 2 ∧ field c 1 1 = 2 := by decide +kernel

theorem meets_DiagnosticsTopologyAndCdat_opcodes :
    let op : BitVec 16 := 0xC006
    opcodes.contains op.toNat = false ∧ 0xC000 ≤ op.toNat ∧ op.toNat ≤ 0xCFFF := by decide +kernel

/-- The last point of the last eye, and of one with eyes left. -/
theorem meets_GlintScans_ends :
    let x (l : List Nat) : Scan := { scan with todo := l, eyes := [(1, {}), (2, {})], at_ := 4095, mode := 0 }
    let d (l : List Nat) : Dev := { laned with glint.scan := some (x l) }
    (d [2]).glint.scan = some (x [2]) ∧ (x [2]).box.isSome = true ∧ (d [2]).glint.margin.contains (laneSrc 0 15) = false ∧
      ((({} : EyeScan).point 0 4095 5).2.2 = true) ∧ (x [1, 2]).todo = 1 :: [2] ∧
      ((laneOf (.host .h0 15)).1 < 2 ∧ laned.laneActive 0 15 = true ∧ laned.glint.margin.contains (laneSrc 0 15) = false) := by decide +kernel

/-- A slot with its latch closed whose module was removed, or waits for its hub; one that HITCH.SET powers on, and one it does not off. -/
theorem meets_HitchAndModules_slots :
    (let d (c : HChan) : Dev := { ready with hitch.chans := [(0, c)], ev.pins := [(0, { high := false })] }
     let e (c : HChan) : Dev := { ready with hitch.chans := [(0, c)], ev.pins := [(0, { high := true })] }
     ((d {}).latchClosed 0 = true ∨ (e {}).latchClosed 0 = true) ∧ ((d { removed := true }).hchan 0).removed = true ∧
       ((e { removed := true }).hchan 0).removed = true ∧ ((d { spdWait := true }).hchan 0).spdWait = true) ∧
    (let d0 : Dev := ({ ready with hitch.chans := [(3, { st := .off, present := true })] } : Dev).doorbell 0x380
     let i (n a : Byte) : List Byte := [n, a, 0, 0, 0, 0, 0, 0]
     field (i 3 1) 1 1 = 1 ∧ field (i 3 1) 0 1 = 3 ∧ d0.slotHeld 3 = false ∧ (d0.hchan 3).st = .off ∧ (d0.hchan 3).present = true ∧
       (d0.hchan 3).unmon = false ∧ field (i 0 0) 1 1 = 0 ∧ d0.slotHeld 0 = false ∧ d0.servedOn 0 ≠ []) := by decide +kernel

/-- A snoop whose host's link is down, one for an LD of no link, and one whose line no decoder maps. -/
theorem meets_RequestChannelMessages_snoops :
    let d (b : Bool) : Dev :=
      { linked.setTport 2 { st := .active, pool := [(1, [msg .snp])] } with
        host.links := [(0, { st := if b then .up else .down, cxl := true, flit256 := true, bi := true })] }
    (d false).ldLink 0 = some 0 ∧ ((d false).link 0).st = .down ∧ dev.ldLink 0 = none ∧ (d true).biEnabled 0 = true ∧
      (d true).hpaOf 0 (64 * (2 ^ 38 - 1)) = none ∧ ((d true).tport 2).firstOf .snp = some (msg .snp) := by decide +kernel

/-- A failed response, and a conflict reported. -/
theorem meets_ResponseMessages_ends :
    ({ op := .rsp, tag := 3, status := 1 } : Msg).status = 1 ∧ ({ op := .srsp, tag := 3, srspType := 2 } : Msg).srspType = 2 ∧
      (let m : Msg := { op := .rsp, tag := 3, status := 1 }
       let d := (answered .rsp none [(3, .req 9 false [])]).modTport 2 fun x => { x with rsps := [m] }
       (d.tport 2).rsps = m :: [] ∧ ((d.tport 2).transitFor m).isSome = true) := by decide +kernel

/-- A path whose next port has no entry left, is not up, or is no port. -/
theorem meets_ManagementMessagesAndAnswers_paths :
    let m (n : Nat) : Msg := { msg .mgmt with pathMode := true, dest := 1, path := BitVec.ofNat 62 n }
    let d := (chained (m 1)).setTport 1 { st := .active, tx := List.replicate 256 (m 1, none), withdrawn := txShared }
    (d.tport 1).up = true ∧ (d.tport 1).txRoom (m 1).cls = false ∧ ((chained (m 1)).tport 1).up = false ∧ (m 3).path.toNat % 4 = 3 ∧
      (d.tport 2).firstOf .mgmt = some (m 1) := by decide +kernel

/-- Alerts out of range; an address that is no line's, a device about to sleep, and a service queue that is full for class C3. -/
theorem meets_StandardMemoryCommands_refusals :
    (let i (a b c : Byte) : List Byte := [a, b, 0, c] ++ zeros 8
     31 < field (i 32 0 0) 0 1 ∧ 31 < field (i 0 32 0) 1 1 ∧ rsvd (i 0 0 1) 3 1 = false) ∧
    (let d : Dev := { ready with host.diagUntil := some 9 }
     let q (n : Nat) : Req := { jobReq .write 0 0 0xC0 with id := n, src := .job 0 }
     d.unlocked = true ∧ field (leBytes 8 1) 0 8 % 64 ≠ 0 ∧ d.power.quiet = false ∧ d.serviceRoom 3 = true ∧
       ({ d with power.quiet := true } : Dev).power.quiet = true ∧ ({ d with path.reqs := List.replicate 128 (q 1) } : Dev).serviceRoom 3 = false) := by
  decide +kernel

/-- QoS values at the ends of their ranges and past them. -/
theorem meets_FmOwnedCommands_qos :
    let bad (i : List Byte) : Prop := 3 < field i 0 1 ∨ 127 < field i 1 1 ∨ 127 < field i 2 1 ∨ 15 < field i 3 1
    ¬ bad [3, 127, 127, 15, 0, 0, 0] ∧ bad [4, 0, 0, 0, 0, 0, 0] ∧ bad [0, 128, 0, 0, 0, 0, 0] ∧ bad [0, 0, 128, 0, 0, 0, 0] ∧
      bad [0, 0, 0, 16, 0, 0, 0] := by decide +kernel

end Sys2Proof.Tests
end

section
/-! The rule of a pool of queues (spec/01 R25): when it grants an entry, how its occupancy counts, and who is held to it. -/

namespace Sys2Proof.Machine

open Sys2Proof

/-- The sum over the four classes is what they hold beyond their minimums: `shared_used` of R25. -/
theorem grants_iff (mins : List Nat) (shared : Nat) (occ : List Nat) (c : Nat) :
    grants mins shared occ c = true ↔
      occ.getD c 0 < mins.getD c 0 ∨
      (occ.getD 0 0 - mins.getD 0 0) + (occ.getD 1 0 - mins.getD 1 0) + (occ.getD 2 0 - mins.getD 2 0) + (occ.getD 3 0 - mins.getD 3 0) <
        shared := by
  have classes : List.range 4 = [0, 1, 2, 3] := rfl
  simp only [grants, classes, List.map_cons, List.map_nil, List.foldl_cons, List.foldl_nil, Nat.zero_add, Bool.or_eq_true, decide_eq_true_eq]

theorem occupancy_getD (labels : List Label) {c : Nat} (hc : c < 4) :
    (occupancy labels).getD c 0 = labels.countP fun l => l.toNat / 64 = c := by
  simp [occupancy, hc, List.countP_eq_length_filter]

/-- An entry anywhere in a queue counts for the class of its label, and for no other. -/
theorem occupancy_getD_insert (a b : List Label) (l : Label) {c : Nat} (hc : c < 4) :
    (occupancy (a ++ l :: b)).getD c 0 = (occupancy (a ++ b)).getD c 0 + if l.toNat / 64 = c then 1 else 0 := by
  rw [occupancy_getD _ hc, occupancy_getD _ hc, List.countP_append, List.countP_append, List.countP_cons]
  simp only [decide_eq_true_eq, Nat.add_assoc]

/-- A request needs a free buffer of the partner's pool, as the mirror counts it, and a transit entry (R303, R306). -/
theorem TPort.maySend_request_iff (x : TPort) {m : Msg} (hm : m.op.isRequest = true) :
    x.maySend m = true ↔
      x.canSend = true ∧ grants poolMins poolShared x.mirror m.cls = true ∧
        grants transitMins transitShared ((List.range 4).map fun c => (x.transit.filter (·.cls = c)).length) m.cls = true := by
  simp only [TPort.maySend, hm, Bool.not_true, Bool.false_or, Bool.and_eq_true]

/-- Settles O7: `grants` written out, the count of an entry inserted, and the pool's part of what a request needs. -/
theorem queueGrants : Obligations.QueueGrants := by
  refine ⟨fun mins occ shared c => grants_iff mins shared occ c, fun a b l c hc => occupancy_getD_insert a b l hc, fun x m hm hsend => ?_⟩
  obtain ⟨_, hpool, _⟩ := (x.maySend_request_iff hm).mp hsend
  exact hpool

end Sys2Proof.Machine
end

section
/-! How a mailbox command that firmware takes ends (spec/12 R329, R335): it completes with what its function makes of the device whose
doorbell has been rung, and its answer leaves all but the interface's registers, events and output alone. -/

namespace Sys2Proof.Laws

open Sys2Proof Sys2Proof.Machine

/-- A command whose meaning is `f` behind the gate of R465 completes as `f` leaves the device. -/
theorem completes_of_takes {s : State} {c : Instr} {iss : Issuer} {op : Nat} {f : Dev → Dev} {P : Dev → Prop} (h : Takes s)
    (hc : exec c s = ok (s.dev.command iss op f) s) (hP : P (f (s.dev.doorbell (mailDoorbell iss)))) : Completes c s P :=
  ⟨_, hc, rfl, (command_takes h iss op f).symm ▸ hP⟩

theorem refuse_eight_replies (d : Dev) (iss : Issuer) (st : Status) : Replies d (d.refuse iss st 8) iss st (zeros 6) :=
  reply_replies ..

theorem badLength_replies (d : Dev) (iss : Issuer) : Replies d (d.badLength iss) iss .invalidLength (zeros 6) :=
  refuse_eight_replies ..

theorem completes_badLength {s : State} {c : Instr} {iss : Issuer} {op : Nat} {f : Dev → Dev} (h : Takes s)
    (hc : exec c s = ok (s.dev.command iss op f) s)
    (hf : f (s.dev.doorbell (mailDoorbell iss)) = (s.dev.doorbell (mailDoorbell iss)).badLength iss) :
    Completes c s fun d => Replies (s.dev.doorbell (mailDoorbell iss)) d iss .invalidLength (zeros 6) :=
  completes_of_takes h hc (hf ▸ badLength_replies ..)

end Sys2Proof.Laws

namespace Sys2Proof

open Sys2Proof.Machine

theorem Signals.unlocked {d d' : Dev} (h : Signals d d') : d'.unlocked = d.unlocked := by
  obtain ⟨_, _, _, rfl, _⟩ := h
  rfl

section
variable {d d' : Dev} {iss : Issuer} {st : Status} {body : List Byte} {noWork : Bool}

theorem Replies.unlocked (h : Replies d d' iss st body noWork) : d'.unlocked = d.unlocked := by
  obtain ⟨_, _, hsig⟩ := h
  exact hsig.unlocked

theorem Replies.fault (h : Replies d d' iss st body noWork) : d'.fault = d.fault := by
  obtain ⟨_, _, hsig⟩ := h
  exact hsig.fault

end

end Sys2Proof
end

section
/-! FAULT.PIN and the FAULT_N pin (spec/13 R377, spec/14 R402, spec/17 R465, R481). -/

namespace Sys2Proof.Machine

open Sys2Proof Sys2Proof.Laws

/-! ### The pin -/

/-- Driving the pin changes its level alone; a thermal trip and recovery hold it low. -/
theorem Dev.faultN_fault (d : Dev) (drive : Bool) :
    (d.faultN drive).fault = { d.fault with low := drive || d.power.thermtrip || d.boot = .recovery } := by
  unfold Dev.faultN
  dsimp only
  split
  next h => rw [← h]
  next => rfl

/-- Outside recovery, with no thermal trip, the pin is low exactly when it is driven. -/
theorem Dev.faultN_low {d : Dev} (htrip : d.power.thermtrip = false) (hboot : d.boot = .running) (drive : Bool) :
    (d.faultN drive).fault.low = drive := by
  simp [Dev.faultN_fault, htrip, hboot]

/-- The end of a pulse puts the pin at Hold. -/
theorem Dev.pulseEnd_fault {d : Dev} (hpulse : d.fault.pulse = true) (htrip : d.power.thermtrip = false) (hboot : d.boot = .running) :
    d.pulseEnd.fault = { d.fault with pulse := false, low := d.fault.hold } := by
  simp [Dev.pulseEnd, hpulse, Dev.faultN_fault, htrip, hboot]

/-! ### The command -/

theorem exec_faultPin (iss : Issuer) (inp : List Byte) (s : State) :
    exec (.faultPin iss inp) s = ok (s.dev.command iss 0xC401 fun d => d.faultPin iss inp) s := rfl

/-- Hold takes a level: the pin follows it at once, but where a pulse runs. -/
def Dev.holdLevel (d : Dev) (level : Bool) : Dev :=
  if d.fault.pulse then { d with fault.hold := level } else { d with fault.hold := level }.faultN level

section
variable (d : Dev) (iss : Issuer) {inp : List Byte}

theorem Dev.faultPin_badLength (h : inp.length ≠ 8) : d.faultPin iss inp = d.badLength iss := by
  simp only [Dev.faultPin, if_pos h]

theorem Dev.faultPin_refused (hlen : inp.length = 8) (h : issuerMc iss = false ∨ 1 < field inp 0 1 ∨ rsvd inp 1 7 = false) :
    d.faultPin iss inp = d.refuse iss .invalidInput 8 := by
  have hbad : (!issuerMc iss || 1 < field inp 0 1 || !rsvd inp 1 7) = true := by
    simpa [or_assoc] using h
  simp only [Dev.faultPin, hlen, hbad, ne_eq, not_true_eq_false, if_false, if_true]

theorem Dev.faultPin_taken (hlen : inp.length = 8) (hmc : issuerMc iss = true) (hlevel : field inp 0 1 ≤ 1) (hrsvd : rsvd inp 1 7 = true) :
    d.faultPin iss inp = (d.holdLevel (field inp 0 1 = 1)).reply iss .success (zeros 6) := by
  simp [Dev.faultPin, Dev.holdLevel, hlen, hmc, Nat.not_lt.mpr hlevel, hrsvd]

end

section
variable (d : Dev) (level : Bool)

theorem Dev.holdLevel_fault_hold : (d.holdLevel level).fault.hold = level := by
  unfold Dev.holdLevel
  split
  · rfl
  · rw [Dev.faultN_fault]

theorem Dev.holdLevel_fault_pulse : (d.holdLevel level).fault.pulse = d.fault.pulse := by
  unfold Dev.holdLevel
  split
  · rfl
  · rw [Dev.faultN_fault]

theorem Dev.holdLevel_fault_low_of_pulse (h : d.fault.pulse = true) : (d.holdLevel level).fault.low = d.fault.low := by
  simp only [Dev.holdLevel, if_pos h]

theorem Dev.holdLevel_fault_low_of_no_pulse {d : Dev} (h : d.fault.pulse = false) (htrip : d.power.thermtrip = false)
    (hboot : d.boot = .running) : (d.holdLevel level).fault.low = level := by
  rw [Dev.holdLevel, if_neg (Bool.eq_false_iff.mp h)]
  exact Dev.faultN_low (d := { d with fault.hold := level }) htrip hboot level

end

/-- Settles O12: the three answers of FAULT.PIN, what a taken one does to Hold and to the pin, and the level at the end of a pulse. -/
theorem faultPin : Obligations.FaultPin := by
  refine ⟨fun s iss inp htakes => ⟨fun hlen => ?_, fun hlen hbad => ?_, fun hlen hmc hlevel hrsvd => ?_⟩,
    fun s hpulse htrip hboot => ?_⟩
  · exact completes_badLength htakes (exec_faultPin iss inp s) (Dev.faultPin_badLength _ _ hlen)
  · refine completes_of_takes htakes (exec_faultPin iss inp s) ?_
    rw [Dev.faultPin_refused _ _ hlen hbad]
    exact refuse_eight_replies ..
  · refine completes_of_takes htakes (exec_faultPin iss inp s) ?_
    obtain ⟨hboot, _⟩ := htakes
    rw [Dev.faultPin_taken _ _ hlen hmc hlevel hrsvd]
    have hreply := reply_replies ((s.dev.doorbell (mailDoorbell iss)).holdLevel (field inp 0 1 = 1)) iss .success (zeros 6) false
    refine ⟨hreply.1, ?_⟩
    rw [hreply.fault]
    refine ⟨Dev.holdLevel_fault_hold .., ?_, fun hpulse => ?_, fun hpulse htrip => ?_⟩
    · rw [Dev.holdLevel_fault_pulse, Dev.doorbell_fault]
    · rw [Dev.holdLevel_fault_low_of_pulse _ _ (by rwa [Dev.doorbell_fault]), Dev.doorbell_fault]
    · exact Dev.holdLevel_fault_low_of_no_pulse _ (by rwa [Dev.doorbell_fault]) (by rwa [Dev.doorbell_power]) (by rwa [Dev.doorbell_boot])
  · refine ⟨_, rfl, rfl, ?_⟩
    show s.dev.pulseEnd.fault.pulse = false ∧ s.dev.pulseEnd.fault.low = s.dev.fault.hold
    rw [Dev.pulseEnd_fault hpulse htrip hboot]
    exact ⟨rfl, rfl⟩

end Sys2Proof.Machine
end

section
/-! The commands that take no input and answer at once: DIAG.LOCK, POWER.STATUS and SEAL.KEY.STATUS (spec/13 R380, R385, R387). -/

namespace Sys2Proof.Machine

open Sys2Proof Sys2Proof.Laws

@[simp] theorem Dev.doorbell_unlocked (d : Dev) (n : Nat) : (d.doorbell n).unlocked = d.unlocked :=
  (signals_doorbell d n).unlocked

section
variable (iss : Issuer) (inp : List Byte) (s : State)

theorem exec_diagLock : exec (.diagLock iss inp) s = ok (s.dev.command iss 0xCE01 fun d => d.diagLock iss inp) s := rfl

theorem exec_powerStatus : exec (.powerStatus iss inp) s = ok (s.dev.command iss 0xC801 fun d => d.powerStatus iss inp) s := rfl

theorem exec_sealKeyStatus : exec (.sealKeyStatus iss inp) s = ok (s.dev.command iss 0xC603 fun d => d.sealKeyStatus iss inp) s := rfl

end

section
variable (d : Dev) (iss : Issuer) {inp : List Byte}

theorem Dev.diagLock_input (h : inp ≠ []) : d.diagLock iss inp = d.badLength iss := by
  simp only [Dev.diagLock, if_pos h]

theorem Dev.powerStatus_input (h : inp ≠ []) : d.powerStatus iss inp = d.badLength iss := by
  simp only [Dev.powerStatus, if_pos h, Dev.badLength]

theorem Dev.sealKeyStatus_input (h : inp ≠ []) : d.sealKeyStatus iss inp = d.badLength iss := by
  simp [Dev.sealKeyStatus, h]

end

/-- Settles O10: with no input the lock is closed before the answer, which leaves it so; with input nothing is locked. -/
theorem diagLock : Obligations.DiagLock := by
  refine fun s iss inp htakes => ⟨?_, fun hinp => ?_⟩
  · rintro rfl
    have hreply := reply_replies { s.dev.doorbell (mailDoorbell iss) with host.diagUntil := none } iss .success (zeros 6) (!s.dev.unlocked)
    refine completes_of_takes htakes (exec_diagLock iss [] s) ?_
    rw [← Dev.doorbell_unlocked s.dev (mailDoorbell iss)] at hreply ⊢
    exact ⟨hreply, hreply.unlocked⟩
  · refine completes_of_takes htakes (exec_diagLock iss inp s) ?_
    rw [Dev.diagLock_input _ _ hinp]
    exact ⟨badLength_replies .., (badLength_replies ..).unlocked.trans (Dev.doorbell_unlocked ..)⟩

/-- Settles O11: the 16 bytes are the answer's status and the 14 that the command reads off the device. -/
theorem powerStatus : Obligations.PowerStatus := by
  refine fun s iss inp htakes => ⟨?_, fun hinp => ?_⟩
  · rintro rfl
    exact completes_of_takes htakes (exec_powerStatus iss [] s) (reply_replies ..)
  · exact completes_badLength htakes (exec_powerStatus iss inp s) (Dev.powerStatus_input _ _ hinp)

/-- Settles O13: the records of the 64 key IDs stand in the answer, in ascending order. -/
theorem sealKeyStatus : Obligations.SealKeyStatus := by
  refine fun s iss inp htakes => ⟨?_, fun hinp => ?_⟩
  · rintro rfl
    exact completes_of_takes htakes (exec_sealKeyStatus iss [] s) (reply_replies ..)
  · exact completes_badLength htakes (exec_sealKeyStatus iss inp s) (Dev.sealKeyStatus_input _ _ hinp)

end Sys2Proof.Machine
end

section
/-! One command (spec/00_scope.md; log 1, log 6): a step takes the front of the queue, every command answers a next state and leaves the queue
alone, and every command keeps the media contents canonical. What reset leaves. -/

namespace Sys2Proof.Machine

open Sys2Proof Sys2Proof.Laws

/-- Every arm of the dispatch ends in `ok`, which puts a device in the place of the state's own. -/
theorem exec_eq_ok (c : Instr) (s : State) : ∃ d, exec c s = ok d s := by
  cases c <;> exact ⟨_, rfl⟩

theorem step_cons (c : Instr) (s : State) : step { s with pending := c :: s.pending } = exec c s := rfl

theorem step_of_pending_nil {s : State} (h : s.pending = []) : step s = .next s := by
  simp only [step, h]

/-- Settles O1. -/
theorem stepTakesFrontCommand : Obligations.StepTakesFrontCommand :=
  ⟨step_cons, fun _ h => step_of_pending_nil h⟩

/-- Settles O2: every arm answers through `ok`. -/
theorem everyCommandCompletes : Obligations.EveryCommandCompletes := fun c s => by
  obtain ⟨d, h⟩ := exec_eq_ok c s
  exact ⟨_, h, rfl⟩

/-- Settles O3: the fields of reset are the defaults of their types, and an empty table reads as its default everywhere. -/
theorem resetLeavesNothing : Obligations.ResetLeavesNothing :=
  ⟨rfl, rfl, rfl, fun _ _ => rfl, rfl, rfl, rfl, rfl, fun _ => rfl, rfl, rfl, rfl⟩

/-- Every command keeps the media contents canonical: its meaning does (Laws/MemOk1 to 8). -/
theorem memOk_exec {s t : State} (hs : MemOk s.dev) : ∀ c : Instr, exec c s = .next t → MemOk t.dev
  | .beatBoundary, h => memOk_execBeatBoundary hs h
  | .memrd .., h => memOk_execMemrd hs h
  | .memwr .., h => memOk_execMemwr hs h
  | .meminv .., h => memOk_execMeminv hs h
  | .memclnevct .., h => memOk_execMemclnevct hs h
  | .ingressEntryGrant .., h => memOk_execIngressEntryGrant hs h
  | .regulatorAdmit, h => memOk_execRegulatorAdmit hs h
  | .agePromotion .., h => memOk_execAgePromotion hs h
  | .tableWalkComplete .., h => memOk_execTableWalkComplete hs h
  | .knotBlockFillDone .., h => memOk_execKnotBlockFillDone hs h
  | .dramSlotFill .., h => memOk_execDramSlotFill hs h
  | .dramReadDataReturn .., h => memOk_execDramReadDataReturn hs h
  | .prismSubblockDecodeDone .., h => memOk_execPrismSubblockDecodeDone hs h
  | .promotionDone .., h => memOk_execPromotionDone hs h
  | .minorOverflow .., h => memOk_execMinorOverflow hs h
  | .counterTreeFetchDone .., h => memOk_execCounterTreeFetchDone hs h
  | .counterWritebackCount .., h => memOk_execCounterWritebackCount hs h
  | .refreshWindowStart .., h => memOk_execRefreshWindowStart hs h
  | .refreshWindowEnd .., h => memOk_execRefreshWindowEnd hs h
  | .rowDisturbanceTrip .., h => memOk_execRowDisturbanceTrip hs h
  | .rowCapExpiry .., h => memOk_execRowCapExpiry hs h
  | .moduleThermalRead .., h => memOk_execModuleThermalRead hs h
  | .driftCheck .., h => memOk_execDriftCheck hs h
  | .patrolScrubRead, h => memOk_execPatrolScrubRead hs h
  | .scrubLate, h => memOk_execScrubLate hs h
  | .postPackageRepair .., h => memOk_execPostPackageRepair hs h
  | .rankCopyStep .., h => memOk_execRankCopyStep hs h
  | .rankCopyComplete .., h => memOk_execRankCopyComplete hs h
  | .rankDrain .., h => memOk_execRankDrain hs h
  | .birsp .., h => memOk_execBirsp hs h
  | .biconflict .., h => memOk_execBiconflict hs h
  | .biTimeout .., h => memOk_execBiTimeout hs h
  | .sharerSweep .., h => memOk_execSharerSweep hs h
  | .directoryError .., h => memOk_execDirectoryError hs h
  | .changeDrained .., h => memOk_execChangeDrained hs h
  | .moveCopyDrained .., h => memOk_execMoveCopyDrained hs h
  | .extentMovePage .., h => memOk_execExtentMovePage hs h
  | .extentMoveSwitch .., h => memOk_execExtentMoveSwitch hs h
  | .zeroFillDone .., h => memOk_execZeroFillDone hs h
  | .tierEpochEnd, h => memOk_execTierEpochEnd hs h
  | .demotionVerifyDone .., h => memOk_execDemotionVerifyDone hs h
  | .readPromotion, h => memOk_execReadPromotion hs h
  | .addOfferTimer .., h => memOk_execAddOfferTimer hs h
  | .capacityRecordInterval .., h => memOk_execCapacityRecordInterval hs h
  | .firstLevelExpiry .., h => memOk_execFirstLevelExpiry hs h
  | .overload .., h => memOk_execOverload hs h
  | .streamSliceExpiry .., h => memOk_execStreamSliceExpiry hs h
  | .streamDescriptorDone .., h => memOk_execStreamDescriptorDone hs h
  | .rekeyPage .., h => memOk_execRekeyPage hs h
  | .sanitizeRangeDone .., h => memOk_execSanitizeRangeDone hs h
  | .copyBatchDone .., h => memOk_execCopyBatchDone hs h
  | .fillBatchDone .., h => memOk_execFillBatchDone hs h
  | .scrubBatchDone .., h => memOk_execScrubBatchDone hs h
  | .poolAddFillDone .., h => memOk_execPoolAddFillDone hs h
  | .poolReleaseTimeout .., h => memOk_execPoolReleaseTimeout hs h
  | .moduleReplacePhaseEnd .., h => memOk_execModuleReplacePhaseEnd hs h
  | .trainingWindowOpen .., h => memOk_execTrainingWindowOpen hs h
  | .trainingWindowClose .., h => memOk_execTrainingWindowClose hs h
  | .faultReactionStart .., h => memOk_execFaultReactionStart hs h
  | .faultNPulseEnd, h => memOk_execFaultNPulseEnd hs h
  | .coreException .., h => memOk_execCoreException hs h
  | .coreHeartbeatLoss .., h => memOk_execCoreHeartbeatLoss hs h
  | .coreRestartDone .., h => memOk_execCoreRestartDone hs h
  | .sramError .., h => memOk_execSramError hs h
  | .counterStoreError .., h => memOk_execCounterStoreError hs h
  | .counterInvalidClear .., h => memOk_execCounterInvalidClear hs h
  | .interruptDoorbell .., h => memOk_execInterruptDoorbell hs h
  | .interruptAcknowledge .., h => memOk_execInterruptAcknowledge hs h
  | .coalesceTimeExpiry .., h => memOk_execCoalesceTimeExpiry hs h
  | .recordDelivery, h => memOk_execRecordDelivery hs h
  | .dieMonitorRead .., h => memOk_execDieMonitorRead hs h
  | .throttleEnd, h => memOk_execThrottleEnd hs h
  | .thermtrip, h => memOk_execThermtrip hs h
  | .vddCoreTrim .., h => memOk_execVddCoreTrim hs h
  | .diagUnlockExpiry, h => memOk_execDiagUnlockExpiry hs h
  | .sheetExpired, h => memOk_execSheetExpired hs h
  | .cinchPrepareDone, h => memOk_execCinchPrepareDone hs h
  | .cinchBankWrite, h => memOk_execCinchBankWrite hs h
  | .chainCinchDecision, h => memOk_execChainCinchDecision hs h
  | .fwPairHandover .., h => memOk_execFwPairHandover hs h
  | .ldResetEnd .., h => memOk_execLdResetEnd hs h
  | .hostLinkUp .., h => memOk_execHostLinkUp hs h
  | .hostLinkDown .., h => memOk_execHostLinkDown hs h
  | .hostHotReset .., h => memOk_execHostHotReset hs h
  | .hostLinkError .., h => memOk_execHostLinkError hs h
  | .ideIntegrityFailure .., h => memOk_execIdeIntegrityFailure hs h
  | .s2mCreditReturn .., h => memOk_execS2mCreditReturn hs h
  | .hostWidthResetDone .., h => memOk_execHostWidthResetDone hs h
  | .functionLevelReset .., h => memOk_execFunctionLevelReset hs h
  | .hdmDecoderCommit .., h => memOk_execHdmDecoderCommit hs h
  | .biEnableWrite .., h => memOk_execBiEnableWrite hs h
  | .msixVectorUnmask .., h => memOk_execMsixVectorUnmask hs h
  | .doeCdatRead .., h => memOk_execDoeCdatRead hs h
  | .ideKmKeyProgramming .., h => memOk_execIdeKmKeyProgramming hs h
  | .laneMarginingCommand .., h => memOk_execLaneMarginingCommand hs h
  | .mailboxDoorbell .., h => memOk_execMailboxDoorbell hs h
  | .beatLoRead .., h => memOk_execBeatLoRead hs h
  | .pendingLoRead .., h => memOk_execPendingLoRead hs h
  | .snapDoorbell .., h => memOk_execSnapDoorbell hs h
  | .snapReadyClear .., h => memOk_execSnapReadyClear hs h
  | .watchOvfClear .., h => memOk_execWatchOvfClear hs h
  | .registerWrite .., h => memOk_execRegisterWrite hs h
  | .unsupportedOpcode _ _ inp, h => memOk_execUnsupportedOpcode (_inp := inp) hs h
  | .identify .., h => memOk_execIdentify hs h
  | .backgroundOperationStatus .., h => memOk_execBackgroundOperationStatus hs h
  | .getResponseMessageLimit .., h => memOk_execGetResponseMessageLimit hs h
  | .setResponseMessageLimit .., h => memOk_execSetResponseMessageLimit hs h
  | .requestAbortBackgroundOperation .., h => memOk_execRequestAbortBackgroundOperation hs h
  | .getEventRecords .., h => memOk_execGetEventRecords hs h
  | .clearEventRecords .., h => memOk_execClearEventRecords hs h
  | .getEventInterruptPolicy .., h => memOk_execGetEventInterruptPolicy hs h
  | .setEventInterruptPolicy .., h => memOk_execSetEventInterruptPolicy hs h
  | .getMctpEventInterruptPolicy .., h => memOk_execGetMctpEventInterruptPolicy hs h
  | .setMctpEventInterruptPolicy .., h => memOk_execSetMctpEventInterruptPolicy hs h
  | .eventNotification .., h => memOk_execEventNotification hs h
  | .getFwInfo .., h => memOk_execGetFwInfo hs h
  | .transferFw .., h => memOk_execTransferFw hs h
  | .activateFw .., h => memOk_execActivateFw hs h
  | .getTimestamp .., h => memOk_execGetTimestamp hs h
  | .setTimestamp .., h => memOk_execSetTimestamp hs h
  | .getSupportedLogs .., h => memOk_execGetSupportedLogs hs h
  | .getLog .., h => memOk_execGetLog hs h
  | .getSupportedFeatures .., h => memOk_execGetSupportedFeatures hs h
  | .getFeature .., h => memOk_execGetFeature hs h
  | .setFeature .., h => memOk_execSetFeature hs h
  | .identifyMemoryDevice .., h => memOk_execIdentifyMemoryDevice hs h
  | .getHealthInfo .., h => memOk_execGetHealthInfo hs h
  | .getAlertConfiguration .., h => memOk_execGetAlertConfiguration hs h
  | .setAlertConfiguration .., h => memOk_execSetAlertConfiguration hs h
  | .getPoisonList .., h => memOk_execGetPoisonList hs h
  | .injectPoison .., h => memOk_execInjectPoison hs h
  | .clearPoison .., h => memOk_execClearPoison hs h
  | .sanitizeCommand .., h => memOk_execSanitizeCommand hs h
  | .getDynamicCapacityConfiguration .., h => memOk_execGetDynamicCapacityConfiguration hs h
  | .getDynamicCapacityExtentList .., h => memOk_execGetDynamicCapacityExtentList hs h
  | .addDynamicCapacityResponse .., h => memOk_execAddDynamicCapacityResponse hs h
  | .releaseDynamicCapacity .., h => memOk_execReleaseDynamicCapacity hs h
  | .tunnelManagementCommand .., h => memOk_execTunnelManagementCommand hs h
  | .getLdInfo .., h => memOk_execGetLdInfo hs h
  | .getLdAllocations .., h => memOk_execGetLdAllocations hs h
  | .setLdAllocations .., h => memOk_execSetLdAllocations hs h
  | .getQosControl .., h => memOk_execGetQosControl hs h
  | .setQosControl .., h => memOk_execSetQosControl hs h
  | .getQosStatus .., h => memOk_execGetQosStatus hs h
  | .getQosAllocatedBw .., h => memOk_execGetQosAllocatedBw hs h
  | .setQosAllocatedBw .., h => memOk_execSetQosAllocatedBw hs h
  | .getQosBwLimit .., h => memOk_execGetQosBwLimit hs h
  | .setQosBwLimit .., h => memOk_execSetQosBwLimit hs h
  | .sheetOpen .., h => memOk_execSheetOpen hs h
  | .sheetSet .., h => memOk_execSheetSet hs h
  | .sheetRead .., h => memOk_execSheetRead hs h
  | .sheetCheck .., h => memOk_execSheetCheck hs h
  | .sheetCinch .., h => memOk_execSheetCinch hs h
  | .sheetSlip .., h => memOk_execSheetSlip hs h
  | .regionStage .., h => memOk_execRegionStage hs h
  | .regionRemove .., h => memOk_execRegionRemove hs h
  | .regionRead .., h => memOk_execRegionRead hs h
  | .poolAdd .., h => memOk_execPoolAdd hs h
  | .poolRelease .., h => memOk_execPoolRelease hs h
  | .jobStatus .., h => memOk_execJobStatus hs h
  | .jobCancel .., h => memOk_execJobCancel hs h
  | .sanitize .., h => memOk_execSanitize hs h
  | .migrate .., h => memOk_execMigrate hs h
  | .copy .., h => memOk_execCopy hs h
  | .fill .., h => memOk_execFill hs h
  | .tier .., h => memOk_execTier hs h
  | .scrub .., h => memOk_execScrub hs h
  | .countRead .., h => memOk_execCountRead hs h
  | .countWatch .., h => memOk_execCountWatch hs h
  | .faultRead .., h => memOk_execFaultRead hs h
  | .faultPin .., h => memOk_execFaultPin hs h
  | .tetherPort .., h => memOk_execTetherPort hs h
  | .tetherChain .., h => memOk_execTetherChain hs h
  | .sealKeyLoad .., h => memOk_execSealKeyLoad hs h
  | .sealKeyGen .., h => memOk_execSealKeyGen hs h
  | .sealKeyRetire .., h => memOk_execSealKeyRetire hs h
  | .sealKeyStatus .., h => memOk_execSealKeyStatus hs h
  | .sealReknot .., h => memOk_execSealReknot hs h
  | .sealQuarantine .., h => memOk_execSealQuarantine hs h
  | .rekey .., h => memOk_execRekey hs h
  | .hitchStatus .., h => memOk_execHitchStatus hs h
  | .hitchSet .., h => memOk_execHitchSet hs h
  | .moduleReplace .., h => memOk_execModuleReplace hs h
  | .powerEnter .., h => memOk_execPowerEnter hs h
  | .powerStatus .., h => memOk_execPowerStatus hs h
  | .prismStream .., h => memOk_execPrismStream hs h
  | .diagUnlock .., h => memOk_execDiagUnlock hs h
  | .diagLock .., h => memOk_execDiagLock hs h
  | .diagPoke .., h => memOk_execDiagPoke hs h
  | .tableInval .., h => memOk_execTableInval hs h
  | .glintStart .., h => memOk_execGlintStart hs h
  | .glintResult .., h => memOk_execGlintResult hs h
  | .glintPointDone .., h => memOk_execGlintPointDone hs h
  | .glintPeriodicScan .., h => memOk_execGlintPeriodicScan hs h
  | .laneLossOfLock .., h => memOk_execLaneLossOfLock hs h
  | .laneFecSymbolCount .., h => memOk_execLaneFecSymbolCount hs h
  | .tetherReceiverDetected .., h => memOk_execTetherReceiverDetected hs h
  | .tts1 .., h => memOk_execTts1 hs h
  | .tts2 .., h => memOk_execTts2 hs h
  | .tetherSpeedLock .., h => memOk_execTetherSpeedLock hs h
  | .equalisationRequest .., h => memOk_execEqualisationRequest hs h
  | .tetherTrainStateTimeout .., h => memOk_execTetherTrainStateTimeout hs h
  | .tetherWidthResetDone .., h => memOk_execTetherWidthResetDone hs h
  | .skipBlock .., h => memOk_execSkipBlock hs h
  | .linkup .., h => memOk_execLinkup hs h
  | .linkack .., h => memOk_execLinkack hs h
  | .ping .., h => memOk_execPing hs h
  | .pong .., h => memOk_execPong hs h
  | .pingResend .., h => memOk_execPingResend hs h
  | .retrain .., h => memOk_execRetrain hs h
  | .handshakeTimeout .., h => memOk_execHandshakeTimeout hs h
  | .requestFlit .., h => memOk_execRequestFlit hs h
  | .responseFlit .., h => memOk_execResponseFlit hs h
  | .idleFlit .., h => memOk_execIdleFlit hs h
  | .badFlit .., h => memOk_execBadFlit hs h
  | .nak .., h => memOk_execNak hs h
  | .tetherReplayTimerExpiry .., h => memOk_execTetherReplayTimerExpiry hs h
  | .tetherReceiveSilence .., h => memOk_execTetherReceiveSilence hs h
  | .beatMarker .., h => memOk_execBeatMarker hs h
  | .beatHoldover, h => memOk_execBeatHoldover hs h
  | .beatSourceLoss, h => memOk_execBeatSourceLoss hs h
  | .noRoot, h => memOk_execNoRoot hs h
  | .tetherDiscoveryWalk .., h => memOk_execTetherDiscoveryWalk hs h
  | .rd .., h => memOk_execRd hs h
  | .wr .., h => memOk_execWr hs h
  | .wrp .., h => memOk_execWrp hs h
  | .inv .., h => memOk_execInv hs h
  | .evct .., h => memOk_execEvct hs h
  | .snp .., h => memOk_execSnp hs h
  | .rsp .., h => memOk_execRsp hs h
  | .srsp .., h => memOk_execSrsp hs h
  | .swb .., h => memOk_execSwb hs h
  | .mgmt .., h => memOk_execMgmt hs h
  | .mrsp .., h => memOk_execMrsp hs h
  | .mgmtResponseTimeout .., h => memOk_execMgmtResponseTimeout hs h
  | .dozeTimeout .., h => memOk_execDozeTimeout hs h
  | .powerEntryStepDone, h => memOk_execPowerEntryStepDone hs h
  | .wakeEvent .., h => memOk_execWakeEvent hs h
  | .wakeStepReady .., h => memOk_execWakeStepReady hs h
  | .wakeStepTimeout .., h => memOk_execWakeStepTimeout hs h
  | .brownOut, h => memOk_execBrownOut hs h
  | .vddqDLoss, h => memOk_execVddqDLoss hs h
  | .vauxChange .., h => memOk_execVauxChange hs h
  | .rstNAssert, h => memOk_execRstNAssert hs h
  | .coldBoot .., h => memOk_execColdBoot hs h
  | .firmwareBoot .., h => memOk_execFirmwareBoot hs h
  | .perstNAssert .., h => memOk_execPerstNAssert hs h
  | .perstNDeassert .., h => memOk_execPerstNDeassert hs h
  | .corePgChange .., h => memOk_execCorePgChange hs h
  | .railFault .., h => memOk_execRailFault hs h
  | .pinSourceEvent .., h => memOk_execPinSourceEvent hs h
  | .i3cPrivateWrite .., h => memOk_execI3cPrivateWrite hs h
  | .vinPgAssert, h => memOk_execVinPgAssert hs h
  | .prechargeDone, h => memOk_execPrechargeDone hs h
  | .prechargeTimeout .., h => memOk_execPrechargeTimeout hs h
  | .slotOutputGood .., h => memOk_execSlotOutputGood hs h
  | .slotRampTimeout .., h => memOk_execSlotRampTimeout hs h
  | .pmicPowerGood .., h => memOk_execPmicPowerGood hs h
  | .pmicTimeout .., h => memOk_execPmicTimeout hs h
  | .hitchLimitHeld .., h => memOk_execHitchLimitHeld hs h
  | .hitchFastTrip .., h => memOk_execHitchFastTrip hs h
  | .hitchRetryTimer .., h => memOk_execHitchRetryTimer hs h
  | .hitchOn60s .., h => memOk_execHitchOn60s hs h
  | .moduleRemoved .., h => memOk_execModuleRemoved hs h
  | .moduleInserted .., h => memOk_execModuleInserted hs h
  | .spdReadRetry .., h => memOk_execSpdReadRetry hs h
  | .moduleLost .., h => memOk_execModuleLost hs h
  | .fetDamaged .., h => memOk_execFetDamaged hs h
  | .spdmSecureSession .., h => memOk_execSpdmSecureSession hs h
  | .fmApiResetCommand .., h => memOk_execFmApiResetCommand hs h
  | .hostLinkPowerStateChange .., h => memOk_execHostLinkPowerStateChange hs h
  | .partnerLeavesElectricalIdle .., h => memOk_execPartnerLeavesElectricalIdle hs h
  | .taLockWindowExpiry .., h => memOk_execTaLockWindowExpiry hs h
  | .equalisationTimeLimit .., h => memOk_execEqualisationTimeLimit hs h
  | .thDeskewDone .., h => memOk_execThDeskewDone hs h
  | .vinPreOff, h => memOk_execVinPreOff hs h
  | .coreEnRelease, h => memOk_execCoreEnRelease hs h

/-- Settles O4: an idle step changes nothing, and any other is a command's. -/
theorem stepKeepsMemoryCanonical : Obligations.StepKeepsMemoryCanonical := by
  intro s t hs hstep
  unfold step at hstep
  split at hstep
  next => cases hstep; exact hs
  next c rest _ => exact memOk_exec (s := { s with pending := rest }) hs c hstep

end Sys2Proof.Machine
end

section
/-! The media: what a write leaves to read (spec/06 R159), and the place of every line (spec/07 R202, R203). -/

namespace Sys2Proof.Machine

open Sys2Proof Sys2Proof.Laws

/-- Settles O5. -/
theorem mediaReadAfterWrite : Obligations.MediaReadAfterWrite := fun _ hwf =>
  ⟨fun a b v => ⟨memory_write_wf a v hwf, memory_read_write a b v hwf⟩,
    fun n k x => ⟨memory_setBurst_wf n x hwf, memory_burst_setBurst n k x hwf⟩⟩

theorem chanLine_of_addr (m : Nat) : chanLine (m / 64) = (m / 256 % 8, m / 2 ^ 11 * 4 + m / 64 % 4) := by
  simp only [chanLine, Prod.mk.injEq]
  omega

theorem homeLine_chanLine (n : Nat) : homeLine (chanLine n).1 (chanLine n).2 = n := by
  simp only [homeLine, chanLine]
  omega

/-- A line's number within its rank stands in the place's subchannel, bank, column and row. -/
theorem placeOf_inj {ch ch' p l l' : Nat} (h : placeOf ch p l = placeOf ch' p l') : ch = ch' ∧ l = l' := by
  simp only [placeOf, Place.mk.injEq] at h
  obtain ⟨hch, hrank, hsub, hbank, hrow, hcol⟩ := h
  have hline : l % p = l' % p := by omega
  refine ⟨hch, ?_⟩
  rw [← Nat.div_add_mod l p, ← Nat.div_add_mod l' p, hrank, hline]

/-- The lines of a reflected extent's two frames, each once in one of the two copies. -/
theorem mirrorLine_covers (p ch l : Nat) :
    (∃ o < 32768, ∃ c < 2, mirrorLine (2 * p * 32768 + o) c = (ch, l)) ↔ ∃ o < 65536, chanLine (2 * p * 32768 + o) = (ch, l) := by
  simp only [mirrorLine, chanLine, Prod.mk.injEq]
  constructor
  · rintro ⟨o, ho, c, hc, hch, hl⟩
    exact ⟨o / 16 * 32 + ch * 4 + o % 4, by omega, by omega, by omega⟩
  · rintro ⟨o, ho, hch, hl⟩
    exact ⟨o / 32 * 16 + o / 4 % 4 * 4 + o % 4, by omega, o / 16 % 2, by omega, by omega, by omega⟩

theorem mirrorLine_copies (n : Nat) : (mirrorLine n 1).1 = 4 + (mirrorLine n 0).1 ∧ (mirrorLine n 1).2 = (mirrorLine n 0).2 :=
  ⟨by simp only [mirrorLine]; omega, rfl⟩

/-- Settles O6: the bit fields of R202, the place of a line as an injection, and the two copies of R203. -/
theorem mediaAddressDecode : Obligations.MediaAddressDecode := by
  refine ⟨fun m p _ => ⟨chanLine_of_addr m, rfl, rfl, ?_, rfl, ?_, rfl⟩, fun n k p _ => ⟨homeLine_chanLine n, fun h => ?_⟩,
    mirrorLine_covers, mirrorLine_copies⟩
  · simp only [placeOf]; omega
  · simp only [placeOf]; omega
  · obtain ⟨hch, hline⟩ := placeOf_inj h
    rw [← homeLine_chanLine n, ← homeLine_chanLine k, hch, hline]

end Sys2Proof.Machine
end

section
/-! How a command's completion is shown: by the equation of its meaning. -/

namespace Sys2Proof.Laws

open Sys2Proof Sys2Proof.Machine

theorem completes_ok {c : Instr} {s : State} {d : Dev} {P : Dev → Prop} (hc : exec c s = ok d s) (h : P d) : Completes c s P :=
  ⟨_, hc, rfl, h⟩

theorem settles_ok {c : Instr} {s : State} {e : Dev} {P : Dev → Prop} (hc : exec c s = ok e.flow s) (h : P e) : Settles c s P :=
  ⟨e, hc, h⟩

end Sys2Proof.Laws
end

section
/-! The regulator (spec/02 R66, R67): the candidate of each class, and promotion by age. -/

namespace Sys2Proof.Machine

open Sys2Proof Sys2Proof.Laws

/-! ### The first of the greatest -/

/-- The first element with the greatest value of f. -/
def firstMax {α : Type} (f : α → Nat) (l : List α) : Option α :=
  l.foldl (fun b q => match b with | none => some q | some x => if f x < f q then some q else some x) none

/-- The first element of the greatest value, where one stands already. -/
def firstMaxFrom {α : Type} (f : α → Nat) (x : α) (l : List α) : α := l.foldl (fun x q => if f x < f q then q else x) x

section
variable {α : Type} (f : α → Nat)

theorem firstMax_cons (x : α) (l : List α) : firstMax f (x :: l) = some (firstMaxFrom f x l) := by
  unfold firstMax firstMaxFrom
  rw [List.foldl_cons]
  show l.foldl _ (some x) = _
  induction l generalizing x with
  | nil => rfl
  | cons q l ih =>
    rw [List.foldl_cons, List.foldl_cons]
    by_cases h : f x < f q
    · simp only [h, if_true]; exact ih q
    · simp only [h, if_false]; exact ih x

/-- Nothing is greater, and what stands before it is smaller. -/
theorem firstMaxFrom_spec (x : α) (l : List α) :
    (∀ y ∈ x :: l, f y ≤ f (firstMaxFrom f x l)) ∧
      ∃ a b, x :: l = a ++ firstMaxFrom f x l :: b ∧ ∀ y ∈ a, f y < f (firstMaxFrom f x l) := by
  induction l generalizing x with
  | nil => exact ⟨by simp [firstMaxFrom], [], [], by simp [firstMaxFrom]⟩
  | cons q l ih =>
    have hstep : firstMaxFrom f x (q :: l) = firstMaxFrom f (if f x < f q then q else x) l := rfl
    by_cases h : f x < f q
    · rw [hstep, if_pos h]
      obtain ⟨hmax, a, b, hsplit, hbefore⟩ := ih q
      have hq : f q ≤ f (firstMaxFrom f q l) := hmax q (List.mem_cons_self ..)
      refine ⟨fun y hy => ?_, x :: a, b, by rw [hsplit]; rfl, fun y hy => ?_⟩
      · rcases List.mem_cons.mp hy with rfl | hy
        · omega
        · exact hmax y hy
      · rcases List.mem_cons.mp hy with rfl | hy
        · omega
        · exact hbefore y hy
    · rw [hstep, if_neg h]
      obtain ⟨hmax, a, b, hsplit, hbefore⟩ := ih x
      have hx : f x ≤ f (firstMaxFrom f x l) := hmax x (List.mem_cons_self ..)
      refine ⟨fun y hy => ?_, ?_⟩
      · rcases List.mem_cons.mp hy with rfl | hy
        · exact hx
        rcases List.mem_cons.mp hy with rfl | hy
        · omega
        · exact hmax y (List.mem_cons_of_mem _ hy)
      · cases a with
        | nil =>
          obtain ⟨hhead, htail⟩ := List.cons.inj hsplit
          exact ⟨[], q :: l, by rw [← hhead]; rfl, by simp⟩
        | cons z a =>
          obtain ⟨rfl, htail⟩ := List.cons.inj hsplit
          have hxlt : f x < f (firstMaxFrom f x l) := hbefore x (List.mem_cons_self ..)
          refine ⟨x :: q :: a, b, congrArg (fun t => x :: q :: t) htail, fun y hy => ?_⟩
          rcases List.mem_cons.mp hy with rfl | hy
          · exact hxlt
          rcases List.mem_cons.mp hy with rfl | hy
          · omega
          · exact hbefore y (List.mem_cons_of_mem _ hy)

/-- Of a list that is not empty: the greatest value, and its first element. -/
theorem firstMax_spec {l : List α} (h : l ≠ []) :
    ∃ q, firstMax f l = some q ∧ (∀ y ∈ l, f y ≤ f q) ∧ ∃ a b, l = a ++ q :: b ∧ ∀ y ∈ a, f y < f q := by
  cases l with
  | nil => exact absurd rfl h
  | cons x l => exact ⟨_, firstMax_cons f x l, firstMaxFrom_spec f x l⟩

end

/-! ### The candidate -/

/-- The requests that the regulator may take, oldest first. -/
def Dev.admissible (d : Dev) : List Req := d.path.reqs.filter fun q => q.regulated && d.downstream q

/-- The first request of a C2 group that has an allowance of 16. -/
def Dev.groupTurn (d : Dev) (g : Nat) : Option Req :=
  if 16 ≤ (d.c2Of g).a then d.admissible.find? fun q => q.cls = 2 && labelGroup q.label = g else none

/-- The candidate by its classes (R66). -/
theorem Dev.candidate_eq (d : Dev) :
    d.candidate =
      (d.admissible.find? (·.cls = 0)).or
        ((firstMax (fun q => d.c1Step (labelGroup q.label)) (d.admissible.filter (·.cls = 1))).or
          ((((List.range 64).map fun k => (d.path.rr + 1 + k) % 64).findSome? d.groupTurn).or
            (if d.path.gate then d.admissible.find? (·.cls = 3) else none))) := by
  unfold Dev.candidate
  dsimp only
  generalize hbest : List.foldl _ none (List.filter (fun q : Req => decide (q.cls = 1)) _) = best
  obtain rfl : best = firstMax (fun q => d.c1Step (labelGroup q.label)) (d.admissible.filter (·.cls = 1)) := by
    rw [← hbest]
    unfold firstMax
    congr 1
    funext b q
    cases b <;> rfl
  split
  next q h => rw [show d.admissible.find? _ = some q from h]; rfl
  next h =>
    rw [show d.admissible.find? _ = none from h, Option.none_or]
    split
    next q h => rw [h]; rfl
    next h =>
      rw [h, Option.none_or]
      split
      next q h => rw [show List.findSome? d.groupTurn _ = some q from h]; rfl
      next h => rw [show List.findSome? d.groupTurn _ = none from h, Option.none_or]; rfl

/-- A search finds the first element that satisfies its predicate. -/
theorem exists_find_first {α : Type} {l : List α} {p : α → Prop} [DecidablePred p] (h : ∃ x ∈ l, p x) :
    ∃ q, l.find? (fun x => decide (p x)) = some q ∧ ∃ a b, l = a ++ q :: b ∧ p q ∧ ∀ x ∈ a, ¬ p x := by
  obtain ⟨q, hq⟩ := Option.isSome_iff_exists.mp (List.find?_isSome (p := fun x => decide (p x)) |>.mpr (by simpa using h))
  obtain ⟨hp, a, b, hsplit, hbefore⟩ := List.find?_eq_some_iff_append.mp hq
  exact ⟨q, hq, a, b, hsplit, of_decide_eq_true hp, fun x hx => by simpa using hbefore x hx⟩

theorem find_none_of_forall {α : Type} {l : List α} {p : α → Prop} [DecidablePred p] (h : ∀ x ∈ l, ¬ p x) :
    l.find? (fun x => decide (p x)) = none := by
  simpa using h

theorem firstMax_filter_nil {α : Type} (f : α → Nat) {l : List α} {p : α → Prop} [DecidablePred p] (h : ∀ x ∈ l, ¬ p x) :
    firstMax f (l.filter fun x => decide (p x)) = none := by
  rw [List.filter_eq_nil_iff.mpr (by simpa using h)]
  rfl

/-- An element that stands in a filtered list after none that satisfy r stands so in the list. -/
theorem split_of_filter_split {α : Type} {p : α → Bool} {l a b : List α} {q : α} (h : l.filter p = a ++ q :: b) :
    ∃ a' b', l = a' ++ q :: b' ∧ p q = true ∧ ∀ x ∈ a', p x = true → x ∈ a := by
  obtain ⟨l₁, l₂, rfl, h₁, h₂⟩ := List.filter_eq_append_iff.mp h
  obtain ⟨m₁, m₂, rfl, hnone, hq, _⟩ := List.filter_eq_cons_iff.mp h₂
  refine ⟨l₁ ++ m₁, m₂, by simp, hq, fun x hx hpx => ?_⟩
  rcases List.mem_append.mp hx with hx | hx
  · rw [← h₁]; exact List.mem_filter.mpr ⟨hx, hpx⟩
  · exact absurd hpx (hnone x hx)

theorem candidate_of_c0 {d : Dev} (h : ∃ q ∈ d.admissible, q.cls = 0) :
    ∃ q, d.candidate = some q ∧ ∃ a b, d.admissible = a ++ q :: b ∧ q.cls = 0 ∧ ∀ x ∈ a, ¬ x.cls = 0 := by
  obtain ⟨q, hq, hfirst⟩ := exists_find_first h
  exact ⟨q, by rw [Dev.candidate_eq, hq]; rfl, hfirst⟩

theorem candidate_of_c1 {d : Dev} (h0 : ∀ q ∈ d.admissible, q.cls ≠ 0) (h1 : ∃ q ∈ d.admissible, q.cls = 1) :
    ∃ q, d.candidate = some q ∧
      (∀ x ∈ d.admissible, x.cls = 1 → d.c1Step (labelGroup x.label) ≤ d.c1Step (labelGroup q.label)) ∧
      ∃ a b, d.admissible = a ++ q :: b ∧ (q.cls = 1 ∧ d.c1Step (labelGroup q.label) = d.c1Step (labelGroup q.label)) ∧
        ∀ x ∈ a, ¬ (x.cls = 1 ∧ d.c1Step (labelGroup x.label) = d.c1Step (labelGroup q.label)) := by
  have hne : d.admissible.filter (fun q => decide (q.cls = 1)) ≠ [] := by
    simpa [List.filter_eq_nil_iff] using h1
  obtain ⟨q, hq, hmax, a, b, hsplit, hbefore⟩ := firstMax_spec (fun q : Req => d.c1Step (labelGroup q.label)) hne
  obtain ⟨a', b', hsplit', hcls, hin⟩ := split_of_filter_split hsplit
  refine ⟨q, by rw [Dev.candidate_eq, find_none_of_forall h0, hq]; rfl, fun x hx hx1 => ?_, a', b', hsplit', ⟨of_decide_eq_true hcls, rfl⟩, ?_⟩
  · exact hmax x (List.mem_filter.mpr ⟨hx, decide_eq_true hx1⟩)
  · rintro x hx ⟨hx1, heq⟩
    have := hbefore x (hin x hx (decide_eq_true hx1))
    omega

/-- A group gets its turn when it has an allowance and a request; then its oldest request is the one. -/
theorem Dev.groupTurn_of_serves {d : Dev} {g : Nat} (h : 16 ≤ (d.c2Of g).a ∧ ∃ q ∈ d.admissible, q.cls = 2 ∧ labelGroup q.label = g) :
    ∃ q, d.groupTurn g = some q ∧
      ∃ a b, d.admissible = a ++ q :: b ∧ (q.cls = 2 ∧ labelGroup q.label = g) ∧ ∀ x ∈ a, ¬ (x.cls = 2 ∧ labelGroup x.label = g) := by
  obtain ⟨q, hq, hfirst⟩ := exists_find_first (p := fun x : Req => x.cls = 2 ∧ labelGroup x.label = g) h.2
  exact ⟨q, by simpa [Dev.groupTurn, h.1, Bool.decide_and] using hq, hfirst⟩

theorem Dev.groupTurn_none {d : Dev} {g : Nat} (h : ¬ (16 ≤ (d.c2Of g).a ∧ ∃ q ∈ d.admissible, q.cls = 2 ∧ labelGroup q.label = g)) :
    d.groupTurn g = none := by
  unfold Dev.groupTurn
  split
  · rename_i ha
    simpa using fun q hq hc hg => h ⟨ha, q, hq, hc, hg⟩
  · rfl

/-- The first group in turn after the last served that f finds something for. -/
theorem findSome_turn {α : Type} (f : Nat → Option α) (r : Nat) {k n : Nat} {x : α} (hk : k < n) (hx : f ((r + 1 + k) % 64) = some x)
    (hnone : ∀ j < k, f ((r + 1 + j) % 64) = none) :
    ((List.range n).map fun k => (r + 1 + k) % 64).findSome? f = some x := by
  obtain ⟨m, rfl⟩ : ∃ m, n = k + (m + 1) := ⟨n - k - 1, by omega⟩
  have hfront : ((List.range k).map fun k => (r + 1 + k) % 64).findSome? f = none := by
    simpa [List.findSome?_eq_none_iff] using hnone
  rw [List.range_add, List.map_append, List.findSome?_append, hfront, Option.none_or, List.range_succ_eq_map]
  simp [hx]

theorem find_none_of_serves_none {d : Dev} (h : ∀ g < 64, ¬ (16 ≤ (d.c2Of g).a ∧ ∃ q ∈ d.admissible, q.cls = 2 ∧ labelGroup q.label = g)) :
    ((List.range 64).map fun k => (d.path.rr + 1 + k) % 64).findSome? d.groupTurn = none := by
  simp only [List.findSome?_eq_none_iff, List.mem_map, forall_exists_index, and_imp]
  rintro g k _ rfl
  exact Dev.groupTurn_none (h _ (Nat.mod_lt _ (by omega)))

theorem candidate_of_c2 {d : Dev} {k : Nat} (hk : k < 64) (h01 : ∀ q ∈ d.admissible, q.cls ≠ 0 ∧ q.cls ≠ 1)
    (hserves : 16 ≤ (d.c2Of ((d.path.rr + 1 + k) % 64)).a ∧ ∃ q ∈ d.admissible, q.cls = 2 ∧ labelGroup q.label = (d.path.rr + 1 + k) % 64)
    (hbefore : ∀ j < k, ¬ (16 ≤ (d.c2Of ((d.path.rr + 1 + j) % 64)).a ∧
      ∃ q ∈ d.admissible, q.cls = 2 ∧ labelGroup q.label = (d.path.rr + 1 + j) % 64)) :
    ∃ q, d.candidate = some q ∧ ∃ a b, d.admissible = a ++ q :: b ∧ (q.cls = 2 ∧ labelGroup q.label = (d.path.rr + 1 + k) % 64) ∧
      ∀ x ∈ a, ¬ (x.cls = 2 ∧ labelGroup x.label = (d.path.rr + 1 + k) % 64) := by
  obtain ⟨q, hq, hfirst⟩ := Dev.groupTurn_of_serves hserves
  refine ⟨q, ?_, hfirst⟩
  rw [Dev.candidate_eq, find_none_of_forall fun q hq => (h01 q hq).1, firstMax_filter_nil _ fun q hq => (h01 q hq).2,
    findSome_turn d.groupTurn d.path.rr hk hq fun j hj => Dev.groupTurn_none (hbefore j hj)]
  rfl

/-- With no C0 or C1 request waiting and no C2 group that can be served, the gate decides. -/
theorem candidate_of_gate {d : Dev} (h23 : ∀ q ∈ d.admissible, q.cls = 2 ∨ q.cls = 3)
    (hserves : ∀ g < 64, ¬ (16 ≤ (d.c2Of g).a ∧ ∃ q ∈ d.admissible, q.cls = 2 ∧ labelGroup q.label = g)) :
    d.candidate = if d.path.gate then d.admissible.find? (·.cls = 3) else none := by
  rw [Dev.candidate_eq, find_none_of_forall fun q hq => by have := h23 q hq; omega,
    firstMax_filter_nil _ fun q hq => by have := h23 q hq; omega, find_none_of_serves_none hserves]
  rfl

/-! ### The two commands -/

theorem exec_regulatorAdmit (s : State) : exec .regulatorAdmit s = ok s.dev.regulate s := rfl

theorem exec_agePromotion (id : Nat) (s : State) : exec (.agePromotion id) s = ok (s.dev.promoteAge id) s := rfl

theorem Dev.regulate_some {d : Dev} {q : Req} (hclk : d.clk.clk < 500) (hq : d.candidate = some q) :
    d.regulate = { (d.letIn q).flow with clk.clk := (d.letIn q).flow.clk.clk + 1 } := by
  simp only [Dev.regulate, if_pos hclk, hq]

theorem Dev.regulate_none {d : Dev} (hclk : d.clk.clk < 500) (hq : d.candidate = none) :
    d.regulate = { d with clk.clk := d.clk.clk + 1 } := by
  simp only [Dev.regulate, if_pos hclk, hq]

/-- What a conditional change leaves of an element that it is for, and of one that it is not for. -/
theorem mem_map_of_cond {α : Type} {l : List α} {p : α → Bool} {f : α → α} {x : α} (hx : x ∈ l) (hp : p x = true) :
    f x ∈ l.map fun y => if p y then f y else y :=
  List.mem_map.mpr ⟨x, hx, by simp only [hp, if_true]⟩

theorem mem_map_of_not_cond {α : Type} {l : List α} {p : α → Bool} {f : α → α} {x : α} (hx : x ∈ l) (hp : p x = false) :
    x ∈ l.map fun y => if p y then f y else y :=
  List.mem_map.mpr ⟨x, hx, by simp [hp]⟩

/-- Settles O8: one clock with and without a candidate, the candidate class by class, and whom a promotion by age is for. -/
theorem regulatorOrderAndAge : Obligations.RegulatorOrderAndAge := by
  refine ⟨⟨fun s hclk => ⟨fun q hq => ?_, fun hq => ?_⟩, fun d => ⟨candidate_of_c0, candidate_of_c1, fun k hk => candidate_of_c2 hk, ?_⟩⟩,
    fun s id => ?_⟩
  · exact completes_ok (exec_regulatorAdmit s) (Dev.regulate_some hclk hq)
  · exact completes_ok (exec_regulatorAdmit s) (Dev.regulate_none hclk hq)
  · intro h23 hserves
    refine ⟨fun hgate h3 => ?_, fun h => ?_⟩
    · obtain ⟨q, hq, hfirst⟩ := exists_find_first h3
      exact ⟨q, by rw [candidate_of_gate h23 hserves, if_pos hgate]; exact hq, hfirst⟩
    · rw [candidate_of_gate h23 hserves]
      rcases h with hgate | h2
      · simp [hgate]
      · split
        · exact find_none_of_forall fun q hq => by have := h2 q hq; omega
        · rfl
  · refine completes_ok (exec_agePromotion id s) ⟨fun q hq hid hreg hst hdue => ?_, fun q hq hid => ?_, fun w hw hid hdue => ?_,
      fun a ha hkind hdue => ?_⟩
    · exact mem_map_of_cond (f := fun q : Req => { q with promoted := true }) hq (by simp [hid, hreg, hst, hdue])
    · exact mem_map_of_not_cond hq (by simp [hid])
    · exact mem_map_of_cond (f := fun w : Wb => { w with promoted := true }) hw (by simp [hid, hdue])
    · exact mem_map_of_cond (f := fun a : Acc => { a with promoted := true }) ha (by simp [hkind, hdue])

end Sys2Proof.Machine
end


section
/-! The judgment of a stored line (spec/06 R159, R163), word by word. -/

namespace Sys2Proof.Machine

open Sys2Proof Sys2Proof.Laws

theorem burstWord_getLsbD (b : Burst) (k i : Nat) : (burstWord b k).getLsbD i = (decide (i < 64) && b.getLsbD (64 * k + i)) := by
  simp [burstWord]

/-- A burst is its ten words. -/
theorem burst_ext {x y : Burst} (h : ∀ j < 10, burstWord x j = burstWord y j) : x = y := by
  refine BitVec.eq_of_getLsbD_eq fun i hi => ?_
  have hword := congrArg (BitVec.getLsbD · (i % 64)) (h (i / 64) (by omega))
  simpa only [burstWord_getLsbD, Nat.mod_lt i (by omega : 64 > 0), decide_true, Bool.true_and, Nat.div_add_mod] using hword

/-- The data are words 0 to 7. -/
theorem burstData_ext {x y : Burst} (h : ∀ j < 8, burstWord x j = burstWord y j) : burstData x = burstData y := by
  refine BitVec.eq_of_getLsbD_eq fun i hi => ?_
  have hword := congrArg (BitVec.getLsbD · (i % 64)) (h (i / 64) (by omega))
  simp only [burstWord_getLsbD, Nat.mod_lt i (by omega : 64 > 0), decide_true, Bool.true_and, Nat.div_add_mod] at hword
  simp [burstData, hword]

/-- The exclusive or of the first nine words but word k. -/
def parityBut (b : Burst) (k : Nat) : BitVec 64 := (((List.range 9).erase k).map (burstWord b)).foldl (· ^^^ ·) 0

theorem parityOf_eq_but (b : Burst) {k : Nat} (hk : k < 9) : parityOf b = burstWord b k ^^^ parityBut b k := by
  have hfold : parityOf b = ((List.range 9).map (burstWord b)).foldl (· ^^^ ·) 0 := List.foldl_map.symm
  have hperm : ((List.range 9).map (burstWord b)).Perm ((k :: (List.range 9).erase k).map (burstWord b)) :=
    (List.perm_cons_erase (List.mem_range.mpr hk)).map _
  have hcomm (x y z : BitVec 64) : z ^^^ x ^^^ y = z ^^^ y ^^^ x := by
    rw [BitVec.xor_assoc, BitVec.xor_comm x, ← BitVec.xor_assoc]
  rw [hfold, hperm.foldl_eq' fun x _ y _ z => hcomm x y z, List.map_cons, List.foldl_cons, BitVec.xor_comm, List.foldl_assoc]
  rfl

theorem parityBut_congr {x y : Burst} {k : Nat} (h : ∀ j < 10, j ≠ k → burstWord x j = burstWord y j) : parityBut x k = parityBut y k := by
  unfold parityBut
  congr 1
  refine List.map_congr_left fun j hj => ?_
  rw [List.nodup_range.mem_erase_iff, List.mem_range] at hj
  exact h j (by omega) hj.1

/-- The parity is over words 0 to 8. -/
theorem parityOf_congr {x y : Burst} (h : ∀ j < 9, burstWord x j = burstWord y j) : parityOf x = parityOf y := by
  rw [parityOf_eq_but x (k := 0) (by omega), parityOf_eq_but y (k := 0) (by omega), h 0 (by omega)]
  unfold parityBut
  congr 2
  exact List.map_congr_left fun j hj => h j (List.mem_range.mp (List.mem_of_mem_erase hj))

/-! ### A stored line -/

section
variable (data : Line) (dc : BitVec 64)

/-- Data and check, before the parity. -/
def dataAndCheck : Burst := data.setWidth 640 ||| (dc.setWidth 640 <<< 512)

theorem dataAndCheck_getLsbD {i : Nat} (hi : i < 640) :
    (dataAndCheck data dc).getLsbD i = if i < 512 then data.getLsbD i else dc.getLsbD (i - 512) := by
  simp only [dataAndCheck, BitVec.getLsbD_or, BitVec.getLsbD_setWidth, BitVec.getLsbD_shiftLeft, hi, decide_true, Bool.true_and]
  split
  next h => simp [h]
  next h => simp [h, BitVec.getLsbD_of_ge data i (by omega), show i - 512 < 640 by omega]

theorem mkBurst_getLsbD {i : Nat} (hi : i < 640) :
    (mkBurst data dc).getLsbD i = if i < 576 then (dataAndCheck data dc).getLsbD i else (parityOf (dataAndCheck data dc)).getLsbD (i - 576) := by
  show ((dataAndCheck data dc) ||| ((parityOf (dataAndCheck data dc)).setWidth 640 <<< 576)).getLsbD i = _
  simp only [BitVec.getLsbD_or, BitVec.getLsbD_setWidth, BitVec.getLsbD_shiftLeft, hi, decide_true, Bool.true_and]
  split
  next h => simp [h]
  next h =>
    rw [dataAndCheck_getLsbD _ _ hi, if_neg (by omega), BitVec.getLsbD_of_ge dc (i - 512) (by omega)]
    simp [h, show i - 576 < 640 by omega]

theorem burstWord_mkBurst_front {j : Nat} (hj : j < 9) : burstWord (mkBurst data dc) j = burstWord (dataAndCheck data dc) j := by
  refine BitVec.eq_of_getLsbD_eq fun i hi => ?_
  rw [burstWord_getLsbD, burstWord_getLsbD, mkBurst_getLsbD _ _ (by omega), if_pos (by omega)]

theorem burstWord_mkBurst_check : burstWord (mkBurst data dc) 8 = dc := by
  refine BitVec.eq_of_getLsbD_eq fun i hi => ?_
  rw [burstWord_getLsbD, mkBurst_getLsbD _ _ (by omega), if_pos (by omega), dataAndCheck_getLsbD _ _ (by omega), if_neg (by omega),
    show 64 * 8 + i - 512 = i by omega, decide_eq_true hi, Bool.true_and]

theorem burstWord_mkBurst_parity : burstWord (mkBurst data dc) 9 = parityOf (mkBurst data dc) := by
  rw [parityOf_congr fun j hj => burstWord_mkBurst_front data dc hj]
  refine BitVec.eq_of_getLsbD_eq fun i hi => ?_
  rw [burstWord_getLsbD, mkBurst_getLsbD _ _ (by omega), if_neg (by omega), show 64 * 9 + i - 576 = i by omega, decide_eq_true hi, Bool.true_and]

theorem burstData_mkBurst : burstData (mkBurst data dc) = data := by
  refine BitVec.eq_of_getLsbD_eq fun i hi => ?_
  rw [burstData, BitVec.getLsbD_setWidth, mkBurst_getLsbD _ _ (by omega), if_pos (by omega), dataAndCheck_getLsbD _ _ (by omega), if_pos hi,
    decide_eq_true hi, Bool.true_and]

end

/-! ### Rebuilding a word -/

/-- The rebuilt word is what makes the parity consistent; every other stays. -/
theorem burstWord_rebuild (b : Burst) {k j : Nat} (hk : k < 9) (hj : j < 10) :
    burstWord (rebuild b k) j = if j = k then burstWord b 9 ^^^ parityBut b k else burstWord b j := by
  have hw : burstWord b 9 ^^^ parityOf b ^^^ burstWord b k = burstWord b 9 ^^^ parityBut b k := by
    rw [parityOf_eq_but b hk, BitVec.xor_comm (burstWord b k), BitVec.xor_assoc, BitVec.xor_assoc, BitVec.xor_self, BitVec.xor_zero]
  refine BitVec.eq_of_getLsbD_eq fun i hi => ?_
  have hn : 64 * j + i < 640 := by omega
  simp only [burstWord_getLsbD, rebuild, hw, BitVec.getLsbD_or, BitVec.getLsbD_and, BitVec.getLsbD_not, BitVec.getLsbD_setWidth,
    BitVec.getLsbD_shiftLeft, BitVec.getLsbD_allOnes, hi, hn, decide_true, Bool.true_and]
  split
  next h =>
    subst h
    have hnlt : ¬ 64 * j + i < 64 * j := by omega
    simp [hi, hnlt, show i < 640 by omega]
  next h =>
    rw [burstWord_getLsbD, decide_eq_true hi, Bool.true_and]
    by_cases hlt : 64 * j + i < 64 * k
    · simp [hlt]
    · have hge : 64 ≤ 64 * j + i - 64 * k := by omega
      simp [hlt, BitVec.getLsbD_of_ge _ _ hge, Nat.not_lt.mpr hge]

/-- A burst whose parity is consistent is rebuilt from any one that differs from it in a single word. -/
theorem rebuild_eq {b x : Burst} {k : Nat} (hk : k < 9) (hpar : burstWord b 9 = parityOf b)
    (h : ∀ j < 10, j ≠ k → burstWord x j = burstWord b j) : rebuild x k = b := by
  refine burst_ext fun j hj => ?_
  rw [burstWord_rebuild x hk hj]
  split
  next heq =>
    subst heq
    rw [h 9 (by omega) (by omega), parityBut_congr h, hpar, parityOf_eq_but b hk, BitVec.xor_assoc, BitVec.xor_self, BitVec.xor_zero]
  next hne => exact h j hj hne

/-- With one word in error the parity is not consistent. -/
theorem parity_inconsistent {b x : Burst} {k : Nat} (hk : k < 10) (hpar : burstWord b 9 = parityOf b)
    (h : ∀ j < 10, j ≠ k → burstWord x j = burstWord b j) (hne : x ≠ b) : burstWord x 9 ≠ parityOf x := by
  intro hx
  refine hne (burst_ext fun j hj => ?_)
  by_cases hjk : j = k
  · subst hjk
    by_cases h9 : j = 9
    · subst h9
      rw [hx, hpar]
      exact parityOf_congr fun i hi => h i (by omega) (by omega)
    · have hj9 : j < 9 := by omega
      rw [h 9 (by omega) (by omega), hpar, parityOf_eq_but b hj9, parityOf_eq_but x hj9, parityBut_congr h] at hx
      have := congrArg (· ^^^ parityBut b j) hx
      simpa [BitVec.xor_assoc] using this.symm
  · exact h j hj hjk

/-! ### Trials and judgments -/

theorem trial_mkBurst_clean (check : Line → BitVec 64) (data : Line) : trial check (mkBurst data (check data)) = 1 := by
  simp [trial, burstData_mkBurst, burstWord_mkBurst_check]

theorem trial_mkBurst_poison (check : Line → BitVec 64) (data : Line) : trial check (mkBurst data (check data ^^^ poisonMark)) = 2 := by
  have hne : check data ≠ check data ^^^ poisonMark := fun h => by
    have hzero := congrArg (check data ^^^ ·) h
    simp only [← BitVec.xor_assoc, BitVec.xor_self, BitVec.zero_xor] at hzero
    exact absurd hzero (by decide)
  have hback : check data ^^^ poisonMark ^^^ poisonMark = check data := by rw [BitVec.xor_assoc, BitVec.xor_self, BitVec.xor_zero]
  simp only [trial, burstData_mkBurst, burstWord_mkBurst_check, hne, hback, if_true, if_false]

/-- A trial reads words 0 to 8. -/
theorem trial_congr (check : Line → BitVec 64) {x y : Burst} (h : ∀ j < 9, burstWord x j = burstWord y j) : trial check x = trial check y := by
  simp only [trial, burstData_ext fun j hj => h j (by omega), h 8 (by omega)]

section
variable {check : Line → BitVec 64} {x : Burst}

theorem judgeFull_of_trial_one (h : trial check x = 1) :
    judgeFull check x = ⟨if burstWord x 9 = parityOf x then .clean else .parity, burstData x⟩ := by
  simp [judgeFull, h]

theorem judgeFull_of_poison (h : trial check x = 2) (hpar : burstWord x 9 = parityOf x) : judgeFull check x = ⟨.poison, burstData x⟩ := by
  simp [judgeFull, h, hpar]

/-- With the parity not consistent, the one rebuild that matches by the check corrects the line. -/
theorem judgeFull_of_rebuild {k : Nat} (h1 : trial check x ≠ 1) (hpar : burstWord x 9 ≠ parityOf x)
    (honly : ((List.range 9).filter fun j => trial check (rebuild x j) ≠ 0) = [k]) (hk : trial check (rebuild x k) = 1) :
    judgeFull check x = ⟨.corrected k, burstData (rebuild x k)⟩ := by
  unfold judgeFull
  dsimp only
  split
  next h => exact absurd h h1
  next =>
    rw [if_neg (by simp [hpar]), honly]
    exact if_pos hk

/-- On a rank with an erased device the line is judged as it is with that device's word rebuilt. -/
theorem judgeErased_eq {b : Burst} {e : Nat} (he : e < 10) (hpar : burstWord b 9 = parityOf b)
    (h : ∀ j < 10, j ≠ e → burstWord x j = burstWord b j) : judgeErased check e x = judgeErased check 9 b := by
  have htrial : trial check (if e = 9 then x else rebuild x e) = trial check b ∧ burstData (if e = 9 then x else rebuild x e) = burstData b := by
    split
    next h9 =>
      have hfront : ∀ j < 9, burstWord x j = burstWord b j := fun j hj => h j (by omega) (by omega)
      exact ⟨trial_congr check hfront, burstData_ext fun j hj => hfront j (by omega)⟩
    next h9 => rw [rebuild_eq (by omega) hpar h]; exact ⟨rfl, rfl⟩
  simp only [judgeErased, htrial.1, htrial.2, if_true]

end

/-- Settles O9: the trial of a stored line, the parity with one word in error, and the rebuild. -/
theorem lineJudgment : Obligations.LineJudgment := by
  intro check data
  have hb := trial_mkBurst_clean check data
  have hp := trial_mkBurst_poison check data
  have hdata := burstData_mkBurst data (check data)
  have hpar := burstWord_mkBurst_parity data (check data)
  refine ⟨?_, ?_, fun x hx hne => ?_, fun k hk x hx => ?_, fun e he x hx => ?_, fun e he x hx => ?_⟩
  · show judgeFull _ _ = _
    rw [judgeFull_of_trial_one hb, if_pos hpar, hdata]
  · show judgeFull _ _ = _
    rw [judgeFull_of_poison hp (burstWord_mkBurst_parity ..), burstData_mkBurst]
  · have hfront : ∀ j < 9, burstWord x j = burstWord (mkBurst data (check data)) j := fun j hj => (hx j (by omega) (by omega)).symm
    show judgeFull _ _ = _
    rw [judgeFull_of_trial_one ((trial_congr check hfront).trans hb), if_neg (parity_inconsistent (k := 9) (by omega) hpar (fun j hj hjk => (hx j hj hjk).symm) hne),
      burstData_ext fun j hj => hfront j (by omega), hdata]
  · have hx' : ∀ j < 10, j ≠ k → burstWord x j = burstWord (mkBurst data (check data)) j := fun j hj hjk => (hx j hj hjk).symm
    have hback := rebuild_eq hk hpar hx'
    refine ⟨hback, fun hne h1 honly => ?_⟩
    show judgeFull _ _ = _
    rw [judgeFull_of_rebuild h1 (parity_inconsistent (by omega) hpar hx' hne) honly (by rw [hback, hb]), hback, hdata]
  · show judgeErased _ _ _ = _
    rw [judgeErased_eq he hpar fun j hj hje => (hx j hj hje).symm]
    simp [judgeErased, hb, hdata]
  · show judgeErased _ _ _ = _
    rw [judgeErased_eq he (burstWord_mkBurst_parity ..) fun j hj hje => (hx j hj hje).symm]
    simp [judgeErased, hp, burstData_mkBurst]

end Sys2Proof.Machine
end

section
/-! Requests of hosts at ingress (spec/01 R23, spec/02 R51, spec/09 R255). -/

namespace Sys2Proof.Machine

open Sys2Proof Sys2Proof.Laws

/-! ### Lists in which the first match is replaced -/

section
variable {α : Type} {p : α → Bool} {f : α → α}

theorem replaceFirst_append_of_any {l m : List α} (h : ∃ x ∈ l, p x = true) : replaceFirst p f (l ++ m) = replaceFirst p f l ++ m := by
  induction l with
  | nil => simp at h
  | cons x l ih =>
    by_cases hx : p x = true
    · simp [replaceFirst, hx]
    · have hl : ∃ y ∈ l, p y = true := by simpa [hx] using h
      simp [replaceFirst, hx, ih hl]

theorem replaceFirst_append_of_none {l m : List α} (h : ∀ x ∈ l, p x = false) : replaceFirst p f (l ++ m) = l ++ replaceFirst p f m := by
  induction l with
  | nil => rfl
  | cons x l ih =>
    have hx := h x (List.mem_cons_self ..)
    simp [replaceFirst, hx, ih fun y hy => h y (List.mem_cons_of_mem _ hy)]

end

/-! ### A grant -/

theorem linkOf_linkNum (k : Link) : linkOf (linkNum k) = k := by cases k <;> rfl

/-- The grant of an entry to a stored request. -/
def Dev.granted (d : Dev) (l c : Nat) (q : Req) : Dev :=
  ((if c = 0 then d else d.modLd q.counts fun x => { x with bwUsed := x.bwUsed + 1 }).stageReq q .ingress).say
    (.credit (linkOf l) (q.op = .write))

theorem Dev.granted_reqs (d : Dev) (l c : Nat) (q : Req) :
    (d.granted l c q).path.reqs = replaceFirst (·.id = q.id) (fun _ => { q with stage := .ingress }) d.path.reqs := by
  unfold Dev.granted
  split <;> rfl

theorem Dev.granted_out (d : Dev) (l c : Nat) (q : Req) : (d.granted l c q).out = d.out ++ [.credit (linkOf l) (q.op = .write)] := by
  unfold Dev.granted
  split <;> rfl

/-- Either nothing is granted, or the oldest stored request of the class gets its entry. -/
theorem Dev.grantIngress_cases (d : Dev) (l c : Nat) :
    d.grantIngress l c = d ∨ ∃ q, d.stored l c = some q ∧ d.grantIngress l c = d.granted l c q := by
  unfold Dev.grantIngress
  split
  next => exact .inl rfl
  next q h =>
    refine .inr ⟨q, ?_, rfl⟩
    split at h
    · exact h
    · cases h

theorem Dev.grantIngress_granted {d : Dev} {l c : Nat} {q : Req} (hroom : d.ingressRoom l c = true) (hquiet : d.power.quiet = false)
    (hq : d.stored l c = some q) : d.grantIngress l c = d.granted l c q := by
  simp only [Dev.grantIngress, hroom, hquiet, hq]
  rfl

/-- A request put last waits on after a grant: stored still, or with the entry. -/
theorem Dev.grantIngress_last {d : Dev} {reqs : List Req} {q : Req} {l c : Nat} (h : d.path.reqs = reqs ++ [q]) :
    q ∈ (d.grantIngress l c).path.reqs ∨ { q with stage := .ingress } ∈ (d.grantIngress l c).path.reqs := by
  rcases d.grantIngress_cases l c with heq | ⟨x, hx, heq⟩
  · left; simp [heq, h]
  · rw [heq, Dev.granted_reqs, h]
    by_cases hany : ∃ y ∈ reqs, decide (y.id = x.id) = true
    · left
      rw [replaceFirst_append_of_any hany]
      exact List.mem_append_right _ (List.mem_singleton.mpr rfl)
    · have hnone : ∀ y ∈ reqs, decide (y.id = x.id) = false := fun y hy => by
        have := mt (fun hid => (⟨y, hy, hid⟩ : ∃ y ∈ reqs, _)) hany
        simpa using this
      have hmem : x ∈ reqs ++ [q] := h ▸ List.mem_of_find?_eq_some hx
      obtain rfl : x = q := by
        rcases List.mem_append.mp hmem with hr | hq
        · simpa using hnone x hr
        · exact List.mem_singleton.mp hq
      right
      rw [replaceFirst_append_of_none hnone]
      simp [replaceFirst]

theorem Dev.exists_grantIngress_last {d : Dev} {reqs : List Req} {q : Req} {l c : Nat} {P : Req → Prop} (h : d.path.reqs = reqs ++ [q])
    (hstored : P q) (hgranted : P { q with stage := .ingress }) : ∃ x ∈ (d.grantIngress l c).path.reqs, P x := by
  rcases Dev.grantIngress_last (l := l) (c := c) h with hx | hx
  · exact ⟨_, hx, hstored⟩
  · exact ⟨_, hx, hgranted⟩

/-! ### A request accepted -/

/-- The label under which a region's request is taken: a spent contract lowers C0 to C1 (R51). -/
def contractLabel (d : Dev) (r : Region) (ld : Nat) : Label :=
  if labelCls r.label = .c0 ∧ (d.ld ld).allowance = 0 then mkLabel .c1 (labelGroup r.label) else r.label

/-- The request as it is stored. -/
theorem Dev.accept_waits (d : Dev) (r : Region) (q : Req) (ld l : Nat) :
    ∃ x ∈ (d.accept r q ld l).path.reqs, x.src = q.src ∧ x.op = q.op ∧ x.mv = q.mv ∧ x.dpa = q.dpa ∧ x.data = q.data ∧ x.mask = q.mask ∧
      x.poison = q.poison ∧ x.label = contractLabel d r ld ∧ (x.stage = .store ∨ x.stage = .ingress) := by
  have hlabel : (if (decide (labelCls r.label = .c0) && !(decide (labelCls r.label = .c0) && decide (0 < (d.ld ld).allowance))) = true
      then mkLabel .c1 (labelGroup r.label) else r.label) = contractLabel d r ld := by
    unfold contractLabel
    by_cases h0 : labelCls r.label = .c0 <;> by_cases ha : (d.ld ld).allowance = 0 <;> simp [h0, ha, Nat.pos_iff_ne_zero]
  unfold Dev.accept
  dsimp only [Dev.fresh]
  rw [hlabel]
  exact Dev.exists_grantIngress_last rfl ⟨rfl, rfl, rfl, rfl, rfl, rfl, rfl, rfl, .inl rfl⟩ ⟨rfl, rfl, rfl, rfl, rfl, rfl, rfl, rfl, .inr rfl⟩

section
variable {d : Dev} {k : Link} {ldId tag : BitVec 16} {hpa : BitVec 64} {ld a : Nat} {r : Region}

/-- A request that no rule of R23, R246, R262 or R275 turns away is accepted under its region. -/
theorem Dev.arrive_accepted (q : Req) (hup : (d.link (linkNum k)).carries = true) (hcxl : (d.link (linkNum k)).cxl = true)
    (hviral : (d.link (linkNum k)).viral = false) (hld : d.ldOnLink (linkNum k) ldId.toNat = some ld) (hres : (d.ld ld).resetting = false)
    (hdpa : d.dpaOf ld hpa.toNat = some a) (hr : d.regionAt ld a = some r) (hmap : d.mapped ld a = true) :
    d.arrive k ldId hpa q tag = d.accept r { q with src := .host k ld tag, dpa := a } ld (linkNum k) := by
  simp [Dev.arrive, hup, hcxl, hviral, hld, hres, hdpa, hr, hmap]

end

/-- Settles O14: an accepted request stands last among those in flight, and a grant replaces the one it is for. -/
theorem requestEntersIngress : Obligations.RequestEntersIngress := by
  refine ⟨fun s k ldId tag hpa mask mv data poison ld a r => ?_, fun s k c q hroom hquiet hq => ?_⟩
  · intro l label waits hup hcxl hviral hld hres hdpa hr hmap
    have key : ∀ q : Req, ∃ x ∈ (s.dev.arrive k ldId hpa q tag).path.reqs, x.src = .host k ld tag ∧ x.op = q.op ∧ x.mv = q.mv ∧ x.dpa = a ∧
        x.data = q.data ∧ x.mask = q.mask ∧ x.poison = q.poison ∧ x.label = label ∧ (x.stage = .store ∨ x.stage = .ingress) := fun q => by
      rw [Dev.arrive_accepted q hup hcxl hviral hld hres hdpa hr hmap]
      exact Dev.accept_waits ..
    refine ⟨completes_ok rfl ?_, completes_ok rfl ?_, completes_ok rfl ?_, completes_ok rfl ?_⟩
    · obtain ⟨x, hx, hsrc, hop, hmv, hdpa, -, -, -, hlabel, hst⟩ := key (hostReq .read mv)
      exact ⟨x, hx, hsrc, hop, hdpa, hlabel, hst, hmv⟩
    · obtain ⟨x, hx, hsrc, hop, hmv, hdpa, hdata, hmask, hpoison, hlabel, hst⟩ :=
        key { hostReq .write mv with data := data, mask := mask, poison := poison }
      exact ⟨x, hx, hsrc, hop, hdpa, hlabel, hst, hmv, hdata, hmask, hpoison⟩
    · obtain ⟨x, hx, hsrc, hop, -, hdpa, -, -, -, hlabel, hst⟩ := key (hostReq .inv .a)
      exact ⟨x, hx, hsrc, hop, hdpa, hlabel, hst, trivial⟩
    · obtain ⟨x, hx, hsrc, hop, -, hdpa, -, -, -, hlabel, hst⟩ := key (hostReq .evct .i)
      exact ⟨x, hx, hsrc, hop, hdpa, hlabel, hst, trivial⟩
  · refine completes_ok rfl ?_
    rw [Dev.grantIngress_granted hroom hquiet hq]
    obtain ⟨x, hx⟩ := req_isSome_of_mem (List.mem_of_find?_eq_some hq)
    refine ⟨?_, by rw [Dev.granted_out, linkOf_linkNum]⟩
    rw [Dev.req, Dev.granted_reqs]
    exact find_replaceFirst _ _ (by simp) _ _ hx

end Sys2Proof.Machine
end

section
/-! Walks, fills and fetches (spec/03 R87 to R92, spec/06 R178). -/

namespace Sys2Proof.Machine

open Sys2Proof Sys2Proof.Laws

/-! ### What a judged read of a table line leaves alone -/

/-- What a verdict that is noted leaves alone: settings, chain, the size of the media, the write buffer, and the channels but for the ranks that
are to be retired. -/
structure Noted (d d' : Dev) : Prop where
  conf : d'.conf = d.conf
  chain : d'.chain = d.chain
  formed : d'.dram.formed = d.dram.formed
  logical : d'.dram.logical = d.dram.logical
  lines : d'.dram.lines = d.dram.lines
  wb : d'.line.wb = d.line.wb
  chan : ∀ n, ∃ l, d'.chan n = { d.chan n with toRetire := l }

namespace Noted

theorem of_eq {d d' : Dev} (hconf : d'.conf = d.conf) (hchain : d'.chain = d.chain) (hwb : d'.line.wb = d.line.wb)
    (hsize : d'.dram.formed = d.dram.formed ∧ d'.dram.logical = d.dram.logical ∧ d'.dram.lines = d.dram.lines)
    (hchans : d'.dram.chans = d.dram.chans) : Noted d d' :=
  ⟨hconf, hchain, hsize.1, hsize.2.1, hsize.2.2, hwb, fun n => ⟨(d.chan n).toRetire, by rw [Dev.chan, hchans]; rfl⟩⟩

theorem refl (d : Dev) : Noted d d := of_eq rfl rfl rfl ⟨rfl, rfl, rfl⟩ rfl

theorem trans {a b c : Dev} (h : Noted a b) (g : Noted b c) : Noted a c :=
  ⟨g.conf.trans h.conf, g.chain.trans h.chain, g.formed.trans h.formed, g.logical.trans h.logical, g.lines.trans h.lines, g.wb.trans h.wb, fun n => by
    obtain ⟨l, hl⟩ := h.chan n
    obtain ⟨m, hm⟩ := g.chan n
    exact ⟨m, by rw [hm, hl]⟩⟩

theorem of_signals {d d' : Dev} (h : Signals d d') : Noted d d' :=
  of_eq h.conf h.chain (by rw [h.line]) ⟨by rw [h.dram], by rw [h.dram], by rw [h.dram]⟩ (by rw [h.dram])

theorem faultEvent (d : Dev) (n code detail : Nat) (label : Label) (who : BitVec 8) (hard : Bool) :
    Noted d (d.faultEvent n code detail label who hard) := by
  obtain ⟨f, -, -, -, h⟩ := faultEvent_signals d n code detail label who hard
  exact trans (b := { d with fault := f }) (of_eq rfl rfl rfl ⟨rfl, rfl, rfl⟩ rfl) (of_signals h)

theorem hardRow (d : Dev) (p : Place) : Noted d (d.hardRow p) := by
  unfold Dev.hardRow
  split
  · exact refl d
  · exact of_eq rfl rfl rfl ⟨rfl, rfl, rfl⟩ rfl

theorem corrColumn (d : Dev) (p : Place) (k : Nat) : Noted d (d.corrColumn p k) := by
  unfold Dev.corrColumn
  extract_lets key cols cols' dram e
  have he : Noted d e := of_eq rfl rfl rfl ⟨rfl, rfl, rfl⟩ rfl
  split
  · exact he.trans (hardRow ..)
  · exact he

theorem alarm (d : Dev) (source code addr key level : Nat) (lds : List Nat) : Noted d (d.alarm source code addr key level lds) := by
  unfold Dev.alarm
  extract_lets detail e key e'
  have he : Noted d e := faultEvent ..
  have he' : Noted d e' := he.trans (of_eq rfl rfl rfl ⟨rfl, rfl, rfl⟩ rfl)
  split
  · split
    · exact he'.trans (of_signals (signals_record ..))
    · exact he'.trans (of_signals (signals_each _ _ _ fun d ld => signals_raiseFault ..))
  · exact he

theorem retireRank (d : Dev) (ch rank : Nat) : Noted d (d.retireRank ch rank) := by
  refine ⟨rfl, rfl, rfl, rfl, rfl, rfl, fun n => ?_⟩
  unfold Dev.retireRank
  by_cases hn : n = ch
  · rw [hn, Dev.chan_modChan_self]
    split
    · exact ⟨_, rfl⟩
    · exact ⟨_, rfl⟩
  · rw [Dev.chan_modChan_ne _ _ _ _ hn]
    exact ⟨_, rfl⟩

theorem noteVerdict (d : Dev) (n : Nat) (p : Place) (v : Verdict) (r : Reader) : Noted d (d.noteVerdict n p v r) := by
  unfold Dev.noteVerdict
  split
  · exact refl d
  · split
    · exact refl d
    · exact (of_signals (signals_bump ..)).trans (faultEvent ..)
    · exact ((of_signals (signals_bump ..)).trans (faultEvent ..)).trans (corrColumn ..)
    · dsimp only
      split
      · exact of_signals (signals_bump ..)
      · exact (of_signals (signals_bump d 0x163 1)).trans (of_eq rfl rfl rfl ⟨rfl, rfl, rfl⟩ rfl)
    next consistent =>
      dsimp only
      have hlost : Noted d ((d.bump 0x162).faultEvent (srcRank p.ch p.rank) (if consistent then 4 else 3) (dramDetail n p 15 r.scrub)
          r.label r.who (hard := !consistent)) := (of_signals (signals_bump ..)).trans (faultEvent ..)
      have hrow : ∀ e, Noted d e → Noted d (if consistent = true then e else (e.hardRow p).retireRank p.ch p.rank) := fun e he => by
        split
        · exact he
        · exact (he.trans (hardRow e p)).trans (retireRank ..)
      split
      · exact (hrow _ hlost).trans (alarm ..)
      · exact hrow _ hlost

end Noted

/-- The settings, the chain and the size of the media are as they were: what the format rules of R88 read. -/
structure SameLayout (d d' : Dev) : Prop where
  conf : d'.conf = d.conf
  chain : d'.chain = d.chain
  formed : d'.dram.formed = d.dram.formed
  logical : d'.dram.logical = d.dram.logical
  lines : d'.dram.lines = d.dram.lines

namespace SameLayout

theorem refl (d : Dev) : SameLayout d d := ⟨rfl, rfl, rfl, rfl, rfl⟩

theorem trans {a b c : Dev} (h : SameLayout a b) (g : SameLayout b c) : SameLayout a c :=
  ⟨g.conf.trans h.conf, g.chain.trans h.chain, g.formed.trans h.formed, g.logical.trans h.logical, g.lines.trans h.lines⟩

theorem of_noted {d d' : Dev} (h : Noted d d') : SameLayout d d' := ⟨h.conf, h.chain, h.formed, h.logical, h.lines⟩

theorem repair (d : Dev) (w : Wb) : SameLayout d (d.repair w) := by
  unfold Dev.repair
  split
  · exact refl d
  · split <;> exact ⟨rfl, rfl, rfl, rfl, rfl⟩

theorem rewriteAs (d : Dev) (check : Line → BitVec 64) (n : Nat) (a : Attr) (page copy : Nat) (j : Judged) (p : Place) (data : Line) :
    SameLayout d (d.rewriteAs check n a page copy j p data) := by
  unfold Dev.rewriteAs
  extract_lets wanted
  have hfresh : SameLayout d d.fresh.2 := ⟨rfl, rfl, rfl, rfl, rfl⟩
  split
  · exact hfresh.trans (repair ..)
  · exact refl d

theorem readTable (d : Dev) (n : Nat) (err : Burst) (r : Reader) : SameLayout d (d.readTable n err r).2 :=
  (of_noted (Noted.noteVerdict ..)).trans (rewriteAs ..)

variable {d d' : Dev} (h : SameLayout d d')
include h

theorem mediaTop : d'.mediaTop = d.mediaTop := by simp only [Dev.mediaTop, h.formed, h.logical, h.lines]

theorem tableBase : d'.tableBase = d.tableBase := by
  rw [Dev.tableBase, Dev.tableBase, h.mediaTop, Dev.tableSizeOf, Dev.tableSizeOf, h.formed, Dev.setting, Dev.setting, h.conf]

theorem extCause (v : Verdict) (e : BitVec 64) : d'.extCause v e = d.extCause v e := by
  simp only [Dev.extCause, h.chain, h.tableBase]

end SameLayout

/-! ### Stage 1 through the extent cache -/

/-- With the directory entry cached and good, stage 1 ends with the entry that stands in the table, where that is good. -/
theorem Dev.walk1_cached {d : Dev} {ld ext : Nat} {errs : List Burst} {r : Reader} {x : XEntry}
    (hx : (d.xl.xc.find? fun y => y.same .s1l1 ld (ext / 512)) = some x) (hdir : d.dirCause .clean x.value = none)
    (hext : let a := dirTable x.value + ext % 512 * 8
      let j := d.judgeTable (a / 64) (errs.headD 0)
      d.extCause j.v (BitVec.ofNat 64 (lineField j.data (a % 64) 8)) = none) :
    (d.walk1 ld ext errs r).1 =
      let a := dirTable x.value + ext % 512 * 8
      .ok (BitVec.ofNat 64 (lineField (d.judgeTable (a / 64) (errs.headD 0)).data (a % 64) 8)) := by
  have hlook : d.xcLook .s1l1 ld (ext / 512) =
      some (x.value, { d with xl.xc := x :: d.xl.xc.filter fun y => !y.same .s1l1 ld (ext / 512) }) := by
    simp only [Dev.xcLook, hx]
  unfold Dev.walk1
  simp only [hlook]
  generalize he : ({ d with xl.xc := x :: d.xl.xc.filter fun y => !y.same .s1l1 ld (ext / 512) } : Dev) = e
  have hdir' : e.dirCause .clean x.value = none := by subst he; exact hdir
  have hext' : e.extCause (e.judgeTable ((dirTable x.value + ext % 512 * 8) / 64) (errs.headD 0)).v
      (BitVec.ofNat 64 (lineField (e.judgeTable ((dirTable x.value + ext % 512 * 8) / 64) (errs.headD 0)).data
        ((dirTable x.value + ext % 512 * 8) % 64) 8)) = none := by subst he; exact hext
  have hread := SameLayout.readTable e ((dirTable x.value + ext % 512 * 8) / 64) (errs.headD 0) r
  rw [← hread.extCause] at hext'
  simp only [hdir', show (e.readTable ((dirTable x.value + ext % 512 * 8) / 64) (errs.headD 0) r).1 =
    e.judgeTable ((dirTable x.value + ext % 512 * 8) / 64) (errs.headD 0) from rfl, hext']
  subst he
  rfl

/-! ### Walks end -/

/-- The walk has left the walkers. -/
def Dev.walkOver (d : Dev) (id : Nat) : Dev := { d with xl.walks := d.xl.walks.filter (·.id ≠ id) }

section
variable {d d1 : Dev} {w : Walk} {errs : List Burst}

theorem Dev.walkDone_stage1_ok {ld ext : Nat} {e : BitVec 64} (hw : d.xl.walks.find? (·.id = w.id) = some w) (ht : w.target = .stage1 ld ext)
    (h : (d.walkOver w.id).walk1 ld ext errs { label := w.label, who := reqLd ld } = (.ok e, d1)) :
    d.walkDone w.id errs =
      d1.eachReq ((d.walkOver w.id).walkers (.walk1 w.id)) fun x q => (x.flbFill q.buf ld ext e).stage1Found q e := by
  unfold Dev.walkOver at h ⊢
  simp only [Dev.walkDone, hw, ht, h]

theorem Dev.walkDone_stage1_error {ld ext : Nat} {f : WFault} (hw : d.xl.walks.find? (·.id = w.id) = some w) (ht : w.target = .stage1 ld ext)
    (h : (d.walkOver w.id).walk1 ld ext errs { label := w.label, who := reqLd ld } = (.error f, d1)) :
    d.walkDone w.id errs =
      (if w.prefetch && ((d.walkOver w.id).walkers (.walk1 w.id)).isEmpty then d1.bump 0x16C else d1).eachReq
        ((d.walkOver w.id).walkers (.walk1 w.id)) fun x q => (x.countAccepted q).walkFault q f := by
  unfold Dev.walkOver at h ⊢
  simp only [Dev.walkDone, hw, ht, h]

theorem Dev.walkDone_stage2_ok {page : Nat} {f : Found2} (hw : d.xl.walks.find? (·.id = w.id) = some w) (ht : w.target = .stage2 page)
    (h : (d.walkOver w.id).walk2 page errs { label := w.label } = (.ok f, d1)) :
    d.walkDone w.id errs =
      (if f.knot.isSome then d1.markFilling (Machine.s2Addr f.entry) else d1).eachReq ((d.walkOver w.id).walkers (.walk2 w.id)) fun x q =>
        if q.page = page then x.stage2Found q f else x.stage2 q := by
  unfold Dev.walkOver at h ⊢
  simp only [Dev.walkDone, hw, ht, h]

theorem Dev.walkDone_stage2_error {page : Nat} {f : WFault} (hw : d.xl.walks.find? (·.id = w.id) = some w) (ht : w.target = .stage2 page)
    (h : (d.walkOver w.id).walk2 page errs { label := w.label } = (.error f, d1)) :
    d.walkDone w.id errs =
      (if w.prefetch && ((d.walkOver w.id).walkers (.walk2 w.id)).isEmpty then d1.bump 0x16C else d1).eachReq
        ((d.walkOver w.id).walkers (.walk2 w.id)) fun x q => if q.page = page || f.level ≤ 2 then x.walkFault q f else x.stage2 q := by
  unfold Dev.walkOver at h ⊢
  simp only [Dev.walkDone, hw, ht, h]

end

theorem exec_tableWalkComplete (walk : Nat) (errs : List Burst) (s : State) :
    exec (.tableWalkComplete walk errs) s = ok (s.dev.walkDone walk errs).flow s := rfl

/-! ### The rest of a leaf block -/

theorem exec_knotBlockFillDone (block : Nat) (errs : List Burst) (s : State) :
    exec (.knotBlockFillDone block errs) s = ok (s.dev.blockFill block errs).flow s := rfl

/-- No slot of the block fills any more. -/
def Dev.stopFilling (d : Dev) (block : Nat) : Dev :=
  { d with xl.kc := d.xl.kc.map fun x => if x.block = block then { x with filling := false } else x }

theorem Dev.kslot_stopFilling (d : Dev) (block : Nat) :
    (d.stopFilling block).kslot block = (d.kslot block).map fun x => { x with filling := false } := by
  show (d.xl.kc.map _).find? _ = (d.xl.kc.find? _).map _
  induction d.xl.kc with
  | nil => rfl
  | cons x l ih => by_cases h : x.block = block <;> simp_all

/-- The lines that a block lacks have been read, then its records. -/
def Dev.restFilled (d : Dev) (block : Nat) (x : KSlot) (errs : List Burst) : Dev :=
  let need := (List.range 36).filter fun l => !x.valid.getLsbD l
  let e := each (need.zip (errs ++ List.replicate 36 0)) d fun d y => (d.kcFillLines block [y.1] [y.2] {}).2
  if x.recsValid then e else e.fillRecs block (errs.drop need.length)

section
variable {d : Dev} {block : Nat} {errs : List Burst} {x : KSlot}

theorem Dev.blockFill_filling (hx : d.kslot block = some x) (hf : x.filling = true) :
    d.blockFill block errs = (d.restFilled block x errs).stopFilling block := by
  simp only [Dev.blockFill, hx, hf, Bool.not_true, Bool.false_eq_true, if_false]
  rfl

theorem Dev.blockFill_not_filling (hx : d.kslot block = some x) (hf : x.filling = false) : d.blockFill block errs = d := by
  simp only [Dev.blockFill, hx, hf, Bool.not_false, if_true]

theorem Dev.restFilled_lines (hneed : ((List.range 36).filter fun l => !x.valid.getLsbD l) = []) :
    d.restFilled block x errs = if x.recsValid then d else d.fillRecs block errs := by
  simp only [Dev.restFilled, hneed, List.zip_nil_left, List.length_nil, List.drop_zero]
  rfl

end

/-! ### Headers -/

theorem exec_counterTreeFetchDone (fetch : Nat) (errs : List Burst) (s : State) :
    exec (.counterTreeFetchDone fetch errs) s = ok (s.dev.fetchDone fetch errs).flow s := rfl

/-- The fetch is over. -/
def Dev.fetchOver (d : Dev) (id : Nat) : Dev := { d with line.fetches := d.line.fetches.filter (·.id ≠ id) }

theorem Dev.fetchDone_eq {d : Dev} {f : CtFetch} {errs : List Burst} (hf : d.line.fetches.find? (·.id = f.id) = some f) :
    d.fetchDone f.id errs =
      ((d.fetchOver f.id).fetchHeader f.attr f.page errs).2.eachReq ((d.fetchOver f.id).walkers (.header f.id))
        (if ((d.fetchOver f.id).fetchHeader f.attr f.page errs).1 then Dev.station else Dev.fail) := by
  simp only [Dev.fetchDone, hf]
  show (match (d.fetchOver f.id).fetchHeader f.attr f.page errs with | (true, e) => _ | (false, e) => _) = _
  rcases (d.fetchOver f.id).fetchHeader f.attr f.page errs with ⟨_ | _, e⟩ <;> rfl

theorem Dev.fetchHeader_cached {d : Dev} {a : Attr} {page : Nat} (errs : List Burst) (h : d.headerCached a page = true) :
    d.fetchHeader a page errs = (true, d) := by
  simp only [Dev.fetchHeader, h, if_true]

/-- A header of a plain or veiled range that judges good is put into the cache. -/
theorem Dev.fetchHeader_plain {d : Dev} {a : Attr} {page : Nat} {errs : List Burst} (hc : d.headerCached a page = false)
    (hp : a.prot ≠ .sealed) (hj : (d.judgeTable (headerLine a.base page) (errs.headD 0)).v.good = true) :
    d.fetchHeader a page errs =
      (true, ((d.readTable (headerLine a.base page) (errs.headD 0) {}).2.ctPut
        { line := headerLine a.base page, data := (d.judgeTable (headerLine a.base page) (errs.headD 0)).data }).ctEvict) := by
  have hlook : (d.ctLook (headerLine a.base page)).isSome = false := hc
  have hread : (d.readTable (headerLine a.base page) (errs.headD 0) {}).1 = d.judgeTable (headerLine a.base page) (errs.headD 0) := rfl
  simp only [Dev.fetchHeader, hc, hp, Dev.fetchPlainHeader, hlook, hread, hj, Bool.false_eq_true, if_false, if_true]

/-! ### First-level entries -/

theorem exec_firstLevelExpiry (buf : Option Link) (ld : Fin 32) (ext : Nat) (s : State) :
    exec (.firstLevelExpiry buf ld ext) s =
      ok (s.dev.flbExpiry (match buf with | some l => linkNum l | none => serviceBuf) ld.val ext) s := rfl

theorem Dev.mem_flbExpiry (d : Dev) (buf ld ext : Nat) (x : Flb) :
    x ∈ (d.flbExpiry buf ld ext).xl.flb.val buf [] ↔
      x ∈ d.xl.flb.val buf [] ∧ ¬ (x.ld = ld ∧ x.ext = ext ∧ x.filled + 4096 ≤ d.clk.bnd) := by
  simp only [Dev.flbExpiry, Tab.val_put_self, List.mem_filter, Bool.not_eq_true', ← Bool.decide_and, decide_eq_false_iff_not, and_assoc]

/-- Settles O15: each end of a walk, a fill, a fetch and an entry's time. -/
theorem walksAndCaches : Obligations.WalksAndCaches := by
  refine ⟨⟨fun s errs w ld ext => ?_, fun s errs w page => ?_⟩, fun s block errs x hx hf hvalid hrecs => ?_, fun s block errs x hx => ?_,
    fun s errs f => ?_, fun s buf ld ext => ?_⟩
  · intro d0 ids r hw ht
    refine ⟨fun e d1 h => ?_, fun f d1 hpre h => ?_, ?_, fun x _ hx hdir => ?_⟩
    · exact completes_ok (exec_tableWalkComplete ..) (congrArg Dev.flow (Dev.walkDone_stage1_ok hw ht h))
    · refine completes_ok (exec_tableWalkComplete ..) (congrArg Dev.flow ?_)
      rw [Dev.walkDone_stage1_error hw ht h, hpre]
      rfl
    · refine settles_ok (exec_tableWalkComplete ..) ?_
      rcases h : d0.walk1 ld ext errs r with ⟨f | e, d1⟩
      · exact Dev.walkDone_stage1_error hw ht h
      · exact Dev.walkDone_stage1_ok hw ht h
    · intro a j v hext
      have hok : (d0.walk1 ld ext errs r).1 = .ok v := Dev.walk1_cached hx hdir hext
      refine settles_ok (exec_tableWalkComplete ..) (Dev.walkDone_stage1_ok hw ht ?_)
      rw [← hok]
      rfl
  · intro d0 ids hw ht
    refine settles_ok (exec_tableWalkComplete ..) ?_
    rcases h : d0.walk2 page errs { label := w.label } with ⟨f | e, d1⟩
    · exact Dev.walkDone_stage2_error hw ht h
    · exact Dev.walkDone_stage2_ok hw ht h
  · have hneed : ((List.range 36).filter fun l => !x.valid.getLsbD l) = [] := by rw [hvalid]; decide
    refine completes_ok (exec_knotBlockFillDone ..) (congrArg Dev.flow ?_)
    rw [Dev.blockFill_filling hx hf, Dev.restFilled_lines hneed, hrecs]
    rfl
  · intro need d1 d2
    refine ⟨fun hf => ?_, fun hf hneed hrecs => ?_, fun hf => ?_⟩
    · refine settles_ok (exec_knotBlockFillDone ..) ⟨Dev.blockFill_filling hx hf, fun y hy => ?_⟩
      rw [Dev.blockFill_filling hx hf, Dev.kslot_stopFilling] at hy
      obtain ⟨z, -, rfl⟩ := Option.map_eq_some_iff.mp hy
      rfl
    · refine settles_ok (exec_knotBlockFillDone ..) ?_
      rw [Dev.blockFill_filling hx hf, Dev.restFilled_lines hneed, if_pos hrecs, Dev.kslot_stopFilling, hx]
      exact ⟨rfl, rfl⟩
    · exact settles_ok (exec_knotBlockFillDone ..) (Dev.blockFill_not_filling hx hf)
  · intro d0 ids hf
    have heq := Dev.fetchDone_eq (errs := errs) hf
    refine ⟨?_, fun hc => ?_, fun hc hp hj => ?_⟩
    · refine completes_ok (exec_counterTreeFetchDone ..) (congrArg Dev.flow (heq.trans ?_))
      show _ = if ((s.dev.fetchOver f.id).fetchHeader f.attr f.page errs).1 then
        ((s.dev.fetchOver f.id).fetchHeader f.attr f.page errs).2.eachReq ids Dev.station
        else ((s.dev.fetchOver f.id).fetchHeader f.attr f.page errs).2.eachReq ids Dev.fail
      rcases (s.dev.fetchOver f.id).fetchHeader f.attr f.page errs with ⟨_ | _, e⟩ <;> rfl
    · refine settles_ok (exec_counterTreeFetchDone ..) (heq.trans ?_)
      rw [show (s.dev.fetchOver f.id).fetchHeader f.attr f.page errs = (true, d0) from Dev.fetchHeader_cached errs hc]
      rfl
    · refine settles_ok (exec_counterTreeFetchDone ..) (heq.trans ?_)
      rw [Dev.fetchHeader_plain (d := s.dev.fetchOver f.id) hc hp hj]
      rfl
  · refine completes_ok (exec_firstLevelExpiry ..) ?_
    have hmem := fun x => Dev.mem_flbExpiry s.dev (match buf with | some l => linkNum l | none => serviceBuf) ld.val ext x
    cases buf <;> exact ⟨fun x hx => ((hmem x).mp hx).2, fun x hx hnew => (hmem x).mpr ⟨hx, hnew⟩⟩

end Sys2Proof.Machine
end

namespace Sys2Proof

open Sys2Proof.Machine

/-- Signals leave the path alone, so that a change of it goes with them. -/
theorem Signals.with_path {d d' : Dev} (h : Signals d d') (p : Regul) : Signals { d with path := p } { d' with path := p } := by
  obtain ⟨ev, lds, out, rfl, hv⟩ := h
  exact ⟨ev, lds, out, rfl, hv⟩

end Sys2Proof

section
/-! The boundary's order (spec/02 R46), and OVERLOAD (spec/02 R72). -/

namespace Sys2Proof.Machine

open Sys2Proof Sys2Proof.Laws

/-! ### The next beat -/

/-- Counting idle slots changes the channels, and what counts. -/
theorem signals_countIdle (d : Dev) (ch sub k : Nat) (b : Bool) : Signals d (d.countIdle ch sub k b) := by
  unfold Dev.countIdle
  extract_lets m
  split
  · exact signals_bump ..
  · split <;> exact signals_bump ..

/-- What neither signals nor a channel's change touch stands through the accounting of the beat's last slots. -/
theorem Dev.closeSlots_keeps {β : Type} (g : Dev → β) (hsig : ∀ d d', Signals d d' → g d' = g d)
    (hchan : ∀ (d : Dev) n f, g (d.modChan n f) = g d) (d : Dev) : g d.closeSlots = g d := by
  have hcount : ∀ (d : Dev) ch sub i, g (d.countTo ch sub i) = g d := fun d ch sub i => by
    unfold Dev.countTo
    exact (hchan ..).trans (hsig _ _ (signals_each _ _ _ fun d k => signals_countIdle ..))
  unfold Dev.closeSlots
  split
  · rfl
  · exact each_keeps _ _ _ g fun d ch => (hcount ..).trans (hcount ..)

theorem Dev.boundary_clocked {d : Dev} (h : d.clocked = true) :
    d.boundary = d.nextBeat.counterStep.commitStep.lossStep.regulatorBoundary.newAllowances.pressureBoundary.c0Recheck.dramBoundary.faultBoundary.intBoundary.jobsBoundary.placeMoves.sendMarkers.flow := by
  simp only [Dev.boundary, h, Bool.not_true, Bool.false_eq_true, if_false]

theorem Dev.boundary_still {d : Dev} (h : d.clocked = false) : d.boundary = d := by
  simp only [Dev.boundary, h, Bool.not_false, if_true]

theorem exec_beatBoundary (s : State) : exec .beatBoundary s = ok s.dev.boundary s := rfl

/-- Settles O16: the end of the beat leaves the clock, the lines and the settings to the boundary, which is its steps in their order. -/
theorem boundaryActionsInOrder : Obligations.BoundaryActionsInOrder := by
  refine ⟨fun s h => completes_ok (exec_beatBoundary s) (Dev.boundary_still h), fun s h => ?_⟩
  have hclk : s.dev.closeSlots.clk = s.dev.clk := Dev.closeSlots_keeps Dev.clk (fun _ _ h => h.clk) (fun _ _ _ => rfl) _
  have hline : s.dev.closeSlots.line = s.dev.line := Dev.closeSlots_keeps Dev.line (fun _ _ h => h.line) (fun _ _ _ => rfl) _
  have hconf : s.dev.closeSlots.conf = s.dev.conf := Dev.closeSlots_keeps Dev.conf (fun _ _ h => h.conf) (fun _ _ _ => rfl) _
  refine ⟨?_, rfl, ?_, hline, hconf, completes_ok (exec_beatBoundary s) (Dev.boundary_clocked h)⟩
  · show s.dev.closeSlots.clk.beat + 1 = _
    rw [hclk]
  · show s.dev.closeSlots.clk.bnd + 1 = _
    rw [hclk]

/-! ### OVERLOAD -/

theorem exec_overload (c : Cls) (g : Fin 64) (s : State) : exec (.overload c g) s = ok (s.dev.overload (clsNum c * 64 + g.val)) s := rfl

/-- The LDs are counted and the record is raised (R72, R417). -/
theorem Dev.overload_declared {d : Dev} {l : Nat} (hrun : 4001 ≤ (d.path.overs.val l {}).run) (hout : (d.path.overs.val l {}).outside = none) :
    ∃ e, Signals d e ∧ d.overload l =
      { e with path := { d.path with overs := d.path.overs.put l { d.path.overs.val l {} with outside := some 0 } } } := by
  unfold Dev.overload
  extract_lets o lds mask e1 e2
  have he : Signals d e2 := (signals_each _ _ _ fun d ld => signals_bumpLd ..).trans (signals_raiseAlways ..)
  refine ⟨e2, he, ?_⟩
  rw [if_neg (by simp [o, hout, hrun])]
  show { e2 with path := { e2.path with overs := e2.path.overs.put l _ } } = _
  rw [he.path]

/-- Settles O17: below 4,001 boundaries, or where a record stands in the way, the step is the identity; else it signals and notes the record. -/
theorem overloadDeclared : Obligations.OverloadDeclared := by
  intro s c g l o
  refine ⟨fun h => ?_, fun hrun hout => ?_⟩
  · refine completes_ok (exec_overload c g s) ?_
    unfold Dev.overload
    exact if_pos (by simpa using h)
  · obtain ⟨e, he, heq⟩ := Dev.overload_declared hrun hout
    refine completes_ok (exec_overload c g s) ?_
    rw [heq]
    exact ⟨by simp [l], he.with_path _, fun m hm => Tab.val_put_ne _ _ _ hm⟩

end Sys2Proof.Machine
end

section
/-! Changes of tables, TABLE.INVAL, DIAG.POKE and write-backs (spec/03 R98, R101 to R105; spec/06 R179). -/

namespace Sys2Proof.Machine

open Sys2Proof Sys2Proof.Laws

theorem exec_changeDrained (id : Nat) (s : State) : exec (.changeDrained id) s = ok (s.dev.changeDrained id).flow s := rfl

theorem exec_tableInval (iss : Issuer) (inp : List Byte) (s : State) :
    exec (.tableInval iss inp) s = ok (s.dev.command iss 0xCE11 fun d => d.tableInval iss inp) s := rfl

theorem exec_diagPoke (iss : Issuer) (inp : List Byte) (s : State) :
    exec (.diagPoke iss inp) s = ok (s.dev.command iss 0xCE10 fun d => d.diagPoke iss inp) s := rfl

theorem exec_counterWritebackCount (n : Nat) (s : State) : exec (.counterWritebackCount n) s = ok (s.dev.writebackCount n) s := rfl

theorem Dev.changeDrained_ends {d : Dev} {c : Change} (hc : d.xl.changes.find? (·.id = c.id) = some c) (happ : c.applied = true)
    (hw : c.waits = []) (hr : d.afterReady c.after = true) :
    d.changeDrained c.id = { d with xl.changes := d.xl.changes.filter (·.id ≠ c.id) }.after c.after := by
  simp [Dev.changeDrained, hc, happ, hw, hr]

/-! ### TABLE.INVAL -/

section
variable (d : Dev) (iss : Issuer) {inp : List Byte} (hlen : inp.length = 16) (hbg : d.bgBusy iss = false) (hrsvd : rsvd inp 2 2 = true)
include hlen hbg hrsvd

theorem Dev.tableInval_all (hscope : field inp 0 1 = 0) (hld : field inp 1 1 = 0) (hcount : field inp 4 4 = 0) (hstart : field inp 8 8 = 0) :
    d.tableInval iss inp = (d.startBg iss 0xCE11).post .all (.inval (issuerBox iss) 0 0) := by
  simp [Dev.tableInval, hlen, hbg, hrsvd, hscope, hld, hcount, hstart]

theorem Dev.tableInval_stage1 (hscope : field inp 0 1 = 1) (hld : field inp 1 1 < 32) (hcount : 0 < field inp 4 4)
    (hstart : field inp 8 8 % mib2 = 0) (hend : field inp 8 8 + field inp 4 4 * mib2 ≤ 2 ^ 44) :
    d.tableInval iss inp =
      (d.startBg iss 0xCE11).post (.stage1 (field inp 1 1) (field inp 8 8 / mib2) (field inp 4 4)) (.inval (issuerBox iss) 0 0) := by
  simp [-Nat.reducePow, Dev.tableInval, hlen, hbg, hrsvd, hscope, Nat.not_lt.mpr (Nat.le_of_lt_succ hld), Nat.ne_of_gt hcount, hstart, Nat.not_lt.mpr hend]

theorem Dev.tableInval_stage2 (hscope : field inp 0 1 = 2) (hld : field inp 1 1 = 0) (hcount : 0 < field inp 4 4)
    (hstart : field inp 8 8 % 512 = 0) (hend : field inp 8 8 + field inp 4 4 * 512 ≤ 2 ^ 32) :
    d.tableInval iss inp =
      (d.startBg iss 0xCE11).post (.stage2 (field inp 8 8 / 512) (field inp 4 4)) (.inval (issuerBox iss) 0 0) := by
  simp [-Nat.reducePow, Dev.tableInval, hlen, hbg, hrsvd, hscope, hld, Nat.ne_of_gt hcount, hstart, Nat.not_lt.mpr hend]

theorem Dev.tableInval_empty (hscope : field inp 0 1 = 1) (hld : field inp 1 1 < 32) (hcount : field inp 4 4 = 0)
    (hstart : field inp 8 8 % mib2 = 0) (hend : field inp 8 8 ≤ 2 ^ 44) : d.tableInval iss inp = d.reply iss .success (zeros 14) true := by
  simp [-Nat.reducePow, Dev.tableInval, hlen, hbg, hrsvd, hscope, Nat.not_lt.mpr (Nat.le_of_lt_succ hld), hcount, hstart, Nat.not_lt.mpr hend]

end

/-! ### DIAG.POKE -/

/-- A poke of a whole 8-byte entry lies in one line. -/
theorem Dev.poke_entry (d : Dev) {addr : Nat} (v : Nat) (halign : addr % 8 = 0) :
    d.poke (addr / 64 * 64) (addr % 64 * 8) 64 v =
      (bits (d.pokeLine (addr / 64)).1.toNat (addr % 64 * 8 + 63) (addr % 64 * 8), (d.pokeLine (addr / 64)).2.1,
        (d.pokeLine (addr / 64)).2.2.writeTable (addr / 64) (lineSetBits (d.pokeLine (addr / 64)).1 (addr % 64 * 8) 64 v)) := by
  have hline : addr / 64 * 64 / 64 + addr % 64 * 8 / 512 = addr / 64 := by omega
  have hoff : addr % 64 * 8 % 512 = addr % 64 * 8 := by omega
  have hfits : addr % 64 * 8 + 64 ≤ 512 := by omega
  simp only [Dev.poke, hline, hoff, if_pos hfits]
  rfl

theorem Dev.pokeLine_good {d : Dev} {n : Nat} (h : (d.readTable n 0 {}).1.v.good = true) :
    d.pokeLine n = ((d.readTable n 0 {}).1.data, false, (d.readTable n 0 {}).2) :=
  if_pos h

theorem Dev.diagPoke_entry (d : Dev) (iss : Issuer) {inp : List Byte} (hlen : inp.length = 24) (hregs : d.conf.regions = [])
    (hlo : 1 ≤ field inp 0 1) (hhi : field inp 0 1 ≤ 4) (hrsvd : rsvd inp 1 3 = true) (hrsvd' : rsvd inp 6 2 = true)
    (hindex : field inp 4 2 = 0) (halign : field inp 8 8 % 8 = 0) (htab : d.inTable (field inp 8 8) 8 = true) :
    d.diagPoke iss inp =
      let p := d.poke (field inp 8 8 / 64 * 64) (field inp 8 8 % 64 * 8) 64 (field inp 16 8)
      p.2.2.reply iss .success ([BitVec.ofNat 8 (flag p.2.1)] ++ zeros 5 ++ leBytes 8 p.1) := by
  have h0 : field inp 0 1 ≠ 0 := by omega
  have h5 : field inp 0 1 ≠ 5 := by omega
  have hgt : ¬ 5 < field inp 0 1 := by omega
  simp [Dev.diagPoke, hlen, hregs, h0, h5, hgt, hrsvd, hrsvd', hindex, halign, htab]

/-- Settles O18: each end of the commands in turn. -/
theorem tableChangesAndPokes : Obligations.TableChangesAndPokes := by
  refine ⟨fun s c hc happ hw hr => settles_ok (exec_changeDrained ..) (Dev.changeDrained_ends hc happ hw hr), fun s iss inp htakes => ?_,
    fun s iss inp htakes => ?_, fun s n x hx => ⟨fun hd hi => ?_, fun h => ?_⟩⟩
  · intro d0 post hlen hbg hrsvd
    have take : ∀ {P : Dev → Prop}, P (d0.tableInval iss inp) → Completes (.tableInval iss inp) s P :=
      completes_of_takes htakes (exec_tableInval iss inp s)
    refine ⟨fun hs hld hc hst => take ?_, fun hs hld hc hst hend => take ?_, fun hs hld hc hst hend => take ?_,
      fun hs hld hc hst hend => take ?_⟩
    · exact Dev.tableInval_all _ _ hlen hbg hrsvd hs hld hc hst
    · exact Dev.tableInval_stage1 _ _ hlen hbg hrsvd hs hld hc hst hend
    · exact Dev.tableInval_stage2 _ _ hlen hbg hrsvd hs hld hc hst hend
    · rw [Dev.tableInval_empty _ _ hlen hbg hrsvd hs hld hc hst hend]
      exact reply_replies ..
  · intro d0 addr r hlen hregs hlo hhi hrsvd hrsvd' hindex halign htab hgood
    refine completes_of_takes htakes (exec_diagPoke iss inp s) ?_
    rw [Dev.diagPoke_entry _ _ hlen hregs hlo hhi hrsvd hrsvd' hindex halign htab, Dev.poke_entry _ _ halign, Dev.pokeLine_good hgood]
    exact reply_replies ..
  · refine completes_ok (exec_counterWritebackCount n s) ?_
    simp [Dev.writebackCount, hx, hd, hi]
  · refine completes_ok (exec_counterWritebackCount n s) ?_
    have hnot : (x.dirty && decide (65535 ≤ x.incs)) = false := by
      rcases h with h | h <;> simp [h]
    simp [Dev.writebackCount, hx, hnot]

end Sys2Proof.Machine
end

section
/-! Prism's line path (spec/05 R142 to R145), promotion (spec/04 R118) and minor overflow (spec/06 R172, R174). -/

namespace Sys2Proof.Machine

open Sys2Proof Sys2Proof.Laws

/-! ### Decodes -/

theorem exec_prismSubblockDecodeDone (id : Nat) (s : State) :
    exec (.prismSubblockDecodeDone id) s = ok (s.dev.decodeDone id).flow s := rfl

section
variable {d : Dev} {c : Decode} (hc : d.prism.decodes.find? (·.id = c.id) = some c)
include hc

theorem Dev.decodeDone_not_next (hnext : d.engineNext c.engine ≠ some c) : d.decodeDone c.id = d := by
  simp only [Dev.decodeDone, hc, hnext, ne_eq, not_false_eq_true, if_true]

theorem Dev.decodeDone_error (hnext : d.engineNext c.engine = some c) (hsub : decodeSub c.img (1024 * (knotClass c.knot + 1)) c.sub = none) :
    d.decodeDone c.id =
      ((((d.dropDecode c.id).bump 0x170).bump 0x172).prismFault c.engine 2 c.page c.sub c.knot).eachReq (d.walkers (.image c.id)) fun d q =>
        d.answer q .poison := by
  simp only [Dev.decodeDone, hc, hnext, hsub, ne_eq, not_true_eq_false, if_false]

theorem Dev.decodeDone_decoded {x : List Byte} (hnext : d.engineNext c.engine = some c)
    (hsub : decodeSub c.img (1024 * (knotClass c.knot + 1)) c.sub = some x) :
    d.decodeDone c.id =
      (if c.stale then (d.dropDecode c.id).bump 0x170 else ((d.dropDecode c.id).bump 0x170).stage
        { engine := c.engine, first := knotBody c.knot, sub := c.sub, data := x }).eachReq (d.walkers (.image c.id)) fun d q =>
          d.answer q (.data (BitVec.ofNat 512 (leNat (slice x (64 * (q.lineIdx % 4)) 64)))) := by
  simp only [Dev.decodeDone, hc, hnext, hsub, ne_eq, not_true_eq_false, if_false]

end

/-- The engine's next is the oldest of the lowest class number: of the greatest distance from class 3. -/
theorem Dev.engineNext_eq (d : Dev) (e : Nat) :
    d.engineNext e = firstMax (fun c : Decode => 3 - c.label.toNat / 64) (d.prism.decodes.filter fun c => c.engine = e && c.ready) := by
  unfold Dev.engineNext firstMax
  congr 1
  funext b c
  cases b with
  | none => rfl
  | some x =>
    have hc : c.label.toNat / 64 ≤ 3 := by have := c.label.isLt; omega
    have hx : x.label.toNat / 64 ≤ 3 := by have := x.label.isLt; omega
    have hiff : c.label.toNat / 64 < x.label.toNat / 64 ↔ 3 - x.label.toNat / 64 < 3 - c.label.toNat / 64 := by omega
    simp only [hiff]

theorem Dev.engineNext_first {d : Dev} {e : Nat} {c : Decode} (h : d.engineNext e = some c) :
    c ∈ d.prism.decodes ∧ c.engine = e ∧ c.ready = true ∧
      ∀ x ∈ d.prism.decodes, x.engine = e → x.ready = true → c.label.toNat / 64 ≤ x.label.toNat / 64 := by
  rw [Dev.engineNext_eq] at h
  have hne : (d.prism.decodes.filter fun c => c.engine = e && c.ready) ≠ [] := fun hnil => by
    rw [hnil] at h
    cases h
  obtain ⟨q, hq, hmax, a, b, hsplit, -⟩ := firstMax_spec (fun c : Decode => 3 - c.label.toNat / 64) hne
  obtain rfl : q = c := Option.some.inj (hq.symm.trans h)
  have hmem : q ∈ d.prism.decodes.filter fun c => c.engine = e && c.ready := by rw [hsplit]; simp
  obtain ⟨hin, hcond⟩ := List.mem_filter.mp hmem
  have hcond' : q.engine = e ∧ q.ready = true := by simpa using hcond
  refine ⟨hin, hcond'.1, hcond'.2, fun x hx hxe hxr => ?_⟩
  have hle : 3 - x.label.toNat / 64 ≤ 3 - q.label.toNat / 64 := hmax x (List.mem_filter.mpr ⟨hx, by simp [hxe, hxr]⟩)
  have := x.label.isLt
  have := q.label.isLt
  omega

/-! ### Promotion -/

theorem exec_promotionDone (n : Fin 32) (s : State) : exec (.promotionDone n) s = ok (s.dev.promotionDone n.val).flow s := rfl

/-- The entry is free, its page's header fetched. -/
def Dev.promoted (d : Dev) (n : Nat) (p : Promo) : Dev :=
  { (d.fetchHeader p.attr p.page []).2 with
    tiers.promo := (d.fetchHeader p.attr p.page []).2.tiers.promo.del n }

/-- The charge goes back to the region of the page. -/
def Dev.returnCharge (d e : Dev) (p : Promo) : Dev :=
  match d.pageRegion p.page with | some k => e.credit k (4 - knotKib p.knot) | none => e

section
variable {d : Dev} {n : Nat} {p : Promo} (hp : d.tiers.promo.look n = some p)
include hp

theorem Dev.promotionDone_failed (hgood : (d.fetchHeader p.attr p.page []).1 = false) :
    d.promotionDone n = ((d.returnCharge (d.promoted n p) p).freeKnot p.dest).eachReq (d.walkers (.promo n)) Dev.fail := by
  simp only [Dev.promotionDone, hp, hgood, Bool.not_false, if_true]
  rfl

theorem Dev.promotionDone_stale (hgood : (d.fetchHeader p.attr p.page []).1 = true)
    (hknot : (d.promoted n p).knotAt (p.attr.base + unitLeaf) (p.page % 512) ≠ p.knot) :
    d.promotionDone n = ((d.returnCharge (d.promoted n p) p).freeKnot p.dest).eachReq (d.walkers (.promo n)) fun d q =>
      d.stage2 { q with waited := true } := by
  unfold Dev.promoted at hknot ⊢
  simp only [Dev.promotionDone, hp, hgood, Bool.not_true, Bool.false_eq_true, if_false, hknot]
  rfl

theorem Dev.promotionDone_moved (hgood : (d.fetchHeader p.attr p.page []).1 = true)
    (hknot : (d.promoted n p).knotAt (p.attr.base + unitLeaf) (p.page % 512) = p.knot) :
    d.promotionDone n =
      ((((((d.promoted n p).placePromotion p ((d.promoted n p).header p.attr.base p.page)).drawDecodes p.knot).changeKnot
        (p.attr.base + unitLeaf) p.page p.knot p.dest).freeKnot p.knot).bump 0x175).eachReq (d.walkers (.promo n)) fun d q =>
          d.stage2 { q with waited := true } := by
  unfold Dev.promoted at hknot ⊢
  simp only [Dev.promotionDone, hp, hgood, Bool.not_true, Bool.false_eq_true, if_false, hknot, if_true]

end

/-! ### Minor overflow -/

theorem exec_minorOverflow (id : Nat) (s : State) : exec (.minorOverflow id) s = ok (s.dev.minorOverflow id).flow s := rfl

section
variable {d : Dev} {w : Wb} (hw : d.line.wb.find? (·.id = w.id) = some w) (hover : d.overflowing w = true)
  (hcached : d.headerCached w.attr w.page = true) (hhead : (d.wbOn w.line).head? = some w) (hbusy : d.wbBusy w.id = false)
include hw hover hcached hhead hbusy

theorem Dev.minorOverflow_placed (hmajor : hdrMajor (d.header w.attr.base w.page) + 1 < 2 ^ 64) :
    d.minorOverflow w.id =
      (d.overflowLines w (d.header w.attr.base w.page)).2.placeOverflow w
        (hdrSetMajor (d.header w.attr.base w.page) (hdrMajor (d.header w.attr.base w.page) + 1))
        (d.overflowLines w (d.header w.attr.base w.page)).1 := by
  simp [-Nat.reducePow, Dev.minorOverflow, hw, hover, hcached, hhead, hbusy, Dev.raiseMajor, hmajor]

theorem Dev.minorOverflow_failed (hmajor : 2 ^ 64 ≤ hdrMajor (d.header w.attr.base w.page) + 1) :
    d.minorOverflow w.id =
      let e := (d.overflowLines w (d.header w.attr.base w.page)).2
      let k := e.keyOf w.attr w.line w.page
      ((e.setKey k { e.key k with st := .failed }).alarm 0x902 4 (headerLine w.attr.base w.page * 64) k 15
        ((e.setKey k { e.key k with st := .failed }).keyLds k)).dropWb w.id := by
  simp [-Nat.reducePow, Dev.minorOverflow, hw, hover, hcached, hhead, hbusy, Dev.raiseMajor, Nat.not_lt.mpr hmajor]

end

/-- Settles O19: each end of a decode, a promotion and a minor overflow. -/
theorem prismDecodesPromotesOverflows : Obligations.PrismDecodesPromotesOverflows := by
  refine ⟨fun s c hc => ⟨fun hnext => ?_, fun hnext => ⟨fun hsub => ?_, fun x hsub => ?_⟩⟩, fun d e c => Dev.engineNext_first,
    fun s n p hp => ⟨fun hgood => ?_, fun hgood hknot => ?_, fun hgood hknot => ?_⟩,
    fun s w hw hover hcached hhead hbusy => ⟨fun hmajor => ?_, fun hmajor => ?_⟩⟩
  · exact settles_ok (exec_prismSubblockDecodeDone ..) (Dev.decodeDone_not_next hc hnext)
  · exact settles_ok (exec_prismSubblockDecodeDone ..) (Dev.decodeDone_error hc hnext hsub)
  · exact settles_ok (exec_prismSubblockDecodeDone ..) (Dev.decodeDone_decoded hc hnext hsub)
  · exact settles_ok (exec_promotionDone ..) (Dev.promotionDone_failed hp hgood)
  · exact settles_ok (exec_promotionDone ..) (Dev.promotionDone_stale hp hgood hknot)
  · exact settles_ok (exec_promotionDone ..) (Dev.promotionDone_moved hp hgood hknot)
  · exact settles_ok (exec_minorOverflow ..) (Dev.minorOverflow_placed hw hover hcached hhead hbusy hmajor)
  · exact settles_ok (exec_minorOverflow ..) (Dev.minorOverflow_failed hw hover hcached hhead hbusy hmajor)

end Sys2Proof.Machine
end

section
/-! The schedulers (spec/07): row disturbance (R212, R213), slots (R205, R206, R418). -/

namespace Sys2Proof.Machine

open Sys2Proof Sys2Proof.Laws

variable {α σ β : Type}

/-! ### Loops that visit each element once -/

/-- A part of the state that one element of a loop's list changes, and no other, in states that the loop keeps to. -/
theorem each_once_of {l : List α} (hl : l.Nodup) {a : α} (ha : a ∈ l) {f : σ → α → σ} (I : σ → Prop) (inv : ∀ s b, I s → I (f s b)) (g : σ → β)
    {v w : β} {s : σ} (hI : I s) (hs : g s = v) (own : ∀ s, I s → g s = v → g (f s a) = w)
    (other : ∀ s, I s → ∀ b ∈ l, b ≠ a → g (f s b) = g s) : g (each l s f) = w := by
  induction l generalizing s with
  | nil => simp at ha
  | cons b l ih =>
    obtain ⟨hb, hl⟩ := List.nodup_cons.mp hl
    show g (each l (f s b) f) = _
    by_cases hab : a = b
    · subst hab
      exact (each_induct (fun t => I t ∧ g t = w) ⟨inv _ _ hI, own s hI hs⟩ fun t c hc ⟨ht, hg⟩ =>
        ⟨inv _ _ ht, (other t ht c (List.mem_cons_of_mem _ hc) (fun h => hb (h ▸ hc))).trans hg⟩).2
    · exact ih hl ((List.mem_cons.mp ha).resolve_left hab) (inv _ _ hI) ((other s hI b (List.mem_cons_self ..) (Ne.symm hab)).trans hs)
        fun s hI c hc => other s hI c (List.mem_cons_of_mem _ hc)

/-- The same of any state. -/
theorem each_once {l : List α} (hl : l.Nodup) {a : α} (ha : a ∈ l) {f : σ → α → σ} (g : σ → β) {v w : β} {s : σ} (hs : g s = v)
    (own : ∀ s, g s = v → g (f s a) = w) (other : ∀ s, ∀ b ∈ l, b ≠ a → g (f s b) = g s) : g (each l s f) = w :=
  each_once_of hl ha (fun _ => True) (fun _ _ _ => trivial) g trivial hs (fun s _ => own s) (fun s _ => other s)

/-- What one element of a loop's list brings about, and no step undoes, stands after the loop. -/
theorem each_establishes {l : List α} {a : α} (ha : a ∈ l) {f : σ → α → σ} (I P : σ → Prop) {s : σ} (hs : I s)
    (inv : ∀ s b, I s → I (f s b)) (own : ∀ s, I s → P (f s a)) (keep : ∀ s b, P s → P (f s b)) : P (each l s f) := by
  induction l generalizing s with
  | nil => simp at ha
  | cons b l ih =>
    show P (each l (f s b) f)
    by_cases hab : a = b
    · subst hab
      exact each_induct P (own s hs) fun t c _ ht => keep t c ht
    · exact ih ((List.mem_cons.mp ha).resolve_left hab) (inv s b hs)

/-! ### Row disturbance -/

theorem exec_rowDisturbanceTrip (ch : Fin 8) (rank : Fin 4) (sub : Fin 2) (bank : Fin 32) (g : Nat) (s : State) :
    exec (.rowDisturbanceTrip ch rank sub bank g) s = ok (s.dev.rowTrip ch.val rank.val sub.val bank.val g) s := rfl

theorem exec_rowCapExpiry (ch : Fin 8) (rank : Fin 4) (sub : Fin 2) (bank : Fin 32) (s : State) :
    exec (.rowCapExpiry ch rank sub bank) s = ok (s.dev.capExpiries ch.val rank.val sub.val bank.val) s := rfl

@[simp] theorem Dev.bank_setBank_self (d : Dev) (k : Nat) (b : Bank) : (d.setBank k b).bank k = b := Tab.val_put_self ..
@[simp] theorem Dev.bank_setBank_ne (d : Dev) {k j : Nat} (b : Bank) (h : j ≠ k) : (d.setBank k b).bank j = d.bank j :=
  Tab.val_put_ne _ _ _ h

theorem bankCh_bankKey (d : Dev) (ch : Fin 8) (rank : Fin 4) (sub : Fin 2) (bank : Fin 32) (row : Nat) :
    bankCh (d.bankKey ch.val rank.val sub.val bank.val row) = ch.val := by
  unfold bankCh Dev.bankKey
  omega

/-- An RFM that nothing holds back: the bank is closed and the row group's counter falls by the threshold (R212). -/
theorem Dev.tryRfm_issued {d : Dev} {k g : Nat} (hrfm : (d.chan (bankCh k)).rfm.contains k = false)
    (hwin : (d.chan (bankCh k)).window = false) (hc0 : d.c0Waits k = false) :
    (d.tryRfm k g).bank k = { d.bank k with opened := none, groups := (d.bank k).groups.put g ((d.bank k).groups.val g 0 - d.setting idRhThreshold 0) } ∧
      ((d.tryRfm k g).chan (bankCh k)).rfm = (d.chan (bankCh k)).rfm ++ [k] := by
  unfold Dev.tryRfm
  extract_lets ch c b d1
  rw [if_neg (by rw [hrfm, hwin, hc0]; decide)]
  generalize hset : d1.setBank k _ = d2
  have hdram : (d2.bump (0x148 + ch)).dram = d2.dram := (signals_bump ..).dram
  constructor
  · rw [Dev.bank, hdram, ← hset]
    exact Tab.val_put_self ..
  · rw [Dev.chan, hdram, ← hset]
    exact congrArg Chan.rfm (Dev.chan_setChan_self ..)

/-- The caps of a bank once a trip has capped a contributor: it holds for RhHold boundaries (R212). -/
def Dev.capsAfter (d : Dev) (b : Bank) (c : Contrib) : List Cap :=
  (b.caps.filter fun x => !(x.who = c.who && x.label = c.label)) ++
    [{ who := c.who, label := c.label, left := d.setting idRhHold 0
       used := ((b.caps.find? fun x => x.who = c.who && x.label = c.label).map (·.used)).getD 0 }]

/-- A trip caps the contributor, signals, and asks for an RFM (R212). -/
theorem Dev.rowTrip_capped {d : Dev} {ch : Fin 8} {rank : Fin 4} {sub : Fin 2} {bank : Fin 32} {g k : Nat} {c : Contrib}
    (hk : d.bankKey ch.val rank.val sub.val bank.val (g * 512) = k)
    (hg : d.setting idRhThreshold 0 ≤ (d.bank k).groups.val g 0) (hdue : (d.chan ch.val).rfmDue = [])
    (htop : topContrib (d.bank k).contrib = some c) :
    ∃ e, Signals (d.setBank k { d.bank k with caps := d.capsAfter (d.bank k) c }) e ∧
      d.rowTrip ch.val rank.val sub.val bank.val g = e.tryRfm k g := by
  unfold Dev.rowTrip
  rw [hk]
  extract_lets src k1 b top caps
  have hcaps : caps = d.capsAfter b c := by simp only [caps, show top = some c from htop]; rfl
  rw [if_neg (by rw [hdue]; simpa using hg), hcaps]
  exact ⟨_, ((signals_bump ..).trans (signals_raiseAt ..)).trans (signals_doorbell ..), rfl⟩

/-- Below the threshold a bank's caps whose boundaries are over go (R213). -/
theorem Dev.capExpiry_low {d : Dev} {k : Nat} (hlow : ∀ g ∈ (d.bank k).groups, g.2 < d.setting idRhThreshold 0) :
    (d.capExpiry k).bank k = { d.bank k with caps := (d.bank k).caps.filter (·.left ≠ 0) } := by
  have hdue : ((d.bank k).groups.any fun g => d.setting idRhThreshold 0 ≤ g.2) = false := by
    simpa [List.any_eq_false] using hlow
  simp [Dev.capExpiry, hdue]

/-- Settles O20: a trip is a change of the bank's caps, signals, and an RFM that nothing holds back; the caps of each die's bank expire
on their own. -/
theorem rowDisturbanceDefence : Obligations.RowDisturbanceDefence := by
  intro s ch rank sub bank
  refine ⟨?_, ?_⟩
  · intro g c k hg hthr hdue hwin hrfm hc0 htop
    obtain ⟨e, hsig, heq⟩ := Dev.rowTrip_capped rfl hthr hdue htop
    have hch : bankCh k = ch.val := bankCh_bankKey ..
    have hchan : ∀ n, e.chan n = s.dev.chan n := fun n => by rw [Dev.chan, hsig.dram]; rfl
    have hbank : e.bank k = { s.dev.bank k with caps := s.dev.capsAfter (s.dev.bank k) c } := by rw [Dev.bank, hsig.dram]; exact Tab.val_put_self ..
    have hset : ∀ n i, e.setting n i = s.dev.setting n i := fun n i => by rw [Dev.setting, hsig.conf]; rfl
    have hwaits : e.c0Waits k = false := by
      rw [← hc0]; unfold Dev.c0Waits Dev.bankKey Dev.dieRows; rw [hsig.dram]; rfl
    obtain ⟨hb, hr⟩ := Dev.tryRfm_issued (d := e) (k := k) (g := g) (by rw [hch, hchan]; exact hrfm) (by rw [hch, hchan]; exact hwin) hwaits
    refine completes_ok (exec_rowDisturbanceTrip ..) ?_
    rw [heq]
    rw [hch, hchan] at hr
    refine ⟨?_, hr, ?_⟩
    · rw [hb, hbank, hset]
      exact Tab.val_put_self ..
    · rw [hb, hbank]
      exact ⟨_, List.mem_append_right _ (List.mem_singleton_self _), rfl, rfl, rfl⟩
  · intro hlow
    refine completes_ok (exec_rowCapExpiry ..) fun chip hchip => ?_
    intro k
    have hpart : (fun d : Dev => (d.bank k, d.conf)) (s.dev.capExpiries ch.val rank.val sub.val bank.val) =
        ({ s.dev.bank k with caps := (s.dev.bank k).caps.filter (·.left ≠ 0) }, s.dev.conf) :=
      each_once List.nodup_range (List.mem_range.mpr hchip) (fun d : Dev => (d.bank k, d.conf)) rfl
        (fun d hd => by
          obtain ⟨hb, hc⟩ := Prod.mk.inj hd
          have hset : d.setting idRhThreshold 0 = s.dev.setting idRhThreshold 0 := by rw [Dev.setting, hc]; rfl
          refine Prod.ext ?_ hc
          show (d.capExpiry k).bank k = _
          rw [Dev.capExpiry_low (by rw [hb, hset]; exact hlow chip hchip), hb])
        (fun d c _ hne => Prod.ext (Dev.bank_setBank_ne _ _ (by simp only [k]; omega)) rfl)
    have hbank : (s.dev.capExpiries ch.val rank.val sub.val bank.val).bank k = _ := congrArg Prod.fst hpart
    rw [hbank]
    exact ⟨rfl, rfl⟩

/-! ### Slots -/

theorem exec_dramSlotFill (ch : Fin 8) (sub : Fin 2) (i : Nat) (l : List (Nat × Bool)) (turn : Bool) (s : State) :
    exec (.dramSlotFill ch sub i l turn) s = ok ((s.dev.fromBuffer ch.val).slotFill ch.val sub.val i l turn).flow s := rfl

/-- With no row under repair nothing is served from the row holding buffer (R217). -/
theorem Dev.fromBuffer_of_ppr_nil {d : Dev} {ch : Nat} (h : (d.chan ch).ppr = []) : d.fromBuffer ch = d := by
  have hnone : ∀ (mine : Acc → Bool) (f : Dev → Acc → Dev), (∀ a, mine a = false) → each (d.dram.accs.filter mine) d f = d := fun mine f hm => by
    rw [List.filter_eq_nil_iff.mpr fun a _ => by simp [hm a]]
    rfl
  unfold Dev.fromBuffer
  rw [h]
  exact hnone _ _ fun a => by simp

/-- Slot i of a subchannel has come up, and the slots before it are accounted (R418). -/
def Dev.slotUp (d : Dev) (ch sub i : Nat) : Dev := (d.countTo ch sub i).modChan ch fun c => { c with slot := c.slot.put sub (i + 1) }

theorem Dev.countTo_plan (d : Dev) (ch sub i : Nat) : ((d.countTo ch sub i).chan ch).plan = (d.chan ch).plan := by
  unfold Dev.countTo
  extract_lets from_ e
  have he : e.dram = d.dram := (signals_each _ _ _ fun d k => signals_countIdle ..).dram
  rw [Dev.chan_modChan_self, Dev.chan, he]
  rfl

theorem Dev.slotUp_plan (d : Dev) (ch sub i : Nat) : ((d.slotUp ch sub i).chan ch).plan = (d.chan ch).plan := by
  rw [Dev.slotUp, Dev.chan_modChan_self]
  exact Dev.countTo_plan ..

section
variable {d : Dev} {ch sub i : Nat} {l : List (Nat × Bool)} {turn : Bool}
  (hi : i < d.dram.slots) (hslot : (d.chan ch).slot.val sub 0 ≤ i) (hself : d.dram.selfRefresh = false)
include hi hslot hself

/-- A slot that the window, maintenance or a turnaround takes is wasted (R418). -/
theorem Dev.slotFill_taken
    (htaken : (d.chan ch).plan.getD i .unmarked = .blocked ∨ (d.chan ch).plan.getD i .unmarked = .maint ∨ turn = true) :
    d.slotFill ch sub i l turn = (d.slotUp ch sub i).bump (evSlot ch sub 1) := by
  have hplan : ((d.slotUp ch sub i).chan ch).plan = (d.chan ch).plan := Dev.slotUp_plan ..
  unfold Dev.slotFill
  rw [if_neg (by rw [hself]; simpa using ⟨hi, hslot⟩)]
  extract_lets d0 m
  have hm : (decide (m = .blocked) || decide (m = .maint) || turn) = true := by
    simpa [m, show (d0.chan ch).plan = _ from hplan, or_assoc] using htaken
  rw [if_pos hm]
  exact if_pos hm

/-- A free slot goes as the order of R205 picks. -/
theorem Dev.slotFill_open {o : Option (Acc × Bool)}
    (hm : (d.chan ch).plan.getD i .unmarked = .unmarked ∨ (d.chan ch).plan.getD i .unmarked = .c0) :
    let d0 := d.slotUp ch sub i
    let can := d0.eligible ch sub l
    let mode := d0.writeMode ch sub can
    let d1 := d0.modChan ch fun c => { c with writeMode := c.writeMode.put sub mode }
    pickFill ((d.chan ch).plan.getD i .unmarked = .c0) (can.filter fun e => e.1.isWrite = decide (mode ≠ 0)) = o →
    d.slotFill ch sub i l false = match o with
      | none => d1.bump (evSlot ch sub (if (d0.subQueue ch sub).isEmpty then 2 else 3))
      | some (a, hit) =>
        ((if a.isWrite then d1.modChan ch fun c => { c with writeMode := c.writeMode.put sub (mode + 1) } else d1).issueAcc a hit).heldRfms ch := by
  intro d0 can mode d1 hpick
  have hplan : (d0.chan ch).plan = (d.chan ch).plan := Dev.slotUp_plan ..
  have hfree : ¬ ((decide ((d.chan ch).plan.getD i .unmarked = .blocked) || decide ((d.chan ch).plan.getD i .unmarked = .maint) || false) = true) := by
    rcases hm with h | h <;> rw [h] <;> decide
  have hmode : (can.filter fun e => decide ((e.1.isWrite = true) = (mode ≠ 0))) = can.filter fun e => e.1.isWrite = decide (mode ≠ 0) :=
    List.filter_congr fun e _ => by cases e.1.isWrite <;> simp
  unfold Dev.slotFill
  rw [if_neg (by rw [hself]; simpa using ⟨hi, hslot⟩)]
  change (if (decide ((d0.chan ch).plan.getD i .unmarked = .blocked) || decide ((d0.chan ch).plan.getD i .unmarked = .maint) || false) = true then _
    else match pickFill ((d0.chan ch).plan.getD i .unmarked = .c0) (can.filter fun e => decide ((e.1.isWrite = true) = (mode ≠ 0))) with
      | none => d1.countIdle ch sub i false
      | some (a, hit) => _) = _
  rw [hplan, if_neg hfree, hmode, hpick]
  cases o with
  | some p => rfl
  | none =>
    have hplan1 : (d1.chan ch).plan = (d.chan ch).plan := by rw [← hplan, show d1.chan ch = _ from Dev.chan_modChan_self ..]
    show d1.countIdle ch sub i false = d1.bump _
    rw [Dev.countIdle, hplan1, if_neg hfree, show d1.subQueue ch sub = d0.subQueue ch sub from rfl]
    split <;> rfl

end

/-- Settles O21: by the plan's mark of the slot, and by what the order picks. -/
theorem slotCarriesThePick : Obligations.SlotCarriesThePick := by
  intro s ch sub i l b d0 can m mode d1 pick
  refine ⟨Dev.fromBuffer_of_ppr_nil, fun hi hslot hself => ?_⟩
  have hopen : ∀ o, (m = .unmarked ∨ m = .c0) → pick = o → _ := fun o hm hpick => Dev.slotFill_open (l := l) hi hslot hself hm hpick
  refine ⟨fun hm hmode a hit hpick hread => ?_, fun a hit hm hpick => ?_, fun hm hpick => ?_, fun hm turn => ?_, ?_⟩
  · have hp : pick = some (a, hit) := by
      rw [← hpick]
      simp only [pick, hm, show mode = 0 from hmode]
      rfl
    refine settles_ok (exec_dramSlotFill ..) ((hopen _ (.inl hm) hp).trans ?_)
    show ((if a.isWrite = true then _ else d1).issueAcc a hit).heldRfms ch.val = _
    rw [if_neg (by simp [hread])]
    simp only [d1, show mode = 0 from hmode]
  · exact settles_ok (exec_dramSlotFill ..) (hopen _ hm hpick)
  · exact settles_ok (exec_dramSlotFill ..) (hopen _ hm hpick)
  · refine settles_ok (exec_dramSlotFill ..) (Dev.slotFill_taken hi hslot hself ?_)
    exact hm.imp_right .inl
  · exact settles_ok (exec_dramSlotFill ..) (Dev.slotFill_taken hi hslot hself (.inr (.inr rfl)))

/-! ### The order of R205 -/

/-- Group of an access in the order of R205: C0, promoted, then C1 to C3. -/
def fillGroup (a : Acc) : Nat := if a.cls = 0 then 0 else if a.promoted then 1 else a.cls + 1

theorem fillGroup_le_of_fillKey_le {x y : Acc × Bool} (hx : x.1.admitBnd < 2 ^ 64) (hy : y.1.admitBnd < 2 ^ 64)
    (h : fillKey x ≤ fillKey y) : fillGroup x.1 ≤ fillGroup y.1 := by
  have hkey : ∀ e : Acc × Bool, e.1.admitBnd < 2 ^ 64 → fillGroup e.1 * 2 ^ 68 ≤ fillKey e ∧ fillKey e < (fillGroup e.1 + 1) * 2 ^ 68 := by
    intro e he
    have hstep : (if (decide (e.1.cls = 1) && !e.1.promoted) = true then 7 - e.1.step else 0) ≤ 7 := by split <;> omega
    have hmiss : (if fillGroup e.1 < 2 then 0 else flag (!e.2)) ≤ 1 := by
      split
      · omega
      · cases e.2 <;> decide
    have heq : fillKey e = ((fillGroup e.1 * 8 + if (decide (e.1.cls = 1) && !e.1.promoted) = true then 7 - e.1.step else 0) * 2 ^ 64 + e.1.admitBnd) * 2 +
        if fillGroup e.1 < 2 then 0 else flag (!e.2) := rfl
    omega
  have := hkey x hx
  have := hkey y hy
  omega

theorem fillGroup_eq_zero {a : Acc} : fillGroup a = 0 ↔ a.cls = 0 := by
  unfold fillGroup
  split
  · simp_all
  · split <;> simp_all

/-- The first of the lowest keys, where one stands already. -/
def firstBestFrom (z : Acc × Bool) (l : List (Acc × Bool)) : Acc × Bool := l.foldl (fun x e => if fillKey e < fillKey x then e else x) z

theorem firstBest_cons (z : Acc × Bool) (l : List (Acc × Bool)) : firstBest (z :: l) = some (firstBestFrom z l) := by
  unfold firstBest firstBestFrom
  rw [List.foldl_cons]
  show l.foldl _ (some z) = _
  induction l generalizing z with
  | nil => rfl
  | cons y l ih =>
    rw [List.foldl_cons, List.foldl_cons, ← ih]
    show List.foldl _ (if fillKey y < fillKey z then some y else some z) l = _
    split <;> rfl

theorem firstBestFrom_spec (z : Acc × Bool) (l : List (Acc × Bool)) :
    firstBestFrom z l ∈ z :: l ∧ ∀ x ∈ z :: l, fillKey (firstBestFrom z l) ≤ fillKey x := by
  induction l generalizing z with
  | nil => exact ⟨List.mem_singleton_self _, fun x hx => by rw [List.mem_singleton.mp hx]; exact Nat.le_refl _⟩
  | cons y l ih =>
    have hstep : firstBestFrom z (y :: l) = firstBestFrom (if fillKey y < fillKey z then y else z) l := rfl
    obtain ⟨hmem, hle⟩ := ih (if fillKey y < fillKey z then y else z)
    have hhead := hle _ (List.mem_cons_self ..)
    rw [hstep]
    refine ⟨?_, fun x hx => ?_⟩
    · rcases List.mem_cons.mp hmem with h | h
      · rw [h]; split <;> simp
      · exact List.mem_cons_of_mem _ (List.mem_cons_of_mem _ h)
    · have hmin : fillKey (if fillKey y < fillKey z then y else z) ≤ fillKey y ∧ fillKey (if fillKey y < fillKey z then y else z) ≤ fillKey z := by
        split <;> omega
      rcases List.mem_cons.mp hx with rfl | hx
      · omega
      rcases List.mem_cons.mp hx with rfl | hx
      · omega
      · exact hle x (List.mem_cons_of_mem _ hx)

/-- The first of the lowest keys is of the list, and no key is lower. -/
theorem firstBest_spec {l : List (Acc × Bool)} {e : Acc × Bool} (h : firstBest l = some e) : e ∈ l ∧ ∀ x ∈ l, fillKey e ≤ fillKey x := by
  cases l with
  | nil => cases h
  | cons z l =>
    rw [firstBest_cons] at h
    cases h
    exact firstBestFrom_spec z l

theorem firstBest_none {l : List (Acc × Bool)} (h : firstBest l = none) : l = [] := by
  cases l with
  | nil => rfl
  | cons z l => rw [firstBest_cons] at h; cases h

/-- Settles O22: the lowest key lies in the lowest group. -/
theorem fillOrder : Obligations.FillOrder := by
  intro l a hit reserved hbnd hpick
  have hlow : ∀ l' : List (Acc × Bool), (∀ x ∈ l', x ∈ l) → firstBest l' = some (a, hit) →
      (a, hit) ∈ l' ∧ ∀ x ∈ l', fillGroup a ≤ fillGroup x.1 := fun l' hsub h => by
    obtain ⟨hmem, hle⟩ := firstBest_spec h
    exact ⟨hmem, fun x hx => fillGroup_le_of_fillKey_le (hbnd _ (hsub _ hmem)) (hbnd _ (hsub _ hx)) (hle x hx)⟩
  cases reserved with
  | false =>
    obtain ⟨hmem, hle⟩ := hlow l (fun _ h => h) hpick
    refine ⟨hmem, fun _ ⟨x, hx, hcls⟩ => ?_, fun _ hnone ⟨x, hx, hprom⟩ => ?_, by simp, by simp⟩
    · have := hle x hx
      rw [fillGroup_eq_zero.mpr hcls] at this
      exact fillGroup_eq_zero.mp (by omega)
    · have hle := hle x hx
      have hcls : a.cls ≠ 0 := hnone _ hmem
      refine Decidable.byContradiction fun hp => ?_
      rw [fillGroup, if_neg hcls, if_neg hp, fillGroup, if_neg (hnone x hx), if_pos hprom] at hle
      omega
  | true =>
    have hread : ∀ e : Acc × Bool, (decide (e.1.cls = 0) && !e.1.isWrite) = true ↔ e.1.cls = 0 ∧ e.1.isWrite = false := by simp
    unfold pickFill at hpick
    rw [if_pos rfl] at hpick
    split at hpick
    next e he =>
      cases hpick
      obtain ⟨hmem, -⟩ := hlow _ (fun x hx => (List.mem_filter.mp hx).1) he
      obtain ⟨hmem, hp⟩ := List.mem_filter.mp hmem
      have ha := (hread _).mp hp
      exact ⟨hmem, by simp, by simp, fun _ h => by simp [ha.2] at h, fun _ _ => ha⟩
    next hnone =>
      obtain ⟨hmem, -⟩ := hlow _ (fun x hx => (List.mem_filter.mp hx).1) hpick
      obtain ⟨hmem, hcls⟩ := List.mem_filter.mp hmem
      have hcls : a.cls ≠ 0 := by simpa using hcls
      refine ⟨hmem, by simp, by simp, fun _ h => hcls h.1, fun _ ⟨x, hx, hp⟩ => ?_⟩
      have hx : x ∈ l.filter fun e => decide (e.1.cls = 0) && !e.1.isWrite := List.mem_filter.mpr ⟨hx, (hread x).mpr hp⟩
      rw [firstBest_none hnone] at hx
      cases hx

end Sys2Proof.Machine
end

section
/-! Data that returns (R163), patrol scrub (R216), refresh (R208 to R210) and drift (R215). -/

namespace Sys2Proof.Machine

open Sys2Proof Sys2Proof.Laws

theorem exec_dramReadDataReturn (acc : Nat) (err : Burst) (s : State) :
    exec (.dramReadDataReturn acc err) s = ok (s.dev.dataReturn acc err).flow s := rfl
theorem exec_patrolScrubRead (s : State) : exec .patrolScrubRead s = ok s.dev.scrubRead s := rfl
theorem exec_scrubLate (s : State) : exec .scrubLate s = ok s.dev.scrubTooLate s := rfl

/-! ### Data that returns -/

section
variable {d : Dev} {a : Acc} {err : Burst} (ha : d.dram.accs.find? (fun x => x.id = a.id && x.issued) = some a)
include ha

theorem Dev.dataReturn_read {q : Req} (hk : a.kind = .read q.id) (hq : d.req q.id = some q) (hscrub : q.scrub = none) :
    d.dataReturn a.id err = (d.dropAcc a.id).returnRead q a.copy false err := by
  unfold Dev.dataReturn
  rw [ha]
  dsimp only
  rw [hk]
  dsimp only
  rw [show (d.dropAcc a.id).req q.id = some q from hq]
  exact if_neg (by simp [hscrub])

theorem Dev.dataReturn_merge {w : Wb} (hk : a.kind = .merge w.id) (hw : d.line.wb.find? (·.id = w.id) = some w) :
    d.dataReturn a.id err = (d.dropAcc a.id).returnMerge w a.copy err := by
  unfold Dev.dataReturn
  rw [ha]
  dsimp only
  rw [hk]
  dsimp only
  rw [show (d.dropAcc a.id).line.wb.find? _ = some w from hw]

theorem Dev.dataReturn_image {c i : Nat} (hk : a.kind = .image c i) : d.dataReturn a.id err = (d.dropAcc a.id).returnImage c i err := by
  unfold Dev.dataReturn
  rw [ha]
  dsimp only
  rw [hk]

theorem Dev.dataReturn_scrub (hk : a.kind = .scrub) : d.dataReturn a.id err = (d.dropAcc a.id).scrubReturn a err := by
  unfold Dev.dataReturn
  rw [ha]
  dsimp only
  rw [hk]

end

/-! ### Patrol scrub -/

theorem Dev.useChannel_eq (d : Dev) (label : Label) (ch : Nat) : ∃ c2, d.useChannel label ch = { d with path.c2 := c2 } := by
  unfold Dev.useChannel
  split
  · extract_lets g c
    split
    · exact ⟨_, rfl⟩
    · exact ⟨_, rfl⟩
  · exact ⟨_, rfl⟩

@[simp] theorem Dev.addAcc_dram (d : Dev) (a : Acc) : (d.addAcc a).dram = { d.dram with accs := d.dram.accs ++ [a] } := by
  obtain ⟨c2, h⟩ := Dev.useChannel_eq { d with dram.accs := d.dram.accs ++ [a] } a.label a.ch
  rw [Dev.addAcc, h]

@[simp] theorem Dev.addAcc_line (d : Dev) (a : Acc) : (d.addAcc a).line = d.line := by
  obtain ⟨c2, h⟩ := Dev.useChannel_eq { d with dram.accs := d.dram.accs ++ [a] } a.label a.ch
  rw [Dev.addAcc, h]

/-- The scrub's access to a line (R216). -/
def Dev.scrubAcc (d : Dev) (h : Nat) : Acc :=
  let p := placeOf (h / 4 % 8) (max 1 d.dram.lines) (h / 32 * 4 + h % 4)
  { id := d.fresh.1, kind := .scrub, line := h, ch := h / 4 % 8, rank := p.rank, sub := p.sub, bank := p.bank, row := p.row
    label := 0xC2, who := 64, admitBnd := d.clk.bnd }

section
variable {d : Dev} (hhours : d.setting idScrubHours 0 ≠ 0) (hquiet : d.power.quiet = false) (hgate : d.path.gate = true)
  (hformed : d.dram.formed = true) (hself : d.dram.selfRefresh = false) (hpos : d.dram.scrubPos + 1 < d.scrubTotal)
include hhours hquiet hgate hformed hself hpos

theorem Dev.scrubRead_passes (hplace : d.scrubPlace d.dram.scrubPos = none) : d.scrubRead = { d with dram.scrubPos := d.dram.scrubPos + 1 } := by
  have hin : ¬ d.scrubTotal ≤ d.dram.scrubPos := by omega
  have hlast : ¬ d.dram.scrubPos + 1 = d.scrubTotal := by omega
  unfold Dev.scrubRead
  extract_lets hours d1 pos next
  have hd1 : d1 = d := if_neg (by simp [hin])
  rw [if_neg (by simp [hours, hhours, hquiet, hgate, hformed, hself])]
  simp only [pos, hd1, if_neg hin, hplace, next]
  exact if_neg hlast

theorem Dev.scrubRead_reads {h : Nat} (hplace : d.scrubPlace d.dram.scrubPos = some h) (hskip : d.scrubSkips h = false)
    (hroom : d.schedRoom (h / 4 % 8) 3 = true) :
    d.scrubRead = { d.fresh.2.addAcc (d.scrubAcc h) with dram.scrubPos := d.dram.scrubPos + 1 } := by
  have hin : ¬ d.scrubTotal ≤ d.dram.scrubPos := by omega
  have hlast : ¬ d.dram.scrubPos + 1 = d.scrubTotal := by omega
  have htotal : ({ d.fresh.2.addAcc (d.scrubAcc h) with dram.scrubPos := d.dram.scrubPos + 1 } : Dev).scrubTotal = d.scrubTotal := by
    simp only [Dev.scrubTotal, Dev.addAcc_dram]
    rfl
  unfold Dev.scrubRead
  extract_lets hours d1 pos next
  have hd1 : d1 = d := if_neg (by simp [hin])
  have hnext : next (d.fresh.2.addAcc (d.scrubAcc h)) = { d.fresh.2.addAcc (d.scrubAcc h) with dram.scrubPos := d.dram.scrubPos + 1 } := by
    simp only [next, pos, hd1]
    exact if_neg (by rw [htotal]; exact hlast)
  rw [if_neg (by simp [hours, hhours, hquiet, hgate, hformed, hself])]
  simp only [pos, hd1, if_neg hin, hplace, hskip, hroom]
  exact hnext

end

/-- Settles O23: by the kind of the access whose data returns, and by the place of the pass. -/
theorem readsAndScrub : Obligations.ReadsAndScrub := by
  refine ⟨fun s a err q ha hk hq hscrub => ?_, fun s a err ha => ⟨fun w hk hw => ?_, fun c i hk => ?_, fun hk => ?_⟩, ?_, ?_, ?_⟩
  · exact settles_ok (exec_dramReadDataReturn ..) (Dev.dataReturn_read ha hk hq hscrub)
  · exact settles_ok (exec_dramReadDataReturn ..) (Dev.dataReturn_merge ha hk hw)
  · exact settles_ok (exec_dramReadDataReturn ..) (Dev.dataReturn_image ha hk)
  · exact settles_ok (exec_dramReadDataReturn ..) (Dev.dataReturn_scrub ha hk)
  · intro s hhours hquiet hgate hformed hself hpos hplace
    exact completes_ok (exec_patrolScrubRead ..) (Dev.scrubRead_passes hhours hquiet hgate hformed hself hpos hplace)
  · intro s h hhours hquiet hgate hformed hself hpos hplace hskip hroom
    refine completes_ok (exec_patrolScrubRead ..) ?_
    rw [Dev.scrubRead_reads hhours hquiet hgate hformed hself hpos hplace hskip hroom]
    refine ⟨rfl, Dev.addAcc_line .., s.dev.scrubAcc h, ?_, rfl, rfl, rfl, rfl⟩
    show s.dev.scrubAcc h ∈ (s.dev.fresh.2.addAcc (s.dev.scrubAcc h)).dram.accs
    rw [Dev.addAcc_dram]
    exact List.mem_append_right _ (List.mem_singleton_self _)
  · intro s hhours hformed hpos hlate hdue
    refine completes_ok (exec_scrubLate ..) ?_
    have heq : s.dev.scrubTooLate = ({ s.dev with dram.scrubLate := true } : Dev).raise 0x108 .warning none s.dev.dram.scrubFrom.1.toNat :=
      if_pos (by simp [hhours, hformed, hpos, hlate, hdue])
    rw [heq]
    exact ⟨(signals_raise ..).dram, rfl⟩

/-! ### Refresh -/

theorem exec_refreshWindowStart (half : Bool) (s : State) : exec (.refreshWindowStart half) s = ok (s.dev.windowStart half) s := rfl
theorem exec_refreshWindowEnd (ch : Fin 8) (s : State) :
    exec (.refreshWindowEnd ch) s = ok ((s.dev.modChan ch.val fun c => { c with window := false }).heldRfms ch.val).flow s := rfl
theorem exec_moduleThermalRead (t : List Nat) (s : State) : exec (.moduleThermalRead t) s = ok (s.dev.thermalRead t) s := rfl
theorem exec_driftCheck (readings : List Nat) (s : State) : exec (.driftCheck readings) s = ok (s.dev.driftCheck readings) s := rfl

/-- The banks of a channel. -/
def Dev.banksOf (d : Dev) (ch : Nat) : Tab Bank := d.dram.banks.filter fun e => bankCh e.1 = ch

/-- A bank closed for its channel's refresh, its counts halved (R209, R211). -/
def halved (b : Bank) : Bank :=
  { b with opened := none, groups := b.groups.map fun g => (g.1, g.2 / 2), contrib := b.contrib.map fun c => { c with count := c.count / 2 } }

theorem Dev.banksOf_halveBanks_self (d : Dev) (ch : Nat) : (d.halveBanks ch).banksOf ch = (d.banksOf ch).map fun e => (e.1, halved e.2) := by
  show ((d.dram.banks.map fun e => if bankCh e.1 = ch then (e.1, halved e.2) else e).filter fun e => bankCh e.1 = ch) =
    (d.dram.banks.filter fun e => bankCh e.1 = ch).map _
  induction d.dram.banks with
  | nil => rfl
  | cons e l ih => by_cases h : bankCh e.1 = ch <;> simp [h, ih]

theorem Dev.banksOf_halveBanks_ne (d : Dev) {ch c : Nat} (h : c ≠ ch) : (d.halveBanks c).banksOf ch = d.banksOf ch := by
  show ((d.dram.banks.map fun e => if bankCh e.1 = c then (e.1, halved e.2) else e).filter fun e => bankCh e.1 = ch) =
    d.dram.banks.filter fun e => bankCh e.1 = ch
  induction d.dram.banks with
  | nil => rfl
  | cons e l ih =>
    by_cases hc : bankCh e.1 = c
    · simp [hc, h, ih]
    · rw [List.map_cons, if_neg hc, List.filter_cons, List.filter_cons, ih]

/-- A channel's window begins (R209). -/
def Dev.openWindow (d : Dev) (ch : Nat) : Dev :=
  if (d.chan ch).window then d
  else (d.halveBanks ch).modChan ch fun c => { c with window := true, staged := [], delay := each c.staged c.delay fun t e => t.put e.1 e.2 }

theorem Dev.openWindow_closed {d : Dev} {ch : Nat} (h : (d.chan ch).window = false) :
    d.openWindow ch =
      (d.halveBanks ch).modChan ch fun c => { c with window := true, staged := [], delay := each c.staged c.delay fun t e => t.put e.1 e.2 } :=
  if_neg (by simp [h])

theorem Dev.openWindow_open {d : Dev} {ch : Nat} (h : (d.chan ch).window = true) : d.openWindow ch = d := if_pos h

theorem Dev.windowStart_at {d : Dev} {half : Bool} (hphase : d.dram.phase = if half then d.refreshOff else 0)
    (hself : d.dram.selfRefresh = false) (hformed : d.dram.formed = true) : d.windowStart half = each (halfChans half) d Dev.openWindow :=
  if_neg (by simp [hphase, hself, hformed])

/-- A channel of the half has its window, its banks closed where the window begins. -/
theorem Dev.openWindows_spec (d : Dev) {half : Bool} {ch : Nat} (hch : ch ∈ halfChans half) :
    let e := each (halfChans half) d Dev.openWindow
    (e.chan ch).window = true ∧
      e.banksOf ch = if (d.chan ch).window then d.banksOf ch else (d.banksOf ch).map fun e => (e.1, halved e.2) := by
  refine Prod.mk.inj (each_once (by cases half <;> decide) hch (fun d : Dev => ((d.chan ch).window, d.banksOf ch)) rfl ?_ ?_)
  · intro e he
    obtain ⟨hw, hb⟩ := Prod.mk.inj he
    cases hwin : (d.chan ch).window with
    | true => rw [Dev.openWindow_open (hw.trans hwin)]; exact Prod.ext (hw.trans hwin) hb
    | false =>
      rw [Dev.openWindow_closed (hw.trans hwin)]
      refine Prod.ext (congrArg Chan.window (Dev.chan_modChan_self ..)) ?_
      show (e.halveBanks ch).banksOf ch = _
      rw [Dev.banksOf_halveBanks_self, hb]
      rfl
  · intro e c _ hne
    cases hwin : (e.chan c).window with
    | true => rw [Dev.openWindow_open hwin]
    | false =>
      rw [Dev.openWindow_closed hwin]
      exact Prod.ext (congrArg Chan.window (Dev.chan_modChan_ne _ _ _ _ (Ne.symm hne))) (Dev.banksOf_halveBanks_ne e hne)

/-- An RFM changes what its channel knows of RFMs, and banks. -/
theorem Dev.tryRfm_chan (d : Dev) (k g c : Nat) :
    (∃ rfm due, (d.tryRfm k g).chan c = { d.chan c with rfm := rfm, rfmDue := due }) ∧ (d.tryRfm k g).dram.repairs = d.dram.repairs := by
  have hset : ∀ (n : Nat) (x : Chan), (∃ rfm due, x = { d.chan n with rfm := rfm, rfmDue := due }) →
      ∃ rfm due, (d.setChan n x).chan c = { d.chan c with rfm := rfm, rfmDue := due } := fun n x h => by
    by_cases hc : c = n
    · rw [hc, Dev.chan_setChan_self]
      exact h
    · rw [Dev.chan_setChan_ne _ _ _ _ hc]
      exact ⟨_, _, rfl⟩
  unfold Dev.tryRfm
  extract_lets ch x b d1
  split
  · split
    · exact ⟨⟨_, _, rfl⟩, rfl⟩
    · exact ⟨hset _ _ ⟨_, _, rfl⟩, rfl⟩
  · rw [Dev.chan, (signals_bump ..).dram]
    exact ⟨hset _ _ ⟨_, _, rfl⟩, rfl⟩

theorem Dev.heldRfms_chan (d : Dev) (ch c : Nat) :
    (∃ rfm due, (d.heldRfms ch).chan c = { d.chan c with rfm := rfm, rfmDue := due }) ∧ (d.heldRfms ch).dram.repairs = d.dram.repairs := by
  refine each_induct (fun e : Dev => (∃ rfm due, e.chan c = { d.chan c with rfm := rfm, rfmDue := due }) ∧ e.dram.repairs = d.dram.repairs)
    ⟨⟨_, _, rfl⟩, rfl⟩ fun e x _ ⟨⟨rfm, due, h⟩, hrep⟩ => ?_
  obtain ⟨⟨rfm', due', h'⟩, hrep'⟩ := e.tryRfm_chan (x / 2 ^ 15) (x % 2 ^ 15) c
  exact ⟨⟨rfm', due', by rw [h', h]⟩, hrep'.trans hrep⟩

theorem Dev.heldRfms_window (d : Dev) (ch c : Nat) : ((d.heldRfms ch).chan c).window = (d.chan c).window := by
  obtain ⟨⟨rfm, due, h⟩, -⟩ := d.heldRfms_chan ch c
  rw [h]

/-! ### Drift -/

theorem nodup_of_map_fst {α β : Type} {l : List (α × β)} (h : (l.map Prod.fst).Nodup) : l.Nodup :=
  List.Pairwise.of_map Prod.fst (fun _ _ hne heq => hne (congrArg Prod.fst heq)) h

theorem map_fst_zip_sublist {α β : Type} (l : List α) (m : List β) : ((l.zip m).map Prod.fst).Sublist l := by
  induction l generalizing m with
  | nil => exact List.nil_sublist _
  | cons x l ih =>
    cases m with
    | nil => exact List.nil_sublist _
    | cons y m => exact (ih m).cons_cons x

theorem mem_range_zip {β : Type} {n : Nat} {m : List β} {i : Nat} {x : β} : (i, x) ∈ (List.range n).zip m ↔ i < n ∧ m[i]? = some x := by
  rw [List.mem_iff_getElem?]
  constructor
  · rintro ⟨j, hj⟩
    obtain ⟨hr, hm⟩ := List.getElem?_zip_eq_some.mp hj
    obtain ⟨hlt, hji⟩ := List.getElem?_eq_some_iff.mp hr
    rw [List.getElem_range] at hji
    subst hji
    exact ⟨by simpa using hlt, hm⟩
  · rintro ⟨hi, hm⟩
    exact ⟨i, List.getElem?_zip_eq_some.mpr ⟨List.getElem?_range hi, hm⟩⟩

/-- The oscillators of a channel's ranks are read (R215). -/
def Dev.driftRead (d : Dev) (e : Nat × Nat) : Dev :=
  let ch := e.1 / max 1 d.dram.ranks
  let r := e.1 % max 1 d.dram.ranks
  let c := d.chan ch
  let old := c.delay.val r 0
  let new := Config.driftDelay old (c.osc.val r 0) e.2
  if e.2 = c.osc.val r 0 || new = old then d else d.setChan ch { c with staged := c.staged.put r new }

theorem Dev.driftCheck_due {d : Dev} (readings : List Nat) (hp : d.setting idDriftPeriod 0 ≠ 0)
    (hdue : d.dram.driftFrom + d.setting idDriftPeriod 0 * 4096 ≤ d.clk.bnd) :
    d.driftCheck readings = each ((List.range (8 * d.dram.ranks)).zip readings) { d with dram.driftFrom := d.clk.bnd } Dev.driftRead :=
  if_neg (by simp; omega)

/-- The drift check leaves the delays in force, the oscillators' references, and every rank but its own. -/
theorem Dev.driftRead_keeps (d : Dev) (e : Nat × Nat) (ch : Nat) :
    ((d.driftRead e).chan ch).delay = (d.chan ch).delay ∧ ((d.driftRead e).chan ch).osc = (d.chan ch).osc ∧
      ∀ r, (ch ≠ e.1 / max 1 d.dram.ranks ∨ r ≠ e.1 % max 1 d.dram.ranks) → ((d.driftRead e).chan ch).staged.look r = (d.chan ch).staged.look r := by
  unfold Dev.driftRead
  extract_lets c r x old new
  split
  · exact ⟨rfl, rfl, fun _ _ => rfl⟩
  · by_cases hc : ch = c
    · subst hc
      rw [Dev.chan_setChan_self]
      exact ⟨rfl, rfl, fun r' h => Tab.look_put_ne _ _ (h.resolve_left (fun h => h rfl))⟩
    · rw [Dev.chan_setChan_ne _ _ _ _ hc]
      exact ⟨rfl, rfl, fun _ _ => rfl⟩

theorem Dev.driftRead_frame (d : Dev) (e : Nat × Nat) : (d.driftRead e).dram.ranks = d.dram.ranks ∧ (d.driftRead e).dram.driftFrom = d.dram.driftFrom := by
  unfold Dev.driftRead
  extract_lets c r x old new
  split <;> exact ⟨rfl, rfl⟩

/-- The rank that is read has its new delay staged where it differs. -/
theorem Dev.driftRead_own (d : Dev) (e : Nat × Nat) :
    let c := d.chan (e.1 / max 1 d.dram.ranks)
    let r := e.1 % max 1 d.dram.ranks
    let new := Config.driftDelay (c.delay.val r 0) (c.osc.val r 0) e.2
    ((d.driftRead e).chan (e.1 / max 1 d.dram.ranks)).staged.look r =
      if e.2 = c.osc.val r 0 ∨ new = c.delay.val r 0 then c.staged.look r else some new := by
  intro c r new
  by_cases h : e.2 = c.osc.val r 0 ∨ new = c.delay.val r 0
  · rw [if_pos h, show d.driftRead e = d from if_pos (by simpa [c, r, new] using h)]
  · rw [if_neg h, show d.driftRead e = d.setChan _ { c with staged := c.staged.put r new } from if_neg (by simpa [c, r, new] using h),
      Dev.chan_setChan_self]
    exact Tab.look_put_self ..

/-- What a drift check stages for a rank whose oscillator it reads. -/
theorem Dev.driftReads_staged {d : Dev} {readings : List Nat} {ch r x : Nat} (hch : ch < 8) (hr : r < d.dram.ranks)
    (hx : readings[ch * d.dram.ranks + r]? = some x) :
    let c := d.chan ch
    let new := Config.driftDelay (c.delay.val r 0) (c.osc.val r 0) x
    ((each ((List.range (8 * d.dram.ranks)).zip readings) d Dev.driftRead).chan ch).staged.look r =
      if x = c.osc.val r 0 ∨ new = c.delay.val r 0 then c.staged.look r else some new := by
  intro c new
  have hpos : max 1 d.dram.ranks = d.dram.ranks := by omega
  have hidx : ∀ i, i = ch * d.dram.ranks + r ↔ i / max 1 d.dram.ranks = ch ∧ i % max 1 d.dram.ranks = r := fun i => by
    rw [hpos, Nat.mul_comm]
    constructor
    · rintro rfl
      rw [Nat.mul_add_div (by omega), Nat.mul_add_mod, Nat.div_eq_of_lt hr, Nat.mod_eq_of_lt hr]
      exact ⟨rfl, rfl⟩
    · rintro ⟨rfl, rfl⟩
      exact (Nat.div_add_mod ..).symm
  obtain ⟨hdiv, hmod⟩ := (hidx _).mp rfl
  have hlt : ch * d.dram.ranks + r < 8 * d.dram.ranks := by
    have hle : (ch + 1) * d.dram.ranks ≤ 8 * d.dram.ranks := Nat.mul_le_mul_right _ hch
    rw [Nat.succ_mul] at hle
    omega
  have hfinal := each_once_of (nodup_of_map_fst (List.nodup_range.sublist (map_fst_zip_sublist ..))) (mem_range_zip.mpr ⟨hlt, hx⟩)
    (fun e : Dev => e.dram.ranks = d.dram.ranks) (fun e b he => (e.driftRead_frame b).1.trans he)
    (fun e : Dev => ((e.chan ch).delay, (e.chan ch).osc, (e.chan ch).staged.look r)) (s := d) rfl rfl
    (w := (c.delay, c.osc, if x = c.osc.val r 0 ∨ new = c.delay.val r 0 then c.staged.look r else some new))
    (fun e hranks he => by
      simp only [Prod.mk.injEq] at he ⊢
      obtain ⟨hdelay, hosc, hstaged⟩ := he
      obtain ⟨hd, ho, -⟩ := e.driftRead_keeps (ch * d.dram.ranks + r, x) ch
      refine ⟨hd.trans hdelay, ho.trans hosc, ?_⟩
      have hown := e.driftRead_own (ch * d.dram.ranks + r, x)
      simp only [hranks, hdiv, hmod, hdelay, hosc, hstaged] at hown
      exact hown)
    (fun e hranks ⟨i, y⟩ hb hne => by
      obtain ⟨hd, ho, hl⟩ := e.driftRead_keeps (i, y) ch
      have hi : i ≠ ch * d.dram.ranks + r := by
        rintro rfl
        have := (mem_range_zip.mp hb).2.symm.trans hx
        exact hne (Prod.ext rfl (Option.some.inj this))
      have hplace : ch ≠ i / max 1 e.dram.ranks ∨ r ≠ i % max 1 e.dram.ranks := by
        rw [hranks]
        refine Decidable.byContradiction fun h => ?_
        obtain ⟨hch', hr'⟩ := not_or.mp h
        exact hi ((hidx i).mpr ⟨(Decidable.not_not.mp hch').symm, (Decidable.not_not.mp hr').symm⟩)
      simp only [Prod.mk.injEq]
      exact ⟨hd, ho, hl r hplace⟩)
  exact (Prod.mk.inj (Prod.mk.inj hfinal).2).2

/-- Settles O24: by the channels of the half, the readings, and the ranks in channel order. -/
theorem refreshAndTemperature : Obligations.RefreshAndTemperature := by
  refine ⟨fun s half hphase hself hformed => ?_, fun s ch => ⟨?_, fun hdue => ?_⟩, fun s t => ⟨?_, ?_, ?_⟩, fun s readings hp hdue => ?_⟩
  · refine completes_ok (exec_refreshWindowStart ..) fun ch hch => ?_
    rw [Dev.windowStart_at hphase hself hformed]
    obtain ⟨hw, hb⟩ := Dev.openWindows_spec s.dev hch
    refine ⟨hw, fun hclosed e he hche => ?_⟩
    have hmem : e ∈ Dev.banksOf (each (halfChans half) s.dev Dev.openWindow) ch := List.mem_filter.mpr ⟨he, by simpa using hche⟩
    rw [hb, hclosed] at hmem
    obtain ⟨x, -, rfl⟩ := List.mem_map.mp hmem
    rfl
  · refine settles_ok (exec_refreshWindowEnd ..) ⟨?_, fun c hc => ?_⟩
    · rw [Dev.heldRfms_window, Dev.chan_modChan_self]
    · rw [Dev.heldRfms_window, Dev.chan_modChan_ne _ _ _ _ hc]
  · refine settles_ok (exec_refreshWindowEnd ..) ?_
    have hnone : (s.dev.modChan ch.val fun c => { c with window := false }).heldRfms ch.val = s.dev.modChan ch.val fun c => { c with window := false } := by
      unfold Dev.heldRfms
      rw [Dev.chan_modChan_self]
      dsimp only
      rw [hdue]
      rfl
    rw [hnone]
    exact ⟨Dev.chan_modChan_self .., fun c hc => Dev.chan_modChan_ne _ _ _ _ hc⟩
  · rintro ⟨x, hx, hhot⟩
    refine completes_ok (exec_moduleThermalRead ..) ?_
    have hany : t.any (85 < ·) = true := by simpa using ⟨x, hx, hhot⟩
    rw [Dev.thermalRead, hany]
    rfl
  · intro hcool
    refine completes_ok (exec_moduleThermalRead ..) ?_
    have hany : t.any (85 < ·) = false := by simpa using fun x hx => by have := hcool x hx; omega
    have hall : t.all (· ≤ 82) = true := by simpa using hcool
    rw [Dev.thermalRead, hany, hall]
    rfl
  · rintro hnone ⟨x, hx, hwarm⟩
    refine completes_ok (exec_moduleThermalRead ..) ?_
    have hany : t.any (85 < ·) = false := by simpa using hnone
    have hall : t.all (· ≤ 82) = false := by simpa using ⟨x, hx, hwarm⟩
    rw [Dev.thermalRead, hany, hall]
    rfl
  · refine completes_ok (exec_driftCheck ..) ?_
    rw [Dev.driftCheck_due readings hp hdue]
    refine ⟨?_, fun ch => ?_, fun ch hch r hr x hx => ?_⟩
    · exact each_keeps _ _ _ (fun d : Dev => d.dram.driftFrom) fun d e => (Dev.driftRead_frame d e).2
    · exact each_keeps _ _ _ (fun d : Dev => (d.chan ch).delay) fun d e => (Dev.driftRead_keeps d e ch).1
    · intro c new
      exact Dev.driftReads_staged (d := { s.dev with dram.driftFrom := s.dev.clk.bnd }) hch hr hx

end Sys2Proof.Machine
end

section
/-! Row repair (R217) and the copy of a rank to its shadow (R220). -/

namespace Sys2Proof.Machine

open Sys2Proof Sys2Proof.Laws

theorem exec_postPackageRepair (ch : Fin 8) (rank : Fin 4) (sub : Fin 2) (row : Nat) (spare : Bool) (errs : List Burst) (s : State) :
    exec (.postPackageRepair ch rank sub row spare errs) s = ok (s.dev.repairRow ch.val rank.val sub.val row spare errs) s := rfl
theorem exec_rankCopyStep (ch : Fin 8) (s : State) : exec (.rankCopyStep ch) s = ok (s.dev.copyStep ch.val).flow s := rfl
theorem exec_rankCopyComplete (ch : Fin 8) (s : State) : exec (.rankCopyComplete ch) s = ok (s.dev.copyComplete ch.val).flow s := rfl

/-! ### Row repair -/

theorem Noted.media (d : Dev) (m : List Host.Cell) : Noted d { d with line.mem := m } := Noted.of_eq rfl rfl rfl ⟨rfl, rfl, rfl⟩ rfl

/-- The lines of a row go to the row holding buffer: nothing but media, and what a verdict notes, changes. -/
theorem Dev.repairLine_noted (d : Dev) (h : Nat) (p : Place) (err : Burst) : Noted d (d.repairLine h p err) := by
  unfold Dev.repairLine
  split
  · exact Noted.refl d
  · extract_lets j e dc
    have he : Noted d e := Noted.noteVerdict ..
    exact he.trans (Noted.media e _)

/-- A row of a bank that is under repair. -/
def rowPlace (ch rank sub row : Nat) : Place := { ch := ch, rank := rank, sub := sub, bank := row % 32, row := row / 32, col := 0 }

/-- The lines of a row are read into the row holding buffer (R217). -/
def Dev.readRow (d : Dev) (ch rank sub row : Nat) (errs : List Burst) : Dev :=
  each ((List.range 128).zip (errs ++ List.replicate 128 0)) d fun d x =>
    d.repairLine (d.rowLine ch rank sub row x.1) { rowPlace ch rank sub row with col := x.1 } x.2

theorem Dev.readRow_noted (d : Dev) (ch rank sub row : Nat) (errs : List Burst) : Noted d (d.readRow ch rank sub row errs) :=
  each_induct (Noted d) (Noted.refl d) fun _ _ _ h => h.trans (Dev.repairLine_noted ..)

section
variable {d : Dev} {ch rank sub row : Nat} {spare : Bool} {errs : List Burst}
  (hhard : d.dram.hardRows.contains (rowKey (rowPlace ch rank sub row)) = true)
include hhard

/-- A hard-failed row is taken up (R217). -/
def Dev.dropHardRow (d : Dev) (k : Nat) : Dev := { d with dram.hardRows := d.dram.hardRows.filter (· ≠ k) }

/-- A hard-failed row goes by whether its rank holds a C0 extent, and whether its bank group has a spare row (R217). -/
theorem Dev.repairRow_hard :
    d.repairRow ch rank sub row spare errs =
      let k := rowKey (rowPlace ch rank sub row)
      let e := d.dropHardRow k
      if d.c0OnRank ch rank then { e with dram.repairs := d.dram.repairs ++ [k] }
      else if !spare then e.faultEvent (srcRank ch rank) 5 (dramDetail 0 (rowPlace ch rank sub row) 15 false)
      else
        (e.readRow ch rank sub row errs).modChan ch fun c => { c with ppr := c.ppr ++ [(k, false)], maintNext := max c.maintNext Config.pprSlots } := by
  unfold Dev.repairRow
  extract_lets p k e1
  rw [if_neg (by rw [show k = rowKey (rowPlace ch rank sub row) from rfl, hhard]; decide)]
  rfl

end

/-- The boundary takes the repairs whose maintenance slots have passed, and plans the rest (R204, R217). -/
theorem Dev.chanBoundary_repairs {d : Dev} {ch : Nat} (herase : (d.chan ch).toErase = []) (hretire : (d.chan ch).toRetire = []) :
    ((d.chanBoundary ch).chan ch).ppr = ((d.chan ch).ppr.filter fun e => !e.2).map (fun e => (e.1, true)) ∧
      ∃ l, (d.chanBoundary ch).dram.repairs = l ++ ((d.chan ch).ppr.filter fun e => e.2).map fun e => e.1 := by
  unfold Dev.chanBoundary
  extract_lets c d1 d2 d3 older banks dram4 d4 d5 dram6 d6
  have hd3 : d3 = d1 := by simp only [d3, d2, show c.toErase = [] from herase, show c.toRetire = [] from hretire]; rfl
  have hd4 : d4.chan ch = { c with toErase := [], toRetire := [], slot := [], rfm := [] } := by
    show d3.chan ch = _
    rw [hd3]
    exact Dev.chan_setChan_self ..
  obtain ⟨⟨rfm, due, hd5⟩, -⟩ := d4.heldRfms_chan ch ch
  have hd6 : (d6.chan ch).ppr = c.ppr := by
    show ((d4.heldRfms ch).chan ch).ppr = _
    rw [hd5, hd4]
  refine ⟨?_, _, rfl⟩
  rw [Dev.chan_modChan_self]
  dsimp only
  rw [hd6]

/-! ### The copy of a rank -/

/-- A copy entry of a line of the rank (R220). -/
def Dev.copyLine (ch : Nat) (r : CopyReg) (d : Dev) (i : Nat) : Dev :=
  let n := homeLine ch (r.src * d.dram.lines + r.cursor + i)
  let mirrored := match d.ownerOf (mirrorOf n).1 with | some (a, _, _) => a.reflected | none => false
  d.fresh.2.addWb { id := d.fresh.1, line := if mirrored then (mirrorOf n).1 else n, kind := .rankCopy ch, label := 0xBF
                    attr := { reflected := mirrored }, admitBnd := d.clk.bnd, left := [if mirrored then (mirrorOf n).2 else 0] }

theorem Dev.copyLine_adds (d : Dev) (ch : Nat) (r : CopyReg) (i : Nat) :
    ∃ w, (Dev.copyLine ch r d i).line.wb = d.line.wb ++ [w] ∧ w.kind = .rankCopy ch ∧ w.label = 0xBF ∧
      (w.line = homeLine ch (r.src * d.dram.lines + r.cursor + i) ∨
       w.line = (mirrorOf (homeLine ch (r.src * d.dram.lines + r.cursor + i))).1) := by
  unfold Dev.copyLine
  extract_lets n mirrored
  refine ⟨_, rfl, rfl, rfl, ?_⟩
  show (if mirrored = true then _ else _) = _ ∨ (if mirrored = true then _ else _) = _
  by_cases h : mirrored = true
  · exact .inr (if_pos h)
  · exact .inl (if_neg h)

theorem Dev.copyStep_eq {d : Dev} {ch : Nat} {r : CopyReg} (hcopy : (d.chan ch).copy = some r) (hcur : r.cursor < d.dram.lines)
    (hroom : d.wbRoomFor 0xBF 64 = true) :
    d.copyStep ch = (each (List.range 64) d (Dev.copyLine ch r)).modChan ch fun c => { c with copy := some { r with cursor := r.cursor + 64 } } := by
  unfold Dev.copyStep
  extract_lets c
  rw [show c.copy = some r from hcopy]
  dsimp only
  rw [if_neg (by simpa using ⟨hcur, hroom⟩)]
  rfl

/-- The copy of a rank has ended: the logical rank names the shadow's physical rank (R220). -/
theorem Dev.copyComplete_eq {d : Dev} {ch : Nat} {r : CopyReg} (hcopy : (d.chan ch).copy = some r) (hcur : d.dram.lines ≤ r.cursor) (hlost : r.lost = none)
    (hwb : ∀ w ∈ d.line.wb, w.kind ≠ .rankCopy ch) :
    let c := d.chan ch
    let old := c.remap.val r.src r.src
    d.copyComplete ch = ((d.setChan ch { c with
        remap := c.remap.put r.src r.shadow, copy := none, shadows := c.shadows.filter (· ≠ r.shadow)
        retiredPhys := c.retiredPhys ++ [old] }).logFault ch old 0 10).rankRecord ch old := by
  intro c old
  unfold Dev.copyComplete
  extract_lets
  rw [show c.copy = some r from hcopy]
  dsimp only
  rw [if_neg (by simp; exact ⟨hcur, hwb⟩), if_neg (by simp [hlost])]

theorem Dev.logFault_chans (d : Dev) (ch phys sub dev : Nat) : (d.logFault ch phys sub dev).dram.chans = d.dram.chans := by
  unfold Dev.logFault
  extract_lets per slot
  split
  · extract_lets e
    split <;> rfl
  · rfl

theorem Dev.rankRecord_signals (d : Dev) (ch phys : Nat) :
    Signals (d.modSource (srcRank ch phys) fun s => { s with retired := true }) (d.rankRecord ch phys) := signals_raiseFault ..

/-- Settles O25: by what the row's rank holds, and by the copy register. -/
theorem rowRepairAndRankCopy : Obligations.RowRepairAndRankCopy := by
  refine ⟨?_, ?_, ?_, ?_⟩
  · intro s ch rank sub row spare errs k hhard
    have heq := Dev.repairRow_hard (spare := spare) (errs := errs) hhard
    refine ⟨fun hc0 => ?_, fun hc0 hspare => ?_, fun hc0 hspare => ?_⟩
    · refine completes_ok (exec_postPackageRepair ..) (heq.trans ?_)
      dsimp only
      rw [if_pos hc0]
      rfl
    · refine completes_ok (exec_postPackageRepair ..) ?_
      rw [heq]
      dsimp only
      rw [if_neg (by simp [hc0]), if_neg (by simp [hspare])]
      have hnoted := Dev.readRow_noted (s.dev.dropHardRow k) ch.val rank.val sub.val row errs
      obtain ⟨l, hl⟩ := hnoted.chan ch.val
      rw [Dev.chan_modChan_self, show rowKey (rowPlace ch.val rank.val sub.val row) = k from rfl, hl]
      exact ⟨rfl, Nat.le_max_right .., hnoted.wb, hnoted.conf⟩
    · refine completes_ok (exec_postPackageRepair ..) ?_
      intro p
      refine heq.trans ?_
      dsimp only
      rw [if_neg (by simp [hc0]), if_pos (by simp [hspare])]
      rfl
  · intro d ch k herase hretire
    obtain ⟨hppr, l, hrep⟩ := Dev.chanBoundary_repairs herase hretire
    refine ⟨fun h => ?_, fun h => ?_⟩
    · rw [hppr]
      exact List.mem_map.mpr ⟨(k, false), List.mem_filter.mpr ⟨h, rfl⟩, rfl⟩
    · rw [hrep]
      exact List.mem_append_right _ (List.mem_map.mpr ⟨(k, true), List.mem_filter.mpr ⟨h, rfl⟩, rfl⟩)
  · intro s ch r hcopy hcur hroom
    refine settles_ok (exec_rankCopyStep ..) ?_
    rw [Dev.copyStep_eq hcopy hcur hroom]
    refine ⟨by rw [Dev.chan_modChan_self], fun i hi => ?_⟩
    rw [Dev.modChan_line]
    refine each_establishes (List.mem_range.mpr hi) (fun e : Dev => e.dram.lines = s.dev.dram.lines)
      (fun e : Dev => ∃ w ∈ e.line.wb, w.kind = .rankCopy ch.val ∧ w.label = 0xBF ∧
        (w.line = homeLine ch.val (r.src * s.dev.dram.lines + r.cursor + i) ∨
         w.line = (mirrorOf (homeLine ch.val (r.src * s.dev.dram.lines + r.cursor + i))).1)) rfl ?_ ?_ ?_
    · exact fun e i he => he
    · intro e he
      obtain ⟨w, hwb, h⟩ := e.copyLine_adds ch.val r i
      exact ⟨w, hwb ▸ List.mem_append_right _ (List.mem_singleton_self _), he ▸ h⟩
    · rintro e j ⟨w, hw, h⟩
      exact ⟨w, List.mem_append_left _ hw, h⟩
  · intro s ch r hcopy hcur hlost hwb old
    refine settles_ok (exec_rankCopyComplete ..) ?_
    rw [Dev.copyComplete_eq hcopy hcur hlost hwb]
    have hsig := Dev.rankRecord_signals ((s.dev.setChan ch.val { s.dev.chan ch.val with
        remap := (s.dev.chan ch.val).remap.put r.src r.shadow, copy := none, shadows := (s.dev.chan ch.val).shadows.filter (· ≠ r.shadow)
        retiredPhys := (s.dev.chan ch.val).retiredPhys ++ [old] }).logFault ch.val old 0 10) ch.val old
    generalize hx : Dev.rankRecord _ _ _ = x at hsig ⊢
    have hchan : x.chan ch.val = { s.dev.chan ch.val with
        remap := (s.dev.chan ch.val).remap.put r.src r.shadow, copy := none, shadows := (s.dev.chan ch.val).shadows.filter (· ≠ r.shadow)
        retiredPhys := (s.dev.chan ch.val).retiredPhys ++ [old] } := by
      rw [Dev.chan, hsig.dram]
      show Tab.val (Dev.logFault _ _ _ _ _).dram.chans _ _ = _
      rw [Dev.logFault_chans]
      exact Dev.chan_setChan_self ..
    rw [hchan]
    refine ⟨Tab.val_put_self .., rfl, List.mem_append_right _ (List.mem_singleton_self _), ?_, ?_⟩
    · simp
    · rw [Dev.source, hsig.fault]
      exact congrArg Source.retired (Tab.val_put_self ..)

end Sys2Proof.Machine
end

section
/-! What an answer leaves alone (spec/12 R329): everything but the registers of its interface, events, vectors and output. -/

namespace Sys2Proof.Machine

open Sys2Proof Sys2Proof.Laws

section
variable (d : Dev) (iss : Issuer) (st : Status) (body : List Byte) (nw : Bool)

theorem reply_signals : ∃ b, Signals { d with host.boxes := d.host.boxes.put (issuerBox iss) b } (d.reply iss st body nw) :=
  (reply_replies d iss st body nw).2

theorem reply_answered : Answered (d.reply iss st body nw) iss st body nw := (reply_replies d iss st body nw).1

theorem refuse_answered (n : Nat) : Answered (d.refuse iss st n) iss st (zeros (n - 2)) := reply_answered ..

@[simp] theorem Dev.reply_boot : (d.reply iss st body nw).boot = d.boot := (reply_signals ..).choose_spec.boot
@[simp] theorem Dev.reply_clk : (d.reply iss st body nw).clk = d.clk := (reply_signals ..).choose_spec.clk
@[simp] theorem Dev.reply_conf : (d.reply iss st body nw).conf = d.conf := (reply_signals ..).choose_spec.conf
@[simp] theorem Dev.reply_path : (d.reply iss st body nw).path = d.path := (reply_signals ..).choose_spec.path
@[simp] theorem Dev.reply_xl : (d.reply iss st body nw).xl = d.xl := (reply_signals ..).choose_spec.xl
@[simp] theorem Dev.reply_line : (d.reply iss st body nw).line = d.line := (reply_signals ..).choose_spec.line
@[simp] theorem Dev.reply_tiers : (d.reply iss st body nw).tiers = d.tiers := (reply_signals ..).choose_spec.tiers
@[simp] theorem Dev.reply_prism : (d.reply iss st body nw).prism = d.prism := (reply_signals ..).choose_spec.prism
@[simp] theorem Dev.reply_dram : (d.reply iss st body nw).dram = d.dram := (reply_signals ..).choose_spec.dram
@[simp] theorem Dev.reply_home : (d.reply iss st body nw).home = d.home := (reply_signals ..).choose_spec.home
@[simp] theorem Dev.reply_fault : (d.reply iss st body nw).fault = d.fault := (reply_signals ..).choose_spec.fault
@[simp] theorem Dev.reply_chain : (d.reply iss st body nw).chain = d.chain := (reply_signals ..).choose_spec.chain
@[simp] theorem Dev.reply_jobs : (d.reply iss st body nw).jobs = d.jobs := (reply_signals ..).choose_spec.jobs
@[simp] theorem Dev.reply_glint : (d.reply iss st body nw).glint = d.glint := (reply_signals ..).choose_spec.glint
@[simp] theorem Dev.reply_hitch : (d.reply iss st body nw).hitch = d.hitch := (reply_signals ..).choose_spec.hitch
@[simp] theorem Dev.reply_power : (d.reply iss st body nw).power = d.power := (reply_signals ..).choose_spec.power
@[simp] theorem Dev.reply_flash : (d.reply iss st body nw).flash = d.flash := (reply_signals ..).choose_spec.flash
@[simp] theorem Dev.reply_links : (d.reply iss st body nw).host.links = d.host.links := (reply_signals ..).choose_spec.links
@[simp] theorem Dev.reply_ports : (d.reply iss st body nw).host.ports = d.host.ports := (reply_signals ..).choose_spec.ports
@[simp] theorem Dev.refuse_line (n : Nat) : (d.refuse iss st n).line = d.line := Dev.reply_line ..

end

end Sys2Proof.Machine
end

section
/-! Keys (spec/06 R190 to R193), sessions and the quarantine list (R184, R187, R380, R381). -/

namespace Sys2Proof.Machine

open Sys2Proof Sys2Proof.Laws

section
variable (iss : Issuer) (inp : List Byte) (s : State)

theorem exec_sealKeyGen : exec (.sealKeyGen iss inp) s = ok (s.dev.command iss 0xC601 fun d => d.sealKeyGen iss inp) s := rfl
theorem exec_sealKeyLoad : exec (.sealKeyLoad iss inp) s = ok (s.dev.command iss 0xC600 fun d => d.sealKeyLoad iss inp) s := rfl
theorem exec_sealKeyRetire : exec (.sealKeyRetire iss inp) s = ok (s.dev.command iss 0xC602 fun d => d.sealKeyRetire iss inp) s := rfl
theorem exec_sealQuarantine : exec (.sealQuarantine iss inp) s = ok (s.dev.command iss 0xC609 fun d => d.sealQuarantine iss inp) s := rfl
theorem exec_sealReknot : exec (.sealReknot iss inp) s = ok (s.dev.command iss 0xC608 fun d => d.sealReknot iss inp) s := rfl
theorem exec_spdmSecureSession (who : Option (Fin 32)) (x : BitVec 32) (up : Bool) :
    exec (.spdmSecureSession who x up) s = ok (s.dev.spdmSession (who.map (·.val)) x up) s := rfl

end

/-! ### Keys -/

@[simp] theorem Dev.key_reply (d : Dev) (iss : Issuer) (st : Status) (body : List Byte) (nw : Bool) (i : Nat) :
    (d.reply iss st body nw).key i = d.key i := by
  rw [Dev.key, Dev.reply_line]
  rfl

section
variable (d : Dev) (iss : Issuer) {inp : List Byte}

/-- The key ID FFh names the lowest FREE one (R192). -/
theorem Dev.sealKeyGen_lowest {k : Nat} (hlen : inp.length = 8) (hrsvd : rsvd inp 1 7 = true) (hn : field inp 0 1 = 255)
    (hfree : (List.range 64).find? (fun i => (d.key i).st = .free) = some k) :
    d.sealKeyGen iss inp =
      ((d.random 768).2.setKey k { st := .active, material := (d.random 768).1, source := 2 }).reply iss .success (BitVec.ofNat 8 k :: zeros 5) := by
  have hkey : d.keyFor (field inp 0 1) = .ok k := by
    unfold Dev.keyFor
    rw [if_pos hn, hfree]
  unfold Dev.sealKeyGen
  rw [if_neg (by simp [hlen]), if_neg (by simp [hn, hrsvd]), hkey]

theorem Dev.sealKeyLoad_free (hlen : inp.length = 112) (hrsvd : rsvd inp 1 3 = true) (hn : field inp 0 1 < 64) (hfree : (d.key (field inp 0 1)).st = .free)
    (hsession : (match iss with | .host ld _ => (d.ld ld.val).session | .mc _ => d.host.mcSession) = some (BitVec.ofNat 32 (field inp 4 4))) :
    d.sealKeyLoad iss inp =
      (unwrapKey (deviceKek (BitVec.ofNat 32 (field inp 4 4))) (inp.drop 8)).elim (d.refuse iss .unwrapFailed 8) fun m =>
        (d.setKey (field inp 0 1) { st := .active, material := BitVec.ofNat 768 (leNat m), source := 1 }).reply iss .success
          (BitVec.ofNat 8 (field inp 0 1) :: zeros 5) := by
  have hkey : d.keyFor (field inp 0 1) = .ok (field inp 0 1) := by
    unfold Dev.keyFor
    rw [if_neg (by omega), if_pos hfree]
  unfold Dev.sealKeyLoad
  extract_lets n session mine
  rw [if_neg (by simp [hlen]), if_neg (by simp [n, hrsvd]; omega), if_neg (fun h => h hsession), hkey]

/-- The record of a retired key ID in the answer (R380). -/
def Dev.retireAnswer (d : Dev) (iss : Issuer) (n refs : Nat) (st : Status) : Dev :=
  d.reply iss st ([BitVec.ofNat 8 (kstateNum (d.key n).st), 0] ++ leBytes 4 refs)

theorem Dev.retireAnswer_answered {n refs : Nat} {st : Status} {x : KState} (h : (d.key n).st = x) :
    Answered (d.retireAnswer iss n refs st) iss st ([BitVec.ofNat 8 (kstateNum x), 0] ++ leBytes 4 refs) :=
  h ▸ reply_answered ..

section
variable (hlen : inp.length = 8) (hrsvd : rsvd inp 1 7 = true) (hn : field inp 0 1 < 64)
include hlen hrsvd hn

theorem Dev.sealKeyRetire_active (hst : (d.key (field inp 0 1)).st = .active) :
    d.sealKeyRetire iss inp =
      if d.keyRefs (field inp 0 1) ≠ 0 then d.retireAnswer iss (field inp 0 1) (d.keyRefs (field inp 0 1)) .keyInUse
      else (d.setKey (field inp 0 1) {}).retireAnswer iss (field inp 0 1) (d.keyRefs (field inp 0 1)) .success := by
  unfold Dev.sealKeyRetire
  extract_lets n refs out
  rw [if_neg (by simp [hlen]), if_neg (by simp [n, hrsvd]; omega), show (d.key n).st = .active from hst]
  rfl

theorem Dev.sealKeyRetire_failed (hst : (d.key (field inp 0 1)).st = .failed) :
    d.sealKeyRetire iss inp =
      (d.setKey (field inp 0 1) (if d.keyRefs (field inp 0 1) = 0 then {} else { st := .retiring })).retireAnswer iss (field inp 0 1)
        (d.keyRefs (field inp 0 1)) .success := by
  unfold Dev.sealKeyRetire
  extract_lets n refs out
  rw [if_neg (by simp [hlen]), if_neg (by simp [n, hrsvd]; omega), show (d.key n).st = .failed from hst]
  rfl

end

end

/-- Settles O26: each command by the state of the key ID that it names. -/
theorem keysLoadGenerateRetire : Obligations.KeysLoadGenerateRetire := by
  intro s iss inp htakes d0 n
  refine ⟨fun k hlen hrsvd hn hfree => ?_, fun hlen hrsvd hn hfree hsession => ?_, fun hlen hrsvd hn hst hrefs => ?_,
    fun hlen hrsvd hn hst hrefs => ?_, fun hlen hrsvd hn hst hrefs => ?_⟩
  · refine completes_of_takes htakes (exec_sealKeyGen iss inp s) ?_
    rw [Dev.sealKeyGen_lowest _ _ hlen hrsvd hn hfree]
    simp only [Dev.key_reply, Dev.key_setKey_self]
    exact ⟨trivial, trivial, fun i hi => Dev.key_setKey_ne _ _ _ _ hi, reply_answered ..⟩
  · refine completes_of_takes htakes (exec_sealKeyLoad iss inp s) ?_
    rw [Dev.sealKeyLoad_free _ _ hlen hrsvd hn hfree hsession]
    cases unwrapKey (deviceKek (BitVec.ofNat 32 (field inp 4 4))) (inp.drop 8) with
    | none => exact ⟨fun i _ => Dev.key_reply .., Dev.key_reply .., refuse_answered ..⟩
    | some m =>
      exact ⟨fun i hi => (Dev.key_reply ..).trans (Dev.key_setKey_ne _ _ _ _ hi), (Dev.key_reply ..).trans (Dev.key_setKey_self ..), reply_answered ..⟩
  · refine completes_of_takes htakes (exec_sealKeyRetire iss inp s) ?_
    rw [Dev.sealKeyRetire_active _ _ hlen hrsvd hn hst, if_neg (not_not_intro hrefs)]
    refine ⟨(Dev.key_reply ..).trans (Dev.key_setKey_self ..), fun i hi => (Dev.key_reply ..).trans (Dev.key_setKey_ne _ _ _ _ hi), ?_⟩
    have h := Dev.retireAnswer_answered (d0.setKey n {}) iss (refs := d0.keyRefs n) (st := .success) (congrArg Key.st (Dev.key_setKey_self ..))
    rw [hrefs] at h
    rw [show d0.keyRefs (field inp 0 1) = 0 from hrefs]
    exact h
  · refine completes_of_takes htakes (exec_sealKeyRetire iss inp s) ?_
    rw [Dev.sealKeyRetire_active _ _ hlen hrsvd hn hst, if_pos hrefs]
    exact ⟨Dev.reply_line .., Dev.retireAnswer_answered _ _ hst⟩
  · refine completes_of_takes htakes (exec_sealKeyRetire iss inp s) ?_
    rw [Dev.sealKeyRetire_failed _ _ hlen hrsvd hn hst, if_neg hrefs]
    exact ⟨(Dev.key_reply ..).trans (Dev.key_setKey_self ..), Dev.retireAnswer_answered _ _ (congrArg Key.st (Dev.key_setKey_self ..))⟩

/-! ### The quarantine list and sessions -/

/-- What every step of a loop brings about stands after a loop that has a step. -/
theorem each_last {α σ : Type} {l : List α} (hl : l ≠ []) {f : σ → α → σ} (P : σ → Prop) (step : ∀ s, ∀ a ∈ l, P (f s a)) (s : σ) : P (each l s f) := by
  obtain h | ⟨m, a, rfl⟩ := List.eq_nil_or_concat l
  · exact absurd h hl
  · unfold each
    rw [List.concat_eq_append, List.foldl_append]
    exact step _ a (by simp)

theorem Tab.mem_of_has {α : Type} {t : Tab α} {k : Nat} (h : t.has k = true) : ∃ e ∈ t, e.1 = k := by
  induction t with
  | nil => cases h
  | cons e t ih =>
    obtain ⟨k', v⟩ := e
    by_cases hk : k = k'
    · exact ⟨_, List.mem_cons_self .., hk.symm⟩
    · have ht : Tab.has t k = true := by simpa [Tab.has, Tab.look, hk] using h
      obtain ⟨e, he, hek⟩ := ih ht
      exact ⟨e, List.mem_cons_of_mem _ he, hek⟩

/-- The end of a background command changes its interface's registers, and signals (R330). -/
theorem endBgRet_signals (d : Dev) (box : Nat) (ret : Ret) (st : Nat) (out : List Byte) :
    ∃ boxes, Signals { d with host.boxes := boxes } (d.endBgRet box ret st out) := by
  unfold Dev.endBgRet
  split
  · exact ⟨d.host.boxes, Signals.refl d⟩
  next b _ =>
    split
    · exact ⟨d.host.boxes, Signals.refl d⟩
    · extract_lets host d1 d2
      obtain ⟨x, hsig⟩ := finish_frame d1 box b.counts st ret out
      refine ⟨_, hsig.trans ?_⟩
      split
      · exact signals_vecEvent ..
      · exact Signals.refl _

@[simp] theorem Dev.endBg_line (d : Dev) (box : Nat) (st : Status) (body : List Byte) (nw : Bool) : (d.endBg box st body nw).line = d.line :=
  (endBgRet_signals ..).choose_spec.line

/-- The entries that a SEAL.REKNOT names leave the list as they are re-established (R187). -/
def reknotStep (x : Nat × Nat × Dev) (e : Nat × Quar) : Nat × Nat × Dev :=
  let (a, b, d) := x.2.2.reknotEntry e.2
  (x.1 + a, x.2.1 + b, { d with line.quar := d.line.quar.del e.1 })

section
variable (d : Dev) (iss : Issuer) {inp : List Byte} (hlen : inp.length = 8) (hr1 : rsvd inp 1 3 = true) (hr5 : rsvd inp 5 3 = true)
  (hbg : d.bgBusy iss = false) (hscope : field inp 0 1 = 1)
include hlen hr1 hr5 hbg hscope

theorem Dev.sealReknot_denied (hset : d.setting idAcceptMediaOnLoss 0 = 0) : d.sealReknot iss inp = d.refuse iss .policyDenied 16 := by
  simp [Dev.sealReknot, hlen, hr1, hr5, hbg, hscope, hset]

theorem Dev.sealReknot_entry (hset : d.setting idAcceptMediaOnLoss 0 ≠ 0) (hquar : d.line.quar.has (field inp 4 1) = true) :
    let todo := d.line.quar.filter fun e => e.1 = field inp 4 1
    let x := each todo (0, 0, d.startBg iss 0xC608) reknotStep
    d.sealReknot iss inp =
      x.2.2.endBg (issuerBox iss) .success ([0, 0] ++ leBytes 4 todo.length ++ leBytes 4 x.1 ++ leBytes 4 x.2.1) todo.isEmpty := by
  intro todo x
  unfold Dev.sealReknot
  extract_lets scope entry d1 todo1
  rw [if_neg (by simp [hlen]), if_neg (by simp [hbg]), if_neg (by simp [scope, entry, hr1, hr5, hscope]), if_neg hset,
    if_neg (by simp [scope, entry, hscope, hquar])]
  rw [show todo1 = todo from if_pos hscope]
  rfl

end

theorem Dev.sealQuarantine_empty (d : Dev) (iss : Issuer) (h : d.line.quar = []) :
    d.sealQuarantine iss [] = d.reply iss .success (zeros 6 ++ (List.range 256).flatMap fun _ => zeros 8) := by
  simp only [Dev.sealQuarantine, h]
  rfl

/-- Settles O27: the list is read whole, a session is its LD's, and the entry leaves the list last. -/
theorem keyStatusSessionsQuarantine : Obligations.KeyStatusSessionsQuarantine := by
  refine ⟨fun s iss htakes => ⟨?_, fun hquar => ?_⟩, fun s ld x => ⟨?_, fun hne => ?_, ?_⟩, fun s iss inp htakes => ?_⟩
  · exact completes_of_takes htakes (exec_sealKeyStatus iss [] s) ⟨Dev.reply_line .., reply_answered ..⟩
  · refine completes_of_takes htakes (exec_sealQuarantine iss [] s) ?_
    rw [Dev.sealQuarantine_empty _ _ hquar]
    exact ⟨Dev.reply_line .., reply_answered ..⟩
  · exact completes_ok (exec_spdmSecureSession ..) ⟨congrArg Ld.session (Dev.ld_modLd_self ..), fun n hn => Dev.ld_modLd_ne _ _ _ _ hn⟩
  · refine completes_ok (exec_spdmSecureSession ..) ?_
    exact (congrArg Ld.session (Dev.ld_modLd_self ..)).trans (if_neg hne)
  · exact completes_ok (exec_spdmSecureSession ..) rfl
  · intro d0 hlen hr1 hr5 hbg hscope
    refine ⟨fun hquar hset => ?_, fun hset => ?_⟩
    · refine completes_of_takes htakes (exec_sealReknot iss inp s) ?_
      rw [Dev.sealReknot_entry _ _ hlen hr1 hr5 hbg hscope hset hquar]
      obtain ⟨e, he, hkey⟩ := Tab.mem_of_has hquar
      rw [Dev.endBg_line]
      refine each_last (List.ne_nil_of_mem (List.mem_filter.mpr ⟨he, by simpa using hkey⟩))
        (fun x : Nat × Nat × Dev => x.2.2.line.quar.look (field inp 4 1) = none) (fun x q hq => ?_) _
      rw [← of_decide_eq_true (List.mem_filter.mp hq).2]
      exact Tab.look_del_self ..
    · refine completes_of_takes htakes (exec_sealReknot iss inp s) ?_
      rw [Dev.sealReknot_denied _ _ hlen hr1 hr5 hbg hscope hset]
      exact ⟨Dev.refuse_line .., refuse_answered ..⟩

end Sys2Proof.Machine
end

section
/-! What a message sent on a Tether port leaves alone (spec/11 R302, R303): everything but the ports, events, vectors and output. -/

namespace Sys2Proof.Machine

open Sys2Proof Sys2Proof.Laws

/-- d' is d but for what stands in its Tether ports, and what signals. -/
def Sends (d d' : Dev) : Prop := ∃ ports, Signals { d with chain.ports := ports } d'

namespace Sends

theorem of_signals {d d' : Dev} (h : Signals d d') : Sends d d' := ⟨d.chain.ports, h⟩

theorem refl (d : Dev) : Sends d d := of_signals (Signals.refl d)

theorem trans {a b c : Dev} (h : Sends a b) (g : Sends b c) : Sends a c := by
  obtain ⟨p, ev, lds, out, rfl, hv⟩ := h
  obtain ⟨p', hg⟩ := g
  exact ⟨p', Signals.trans (b := { a with chain.ports := p', ev := ev, host.lds := lds, out := a.out ++ out }) ⟨ev, lds, out, rfl, hv⟩ hg⟩

theorem setTport (d : Dev) (p : Nat) (x : TPort) : Sends d (d.setTport p x) := ⟨_, Signals.refl _⟩

theorem modTport (d : Dev) (p : Nat) (f : TPort → TPort) : Sends d (d.modTport p f) := setTport ..

theorem sendFlit (d : Dev) (p : Nat) (m : Msg) : Sends d (d.sendFlit p m) :=
  (setTport ..).trans (of_signals ((signals_say ..).trans (signals_bump ..)))

theorem sendIdle (d : Dev) (p : Nat) (nak : Bool) : Sends d (d.sendIdle p nak) :=
  (setTport ..).trans (of_signals ((signals_say ..).trans (signals_bump ..)))

theorem launch (d : Dev) (p : Nat) (m : Msg) (from_ : Option Nat) : Sends d (d.launch p m from_) := by
  unfold Dev.launch
  split
  · exact (modTport ..).trans (sendFlit ..)
  · exact sendFlit ..

theorem pumpList (d : Dev) (p : Nat) (tx : List (Msg × Option Nat)) (blocked : List (Bool × Nat)) (left : List (Msg × Option Nat)) :
    Sends d (d.pumpList p tx blocked left) := by
  induction tx generalizing d blocked left with
  | nil => exact modTport ..
  | cons e tx ih =>
    unfold Dev.pumpList
    extract_lets key
    split
    · exact ih ..
    · exact (launch ..).trans (ih ..)

theorem pump (d : Dev) (p : Nat) : Sends d (d.pump p) := pumpList ..

theorem sendMsg (d : Dev) (p : Nat) (m : Msg) (from_ : Option Nat) : Sends d (d.sendMsg p m from_) := (modTport ..).trans (pump ..)

variable {d d' : Dev} (h : Sends d d')
include h

theorem conf : d'.conf = d.conf := h.choose_spec.conf
theorem clk : d'.clk = d.clk := h.choose_spec.clk
theorem home : d'.home = d.home := h.choose_spec.home
theorem path : d'.path = d.path := h.choose_spec.path
theorem links : d'.host.links = d.host.links := h.choose_spec.links
theorem boxes : d'.host.boxes = d.host.boxes := h.choose_spec.boxes
theorem glint : d'.glint = d.glint := h.choose_spec.glint
theorem fault : d'.fault = d.fault := h.choose_spec.fault
theorem ld (n : Nat) : ∃ v, d'.ld n = { d.ld n with vecs := v } := h.choose_spec.ld n

end Sends

end Sys2Proof.Machine
end

section
/-! Answers to snoops and conflicts (spec/08 R233, R236). -/

namespace Sys2Proof.Machine

open Sys2Proof Sys2Proof.Laws

theorem exec_birsp (k : Link) (ldId : BitVec 16) (hpa : BitVec 64) (keeps : Bool) (s : State) :
    exec (.birsp k ldId hpa keeps) s = ok (s.dev.birsp (linkNum k) ldId hpa keeps).flow s := rfl
theorem exec_biconflict (k : Link) (ldId : BitVec 16) (hpa : BitVec 64) (s : State) :
    exec (.biconflict k ldId hpa) s = ok (s.dev.biconflict (linkNum k) ldId hpa).flow s := rfl

section
variable {d : Dev} {l : Nat} {ldId : BitVec 16} {hpa : BitVec 64} {ld line : Nat}

theorem Dev.birsp_none {keeps : Bool} (h : d.snoopedLine l ldId hpa = none) : d.birsp l ldId hpa keeps = d := by
  unfold Dev.birsp
  rw [h]

theorem Dev.biconflict_none (h : d.snoopedLine l ldId hpa = none) :
    d.biconflict l ldId hpa = ((d.bump 0x17B).bump 0x17C).ackOn l (d.ldOnLink l ldId.toNat) := by
  unfold Dev.biconflict
  rw [h]

variable (h : d.snoopedLine l ldId hpa = some (ld, line))
include h

/-- The line of an LD stands on the link that its number names. -/
theorem Dev.ldOnLink_of_snoopedLine : d.ldOnLink l ldId.toNat = some ld := by
  unfold Dev.snoopedLine at h
  cases hld : d.ldOnLink l ldId.toNat with
  | none => rw [hld] at h; cases h
  | some x =>
    rw [hld] at h
    obtain ⟨a, -, heq⟩ := Option.map_eq_some_iff.mp h
    cases heq
    rfl

theorem Dev.birsp_foreign {f : Foreign} {keeps : Bool} (hf : d.home.foreign.find? (fun f => f.ld = ld && f.dpaLine = line) = some f) :
    d.birsp l ldId hpa keeps =
      ({ d with home.foreign := replaceFirst (· = f) (fun f => { f with answer := some (flag keeps) }) d.home.foreign } : Dev).releaseForeign := by
  unfold Dev.birsp
  rw [h]
  dsimp only
  rw [hf]

section
variable (hforeign : d.home.foreign = []) {slot : Nat} (hslot : d.slotOf d.chain.index ld = some slot)
include hforeign hslot

theorem Dev.birsp_flow {n : Nat} {keeps : Bool} (hn : d.flowFor slot ld line = some n) : d.birsp l ldId hpa keeps = d.takeBirsp slot n keeps := by
  unfold Dev.birsp
  rw [h]
  dsimp only
  rw [hforeign, hslot]
  dsimp only [List.find?]
  rw [hn]

theorem Dev.biconflict_flow {n : Nat} (hn : d.flowFor slot ld line = some n) : d.biconflict l ldId hpa = d.takeConflict slot n := by
  unfold Dev.biconflict
  rw [h]
  dsimp only
  rw [hforeign, hslot, Option.bind_some, hn]
  rfl

theorem Dev.biconflict_stray (hn : d.flowFor slot ld line = none) : d.biconflict l ldId hpa = ((d.bump 0x17B).bump 0x17C).ackOn l (some ld) := by
  rw [← Dev.ldOnLink_of_snoopedLine h]
  unfold Dev.biconflict
  rw [h]
  dsimp only
  rw [hforeign, hslot, Option.bind_some, hn]
  rfl

end

end

/-- Settles O28: by the line that the answer names, and the flow that waits for it. -/
theorem snoopAnswers : Obligations.SnoopAnswers := by
  refine ⟨fun s k ldId hpa hnone => ⟨?_, fun keeps => ?_⟩, fun s k ldId hpa ld line hline => ⟨fun f keeps hf => ?_,
    fun slot n keeps hforeign hslot hn hahead => ?_, fun slot n keeps hforeign hslot hn hahead => ?_, fun slot hforeign hslot hflows => ?_,
    fun slot n hforeign hslot hn => ?_⟩⟩
  · exact settles_ok (exec_biconflict ..) (Dev.biconflict_none hnone)
  · exact settles_ok (exec_birsp ..) (Dev.birsp_none hnone)
  · exact settles_ok (exec_birsp ..) (Dev.birsp_foreign hline hf)
  · exact settles_ok (exec_birsp ..) ((Dev.birsp_flow hline hforeign hslot hn).trans (if_pos hahead))
  · exact settles_ok (exec_birsp ..) ((Dev.birsp_flow hline hforeign hslot hn).trans (if_neg (Bool.eq_false_iff.mp hahead)))
  · refine settles_ok (exec_biconflict ..) (Dev.biconflict_stray hline hforeign hslot ?_)
    unfold Dev.flowFor
    rw [hflows]
    rfl
  · exact settles_ok (exec_biconflict ..) (Dev.biconflict_flow hline hforeign hslot hn)

end Sys2Proof.Machine
end

section
/-! Lost hosts and directory faults (spec/08 R238 to R242); resets of LDs and the loss of a link (spec/09 R274). -/

namespace Sys2Proof.Machine

open Sys2Proof Sys2Proof.Laws

theorem exec_biTimeout (slot : Fin 32) (s : State) : exec (.biTimeout slot) s = ok (s.dev.biTimeout slot.val) s := rfl
theorem exec_sharerSweep (slot : Fin 32) (s : State) : exec (.sharerSweep slot) s = ok (s.dev.sweep slot.val).flow s := rfl
theorem exec_directoryError (set : Nat) (way : Fin 16) (s : State) :
    exec (.directoryError set way) s = ok (s.dev.directoryError (set % 131072) way.val) s := rfl
theorem exec_ldResetEnd (ld : Fin 32) (s : State) : exec (.ldResetEnd ld) s = ok (s.dev.ldResetEnd ld.val) s := rfl
theorem exec_functionLevelReset (ld : Fin 32) (s : State) : exec (.functionLevelReset ld) s = ok (s.dev.flr ld.val).flow s := rfl
theorem exec_fmApiResetCommand (lds : BitVec 32) (s : State) :
    exec (.fmApiResetCommand lds) s = ok (each ((List.range 32).filter fun i => lds.getLsbD i) s.dev Dev.flr).flow s := rfl
theorem exec_hostLinkDown (k : Link) (s : State) : exec (.hostLinkDown k) s = ok (s.dev.hostDown (linkNum k) 0).flow s := rfl
theorem exec_hostHotReset (k : Link) (s : State) : exec (.hostHotReset k) s = ok (s.dev.hostDown (linkNum k) 1).flow s := rfl

/-! ### Lost hosts -/

theorem Dev.biTimeout_due {d : Dev} {slot : Nat} {f : Flow} (hf : f ∈ d.home.flows) (hwait : slot ∈ f.wait)
    (hdue : f.from_ + d.setting idBiTimeout 0 * 4096 ≤ d.clk.bnd) :
    d.biTimeout slot = ((d.bump 0x17F).doorbell 0x389).losing slot 2 :=
  if_pos (List.any_eq_true.mpr ⟨f, hf, by simp [hwait, hdue]⟩)

/-- A directory entry as the sweep for a slot leaves it (R239). -/
def Dev.sweepEntry (slot : Nat) (d : Dev) (x : Nat × BitVec 64) : Dev :=
  let v := d.de (x.1 / 16) (x.1 % 16)
  let rest := (List.range 32).filter fun y => (deSharers v).getLsbD y && y ≠ slot
  if (deSharers v).getLsbD slot then
    (if deState v = 2 then d.poisonLost (lineOfDe (x.1 / 16) v) else d).setDe (x.1 / 16) (x.1 % 16)
      (mkDe (slotBits rest) (deTag v) (if rest.isEmpty then 0 else deState v) (deBusy v) (deAge v))
  else d

theorem Dev.sweep_in_service {d : Dev} {slot : Nat} (h : d.home.gone.contains slot = false) : d.sweep slot = d :=
  if_pos (by rw [h]; rfl)

/-- The slot is back in service once every entry has been visited (R239). -/
def Dev.backInService (d : Dev) (slot : Nat) : Dev := (({ d with home.gone := d.home.gone.filter (· ≠ slot) } : Dev).wakeHome).settleHome

theorem Dev.sweep_gone {d : Dev} {slot : Nat} (h : d.home.gone.contains slot = true) :
    d.sweep slot = (each d.home.dir d (Dev.sweepEntry slot)).backInService slot := by
  have hstep : (fun (d : Dev) (x : Nat × BitVec 64) =>
      let e := d.de (x.1 / 16) (x.1 % 16)
      if !(deSharers e).getLsbD slot then d
      else
        let n := lineOfDe (x.1 / 16) e
        let d := if deState e = 2 then d.poisonLost n else d
        let rest := (List.range 32).filter fun y => (deSharers e).getLsbD y && y ≠ slot
        d.setDe (x.1 / 16) (x.1 % 16)
          (mkDe (slotBits rest) (deTag e) (if rest.isEmpty then 0 else deState e) (deBusy e) (deAge e))) = Dev.sweepEntry slot := by
    funext d x
    unfold Dev.sweepEntry
    dsimp only
    cases (deSharers (d.de (x.1 / 16) (x.1 % 16))).getLsbD slot <;> rfl
  unfold Dev.sweep
  rw [if_neg (by rw [h]; decide), hstep]
  rfl

/-- Where no slot is assigned a directory error has nobody to tell. -/
theorem Dev.directoryError_unassigned {d : Dev} (set way : Nat) (h : ∀ k, d.setting idSharerSlot k = 0x400) :
    ∃ e x, Signals { d with home.failing := true } e ∧ d.directoryError set way = (e.faultEvent 0x303 2 x 0 reqNone true).doorbell 0x389 := by
  unfold Dev.directoryError
  extract_lets home d1 d2 names own peers d3
  have hsig : Signals { d with home.failing := true } d1 := signals_raise ..
  have hset : ∀ k, d2.setting idSharerSlot k = 0x400 := fun k => by
    obtain ⟨f, -, -, -, hfault⟩ := faultEvent_signals d1 0x303 2 (set * 16 + way + 0xFF * 2 ^ 32) 0 reqNone true
    rw [← h k, Dev.setting, (hfault.trans (signals_doorbell ..)).conf]
    show settingIn d1.conf.cur _ _ = _
    rw [hsig.conf]
    rfl
  have hnames : names = [] := List.filterMap_eq_nil_iff.mpr fun k _ => if_pos (hset k)
  refine ⟨d1, set * 16 + way + 0xFF * 2 ^ 32, hsig, ?_⟩
  simp only [d3, own, peers, hnames]
  rfl

/-! ### Resets of LDs -/

theorem Dev.ldResetEnd_due {d : Dev} {ld : Nat} (hreset : (d.ld ld).resetting = true) (hfrom : (d.ld ld).resetFrom < d.clk.bnd) :
    d.ldResetEnd ld = d.modLd ld fun x => { x with resetting := false } :=
  if_pos (by simp [hreset, hfrom])

/-- What stands of an LD whose reset begins (R274). -/
def resetLd (x : Ld) (bnd : Nat) : Ld := { x with resetting := true, resetFrom := bnd, biId := false, msixOn := false, vecs := [] }

/-- An LD reset: the LD's state, its watches, its foreground command and its sharer slot; then its snoops of other devices fail (R274). -/
def Dev.resetParts (d : Dev) (ld cause : Nat) : Dev :=
  ((({ (d.modLd ld fun x => resetLd x d.clk.bnd) with
    ev.watches := d.ev.watches.filter (fun e => e.2.owner ≠ ld), ev.progs := d.ev.progs.filter fun e => e.2.owner ≠ ld } : Dev).abortForeground ld).loseLd ld cause)

theorem Dev.ldReset_eq (d : Dev) (ld cause : Nat) : d.ldReset ld cause = (d.resetParts ld cause).dropForeign ld := rfl

theorem Dev.losing_eq (d : Dev) (s cause : Nat) : ∃ going, d.losing s cause = { d with home.going := going } := by
  unfold Dev.losing
  split
  · exact ⟨d.home.going, rfl⟩
  · exact ⟨_, rfl⟩

theorem Dev.loseLd_eq (d : Dev) (ld cause : Nat) : ∃ going, d.loseLd ld cause = { d with home.going := going } := by
  unfold Dev.loseLd
  split
  · exact Dev.losing_eq ..
  · exact ⟨d.home.going, rfl⟩

theorem Dev.resetParts_host (d : Dev) (ld cause : Nat) :
    (∀ n, (d.resetParts ld cause).ld n = if n = ld then resetLd (d.ld ld) d.clk.bnd else d.ld n) ∧
      (d.resetParts ld cause).host.links = d.host.links ∧ ∀ e ∈ (d.resetParts ld cause).ev.watches, e.2.owner ≠ ld := by
  unfold Dev.resetParts
  obtain ⟨going, h⟩ := Dev.loseLd_eq (({ (d.modLd ld fun x => resetLd x d.clk.bnd) with
    ev.watches := d.ev.watches.filter (fun e => e.2.owner ≠ ld), ev.progs := d.ev.progs.filter fun e => e.2.owner ≠ ld } : Dev).abortForeground ld) ld cause
  rw [h]
  refine ⟨fun n => ?_, rfl, fun e he => by simpa using (List.mem_filter.mp he).2⟩
  show (d.modLd ld fun x => resetLd x d.clk.bnd).ld n = _
  by_cases hn : n = ld
  · rw [hn, Dev.ld_modLd_self, if_pos rfl]
  · rw [Dev.ld_modLd_ne _ _ _ _ hn, if_neg hn]

theorem Dev.dropForeign_sends (d : Dev) (ld : Nat) : ∃ foreign, Sends { d with home.foreign := foreign } (d.dropForeign ld) := by
  unfold Dev.dropForeign
  extract_lets mine
  exact ⟨_, each_induct (Sends _) (Sends.refl _) fun e f _ h => h.trans (Sends.sendMsg ..)⟩

/-- A reset leaves the links and, but for vectors, the other LDs alone. -/
theorem Dev.ldReset_frame (d : Dev) (ld cause : Nat) :
    (d.ldReset ld cause).host.links = d.host.links ∧
      ∀ n, ∃ v, (d.ldReset ld cause).ld n = { (if n = ld then resetLd (d.ld ld) d.clk.bnd else d.ld n) with vecs := v } := by
  obtain ⟨hld, hlinks, -⟩ := d.resetParts_host ld cause
  obtain ⟨foreign, hsend⟩ := (d.resetParts ld cause).dropForeign_sends ld
  rw [Dev.ldReset_eq]
  exact ⟨hsend.links.trans hlinks, fun n => by rw [← hld n]; exact hsend.ld n⟩

/-! ### Vectors that no watch signals -/

/-- No watch of an LD runs, and the LD stands as X. -/
def Unwatched (ld : Nat) (x : Ld) (d : Dev) : Prop := (∀ e ∈ d.ev.watches, e.2.owner ≠ ld) ∧ d.ld ld = x

theorem Tab.mem_put {α : Type} {t : Tab α} {k : Nat} {v : α} {e : Nat × α} (h : e ∈ t.put k v) : e = (k, v) ∨ e ∈ t := by
  induction t with
  | nil => exact .inl (List.mem_singleton.mp h)
  | cons x t ih =>
    obtain ⟨k', v'⟩ := x
    unfold Tab.put at h
    split at h
    · exact (List.mem_cons.mp h).imp_right id
    · split at h
      · exact (List.mem_cons.mp h).imp_right (List.mem_cons_of_mem _)
      · rcases List.mem_cons.mp h with rfl | h
        · exact .inr (List.mem_cons_self ..)
        · exact (ih h).imp_right (List.mem_cons_of_mem _)

theorem Tab.mem_of_look {α : Type} {t : Tab α} {k : Nat} {v : α} (h : t.look k = some v) : (k, v) ∈ t := by
  induction t with
  | nil => cases h
  | cons e t ih =>
    obtain ⟨k', v'⟩ := e
    unfold Tab.look at h
    split at h
    next hk => cases h; exact hk ▸ List.mem_cons_self ..
    next => exact List.mem_cons_of_mem _ (ih h)

theorem Watch.advance_owner (w : Watch) (n : Nat) : (w.advance n).1.owner = w.owner := by
  unfold Watch.advance
  by_cases h : w.value.toNat + n < 2 ^ 48
  · simp only [if_pos h]
  · simp only [if_neg h]

namespace Unwatched

variable {ld : Nat} {x : Ld} {d : Dev} (h : Unwatched ld x d)
include h

theorem of_eq {d' : Dev} (hw : d'.ev.watches = d.ev.watches) (hl : d'.host.lds = d.host.lds) : Unwatched ld x d' :=
  ⟨hw ▸ h.1, by rw [Dev.ld, hl]; exact h.2⟩

theorem count (i n : Nat) : Unwatched ld x (d.count i n) := by
  unfold Dev.count
  extract_lets ev d1
  have h1 : Unwatched ld x d1 := by
    refine h.of_eq ?_ ?_ <;> (simp only [d1]; split <;> rfl)
  refine each_induct (Unwatched ld x) h1 fun e k hk he => ?_
  obtain ⟨k, w⟩ := k
  have hput : ∀ e' ∈ e.ev.watches.put k (w.advance n).1, e'.2.owner ≠ ld := fun e' he' => by
    rcases Tab.mem_put he' with rfl | he'
    · rw [Watch.advance_owner]
      exact h1.1 _ hk
    · exact he.1 e' he'
  dsimp only
  split
  · split <;> exact ⟨hput, he.2⟩
  · exact he

theorem deliver (n : Nat) : Unwatched ld x (d.deliver n) := by
  unfold Dev.deliver
  extract_lets s
  split
  · exact h
  · exact Unwatched.count (of_eq h (by rfl) (by rfl)) ..

theorem ring (n : Nat) : Unwatched ld x (d.ring n) := by
  unfold Dev.ring
  extract_lets s s' ev d1
  have h1 : Unwatched ld x d1 := h.of_eq rfl rfl
  split
  · exact h1.deliver ..
  · exact h1

theorem setVec {m : Nat} (hm : ld ≠ m) (v : Nat) (y : Vec) : Unwatched ld x (d.setVec m v y) :=
  ⟨h.1, (Dev.ld_modLd_ne _ _ _ _ hm).trans h.2⟩

theorem fireVec {m : Nat} (hm : ld ≠ m) (v : Nat) : Unwatched ld x (d.fireVec m v) := by
  unfold Dev.fireVec
  extract_lets y d1
  have h1 : Unwatched ld x d1 := h.setVec hm ..
  split
  · exact h1
  · exact (h1.of_eq (d' := d1.say _) rfl rfl).count ..

theorem vecEvent {m : Nat} (hm : ld ≠ m) (v : Nat) : Unwatched ld x (d.vecEvent m v) := by
  unfold Dev.vecEvent
  split
  · exact h.setVec hm ..
  · extract_lets y z d1
    have h1 : Unwatched ld x d1 := h.setVec hm ..
    split
    · exact h1.fireVec hm ..
    · exact h1

theorem settle : Unwatched ld x d.settle := by
  unfold Dev.settle
  extract_lets owed
  refine each_induct (Unwatched ld x) (h.of_eq rfl rfl) fun e k _ he => ?_
  extract_lets e1
  have h1 : Unwatched ld x e1 := he.ring ..
  split
  next w hw =>
    split
    · split
      · exact h1.of_eq rfl rfl
      · exact h1.vecEvent (Ne.symm (h1.1 _ (Tab.mem_of_look hw))) ..
    · exact h1
  · exact h1

theorem bump (e n : Nat) : Unwatched ld x (d.bump e n) := by
  unfold Dev.bump
  split
  · exact h
  · exact (h.count ..).settle

theorem sendFlit (p : Nat) (m : Msg) : Unwatched ld x (d.sendFlit p m) := by
  unfold Dev.sendFlit
  exact Unwatched.bump (of_eq h (by rfl) (by rfl)) ..

theorem launch (p : Nat) (m : Msg) (from_ : Option Nat) : Unwatched ld x (d.launch p m from_) := by
  unfold Dev.launch
  split
  · exact (h.of_eq (d' := d.modTport p _) rfl rfl).sendFlit ..
  · exact h.sendFlit ..

theorem pumpList (p : Nat) (tx : List (Msg × Option Nat)) (blocked : List (Bool × Nat)) (left : List (Msg × Option Nat)) :
    Unwatched ld x (d.pumpList p tx blocked left) := by
  induction tx generalizing d blocked left with
  | nil => exact h.of_eq rfl rfl
  | cons e tx ih =>
    unfold Dev.pumpList
    extract_lets key
    split
    · exact ih h ..
    · exact ih (h.launch ..) ..

theorem sendMsg (p : Nat) (m : Msg) (from_ : Option Nat) : Unwatched ld x (d.sendMsg p m from_) :=
  (h.of_eq (d' := d.modTport p _) rfl rfl).pumpList ..

end Unwatched

/-- A reset's LD has its MSI-X state cleared when the reset's actions have begun: none of its watches is left to signal (R274, R423). -/
theorem Dev.ldReset_own (d : Dev) (ld cause : Nat) : (d.ldReset ld cause).ld ld = resetLd (d.ld ld) d.clk.bnd := by
  obtain ⟨hld, -, hwatch⟩ := d.resetParts_host ld cause
  have h : Unwatched ld (resetLd (d.ld ld) d.clk.bnd) (d.resetParts ld cause) := ⟨hwatch, (hld ld).trans (if_pos rfl)⟩
  rw [Dev.ldReset_eq]
  unfold Dev.dropForeign
  extract_lets mine
  refine And.right (each_induct (Unwatched ld (resetLd (d.ld ld) d.clk.bnd)) (h.of_eq (by rfl) (by rfl)) ?_)
  exact fun e f _ he => he.sendMsg ..

/-! ### Link loss -/

/-- A link that is down owes nothing and holds nothing (R274). -/
def downLink (x : HLink) : HLink :=
  { x with
    st := .down, width := 0, egress := [], snoops := [], ndr := 0, drs := 0, bisnp := 0, widthDue := false
    widthReset := none, ideIo := .off, ideMem := .off }

/-- The link and the requests of a link that goes down (R274). -/
def Dev.linkLost (d : Dev) (l : Nat) : Dev :=
  { d.modLink l downLink with
    path.reqs := (d.path.reqs.filter fun q => !(q.onLink l && q.stage = .store)).map fun q => if q.onLink l then { q with dead := true } else q }

theorem Dev.hostDown_up {d : Dev} {l : Nat} (cause : Nat) (h : (d.link l).st ≠ .down) :
    d.hostDown l cause = (each (d.linkLds l) (d.linkLost l) fun d ld => d.ldReset ld cause).checkScan :=
  if_neg h

theorem Dev.linkLost_link (d : Dev) (l : Nat) :
    ((d.linkLost l).link l).st = .down ∧ ((d.linkLost l).link l).egress = [] ∧ ((d.linkLost l).link l).snoops = [] := by
  have h : (d.linkLost l).link l = downLink (d.link l) := Dev.link_modLink_self ..
  rw [h]
  exact ⟨rfl, rfl, rfl⟩

theorem Dev.linkLost_reqs (d : Dev) (l : Nat) : ∀ q ∈ (d.linkLost l).path.reqs, q.onLink l = true → q.dead = true ∧ q.stage ≠ .store := by
  intro q hq hl
  obtain ⟨q', hq', rfl⟩ := List.mem_map.mp hq
  have hkeep := (List.mem_filter.mp hq').2
  by_cases hon : q'.onLink l = true
  · rw [if_pos hon]
    refine ⟨rfl, ?_⟩
    simpa [hon] using hkeep
  · rw [if_neg hon] at hl
    exact absurd hl hon

/-- The end of a scan leaves links and, but for vectors, LDs alone. -/
theorem Dev.checkScan_frame (d : Dev) : d.checkScan.host.links = d.host.links ∧ ∀ n, ∃ v, d.checkScan.ld n = { d.ld n with vecs := v } := by
  unfold Dev.checkScan
  split
  · split
    · unfold Dev.endScan
      extract_lets glint d1
      split
      · obtain ⟨b, hsig⟩ := endBgRet_signals d1 _ Status.success.ret (Status.success.code + 4096 * flag false) (statusWord .success false ++ zeros 6)
        exact ⟨hsig.links, hsig.ld⟩
      · exact ⟨rfl, fun n => ⟨_, rfl⟩⟩
    · exact ⟨rfl, fun n => ⟨_, rfl⟩⟩
  · exact ⟨rfl, fun n => ⟨_, rfl⟩⟩

theorem Dev.hostDown_frame {d : Dev} {l : Nat} (cause : Nat) (h : (d.link l).st ≠ .down) :
    ((d.hostDown l cause).link l).st = .down ∧
      ∀ ld ∈ d.linkLds l, ((d.hostDown l cause).ld ld).resetting = true ∧ ((d.hostDown l cause).ld ld).biId = false := by
  rw [Dev.hostDown_up cause h]
  generalize hx : each (d.linkLds l) (d.linkLost l) (fun d ld => d.ldReset ld cause) = x
  obtain ⟨hlinks, hlds⟩ := x.checkScan_frame
  constructor
  · rw [Dev.link, hlinks, ← hx]
    exact (congrArg HLink.st (each_keeps _ _ _ (fun d : Dev => d.link l) fun d ld => by rw [Dev.link, (d.ldReset_frame ld cause).1]; rfl)).trans
      (d.linkLost_link l).1
  · intro ld hld
    obtain ⟨v, hv⟩ := hlds ld
    rw [hv, ← hx]
    refine each_establishes hld (fun _ => True) (fun e : Dev => (e.ld ld).resetting = true ∧ (e.ld ld).biId = false) trivial
      (fun _ _ _ => trivial) (fun e _ => ?_) fun e m he => ?_
    · rw [Dev.ldReset_own]
      exact ⟨rfl, rfl⟩
    · obtain ⟨v, hv⟩ := (e.ldReset_frame m cause).2 ld
      rw [hv]
      split
      · exact ⟨rfl, rfl⟩
      · exact he

theorem fm_names_ld : ∀ ld : Fin 32, ((List.range 32).filter fun i => (1 <<< ld.val : BitVec 32).getLsbD i) = [ld.val] := by decide

/-- Settles O29: the home's parts first, then the resets that an LD and a link begin. -/
theorem lossResetsAndLinkLoss : Obligations.LossResetsAndLinkLoss := by
  refine ⟨⟨fun s slot f hf hwait hdue hgone hgoing => ?_, fun s slot hgone hdir => ?_, fun s slot => ?_, fun s set way hset => ?_⟩,
    fun s ld hreset hfrom => ?_, fun s ld l hl => ?_, fun s k hup hlds hscan => ?_, fun s k hup => ?_⟩
  · refine completes_ok (exec_biTimeout ..) ?_
    rw [Dev.biTimeout_due hf hwait hdue]
    have hhome : ((s.dev.bump 0x17F).doorbell 0x389).home = s.dev.home := by simp
    unfold Dev.losing
    rw [hhome, hgone, hgoing]
    rfl
  · refine settles_ok (exec_sharerSweep ..) ((Dev.sweep_gone hgone).trans ?_)
    rw [hdir]
    rfl
  · intro visit
    refine ⟨fun hin => settles_ok (exec_sharerSweep ..) (Dev.sweep_in_service hin), fun hgone => ?_⟩
    exact settles_ok (exec_sharerSweep ..) ⟨_, rfl, Dev.sweep_gone hgone⟩
  · refine completes_ok (exec_directoryError ..) ?_
    obtain ⟨e, x, hsig, heq⟩ := Dev.directoryError_unassigned (d := s.dev) (set % 131072) way.val hset
    obtain ⟨f, -, -, hsticky, hfault⟩ := faultEvent_signals e 0x303 2 x 0 reqNone true
    have hall := hfault.trans (signals_doorbell _ 0x389)
    rw [heq]
    refine ⟨?_, ?_⟩
    · rw [hall.home]
      exact hsig.home
    · rw [Dev.source, hall.fault]
      exact hsticky
  · refine completes_ok (exec_ldResetEnd ..) ?_
    rw [Dev.ldResetEnd_due hreset hfrom]
    exact ⟨Dev.ld_modLd_self .., fun n hn => Dev.ld_modLd_ne _ _ _ _ hn⟩
  · intro gone
    have hflr : gone (s.dev.flr ld.val) := by
      show gone (if (s.dev.ldLink ld.val).isSome then s.dev.ldReset ld.val 1 else s.dev)
      rw [if_pos (by rw [hl]; rfl)]
      simp only [gone, Dev.ldReset_own]
      exact ⟨rfl, rfl, rfl, rfl, rfl⟩
    refine ⟨settles_ok (exec_functionLevelReset ..) hflr, settles_ok (exec_fmApiResetCommand ..) ?_⟩
    rw [fm_names_ld]
    exact hflr
  · intro gone
    have hgone : ∀ cause, gone (s.dev.hostDown (linkNum k) cause) := fun cause => by
      have heq : s.dev.hostDown (linkNum k) cause = s.dev.linkLost (linkNum k) := by
        rw [Dev.hostDown_up cause hup, hlds]
        show (s.dev.linkLost (linkNum k)).checkScan = _
        unfold Dev.checkScan
        rw [show (s.dev.linkLost (linkNum k)).glint.scan = none from hscan]
      rw [heq]
      obtain ⟨hst, heg, hsn⟩ := s.dev.linkLost_link (linkNum k)
      exact ⟨hst, heg, hsn, s.dev.linkLost_reqs _⟩
    exact ⟨settles_ok (exec_hostLinkDown ..) (hgone 0), settles_ok (exec_hostHotReset ..) (hgone 1)⟩
  · intro gone
    exact ⟨settles_ok (exec_hostLinkDown ..) (Dev.hostDown_frame 0 hup), settles_ok (exec_hostHotReset ..) (Dev.hostDown_frame 1 hup)⟩

end Sys2Proof.Machine
end

section
/-! Host links (spec/09 R246 to R248, R256, R273; spec/10 R292), IDE and viral (R262, R263), decoders and back-invalidate (R252, R254), and the
unmasking of a vector (spec/15 R413). -/

namespace Sys2Proof.Machine

open Sys2Proof Sys2Proof.Laws

theorem exec_hostLinkUp (k : Link) (cxl flit256 mld : Bool) (width : Nat) (rate : BitVec 8) (ndr drs bisnp : Nat) (s : State) :
    exec (.hostLinkUp k cxl flit256 mld width rate ndr drs bisnp) s =
      ok (s.dev.hostUp (linkNum k) cxl flit256 mld width rate ndr drs bisnp).flow s := rfl
theorem exec_s2mCreditReturn (k : Link) (ndr drs bisnp : Nat) (s : State) :
    exec (.s2mCreditReturn k ndr drs bisnp) s = ok (s.dev.creditReturn (linkNum k) ndr drs bisnp) s := rfl
theorem exec_hostLinkError (k : Link) (cor : Bool) (b : BitVec 5) (s : State) :
    exec (.hostLinkError k cor b) s = ok (s.dev.hostLinkError (linkNum k) cor b.toNat) s := rfl
theorem exec_hostWidthResetDone (k : Link) (s : State) : exec (.hostWidthResetDone k) s = ok (s.dev.hostWidthDone (linkNum k)).flow s := rfl
theorem exec_ideKmKeyProgramming (k : Link) (io containment : Bool) (key : BitVec 256) (s : State) :
    exec (.ideKmKeyProgramming k io containment key) s = ok (s.dev.ideKm (linkNum k) io containment key) s := rfl
theorem exec_ideIntegrityFailure (k : Link) (io : Bool) (s : State) :
    exec (.ideIntegrityFailure k io) s = ok (s.dev.ideFail (linkNum k) io) s := rfl
theorem exec_hdmDecoderCommit (ld : Fin 32) (n : Fin 4) (x : Decoder) (s : State) :
    exec (.hdmDecoderCommit ld n x) s = ok (s.dev.commitDecoder ld.val n.val x) s := rfl
theorem exec_biEnableWrite (k : Link) (on : Bool) (s : State) : exec (.biEnableWrite k on) s = ok (s.dev.biWrite (linkNum k) on).flow s := rfl
theorem exec_msixVectorUnmask (ld : Fin 32) (v : Fin 8) (s : State) : exec (.msixVectorUnmask ld v) s = ok (s.dev.unmask ld.val v.val).settle s := rfl

/-! ### Links -/

/-- A link that owes nothing sends nothing. -/
theorem Dev.flush_idle {d : Dev} {l : Nat} (hegress : (d.link l).egress = []) (hsnoops : (d.link l).snoops = []) : d.flush l = d := by
  unfold Dev.flush
  rw [hegress]
  show Dev.flushSnoops (d.link l).snoops.length d l = d
  rw [hsnoops]
  rfl

section
variable {d : Dev} {l : Nat}

theorem Dev.hostUp_down {cxl flit256 mld : Bool} {width : Nat} {rate : BitVec 8} {ndr drs bisnp : Nat}
    (hmay : d.mayTrain l cxl flit256 mld width rate.toNat = true) (hst : (d.link l).st = .down) :
    ∃ rev lanes, d.hostUp l cxl flit256 mld width rate ndr drs bisnp =
      (d.setLink l { d.link l with
        st := .up, cxl := cxl, flit256 := flit256, mld := mld, width := width, rate := rate, reversed := rev, lanes := lanes
        ndr := ndr, drs := drs, bisnp := bisnp }).flush l := by
  unfold Dev.hostUp
  rw [if_neg (by simp [hmay])]
  extract_lets x n rev up
  have hup : up = false := by simp [up, x, hst]
  generalize widthOf n (d.laneGood l) = best
  obtain ⟨best, _⟩ := best
  rw [hup]
  exact ⟨rev, _, rfl⟩

theorem Dev.creditReturn_up {ndr drs bisnp : Nat} (hst : (d.link l).st ≠ .down) :
    d.creditReturn l ndr drs bisnp =
      (d.modLink l fun x => { x with ndr := x.ndr + ndr, drs := x.drs + drs, bisnp := x.bisnp + bisnp }).flush l :=
  if_neg hst

theorem Dev.hostLinkError_correctable {n : Nat} (hst : (d.link l).st ≠ .down) :
    d.hostLinkError l true n =
      let e := d.modLink l fun x => { x with aerCor := x.aerCor ||| BitVec.ofNat 32 (2 ^ n) }
      e.faultEvent (srcHostLink l) n (e.link l).aerCor.toNat :=
  if_neg hst

theorem Dev.hostLinkError_uncorrectable {n : Nat} (hst : (d.link l).st ≠ .down) :
    d.hostLinkError l false n = d.modLink l fun x => { x with aerUnc := x.aerUnc ||| BitVec.ofNat 32 (2 ^ n) } :=
  if_neg hst

theorem Dev.hostWidthDone_same {n w : Nat} {rev : Bool} (hreset : (d.link l).widthReset = some n)
    (hw : widthOf (d.linkSize l) (fun i => d.laneGood l i && (d.link l).lanes.getLsbD i) = (w, rev)) (hpos : w ≠ 0) (hsame : w = (d.link l).width) :
    d.hostWidthDone l = (d.setLink l { d.link l with widthReset := none, width := w, reversed := rev }).flush l := by
  unfold Dev.hostWidthDone
  rw [if_neg (by simp [hreset]), hw]
  dsimp only
  rw [if_neg hpos, if_pos hsame]

end

/-- An event stands sticky at its source; only the fault part and what signals differ. -/
theorem faultEvent_source (d : Dev) (n code detail : Nat) (label : Label) (who : BitVec 8) (hard : Bool) :
    ((d.faultEvent n code detail label who hard).source n).sticky = true ∧
      (d.faultEvent n code detail label who hard).host.links = d.host.links := by
  obtain ⟨f, -, -, hsticky, hsig⟩ := faultEvent_signals d n code detail label who hard
  exact ⟨by rw [Dev.source, hsig.fault]; exact hsticky, hsig.links⟩

/-- A security alarm is an event of its source, with its record (R391). -/
theorem alarm_source (d : Dev) (source code addr key level : Nat) (lds : List Nat) :
    ((d.alarm source code addr key level lds).source source).sticky = true ∧ (d.alarm source code addr key level lds).host.links = d.host.links := by
  unfold Dev.alarm
  extract_lets detail e lk e'
  have he := faultEvent_source d source code detail 0 0xFF true
  have hsig : ∀ x, Signals e' x → (x.source source).sticky = true ∧ x.host.links = d.host.links := fun x hx =>
    ⟨by rw [Dev.source, hx.fault]; exact he.1, hx.links.trans he.2⟩
  split
  · split
    · exact hsig _ (signals_record ..)
    · exact hsig _ (signals_each _ _ _ fun d ld => signals_raiseFault ..)
  · exact he

/-! ### IDE -/

section
variable {d : Dev} {l : Nat} (hst : (d.link l).st ≠ .down)
include hst

theorem Dev.ideKm_taken (io containment : Bool) (key : BitVec 256) (hsession : (d.ideSession l).isSome = true) :
    d.ideKm l io containment key =
      if io then d.modLink l fun x => { x with ideIo := .secure, ideKeys := (key, x.ideKeys.2) }
      else d.modLink l fun x => { x with ideMem := if containment then .containment else .skid, ideKeys := (x.ideKeys.1, key) } :=
  if_neg (by simp [hst, Option.isSome_iff_ne_none.mp hsession])

theorem Dev.ideFail_io (hio : (d.link l).ideIo = .secure) :
    d.ideFail l true = (d.setLink l { d.link l with ideIo := .insecure, aerUnc := (d.link l).aerUnc ||| aerInternal }).alarm 0x903 5 0 0 15 [] := by
  unfold Dev.ideFail
  simp [hst, hio]

theorem Dev.ideFail_mem (hmem : (d.link l).ideMem = .skid) :
    d.ideFail l false = ((d.setLink l { d.link l with ideMem := .failed }).enterViral l).alarm 0x903 5 0 0 15 [] := by
  unfold Dev.ideFail
  simp [hst, hmem]

end

/-! ### Decoders and back-invalidate -/

theorem Dev.commitDecoder_legal {d : Dev} {ld n : Nat} {x : Decoder} (hlegal : x.legal = true) (hlink : (d.ldLink ld).isSome = true) :
    d.commitDecoder ld n x =
      if x.dpaBase + x.span ≤ 2 ^ 44 ∧ x.dpaBase / 2 ^ 41 = (x.dpaBase + x.span - 1) / 2 ^ 41 then d.modLd ld fun y => { y with hdm := y.hdm.put n x }
      else d := by
  simp [Dev.commitDecoder, hlegal, hlink]

/-- The loss of a sharer slot leaves links alone. -/
theorem Dev.loseForeign_links (d : Dev) (ld cause : Nat) : ((d.loseLd ld cause).dropForeign ld).host.links = d.host.links := by
  obtain ⟨going, h⟩ := d.loseLd_eq ld cause
  obtain ⟨foreign, hsend⟩ := (d.loseLd ld cause).dropForeign_sends ld
  rw [hsend.links, h]

/-- Back-invalidate of a link and of one of its LDs (R254). -/
def Dev.biStep (l : Nat) (enable was : Bool) (d : Dev) (ld : Nat) : Dev :=
  if enable then d.modLd ld fun x => { x with biId := (d.link l).mld }
  else if was then (d.loseLd ld 0).dropForeign ld else d

theorem Dev.biWrite_eq (d : Dev) (l : Nat) (enable : Bool) :
    d.biWrite l enable = each (d.linkLds l) (d.modLink l fun x => { x with bi := enable }) (Dev.biStep l enable (d.link l).bi) := rfl

theorem Dev.biStep_links (l : Nat) (enable was : Bool) (d : Dev) (ld : Nat) : (Dev.biStep l enable was d ld).host.links = d.host.links := by
  unfold Dev.biStep
  split
  · rfl
  · split
    · exact Dev.loseForeign_links ..
    · rfl

theorem Dev.biWrite_link (d : Dev) (l : Nat) (enable : Bool) : (d.biWrite l enable).link l = { d.link l with bi := enable } := by
  have hlinks : (d.biWrite l enable).host.links = (d.modLink l fun x => { x with bi := enable }).host.links :=
    each_keeps _ _ _ (fun e : Dev => e.host.links) fun e ld => Dev.biStep_links ..
  rw [Dev.link, hlinks]
  exact Dev.link_modLink_self ..

theorem Dev.biWrite_biId (d : Dev) {l ld : Nat} (hld : ld ∈ d.linkLds l) : ((d.biWrite l true).ld ld).biId = (d.link l).mld := by
  have hmld : ((d.modLink l fun x => { x with bi := true }).link l).mld = (d.link l).mld := by rw [Dev.link_modLink_self]
  rw [Dev.biWrite_eq]
  refine each_establishes hld (f := Dev.biStep l true (d.link l).bi) (fun e : Dev => (e.link l).mld = (d.link l).mld) (fun e : Dev => (e.link l).mld = (d.link l).mld ∧ (e.ld ld).biId = (d.link l).mld)
    hmld (fun e m he => he) (fun e he => ⟨he, ?_⟩) (fun e m he => ⟨he.1, ?_⟩) |>.2
  · show ((e.modLd ld fun x => { x with biId := (e.link l).mld }).ld ld).biId = _
    rw [Dev.ld_modLd_self]
    exact he
  · show ((e.modLd m fun x => { x with biId := (e.link l).mld }).ld ld).biId = _
    by_cases hm : ld = m
    · subst hm
      rw [Dev.ld_modLd_self]
      exact he.1
    · rw [Dev.ld_modLd_ne _ _ _ _ hm]
      exact he.2

/-! ### Vectors -/

/-- Signals never set or clear a vector's mask. -/
structure SameMasks (d d' : Dev) : Prop where
  masked : ∀ ld v, (d'.vec ld v).masked = (d.vec ld v).masked

namespace SameMasks

theorem refl (d : Dev) : SameMasks d d := ⟨fun _ _ => rfl⟩

theorem trans {a b c : Dev} (h : SameMasks a b) (g : SameMasks b c) : SameMasks a c :=
  ⟨fun ld v => (g.masked ld v).trans (h.masked ld v)⟩

theorem of_lds {d d' : Dev} (h : d'.host.lds = d.host.lds) : SameMasks d d' := ⟨fun ld v => by rw [Dev.vec, Dev.ld, h]; rfl⟩

theorem count (d : Dev) (i n : Nat) : SameMasks d (d.count i n) := by
  unfold Dev.count
  extract_lets ev d1
  have h1 : SameMasks d d1 := of_lds (by simp only [d1]; split <;> rfl)
  refine each_induct (SameMasks d) h1 fun e k _ he => ?_
  obtain ⟨k, w⟩ := k
  dsimp only
  split
  · split <;> exact he.trans (of_lds rfl)
  · exact he

theorem ring (d : Dev) (n : Nat) : SameMasks d (d.ring n) := by
  unfold Dev.ring
  extract_lets s s' ev d1
  have h1 : SameMasks d d1 := of_lds rfl
  split
  · unfold Dev.deliver
    extract_lets x
    split
    · exact h1
    · exact trans (h1.trans (of_lds (by rfl))) (count ..)
  · exact h1

theorem setVec (d : Dev) (ld v : Nat) (x : Vec) (h : x.masked = (d.vec ld v).masked) : SameMasks d (d.setVec ld v x) := by
  refine ⟨fun m w => ?_⟩
  unfold Dev.vec Dev.setVec
  by_cases hm : m = ld
  · subst hm
    rw [Dev.ld_modLd_self]
    by_cases hw : w = v
    · subst hw
      exact (congrArg Vec.masked (Tab.val_put_self ..)).trans h
    · exact congrArg Vec.masked (Tab.val_put_ne _ _ _ hw)
  · rw [Dev.ld_modLd_ne _ _ _ _ hm]

theorem msix (d : Dev) (ld v : Nat) : SameMasks d (d.msix ld v) :=
  trans (b := d.say (.msix ld v)) (of_lds rfl) (count ..)

theorem vecEvent (d : Dev) (ld v : Nat) : SameMasks d (d.vecEvent ld v) := by
  unfold Dev.vecEvent
  split
  · exact setVec _ _ _ _ rfl
  · extract_lets y z d1
    have h1 : SameMasks d d1 := setVec _ _ _ _ rfl
    split
    · unfold Dev.fireVec
      extract_lets y d2
      have h2 : SameMasks d d2 := h1.trans (setVec _ _ _ _ rfl)
      split
      · exact h2
      · exact h2.trans (msix ..)
    · exact h1

theorem settle (d : Dev) : SameMasks d d.settle := by
  unfold Dev.settle
  extract_lets owed
  refine each_induct (SameMasks d) (of_lds rfl) fun e k _ he => ?_
  extract_lets e1
  have h1 : SameMasks d e1 := he.trans (ring ..)
  split
  · split
    · split
      · exact h1.trans (of_lds rfl)
      · exact h1.trans (vecEvent ..)
    · exact h1
  · exact h1

end SameMasks

/-- A vector without its mask and its pending bit. -/
def Dev.cleared (d : Dev) (ld v : Nat) : Dev := d.setVec ld v { d.vec ld v with masked := false, pending := false }

theorem Dev.cleared_vec (d : Dev) (ld v : Nat) : (d.cleared ld v).vec ld v = { d.vec ld v with masked := false, pending := false } := by
  unfold Dev.cleared Dev.setVec
  rw [Dev.vec, Dev.ld_modLd_self]
  exact Tab.val_put_self ..

theorem Dev.unmask_pending {d : Dev} {ld v : Nat} (hmasked : (d.vec ld v).masked = true) (hpending : (d.vec ld v).pending = true)
    (halive : d.vecsDead ld = false) : d.unmask ld v = (d.cleared ld v).msix ld v := by
  have hset : d.setVec ld v { d.vec ld v with masked := false, pending := (d.vec ld v).pending && d.vecsDead ld } = d.cleared ld v := by
    rw [halive, Bool.and_false]
    rfl
  have hdead : (d.cleared ld v).vecsDead ld = d.vecsDead ld := by
    unfold Dev.vecsDead Dev.cleared Dev.setVec
    rw [Dev.ld_modLd_self]
    rfl
  unfold Dev.unmask
  dsimp only
  rw [hset, if_pos (by simp [hmasked, hpending, hdead, halive])]

theorem msix_out (d : Dev) (ld v : Nat) : Out.msix ld v ∈ (d.msix ld v).out := by
  obtain ⟨more, hout⟩ := (signals_count (d.say (.msix ld v)) (ctrLd ld (0x20 + v)) 1).out
  show _ ∈ ((d.say (.msix ld v)).count _ 1).out
  rw [hout]
  simp [Dev.say]

/-- Settles O30: link by link, then the LDs' registers. -/
theorem hostLinksPortsIde : Obligations.HostLinksPortsIde := by
  refine ⟨⟨?_, ?_, ?_, ?_⟩, ?_, ?_, ?_, ?_, ?_, ?_⟩
  · intro s k cxl flit256 mld width rate ndr drs bisnp hmay hst hegress hsnoops
    obtain ⟨rev, lanes, heq⟩ := Dev.hostUp_down (ndr := ndr) (drs := drs) (bisnp := bisnp) hmay hst
    refine settles_ok (exec_hostLinkUp ..) ?_
    rw [heq, Dev.flush_idle (by rw [Dev.link_setLink_self]; exact hegress) (by rw [Dev.link_setLink_self]; exact hsnoops), Dev.link_setLink_self]
    exact ⟨rfl, rfl, rfl, rfl, rfl, rfl, rfl, rfl, rfl⟩
  · intro s k ndr drs bisnp hst hegress hsnoops
    refine completes_ok (exec_s2mCreditReturn ..) ?_
    rw [Dev.creditReturn_up hst, Dev.flush_idle (by rw [Dev.link_modLink_self]; exact hegress) (by rw [Dev.link_modLink_self]; exact hsnoops),
      Dev.link_modLink_self]
    exact ⟨rfl, rfl⟩
  · intro s k b hst
    refine ⟨completes_ok (exec_hostLinkError ..) ?_, completes_ok (exec_hostLinkError ..) (Dev.hostLinkError_uncorrectable hst)⟩
    rw [Dev.hostLinkError_correctable hst]
    dsimp only
    obtain ⟨hsticky, hlinks⟩ := faultEvent_source (s.dev.modLink (linkNum k) fun x => { x with aerCor := x.aerCor ||| BitVec.ofNat 32 (2 ^ b.toNat) })
      (srcHostLink (linkNum k)) b.toNat ((s.dev.modLink (linkNum k) fun x => { x with aerCor := x.aerCor ||| BitVec.ofNat 32 (2 ^ b.toNat) }).link
        (linkNum k)).aerCor.toNat 0 0xFF false
    refine ⟨?_, hsticky⟩
    rw [Dev.link, hlinks]
    exact congrArg HLink.aerCor (Dev.link_modLink_self ..)
  · intro s k n w rev hreset hw hpos hsame hegress hsnoops
    refine settles_ok (exec_hostWidthResetDone ..) ?_
    rw [Dev.hostWidthDone_same hreset hw hpos hsame,
      Dev.flush_idle (by rw [Dev.link_setLink_self]; exact hegress) (by rw [Dev.link_setLink_self]; exact hsnoops), Dev.link_setLink_self]
  · intro s k io containment key hst hsession
    refine completes_ok (exec_ideKmKeyProgramming ..) ?_
    rw [Dev.ideKm_taken hst io containment key hsession]
    cases io
    · simp only [Bool.false_eq_true, if_false, Dev.link_modLink_self]
      exact ⟨trivial, trivial, trivial⟩
    · simp only [if_true, Dev.link_modLink_self]
      exact ⟨trivial, trivial, trivial⟩
  · intro s k hst
    refine ⟨fun hio => completes_ok (exec_ideIntegrityFailure ..) ?_, fun hmem hviral => completes_ok (exec_ideIntegrityFailure ..) ?_⟩
    · rw [Dev.ideFail_io hst hio]
      obtain ⟨hsticky, hlinks⟩ := alarm_source (s.dev.setLink (linkNum k) { s.dev.link (linkNum k) with
        ideIo := .insecure, aerUnc := (s.dev.link (linkNum k)).aerUnc ||| aerInternal }) 0x903 5 0 0 15 []
      refine ⟨?_, hsticky⟩
      rw [Dev.link, hlinks]
      exact congrArg HLink.ideIo (Dev.link_setLink_self ..)
    · rw [Dev.ideFail_mem hst hmem]
      obtain ⟨hsticky, hlinks⟩ := alarm_source ((s.dev.setLink (linkNum k) { s.dev.link (linkNum k) with ideMem := .failed }).enterViral (linkNum k))
        0x903 5 0 0 15 []
      have hlink : ((s.dev.setLink (linkNum k) { s.dev.link (linkNum k) with ideMem := .failed }).enterViral (linkNum k)).link (linkNum k) =
          { s.dev.link (linkNum k) with ideMem := .failed, viralDue := true } := by
        unfold Dev.enterViral
        rw [Dev.link_setLink_self, if_neg (by simp [hviral]), Dev.link_modLink_self, Dev.link_setLink_self]
      refine ⟨?_, ?_, hsticky⟩ <;> rw [Dev.link, hlinks]
      · exact congrArg HLink.ideMem hlink
      · exact congrArg HLink.viralDue hlink
  · intro s ld n x hlegal hlink
    refine ⟨fun hend hregion => completes_ok (exec_hdmDecoderCommit ..) ?_, fun hregion => completes_ok (exec_hdmDecoderCommit ..) ?_⟩
    · rw [Dev.commitDecoder_legal hlegal hlink, if_pos ⟨hend, hregion⟩, Dev.ld_modLd_self]
      exact Tab.look_put_self ..
    · rw [Dev.commitDecoder_legal hlegal hlink, if_neg fun h => hregion h.2]
  · exact fun s k on _ => settles_ok (exec_biEnableWrite ..) (Dev.biWrite_link ..)
  · intro s k
    refine ⟨settles_ok (exec_biEnableWrite ..) ⟨?_, fun ld hld => Dev.biWrite_biId _ hld⟩, settles_ok (exec_biEnableWrite ..) ?_⟩ <;>
      rw [Dev.biWrite_link]
  · intro s ld v _ hmasked hpending halive
    refine completes_ok (exec_msixVectorUnmask ..) ?_
    rw [Dev.unmask_pending hmasked hpending halive]
    refine ⟨?_, ?_⟩
    · obtain ⟨more, hout⟩ := (signals_settle ((s.dev.cleared ld.val v.val).msix ld.val v.val)).out
      rw [hout]
      exact List.mem_append_left _ (msix_out ..)
    · rw [((SameMasks.msix ..).trans (SameMasks.settle _)).masked]
      exact s.dev.cleared_vec .. ▸ rfl

end Sys2Proof.Machine
end

section
/-! What a write of a table entry leaves alone (spec/03 R96): everything but the line station, the block cache, the path and DRAM. -/

namespace Sys2Proof.Machine

open Sys2Proof Sys2Proof.Laws

/-- d' is d but for the line station, the translation caches, the path and DRAM. -/
def Stores (d d' : Dev) : Prop := ∃ l x p r, d' = { d with line := l, xl := x, path := p, dram := r }

namespace Stores

theorem refl (d : Dev) : Stores d d := ⟨d.line, d.xl, d.path, d.dram, rfl⟩

theorem trans {a b c : Dev} (h : Stores a b) (g : Stores b c) : Stores a c := by
  obtain ⟨l, x, p, r, rfl⟩ := h
  obtain ⟨l', x', p', r', rfl⟩ := g
  exact ⟨l', x', p', r', rfl⟩

theorem dropEntries (d : Dev) (p : Nat → Bool) : Stores d (d.dropEntries p) := ⟨_, d.xl, d.path, _, rfl⟩

theorem setMedia (d : Dev) (m : List Host.Cell) : Stores d { d with line.mem := m } := ⟨_, d.xl, d.path, d.dram, rfl⟩

theorem acceptWb (d : Dev) (w : Wb) : Stores d (d.acceptWb w) := by
  unfold Dev.acceptWb
  extract_lets l d1
  have h1 : Stores d d1 := ⟨_, d.xl, d.path, d.dram, rfl⟩
  split
  · exact h1.trans ⟨_, d1.xl, d1.path, d1.dram, rfl⟩
  · exact h1.trans ⟨_, d1.xl, d1.path, d1.dram, rfl⟩

theorem writeTable (d : Dev) (n : Nat) (data : Line) : Stores d (d.writeTable n data) := by
  have hfresh : Stores d d.fresh.2 := ⟨d.line, d.xl, _, d.dram, rfl⟩
  unfold Dev.writeTable
  split
  · exact refl d
  · dsimp only
    split
    · exact hfresh
    · split
      · exact hfresh.trans (acceptWb ..)
      · exact (hfresh.trans (dropEntries ..)).trans (setMedia ..)

theorem writeBits (d : Dev) (addr off w v : Nat) : Stores d (d.writeBits addr off w v) := by
  unfold Dev.writeBits
  extract_lets n o lo d1
  split
  · exact writeTable ..
  · exact (writeTable ..).trans (writeTable ..)

theorem setTierRec (d : Dev) (block i v : Nat) : Stores d (d.setTierRec block i v) := by
  unfold Dev.setTierRec
  split
  · split
    · exact ⟨d.line, _, d.path, d.dram, rfl⟩
    · exact writeBits ..
  · exact writeBits ..

variable {d d' : Dev} (h : Stores d d')
include h

theorem tiers : d'.tiers = d.tiers := by obtain ⟨_, _, _, _, rfl⟩ := h; rfl
theorem conf : d'.conf = d.conf := by obtain ⟨_, _, _, _, rfl⟩ := h; rfl
theorem chain : d'.chain = d.chain := by obtain ⟨_, _, _, _, rfl⟩ := h; rfl
theorem jobs : d'.jobs = d.jobs := by obtain ⟨_, _, _, _, rfl⟩ := h; rfl
theorem home : d'.home = d.home := by obtain ⟨_, _, _, _, rfl⟩ := h; rfl

end Stores

end Sys2Proof.Machine
end

section
/-! The tiering service (spec/04 R122, R123; spec/05 R139, R141; spec/13 R361). -/

namespace Sys2Proof.Machine

open Sys2Proof Sys2Proof.Laws

theorem exec_moveCopyDrained (move : Nat) (s : State) : exec (.moveCopyDrained move) s = ok (s.dev.moveDrained move).flow s := rfl
theorem exec_tierEpochEnd (s : State) : exec .tierEpochEnd s = ok s.dev.epochEnd s := rfl
theorem exec_demotionVerifyDone (page : BitVec 32) (image : List Byte) (s : State) :
    exec (.demotionVerifyDone page image) s = ok (s.dev.demotionVerified page.toNat image).flow s := rfl
theorem exec_readPromotion (s : State) : exec .readPromotion s = ok s.dev.readPromotion.flow s := rfl

theorem Dev.moveDrained_switches {d : Dev} {m : Move} (hm : d.tiers.moves.find? (·.id = m.id) = some m) (hplaced : m.placed = true)
    (hswitched : m.switched = false) (hcopies : d.moveCopies m.id = false)
    (hknot : d.knotAt (m.attr.base + unitLeaf) (m.page % 512) = movingKnot m.dir m.token) (hsame : knotState m.src = knotState m.dst) :
    d.moveDrained m.id = d.switchMove m := by
  unfold Dev.moveDrained
  rw [hm]
  dsimp only
  rw [if_neg (by simp [hplaced, hswitched, hcopies, hknot]), if_pos hsame]

/-! ### Epochs -/

theorem Dev.ageRange_stores (d : Dev) (range : Nat) : Stores d (d.ageRange range) := by
  unfold Dev.ageRange
  exact each_induct (Stores d) (Stores.refl d) fun e i _ h => h.trans (Stores.setTierRec ..)

theorem Dev.sweepRegion_stores (d : Dev) (r : Region) : Stores d (d.sweepRegion r).2 :=
  each_induct (Stores d) (Stores.refl d) fun _ _ _ h => h.trans (Dev.ageRange_stores ..)

/-- A page that is queued for demotion stands behind those that are. -/
theorem Dev.queueDemotion_tiers (d : Dev) (page : Nat) : ∃ more, (d.queueDemotion page).tiers = { d.tiers with demote := d.tiers.demote ++ more } := by
  unfold Dev.queueDemotion
  split
  · exact ⟨[], by rw [List.append_nil]⟩
  · exact ⟨_, rfl⟩

theorem Dev.epochEnd_due {d : Dev} (hn : d.setting idTierEpoch 0 * 4096 ≠ 0)
    (hdue : d.tiers.epochFrom + d.setting idTierEpoch 0 * 4096 ≤ d.clk.bnd) :
    ∃ more, d.epochEnd.tiers = { d.tiers with epochFrom := d.tiers.epochFrom + d.setting idTierEpoch 0 * 4096, demote := d.tiers.demote ++ more } := by
  unfold Dev.epochEnd
  extract_lets n t d1
  rw [if_neg (by simp [n]; omega)]
  refine each_induct (fun e : Dev => ∃ more, e.tiers = { d.tiers with epochFrom := d.tiers.epochFrom + n, demote := d.tiers.demote ++ more })
    ⟨[], by rw [List.append_nil]⟩ fun e r _ ⟨more, he⟩ => ?_
  refine each_induct (fun e : Dev => ∃ more, e.tiers = { d.tiers with epochFrom := d.tiers.epochFrom + n, demote := d.tiers.demote ++ more })
    ⟨more, (e.sweepRegion_stores r).tiers.trans he⟩ fun e p _ ⟨more, he⟩ => ?_
  obtain ⟨more', hq⟩ := e.queueDemotion_tiers p
  exact ⟨more ++ more', by rw [hq, he, List.append_assoc]⟩

/-! ### Demotions -/

theorem Dev.demotionVerified_unqueued {d : Dev} {page : Nat} {image : List Byte} (h : d.tiers.demote.find? (·.1 = page) = none) :
    d.demotionVerified page image = d := by
  unfold Dev.demotionVerified
  rw [h]

/-- The page is no longer under way. -/
def Dev.undemoted (d : Dev) (page : Nat) : Dev := { d with tiers.demote := d.tiers.demote.filter (·.1 ≠ page) }

theorem Dev.demotionVerified_queued {d : Dev} {page : Nat} {image : List Byte} {q : Nat × Nat} (h : d.tiers.demote.find? (·.1 = page) = some q) :
    d.demotionVerified page image = if (d.engineNext q.2).isSome then d else (d.undemoted page).demoteIf q.2 page image := by
  unfold Dev.demotionVerified
  rw [h]
  rfl

/-- What lets a demotion go on (R122). -/
def Dev.Stands (d : Dev) (page : Nat) (a : Attr) (k : BitVec 36) : Prop :=
  knotState k = 1 ∧ d.tiers.owner.has (page / 512) = true ∧ d.knotTakes a page = true ∧
    d.pageHeld page = false ∧ (∀ i < 64, d.pendingWrite (d.knotLine k i) = false) ∧
    ∀ r ∈ d.path.reqs, ¬(r.isWrite = true ∧ r.past2 = true ∧ r.attr.knotted = true ∧ r.page = page ∧ r.pool / 2 ^ 44 = d.chain.index)

theorem Dev.demotionStands_iff (d : Dev) (page : Nat) (a : Attr) :
    d.demotionStands page a = true ↔ d.Stands page a (d.knotAt (a.base + unitLeaf) (page % 512)) := by
  simp only [Dev.demotionStands, Dev.Stands, Bool.and_eq_true, Bool.not_eq_true', decide_eq_true_eq, List.any_eq_false, List.mem_range]
  constructor
  · rintro ⟨⟨⟨⟨⟨howner, htakes⟩, hstate⟩, hheld⟩, hwrites⟩, hreqs⟩
    exact ⟨hstate, howner, htakes, hheld, fun i hi => by simpa using hwrites i hi, fun r hr => by simpa [and_assoc] using hreqs r hr⟩
  · rintro ⟨hstate, howner, htakes, hheld, hwrites, hreqs⟩
    exact ⟨⟨⟨⟨⟨howner, htakes⟩, hstate⟩, hheld⟩, fun i hi => by simpa using hwrites i hi⟩, fun r hr => by simpa [and_assoc] using hreqs r hr⟩

section
variable {d d1 : Dev} {engine page : Nat} {a : Attr} {k : BitVec 36} {image : List Byte}

theorem Dev.demoteNow_unverified (hheader : d.fetchHeader a page [] = (false, d1)) : d.demoteNow engine page a k image = d1 := by
  unfold Dev.demoteNow
  rw [hheader]

variable (hheader : d.fetchHeader a page [] = (true, d1))
include hheader

theorem Dev.demoteNow_unread {d2 : Dev} (hread : d1.pageContent a page k = (none, d2)) : d.demoteNow engine page a k image = d2 := by
  unfold Dev.demoteNow
  rw [hheader]
  dsimp only
  rw [hread]

theorem Dev.demoteNow_read {d2 : Dev} {x : List Byte} (hread : d1.pageContent a page k = (some x, d2)) :
    d.demoteNow engine page a k image = d2.demoteCoded engine page a k x image := by
  unfold Dev.demoteNow
  rw [hheader]
  dsimp only
  rw [hread]

end

theorem Dev.demoteCoded_incompressible {d : Dev} {engine page : Nat} {a : Attr} {k : BitVec 36} {content image : List Byte}
    (h : sizeClass (imgEnd (image.take 32) 15) = none) :
    d.demoteCoded engine page a k content image =
      d.setTierRec (a.base + unitLeaf) (page % 512)
        (mkRec (recHeat (d.tierRec (a.base + unitLeaf) (page % 512))) (recIdle (d.tierRec (a.base + unitLeaf) (page % 512))) true
          (recQueued (d.tierRec (a.base + unitLeaf) (page % 512)))) := by
  unfold Dev.demoteCoded
  dsimp only
  rw [h]

theorem Dev.demoteCoded_class {d : Dev} {engine page : Nat} {a : Attr} {k : BitVec 36} {content image : List Byte} {c : Nat}
    (h : sizeClass (imgEnd (image.take 32) 15) = some c) :
    let full := image.take (imgEnd (image.take 32) 15) ++ zeros (1024 * (c + 1) - imgEnd (image.take 32) 15)
    d.demoteCoded engine page a k content image =
      if !imageDecodes full content then (d.bump 0x173).prismFault engine 1 page 0 k else d.demoteTo page a k c full := by
  unfold Dev.demoteCoded
  dsimp only
  rw [h]

/-! ### Read promotions -/

section
variable {d : Dev} {page : Nat} {rest : List Nat} (hq : d.tiers.readQ = page :: rest)
include hq

theorem Dev.readPromotion_unowned (h : d.tiers.owner.has (page / 512) = false) : d.readPromotion = { d with tiers.readQ := rest } := by
  unfold Dev.readPromotion
  rw [hq]
  exact if_pos (by simp [h])

theorem Dev.readPromotion_owned (h : d.tiers.owner.has (page / 512) = true) :
    let d0 : Dev := { d with tiers.readQ := rest }
    let block := (d0.rangeAttr (page / 512)).base + unitLeaf
    let r := d0.tierRec block (page % 512)
    let d1 := d0.setTierRec block (page % 512) (mkRec (recHeat r) (recIdle r) (recIncompressible r) false)
    ∀ x, (d1.pageRegion page).bind d1.regionOf = some x →
      d.readPromotion = if (d1.elastic (regionKey x)).st = .normal then (d1.brighten page slotTier).getD d1 else d1 := by
  intro d0 block r d1 x hx
  unfold Dev.readPromotion
  rw [hq]
  dsimp only
  rw [if_neg (by simp [h])]
  show (match (d1.pageRegion page).bind d1.regionOf with | some r => _ | none => d1) = _
  rw [hx]

end

/-- Settles O31: moves, epochs, demotions and read promotions in turn. -/
theorem tieringService : Obligations.TieringService := by
  refine ⟨?_, fun s => ⟨fun h => ?_, fun hn hdue => ?_⟩, ?_, ?_, ?_, ?_⟩
  · exact fun s m hm hplaced hswitched hcopies hknot hsame =>
      settles_ok (exec_moveCopyDrained ..) (Dev.moveDrained_switches hm hplaced hswitched hcopies hknot hsame)
  · exact completes_ok (exec_tierEpochEnd ..) (if_pos (by simpa using h))
  · obtain ⟨more, htiers⟩ := Dev.epochEnd_due hn hdue
    refine completes_ok (exec_tierEpochEnd ..) ?_
    rw [htiers]
    exact ⟨rfl, rfl, fun e he => List.mem_append_left _ he⟩
  · intro s page image q hq d0 a k stands
    have hstands : d0.demotionStands page.toNat a = true ↔ stands := d0.demotionStands_iff page.toNat a
    have heq := Dev.demotionVerified_queued (image := image) hq
    refine ⟨fun hbusy => settles_ok (exec_demotionVerifyDone ..) (heq.trans (if_pos hbusy)), fun hidle hnot => ?_, fun hidle hst => ?_⟩
    · refine settles_ok (exec_demotionVerifyDone ..) (heq.trans ?_)
      rw [if_neg (by simp [hidle])]
      exact if_neg fun h => hnot (hstands.mp h)
    · refine settles_ok (exec_demotionVerifyDone ..) ?_
      rw [heq, if_neg (by simp [hidle]), show (s.dev.undemoted page.toNat).demoteIf q.2 page.toNat image = d0.demoteNow q.2 page.toNat a k image from
        if_pos (hstands.mpr hst)]
      cases hheader : d0.fetchHeader a page.toNat [] with
      | mk good d1 =>
        dsimp only
        cases hread : d1.pageContent a page.toNat k with
        | mk content d2 =>
          refine ⟨?_, ?_, fun x => ?_⟩
          · rintro rfl
            exact Dev.demoteNow_unverified hheader
          · rintro rfl rfl
            exact Dev.demoteNow_unread hheader hread
          · rintro rfl rfl
            exact Dev.demoteNow_read hheader hread
  · exact fun s page image h => settles_ok (exec_demotionVerifyDone ..) (Dev.demotionVerified_unqueued h)
  · intro d engine page a k content image n r
    refine ⟨fun h => Dev.demoteCoded_incompressible h, ?_⟩
    intro c h full
    exact ⟨fun hdec => (Dev.demoteCoded_class h).trans (if_pos (show (!imageDecodes full content) = true by rw [hdec]; rfl)),
      fun hdec => (Dev.demoteCoded_class h).trans (if_neg (show ¬ (!imageDecodes full content) = true by rw [hdec]; decide))⟩
  · intro s page rest hq d0 block r d1
    exact ⟨fun h => settles_ok (exec_readPromotion ..) (Dev.readPromotion_unowned hq h),
      fun x h hx => settles_ok (exec_readPromotion ..) (Dev.readPromotion_owned hq h x hx)⟩

end Sys2Proof.Machine
end

section
/-! Moves of extents, drains of ranks and re-keying (spec/06 R194; spec/07 R222; spec/13 R362). -/

namespace Sys2Proof.Machine

open Sys2Proof Sys2Proof.Laws

theorem exec_extentMovePage (n : Fin 8) (s : State) : exec (.extentMovePage n) s = ok (s.dev.extentPage n.val).flow s := rfl
theorem exec_extentMoveSwitch (n : Fin 8) (s : State) : exec (.extentMoveSwitch n) s = ok (s.dev.extentSwitch n.val).flow s := rfl
theorem exec_rankDrain (ch : Fin 8) (rank : Fin 4) (s : State) : exec (.rankDrain ch rank) s = ok (s.dev.rankDrain ch.val rank.val).flow s := rfl
theorem exec_rekeyPage (n : Fin 8) (s : State) : exec (.rekeyPage n) s = ok (s.dev.rekeyPage n.val).flow s := rfl

/-! ### Extent moves -/

/-- The cursor of an extent move steps past its page, once a copy of each line waits in the write buffer. -/
theorem Dev.extentPage_copies {d : Dev} {n : Nat} {m : ExtMove} (hm : d.tiers.extMoves.look n = some m) (hcur : m.cursor < 512)
    (hrec : m.recallSlot = none) (hroom : d.wbRoomFor m.label 64 = true) :
    (d.extentPage n).tiers.extMoves.look n = some { m with cursor := m.cursor + 1 } ∧ (d.extentPage n).line.mem = d.line.mem := by
  unfold Dev.extentPage
  rw [hm]
  dsimp only
  rw [if_neg (by simp [hrec, hroom, hcur])]
  exact ⟨Tab.look_put_self .., each_keeps _ _ _ (fun e : Dev => e.line.mem) fun e i => rfl⟩

theorem Dev.extentPage_waits {d : Dev} {n : Nat} {m : ExtMove} (hm : d.tiers.extMoves.look n = some m)
    (h : 512 ≤ m.cursor ∨ d.wbRoomFor m.label 64 = false) : d.extentPage n = d := by
  unfold Dev.extentPage
  rw [hm]
  dsimp only
  rw [if_pos (by simp only [Bool.or_eq_true, decide_eq_true_eq, Bool.not_eq_true']; exact h.imp .inl id)]

theorem Dev.extentSwitch_waits {d : Dev} {n : Nat} {m : ExtMove} (hm : d.tiers.extMoves.look n = some m)
    (h : m.cursor < 512 ∨ m.switched = true) : d.extentSwitch n = d := by
  unfold Dev.extentSwitch
  rw [hm]
  dsimp -zeta only
  extract_lets copying
  rw [if_pos (by simp only [Bool.or_eq_true, decide_eq_true_eq]; exact .inl h)]

/-- With the copies of the last page drained, every entry that named the source names the destination. -/
theorem Dev.extentSwitch_switches {d : Dev} {n : Nat} {m : ExtMove} (hm : d.tiers.extMoves.look n = some m) (hcur : m.cursor = 512)
    (hsw : m.switched = false) (hwb : ∀ w ∈ d.line.wb, w.kind = .full) (hnames : d.namers false m.src ≠ []) :
    d.extentSwitch n = each (d.namers false m.src)
      ({ d with tiers.extMoves := d.tiers.extMoves.put n { m with switched := true } }.countSwitch m.job)
      fun d u => (d.reseat u.1 u.2 m.dstDev m.dst).rewriteExt u.1 u.2 (.extentMove n) := by
  unfold Dev.extentSwitch
  rw [hm]
  dsimp -zeta only
  extract_lets copying
  have hcopying : copying = false := by
    refine List.any_eq_false.mpr fun w hw => ?_
    rw [hwb w hw]
    simp
  rw [if_neg (by simp [hcur, hsw, hcopying]), if_neg (by simpa using hnames)]

/-! ### The drain of a rank -/

theorem Dev.rankDrain_serves {d : Dev} {ch rank : Nat} (h : (d.chan ch).draining.contains rank = false) : d.rankDrain ch rank = d := by
  unfold Dev.rankDrain
  extract_lets c
  rw [if_pos (by simpa [c] using h)]

/-- A draining rank that holds nothing waits for the moves off it, and for table lines on it. -/
theorem Dev.rankDrain_empty {d : Dev} {ch rank : Nat} (hdrain : (d.chan ch).draining.contains rank = true) (hon : d.onRank rank = [])
    (h : d.movingOff rank = true ∨ d.tableBase < ((d.rankFrames rank).1 + (d.rankFrames rank).2) * 4096) : d.rankDrain ch rank = d := by
  unfold Dev.rankDrain
  cases hframes : d.rankFrames rank with | mk f n =>
  rw [hframes] at h
  dsimp -zeta only
  extract_lets c left
  rw [if_neg (by rw [show c.draining.contains rank = true from hdrain]; simp), if_pos (by rw [show left = [] from hon]; rfl), if_pos (by simpa using h)]

/-- The device whose channel's rank has been retired in place. -/
def Dev.rankRetired (d : Dev) (ch rank : Nat) : Dev :=
  (d.setChan ch { d.chan ch with draining := (d.chan ch).draining.filter (· ≠ rank) }).modChan ch fun c =>
    { c with retired := c.retired ++ [rank], retiredPhys := c.retiredPhys ++ [(d.chan ch).remap.val rank rank] }

theorem Dev.rankDrain_retires {d : Dev} {ch rank : Nat} (hdrain : (d.chan ch).draining.contains rank = true) (hon : d.onRank rank = [])
    (hmoving : d.movingOff rank = false) (htables : ((d.rankFrames rank).1 + (d.rankFrames rank).2) * 4096 ≤ d.tableBase)
    (hret : (d.chan ch).retired.contains rank = false) :
    d.rankDrain ch rank = ((d.rankRetired ch rank).logFault ch ((d.chan ch).remap.val rank rank) 0 10).rankRecord ch ((d.chan ch).remap.val rank rank) := by
  unfold Dev.rankDrain
  cases hframes : d.rankFrames rank with | mk f n =>
  rw [hframes] at htables
  dsimp -zeta only
  extract_lets c left
  rw [if_neg (by rw [show c.draining.contains rank = true from hdrain]; simp), if_pos (by rw [show left = [] from hon]; rfl),
    if_neg (by simpa [hmoving] using htables), if_neg (by rw [show c.retired.contains rank = false from hret]; simp)]
  rfl

theorem Dev.rankRetired_chan (d : Dev) (ch rank : Nat) : (d.rankRetired ch rank).chan ch = { d.chan ch with
    draining := (d.chan ch).draining.filter (· ≠ rank), retired := (d.chan ch).retired ++ [rank]
    retiredPhys := (d.chan ch).retiredPhys ++ [(d.chan ch).remap.val rank rank] } := by
  rw [Dev.rankRetired, Dev.chan_modChan_self, Dev.chan_setChan_self]

theorem Dev.logFault_line (d : Dev) (ch phys sub dev : Nat) : (d.logFault ch phys sub dev).line = d.line := by
  unfold Dev.logFault
  extract_lets per slot
  split
  · extract_lets e
    split <;> rfl
  · rfl

/-- A fault log entry and a rank's record leave the channels and the line station alone. -/
theorem Dev.rankRecord_logFault_frame (d : Dev) (ch phys sub dev n : Nat) :
    ((d.logFault ch phys sub dev).rankRecord ch phys).chan n = d.chan n ∧ ((d.logFault ch phys sub dev).rankRecord ch phys).line = d.line := by
  have hsig := Dev.rankRecord_signals (d.logFault ch phys sub dev) ch phys
  refine ⟨?_, hsig.line.trans (Dev.logFault_line ..)⟩
  rw [Dev.chan, hsig.dram]
  exact congrArg (Tab.val · n {}) (Dev.logFault_chans ..)

/-- The pages that a draining rank still holds, as DRAIN_SHORT names them. -/
def drainPages (l : List OnRank) : Nat := l.foldl (fun n u => n + match u with | .direct .. => 512 | .page _ => 1) 0

/-- A page that nothing holds, first of what is left on the rank, is what the drain moves next. -/
theorem Dev.rankDrain_page {d : Dev} {ch rank p : Nat} {rest : List OnRank} (hdrain : (d.chan ch).draining.contains rank = true)
    (hon : d.onRank rank = .page p :: rest) (hheld : d.pageHeld p = false) :
    d.rankDrain ch rank = match d.movePage p slotDrain with
      | some e => e
      | none => if !d.noFrame (.page p) then d else
          d.raise 0x109 .warning none (ch + rank * 8 + drainPages (d.onRank rank) % 2 ^ 32 * 2 ^ 32) := by
  unfold Dev.rankDrain
  dsimp -zeta only
  extract_lets c left phys d1 d2 free pages
  rw [if_neg (by rw [show c.draining.contains rank = true from hdrain]; simp), if_neg (by rw [show left = _ from hon]; simp)]
  have hfree : free (.page p) = true := by simp [free, hheld]
  simp only [show left = .page p :: rest from hon, List.find?_cons, hfree, show pages = drainPages (d.onRank rank) from rfl] <;>
    cases d.movePage p slotDrain <;> rfl

/-! ### Re-keying -/

/-- The device at the page of a re-key register's cursor: the header of a knotted page has been fetched. -/
def Dev.rekeyHeader (d : Dev) (x : Rekey) : Dev :=
  if x.knotted then (d.fetchHeader (d.rekeyAttr x) (x.unit2m * 512 + x.cursor) []).2 else d

/-- A quarantined page, or one whose conversions have no room, stays before the cursor. -/
def Dev.rekeyHeld (d : Dev) (x : Rekey) (a : Attr) : Prop :=
  d.quarantined a (x.unit2m * 512 + x.cursor) = true ∨ d.wbRoomFor (d.moveLabel x.job) (d.dataLines x a x.cursor).length = false

theorem Dev.rekeyPage_held {d : Dev} {n : Nat} {x : Rekey} (hx : d.line.rekey.look n = some x) (hcur : x.cursor < 512)
    (h : (d.rekeyHeader x).rekeyHeld x (d.rekeyAttr x)) : d.rekeyPage n = d.rekeyHeader x := by
  unfold Dev.rekeyPage
  rw [hx]
  dsimp -zeta only
  rw [if_neg (by omega), if_neg (by omega)]
  extract_lets a page e
  rw [if_pos (by have h' : e.rekeyHeld x a := h; simpa [Dev.rekeyHeld, page] using h')]
  rfl

theorem Dev.rekeyPage_steps {d : Dev} {n : Nat} {x : Rekey} (hx : d.line.rekey.look n = some x) (hcur : x.cursor < 512)
    (h : ¬(d.rekeyHeader x).rekeyHeld x (d.rekeyAttr x)) : (d.rekeyPage n).line.rekey.look n = some { x with cursor := x.cursor + 1 } := by
  unfold Dev.rekeyPage
  rw [hx]
  dsimp -zeta only
  rw [if_neg (by omega), if_neg (by omega)]
  extract_lets a page e
  rw [if_neg (by have h' : ¬e.rekeyHeld x a := h; simpa [Dev.rekeyHeld, page] using h')]
  exact Tab.look_put_self ..

theorem Dev.rekeyPage_last {d : Dev} {n : Nat} {x : Rekey} (hx : d.line.rekey.look n = some x) (hcur : x.cursor = 512) :
    d.rekeyPage n = { d with line.rekey := d.line.rekey.put n { x with cursor := 513 } }.rekeyEnd n x := by
  unfold Dev.rekeyPage
  rw [hx]
  dsimp -zeta only
  rw [if_neg (by omega), if_pos hcur]

theorem Dev.rekeyPage_over {d : Dev} {n : Nat} {x : Rekey} (hx : d.line.rekey.look n = some x) (hcur : 512 < x.cursor) : d.rekeyPage n = d := by
  unfold Dev.rekeyPage
  rw [hx]
  dsimp -zeta only
  rw [if_pos hcur]

/-- Settles O32: by the cursor of the move, by what the rank still holds, and by the cursor of the re-key register. -/
theorem extentMovesRankDrainRekey : Obligations.ExtentMovesRankDrainRekey := by
  refine ⟨fun s n m hm => ⟨?_, ?_, ?_, ?_, ?_⟩, fun s ch rank => ?_, fun s n x hx => ⟨fun hcur => ?_, fun hcur => ?_, fun hcur => ?_⟩⟩
  · exact fun hcur hrec hroom => settles_ok (exec_extentMovePage ..) (Dev.extentPage_copies hm hcur hrec hroom)
  · exact fun _ hroom => settles_ok (exec_extentMovePage ..) (Dev.extentPage_waits hm (.inr hroom))
  · exact fun hcur => settles_ok (exec_extentMovePage ..) (Dev.extentPage_waits hm (.inl hcur))
  · exact fun h => settles_ok (exec_extentMoveSwitch ..) (Dev.extentSwitch_waits hm h)
  · exact fun hcur hsw hwb hnames => settles_ok (exec_extentMoveSwitch ..) (Dev.extentSwitch_switches hm hcur hsw hwb hnames)
  · intro c phys
    refine ⟨fun h => settles_ok (exec_rankDrain ..) (Dev.rankDrain_serves h), fun hdrain hon hmoving htables hret => ?_,
      fun hdrain hon h => settles_ok (exec_rankDrain ..) (Dev.rankDrain_empty hdrain hon h), fun p rest hdrain hon hheld => ?_⟩
    · refine settles_ok (exec_rankDrain ..) ?_
      rw [Dev.rankDrain_retires hdrain hon hmoving htables hret]
      obtain ⟨hchan, hline⟩ := Dev.rankRecord_logFault_frame (s.dev.rankRetired ch.val rank.val) ch.val ((s.dev.chan ch.val).remap.val rank.val rank.val) 0 10 ch.val
      rw [hchan, hline, Dev.rankRetired_chan]
      exact ⟨by simp, rfl, rfl, rfl⟩
    · have heq := Dev.rankDrain_page hdrain hon hheld
      refine ⟨fun d hd => settles_ok (exec_rankDrain ..) ?_, fun hd hframe => settles_ok (exec_rankDrain ..) ?_,
        fun hd hframe hrest => settles_ok (exec_rankDrain ..) ?_⟩
      · rw [heq, hd]
      · rw [heq, hd]
        simp [hframe]
      · rw [heq, hd, hon, hrest]
        simp [hframe, drainPages]
  · intro a page d held
    exact ⟨fun h => settles_ok (exec_rekeyPage ..) (Dev.rekeyPage_held hx hcur h),
      fun h => settles_ok (exec_rekeyPage ..) (Dev.rekeyPage_steps hx hcur h)⟩
  · exact settles_ok (exec_rekeyPage ..) (Dev.rekeyPage_last hx hcur)
  · exact settles_ok (exec_rekeyPage ..) (Dev.rekeyPage_over hx hcur)

end Sys2Proof.Machine
end

section
/-! What the upkeep of tables and media leaves alone (spec/03 R98; spec/04 R116, R130; spec/06 R178, R179): settings, the chain, time, jobs,
mailboxes, and the LDs but for their vectors. -/

namespace Sys2Proof.Machine

open Sys2Proof Sys2Proof.Laws

/-- d' is d after work on tables and media. -/
structure Upkeep (d d' : Dev) : Prop where
  conf : d'.conf = d.conf
  chain : d'.chain = d.chain
  clk : d'.clk = d.clk
  jobs : d'.jobs = d.jobs
  boxes : d'.host.boxes = d.host.boxes
  ld : ∀ n, ∃ v, d'.ld n = { d.ld n with vecs := v }

namespace Upkeep

theorem of_eq {d d' : Dev} (hconf : d'.conf = d.conf) (hchain : d'.chain = d.chain) (hclk : d'.clk = d.clk) (hjobs : d'.jobs = d.jobs)
    (hboxes : d'.host.boxes = d.host.boxes) (hlds : d'.host.lds = d.host.lds) : Upkeep d d' :=
  ⟨hconf, hchain, hclk, hjobs, hboxes, fun n => ⟨(d.ld n).vecs, by rw [Dev.ld, hlds]; rfl⟩⟩

theorem refl (d : Dev) : Upkeep d d := of_eq rfl rfl rfl rfl rfl rfl

theorem trans {a b c : Dev} (h : Upkeep a b) (g : Upkeep b c) : Upkeep a c :=
  ⟨g.conf.trans h.conf, g.chain.trans h.chain, g.clk.trans h.clk, g.jobs.trans h.jobs, g.boxes.trans h.boxes, fun n => by
    obtain ⟨v, hv⟩ := h.ld n
    obtain ⟨w, hw⟩ := g.ld n
    exact ⟨w, by rw [hw, hv]⟩⟩

theorem of_signals {d d' : Dev} (h : Signals d d') : Upkeep d d' := ⟨h.conf, h.chain, h.clk, h.jobs, h.boxes, h.ld⟩

theorem of_stores {d d' : Dev} (h : Stores d d') : Upkeep d d' := by
  obtain ⟨_, _, _, _, rfl⟩ := h
  exact of_eq rfl rfl rfl rfl rfl rfl

theorem each {α : Type} {l : List α} {d : Dev} {f : Dev → α → Dev} (h : ∀ e a, Upkeep e (f e a)) : Upkeep d (Machine.each l d f) :=
  each_induct (Upkeep d) (refl d) fun e a _ he => he.trans (h e a)

theorem faultEvent (d : Dev) (n code detail : Nat) (label : Label) (who : BitVec 8) (hard : Bool) :
    Upkeep d (d.faultEvent n code detail label who hard) := by
  obtain ⟨f, -, -, -, h⟩ := faultEvent_signals d n code detail label who hard
  exact trans (b := { d with fault := f }) (of_eq rfl rfl rfl rfl rfl rfl) (of_signals h)

theorem alarm (d : Dev) (source code addr key level : Nat) (lds : List Nat) : Upkeep d (d.alarm source code addr key level lds) := by
  unfold Dev.alarm
  extract_lets detail e key e'
  have he : Upkeep d e := faultEvent ..
  have he' : Upkeep d e' := he.trans (of_eq rfl rfl rfl rfl rfl rfl)
  split
  · split
    · exact he'.trans (of_signals (signals_record ..))
    · exact he'.trans (of_signals (signals_each _ _ _ fun d ld => signals_raiseFault ..))
  · exact he

/-! ### Judged reads -/

theorem hardRow (d : Dev) (p : Place) : Upkeep d (d.hardRow p) := by
  unfold Dev.hardRow
  split
  · exact refl d
  · exact of_eq rfl rfl rfl rfl rfl rfl

theorem corrColumn (d : Dev) (p : Place) (k : Nat) : Upkeep d (d.corrColumn p k) := by
  unfold Dev.corrColumn
  extract_lets key cols cols' dram e
  have he : Upkeep d e := of_eq rfl rfl rfl rfl rfl rfl
  split
  · exact he.trans (hardRow ..)
  · exact he

theorem noteVerdict (d : Dev) (n : Nat) (p : Place) (v : Verdict) (r : Reader) : Upkeep d (d.noteVerdict n p v r) := by
  unfold Dev.noteVerdict
  split
  · exact refl d
  · split
    · exact refl d
    · exact (of_signals (signals_bump ..)).trans (faultEvent ..)
    · exact ((of_signals (signals_bump ..)).trans (faultEvent ..)).trans (corrColumn ..)
    · dsimp only
      split
      · exact of_signals (signals_bump ..)
      · exact (of_signals (signals_bump d 0x163 1)).trans (of_eq rfl rfl rfl rfl rfl rfl)
    next consistent =>
      dsimp only
      have hlost : Upkeep d ((d.bump 0x162).faultEvent (srcRank p.ch p.rank) (if consistent then 4 else 3) (dramDetail n p 15 r.scrub)
          r.label r.who (hard := !consistent)) := (of_signals (signals_bump ..)).trans (faultEvent ..)
      have hrow : ∀ e, Upkeep d e → Upkeep d (if consistent = true then e else (e.hardRow p).retireRank p.ch p.rank) := fun e he => by
        split
        · exact he
        · exact (he.trans (hardRow e p)).trans (of_eq rfl rfl rfl rfl rfl rfl)
      split
      · exact (hrow _ hlost).trans (alarm ..)
      · exact hrow _ hlost

theorem repair (d : Dev) (w : Wb) : Upkeep d (d.repair w) := by
  unfold Dev.repair
  split
  · exact refl d
  · split
    · exact of_eq rfl rfl rfl rfl rfl rfl
    · exact of_eq rfl rfl rfl rfl rfl rfl

theorem rewriteAs (d : Dev) (check : Line → BitVec 64) (n : Nat) (a : Attr) (page copy : Nat) (j : Judged) (p : Place) (data : Line) :
    Upkeep d (d.rewriteAs check n a page copy j p data) := by
  unfold Dev.rewriteAs
  extract_lets wanted
  have hfresh : Upkeep d d.fresh.2 := of_eq rfl rfl rfl rfl rfl rfl
  split
  · exact hfresh.trans (repair ..)
  · exact refl d

theorem readTable (d : Dev) (n : Nat) (err : Burst) (r : Reader) : Upkeep d (d.readTable n err r).2 :=
  (noteVerdict ..).trans (rewriteAs ..)

/-! ### Headers and nodes -/

theorem ctPut (d : Dev) (x : CtLine) : Upkeep d (d.ctPut x) := of_eq rfl rfl rfl rfl rfl rfl

theorem putTree (d : Dev) (n : Nat) (data : Line) (counter : Nat) : Upkeep d (d.putTree n data counter) := by
  unfold Dev.putTree Dev.setBurst Dev.supersede
  exact of_stores ((Stores.dropEntries ..).trans (Stores.setMedia ..))

theorem fetchNode (d : Dev) (lvl idx : Nat) (err : Burst) : Upkeep d (d.fetchNode lvl idx err).2 := by
  unfold Dev.fetchNode
  extract_lets n p
  split
  · exact refl d
  · extract_lets j e
    have he : Upkeep d e := noteVerdict ..
    split
    · exact (he.trans (rewriteAs ..)).trans (of_eq rfl rfl rfl rfl rfl rfl)
    · dsimp only
      split
      · exact he.trans (alarm ..)
      · exact he

theorem fetchPath (d : Dev) (l : List (Nat × Nat)) (errs : List Burst) : Upkeep d (d.fetchPath l errs).2 := by
  induction l generalizing d errs with
  | nil => exact refl d
  | cons e t ih =>
    have hnode := fetchNode d e.1 e.2 (errs.headD 0)
    unfold Dev.fetchPath
    cases hf : d.fetchNode e.1 e.2 (errs.headD 0) with | mk good d1 =>
    rw [hf] at hnode
    dsimp only
    split
    · exact hnode.trans (ih ..)
    · exact hnode

theorem fetchTree (d : Dev) (lvl idx : Nat) (errs : List Burst) : Upkeep d (d.fetchTree lvl idx errs).2 := by
  have hpath := fetchPath d (d.treePath 11 lvl idx).reverse errs
  unfold Dev.fetchTree
  split
  next e h => rw [h] at hpath; exact hpath
  next e h => rw [h] at hpath; exact hpath.trans (of_eq rfl rfl rfl rfl rfl rfl)

theorem fetchPlainHeader (d : Dev) (n : Nat) (err : Burst) : Upkeep d (d.fetchPlainHeader n err).2 := by
  have hread := readTable d n err {}
  unfold Dev.fetchPlainHeader
  split
  · exact refl d
  · cases hr : d.readTable n err {} with | mk j e =>
    rw [hr] at hread
    dsimp only
    split
    · exact hread.trans (of_eq rfl rfl rfl rfl rfl rfl)
    · exact hread

theorem bumpParent (d : Dev) (lvl idx : Nat) : Upkeep d (d.bumpParent lvl idx) := by
  unfold Dev.bumpParent
  split
  · exact of_eq rfl rfl rfl rfl rfl rfl
  · extract_lets n e
    have he : Upkeep d e := by
      simp only [e]
      split
      · exact refl d
      · exact fetchTree ..
    split
    · exact he
    · exact he.trans (of_eq rfl rfl rfl rfl rfl rfl)

theorem writeBack (fuel : Nat) (d : Dev) (lvl idx : Nat) : Upkeep d (Dev.writeBack fuel d lvl idx) := by
  induction fuel generalizing d lvl idx with
  | zero => exact refl d
  | succ fuel ih =>
    unfold Dev.writeBack
    extract_lets n d1 d2
    have h1 : Upkeep d d1 := bumpParent ..
    have h2 : Upkeep d d2 := by
      simp only [d2]
      split
      · exact h1.trans (ih ..)
      · exact h1
    cases d.ctLook n with
    | none => exact refl d
    | some x =>
      dsimp only
      split
      · cases d2.parentCounter lvl idx with
        | none => exact h2
        | some c => exact (h2.trans (putTree d2 n x.data c)).trans (ctPut ..)
      · exact (of_stores (Stores.writeTable d n x.data)).trans (ctPut ..)

theorem writeBackLine (d : Dev) (n : Nat) : Upkeep d (d.writeBackLine n) := by
  unfold Dev.writeBackLine
  cases d.nodeOfLine n with
  | none => exact refl d
  | some e => exact writeBack ..

theorem ctEvict (d : Dev) : Upkeep d d.ctEvict := by
  unfold Dev.ctEvict
  split
  · exact refl d
  · split
    · exact refl d
    · refine trans (b := if _ then _ else _) ?_ (of_eq rfl rfl rfl rfl rfl rfl)
      split
      · exact writeBackLine ..
      · exact refl d

theorem fetchHeader (d : Dev) (a : Attr) (page : Nat) (errs : List Burst) : Upkeep d (d.fetchHeader a page errs).2 := by
  unfold Dev.fetchHeader
  split
  · exact refl d
  · dsimp only
    split
    · exact (fetchTree ..).trans (ctEvict _)
    · exact (fetchPlainHeader ..).trans (ctEvict _)

theorem throughHeader (d : Dev) (a : Attr) (page : Nat) (h : Line) : Upkeep d (d.throughHeader a page h) :=
  trans (trans (b := d.ctPut _) (of_eq rfl rfl rfl rfl rfl rfl) (ctEvict _)) (writeBackLine ..)

theorem raiseMajor (d : Dev) (a : Attr) (page key : Nat) (h : Line) : Upkeep d (d.raiseMajor a page key h).2 := by
  unfold Dev.raiseMajor
  split
  · exact refl d
  · exact trans (b := d.setKey _ _) (of_eq rfl rfl rfl rfl rfl rfl) (alarm ..)

theorem resetHeader (d : Dev) (a : Attr) (page : Nat) : Upkeep d (d.resetHeader a page) := by
  unfold Dev.resetHeader
  extract_lets e h
  have he : Upkeep d e := fetchHeader ..
  split
  · have hmajor := raiseMajor e a page a.key h
    split
    next h' f hf => rw [hf] at hmajor; exact (he.trans hmajor).trans (throughHeader ..)
    next f hf => rw [hf] at hmajor; exact he.trans hmajor
  · exact he.trans (throughHeader ..)

/-! ### Pages and places -/

theorem kcPut (d : Dev) (s : KSlot) : Upkeep d (d.kcPut s) := by
  unfold Dev.kcPut
  extract_lets l e
  refine trans (b := e) (each fun f x => ?_) (of_eq rfl rfl rfl rfl rfl rfl)
  unfold Dev.kcWriteRecs
  split
  · exact each fun g y => of_stores (Stores.writeTable ..)
  · exact refl f

theorem setKnot (d : Dev) (block i : Nat) (k : BitVec 36) : Upkeep d (d.setKnot block i k) := by
  unfold Dev.setKnot
  extract_lets s cached s1 s2
  refine trans (b := if cached = true then d.kcPut s2 else d) ?_ (each fun e l => of_stores (Stores.writeTable ..))
  split
  · exact kcPut ..
  · exact refl d

theorem changeKnot (d : Dev) (block page : Nat) (old new : BitVec 36) : Upkeep d (d.changeKnot block page old new) := by
  refine (setKnot d block (page % 512) new).trans ?_
  unfold Dev.changeKnot Dev.unstage
  split
  · exact of_eq rfl rfl rfl rfl rfl rfl
  · exact refl _

theorem freeKnot (d : Dev) (k : BitVec 36) : Upkeep d (d.freeKnot k) := by
  unfold Dev.freeKnot
  split
  · exact of_eq rfl rfl rfl rfl rfl rfl
  · exact of_eq rfl rfl rfl rfl rfl rfl
  · exact refl d

theorem resetPage (d : Dev) (a : Attr) (page : Nat) : Upkeep d (d.resetPage a page) := by
  unfold Dev.resetPage
  extract_lets block k d1 d2
  have h1 : Upkeep d d1 := (((of_eq rfl rfl rfl rfl rfl rfl : Upkeep d (d.dropPage page)).trans (resetHeader ..)).trans
    (of_stores (Stores.setTierRec ..))).trans (changeKnot ..)
  have h2 : Upkeep d1 d2 := by
    simp only [d2]
    split
    · exact of_eq rfl rfl rfl rfl rfl rfl
    · exact refl d1
  exact ((h1.trans h2).trans (freeKnot ..)).trans (of_eq rfl rfl rfl rfl rfl rfl)

theorem markLost (d : Dev) (page : Nat) (mask : BitVec 64) : Upkeep d (d.markLost page mask) := by
  unfold Dev.markLost
  split
  · exact of_eq rfl rfl rfl rfl rfl rfl
  · split
    · exact of_eq rfl rfl rfl rfl rfl rfl
    · refine trans (b := { d with xl.lossOver := true }) (of_eq rfl rfl rfl rfl rfl rfl) (each fun e l => ?_)
      unfold Dev.enterViral
      split
      · exact refl e
      · exact of_eq rfl rfl rfl rfl rfl rfl

theorem stickPage (d : Dev) (page : Nat) : Upkeep d (d.stickPage page) := by
  unfold Dev.stickPage
  extract_lets e
  have he : Upkeep d e := markLost ..
  split
  · exact he
  · exact he.trans (of_eq rfl rfl rfl rfl rfl rfl)

theorem raiseAt (d : Dev) (place type : Nat) (log : LogKind) (ld : Option Nat) (detail : Nat) : Upkeep d (d.raiseAt place type log ld detail) :=
  of_signals (signals_raiseAt ..)

theorem takePage (d : Dev) (a : Attr) (page : Nat) : Upkeep d (d.takePage a page).2 := by
  unfold Dev.takePage
  split
  · exact (resetPage ..).trans (of_eq rfl rfl rfl rfl rfl rfl)
  · exact ((raiseAt ..).trans (of_signals (signals_doorbell ..))).trans (stickPage ..)

theorem takePages (d : Dev) (range : Nat) : Upkeep d (d.takePages range).2 := by
  unfold Dev.takePages
  exact each_induct (fun s : Bool × Dev => Upkeep d s.2) (refl d) fun s i _ hs => hs.trans (takePage ..)

theorem post (d : Dev) (s : Scope) (a : After) (keys : List (Nat × Nat)) : Upkeep d (d.post s a keys) := of_eq rfl rfl rfl rfl rfl rfl

theorem setS2 (d : Dev) (range : Nat) (v : BitVec 64) : Upkeep d (d.setS2 range v) := by
  unfold Dev.setS2
  cases d.s2Addr range with
  | none => exact refl d
  | some a => exact of_stores (Stores.writeTable ..)

theorem freeUnitMedia (d : Dev) (knotted reflected : Bool) (dev place : Nat) : Upkeep d (d.freeUnitMedia knotted reflected dev place) := by
  unfold Dev.freeUnitMedia
  split
  · exact refl d
  · split
    · exact of_eq rfl rfl rfl rfl rfl rfl
    · split
      · exact refl d
      · have htake := takePages d place
        cases ht : d.takePages place with | mk all e =>
        rw [ht] at htake
        dsimp only
        split
        · exact (htake.trans (setS2 ..)).trans (post ..)
        · exact htake

end Upkeep

/-- Units that an LD loses leave its list of extents; what they held goes free. -/
theorem Dev.dropUnits_ld (d : Dev) (ld : Nat) (st : ExtSt) (p : Nat → Bool) : ∃ v x, (d.dropUnits ld st p).ld ld = { d.ld ld with exts := x, vecs := v } := by
  unfold Dev.dropUnits
  extract_lets gone keep e
  have hup : Upkeep e (each gone e fun d x => match d.regionAt ld (x.start * mib2) with
      | some r => each x.place d fun d place => d.freeUnitMedia r.knotted r.reflected x.dev place
      | none => d) := Upkeep.each fun f x => by
    split
    · exact Upkeep.each fun g place => Upkeep.freeUnitMedia ..
    · exact Upkeep.refl f
  obtain ⟨v, hv⟩ := hup.ld ld
  rw [show e.ld ld = { d.ld ld with exts := keep } from ld_modLd_self ..] at hv
  exact ⟨v, keep, hv⟩

end Sys2Proof.Machine
end

section
/-! Capacity that is offered, taken up and released (spec/04 R126, R127; spec/09 R257 to R260). -/

namespace Sys2Proof.Machine

open Sys2Proof Sys2Proof.Laws

theorem exec_addOfferTimer (ld : Fin 32) (n : Fin 16) (s : State) : exec (.addOfferTimer ld n) s = ok (s.dev.addOffer ld.val n.val) s := rfl
theorem exec_capacityRecordInterval (ld : Fin 32) (n : Fin 16) (s : State) :
    exec (.capacityRecordInterval ld n) s = ok (s.dev.capacityInterval ld.val n.val) s := rfl
theorem exec_getDynamicCapacityConfiguration (iss : Issuer) (inp : List Byte) (s : State) :
    exec (.getDynamicCapacityConfiguration iss inp) s = ok (s.dev.command iss 0x4800 fun d => d.dcConfig iss inp) s := rfl
theorem exec_getDynamicCapacityExtentList (iss : Issuer) (inp : List Byte) (s : State) :
    exec (.getDynamicCapacityExtentList iss inp) s = ok (s.dev.command iss 0x4801 fun d => d.dcList iss inp) s := rfl
theorem exec_addDynamicCapacityResponse (iss : Issuer) (inp : List Byte) (s : State) :
    exec (.addDynamicCapacityResponse iss inp) s = ok (s.dev.command iss 0x4802 fun d => d.dcResponse iss inp) s := rfl
theorem exec_releaseDynamicCapacity (iss : Issuer) (inp : List Byte) (s : State) :
    exec (.releaseDynamicCapacity iss inp) s = ok (s.dev.command iss 0x4803 fun d => d.dcRelease iss inp) s := rfl

/-! ### Offers and records of the device's own -/

theorem Dev.addOffer_eq {d : Dev} {ld entry : Nat} {r : Region}
    (hr : (d.conf.regions.find? fun r => r.home.isNone && r.ld = ld && r.entry = entry) = some r) :
    d.addOffer ld entry = if d.offerUnits r = 0 || 8192 ≤ (d.ld ld).exts.length then d else d.offerOwn r (d.offerUnits r) := by
  unfold Dev.addOffer
  rw [hr]

/-- The record of lost lines is raised, and the region's count starts again. -/
theorem Dev.capacityRecord_frame (d : Dev) (key lines : Nat) :
    ((d.capacityRecord key lines).elastic key).lastRec = some d.clk.bnd ∧ ((d.capacityRecord key lines).elastic key).lostSince = 0 ∧
      Signals { d with tiers := (d.capacityRecord key lines).tiers } (d.capacityRecord key lines) := by
  unfold Dev.capacityRecord
  extract_lets r r'
  have hself : ∀ e : Dev, ∀ f, (e.modElastic key f).elastic key = f (e.elastic key) := fun e f => Tab.val_put_self ..
  refine ⟨by rw [hself], by rw [hself], ?_⟩
  obtain ⟨ev, lds, out, heq, hlds⟩ := signals_record d { r' with window := BitVec.ofNat 32 lines }
  refine ⟨ev, lds, out, ?_, hlds⟩
  rw [heq]
  rfl

theorem Dev.capacityInterval_eq {d : Dev} {ld entry b : Nat} (h : (d.elastic (ld * 16 + entry)).lastRec = some b) :
    d.capacityInterval ld entry = if b + 4096 ≤ d.clk.bnd && 0 < (d.elastic (ld * 16 + entry)).lostSince then
      d.capacityRecord (ld * 16 + entry) (d.elastic (ld * 16 + entry)).lostSince else d := by
  unfold Dev.capacityInterval
  extract_lets key e
  rw [show e.lastRec = some b from h]

theorem Dev.capacityInterval_never {d : Dev} {ld entry : Nat} (h : (d.elastic (ld * 16 + entry)).lastRec = none) :
    d.capacityInterval ld entry = d := by
  unfold Dev.capacityInterval
  extract_lets key e
  rw [show e.lastRec = none from h]

/-! ### The host's commands -/

theorem Dev.ld_modJob (d : Dev) (slot : Nat) (f : Job → Job) (n : Nat) : (d.modJob slot f).ld n = d.ld n := by
  unfold Dev.modJob
  split
  · rfl
  · rfl

section
variable {d : Dev} {iss : Issuer} {inp : List Byte} {ld : Nat}

theorem Dev.ld_ownAnswered (d : Dev) (ld entry n : Nat) : (d.ownAnswered ld entry).ld n = d.ld n := rfl

theorem Dev.dcConfig_answers (hld : issuerLd iss = some ld) (hlen : inp.length = 2) (hfirst : field inp 1 1 < 8) :
    d.dcConfig iss inp = d.answerStd iss .success ([8, BitVec.ofNat 8 (min (field inp 0 1) (8 - field inp 1 1))] ++ zeros 6 ++
      ((List.range (min (field inp 0 1) (8 - field inp 1 1))).flatMap fun i => dcRegion (field inp 1 1 + i)) ++
      leBytes 4 8192 ++ leBytes 4 (8192 - (d.ld ld).heldExts.length) ++ leBytes 4 65536 ++ leBytes 4 65536) := by
  unfold Dev.dcConfig
  rw [hld]
  dsimp only
  rw [if_neg (by simp [hlen]), if_neg (by omega)]

theorem Dev.dcList_answers (hld : issuerLd iss = some ld) (hlen : inp.length = 8) (hfirst : field inp 4 4 ≤ (d.ld ld).heldExts.length) :
    let n := min (min (field inp 0 4) ((d.ld ld).heldExts.length - field inp 4 4)) (((d.mbox (issuerBox iss)).respLimit - 16) / 40)
    d.dcList iss inp = d.answerStd iss .success (leBytes 4 n ++ leBytes 4 (d.ld ld).heldExts.length ++ leBytes 4 (d.ld ld).extGen.toNat ++
      zeros 4 ++ (((d.ld ld).heldExts.drop (field inp 4 4)).take n).flatMap Extent.bytes) := by
  intro n
  unfold Dev.dcList
  rw [hld]
  dsimp only
  rw [if_neg (by simp [hlen]), if_neg (by omega)]

theorem Dev.dcResponse_badLength (hld : issuerLd iss = some ld) (h : inp.length < 8 ∨ inp.length ≠ 8 + 24 * field inp 0 4) :
    d.dcResponse iss inp = d.answerStd iss .invalidLength [] := by
  unfold Dev.dcResponse
  rw [hld]
  dsimp -zeta only
  rw [if_pos (by simpa using h)]

theorem Dev.dcRelease_badLength (hld : issuerLd iss = some ld) (h : inp.length < 8 ∨ inp.length ≠ 8 + 24 * field inp 0 4) :
    d.dcRelease iss inp = d.answerStd iss .invalidLength [] := by
  unfold Dev.dcRelease
  rw [hld]
  dsimp -zeta only
  rw [if_pos (by simpa using h)]

variable (hld : issuerLd iss = some ld) (hlen : 8 ≤ inp.length) (hcount : inp.length = 8 + 24 * field inp 0 4)
include hld hlen hcount

theorem Dev.dcResponse_badLayout (h : updatedExtents inp = none) : d.dcResponse iss inp = d.answerStd iss .invalidInput [] := by
  unfold Dev.dcResponse
  rw [hld]
  dsimp -zeta only
  rw [if_neg (by simp; omega), h]

theorem Dev.dcRelease_badLayout (h : updatedExtents inp = none) : d.dcRelease iss inp = d.answerStd iss .invalidInput [] := by
  unfold Dev.dcRelease
  rw [hld]
  dsimp -zeta only
  rw [if_neg (by simp; omega), h]

variable {l : List (Nat × Nat)} (hl : updatedExtents inp = some l)
include hl

theorem Dev.dcResponse_noOffer (h : (d.ld ld).offers = []) :
    d.dcResponse iss inp = d.answerStd iss (if l = [] then .success else .invalidPa) [] := by
  unfold Dev.dcResponse
  rw [hld]
  dsimp -zeta only
  rw [if_neg (by simp; omega), hl]
  dsimp -zeta only
  rw [h]
  simp only [List.isEmpty_iff]

theorem Dev.dcResponse_overlap {job : Nat} {rest : List Nat} (h : (d.ld ld).offers = job :: rest) (happ : apart l = false) :
    d.dcResponse iss inp = d.answerStd iss .invalidExtentList [] := by
  unfold Dev.dcResponse
  rw [hld]
  dsimp -zeta only
  rw [if_neg (by simp; omega), hl]
  dsimp -zeta only
  rw [h]
  dsimp -zeta only
  rw [if_pos (by simp [happ])]

theorem Dev.dcResponse_foreign {job : Nat} {rest : List Nat} (h : (d.ld ld).offers = job :: rest) (happ : apart l = true)
    (hown : namesOnly l ((d.ld ld).unitsIn .offered (some job)) = false) : d.dcResponse iss inp = d.answerStd iss .invalidPa [] := by
  unfold Dev.dcResponse
  rw [hld]
  dsimp -zeta only
  rw [if_neg (by simp; omega), hl]
  dsimp -zeta only
  rw [h]
  dsimp -zeta only
  rw [if_neg (by simp [happ]), if_pos (by simp [hown])]

theorem Dev.dcRelease_overlap (happ : apart l = false) : d.dcRelease iss inp = d.answerStd iss .invalidExtentList [] := by
  unfold Dev.dcRelease
  rw [hld]
  dsimp -zeta only
  rw [if_neg (by simp; omega), hl]
  dsimp -zeta only
  rw [if_pos (by simp [happ])]

theorem Dev.dcRelease_foreign (happ : apart l = true)
    (hheld : namesOnly l (((d.ld ld).exts.filter (·.st = .held)).flatMap fun e => (List.range e.len).map (e.start + ·)) = false) :
    d.dcRelease iss inp = d.answerStd iss .invalidPa [] := by
  unfold Dev.dcRelease
  rw [hld]
  dsimp -zeta only
  rw [if_neg (by simp; omega), hl]
  dsimp -zeta only
  rw [if_neg (by simp [happ])]
  exact if_pos (by simp [hheld])

theorem Dev.dcRelease_marks (happ : apart l = true)
    (hheld : namesOnly l (((d.ld ld).exts.filter (·.st = .held)).flatMap fun e => (List.range e.len).map (e.start + ·)) = true) :
    d.dcRelease iss inp = ((d.doorbell 0x38C).markUnits ld (inRuns l) .held .releasing).answerStd iss .success [] := by
  unfold Dev.dcRelease
  rw [hld]
  dsimp -zeta only
  rw [if_neg (by simp; omega), hl]
  dsimp -zeta only
  rw [if_neg (by simp [happ])]
  exact if_neg (by simp [hheld])

/-- What an LD's host accepts of its oldest offer is answered with Success; the offer leaves the list, but where more of the answer follows. -/
theorem Dev.dcResponse_accepts {job : Nat} {rest : List Nat} (h : (d.ld ld).offers = job :: rest) (happ : apart l = true)
    (hown : namesOnly l ((d.ld ld).unitsIn .offered (some job)) = true) :
    ∃ e : Dev, d.dcResponse iss inp = e.answerStd iss .success [] ∧ (e.ld ld).offers = if bit (field inp 4 1) 0 then (d.ld ld).offers else rest := by
  unfold Dev.dcResponse
  rw [hld]
  dsimp -zeta only
  rw [if_neg (by simp; omega), hl]
  dsimp -zeta only
  rw [h]
  dsimp -zeta only
  rw [if_neg (by simp [happ]), if_neg (by simp [hown])]
  extract_lets d1 more taken left lds host d2 mine d3 d4
  have h1 : (d1.ld ld).offers = (d.ld ld).offers := by
    obtain ⟨v, hv⟩ := (signals_doorbell d 0x38C).ld ld
    rw [show d1.ld ld = _ from ld_modLd_self .., hv]
  have h3 : (d3.ld ld).offers = rest := by
    obtain ⟨v, x, hd⟩ := d2.dropUnits_ld ld .offered mine
    rw [show d3.ld ld = _ from hd, show d2.ld ld = { d1.ld ld with offers := rest } from Tab.val_put_self ..]
  refine ⟨_, rfl, ?_⟩
  show (d4.ld ld).offers = if more = true then job :: rest else rest
  simp only [d4]
  split
  · rw [Dev.ld_modJob, h1, h]
  · split
    · rw [Dev.answered, Dev.ld_modJob, h3]
    · rw [Dev.ld_ownAnswered, h3]

end

/-- Settles O33: by the region's own count, and by the checks of each command in turn. -/
theorem capacityOffersAndReleases : Obligations.CapacityOffersAndReleases := by
  refine ⟨fun s ld n r hr => ⟨fun h0 => ?_, fun h0 hlen => ?_⟩, ?_, fun s ld n h => ?_, ?_⟩
  · exact completes_ok (exec_addOfferTimer ..) (by rw [Dev.addOffer_eq hr, if_pos (by simp [h0])])
  · exact completes_ok (exec_addOfferTimer ..) (by rw [Dev.addOffer_eq hr, if_neg (by simp; omega)])
  · intro s ld n b key hlast
    have heq := Dev.capacityInterval_eq hlast
    refine ⟨fun hdue hlost => completes_ok (exec_capacityRecordInterval ..) ?_, fun h => completes_ok (exec_capacityRecordInterval ..) ?_⟩
    · rw [heq, if_pos (by simpa using ⟨hdue, hlost⟩)]
      exact Dev.capacityRecord_frame ..
    · rw [heq, if_neg]
      simp only [Bool.and_eq_true, decide_eq_true_eq, not_and, Nat.not_lt, Nat.le_zero]
      exact fun hdue => h.resolve_left (Nat.not_lt.mpr hdue)
  · exact completes_ok (exec_capacityRecordInterval ..) (Dev.capacityInterval_never h)
  · intro s iss inp ld htakes hld d0 x
    have hconfig := fun P => completes_of_takes (P := P) htakes (exec_getDynamicCapacityConfiguration iss inp s)
    have hlist := fun P => completes_of_takes (P := P) htakes (exec_getDynamicCapacityExtentList iss inp s)
    have hadd := fun P => completes_of_takes (P := P) htakes (exec_addDynamicCapacityResponse iss inp s)
    have hrelease := fun P => completes_of_takes (P := P) htakes (exec_releaseDynamicCapacity iss inp s)
    refine ⟨fun hlen hfirst => ?_, fun hlen hfirst => ?_, ?_, fun l hlen hcount hl => ⟨fun hoff => ?_, ?_, ?_⟩⟩
    · refine hconfig _ ?_
      intro n
      rw [Dev.dcConfig_answers hld hlen hfirst]
      exact answerStd_replies ..
    · refine hlist _ ?_
      intro n
      rw [Dev.dcList_answers hld hlen hfirst]
      exact answerStd_replies ..
    · simp only [List.mem_cons, List.not_mem_nil, or_false]
      rintro c (rfl | rfl)
      · exact ⟨fun h => hadd _ (Dev.dcResponse_badLength hld h ▸ answerStd_replies ..),
          fun hlen hcount h => hadd _ (Dev.dcResponse_badLayout hld hlen hcount h ▸ answerStd_replies ..)⟩
      · exact ⟨fun h => hrelease _ (Dev.dcRelease_badLength hld h ▸ answerStd_replies ..),
          fun hlen hcount h => hrelease _ (Dev.dcRelease_badLayout hld hlen hcount h ▸ answerStd_replies ..)⟩
    · exact hadd _ (Dev.dcResponse_noOffer hld hlen hcount hl hoff ▸ answerStd_replies ..)
    · intro job rest hoff own
      refine ⟨fun happ => hadd _ ?_, fun happ hown => hadd _ ?_, fun happ hown => hadd _ ?_⟩
      · exact Dev.dcResponse_overlap hld hlen hcount hl hoff happ ▸ answerStd_replies ..
      · exact Dev.dcResponse_foreign hld hlen hcount hl hoff happ hown ▸ answerStd_replies ..
      · obtain ⟨e, heq, hoffers⟩ := Dev.dcResponse_accepts hld hlen hcount hl hoff happ hown
        rw [heq]
        obtain ⟨hans, b, hsig⟩ := answerStd_replies e iss .success []
        obtain ⟨v, hv⟩ := hsig.ld ld
        exact ⟨hans, by rw [hv]; exact hoffers⟩
    · intro held
      exact ⟨fun happ => hrelease _ (Dev.dcRelease_overlap hld hlen hcount hl happ ▸ answerStd_replies ..),
        fun happ hheld => hrelease _ (Dev.dcRelease_foreign hld hlen hcount hl happ hheld ▸ answerStd_replies ..),
        fun happ hheld => hrelease _ (Dev.dcRelease_marks hld hlen hcount hl happ hheld ▸ answerStd_replies ..)⟩

end Sys2Proof.Machine
end

section
/-! The submission of a job (spec/13 R352 to R354). -/

namespace Sys2Proof

open Sys2Proof.Machine

theorem Replies.jobs {d d' : Dev} {iss : Issuer} {st : Status} {body : List Byte} {noWork : Bool} (h : Replies d d' iss st body noWork) :
    d'.jobs = d.jobs := by
  obtain ⟨-, _, hsig⟩ := h
  exact hsig.jobs

end Sys2Proof

namespace Sys2Proof.Machine

open Sys2Proof Sys2Proof.Laws

/-- The submission ends with a status and no job. -/
def JobRefused (d0 : Dev) (iss : Issuer) (st : Status) (noWork : Bool) (e : Dev) : Prop :=
  Replies d0 e iss st ([0, 0] ++ leBytes 4 (2 ^ 32 - 1)) noWork ∧ e.jobs = d0.jobs

/-- The submission ends with the job queued in a slot, and its JobId in the answer. -/
def JobQueued (d : Dev) (iss : Issuer) (slot : Nat) (j : Job) (e : Dev) : Prop :=
  Replies (d.queueJob slot j) e iss .success ([0, 0] ++ leBytes 4 (slot + d.jobs.gens.val slot 0 % 2 ^ 24 * 256)) ∧
    e.job slot = some { j with gen := d.jobs.gens.val slot 0, seq := d.jobs.seq, st := .queued } ∧ ∀ n ≠ slot, e.job n = d.job n

theorem Dev.jobReply_refuses (d : Dev) (iss : Issuer) (st : Status) (noWork : Bool) :
    JobRefused d iss st noWork (d.jobReply iss st (noWork := noWork)) :=
  have h := reply_replies d iss st ([0, 0] ++ leBytes 4 (2 ^ 32 - 1)) noWork
  ⟨h, h.jobs⟩

theorem Dev.job_queueJob_self (d : Dev) (slot : Nat) (j : Job) :
    (d.queueJob slot j).job slot = some { j with gen := d.jobs.gens.val slot 0, seq := d.jobs.seq, st := .queued } := Tab.look_put_self ..

theorem Dev.job_queueJob_ne (d : Dev) {slot n : Nat} (j : Job) (h : n ≠ slot) : (d.queueJob slot j).job n = d.job n := Tab.look_put_ne _ _ h

theorem Dev.queueJob_replies (d : Dev) (iss : Issuer) (slot : Nat) (j : Job) :
    JobQueued d iss slot j ((d.queueJob slot j).jobReply iss .success ((((d.queueJob slot j).job slot).getD j).id slot)) := by
  rw [Dev.job_queueJob_self]
  have h := reply_replies (d.queueJob slot j) iss .success ([0, 0] ++ leBytes 4 (slot + d.jobs.gens.val slot 0 % 2 ^ 24 * 256)) false
  have hjob : ∀ n, ((d.queueJob slot j).reply iss .success ([0, 0] ++ leBytes 4 (slot + d.jobs.gens.val slot 0 % 2 ^ 24 * 256))).job n =
      (d.queueJob slot j).job n := fun n => congrArg (fun x : Jobs => x.slots.look n) h.jobs
  exact ⟨h, (hjob slot).trans (d.job_queueJob_self slot j), fun n hn => (hjob n).trans (d.job_queueJob_ne j hn)⟩

section
variable {d : Dev} {iss : Issuer} {k : JKind} {inp : List Byte} {plan : Dev → Job → Option Job} {take : Dev → Nat → Job → Dev × Job}

theorem Dev.submit_badLength (h : inp.length < 16 ∨ inp.length ≠ 16 + k.body + field inp 4 4 * k.entry) :
    d.submit iss k inp plan take = d.badLength iss := by
  unfold Dev.submit
  extract_lets count
  rw [if_pos (by simpa using h)]

variable (hlen : 16 ≤ inp.length) (hcount : inp.length = 16 + k.body + field inp 4 4 * k.entry)
include hlen hcount

theorem Dev.submit_badInput (h : (jobOf iss k inp).bind (plan d) = none) : d.submit iss k inp plan take = d.jobReply iss .invalidInput := by
  unfold Dev.submit
  extract_lets count
  rw [if_neg (by simpa using ⟨hlen, hcount⟩), h]

variable {j : Job} (hj : (jobOf iss k inp).bind (plan d) = some j)
include hj

/-- A job that passes its checks is taken where the cores, the count and the slots let it be. -/
theorem Dev.submit_planned : d.submit iss k inp plan take =
    if d.coresUp ≤ 7 then d.jobReply iss .internal
    else if field inp 4 4 = 0 then d.jobReply iss .success (noWork := true)
    else match lowestFree d.jobs.slots.keys 256 with
      | none => d.jobReply iss .jobSlotsFull
      | some slot => ((take d slot j).1.queueJob slot (take d slot j).2).jobReply iss .success
          (((((take d slot j).1.queueJob slot (take d slot j).2).job slot).getD (take d slot j).2).id slot) := by
  unfold Dev.submit
  extract_lets count
  rw [if_neg (by simpa using ⟨hlen, hcount⟩), hj] <;>
    refine ite_congr rfl (fun _ => rfl) fun _ => ite_congr rfl (fun _ => rfl) fun _ => ?_ <;> cases lowestFree d.jobs.slots.keys 256 <;> rfl

theorem Dev.submit_fewCores (hup : d.coresUp ≤ 7) : d.submit iss k inp plan take = d.jobReply iss .internal := by
  rw [Dev.submit_planned hlen hcount hj, if_pos hup]

theorem Dev.submit_noWork (hup : 7 < d.coresUp) (h0 : field inp 4 4 = 0) :
    d.submit iss k inp plan take = d.jobReply iss .success (noWork := true) := by
  rw [Dev.submit_planned hlen hcount hj, if_neg (Nat.not_le.mpr hup), if_pos h0]

theorem Dev.submit_full (hup : 7 < d.coresUp) (h0 : field inp 4 4 ≠ 0) (hfull : lowestFree d.jobs.slots.keys 256 = none) :
    d.submit iss k inp plan take = d.jobReply iss .jobSlotsFull := by
  rw [Dev.submit_planned hlen hcount hj, if_neg (Nat.not_le.mpr hup), if_neg h0, hfull]

theorem Dev.submit_takes {slot : Nat} (hup : 7 < d.coresUp) (h0 : field inp 4 4 ≠ 0) (hslot : lowestFree d.jobs.slots.keys 256 = some slot) :
    d.submit iss k inp plan take = ((take d slot j).1.queueJob slot (take d slot j).2).jobReply iss .success
      (((((take d slot j).1.queueJob slot (take d slot j).2).job slot).getD (take d slot j).2).id slot) := by
  rw [Dev.submit_planned hlen hcount hj, if_neg (Nat.not_le.mpr hup), if_neg h0, hslot]

end

/-- What the submission of a job of a kind comes to: by its length, its checks, the cores, the count and the slots. -/
def Submits (s : State) (iss : Issuer) (inp : List Byte) (c : Instr) (k : JKind) (plan : Dev → Job → Option Job)
    (take : Dev → Nat → Job → Dev × Job) : Prop :=
  let d0 := s.dev.doorbell (mailDoorbell iss)
  (inp.length < 16 ∨ inp.length ≠ 16 + k.body + field inp 4 4 * k.entry →
    Completes c s fun e => Replies d0 e iss .invalidLength (zeros 6) ∧ e.jobs = d0.jobs) ∧
  (16 ≤ inp.length → inp.length = 16 + k.body + field inp 4 4 * k.entry →
    ((jobOf iss k inp).bind (plan d0) = none → Completes c s (JobRefused d0 iss .invalidInput false)) ∧
    ∀ j, (jobOf iss k inp).bind (plan d0) = some j →
      (d0.coresUp ≤ 7 → Completes c s (JobRefused d0 iss .internal false)) ∧
      (7 < d0.coresUp → field inp 4 4 = 0 → Completes c s (JobRefused d0 iss .success true)) ∧
      (7 < d0.coresUp → field inp 4 4 ≠ 0 → lowestFree d0.jobs.slots.keys 256 = none → Completes c s (JobRefused d0 iss .jobSlotsFull false)) ∧
      ∀ slot, 7 < d0.coresUp → field inp 4 4 ≠ 0 → lowestFree d0.jobs.slots.keys 256 = some slot →
        Completes c s (JobQueued (take d0 slot j).1 iss slot (take d0 slot j).2))

theorem submits_of {s : State} {iss : Issuer} {inp : List Byte} {c : Instr} {op : Nat} {k : JKind} {plan : Dev → Job → Option Job}
    {take : Dev → Nat → Job → Dev × Job} (htakes : Takes s)
    (hc : exec c s = ok (s.dev.command iss op fun d => d.submit iss k inp plan take) s) : Submits s iss inp c k plan take := by
  refine ⟨fun h => completes_of_takes htakes hc ?_, fun hlen hcount => ⟨fun h => completes_of_takes htakes hc ?_, fun j hj =>
    ⟨fun hup => completes_of_takes htakes hc ?_, fun hup h0 => completes_of_takes htakes hc ?_,
      fun hup h0 hfull => completes_of_takes htakes hc ?_, fun slot hup h0 hslot => completes_of_takes htakes hc ?_⟩⟩⟩
  · rw [Dev.submit_badLength h]
    have hr := badLength_replies (s.dev.doorbell (mailDoorbell iss)) iss
    exact ⟨hr, hr.jobs⟩
  · rw [Dev.submit_badInput hlen hcount h]
    exact Dev.jobReply_refuses ..
  · rw [Dev.submit_fewCores hlen hcount hj hup]
    exact Dev.jobReply_refuses ..
  · rw [Dev.submit_noWork hlen hcount hj hup h0]
    exact Dev.jobReply_refuses ..
  · rw [Dev.submit_full hlen hcount hj hup h0 hfull]
    exact Dev.jobReply_refuses ..
  · rw [Dev.submit_takes hlen hcount hj hup h0 hslot]
    exact Dev.queueJob_replies ..

/-- Settles O34: each of the eleven commands is the one submission, with the checks of its kind. -/
theorem jobSubmissionTakesSlot : Obligations.JobSubmissionTakesSlot := by
  intro s iss inp htakes d0 count refusal queued submits plain
  have h : ∀ {c : Instr} {op : Nat} {k : JKind} {plan : Dev → Job → Option Job} {take : Dev → Nat → Job → Dev × Job},
      exec c s = ok (s.dev.command iss op fun d => d.submit iss k inp plan take) s → submits c k plan take :=
    fun hc => submits_of htakes hc
  exact ⟨h (op := 0xC212) rfl, h (op := 0xC213) rfl, h (op := 0xC215) rfl, h (op := 0xC210) rfl, h (op := 0xC211) rfl, h (op := 0xC214) rfl,
    h (op := 0xC610) rfl, h (op := 0xC111) rfl, h (op := 0xC710) rfl, h (op := 0xC900) rfl, h (op := 0xC110) rfl⟩

end Sys2Proof.Machine
end

section
/-! JOB.STATUS and JOB.CANCEL (spec/13 R355, R358, R359). -/

namespace Sys2Proof.Machine

open Sys2Proof Sys2Proof.Laws

theorem exec_jobStatus (iss : Issuer) (inp : List Byte) (s : State) :
    exec (.jobStatus iss inp) s = ok (s.dev.command iss 0xC200 fun d => d.jobStatus iss inp) s := rfl
theorem exec_jobCancel (iss : Issuer) (inp : List Byte) (s : State) :
    exec (.jobCancel iss inp) s = ok (s.dev.command iss 0xC201 fun d => d.jobCancel iss inp) s := rfl

theorem signals_jobEvent (d : Dev) (j : Job) : Signals d (d.jobEvent j) := by
  unfold Dev.jobEvent
  split
  · split
    · exact Signals.refl d
    · exact signals_vecEvent ..
  · exact Signals.refl d

/-- A job that is retired leaves its slot empty. -/
theorem Dev.retireJob_job (d : Dev) (slot : Nat) (j : Job) (st : JState) : (d.retireJob slot j st).job slot = none := by
  unfold Dev.retireJob
  extract_lets word j' r ring jobs d1 d2
  have h2 : d2.job slot = none := by
    have hsig : Signals d1 d2 := (signals_bumpLd ..).trans (signals_jobEvent ..)
    rw [Dev.job, hsig.jobs]
    exact Tab.look_del_self ..
  split
  next box _ =>
    obtain ⟨b, hsig⟩ := endBgRet_signals d2 box (if st = .done then .success else if st = .failed then .internal else .aborted) 0 []
    rw [Dev.job, hsig.jobs]
    exact h2
  next => exact h2

section
variable {d : Dev} {iss : Issuer} {inp : List Byte} (hlen : inp.length = 8) (hrsvd : rsvd inp 4 4 = true)
include hlen hrsvd

theorem Dev.jobStatus_eq : d.jobStatus iss inp = match d.liveJob iss (field inp 0 4), d.pastJob iss (field inp 0 4) with
    | some (_, j), _ => d.reply iss .success ({ j with result := 0 }.bytes j.st j.reason)
    | none, some r => d.reply iss .success r.bytes
    | none, none => d.refuse iss .invalidInput 64 := by
  unfold Dev.jobStatus
  rw [if_neg (by simp [hlen]), if_neg (by simp [hrsvd])] <;> rfl

/-- The state that JOB.CANCEL leaves a job in, or finds it in. -/
def Dev.cancelReply (d : Dev) (iss : Issuer) (st : JState) (noWork : Bool) : Dev :=
  d.reply iss .success (BitVec.ofNat 8 (jstateNum st) :: zeros 5) noWork

omit hlen hrsvd in
theorem Dev.cancelReply_replies (d : Dev) (iss : Issuer) (st : JState) (noWork : Bool) :
    Replies d (d.cancelReply iss st noWork) iss .success (BitVec.ofNat 8 (jstateNum st) :: zeros 5) noWork := reply_replies ..

theorem Dev.jobCancel_eq : d.jobCancel iss inp = match d.liveJob iss (field inp 0 4), d.pastJob iss (field inp 0 4) with
    | some (slot, j), _ =>
      if j.st = .queued then ((if j.kind = .poolAdd then d.withdrawAdd slot else d).retireJob slot j .cancelled).cancelReply iss .cancelled false
      else (d.setJob slot { j with cancel := true }).cancelReply iss j.st false
    | none, some r => d.cancelReply iss r.st true
    | none, none => d.refuse iss .invalidInput 8 := by
  unfold Dev.jobCancel
  rw [if_neg (by simp [hlen]), if_neg (by simp [hrsvd])] <;> rfl

end

/-- Settles O35: by whether the caller's job lives, or has ended. -/
theorem jobStatusAndCancel : Obligations.JobStatusAndCancel := by
  intro s iss inp htakes d0 id hlen hrsvd
  have hstatus := Dev.jobStatus_eq (d := d0) (iss := iss) hlen hrsvd
  have hcancel := Dev.jobCancel_eq (d := d0) (iss := iss) hlen hrsvd
  refine ⟨fun slot j hlive => ⟨?_, fun hst => ?_, fun hst => ?_⟩, fun r hlive hpast => ⟨?_, ?_⟩, fun hlive hpast => ⟨?_, ?_⟩⟩
  · refine completes_of_takes htakes (exec_jobStatus ..) ?_
    rw [hstatus, hlive]
    exact reply_replies ..
  · refine completes_of_takes htakes (exec_jobCancel ..) ?_
    rw [hcancel, hlive]
    dsimp only
    rw [if_pos hst]
    have hr := Dev.cancelReply_replies ((if j.kind = .poolAdd then d0.withdrawAdd slot else d0).retireJob slot j .cancelled) iss .cancelled false
    refine ⟨?_, hr.1⟩
    rw [Dev.job, hr.jobs]
    exact Dev.retireJob_job ..
  · refine completes_of_takes htakes (exec_jobCancel ..) ?_
    rw [hcancel, hlive]
    dsimp only
    rw [if_neg (by simp [hst]), hst]
    exact reply_replies ..
  · refine completes_of_takes htakes (exec_jobStatus ..) ?_
    rw [hstatus, hlive, hpast]
    exact reply_replies ..
  · refine completes_of_takes htakes (exec_jobCancel ..) ?_
    rw [hcancel, hlive, hpast]
    exact reply_replies ..
  · refine completes_of_takes htakes (exec_jobStatus ..) ?_
    rw [hstatus, hlive, hpast]
    exact reply_replies ..
  · refine completes_of_takes htakes (exec_jobCancel ..) ?_
    rw [hcancel, hlive, hpast]
    exact reply_replies ..

end Sys2Proof.Machine
end

section
/-! The jobs that move data, by their batches (spec/13 R367). -/

namespace Sys2Proof.Machine

open Sys2Proof Sys2Proof.Laws

theorem exec_copyBatchDone (slot lines : Nat) (s : State) : exec (.copyBatchDone slot lines) s = ok (s.dev.copyBatch slot lines) s := rfl
theorem exec_fillBatchDone (slot lines : Nat) (s : State) : exec (.fillBatchDone slot lines) s = ok (s.dev.fillBatch slot lines) s := rfl
theorem exec_scrubBatchDone (slot lines : Nat) (s : State) : exec (.scrubBatchDone slot lines) s = ok (s.dev.scrubBatch slot lines) s := rfl

/-! ### Batches of steps -/

theorem repeatStep_waits {f : Dev → Option Dev} {d : Dev} (h : f d = none) (n : Nat) : repeatStep f n d = d := by
  cases n with
  | zero => rfl
  | succ n => simp only [repeatStep, h]

/-- A step that is possible, and after which the work has to wait, is all that a batch does. -/
theorem repeatStep_once {f : Dev → Option Dev} {d e : Dev} (h : f d = some e) (hw : f e = none) {n : Nat} (hn : 0 < n) : repeatStep f n d = e := by
  obtain ⟨n, rfl⟩ := Nat.exists_eq_succ_of_ne_zero (Nat.ne_of_gt hn)
  simp only [repeatStep, h, repeatStep_waits hw]

/-! ### Jobs at work -/

theorem Dev.working_eq_some {d : Dev} {slot : Nat} {k : JKind} {j : Job} :
    d.working slot k = some j ↔ d.job slot = some j ∧ j.kind = k ∧ j.st = .active ∧ j.ending = false := by
  simp only [Dev.working, Option.filter_eq_some_iff, Bool.and_eq_true, decide_eq_true_eq, Bool.not_eq_true', and_assoc]

theorem Dev.modJob_eq {d : Dev} {slot : Nat} {j : Job} (h : d.job slot = some j) (f : Job → Job) : d.modJob slot f = d.setJob slot (f j) := by
  unfold Dev.modJob
  rw [h]

/-- The request of a job as it stands in the service queue. -/
def Dev.jobEntry (d : Dev) (slot : Nat) (j : Job) (q : Req) : Req :=
  { q with id := d.fresh.1, src := .job slot, stage := .service, owner := j.owner.getD 32, atBnd := d.clk.bnd, atClk := d.clk.clk }

/-- The device whose job has issued a request. -/
def Dev.issued (d : Dev) (slot : Nat) (j : Job) (q : Req) : Dev :=
  { d.fresh.2 with path.reqs := d.path.reqs ++ [d.jobEntry slot j q] }.setJob slot { j with sent := true, buf := none }

theorem Dev.issueJob_eq {d : Dev} {slot : Nat} {j : Job} {q : Req} (hj : d.job slot = some j) (hquiet : d.power.quiet = false)
    (hroom : d.serviceRoom q.cls = true) : d.issueJob slot q = some (d.issued slot j q) := by
  unfold Dev.issueJob
  rw [if_neg (by simp [hquiet, hroom])]
  dsimp -zeta only
  extract_lets q' path
  have hj1 : d.fresh.2.job slot = some j := hj
  have hq : q' = d.jobEntry slot j q := by
    simp only [q', hj1]
    rfl
  rw [hq]
  refine congrArg some (Dev.modJob_eq ?_ _)
  exact hj

theorem Dev.issued_issued (d : Dev) (slot : Nat) (j : Job) (q : Req) : Issued d (d.issued slot j q) slot j q :=
  ⟨rfl, Tab.look_put_self .., fun _ hn => Tab.look_put_ne _ _ hn, rfl, rfl⟩

theorem Dev.working_issued {d : Dev} {slot : Nat} {k : JKind} {j : Job} (h : d.working slot k = some j) (q : Req) :
    (d.issued slot j q).working slot k = some { j with sent := true, buf := none } := by
  obtain ⟨-, hk, hst, hend⟩ := Dev.working_eq_some.mp h
  exact Dev.working_eq_some.mpr ⟨Tab.look_put_self .., hk, hst, hend⟩

/-! ### COPY -/

/-- The lengths of the entries of a COPY, in lines. -/
def Job.copyLines (j : Job) : List Nat := j.entries.map fun e => (copyEntryOf e).2.2 / 64

/-- The lengths of the entries of a FILL, in lines. -/
def Job.fillLines (j : Job) : List Nat := j.entries.map fun e => field e 8 4 / 64

section
variable {d : Dev} {slot k i : Nat} {j : Job}

theorem Dev.copyStepJob_waits (hj : d.working slot .copy = some j) (hsent : j.sent = true) : d.copyStepJob slot = none := by
  unfold Dev.copyStepJob
  rw [hj]
  dsimp only
  split
  · rfl
  · rw [if_pos hsent]

theorem Dev.copyStepJob_eq (hj : d.working slot .copy = some j) (hline : lineIn j.copyLines j.pos = some (k, i)) (hsent : j.sent = false) :
    d.copyStepJob slot = match j.hold, j.buf with
      | none, some x => some (d.setJob slot { j with hold := some x.line, buf := none })
      | none, none => d.jobRead slot (field j.body 0 1) ((copyEntryOf (j.entries.getD k [])).1 + 64 * i) j.label
      | some x, some _ => some (d.setJob slot (j.lineDone x.isNone))
      | some x, none => d.jobWrite slot (field j.body 1 1) ((copyEntryOf (j.entries.getD k [])).2.1 + 64 * i) j.label x := by
  unfold Dev.copyStepJob
  rw [hj]
  dsimp only
  rw [show lineIn (j.entries.map fun e => (copyEntryOf e).2.2 / 64) j.pos = some (k, i) from hline]
  dsimp only
  rw [if_neg (by simp [hsent])] <;> rfl

theorem Dev.fillStepJob_waits (hj : d.working slot .fill = some j) (hsent : j.sent = true) : d.fillStepJob slot = none := by
  unfold Dev.fillStepJob
  rw [hj]
  dsimp only
  split
  · rfl
  · rw [if_pos hsent]

theorem Dev.fillStepJob_eq (hj : d.working slot .fill = some j) (hline : lineIn j.fillLines j.pos = some (k, i)) (hsent : j.sent = false) :
    d.fillStepJob slot = if j.buf.isSome then some (d.setJob slot (j.lineDone false))
      else d.jobWrite slot (field j.body 0 1) (field (j.entries.getD k []) 0 8 + 64 * i) j.label (some (patternLine j.body)) := by
  unfold Dev.fillStepJob
  rw [hj]
  dsimp only
  rw [show lineIn (j.entries.map fun e => field e 8 4 / 64) j.pos = some (k, i) from hline]
  dsimp only
  rw [if_neg (by simp [hsent])]

theorem Dev.scrubStepJob_waits {x : Nat} {rest : List Nat} (hj : d.working slot .scrub = some j) (htodo : j.todo = x :: rest)
    (hsent : j.sent = true) : d.scrubStepJob slot = none := by
  unfold Dev.scrubStepJob
  rw [hj]
  dsimp -zeta only
  rw [htodo]
  dsimp -zeta only
  extract_lets
  rw [if_pos hsent]

theorem Dev.scrubStepJob_issues {x : Nat} {rest : List Nat} (hj : d.working slot .scrub = some j) (htodo : j.todo = x :: rest)
    (hsent : j.sent = false) (hbuf : j.buf = none) : d.scrubStepJob slot =
      d.issueJob slot { jobReq .read 0 0 j.label with scrub := some (homeLine (x / 16) (x % 16 * max 1 d.dram.lines + j.pos)) } := by
  unfold Dev.scrubStepJob
  rw [hj]
  dsimp -zeta only
  rw [htodo]
  dsimp -zeta only
  extract_lets
  rw [if_neg (by simp [hsent]), if_neg (by simp [hbuf])]

theorem Dev.scrubStepJob_counts {x : Nat} {rest : List Nat} {y : Answer} (hj : d.working slot .scrub = some j) (htodo : j.todo = x :: rest)
    (hsent : j.sent = false) (hbuf : j.buf = some y) (hpos : j.pos + 1 < max 1 d.dram.lines) : d.scrubStepJob slot =
      some (d.setJob slot { j with pos := j.pos + 1, done := j.done + 1, buf := none, ending := false }) := by
  obtain ⟨hjob, -⟩ := Dev.working_eq_some.mp hj
  unfold Dev.scrubStepJob
  rw [hj]
  dsimp -zeta only
  rw [htodo]
  dsimp -zeta only
  rw [if_neg (by simp [hsent]), if_pos (by simp [hbuf])]
  extract_lets ended todo
  have hended : ¬ended := Nat.ne_of_lt hpos
  have htodo' : todo = x :: rest := if_neg hended
  rw [Dev.modJob_eq hjob, htodo', if_neg hended]
  simp only [List.isEmpty_cons]

end

/-! ### What a batch issues -/

theorem Dev.jobRead_issues {d : Dev} {slot ld dpa : Nat} {label : Label} (h : (d.regionAt ld dpa).isSome = true) :
    d.jobRead slot ld dpa label = d.issueJob slot (jobReq .read ld dpa label) := by
  unfold Dev.jobRead
  exact if_neg (by simp [Option.isSome_iff_ne_none.mp h])

theorem Dev.jobWrite_issues {d : Dev} {slot ld dpa : Nat} {label : Label} {x : Option Line} (h : (d.regionAt ld dpa).isSome = true) :
    d.jobWrite slot ld dpa label x = d.issueJob slot { jobReq .write ld dpa label with data := x.getD 0, poison := x.isNone } := by
  unfold Dev.jobWrite
  exact if_neg (by simp [Option.isSome_iff_ne_none.mp h])

/-- A batch whose step issues a request, and then waits for its answer, has issued it. -/
theorem issues_of_step {s : State} {c : Instr} {f : Dev → Option Dev} {n slot : Nat} {j : Job} {q : Req}
    (hc : exec c s = ok (repeatStep f n s.dev) s) (hn : 0 < n) (hstep : f s.dev = s.dev.issueJob slot q) (hj : s.dev.job slot = some j)
    (hquiet : s.dev.power.quiet = false) (hroom : s.dev.serviceRoom q.cls = true) (hwaits : f (s.dev.issued slot j q) = none) :
    Completes c s fun e => Issued s.dev e slot j q :=
  completes_ok hc (by
    rw [repeatStep_once (hstep.trans (Dev.issueJob_eq hj hquiet hroom)) hwaits hn]
    exact Dev.issued_issued ..)

end Sys2Proof.Machine
end

section
/-! Jobs on media, stream jobs, the jobs of the pool and MODULE.REPLACE (spec/05 R156, R157; spec/13 R365, R369; spec/16 R441, R442). -/

namespace Sys2Proof.Machine

open Sys2Proof Sys2Proof.Laws

theorem exec_sanitizeRangeDone (slot : Nat) (s : State) : exec (.sanitizeRangeDone slot) s = ok (s.dev.sanitizeRange slot).flow s := rfl
theorem exec_streamSliceExpiry (slot : Nat) (s : State) : exec (.streamSliceExpiry slot) s = ok (s.dev.sliceExpiry slot) s := rfl
theorem exec_streamDescriptorDone (slot : Nat) (coded : List Byte) (s : State) :
    exec (.streamDescriptorDone slot coded) s = ok (s.dev.descriptorDone slot coded) s := rfl
theorem exec_poolAddFillDone (slot : Nat) (s : State) : exec (.poolAddFillDone slot) s = ok (s.dev.addFilled slot) s := rfl
theorem exec_zeroFillDone (n : Nat) (s : State) : exec (.zeroFillDone n) s = ok (s.dev.zeroFilled n) s := rfl
theorem exec_poolReleaseTimeout (slot : Nat) (s : State) : exec (.poolReleaseTimeout slot) s = ok (s.dev.releaseTimeout slot) s := rfl
theorem exec_moduleReplacePhaseEnd (slot : Nat) (spd : Option Spd) (s : State) :
    exec (.moduleReplacePhaseEnd slot spd) s = ok (s.dev.phaseEnd slot spd) s := rfl

/-! ### SANITIZE -/

section
variable {d : Dev} {slot u : Nat} {rest : List Nat} {j : Job} (hj : d.working slot .sanitize = some j) (htodo : j.todo = u :: rest)
include hj htodo

theorem Dev.sanitizeRange_bare (hr : d.regionAt (field j.body 0 1) (u * mib2) = none) :
    d.sanitizeRange slot = d.sanitizeNext slot fun j => { j with detail1 := j.detail1 + 1 } := by
  unfold Dev.sanitizeRange
  rw [hj]
  dsimp -zeta only
  rw [htodo]
  dsimp -zeta only
  extract_lets ld
  rw [show d.regionAt ld (u * mib2) = _ from hr]

variable {r : Region} (hr : d.regionAt (field j.body 0 1) (u * mib2) = some r)
include hr

theorem Dev.sanitizeRange_unplaced (hp : d.placeAt (field j.body 0 1) u = none) : d.sanitizeRange slot = d.sanitizeNext slot id := by
  unfold Dev.sanitizeRange
  rw [hj]
  dsimp -zeta only
  rw [htodo]
  dsimp -zeta only
  extract_lets ld
  rw [show d.regionAt ld (u * mib2) = _ from hr]
  dsimp -zeta only
  rw [show d.placeAt ld u = _ from hp]

/-- A unit that a host holds on this device is reset, once nothing else holds it. -/
theorem Dev.sanitizeRange_placed {x : Extent} {place : Nat} (hp : d.placeAt (field j.body 0 1) u = some (x, place)) (hdev : x.dev = d.chain.index)
    (hst : x.st = .held) : d.sanitizeRange slot =
      if d.unitHeld r.knotted place || (r.knotted && d.rangeBusy place) then d
      else
        let (held, d) := if r.kind = .shared then d.recallLines (d.unitLines r.knotted place) j.label else (false, d)
        if held then d
        else if r.knotted then
          (d.takePages place).2.sanitizeNext slot fun j => { j with
            detail0 := j.detail0 + ((List.range 512).filter fun i => d.knotTakes (d.rangeAttr place) (place * 512 + i)).length
            marks := place :: j.marks }
        else ((d.runUnder j.label 32768).fillFrame (r.direct (extKey (d.extEntry (field j.body 0 1) u))) place).sanitizeNext slot id := by
  unfold Dev.sanitizeRange
  rw [hj]
  dsimp -zeta only
  rw [htodo]
  dsimp -zeta only
  extract_lets ld
  rw [show d.regionAt ld (u * mib2) = _ from hr]
  dsimp -zeta only
  rw [show d.placeAt ld u = _ from hp]
  dsimp -zeta only
  exact if_neg (by simp [hdev, hst])

end

/-! ### Stream jobs -/

theorem Dev.sliceOver_eq {d : Dev} {e slot since bnd : Nat} {j : Job} (he : (d.prism.stream.find? fun x => x.2.1 = slot) = some (e, slot, since))
    (hj : d.job slot = some j) : d.sliceOver slot bnd =
      (decide (since + d.setting idStreamSlice 0 ≤ bnd) && d.streamWaiters.any fun w => decide (w.2.label.toNat / 64 ≤ j.label.toNat / 64)) := by
  simp only [Dev.sliceOver, he, hj]

theorem Dev.streamYield_eq {d : Dev} {e slot : Nat} {j : Job} (he : d.streamEngine slot = some e) (hj : d.job slot = some j)
    (hready : j.streamReady = false) :
    d.streamYield slot = { d with prism.stream := d.prism.stream.del e }.setJob slot { j with from_ := d.clk.bnd } := by
  unfold Dev.streamYield
  rw [he, hj]
  dsimp -zeta only
  extract_lets stream d1
  have hprogress : d1.streamProgress slot j = d1 := by
    unfold Dev.streamProgress
    extract_lets
    rw [if_pos (by simp [hready])]
  rw [hprogress]
  exact Dev.modJob_eq (d := d1) hj _

/-! ### The jobs of the pool -/

theorem Dev.addFilled_offers {d : Dev} {slot : Nat} {j : Job} (hj : d.working slot .poolAdd = some j) (hpos : j.pos = 1) : d.addFilled slot =
    (each (d.toFill slot) d fun d e => (d.runUnder j.label 32768).fillFrame (e.2.direct e.2.key) e.1).offerJob slot := by
  unfold Dev.addFilled
  rw [hj]
  dsimp -zeta only
  rw [if_neg (by simp [hpos])]

theorem Dev.addFilled_none {d : Dev} {slot : Nat} (hj : d.working slot .poolAdd = none) : d.addFilled slot = d := by
  unfold Dev.addFilled
  rw [hj]

theorem Dev.zeroFilled_eq (d : Dev) (n : Nat) (x : Option Sheet) (hx : d.conf.sheet = x) : d.zeroFilled n =
    { d with conf.sheet := x.map fun x => { x with cinch := x.cinch.map fun c => { c with fills := c.fills.filter (· ≠ n) } } } := by
  rw [Dev.zeroFilled, hx]

theorem Dev.releaseTimeout_eq {d : Dev} {slot : Nat} {j : Job} (hj : d.working slot .poolRelease = some j) (hpos : j.pos = 1) :
    d.releaseTimeout slot = if field j.body 2 2 ≠ 0 ∧ j.from_ + field j.body 2 2 * 4096 ≤ d.clk.bnd
      then (d.countReleased slot).finishJob slot else d := by
  unfold Dev.releaseTimeout
  rw [hj]
  dsimp -zeta only
  simp only [hpos, decide_true, Bool.true_and, Bool.and_eq_true, decide_eq_true_eq]

/-- A POOL.RELEASE that ends says what has been released of it. -/
theorem Dev.countReleased_finishJob {d : Dev} {slot : Nat} {j : Job} (hj : d.job slot = some j) :
    let left := (d.heldUnits (field j.body 0 1) j.todo).length
    ((d.countReleased slot).finishJob slot).job slot =
      some { j with done := j.total - left, detail0 := j.total - left, detail1 := left, ending := true } := by
  intro left
  rw [Dev.countReleased, Dev.modJob_eq hj, Dev.finishJob, Dev.modJob_eq (Dev.job_setJob_self ..), Dev.job_setJob_self]

/-! ### MODULE.REPLACE -/

/-- What the phase of a MODULE.REPLACE waits for has come about. -/
def Dev.phaseOver (d : Dev) (j : Job) : Bool :=
  match j.pos with
  | 1 => (d.servedOn j.repSlot).isEmpty && (d.chan (j.repSlot / 2)).copy.isNone
  | 2 => !d.slotLive j.repSlot && j.from_ + beats5ms ≤ d.clk.bnd
  | 3 => (d.hchan j.repSlot).removed
  | 4 => (d.hchan j.repSlot).present && !(d.hchan j.repSlot).removed
  | 6 => (d.hchan j.repSlot).st = .on && !(d.hchan j.repSlot).good
  | 9 => true
  | _ => false

theorem Dev.phaseEnd_eq {d : Dev} {slot : Nat} {spd : Option Spd} {j : Job} (hj : d.working slot .moduleReplace = some j) (hpos : j.pos ≠ 5) :
    d.phaseEnd slot spd = if d.phaseOver j then (if j.pos = 9 then d.zeroRanks j.repSlot else d).nextPhase slot else d := by
  unfold Dev.phaseEnd
  rw [hj]
  dsimp -zeta only
  extract_lets c finished
  rw [if_neg hpos]
  rfl

theorem Dev.phaseEnd_spd {d : Dev} {slot : Nat} {spd : Option Spd} {j : Job} {m : Spd} (hj : d.working slot .moduleReplace = some j)
    (hpos : j.pos = 5) (hm : (spd.orElse fun _ => (d.hchan j.repSlot).mod) = some m) : d.phaseEnd slot spd =
      if (d.hchan j.repSlot).st = .retired then d.failJob slot .internal else d.checkModule slot j.repSlot m := by
  unfold Dev.phaseEnd
  rw [hj]
  dsimp -zeta only
  extract_lets unit c finished
  rw [if_pos hpos, show (spd.orElse fun _ => c.mod) = some m from hm]

/-- The phase ends where what it waits for holds, and only there. -/
theorem phaseEnd_ends {s : State} {slot : Nat} {spd : Option Spd} {j : Job} (hj : s.dev.working slot .moduleReplace = some j) (hpos : j.pos ≠ 5)
    {holds : Prop} (h : s.dev.phaseOver j = true ↔ holds) :
    (holds → Completes (.moduleReplacePhaseEnd slot spd) s fun d =>
      d = (if j.pos = 9 then s.dev.zeroRanks j.repSlot else s.dev).nextPhase slot) ∧
    (¬holds → Completes (.moduleReplacePhaseEnd slot spd) s fun d => d = s.dev) :=
  ⟨fun hh => completes_ok (exec_moduleReplacePhaseEnd ..) ((Dev.phaseEnd_eq hj hpos).trans (if_pos (h.mpr hh))),
    fun hh => completes_ok (exec_moduleReplacePhaseEnd ..) ((Dev.phaseEnd_eq hj hpos).trans (if_neg (hh ∘ h.mp)))⟩

/-- Settles O36: by what each step finds: a request on its way, an answer, what holds a unit, whose turn the engine is, the phase. -/
theorem jobBatchesAndSteps : Obligations.JobBatchesAndSteps := by
  refine ⟨⟨?_, ?_, fun s slot lines => ⟨completes_ok (exec_copyBatchDone ..) rfl, completes_ok (exec_fillBatchDone ..) rfl,
    completes_ok (exec_scrubBatchDone ..) rfl⟩⟩, ?_, ?_, ?_, ?_, ?_, ?_, ?_, ?_, ?_⟩
  · intro s slot lines k i j hlines d free
    refine ⟨fun hj => ⟨fun hsent => ?_, fun hline hsent hfree => ⟨fun hhold hbuf hr => ?_, fun x hhold hbuf hr => ?_⟩⟩,
      fun hj => ⟨fun hsent => ?_, fun hline hsent hbuf hfree hr => ?_⟩, fun x rest hj htodo => ⟨fun hsent => ?_, fun hsent hbuf hfree => ?_⟩⟩
    · exact completes_ok (exec_copyBatchDone ..) (repeatStep_waits (Dev.copyStepJob_waits hj hsent) _)
    · refine issues_of_step (exec_copyBatchDone ..) (by omega) ?_ (Dev.working_eq_some.mp hj).1 hfree.1 hfree.2
        (Dev.copyStepJob_waits (Dev.working_issued hj _) rfl)
      rw [Dev.copyStepJob_eq hj hline hsent, hhold, hbuf]
      exact Dev.jobRead_issues hr
    · refine issues_of_step (exec_copyBatchDone ..) (by omega) ?_ (Dev.working_eq_some.mp hj).1 hfree.1 hfree.2
        (Dev.copyStepJob_waits (Dev.working_issued hj _) rfl)
      rw [Dev.copyStepJob_eq hj hline hsent, hhold, hbuf]
      exact Dev.jobWrite_issues hr
    · exact completes_ok (exec_fillBatchDone ..) (repeatStep_waits (Dev.fillStepJob_waits hj hsent) _)
    · refine issues_of_step (exec_fillBatchDone ..) (by omega) ?_ (Dev.working_eq_some.mp hj).1 hfree.1 hfree.2
        (Dev.fillStepJob_waits (Dev.working_issued hj _) rfl)
      rw [Dev.fillStepJob_eq hj hline hsent, if_neg (by simp [hbuf])]
      exact Dev.jobWrite_issues hr
    · exact completes_ok (exec_scrubBatchDone ..) (repeatStep_waits (Dev.scrubStepJob_waits hj htodo hsent) _)
    · exact issues_of_step (exec_scrubBatchDone ..) (by omega) (Dev.scrubStepJob_issues hj htodo hsent hbuf) (Dev.working_eq_some.mp hj).1
        hfree.1 hfree.2 (Dev.scrubStepJob_waits (Dev.working_issued hj _) htodo rfl)
  · intro d slot k i j y hsent hbuf
    refine ⟨fun hj hline => ⟨fun hhold => ?_, fun x hhold => ?_⟩, fun hj hline => ?_, fun x rest hj htodo hpos =>
      Dev.scrubStepJob_counts hj htodo hsent hbuf hpos⟩
    · rw [Dev.copyStepJob_eq hj hline hsent, hhold, hbuf]
    · rw [Dev.copyStepJob_eq hj hline hsent, hhold, hbuf]
      rfl
    · rw [Dev.fillStepJob_eq hj hline hsent, if_pos (by simp [hbuf])]
      rfl
  · intro s slot u rest j hj htodo
    refine ⟨fun hr => settles_ok (exec_sanitizeRangeDone ..) (Dev.sanitizeRange_bare hj htodo hr), fun r hr =>
      ⟨fun hp => settles_ok (exec_sanitizeRangeDone ..) (Dev.sanitizeRange_unplaced hj htodo hr hp), fun x place hp hdev hst => ?_⟩⟩
    have heq := Dev.sanitizeRange_placed hj htodo hr hp hdev hst
    refine ⟨fun hheld => settles_ok (exec_sanitizeRangeDone ..) ?_, fun hkind hheld => ⟨fun hknot => settles_ok (exec_sanitizeRangeDone ..) ?_,
      fun hknot hbusy => settles_ok (exec_sanitizeRangeDone ..) ?_⟩⟩
    · rw [heq, if_pos (by simp [hheld])]
    · rw [heq, if_neg (by rw [hheld]; simp [hknot]), if_neg hkind]
      dsimp -zeta only
      rw [if_neg Bool.false_ne_true, if_neg (by simp [hknot])]
    · rw [heq, if_neg (by simp [hheld, hbusy]), if_neg hkind]
      dsimp -zeta only
      rw [if_neg Bool.false_ne_true, if_pos hknot]
  · intro s e slot since j he hj
    refine ⟨fun hslice hwait hnew => completes_ok (exec_streamSliceExpiry ..) ?_, fun hslice => completes_ok (exec_streamSliceExpiry ..) ?_⟩
    · rw [Dev.sliceExpiry, Dev.sliceOver_eq he hj, hwait, if_pos (by simpa using ⟨hslice, hnew⟩)]
    · rw [Dev.sliceExpiry, Dev.sliceOver_eq he hj, decide_eq_false (Nat.not_le.mpr hslice)]
      rfl
  · intro d e slot j hyields hover he hj hready
    rw [Dev.streamYields, hyields]
    have hover' : ({ d with prism.yields := [] } : Dev).sliceOver slot d.clk.bnd = true := hover
    exact (if_pos hover').trans (Dev.streamYield_eq (d := { d with prism.yields := [] }) he hj hready)
  · intro s slot coded d0
    refine ⟨fun j e hj he hready hturn => completes_ok (exec_streamDescriptorDone ..) ?_, fun h => completes_ok (exec_streamDescriptorDone ..) ?_⟩
    · unfold Dev.descriptorDone
      extract_lets
      rw [hj, he]
      exact if_pos (by simpa using ⟨hready, hturn⟩)
    · unfold Dev.descriptorDone
      extract_lets
      obtain h | h := h
      · rw [h]
      · rw [h]
        cases d0.working slot .prismStream <;> rfl
  · exact fun s slot => ⟨fun j hj hpos => completes_ok (exec_poolAddFillDone ..) (Dev.addFilled_offers hj hpos),
      fun hj => completes_ok (exec_poolAddFillDone ..) (Dev.addFilled_none hj)⟩
  · intro s n x c hx hc
    refine completes_ok (exec_zeroFillDone ..) ?_
    rw [Dev.zeroFilled_eq _ _ _ hx, Option.map_some, hc, Option.map_some]
  · intro s n hx
    refine completes_ok (exec_zeroFillDone ..) ?_
    rw [Dev.zeroFilled_eq _ _ _ hx, Option.map_none, ← hx]
  · intro s slot j hj hpos t
    have heq := Dev.releaseTimeout_eq hj hpos
    refine ⟨fun ht hdue => completes_ok (exec_poolReleaseTimeout ..) ?_, fun h => completes_ok (exec_poolReleaseTimeout ..) ?_⟩
    · rw [heq, if_pos ⟨ht, hdue⟩]
      exact Dev.countReleased_finishJob (Dev.working_eq_some.mp hj).1
    · rw [heq, if_neg]
      rintro ⟨ht, hdue⟩
      exact h.elim ht fun hlate => absurd hdue (Nat.not_le.mpr hlate)
  · intro s slot spd j hj c ends
    have hends : ∀ {holds : Prop}, j.pos ≠ 5 → j.pos ≠ 9 → (s.dev.phaseOver j = true ↔ holds) → ends holds (s.dev.nextPhase slot) :=
      fun h5 h9 h => by
        have h := phaseEnd_ends (spd := spd) hj h5 h
        rwa [if_neg h9] at h
    refine ⟨fun hpos => hends (by omega) (by omega) ?_, fun hpos => hends (by omega) (by omega) ?_, fun hpos => hends (by omega) (by omega) ?_,
      fun hpos => hends (by omega) (by omega) ?_, fun hpos => hends (by omega) (by omega) ?_, fun hpos => ?_, fun m hpos hm => ?_⟩
    · simp [Dev.phaseOver, hpos]
    · simp [Dev.phaseOver, hpos]
    · simp [Dev.phaseOver, hpos, c]
    · simp [Dev.phaseOver, hpos, c]
    · simp [Dev.phaseOver, hpos, c]
    · have h := phaseEnd_ends (spd := spd) hj (by omega) (holds := True) (by simp [Dev.phaseOver, hpos])
      rwa [if_pos hpos] at h
    · have heq := Dev.phaseEnd_spd (spd := spd) hj hpos hm
      exact ⟨fun hst => completes_ok (exec_moduleReplacePhaseEnd ..) (heq.trans (if_pos hst)),
        fun hst => completes_ok (exec_moduleReplacePhaseEnd ..) (heq.trans (if_neg hst))⟩

end Sys2Proof.Machine
end

section
/-! The staging sheet and the regions staged on it (spec/12 R338 to R348; spec/13 R371 to R373). -/

namespace Sys2Proof.Machine

open Sys2Proof Sys2Proof.Laws

/-! ### Pinned extent entries -/

theorem Dev.pinEntry_conf (d : Dev) (x : XEntry) : (d.pinEntry x).2.conf = d.conf := by
  have hread := (Upkeep.readTable d (x.addr / 64) 0 {}).conf
  unfold Dev.pinEntry
  cases hr : d.readTable (x.addr / 64) 0 {} with | mk j e =>
  rw [hr] at hread
  dsimp -zeta only
  extract_lets v xl e1 stage1
  split
  · exact hread
  · extract_lets e2
    have h2 : e2.conf = d.conf :=
      ((Upkeep.raiseAt ..).trans (Upkeep.of_signals (signals_doorbell ..))).conf.trans hread
    dsimp only
    split
    · unfold Dev.suspend
      split
      · exact h2
      · exact (signals_raise ..).conf.trans h2
    · exact h2

theorem Dev.pinExt_conf (d : Dev) (ld ext : Nat) : (d.pinExt ld ext).conf = d.conf := by
  unfold Dev.pinExt
  have h1 := Dev.pinEntry_conf d { kind := .s1l1, ld := ld, index := ext / 512, value := 0, addr := d.s1Dir ld ext }
  cases hp : d.pinEntry { kind := .s1l1, ld := ld, index := ext / 512, value := 0, addr := d.s1Dir ld ext } with | mk g e =>
  rw [hp] at h1
  dsimp only
  split
  · exact (Dev.pinEntry_conf ..).trans h1
  · exact h1

theorem Dev.repin_conf (d : Dev) : d.repin.conf = d.conf := by
  unfold Dev.repin
  extract_lets t keep xl d1
  refine each_keeps _ _ _ Dev.conf fun e a => ?_
  split
  · rfl
  · exact Dev.pinExt_conf ..

/-! ### The lock and its lease -/

/-- The lease counts from the owner's last SHEET command (R339). -/
def Dev.renewed (d : Dev) (iss : Issuer) : Dev :=
  if d.ownsSheet (issuerBox iss) then d.modSheet fun x => { x with leaseFrom := if x.cinch.isNone then d.clk.bnd else x.leaseFrom } else d

section
variable (iss : Issuer) (inp : List Byte) (s : State)

theorem exec_sheetOpen : exec (.sheetOpen iss inp) s = ok (s.dev.command iss 0xC000 fun d => (d.sheetOpen iss inp).renewed iss) s := rfl
theorem exec_sheetSet : exec (.sheetSet iss inp) s = ok (s.dev.command iss 0xC001 fun d => (d.sheetSet iss inp).renewed iss) s := rfl
theorem exec_sheetRead : exec (.sheetRead iss inp) s = ok (s.dev.command iss 0xC002 fun d => (d.sheetRead iss inp).renewed iss) s := rfl
theorem exec_sheetCheck : exec (.sheetCheck iss inp) s = ok (s.dev.command iss 0xC003 fun d => (d.sheetCheck iss inp).renewed iss) s := rfl
theorem exec_sheetSlip : exec (.sheetSlip iss inp) s = ok (s.dev.command iss 0xC005 fun d => (d.sheetSlip iss inp).renewed iss) s := rfl
theorem exec_sheetExpired : exec .sheetExpired s = ok s.dev.sheetExpired s := rfl
theorem exec_regionStage : exec (.regionStage iss inp) s = ok (s.dev.command iss 0xC100 fun d => d.regionStage iss inp) s := rfl
theorem exec_regionRemove : exec (.regionRemove iss inp) s = ok (s.dev.command iss 0xC101 fun d => d.regionRemove iss inp) s := rfl
theorem exec_regionRead : exec (.regionRead iss inp) s = ok (s.dev.command iss 0xC102 fun d => d.regionRead iss inp) s := rfl

end

/-- A lease renewed is all of the sheet that changes. -/
theorem Dev.renewed_frame (d : Dev) (iss : Issuer) :
    ∃ sheet, d.renewed iss = { d with conf.sheet := sheet } ∧ sheet.map (·.staged) = d.conf.sheet.map (·.staged) := by
  unfold Dev.renewed
  split
  · exact ⟨_, rfl, by cases d.conf.sheet <;> rfl⟩
  · exact ⟨d.conf.sheet, rfl, rfl⟩

theorem Dev.renewed_out (d : Dev) (iss : Issuer) : (d.renewed iss).out = d.out := by
  obtain ⟨_, h, -⟩ := d.renewed_frame iss
  rw [h]

theorem Dev.renewed_owner {d : Dev} {iss : Issuer} {x : Sheet} (hx : d.conf.sheet = some x) (hown : d.ownsSheet (issuerBox iss) = true)
    (hcinch : x.cinch = none) : (d.renewed iss).conf = { d.conf with sheet := some { x with leaseFrom := d.clk.bnd } } := by
  rw [Dev.renewed, if_pos hown]
  simp only [Dev.modSheet, hx, Option.map_some, hcinch, Option.isNone_none, if_true]

theorem Dev.renewed_other {d : Dev} {iss : Issuer} (hown : d.ownsSheet (issuerBox iss) = false) : d.renewed iss = d :=
  if_neg (by simp [hown])

theorem Dev.sheetGate_none {d : Dev} {box : Nat} (h : d.sheetGate box = none) : d.ownsSheet box = true := by
  unfold Dev.sheetGate at h
  split at h
  · cases h
  · split at h
    next hown => exact hown
    next => cases h

/-- A SHEET command that answers with a status, its lease renewed: settings, regions and what is staged stand as they did. -/
def SheetAnswers (d0 : Dev) (iss : Issuer) (st : Status) (body : List Byte) (noWork : Bool) (d : Dev) : Prop :=
  Answered d iss st body noWork ∧ d.conf.cur = d0.conf.cur ∧ d.conf.regions = d0.conf.regions ∧
    d.conf.sheet.map (·.staged) = d0.conf.sheet.map (·.staged)

theorem renewed_answers (d : Dev) (iss : Issuer) (st : Status) (body : List Byte) (noWork : Bool) :
    SheetAnswers d iss st body noWork ((d.reply iss st body noWork).renewed iss) := by
  obtain ⟨sheet, heq, hstaged⟩ := (d.reply iss st body noWork).renewed_frame iss
  have hout := (d.reply iss st body noWork).renewed_out iss
  have hconf : (d.reply iss st body noWork).conf = d.conf := Dev.reply_conf ..
  refine ⟨?_, ?_, ?_, ?_⟩
  · rw [Answered, hout]
    exact reply_answered ..
  · rw [heq, ← hconf]
  · rw [heq, ← hconf]
  · rw [heq, ← hconf]
    exact hstaged

theorem Dev.reply_ownsSheet (d : Dev) (iss : Issuer) (st : Status) (body : List Byte) (noWork : Bool) (box : Nat) :
    (d.reply iss st body noWork).ownsSheet box = d.ownsSheet box := by
  rw [Dev.ownsSheet, Dev.reply_conf, Dev.reply_chain]
  rfl

/-- The owner's command answers, and its lease counts from now. -/
theorem renewed_reply {d : Dev} {iss : Issuer} {x : Sheet} (hx : d.conf.sheet = some x) (hown : d.ownsSheet (issuerBox iss) = true)
    (hcinch : x.cinch = none) (st : Status) (body : List Byte) (noWork : Bool) :
    ((d.reply iss st body noWork).renewed iss).conf = { d.conf with sheet := some { x with leaseFrom := d.clk.bnd } } ∧
      ((d.reply iss st body noWork).renewed iss).line = d.line := by
  have hconf : (d.reply iss st body noWork).conf = d.conf := Dev.reply_conf ..
  constructor
  · rw [Dev.renewed_owner (hconf ▸ hx) ((Dev.reply_ownsSheet ..).trans hown) hcinch, Dev.reply_clk, hconf]
  · obtain ⟨_, heq, -⟩ := (d.reply iss st body noWork).renewed_frame iss
    rw [heq]
    exact Dev.reply_line ..

theorem SheetAnswers.heard {d d' : Dev} {iss : Issuer} {box : Nat} {st : Status} {body : List Byte} {noWork : Bool}
    (h : SheetAnswers (d.heard box) iss st body noWork d') : SheetAnswers d iss st body noWork d' := h

/-! ### SHEET.OPEN, SHEET.SET, SHEET.READ -/

section
variable {d : Dev} {iss : Issuer} {inp : List Byte}

theorem Dev.sheetOpen_local (hlen : inp.length = 8) (hscope : field inp 0 1 = 0) (hlease : field inp 2 2 ≠ 0) (hr1 : rsvd inp 1 1 = true)
    (hr4 : rsvd inp 4 4 = true) (hsheet : d.conf.sheet = none) (hopening : d.conf.opening = none) : d.sheetOpen iss inp =
      ((d.heard (issuerBox iss)).openFor (issuerBox iss) (field inp 2 2) false 0).reply iss .success (zeros 6) := by
  unfold Dev.sheetOpen
  extract_lets box scope lease d1
  rw [if_neg (by simp [hlen]), if_neg (by simp [scope, lease, hscope, hlease, hr1, hr4]), if_neg (by simp [d1, Dev.heard, hsheet, hopening]),
    if_pos hscope]

theorem Dev.sheetSet_badLength (h : inp.length < 8 ∨ inp.length ≠ 8 + 16 * field inp 0 2) : d.sheetSet iss inp = d.badLength iss := by
  unfold Dev.sheetSet
  extract_lets box count answer
  rw [if_pos (by simpa [count] using h)]

section
variable (hlen : inp.length = 8 + 16 * field inp 0 2)
include hlen

theorem Dev.sheetSet_denied {st : Status} (h : d.sheetGate (issuerBox iss) = some st) :
    d.sheetSet iss inp = (d.heard (issuerBox iss)).reply iss st (leBytes 2 0xFFFF ++ leBytes 4 0) false := by
  unfold Dev.sheetSet
  extract_lets box count answer
  rw [if_neg (by simp [count]; omega), show d.sheetGate box = some st from h]
  cases d.conf.sheet <;> rfl

variable {x : Sheet} (hgate : d.sheetGate (issuerBox iss) = none) (hx : d.conf.sheet = some x)
include hgate hx

theorem Dev.sheetSet_owned : d.sheetSet iss inp =
    if x.cinch.isSome then d.reply iss .cinchPending (leBytes 2 0xFFFF ++ leBytes 4 x.staged.length) false
    else if !rsvd inp 2 6 then d.reply iss .invalidInput (leBytes 2 0xFFFF ++ leBytes 4 x.staged.length) false
    else if field inp 0 2 = 0 then d.reply iss .success (leBytes 2 0xFFFF ++ leBytes 4 x.staged.length) true
    else match d.readEntries x ((List.range (field inp 0 2)).map fun k => slice inp (8 + 16 * k) 16) 0 [] with
      | .error (st, k) => d.reply iss st (leBytes 2 k ++ leBytes 4 x.staged.length) false
      | .ok l =>
        if 16384 < (l.foldl stageEntry x.staged).length then d.reply iss .sheetFull (leBytes 2 0xFFFF ++ leBytes 4 x.staged.length) false
        else (d.modSheet fun y => { y with staged := l.foldl stageEntry x.staged }).reply iss .success
          (leBytes 2 0xFFFF ++ leBytes 4 (l.foldl stageEntry x.staged).length) false := by
  unfold Dev.sheetSet
  extract_lets box count answer
  rw [if_neg (by simp [count]; omega), show d.sheetGate box = none from hgate, hx] <;>
    refine ite_congr rfl (fun _ => rfl) fun _ => ite_congr rfl (fun _ => rfl) fun _ => ite_congr rfl (fun _ => rfl) fun _ => ?_ <;>
    cases d.readEntries x ((List.range count).map fun k => slice inp (8 + 16 * k) 16) 0 [] <;> rfl

theorem Dev.sheetSet_stages {l : List Staged} (hcinch : x.cinch = none) (hr : rsvd inp 2 6 = true) (hcount : field inp 0 2 ≠ 0)
    (hl : d.readEntries x ((List.range (field inp 0 2)).map fun k => slice inp (8 + 16 * k) 16) 0 [] = .ok l)
    (hroom : (l.foldl stageEntry x.staged).length ≤ 16384) : d.sheetSet iss inp =
      (d.modSheet fun y => { y with staged := l.foldl stageEntry x.staged }).reply iss .success
        (leBytes 2 0xFFFF ++ leBytes 4 (l.foldl stageEntry x.staged).length) false := by
  rw [Dev.sheetSet_owned hlen hgate hx, hcinch, if_neg (by simp), if_neg (by simp [hr]), if_neg hcount, hl]
  exact if_neg (by omega)

end

theorem Dev.sheetRead_plain {row : SettingRow} (hlen : inp.length = 8) (hr : rsvd inp 5 3 = true) (hrow : settingRow (field inp 0 2) = some row)
    (hdev : d.entryDev true (field inp 4 1) = some d.chain.index) (hindex : field inp 2 2 < row.count)
    (hlegal : settingLegal row (field inp 2 2) (settingDefault (field inp 0 2) (field inp 2 2)) = true)
    (hown : d.ownsSheet (issuerBox iss) = false) : d.sheetRead iss inp = d.reply iss .success
      (zeros 6 ++ leBytes 8 (d.setting (field inp 0 2) (field inp 2 2)) ++ leBytes 8 (d.setting (field inp 0 2) (field inp 2 2))) := by
  unfold Dev.sheetRead
  extract_lets id index
  rw [if_neg (by simp [hlen]), if_neg (by simp [hr]), show settingRow id = some row from hrow]
  dsimp -zeta only
  rw [hdev]
  dsimp -zeta only
  rw [if_neg (by simp only [Bool.or_eq_true, decide_eq_true_eq, Bool.not_eq_true']; simp [index, id, hlegal]; omega), if_pos rfl]
  dsimp only
  rw [hown]
  rfl

/-! ### SHEET.CHECK, SHEET.SLIP and the lease's end -/

theorem Dev.sheetCheck_empty {x : Sheet} (hgate : d.sheetGate (issuerBox iss) = none) (hx : d.conf.sheet = some x) (hstaged : x.staged = []) :
    d.sheetCheck iss [] = d.reply iss .success (zeros 14) true := by
  unfold Dev.sheetCheck
  extract_lets box
  rw [if_neg (by simp), show d.sheetGate box = none from hgate, hx]
  exact if_pos (by simp [hstaged])

theorem Dev.sheetCheck_local {x : Sheet} (hgate : d.sheetGate (issuerBox iss) = none) (hx : d.conf.sheet = some x) (hstaged : x.staged ≠ [])
    (hlocal : x.chain = false) : d.sheetCheck iss [] = match d.checkSheet false x.staged with
      | none => d.reply iss .success (zeros 14)
      | some f => d.reply iss .ruleFailed
          ([BitVec.ofNat 8 f.rule, BitVec.ofNat 8 f.dev] ++ leBytes 2 f.id ++ leBytes 2 f.index ++ leBytes 2 f.entry ++ zeros 6) := by
  unfold Dev.sheetCheck
  extract_lets box
  rw [if_neg (by simp), show d.sheetGate box = none from hgate, hx]
  dsimp only
  rw [if_neg (by simp [hstaged]), show d.peersFail x.chain = (none, d) from if_pos (by simp [hlocal]), hlocal] <;>
    cases d.checkSheet false x.staged <;> rfl

theorem Dev.sheetSlip_local {x : Sheet} (hlen : inp.length = 8) (h0 : field inp 0 1 = 0) (hr : rsvd inp 1 7 = true)
    (hgate : d.sheetGate (issuerBox iss) = none) (hx : d.conf.sheet = some x) (hcinch : x.cinch = none) :
    d.sheetSlip iss inp = d.slip.reply iss .success (zeros 6) := by
  unfold Dev.sheetSlip
  extract_lets box force
  have hforce : force = false := by simp [force, h0, bit]
  rw [if_neg (by simp [hlen]), if_neg (by simp [h0, hr, hforce]), hforce]
  rw [if_neg Bool.false_ne_true, show d.sheetGate box = none from hgate, hx]
  dsimp only
  rw [if_neg (by simp [hcinch]), if_neg (by simp)]

theorem Dev.slip_local {x : Sheet} (hx : d.conf.sheet = some x) (hlocal : x.chain = false) :
    d.slip.conf = { d.conf with sheet := none, next := none } := by
  unfold Dev.slip
  rw [hx]
  dsimp only
  rw [if_neg (by simp [hlocal])]
  exact Dev.repin_conf _

theorem Dev.sheetExpired_early {x : Sheet} (hx : d.conf.sheet = some x) (hlease : d.clk.bnd < x.leaseFrom + x.lease * 4096) : d.sheetExpired = d := by
  unfold Dev.sheetExpired
  rw [hx]
  exact if_neg (by simp; omega)

theorem Dev.sheetExpired_ends {x : Sheet} (hx : d.conf.sheet = some x) (hdev : x.ownerDev = d.chain.index) (hcinch : x.cinch = none)
    (hlease : x.leaseFrom + x.lease * 4096 ≤ d.clk.bnd) (hlocal : x.chain = false) :
    d.sheetExpired.conf = { d.conf with sheet := none, next := none, expired := x.owner :: d.conf.expired.filter (· ≠ x.owner) } := by
  unfold Dev.sheetExpired
  rw [hx]
  dsimp only
  rw [if_pos (by simpa using ⟨⟨hdev, hcinch⟩, hlease⟩)]
  unfold Dev.evict
  rw [hx]
  dsimp only
  rw [if_neg (by simp [hdev])]
  refine (signals_raise ..).conf.trans ?_
  exact Dev.slip_local (x := x) hx hlocal

/-! ### Regions -/

theorem Dev.stageRegion_full {x : Sheet} {e : Staged} (h : 16384 < (stageEntry x.staged e).length) :
    d.stageRegion iss x e = d.refuse iss .sheetFull 8 := if_pos h

theorem Dev.stageRegion_stages {x : Sheet} {e : Staged} (hx : d.conf.sheet = some x) (h : (stageEntry x.staged e).length ≤ 16384) :
    d.stageRegion iss x e = { d with conf.sheet := some { x with staged := stageEntry x.staged e } }.reply iss .success (zeros 6) := by
  unfold Dev.stageRegion
  extract_lets l
  rw [if_neg (Nat.not_lt.mpr h), Dev.modSheet, hx]
  rfl

theorem Dev.regionStage_badLength (h : inp.length ≠ 152) : d.regionStage iss inp = d.badLength iss := if_pos h

theorem Dev.regionStage_denied {st : Status} (hlen : inp.length = 152) (h : d.regionGate (issuerBox iss) = some st) :
    d.regionStage iss inp = d.refuse iss st 8 := by
  unfold Dev.regionStage
  rw [if_neg (by simp [hlen]), h]
  cases d.conf.sheet <;> rfl

theorem Dev.regionStage_owned {x : Sheet} (hlen : inp.length = 152) (hgate : d.regionGate (issuerBox iss) = none) (hx : d.conf.sheet = some x) :
    d.regionStage iss inp = match readRegion inp none with
      | some r => if r.size = 0 then d.refuse iss .invalidInput 8 else d.stageRegion iss x (.region r)
      | none => d.refuse iss .invalidInput 8 := by
  unfold Dev.regionStage
  rw [if_neg (by simp [hlen]), hgate, hx] <;>
    cases readRegion inp none <;> rfl

theorem Dev.regionRemove_badLength (h : inp.length ≠ 8) : d.regionRemove iss inp = d.badLength iss := if_pos h

theorem Dev.regionRemove_denied {st : Status} (hlen : inp.length = 8) (h : d.regionGate (issuerBox iss) = some st) :
    d.regionRemove iss inp = d.refuse iss st 8 := by
  unfold Dev.regionRemove
  extract_lets ld entry
  rw [if_neg (by simp [hlen]), h]
  cases d.conf.sheet <;> rfl

theorem Dev.regionRemove_stages {x : Sheet} (hlen : inp.length = 8) (hgate : d.regionGate (issuerBox iss) = none) (hx : d.conf.sheet = some x)
    (hld : field inp 0 1 < 32) (hentry : field inp 1 1 < 16) (hr : rsvd inp 2 6 = true)
    (hheld : ((stagedRegions x.staged d.conf.regions).any fun r => r.home.isNone && r.ld = field inp 0 1 && r.entry = field inp 1 1) = true) :
    d.regionRemove iss inp = d.stageRegion iss x (.remove (field inp 0 1) (field inp 1 1)) := by
  unfold Dev.regionRemove
  extract_lets ld entry
  rw [if_neg (by simp [hlen]), hgate, hx]
  dsimp -zeta only
  extract_lets held
  rw [if_neg]
  rw [show held = true from hheld, hr]
  simp only [ld, entry, Bool.not_true, Bool.or_false, Bool.or_eq_true, decide_eq_true_eq]
  omega

theorem Dev.regionUse_here (r : Region) : d.regionUse r d.chain.index = ((d.regionUse r d.chain.index).1, d) := by
  unfold Dev.regionUse
  extract_lets key media units
  split
  · rfl
  · rw [if_pos rfl]

theorem Dev.regionRead_here (hlen : inp.length = 8) (hdev : d.entryDev true (field inp 2 1) = some d.chain.index) (hld : field inp 0 1 < 32)
    (hentry : field inp 1 1 < 16) (hr : rsvd inp 3 5 = true) : d.regionRead iss inp =
      match d.conf.regions.find? fun r => r.home.isNone && r.ld = field inp 0 1 && r.entry = field inp 1 1 with
      | none => d.reply iss .success (zeros 46)
      | some r => d.reply iss .success
          ([BitVec.ofNat 8 (1 + 2 * kindNum r.kind + 8 * r.attr), r.label, BitVec.ofNat 8 r.key,
              BitVec.ofNat 8 (d.regionUse r d.chain.index).1.1] ++ leBytes 2 r.set.toNat ++
            leBytes 8 (r.base * mib2) ++ leBytes 4 r.size ++ leBytes 4 (d.visible r none) ++ leBytes 4 (d.regionUse r d.chain.index).1.2.1 ++
            zeros 4 ++ leBytes 8 (d.regionUse r d.chain.index).1.2.2 ++ zeros 8) := by
  unfold Dev.regionRead
  extract_lets ld entry
  rw [if_neg (by simp [hlen]), hdev]
  dsimp -zeta only
  rw [if_neg (by simp only [ld, entry, hr, Bool.not_true, Bool.or_false, Bool.or_eq_true, decide_eq_true_eq]; omega)]
  cases d.conf.regions.find? fun r => r.home.isNone && r.ld = ld && r.entry = entry with
  | none => rfl
  | some r =>
    dsimp only
    rw [Dev.regionUse_here]

end

/-- Settles O37: by the gate of the sheet's owner, and by the checks of each command in turn. -/
theorem sheetAndRegionStaging : Obligations.SheetAndRegionStaging := by
  refine ⟨⟨?_, ?_⟩, ?_⟩
  · intro s iss inp htakes d0 box
    have hset := fun P => completes_of_takes (P := P) htakes (exec_sheetSet iss inp s)
    refine ⟨fun hlen hscope hlease hr1 hr4 hsheet hopening => ?_, fun x l hgate hx hcinch hlen hr hcount hl hroom => ?_, ?_,
      fun row hlen hr hrow hdev hindex hlegal hown => ?_, fun x hinp hgate hx => ?_, fun x hlen h0 hr hgate hx hcinch hlocal => ?_⟩
    · refine completes_of_takes htakes (exec_sheetOpen ..) ?_
      rw [Dev.sheetOpen_local hlen hscope hlease hr1 hr4 hsheet hopening]
      obtain ⟨hconf, -⟩ := renewed_reply (d := (d0.heard box).openFor box (field inp 2 2) false 0) (iss := iss) rfl
        (by simp [Dev.ownsSheet, Dev.openFor, box]) rfl .success (zeros 6) false
      exact ⟨by rw [hconf]; rfl, (renewed_answers ..).1⟩
    · refine hset _ ?_
      rw [Dev.sheetSet_stages hlen hgate hx hcinch hr hcount hl hroom]
      have hx' : (d0.modSheet fun y => { y with staged := l.foldl stageEntry x.staged }).conf.sheet =
          some { x with staged := l.foldl stageEntry x.staged } := by rw [Dev.modSheet, hx]; rfl
      have hown : (d0.modSheet fun y => { y with staged := l.foldl stageEntry x.staged }).ownsSheet box = true := by
        have h := Dev.sheetGate_none hgate
        rw [Dev.ownsSheet, hx] at h
        rw [Dev.ownsSheet, hx']
        exact h
      obtain ⟨hconf, hline⟩ := renewed_reply hx' hown hcinch .success (leBytes 2 0xFFFF ++ leBytes 4 (l.foldl stageEntry x.staged).length) false
      exact ⟨by rw [hconf]; rfl, (renewed_answers ..).1, by rw [hconf]; rfl, by rw [hconf]; rfl, hline⟩
    · intro answers count
      refine ⟨fun h => hset _ ?_, fun h8 hlen => ⟨fun st hgate => hset _ ?_, fun x hgate hx => ?_⟩⟩
      · rw [Dev.sheetSet_badLength h]
        exact (renewed_answers ..).1
      · rw [Dev.sheetSet_denied hlen hgate]
        exact (renewed_answers ..).heard
      · have heq := Dev.sheetSet_owned hlen hgate hx
        refine ⟨fun hcinch => hset _ ?_, fun hcinch hr => hset _ ?_, fun hcinch hr h0 => hset _ ?_, fun st k hcinch hr h0 hl => hset _ ?_⟩
        · rw [heq, if_pos hcinch]
          exact renewed_answers ..
        · rw [heq, if_neg (by simp [hcinch]), if_pos (by simp [hr])]
          exact renewed_answers ..
        · rw [heq, if_neg (by simp [hcinch]), if_neg (by simp [hr]), if_pos h0]
          exact renewed_answers ..
        · rw [heq, if_neg (by simp [hcinch]), if_neg (by simp [hr]), if_neg h0, hl]
          exact renewed_answers ..
    · refine completes_of_takes htakes (exec_sheetRead ..) ?_
      rw [Dev.sheetRead_plain hlen hr hrow hdev hindex hlegal hown, Dev.renewed_other ((Dev.reply_ownsSheet ..).trans hown)]
      exact reply_replies ..
    · subst hinp
      have hcheck := fun P => completes_of_takes (P := P) htakes (exec_sheetCheck iss [] s)
      refine ⟨fun hstaged => hcheck _ ?_, fun hstaged hlocal hpass => hcheck _ ?_, fun f hstaged hlocal hfail => hcheck _ ?_⟩
      · rw [Dev.sheetCheck_empty hgate hx hstaged]
        exact (renewed_answers ..).1
      · rw [Dev.sheetCheck_local hgate hx hstaged hlocal, hpass]
        exact (renewed_answers ..).1
      · rw [Dev.sheetCheck_local hgate hx hstaged hlocal, hfail]
        exact (renewed_answers ..).1
    · refine completes_of_takes htakes (exec_sheetSlip ..) ?_
      have hslip := Dev.slip_local hx hlocal
      rw [Dev.sheetSlip_local hlen h0 hr hgate hx hcinch, Dev.renewed_other]
      · rw [Dev.reply_conf, hslip]
        exact ⟨rfl, rfl, reply_answered ..⟩
      · rw [Dev.reply_ownsSheet, Dev.ownsSheet, hslip]
  · intro s x hx hdev hcinch
    refine ⟨fun hlease => completes_ok (exec_sheetExpired ..) (Dev.sheetExpired_early hx hlease), fun hlease hlocal =>
      completes_ok (exec_sheetExpired ..) ?_⟩
    have hconf := Dev.sheetExpired_ends hx hdev hcinch hlease hlocal
    refine ⟨by rw [hconf], by rw [hconf]; exact List.mem_cons_self, ?_⟩
    rw [Dev.sheetGate, hconf]
    exact if_pos (by simp)
  · intro s iss inp htakes d0 box
    have hstage := fun P => completes_of_takes (P := P) htakes (exec_regionStage iss inp s)
    have hremove := fun P => completes_of_takes (P := P) htakes (exec_regionRemove iss inp s)
    refine ⟨fun x r hlen hgate hx hr hsize hroom => hstage _ ?_, ?_, fun x hlen hgate hx => ?_,
      fun x hlen hgate hx hld hentry hr hheld hroom => hremove _ ?_, fun hlen hdev hld hentry hr => ?_⟩
    · rw [Dev.regionStage_owned hlen hgate hx, hr]
      dsimp only
      rw [if_neg hsize, Dev.stageRegion_stages hx hroom]
      exact reply_replies ..
    · simp only [List.mem_cons, List.not_mem_nil, or_false, Prod.mk.injEq]
      rintro c n (⟨rfl, rfl⟩ | ⟨rfl, rfl⟩)
      · exact ⟨fun h => hstage _ (Dev.regionStage_badLength h ▸ badLength_replies ..),
          fun st hlen h => hstage _ (Dev.regionStage_denied hlen h ▸ refuse_eight_replies ..)⟩
      · exact ⟨fun h => hremove _ (Dev.regionRemove_badLength h ▸ badLength_replies ..),
          fun st hlen h => hremove _ (Dev.regionRemove_denied hlen h ▸ refuse_eight_replies ..)⟩
    · have heq := Dev.regionStage_owned hlen hgate hx
      refine ⟨fun hr => hstage _ ?_, fun r hr => ⟨fun hsize => hstage _ ?_, fun hsize hfull => hstage _ ?_⟩⟩
      · rw [heq, hr]
        exact refuse_eight_replies ..
      · rw [heq, hr]
        dsimp only
        rw [if_pos hsize]
        exact refuse_eight_replies ..
      · rw [heq, hr]
        dsimp only
        rw [if_neg hsize, Dev.stageRegion_full hfull]
        exact refuse_eight_replies ..
    · rw [Dev.regionRemove_stages hlen hgate hx hld hentry hr hheld, Dev.stageRegion_stages hx hroom]
      exact reply_replies ..
    · intro found
      have heq := Dev.regionRead_here (iss := iss) hlen hdev hld hentry hr
      refine ⟨fun hnone => completes_of_takes htakes (exec_regionRead ..) ?_, fun r hr => completes_of_takes htakes (exec_regionRead ..) ?_⟩
      · rw [heq, show List.find? _ d0.conf.regions = none from hnone]
        exact reply_replies ..
      · rw [heq, show List.find? _ d0.conf.regions = some r from hr]
        exact reply_replies ..

end Sys2Proof.Machine
end

section
/-! A cinch (spec/12 R345 to R347). -/

namespace Sys2Proof.Machine

open Sys2Proof Sys2Proof.Laws

theorem exec_sheetCinch (iss : Issuer) (inp : List Byte) (s : State) :
    exec (.sheetCinch iss inp) s = ok (s.dev.command iss 0xC004 fun d => (d.sheetCinch iss inp).renewed iss) s := rfl
theorem exec_cinchPrepareDone (s : State) : exec .cinchPrepareDone s = ok s.dev.prepareDone s := rfl
theorem exec_chainCinchDecision (s : State) : exec .chainCinchDecision s = ok s.dev.cinchDecision s := rfl
theorem exec_cinchBankWrite (s : State) : exec .cinchBankWrite s = ok s.dev.cinchBankWrite s := rfl

/-! ### The command -/

section
variable {d : Dev} {iss : Issuer} {inp : List Byte} {x : Sheet} (hlen : inp.length = 8) (hr : rsvd inp 7 1 = true) (hbg : d.bgBusy iss = false)
  (hgate : d.sheetGate (issuerBox iss) = none) (hx : d.conf.sheet = some x)
include hlen hr hbg hgate hx

theorem Dev.sheetCinch_starts (hcinch : x.cinch = none) (hlocal : x.chain = false) (hmode : field inp 6 1 = 0) (hbeat : field inp 0 6 = 0) :
    d.sheetCinch iss inp = d.startCinch iss x 0 (d.clk.beat + 2) := by
  unfold Dev.sheetCinch
  extract_lets box beat mode fail
  rw [if_neg (by simp [hlen]), if_neg (by simp [hbg]), if_neg (by simp [mode, hmode, hr]), show d.sheetGate box = none from hgate, hx]
  dsimp only
  rw [if_neg (by simp [hcinch]), if_neg (by simp [hlocal, mode, hmode, beat, hbeat]), if_pos hmode]

theorem Dev.sheetCinch_pending (hcinch : x.cinch.isSome = true) (hmode : field inp 6 1 ≤ 2) :
    d.sheetCinch iss inp = d.reply iss .cinchPending (cinchBody 0 255 0 0) := by
  unfold Dev.sheetCinch
  extract_lets box beat mode fail
  rw [if_neg (by simp [hlen]), if_neg (by simp [hbg]), if_neg (by simp [mode, hr]; omega), show d.sheetGate box = none from hgate, hx]
  exact if_pos hcinch

end

/-- While a cinch is pending the lease does not count anew (R339). -/
theorem Dev.renewed_pending {d : Dev} {iss : Issuer} {x : Sheet} (hx : d.conf.sheet = some x) (hcinch : x.cinch.isSome = true) :
    (d.renewed iss).conf = d.conf := by
  unfold Dev.renewed
  split
  · have hnone : x.cinch.isNone = false := Option.isNone_eq_false_iff.mpr hcinch
    simp only [Dev.modSheet, hx, Option.map_some, hnone, Bool.false_eq_true, if_false]
    rw [← hx]
  · rfl

/-! ### Preparation, decision, banks -/

theorem Dev.modCinch_conf {d : Dev} {x : Sheet} {c : Cinch} (hx : d.conf.sheet = some x) (hc : x.cinch = some c) (f : Cinch → Cinch) :
    (d.modCinch f).conf = { d.conf with sheet := some { x with cinch := some (f c) } } := by
  simp only [Dev.modCinch, Dev.modSheet, hx, Option.map_some, hc]

section
variable {d : Dev} {x : Sheet} {c : Cinch} (hx : d.conf.sheet = some x) (hc : x.cinch = some c)
include hx hc

theorem Dev.prepareDone_prepared (hphase : c.phase = .preparing) (hfills : c.fills = []) (hnotice : c.preparedAt + 4096 ≤ d.clk.bnd)
    (hask : c.ask = none) : d.prepareDone.conf.sheet = some { x with cinch := some { c with
      phase := .prepared, named := if c.mode = 0 then d.clk.beat + 2 else c.named } } := by
  unfold Dev.prepareDone
  rw [hx]
  dsimp only
  rw [hc]
  dsimp only
  rw [if_pos (by simp [hphase, hfills, hnotice])]
  unfold Dev.prepared
  extract_lets d1
  have h1 : d1.conf = { d.conf with sheet := some { x with cinch := some { c with
      phase := .prepared, named := if c.mode = 0 then d.clk.beat + 2 else c.named } } } :=
    (Dev.repin_conf _).trans (Dev.modCinch_conf hx hc _)
  simp only [h1, Option.bind_some, hask]

theorem Dev.prepareDone_fills (hfills : c.fills ≠ []) : d.prepareDone = d := by
  unfold Dev.prepareDone
  rw [hx]
  dsimp only
  rw [hc]
  dsimp only
  rw [if_neg (by simp [hfills])]

theorem Dev.cinchDecision_early (hfar : 64 < beatsTo d.clk.beat c.named) : d.cinchDecision = d := by
  unfold Dev.cinchDecision
  rw [hx, Option.bind_some, hc]
  exact if_neg (Nat.not_le.mpr hfar)

/-- At N - 64 the coordinator commits, or aborts with the first refusal. -/
theorem Dev.cinchDecision_decides (hnear : beatsTo d.clk.beat c.named ≤ 64) (hchain : x.chain = true) (hown : x.ownerDev = d.chain.index)
    (hphase : c.phase = .prepared) :
    let body := leBytes 2 x.id.toNat ++ leBytes 6 c.named.toNat
    d.cinchDecision = match d.refusal x c with
      | none => each d.others ({ d with chain.reports := c.reports.map fun (e : Nat × List Byte) =>
            (e.1, List.replicate 4 (0 : Byte) ++ ((Report.parse e.1 e.2).staged x.staged).bytes) }.modCinch fun c => { c with phase := .decided true })
          fun d t => d.mgmt t 0x13 body
      | some (st, rule, t) => (each d.others d fun d t => d.mgmt t 0x14 body).failCinch st rule t := by
  intro body
  unfold Dev.cinchDecision
  rw [hx, Option.bind_some, hc]
  dsimp only
  rw [if_pos hnear]
  unfold Dev.decide_
  rw [hx]
  dsimp only
  rw [hc]
  dsimp only
  rw [if_neg (by simp [hchain, hown, hphase])]
  rfl

theorem Dev.cinchBankWrite_other (h : beatsTo d.clk.beat c.named ≠ 1) : d.cinchBankWrite = d := by
  unfold Dev.cinchBankWrite
  rw [hx, Option.bind_some, hc]
  exact if_neg h

/-- During beat N - 1 a local sheet is tested again. -/
theorem Dev.cinchBankWrite_local (h : beatsTo d.clk.beat c.named = 1) (hlocal : x.chain = false) (hphase : c.phase = .prepared) :
    d.cinchBankWrite = match d.checkSheet false x.staged with
      | some f => d.failCinch .ruleFailed f.rule f.dev
      | none => { d with conf.next := some (c.named, stagedSettings x.staged d.chain.index d.conf.cur, x.staged) }.modCinch fun c => { c with phase := .banked } := by
  unfold Dev.cinchBankWrite
  rw [hx, Option.bind_some, hc]
  dsimp only
  rw [if_pos h]
  unfold Dev.bankWrite
  rw [hx]
  dsimp only
  rw [hc]
  dsimp only
  rw [hlocal, if_neg (by simp [hphase])]
  cases d.checkSheet false x.staged with
  | none => simp only [hx]
  | some f => rfl

theorem Dev.failCinch_conf (st : Status) (rule dev : Nat) :
    (d.failCinch st rule dev).conf = { d.conf with next := none, sheet := some { x with cinch := none, leaseFrom := d.clk.bnd } } := by
  unfold Dev.failCinch
  rw [hx]
  dsimp only
  rw [hc]
  dsimp only
  obtain ⟨boxes, hsig⟩ := endBgRet_signals ({ d with conf.next := none }.modSheet fun x => { x with cinch := none, leaseFrom := d.clk.bnd }).repin c.box
    st.ret st.code (statusWord st ++ cinchBody rule dev 0 0)
  refine hsig.conf.trans ((Dev.repin_conf _).trans ?_)
  simp only [Dev.modSheet, hx, Option.map_some]

end

/-- Settles O38: by the phase of the cinch, and by the beats to the one it names. -/
theorem cinchPreparesDecidesBanks : Obligations.CinchPreparesDecidesBanks := by
  refine ⟨?_, fun s x c hx hc => ⟨fun hphase hfills hnotice hask => ?_, fun hfills => ?_, fun hfar => ?_, fun hnear hchain hown hphase => ?_,
    fun h => ?_, fun h hlocal hphase => ⟨fun hpass => ?_, fun f hfail => ?_⟩⟩, ?_⟩
  · intro s iss inp x htakes d0 kept hlen hr hbg hgate hx
    refine ⟨fun hcinch hlocal hmode hbeat => completes_of_takes htakes (exec_sheetCinch ..) ?_, fun hcinch hmode =>
      completes_of_takes htakes (exec_sheetCinch ..) ?_⟩
    · rw [Dev.sheetCinch_starts hlen hr hbg hgate hx hcinch hlocal hmode hbeat]
      rfl
    · rw [Dev.sheetCinch_pending hlen hr hbg hgate hx hcinch hmode]
      have hconf : (d0.reply iss .cinchPending (cinchBody 0 255 0 0)).conf = d0.conf := Dev.reply_conf ..
      exact ⟨(renewed_answers ..).1, (Dev.renewed_pending (hconf ▸ hx) hcinch).trans hconf⟩
  · exact completes_ok (exec_cinchPrepareDone ..) (Dev.prepareDone_prepared hx hc hphase hfills hnotice hask)
  · exact completes_ok (exec_cinchPrepareDone ..) (Dev.prepareDone_fills hx hc hfills)
  · exact completes_ok (exec_chainCinchDecision ..) (Dev.cinchDecision_early hx hc hfar)
  · intro body
    have heq := Dev.cinchDecision_decides hx hc hnear hchain hown hphase
    refine ⟨fun hnone => completes_ok (exec_chainCinchDecision ..) ?_, fun st rule t hsome => completes_ok (exec_chainCinchDecision ..) ?_⟩
    · rw [heq, hnone]
    · rw [heq, hsome]
  · exact completes_ok (exec_cinchBankWrite ..) (Dev.cinchBankWrite_other hx hc h)
  · refine completes_ok (exec_cinchBankWrite ..) ?_
    rw [Dev.cinchBankWrite_local hx hc h hlocal hphase, hpass]
    have hconf := Dev.modCinch_conf (d := { s.dev with conf.next := some (c.named, stagedSettings x.staged s.dev.chain.index s.dev.conf.cur, x.staged) })
      hx hc fun c => { c with phase := .banked }
    exact ⟨by rw [hconf], by rw [hconf], by rw [hconf]⟩
  · refine completes_ok (exec_cinchBankWrite ..) ?_
    rw [Dev.cinchBankWrite_local hx hc h hlocal hphase, hfail]
    have hconf := Dev.failCinch_conf hx hc .ruleFailed f.rule f.dev
    exact ⟨by rw [hconf], by rw [hconf], by rw [hconf]⟩
  · intro s hnone
    simp only [List.mem_cons, List.not_mem_nil, or_false]
    rintro c (rfl | rfl | rfl)
    · refine completes_ok (exec_cinchPrepareDone ..) ?_
      unfold Dev.prepareDone
      cases hx : s.dev.conf.sheet with
      | none => rfl
      | some x =>
        rw [hx, Option.bind_some] at hnone
        dsimp only
        rw [hnone]
    · refine completes_ok (exec_chainCinchDecision ..) ?_
      rw [Dev.cinchDecision, hnone]
    · refine completes_ok (exec_cinchBankWrite ..) ?_
      rw [Dev.cinchBankWrite, hnone]

end Sys2Proof.Machine
end

section
/-! Supplies, resets and the cold boot (spec/17 R461 to R466; spec/18 R474, R475). -/

namespace Sys2Proof.Machine

open Sys2Proof Sys2Proof.Laws

section
variable (s : State)

theorem exec_vauxChange (good : Bool) : exec (.vauxChange good) s = ok (s.dev.vauxChange good) s := rfl
theorem exec_coreEnRelease : exec .coreEnRelease s =
    ok (if s.dev.power.vaux && !s.dev.power.coreEn && s.dev.boot = .held
      then { s.dev with power.coreEn := true }.say (.pin "CORE_EN" true) else s.dev) s := rfl
theorem exec_corePgChange (good : Bool) : exec (.corePgChange good) s =
    ok (if good && !s.dev.power.coreEn then s.dev else { s.dev with power.corePg := good }) s := rfl
theorem exec_rstNAssert : exec .rstNAssert s = ok s.dev.rstAssert s := rfl
theorem exec_railFault (r : Rail) : exec (.railFault r) s = ok (s.dev.railFault r) s := rfl
theorem exec_perstNAssert (p : HPort) : exec (.perstNAssert p) s = ok (s.dev.perstAssert (hportNum p)).flow s := rfl
theorem exec_perstNDeassert (p : HPort) (x8 : Bool) : exec (.perstNDeassert p x8) s = ok (s.dev.perstDeassert (hportNum p) x8) s := rfl
theorem exec_coldBoot (x : Straps) : exec (.coldBoot x) s = ok (s.dev.coldBoot x) s := rfl
theorem exec_firmwareBoot (spds : List (Option Spd)) (bad : List (Fin 8 × Fin 4)) :
    exec (.firmwareBoot spds bad) s = ok (s.dev.firmwareBoot spds (bad.map fun e => (e.1.val, e.2.val))) s := rfl
theorem exec_thermtrip : exec .thermtrip s = ok s.dev.trip115 s := rfl
theorem exec_vddCoreTrim (mv : Nat) (a : Bool) : exec (.vddCoreTrim mv a) s = ok (s.dev.trim mv a) s := rfl
theorem exec_dieMonitorRead (c mv : List Nat) : exec (.dieMonitorRead c mv) s = ok (s.dev.readMonitors c mv) s := rfl
theorem exec_throttleEnd : exec .throttleEnd s = ok s.dev.throttleEnds s := rfl
theorem exec_pinSourceEvent (p : Fin 24) (h : Bool) : exec (.pinSourceEvent p h) s = ok (s.dev.pinEvent p.val h) s := rfl

end

/-! ### What holds the device -/

/-- The fault pin is all that its drive changes. -/
theorem Dev.faultN_eq (d : Dev) (drive : Bool) : ∃ low out, d.faultN drive = { d with fault.low := low, out := d.out ++ out } := by
  unfold Dev.faultN
  extract_lets low
  split
  · exact ⟨d.fault.low, [], by rw [List.append_nil]⟩
  · exact ⟨_, _, rfl⟩

theorem Dev.startInput_eq (d : Dev) : ∃ hitch, d.startInput = { d with hitch := hitch } := by
  unfold Dev.startInput Dev.ramp
  split
  · exact ⟨_, rfl⟩
  · exact ⟨d.hitch, rfl⟩

/-- What a device that is held keeps of its power part: the board's word, and the reset cause it is given. -/
def Dev.heldPower (d : Dev) (keep : Option (Nat × Nat)) : Power :=
  { vdd := d.power.vdd, cause := keep, thermtrip := d.power.thermtrip, vaux := d.power.vaux, coreEn := d.power.coreEn, corePg := d.power.corePg
    rst := d.power.rst, i3cAddr := d.power.i3cAddr }

/-- What it keeps of its flash part: all but what runs. -/
def Dev.heldFlash (d : Dev) : Flash :=
  { d.flash with running := 0, version := 0, bank := 0, xfer := none, fallback := none, act := none, memActive := false }

/-- What stands of a device that is held. -/
structure HeldFrom (d : Dev) (keep : Option (Nat × Nat)) (d' : Dev) : Prop where
  boot : d'.boot = .held
  line : d'.line = {}
  conf : d'.conf = {}
  jobs : d'.jobs = {}
  power : d'.power = d.heldPower keep
  flash : d'.flash = d.heldFlash

theorem HeldFrom.hitch {d e : Dev} {keep : Option (Nat × Nat)} (h : HeldFrom d keep e) (x : Hitch) : HeldFrom d keep { e with hitch := x } :=
  ⟨h.boot, h.line, h.conf, h.jobs, h.power, h.flash⟩

theorem HeldFrom.say {d e : Dev} {keep : Option (Nat × Nat)} (h : HeldFrom d keep e) (o : Out) : HeldFrom d keep (e.say o) :=
  ⟨h.boot, h.line, h.conf, h.jobs, h.power, h.flash⟩

theorem HeldFrom.startInput {d e : Dev} {keep : Option (Nat × Nat)} (h : HeldFrom d keep e) : HeldFrom d keep e.startInput := by
  obtain ⟨hitch, heq⟩ := e.startInput_eq
  rw [heq]
  exact h.hitch _

theorem Dev.toHeld_held (d : Dev) (keep : Option (Nat × Nat)) : HeldFrom d keep (d.toHeld keep) := by
  unfold Dev.toHeld
  extract_lets input restart flash x
  have hx : HeldFrom d keep x := ⟨rfl, rfl, rfl, rfl, rfl, rfl⟩
  have hy : HeldFrom d keep (if restart = true then x.startInput else x) := by
    split
    · exact hx.startInput
    · exact hx
  obtain ⟨low, out, h⟩ := (if restart = true then x.startInput else x).faultN_eq false
  rw [h]
  exact ⟨hy.boot, hy.line, hy.conf, hy.jobs, hy.power, hy.flash⟩

/-- RST_N is asserted. -/
def Dev.inReset (d : Dev) : Dev := { d with power.rst := true, power.thermtrip := false }

/-- The reset cause that an assertion of RST_N leaves (R461). -/
def Dev.rstCause (d : Dev) : Option (Nat × Nat) := if d.power.rst then d.power.cause else d.power.cause.orElse fun _ => some (4, 0)

theorem Dev.rstAssert_eq (d : Dev) : d.rstAssert = if d.power.thermtrip then (d.inReset.toHeld d.rstCause).say (.pin "THERMTRIP_N" true)
    else d.inReset.toHeld d.rstCause := rfl

theorem Dev.rstAssert_held (d : Dev) : HeldFrom d.inReset d.rstCause d.rstAssert := by
  rw [Dev.rstAssert_eq]
  split
  · exact (Dev.toHeld_held ..).say _
  · exact Dev.toHeld_held ..

/-- A cold wake holds the device with its cause, and raises CORE_EN (R460). -/
theorem Dev.coldWake_held (d : Dev) (cause step : Nat) :
    (d.coldWake cause step).boot = .held ∧ (d.coldWake cause step).power.cause = some (cause, step) ∧ (d.coldWake cause step).power.coreEn = true := by
  unfold Dev.coldWake
  extract_lets e power
  have h : HeldFrom d (some (cause, step)) e := Dev.toHeld_held ..
  split
  next hen => exact ⟨h.boot, by rw [h.power]; rfl, hen⟩
  next => exact ⟨h.boot, congrArg Power.cause h.power, rfl⟩

theorem Dev.vauxChange_falls {d : Dev} (h : d.power.vaux = true) : (d.vauxChange false).hitch.gate = false ∧
    HeldFrom { d with power.vaux := false, power.coreEn := false, power.corePg := false, power.thermtrip := false } none (d.vauxChange false) := by
  unfold Dev.vauxChange
  rw [if_neg (by simp [h])]
  extract_lets power e
  have he : HeldFrom { d with power.vaux := false, power.coreEn := false, power.corePg := false, power.thermtrip := false } none e :=
    Dev.toHeld_held ..
  clear_value e
  exact ⟨rfl, he.hitch _⟩

theorem Dev.vauxChange_rises {d : Dev} (h : d.power.vaux = false) :
    HeldFrom { d with power.vaux := true, power.coreEn := false, power.corePg := false, power.thermtrip := false } none (d.vauxChange true) := by
  unfold Dev.vauxChange
  rw [if_neg (by simp [h])]
  extract_lets power e
  have he : HeldFrom { d with power.vaux := true, power.coreEn := false, power.corePg := false, power.thermtrip := false } none e :=
    Dev.toHeld_held ..
  clear_value e
  exact he.startInput

/-! ### Ports -/

theorem Dev.ldReset_ports (d : Dev) (ld cause : Nat) : (d.ldReset ld cause).host.ports = d.host.ports := by
  obtain ⟨going, hlose⟩ := Dev.loseLd_eq (({ (d.modLd ld fun x => resetLd x d.clk.bnd) with
    ev.watches := d.ev.watches.filter (fun e => e.2.owner ≠ ld), ev.progs := d.ev.progs.filter fun e => e.2.owner ≠ ld } : Dev).abortForeground ld) ld cause
  obtain ⟨foreign, ports, hsig⟩ := (d.resetParts ld cause).dropForeign_sends ld
  rw [Dev.ldReset_eq]
  refine hsig.ports.trans ?_
  show (d.resetParts ld cause).host.ports = _
  rw [Dev.resetParts, hlose]
  rfl

theorem Dev.checkScan_ports (d : Dev) : d.checkScan.host.ports = d.host.ports := by
  unfold Dev.checkScan
  split
  · split
    · unfold Dev.endScan
      extract_lets glint d1
      split
      · obtain ⟨b, hsig⟩ := endBgRet_signals d1 _ Status.success.ret (Status.success.code + 4096 * flag false) (statusWord .success false ++ zeros 6)
        exact hsig.ports
      · rfl
    · rfl
  · rfl

theorem Dev.hostDown_ports (d : Dev) (l cause : Nat) : (d.hostDown l cause).host.ports = d.host.ports := by
  unfold Dev.hostDown
  split
  · rfl
  · extract_lets
    rw [Dev.checkScan_ports]
    exact each_keeps _ _ _ (fun e : Dev => e.host.ports) fun e ld => Dev.ldReset_ports ..

/-- An edge of a pin changes the pin, and signals. -/
theorem Dev.pinEdge_signals (d : Dev) (p : Nat) (high : Bool) : Signals d (d.pinEdge p high) := by
  unfold Dev.pinEdge
  split
  · exact Signals.refl d
  · extract_lets ev d1 on
    have h1 : Signals d d1 := signals_ev ..
    split
    · exact h1.trans (signals_doorbell ..)
    · exact h1

theorem signals_diagUntil {d d' : Dev} (h : Signals d d') : d'.host.diagUntil = d.host.diagUntil := by
  obtain ⟨_, _, _, rfl, _⟩ := h
  rfl

/-- PERST_N of a port is low (R461). -/
def Dev.perstLow (d : Dev) (p : Nat) : Dev := d.modPort p fun x => { x with perst := true, retired := 0 }

/-- The links of a port go down, and are not viral any more. -/
def Dev.portLinksDown (d : Dev) (p : Nat) : Dev :=
  each [2 * p, 2 * p + 1] d fun d l => (d.hostDown l 0).modLink l fun x => { x with viral := false, viralDue := false }

/-- The lanes of a port are in service (R291). -/
def Dev.lanesInService (d : Dev) (p : Nat) : Dev :=
  each (List.range 16) d fun d i => d.modSource (srcHostLane p i) fun s => { s with retired := false }

theorem Dev.portLinksDown_ports (d : Dev) (p : Nat) : (d.portLinksDown p).host.ports = d.host.ports :=
  each_keeps _ _ _ (fun e : Dev => e.host.ports) fun e l => Dev.hostDown_ports ..

theorem Dev.lanesInService_ports (d : Dev) (p : Nat) : (d.lanesInService p).host.ports = d.host.ports :=
  each_keeps _ _ _ (fun e : Dev => e.host.ports) fun e i => rfl

/-- The device whose port is in reset. -/
def Dev.portReset (d : Dev) (p : Nat) : Dev := ((d.perstLow p).portLinksDown p).lanesInService p

theorem Dev.perstAssert_eq (d : Dev) (p : Nat) : d.perstAssert p =
    { d.portReset p with home.failed := false, home.failing := false, host.diagUntil := none }.pinEdge (16 + p) false := rfl

theorem Dev.portReset_port (d : Dev) (p : Nat) : ((d.portReset p).port p).perst = true := by
  rw [Dev.port, Dev.portReset, Dev.lanesInService_ports, Dev.portLinksDown_ports]
  exact congrArg HPortSt.perst (Dev.port_modPort_self ..)

/-! ### Wake events -/

/-- A wake event changes the power part, and may raise CORE_EN (R454, R459). -/
theorem Dev.wakeEvent_eq (d : Dev) (cause : Nat) (always : Bool) :
    ∃ power out, d.wakeEvent cause always = { d with power := power, out := d.out ++ out } := by
  have hnone : ∃ power out, d = { d with power := power, out := d.out ++ out } := ⟨d.power, [], by rw [List.append_nil]⟩
  unfold Dev.wakeEvent
  extract_lets target lets power d1
  split
  · exact hnone
  · split
    · exact ⟨d1.power, [], by rw [List.append_nil]⟩
    · unfold Dev.startWake
      extract_lets step w power' d2
      split
      · exact ⟨_, _, rfl⟩
      · exact ⟨d2.power, [], by rw [List.append_nil]⟩

/-! ### The cold boot -/

/-- Cores that move to a bank are all that changes. -/
theorem Dev.coresTo_eq (d : Dev) (bank : Nat) : ∃ cores, d.coresTo bank = { d with fault.cores := cores } := by
  unfold Dev.coresTo
  refine each_induct (fun e : Dev => ∃ cores, e = { d with fault.cores := cores }) ⟨d.fault.cores, rfl⟩ fun e c _ ⟨cores, he⟩ => ?_
  split
  · exact ⟨cores, he⟩
  · exact ⟨_, by rw [Dev.setCore, he]⟩

theorem Dev.bootFirmware_frame (d : Dev) : (d.bootFirmware.boot = .firmware ∨ d.bootFirmware.boot = .recovery) ∧
    d.bootFirmware.power = d.power ∧ d.bootFirmware.chain = d.chain := by
  unfold Dev.bootFirmware
  split
  next e he =>
    have hload : e.power = d.power ∧ e.chain = d.chain := by
      obtain ⟨x, -, rfl⟩ := Option.map_eq_some_iff.mp he
      exact ⟨rfl, rfl⟩
    obtain ⟨cores, hcores⟩ := ({ e with boot := .firmware }).coresTo_eq 0
    obtain ⟨low, out, h⟩ := ({ e with boot := .firmware }.coresTo 0).faultN_eq e.fault.hold
    rw [h, hcores]
    exact ⟨.inl rfl, hload⟩
  next =>
    obtain ⟨low, out, h⟩ := ({ d with boot := .recovery }).faultN_eq true
    rw [h]
    exact ⟨.inr rfl, rfl, rfl⟩

theorem Dev.coldBoot_boots {d : Dev} (x : Straps) (hboot : d.boot = .held) (hvaux : d.power.vaux = true) (hen : d.power.coreEn = true)
    (hpg : d.power.corePg = true) : ((d.coldBoot x).boot = .firmware ∨ (d.coldBoot x).boot = .recovery) ∧
      (d.coldBoot x).power.rst = false ∧ (d.coldBoot x).power.i3cAddr = x.i3cAddr ∧ (d.coldBoot x).chain.rootStrap = x.tetherRoot := by
  unfold Dev.coldBoot
  rw [if_neg (by simp [hboot, hvaux, hen, hpg])]
  extract_lets covered power chain fault d1 d2 d3
  obtain ⟨hfw, hpower, hchain⟩ := d3.bootFirmware_frame
  have h2 : d2.power = d1.power := each_keeps _ _ _ Dev.power fun e r => by dsimp only; split <;> rfl
  have h3 : d3.power = d2.power := each_keeps _ _ _ Dev.power fun e c => rfl
  have hchain2 : d2.chain = d1.chain := each_keeps _ _ _ Dev.chain fun e r => by dsimp only; split <;> rfl
  have hchain3 : d3.chain = d2.chain := each_keeps _ _ _ Dev.chain fun e c => rfl
  exact ⟨hfw, by rw [hpower, h3, h2], by rw [hpower, h3, h2], by rw [hchain, hchain3, hchain2]⟩

end Sys2Proof.Machine
end

section
/-! What an interrupt, a count and their signals leave of the event part (spec/15 R408, R416, R422). -/

namespace Sys2Proof.Machine

open Sys2Proof Sys2Proof.Laws

/-- What d' keeps of the event part of d when sources of `S` ring and events are counted: pins, records, invalid flags and programmed
watches, and every other source. -/
structure Rung (S : Nat → Prop) (d d' : Dev) : Prop where
  pins : d'.ev.pins = d.ev.pins
  recQ : d'.ev.recQ = d.ev.recQ
  progs : d'.ev.progs = d.ev.progs
  invalid : d'.ev.invalid = d.ev.invalid
  dead : d'.ev.dead = d.ev.dead
  ints : ∀ n, ¬S n → d'.ev.ints.val n {} = d.ev.ints.val n {}

namespace Rung

variable {S T : Nat → Prop} {a b d : Dev}

theorem refl (S : Nat → Prop) (d : Dev) : Rung S d d := ⟨rfl, rfl, rfl, rfl, rfl, fun _ _ => rfl⟩

theorem trans (h : Rung S a b) (g : Rung S b d) : Rung S a d :=
  ⟨g.pins.trans h.pins, g.recQ.trans h.recQ, g.progs.trans h.progs, g.invalid.trans h.invalid, g.dead.trans h.dead,
    fun n hn => (g.ints n hn).trans (h.ints n hn)⟩

theorem mono (h : Rung S a b) (hST : ∀ n, S n → T n) : Rung T a b :=
  ⟨h.pins, h.recQ, h.progs, h.invalid, h.dead, fun n hn => h.ints n fun hs => hn (hST n hs)⟩

theorem each {α : Type} (l : List α) (d : Dev) (f : Dev → α → Dev) (h : ∀ e x, Rung S e (f e x)) : Rung S d (each l d f) :=
  each_induct (Rung S d) (refl S d) fun e x _ he => he.trans (h e x)

theorem of_ev (h : b.ev = a.ev) : Rung S a b := by
  have hr := refl S a
  exact ⟨by rw [h], by rw [h], by rw [h], by rw [h], by rw [h], fun n _ => by rw [h]⟩

theorem say (d : Dev) (o : Out) : Rung S d (d.say o) := of_ev rfl

/-- A count rings nothing. -/
theorem count (d : Dev) (i n : Nat) : Rung S d (d.count i n) := by
  unfold Dev.count
  extract_lets ev d1
  have h1 : Rung S d d1 := by
    unfold d1
    split
    · exact refl S d
    · exact ⟨rfl, rfl, rfl, rfl, rfl, fun _ _ => rfl⟩
  refine h1.trans (each _ _ _ fun e x => ?_)
  obtain ⟨k, w⟩ := x
  dsimp only
  split
  · split
    · exact ⟨rfl, rfl, rfl, rfl, rfl, fun _ _ => rfl⟩
    · exact ⟨rfl, rfl, rfl, rfl, rfl, fun _ _ => rfl⟩
  · exact refl S e

theorem put (d : Dev) (n : Nat) (x : IntSrc) : Rung (· = n) d { d with ev.ints := d.ev.ints.put n x } :=
  ⟨rfl, rfl, rfl, rfl, rfl, fun _ hk => Tab.val_put_ne _ _ _ hk⟩

theorem deliver (d : Dev) (n : Nat) : Rung (· = n) d (d.deliver n) := by
  unfold Dev.deliver
  extract_lets x
  split
  · exact refl _ d
  · exact (put d n _).trans (count ..)

theorem ring (d : Dev) (n : Nat) : Rung (· = n) d (d.ring n) := by
  unfold Dev.ring
  extract_lets x y ev d1
  split
  · exact (put d n y).trans (deliver d1 n)
  · exact put d n y

theorem setVec (d : Dev) (ld v : Nat) (x : Vec) : Rung S d (d.setVec ld v x) := of_ev rfl

theorem fireVec (d : Dev) (ld v : Nat) : Rung S d (d.fireVec ld v) := by
  unfold Dev.fireVec
  extract_lets x d1
  split
  · exact of_ev rfl
  · exact (of_ev (a := d) (b := d1.say (.msix ld v)) rfl).trans (count ..)

theorem vecEvent (d : Dev) (ld v : Nat) : Rung S d (d.vecEvent ld v) := by
  unfold Dev.vecEvent
  split
  · exact of_ev rfl
  · extract_lets x y d1
    split
    · exact (of_ev (a := d) (b := d1) rfl).trans (fireVec ..)
    · exact of_ev rfl

/-- The owed signals ring source 38Fh alone (R422). -/
theorem settle (d : Dev) : Rung (· = 0x38F) d d.settle := by
  unfold Dev.settle
  refine trans (b := { d with ev.owed := [] }) ⟨rfl, rfl, rfl, rfl, rfl, fun _ _ => rfl⟩ (each _ _ _ fun e k => ?_)
  refine (ring e 0x38F).trans ?_
  dsimp only
  split
  · split
    · split
      · exact of_ev rfl
      · exact vecEvent ..
    · exact refl _ _
  · exact refl _ _

theorem doorbell (d : Dev) (n : Nat) : Rung (fun k => k = n ∨ k = 0x38F) d (d.doorbell n) :=
  ((ring d n).mono fun _ h => .inl h).trans ((settle (d.ring n)).mono fun _ h => .inr h)

theorem bump (d : Dev) (e n : Nat) : Rung (· = 0x38F) d (d.bump e n) := by
  unfold Dev.bump
  split
  · exact refl _ d
  · exact (count ..).trans (settle _)

theorem bumpLd (d : Dev) (ld e n : Nat) : Rung (· = 0x38F) d (d.bumpLd ld e n) := by
  unfold Dev.bumpLd
  split
  · exact refl _ d
  · exact (count ..).trans (settle _)

theorem finish (d : Dev) (box counts st : Nat) (ret : Ret) (out : List Byte) : Rung (· = 0x38F) d (d.finish box counts st ret out) := by
  unfold Dev.finish
  refine trans ?_ (bumpLd ..)
  exact of_ev rfl

theorem reply (d : Dev) (iss : Issuer) (st : Status) (body : List Byte) (nw : Bool) : Rung (· = 0x38F) d (d.reply iss st body nw) := finish ..

end Rung

theorem Dev.pinEdge_pin (d : Dev) (p : Nat) (high : Bool) : ((d.pinEdge p high).pin p).high = high := by
  unfold Dev.pinEdge
  split
  · assumption
  · extract_lets ev d1 on
    have h1 : (d1.pin p).high = high := congrArg Pin.high (Tab.val_put_self ..)
    split
    · rw [Dev.pin, (Rung.doorbell ..).pins]
      exact h1
    · exact h1

end Sys2Proof.Machine
end

section
/-! Firmware's boot, heat, the core supply and pins (spec/15 R411; spec/17 R466; spec/18 R473, R480, R481). -/

namespace Sys2Proof.Machine

open Sys2Proof Sys2Proof.Laws

/-! ### What firmware's boot leaves of the power part -/

theorem Dev.unqualify_power (d : Dev) (slot row : Nat) : (d.unqualify slot row).power = d.power :=
  (signals_raiseAt (d.modHchan slot fun c => { c with st := .unqualified }) slot 0x10B .warning none (slot + row * 16)).power

theorem Dev.faultEvent_power (d : Dev) (n code detail : Nat) : (d.faultEvent n code detail).power = d.power := by
  obtain ⟨f, -, -, -, h⟩ := faultEvent_signals d n code detail 0 0xFF false
  exact h.power

theorem Dev.readModules_power (d : Dev) (spds : List (Option Spd)) : (d.readModules spds).2.power = d.power := by
  unfold Dev.readModules
  refine each_keeps _ _ _ (fun e : Population × Dev => e.2.power) fun e slot => ?_
  obtain ⟨t, e⟩ := e
  dsimp only
  split
  · rfl
  · split
    · exact Dev.unqualify_power ..
    · split
      · rfl
      · rfl

theorem Dev.untrainModules_power (d : Dev) (t : Population) (failed : List (Nat × Nat)) : (d.untrainModules t failed).2.power = d.power := by
  unfold Dev.untrainModules
  extract_lets slots d1
  have h1 : d1.power = d.power := each_keeps _ _ _ Dev.power fun e r => by
    split
    · exact Dev.faultEvent_power ..
    · rfl
  refine Eq.trans ?_ h1
  exact each_keeps _ _ _ (fun e : Population × Dev => e.2.power) fun e slot => Dev.unqualify_power ..

theorem Dev.trainChan_power (d : Dev) (ch : Nat) : (d.trainChan ch).power = d.power := by
  unfold Dev.trainChan
  extract_lets
  exact each_keeps _ _ _ Dev.power fun e r => rfl

theorem Dev.population_power (d : Dev) (t : Population) : (d.population t).power = d.power := by
  unfold Dev.population
  split
  · exact (signals_raise ..).power
  · unfold Dev.formMedia
    split
    · rfl
    · extract_lets
      exact each_keeps _ _ _ Dev.power fun e ch => Dev.trainChan_power ..

theorem Dev.applyLog_power (d : Dev) : d.applyLog.power = d.power := by
  unfold Dev.applyLog
  refine each_keeps _ _ _ Dev.power fun e x => ?_
  obtain ⟨serial, rank, sub, dev⟩ := x
  dsimp only
  refine each_keeps _ _ _ Dev.power fun f m => ?_
  split
  · rfl
  · rfl

theorem Dev.firmwareBoot_runs {d : Dev} (spds : List (Option Spd)) (bad : List (Nat × Nat)) (h : d.boot = .firmware) :
    (d.firmwareBoot spds bad).boot = .running ∧ (d.firmwareBoot spds bad).power.cause = none ∧ (d.firmwareBoot spds bad).flash.memActive = true := by
  unfold Dev.firmwareBoot
  rw [if_neg (by simp [h])]
  extract_lets power d1 flash d2
  have h1 : d1.power.cause = none := by
    unfold d1
    split
    · exact congrArg Power.cause (signals_raise ..).power
    · assumption
  have h2 : d2.power = d1.power := by
    unfold d2
    split
    · exact (signals_raise ..).power
    · rfl
  have hcause : d2.power.cause = none := (congrArg Power.cause h2).trans h1
  clear_value d2
  dsimp -zeta only [Dev.random]
  extract_lets clk line d3 g flash' k
  have hread : (d3.readModules spds).2.power = d2.power := Dev.readModules_power ..
  have hmods : (if (d3.readModules spds).1.odd.isSome then d3.readModules spds
      else (d3.readModules spds).2.untrainModules (d3.readModules spds).1 bad).2.power = d2.power := by
    split
    · exact hread
    · exact (Dev.untrainModules_power ..).trans hread
  have hg : g.power.cause = none := by
    rw [show g.power = d2.power from (Dev.applyLog_power _).trans ((Dev.population_power ..).trans hmods), hcause]
  clear_value g
  have hrun : ∀ x : Dev, Signals k x → x.boot = .running ∧ x.power.cause = none ∧ x.flash.memActive = true := fun x hx =>
    ⟨hx.boot, by rw [hx.power]; exact hg, by rw [hx.flash]⟩
  split
  · exact hrun _ (signals_raiseFault ..)
  · exact hrun _ (Signals.refl _)

/-! ### Heat, the core supply and pins -/

theorem apartBy_self (n a : Nat) : apartBy n a a = false := by simp [apartBy]

/-- A device with other readings of its monitors. -/
def Dev.monitored (d : Dev) (mon : Tab (Nat × Nat)) : Dev := { d with fault.monitors := mon }

/-- Among equal readings no monitor is alone, and each takes its own (R480). -/
theorem Dev.readMonitor_alike {d : Dev} {m : Nat} (t v : Nat) (hm : m < 24) (hin : (d.source (srcMonitor m)).retired = false) :
    d.readMonitor (List.replicate 24 t) (List.replicate 24 v) m = d.monitored (d.fault.monitors.put m (t, v)) := by
  have hget (x i : Nat) (hi : i < 24) : (List.replicate 24 x).getD i 0 = x := by
    rw [List.getD_eq_getElem?_getD, List.getElem?_replicate_of_lt hi, Option.getD_some]
  unfold Dev.readMonitor
  extract_lets lone was fault e1 e2 fault2
  have hlone (n x : Nat) : ¬ lone n (List.replicate 24 x) = true := by
    simp only [lone, hget x m hm, hget x _ (Nat.mod_lt _ (by omega : 24 > 0)), apartBy_self, Bool.and_self, Bool.false_eq_true, not_false_eq_true]
  have h1 : e1 = d := if_neg (hlone _ _)
  have h2 : e2 = d := (if_neg (hlone _ _)).trans h1
  rw [if_neg (by simp [hin]), if_neg (hlone 4 t), if_neg (hlone 15 v), hget t m hm, hget v m hm]
  clear_value e2
  subst h2
  rfl

theorem le_foldl_max {α : Type} (f : α → Nat) (l : List α) (n : Nat) :
    n ≤ l.foldl (fun k e => max k (f e)) n ∧ ∀ e ∈ l, f e ≤ l.foldl (fun k e => max k (f e)) n := by
  induction l generalizing n with
  | nil => exact ⟨Nat.le_refl n, fun e he => absurd he List.not_mem_nil⟩
  | cons x l ih =>
    obtain ⟨hn, hl⟩ := ih (max n (f x))
    refine ⟨Nat.le_trans (Nat.le_max_left ..) hn, fun e he => ?_⟩
    rcases List.mem_cons.mp he with rfl | he
    · exact Nat.le_trans (Nat.le_max_right ..) hn
    · exact hl e he

/-- The readings that a table of monitors takes, of every monitor of the list. -/
def monitorsRead (r : Nat × Nat) (l : List Nat) (mon : Tab (Nat × Nat)) : Tab (Nat × Nat) := each l mon fun t m => t.put m r

theorem look_monitorsRead {r : Nat × Nat} {l : List Nat} {m : Nat} (hm : m ∈ l) (mon : Tab (Nat × Nat)) : (monitorsRead r l mon).look m = some r :=
  each_establishes hm (fun _ => True) (fun t : Tab (Nat × Nat) => t.look m = some r) trivial (fun _ _ _ => trivial) (fun t _ => Tab.look_put_self ..) fun t k h => by
    by_cases hk : k = m
    · subst hk
      exact Tab.look_put_self ..
    · rw [Tab.look_put_ne _ _ (Ne.symm hk), h]

theorem Dev.readMonitor_each {l : List Nat} {d : Dev} (t v : Nat) (hl : ∀ m ∈ l, m < 24) (hin : ∀ m, (d.source (srcMonitor m)).retired = false) :
    each l d (fun e m => e.readMonitor (List.replicate 24 t) (List.replicate 24 v) m) = d.monitored (monitorsRead (t, v) l d.fault.monitors) := by
  induction l generalizing d with
  | nil => rfl
  | cons m l ih =>
    have hm := Dev.readMonitor_alike t v (hl m List.mem_cons_self) (hin m)
    exact (congrArg (each l · _) hm).trans (ih (fun k hk => hl k (List.mem_cons_of_mem _ hk)) hin)

/-- Readings of 100 C or above on every monitor make throttling due (R480). -/
theorem Dev.readMonitors_hot {d : Dev} {t : Nat} (v : Nat) (hboot : d.boot = .running) (hst : d.power.st = .p0) (ht : 100 ≤ t)
    (hth : d.power.throttle = false) (hin : ∀ m, (d.source (srcMonitor m)).retired = false) :
    (d.readMonitors (List.replicate 24 t) (List.replicate 24 v)).power.throttleDue = true ∧
      (d.readMonitors (List.replicate 24 t) (List.replicate 24 v)).power.coolFrom = none ∧
      ∀ m < 24, (d.readMonitors (List.replicate 24 t) (List.replicate 24 v)).fault.monitors.look m = some (t, v) := by
  unfold Dev.readMonitors
  rw [if_neg (by simp [hboot, hst])]
  rw [Dev.readMonitor_each t v (fun m hm => List.mem_range.mp hm) hin]
  have hlook (m : Nat) (hm : m < 24) := look_monitorsRead (r := (t, v)) (List.mem_range.mpr hm) d.fault.monitors
  generalize monitorsRead (t, v) (List.range 24) d.fault.monitors = mon at hlook ⊢
  extract_lets e hot power e1 power1 e2
  have hhot : t ≤ hot := (le_foldl_max (fun m : Nat × Nat × Nat => m.2.1) mon 0).2 (0, (t, v)) (Tab.mem_of_look (hlook 0 (by omega)))
  have he1 : e1 = { e with power.throttleDue := true } := if_pos (by simp [Nat.le_trans ht hhot, show e.power.throttle = false from hth])
  clear_value e1
  subst he1
  rw [if_neg (by simp [show e2.power.st = .p0 from hst])]
  exact ⟨rfl, if_neg (by omega), hlook⟩

/-- A trip changes the trip state, and says so on both pins (R481). -/
theorem Dev.trip115_low {d : Dev} (hv : d.power.vaux = true) (ht : d.power.thermtrip = false) :
    d.trip115.power.thermtrip = true ∧ d.trip115.fault.low = true ∧ .pin "THERMTRIP_N" false ∈ d.trip115.out ∧ d.trip115.line = d.line := by
  have htrip : d.trip115 = ({ d with power.thermtrip := true }.say (.pin "THERMTRIP_N" false)).faultN true := by
    unfold Dev.trip115
    rw [if_neg (by simp [hv, ht])]
  have hfault := Dev.faultN_fault ({ d with power.thermtrip := true }.say (.pin "THERMTRIP_N" false)) true
  obtain ⟨low, out, h⟩ := ({ d with power.thermtrip := true }.say (.pin "THERMTRIP_N" false)).faultN_eq true
  rw [htrip]
  refine ⟨by rw [h]; rfl, by rw [hfault]; rfl, ?_, by rw [h]; rfl⟩
  rw [h]
  exact List.mem_append_left _ (List.mem_append_right _ List.mem_cons_self)

/-- The first trim, to the target and 5 mV, is legal (R473). -/
theorem Dev.trim_first {d : Dev} (hboot : d.boot = .running) (hawake : d.awake = true) (hat : d.power.trimAt = none) :
    d.trim (max 720 (min 800 (Config.vddTarget + 5))) true =
      { d.say (.pmbus (max 720 (min 800 (Config.vddTarget + 5)))) with
        power.vdd := max 720 (min 800 (Config.vddTarget + 5)), power.trimAt := some d.clk.bnd } := by
  unfold Dev.trim
  rw [hat, if_neg (by simp [hboot, hawake]), if_pos rfl]
  rfl

theorem Dev.trim_held {d : Dev} {b : Nat} (hat : d.power.trimAt = some b) (hb : d.clk.bnd < b + 4096) (mv : Nat) (a : Bool) : d.trim mv a = d := by
  unfold Dev.trim
  rw [hat]
  exact if_pos (by simp [hb])

theorem Dev.pinEvent_pin (d : Dev) (p : Nat) (high : Bool) : ((d.pinEvent p high).pin p).high = high ∧ (d.pinEvent p high).line = d.line := by
  have hwake (e : Dev) (c : Nat) : ((e.wakeEvent c).pin p).high = (e.pin p).high ∧ (e.wakeEvent c).line = e.line := by
    obtain ⟨power, out, h⟩ := e.wakeEvent_eq c false
    rw [h]
    exact ⟨rfl, rfl⟩
  unfold Dev.pinEvent
  split
  next h => exact ⟨h, rfl⟩
  next h =>
    have hedge : ((d.pinEdge p high).pin p).high = high ∧ (d.pinEdge p high).line = d.line :=
      ⟨Dev.pinEdge_pin .., (Dev.pinEdge_signals ..).line⟩
    extract_lets e
    split
    · exact ⟨(hwake e 2).1.trans hedge.1, (hwake e 2).2.trans hedge.2⟩
    · split
      · exact ⟨(hwake e 4).1.trans hedge.1, (hwake e 4).2.trans hedge.2⟩
      · exact hedge

theorem Dev.perstDeassert_port {d : Dev} {p : Nat} (x8 : Bool) (h : (d.port p).perst = true) :
    ((d.perstDeassert p x8).port p).perst = false ∧ ((d.perstDeassert p x8).port p).halves = x8 ∧ (d.perstDeassert p x8).line = d.line := by
  unfold Dev.perstDeassert
  rw [if_neg (by simp [h])]
  have hedge := (d.modPort p fun x => { x with perst := false, halves := x8 }).pinEdge_signals (16 + p) true
  have hport : ((d.modPort p fun x => { x with perst := false, halves := x8 }).pinEdge (16 + p) true).port p =
      { d.port p with perst := false, halves := x8 } := by
    rw [Dev.port, hedge.ports]
    exact Dev.port_modPort_self ..
  obtain ⟨power, out, hw⟩ := ((d.modPort p fun x => { x with perst := false, halves := x8 }).pinEdge (16 + p) true).wakeEvent_eq 0 false
  rw [hw]
  exact ⟨congrArg HPortSt.perst hport, congrArg HPortSt.halves hport, hedge.line⟩

/-- An assertion of PERST_N resets the port, and locks diagnostics (R386, R461). -/
theorem Dev.perstAssert_locks (d : Dev) (p : Nat) :
    ((d.perstAssert p).port p).perst = true ∧ (d.perstAssert p).host.diagUntil = none ∧ (d.perstAssert p).home.failed = false := by
  have hport := d.portReset_port p
  rw [Dev.perstAssert_eq]
  generalize d.portReset p = e at hport ⊢
  have hedge := ({ e with home.failed := false, home.failing := false, host.diagUntil := none } : Dev).pinEdge_signals (16 + p) false
  refine ⟨?_, signals_diagUntil hedge, by rw [hedge.home]⟩
  rw [Dev.port, hedge.ports]
  exact hport

/-- Throttling ends after 4,096 cool boundaries (R480). -/
theorem Dev.throttleEnds_of {d : Dev} {b : Nat} (h : d.power.coolFrom = some b) :
    d.throttleEnds = if d.power.throttle && b + 4096 ≤ d.clk.bnd then { d with power.throttle := false } else d := by
  unfold Dev.throttleEnds
  rw [h]

/-- Settles O39: what holds the device is reset to what a held device keeps; the boot, heat, the core supply and the pins follow their own
equations. -/
theorem suppliesBootHeatPins : Obligations.SuppliesBootHeatPins := by
  refine ⟨fun s => ⟨fun hv => ?_, fun hv => ?_, fun hv hen hb => ?_, fun hen => ?_, ?_, fun hr => ?_, fun r hen => ?_, fun hen hl => ?_, fun p => ?_,
    fun p x8 hp => ?_, fun x hb hv hen hpg => ?_, fun spds bad hb => ?_⟩, fun s => ⟨fun hv ht => ?_, fun mv hb ha hat hmv => ?_,
    fun mv b hat hb a => ?_, fun t v hb hst ht hth hin => ?_, fun b hc hth hb => ?_, fun b hc hb => ?_, fun p h => ?_⟩⟩
  · obtain ⟨hgate, h⟩ := Dev.vauxChange_falls hv
    refine completes_ok (exec_vauxChange ..) ⟨h.boot, ?_, ?_, ?_, ?_, hgate, h.line, h.conf⟩ <;> rw [h.power] <;> rfl
  · have h := Dev.vauxChange_rises hv
    refine completes_ok (exec_vauxChange ..) ⟨h.boot, ?_, ?_, h.line⟩ <;> rw [h.power] <;> rfl
  · exact completes_ok (exec_coreEnRelease s) (if_pos (by simp [hv, hen, hb]))
  · exact completes_ok (exec_corePgChange ..) (if_neg (by simp [hen]))
  · exact completes_ok (exec_corePgChange ..) (if_neg (by simp))
  · have h := s.dev.rstAssert_held
    refine completes_ok (exec_rstNAssert s) ⟨h.boot, ?_, ?_, ?_, h.line, h.conf, h.jobs, ?_, ?_⟩
    · rw [h.power]
      rfl
    · rw [h.power]
      exact if_neg (by simp [hr])
    · rw [h.power]
      rfl
    · rw [h.flash]
      rfl
    · rw [h.flash]
      rfl
  · have h := ({ s.dev with power.corePg := false } : Dev).rstAssert_held
    have hr : s.dev.railFault r = ({ s.dev with power.corePg := false } : Dev).rstAssert := if_pos (by simp [hen])
    refine completes_ok (exec_railFault ..) ?_
    rw [hr]
    exact ⟨h.boot, by rw [h.power]; rfl, by rw [h.power]; rfl⟩
  · have hr : s.dev.railFault .vddq = s.dev.coldWake 2 0 := (if_neg (by simp [hen])).trans (if_pos (by simp [hl]))
    refine completes_ok (exec_railFault ..) ?_
    rw [hr]
    exact Dev.coldWake_held ..
  · exact settles_ok (exec_perstNAssert ..) (s.dev.perstAssert_locks (hportNum p))
  · exact completes_ok (exec_perstNDeassert ..) (Dev.perstDeassert_port x8 hp)
  · exact completes_ok (exec_coldBoot ..) (Dev.coldBoot_boots x hb hv hen hpg)
  · exact completes_ok (exec_firmwareBoot ..) (Dev.firmwareBoot_runs _ _ hb)
  · exact completes_ok (exec_thermtrip s) (Dev.trip115_low hv ht)
  · subst hmv
    refine completes_ok (exec_vddCoreTrim ..) ?_
    rw [Dev.trim_first hb ha hat]
    exact ⟨rfl, rfl, List.mem_append_right _ List.mem_cons_self, rfl⟩
  · exact completes_ok (exec_vddCoreTrim ..) (Dev.trim_held hat hb mv a)
  · exact completes_ok (exec_dieMonitorRead ..) (Dev.readMonitors_hot v hb hst ht hth hin)
  · exact completes_ok (exec_throttleEnd s) ((Dev.throttleEnds_of hc).trans (if_pos (by simp [hth, hb])))
  · exact completes_ok (exec_throttleEnd s) ((Dev.throttleEnds_of hc).trans (if_neg (by simp; omega)))
  · exact completes_ok (exec_pinSourceEvent ..) (Dev.pinEvent_pin ..)

end Sys2Proof.Machine
end

section
/-! Entries to lower power states, wakes and the POWER commands (spec/17 R448 to R460). -/

namespace Sys2Proof.Machine

open Sys2Proof Sys2Proof.Laws

section
variable (s : State)

theorem exec_powerEnter (iss : Issuer) (inp : List Byte) :
    exec (.powerEnter iss inp) s = ok (s.dev.command iss 0xC800 fun d => d.powerEnter iss inp) s := rfl
theorem exec_powerEntryStepDone : exec .powerEntryStepDone s = ok s.dev.entryDone s := rfl
theorem exec_dozeTimeout (p : Fin 3) : exec (.dozeTimeout p) s = ok (s.dev.dozeTimeout p.val) s := rfl
theorem exec_wakeStepReady (untrained : List (Fin 8 × Fin 4)) :
    exec (.wakeStepReady untrained) s = ok (s.dev.wakeReady (untrained.map fun e => (e.1.val, e.2.val))).heldWrites s := rfl
theorem exec_wakeStepTimeout (stuck : BitVec 8) : exec (.wakeStepTimeout stuck) s = ok (s.dev.wakeTimeout stuck) s := rfl
theorem exec_wakeEvent (c : WakeCause) :
    exec (.wakeEvent c) s = ok (if c = .fault then s.dev.wakeFault else s.dev.wakeEvent (causeNum c)) s := rfl
theorem exec_brownOut : exec .brownOut s = ok (if s.dev.power.aoLow then s.dev.coldWake 1 0 else s.dev) s := rfl
theorem exec_vddqDLoss : exec .vddqDLoss s = ok (if s.dev.power.latched then s.dev.coldWake 2 0 else s.dev) s := rfl
theorem exec_hostLinkPowerStateChange (k : Link) (dest : LState) :
    exec (.hostLinkPowerStateChange k dest) s = ok (s.dev.linkPower (linkNum k) dest).flow s := rfl

end

/-! ### POWER.ENTER -/

theorem Dev.suspendAll_frame (d : Dev) : d.suspendAll.power = { d.power with suspended := true } ∧ d.suspendAll.line = d.line := by
  have hstep (e : Dev) (ld : Nat) : (e.suspend ld 4).power = e.power ∧ (e.suspend ld 4).line = e.line := by
    unfold Dev.suspend
    split
    · exact ⟨rfl, rfl⟩
    · exact ⟨(signals_raise ..).power, (signals_raise ..).line⟩
  exact ⟨each_keeps _ _ _ Dev.power fun e ld => (hstep e ld).1, each_keeps _ _ _ Dev.line fun e ld => (hstep e ld).2⟩

/-- A device whose entry to a state has begun. -/
def Dev.entering (d : Dev) (iss : Issuer) (target : PState) (wake : Nat) : Dev :=
  { d.startBg iss 0xC800 with
    power.entry := some { target := target, wake := BitVec.ofNat 8 wake, next := 1 }, power.wake := BitVec.ofNat 8 wake
    power.box := some (issuerBox iss), power.pending := [], power.quiet := decide (target ≠ PState.p1) }

section
variable {d : Dev} {iss : Issuer} {inp : List Byte} {target : PState}

theorem Dev.powerEnter_begins (hlen : inp.length = 8) (hmc : issuerMc iss = true) (hst : field inp 0 1 = pstateNum target) (h0 : target ≠ .p0)
    (hw1 : 1 ≤ field inp 1 1) (hw2 : field inp 1 1 ≤ 31) (hr : rsvd inp 2 6 = true) (hbg : d.bgBusy iss = false) (hb : d.enterBusy target = false) :
    d.powerEnter iss inp = (d.entering iss target (field inp 1 1)).suspendAll := by
  unfold Dev.powerEnter
  rw [hst]
  extract_lets st wake t
  have ht : t = target := by
    cases target with
    | p0 => exact absurd rfl h0
    | p1 => rfl
    | p2 => rfl
    | p3 => rfl
  have hnum : 1 ≤ pstateNum target ∧ pstateNum target ≤ 3 := by cases target <;> simp_all [pstateNum]
  clear_value t
  subst ht
  rw [if_neg (by simp [hlen]), if_neg (by simp [hmc, hr, wake, st]; omega), if_neg (by simp [hbg, hb])]
  rfl

end

/-! ### Entries -/

section
variable {d : Dev} {e : Entry}

theorem Dev.entryStep_one (hn : e.next = 1) (ht : e.target = .p1) :
    d.entryStep e = some { d with power.entry := some { e with next := 2, dozing := [] } } := by
  unfold Dev.entryStep
  rw [hn]
  exact if_pos (by simp [ht])

theorem Dev.entryStep_four (hn : e.next = 4) (ht : e.target ≠ .p1) :
    d.entryStep e = some { d with dram.selfRefresh := true, power.entry := some { e with next := 5, dozing := [] } } := by
  unfold Dev.entryStep
  rw [hn]
  exact congrArg (fun f : Dev => some { f with power.entry := some { e with next := 5, dozing := [] } })
    (if_neg ht : (if e.target = .p1 then d else { d with dram.selfRefresh := true }) = _)

theorem Dev.entryStep_six (hn : e.next = 6) (ht : e.target ≠ .p3) : d.entryStep e = some d := by
  unfold Dev.entryStep
  rw [hn]
  exact if_neg (by simp [ht])

end

section
variable {d : Dev} {e : Entry} (he : d.power.entry = some e)
include he

theorem Dev.entryDone_abandons (hn : e.next ≤ 3) (hp : d.power.pending ≠ []) :
    d.entryDone = d.abandonEntry e.next (lowest d.power.pending) := by
  unfold Dev.entryDone
  rw [he]
  exact if_neg (by simp [hp]; omega)

theorem Dev.entryDone_goes {f : Dev} (hp : 3 < e.next ∨ d.power.pending = []) (hs : d.entryStep e = some f) :
    d.entryDone = if e.next = 6 then f.entered e else f := by
  unfold Dev.entryDone
  rw [he]
  dsimp only
  rw [if_pos (by simpa using hp), hs]

theorem Dev.dozeTimeout_eq (p : Nat) : d.dozeTimeout p = if e.dozing.contains p then (d.free 8).2.abandonEntry 3 (d.free 8).1.toNat else d := by
  unfold Dev.dozeTimeout
  rw [he]

end

/-- A state that is reached is recorded, and nothing more (R452). -/
theorem Dev.entered_state {d : Dev} {e : Entry} (ht : e.target ≠ .p3) (hp : d.power.pending = []) :
    (d.entered e).power.st = e.target ∧ (d.entered e).power.entry = none ∧ Signals { d with power := (d.entered e).power } (d.entered e) := by
  unfold Dev.entered
  extract_lets power d1 d2 d3
  have h2 : Signals d1 d2 := signals_raise ..
  have h3 : d3 = d2 := if_neg ht
  have hd : (if d3.power.pending.isEmpty = true then d3 else d3.startWake) = d2 := by
    rw [h3, if_pos (by rw [h2.power]; exact List.isEmpty_iff.mpr hp)]
  rw [hd]
  have hpow : d2.power = d1.power := h2.power
  refine ⟨by rw [hpow], by rw [hpow], ?_⟩
  rw [hpow]
  exact h2

/-! ### Wakes -/

section
variable {d : Dev} {w : Waking} (hw : d.power.waking = some w) (hf : w.from_ ≠ .p1)
include hw hf

theorem Dev.wakeReady_five (h5 : w.step = 5) (ha : w.again = none) :
    d.wakeReady [] = { d with dram.selfRefresh := false, power.waking := some { w with step := 6, again := none } } := by
  unfold Dev.wakeReady
  rw [hw]
  dsimp -zeta only
  rw [if_neg hf, ha, h5]
  rfl

theorem Dev.wakeTimeout_first (stuck : BitVec 8) (ha : w.again = none) :
    d.wakeTimeout stuck = { d with power.waking := some { w with again := some stuck } } := by
  unfold Dev.wakeTimeout
  rw [hw]
  dsimp only
  rw [if_neg hf, if_pos (by simp [ha])]

theorem Dev.wakeTimeout_cold (stuck : BitVec 8) (ha : w.again.isSome = true) (h5 : w.step ≠ 5) : d.wakeTimeout stuck = d.coldWake 3 w.step := by
  unfold Dev.wakeTimeout
  rw [hw]
  dsimp only
  rw [if_neg hf, if_neg (by rw [Option.isNone_iff_eq_none]; intro h; simp [h] at ha), if_pos h5]

end

/-- A wake from P2 begins at step 2 (R459). -/
theorem Dev.startWake_two {d : Dev} (hst : d.power.st = .p2) : d.startWake =
    { d with power.waking := some { from_ := .p2, cause := lowest d.power.pending, step := 2 }, power.pending := [] } := by
  unfold Dev.startWake
  extract_lets step w power d1
  have hw : w = { from_ := .p2, cause := lowest d.power.pending, step := 2 } := by simp only [w, step, hst]
  clear_value w
  subst hw
  exact if_neg (by simp [show d1.power.st = .p2 from hst])

section
variable {d : Dev} {cause : Nat} (hc : cause < 8) (he : d.power.entry = none)
include hc he

/-- A wake event that Wake does not let, or in P0, does nothing (R454). -/
theorem Dev.wakeEvent_unheard (h : d.power.st = .p0 ∨ d.power.wake.getLsbD cause = false) : d.wakeEvent cause = d := by
  unfold Dev.wakeEvent
  rw [he]
  extract_lets target lets
  refine if_pos ?_
  rcases h with h | h
  · simp [target, h]
  · have hlets : lets = false := by simp [lets, h]; omega
    simp [hlets]

/-- A wake event that Wake lets starts the wake from P2 at step 2 (R454, R459). -/
theorem Dev.wakeEvent_wakes (hb : d.boot = .running) (hw : d.power.waking = none) (hst : d.power.st = .p2) (hp : d.power.pending = [])
    (hbit : d.power.wake.getLsbD cause = true) :
    d.wakeEvent cause = { d with power.waking := some { from_ := .p2, cause := cause, step := 2 } } := by
  have hlow : lowest [cause] = cause := Nat.min_eq_right (by omega)
  unfold Dev.wakeEvent
  rw [he]
  extract_lets target lets power d1
  have hlets : lets = true := by simp [lets, hbit, target, hst]
  have hd1 : d1 = { d with power.pending := [cause] } := by simp [d1, power, hp]
  clear_value d1
  subst hd1
  rw [if_neg (by simp [hb, hw, hlets, target, hst]), if_neg (by simp [he])]
  refine (Dev.startWake_two (d := { d with power.pending := [cause] }) hst).trans ?_
  show ({ d with power := { d.power with waking := some { from_ := .p2, cause := lowest [cause], step := 2 }, pending := [] } } : Dev) = _
  rw [hlow, ← hp]

end

/-! ### Host links -/

theorem Dev.linkPower_goes {d : Dev} {l : Nat} {st : LState} {s : HLinkSt} (h : d.linkPower l st = (d.modLink l fun x => { x with st := s }).checkScan) :
    ((d.linkPower l st).link l).st = s := by
  rw [h, Dev.link, (Dev.checkScan_frame _).1]
  exact congrArg HLink.st (Dev.link_modLink_self ..)

/-- Settles O40: each command and step by its equation; a cold wake by what a held device keeps. -/
theorem powerStates : Obligations.PowerStates := by
  refine ⟨fun s iss inp target htakes => ⟨fun hlen hmc hst h0 hw1 hw2 hr hbg hb => ?_, fun hinp => ?_⟩,
    fun s e he => ⟨fun hn hp => ?_, fun hn ht hp => ?_, fun hn ht => ?_, fun hn ht hp => ?_, fun p => ⟨fun hp => ?_, fun hp => ?_⟩⟩,
    fun s w hw hf => ⟨fun h5 ha => ?_, fun stuck ha => ?_, fun stuck ha h5 => ?_⟩,
    fun s c hfault htrip hb he hw => ⟨fun h => ?_, fun hst hp hbit => ?_⟩,
    fun s => ⟨fun h => ?_, fun h => ?_, fun h => ?_, fun h => ?_, fun k h => ?_, fun k h => ?_⟩⟩
  · refine completes_of_takes htakes (exec_powerEnter s iss inp) ?_
    rw [Dev.powerEnter_begins hlen hmc hst h0 hw1 hw2 hr hbg hb]
    obtain ⟨hpower, hline⟩ := ((s.dev.doorbell (mailDoorbell iss)).entering iss target (field inp 1 1)).suspendAll_frame
    refine ⟨?_, ?_, ?_, ?_, hline⟩ <;> rw [hpower] <;> rfl
  · refine completes_of_takes htakes (exec_powerStatus iss inp s) ?_
    unfold Dev.powerStatus
    rw [if_neg (by simp [hinp])]
    exact reply_replies ..
  · exact completes_ok (exec_powerEntryStepDone s) (Dev.entryDone_abandons he hn hp)
  · refine completes_ok (exec_powerEntryStepDone s) ((Dev.entryDone_goes he (.inr hp) (Dev.entryStep_one hn ht)).trans (if_neg (by omega)))
  · refine completes_ok (exec_powerEntryStepDone s) ((Dev.entryDone_goes he (.inl (by omega)) (Dev.entryStep_four hn ht)).trans (if_neg (by omega)))
  · refine completes_ok (exec_powerEntryStepDone s) ?_
    rw [Dev.entryDone_goes he (f := s.dev) (.inl (by omega)) (Dev.entryStep_six hn ht), if_pos hn]
    exact Dev.entered_state ht hp
  · exact completes_ok (exec_dozeTimeout ..) ((Dev.dozeTimeout_eq he p.val).trans (if_pos hp))
  · exact completes_ok (exec_dozeTimeout ..) ((Dev.dozeTimeout_eq he p.val).trans (if_neg (ne_true_of_eq_false hp)))
  · exact completes_ok (exec_wakeStepReady ..) (congrArg Dev.heldWrites (Dev.wakeReady_five hw hf h5 ha))
  · exact completes_ok (exec_wakeStepTimeout ..) (Dev.wakeTimeout_first hw hf stuck ha)
  · have hcold := Dev.coldWake_held s.dev 3 w.step
    refine completes_ok (exec_wakeStepTimeout ..) ?_
    rw [Dev.wakeTimeout_cold hw hf stuck ha h5]
    exact ⟨rfl, hcold.1, hcold.2.1⟩
  · refine completes_ok (exec_wakeEvent ..) ((if_neg hfault).trans (Dev.wakeEvent_unheard ?_ he h))
    cases c <;> simp_all [causeNum]
  · refine completes_ok (exec_wakeEvent ..) ((if_neg hfault).trans (Dev.wakeEvent_wakes ?_ he hb hw hst hp hbit))
    cases c <;> simp_all [causeNum]
  · refine completes_ok (exec_brownOut s) ?_
    rw [if_pos h]
    exact Dev.coldWake_held ..
  · exact completes_ok (exec_brownOut s) (if_neg (by simp [h]))
  · refine completes_ok (exec_vddqDLoss s) ?_
    rw [if_pos h]
    exact Dev.coldWake_held ..
  · exact completes_ok (exec_vddqDLoss s) (if_neg (by simp [h]))
  · refine settles_ok (exec_hostLinkPowerStateChange ..) (Dev.linkPower_goes ?_)
    unfold Dev.linkPower
    rw [h]
  · refine settles_ok (exec_hostLinkPowerStateChange ..) (Dev.linkPower_goes ?_)
    unfold Dev.linkPower
    rw [h]

end Sys2Proof.Machine
end

section
/-! Interrupts, event records and the event commands (spec/15 R408 to R414; spec/09 R272). -/

namespace Sys2Proof.Machine

open Sys2Proof Sys2Proof.Laws

section
variable (s : State)

theorem exec_interruptDoorbell (n : BitVec 10) : exec (.interruptDoorbell n) s = ok (s.dev.doorbellWrite n.toNat) s := rfl
theorem exec_interruptAcknowledge (c : Fin 16) (n : Nat) : exec (.interruptAcknowledge c n) s = ok (s.dev.acknowledge c.val n) s := rfl
theorem exec_coalesceTimeExpiry (w : Coalesced) : exec (.coalesceTimeExpiry w) s = ok (s.dev.coalesceTime w) s := rfl
theorem exec_recordDelivery : exec .recordDelivery s = ok s.dev.deliverRecord s := rfl
theorem exec_getEventRecords (iss : Issuer) (inp : List Byte) :
    exec (.getEventRecords iss inp) s = ok (s.dev.command iss 0x100 fun d => d.getRecords iss inp) s := rfl
theorem exec_clearEventRecords (iss : Issuer) (inp : List Byte) :
    exec (.clearEventRecords iss inp) s = ok (s.dev.command iss 0x101 fun d => d.clearRecords iss inp) s := rfl
theorem exec_getEventInterruptPolicy (iss : Issuer) (inp : List Byte) :
    exec (.getEventInterruptPolicy iss inp) s = ok (s.dev.command iss 0x102 fun d => d.getPolicy iss inp) s := rfl
theorem exec_setEventInterruptPolicy (iss : Issuer) (inp : List Byte) :
    exec (.setEventInterruptPolicy iss inp) s = ok (s.dev.command iss 0x103 fun d => d.setPolicy iss inp) s := rfl
theorem exec_getMctpEventInterruptPolicy (iss : Issuer) (inp : List Byte) :
    exec (.getMctpEventInterruptPolicy iss inp) s = ok (s.dev.command iss 0x104 fun d => d.getMctp iss inp) s := rfl
theorem exec_setMctpEventInterruptPolicy (iss : Issuer) (inp : List Byte) :
    exec (.setMctpEventInterruptPolicy iss inp) s = ok (s.dev.command iss 0x105 fun d => d.setMctp iss inp) s := rfl
theorem exec_eventNotification (iss : Issuer) (inp : List Byte) :
    exec (.eventNotification iss inp) s = ok (s.dev.command iss 0x106 fun d => d.eventNotice iss inp) s := rfl

end

/-! ### Sources -/

/-- A source that has counted one event (R409, R412). -/
def IntSrc.rung (x : IntSrc) (bnd : Nat) : IntSrc :=
  { x with pending := min 255 (x.pending + 1), saturated := x.saturated || 255 < x.pending + 1, count := x.count + 1
           first := x.first.orElse fun _ => some bnd }

/-- A device whose source has counted one event. -/
def Dev.rungSource (d : Dev) (n : Nat) : Dev := { d with ev.ints := d.ev.ints.put n ((d.ev.ints.val n {}).rung d.clk.bnd) }

theorem Dev.ring_eq (d : Dev) (n : Nat) : d.ring n =
    if (d.ev.ints.val n {}).holder.isNone && dueNow (d.ev.ints.val n {}).cn (d.ev.ints.val n {}).tm ((d.ev.ints.val n {}).count + 1)
    then (d.rungSource n).deliver n else d.rungSource n := rfl

theorem Dev.rungSource_ints (d : Dev) (n : Nat) : (d.rungSource n).ev.ints.val n {} = (d.ev.ints.val n {}).rung d.clk.bnd := Tab.val_put_self ..

/-- A source that a core has received (R409, R412). -/
def IntSrc.delivered (x : IntSrc) (c : Nat) : IntSrc := { x with holder := some c, lastCore := c, count := 0, first := none }

theorem Dev.deliver_to {d : Dev} {n c : Nat} (h : d.target (d.ev.ints.val n {}) = some c) :
    (d.deliver n).ev.ints.val n {} = (d.ev.ints.val n {}).delivered c := by
  unfold Dev.deliver
  extract_lets x
  rw [show d.target x = some c from h]
  refine ((Rung.count (S := fun _ => False) ..).ints n id).trans ?_
  exact Tab.val_put_self ..

theorem Dev.deliver_none {d : Dev} {n : Nat} (h : d.target (d.ev.ints.val n {}) = none) : d.deliver n = d := by
  unfold Dev.deliver
  extract_lets x
  rw [show d.target x = none from h]

theorem Dev.deliver_pending (d : Dev) (n : Nat) : ((d.deliver n).ev.ints.val n {}).pending = (d.ev.ints.val n {}).pending := by
  cases h : d.target (d.ev.ints.val n {}) with
  | none => rw [Dev.deliver_none h]
  | some c => rw [Dev.deliver_to h, IntSrc.delivered]

section
variable (d : Dev) (n : Nat)

theorem Dev.ring_pending : ((d.ring n).ev.ints.val n {}).pending = min 255 ((d.ev.ints.val n {}).pending + 1) := by
  rw [Dev.ring_eq]
  split
  · rw [Dev.deliver_pending, Dev.rungSource_ints, IntSrc.rung]
  · rw [Dev.rungSource_ints, IntSrc.rung]

/-- Where its count is not due, or a core holds it, an event changes no holder. -/
theorem Dev.ring_waits (h : (d.ev.ints.val n {}).holder.isSome = true ∨
      dueNow (d.ev.ints.val n {}).cn (d.ev.ints.val n {}).tm ((d.ev.ints.val n {}).count + 1) = false) :
    ((d.ring n).ev.ints.val n {}).holder = (d.ev.ints.val n {}).holder := by
  rw [Dev.ring_eq, if_neg, Dev.rungSource_ints, IntSrc.rung]
  generalize d.ev.ints.val n {} = x at h
  rcases h with h | h
  · cases hx : x.holder <;> simp_all
  · simp [h]

theorem Dev.ring_delivers {c : Nat} (hh : (d.ev.ints.val n {}).holder = none)
    (hdue : dueNow (d.ev.ints.val n {}).cn (d.ev.ints.val n {}).tm ((d.ev.ints.val n {}).count + 1) = true)
    (ht : d.target (d.ev.ints.val n {}) = some c) : ((d.ring n).ev.ints.val n {}).holder = some c := by
  have htarget : (d.rungSource n).target ((d.rungSource n).ev.ints.val n {}) = some c := by
    rw [Dev.rungSource_ints]
    exact ht
  rw [Dev.ring_eq, if_pos (by rw [hh, hdue]; rfl), Dev.deliver_to htarget, IntSrc.delivered]

/-- A doorbell write leaves of its source what the event left. -/
theorem Dev.doorbell_ints (hn : n ≠ 0x38F) : (d.doorbell n).ev.ints.val n {} = (d.ring n).ev.ints.val n {} := (Rung.settle (d.ring n)).ints n hn

end

theorem Dev.acknowledge_frees {d : Dev} {c n : Nat} (h : (d.ev.ints.val n {}).holder = some c) :
    (d.acknowledge c n).ev.ints.val n {} =
        { d.ev.ints.val n {} with pending := 0, saturated := false, holder := none, count := 0, first := none } ∧
      d.acknowledge c n = { d with ev := (d.acknowledge c n).ev, fault := (d.acknowledge c n).fault } := by
  unfold Dev.acknowledge
  rw [if_neg (fun hne => hne h)]
  extract_lets e ev
  have he : e = { d with fault := e.fault } := by
    unfold e
    split
    · rfl
    · rfl
  clear_value e
  exact ⟨Tab.val_put_self .., by rw [he]⟩

theorem Dev.acknowledge_other {d : Dev} {c n : Nat} (h : (d.ev.ints.val n {}).holder ≠ some c) : d.acknowledge c n = d := if_pos h

/-! ### Records -/

/-- A log that has taken a record (R414). -/
def Log.taken (g : Log) (r : Rec) : Log := { g with recs := g.recs ++ [(g.next, r)], next := g.next % 65535 + 1 }

/-- An LD whose log of a kind is another. -/
def Ld.withLog (x : Ld) (k : LogKind) (g : Log) : Ld := { x with logs := x.logs.put (logNum k) g }

@[simp] theorem Ld.log_withLog (x : Ld) (k : LogKind) (g : Log) : (x.withLog k g).log k = g := Tab.val_put_self ..

/-- What the events of a vector leave of the logs and of the records that wait. -/
theorem signals_log {d d' : Dev} (h : Signals d d') (n : Nat) : (d'.ld n).logs = (d.ld n).logs := by
  obtain ⟨v, hv⟩ := h.ld n
  rw [hv]

theorem Dev.logRecord_stores {d : Dev} {ld : Nat} {r : Rec} (h : ((d.ld ld).log r.log).recs.length < 128) :
    Signals (d.modLd ld fun x => x.withLog r.log (((d.ld ld).log r.log).taken r)) (d.logRecord ld r) ∧
      Rung (· = 0x38F) (d.modLd ld fun x => x.withLog r.log (((d.ld ld).log r.log).taken r)) (d.logRecord ld r) := by
  unfold Dev.logRecord
  rw [if_pos h]
  extract_lets g e
  split
  · exact ⟨signals_vecEvent .., Rung.vecEvent ..⟩
  · exact ⟨Signals.refl _, Rung.refl ..⟩

theorem Dev.logRecord_full {d : Dev} {ld : Nat} {r : Rec} (h : 128 ≤ ((d.ld ld).log r.log).recs.length) :
    d.logRecord ld r = d.modLd ld fun x => x.withLog r.log { (d.ld ld).log r.log with lost := ((d.ld ld).log r.log).lost + 1 } := by
  unfold Dev.logRecord
  exact if_neg (by omega)

/-- A record of one LD goes to its log (R406). -/
theorem Dev.deliverRecord_ld {d : Dev} {r : Rec} {rest : List Rec} {ld : Nat} (hq : d.ev.recQ = r :: rest) (hld : r.ld = some ld)
    (hmc : r.mcOnly = false) :
    Signals ({ d with ev.recQ := rest }.logRecord ld r) d.deliverRecord ∧
      Rung (· = 0x38F) ({ d with ev.recQ := rest }.logRecord ld r) d.deliverRecord := by
  unfold Dev.deliverRecord
  rw [hq]
  dsimp -zeta only
  extract_lets ev d1 lds d2
  have hlds : lds = [ld] := by simp [lds, hmc, hld]
  have hd2 : d2 = d1.logRecord ld r := by simp only [d2, hlds]; rfl
  rw [show ({ d with ev.recQ := rest } : Dev).logRecord ld r = d2 from hd2.symm]
  clear_value d2
  split
  · exact ⟨(signals_say ..).trans (signals_settle _), (Rung.say ..).trans (Rung.settle _)⟩
  · exact ⟨signals_settle _, Rung.settle _⟩

theorem Dev.deliverRecord_none {d : Dev} (hq : d.ev.recQ = []) : d.deliverRecord = d := by
  unfold Dev.deliverRecord
  rw [hq]

/-! ### The event commands -/

section
variable {d : Dev} {iss : Issuer} {inp : List Byte} {ld : Nat} (hld : issuerLd iss = some ld)
include hld

theorem Dev.aboutLd_of (f : Nat → Dev) : d.aboutLd iss f = f ld := by
  unfold Dev.aboutLd
  rw [hld]

theorem Dev.getPolicy_answers (hinp : inp = []) : d.getPolicy iss inp = d.answerStd iss .success
    ([LogKind.info, .warning, .failure, .fatal, .dc].map fun k =>
      if (d.ld ld).evtMsix.contains k then BitVec.ofNat 8 (1 + 16 * (1 + logNum k)) else 0) := by
  unfold Dev.getPolicy
  rw [if_neg (by simp [hinp]), Dev.aboutLd_of hld]

/-- The logs whose policy is MSI-X, as a Set Event Interrupt Policy gives them. -/
def msixLogs (inp : List Byte) : List LogKind := [LogKind.info, .warning, .failure, .fatal, .dc].filter fun k => field inp (logNum k) 1 % 4 = 1

theorem Dev.setPolicy_sets (hlen : inp.length = 5) (h : ∀ b ∈ inp, b.toNat % 16 ≤ 1) :
    d.setPolicy iss inp = (d.modLd ld fun x => { x with evtMsix := msixLogs inp }).answerStd iss .success [] := by
  unfold Dev.setPolicy
  rw [if_neg (by simp [hlen]), Dev.aboutLd_of hld, if_neg (by simpa using h)]
  rfl

theorem Dev.setPolicy_refuses (hlen : inp.length = 5) (h : ∃ b ∈ inp, 1 < b.toNat % 16) :
    d.setPolicy iss inp = d.answerStd iss .invalidInput [] := by
  unfold Dev.setPolicy
  rw [if_neg (by simp [hlen]), Dev.aboutLd_of hld, if_pos (by simpa using h)]

section
variable {k : LogKind} (hk : logOf (field inp 0 1) = some k)
include hk

theorem Dev.getRecords_answers (hlen : inp.length = 1) : d.getRecords iss inp = d.answerStd iss .success
    ([BitVec.ofNat 8 (flag (((d.ld ld).log k).lost ≠ 0) +
        2 * flag (min ((d.ld ld).log k).recs.length (((d.mbox (issuerBox iss)).respLimit - 32) / 128) < ((d.ld ld).log k).recs.length)), 0] ++
      leBytes 2 (min 65535 ((d.ld ld).log k).lost) ++ zeros 16 ++
      leBytes 2 (min ((d.ld ld).log k).recs.length (((d.mbox (issuerBox iss)).respLimit - 32) / 128)) ++ zeros 10 ++
      (((d.ld ld).log k).recs.take (min ((d.ld ld).log k).recs.length (((d.mbox (issuerBox iss)).respLimit - 32) / 128))).flatMap
        fun e => d.recordBytes e.1 e.2) := by
  unfold Dev.getRecords
  rw [if_neg (by simp [hlen]), Dev.aboutLd_of hld, hk]

variable (hlen : inp.length = 6 + 2 * field inp 2 1) (hr : rsvd inp 3 3 = true)
include hlen hr

theorem Dev.clearRecords_all (h1 : field inp 1 1 = 1) :
    d.clearRecords iss inp = (d.modLd ld fun x => x.withLog k { (d.ld ld).log k with recs := [], lost := 0 }).answerStd iss .success [] := by
  unfold Dev.clearRecords
  extract_lets n
  rw [if_neg (by simp [hlen, n]), Dev.aboutLd_of hld, hk, h1]
  dsimp -zeta only
  extract_lets
  rw [if_neg (by simp [hr])]
  exact if_pos rfl

theorem Dev.clearRecords_some (h0 : field inp 1 1 = 0)
    (hin : ∀ h ∈ (List.range (field inp 2 1)).map fun i => field inp (6 + 2 * i) 2, ∃ e ∈ ((d.ld ld).log k).recs, e.1 = h) :
    d.clearRecords iss inp = (d.modLd ld fun x => x.withLog k { (d.ld ld).log k with
      recs := ((d.ld ld).log k).recs.filter fun e => !((List.range (field inp 2 1)).map fun i => field inp (6 + 2 * i) 2).contains e.1
      lost := 0 }).answerStd iss .success [] := by
  unfold Dev.clearRecords
  extract_lets n
  rw [if_neg (by simp [hlen, n]), Dev.aboutLd_of hld, hk, h0]
  dsimp -zeta only
  extract_lets
  rw [if_neg (by simp [hr]), if_neg (by decide), if_pos]
  · rfl
  · exact List.all_eq_true.mpr fun h hh => List.any_eq_true.mpr (by simpa using hin h hh)

end

end

/-- What a command leaves of an LD's logs and policies, once it has answered. -/
theorem answerStd_ld (d : Dev) (iss : Issuer) (ret : Ret) (out : List Byte) (n : Nat) :
    ∃ v, (d.answerStd iss ret out).ld n = { d.ld n with vecs := v } := by
  obtain ⟨b, h⟩ := finish_frame d (issuerBox iss) (issuerCounts iss) ret.status.code ret out
  exact h.ld n

theorem answerStd_log (d : Dev) (iss : Issuer) (ret : Ret) (out : List Byte) (ld : Nat) (k : LogKind) (g : Log) :
    (((d.modLd ld fun x => x.withLog k g).answerStd iss ret out).ld ld).log k = g := by
  obtain ⟨v, h⟩ := answerStd_ld (d.modLd ld fun x => x.withLog k g) iss ret out ld
  rw [h, Dev.ld_modLd_self]
  exact Ld.log_withLog ..

theorem field_one {inp : List Byte} {i : Nat} (h : i < inp.length) : field inp i 1 = (inp[i]).toNat := by
  rw [field, slice, List.drop_eq_getElem_cons h, List.take_succ_cons, List.take_zero]
  rfl

theorem mem_msixLogs {inp : List Byte} (hlen : inp.length = 5) (h : ∀ b ∈ inp, b.toNat % 16 ≤ 1) (k : LogKind) :
    k ∈ msixLogs inp ↔ field inp (logNum k) 1 % 16 = 1 := by
  have hk : logNum k < inp.length := by cases k <;> simp [logNum, hlen]
  have hb := h _ (List.getElem_mem hk)
  have hall : k ∈ [LogKind.info, .warning, .failure, .fatal, .dc] := by cases k <;> simp
  rw [msixLogs, List.mem_filter, field_one hk]
  simp only [hall, true_and, decide_eq_true_eq]
  omega

/-- Settles O41: a source by what one event leaves of it, the logs by what a record leaves of them, the commands by their answers. -/
theorem recordsAndEventCommands : Obligations.RecordsAndEventCommands := by
  refine ⟨⟨fun s n => ⟨fun h => ?_, fun hn hne => ?_⟩, fun s c n => ⟨fun h => ?_, fun h => ?_⟩, fun s n => ⟨fun hh hd => ?_, fun hd => ?_⟩,
    fun s ld v => ⟨fun hd hv => ?_, fun hd => ?_⟩, fun s r rest ld hq hld hmc => ⟨fun h => ?_, fun h => ?_⟩, fun s hq => ?_⟩,
    fun s iss inp ld htakes hld => ⟨fun k hk => ⟨fun hlen => ?_, fun hlen h1 hr => ?_, fun hlen h0 hr hin => ?_⟩, fun hinp => ?_, fun hlen h => ?_,
      fun hlen h => ?_, fun hinp => ?_, fun hlen h => ?_, fun hlen h => ?_, fun hlen => ?_⟩⟩
  · exact completes_ok (exec_interruptDoorbell ..) (if_neg (by omega))
  · refine completes_ok (exec_interruptDoorbell ..) ?_
    rw [Dev.doorbellWrite, if_pos hn]
    refine ⟨signals_doorbell .., ?_, fun hh => ?_, fun c hh hdue ht => ?_, fun hh hdue => ?_⟩
    · exact (congrArg IntSrc.pending (Dev.doorbell_ints _ _ hne)).trans (Dev.ring_pending ..)
    · exact (congrArg IntSrc.holder (Dev.doorbell_ints _ _ hne)).trans (Dev.ring_waits _ _ (.inl hh))
    · exact (congrArg IntSrc.holder (Dev.doorbell_ints _ _ hne)).trans (Dev.ring_delivers _ _ hh hdue ht)
    · exact (congrArg IntSrc.holder (Dev.doorbell_ints _ _ hne)).trans ((Dev.ring_waits _ _ (.inr hdue)).trans hh)
  · exact completes_ok (exec_interruptAcknowledge ..) (Dev.acknowledge_frees h)
  · exact completes_ok (exec_interruptAcknowledge ..) (Dev.acknowledge_other h)
  · exact completes_ok (exec_coalesceTimeExpiry ..) (if_pos (by rw [hh, hd]; rfl))
  · exact completes_ok (exec_coalesceTimeExpiry ..) (if_neg (by rw [hd, Bool.and_false]; exact Bool.false_ne_true))
  · exact completes_ok (exec_coalesceTimeExpiry ..) (if_pos (by rw [hd, hv]; rfl))
  · exact completes_ok (exec_coalesceTimeExpiry ..) (if_neg (by rw [hd]; exact Bool.false_ne_true))
  · obtain ⟨hsig, hrung⟩ := Dev.deliverRecord_ld hq hld hmc
    obtain ⟨hsig2, hrung2⟩ := Dev.logRecord_stores (d := { s.dev with ev.recQ := rest }) h
    have hlogs (n : Nat) := (signals_log hsig n).trans (signals_log hsig2 n)
    refine completes_ok (exec_recordDelivery s) ⟨hrung.recQ.trans hrung2.recQ, ?_, fun n hn => ?_⟩
    · rw [Ld.log, hlogs, Dev.ld_modLd_self]
      exact congrArg Log.recs (Ld.log_withLog ..)
    · rw [hlogs, Dev.ld_modLd_ne _ _ _ _ hn]
      rfl
  · obtain ⟨hsig, hrung⟩ := Dev.deliverRecord_ld hq hld hmc
    rw [Dev.logRecord_full (d := { s.dev with ev.recQ := rest }) h] at hsig hrung
    refine completes_ok (exec_recordDelivery s) ⟨hrung.recQ, ?_⟩
    rw [Ld.log, signals_log hsig, Dev.ld_modLd_self]
    exact Ld.log_withLog ..
  · exact completes_ok (exec_recordDelivery s) (Dev.deliverRecord_none hq)
  · refine completes_of_takes htakes (exec_getEventRecords s iss inp) ?_
    rw [Dev.getRecords_answers hld hk hlen]
    exact answerStd_replies ..
  · refine completes_of_takes htakes (exec_clearEventRecords s iss inp) ?_
    rw [Dev.clearRecords_all hld hk hlen hr h1]
    exact ⟨(answerStd_replies ..).1, answerStd_log ..⟩
  · refine completes_of_takes htakes (exec_clearEventRecords s iss inp) ?_
    rw [Dev.clearRecords_some hld hk hlen hr h0 hin]
    exact ⟨(answerStd_replies ..).1, answerStd_log ..⟩
  · refine completes_of_takes htakes (exec_getEventInterruptPolicy s iss inp) ?_
    rw [Dev.getPolicy_answers hld hinp]
    exact answerStd_replies ..
  · refine completes_of_takes htakes (exec_setEventInterruptPolicy s iss inp) ?_
    rw [Dev.setPolicy_sets hld hlen h]
    refine ⟨(answerStd_replies ..).1, fun k => ?_⟩
    obtain ⟨v, hv⟩ := answerStd_ld ((s.dev.doorbell (mailDoorbell iss)).modLd ld fun x => { x with evtMsix := msixLogs inp }) iss .success [] ld
    rw [hv, Dev.ld_modLd_self]
    exact mem_msixLogs hlen h k
  · refine completes_of_takes htakes (exec_setEventInterruptPolicy s iss inp) ?_
    rw [Dev.setPolicy_refuses hld hlen h]
    exact answerStd_replies ..
  · refine completes_of_takes htakes (exec_getMctpEventInterruptPolicy s iss inp) ?_
    rw [Dev.getMctp, if_neg (by simp [hinp])]
    exact answerStd_replies ..
  · refine completes_of_takes htakes (exec_setMctpEventInterruptPolicy s iss inp) ?_
    rw [Dev.setMctp, if_neg (by simp [hlen]), if_pos h]
    exact answerStd_replies ..
  · refine completes_of_takes htakes (exec_setMctpEventInterruptPolicy s iss inp) ?_
    rw [Dev.setMctp, if_neg (by simp [hlen]), if_neg (by simp [h])]
    exact answerStd_replies ..
  · refine completes_of_takes htakes (exec_eventNotification s iss inp) ?_
    rw [Dev.eventNotice, if_neg (by simp [hlen])]
    exact answerStd_replies ..

end Sys2Proof.Machine
end

section
/-! Counters, watches and snapshots (spec/13 R374, R375; spec/15 R416 to R425). -/

namespace Sys2Proof.Machine

open Sys2Proof Sys2Proof.Laws

section
variable (s : State)

theorem exec_countRead (iss : Issuer) (inp : List Byte) :
    exec (.countRead iss inp) s = ok (s.dev.command iss 0xC300 fun d => d.countRead iss inp) s := rfl
theorem exec_countWatch (iss : Issuer) (inp : List Byte) :
    exec (.countWatch iss inp) s = ok (s.dev.command iss 0xC301 fun d => d.countWatch iss inp) s := rfl
theorem exec_counterStoreError (w : CtrWord) : exec (.counterStoreError w) s = ok (s.dev.counterError w) s := rfl
theorem exec_counterInvalidClear (i : Nat) : exec (.counterInvalidClear i) s = ok (s.dev.clearInvalid i) s := rfl
theorem exec_snapDoorbell (ld : Fin 32) : exec (.snapDoorbell ld) s = ok (s.dev.snapAsk ld.val) s := rfl
theorem exec_snapReadyClear (ld : Fin 32) :
    exec (.snapReadyClear ld) s = ok (s.dev.modLd ld.val fun x => { x with snap := { x.snap with ready := false } }) s := rfl
theorem exec_watchOvfClear (ld : Fin 32) (bits : BitVec 32) : exec (.watchOvfClear ld bits) s = ok (s.dev.clearWatchOvf ld.val bits) s := rfl

end

/-! ### COUNT.READ -/

section
variable {d : Dev} {iss : Issuer} {inp : List Byte} (hlen : inp.length = 8) (hscope : field inp 4 1 = 0) (hr : rsvd inp 5 3 = true)
  (hrange : field inp 0 2 + field inp 2 2 ≤ 1536) (hlimit : 8 + 8 * field inp 2 2 ≤ (d.mbox (issuerBox iss)).respLimit)
  (hld : (issuerLd iss).isSome = true)
include hlen hscope hr hrange hlimit hld

theorem Dev.countRead_taken : d.countRead iss inp = if field inp 2 2 = 0 then d.reply iss .success (zeros 6) true else
    { d with host.asks := d.host.asks ++
      [{ box := issuerBox iss, counts := issuerCounts iss, first := field inp 0 2, number := field inp 2 2, ld := issuerLd iss,
         dev := d.devScope (issuerLd iss) }] } := by
  unfold Dev.countRead
  rw [hscope]
  extract_lets
  rw [if_neg (by simp [hlen]), if_neg (by simp [hr]; exact ⟨⟨by omega, by omega⟩, fun _ => by simpa [Option.isSome_iff_ne_none] using hld⟩)]
  rfl

end

/-! ### COUNT.WATCH -/

/-- Who owns a watch that an issuer programs: its LD, or the management controller (R375). -/
def watchOwner (iss : Issuer) : Nat := match iss with | .host ld _ => ld.val | .mc _ => 32

/-- A watch of an issuer, as COUNT.WATCH names it (R423). -/
def namedWatch (iss : Issuer) (inp : List Byte) : Watch :=
  { owner := watchOwner iss, event := field inp 2 2, signal := bit (field inp 1 1) 1, preset := BitVec.ofNat 48 (field inp 8 6)
    value := BitVec.ofNat 48 (field inp 8 6) }

section
variable {d : Dev} {iss : Issuer} {inp : List Byte} (hlen : inp.length = 16) (hw : field inp 0 1 < 32) (he : field inp 2 2 ≤ 1535)
  (hr1 : rsvd inp 4 4 = true) (hr2 : rsvd inp 14 2 = true) (hp : d.ev.progs.look (field inp 0 1) = none)
  (hws : d.ev.watches.look (field inp 0 1) = none)
include hlen hw he hr1 hr2 hp hws

theorem Dev.countWatch_programs (hctl : field inp 1 1 = 1 ∨ field inp 1 1 = 3) (ha : eventAssigned (field inp 2 2) = true)
    (h256 : field inp 2 2 < 256) :
    d.countWatch iss inp = ({ d with ev.progs := d.ev.progs.put (field inp 0 1) (namedWatch iss inp) } : Dev).reply iss .success (zeros 6) := by
  have hon : bit (field inp 1 1) 0 = true := by rcases hctl with h | h <;> rw [h] <;> rfl
  unfold Dev.countWatch
  extract_lets w ctl e owner on other
  have hother : other = false := by simp only [other, w, hp, hws]
  have hon' : on = true := hon
  clear_value other
  rw [if_neg (by simp [hlen]), if_neg (by simp [hr1, hr2, ha, w, ctl, e, hon']; omega), if_neg (by simp [hother])]
  exact congrArg (fun e : Dev => e.reply iss .success (zeros 6)) (if_pos hon')

theorem Dev.countWatch_frees (hctl : field inp 1 1 = 0) : d.countWatch iss inp =
    ({ d with ev.progs := d.ev.progs.del (field inp 0 1), ev.watches := d.ev.watches.del (field inp 0 1) } : Dev).reply iss .success (zeros 6) := by
  unfold Dev.countWatch
  extract_lets w ctl e owner on other
  have hother : other = false := by simp only [other, w, hp, hws]
  have hon : on = false := by simp only [on, ctl, hctl]; rfl
  clear_value other on
  subst hon
  rw [if_neg (by simp [hlen]), if_neg (by simp [hr1, hr2, w, ctl, e, hctl]; omega), if_neg (by simp [hother])]
  rfl

end

/-! ### The counter store -/

theorem Dev.counterError_live {d : Dev} {i : Nat} (h : d.ev.dead.contains i = false) : d.counterError (.live i) =
    ({ d with ev.ctr := d.ev.ctr.put i (BitVec.allOnes 48), ev.invalid := d.ev.invalid.put i d.clk.bnd, ev.dead := d.ev.dead ++ [i] } : Dev).faultEvent
      0x30D 2 (i % 2 ^ 32 + 0xFF * 2 ^ 32) := by
  unfold Dev.counterError
  dsimp -zeta only
  rw [if_neg (ne_true_of_eq_false h)]

theorem Dev.clearInvalid_of {d : Dev} {i b : Nat} (h : d.ev.invalid.look i = some b) :
    d.clearInvalid i = if b + 4097 ≤ d.clk.bnd then { d with ev.invalid := d.ev.invalid.del i } else d := by
  unfold Dev.clearInvalid
  rw [h]

/-! ### WATCH_OVF_CLEAR -/

theorem testBit_foldl_or {α : Type} (l : List (Nat × α)) (n k : Nat) :
    (l.foldl (fun n e => n ||| 2 ^ e.1) n).testBit k = (n.testBit k || l.any fun e => e.1 = k) := by
  induction l generalizing n with
  | nil => simp
  | cons e l ih => rw [List.foldl_cons, ih, Nat.testBit_or, Nat.testBit_two_pow, List.any_cons, Bool.or_assoc]

/-- The bits of an LD's own watches that a write of WatchOvf clears (R422). -/
theorem Dev.clearWatchOvf_bit (d : Dev) (ld : Nat) (bits : BitVec 32) (k : Nat) : (d.clearWatchOvf ld bits).ev.watchOvf.getLsbD k =
    (d.ev.watchOvf.getLsbD k && !(d.ev.watches.any fun e => e.1 = k && (e.2.owner = ld && bits.getLsbD e.1))) := by
  unfold Dev.clearWatchOvf
  extract_lets mine
  have hmine : mine.testBit k = d.ev.watches.any fun e => e.1 = k && (e.2.owner = ld && bits.getLsbD e.1) := by
    rw [show mine.testBit k = _ from testBit_foldl_or .., Nat.zero_testBit, Bool.false_or, List.any_filter]
    simp only [Bool.and_comm]
  by_cases hk : k < 32
  · rw [← hmine]
    simp only [BitVec.getLsbD_and, BitVec.getLsbD_not, BitVec.getLsbD_ofNat, hk, decide_true, Bool.true_and]
  · rw [BitVec.getLsbD_of_ge _ _ (by omega), BitVec.getLsbD_of_ge _ _ (by omega), Bool.false_and]

/-- Settles O42: each command and event by its equation. -/
theorem countersWatchesSnapshots : Obligations.CountersWatchesSnapshots := by
  refine ⟨fun s iss inp htakes => ⟨fun hlen hscope hr hrange hlimit hld => ⟨fun hn => ?_, fun hn => ?_⟩,
    fun hlen hw he hr1 hr2 hp hws => ⟨fun hctl ha h256 => ?_, fun hctl => ?_⟩⟩,
    fun s i => ⟨fun h => ?_, fun b hb => ⟨fun h => ?_, fun h => ?_⟩⟩,
    fun s ld => ⟨fun h => ?_, fun h => ?_, ?_, fun bits => ?_⟩⟩
  · exact completes_of_takes htakes (exec_countRead s iss inp) ((Dev.countRead_taken hlen hscope hr hrange hlimit hld).trans (if_neg hn))
  · refine completes_of_takes htakes (exec_countRead s iss inp) ?_
    rw [Dev.countRead_taken hlen hscope hr hrange hlimit hld, if_pos hn]
    exact reply_replies ..
  · refine completes_of_takes htakes (exec_countWatch s iss inp) ?_
    rw [Dev.countWatch_programs hlen hw he hr1 hr2 hp hws hctl ha h256]
    refine ⟨reply_answered .., ?_⟩
    rw [(Rung.reply ..).progs]
    exact Tab.look_put_self ..
  · refine completes_of_takes htakes (exec_countWatch s iss inp) ?_
    rw [Dev.countWatch_frees hlen hw he hr1 hr2 hp hws hctl]
    refine ⟨reply_answered .., ?_⟩
    rw [(Rung.reply ..).progs]
    exact Tab.look_del_self ..
  · exact completes_ok (exec_counterStoreError ..) (Dev.counterError_live h)
  · exact completes_ok (exec_counterInvalidClear ..) ((Dev.clearInvalid_of hb).trans (if_pos h))
  · exact completes_ok (exec_counterInvalidClear ..) ((Dev.clearInvalid_of hb).trans (if_neg (by omega)))
  · refine completes_ok (exec_snapDoorbell ..) ?_
    rw [Dev.snapAsk, if_pos h]
    exact ⟨congrArg Ld.snap (Dev.ld_modLd_self ..), fun n hn => Dev.ld_modLd_ne _ _ _ _ hn⟩
  · exact completes_ok (exec_snapDoorbell ..) (if_neg h)
  · exact completes_ok (exec_snapReadyClear ..) ⟨congrArg Ld.snap (Dev.ld_modLd_self ..), fun n hn => Dev.ld_modLd_ne _ _ _ _ hn⟩
  · refine completes_ok (exec_watchOvfClear ..) ⟨fun k w hk hlook howner hbit => ?_, fun k hnone => ?_⟩
    · rw [Dev.clearWatchOvf_bit, List.any_eq_true.mpr ⟨(k, w), Tab.mem_of_look hlook, by simp [howner, hbit]⟩]
      simp
    · rw [Dev.clearWatchOvf_bit, List.any_eq_false.mpr fun e he => by simp; intro hk ho; exact absurd ho (hnone e he hk)]
      simp

end Sys2Proof.Machine
end

section
/-! What a message sent leaves of each Tether port (spec/11 R298, R302, R303, R306): all but what flows through it. -/

namespace Sys2Proof.Machine

open Sys2Proof Sys2Proof.Laws

/-- y is x but for what flows through a port: the messages that wait, the flits held, its counters of the link and its transit entries. -/
def TPort.Flows (x y : TPort) : Prop :=
  ∃ tx replay seq crNext mark debits transit,
    y = { x with tx := tx, replay := replay, seq := seq, crNext := crNext, mark := mark, debits := debits, transit := transit }

namespace TPort.Flows

theorem refl (x : TPort) : x.Flows x := ⟨_, _, _, _, _, _, _, rfl⟩

theorem trans {x y z : TPort} (h : x.Flows y) (g : y.Flows z) : x.Flows z := by
  obtain ⟨_, _, _, _, _, _, _, rfl⟩ := h
  obtain ⟨_, _, _, _, _, _, _, rfl⟩ := g
  exact ⟨_, _, _, _, _, _, _, rfl⟩

variable {x y : TPort} (h : x.Flows y)
include h

theorem st : y.st = x.st := by obtain ⟨_, _, _, _, _, _, _, rfl⟩ := h; rfl
theorem retiredLink : y.retiredLink = x.retiredLink := by obtain ⟨_, _, _, _, _, _, _, rfl⟩ := h; rfl
theorem returns : y.returns = x.returns := by obtain ⟨_, _, _, _, _, _, _, rfl⟩ := h; rfl
theorem kept : y.kept = x.kept := by obtain ⟨_, _, _, _, _, _, _, rfl⟩ := h; rfl
theorem doze : y.doze = x.doze := by obtain ⟨_, _, _, _, _, _, _, rfl⟩ := h; rfl
theorem rsps : y.rsps = x.rsps := by obtain ⟨_, _, _, _, _, _, _, rfl⟩ := h; rfl
theorem pool : y.pool = x.pool := by obtain ⟨_, _, _, _, _, _, _, rfl⟩ := h; rfl
theorem standby : y.standby = x.standby := by obtain ⟨_, _, _, _, _, _, _, rfl⟩ := h; rfl
theorem ne : y.ne = x.ne := by obtain ⟨_, _, _, _, _, _, _, rfl⟩ := h; rfl
theorem nak : y.nak = x.nak := by obtain ⟨_, _, _, _, _, _, _, rfl⟩ := h; rfl
theorem returned : y.returned = x.returned := by obtain ⟨_, _, _, _, _, _, _, rfl⟩ := h; rfl
theorem delay : y.delay = x.delay := by obtain ⟨_, _, _, _, _, _, _, rfl⟩ := h; rfl
theorem failures : y.failures = x.failures := by obtain ⟨_, _, _, _, _, _, _, rfl⟩ := h; rfl

end TPort.Flows

/-- The ports of d' are those of d but for what flows through them. -/
structure Flows (d d' : Dev) : Prop where
  port : ∀ q, (d.tport q).Flows (d'.tport q)

namespace Flows

variable {a b d d' : Dev}

theorem refl (d : Dev) : Flows d d := ⟨fun _ => TPort.Flows.refl _⟩

theorem trans (h : Flows a b) (g : Flows b d) : Flows a d := ⟨fun q => (h.port q).trans (g.port q)⟩

theorem of_chain (h : d'.chain.ports = d.chain.ports) : Flows d d' where
  port q := by
    rw [show d'.tport q = d.tport q by rw [Dev.tport, Dev.tport, h]]
    exact TPort.Flows.refl _

theorem of_signals (h : Signals d d') : Flows d d' := of_chain (by rw [h.chain])

theorem setTport {p : Nat} {x : TPort} (h : (d.tport p).Flows x) : Flows d (d.setTport p x) where
  port q := by
    by_cases hq : q = p
    · subst hq
      rw [Dev.tport_setTport_self]
      exact h
    · rw [Dev.tport_setTport_ne _ _ _ _ hq]
      exact TPort.Flows.refl _

theorem modTport (d : Dev) (p : Nat) (f : TPort → TPort) (h : ∀ x : TPort, x.Flows (f x)) : Flows d (d.modTport p f) := setTport (h _)

theorem sendFlit (d : Dev) (p : Nat) (m : Msg) : Flows d (d.sendFlit p m) :=
  (setTport ⟨_, _, _, _, _, _, _, rfl⟩).trans (of_signals ((signals_say ..).trans (signals_bump ..)))

theorem sendIdle (d : Dev) (p : Nat) (nak : Bool) : Flows d (d.sendIdle p nak) :=
  (setTport ⟨_, _, _, _, _, _, _, rfl⟩).trans (of_signals ((signals_say ..).trans (signals_bump ..)))

theorem launch (d : Dev) (p : Nat) (m : Msg) (from_ : Option Nat) : Flows d (d.launch p m from_) := by
  unfold Dev.launch
  split
  · exact (modTport _ _ _ fun _ => ⟨_, _, _, _, _, _, _, rfl⟩).trans (sendFlit ..)
  · exact sendFlit ..

theorem pumpList (d : Dev) (p : Nat) (tx : List (Msg × Option Nat)) (blocked : List (Bool × Nat)) (left : List (Msg × Option Nat)) :
    Flows d (d.pumpList p tx blocked left) := by
  induction tx generalizing d blocked left with
  | nil => exact modTport _ _ _ fun _ => ⟨_, _, _, _, _, _, _, rfl⟩
  | cons e tx ih =>
    unfold Dev.pumpList
    extract_lets key
    split
    · exact ih ..
    · exact (launch ..).trans (ih ..)

theorem pump (d : Dev) (p : Nat) : Flows d (d.pump p) := pumpList ..

theorem sendMsg (d : Dev) (p : Nat) (m : Msg) (from_ : Option Nat) : Flows d (d.sendMsg p m from_) :=
  (modTport _ _ _ fun _ => ⟨_, _, _, _, _, _, _, rfl⟩).trans (pump ..)

theorem each {α : Type} (l : List α) (d : Dev) (f : Dev → α → Dev) (h : ∀ e x, Flows e (f e x)) : Flows d (each l d f) :=
  each_induct (Flows d) (refl d) fun e x _ he => he.trans (h e x)

theorem noRoute (d : Dev) (addr origin : Nat) : Flows d (d.noRoute addr origin) :=
  of_signals ((signals_bump ..).trans (signals_raiseAt ..))

theorem mgmt (d : Dev) (dest subOp : Nat) (body : List Byte) : Flows d (d.mgmt dest subOp body) := by
  unfold Dev.mgmt
  split
  · exact refl d
  · extract_lets chain d1
    have h1 : Flows d d1 := of_chain rfl
    split
    · exact h1.trans (sendMsg ..)
    · exact h1.trans (noRoute ..)

theorem linkEvent (d : Dev) (p code : Nat) : Flows d (d.linkEvent p code) := by
  unfold Dev.linkEvent
  split
  · exact refl d
  · split
    · exact mgmt ..
    · exact refl d

end Flows

end Sys2Proof.Machine
end

section
/-! Fault sources, windows, reactions, cores, SRAM and lanes (spec/14 R388 to R399, R402; spec/06 R196). -/

namespace Sys2Proof.Machine

open Sys2Proof Sys2Proof.Laws

section
variable (s : State)

theorem exec_faultRead (iss : Issuer) (inp : List Byte) :
    exec (.faultRead iss inp) s = ok (s.dev.command iss 0xC400 fun d => d.faultRead iss inp) s := rfl
theorem exec_faultNPulseEnd : exec .faultNPulseEnd s = ok s.dev.pulseEnd s := rfl
theorem exec_faultReactionStart (n : BitVec 16) : exec (.faultReactionStart n) s = ok (s.dev.reactionStart n.toNat).flow s := rfl
theorem exec_coreException (c : Fin 16) (pc addr : BitVec 36) :
    exec (.coreException c pc addr) s = ok (s.dev.restartCore c.val 2 (pc.toNat + addr.toNat * 2 ^ 36)) s := rfl
theorem exec_coreHeartbeatLoss (c : Fin 16) : exec (.coreHeartbeatLoss c) s = ok (s.dev.heartbeatLoss c.val) s := rfl
theorem exec_coreRestartDone (c : Fin 16) (good : Bool) : exec (.coreRestartDone c good) s = ok (s.dev.restartDone c.val good) s := rfl
theorem exec_sramError (part : Fin 14) (word : BitVec 32) (b : BitVec 8) (c : Bool) :
    exec (.sramError part word b c) s = ok (s.dev.sramError part.val word.toNat b.toNat c).flow s := rfl
theorem exec_laneLossOfLock (l : Lane) : exec (.laneLossOfLock l) s = ok (s.dev.lossOfLock (laneOf l).1 (laneOf l).2).flow s := rfl
theorem exec_laneFecSymbolCount (l : Lane) : exec (.laneFecSymbolCount l) s = ok (s.dev.fecCount (laneOf l).1 (laneOf l).2) s := rfl

end

/-! ### FAULT.READ -/

/-- The answer of FAULT.READ about a source (R376). -/
def Source.answer (x : Source) : List Byte :=
  [BitVec.ofNat 8 (flag x.sticky + 2 * flag x.severe + 4 * flag x.retired), 0] ++ leBytes 4 x.count ++ leBytes 6 x.stickyBeat.toNat ++ zeros 2 ++
    x.last.bytes

section
variable {d : Dev} {iss : Issuer} {inp : List Byte} (hlen : inp.length = 8) (hn : (sourceClass (field inp 0 2)).isSome = true)
  (hr : rsvd inp 3 5 = true)
include hlen hn hr

theorem Dev.faultRead_reads (hf : field inp 2 1 = 0) : d.faultRead iss inp = d.reply iss .success (d.source (field inp 0 2)).answer := by
  unfold Dev.faultRead
  rw [hf]
  extract_lets n f
  rw [if_neg (by simp [hlen]), if_neg (by simp [hr, f]; simpa [Option.isSome_iff_ne_none, n] using hn)]
  rfl

theorem Dev.faultRead_clears (hf : field inp 2 1 = 1) (hmc : issuerMc iss = true) : d.faultRead iss inp =
    (d.modSource (field inp 0 2) fun x => { x with sticky := false, severe := false }).reply iss .success (d.source (field inp 0 2)).answer := by
  unfold Dev.faultRead
  rw [hf]
  extract_lets n f
  rw [if_neg (by simp [hlen]), if_neg (by simp [hr, hmc, f]; simpa [Option.isSome_iff_ne_none, n] using hn)]
  rfl

end

theorem Dev.holdLevel_low {d : Dev} (h : d.fault.pulse = false) : (d.holdLevel true).fault.low = true := by
  rw [Dev.holdLevel, if_neg (Bool.eq_false_iff.mp h), Dev.faultN_fault]
  rfl

/-! ### Windows (R392, R393) -/

section
variable {x : Source} {cls window threshold now : Nat} (hfresh : 0 < x.fresh) (hcls : cls ≠ 10)
include hfresh hcls

theorem Source.counted_closed {b : Nat} (ho : x.opened = some b) (hb : b + window ≤ now) : x.counted cls window threshold now =
    ({ x with opened := some now, count := x.fresh, fresh := 0, hard := false, made := decide (threshold ≤ x.fresh)
              severe := x.severe || x.hard || decide (threshold ≤ x.fresh) }, x.hard || decide (threshold ≤ x.fresh)) := by
  unfold Source.counted
  rw [ho]
  dsimp only
  rw [if_pos hb, if_neg (by simpa using (Nat.ne_of_gt hfresh)), if_neg hcls]
  simp [Bool.or_assoc]

theorem Source.counted_open (ho : ¬∃ b, x.opened = some b ∧ b + window ≤ now) :
    (x.counted cls window threshold now).2 = (x.hard || (!x.made && decide (threshold ≤ x.count + x.fresh))) ∧
      (x.counted cls window threshold now).1.count = x.count + x.fresh := by
  unfold Source.counted
  extract_lets y
  have hy : y = x := by
    unfold y
    split
    next b h => exact if_neg fun hb => ho ⟨b, h, hb⟩
    next => rfl
  clear_value y
  subst hy
  rw [if_neg (Nat.ne_of_gt hfresh), if_neg hcls]
  exact ⟨rfl, rfl⟩

end

/-! ### Events of a source -/

/-- An event of a fault source changes the sources and signals; the source names it last (R390). -/
theorem faultEvent_last (d : Dev) (n code detail : Nat) (label : Label) (who : BitVec 8) (hard : Bool) :
    (∃ src, (d.faultEvent n code detail label who hard).fault = { d.fault with src := src }) ∧
      ((d.faultEvent n code detail label who hard).source n).last.code = BitVec.ofNat 8 code ∧
      ((d.faultEvent n code detail label who hard).source n).last.detail = BitVec.ofNat 128 detail ∧
      ((d.faultEvent n code detail label who hard).source n).hard = ((d.source n).hard || hard) := by
  unfold Dev.faultEvent
  extract_lets x y
  have hfault := (signals_doorbell ({ d with fault.src := d.fault.src.put n y } : Dev) (sourceDoorbell n)).fault
  have hsource : (({ d with fault.src := d.fault.src.put n y } : Dev).doorbell (sourceDoorbell n)).source n = y := by
    rw [Dev.source, hfault]
    exact Tab.val_put_self ..
  rw [hsource]
  exact ⟨⟨_, hfault⟩, rfl, rfl, rfl⟩

/-! ### Cores (R391, R395) -/

/-- What stands of a core and of its source, with what the reactions of cores leave alone. -/
structure SameCore (c : Nat) (d d' : Dev) : Prop where
  st : (d'.core c).st = (d.core c).st
  src : d'.fault.src = d.fault.src
  line : d'.line = d.line

theorem SameCore.trans {c : Nat} {a b d : Dev} (h : SameCore c a b) (g : SameCore c b d) : SameCore c a d :=
  ⟨g.st.trans h.st, g.src.trans h.src, g.line.trans h.line⟩

theorem SameCore.refl (c : Nat) (d : Dev) : SameCore c d d := ⟨rfl, rfl, rfl⟩

theorem SameCore.of_signals {c : Nat} {d d' : Dev} (h : Signals d d') : SameCore c d d' :=
  ⟨by rw [Dev.core, h.fault]; rfl, by rw [h.fault], h.line⟩

theorem Dev.coresTo_same (d : Dev) (bank c : Nat) : SameCore c d (d.coresTo bank) := by
  refine each_induct (SameCore c d) (SameCore.refl c d) fun e k _ he => ?_
  split
  · exact he
  · refine he.trans ⟨?_, rfl, rfl⟩
    by_cases hk : c = k
    · subst hk
      rw [Dev.core_setCore_self]
    · rw [Dev.core_setCore_ne _ _ _ _ hk]

theorem Dev.abandonActivation_same (d : Dev) (c : Nat) : SameCore c d d.abandonActivation := by
  unfold Dev.abandonActivation
  split
  · exact SameCore.refl c d
  next a _ =>
    have hto := ({ d with flash.act := none } : Dev).coresTo_same d.flash.bank c
    generalize ({ d with flash.act := none } : Dev).coresTo d.flash.bank = e at hto ⊢
    obtain ⟨boxes, hsig⟩ := endBgRet_signals e a.box .activationFailed Status.activateFailed.code []
    have hboxes : SameCore c d { e with host.boxes := boxes } := ⟨hto.st, hto.src, hto.line⟩
    exact hboxes.trans (SameCore.of_signals hsig)

theorem Dev.depleted_signals (d : Dev) (n : Nat) : Signals d (d.depleted n) := by
  unfold Dev.depleted
  split
  · exact signals_raiseFault ..
  · exact Signals.refl d

/-- A core in service that restarts has its event (R391). -/
theorem Dev.restartCore_restarts {d : Dev} {c : Nat} (code detail : Nat) (hup : d.coreUp c = true) :
    ((d.restartCore c code detail).core c).st = .restarting ∧ ((d.restartCore c code detail).source (srcCore c)).last.code = BitVec.ofNat 8 code ∧
      ((d.restartCore c code detail).source (srcCore c)).last.detail = BitVec.ofNat 128 detail := by
  unfold Dev.restartCore
  rw [if_neg (by simp [hup])]
  extract_lets core e
  obtain ⟨-, hcode, hdetail, -⟩ := faultEvent_last d (srcCore c) code detail 0 reqNone false
  have hst : (e.core c).st = .restarting := congrArg Core.st (Dev.core_setCore_self ..)
  have hsrc : e.source (srcCore c) = (d.faultEvent (srcCore c) code detail 0 reqNone false).source (srcCore c) := rfl
  rw [← hsrc] at hcode hdetail
  clear_value e
  have hsame : SameCore c e ((e.raiseFault 6 .info (srcCore c) 1).abandonActivation.depleted (srcCore c)) :=
    (SameCore.of_signals (signals_raiseFault ..)).trans ((Dev.abandonActivation_same ..).trans (SameCore.of_signals (Dev.depleted_signals ..)))
  have hsrc' : ((e.raiseFault 6 .info (srcCore c) 1).abandonActivation.depleted (srcCore c)).source (srcCore c) = e.source (srcCore c) := by
    rw [Dev.source, hsame.src]
    rfl
  exact ⟨hsame.st.trans hst, by rw [hsrc', hcode], by rw [hsrc', hdetail]⟩

theorem Dev.restartDone_good {d : Dev} {c : Nat} (h : (d.core c).st = .restarting) :
    d.restartDone c true = d.setCore c { st := .running, bank := d.flash.bank } := by
  unfold Dev.restartDone
  rw [if_neg (by simp [h])]
  rfl

theorem Dev.restartDone_bad {d : Dev} {c : Nat} (h : (d.core c).st = .restarting) : ((d.restartDone c false).core c).st = .restarting ∧
    ((d.restartDone c false).source (srcCore c)).last.code = 4 ∧ ((d.restartDone c false).source (srcCore c)).hard = true := by
  unfold Dev.restartDone
  rw [if_neg (by simp [h])]
  obtain ⟨⟨src, hfault⟩, hcode, -, hhard⟩ := faultEvent_last (d.free 72).2 (srcCore c) 4 (d.free 72).1.toNat 0 reqNone true
  refine ⟨?_, hcode, hhard.trans (Bool.or_true _)⟩
  show (((d.free 72).2.faultEvent (srcCore c) 4 (d.free 72).1.toNat 0 reqNone true).core c).st = _
  rw [Dev.core, hfault]
  exact h

/-! ### Reactions (R394, R399) -/

/-- A source that is retired, with its record. -/
theorem Dev.retireSource_signals (d : Dev) (n type reaction : Nat) (log : LogKind) :
    Signals (d.modSource n fun s => { s with retired := true }) (d.retireSource n type reaction log) := signals_raiseFault ..

theorem Dev.retireSource_retired (d : Dev) (n type reaction : Nat) (log : LogKind) : ((d.retireSource n type reaction log).source n).retired = true := by
  rw [Dev.source, (Dev.retireSource_signals ..).fault]
  exact congrArg Source.retired (Dev.source_modSource_self ..)

section
variable {d : Dev} {n : Nat} {rest : List Nat} (hawake : d.awake = true) (hdue : d.fault.due = n :: rest)
include hawake hdue

theorem Dev.reactionStart_first : d.reactionStart n = ({ d with fault.due := rest } : Dev).react n := by
  unfold Dev.reactionStart
  rw [if_pos (by simp [hawake, hdue]), hdue]
  rfl

end

theorem Dev.react_retired {d : Dev} {n : Nat} (h : (d.source n).retired = true) : d.react n = d := if_pos h

theorem sourceClass_srcCore : ∀ c < 16, sourceClass (srcCore c) = some 6 := by decide

theorem sourceClass_srcTether : ∀ p < 3, sourceClass (srcTether p) = some 5 := by decide

theorem Dev.react_core {d : Dev} {c : Nat} (hc : c < 16) (h : (d.source (srcCore c)).retired = false) : d.react (srcCore c) = d.reactCore c := by
  unfold Dev.react
  rw [if_neg (by simp [h]), sourceClass_srcCore c hc]
  simp [srcCore]

theorem Dev.react_tether {d : Dev} {p : Nat} (hp : p < 3) (h : (d.source (srcTether p)).retired = false) :
    d.react (srcTether p) = d.reactTether p := by
  unfold Dev.react
  rw [if_neg (by simp [h]), sourceClass_srcTether p hp]
  simp [srcTether]

theorem Dev.reactCore_retires {d : Dev} {c : Nat} (h : (d.core c).st = .running) : ((d.reactCore c).core c).st = .retired ∧
    ((d.reactCore c).source (srcCore c)).retired = true ∧ (d.reactCore c).line = d.line := by
  unfold Dev.reactCore
  rw [if_neg (by simp [h])]
  extract_lets core e
  have hsame : SameCore c (d.setCore c { d.core c with st := .retired }) e := Dev.abandonActivation_same ..
  clear_value e
  have hsig := e.retireSource_signals (srcCore c) 7 3 .warning
  have hdep := (e.retireSource (srcCore c) 7 3).depleted_signals (srcCore c)
  refine ⟨?_, ?_, (hdep.line.trans hsig.line).trans hsame.line⟩
  · rw [Dev.core, hdep.fault, hsig.fault]
    exact hsame.st.trans (congrArg Core.st (Dev.core_setCore_self ..))
  · rw [Dev.source, hdep.fault]
    exact Dev.retireSource_retired ..

theorem Dev.reactTether_holds (d : Dev) (p : Nat) : ((d.reactTether p).tport p).st = .heldDown ∧ ((d.reactTether p).tport p).retiredLink = true := by
  unfold Dev.reactTether
  extract_lets e f
  have hf : ((f.tport p).st = .heldDown ∧ (f.tport p).retiredLink = true) := by
    have hport := (Flows.linkEvent (e.modTport p fun x => { x with st := .heldDown, retiredLink := true }) p 2).port p
    rw [Dev.tport_modTport_self] at hport
    exact ⟨hport.st, hport.retiredLink⟩
  have hport := (Flows.of_signals (f.retireSource_signals (srcTether p) 5 6 .warning)).port p
  exact ⟨hport.st.trans hf.1, hport.retiredLink.trans hf.2⟩

/-! ### SRAM and lanes (R196, R388, R396) -/

/-- The row that a word of an SRAM part lies in, as its corrections are counted (R396). -/
def sramRowKey (part word : Nat) : Nat := part * 2 ^ 32 + Config.sramRow part word % 2 ^ 32

theorem Dev.sramError_corrected (d : Dev) (part word b : Nat) :
    (d.sramError part word b true).fault.rowCorr.val (sramRowKey part word) 0 = d.fault.rowCorr.val (sramRowKey part word) 0 + 1 ∧
      ((d.sramError part word b true).source (0x300 + part)).last.code = BitVec.ofNat 8 (if part = 3 && b = 255 then 3 else 1) := by
  obtain ⟨⟨src, hfault⟩, hcode, -⟩ := faultEvent_last
    ({ d with fault.rowCorr := d.fault.rowCorr.put (sramRowKey part word) (d.fault.rowCorr.val (sramRowKey part word) 0 + 1) } : Dev) (0x300 + part)
    (if part = 3 && b = 255 then 3 else 1) (word + b * 2 ^ 32) 0 0xFF false
  refine ⟨?_, hcode⟩
  refine (congrArg (fun f : Faults => f.rowCorr.val (sramRowKey part word) 0) hfault).trans ?_
  exact Tab.val_put_self ..

/-- Settles O43: sources, cores and reactions by what each event leaves of them. -/
theorem faultsAndReactions : Obligations.FaultsAndReactions := by
  refine ⟨fun s iss inp htakes => ⟨fun hlen hn hf hr => ?_, fun hlen hn hf hr hmc => ?_, fun hlen hmc h1 hr => ?_⟩,
    fun s => ⟨fun hp => ?_, fun hp => ?_⟩,
    fun x cls window threshold now hfresh hcls => ⟨fun ⟨b, ho, hb⟩ => Source.counted_closed hfresh hcls ho hb, fun ho hmade hhard => ?_, fun ho hhard => ?_⟩,
    fun s n rest hawake hdue => ⟨fun hret => ?_, fun c hc hn hin hst => ?_, fun p hp hn hin => ?_⟩,
    fun s c => ⟨fun pc addr hup => ?_, fun pc addr hup => ?_, fun hup => ?_, fun hst => ?_, fun hst => ?_⟩,
    fun s part word b => ⟨?_, fun h => ?_, fun h => ?_, fun h3 h13 => ?_⟩,
    fun s l => ⟨fun ha hres hp => ?_, fun ha hres hp => ?_, fun ha hres => ?_, fun ha => ?_, fun ha => ?_⟩⟩
  · refine completes_of_takes htakes (exec_faultRead s iss inp) ?_
    rw [Dev.faultRead_reads hlen hn hr hf]
    exact reply_replies ..
  · refine completes_of_takes htakes (exec_faultRead s iss inp) ?_
    rw [Dev.faultRead_clears hlen hn hr hf hmc]
    exact reply_replies ..
  · refine completes_of_takes htakes (exec_faultPin iss inp s) ?_
    rw [Dev.faultPin_taken _ _ hlen hmc (by omega) hr, show decide (field inp 0 1 = 1) = true by simp [h1]]
    refine ⟨?_, fun hpulse => ?_, reply_answered ..⟩
    · rw [(reply_replies ..).fault]
      exact Dev.holdLevel_fault_hold ..
    · rw [(reply_replies ..).fault]
      exact Dev.holdLevel_low hpulse
  · refine completes_ok (exec_faultNPulseEnd s) ?_
    rw [Dev.pulseEnd, if_pos hp, Dev.faultN_fault]
    exact ⟨rfl, rfl, fun ht hb => by simp [ht, hb]⟩
  · exact completes_ok (exec_faultNPulseEnd s) (if_neg (by simp [hp]))
  · obtain ⟨hnew, hcount⟩ := Source.counted_open (window := window) (threshold := threshold) (now := now) hfresh hcls ho
    exact ⟨by rw [hnew, hmade, hhard]; rfl, hcount⟩
  · rw [(Source.counted_open hfresh hcls ho).1, hhard, Bool.true_or]
  · exact settles_ok (exec_faultReactionStart ..) ((Dev.reactionStart_first hawake hdue).trans (Dev.react_retired hret))
  · refine settles_ok (exec_faultReactionStart ..) ?_
    rw [Dev.reactionStart_first hawake hdue]
    rw [hn] at hin ⊢
    rw [Dev.react_core (d := { s.dev with fault.due := rest }) hc hin]
    exact Dev.reactCore_retires (d := { s.dev with fault.due := rest }) hst
  · refine settles_ok (exec_faultReactionStart ..) ?_
    rw [Dev.reactionStart_first hawake hdue]
    rw [hn] at hin ⊢
    rw [Dev.react_tether (d := { s.dev with fault.due := rest }) hp hin]
    exact Dev.reactTether_holds ..
  · exact completes_ok (exec_coreException ..) (Dev.restartCore_restarts _ _ hup)
  · exact completes_ok (exec_coreException ..) (if_pos (by simp [hup]))
  · obtain ⟨hst, hcode, -⟩ := Dev.restartCore_restarts (d := (s.dev.free 72).2) 1 (s.dev.free 72).1.toNat hup
    exact completes_ok (exec_coreHeartbeatLoss ..) ⟨hst, hcode⟩
  · exact completes_ok (exec_coreRestartDone ..) (Dev.restartDone_good hst)
  · exact completes_ok (exec_coreRestartDone ..) (Dev.restartDone_bad hst)
  · obtain ⟨hrow, hcode⟩ := s.dev.sramError_corrected part.val word.toNat b.toNat
    refine settles_ok (exec_sramError ..) ⟨hrow, hcode.trans ?_⟩
    by_cases h : part.val = 3 ∧ b.toNat = 255
    · rw [if_pos h, if_pos (by simp [h])]
      rfl
    · rw [if_neg h, if_neg (by simpa using h)]
      rfl
  · refine settles_ok (exec_sramError ..) ?_
    rw [Dev.sramError, if_neg Bool.false_ne_true, if_pos h]
  · refine settles_ok (exec_sramError ..) ?_
    rw [Dev.sramError, if_neg Bool.false_ne_true, if_neg (by omega), if_pos h]
  · refine settles_ok (exec_sramError ..) ?_
    rw [Dev.sramError, if_neg Bool.false_ne_true, if_neg h3, if_neg h13]
  · refine settles_ok (exec_laneLossOfLock ..) ?_
    rw [Dev.lossOfLock, if_neg (by simp [hres]), if_neg (by simp [ha])]
    exact if_pos hp
  · refine settles_ok (exec_laneLossOfLock ..) ?_
    rw [Dev.lossOfLock, if_neg (by simp [hres]), if_neg (by simp [ha])]
    exact if_neg (by omega)
  · refine settles_ok (exec_laneLossOfLock ..) ?_
    rw [Dev.lossOfLock, if_neg (by simp [hres]), if_pos (by simp [ha])]
  · exact completes_ok (exec_laneFecSymbolCount ..) (if_pos ha)
  · exact completes_ok (exec_laneFecSymbolCount ..) (if_neg (by simp [ha]))

end Sys2Proof.Machine
end

section
/-! Firmware images: read, transferred, activated (spec/12 R350, R351; spec/17 R463, R464). -/

namespace Sys2Proof.Machine

open Sys2Proof Sys2Proof.Laws

section
variable (s : State)

theorem exec_getFwInfo (iss : Issuer) (inp : List Byte) :
    exec (.getFwInfo iss inp) s = ok (s.dev.command iss 0x200 fun d => d.fwInfo iss inp) s := rfl
theorem exec_transferFw (iss : Issuer) (inp : List Byte) :
    exec (.transferFw iss inp) s = ok (s.dev.command iss 0x201 fun d => d.transferFw iss inp) s := rfl
theorem exec_activateFw (iss : Issuer) (inp : List Byte) :
    exec (.activateFw iss inp) s = ok (s.dev.command iss 0x202 fun d => d.activateFw iss inp) s := rfl
theorem exec_fwPairHandover (good : Bool) : exec (.fwPairHandover good) s = ok (s.dev.pairHandover good) s := rfl

end

section
variable {d : Dev} {iss : Issuer} {inp : List Byte}

theorem Dev.fwInfo_answers (h : inp = []) : d.fwInfo iss inp = d.answerStd iss .success
    ([2, BitVec.ofNat 8 (d.flash.running + 1 + 8 * (if d.activeSlot = d.flash.running then 0 else d.activeSlot + 1)), 1] ++ zeros 13 ++
      leBytes 16 (if (d.image 0).isEmpty then 0 else imageVersion (d.image 0)) ++
      leBytes 16 (if (d.image 1).isEmpty then 0 else imageVersion (d.image 1)) ++ zeros 32) :=
  if_neg (by simp [h])

theorem Dev.transferFw_whole (hlen : 128 ≤ inp.length) (hmax : inp.length ≤ 128 + slotBytes) (hr1 : rsvd inp 2 2 = true) (hr2 : rsvd inp 8 120 = true)
    (ha : field inp 0 1 = 0) (hx : d.flash.xfer = none) (hslot : field inp 1 1 = 1 ∨ field inp 1 1 = 2) (hrun : field inp 1 1 ≠ d.flash.running + 1) :
    d.transferFw iss inp =
      ({ d with flash.slots := d.flash.slots.put (field inp 1 1 - 1) (inp.drop 128), flash.xfer := none } : Dev).answerStd iss .success [] := by
  unfold Dev.transferFw
  rw [ha, hx]
  extract_lets action slot off data end_ badSlot write
  have hbad : badSlot = false := by simp only [badSlot, slot]; simp [hrun]; omega
  rw [if_neg (by omega), if_neg (by simp [hr1, hr2]), hbad]
  rw [if_neg Bool.false_ne_true, if_neg (by simp [data]; omega)]
  rfl

/-! ### Activate FW -/

/-- What an image must be to be activated: its checks pass, and it implements the settings held (R350). -/
def Dev.activatable (d : Dev) (img : List Byte) : Prop := imageFails img = none ∧ ∀ id ∈ d.settingsHeld, Config.implements img id = true

theorem Dev.loadBank_later {action : Nat} (h : action ≠ 0) (img : List Byte) : d.loadBank action img = d := if_neg h

theorem Dev.activateFw_badLength (h : inp.length ≠ 2) : d.activateFw iss inp = d.answerStd iss .invalidLength [] := if_pos h

theorem Dev.activateFw_badAction (hlen : inp.length = 2) (h : 1 < field inp 0 1) : d.activateFw iss inp = d.answerStd iss .invalidInput [] := by
  unfold Dev.activateFw
  extract_lets action slot img
  rw [if_neg (by simp [hlen]), if_pos h]

theorem Dev.activateFw_badSlot (hlen : inp.length = 2) (ha : field inp 0 1 ≤ 1) (h1 : field inp 1 1 ≠ 1) (h2 : field inp 1 1 ≠ 2) :
    d.activateFw iss inp = d.answerStd iss .invalidSlot [] := by
  unfold Dev.activateFw
  extract_lets action slot img
  rw [if_neg (by simp [hlen]), if_neg (by omega), if_pos (by simp [slot, h1, h2])]

section
variable (hlen : inp.length = 2) (ha : field inp 0 1 ≤ 1) (hslot : field inp 1 1 = 1 ∨ field inp 1 1 = 2) (hboot : d.boot = .running)
  (hup : 7 < d.coresUp) (hc : d.cinchPending = false) (hact : d.flash.act = none) (hbg : d.bgBusy iss = false)
include hlen ha hslot hboot hup hc hact hbg

/-- An image that may be activated now is loaded, and judged (R350). -/
theorem Dev.activateFw_judges : d.activateFw iss inp =
    if imageFails (d.image (field inp 1 1 - 1)) ≠ none || !(d.settingsHeld.all fun id => Config.implements (d.image (field inp 1 1 - 1)) id)
    then (d.loadBank (field inp 0 1) (d.image (field inp 1 1 - 1))).answerStd iss .invalidInput []
    else if field inp 0 1 = 1 then ((d.loadBank (field inp 0 1) (d.image (field inp 1 1 - 1))).writeBlock (field inp 1 1 - 1)).answerStd iss .success []
    else { d.loadBank (field inp 0 1) (d.image (field inp 1 1 - 1)) with
      flash.act := some { slot := field inp 1 1 - 1, bank := 1 - (d.loadBank (field inp 0 1) (d.image (field inp 1 1 - 1))).flash.bank,
                          box := issuerBox iss } }.startBg iss 0x202 := by
  unfold Dev.activateFw
  extract_lets action slot img e
  have hheld : e.settingsHeld = d.settingsHeld := by
    unfold e Dev.loadBank
    split
    · rfl
    · rfl
  rw [if_neg (by simp [hlen]), if_neg (by omega), if_neg (by simp [slot]; omega), if_neg (by simp [hboot]), if_neg (by omega),
    if_neg (by simp [hc, hact, hbg]), hheld]

theorem Dev.activateFw_bad (h : ¬d.activatable (d.image (field inp 1 1 - 1))) :
    d.activateFw iss inp = (d.loadBank (field inp 0 1) (d.image (field inp 1 1 - 1))).answerStd iss .invalidInput [] := by
  rw [Dev.activateFw_judges hlen ha hslot hboot hup hc hact hbg]
  refine if_pos ?_
  simpa [Dev.activatable, Decidable.imp_iff_not_or] using h

theorem Dev.activateFw_good (h : d.activatable (d.image (field inp 1 1 - 1))) : d.activateFw iss inp =
    if field inp 0 1 = 1 then ((d.loadBank (field inp 0 1) (d.image (field inp 1 1 - 1))).writeBlock (field inp 1 1 - 1)).answerStd iss .success []
    else { d.loadBank (field inp 0 1) (d.image (field inp 1 1 - 1)) with
      flash.act := some { slot := field inp 1 1 - 1, bank := 1 - (d.loadBank (field inp 0 1) (d.image (field inp 1 1 - 1))).flash.bank,
                          box := issuerBox iss } }.startBg iss 0x202 := by
  obtain ⟨hfails, himpl⟩ := h
  rw [Dev.activateFw_judges hlen ha hslot hboot hup hc hact hbg]
  refine if_neg ?_
  simpa [hfails] using himpl

end

end

/-! ### The hand-over of pairs (R350, R351) -/

/-- The flash part of a device whose activation has been given up (R351). -/
theorem Dev.abandonActivation_flash {d : Dev} {a : Activation} (h : d.flash.act = some a) :
    d.abandonActivation.flash = { d.flash with act := none } := by
  unfold Dev.abandonActivation
  rw [h]
  obtain ⟨cores, hcores⟩ := ({ d with flash.act := none } : Dev).coresTo_eq d.flash.bank
  dsimp -zeta only
  rw [hcores]
  obtain ⟨boxes, hsig⟩ := endBgRet_signals { ({ d with flash.act := none } : Dev) with fault.cores := cores } a.box .activationFailed
    Status.activateFailed.code []
  exact hsig.flash

/-- A device whose pair of cores runs from a bank. -/
def Dev.pairTo (d : Dev) (pair bank : Nat) : Dev :=
  each [2 * pair, 2 * pair + 1] d fun d c => d.setCore c { d.core c with bank := bank }

theorem Dev.pairTo_cores (d : Dev) (pair bank : Nat) : ((d.pairTo pair bank).core (2 * pair)).bank = bank ∧
    ((d.pairTo pair bank).core (2 * pair + 1)).bank = bank := by
  constructor
  · exact (congrArg Core.bank (Dev.core_setCore_ne _ _ _ _ (by omega))).trans (congrArg Core.bank (Dev.core_setCore_self ..))
  · exact congrArg Core.bank (Dev.core_setCore_self ..)

section
variable {d : Dev} {a : Activation} (hact : d.flash.act = some a) (hawake : d.awake = true)
include hact hawake

theorem Dev.pairHandover_next (h : a.pair < 7) :
    d.pairHandover true = { d.pairTo a.pair a.bank with flash.act := some { a with pair := a.pair + 1 } } := by
  unfold Dev.pairHandover
  rw [hact]
  dsimp -zeta only
  rw [if_neg (by simp [hawake]), if_neg (by simp)]
  exact if_pos h

theorem Dev.pairHandover_last (h : 7 ≤ a.pair) : (d.pairHandover true).flash.act = none ∧ (d.pairHandover true).flash.running = a.slot ∧
    (d.pairHandover true).flash.bank = a.bank := by
  unfold Dev.pairHandover
  rw [hact]
  dsimp -zeta only
  rw [if_neg (by simp [hawake]), if_neg (by simp)]
  extract_lets e flash f
  rw [if_neg (by omega)]
  obtain ⟨boxes, hsig⟩ := endBgRet_signals (f.writeBlock a.slot) a.box .success 0 []
  rw [hsig.flash]
  exact ⟨rfl, rfl, rfl⟩

theorem Dev.pairHandover_fails : d.pairHandover false = d.abandonActivation := by
  unfold Dev.pairHandover
  rw [hact]
  dsimp -zeta only
  rw [if_neg (by simp [hawake])]
  rfl

end

/-- Settles O44: an image by the answers of its commands, an activation by what each pair's hand-over leaves. -/
theorem firmwareUpdate : Obligations.FirmwareUpdate := by
  refine ⟨fun s iss inp htakes => ⟨fun hinp => ?_, fun hlen hmax hr1 hr2 ha hx hslot hrun => ?_,
    fun hlen ha hslot hup hc hact hbg => ⟨fun h1 hgood => ?_, fun h1 hbad => ?_, fun h0 hgood => ?_, fun h0 hbad => ?_⟩,
    fun hlen => ?_, fun hlen ha => ?_, fun hlen ha h1 h2 => ?_⟩,
    fun s a hact hawake => ⟨fun h => ?_, fun h => ?_, ?_⟩⟩
  · exact completes_of_takes htakes (exec_getFwInfo s iss inp) (Dev.fwInfo_answers hinp ▸ answerStd_replies ..)
  · refine completes_of_takes htakes (exec_transferFw s iss inp) ?_
    rw [Dev.transferFw_whole hlen hmax hr1 hr2 ha hx hslot hrun]
    exact answerStd_replies ..
  · refine completes_of_takes htakes (exec_activateFw s iss inp) ?_
    rw [Dev.activateFw_good hlen ha hslot (by simp [htakes.1]) hup hc hact hbg hgood, if_pos h1, Dev.loadBank_later (by omega)]
    exact answerStd_replies ..
  · refine completes_of_takes htakes (exec_activateFw s iss inp) ?_
    rw [Dev.activateFw_bad hlen ha hslot (by simp [htakes.1]) hup hc hact hbg hbad, Dev.loadBank_later (by omega)]
    exact answerStd_replies ..
  · refine completes_of_takes htakes (exec_activateFw s iss inp) ?_
    rw [Dev.activateFw_good hlen ha hslot (by simp [htakes.1]) hup hc hact hbg hgood, if_neg (by omega), h0]
    rfl
  · refine completes_of_takes htakes (exec_activateFw s iss inp) ?_
    rw [Dev.activateFw_bad hlen ha hslot (by simp [htakes.1]) hup hc hact hbg hbad, h0]
    exact answerStd_replies ..
  · refine completes_of_takes htakes (exec_activateFw s iss inp) ?_
    rw [Dev.activateFw_badLength hlen]
    exact answerStd_replies ..
  · refine completes_of_takes htakes (exec_activateFw s iss inp) ?_
    rw [Dev.activateFw_badAction hlen ha]
    exact answerStd_replies ..
  · refine completes_of_takes htakes (exec_activateFw s iss inp) ?_
    rw [Dev.activateFw_badSlot hlen ha h1 h2]
    exact answerStd_replies ..
  · refine completes_ok (exec_fwPairHandover ..) ?_
    rw [Dev.pairHandover_next hact hawake h]
    exact ⟨rfl, (Dev.pairTo_cores ..).1, (Dev.pairTo_cores ..).2, rfl⟩
  · exact completes_ok (exec_fwPairHandover ..) (Dev.pairHandover_last hact hawake h)
  · refine completes_ok (exec_fwPairHandover ..) ?_
    rw [Dev.pairHandover_fails hact hawake, Dev.abandonActivation_flash hact]
    exact ⟨rfl, rfl, rfl⟩

end Sys2Proof.Machine
end

section
/-! Diagnostics, topology reports and CDAT (spec/13 R378, R379, R386, R387; spec/09 R265; spec/12 R333 to R335). -/

namespace Sys2Proof.Machine

open Sys2Proof Sys2Proof.Laws

section
variable (s : State)

theorem exec_tetherPort (iss : Issuer) (inp : List Byte) :
    exec (.tetherPort iss inp) s = ok (s.dev.command iss 0xC500 fun d => d.tetherPort iss inp) s := rfl
theorem exec_tetherChain (iss : Issuer) (inp : List Byte) :
    exec (.tetherChain iss inp) s = ok (s.dev.command iss 0xC501 fun d => d.tetherChain iss inp) s := rfl
theorem exec_diagUnlock (iss : Issuer) (inp : List Byte) :
    exec (.diagUnlock iss inp) s = ok (s.dev.command iss 0xCE00 fun d => d.diagUnlock iss inp) s := rfl
theorem exec_unsupportedOpcode (iss : Issuer) (op : BitVec 16) (inp : List Byte) : exec (.unsupportedOpcode iss op inp) s =
    ok (if opcodes.contains op.toNat then s.dev else s.dev.command iss op.toNat fun d => d.unknownOpcode iss op.toNat) s := rfl
theorem exec_unsupportedOpcode_unknown (iss : Issuer) {op : BitVec 16} (inp : List Byte) (h : opcodes.contains op.toNat = false) :
    exec (.unsupportedOpcode iss op inp) s = ok (s.dev.command iss op.toNat fun d => d.unknownOpcode iss op.toNat) s := by
  rw [exec_unsupportedOpcode, h, if_neg Bool.false_ne_true]
theorem exec_diagUnlockExpiry : exec .diagUnlockExpiry s = ok s.dev.diagExpires s := rfl
theorem exec_doeCdatRead (ld : Fin 32) (n : Nat) : exec (.doeCdatRead ld n) s = ok (s.dev.cdatRead ld.val n) s := rfl

end

/-- Diagnostics opened for a duration (R386). -/
def Dev.opened (d : Dev) (n : Nat) : Dev := { d with host.diagUntil := some (d.clk.bnd + n * 4096) }.raiseAlways 0x11C .warning none n

section
variable {d : Dev} {iss : Issuer} {inp : List Byte}

theorem Dev.diagUnlock_opens (hlen : inp.length = 8) (hmc : issuerMc iss = true) {x : BitVec 32} (hx : d.host.mcSession = some x)
    (h0 : field inp 0 2 ≠ 0) (hr : rsvd inp 2 6 = true) : d.diagUnlock iss inp = (d.opened (field inp 0 2)).reply iss .success (zeros 6) := by
  unfold Dev.diagUnlock
  extract_lets n
  rw [if_neg (by simp [hlen]), if_neg (by simp [hmc]), if_neg (by simp [hx]), if_neg (by simp [hr, n, h0])]
  rfl

theorem Dev.unknownOpcode_own {op : Nat} (h1 : 0xC000 ≤ op) (h2 : op ≤ 0xCFFF) : d.unknownOpcode iss op = d.reply iss .unsupported (zeros 6) :=
  if_pos (by simp [h1, h2])

theorem Dev.unknownOpcode_standard {op : Nat} (h : op < 0xC000 ∨ 0xCFFF < op) : d.unknownOpcode iss op = d.answerStd iss .unsupported [] :=
  if_neg (by simp; omega)

theorem Dev.diagLock_locks (h : inp = []) : d.diagLock iss inp =
    ({ d with host.diagUntil := none } : Dev).reply iss .success (zeros 6) d.host.diagUntil.isNone := by
  unfold Dev.diagLock
  rw [if_neg (by simp [h]), Dev.unlocked, Option.not_isSome]

end

theorem Dev.opened_frame (d : Dev) (n : Nat) : (d.opened n).host.diagUntil = some (d.clk.bnd + n * 4096) ∧ (d.opened n).line = d.line := by
  have h : Signals { d with host.diagUntil := some (d.clk.bnd + n * 4096) } (d.opened n) := signals_record ..
  exact ⟨signals_diagUntil h, h.line⟩

theorem reply_diagUntil (d : Dev) (iss : Issuer) (st : Status) (body : List Byte) (nw : Bool) :
    (d.reply iss st body nw).host.diagUntil = d.host.diagUntil := by
  obtain ⟨b, h⟩ := reply_signals d iss st body nw
  obtain ⟨_, _, _, h, _⟩ := h
  rw [h]

theorem Dev.diagExpires_of {d : Dev} {b : Nat} (h : d.host.diagUntil = some b) :
    d.diagExpires = if b ≤ d.clk.bnd then { d with host.diagUntil := none } else d := by
  unfold Dev.diagExpires
  rw [h]

/-- An entry of an LD's CDAT goes out behind the number of the next (R265). -/
theorem Dev.cdatRead_says {d : Dev} {ld n : Nat} {e : List Nat} (hl : (d.ldLink ld).isSome = true)
    (ht : ((d.free 16).2.cdatTable ld (d.free 16).1.toNat)[n]? = some e) :
    .cdat ((if n + 1 < ((d.free 16).2.cdatTable ld (d.free 16).1.toNat).length then n + 1 else 65535) :: e) ∈ (d.cdatRead ld n).out ∧
      (n = 0 → ((d.cdatRead ld n).ld ld).cdatChanged = false) ∧ (d.cdatRead ld n).line = d.line := by
  unfold Dev.cdatRead
  rw [if_neg (by simpa [Option.isSome_iff_ne_none] using hl)]
  dsimp -zeta only
  extract_lets t f
  rw [show t[n]? = some e from ht]
  dsimp -zeta only
  refine ⟨List.mem_append_right _ List.mem_cons_self, fun h => ?_, ?_⟩
  · have hf : f = (d.free 16).2.modLd ld fun x => { x with cdatChanged := false } := if_pos h
    show (f.ld ld).cdatChanged = false
    rw [hf, Dev.ld_modLd_self]
  · have hf : f.line = d.line := by
      unfold f
      split
      · rfl
      · rfl
    exact hf

/-- Settles O45: each command by its answer, the expiry and the CDAT read by their equations. -/
theorem diagnosticsTopologyAndCdat : Obligations.DiagnosticsTopologyAndCdat := by
  refine ⟨fun s iss inp htakes => ⟨fun hlen hp hr => ?_, fun hinp => ?_, fun x hlen hmc hx h0 hr => ?_, fun hinp => ?_,
    fun op hop => ⟨fun h1 h2 => ?_, fun h => ?_⟩⟩,
    fun s b hb => ⟨fun h => ?_, fun h => ?_⟩, fun s ld n e hl ht => ?_⟩
  · refine completes_of_takes htakes (exec_tetherPort s iss inp) ?_
    rw [Dev.tetherPort, if_neg (by simp [hlen]), if_neg (by simp [hr]; omega)]
    exact reply_replies ..
  · refine completes_of_takes htakes (exec_tetherChain s iss inp) ?_
    rw [Dev.tetherChain, if_neg (by simp [hinp])]
    exact reply_replies ..
  · refine completes_of_takes htakes (exec_diagUnlock s iss inp) ?_
    rw [Dev.diagUnlock_opens hlen hmc hx h0 hr]
    obtain ⟨huntil, hline⟩ := (s.dev.doorbell (mailDoorbell iss)).opened_frame (field inp 0 2)
    exact ⟨reply_answered .., (reply_diagUntil ..).trans huntil, (Dev.reply_line ..).trans hline⟩
  · refine completes_of_takes htakes (exec_diagLock iss inp s) ?_
    rw [Dev.diagLock_locks hinp]
    exact reply_replies ..
  · refine completes_of_takes htakes (exec_unsupportedOpcode_unknown s iss inp hop) ?_
    rw [Dev.unknownOpcode_own h1 h2]
    exact reply_replies ..
  · refine completes_of_takes htakes (exec_unsupportedOpcode_unknown s iss inp hop) ?_
    rw [Dev.unknownOpcode_standard h]
    exact answerStd_replies ..
  · exact completes_ok (exec_diagUnlockExpiry s) ((Dev.diagExpires_of hb).trans (if_pos h))
  · exact completes_ok (exec_diagUnlockExpiry s) ((Dev.diagExpires_of hb).trans (if_neg (by omega)))
  · exact completes_ok (exec_doeCdatRead ..) (Dev.cdatRead_says hl ht)

end Sys2Proof.Machine
end

section
/-! Glint scans and margining (spec/10 R285 to R291). -/

namespace Sys2Proof.Machine

open Sys2Proof Sys2Proof.Laws

section
variable (s : State)

theorem exec_glintStart (iss : Issuer) (inp : List Byte) :
    exec (.glintStart iss inp) s = ok (s.dev.command iss 0xCE20 fun d => d.glintStart iss inp) s := rfl
theorem exec_glintResult (iss : Issuer) (inp : List Byte) :
    exec (.glintResult iss inp) s = ok (s.dev.command iss 0xCE21 fun d => d.glintResult iss inp) s := rfl
theorem exec_glintPointDone (dis : BitVec 32) : exec (.glintPointDone dis) s = ok (s.dev.pointDone dis.toNat) s := rfl
theorem exec_laneMarginingCommand (l : Lane) (start : Bool) :
    exec (.laneMarginingCommand l start) s = ok (s.dev.margining (laneOf l).1 (laneOf l).2 start) s := rfl
theorem exec_glintPeriodicScan (l : Lane) (eyes : List EyeMargins) :
    exec (.glintPeriodicScan l eyes) s = ok (s.dev.periodicScan (laneOf l).1 (laneOf l).2 eyes).flow s := rfl

end

/-! ### GLINT.START and GLINT.RESULT -/

/-- The scan that GLINT.START begins: its step is a free value (R287, log 11). -/
def Dev.scanOf (d : Dev) (iss : Issuer) (inp : List Byte) : Scan :=
  { port := field inp 0 1, lane := field inp 1 1, mode := field inp 2 1, dwell := field inp 3 1, mask := field inp 4 1, box := some (issuerBox iss)
    rate := (d.free 16).2.laneRate (field inp 0 1) (field inp 1 1), width := (d.free 16).2.laneWidth (field inp 0 1) (field inp 1 1)
    nrz := nrzRate ((d.free 16).2.laneRate (field inp 0 1) (field inp 1 1)), start := (d.free 16).2.clk.beat, step := (d.free 16).1
    paused := (d.free 16).2.glint.margin.contains (laneSrc (field inp 0 1) (field inp 1 1)), todo := [0, 1, 2].filter (bit (field inp 4 1)) }

section
variable {d : Dev} {iss : Issuer} {inp : List Byte} (hlen : inp.length = 8)
include hlen

theorem Dev.glintStart_taken (hport : field inp 0 1 ≤ 4) (hlane : field inp 1 1 ≤ if field inp 0 1 < 2 then 15 else 7) (hmode : field inp 2 1 ≤ 1)
    (hd1 : 10 ≤ field inp 3 1) (hd2 : field inp 3 1 ≤ 30) (hmask : field inp 4 1 ≤ 7) (hr : rsvd inp 5 3 = true) (hbg : d.bgBusy iss = false)
    (hscan : d.scanning = false) (ha : d.laneActive (field inp 0 1) (field inp 1 1) = true)
    (hnrz : nrzRate (d.laneRate (field inp 0 1) (field inp 1 1)) = true → field inp 4 1 = 0 ∨ field inp 4 1 = 2) :
    d.glintStart iss inp = if field inp 4 1 = 0 then d.reply iss .success (zeros 6) true
      else ({ (d.free 16).2 with glint.scan := some (d.scanOf iss inp) } : Dev).startBg iss 0xCE20 := by
  have hn : ¬(nrzRate (d.laneRate (field inp 0 1) (field inp 1 1)) && field inp 4 1 % 2 + field inp 4 1 / 4 ≠ 0) = true := by
    intro h
    rw [Bool.and_eq_true, decide_eq_true_eq] at h
    rcases hnrz h.1 with h0 | h2
    · exact h.2 (by rw [h0])
    · exact h.2 (by rw [h2])
  unfold Dev.glintStart
  extract_lets port lane mode dwell mask
  have hin : ¬(4 < port || (if port < 2 then 15 else 7) < lane || 1 < mode || dwell < 10 || 30 < dwell || 7 < mask || !rsvd inp 5 3) = true := by
    simp only [Bool.or_eq_true, decide_eq_true_eq, not_or, hr, Bool.not_true, Bool.false_eq_true, not_false_eq_true, and_true, Nat.not_lt]
    exact ⟨⟨⟨⟨⟨hport, hlane⟩, hmode⟩, hd1⟩, hd2⟩, hmask⟩
  rw [if_neg (by simp [hlen]), if_neg hin, if_neg (by simp [hbg]), if_neg (by simp [hscan]), if_neg (by simp [port, lane, ha]), if_neg hn]
  rfl

theorem Dev.glintResult_reads (heye : field inp 0 1 ≤ 2) (hr : rsvd inp 1 7 = true) {x : Scan} {e : EyeScan} (hx : d.glint.scan = some x)
    (he : x.eyes.look (field inp 0 1) = some e) (hdis : e.disagree < 2 ^ 32) : d.glintResult iss inp = d.reply iss .success
      ([BitVec.ofNat 8 x.port, BitVec.ofNat 8 x.lane, BitVec.ofNat 8 x.mode, BitVec.ofNat 8 x.dwell, BitVec.ofNat 8 (field inp 0 1),
        BitVec.ofNat 8 (flag x.complete + 2 * flag x.paused + 4 * flag x.ended + 8 * flag x.nrz), BitVec.ofNat 8 x.rate, BitVec.ofNat 8 x.width] ++
        leBytes 2 x.step.toNat ++ [BitVec.ofNat 8 e.left, BitVec.ofNat 8 e.right, BitVec.ofNat 8 e.up, BitVec.ofNat 8 e.down] ++
        leBytes 4 e.disagree ++ leBytes 2 e.points ++ leBytes 6 x.start.toNat ++ zeros 4 ++
        (if x.mode = 0 then (List.range 4096).flatMap fun i => leBytes 2 (e.grid.val i 0) else [])) := by
  unfold Dev.glintResult
  extract_lets eye
  rw [if_neg (by simp [hlen]), if_neg (by simp [hr, eye]; omega), hx]
  dsimp -zeta only
  rw [show x.eyes.look eye = some e from he]
  dsimp -zeta only
  rw [if_pos hdis, show (BitVec.ofNat 32 e.disagree, d) = (BitVec.ofNat 32 e.disagree, d) from rfl]
  have hnat : (BitVec.ofNat 32 e.disagree).toNat = e.disagree := by rw [BitVec.toNat_ofNat, Nat.mod_eq_of_lt hdis]
  dsimp only
  rw [hnat]

end

/-! ### Points -/

/-- A scan after a point of an eye: the eye's next place, or the next eye's first (R287). -/
def Scan.stepped (x : Scan) (eye : Nat) (rest : List Nat) (r : EyeScan × Nat × Bool) (complete : Bool) : Scan :=
  { x with eyes := x.eyes.put eye r.1, at_ := if r.2.2 then 0 else r.2.1, todo := if r.2.2 then rest else x.todo, complete := complete }

theorem Scan.stepped_on {r : EyeScan × Nat × Bool} (h : r.2.2 = false) (x : Scan) (eye : Nat) (rest : List Nat) (complete : Bool) :
    x.stepped eye rest r complete = { x with eyes := x.eyes.put eye r.1, at_ := r.2.1, complete := complete } := by
  rw [Scan.stepped, h]
  rfl

theorem Scan.stepped_done {r : EyeScan × Nat × Bool} (h : r.2.2 = true) (x : Scan) (eye : Nat) (rest : List Nat) (complete : Bool) :
    x.stepped eye rest r complete = { x with eyes := x.eyes.put eye r.1, at_ := 0, todo := rest, complete := complete } := by
  rw [Scan.stepped, h]
  rfl

section
variable {d : Dev} {x : Scan} {eye : Nat} {rest : List Nat} (hx : d.glint.scan = some x)
include hx

theorem Dev.pointDone_waits (hm : d.glint.margin.contains (laneSrc x.port x.lane) = true) (dis : Nat) : d.pointDone dis = d := by
  unfold Dev.pointDone
  rw [hx]
  dsimp -zeta only
  rw [hm, Bool.not_true, Bool.and_false, if_neg Bool.false_ne_true]

/-- A point that is done adds to its eye; an eye that is done makes place for the next, or ends the scan (R287, R288). -/
theorem Dev.pointDone_adds (hbox : x.box.isSome = true) (htodo : x.todo = eye :: rest)
    (hm : d.glint.margin.contains (laneSrc x.port x.lane) = false) {dis : Nat} {r : EyeScan × Nat × Bool}
    (hp : (x.eyes.val eye {}).point x.mode x.at_ dis = r) : d.pointDone dis =
      if r.2.2 && rest.isEmpty then d.endScan (x.stepped eye rest r true) else { d with glint.scan := some (x.stepped eye rest r x.complete) } := by
  unfold Dev.pointDone
  rw [hx]
  dsimp -zeta only
  rw [hm, hbox, Bool.not_false, Bool.and_self, if_pos rfl, htodo]
  dsimp -zeta only
  rw [hp, Scan.stepped, Scan.stepped, htodo]

end

/-! ### Margining and periodic scans -/

section
variable {d : Dev} {port lane : Nat} {eyes : List EyeMargins} (hawake : d.awake = true) (hper : d.setting idGlintPeriod 0 ≠ 0)
  (hm : d.glint.margin.contains (laneSrc port lane) = false) (hscan : d.glint.scan = none) (ha : d.laneActive port lane = true)
include hawake hper hm hscan ha

/-- An eye is too narrow or too low (R290). -/
def Dev.eyeBad (d : Dev) (e : EyeMargins) : Bool :=
  e.left + e.right < d.setting idGlintMinWidth 0 || e.up + e.down < d.setting idGlintMinHeight 0

theorem Dev.periodicScan_good (h : eyes.any d.eyeBad = false) :
    d.periodicScan port lane eyes = { d with glint.fails := d.glint.fails.del (laneSrc port lane) } := by
  unfold Dev.periodicScan
  extract_lets n held bad k
  have hheld : held = false := by simp only [held, n, hm, hscan, Bool.or_self]
  have hk : k = 0 := if_neg (by rw [show eyes.any bad = false from h]; exact Bool.false_ne_true)
  rw [if_neg (by simp [hawake, hper, hheld, ha])]
  clear_value k
  subst hk
  rfl

theorem Dev.periodicScan_third (h : eyes.any d.eyeBad = true) (h2 : d.glint.fails.val (laneSrc port lane) 0 = 2)
    (hin : (d.source (laneSrc port lane)).retired = false) : d.periodicScan port lane eyes =
      ({ d with glint.fails := d.glint.fails.del (laneSrc port lane) } : Dev).reactLane (laneSrc port lane) := by
  unfold Dev.periodicScan
  extract_lets n held bad k
  have hheld : held = false := by simp only [held, n, hm, hscan, Bool.or_self]
  have hk : k = 3 := (if_pos h).trans (by rw [show d.glint.fails.val n 0 = 2 from h2])
  rw [if_neg (by simp [hawake, hper, hheld, ha])]
  clear_value k
  subst hk
  exact if_neg (by simp only [Nat.lt_irrefl, decide_false, Bool.false_or]; exact ne_true_of_eq_false hin)

end

/-- Settles O46: a scan by its start, its answer and each of its points; margining and the periodic scan by their equations. -/
theorem glintScans : Obligations.GlintScans := by
  refine ⟨fun s iss inp htakes => ⟨fun hlen hport hlane hmode hd1 hd2 hmask hr hbg hscan ha hnrz => ⟨fun h0 => ?_, fun h0 => ?_⟩,
    fun x e hlen heye hr hx he hdis => ?_⟩,
    fun s x eye rest dis hx hbox htodo => ⟨fun hm => ?_, fun hm hdone => ?_, fun hm hdone hrest => ?_, fun hm hdone hrest => ?_⟩,
    fun s l => ⟨fun hp ha hm => ?_, fun hp => ?_⟩, fun s l eyes hawake hper hm hscan ha => ⟨fun h => ?_, fun h h2 hin => ?_⟩⟩
  · refine completes_of_takes htakes (exec_glintStart s iss inp) ?_
    rw [Dev.glintStart_taken hlen hport hlane hmode hd1 hd2 hmask hr hbg hscan ha hnrz, if_pos h0]
    exact reply_replies ..
  · refine completes_of_takes htakes (exec_glintStart s iss inp) ?_
    rw [Dev.glintStart_taken hlen hport hlane hmode hd1 hd2 hmask hr hbg hscan ha hnrz, if_neg h0]
    exact ⟨_, rfl, rfl, rfl, rfl, rfl, rfl, rfl, rfl⟩
  · refine completes_of_takes htakes (exec_glintResult s iss inp) ?_
    rw [Dev.glintResult_reads hlen heye hr hx he hdis]
    exact reply_replies ..
  · exact completes_ok (exec_glintPointDone ..) (Dev.pointDone_waits hx hm _)
  · refine completes_ok (exec_glintPointDone ..) ?_
    rw [Dev.pointDone_adds hx hbox htodo hm rfl, Scan.stepped_on hdone, Scan.stepped_on hdone, hdone]
    rfl
  · refine completes_ok (exec_glintPointDone ..) ?_
    rw [Dev.pointDone_adds hx hbox htodo hm rfl, Scan.stepped_done hdone, Scan.stepped_done hdone, if_neg (by simpa [hdone] using hrest)]
  · refine completes_ok (exec_glintPointDone ..) ?_
    subst hrest
    rw [Dev.pointDone_adds hx hbox htodo hm rfl, Scan.stepped_done hdone, if_pos (by simp [hdone])]
  · refine completes_ok (exec_laneMarginingCommand ..) ?_
    rw [Dev.margining, if_neg (by omega), if_neg (by simp), if_neg (by rw [ha, hm]; exact Bool.false_ne_true)]
    exact ⟨rfl, rfl⟩
  · refine completes_ok (exec_laneMarginingCommand ..) ?_
    exact (if_neg (by omega)).trans (if_pos rfl)
  · exact settles_ok (exec_glintPeriodicScan ..) (Dev.periodicScan_good hawake hper hm hscan ha h)
  · exact settles_ok (exec_glintPeriodicScan ..) (Dev.periodicScan_third hawake hper hm hscan ha h h2 hin)

end Sys2Proof.Machine
end

section
/-! The hitch channels, modules, training windows and their commands (spec/16 R429 to R440; spec/13 R382, R383). -/

namespace Sys2Proof.Machine

open Sys2Proof Sys2Proof.Laws

section
variable (s : State)

theorem exec_hitchLimitHeld (ch : Fin 17) (sense vout : BitVec 16) :
    exec (.hitchLimitHeld ch sense vout) s = ok (s.dev.limitHeld ch.val sense vout) s := rfl
theorem exec_hitchFastTrip (ch : Fin 17) (sense vout : BitVec 16) :
    exec (.hitchFastTrip ch sense vout) s = ok (s.dev.fastTrip ch.val sense vout) s := rfl
theorem exec_hitchRetryTimer (ch : Fin 17) : exec (.hitchRetryTimer ch) s = ok (s.dev.retryTimer ch.val) s := rfl
theorem exec_hitchOn60s (ch : Fin 17) : exec (.hitchOn60s ch) s = ok (s.dev.on60s ch.val) s := rfl
theorem exec_slotOutputGood (slot : Fin 16) : exec (.slotOutputGood slot) s =
    ok (if (s.dev.hchan slot.val).st = .ramping then s.dev.chanOn slot.val true else s.dev) s := rfl
theorem exec_slotRampTimeout (slot : Fin 16) : exec (.slotRampTimeout slot) s =
    ok (if (s.dev.hchan slot.val).st = .ramping then s.dev.trip slot.val 3 (s.dev.hchan slot.val).sense (s.dev.hchan slot.val).vout else s.dev) s := rfl
theorem exec_pmicPowerGood (slot : Fin 16) : exec (.pmicPowerGood slot) s = ok (s.dev.pmicGood slot.val) s := rfl
theorem exec_pmicTimeout (slot : Fin 16) : exec (.pmicTimeout slot) s = ok (s.dev.pmicLate slot.val) s := rfl
theorem exec_vinPgAssert : exec .vinPgAssert s = ok ({ s.dev with hitch.vinGood := true }.startInput) s := rfl
theorem exec_prechargeDone : exec .prechargeDone s =
    ok (if (s.dev.hchan inputCh).st = .ramping && s.dev.hitch.pre then s.dev.gateOn else s.dev) s := rfl
theorem exec_prechargeTimeout (a b : BitVec 16) : exec (.prechargeTimeout a b) s = ok (s.dev.prechargeLate a b) s := rfl
theorem exec_vinPreOff : exec .vinPreOff s = ok (if s.dev.hitch.gate then { s.dev with hitch.pre := false } else s.dev) s := rfl
theorem exec_fetDamaged (ch : Fin 17) (mv : BitVec 16) : exec (.fetDamaged ch mv) s = ok (s.dev.fetDamaged ch.val mv) s := rfl
theorem exec_moduleRemoved (slot : Fin 16) : exec (.moduleRemoved slot) s = ok (s.dev.moduleRemoved slot.val) s := rfl
theorem exec_moduleInserted (slot : Fin 16) (spd : Option Spd) : exec (.moduleInserted slot spd) s =
    ok (if s.dev.latchClosed slot.val && (s.dev.hchan slot.val).removed then s.dev.hubRead slot.val spd else s.dev) s := rfl
theorem exec_spdReadRetry (slot : Fin 16) (spd : Option Spd) : exec (.spdReadRetry slot spd) s =
    ok (if s.dev.latchClosed slot.val && (s.dev.hchan slot.val).spdWait then s.dev.hubRead slot.val spd else s.dev) s := rfl
theorem exec_moduleLost (slot : Fin 16) (k : LossCause) : exec (.moduleLost slot k) s =
    ok (if (s.dev.hchan slot.val).st ≠ .on && !(s.dev.servedOn slot.val).isEmpty then s.dev.dropModule slot.val k else s.dev) s := rfl
theorem exec_trainingWindowOpen (ch : Fin 8) : exec (.trainingWindowOpen ch) s = ok (s.dev.windowOpen ch.val) s := rfl
theorem exec_trainingWindowClose (ch : Fin 8) (good : Bool) : exec (.trainingWindowClose ch good) s = ok (s.dev.windowClose ch.val good) s := rfl
theorem exec_hitchStatus (iss : Issuer) (inp : List Byte) :
    exec (.hitchStatus iss inp) s = ok (s.dev.command iss 0xC700 fun d => d.hitchStatus iss inp) s := rfl
theorem exec_hitchSet (iss : Issuer) (inp : List Byte) :
    exec (.hitchSet iss inp) s = ok (s.dev.command iss 0xC701 fun d => d.hitchSet iss inp) s := rfl

end

/-- What a job that goes on, a record and a wake leave of the channels: each of them, the modules' media and the sources. -/
structure SameChans (d d' : Dev) : Prop where
  chans : d'.hitch.chans = d.hitch.chans
  line : d'.line = d.line
  src : d'.fault.src = d.fault.src

namespace SameChans

variable {a b d d' : Dev}

theorem refl (d : Dev) : SameChans d d := ⟨rfl, rfl, rfl⟩

theorem trans (h : SameChans a b) (g : SameChans b d) : SameChans a d := ⟨g.chans.trans h.chans, g.line.trans h.line, g.src.trans h.src⟩

theorem of_signals (h : Signals d d') : SameChans d d' := ⟨by rw [h.hitch], h.line, by rw [h.fault]⟩

theorem hchan (h : SameChans d d') (ch : Nat) : d'.hchan ch = d.hchan ch := by rw [Dev.hchan, h.chans]; rfl

theorem modJob (d : Dev) (n : Nat) (f : Job → Job) : SameChans d (d.modJob n f) := by
  unfold Dev.modJob
  split
  · exact ⟨rfl, rfl, rfl⟩
  · exact refl d

theorem failJob (d : Dev) (n : Nat) (st : Status) : SameChans d (d.failJob n st) := modJob ..

theorem nextPhase (d : Dev) (n : Nat) : SameChans d (d.nextPhase n) := by
  unfold Dev.nextPhase
  split
  · exact refl d
  · extract_lets j
    split
    · exact ⟨rfl, rfl, rfl⟩
    · split
      · exact ⟨rfl, rfl, rfl⟩
      · split
        · exact ⟨rfl, rfl, rfl⟩
        · exact ⟨rfl, rfl, rfl⟩

theorem dropModule (d : Dev) (slot : Nat) (cause : LossCause) : SameChans d (d.dropModule slot cause) := by
  unfold Dev.dropModule
  split
  · exact refl d
  · exact ⟨rfl, rfl, rfl⟩

theorem wakeEvent (d : Dev) (cause : Nat) (always : Bool) : SameChans d (d.wakeEvent cause always) := by
  obtain ⟨power, out, h⟩ := d.wakeEvent_eq cause always
  rw [h]
  exact ⟨rfl, rfl, rfl⟩

end SameChans

/-! ### Trips (R431, R432) -/

/-- A channel that has tripped: its retry counted, and its timer started, or it latched off (R431, R432). -/
def HChan.tripped (c : HChan) (latch : Bool) (bnd cause : Nat) (sense vout : BitVec 16) : HChan :=
  { c with
    cause := cause, sense := sense, vout := vout, good := false, onFrom := none, retries := min 255 (c.retries + 1)
    st := if latch then .latchedOff else .tripped
    timer := if latch then none else some (bnd + min (2 ^ c.retries) 8 * 4000000) }

/-- A trip beyond HitchRetries latches its channel off (R432). -/
def Dev.latches (d : Dev) (ch : Nat) : Bool := d.setting idHitchRetries ch < (d.hchan ch).retries + 1

theorem Dev.trip_trips {d : Dev} {ch : Nat} (cause : Nat) (sense vout : BitVec 16)
    (hst : (d.hchan ch).st = .on ∨ (d.hchan ch).st = .ramping ∨ (d.hchan ch).st = .off) :
    (d.trip ch cause sense vout).hchan ch = (d.hchan ch).tripped (d.latches ch) d.clk.bnd cause sense vout ∧
      (d.trip ch cause sense vout).line = d.line := by
  unfold Dev.trip
  extract_lets old counted stays k latch d1 hitch d2 d3 d4 d5 d6
  obtain ⟨f, -, -, -, hcounted⟩ := faultEvent_signals d (srcHitch ch) 1 (cause + sense.toNat * 2 ^ 8 + vout.toNat * 2 ^ 24) 0 0xFF false
  have hold : counted.hchan ch = d.hchan ch := by rw [Dev.hchan, hcounted.hitch]; rfl
  have hstays : stays = false := by
    have : old.st = .on ∨ old.st = .ramping ∨ old.st = .off := hst
    simp only [stays]
    rcases this with h | h | h <;> rw [h] <;> rfl
  have h1 : d1.hchan ch = (d.hchan ch).tripped (d.latches ch) d.clk.bnd cause sense vout := by
    rw [show d1 = counted.modHchan ch _ from rfl, Dev.hchan_modHchan_self, hold, hstays]
    simp [HChan.tripped, Dev.latches, latch, k, old]
  have h2 : SameChans d1 d2 := by
    simp only [d2]
    split
    · exact ⟨rfl, rfl, rfl⟩
    · exact .refl _
  have h3 : SameChans d1 d3 := h2.trans (.of_signals (signals_raise ..))
  have h4 : SameChans d1 d4 := by
    simp only [d4]
    split
    · exact h3.trans (.of_signals (signals_raise ..))
    · exact h3
  have h5 : SameChans d1 d5 := h4.trans (.wakeEvent ..)
  have h6 : SameChans d1 d6 := by
    simp only [d6]
    split
    · exact h5.trans (.dropModule ..)
    · exact h5
  have hline : d1.line = d.line := hcounted.line
  suffices h : SameChans d1 _ from ⟨(h.hchan ch).trans h1, h.line.trans hline⟩
  split
  · exact h5
  · split
    · split
      · split
        · exact h6.trans (.failJob ..)
        · exact h6.trans (.modJob ..)
      · exact h6
    · exact h6

theorem Dev.ramp_hchan (d : Dev) (ch : Nat) :
    (d.ramp ch).hchan ch = { d.hchan ch with st := .ramping, timer := none, good := false, onFrom := none } := by
  have h : SameChans (d.modHchan ch fun c => { c with st := .ramping, timer := none, good := false, onFrom := none }) (d.ramp ch) := by
    unfold Dev.ramp
    extract_lets d1 hitch
    split
    · exact ⟨rfl, rfl, rfl⟩
    · exact .refl _
  rw [h.hchan, Dev.hchan_modHchan_self]

/-- A step of the replacement of the module in a slot leaves the channels alone. -/
theorem SameChans.replaced (d : Dev) (slot pos : Nat) :
    SameChans d (match d.replacing slot with | some (n, j) => if j.pos = pos then d.nextPhase n else d | none => d) := by
  split
  · split
    · exact .nextPhase ..
    · exact .refl _
  · exact .refl _

/-- A replacement that fails for its slot leaves the channels alone. -/
theorem SameChans.broken (d : Dev) (slot : Nat) :
    SameChans d (match d.replacing slot with | some (n, _) => d.failJob n .internal | none => d) := by
  split
  · exact .failJob ..
  · exact .refl _

theorem Dev.pmicGood_hchan {d : Dev} {slot : Nat} (hgood : (d.hchan slot).good = true) :
    (d.pmicGood slot).hchan slot = { d.hchan slot with good := false } := by
  rw [Dev.pmicGood, if_neg (by simp [hgood])]
  refine ((SameChans.replaced (d.modHchan slot fun c => { c with good := false }) slot 6).hchan slot).trans ?_
  rw [Dev.hchan_modHchan_self]

theorem Dev.fetDamaged_retires {d : Dev} {ch : Nat} {mv : BitVec 16} (hch : ch ≠ inputCh) (hst : (d.hchan ch).st = .off) (hmv : 1000 < mv.toNat)
    (hdam : (d.hchan ch).damaged = false) :
    ((d.fetDamaged ch mv).hchan ch).damaged = true ∧ ((d.fetDamaged ch mv).hchan ch).st = .retired ∧
      ((d.fetDamaged ch mv).source (srcHitch ch)).hard = true := by
  unfold Dev.fetDamaged
  extract_lets c off d1 d2
  have hoff : off = true := by simp [off, hch, c, hst]
  have hd2 : d2.hchan ch = { d.hchan ch with damaged := true, vout := mv, st := .retired, timer := none } := by
    rw [show d2 = d1.modHchan ch _ from if_neg hch, Dev.hchan_modHchan_self, show d1 = d.modHchan ch _ from rfl, Dev.hchan_modHchan_self]
  clear_value d2
  rw [if_neg (by rw [hoff, show c.damaged = false from hdam]; simp; omega)]
  obtain ⟨f, -, -, -, hsig⟩ := faultEvent_signals (d2.free 8).2 (srcHitch ch) (d2.free 8).1.toNat (mv.toNat * 2 ^ 24) 0 0xFF true
  obtain ⟨-, -, -, hhard⟩ := faultEvent_last (d2.free 8).2 (srcHitch ch) (d2.free 8).1.toNat (mv.toNat * 2 ^ 24) 0 0xFF true
  have hlog := SameChans.of_signals
    (signals_raise ((d2.free 8).2.faultEvent (srcHitch ch) (d2.free 8).1.toNat (mv.toNat * 2 ^ 24) 0 0xFF true) 0x124 .failure none
      (ch + mv.toNat * 2 ^ 16))
  have hchan : ((d2.free 8).2.faultEvent (srcHitch ch) (d2.free 8).1.toNat (mv.toNat * 2 ^ 24) 0 0xFF true).hchan ch = d2.hchan ch := by
    rw [Dev.hchan, hsig.hitch]; rfl
  suffices h : SameChans ((d2.free 8).2.faultEvent (srcHitch ch) (d2.free 8).1.toNat (mv.toNat * 2 ^ 24) 0 0xFF true) _ by
    refine ⟨?_, ?_, ?_⟩
    · rw [h.hchan, hchan, hd2]
    · rw [h.hchan, hchan, hd2]
    · rw [Dev.source, h.src]; exact hhard.trans (Bool.or_true _)
  exact hlog.trans (.broken _ ch)

/-- A channel that keeps on and beyond a limit trips; a ramping one fails its ramp; a retry timer ramps it again (R431, R432). -/
theorem hitch_trips (s : State) (ch : Fin 17) (sense vout : BitVec 16) :
    let c := s.dev.hchan ch.val
    let limit := s.dev.setting idHitchSense ch.val * 100
    let latch := s.dev.setting idHitchRetries ch.val < c.retries + 1
    let trips (cause : Nat) (d : Dev) : Prop :=
      (d.hchan ch.val).cause = cause ∧ (d.hchan ch.val).sense = sense ∧ (d.hchan ch.val).vout = vout ∧
      (d.hchan ch.val).retries = min 255 (c.retries + 1) ∧ (d.hchan ch.val).st = (if latch then .latchedOff else .tripped) ∧
      (d.hchan ch.val).timer = (if latch then none else some (s.dev.clk.bnd + min (2 ^ c.retries) 8 * 4000000)) ∧ d.line = s.dev.line
    (c.st = .on → limit < sense.toNat → Completes (.hitchLimitHeld ch sense vout) s (trips 1)) ∧
    (c.st = .on → sense.toNat ≤ limit → Completes (.hitchLimitHeld ch sense vout) s fun d => d = s.dev) ∧
    (c.st = .ramping → Completes (.hitchLimitHeld ch sense vout) s (trips 3)) ∧
    ((c.st = .on ∨ c.st = .off) → 3 * limit < sense.toNat → Completes (.hitchFastTrip ch sense vout) s (trips 2)) ∧
    (sense.toNat ≤ 3 * limit → Completes (.hitchFastTrip ch sense vout) s fun d => d = s.dev) ∧
    (∀ b, c.timer = some b → c.st = .tripped → c.unmon = false → b ≤ s.dev.clk.bnd → Completes (.hitchRetryTimer ch) s fun d =>
      (d.hchan ch.val).st = .ramping ∧ (d.hchan ch.val).timer = none) ∧
    (∀ b, c.timer = some b → s.dev.clk.bnd < b → Completes (.hitchRetryTimer ch) s fun d => d = s.dev) ∧
    (∀ b, c.onFrom = some b → c.st = .on → b + beats60s ≤ s.dev.clk.bnd → Completes (.hitchOn60s ch) s fun d =>
      d.hchan ch.val = { c with retries := 0 }) := by
  intro c limit latch trips
  have htrips (cause : Nat) (hst : c.st = .on ∨ c.st = .ramping ∨ c.st = .off) : trips cause (s.dev.trip ch.val cause sense vout) := by
    obtain ⟨hc, hline⟩ := Dev.trip_trips cause sense vout hst
    simp only [trips]
    rw [hc]
    exact ⟨rfl, rfl, rfl, rfl, by simp [HChan.tripped, Dev.latches, latch, c], by simp [HChan.tripped, Dev.latches, latch, c], hline⟩
  refine ⟨?_, ?_, ?_, ?_, ?_, ?_, ?_, ?_⟩
  · intro hst hlimit
    refine Laws.completes_ok (exec_hitchLimitHeld ..) ?_
    have : s.dev.limitHeld ch.val sense vout = s.dev.trip ch.val 1 sense vout := by
      have hst' : (s.dev.hchan ch.val).st = .on := hst
      have hlimit' : ¬ sense.toNat ≤ s.dev.setting idHitchSense ch.val * 100 := Nat.not_le.mpr hlimit
      simp [Dev.limitHeld, hst', hlimit']
    rw [this]
    exact htrips 1 (.inl hst)
  · intro hst hlimit
    refine Laws.completes_ok (exec_hitchLimitHeld ..) ?_
    have hst' : (s.dev.hchan ch.val).st = .on := hst
    have hlimit' : sense.toNat ≤ s.dev.setting idHitchSense ch.val * 100 := hlimit
    simp [Dev.limitHeld, hst', hlimit']
  · intro hst
    refine Laws.completes_ok (exec_hitchLimitHeld ..) ?_
    have : s.dev.limitHeld ch.val sense vout = s.dev.trip ch.val 3 sense vout := by
      have hst' : (s.dev.hchan ch.val).st = .ramping := hst
      simp [Dev.limitHeld, hst']
    rw [this]
    exact htrips 3 (.inr (.inl hst))
  · intro hst hlimit
    refine Laws.completes_ok (exec_hitchFastTrip ..) ?_
    rw [Dev.fastTrip, if_neg (by simp only [limit] at hlimit; omega)]
    exact htrips 2 (hst.imp_right .inr)
  · intro hlimit
    refine Laws.completes_ok (exec_hitchFastTrip ..) ?_
    rw [Dev.fastTrip, if_pos (by simp only [limit] at hlimit; omega)]
  · intro b htimer hst hunmon hb
    refine Laws.completes_ok (exec_hitchRetryTimer ..) ?_
    have : s.dev.retryTimer ch.val = s.dev.ramp ch.val := by
      have htimer' : (s.dev.hchan ch.val).timer = some b := htimer
      have hst' : (s.dev.hchan ch.val).st = .tripped := hst
      have hunmon' : (s.dev.hchan ch.val).unmon = false := hunmon
      simp [Dev.retryTimer, htimer', hst', hunmon', hb]
    rw [this, Dev.ramp_hchan]
    exact ⟨rfl, rfl⟩
  · intro b htimer hb
    refine Laws.completes_ok (exec_hitchRetryTimer ..) ?_
    have htimer' : (s.dev.hchan ch.val).timer = some b := htimer
    have hb' : ¬ b ≤ s.dev.clk.bnd := Nat.not_le.mpr hb
    simp [Dev.retryTimer, htimer', hb']
  · intro b hfrom hst hb
    refine Laws.completes_ok (exec_hitchOn60s ..) ?_
    have : s.dev.on60s ch.val = s.dev.modHchan ch.val fun c => { c with retries := 0 } := by
      have hfrom' : (s.dev.hchan ch.val).onFrom = some b := hfrom
      have hst' : (s.dev.hchan ch.val).st = .on := hst
      simp [Dev.on60s, hfrom', hst', hb]
    rw [this, Dev.hchan_modHchan_self]

/-! ### Outputs, PMICs, the input and damaged FETs (R429, R430, R436) -/

/-- A slot's output that is good, and its PMIC's word; their timeouts are ramps that failed (R429). -/
theorem slot_outputs (s : State) (slot : Fin 16) :
    let c := s.dev.hchan slot.val
    let latch := s.dev.setting idHitchRetries slot.val < c.retries + 1
    (c.st = .ramping → Completes (.slotOutputGood slot) s fun d =>
      d.hchan slot.val = { c with st := .on, good := true, onFrom := some s.dev.clk.bnd }) ∧
    (c.st ≠ .ramping → Completes (.slotOutputGood slot) s fun d => d = s.dev) ∧
    (c.st = .ramping → Completes (.slotRampTimeout slot) s fun d =>
      (d.hchan slot.val).cause = 3 ∧ (d.hchan slot.val).st = if latch then .latchedOff else .tripped) ∧
    (c.good = true → Completes (.pmicPowerGood slot) s fun d => d.hchan slot.val = { c with good := false }) ∧
    (∀ b, c.onFrom = some b → c.good = true → c.st = .on → b + beats50ms ≤ s.dev.clk.bnd → Completes (.pmicTimeout slot) s fun d =>
      (d.hchan slot.val).cause = 3 ∧ (d.hchan slot.val).st = if latch then .latchedOff else .tripped) := by
  intro c latch
  have htrips (sense vout : BitVec 16) (hst : c.st = .on ∨ c.st = .ramping ∨ c.st = .off) :
      ((s.dev.trip slot.val 3 sense vout).hchan slot.val).cause = 3 ∧
        ((s.dev.trip slot.val 3 sense vout).hchan slot.val).st = if latch then .latchedOff else .tripped := by
    rw [(Dev.trip_trips 3 sense vout hst).1]
    exact ⟨rfl, by simp [HChan.tripped, Dev.latches, latch, c]⟩
  refine ⟨?_, ?_, ?_, ?_, ?_⟩
  · intro hst
    refine Laws.completes_ok (exec_slotOutputGood ..) ?_
    rw [if_pos hst, Dev.chanOn, Dev.hchan_modHchan_self]
  · intro hst
    refine Laws.completes_ok (exec_slotOutputGood ..) ?_
    rw [if_neg hst]
  · intro hst
    refine Laws.completes_ok (exec_slotRampTimeout ..) ?_
    rw [if_pos hst]
    exact htrips _ _ (.inr (.inl hst))
  · intro hgood
    refine Laws.completes_ok (exec_pmicPowerGood ..) ?_
    exact Dev.pmicGood_hchan hgood
  · intro b hfrom hgood hst hb
    refine Laws.completes_ok (exec_pmicTimeout ..) ?_
    have : s.dev.pmicLate slot.val = s.dev.trip slot.val 3 c.sense c.vout := by
      have hfrom' : (s.dev.hchan slot.val).onFrom = some b := hfrom
      have hgood' : (s.dev.hchan slot.val).good = true := hgood
      simp [Dev.pmicLate, hfrom', hgood', hb, c]
    rw [this]
    exact htrips _ _ (.inl hst)

/-- The input precharges, then opens its gate; a precharge that is late is an event and opens it too (R430). -/
theorem input_precharges (s : State) :
    let c := s.dev.hchan inputCh
    (s.dev.power.vaux = true → c.st = .off → Completes .vinPgAssert s fun d =>
      (d.hchan inputCh).st = .ramping ∧ d.hitch.pre = true ∧ d.hitch.gate = false ∧ d.hitch.vinGood = true) ∧
    (c.st = .ramping → s.dev.hitch.pre = true → Completes .prechargeDone s fun d => (d.hchan inputCh).st = .on ∧ d.hitch.gate = true) ∧
    (∀ a b, c.st = .ramping → s.dev.hitch.pre = true → Completes (.prechargeTimeout a b) s fun d =>
      (d.hchan inputCh).st = .on ∧ d.hitch.gate = true ∧ (d.source (srcHitch inputCh)).sticky = true) ∧
    (s.dev.hitch.gate = true → Completes .vinPreOff s fun d => d = { s.dev with hitch.pre := false }) := by
  intro c
  have hopened (d : Dev) : (d.gateOn.hchan inputCh).st = .on ∧ d.gateOn.hitch.gate = true := by
    constructor
    · rw [Dev.gateOn, Dev.chanOn, Dev.hchan_modHchan_self]
    · rfl
  refine ⟨?_, ?_, ?_, ?_⟩
  · intro hvaux hst
    refine Laws.completes_ok (exec_vinPgAssert s) ?_
    have : ({ s.dev with hitch.vinGood := true } : Dev).startInput = ({ s.dev with hitch.vinGood := true } : Dev).ramp inputCh := by
      have hst' : (({ s.dev with hitch.vinGood := true } : Dev).hchan inputCh).st = .off := hst
      rw [Dev.startInput, if_pos]
      simp only [hst', hvaux, Bool.and_self, decide_true]
    rw [this, Dev.ramp_hchan]
    exact ⟨rfl, rfl, rfl, rfl⟩
  · intro hst hpre
    refine Laws.completes_ok (exec_prechargeDone s) ?_
    have hst' : (s.dev.hchan inputCh).st = .ramping := hst
    rw [if_pos (by simp [hst', hpre])]
    exact hopened _
  · intro a b hst hpre
    refine Laws.completes_ok (exec_prechargeTimeout ..) ?_
    have hst' : (s.dev.hchan inputCh).st = .ramping := hst
    rw [Dev.prechargeLate, if_pos (by simp [hst', hpre])]
    obtain ⟨f, -, -, hsticky, hsig⟩ := faultEvent_signals (s.dev.gateOn.free 8).2 (srcHitch inputCh) (s.dev.gateOn.free 8).1.toNat 0 0 0xFF false
    have hrec := hsig.trans (signals_raise _ 0x125 .warning none (a.toNat + b.toNat * 2 ^ 16))
    refine ⟨?_, ?_, ?_⟩
    · rw [Dev.hchan, hrec.hitch]; exact (hopened _).1
    · rw [hrec.hitch]; exact (hopened _).2
    · rw [Dev.source, hrec.fault]; exact hsticky
  · intro hgate
    refine Laws.completes_ok (exec_vinPreOff s) ?_
    rw [if_pos hgate]

/-- An output that stands while its channel is off retires it; one at 1 V or below does not (R436). -/
theorem fet_damaged (s : State) (ch : Fin 17) (mv : BitVec 16) :
    (ch.val < 16 → (s.dev.hchan ch.val).st = .off → 1000 < mv.toNat → (s.dev.hchan ch.val).damaged = false →
      Completes (.fetDamaged ch mv) s fun d =>
        (d.hchan ch.val).damaged = true ∧ (d.hchan ch.val).st = .retired ∧ (d.source (srcHitch ch.val)).hard = true) ∧
    (mv.toNat ≤ 1000 → Completes (.fetDamaged ch mv) s fun d => d = s.dev) := by
  constructor
  · intro hch hst hmv hdam
    exact Laws.completes_ok (exec_fetDamaged ..) (Dev.fetDamaged_retires (by simp only [inputCh]; omega) hst hmv hdam)
  · intro hmv
    refine Laws.completes_ok (exec_fetDamaged ..) ?_
    simp [Dev.fetDamaged, hmv]

/-! ### Modules (R434, R435) -/

theorem Dev.moduleRemoved_removes {d : Dev} {slot : Nat} (hlatch : d.latchClosed slot = false) (hc : (d.hchan slot).removed = false)
    (hst : (d.hchan slot).st ≠ .retired) :
    (d.moduleRemoved slot).hchan slot =
      { d.hchan slot with st := .off, retries := 0, timer := none, good := false, onFrom := none, present := false, removed := true
                          spdWait := false, mod := none } := by
  unfold Dev.moduleRemoved
  rw [if_neg (by simp [hlatch, hc])]
  extract_lets d1 d2 d3
  have h1 : d1.hchan slot = d.hchan slot := (SameChans.dropModule ..).hchan slot
  have h3 : SameChans d2 d3 := .of_signals (signals_raise ..)
  refine ((h3.trans (.replaced d3 slot 3)).hchan slot).trans ?_
  rw [show d2 = d1.modHchan slot _ from rfl, Dev.hchan_modHchan_self, h1, if_neg hst]

theorem Dev.hubRead_answered (d : Dev) (slot : Nat) (m : Spd) :
    (d.hubRead slot (some m)).hchan slot = { d.hchan slot with present := true, removed := false, spdWait := false, mod := some m } := by
  have h : SameChans (d.modHchan slot fun c => { c with present := true, removed := false, spdWait := false, mod := some m })
      (d.hubRead slot (some m)) := (SameChans.of_signals (signals_raise ..)).trans (.replaced _ slot 4)
  rw [h.hchan, Dev.hchan_modHchan_self]

theorem Dev.hubRead_silent (d : Dev) (slot : Nat) : (d.hubRead slot none).hchan slot = { d.hchan slot with spdWait := true } :=
  Dev.hchan_modHchan_self ..

theorem Dev.slotRanks_ne_nil {d : Dev} {slot : Nat} (h : d.servedOn slot ≠ []) : d.slotRanks slot ≠ [] := by
  intro hnil
  apply h
  simp [Dev.servedOn, hnil]

theorem Dev.dropModule_lost {d : Dev} {slot : Nat} (k : LossCause) (h : d.slotRanks slot ≠ []) :
    ∃ k', (slot, k') ∈ (d.dropModule slot k).hitch.lost := by
  unfold Dev.dropModule
  split
  next hold =>
    have hempty : (d.slotRanks slot).isEmpty = false := by simpa using h
    rw [hempty, Bool.or_false, List.any_eq_true] at hold
    obtain ⟨⟨_, k'⟩, hmem, hslot⟩ := hold
    obtain rfl : _ = slot := of_decide_eq_true hslot
    exact ⟨k', hmem⟩
  next => exact ⟨k, by simp⟩

/-- A module whose latch is open is removed; one whose latch is closed is read by its hub; one that lost its power while its ranks serve is
lost from the next boundary on (R434, R435). -/
theorem modules (s : State) (slot : Fin 16) :
    let c := s.dev.hchan slot.val
    (s.dev.latchClosed slot.val = false → c.removed = false → c.st ≠ .retired → Completes (.moduleRemoved slot) s fun d =>
      d.hchan slot.val = { c with st := .off, retries := 0, timer := none, good := false, onFrom := none, present := false, removed := true
                                  spdWait := false, mod := none }) ∧
    (s.dev.latchClosed slot.val = true → Completes (.moduleRemoved slot) s fun d => d = s.dev) ∧
    (∀ m, s.dev.latchClosed slot.val = true → c.removed = true → Completes (.moduleInserted slot (some m)) s fun d =>
      d.hchan slot.val = { c with present := true, removed := false, spdWait := false, mod := some m }) ∧
    (s.dev.latchClosed slot.val = true → c.removed = true → Completes (.moduleInserted slot none) s fun d =>
      d.hchan slot.val = { c with spdWait := true }) ∧
    (∀ m, s.dev.latchClosed slot.val = true → c.spdWait = true → Completes (.spdReadRetry slot (some m)) s fun d =>
      d.hchan slot.val = { c with present := true, removed := false, spdWait := false, mod := some m }) ∧
    (∀ k, c.st ≠ .on → s.dev.servedOn slot.val ≠ [] → Completes (.moduleLost slot k) s fun d => ∃ k', (slot.val, k') ∈ d.hitch.lost) ∧
    (∀ k, c.st = .on → Completes (.moduleLost slot k) s fun d => d = s.dev) := by
  intro c
  refine ⟨?_, ?_, ?_, ?_, ?_, ?_, ?_⟩
  · intro hlatch hremoved hst
    exact Laws.completes_ok (exec_moduleRemoved ..) (Dev.moduleRemoved_removes hlatch hremoved hst)
  · intro hlatch
    refine Laws.completes_ok (exec_moduleRemoved ..) ?_
    rw [Dev.moduleRemoved, if_pos (by simp [hlatch])]
  · intro m hlatch hremoved
    refine Laws.completes_ok (exec_moduleInserted ..) ?_
    have hremoved' : (s.dev.hchan slot.val).removed = true := hremoved
    rw [if_pos (by simp [hlatch, hremoved'])]
    exact Dev.hubRead_answered ..
  · intro hlatch hremoved
    refine Laws.completes_ok (exec_moduleInserted ..) ?_
    have hremoved' : (s.dev.hchan slot.val).removed = true := hremoved
    rw [if_pos (by simp [hlatch, hremoved'])]
    exact Dev.hubRead_silent ..
  · intro m hlatch hwait
    refine Laws.completes_ok (exec_spdReadRetry ..) ?_
    have hwait' : (s.dev.hchan slot.val).spdWait = true := hwait
    rw [if_pos (by simp [hlatch, hwait'])]
    exact Dev.hubRead_answered ..
  · intro k hst hserved
    refine Laws.completes_ok (exec_moduleLost ..) ?_
    have hst' : (s.dev.hchan slot.val).st ≠ .on := hst
    rw [if_pos (by simp [hst', hserved])]
    exact Dev.dropModule_lost k (Dev.slotRanks_ne_nil hserved)
  · intro k hst
    refine Laws.completes_ok (exec_moduleLost ..) ?_
    have hst' : (s.dev.hchan slot.val).st = .on := hst
    rw [if_neg (by simp [hst'])]

/-! ### Training windows (R439, R440) -/

/-- What a job that goes on and a slot's channel leave of a window: the window itself and the DRAM channels. -/
structure SameWindow (d d' : Dev) : Prop where
  window : d'.hitch.window = d.hitch.window
  dram : d'.dram = d.dram

namespace SameWindow

variable {a b d d' : Dev}

theorem refl (d : Dev) : SameWindow d d := ⟨rfl, rfl⟩

theorem trans (h : SameWindow a b) (g : SameWindow b d) : SameWindow a d := ⟨g.window.trans h.window, g.dram.trans h.dram⟩

theorem chan (h : SameWindow d d') (ch : Nat) : d'.chan ch = d.chan ch := by rw [Dev.chan, h.dram]; rfl

theorem modJob (d : Dev) (n : Nat) (f : Job → Job) : SameWindow d (d.modJob n f) := by
  unfold Dev.modJob
  split
  · exact ⟨rfl, rfl⟩
  · exact refl d

theorem nextPhase (d : Dev) (n : Nat) : SameWindow d (d.nextPhase n) := by
  unfold Dev.nextPhase
  split
  · exact refl d
  · extract_lets j
    split
    · exact ⟨rfl, rfl⟩
    · split
      · exact ⟨rfl, rfl⟩
      · split
        · exact ⟨rfl, rfl⟩
        · exact ⟨rfl, rfl⟩

theorem slotOff (d : Dev) (slot : Nat) : SameWindow d (d.slotOff slot) := by
  unfold Dev.slotOff
  extract_lets c
  split
  · exact ⟨rfl, rfl⟩
  · exact refl d

theorem failJob (d : Dev) (n : Nat) (st : Status) : SameWindow d (d.failJob n st) := modJob ..

theorem modHchan (d : Dev) (ch : Nat) (f : HChan → HChan) : SameWindow d (d.modHchan ch f) := ⟨rfl, rfl⟩

theorem slotOffs (d : Dev) (o : Option Nat) : SameWindow d (match o with | some s => d.slotOff s | none => d) := by
  cases o with
  | some s => exact slotOff ..
  | none => exact refl d

end SameWindow

theorem Dev.trainRank_training (d : Dev) (ch r c : Nat) : ((d.trainRank ch r).chan c).training = (d.chan c).training := by
  unfold Dev.trainRank
  dsimp -zeta only [Dev.free]
  by_cases h : c = ch
  · subst h
    exact (congrArg Chan.training (Dev.chan_modChan_self ..)).trans rfl
  · exact congrArg Chan.training (Dev.chan_modChan_ne _ _ _ _ h)

theorem Dev.trainChan_frame (d : Dev) (ch c : Nat) :
    (d.trainChan ch).hitch = d.hitch ∧ ((d.trainChan ch).chan c).training = (d.chan c).training := by
  unfold Dev.trainChan
  extract_lets mine d1
  refine each_induct (fun e : Dev => e.hitch = d.hitch ∧ (e.chan c).training = (d.chan c).training) ?_ ?_
  · exact ⟨rfl, rfl⟩
  · intro e r _ hold
    obtain ⟨hhitch, htrain⟩ := hold
    exact ⟨hhitch, (e.trainRank_training ch r c).trans htrain⟩

/-- What the jobs of a window's slot do when it opens leaves the window as it is. -/
theorem SameWindow.opened (d : Dev) (o : Option Nat) :
    SameWindow d (match o with
      | some n =>
        match d.job n with
        | some j => if j.pos = 7 then d.nextPhase n else if j.pos = 2 then d.modJob n fun j => { j with from_ := d.clk.bnd } else d
        | none => d
      | none => d) := by
  cases o with
  | none => exact refl d
  | some n =>
    dsimp only
    split
    · split
      · exact .nextPhase ..
      · split
        · exact .modJob ..
        · exact refl d
    · exact refl d

theorem Dev.windowOpen_opens {d : Dev} {w : Window} (hw : d.hitch.window = some w) (hshut : w.isOpen = false) (hclosed : w.closed = none)
    (hopens : w.opens ≤ d.clk.bnd) (hclk : d.clocked = true) :
    (d.windowOpen w.ch).hitch.window = some { w with isOpen := true } ∧ (d.windowOpen w.ch).dram.wide = [w.ch] ∧
      ((d.windowOpen w.ch).chan w.ch).training = true := by
  unfold Dev.windowOpen
  rw [hw]
  dsimp -zeta only
  rw [if_neg (by simp [hshut, hclosed, hclk]; omega)]
  extract_lets hitch dram d1 d2
  have h1 : (d1.chan w.ch).training = true := congrArg Chan.training (Dev.chan_modChan_self ..)
  have h2 : SameWindow d1 d2 := .slotOffs d1 w.slotOff
  have h : SameWindow d1 _ := h2.trans (.opened d2 w.job)
  exact ⟨h.window, congrArg Dram.wide h.dram, (congrArg Chan.training (h.chan w.ch)).trans h1⟩

theorem Dev.windowClose_closes {d : Dev} {w : Window} (good : Bool) (hw : d.hitch.window = some w) (hopen : w.isOpen = true) :
    (d.windowClose w.ch good).hitch.window = some { w with isOpen := false, closed := some d.clk.beat } ∧
      ((d.windowClose w.ch good).chan w.ch).training = false := by
  unfold Dev.windowClose
  rw [hw]
  dsimp -zeta only
  rw [if_neg (by simp [hopen])]
  extract_lets hitch d1 d2
  have h1 : d1.hitch.window = some { w with isOpen := false, closed := some d.clk.beat } ∧ (d1.chan w.ch).training = false :=
    ⟨rfl, congrArg Chan.training (Dev.chan_modChan_self ..)⟩
  have h2 : d2.hitch.window = some { w with isOpen := false, closed := some d.clk.beat } ∧ (d2.chan w.ch).training = false := by
    simp only [d2]
    split
    · obtain ⟨hhitch, htrain⟩ := d1.trainChan_frame w.ch w.ch
      exact ⟨by rw [hhitch]; exact h1.1, htrain.trans h1.2⟩
    · exact h1
  suffices h : SameWindow d2 _ from ⟨h.window.trans h2.1, (congrArg Chan.training (h.chan w.ch)).trans h2.2⟩
  split
  · split
    · exact .refl _
    · split
      · exact .nextPhase ..
      next j _ _ _ =>
        exact ((SameWindow.slotOff d2 j.repSlot).trans (.modHchan ..)).trans (.failJob ..)
  · exact .refl _

/-- A window opens at its beat and closes as its training ends (R439, R440). -/
theorem training_windows (s : State) (ch : Fin 8) (w : Window) (hw : s.dev.hitch.window = some w) (hch : w.ch = ch.val) :
    (w.isOpen = false → w.closed = none → w.opens ≤ s.dev.clk.bnd → s.dev.clocked = true → Completes (.trainingWindowOpen ch) s fun d =>
      d.hitch.window = some { w with isOpen := true } ∧ d.dram.wide = [ch.val] ∧ (d.chan ch.val).training = true) ∧
    (s.dev.clk.bnd < w.opens → Completes (.trainingWindowOpen ch) s fun d => d = s.dev) ∧
    (∀ good, w.isOpen = true → Completes (.trainingWindowClose ch good) s fun d =>
      d.hitch.window = some { w with isOpen := false, closed := some s.dev.clk.beat } ∧ (d.chan ch.val).training = false) := by
  refine ⟨?_, ?_, ?_⟩
  · intro hshut hclosed hopens hclk
    refine Laws.completes_ok (exec_trainingWindowOpen ..) ?_
    rw [← hch]
    exact Dev.windowOpen_opens hw hshut hclosed hopens hclk
  · intro hopens
    refine Laws.completes_ok (exec_trainingWindowOpen ..) ?_
    simp [Dev.windowOpen, hw, hopens]
  · intro good hopen
    refine Laws.completes_ok (exec_trainingWindowClose ..) ?_
    rw [← hch]
    exact Dev.windowClose_closes good hw hopen

/-! ### HITCH.STATUS and HITCH.SET (R382, R383) -/

theorem hitch_commands (s : State) (iss : Issuer) (inp : List Byte) (htakes : Takes s) :
    let d0 := s.dev.doorbell (mailDoorbell iss)
    let ch := field inp 0 1
    let c := d0.hchan ch
    (inp = [] → Completes (.hitchStatus iss inp) s fun d => Replies d0 d iss .success (zeros 6 ++ (List.range 17).flatMap fun n =>
      let c := d0.hchan n
      [BitVec.ofNat 8 (hstateNum c.st), BitVec.ofNat 8 c.retries,
       BitVec.ofNat 8 (flag c.present + 2 * flag (n < 16 && d0.latchClosed n) + 4 * flag c.damaged), BitVec.ofNat 8 c.cause] ++
        leBytes 2 c.sense.toNat ++ leBytes 2 c.vout.toNat)) ∧
    (inp.length = 8 → issuerMc iss = true → rsvd inp 2 6 = true → ch < 16 → d0.slotHeld ch = false →
      (field inp 1 1 = 2 → c.st = .latchedOff → Completes (.hitchSet iss inp) s fun d =>
        Replies (d0.modHchan ch fun c => { c with retries := 0, st := .off }) d iss .success (zeros 6)) ∧
      (field inp 1 1 = 1 → c.st = .off → c.present = true → c.unmon = false → Completes (.hitchSet iss inp) s fun d =>
        Replies (d0.slotOn ch) d iss .success (zeros 6)) ∧
      (field inp 1 1 = 0 → d0.servedOn ch ≠ [] → Completes (.hitchSet iss inp) s fun d => Replies d0 d iss .invalidInput (zeros 6))) := by
  intro d0 ch c
  constructor
  · rintro rfl
    refine completes_of_takes htakes (exec_hitchStatus s iss []) ?_
    exact reply_replies ..
  · intro hlen hmc hrsvd hch hheld
    have hch' : ¬ 16 < field inp 0 1 := by omega
    have hslot : field inp 0 1 ≠ inputCh := Nat.ne_of_lt hch
    have hheld' : d0.slotHeld (field inp 0 1) = false := hheld
    refine ⟨?_, ?_, ?_⟩
    · intro haction hst
      refine completes_of_takes htakes (exec_hitchSet s iss inp) ?_
      have hst' : (d0.hchan (field inp 0 1)).st = .latchedOff := hst
      have : d0.hitchSet iss inp = (d0.modHchan ch fun c => { c with retries := 0, st := .off }).reply iss .success (zeros 6) false := by
        simp [Dev.hitchSet, Dev.modHchan, hlen, hmc, hrsvd, hch', hslot, hheld', haction, hst', ch]
      rw [this]
      exact reply_replies ..
    · intro haction hst hpresent hunmon
      refine completes_of_takes htakes (exec_hitchSet s iss inp) ?_
      have hst' : (d0.hchan (field inp 0 1)).st = .off := hst
      have hpresent' : (d0.hchan (field inp 0 1)).present = true := hpresent
      have hunmon' : (d0.hchan (field inp 0 1)).unmon = false := hunmon
      have : d0.hitchSet iss inp = (d0.slotOn ch).reply iss .success (zeros 6) false := by
        simp [Dev.hitchSet, hlen, hmc, hrsvd, hch', hslot, hheld', haction, hst', hpresent', hunmon', ch]
      rw [this]
      exact reply_replies ..
    · intro haction hserved
      refine completes_of_takes htakes (exec_hitchSet s iss inp) ?_
      have hserved' : d0.servedOn (field inp 0 1) ≠ [] := hserved
      have : d0.hitchSet iss inp = d0.refuse iss .invalidInput 8 := by
        simp [Dev.hitchSet, hlen, hmc, hrsvd, hch', hslot, haction, hserved']
      rw [this]
      exact refuse_eight_replies ..

/-- Settles O47: the channels, the modules and windows, and the two commands. -/
theorem hitchAndModules : Obligations.HitchAndModules := by
  unfold Obligations.HitchAndModules
  exact ⟨⟨hitch_trips, slot_outputs, input_precharges, fet_damaged⟩, modules, training_windows, hitch_commands⟩

end Sys2Proof.Machine
end

section
/-! Request messages and snoops of the chain as they leave a port's pool (spec/01 R25, R26, R37; spec/08 R232, R236; spec/11 R302, R320 to R323). -/

namespace Sys2Proof.Machine

open Sys2Proof Sys2Proof.Laws

section
variable (s : State) (p : Fin 3)

theorem exec_rd : exec (.rd p) s = ok (s.dev.takeReqMsg p.val .rd).flow s := rfl
theorem exec_wr : exec (.wr p) s = ok (s.dev.takeReqMsg p.val .wr).flow s := rfl
theorem exec_wrp : exec (.wrp p) s = ok (s.dev.takeReqMsg p.val .wrp).flow s := rfl
theorem exec_inv : exec (.inv p) s = ok (s.dev.takeReqMsg p.val .inv).flow s := rfl
theorem exec_evct : exec (.evct p) s = ok (s.dev.takeReqMsg p.val .evct).flow s := rfl
theorem exec_snp : exec (.snp p) s = ok (s.dev.takeSnp p.val).flow s := rfl

end

/-! ### The message leaves its pool (R302, R306) -/

theorem TPort.firstOf_op {x : TPort} {op : MsgOp} {m : Msg} (h : x.firstOf op = some m) : m.op = op := by
  obtain ⟨c, -, hc⟩ := List.exists_of_findSome?_eq_some h
  obtain ⟨-, hop⟩ := Option.filter_eq_some_iff.mp hc
  exact of_decide_eq_true hop

theorem TPort.taken_doze (x : TPort) (c : Nat) : (x.taken c).doze = x.doze := by
  unfold TPort.taken
  split
  · rfl
  · split
    · rfl
    · rfl

theorem Dev.tryDoze_awake {d : Dev} {p : Nat} (h : (d.tport p).doze = 0) : d.tryDoze p = d := by
  simp [Dev.tryDoze, h]

theorem Dev.takeFrom_awake {d : Dev} {p : Nat} (h : (d.tport p).doze = 0) (m : Msg) :
    d.takeFrom p m = d.modTport p fun x => x.taken m.cls :=
  Dev.tryDoze_awake (by rw [Dev.tport_modTport_self, TPort.taken_doze, h])

theorem Dev.takeReqMsg_here {d : Dev} {p : Nat} {op : MsgOp} {m : Msg} (hclk : d.clocked = true) (hm : (d.tport p).firstOf op = some m)
    (ht : m.target = d.chain.index) : d.takeReqMsg p op = d.takeRequest p m := by
  rw [Dev.takeReqMsg, if_pos hclk, hm]
  exact if_pos ht

theorem Dev.takeReqMsg_on {d : Dev} {p : Nat} {op : MsgOp} {m : Msg} (hclk : d.clocked = true) (hm : (d.tport p).firstOf op = some m)
    (ht : m.target ≠ d.chain.index) : d.takeReqMsg p op = d.passOn p m := by
  rw [Dev.takeReqMsg, if_pos hclk, hm]
  exact if_neg ht

/-! ### Forwarding (R25, R320) -/

theorem Dev.passOn_goes {d : Dev} {p q : Nat} {m : Msg} (hdoze : (d.tport p).doze = 0) (hr : d.route m.unit2m (some p) = some q)
    (hroom : (d.tport q).txRoom m.cls = true) : d.passOn p m = (d.modTport p fun x => x.taken m.cls).sendMsg q m (some p) := by
  rw [Dev.passOn, hr, ← Dev.takeFrom_awake hdoze]
  exact if_pos hroom

theorem Dev.passOn_waits {d : Dev} {p q : Nat} {m : Msg} (hr : d.route m.unit2m (some p) = some q)
    (hroom : (d.tport q).txRoom m.cls = false) : d.passOn p m = d := by
  rw [Dev.passOn, hr]
  exact if_neg (by simp [hroom])

theorem Dev.passOn_lost {d : Dev} {p : Nat} {m : Msg} (hdoze : (d.tport p).doze = 0) (hr : d.route m.unit2m (some p) = none) :
    d.passOn p m =
      ((d.modTport p fun x => x.taken m.cls).noRoute (m.unit2m * mib2) m.origin.toNat).sendMsg p (rspTo m 3 0 0 none) := by
  rw [Dev.passOn, hr, ← Dev.takeFrom_awake hdoze]

/-! ### Requests for this device (R26, R37, R321, R323) -/

/-- A device whose requests before stage 2 have one more: what a message asks for. -/
def Dev.joined (d : Dev) (m : Msg) (p : Nat) : Dev :=
  { d with path.next := d.path.next + 1, path.reqs := d.path.reqs ++ [requestOf m d.path.next p] }

/-- The requests that wait for the regulator have room for one more of a class (R26). -/
def Dev.stage2Room (d : Dev) (c : Nat) : Bool := d.room (fun st => st = .peerIn || inStage2 st) stage2Mins stage2Shared c

theorem Dev.takeRequest_plain {d : Dev} {p : Nat} {m : Msg} (hdoze : (d.tport p).doze = 0) (hroom : d.stage2Room m.cls = true)
    (hbraid : m.braid = false) : d.takeRequest p m = (d.modTport p fun x => x.taken m.cls).joined m p := by
  unfold Dev.takeRequest
  extract_lets takeIt d1
  rw [if_neg (by rw [show d.room _ _ _ m.cls = true from hroom]; simp), if_pos (by simp [hbraid]), ← Dev.takeFrom_awake hdoze]
  rfl

theorem Dev.takeRequest_waits {d : Dev} (p : Nat) {m : Msg} (hroom : d.stage2Room m.cls = false) : d.takeRequest p m = d := by
  unfold Dev.takeRequest
  extract_lets takeIt d1
  exact if_pos (by rw [show d.room _ _ _ m.cls = false from hroom]; rfl)

/-- A device that has brought up what it knows of an origin's braid, on the link that a message came in on (R321). -/
def Dev.braided (d : Dev) (m : Msg) (h : Nat × Nat) : Dev :=
  { d with chain.braidAt := d.chain.braidAt.put m.origin.toNat (if m.dir then (h.1, m.braidSeq.toNat) else (m.braidSeq.toNat, h.2)) }

/-- The other link of the braid has brought this copy's number already (R321). -/
def braidMet (m : Msg) (h : Nat × Nat) : Bool := ((if m.dir then h.1 else h.2) + 65536 - m.braidSeq.toNat) % 65536 < 32768

theorem Dev.takeRequest_duplicate {d : Dev} {p : Nat} {m : Msg} {h : Nat × Nat} (hdoze : (d.tport p).doze = 0)
    (hroom : d.stage2Room m.cls = true) (hbraid : m.braid = true) (hat : d.chain.braidAt.look m.origin.toNat = some h) (hmet : braidMet m h = true)
    (hop : m.op = .wr ∨ m.op = .wrp) :
    d.takeRequest p m = ((d.modTport p fun x => x.taken m.cls).braided m h).sendMsg p (rspTo m 0 0 0 none) := by
  unfold Dev.takeRequest
  extract_lets takeIt d1
  rw [if_neg (by rw [show d.room _ _ _ m.cls = true from hroom]; simp), if_neg (by simp [hbraid])]
  have hd1 : d1 = d.modTport p fun x => x.taken m.cls := Dev.takeFrom_awake hdoze m
  have hcopy : d1.braidCopy m = some (true, d1.braided m h) := by
    rw [Dev.braidCopy, hd1, show (d.modTport p _).chain.braidAt.look m.origin.toNat = some h from hat]
    exact congrArg some (Prod.ext hmet rfl)
  rw [hcopy, ← hd1]
  exact if_pos (by simpa using hop)

theorem Dev.takeRequest_copy {d : Dev} {p : Nat} {m : Msg} {h : Nat × Nat} (hdoze : (d.tport p).doze = 0)
    (hroom : d.stage2Room m.cls = true) (hbraid : m.braid = true) (hat : d.chain.braidAt.look m.origin.toNat = some h)
    (hnew : braidMet m h = false ∨ (m.op ≠ .wr ∧ m.op ≠ .wrp)) :
    d.takeRequest p m = ((d.modTport p fun x => x.taken m.cls).braided m h).joined m p := by
  unfold Dev.takeRequest
  extract_lets takeIt d1
  rw [if_neg (by rw [show d.room _ _ _ m.cls = true from hroom]; simp), if_neg (by simp [hbraid])]
  have hd1 : d1 = d.modTport p fun x => x.taken m.cls := Dev.takeFrom_awake hdoze m
  have hcopy : d1.braidCopy m = some (braidMet m h, d1.braided m h) := by
    rw [Dev.braidCopy, hd1, show (d.modTport p _).chain.braidAt.look m.origin.toNat = some h from hat]
    rfl
  rw [hcopy, ← hd1]
  refine (if_neg ?_).trans rfl
  rcases hnew with hnew | ⟨hwr, hwrp⟩
  · simp [hnew]
  · simp [hwr, hwrp]

theorem Dev.takeRequest_unsynced {d : Dev} {p : Nat} {m : Msg} (hdoze : (d.tport p).doze = 0)
    (hroom : d.stage2Room m.cls = true) (hbraid : m.braid = true) (hat : d.chain.braidAt.look m.origin.toNat = none) :
    d.takeRequest p m = (d.modTport p fun x => x.taken m.cls).sendMsg p (rspTo m 1 0 0 none) := by
  unfold Dev.takeRequest
  extract_lets takeIt d1
  rw [if_neg (by rw [show d.room _ _ _ m.cls = true from hroom]; simp), if_neg (by simp [hbraid])]
  have hd1 : d1 = d.modTport p fun x => x.taken m.cls := Dev.takeFrom_awake hdoze m
  have hcopy : d1.braidCopy m = none := by
    rw [Dev.braidCopy, hd1, show (d.modTport p _).chain.braidAt.look m.origin.toNat = none from hat]
    rfl
  rw [hcopy, ← hd1]

/-- A request message that is next in a port's pool is taken, waits, or goes on (R25, R26, R37, R320 to R323). -/
theorem request_messages (s : State) (p : Fin 3) (c : Instr) (op : MsgOp) (m : Msg)
    (hc : (c, op) ∈ [(Instr.rd p, MsgOp.rd), (.wr p, .wr), (.wrp p, .wrp), (.inv p, .inv), (.evct p, .evct)])
    (hclk : s.dev.clocked = true) (hm : (s.dev.tport p.val).firstOf op = some m) (hdoze : (s.dev.tport p.val).doze = 0) :
    let d := s.dev.modTport p.val fun x => x.taken m.cls
    let joins (e d : Dev) : Prop :=
      e = { d with path.next := d.path.next + 1, path.reqs := d.path.reqs ++ [requestOf m d.path.next p.val] }
    (m.target = s.dev.chain.index →
      let room := s.dev.room (fun st => st = .peerIn || inStage2 st) stage2Mins stage2Shared m.cls
      (room = true → m.braid = false → Settles c s fun e => joins e d) ∧
      (room = false → Settles c s fun e => e = s.dev) ∧
      (∀ h0 h1, room = true → m.braid = true → s.dev.chain.braidAt.look m.origin.toNat = some (h0, h1) →
        let b := { d with chain.braidAt := s.dev.chain.braidAt.put m.origin.toNat (if m.dir then (h0, m.braidSeq.toNat) else (m.braidSeq.toNat, h1)) }
        let met := ((if m.dir then h0 else h1) + 65536 - m.braidSeq.toNat) % 65536 < 32768
        (met → op = .wr ∨ op = .wrp → Settles c s fun e => e = b.sendMsg p.val (rspTo m 0 0 0 none)) ∧
        (¬ met ∨ (op ≠ .wr ∧ op ≠ .wrp) → Settles c s fun e => joins e b)) ∧
      (room = true → m.braid = true → s.dev.chain.braidAt.look m.origin.toNat = none →
        Settles c s fun e => e = d.sendMsg p.val (rspTo m 1 0 0 none))) ∧
    (m.target ≠ s.dev.chain.index →
      (∀ q, s.dev.route m.unit2m (some p.val) = some q → (s.dev.tport q).txRoom m.cls = true → Settles c s fun e =>
        e = d.sendMsg q m (some p.val)) ∧
      (∀ q, s.dev.route m.unit2m (some p.val) = some q → (s.dev.tport q).txRoom m.cls = false → Settles c s fun e => e = s.dev) ∧
      (s.dev.route m.unit2m (some p.val) = none → Settles c s fun e =>
        e = (d.noRoute (m.unit2m * mib2) m.origin.toNat).sendMsg p.val (rspTo m 3 0 0 none))) := by
  have hexec : exec c s = ok (s.dev.takeReqMsg p.val op).flow s := by
    simp only [List.mem_cons, Prod.mk.injEq, List.not_mem_nil, or_false] at hc
    obtain ⟨rfl, rfl⟩ | ⟨rfl, rfl⟩ | ⟨rfl, rfl⟩ | ⟨rfl, rfl⟩ | ⟨rfl, rfl⟩ := hc
    · exact exec_rd ..
    · exact exec_wr ..
    · exact exec_wrp ..
    · exact exec_inv ..
    · exact exec_evct ..
  have hop : m.op = op := TPort.firstOf_op hm
  intro d joins
  constructor
  · intro ht room
    have hhere := Dev.takeReqMsg_here hclk hm ht
    refine ⟨?_, ?_, ?_, ?_⟩
    · intro hroom hbraid
      exact Laws.settles_ok hexec (hhere.trans (Dev.takeRequest_plain hdoze hroom hbraid))
    · intro hroom
      exact Laws.settles_ok hexec (hhere.trans (Dev.takeRequest_waits _ hroom))
    · intro h0 h1 hroom hbraid hat b met
      constructor
      · intro hmet hwr
        exact Laws.settles_ok hexec (hhere.trans (Dev.takeRequest_duplicate hdoze hroom hbraid hat (decide_eq_true hmet) (by rw [hop]; exact hwr)))
      · intro hnew
        exact Laws.settles_ok hexec (hhere.trans (Dev.takeRequest_copy hdoze hroom hbraid hat (by rw [hop]; exact hnew.imp_left decide_eq_false)))
    · intro hroom hbraid hat
      exact Laws.settles_ok hexec (hhere.trans (Dev.takeRequest_unsynced hdoze hroom hbraid hat))
  · intro ht
    have hon := Dev.takeReqMsg_on hclk hm ht
    refine ⟨?_, ?_, ?_⟩
    · intro q hr hroom
      exact Laws.settles_ok hexec (hon.trans (Dev.passOn_goes hdoze hr hroom))
    · intro q hr hroom
      exact Laws.settles_ok hexec (hon.trans (Dev.passOn_waits hr hroom))
    · intro hr
      exact Laws.settles_ok hexec (hon.trans (Dev.passOn_lost hdoze hr))

/-! ### Snoops for an LD of this device (R232, R236, R253, R254) -/

theorem Dev.takeSnp_eq {d : Dev} {p : Nat} {m : Msg} (hclk : d.clocked = true) (hm : (d.tport p).firstOf .snp = some m) :
    d.takeSnp p =
      if m.target ≠ d.chain.index then d.passOn p m
      else if m.snpType = 3 then (d.takeFrom p m).takeConflictAck p m else (d.takeFrom p m).takeSnoop p m := by
  rw [Dev.takeSnp, if_pos hclk, hm]

/-- What a snoop of another device stands for while its host has not answered (R302). -/
def foreignOf (m : Msg) (p : Nat) : Foreign :=
  { ld := m.ld.toNat, dpaLine := m.dpaLine.toNat, port := p, origin := m.origin, tag := m.tag, kind := m.snpType }

/-- The link on which a host that takes BI is to be snooped for an LD (R254). -/
def Dev.snoopLink (d : Dev) (ld : Nat) : Option Nat := if d.biEnabled ld then (d.ldLink ld).filter fun l => (d.link l).st ≠ .down else none

theorem Dev.snoopLink_of {d : Dev} {ld l : Nat} (hbi : d.biEnabled ld = true) (hl : d.ldLink ld = some l) (hup : (d.link l).st ≠ .down) :
    d.snoopLink ld = some l := by
  simp [Dev.snoopLink, hbi, hl, hup]

theorem Dev.snoopLink_none {d : Dev} {ld : Nat} (h : d.biEnabled ld = false ∨ d.ldLink ld = none ∨ ∃ l, d.ldLink ld = some l ∧ (d.link l).st = .down) :
    d.snoopLink ld = none := by
  rcases h with h | h | ⟨l, hl, hdown⟩
  · simp [Dev.snoopLink, h]
  · simp [Dev.snoopLink, h]
  · simp [Dev.snoopLink, hl, hdown]

theorem Dev.takeSnoop_goes {d : Dev} {p l hpa : Nat} {m : Msg} (hl : d.snoopLink m.ld.toNat = some l)
    (hhpa : d.hpaOf m.ld.toNat (m.dpaLine.toNat * 64) = some hpa) :
    d.takeSnoop p m =
      ({ d with home.foreign := d.home.foreign ++ [foreignOf m p] }.modLink l fun x =>
        { x with snoops := x.snoops ++ [({ ld := m.ld.toNat, kind := m.snpType, hpa := BitVec.ofNat 64 hpa, label := m.label } : Snp)] }).flush l := by
  unfold Dev.takeSnoop
  extract_lets ld f
  rw [show (if d.biEnabled ld then _ else none) = some l from hl, show d.hpaOf ld (f.dpaLine * 64) = some hpa from hhpa]
  rfl

theorem Dev.takeSnoop_unmapped {d : Dev} {p l : Nat} {m : Msg} (hl : d.snoopLink m.ld.toNat = some l)
    (hhpa : d.hpaOf m.ld.toNat (m.dpaLine.toNat * 64) = none) : d.takeSnoop p m = (d.bump 0x183).snoopAnswer (foreignOf m p) 0 := by
  unfold Dev.takeSnoop
  extract_lets ld f
  rw [show (if d.biEnabled ld then _ else none) = some l from hl, show d.hpaOf ld (f.dpaLine * 64) = none from hhpa]
  rfl

theorem Dev.takeSnoop_fails {d : Dev} {p : Nat} {m : Msg} (hl : d.snoopLink m.ld.toNat = none) :
    d.takeSnoop p m = d.snoopFails (foreignOf m p) := by
  unfold Dev.takeSnoop
  extract_lets ld f
  rw [show (if d.biEnabled ld then _ else none) = none from hl]
  rfl

theorem Dev.takeConflictAck_goes {d : Dev} {p l : Nat} {m : Msg} (hl : d.ldLink m.ld.toNat = some l) (hup : (d.link l).st ≠ .down) :
    ∃ r : Resp, r.conflictAck = true ∧ r.ld = some m.ld.toNat ∧
      d.takeConflictAck p m =
        ({ d with home.foreign := replaceFirst (fun g => g.ld = m.ld.toNat && g.origin = m.origin && g.dpaLine = m.dpaLine.toNat)
                    (fun g => { g with tag := m.tag, port := p }) d.home.foreign }.modLink l fun x =>
          { x with egress := x.egress ++ [({ r := r, start := d.now } : Owed)] }).flush l := by
  refine ⟨{ ld := some m.ld.toNat, tag := 0, cls := .c3, answer := .cmp, load := 0, viral := false, conflictAck := true }, rfl, rfl, ?_⟩
  unfold Dev.takeConflictAck
  extract_lets ld mine under home d1
  rw [show d1.ldLink ld = some l from hl]
  exact if_neg hup

/-- A snoop that is next in a port's pool goes to the host, is answered, or goes on (R232, R236, R253, R254, R302). -/
theorem snoop_messages (s : State) (p : Fin 3) (m : Msg) (hclk : s.dev.clocked = true) (hm : (s.dev.tport p.val).firstOf .snp = some m)
    (hdoze : (s.dev.tport p.val).doze = 0) :
    let d := s.dev.modTport p.val fun x => x.taken m.cls
    let ld := m.ld.toNat
    let f : Foreign := { ld := ld, dpaLine := m.dpaLine.toNat, port := p.val, origin := m.origin, tag := m.tag, kind := m.snpType }
    (m.target = s.dev.chain.index → m.snpType ≠ 3 →
      (∀ l hpa, s.dev.biEnabled ld = true → s.dev.ldLink ld = some l → (s.dev.link l).st ≠ .down → s.dev.hpaOf ld (f.dpaLine * 64) = some hpa →
        Settles (.snp p) s fun e =>
          e = ({ d with home.foreign := d.home.foreign ++ [f] }.modLink l fun x =>
            { x with snoops := x.snoops ++ [({ ld := ld, kind := m.snpType, hpa := BitVec.ofNat 64 hpa, label := m.label } : Snp)] }).flush l) ∧
      (∀ l, s.dev.biEnabled ld = true → s.dev.ldLink ld = some l → (s.dev.link l).st ≠ .down → s.dev.hpaOf ld (f.dpaLine * 64) = none →
        Settles (.snp p) s fun e =>
          e = (d.bump 0x183).sendMsg p.val { op := .srsp, label := 0x40, tag := m.tag, origin := m.origin, srspType := 0 }) ∧
      (s.dev.biEnabled ld = false ∨ s.dev.ldLink ld = none ∨ (∃ l, s.dev.ldLink ld = some l ∧ (s.dev.link l).st = .down) →
        Settles (.snp p) s fun e => e = d.sendMsg p.val { op := .rsp, label := 0x40, tag := m.tag, origin := m.origin, status := 1 })) ∧
    (∀ l, m.target = s.dev.chain.index → m.snpType = 3 → s.dev.ldLink ld = some l → (s.dev.link l).st ≠ .down → Settles (.snp p) s fun e =>
      let mine (g : Foreign) : Bool := g.ld = ld && g.origin = m.origin && g.dpaLine = m.dpaLine.toNat
      let l' := replaceFirst mine (fun g => { g with tag := m.tag, port := p.val }) d.home.foreign
      ∃ r : Resp, r.conflictAck = true ∧ r.ld = some ld ∧
        e = ({ d with home.foreign := l' }.modLink l fun x => { x with egress := x.egress ++ [({ r := r, start := s.dev.now } : Owed)] }).flush l) ∧
    (∀ q, m.target ≠ s.dev.chain.index → s.dev.route m.unit2m (some p.val) = some q → (s.dev.tport q).txRoom m.cls = true →
      Settles (.snp p) s fun e => e = d.sendMsg q m (some p.val)) := by
  intro d ld f
  have htaken := Dev.takeSnp_eq hclk hm
  have hd : s.dev.takeFrom p.val m = d := Dev.takeFrom_awake hdoze m
  refine ⟨?_, ?_, ?_⟩
  · intro ht hkind
    have hsnoop : s.dev.takeSnp p.val = d.takeSnoop p.val m := by rw [htaken, if_neg (not_not_intro ht), if_neg hkind, hd]
    refine ⟨?_, ?_, ?_⟩
    · intro l hpa hbi hl hup hhpa
      exact Laws.settles_ok (exec_snp ..) (hsnoop.trans (Dev.takeSnoop_goes (Dev.snoopLink_of (d := s.dev) hbi hl hup) hhpa))
    · intro l hbi hl hup hhpa
      exact Laws.settles_ok (exec_snp ..) (hsnoop.trans (Dev.takeSnoop_unmapped (Dev.snoopLink_of (d := s.dev) hbi hl hup) hhpa))
    · intro hnone
      exact Laws.settles_ok (exec_snp ..) (hsnoop.trans (Dev.takeSnoop_fails (Dev.snoopLink_none (d := s.dev) hnone)))
  · intro l ht hkind hl hup
    refine Laws.settles_ok (exec_snp ..) ?_
    rw [htaken, if_neg (not_not_intro ht), if_pos hkind, hd]
    exact Dev.takeConflictAck_goes (d := d) hl hup
  · intro q ht hr hroom
    exact Laws.settles_ok (exec_snp ..) (htaken.trans ((if_pos ht).trans (Dev.passOn_goes hdoze hr hroom)))

/-- Settles O48: the request messages, then the snoops. -/
theorem requestChannelMessages : Obligations.RequestChannelMessages := by
  unfold Obligations.RequestChannelMessages
  exact ⟨request_messages, snoop_messages⟩

end Sys2Proof.Machine
end

section
/-! Responses of the chain as they leave a port (spec/01 R22, R38, R39; spec/08 R233, R236; spec/11 R302, R303). -/

namespace Sys2Proof.Machine

open Sys2Proof Sys2Proof.Laws

section
variable (s : State) (p : Fin 3)

theorem exec_rsp : exec (.rsp p) s = ok (s.dev.takeResponse p.val .rsp fun d m => d.rspHere p.val m).flow s := rfl
theorem exec_srsp : exec (.srsp p) s = ok (s.dev.takeResponse p.val .srsp Dev.srspHere).flow s := rfl
theorem exec_swb : exec (.swb p) s = ok (s.dev.takeResponse p.val .swb Dev.swbHere).flow s := rfl
theorem exec_mrsp : exec (.mrsp p) s = ok (s.dev.takeResponse p.val .mrsp fun d m => d.mrspHere p.val m).flow s := rfl

end

/-- A device whose port has one response fewer. -/
def Dev.dropped (d : Dev) (p : Nat) (rest : List Msg) : Dev := d.setTport p { d.tport p with rsps := rest }

/-- A device whose port has given a transit entry back (R303). -/
def Dev.released (d : Dev) (p : Nat) (tr : Transit) : Dev := (d.modTport p fun x => { x with transit := x.transit.erase tr }).pump p

/-- What becomes of a response that has its transit entry: the entry goes back but for a writeback's, and the response goes to the port its
request came from, or `here` takes it (R302, R303). -/
def Dev.routed (d : Dev) (p : Nat) (here : Dev → Msg → Dev) (m : Msg) (tr : Transit) : Dev :=
  let d := if m.op = .swb then d else d.released p tr
  match tr.from_ with
  | some q => if q < 3 then d.sendMsg q m else d
  | none => here d m

section
variable {d : Dev} {p : Nat} {m : Msg} {rest : List Msg} {tr : Transit}

section
variable {op : MsgOp} (here : Dev → Msg → Dev) (hclk : d.clocked = true) (hrsps : (d.tport p).rsps = m :: rest)
include hclk hrsps

theorem Dev.takeResponse_other (hop : m.op ≠ op) : d.takeResponse p op here = d := by
  unfold Dev.takeResponse
  extract_lets x d1
  rw [if_pos hclk, show x.rsps = m :: rest from hrsps]
  exact if_pos hop

theorem Dev.takeResponse_stray (hdoze : (d.tport p).doze = 0) (hop : m.op = op) (htr : (d.tport p).transitFor m = none) :
    d.takeResponse p op here = (d.dropped p rest).bump (evTether p 6) := by
  unfold Dev.takeResponse
  extract_lets x d1
  have hd1 : d1 = (d.dropped p ((d.tport p).rsps.drop 1)).tryDoze p := rfl
  rw [Dev.tryDoze_awake (by rw [Dev.dropped, Dev.tport_setTport_self]; exact hdoze), hrsps] at hd1
  clear_value d1
  rw [if_pos hclk, show x.rsps = m :: rest from hrsps]
  dsimp -zeta only [List.head?_cons]
  rw [if_neg (not_not_intro hop), show x.transitFor m = none from htr, hd1]
  rfl

theorem Dev.takeResponse_routed (hdoze : (d.tport p).doze = 0) (hop : m.op = op) (htr : (d.tport p).transitFor m = some tr) :
    d.takeResponse p op here = (d.dropped p rest).routed p here m tr := by
  unfold Dev.takeResponse
  extract_lets x d1
  have hd1 : d1 = (d.dropped p ((d.tport p).rsps.drop 1)).tryDoze p := rfl
  rw [Dev.tryDoze_awake (by rw [Dev.dropped, Dev.tport_setTport_self]; exact hdoze), hrsps] at hd1
  clear_value d1
  subst hop
  rw [if_pos hclk, show x.rsps = m :: rest from hrsps]
  dsimp -zeta only [List.head?_cons]
  rw [if_neg (not_not_intro rfl), show x.transitFor m = some tr from htr, hd1]
  rfl

end

theorem Dev.routed_back (here : Dev → Msg → Dev) {q : Nat} (hswb : m.op ≠ .swb) (hq : tr.from_ = some q) (hlt : q < 3) :
    d.routed p here m tr = (d.released p tr).sendMsg q m := by
  rw [Dev.routed, hq, if_neg hswb]
  exact if_pos hlt

theorem Dev.routed_backSwb (here : Dev → Msg → Dev) {q : Nat} (hswb : m.op = .swb) (hq : tr.from_ = some q) (hlt : q < 3) :
    d.routed p here m tr = d.sendMsg q m := by
  rw [Dev.routed, hq, if_pos hswb]
  exact if_pos hlt

theorem Dev.routed_here (here : Dev → Msg → Dev) (hswb : m.op ≠ .swb) (hfrom : tr.from_ = none) :
    d.routed p here m tr = here (d.released p tr) m := by
  rw [Dev.routed, hfrom, if_neg hswb]

theorem Dev.routed_hereSwb (here : Dev → Msg → Dev) (hswb : m.op = .swb) (hfrom : tr.from_ = none) : d.routed p here m tr = here d m := by
  rw [Dev.routed, hfrom, if_pos hswb]

end

/-! ### At the origin (R22, R38, R39, R233, R236) -/

section
variable {d : Dev} {m : Msg}

theorem Dev.rspHere_request {id : Nat} {q : Req} (p : Nat) (hst : m.status.toNat ≤ 1)
    (htag : d.chain.tags.look m.tag.toNat = some (.req id false [])) (hq : d.req id = some q) :
    d.rspHere p m =
      (let r := { q with load := m.load }
       let g := { d with chain.tags := d.chain.tags.del m.tag.toNat }.remoteLevel r m.level.toNat
       if m.status ≠ 0 then g.fail r else g.answer r (if q.isRead then (if m.poison then .poison else .data m.data) else .cmp)) := by
  unfold Dev.rspHere
  extract_lets t st
  rw [if_neg (Nat.not_lt.mpr hst), show d.chain.tags.look t = some (.req id false []) from htag]
  dsimp -zeta only
  rw [if_neg (by decide), Dev.remoteDone, show ({ d with chain.tags := d.chain.tags.del t } : Dev).req id = some q from hq]
  have hread : ({ q with load := m.load } : Req).isRead = q.isRead := rfl
  dsimp only
  rw [hread]
  cases q.isRead
  · rfl
  · rfl

theorem Dev.srspHere_snoop {n k : Nat} (htag : d.chain.tags.look m.tag.toNat = some (.snoop n k)) :
    d.srspHere m =
      (let g := { d with chain.tags := d.chain.tags.del m.tag.toNat }
       if m.srspType = 2 then g.takeConflict k n else g.takeBirsp k n (m.srspType = 1)) := by
  unfold Dev.srspHere
  extract_lets t
  rw [show d.chain.tags.look t = some (.snoop n k) from htag]

theorem Dev.swbHere_snoop {n k : Nat} {o : Attr × Nat × Option Nat} (htag : d.chain.tags.look m.tag.toNat = some (.snoop n k))
    (ho : d.ownerOf n = some o) :
    ∃ q : Req, q.id = d.path.next ∧ q.op = .write ∧ q.data = m.data ∧ q.poison = m.poison ∧ q.label = m.label ∧ q.media = n * 64 ∧
      q.attr = o.1 ∧ q.mask = BitVec.allOnes 64 ∧ d.swbHere m = { d with path.next := d.path.next + 1 }.placeWrite q n := by
  obtain ⟨a, page, im⟩ := o
  refine ⟨{ id := d.path.next, src := .scrub, op := .write, label := m.label, data := m.data, poison := m.poison, stage := .lsWait
            pool := d.chain.index * 2 ^ 44 + page * 4096 + n % 64 * 64, media := n * 64, attr := a, granted := true
            admitBnd := d.clk.bnd }, rfl, rfl, rfl, rfl, rfl, rfl, rfl, rfl, ?_⟩
  rw [Dev.swbHere, htag]
  dsimp -zeta only
  rw [ho]
  rfl

end

/-- Settles O49: what the port does with the response, then what it does where the request came from here. -/
theorem responseMessages : Obligations.ResponseMessages := by
  unfold Obligations.ResponseMessages
  intro s p m rest x hclk hdoze hrsps d f t
  have hf (tr : Transit) (htr : x.transitFor m = some tr) : f = (s.dev.dropped p.val rest).released p.val tr := by
    have hmine : ({ x with rsps := rest } : TPort).transitFor m = some tr := htr
    simp only [f, d, Dev.released, Dev.modTport, Dev.dropped, Dev.tport_setTport_self]
    rw [hmine]
  refine ⟨?_, ?_, ?_⟩
  · intro c op hc
    obtain ⟨here, hexec⟩ : ∃ here, exec c s = ok (s.dev.takeResponse p.val op here).flow s := by
      simp only [List.mem_cons, Prod.mk.injEq, List.not_mem_nil, or_false] at hc
      obtain ⟨rfl, rfl⟩ | ⟨rfl, rfl⟩ | ⟨rfl, rfl⟩ | ⟨rfl, rfl⟩ := hc
      · exact ⟨_, exec_rsp ..⟩
      · exact ⟨_, exec_srsp ..⟩
      · exact ⟨_, exec_swb ..⟩
      · exact ⟨_, exec_mrsp ..⟩
    refine ⟨?_, ?_, ?_⟩
    · intro hop
      exact Laws.settles_ok hexec (Dev.takeResponse_other here hclk hrsps hop)
    · intro hop htr
      exact Laws.settles_ok hexec (Dev.takeResponse_stray here hclk hrsps hdoze hop htr)
    · intro tr q hop hswb htr hq hlt
      refine Laws.settles_ok hexec ?_
      rw [Dev.takeResponse_routed here hclk hrsps hdoze hop htr, Dev.routed_back here (by rw [hop]; exact hswb) hq hlt, ← hf tr htr]
  · intro tr q hop htr hq hlt
    refine Laws.settles_ok (exec_swb ..) ?_
    rw [Dev.takeResponse_routed _ hclk hrsps hdoze hop htr, Dev.routed_backSwb _ hop hq hlt]
    rfl
  · intro tr htr hfrom
    have hhere {op : MsgOp} (here : Dev → Msg → Dev) (hop : m.op = op) (hswb : op ≠ .swb) : s.dev.takeResponse p.val op here = here f m := by
      rw [Dev.takeResponse_routed here hclk hrsps hdoze hop htr, Dev.routed_here here (by rw [hop]; exact hswb) hfrom, ← hf tr htr]
    refine ⟨?_, ?_, ?_, ?_⟩
    · intro id q hop hst htag hq r g
      refine Laws.settles_ok (exec_rsp ..) ?_
      rw [hhere _ hop (by decide), Dev.rspHere_request p.val (by rw [hst]; decide) htag hq]
      exact if_neg (not_not_intro hst)
    · intro id q hop hst htag hq r g
      refine Laws.settles_ok (exec_rsp ..) ?_
      rw [hhere _ hop (by decide), Dev.rspHere_request p.val (by rw [hst]; decide) htag hq]
      exact if_pos (by rw [hst]; decide)
    · intro n k hop htag g
      constructor
      · intro hkind
        refine Laws.settles_ok (exec_srsp ..) ?_
        rw [hhere _ hop (by decide), Dev.srspHere_snoop htag]
        exact if_neg hkind
      · intro hkind
        refine Laws.settles_ok (exec_srsp ..) ?_
        rw [hhere _ hop (by decide), Dev.srspHere_snoop htag]
        exact if_pos hkind
    · intro n k o hop htag ho
      refine Laws.settles_ok (exec_swb ..) ?_
      rw [Dev.takeResponse_routed _ hclk hrsps hdoze hop htr, Dev.routed_hereSwb _ hop hfrom]
      exact Dev.swbHere_snoop htag ho

end Sys2Proof.Machine
end

section
/-! Management messages and their answers (spec/11 R302, R304, R305, R318, R323). -/

namespace Sys2Proof.Machine

open Sys2Proof Sys2Proof.Laws

theorem exec_mgmt (p : Fin 3) (s : State) : exec (.mgmt p) s = ok (s.dev.takeMgmt p.val).flow s := rfl
theorem exec_mgmtResponseTimeout (t : BitVec 16) (s : State) : exec (.mgmtResponseTimeout t) s = ok (s.dev.mgmtTimeout t.toNat).flow s := rfl

/-- A management message is for this device: its path ends here, or its index is this device's (R302). -/
def Dev.mgmtHere (d : Dev) (m : Msg) : Prop := if m.pathMode then m.dest = 0 else m.target = d.chain.index

section
variable {d : Dev} {p : Nat} {m : Msg} (hclk : d.clocked = true) (hm : (d.tport p).firstOf .mgmt = some m)
include hclk hm

theorem Dev.takeMgmt_here (h : d.mgmtHere m) : d.takeMgmt p = d.deliverMgmt p m := by
  rw [Dev.takeMgmt, if_pos hclk, hm]
  dsimp only
  unfold Dev.mgmtHere at h
  split
  next hpath => rw [if_pos hpath] at h; rw [if_pos h]
  next hpath => rw [if_neg hpath] at h; rw [if_pos h]

theorem Dev.takeMgmt_path (hpath : m.pathMode = true) (hdest : m.dest ≠ 0) : d.takeMgmt p = d.forwardPath p m := by
  rw [Dev.takeMgmt, if_pos hclk, hm]
  dsimp only
  rw [if_pos hpath, if_neg hdest]

end

/-- The device that a management message acts on: the message has left its pool and its doorbell has been rung (R304, R408). -/
def Dev.rung (d : Dev) (p : Nat) (m : Msg) : Dev := (d.modTport p fun x => x.taken m.cls).doorbell (0x385 + p)

/-- What follows the answer that serving a message gave. -/
theorem Dev.deliverMgmt_answers {d e : Dev} {p r : Nat} {m : Msg} {body : List Byte} (hdoze : (d.tport p).doze = 0)
    (hserve : (d.rung p m).serveMgmt p m = (some (r, body), e)) : d.deliverMgmt p m = (e.mrsp p m r body).tryDoze p := by
  unfold Dev.deliverMgmt
  rw [Dev.takeFrom_awake hdoze, show ((d.modTport p _).doorbell (0x385 + p)).serveMgmt p m = (some (r, body), e) from hserve]

section
variable (d : Dev) (p : Nat) {m : Msg}

theorem Dev.serveMgmt_probe (hop : m.subOp = 1) (hfits : fits m.body 10 = true) : d.serveMgmt p m = (some (0, d.probeBody), d) := by
  rw [Dev.serveMgmt, hop]
  exact if_pos hfits

theorem Dev.serveMgmt_assign (hop : m.subOp = 2) (hfits : fits m.body 5 = true) :
    d.serveMgmt p m = (some ((d.takeAssign m.body).1, []), (d.takeAssign m.body).2) := by
  rw [Dev.serveMgmt, hop]
  exact if_pos hfits

theorem Dev.serveMgmt_ranges (hop : m.subOp = 3) (hfits : fits m.body 1 = true) (hport : field m.body 0 1 < 3) :
    d.serveMgmt p m = (some (0, (List.range 16).flatMap fun n => leBytes 8 (d.setting idReachRange (field m.body 0 1 * 16 + n))), d) := by
  rw [Dev.serveMgmt, hop]
  exact if_pos (by simp [hfits, hport])

theorem Dev.serveMgmt_unknown (hop : m.subOp = 0 ∨ 0x32 ≤ m.subOp.toNat) : d.serveMgmt p m = (some (1, []), d) := by
  rw [Dev.serveMgmt]
  rcases hop with hop | hop
  · rw [hop]
    rfl
  · obtain ⟨j, hj⟩ := Nat.exists_eq_add_of_le' hop
    rw [hj]
    rfl

end

/-! ### An index is assigned (R305, R318) -/

theorem Dev.takeIndex_takes (d : Dev) (index depth : Nat) (parent : Option Nat) (walk : Nat) :
    let e := d.takeIndex index depth parent walk
    e.chain.index = index ∧ e.chain.assigned = true ∧ e.chain.depth = depth ∧ e.chain.parent = parent ∧ e.chain.source = parent ∧
      e.chain.walk = walk ∧ e.chain.mayStep = (d.chain.mayStep || parent.isSome && !d.chain.assigned) ∧ e.line = d.line := by
  unfold Dev.takeIndex
  extract_lets old own d1 d2 chain
  have h1 : d1.chain = d.chain ∧ d1.line = d.line := by
    simp only [d1]
    split
    · exact ⟨rfl, rfl⟩
    · refine each_induct (fun e : Dev => e.chain = d.chain ∧ e.line = d.line) ⟨rfl, rfl⟩ ?_
      intro e ld _ hold
      split
      · exact hold
      · exact hold
  obtain ⟨hchain, hline⟩ := h1
  have h2 : d2.chain = d.chain := hchain
  refine ⟨rfl, rfl, rfl, rfl, rfl, rfl, ?_, hline⟩
  show (d2.chain.mayStep || parent.isSome && !d2.chain.assigned) = _
  rw [h2]

theorem Dev.takeAssign_takes {d : Dev} {body : List Byte} (hix : field body 0 1 ≤ 31) (hdepth : field body 1 1 ≤ 31)
    (hparent : field body 2 1 ≤ 2) (hnew : d.chain.assigned = false) :
    d.takeAssign body = (0, d.takeIndex (field body 0 1) (field body 1 1) (some (field body 2 1)) (field body 3 2)) := by
  have h : ¬ field body 2 1 = 255 := by omega
  unfold Dev.takeAssign
  extract_lets ix depth parent
  rw [if_neg (by simp [ix, depth, parent]; omega), if_neg (by simp [hnew]), if_neg h]

theorem Dev.takeAssign_refuses {d : Dev} {body : List Byte} (hix : field body 0 1 ≤ 31) (hdepth : field body 1 1 ≤ 31)
    (hparent : field body 2 1 ≤ 2) (hheld : d.chain.assigned = true) (halone : d.chain.alone = false) (hother : d.chain.index ≠ field body 0 1) :
    d.takeAssign body = (2, d) := by
  unfold Dev.takeAssign
  extract_lets ix depth parent
  rw [if_neg (by simp [ix, depth, parent]; omega), if_pos (by simp [hheld, halone, hother, ix])]

/-! ### Delivery and forwarding (R302, R304) -/

section
variable {d : Dev} {p q : Nat} {m : Msg} (hdoze : (d.tport p).doze = 0) (hq : q = m.path.toNat % 4)
include hq

theorem Dev.forwardPath_waits (hlt : q < 3) (hup : (d.tport q).up = true) (hroom : (d.tport q).txRoom m.cls = false) :
    d.forwardPath p m = d := by
  subst hq
  simp [Dev.forwardPath, hlt, hup, hroom]

include hdoze

theorem Dev.forwardPath_goes (hlt : q < 3) (hup : (d.tport q).up = true) (hroom : (d.tport q).txRoom m.cls = true) :
    d.forwardPath p m = (d.modTport p fun x => x.taken m.cls).sendMsg q { m with path := m.path >>> 2, dest := m.dest - 1 } (some p) := by
  subst hq
  simp [Dev.forwardPath, hlt, hup, hroom, Dev.takeFrom_awake hdoze]

theorem Dev.forwardPath_lost (hlost : q = 3 ∨ (d.tport q).up = false) :
    d.forwardPath p m = (d.modTport p fun x => x.taken m.cls).sendMsg p (rspTo m 3 0 0 none) := by
  have hdown : (decide (q < 3) && (d.tport q).up) = false := by
    rcases hlost with h | h
    · simp [h]
    · simp [h]
  unfold Dev.forwardPath
  extract_lets q' up
  rw [show up = false from by simp only [up, q', ← hq]; exact hdown, Dev.takeFrom_awake hdoze]
  rfl

end

/-- A management message for this device is answered under its tag; one with hops left goes on (R302, R304, R305, R318). -/
theorem management_messages (s : State) (p : Fin 3) (m : Msg) (hclk : s.dev.clocked = true) (hm : (s.dev.tport p.val).firstOf .mgmt = some m)
    (hdoze : (s.dev.tport p.val).doze = 0) :
    let d := (s.dev.modTport p.val fun x => x.taken m.cls).doorbell (0x385 + p.val)
    let here := if m.pathMode then m.dest = 0 else m.target = s.dev.chain.index
    let answers (r : Nat) (body : List Byte) (d e : Dev) : Prop := ∃ g : Dev,
      g = d.sendMsg p.val { op := .mrsp, label := m.label, tag := m.tag, origin := m.origin, subOp := m.subOp, body := BitVec.ofNat 8 r :: body } ∧
      e = g.tryDoze p.val
    (here → m.subOp = 1 → fits m.body 10 = true → Settles (.mgmt p) s (answers 0 d.probeBody d)) ∧
    (here → m.subOp = 2 → fits m.body 5 = true → field m.body 0 1 ≤ 31 → field m.body 1 1 ≤ 31 → field m.body 2 1 ≤ 2 →
      (s.dev.chain.assigned = false → Settles (.mgmt p) s fun e => ∃ h : Dev, answers 0 [] h e ∧
        h.chain.index = field m.body 0 1 ∧ h.chain.assigned = true ∧ h.chain.depth = field m.body 1 1 ∧
        h.chain.parent = some (field m.body 2 1) ∧ h.chain.source = some (field m.body 2 1) ∧ h.chain.mayStep = true ∧ h.line = s.dev.line) ∧
      (s.dev.chain.assigned = true → s.dev.chain.alone = false → s.dev.chain.index ≠ field m.body 0 1 →
        Settles (.mgmt p) s (answers 2 [] d))) ∧
    (here → m.subOp = 3 → fits m.body 1 = true → field m.body 0 1 < 3 → Settles (.mgmt p) s
      (answers 0 ((List.range 16).flatMap fun n => leBytes 8 (d.setting idReachRange (field m.body 0 1 * 16 + n))) d)) ∧
    (here → (m.subOp = 0 ∨ 0x32 ≤ m.subOp.toNat) → Settles (.mgmt p) s (answers 1 [] d)) ∧
    (∀ q, m.pathMode = true → m.dest ≠ 0 → q = m.path.toNat % 4 →
      (q < 3 → (s.dev.tport q).up = true → (s.dev.tport q).txRoom m.cls = true → Settles (.mgmt p) s fun e =>
        e = (s.dev.modTport p.val fun x => x.taken m.cls).sendMsg q { m with path := m.path >>> 2, dest := m.dest - 1 } (some p.val)) ∧
      (q < 3 → (s.dev.tport q).up = true → (s.dev.tport q).txRoom m.cls = false → Settles (.mgmt p) s fun e => e = s.dev) ∧
      (q = 3 ∨ (s.dev.tport q).up = false → Settles (.mgmt p) s fun e =>
        e = (s.dev.modTport p.val fun x => x.taken m.cls).sendMsg p.val (rspTo m 3 0 0 none))) := by
  intro d here answers
  have hanswers {e : Dev} {r : Nat} {body : List Byte} (h : here) (hserve : d.serveMgmt p.val m = (some (r, body), e)) :
      Settles (.mgmt p) s (answers r body e) :=
    Laws.settles_ok (exec_mgmt ..) ⟨_, rfl, (Dev.takeMgmt_here hclk hm h).trans (Dev.deliverMgmt_answers hdoze hserve)⟩
  have hsig : Signals (s.dev.modTport p.val fun x => x.taken m.cls) d := signals_doorbell ..
  refine ⟨?_, ?_, ?_, ?_, ?_⟩
  · intro h hop hfits
    exact hanswers h (Dev.serveMgmt_probe d p.val hop hfits)
  · intro h hop hfits hix hdepth hparent
    constructor
    · intro hnew
      have hserve := Dev.serveMgmt_assign d p.val hop hfits
      have hnew' : d.chain.assigned = false := by rw [hsig.chain]; exact hnew
      rw [Dev.takeAssign_takes hix hdepth hparent hnew'] at hserve
      obtain ⟨e, hexec, he⟩ := hanswers h hserve
      obtain ⟨hindex, hassigned, hdep, hpar, hsource, -, hstep, hline⟩ :=
        d.takeIndex_takes (field m.body 0 1) (field m.body 1 1) (some (field m.body 2 1)) (field m.body 3 2)
      refine ⟨e, hexec, _, he, hindex, hassigned, hdep, hpar, hsource, ?_, hline.trans hsig.line⟩
      rw [hstep, hnew']
      simp
    · intro hheld halone hother
      have hserve := Dev.serveMgmt_assign d p.val hop hfits
      rw [Dev.takeAssign_refuses hix hdepth hparent (by rw [hsig.chain]; exact hheld) (by rw [hsig.chain]; exact halone)
        (by rw [hsig.chain]; exact hother)] at hserve
      exact hanswers h hserve
  · intro h hop hfits hport
    exact hanswers h (Dev.serveMgmt_ranges d p.val hop hfits hport)
  · intro h hop
    exact hanswers h (Dev.serveMgmt_unknown d p.val hop)
  · intro q hpath hdest hq
    have hon := Dev.takeMgmt_path hclk hm hpath hdest
    refine ⟨?_, ?_, ?_⟩
    · intro hlt hup hroom
      exact Laws.settles_ok (exec_mgmt ..) (hon.trans (Dev.forwardPath_goes hdoze hq hlt hup hroom))
    · intro hlt hup hroom
      exact Laws.settles_ok (exec_mgmt ..) (hon.trans (Dev.forwardPath_waits hq hlt hup hroom))
    · intro hlost
      exact Laws.settles_ok (exec_mgmt ..) (hon.trans (Dev.forwardPath_lost hdoze hq hlost))

/-! ### Answers (R304, R323) -/

theorem Dev.mrspHere_mgmt {d : Dev} {p k dest : Nat} {m : Msg} {sent : List Byte}
    (htag : d.chain.tags.look m.tag.toNat = some (.mgmt k dest sent)) :
    d.mrspHere p m =
      ({ d with chain.tags := d.chain.tags.del m.tag.toNat }.doorbell (0x385 + p)).mgmtAnswered k dest sent (some m.body) := by
  rw [Dev.mrspHere, htag]

theorem Dev.mgmtTimeout_mgmt {d : Dev} {t k dest : Nat} {sent : List Byte} (htag : d.chain.tags.look t = some (.mgmt k dest sent)) :
    d.mgmtTimeout t = { d with chain.tags := d.chain.tags.del t }.mgmtAnswered k dest sent none := by
  rw [Dev.mgmtTimeout, htag]

/-- The messages whose answers do nothing but free their tags. -/
theorem Dev.mgmtAnswered_plain {k : Nat} (hk : k ∈ [1, 2, 3, 4, 5, 0x31]) (d : Dev) (dest : Nat) (sent : List Byte) (a : Option (List Byte)) :
    d.mgmtAnswered k dest sent a = d := by
  simp only [List.mem_cons, List.not_mem_nil, or_false] at hk
  obtain rfl | rfl | rfl | rfl | rfl | rfl := hk <;> rfl

theorem Dev.mgmtAnswered_braid (d : Dev) (dest : Nat) (sent body : List Byte) (h : field body 0 1 = 0) :
    d.mgmtAnswered 6 dest sent (some body) = { d with chain.braidOk := dest :: d.chain.braidOk.filter (· ≠ dest) } :=
  if_pos (congrArg some h)

/-- What an MRSP does at the sender of its message (R304, R323, R347). -/
theorem management_answers (s : State) (p : Fin 3) (m : Msg) (rest : List Msg) (tr : Transit) (dest : Nat) (sent : List Byte) :
    let x := s.dev.tport p.val
    s.dev.clocked = true → x.doze = 0 → x.rsps = m :: rest → m.op = .mrsp → x.transitFor m = some tr → tr.from_ = none →
    let f := ((s.dev.setTport p.val { x with rsps := rest }).modTport p.val fun x => { x with transit := x.transit.erase tr }).pump p.val
    let g := { f with chain.tags := f.chain.tags.del m.tag.toNat }.doorbell (0x385 + p.val)
    (f.chain.tags.look m.tag.toNat = some (.mgmt 6 dest sent) → field m.body 0 1 = 0 → Settles (.mrsp p) s fun e =>
      e = { g with chain.braidOk := dest :: g.chain.braidOk.filter (· ≠ dest) }) ∧
    (∀ k ∈ [1, 2, 3, 4, 5, 0x31], f.chain.tags.look m.tag.toNat = some (.mgmt k dest sent) → Settles (.mrsp p) s fun e => e = g) ∧
    (f.chain.tags.look m.tag.toNat = some (.mgmt 0x12 dest sent) → Settles (.mrsp p) s fun e => e = g.prepareAnswered dest (some m.body)) := by
  intro x hclk hdoze hrsps hop htr hfrom f g
  have hanswered {k : Nat} (htag : f.chain.tags.look m.tag.toNat = some (.mgmt k dest sent)) :
      Settles (.mrsp p) s fun e => e = g.mgmtAnswered k dest sent (some m.body) := by
    refine Laws.settles_ok (exec_mrsp ..) ?_
    rw [Dev.takeResponse_routed _ hclk hrsps hdoze hop htr, Dev.routed_here _ (by rw [hop]; decide) hfrom]
    exact Dev.mrspHere_mgmt htag
  refine ⟨?_, ?_, ?_⟩
  · intro htag hzero
    rw [← Dev.mgmtAnswered_braid g dest sent m.body hzero]
    exact hanswered htag
  · intro k hk htag
    have h := hanswered htag
    rw [Dev.mgmtAnswered_plain hk] at h
    exact h
  · intro htag
    exact hanswered htag

/-- What the want of an answer after 1 ms does (R304, R347). -/
theorem management_timeouts (s : State) (t : BitVec 16) (dest : Nat) (sent : List Byte) :
    let g := { s.dev with chain.tags := s.dev.chain.tags.del t.toNat }
    (∀ k ∈ [1, 2, 3, 4, 5, 6, 0x31], s.dev.chain.tags.look t.toNat = some (.mgmt k dest sent) → Settles (.mgmtResponseTimeout t) s fun e =>
      e = g) ∧
    (s.dev.chain.tags.look t.toNat = some (.mgmt 0x12 dest sent) → Settles (.mgmtResponseTimeout t) s fun e => e = g.prepareAnswered dest none) ∧
    (s.dev.chain.tags.look t.toNat = none → Settles (.mgmtResponseTimeout t) s fun e => e = s.dev) := by
  intro g
  refine ⟨?_, ?_, ?_⟩
  · intro k hk htag
    refine Laws.settles_ok (exec_mgmtResponseTimeout ..) ?_
    rw [Dev.mgmtTimeout_mgmt htag]
    simp only [List.mem_cons, List.not_mem_nil, or_false] at hk
    obtain rfl | rfl | rfl | rfl | rfl | rfl | rfl := hk <;> rfl
  · intro htag
    exact Laws.settles_ok (exec_mgmtResponseTimeout ..) (Dev.mgmtTimeout_mgmt htag)
  · intro htag
    refine Laws.settles_ok (exec_mgmtResponseTimeout ..) ?_
    rw [Dev.mgmtTimeout, htag]

/-- Settles O50: the messages, then their answers and timeouts. -/
theorem managementMessagesAndAnswers : Obligations.ManagementMessagesAndAnswers := by
  unfold Obligations.ManagementMessagesAndAnswers
  exact ⟨management_messages, management_answers, management_timeouts⟩

end Sys2Proof.Machine
end

section
/-! The chain's indices, its walk and the source of its beats (spec/11 R315 to R318, R325, R326). -/

namespace Sys2Proof.Machine

open Sys2Proof Sys2Proof.Laws

theorem exec_noRoot (s : State) : exec .noRoot s = ok s.dev.noRoot s := rfl
theorem exec_tetherDiscoveryWalk (answers : List ProbeAnswer) (s : State) :
    exec (.tetherDiscoveryWalk answers) s = ok (s.dev.walkChain answers).flow s := rfl
theorem exec_beatMarker (p : Fin 3) (m : Marker) (off : Int) (s : State) :
    exec (.beatMarker p m off) s = ok (s.dev.takeMarker p.val m off) s := rfl
theorem exec_beatHoldover (s : State) : exec .beatHoldover s = ok s.dev.holdover s := rfl
theorem exec_beatSourceLoss (s : State) : exec .beatSourceLoss s = ok s.dev.sourceLoss s := rfl

/-! ### A device alone (R315) -/

/-- A port's link goes to standby where it is up (R315). -/
def TPort.parked (x : TPort) : TPort := if x.up then x.toStandby else x

theorem TPort.parked_up {x : TPort} (h : x.up = true) :
    x.parked.up = false ∧ x.parked.standby = true ∧ (x.st = .active → x.parked.st = .standby) := by
  rw [TPort.parked, if_pos h]
  refine ⟨?_, rfl, fun hst => if_pos hst⟩
  simp [TPort.up, TPort.toStandby]

theorem Dev.parkAll_tport (d : Dev) {p : Nat} (hp : p < 3) :
    (each [0, 1, 2] d fun d p => d.modTport p fun x => if x.up then x.toStandby else x).tport p = (d.tport p).parked := by
  simp only [each, List.foldl_cons, List.foldl_nil]
  match p, hp with
  | 0, _ => simp [TPort.parked]
  | 1, _ => simp [TPort.parked]
  | 2, _ => simp [TPort.parked]

theorem no_root (s : State) (b : Nat) (hup : s.dev.chain.firstUp = some b) (hclk : s.dev.clocked = true) (hnew : s.dev.chain.assigned = false)
    (hroot : s.dev.chain.rootStrap = false) (halone : s.dev.chain.alone = false) :
    (b + 4000000 ≤ s.dev.clk.bnd → Completes .noRoot s fun d =>
      d.chain.alone = true ∧ d.chain.index = 0 ∧ ∀ p < 3, (s.dev.tport p).up = true → (d.tport p).up = false ∧ (d.tport p).standby = true ∧
        ((s.dev.tport p).st = .active → (d.tport p).st = .standby)) ∧
    (s.dev.clk.bnd < b + 4000000 → Completes .noRoot s fun d => d = s.dev) := by
  constructor
  · intro hb
    refine Laws.completes_ok (exec_noRoot s) ?_
    rw [Dev.noRoot, hup]
    dsimp -zeta only
    rw [if_neg (by simp [hclk, hnew, hroot, halone]; omega)]
    extract_lets d1 chain
    have hports (p : Nat) (hp : p < 3) : d1.tport p = (s.dev.tport p).parked := s.dev.parkAll_tport hp
    have hsig := signals_raise ({ d1 with chain.alone := true, chain.index := 0 } : Dev) 0x112 .warning none 0
    have hport (p : Nat) (hp : p < 3) : (({ d1 with chain.alone := true, chain.index := 0 } : Dev).raise 0x112 .warning none 0).tport p =
        (s.dev.tport p).parked := by rw [Dev.tport, hsig.chain]; exact hports p hp
    refine ⟨by rw [hsig.chain], by rw [hsig.chain], ?_⟩
    intro p hp hpup
    rw [hport p hp]
    exact TPort.parked_up hpup
  · intro hb
    refine Laws.completes_ok (exec_noRoot s) ?_
    simp [Dev.noRoot, hup, hb]

/-! ### The walk of a root (R316, R318) -/

/-- The index that a walk gives a root that finds no other device: its pin, or the lowest one. -/
theorem giveIndices_root {a : Found} (hpin : ∀ i, a.pinned = some i → i < 32) :
    giveIndices [] [a] = ([{ a with index := a.pinned.getD 0 }], []) := by
  cases h : a.pinned with
  | none => simp [giveIndices, uidIndex, h, lowestFree, firstFree]
  | some i => simp [giveIndices, uidIndex, h, hpin i h]

theorem foundIn_root (root : Found) : foundIn [] root = [root] := by
  simp [foundIn]

/-- The index of a root that finds no other device. -/
def Dev.loneIndex (d : Dev) : Nat := if d.setting idPinnedIndex 0 < 32 then d.setting idPinnedIndex 0 else 0

theorem Dev.loneIndex_lt (d : Dev) : d.loneIndex < 32 := by
  unfold Dev.loneIndex
  split
  · assumption
  · decide

theorem Dev.giveIndices_rootFound (d : Dev) : giveIndices [] [d.rootFound] = ([{ d.rootFound with index := d.loneIndex }], []) := by
  have hpin : d.rootFound.pinned.getD 0 = d.loneIndex := by
    simp only [Dev.rootFound, Dev.loneIndex]
    split <;> rfl
  rw [← hpin]
  refine giveIndices_root ?_
  intro i hi
  have : d.setting idPinnedIndex 0 < 32 ∧ d.setting idPinnedIndex 0 = i := by simpa [Dev.rootFound] using hi
  omega

theorem Dev.holdOverflow_few {d : Dev} (h : d.chain.topo.length < 32) : d.holdOverflow = d := if_pos h

/-- A walk that finds nobody: the root takes its index and is the whole topology. -/
theorem Dev.walkChain_alone {d : Dev} (hclk : d.clocked = true) (hroot : d.isRoot = true) (htopo : d.chain.topo = []) :
    ∃ (t : Topo) (b : List Nat), t.index = d.loneIndex ∧ t.uid = Config.uniqueId ∧ t.depth = 0 ∧
      d.walkChain [] = { d.takeIndex d.loneIndex 0 none ((d.chain.walk + 1) % 65536) with
        chain.topo := [t], chain.topoWalk := (d.chain.walk + 1) % 65536, chain.rangesDue := true, chain.synced := true, chain.braidOk := b } := by
  obtain ⟨a, hgive, hindex, hpath, huid⟩ :
      ∃ a : Found, giveIndices [] [d.rootFound] = ([a], []) ∧ a.index = d.loneIndex ∧ a.path = [] ∧ a.uid = Config.uniqueId :=
    ⟨_, d.giveIndices_rootFound, rfl, rfl, rfl⟩
  have hsmall : a.index < 32 := by rw [hindex]; exact d.loneIndex_lt
  suffices h : ∃ (t : Topo) (b : List Nat), t.index = a.index ∧ t.uid = a.uid ∧ t.depth = a.path.length ∧ d.walkChain [] =
      { d.takeIndex a.index 0 none ((d.chain.walk + 1) % 65536) with
        chain.topo := [t], chain.topoWalk := (d.chain.walk + 1) % 65536, chain.rangesDue := true, chain.synced := true, chain.braidOk := b } by
    rw [hindex, hpath, huid] at h
    exact h
  unfold Dev.walkChain
  rw [if_neg (by simp [hclk, hroot]), foundIn_root]
  simp only [List.map_nil, List.filter_nil, each, List.foldl_nil, htopo, hgive, List.filter_cons, hsmall, decide_true, if_true, List.map_cons,
    List.find?_cons, hpath, List.isEmpty_nil, Option.map_some, Option.getD_some, Bool.not_true, Bool.false_eq_true, if_false]
  exact ⟨_, _, rfl, rfl, rfl, Dev.holdOverflow_few (by simp)⟩

theorem discovery_walk (s : State) (answers : List ProbeAnswer) :
    (s.dev.isRoot = false → Settles (.tetherDiscoveryWalk answers) s fun e => e = s.dev) ∧
    (s.dev.clocked = true → s.dev.isRoot = true → s.dev.chain.topo = [] → Settles (.tetherDiscoveryWalk []) s fun e =>
      e.chain.assigned = true ∧ e.chain.depth = 0 ∧ e.chain.parent = none ∧ e.chain.synced = true ∧ e.chain.rangesDue = true ∧
      e.chain.walk = (s.dev.chain.walk + 1) % 65536 ∧
      e.chain.index = (if s.dev.setting idPinnedIndex 0 < 32 then s.dev.setting idPinnedIndex 0 else 0) ∧
      e.chain.topo.map (fun r => (r.index, r.uid, r.depth)) = [(e.chain.index, Config.uniqueId, 0)]) := by
  constructor
  · intro hroot
    refine Laws.settles_ok (exec_tetherDiscoveryWalk ..) ?_
    rw [Dev.walkChain, if_pos (by simp [hroot])]
  · intro hclk hroot htopo
    obtain ⟨t, b, hindex, huid, hdepth, hwalk⟩ := Dev.walkChain_alone hclk hroot htopo
    obtain ⟨hix, hassigned, hdep, hpar, -, hw, -⟩ := s.dev.takeIndex_takes s.dev.loneIndex 0 none ((s.dev.chain.walk + 1) % 65536)
    refine Laws.settles_ok (exec_tetherDiscoveryWalk ..) ?_
    rw [hwalk]
    refine ⟨hassigned, hdep, hpar, rfl, rfl, hw, hix, ?_⟩
    simp only [List.map_cons, List.map_nil, hindex, huid, hdepth, hix]

/-! ### The source's markers (R325) -/

/-- A device whose source's marker has been seen: its depth and sync, and the boundary (R325, R326). -/
def Dev.marked (d : Dev) (p : Nat) (m : Marker) : Dev :=
  { d.modTport p fun x => { x with partnerDepth := m.depth.toNat, partnerSynced := m.synced } with chain.lastMark := d.clk.bnd }

theorem Dev.marked_tport (d : Dev) (p : Nat) (m : Marker) :
    (d.marked p m).tport p = { d.tport p with partnerDepth := m.depth.toNat, partnerSynced := m.synced } :=
  Dev.tport_modTport_self d p fun x => { x with partnerDepth := m.depth.toNat, partnerSynced := m.synced }

theorem Dev.takeMarker_source {d : Dev} {p : Nat} {m : Marker} (off : Int) (hclk : d.clocked = true) (hst : (d.tport p).st = .active)
    (hroot : d.isRoot = false) (hsource : d.chain.source = some p) :
    d.takeMarker p m off = (d.modTport p fun x => { x with partnerDepth := m.depth.toNat, partnerSynced := m.synced }).followSource p m off := by
  unfold Dev.takeMarker
  extract_lets st d1 chain d2
  have hd2 : d2 = d1 := if_neg (by rw [show d1.chain.source = some p from hsource]; simp)
  clear_value d2
  rw [if_neg (by simp [hclk, st, hst]), if_neg (by rw [show d1.isRoot = false from hroot]; simp [st, hst]), hd2]
  exact if_pos hsource

theorem marker_seen {d e : Dev} {p : Nat} {m : Marker} (hports : e.chain.ports = (d.marked p m).chain.ports)
    (hlast : e.chain.lastMark = d.clk.bnd) :
    (e.tport p).partnerDepth = m.depth.toNat ∧ (e.tport p).partnerSynced = m.synced ∧ e.chain.lastMark = d.clk.bnd := by
  have h : e.tport p = { d.tport p with partnerDepth := m.depth.toNat, partnerSynced := m.synced } := by
    rw [Dev.tport, hports]
    exact d.marked_tport p m
  rw [h]
  exact ⟨rfl, rfl, hlast⟩

theorem beat_marker (s : State) (p : Fin 3) (m : Marker) (off : Int) (hclk : s.dev.clocked = true) (hst : (s.dev.tport p.val).st = .active)
    (hroot : s.dev.isRoot = false) (hsource : s.dev.chain.source = some p.val) :
    let seen (d : Dev) : Prop := (d.tport p.val).partnerDepth = m.depth.toNat ∧ (d.tport p.val).partnerSynced = m.synced ∧
      d.chain.lastMark = s.dev.clk.bnd
    (s.dev.chain.mayStep = true → Completes (.beatMarker p m off) s fun d => seen d ∧
      let past := ((s.dev.tport p.val).delay + 2 * m.lag.toNat) / 8
      d.clk.beat = m.beat + BitVec.ofNat 48 (past / 500) ∧ d.clk.clk = past % 500 ∧ d.chain.mayStep = false ∧ d.chain.synced = m.synced) ∧
    (s.dev.chain.mayStep = false → m.beat = s.dev.clk.beat → Completes (.beatMarker p m off) s fun d => seen d ∧
      (off = 0 → d.chain.slew = s.dev.chain.slew) ∧ (0 < off → d.chain.slew = s.dev.chain.slew + 1) ∧
      (off < 0 → d.chain.slew = s.dev.chain.slew - 1) ∧ (d.chain.synced = true ↔ m.synced = true ∧ off.natAbs ≤ 2) ∧ d.clk = s.dev.clk) ∧
    (s.dev.chain.mayStep = false → m.beat ≠ s.dev.clk.beat → Completes (.beatMarker p m off) s fun d => seen d ∧
      d.chain.synced = false ∧ d.chain.slew = s.dev.chain.slew ∧ d.clk = s.dev.clk) := by
  intro seen
  have htaken := Dev.takeMarker_source (m := m) off hclk hst hroot hsource
  have hdelay : ((s.dev.marked p.val m).tport p.val).delay = (s.dev.tport p.val).delay :=
    (congrArg TPort.delay (s.dev.marked_tport p.val m)).trans rfl
  have hfollow : s.dev.takeMarker p.val m off =
      if s.dev.chain.mayStep then
        { s.dev.marked p.val m with
          clk.beat := m.beat + BitVec.ofNat 48 (((s.dev.tport p.val).delay + 2 * m.lag.toNat) / 8 / 500)
          clk.clk := ((s.dev.tport p.val).delay + 2 * m.lag.toNat) / 8 % 500, chain.mayStep := false, chain.slew := 0, chain.synced := m.synced }
      else if m.beat ≠ s.dev.clk.beat then
        ({ s.dev.marked p.val m with chain.synced := false }.raise 0x117 .warning none
          (s.dev.clk.beat.toNat + m.beat.toNat * 2 ^ 48)).doorbell 0x388
      else { s.dev.marked p.val m with
        chain.slew := s.dev.chain.slew + (if 0 < off then 1 else if off < 0 then -1 else 0), chain.synced := m.synced && magnitude off ≤ 2 } := by
    rw [htaken, ← hdelay]
    rfl
  refine ⟨?_, ?_, ?_⟩
  · intro hstep
    refine Laws.completes_ok (exec_beatMarker ..) ?_
    rw [hfollow, if_pos hstep]
    exact ⟨marker_seen rfl rfl, rfl, rfl, rfl, rfl⟩
  · intro hstep hbeat
    refine Laws.completes_ok (exec_beatMarker ..) ?_
    rw [hfollow, if_neg (by simp [hstep]), if_neg (not_not_intro hbeat)]
    refine ⟨marker_seen rfl rfl, ?_, ?_, ?_, ?_, rfl⟩
    · rintro rfl
      simp
    · intro hpos
      simp [hpos]
    · intro hneg
      simp [hneg, show ¬ 0 < off by omega]
      omega
    · exact (Bool.and_eq_true_iff ..).trans (and_congr_right' decide_eq_true_iff)
  · intro hstep hbeat
    refine Laws.completes_ok (exec_beatMarker ..) ?_
    rw [hfollow, if_neg (by simp [hstep]), if_pos hbeat]
    have hsig := (signals_raise ({ s.dev.marked p.val m with chain.synced := false } : Dev) 0x117 .warning none
      (s.dev.clk.beat.toNat + m.beat.toNat * 2 ^ 48)).trans (signals_doorbell _ 0x388)
    refine ⟨marker_seen ?_ ?_, ?_, ?_, ?_⟩
    · rw [hsig.chain]
    · rw [hsig.chain]; rfl
    · rw [hsig.chain]
    · rw [hsig.chain]; rfl
    · rw [hsig.clk]; rfl

/-! ### Holdover and loss of the source (R326) -/

/-- The order by which `leastOf` takes a pair: by its first number, then its second. -/
def pairLe (a b : Nat × Nat) : Bool := a.1 < b.1 || (a.1 = b.1 && a.2 ≤ b.2)

theorem leastOf_min {l : List (Nat × Nat)} {x : Nat × Nat} (h : leastOf l = some x) : x ∈ l ∧ ∀ y ∈ l, x.1 ≤ y.1 := by
  have hsort : (l.mergeSort pairLe).Pairwise fun a b => pairLe a b = true := by
    refine List.pairwise_mergeSort ?_ ?_ l
    · intro a b c hab hbc
      simp only [pairLe, Bool.or_eq_true, Bool.and_eq_true, decide_eq_true_eq] at hab hbc ⊢
      omega
    · intro a b
      simp only [pairLe, Bool.or_eq_true, Bool.and_eq_true, decide_eq_true_eq]
      omega
  have hhead : (l.mergeSort pairLe).head? = some x := h
  obtain ⟨t, ht⟩ := List.head?_eq_some_iff.mp hhead
  rw [ht, List.pairwise_cons] at hsort
  have hmem (y : Nat × Nat) : y ∈ l ↔ y ∈ x :: t := by rw [← ht, List.mem_mergeSort]
  refine ⟨(hmem x).mpr (List.mem_cons_self ..), ?_⟩
  intro y hy
  rcases List.mem_cons.mp ((hmem y).mp hy) with rfl | hy
  · exact Nat.le_refl _
  · have hle := hsort.1 y hy
    simp only [pairLe, Bool.or_eq_true, Bool.and_eq_true, decide_eq_true_eq] at hle
    omega

theorem leastOf_none {l : List (Nat × Nat)} (h : leastOf l = none) : l = [] := by
  have hhead : (l.mergeSort pairLe).head? = none := h
  have hnil := List.head?_eq_none_iff.mp hhead
  exact List.eq_nil_iff_forall_not_mem.mpr fun x hx => by
    have := (List.mem_mergeSort (le := pairLe)).mpr hx
    rw [hnil] at this
    exact List.not_mem_nil this

/-- The synced partners of a device's ports, by depth (R326). -/
def Dev.syncedPorts (d : Dev) : List (Nat × Nat) :=
  ((List.range 3).filter fun p => (d.tport p).up && (d.tport p).partnerSynced).map fun p => ((d.tport p).partnerDepth, p)

theorem Dev.mem_syncedPorts {d : Dev} {x : Nat × Nat} :
    x ∈ d.syncedPorts ↔ x.2 < 3 ∧ (d.tport x.2).up = true ∧ (d.tport x.2).partnerSynced = true ∧ x.1 = (d.tport x.2).partnerDepth := by
  obtain ⟨a, p⟩ := x
  simp only [Dev.syncedPorts, List.mem_map, List.mem_filter, List.mem_range, Bool.and_eq_true, Prod.mk.injEq]
  constructor
  · rintro ⟨q, ⟨hq, hup, hsync⟩, rfl, rfl⟩
    exact ⟨hq, hup, hsync, rfl⟩
  · rintro ⟨hp, hup, hsync, rfl⟩
    exact ⟨p, ⟨hp, hup, hsync⟩, rfl, rfl⟩

theorem beat_holdover (s : State) (q : Nat) (hsource : s.dev.chain.source = some q) (hroot : s.dev.isRoot = false) :
    (s.dev.chain.lastMark + 64 ≤ s.dev.clk.bnd → Completes .beatHoldover s fun d =>
      d.chain.lastMark = s.dev.clk.bnd ∧ d.chain.slew = s.dev.chain.slew ∧
      (∀ p, d.chain.source = some p → (s.dev.tport p).up = true ∧ (s.dev.tport p).partnerSynced = true ∧
        ∀ r < 3, (s.dev.tport r).up = true → (s.dev.tport r).partnerSynced = true → (s.dev.tport p).partnerDepth ≤ (s.dev.tport r).partnerDepth) ∧
      (d.chain.source = none → ∀ r < 3, (s.dev.tport r).up = true → (s.dev.tport r).partnerSynced = false)) ∧
    (s.dev.clk.bnd < s.dev.chain.lastMark + 64 → Completes .beatHoldover s fun d => d = s.dev) := by
  constructor
  · intro hlate
    refine Laws.completes_ok (exec_beatHoldover s) ?_
    have heq : s.dev.holdover = ({ s.dev with chain.source := (leastOf s.dev.syncedPorts).map Prod.snd, chain.lastMark := s.dev.clk.bnd }.raise 0x118
        .warning none q).doorbell 0x388 := by
      rw [Dev.holdover, hsource]
      exact if_neg (by simp [hroot]; omega)
    have hsig := (signals_raise ({ s.dev with chain.source := (leastOf s.dev.syncedPorts).map Prod.snd, chain.lastMark := s.dev.clk.bnd } : Dev) 0x118
      .warning none q).trans (signals_doorbell _ 0x388)
    rw [heq, hsig.chain]
    refine ⟨rfl, rfl, ?_, ?_⟩
    · intro p hp
      obtain ⟨⟨a, _⟩, hleast, rfl⟩ := Option.map_eq_some_iff.mp hp
      obtain ⟨hmem, hmin⟩ := leastOf_min hleast
      obtain ⟨-, hup, hsync, ha⟩ := Dev.mem_syncedPorts.mp hmem
      refine ⟨hup, hsync, ?_⟩
      intro r hr hrup hrsync
      have hle := hmin ((s.dev.tport r).partnerDepth, r) (Dev.mem_syncedPorts.mpr ⟨hr, hrup, hrsync, rfl⟩)
      rw [ha] at hle
      exact hle
    · intro hnone r hr hrup
      have hnil := leastOf_none (Option.map_eq_none_iff.mp hnone)
      rw [← Bool.not_eq_true]
      intro hrsync
      have hmem : ((s.dev.tport r).partnerDepth, r) ∈ s.dev.syncedPorts := Dev.mem_syncedPorts.mpr ⟨hr, hrup, hrsync, rfl⟩
      rw [hnil] at hmem
      exact List.not_mem_nil hmem
  · intro hsoon
    refine Laws.completes_ok (exec_beatHoldover s) ?_
    simp [Dev.holdover, hsource, hsoon]

theorem source_loss (s : State) (hroot : s.dev.isRoot = false) (hsource : s.dev.chain.source = none) :
    (s.dev.chain.lastMark + 4096 ≤ s.dev.clk.bnd → Completes .beatSourceLoss s fun d => d = { s.dev with chain.synced := false }) ∧
    (s.dev.clk.bnd < s.dev.chain.lastMark + 4096 → Completes .beatSourceLoss s fun d => d = s.dev) := by
  constructor
  · intro hlate
    refine Laws.completes_ok (exec_beatSourceLoss s) ?_
    rw [Dev.sourceLoss, if_neg (by simp [hroot, hsource]; omega)]
  · intro hsoon
    refine Laws.completes_ok (exec_beatSourceLoss s) ?_
    rw [Dev.sourceLoss, if_pos (by simp [hsoon])]

/-- Settles O51: the device alone, the walk, the markers, holdover and loss. -/
theorem chainAndBeats : Obligations.ChainAndBeats := by
  unfold Obligations.ChainAndBeats
  exact ⟨no_root, discovery_walk, beat_marker, beat_holdover, source_loss⟩

end Sys2Proof.Machine
end

section
/-! Register reads, latched reads and register writes (spec/00 R15; spec/09 R270 to R272; spec/12 R331; spec/15 R419, R422). -/

namespace Sys2Proof.Machine

open Sys2Proof Sys2Proof.Laws

theorem exec_beatLoRead (ld : Fin 32) (box : Box) (s : State) :
    exec (.beatLoRead ld box) s = ok (s.dev.readBeatLo (issuerBox (.host ld box))) s := rfl
theorem exec_pendingLoRead (ld : Fin 32) (box : Box) (s : State) :
    exec (.pendingLoRead ld box) s = ok (s.dev.readPendingLo (issuerBox (.host ld box))) s := rfl
theorem exec_registerWrite (ld : Fin 32) (r : Reg) (s : State) : exec (.registerWrite ld r) s = ok (s.dev.writeReg ld.val r).settle s := rfl

/-! ### Fields of byte lists -/

theorem field_drop (l : List Byte) (k n : Nat) : field (l.drop k) 0 n = field l k n := by
  simp [field, slice]

theorem field_nil (k n : Nat) : field [] k n = 0 := by
  simp [field, slice, leNat]

theorem field_leBytes {n v : Nat} (h : v < 256 ^ n) : field (leBytes n v) 0 n = v := by
  rw [field, slice, List.drop_zero, List.take_of_length_le (Nat.le_of_eq (leBytes_length ..)), leNat_leBytes, Nat.mod_eq_of_lt h]

theorem field_getD (l : List Byte) (k : Nat) : field l k 1 = (l.getD k 0).toNat := by
  by_cases h : k < l.length
  · rw [field_one h, List.getD_eq_getElem?_getD, List.getElem?_eq_getElem h, Option.getD_some]
  · have hnil : l.drop k = [] := List.drop_eq_nil_of_le (by omega)
    rw [← field_drop, hnil, field_nil, List.getD_eq_getElem?_getD, List.getElem?_eq_none (by omega)]
    rfl

/-- A field within one of a table's entries of m bytes each. -/
theorem field_flatMap_range (f : Nat → List Byte) {m : Nat} (hf : ∀ v, (f v).length = m) {n v o k : Nat} (hv : v < n) (ho : o + k ≤ m) :
    field ((List.range n).flatMap f) (m * v + o) k = field (f v) o k := by
  have hlen (n : Nat) : ((List.range n).flatMap f).length = m * n := by
    induction n with
    | zero => rfl
    | succ n ih => rw [List.range_succ, List.flatMap_append, List.flatMap_singleton, List.length_append, ih, hf, Nat.mul_succ]
  induction n with
  | zero => omega
  | succ n ih =>
    rw [List.range_succ, List.flatMap_append, List.flatMap_singleton]
    by_cases hvn : v < n
    · rw [← ih hvn]
      have hle : m * (v + 1) ≤ m * n := Nat.mul_le_mul_left m hvn
      rw [Nat.mul_succ] at hle
      simp only [field, slice]
      rw [List.drop_append_of_le_length (by rw [hlen]; omega), List.take_append_of_le_length (by rw [List.length_drop, hlen]; omega)]
    · obtain rfl : v = n := by omega
      simp only [field, slice]
      rw [← List.drop_drop, List.drop_left' (hlen v)]

/-! ### The reads that latch (R331, R447) -/

/-- A latching read changes the registers of its own mailbox alone. -/
theorem Dev.latch_mbox (d : Dev) (n : Nat) (f : Mbox → Mbox) (o : Out) :
    ((d.modBox n f).say o).mbox n = f (d.mbox n) ∧ ∀ k ≠ n, ((d.modBox n f).say o).mbox k = d.mbox k :=
  ⟨Dev.mbox_modBox_self d n f, fun k hk => Dev.mbox_modBox_ne d n k f hk⟩

theorem latched_reads (s : State) (ld : Fin 32) (box : Box) :
    let n := issuerBox (.host ld box)
    (s.dev.clocked = true →
      (Completes (.beatLoRead ld box) s fun d =>
        d.out = s.dev.out ++ [.read (BitVec.ofNat 64 (s.dev.clk.beat.toNat % 2 ^ 32))] ∧
        d.mbox n = { s.dev.mbox n with beatHi := BitVec.ofNat 16 (s.dev.clk.beat.toNat / 2 ^ 32) } ∧
        (∀ k ≠ n, d.mbox k = s.dev.mbox k) ∧ d = { s.dev with host := d.host, out := d.out }) ∧
      (Completes (.pendingLoRead ld box) s fun d =>
        d.out = s.dev.out ++ [.read (BitVec.ofNat 64 (s.dev.pendingBeat % 2 ^ 32))] ∧
        d.mbox n = { s.dev.mbox n with pendingHi := BitVec.ofNat 16 (s.dev.pendingBeat / 2 ^ 32) } ∧
        (∀ k ≠ n, d.mbox k = s.dev.mbox k) ∧ d = { s.dev with host := d.host, out := d.out })) ∧
    (s.dev.clocked = false →
      Completes (.beatLoRead ld box) s (fun d => d = s.dev) ∧ Completes (.pendingLoRead ld box) s (fun d => d = s.dev)) := by
  intro n
  constructor
  · intro hclk
    constructor
    · refine Laws.completes_ok (exec_beatLoRead ..) ?_
      rw [Dev.readBeatLo, if_neg (by simp [hclk])]
      exact ⟨rfl, (Dev.latch_mbox ..).1, (Dev.latch_mbox ..).2, rfl⟩
    · refine Laws.completes_ok (exec_pendingLoRead ..) ?_
      rw [Dev.readPendingLo, if_neg (by simp [hclk])]
      exact ⟨rfl, (Dev.latch_mbox ..).1, (Dev.latch_mbox ..).2, rfl⟩
  · intro hclk
    constructor
    · refine Laws.completes_ok (exec_beatLoRead ..) ?_
      rw [Dev.readBeatLo, if_pos (by simp [hclk])]
    · refine Laws.completes_ok (exec_pendingLoRead ..) ?_
      rw [Dev.readPendingLo, if_pos (by simp [hclk])]

/-! ### What a read returns (R15, R270, R272, R419) -/

section
variable (d : Dev) (ld : Nat)

theorem Dev.readReg_misaligned {space : Space} {off size : Nat} (hspace : space ≠ .bar2) (h : size = 0 ∨ 8 < size ∨ off % size ≠ 0) :
    d.readReg ld space off size = 0 := by
  have hbad : (decide (size = 0) || decide (8 < size) || decide (off % size ≠ 0)) = true := by
    simpa [or_assoc] using h
  cases space with
  | bar2 => exact absurd rfl hspace
  | bar0 => exact if_pos hbad
  | dvsec => exact if_pos hbad
  | cfgMsix => exact if_pos hbad
  | aer => exact if_pos hbad

theorem Dev.readReg_window {space : Space} {off size : Nat} (hspace : space ≠ .bar2) (hsize : size ≠ 0) (hle : size ≤ 8) (halign : off % size = 0) :
    d.readReg ld space off size = field (d.regWindow ld space off) 0 size := by
  have hgood : ¬ (decide (size = 0) || decide (8 < size) || decide (off % size ≠ 0)) = true := by
    simp [hsize, halign]; omega
  cases space with
  | bar2 => exact absurd rfl hspace
  | bar0 => exact if_neg hgood
  | dvsec => exact if_neg hgood
  | cfgMsix => exact if_neg hgood
  | aer => exact if_neg hgood

theorem Dev.readReg_reserved {off : Nat} (size : Nat) (h : d.regWindow ld .bar0 off = []) : d.readReg ld .bar0 off size = 0 := by
  by_cases hbad : size = 0 ∨ 8 < size ∨ off % size ≠ 0
  · exact d.readReg_misaligned ld (by decide) hbad
  · simp only [not_or, Decidable.not_not, Nat.not_lt] at hbad
    obtain ⟨hsize, hle, halign⟩ := hbad
    rw [d.readReg_window ld (by decide) hsize hle halign, h, field_nil]

theorem Dev.regWindow_none {off : Nat} (h : (0x11028 ≤ off ∧ off < 0x17FE0) ∨ (0x30080 ≤ off ∧ off < 0x31000) ∨ 0x31008 ≤ off) :
    d.regWindow ld .bar0 off = [] := by
  simp only [Dev.regWindow, Bool.and_eq_true, decide_eq_true_eq]
  repeat' rw [if_neg (by omega)]

theorem Dev.regWindow_payload {k : Nat} (hk : k < 0x8000) :
    d.regWindow ld .bar0 (0x18000 + k) = (d.mbox (2 * ld)).inp.drop k ∧
      d.regWindow ld .bar0 (0x28000 + k) = (d.mbox (2 * ld + 1)).inp.drop k := by
  constructor
  · simp only [Dev.regWindow, Bool.and_eq_true, decide_eq_true_eq]
    rw [if_neg (by omega), if_neg (by omega), if_neg (by omega), if_pos (by omega), Nat.add_sub_cancel_left]
  · simp only [Dev.regWindow, Bool.and_eq_true, decide_eq_true_eq]
    rw [if_neg (by omega), if_neg (by omega), if_neg (by omega), if_neg (by omega), if_neg (by omega), if_neg (by omega), if_pos (by omega),
      Nat.add_sub_cancel_left]

theorem Dev.regWindow_msix {k : Nat} (hk : k < 0x80) : d.regWindow ld .bar0 (0x30000 + k) = (d.msixTable ld).drop k := by
  simp only [Dev.regWindow, Bool.and_eq_true, decide_eq_true_eq]
  rw [if_neg (by omega), if_neg (by omega), if_neg (by omega), if_neg (by omega), if_neg (by omega), if_neg (by omega), if_neg (by omega),
    if_pos (by omega), Nat.add_sub_cancel_left]

theorem Dev.regWindow_pending : d.regWindow ld .bar0 0x31000 = leBytes 8 (d.pendingBits ld) := rfl

theorem Dev.readReg_payload {k : Nat} (hk : k < 0x8000) :
    d.readReg ld .bar0 (0x18000 + k) 1 = ((d.mbox (2 * ld)).inp.getD k 0).toNat ∧
      d.readReg ld .bar0 (0x28000 + k) 1 = ((d.mbox (2 * ld + 1)).inp.getD k 0).toNat := by
  obtain ⟨h0, h1⟩ := d.regWindow_payload ld hk
  constructor
  · rw [d.readReg_window ld (by decide) (by decide) (by decide) (Nat.mod_one _), h0, field_drop, field_getD]
  · rw [d.readReg_window ld (by decide) (by decide) (by decide) (Nat.mod_one _), h1, field_drop, field_getD]

theorem flag_le (b : Bool) : flag b ≤ 1 := by cases b <;> decide

theorem Dev.readReg_mask {v : Nat} (hv : v < 8) : d.readReg ld .bar0 (0x30000 + 16 * v + 12) 4 = if (d.vec ld v).masked then 1 else 0 := by
  rw [d.readReg_window ld (by decide) (by decide) (by decide) (by omega), Nat.add_assoc, d.regWindow_msix ld (by omega), field_drop,
    Dev.msixTable, field_flatMap_range _ (by simp [leBytes_length]) hv (by omega)]
  have hflag := flag_le (d.vec ld v).masked
  dsimp only
  rw [← field_drop, List.drop_left' (by simp [leBytes_length]), field_leBytes (by omega)]
  rfl

theorem Dev.pendingBits_lt : d.pendingBits ld < 256 := by
  have h (v : Nat) := flag_le (d.vec ld v).pending
  have hbits : d.pendingBits ld = flag (d.vec ld 0).pending + 2 * flag (d.vec ld 1).pending + 4 * flag (d.vec ld 2).pending +
      8 * flag (d.vec ld 3).pending + 16 * flag (d.vec ld 4).pending + 32 * flag (d.vec ld 5).pending + 64 * flag (d.vec ld 6).pending +
      128 * flag (d.vec ld 7).pending := by
    simp [Dev.pendingBits, List.range_succ]
  have h0 := h 0
  have h1 := h 1
  have h2 := h 2
  have h3 := h 3
  have h4 := h 4
  have h5 := h 5
  have h6 := h 6
  have h7 := h 7
  omega

theorem Dev.readReg_pending : d.readReg ld .bar0 0x31000 8 = d.pendingBits ld := by
  have h := d.pendingBits_lt ld
  rw [d.readReg_window ld (by decide) (by decide) (by decide) (by decide), d.regWindow_pending, field_leBytes (by omega)]

theorem Dev.readReg_aer {l : Nat} (hl : d.ldLink ld = some l) :
    d.readReg ld .aer 4 4 = (d.link l).aerUnc.toNat ∧ d.readReg ld .aer 16 4 = (d.link l).aerCor.toNat := by
  constructor
  · rw [d.readReg_window ld (by decide) (by decide) (by decide) (by decide), Dev.regWindow, hl]
    exact field_leBytes (d.link l).aerUnc.isLt
  · rw [d.readReg_window ld (by decide) (by decide) (by decide) (by decide), Dev.regWindow, hl]
    exact field_leBytes (d.link l).aerCor.isLt

theorem Dev.readReg_beat :
    d.readReg ld .bar2 8 8 = d.clk.beat.toNat ∧ d.readReg ld .bar2 8 4 = d.clk.beat.toNat % 2 ^ 32 ∧
      d.readReg ld .bar2 12 4 = d.clk.beat.toNat / 2 ^ 32 := by
  have hword : d.bar2Word ld 8 = d.clk.beat.toNat := rfl
  have hbeat := d.clk.beat.isLt
  refine ⟨hword, ?_, ?_⟩
  · have h : d.readReg ld .bar2 8 4 = d.bar2Word ld 8 / 2 ^ 0 % 2 ^ 32 := rfl
    rw [h, hword, Nat.pow_zero, Nat.div_one]
  · have h : d.readReg ld .bar2 12 4 = d.bar2Word ld 8 / 2 ^ 32 % 2 ^ 32 := rfl
    rw [h, hword]
    omega

theorem Dev.readReg_bar2Size {off n : Nat} (h4 : n ≠ 4) (h8 : n ≠ 8) : d.readReg ld .bar2 off n = 0 := by
  simp [Dev.readReg, Dev.bar2Read, h4, h8]

end

theorem register_reads (d : Dev) (ld off size : Nat) :
    (0x11028 ≤ off → off < 0x17FE0 → d.readReg ld .bar0 off size = 0) ∧
    (0x30080 ≤ off → off < 0x31000 → d.readReg ld .bar0 off size = 0) ∧
    (0x31008 ≤ off → d.readReg ld .bar0 off size = 0) ∧
    (∀ k < 0x8000, d.readReg ld .bar0 (0x18000 + k) 1 = ((d.mbox (2 * ld)).inp.getD k 0).toNat ∧
      d.readReg ld .bar0 (0x28000 + k) 1 = ((d.mbox (2 * ld + 1)).inp.getD k 0).toNat) ∧
    (∀ v < 8, d.readReg ld .bar0 (0x30000 + 16 * v + 12) 4 = if (d.vec ld v).masked then 1 else 0) ∧
    d.readReg ld .bar0 0x31000 8 = d.pendingBits ld ∧
    (∀ l, d.ldLink ld = some l → d.readReg ld .aer 4 4 = (d.link l).aerUnc.toNat ∧ d.readReg ld .aer 16 4 = (d.link l).aerCor.toNat) ∧
    d.readReg ld .bar2 8 8 = d.clk.beat.toNat ∧ d.readReg ld .bar2 8 4 = d.clk.beat.toNat % 2 ^ 32 ∧
    d.readReg ld .bar2 12 4 = d.clk.beat.toNat / 2 ^ 32 ∧ (∀ n, n ≠ 4 → n ≠ 8 → d.readReg ld .bar2 off n = 0) := by
  obtain ⟨hbeat, hlow, hhigh⟩ := d.readReg_beat ld
  exact ⟨fun hlo hhi => d.readReg_reserved ld size (d.regWindow_none ld (.inl ⟨hlo, hhi⟩)),
    fun hlo hhi => d.readReg_reserved ld size (d.regWindow_none ld (.inr (.inl ⟨hlo, hhi⟩))),
    fun hlo => d.readReg_reserved ld size (d.regWindow_none ld (.inr (.inr hlo))),
    fun _ hk => d.readReg_payload ld hk, fun _ hv => d.readReg_mask ld hv, d.readReg_pending ld, fun _ hl => d.readReg_aer ld hl,
    hbeat, hlow, hhigh, fun _ h4 h8 => d.readReg_bar2Size ld h4 h8⟩

/-! ### Register writes (R15, R270, R271) -/

section
variable {d : Dev} {ld : Nat} {r : Reg}

theorem Dev.writeReg_ignored (h : d.clocked = false ∨ r.size = 0 ∨ 8 < r.size ∨ r.off % r.size ≠ 0 ∨ r.space = .bar2 ∨ r.space = .dvsec) :
    d.writeReg ld r = d := by
  unfold Dev.writeReg
  extract_lets v on
  split
  · rfl
  · next hgood =>
    simp only [Bool.or_eq_true, decide_eq_true_eq, not_or, Decidable.not_not] at hgood
    obtain ⟨⟨⟨hclk, hsize⟩, hle⟩, halign⟩ := hgood
    have hclk' : d.clocked = true := by simpa using hclk
    have hspace : r.space = .bar2 ∨ r.space = .dvsec := by simpa [hclk', hsize, hle, halign] using h
    rcases hspace with hspace | hspace
    · rw [hspace]
    · rw [hspace]

/-- A write that the device takes: clocked, aligned, and of at most 8 bytes (R15). -/
structure Dev.Writes (d : Dev) (r : Reg) : Prop where
  clocked : d.clocked = true
  size : r.size ≠ 0
  le : r.size ≤ 8
  aligned : r.off % r.size = 0

/-- What the device does with a write to BAR0 that it takes. -/
theorem Dev.writeReg_bar0 (hw : d.Writes r) (hspace : r.space = .bar0) : d.writeReg ld r =
    if 0x18000 ≤ r.off ∧ r.off + r.size ≤ 0x20000 then d.writePayload (2 * ld) (r.off - 0x18000) (leBytes r.size r.value.toNat)
    else if 0x28000 ≤ r.off ∧ r.off + r.size ≤ 0x30000 then d.writePayload (2 * ld + 1) (r.off - 0x28000) (leBytes r.size r.value.toNat)
    else if 0x17FE8 ≤ r.off ∧ r.off < 0x17FF0 then d.writeCommand (2 * ld) (r.off - 0x17FE8) (leBytes r.size r.value.toNat)
    else if 0x27FE8 ≤ r.off ∧ r.off < 0x27FF0 then d.writeCommand (2 * ld + 1) (r.off - 0x27FE8) (leBytes r.size r.value.toNat)
    else if 0x30000 ≤ r.off ∧ r.off < 0x30080 then d.writeVector ld ((r.off - 0x30000) / 16) (r.off % 16) (leBytes r.size r.value.toNat)
    else d := by
  obtain ⟨hclk, hsize, hle, halign⟩ := hw
  unfold Dev.writeReg
  extract_lets v on
  rw [if_neg (by simp [hclk, hsize, halign]; omega), hspace, show v = leBytes r.size r.value.toNat by simp only [v, Nat.min_eq_left hle]]
  simp only [Bool.and_eq_true, decide_eq_true_eq]

theorem Dev.writeReg_payload {box base : Nat} (hw : d.Writes r) (hspace : r.space = .bar0)
    (hbox : (box, base) ∈ [(2 * ld, 0x18000), (2 * ld + 1, 0x28000)]) (hlo : base ≤ r.off) (hhi : r.off + r.size ≤ base + 0x8000) :
    d.writeReg ld r = d.writePayload box (r.off - base) (leBytes r.size r.value.toNat) := by
  have hsize := hw.size
  rw [Dev.writeReg_bar0 hw hspace]
  simp only [List.mem_cons, Prod.mk.injEq, List.not_mem_nil, or_false] at hbox
  obtain ⟨rfl, rfl⟩ | ⟨rfl, rfl⟩ := hbox
  · rw [if_pos ⟨hlo, by omega⟩]
  · rw [if_neg (by omega), if_pos ⟨hlo, by omega⟩]

theorem Dev.writeReg_elsewhere (hw : d.Writes r) (hspace : r.space = .bar0) (hoff : r.off < 0x17FE8 ∨ 0x30080 ≤ r.off) : d.writeReg ld r = d := by
  have hsize := hw.size
  rw [Dev.writeReg_bar0 hw hspace]
  repeat' rw [if_neg (by omega)]

theorem Dev.writeCommand_whole (box : Nat) (v : BitVec 64) :
    d.writeCommand box 0 (leBytes 8 v.toNat) = d.modBox box fun b => { b with opcode := v.truncate 16, len := v.toNat / 2 ^ 16 % 2 ^ 21 } := by
  have hover (l : List Byte) (hl : l.length = 8) : leNat (overlay l 0 (leBytes 8 v.toNat)) = v.toNat := by
    have hdrop : l.drop 8 = [] := List.drop_eq_nil_of_le (by omega)
    have hv := v.isLt
    simp only [overlay, leBytes_length, List.take_zero, Nat.zero_sub, zeros, List.replicate_zero, List.nil_append, Nat.zero_add, hdrop,
      List.append_nil]
    rw [leNat_leBytes, Nat.mod_eq_of_lt (by omega)]
  refine congrArg (d.modBox box) (funext fun b => ?_)
  dsimp only
  rw [hover _ (leBytes_length ..)]
  rfl

theorem Dev.writeReg_command {box : Nat} (hw : d.Writes r) (hspace : r.space = .bar0) (hsize : r.size = 8)
    (hbox : (box = 2 * ld ∧ r.off = 0x17FE8) ∨ (box = 2 * ld + 1 ∧ r.off = 0x27FE8)) :
    d.writeReg ld r = d.modBox box fun b => { b with opcode := r.value.truncate 16, len := r.value.toNat / 2 ^ 16 % 2 ^ 21 } := by
  rw [Dev.writeReg_bar0 hw hspace, ← Dev.writeCommand_whole, hsize]
  obtain ⟨rfl, hoff⟩ | ⟨rfl, hoff⟩ := hbox
  · rw [hoff]; rfl
  · rw [hoff]; rfl

theorem Dev.writeReg_msixOn {l : Nat} (hw : d.Writes r) (hspace : r.space = .cfgMsix) (hl : d.ldLink ld = some l)
    (hon : r.value.getLsbD 0 = true) : d.writeReg ld r = d.modLd ld fun x => { x with msixOn := true } := by
  obtain ⟨hclk, hsize, hle, halign⟩ := hw
  unfold Dev.writeReg
  extract_lets v on
  rw [if_neg (by simp [hclk, hsize, halign]; omega), hspace, show on = true by simp only [on, hon, hl]; rfl]
  rfl

theorem Dev.writeReg_aer {l : Nat} (hw : d.Writes r) (hspace : r.space = .aer) (hsize : r.size = 4) (hl : d.ldLink ld = some l)
    (hoff : r.off = 4 ∨ r.off = 16) :
    d.writeReg ld r = d.modLink l fun x => if r.off = 4 then { x with aerUnc := x.aerUnc &&& ~~~(r.value.truncate 32) }
                                            else { x with aerCor := x.aerCor &&& ~~~(r.value.truncate 32) } := by
  obtain ⟨hclk, hsize', hle, halign⟩ := hw
  unfold Dev.writeReg
  extract_lets v on
  rw [if_neg (by simp [hclk, hsize', halign]; omega), hspace]
  dsimp -zeta only
  rw [if_pos hsize, Dev.writeAer, hl]
  rcases hoff with hoff | hoff
  · rw [hoff]; rfl
  · rw [hoff]; rfl

end

/-- What settling the counters leaves of a mailbox. -/
theorem Dev.settle_mbox (d : Dev) (n : Nat) : d.settle.mbox n = d.mbox n := by rw [Dev.mbox, (signals_settle d).boxes]; rfl

/-- A byte written into a window that holds it reads back. -/
theorem overlay_getD {l : List Byte} {k : Nat} (v : Byte) (hk : k < 0x8000) :
    ((overlay (l ++ zeros (k + [v].length - l.length)) k [v]).take 32768).getD k 0 = v := by
  have hlen : (l ++ zeros (k + [v].length - l.length)).length = max l.length (k + 1) := by simp [zeros]; omega
  generalize l ++ zeros (k + [v].length - l.length) = base at hlen
  have hbase : k < base.length := by omega
  rw [List.getD_eq_getElem?_getD, List.getElem?_take_of_lt hk, overlay, Nat.sub_eq_zero_of_le (Nat.le_of_lt hbase)]
  simp [zeros, Nat.le_of_lt hbase]

theorem payload_write_read (s : State) (ld : Fin 32) (k : Nat) (v : Byte) (hclk : s.dev.clocked = true) (hk : k < 0x8000) :
    Completes (.registerWrite ld { space := .bar0, off := 0x18000 + k, size := 1, value := BitVec.ofNat 64 v.toNat }) s fun d =>
      d.readReg ld.val .bar0 (0x18000 + k) 1 = v.toNat := by
  have hbytes : leBytes 1 (BitVec.ofNat 64 v.toNat).toNat = [v] := by
    have hv := v.isLt
    simp only [leBytes, BitVec.toNat_ofNat]
    rw [Nat.mod_eq_of_lt (by omega), BitVec.ofNat_toNat, BitVec.setWidth_eq]
  have hw : s.dev.Writes { space := .bar0, off := 0x18000 + k, size := 1, value := BitVec.ofNat 64 v.toNat } :=
    ⟨hclk, Nat.one_ne_zero, Nat.succ_le_of_lt (by omega), Nat.mod_one _⟩
  refine Laws.completes_ok (exec_registerWrite ..) ?_
  rw [(Dev.readReg_payload _ ld.val hk).1, Dev.settle_mbox,
    Dev.writeReg_payload (box := 2 * ld.val) (base := 0x18000) hw rfl (by simp) (by simp) (by simp; omega)]
  simp only [Dev.writePayload, Dev.mbox_modBox_self, Nat.add_sub_cancel_left, hbytes]
  rw [overlay_getD v hk]

theorem register_writes (s : State) (ld : Fin 32) (r : Reg) :
    let v := leBytes r.size r.value.toNat
    let now (d : Dev) : Dev := d.settle
    (s.dev.clocked = false ∨ r.size = 0 ∨ 8 < r.size ∨ r.off % r.size ≠ 0 ∨ r.space = .bar2 ∨ r.space = .dvsec →
      Completes (.registerWrite ld r) s fun d => d = now s.dev) ∧
    (s.dev.clocked = true → r.size ≠ 0 → r.size ≤ 8 → r.off % r.size = 0 →
      (∀ box base, (box, base) ∈ [(2 * ld.val, 0x18000), (2 * ld.val + 1, 0x28000)] → r.space = .bar0 →
        base ≤ r.off → r.off + r.size ≤ base + 0x8000 → Completes (.registerWrite ld r) s fun d =>
          let b := s.dev.mbox box
          let off := r.off - base
          d = now (s.dev.modBox box fun b => { b with inp := (d.mbox box).inp }) ∧
          ((d.mbox box).inp = (overlay (b.inp ++ zeros (off + r.size - b.inp.length)) off v).take 32768)) ∧
      (r.space = .bar0 → r.off < 0x17FE8 → Completes (.registerWrite ld r) s fun d => d = now s.dev) ∧
      (r.space = .bar0 → 0x30080 ≤ r.off → Completes (.registerWrite ld r) s fun d => d = now s.dev) ∧
      (∀ box, (box = 2 * ld.val ∧ r.off = 0x17FE8) ∨ (box = 2 * ld.val + 1 ∧ r.off = 0x27FE8) → r.space = .bar0 → r.size = 8 →
        Completes (.registerWrite ld r) s fun d => d = now (s.dev.modBox box fun b =>
          { b with opcode := r.value.truncate 16, len := r.value.toNat / 2 ^ 16 % 2 ^ 21 })) ∧
      (∀ l, r.space = .cfgMsix → s.dev.ldLink ld.val = some l → r.value.getLsbD 0 = true → Completes (.registerWrite ld r) s fun d =>
        d = now (s.dev.modLd ld.val fun x => { x with msixOn := true })) ∧
      (∀ l, r.space = .aer → r.size = 4 → s.dev.ldLink ld.val = some l → (r.off = 4 ∨ r.off = 16) → Completes (.registerWrite ld r) s fun d =>
        d = now (s.dev.modLink l fun x => if r.off = 4 then { x with aerUnc := x.aerUnc &&& ~~~(r.value.truncate 32) }
                                          else { x with aerCor := x.aerCor &&& ~~~(r.value.truncate 32) }))) := by
  intro v now
  have hexec := exec_registerWrite ld r s
  constructor
  · intro h
    exact Laws.completes_ok hexec (congrArg Dev.settle (Dev.writeReg_ignored h))
  · intro hclk hsize hle halign
    have hw : s.dev.Writes r := ⟨hclk, hsize, hle, halign⟩
    refine ⟨?_, ?_, ?_, ?_, ?_, ?_⟩
    · intro box base hbox hspace hlo hhi
      refine Laws.completes_ok hexec ?_
      rw [Dev.writeReg_payload hw hspace hbox hlo hhi, Dev.settle_mbox, Dev.writePayload, Dev.mbox_modBox_self, leBytes_length]
      exact ⟨rfl, rfl⟩
    · intro hspace hoff
      exact Laws.completes_ok hexec (congrArg Dev.settle (Dev.writeReg_elsewhere hw hspace (.inl hoff)))
    · intro hspace hoff
      exact Laws.completes_ok hexec (congrArg Dev.settle (Dev.writeReg_elsewhere hw hspace (.inr hoff)))
    · intro box hbox hspace hsize8
      exact Laws.completes_ok hexec (congrArg Dev.settle (Dev.writeReg_command hw hspace hsize8 hbox))
    · intro l hspace hl hon
      exact Laws.completes_ok hexec (congrArg Dev.settle (Dev.writeReg_msixOn hw hspace hl hon))
    · intro l hspace hsize4 hl hoff
      exact Laws.completes_ok hexec (congrArg Dev.settle (Dev.writeReg_aer hw hspace hsize4 hl hoff))

/-- Settles O52: the reads that latch, what reads return, and the writes. -/
theorem registerReadsAndWrites : Obligations.RegisterReadsAndWrites := by
  unfold Obligations.RegisterReadsAndWrites
  exact ⟨latched_reads, ⟨fun d ld _ _ _ => d.readReg_misaligned ld, register_reads, payload_write_read⟩, register_writes⟩

end Sys2Proof.Machine
end

section
/-! Commands through the mailbox doorbell, I3C and the tunnel (spec/09 R251; spec/12 R329, R332, R333; spec/17 R454). -/

namespace Sys2Proof.Machine

open Sys2Proof Sys2Proof.Laws

theorem exec_mailboxDoorbell (ld : Fin 32) (box : Box) (s : State) : exec (.mailboxDoorbell ld box) s = ok (s.dev.ringBox ld box) s := rfl
theorem exec_i3cPrivateWrite (ld : Option (Fin 32)) (opcode : BitVec 16) (inp : List Byte) (s : State) :
    exec (.i3cPrivateWrite ld opcode inp) s = ok (s.dev.i3cWrite ld opcode.toNat inp) s := rfl
theorem exec_tunnelManagementCommand (iss : Issuer) (inp : List Byte) (s : State) :
    exec (.tunnelManagementCommand iss inp) s = ok (s.dev.command iss 0x5300 fun d => d.tunnel iss inp) s := rfl

/-! ### Rows and opcodes (R333, R334) -/

/-- A row of the table does what its opcode does. -/
def rowRuns (r : Nat × (Issuer → List Byte → Instr)) : Prop :=
  ∀ (iss : Issuer) (inp : List Byte) (s : State), exec (r.2 iss inp) s = ok (s.dev.anyOpcode iss r.1 inp) s

theorem exec_row : ∀ r ∈ commandRows, rowRuns r := by
  simp only [commandRows, List.cons_append, List.nil_append, List.forall_mem_cons]
  repeat' refine And.intro (fun _ _ _ => rfl) ?_
  exact fun _ h => absurd h List.not_mem_nil

theorem runOpcode_unknown {o : Nat} (h : opcodes.contains o = false) (iss : Issuer) (inp : List Byte) (s : State) :
    runOpcode iss o inp s = ok (s.dev.command iss o fun d => d.unknownOpcode iss o) s := by
  unfold runOpcode
  split
  case h_89 => rfl
  all_goals exact absurd h (by decide)

theorem anyOpcode_unknown {o : Nat} (h : opcodes.contains o = false) (d : Dev) (iss : Issuer) (inp : List Byte) :
    d.anyOpcode iss o inp = d.command iss o fun d => d.unknownOpcode iss o := by
  have hne : o ≠ 0x5300 := by
    rintro rfl
    exact absurd h (by decide)
  rw [Dev.anyOpcode, if_neg hne, Dev.opcode, runOpcode_unknown h]
  rfl

/-- The mailbox doorbell starts the command that the registers name (R329, R333 to R335). -/
theorem mailbox_doorbell (s : State) (ld : Fin 32) (box : Box) :
    let b := s.dev.mbox (issuerBox (.host ld box))
    let inp := (b.inp ++ zeros (b.len - b.inp.length)).take b.len
    (∀ o c, (o, c) ∈ commandRows → b.opcode.toNat = o → Completes (.mailboxDoorbell ld box) s fun d =>
      exec (c (.host ld box) inp) s = .next { s with dev := d }) ∧
    (opcodes.contains b.opcode.toNat = false → Completes (.mailboxDoorbell ld box) s fun d =>
      exec (.unsupportedOpcode (.host ld box) b.opcode inp) s = .next { s with dev := d }) := by
  intro b inp
  constructor
  · intro o c hrow ho
    refine Laws.completes_ok (exec_mailboxDoorbell ..) ?_
    rw [exec_row (o, c) hrow, ← ho]
    rfl
  · intro hunknown
    refine Laws.completes_ok (exec_mailboxDoorbell ..) ?_
    have hring : s.dev.ringBox ld box = s.dev.anyOpcode (.host ld box) b.opcode.toNat inp := rfl
    rw [hring, anyOpcode_unknown hunknown, exec_unsupportedOpcode_unknown s _ _ hunknown]
    rfl

theorem Dev.wakeEvent_inP0 {d : Dev} (cause : Nat) (always : Bool) (hst : d.power.st = .p0) (hentry : d.power.entry = none) :
    d.wakeEvent cause always = d := by
  unfold Dev.wakeEvent
  rw [hentry]
  simp [hst]

/-- A write over I3C runs its row, is kept, or is refused (R332, R454). -/
theorem i3c_write (s : State) (ld : Option (Fin 32)) (opcode : BitVec 16) (inp : List Byte) (hboot : s.dev.boot = .running) :
    (s.dev.power.st = .p0 → s.dev.awake = true → s.dev.power.entry = none → ∀ o c, (o, c) ∈ commandRows → opcode.toNat = o →
      Completes (.i3cPrivateWrite ld opcode inp) s fun d => exec (c (.mc ld) inp) s = .next { s with dev := d }) ∧
    (s.dev.power.st = .p2 → Completes (.i3cPrivateWrite ld opcode inp) s fun d => ∃ e : Dev, d = e.wakeEvent 1 ∧
      e = { s.dev with host.i3cHeld := s.dev.host.i3cHeld ++ [(ld.map Fin.val, opcode, inp)] }) ∧
    (s.dev.power.st = .p3 → Completes (.i3cPrivateWrite ld opcode inp) s fun d =>
      d = { s.dev with out := s.dev.out ++ [Out.i3cNack] }.wakeEvent 1) := by
  refine ⟨?_, ?_, ?_⟩
  · intro hst hawake hentry o c hrow ho
    refine Laws.completes_ok (exec_i3cPrivateWrite ..) ?_
    rw [Dev.i3cWrite, if_neg (not_not_intro hboot), if_neg (by simp [hst]), if_neg (by simp [hst, hawake]), Dev.wakeEvent_inP0 _ _ hst hentry,
      exec_row (o, c) hrow, ← ho]
    rfl
  · intro hst
    refine Laws.completes_ok (exec_i3cPrivateWrite ..) ?_
    rw [Dev.i3cWrite, if_neg (not_not_intro hboot), if_neg (by simp [hst]), if_pos (by simp [hst])]
    exact ⟨_, rfl, by rw [BitVec.ofNat_toNat, BitVec.setWidth_eq]⟩
  · intro hst
    refine Laws.completes_ok (exec_i3cPrivateWrite ..) ?_
    rw [Dev.i3cWrite, if_neg (not_not_intro hboot), if_pos hst]
    rfl

/-! ### The tunnel (R251, R333) -/

theorem Dev.fmOwned_other {d : Dev} {iss : Issuer} (f : Nat → Dev) (h : issuerMc iss = false ∨ issuerLd iss = none) :
    d.fmOwned iss f = d.answerStd iss .unsupported [] := by
  match iss, h with
  | .host _ _, _ => rfl
  | .mc none, _ => rfl
  | .mc (some _), h => simp [issuerMc, issuerLd] at h

theorem Dev.fmOwned_mld {d : Dev} {iss : Issuer} {ld l : Nat} (f : Nat → Dev) (hmc : issuerMc iss = true) (hld : issuerLd iss = some ld)
    (hl : d.ldLink ld = some l) (hmld : (d.link l).mld = true) : d.fmOwned iss f = f l := by
  match iss, hmc, hld with
  | .mc (some x), _, hld =>
    obtain rfl : x.val = ld := by simpa [issuerLd] using hld
    rw [Dev.fmOwned, hl]
    exact if_pos hmld

theorem headD_drop (l : List Byte) (k : Nat) (a : Byte) : (l.drop k).headD a = l.getD k a := by
  rw [List.headD_eq_head?_getD, List.head?_drop, List.getD_eq_getElem?_getD]

/-- The command that a tunnel's input carries, run for an LD, and its answer taken out of what the device sends (R251). -/
def Dev.tunneled (d : Dev) (dst : Fin 32) (inp : List Byte) : Option (Ret × List Byte) × Dev :=
  (d.opcode (.mc (some dst)) (field inp 8 2) (inp.drop 17)).takeAnswer 64 d.out.length

section
variable {d : Dev} {iss : Issuer} {inp : List Byte} {ld l : Nat} (hmc : issuerMc iss = true) (hld : issuerLd iss = some ld)
  (hl : d.ldLink ld = some l) (hmld : (d.link l).mld = true)
include hmc hld hl hmld

theorem Dev.tunnel_short (h : inp.length < 17 ∨ inp.length ≠ 5 + field inp 2 2) : d.tunnel iss inp = d.answerStd iss .invalidLength [] := by
  rw [Dev.tunnel, Dev.fmOwned_mld _ hmc hld hl hmld]
  exact if_pos (by simpa using h)

variable (hlen : 17 ≤ inp.length) (hform : inp.length = 5 + field inp 2 2)
include hlen hform

theorem Dev.tunnel_astray (hdst : (d.linkLds l)[field inp 0 1]? = none) : d.tunnel iss inp = d.answerStd iss .invalidInput [] := by
  rw [Dev.tunnel, Dev.fmOwned_mld _ hmc hld hl hmld]
  extract_lets n op len
  rw [if_neg (by simp [n]; omega), hdst]

variable {dst : Fin 32} (hdst : (d.linkLds l)[field inp 0 1]? = some dst.val)
include hdst

theorem Dev.tunnel_malformed (h : field inp 1 1 ≠ 0 ∨ inp.length ≠ 17 + field inp 10 3 % 2 ^ 21) :
    d.tunnel iss inp = d.answerStd iss .invalidInput [] := by
  rw [Dev.tunnel, Dev.fmOwned_mld _ hmc hld hl hmld]
  extract_lets n op len
  rw [if_neg (by simp [n]; omega), hdst]
  exact if_pos (by simpa [len] using h)

variable (hzero : field inp 1 1 = 0) (hbody : inp.length = 17 + field inp 10 3 % 2 ^ 21)
include hzero hbody

theorem Dev.tunnel_runs :
    d.tunnel iss inp = match (d.tunneled dst inp).1 with
      | some (r, out) =>
        let m := cciMessage true ((inp.drop 6).headD 0) (field inp 8 2) r.code out
        (d.tunneled dst inp).2.answerStd iss .success (leBytes 2 m.length ++ [0, (inp.drop 4).headD 0] ++ m)
      | none => (d.tunneled dst inp).2 := by
  rw [Dev.tunnel, Dev.fmOwned_mld _ hmc hld hl hmld]
  extract_lets n op len
  rw [if_neg (by simp [n]; omega), hdst]
  dsimp -zeta only
  extract_lets dest d'
  rw [if_neg (by simp [hzero, len]; omega)]
  have hdest : dest = .mc (some dst) := by simp [dest]
  have hrun : d'.takeAnswer 64 d.out.length = d.tunneled dst inp := by rw [show d' = d.opcode (.mc (some dst)) op (inp.drop 17) by rw [← hdest]]; rfl
  rw [hrun]
  obtain ⟨a, e⟩ := d.tunneled dst inp
  cases a with
  | none => rfl
  | some x => rfl

theorem Dev.tunnel_answered {r : Ret} {out : List Byte} (ha : (d.tunneled dst inp).1 = some (r, out)) :
    d.tunnel iss inp =
      (d.tunneled dst inp).2.answerStd iss .success
        (leBytes 2 (cciMessage true (inp.getD 6 0) (field inp 8 2) r.code out).length ++ [0, inp.getD 4 0] ++
          cciMessage true (inp.getD 6 0) (field inp 8 2) r.code out) := by
  rw [Dev.tunnel_runs hmc hld hl hmld hlen hform hdst hzero hbody, ha, headD_drop, headD_drop]

theorem Dev.tunnel_later (ha : (d.tunneled dst inp).1 = none) : d.tunnel iss inp = (d.tunneled dst inp).2 := by
  rw [Dev.tunnel_runs hmc hld hl hmld hlen hform hdst hzero hbody, ha]

end

/-- The tunnel runs a command for an LD of an MLD link, or is refused (R251, R333). -/
theorem tunnel_command (s : State) (iss : Issuer) (inp : List Byte) (htakes : Takes s) :
    let d0 := s.dev.doorbell (mailDoorbell iss)
    (issuerMc iss = false ∨ issuerLd iss = none → Completes (.tunnelManagementCommand iss inp) s fun d => RepliesStd d0 d iss .unsupported []) ∧
    (∀ ld l, issuerMc iss = true → issuerLd iss = some ld → d0.ldLink ld = some l → (d0.link l).mld = true → 17 ≤ inp.length →
      inp.length = 5 + field inp 2 2 →
      ((d0.linkLds l)[field inp 0 1]? = none → Completes (.tunnelManagementCommand iss inp) s fun d => RepliesStd d0 d iss .invalidInput []) ∧
      (∀ dst : Fin 32, (d0.linkLds l)[field inp 0 1]? = some dst.val →
        (field inp 1 1 ≠ 0 ∨ inp.length ≠ 17 + field inp 10 3 % 2 ^ 21 → Completes (.tunnelManagementCommand iss inp) s fun d =>
          RepliesStd d0 d iss .invalidInput []) ∧
        (field inp 1 1 = 0 → inp.length = 17 + field inp 10 3 % 2 ^ 21 → Completes (.tunnelManagementCommand iss inp) s fun d =>
          let a := (d0.opcode (.mc (some dst)) (field inp 8 2) (inp.drop 17)).takeAnswer 64 d0.out.length
          (∀ r out, a.1 = some (r, out) →
            let m := cciMessage true (inp.getD 6 0) (field inp 8 2) r.code out
            RepliesStd a.2 d iss .success (leBytes 2 m.length ++ [0, inp.getD 4 0] ++ m)) ∧
          (a.1 = none → d = a.2)))) ∧
    (∀ ld l, issuerMc iss = true → issuerLd iss = some ld → d0.ldLink ld = some l → (d0.link l).mld = true →
      inp.length < 17 ∨ inp.length ≠ 5 + field inp 2 2 → Completes (.tunnelManagementCommand iss inp) s fun d =>
        RepliesStd d0 d iss .invalidLength []) := by
  intro d0
  have hexec := exec_tunnelManagementCommand iss inp s
  refine ⟨?_, ?_, ?_⟩
  · intro h
    refine completes_of_takes htakes hexec ?_
    rw [Dev.tunnel, Dev.fmOwned_other _ h]
    exact answerStd_replies ..
  · intro ld l hmc hld hl hmld hlen hform
    refine ⟨?_, ?_⟩
    · intro hdst
      refine completes_of_takes htakes hexec ?_
      rw [Dev.tunnel_astray hmc hld hl hmld hlen hform hdst]
      exact answerStd_replies ..
    · intro dst hdst
      refine ⟨?_, ?_⟩
      · intro h
        refine completes_of_takes htakes hexec ?_
        rw [Dev.tunnel_malformed hmc hld hl hmld hlen hform hdst h]
        exact answerStd_replies ..
      · intro hzero hbody
        refine completes_of_takes htakes hexec ⟨?_, ?_⟩
        · intro r out ha
          rw [Dev.tunnel_answered hmc hld hl hmld hlen hform hdst hzero hbody ha]
          exact answerStd_replies ..
        · intro ha
          exact Dev.tunnel_later hmc hld hl hmld hlen hform hdst hzero hbody ha
  · intro ld l hmc hld hl hmld h
    refine completes_of_takes htakes hexec ?_
    rw [Dev.tunnel_short hmc hld hl hmld h]
    exact answerStd_replies ..

/-- Settles O53: the doorbell and I3C run the row of the opcode; the tunnel runs it for its LD. -/
theorem commandsByOpcode : Obligations.CommandsByOpcode := by
  unfold Obligations.CommandsByOpcode
  exact ⟨⟨mailbox_doorbell, i3c_write⟩, tunnel_command⟩

end Sys2Proof.Machine
end

section
/-! What a message sent, an event of a link and a replay leave of the device (spec/11 R298, R302, R308). -/

namespace Sys2Proof.Machine

open Sys2Proof Sys2Proof.Laws

/-- d' is d but for what flows through the ports, and for what was sent out: what counts here is what it leaves. -/
structure Tells (d d' : Dev) : Prop where
  flows : Flows d d'
  firstUp : d'.chain.firstUp = d.chain.firstUp
  line : d'.line = d.line
  src : d'.fault = d.fault
  out : ∃ o, d'.out = d.out ++ o

namespace Tells

variable {a b d d' : Dev}

theorem refl (d : Dev) : Tells d d := ⟨.refl d, rfl, rfl, rfl, [], (List.append_nil _).symm⟩

theorem trans (h : Tells a b) (g : Tells b d) : Tells a d := by
  obtain ⟨o, ho⟩ := h.out
  obtain ⟨o', ho'⟩ := g.out
  exact ⟨h.flows.trans g.flows, g.firstUp.trans h.firstUp, g.line.trans h.line, g.src.trans h.src, o ++ o', by rw [ho', ho, List.append_assoc]⟩

theorem of_signals (h : Signals d d') : Tells d d' := ⟨.of_signals h, by rw [h.chain], h.line, h.fault, h.out⟩

theorem of_sends (h : Sends d d') (hflows : Flows d d') : Tells d d' := by
  obtain ⟨ports, hsig⟩ := h
  exact ⟨hflows, by rw [hsig.chain], hsig.line, hsig.fault, hsig.out⟩

theorem pump (d : Dev) (p : Nat) : Tells d (d.pump p) := of_sends (.pump ..) (.pump ..)

theorem sendIdle (d : Dev) (p : Nat) (nak : Bool) : Tells d (d.sendIdle p nak) := of_sends (.sendIdle ..) (.sendIdle ..)

theorem sendMsg (d : Dev) (p : Nat) (m : Msg) (from_ : Option Nat) : Tells d (d.sendMsg p m from_) := of_sends (.sendMsg ..) (.sendMsg ..)

theorem mgmt (d : Dev) (dest subOp : Nat) (body : List Byte) : Tells d (d.mgmt dest subOp body) := by
  unfold Dev.mgmt
  split
  · exact refl d
  · extract_lets chain d1
    have h1 : Tells d d1 := ⟨.of_chain rfl, rfl, rfl, rfl, [], (List.append_nil _).symm⟩
    split
    · exact h1.trans (sendMsg ..)
    · exact h1.trans (of_signals ((signals_bump ..).trans (signals_raiseAt ..)))

theorem linkEvent (d : Dev) (p code : Nat) : Tells d (d.linkEvent p code) := by
  unfold Dev.linkEvent
  split
  · exact refl d
  · split
    · exact mgmt ..
    · exact refl d

/-- What was sent out before stays. -/
theorem mem_out (h : Tells d d') {o : Out} (ho : o ∈ d.out) : o ∈ d'.out := by
  obtain ⟨l, hl⟩ := h.out
  rw [hl]
  exact List.mem_append_left l ho

end Tells

theorem TPort.Flows.resumed {x y : TPort} (h : x.Flows y) : y.resumed = x.resumed := by obtain ⟨_, _, _, _, _, _, _, rfl⟩ := h; rfl

/-! ### A replay (R308) -/

/-- A held flit as it is sent again: its Mark cleared (R308). -/
def Flit.again (f : Flit) : Flit := { f with hdr := { f.hdr with mark := false }, marker := none }

/-- A replay counts, and sends every held flit again. -/
theorem Dev.replay_again (d : Dev) (p : Nat) :
    (∃ counts, (d.replay p).tport p = { d.tport p with counts := counts }) ∧ (d.replay p).chain.firstUp = d.chain.firstUp ∧
      (d.replay p).line = d.line ∧ (∃ o, (d.replay p).out = d.out ++ o) ∧ ∀ f ∈ (d.tport p).replay, Out.flit p (Flit.again f) ∈ (d.replay p).out := by
  unfold Dev.replay
  extract_lets x d1
  split
  next hnil =>
    refine ⟨⟨_, rfl⟩, rfl, rfl, ⟨[], (List.append_nil _).symm⟩, ?_⟩
    intro f hf
    rw [show (d.tport p).replay = [] from List.isEmpty_iff.mp hnil] at hf
    exact absurd hf List.not_mem_nil
  next =>
    have hsig (e : Dev) (f : Flit) : Signals e ((e.say (.flit p (Flit.again f))).bump (evTether p 0)) := (signals_say ..).trans (signals_bump ..)
    have h1 : Signals d d1 := signals_each _ _ _ hsig
    have hgrow {a b : Dev} (h : Signals a b) {o : Out} (ho : o ∈ a.out) : o ∈ b.out := (Tells.of_signals h).mem_out ho
    have hsent : ∀ f ∈ x.replay, Out.flit p (Flit.again f) ∈ d1.out := by
      intro f hf
      refine each_establishes hf (fun _ => True) (fun e : Dev => Out.flit p (Flit.again f) ∈ e.out) trivial (fun _ _ _ => trivial) ?_ ?_
      · intro e _
        exact hgrow (signals_bump ..) (List.mem_append_right _ (List.mem_singleton_self _))
      · intro e g he
        exact hgrow (hsig e g) he
    have h2 := signals_bump (d1.modTport p fun x => { x with counts := x.counts.put 1 (x.counts.val 1 0 + 1) }) (evTether p 2) 1
    have hport : d1.tport p = d.tport p := by rw [Dev.tport, h1.chain]; rfl
    obtain ⟨o1, ho1⟩ := h1.out
    obtain ⟨o2, ho2⟩ := h2.out
    refine ⟨⟨(d.tport p).counts.put 1 ((d.tport p).counts.val 1 0 + 1), ?_⟩, ?_, ?_, ⟨o1 ++ o2, ?_⟩, ?_⟩
    · have hcounted := Dev.tport_modTport_self d1 p fun x => { x with counts := x.counts.put 1 (x.counts.val 1 0 + 1) }
      rw [hport] at hcounted
      rw [← hcounted]
      exact congrArg (fun c : Chain => c.ports.val p {}) h2.chain
    · have hup := congrArg Chain.firstUp h1.chain
      rw [h2.chain]
      exact hup
    · rw [h2.line]; exact h1.line
    · rw [ho2, ← List.append_assoc, ← ho1]; rfl
    · intro f hf
      exact hgrow h2 (hsent f hf)

end Sys2Proof.Machine
end

section
/-! The link-up handshake (spec/11 R308, R311 to R313, R315). -/

namespace Sys2Proof.Machine

open Sys2Proof Sys2Proof.Laws

section
variable (s : State) (p : Fin 3)

theorem exec_linkup (m : LinkUp) : exec (.linkup p m) s = ok (s.dev.takeLinkup p.val m) s := rfl
theorem exec_linkack : exec (.linkack p) s =
    ok (if (s.dev.tport p.val).st = .handshake then (s.dev.modTport p.val fun x => { x with gotAck := true }).ackLink p.val else s.dev) s := rfl
theorem exec_ping (i : Fin 8) (t1 t2 t3 : BitVec 48) : exec (.ping p i t1 t2 t3) s =
    ok (if s.dev.pings p.val then s.dev.say (.ctl p.val (.pong i.val t1 t2 t3)) else s.dev) s := rfl
theorem exec_pong (i : Fin 8) (t1 t2 t3 t4 : BitVec 48) : exec (.pong p i t1 t2 t3 t4) s = ok (s.dev.takePong p.val i.val t1 t2 t3 t4) s := rfl
theorem exec_pingResend (i : Fin 8) (t1 : BitVec 48) : exec (.pingResend p i t1) s =
    ok (if (s.dev.tport p.val).st = .handshake && (s.dev.tport p.val).gotUp && !(s.dev.tport p.val).samples.has i.val
        then s.dev.say (.ctl p.val (.ping i.val t1)) else s.dev) s := rfl

end

/-! ### LINKUP (R312) -/

/-- A port that starts Fresh (R312). -/
def TPort.fresh (x : TPort) : TPort :=
  { x with seq := 0, ne := 0, crTotal := [], debits := [], returned := [], replay := [], pool := [], epoch := x.epoch + 1 }

/-- A port that resumes: what the partner acknowledges is freed, and its credits are taken (R312). -/
def TPort.resumes (x : TPort) (m : LinkUp) : TPort :=
  (List.range 4).foldl (fun (x : TPort) c => x.takeCredits c (BitVec.ofNat 10 (m.crTotals.toNat / 2 ^ (10 * c)))) (x.ackTo (m.nextExpected - 1))

/-- A port that knows what its partner's LINKUP says (R311). -/
def TPort.met (x : TPort) (resume : Bool) (m : LinkUp) : TPort :=
  { x with
    st := .handshake, gotUp := true, resume := resume, uid := m.uniqueId, partner := m.index, partnerAssigned := m.assigned
    partnerPort := m.port, partnerRoot := m.rootStrap, partnerSynced := m.synced }

theorem TPort.resumes_eq (x : TPort) (m : LinkUp) : ∃ failures returned, x.resumes m =
    { x with replay := x.replay.filter fun f => 2048 ≤ (m.nextExpected - 1 - f.hdr.seq).toNat, failures := failures, returned := returned } :=
  ⟨_, _, rfl⟩

theorem Dev.sendPings_sent (d : Dev) (p : Nat) :
    (each (List.range 8) d fun d i => d.sendPing p i).chain = d.chain ∧
      ∀ i < 8, ∃ t, Out.ctl p (.ping i t) ∈ (each (List.range 8) d fun d i => d.sendPing p i).out := by
  constructor
  · exact each_keeps _ _ _ Dev.chain fun _ _ => rfl
  · intro i hi
    refine each_establishes (List.mem_range.mpr hi) (fun _ => True) (fun e : Dev => ∃ t, Out.ctl p (.ping i t) ∈ e.out) trivial
      (fun _ _ _ => trivial) ?_ ?_
    · intro e _
      exact ⟨_, List.mem_append_right _ (List.mem_singleton_self _)⟩
    · rintro e j ⟨t, ht⟩
      exact ⟨t, List.mem_append_left _ ht⟩

/-- No LINKACK goes out before the samples of D are there. -/
theorem Dev.ackLink_waits {d : Dev} {p : Nat} (hsent : (d.tport p).sentAck = false) (hsamples : (d.tport p).samples.length ≠ 8 ∨ (d.tport p).gotUp = false) :
    d.ackLink p = d := by
  unfold Dev.ackLink
  extract_lets x l d1 y
  have hd1 : d1 = d := by
    refine if_neg ?_
    rcases hsamples with h | h
    · simp [x, h]
    · simp [x, h]
  clear_value d1
  subst hd1
  exact if_neg (by simp [y, hsent])

theorem Dev.takeLinkup_port {d : Dev} {p : Nat} {m : LinkUp} (hst : (d.tport p).st = .handshake) (hup : (d.tport p).gotUp = false)
    (hsent : (d.tport p).sentAck = false) (hsamples : (d.tport p).samples = [])
    (h : ((d.tport p).kept && m.resume && m.uniqueId = (d.tport p).uid && m.epoch = (d.tport p).epoch && (d.tport p).holds m.nextExpected) =
      (d.tport p).kept) :
    (d.takeLinkup p m).tport p = (if (d.tport p).kept then (d.tport p).resumes m else (d.tport p).fresh).met (d.tport p).kept m ∧
      ∀ i < 8, ∃ t, Out.ctl p (.ping i t) ∈ (d.takeLinkup p m).out := by
  unfold Dev.takeLinkup
  extract_lets x resume d1 y z w v
  have hresume : resume = (d.tport p).kept := h
  have hd1 : d1 = d := if_neg (by rw [hresume]; simp [x])
  have hv : v = (if (d.tport p).kept then (d.tport p).resumes m else (d.tport p).fresh).met (d.tport p).kept m := by
    simp only [v, w, z, y, hd1, hresume]
    rfl
  have hquiet : v.sentAck = false ∧ v.samples.length ≠ 8 := by
    rw [hv]
    split
    · obtain ⟨failures, returned, hr⟩ := (d.tport p).resumes_eq m
      rw [hr]
      exact ⟨hsent, by simp [TPort.met, hsamples]⟩
    · exact ⟨hsent, by simp [TPort.met, TPort.fresh, hsamples]⟩
  clear_value v d1
  subst hd1
  rw [if_neg (by simp [x, hst, hup])]
  obtain ⟨hchain, hpings⟩ := (d1.setTport p v).sendPings_sent p
  have hport : (each (List.range 8) (d1.setTport p v) fun d i => d.sendPing p i).tport p = v := by
    rw [Dev.tport, hchain]
    exact Dev.tport_setTport_self ..
  rw [Dev.ackLink_waits (by rw [hport]; exact hquiet.1) (.inl (by rw [hport]; exact hquiet.2)), hport]
  exact ⟨hv, hpings⟩

theorem link_up (s : State) (p : Fin 3) (m : LinkUp) :
    let x := s.dev.tport p.val
    let shows (y : TPort) : Prop := y.st = .handshake ∧ y.gotUp = true ∧ y.uid = m.uniqueId ∧ y.partner = m.index ∧ y.partnerPort = m.port ∧
      y.partnerAssigned = m.assigned ∧ y.partnerRoot = m.rootStrap ∧ y.partnerSynced = m.synced
    let pings (d : Dev) : Prop := ∀ i < 8, ∃ t, Out.ctl p.val (.ping i t) ∈ d.out
    (x.st = .handshake → x.gotUp = false → x.sentAck = false → x.samples = [] →
      (x.kept = false → Completes (.linkup p m) s fun d => let y := d.tport p.val
        shows y ∧ pings d ∧ y.resume = false ∧ y.seq = 0 ∧ y.ne = 0 ∧ y.replay = [] ∧ y.pool = [] ∧ y.debits = [] ∧ y.returned = [] ∧
        y.crTotal = [] ∧ y.epoch = x.epoch + 1) ∧
      (x.kept = true → m.resume = true → m.uniqueId = x.uid → m.epoch = x.epoch → (x.seq - m.nextExpected).toNat ≤ x.replay.length →
        Completes (.linkup p m) s fun d => let y := d.tport p.val
          shows y ∧ pings d ∧ y.resume = true ∧ y.seq = x.seq ∧ y.ne = x.ne ∧ y.pool = x.pool ∧ y.transit = x.transit ∧ y.epoch = x.epoch ∧
          y.replay = x.replay.filter fun f => 2048 ≤ (m.nextExpected - 1 - f.hdr.seq).toNat)) ∧
    (x.st ≠ .handshake ∨ x.gotUp = true → Completes (.linkup p m) s fun d => d = s.dev) := by
  intro x shows pings
  have hshows (y : TPort) (b : Bool) : shows (y.met b m) := ⟨rfl, rfl, rfl, rfl, rfl, rfl, rfl, rfl⟩
  constructor
  · intro hst hup hsent hsamples
    constructor
    · intro hkept
      have hkept' : (s.dev.tport p.val).kept = false := hkept
      obtain ⟨hport, hpings⟩ := Dev.takeLinkup_port (m := m) hst hup hsent hsamples (by rw [hkept']; simp)
      rw [hkept', if_neg Bool.false_ne_true] at hport
      refine Laws.completes_ok (exec_linkup ..) ?_
      rw [hport]
      exact ⟨hshows .., hpings, rfl, rfl, rfl, rfl, rfl, rfl, rfl, rfl, rfl⟩
    · intro hkept hresume huid hepoch hholds
      have hkept' : (s.dev.tport p.val).kept = true := hkept
      obtain ⟨hport, hpings⟩ := Dev.takeLinkup_port (d := s.dev) (p := p.val) (m := m) hst hup hsent hsamples (by
        rw [hkept', hresume, show decide (m.uniqueId = (s.dev.tport p.val).uid) = true from decide_eq_true huid,
          show decide (m.epoch = (s.dev.tport p.val).epoch) = true from decide_eq_true hepoch,
          show (s.dev.tport p.val).holds m.nextExpected = true from decide_eq_true hholds]
        rfl)
      obtain ⟨failures, returned, hr⟩ := (s.dev.tport p.val).resumes_eq m
      rw [hkept', if_pos rfl, hr] at hport
      refine Laws.completes_ok (exec_linkup ..) ?_
      rw [hport]
      exact ⟨hshows .., hpings, rfl, rfl, rfl, rfl, rfl, rfl, rfl⟩
  · intro hno
    refine Laws.completes_ok (exec_linkup ..) ?_
    rw [Dev.takeLinkup]
    exact if_pos (by simpa using hno)

/-! ### LINKACK (R312, R315) -/

/-- What a link that comes up does beside leaves its state, and when a link first came up (R315). -/
structure SameLink (p : Nat) (d d' : Dev) : Prop where
  st : (d'.tport p).st = (d.tport p).st
  kept : (d'.tport p).kept = (d.tport p).kept
  resumed : (d'.tport p).resumed = (d.tport p).resumed
  returns : (d'.tport p).returns = (d.tport p).returns
  failures : (d'.tport p).failures = (d.tport p).failures
  firstUp : d'.chain.firstUp = d.chain.firstUp
  line : d'.line = d.line

namespace SameLink

variable {p : Nat} {a b d d' : Dev}

theorem refl (p : Nat) (d : Dev) : SameLink p d d := ⟨rfl, rfl, rfl, rfl, rfl, rfl, rfl⟩

theorem trans (h : SameLink p a b) (g : SameLink p b d) : SameLink p a d :=
  ⟨g.st.trans h.st, g.kept.trans h.kept, g.resumed.trans h.resumed, g.returns.trans h.returns, g.failures.trans h.failures,
    g.firstUp.trans h.firstUp, g.line.trans h.line⟩

theorem of_tells (h : Tells d d') : SameLink p d d' :=
  let f := h.flows.port p
  ⟨f.st, f.kept, f.resumed, f.returns, f.failures, h.firstUp, h.line⟩

theorem replay (d : Dev) (p : Nat) : SameLink p d (d.replay p) := by
  obtain ⟨⟨counts, hport⟩, hfirst, hline, -⟩ := d.replay_again p
  exact ⟨by rw [hport], by rw [hport], by rw [hport], by rw [hport], by rw [hport], hfirst, hline⟩

end SameLink

theorem Dev.tetherUp_up (d : Dev) (p : Nat) :
    ((d.tetherUp p).tport p).st = (if d.heldStandby p then .standby else .active) ∧ ((d.tetherUp p).tport p).kept = true ∧
      ((d.tetherUp p).tport p).resumed = (d.tport p).resume ∧ ((d.tetherUp p).tport p).returns = 0 ∧
      ((d.tetherUp p).tport p).failures = (if (d.tport p).resume then (d.tport p).failures else 0) ∧
      (d.tetherUp p).chain.firstUp.isSome = true ∧ (d.tetherUp p).line = d.line := by
  unfold Dev.tetherUp
  extract_lets x held d1 chain d2 d3 d4 d5 d6
  have hfirst : d2.chain.firstUp.isSome = true := by
    show (d1.chain.firstUp.orElse fun _ => some d1.clk.bnd).isSome = true
    cases d1.chain.firstUp with
    | none => rfl
    | some b => rfl
  have hport : d2.tport p = _ := Dev.tport_setTport_self d p _
  have h3 : SameLink p d2 d3 := by
    simp only [d3]
    split
    · exact .of_tells (.of_signals (signals_raise ..))
    · exact .refl ..
  have h4 : SameLink p d2 d4 := by
    simp only [d4]
    split
    · exact h3.trans (.replay ..)
    · exact h3
  have h5 : SameLink p d2 d5 := h4.trans (.of_tells (.linkEvent ..))
  have h6 : SameLink p d2 d6 := by
    simp only [d6]
    split
    · split
      · exact h5.trans (.of_tells (.mgmt ..))
      · exact h5
    · exact h5
  have h : SameLink p d2 (if held then d3 else d6.pump p) := by
    split
    · exact h3
    · exact h6.trans (.of_tells (.pump ..))
  refine ⟨h.st.trans ?_, h.kept.trans ?_, h.resumed.trans ?_, h.returns.trans ?_, h.failures.trans ?_, ?_, h.line⟩
  · rw [hport]
  · rw [hport]
  · rw [hport]
  · rw [hport]
  · rw [hport]
  · rw [h.firstUp]; exact hfirst

theorem link_acks (s : State) (p : Fin 3) :
    let x := s.dev.tport p.val
    (x.st = .handshake → x.sentAck = true → Completes (.linkack p) s fun d => let y := d.tport p.val
      y.st = (if s.dev.heldStandby p.val then .standby else .active) ∧ y.kept = true ∧ y.resumed = x.resume ∧ y.returns = 0 ∧
      y.failures = (if x.resume then x.failures else 0) ∧
      d.chain.firstUp.isSome = true ∧ d.line = s.dev.line) ∧
    (x.st = .handshake → x.sentAck = false → x.gotUp = false → Completes (.linkack p) s fun d =>
      d = s.dev.setTport p.val { x with gotAck := true }) ∧
    (x.st ≠ .handshake → Completes (.linkack p) s fun d => d = s.dev) := by
  intro x
  have hport := Dev.tport_modTport_self s.dev p.val fun x => { x with gotAck := true }
  refine ⟨?_, ?_, ?_⟩
  · intro hst hsent
    refine Laws.completes_ok (exec_linkack ..) ?_
    have hup : (s.dev.modTport p.val fun x => { x with gotAck := true }).ackLink p.val =
        (s.dev.modTport p.val fun x => { x with gotAck := true }).tetherUp p.val := by
      have hsent' : (s.dev.tport p.val).sentAck = true := hsent
      generalize s.dev.modTport p.val (fun x => { x with gotAck := true }) = e at hport
      unfold Dev.ackLink
      extract_lets y l d1 z
      have hd1 : d1 = e := if_neg (by simp [y, hport, hsent'])
      clear_value d1
      subst hd1
      exact if_pos (by simp [z, hport, hsent'])
    rw [if_pos hst, hup]
    obtain ⟨h1, h2, h3, h4, h5, h6, h7⟩ := (s.dev.modTport p.val fun x => { x with gotAck := true }).tetherUp_up p.val
    have hheld : (s.dev.modTport p.val fun x => { x with gotAck := true }).heldStandby p.val = s.dev.heldStandby p.val := by
      unfold Dev.heldStandby
      rw [hport]
      rfl
    rw [hport] at h3 h5
    rw [hheld] at h1
    exact ⟨h1, h2, h3, h4, h5, h6, h7⟩
  · intro hst hsent hup
    refine Laws.completes_ok (exec_linkack ..) ?_
    have hsent' : (s.dev.tport p.val).sentAck = false := hsent
    have hup' : (s.dev.tport p.val).gotUp = false := hup
    rw [if_pos hst, Dev.ackLink_waits (by rw [hport]; exact hsent') (.inr (by rw [hport]; exact hup'))]
    rfl
  · intro hst
    refine Laws.completes_ok (exec_linkack ..) ?_
    rw [if_neg hst]

/-! ### PING and PONG (R312, R313) -/

/-- A port that takes the middle of its samples of D, and has sent its LINKACK (R313). -/
def TPort.acked (x : TPort) : TPort :=
  let l := (x.samples.map (·.2)).mergeSort (· ≤ ·)
  { x with sentAck := true, delay := (l.getD 3 0 + l.getD 4 0) / 2 }

theorem Dev.ackLink_sends {d : Dev} {p : Nat} (hup : (d.tport p).gotUp = true) (hsent : (d.tport p).sentAck = false)
    (hlen : (d.tport p).samples.length = 8) (hack : (d.tport p).gotAck = false) :
    d.ackLink p = (d.setTport p (d.tport p).acked).say (.ctl p .linkack) := by
  unfold Dev.ackLink
  extract_lets x l d1 y
  have hd1 : d1 = (d.setTport p (d.tport p).acked).say (.ctl p .linkack) := if_pos (by simp [x, hup, hsent, hlen])
  have hy : y = (d.tport p).acked := by
    rw [show y = d1.tport p from rfl, hd1]
    exact Dev.tport_setTport_self d p _
  rw [hy, if_neg (by simp [TPort.acked, hack]), hd1]

theorem pings_and_pongs (s : State) (p : Fin 3) (i : Fin 8) (t1 t2 t3 t4 : BitVec 48) :
    let x := s.dev.tport p.val
    (x.st = .handshake ∨ x.st = .active ∨ x.st = .standby → Completes (.ping p i t1 t2 t3) s fun d =>
      d = { s.dev with out := s.dev.out ++ [.ctl p.val (.pong i.val t1 t2 t3)] }) ∧
    (let samples := x.samples.put i.val (((t4 - t1) - (t3 - t2)).toNat / 2)
     let l := (samples.map (·.2)).mergeSort (· ≤ ·)
     (x.st = .handshake → x.sentAck = false → samples.length ≠ 8 → Completes (.pong p i t1 t2 t3 t4) s fun d =>
        d = s.dev.setTport p.val { x with samples := samples }) ∧
     (x.st = .handshake → x.sentAck = false → x.gotUp = true → x.gotAck = false → samples.length = 8 → Completes (.pong p i t1 t2 t3 t4) s fun d =>
        let y : TPort := { x with samples := samples, sentAck := true, delay := (l.getD 3 0 + l.getD 4 0) / 2 }
        d = (s.dev.modTport p.val fun _ => y).say (.ctl p.val .linkack))) ∧
    (x.st ≠ .handshake → Completes (.pong p i t1 t2 t3 t4) s fun d => d = s.dev) ∧
    (x.st = .handshake → x.gotUp = true → x.samples.has i.val = false → Completes (.pingResend p i t1) s fun d =>
      d = { s.dev with out := s.dev.out ++ [.ctl p.val (.ping i.val t1)] }) ∧
    (x.samples.has i.val = true → Completes (.pingResend p i t1) s fun d => d = s.dev) := by
  intro x
  refine ⟨?_, ?_, ?_, ?_, ?_⟩
  · intro hst
    refine Laws.completes_ok (exec_ping ..) ?_
    rw [if_pos (by simpa [Dev.pings, or_assoc] using hst)]
    rfl
  · intro samples l
    have hport := Dev.tport_setTport_self s.dev p.val { x with samples := samples }
    have hpong (hst : x.st = .handshake) : s.dev.takePong p.val i.val t1 t2 t3 t4 =
        (s.dev.setTport p.val { x with samples := samples }).ackLink p.val := if_pos hst
    constructor
    · intro hst hsent hlen
      refine Laws.completes_ok (exec_pong ..) ?_
      rw [hpong hst, Dev.ackLink_waits (by rw [hport]; exact hsent) (.inl (by rw [hport]; exact hlen))]
    · intro hst hsent hup hack hlen
      refine Laws.completes_ok (exec_pong ..) ?_
      rw [hpong hst, Dev.ackLink_sends (by rw [hport]; exact hup) (by rw [hport]; exact hsent) (by rw [hport]; exact hlen)
        (by rw [hport]; exact hack), hport, Dev.setTport_setTport]
      rfl
  · intro hst
    refine Laws.completes_ok (exec_pong ..) ?_
    exact if_neg hst
  · intro hst hup hnew
    refine Laws.completes_ok (exec_pingResend ..) ?_
    rw [if_pos (by simp only [Bool.and_eq_true, decide_eq_true_eq, Bool.not_eq_true']; exact ⟨⟨hst, hup⟩, hnew⟩)]
    rfl
  · intro hhas
    refine Laws.completes_ok (exec_pingResend ..) ?_
    rw [if_neg (by rw [show (s.dev.tport p.val).samples.has i.val = true from hhas]; simp)]

/-- Settles O54: LINKUP, LINKACK, and the PINGs and PONGs. -/
theorem linkUpHandshake : Obligations.LinkUpHandshake := by
  unfold Obligations.LinkUpHandshake
  exact ⟨link_up, link_acks, pings_and_pongs⟩

end Sys2Proof.Machine
end

section
/-! What a message sent leaves of a port that is not active (spec/11 R302, R314): all but the messages that wait on it. -/

namespace Sys2Proof.Machine

open Sys2Proof Sys2Proof.Laws

/-- A port that is not active in d stands in d' as it was, but for the messages that wait on it. -/
structure Hush (p : Nat) (d d' : Dev) : Prop where
  port : (d.tport p).st ≠ .active → ∃ tx, d'.tport p = { d.tport p with tx := tx }

namespace Hush

variable {p : Nat} {a b d d' : Dev}

theorem refl (p : Nat) (d : Dev) : Hush p d d := ⟨fun _ => ⟨_, rfl⟩⟩

theorem trans (h : Hush p a b) (g : Hush p b d) : Hush p a d where
  port hst := by
    obtain ⟨tx, htx⟩ := h.port hst
    obtain ⟨tx', htx'⟩ := g.port (by rw [htx]; exact hst)
    exact ⟨tx', by rw [htx', htx]⟩

theorem of_ports (h : d'.chain.ports = d.chain.ports) : Hush p d d' where
  port _ := ⟨(d.tport p).tx, by rw [Dev.tport, h]; rfl⟩

theorem of_signals (h : Signals d d') : Hush p d d' := of_ports (by rw [h.chain])

theorem setTport_ne {q : Nat} (d : Dev) (x : TPort) (h : p ≠ q) : Hush p d (d.setTport q x) where
  port _ := ⟨(d.tport p).tx, Dev.tport_setTport_ne _ _ _ _ h⟩

theorem modTport_tx (d : Dev) (q : Nat) (f : TPort → List (Msg × Option Nat)) : Hush p d (d.modTport q fun x => { x with tx := f x }) where
  port _ := by
    by_cases h : p = q
    · subst h
      exact ⟨_, Dev.tport_modTport_self ..⟩
    · exact ⟨(d.tport p).tx, Dev.tport_modTport_ne _ _ _ _ h⟩

theorem launch_ne {q : Nat} (d : Dev) (m : Msg) (from_ : Option Nat) (h : p ≠ q) : Hush p d (d.launch q m from_) := by
  unfold Dev.launch
  split
  · exact (setTport_ne _ _ h).trans ((setTport_ne _ _ h).trans (of_signals ((signals_say ..).trans (signals_bump ..))))
  · exact (setTport_ne _ _ h).trans (of_signals ((signals_say ..).trans (signals_bump ..)))

theorem pumpList (d : Dev) (q : Nat) (tx : List (Msg × Option Nat)) (blocked : List (Bool × Nat)) (left : List (Msg × Option Nat)) :
    Hush p d (d.pumpList q tx blocked left) := by
  induction tx generalizing d blocked left with
  | nil => exact modTport_tx d q fun _ => left
  | cons e tx ih =>
    unfold Dev.pumpList
    extract_lets key
    split
    · exact ih ..
    · next hgo =>
      by_cases h : p = q
      · subst h
        refine ⟨fun hst => absurd ?_ hgo⟩
        simp [TPort.maySend, TPort.canSend, hst]
      · exact (launch_ne d _ _ h).trans (ih ..)

theorem pump (d : Dev) (q : Nat) : Hush p d (d.pump q) := pumpList ..

theorem sendMsg (d : Dev) (q : Nat) (m : Msg) (from_ : Option Nat) : Hush p d (d.sendMsg q m from_) := (modTport_tx ..).trans (pump ..)

theorem each {α : Type} (l : List α) (d : Dev) (f : Dev → α → Dev) (h : ∀ e x, Hush p e (f e x)) : Hush p d (each l d f) :=
  each_induct (Hush p d) (refl p d) fun e x _ he => he.trans (h e x)

end Hush

/-! ### Answers to requests (R38, R314, R322) -/

theorem Dev.countResp_chain (d : Dev) (o : Owed) (r : Resp) : (d.countResp o r).chain = d.chain := by
  unfold Dev.countResp
  split
  · rfl
  · extract_lets ns d1 d2
    have h1 : d1.chain = d.chain := by
      simp only [d1]
      split
      · exact (signals_bumpLd ..).chain
      · rfl
    have h2 : d2.chain = d.chain := by
      simp only [d2]
      split
      · exact (signals_bumpLd ..).chain.trans h1
      · exact h1
    split
    · exact (signals_bumpLd ..).chain.trans h2
    · exact h2

theorem Dev.flushEgress_chain (n : Nat) (d : Dev) (l : Nat) : (Dev.flushEgress n d l).chain = d.chain := by
  induction n generalizing d with
  | zero => rfl
  | succ n ih =>
    unfold Dev.flushEgress
    extract_lets x
    split
    · rfl
    · exact (ih _).trans (Dev.countResp_chain ..)

theorem Dev.flushSnoops_chain (n : Nat) (d : Dev) (l : Nat) : (Dev.flushSnoops n d l).chain = d.chain := by
  induction n generalizing d with
  | zero => rfl
  | succ n ih =>
    unfold Dev.flushSnoops
    extract_lets x
    split
    · rfl
    · split
      · rfl
      · exact ih _

theorem Dev.flush_chain (d : Dev) (l : Nat) : (d.flush l).chain = d.chain :=
  (Dev.flushSnoops_chain ..).trans (Dev.flushEgress_chain ..)

theorem Dev.owe_chain (d : Dev) (l : Nat) (o : Owed) : (d.owe l o).chain = d.chain := by
  unfold Dev.owe
  split
  · rfl
  · exact Dev.flush_chain ..

theorem Dev.completeC1_chain (d : Dev) (q : Req) : (d.completeC1 q).chain = d.chain := by
  unfold Dev.completeC1
  split
  · rfl
  · rfl

namespace Hush

variable {p : Nat}

theorem answer (d : Dev) (q : Req) (a : Answer) (failed : Bool) : Hush p d (d.answer q a failed) := by
  unfold Dev.answer
  extract_lets path d1 jobs
  have h1 : Hush p d d1 := of_ports (by rw [show d1.chain = d.chain from Dev.completeC1_chain ..])
  split
  · split
    · exact h1
    · exact h1.trans (of_ports (by rw [Dev.owe_chain]))
  · split
    · exact h1
    · exact h1.trans (sendMsg ..)
  · exact h1.trans (of_ports (by rw [(signals_doorbell ..).chain]))
  · exact h1

theorem loseRequest (d : Dev) (id q : Nat) (noRoute : Bool) : Hush p d (d.loseRequest id q noRoute) := by
  unfold Dev.loseRequest
  split
  · exact refl p d
  · extract_lets d1
    have h1 : Hush p d d1 := by
      simp only [d1]
      split
      · exact of_signals (signals_raiseAt ..)
      · exact of_signals (signals_raise ..)
    exact h1.trans (answer ..)

theorem outcome (d : Dev) (tag q status : Nat) : Hush p d (d.outcome tag q status) := by
  unfold Dev.outcome
  extract_lets lost free
  have hlost (d : Dev) : Hush p d (lost d) := of_signals (signals_bump ..)
  have hfree (d : Dev) : Hush p d (free d) := of_ports rfl
  split
  · split
    · split
      · split
        · exact (hfree d).trans (answer ..)
        · exact hfree d
      · exact ((hlost d).trans (hfree _)).trans (loseRequest ..)
    · split
      · exact (hlost d).trans (of_ports rfl)
      · exact ((hlost d).trans (hfree _)).trans (loseRequest ..)
  · refine trans ?_ (hfree _)
    split
    · exact refl p d
    · exact hlost d
  · exact hfree d
  · exact hfree d
  · exact refl p d

theorem lostMessage (d : Dev) (q : Nat) (t : Transit) : Hush p d (d.lostMessage q t) := by
  unfold Dev.lostMessage
  split
  · split
    · exact sendMsg ..
    · exact refl p d
  · exact outcome ..

end Hush

/-- The end of a scan that a lane's link calls for leaves the chain, the media and the sources alone. -/
theorem Dev.checkScan_chain (d : Dev) : d.checkScan.chain = d.chain ∧ d.checkScan.fault = d.fault ∧ ∃ o, d.checkScan.out = d.out ++ o := by
  unfold Dev.checkScan
  split
  · split
    · unfold Dev.endScan
      extract_lets glint d1
      split
      · obtain ⟨b, hsig⟩ := endBgRet_signals d1 _ Status.success.ret (Status.success.code + 4096 * flag false) (statusWord .success false ++ zeros 6)
        exact ⟨hsig.chain, hsig.fault, hsig.out⟩
      · exact ⟨rfl, rfl, [], (List.append_nil _).symm⟩
    · exact ⟨rfl, rfl, [], (List.append_nil _).symm⟩
  · exact ⟨rfl, rfl, [], (List.append_nil _).symm⟩

/-! ### Link down (R314) -/

/-- A port whose link is down holds nothing (R314). -/
def TPort.isDown (y : TPort) : Prop :=
  y.st = .td ∧ y.kept = false ∧ y.replay = [] ∧ y.transit = [] ∧ y.pool = [] ∧ y.failures = 0 ∧ y.width = 0

theorem Hush.isDown {p : Nat} {d d' : Dev} (h : Hush p d d') (hdown : (d.tport p).isDown) : (d'.tport p).isDown := by
  obtain ⟨tx, htx⟩ := h.port (by rw [hdown.1]; decide)
  rw [htx]
  exact hdown

/-- What is told of transit entries that a port holds leaves a port that is down as it is. -/
theorem TPort.isDown_transit {y : TPort} (f : Transit → Transit) (h : y.isDown) : ({ y with transit := y.transit.map f } : TPort).isDown := by
  obtain ⟨hst, hkept, hreplay, htransit, hpool, hfail, hwidth⟩ := h
  exact ⟨hst, hkept, hreplay, by simp [htransit], hpool, hfail, hwidth⟩

theorem Dev.tetherDown_isDown (d : Dev) (p : Nat) : ((d.tetherDown p).tport p).isDown := by
  unfold Dev.tetherDown
  extract_lets x d1 waiting d2 d3 path home d4 d5 d6
  have h2 : (d2.tport p).isDown := by
    rw [show d2.tport p = _ from Dev.tport_setTport_self d1 p _]
    exact ⟨rfl, rfl, rfl, rfl, rfl, rfl, rfl⟩
  have h3 : (d3.tport p).isDown := by
    refine each_induct (fun e : Dev => (e.tport p).isDown) h2 ?_
    intro e q _ he
    by_cases hq : p = q
    · subst hq
      rw [Dev.tport_modTport_self]
      exact TPort.isDown_transit _ he
    · rw [Dev.tport_modTport_ne _ _ _ _ hq]
      exact he
  have h4 : Hush p d3 d4 := .of_ports rfl
  have h5 : Hush p d3 d5 := h4.trans (Hush.each (x.transit ++ waiting) d4 (fun e t => e.lostMessage p t) fun e t => Hush.lostMessage e p t)
  clear_value d5
  obtain ⟨f, -, -, -, hsig⟩ := faultEvent_signals d5 (srcTether p) 2
    ((match x.replay with | f :: _ => f.hdr.seq.toNat | [] => x.seq.toNat) + x.uid.toNat % 2 ^ 48 * 2 ^ 16) 0 0xFF false
  have h6 : Hush p d5 d6 := .of_ports (congrArg Chain.ports hsig.chain)
  have h7 : Hush p d6 ((d6.raise 0x111 .warning none (p + x.uid.toNat * 2 ^ 64)).checkScan) :=
    (Hush.of_signals (signals_raise ..)).trans (.of_ports (congrArg Chain.ports (Dev.checkScan_chain _).1))
  exact ((h5.trans h6).trans h7).isDown h3

end Sys2Proof.Machine
end

section
/-! Replay, retrain and link down (spec/10 R280; spec/11 R308 to R310, R312, R314). -/

namespace Sys2Proof.Machine

open Sys2Proof Sys2Proof.Laws

section
variable (s : State) (p : Fin 3)

theorem exec_tetherReplayTimerExpiry : exec (.tetherReplayTimerExpiry p) s = ok (s.dev.flitFails p.val) s := rfl
theorem exec_nak (ack : BitVec 12) : exec (.nak p ack) s = ok (s.dev.takeNak p.val ack) s := rfl
theorem exec_retrain : exec (.retrain p) s = ok (s.dev.startRetrain p.val) s := rfl
theorem exec_tetherReceiveSilence : exec (.tetherReceiveSilence p) s = ok (s.dev.startRetrain p.val) s := rfl
theorem exec_handshakeTimeout : exec (.handshakeTimeout p) s =
    ok (let x := s.dev.tport p.val
        if x.st = .retraining || (x.st = .handshake && x.kept && x.doze = 0) then s.dev.tetherDown p.val
        else if x.st = .handshake then s.dev.toTd p.val else s.dev) s := rfl

end

/-- Every held flit of a port stands in the output again (R308). -/
def Dev.resent (d : Dev) (p : Nat) (x : TPort) : Prop := ∀ f ∈ x.replay, Out.flit p (Flit.again f) ∈ d.out

/-- A device whose port's oldest flit has failed once more (R309). -/
def Dev.failed (d : Dev) (p : Nat) : Dev := d.setTport p { d.tport p with failures := (d.tport p).failures + 1 }

theorem Dev.failed_tport (d : Dev) (p : Nat) : (d.failed p).tport p = { d.tport p with failures := (d.tport p).failures + 1 } :=
  Dev.tport_setTport_self ..

section
variable {d : Dev} {p : Nat}

theorem Dev.flitFails_none (h : (d.tport p).replay = []) : d.flitFails p = d := by
  unfold Dev.flitFails
  extract_lets x n d1
  exact if_pos (by simp [x, h])

variable (hst : (d.tport p).st = .active) (hreplay : (d.tport p).replay ≠ [])
include hst hreplay

theorem Dev.flitFails_eq : d.flitFails p =
    if 9 ≤ (d.tport p).failures + 1 then (d.failed p).tetherDown p
    else if (d.tport p).failures + 1 = 5 then (d.failed p).startRetrain p else (d.failed p).replay p := by
  unfold Dev.flitFails
  extract_lets x n d1
  exact if_neg (by simp [x, hst, hreplay])

theorem Dev.flitFails_replays (h : (d.tport p).failures + 1 < 9) (h5 : (d.tport p).failures + 1 ≠ 5) :
    ((d.flitFails p).tport p).failures = (d.tport p).failures + 1 ∧ ((d.flitFails p).tport p).st = .active ∧ (d.flitFails p).resent p (d.tport p) := by
  obtain ⟨⟨counts, hport⟩, -, -, -, hresent⟩ := (d.failed p).replay_again p
  rw [d.failed_tport p] at hport hresent
  rw [Dev.flitFails_eq hst hreplay, if_neg (by omega), if_neg h5, hport]
  exact ⟨rfl, hst, hresent⟩

end

theorem Dev.startRetrain_starts {d : Dev} {p : Nat} (hst : (d.tport p).st = .active ∨ (d.tport p).st = .standby) :
    (d.startRetrain p).tport p = { d.tport p with st := .retraining, counts := (d.tport p).counts.put 0 ((d.tport p).counts.val 0 0 + 1) } ∧
      Out.ctl p .retrain ∈ (d.startRetrain p).out ∧ ((d.startRetrain p).source (srcTether p)).sticky = true := by
  unfold Dev.startRetrain
  extract_lets x d1 seq
  rw [if_neg (by simpa [x, Decidable.imp_iff_not_or, or_comm] using hst)]
  have hport : d1.tport p = { d.tport p with st := .retraining, counts := (d.tport p).counts.put 0 ((d.tport p).counts.val 0 0 + 1) } :=
    Dev.tport_setTport_self ..
  have hout : Out.ctl p .retrain ∈ d1.out := List.mem_append_right _ (List.mem_singleton_self _)
  clear_value d1
  have hbump := signals_bump d1 (evTether p 5) 1
  obtain ⟨f, -, -, hsticky, hsig⟩ := faultEvent_signals (d1.bump (evTether p 5)) (srcTether p) 1 (seq + x.uid.toNat % 2 ^ 48 * 2 ^ 16) 0 0xFF false
  obtain ⟨hchain, hfault, o, ho⟩ := ((d1.bump (evTether p 5)).faultEvent (srcTether p) 1 (seq + x.uid.toNat % 2 ^ 48 * 2 ^ 16)).checkScan_chain
  obtain ⟨o1, ho1⟩ := hbump.out
  obtain ⟨o2, ho2⟩ := hsig.out
  refine ⟨?_, ?_, ?_⟩
  · rw [Dev.tport, hchain, hsig.chain]
    exact (congrArg (fun c : Chain => c.ports.val p {}) hbump.chain).trans hport
  · rw [ho, ho2]
    refine List.mem_append_left _ (List.mem_append_left _ ?_)
    show _ ∈ (d1.bump (evTether p 5)).out
    rw [ho1]
    exact List.mem_append_left _ hout
  · rw [Dev.source, hfault, hsig.fault]
    exact hsticky

theorem replay_timer (s : State) (p : Fin 3) :
    let x := s.dev.tport p.val
    let n := x.failures + 1
    (x.st = .active → x.replay ≠ [] →
      (n < 5 ∨ n = 6 ∨ n = 7 ∨ n = 8 → Completes (.tetherReplayTimerExpiry p) s fun d =>
        (d.tport p.val).failures = n ∧ (d.tport p.val).st = .active ∧ d.resent p.val x) ∧
      (n = 5 → Completes (.tetherReplayTimerExpiry p) s fun d => (d.tport p.val).failures = 5 ∧ (d.tport p.val).st = .retraining) ∧
      (9 ≤ n → Completes (.tetherReplayTimerExpiry p) s fun d => (d.tport p.val).isDown)) ∧
    (x.replay = [] → Completes (.tetherReplayTimerExpiry p) s fun d => d = s.dev) := by
  intro x n
  constructor
  · intro hst hreplay
    have hfails := Dev.flitFails_eq hst hreplay
    refine ⟨?_, ?_, ?_⟩
    · intro hn
      exact Laws.completes_ok (exec_tetherReplayTimerExpiry ..)
        (Dev.flitFails_replays hst hreplay (by simp only [n, x] at hn; omega) (by simp only [n, x] at hn; omega))
    · intro hn
      have hn' : (s.dev.tport p.val).failures + 1 = 5 := hn
      refine Laws.completes_ok (exec_tetherReplayTimerExpiry ..) ?_
      rw [hfails, if_neg (by omega), if_pos hn',
        (Dev.startRetrain_starts (d := s.dev.failed p.val) (p := p.val) (.inl (by rw [Dev.failed_tport]; exact hst))).1, Dev.failed_tport]
      exact ⟨hn', rfl⟩
    · intro hn
      refine Laws.completes_ok (exec_tetherReplayTimerExpiry ..) ?_
      rw [hfails, if_pos hn]
      exact Dev.tetherDown_isDown ..
  · intro hreplay
    exact Laws.completes_ok (exec_tetherReplayTimerExpiry ..) (Dev.flitFails_none hreplay)

theorem nak_received (s : State) (p : Fin 3) (ack : BitVec 12) :
    let x := s.dev.tport p.val
    let y := x.ackTo ack
    (x.st = .active → y.replay = [] → Completes (.nak p ack) s fun d => d = (s.dev.setTport p.val y).pump p.val) ∧
    (x.st = .active → y.replay ≠ [] → y.failures < 4 → Completes (.nak p ack) s fun d =>
      (d.tport p.val).failures = y.failures + 1 ∧ d.resent p.val y) ∧
    (x.st ≠ .active → Completes (.nak p ack) s fun d => d = s.dev) := by
  intro x y
  have hport : (s.dev.modTport p.val fun x => x.ackTo ack).tport p.val = y := Dev.tport_modTport_self ..
  have hnak (hst : x.st = .active) : s.dev.takeNak p.val ack = ((s.dev.modTport p.val fun x => x.ackTo ack).flitFails p.val).pump p.val :=
    if_neg (not_not_intro hst)
  refine ⟨?_, ?_, ?_⟩
  · intro hst hreplay
    refine Laws.completes_ok (exec_nak ..) ?_
    rw [hnak hst, Dev.flitFails_none (by rw [hport]; exact hreplay)]
    rfl
  · intro hst hreplay hfew
    refine Laws.completes_ok (exec_nak ..) ?_
    rw [hnak hst]
    obtain ⟨hfail, -, hresent⟩ := Dev.flitFails_replays (d := s.dev.modTport p.val fun x => x.ackTo ack) (p := p.val)
      (by rw [hport]; exact hst) (by rw [hport]; exact hreplay) (by rw [hport]; omega) (by rw [hport]; omega)
    rw [hport] at hfail hresent
    have hpump := Tells.pump ((s.dev.modTport p.val fun x => x.ackTo ack).flitFails p.val) p.val
    exact ⟨(hpump.flows.port p.val).failures.trans hfail, fun f hf => hpump.mem_out (hresent f hf)⟩
  · intro hst
    exact Laws.completes_ok (exec_nak ..) (if_pos hst)

theorem retrains (s : State) (p : Fin 3) (c : Instr) (hc : c ∈ [Instr.retrain p, .tetherReceiveSilence p]) :
    let x := s.dev.tport p.val
    (x.st = .active ∨ x.st = .standby → Completes c s fun d =>
      d.tport p.val = { x with st := .retraining, counts := x.counts.put 0 (x.counts.val 0 0 + 1) } ∧
      Out.ctl p.val .retrain ∈ d.out ∧ (d.source (srcTether p.val)).sticky = true) ∧
    (x.st ≠ .active → x.st ≠ .standby → Completes c s fun d => d = s.dev) := by
  have hexec : exec c s = ok (s.dev.startRetrain p.val) s := by
    simp only [List.mem_cons, List.not_mem_nil, or_false] at hc
    obtain rfl | rfl := hc
    · exact exec_retrain ..
    · exact exec_tetherReceiveSilence ..
  intro x
  constructor
  · intro hst
    exact Laws.completes_ok hexec (Dev.startRetrain_starts hst)
  · intro hactive hstandby
    refine Laws.completes_ok hexec ?_
    rw [Dev.startRetrain]
    exact if_pos (by simpa using ⟨hactive, hstandby⟩)

/-! ### A handshake or retrain that takes too long (R280, R310, R312) -/

/-- A port that returns to TD counts it, and the third return holds it down, whether a link was up or not. -/
theorem Dev.toTd_returns (d : Dev) (p : Nat) :
    ((d.toTd p).tport p).st = (if 3 ≤ (d.tport p).returns + 1 then .heldDown else .td) ∧
      ((d.toTd p).tport p).returns = if 3 ≤ (d.tport p).returns + 1 then 0 else (d.tport p).returns + 1 := by
  unfold Dev.toTd
  extract_lets x third d1 d2
  have hport : d2.tport p = _ := Dev.tport_modTport_self d1 p _
  have h : (if third then d2.raise 0x110 .warning none (p + x.reached * 4) else d2).tport p = d2.tport p := by
    split
    · rw [Dev.tport, (signals_raise ..).chain]; rfl
    · rfl
  rw [h, hport]
  exact ⟨rfl, rfl⟩

theorem handshake_timeout (s : State) (p : Fin 3) :
    let x := s.dev.tport p.val
    (x.st = .retraining ∨ (x.st = .handshake ∧ x.kept = true ∧ x.doze = 0) → Completes (.handshakeTimeout p) s fun d => (d.tport p.val).isDown) ∧
    (x.st = .handshake → x.kept = false → x.returns < 2 → Completes (.handshakeTimeout p) s fun d =>
      (d.tport p.val).st = .td ∧ (d.tport p.val).returns = x.returns + 1) ∧
    (x.st = .handshake → x.kept = false → x.returns = 2 → Completes (.handshakeTimeout p) s fun d =>
      (d.tport p.val).st = .heldDown ∧ (d.tport p.val).returns = 0) ∧
    (x.st = .td → Completes (.handshakeTimeout p) s fun d => d = s.dev) := by
  intro x
  refine ⟨?_, ?_, ?_, ?_⟩
  · intro hlate
    refine Laws.completes_ok (exec_handshakeTimeout ..) ?_
    dsimp only
    rw [if_pos (by simpa [and_assoc] using hlate)]
    exact Dev.tetherDown_isDown ..
  · intro hst hkept hfew
    obtain ⟨h1, h2⟩ := s.dev.toTd_returns p.val
    have hnot : ¬ 3 ≤ (s.dev.tport p.val).returns + 1 := by simp only [x] at hfew; omega
    rw [if_neg hnot] at h1 h2
    refine Laws.completes_ok (exec_handshakeTimeout ..) ?_
    dsimp only
    rw [if_neg (by simp [show (s.dev.tport p.val).st = .handshake from hst, show (s.dev.tport p.val).kept = false from hkept]), if_pos hst]
    exact ⟨h1, h2⟩
  · intro hst hkept hthird
    obtain ⟨h1, h2⟩ := s.dev.toTd_returns p.val
    have hpos : 3 ≤ (s.dev.tport p.val).returns + 1 := by simp only [x] at hthird; omega
    rw [if_pos hpos] at h1 h2
    refine Laws.completes_ok (exec_handshakeTimeout ..) ?_
    dsimp only
    rw [if_neg (by simp [show (s.dev.tport p.val).st = .handshake from hst, show (s.dev.tport p.val).kept = false from hkept]), if_pos hst]
    exact ⟨h1, h2⟩
  · intro hst
    have hst' : (s.dev.tport p.val).st = .td := hst
    refine Laws.completes_ok (exec_handshakeTimeout ..) ?_
    simp [hst']

/-- Settles O55: replays, Naks, retrains, and handshakes that take too long. -/
theorem linkFailures : Obligations.LinkFailures := by
  unfold Obligations.LinkFailures
  exact ⟨replay_timer, nak_received, retrains, handshake_timeout⟩

end Sys2Proof.Machine
end

section
/-! Flits are taken in order (spec/11 R298, R299, R306 to R308). -/

namespace Sys2Proof.Machine

open Sys2Proof Sys2Proof.Laws

section
variable (s : State) (p : Fin 3)

theorem exec_idleFlit (h : FlitHdr) : exec (.idleFlit p h) s = ok (s.dev.idleFlit p.val h).flow s := rfl
theorem exec_badFlit : exec (.badFlit p) s = ok (s.dev.badFlit p.val) s := rfl
theorem exec_requestFlit (f : Flit) :
    exec (.requestFlit p f) s = ok (if f.hdr.kind = 1 then s.dev.sequenced p.val f else s.dev.badFlit p.val).flow s := rfl
theorem exec_responseFlit (f : Flit) :
    exec (.responseFlit p f) s = ok (if f.hdr.kind = 2 then s.dev.sequenced p.val f else s.dev.badFlit p.val).flow s := rfl

/-- A sequenced flit of kind k, by its command: of its kind it is taken in sequence, else it is bad (R299). -/
theorem exec_sequencedFlit {c : Instr} {k : BitVec 2} {f : Flit}
    (hc : (c, k) ∈ [(Instr.requestFlit p f, (1 : BitVec 2)), (.responseFlit p f, 2)]) :
    exec c s = ok (if f.hdr.kind = k then s.dev.sequenced p.val f else s.dev.badFlit p.val).flow s := by
  simp only [List.mem_cons, Prod.mk.injEq, List.not_mem_nil, or_false] at hc
  obtain ⟨rfl, rfl⟩ | ⟨rfl, rfl⟩ := hc
  · exact exec_requestFlit ..
  · exact exec_responseFlit ..

end

section
variable {d : Dev} {p : Nat}

/-! ### On a port that is not active -/

theorem Dev.idleFlit_inactive (h : FlitHdr) (hst : (d.tport p).st ≠ .active) : d.idleFlit p h = d := if_pos hst

theorem Dev.badFlit_inactive (hst : (d.tport p).st ≠ .active) : d.badFlit p = d := if_pos hst

theorem Dev.sequenced_inactive (f : Flit) (hst : (d.tport p).st ≠ .active) : d.sequenced p f = d := if_pos hst

/-! ### On an active port -/

/-- What a header brings leaves the port's state and its expected number (R298). -/
theorem Dev.takeHeader_keeps (d : Dev) (p : Nat) (h : FlitHdr) :
    ((d.takeHeader p h).tport p).st = (d.tport p).st ∧ ((d.takeHeader p h).tport p).ne = (d.tport p).ne := by
  have hflows := (Flows.pump (d.modTport p fun x => (x.ackTo h.ack).takeCredits h.crClass.toNat h.crTotal) p).port p
  rw [Dev.tport_modTport_self] at hflows
  exact ⟨hflows.st, hflows.ne⟩

theorem Dev.sequenced_unformed {f : Flit} (hform : flitFormed f = false) : d.sequenced p f = d.badFlit p := by
  unfold Dev.sequenced
  by_cases hst : (d.tport p).st = .active
  · rw [if_neg (not_not_intro hst), if_pos (by simp [hform])]
  · rw [if_pos hst, Dev.badFlit_inactive hst]

variable (hst : (d.tport p).st = .active)
include hst

theorem Dev.idleFlit_active (h : FlitHdr) :
    d.idleFlit p h = if h.nak then ((d.takeHeader p h).flitFails p).pump p else d.takeHeader p h :=
  if_neg (not_not_intro hst)

theorem Dev.badFlit_active :
    d.badFlit p = ((d.modTport p fun x => { x with counts := x.counts.put 2 (x.counts.val 2 0 + 1) }).bump (evTether p 3)).sendNak p :=
  if_neg (not_not_intro hst)

/-- A well-formed flit without a Nak, after what its header brings: taken, dropped as a duplicate, or asked for again (R307). -/
theorem Dev.sequenced_formed {f : Flit} (hform : flitFormed f = true) (hnak : f.hdr.nak = false) :
    d.sequenced p f =
      (let d' := d.takeHeader p f.hdr
       let y := { d'.tport p with ne := (d.tport p).ne + 1, nak := false }
       if (f.hdr.seq - (d.tport p).ne).toNat = 0 then
         ((d'.setTport p (if f.hdr.kind = 1 then { y with pool := y.pool ++ [(f.hdr.flitClass.toNat, f.msgs)] }
                          else { y with rsps := y.rsps ++ f.msgs })).bump (evTether p 1)).sendIdle p
       else if 2048 ≤ (f.hdr.seq - (d.tport p).ne).toNat then (d'.bump (evTether p 4)).sendIdle p
       else d'.sendNak p) := by
  obtain ⟨hst', hne⟩ := d.takeHeader_keeps p f.hdr
  unfold Dev.sequenced
  simp [hst, hst', hne, hform, hnak]

end

/-! ### A Nak (R307) -/

theorem Dev.sendNak_again {d : Dev} {p : Nat} (h : (d.tport p).nak = true) : d.sendNak p = d := if_pos h

theorem Dev.sendNak_first {d : Dev} {p : Nat} (hnak : (d.tport p).nak = false) :
    ((d.sendNak p).tport p).nak = true ∧ ∃ h mk, h.nak = true ∧ h.ack = (d.tport p).ne - 1 ∧ Out.ctl p (.idle h mk) ∈ (d.sendNak p).out := by
  have hport := Dev.tport_modTport_self d p fun x => { x with nak := true }
  rw [Dev.sendNak, if_neg (by simp [hnak])]
  refine ⟨?_, ?_⟩
  · rw [((Flows.sendIdle _ p true).port p).nak, hport]
  · unfold Dev.sendIdle
    extract_lets x h d1
    refine ⟨h, _, rfl, ?_, (Tells.of_signals (signals_bump ..)).mem_out (List.mem_append_right _ (List.mem_singleton_self _))⟩
    simp only [h, x, hport, TPort.header]

theorem inactive_port (s : State) (p : Fin 3) (hst : (s.dev.tport p.val).st ≠ .active) :
    (∀ h, Settles (.idleFlit p h) s fun e => e = s.dev) ∧ Completes (.badFlit p) s (fun d => d = s.dev) ∧
      ∀ f, Settles (.requestFlit p f) s (fun e => e = s.dev) ∧ Settles (.responseFlit p f) s (fun e => e = s.dev) := by
  have hflit (f : Flit) (b : Prop) [Decidable b] : (if b then s.dev.sequenced p.val f else s.dev.badFlit p.val) = s.dev := by
    rw [Dev.sequenced_inactive f hst, Dev.badFlit_inactive hst, ite_self]
  exact ⟨fun h => Laws.settles_ok (exec_idleFlit ..) (Dev.idleFlit_inactive h hst),
    Laws.completes_ok (exec_badFlit ..) (Dev.badFlit_inactive hst),
    fun f => ⟨Laws.settles_ok (exec_requestFlit ..) (hflit f _), Laws.settles_ok (exec_responseFlit ..) (hflit f _)⟩⟩

theorem bad_flit (s : State) (p : Fin 3) (hst : (s.dev.tport p.val).st = .active) :
    let x := s.dev.tport p.val
    let counted := { x with counts := x.counts.put 2 (x.counts.val 2 0 + 1) }
    (x.nak = true → Completes (.badFlit p) s fun d => d = (s.dev.setTport p.val counted).bump (evTether p.val 3)) ∧
    (x.nak = false → Completes (.badFlit p) s fun d =>
      (d.tport p.val).nak = true ∧ ∃ h mk, h.nak = true ∧ h.ack = x.ne - 1 ∧ Out.ctl p.val (.idle h mk) ∈ d.out) := by
  intro x counted
  have hport : ((s.dev.setTport p.val counted).bump (evTether p.val 3)).tport p.val = counted := by
    rw [Dev.tport_bump]
    exact Dev.tport_setTport_self ..
  constructor
  · intro hnak
    refine Laws.completes_ok (exec_badFlit ..) ?_
    rw [Dev.badFlit_active hst]
    exact Dev.sendNak_again ((congrArg TPort.nak hport).trans hnak)
  · intro hnak
    refine Laws.completes_ok (exec_badFlit ..) ?_
    rw [Dev.badFlit_active hst]
    have h := Dev.sendNak_first (d := (s.dev.setTport p.val counted).bump (evTether p.val 3)) (p := p.val) (by rw [hport]; exact hnak)
    rw [hport] at h
    exact h

theorem sequenced_flit (s : State) (p : Fin 3) (hst : (s.dev.tport p.val).st = .active) (c : Instr) (k : BitVec 2) (f : Flit)
    (hc : (c, k) ∈ [(Instr.requestFlit p f, (1 : BitVec 2)), (.responseFlit p f, 2)]) (hkind : f.hdr.kind = k)
    (hform : flitFormed f = true) (hnak : f.hdr.nak = false) :
    let x := s.dev.tport p.val
    let d := s.dev.takeHeader p.val f.hdr
    let y := { d.tport p.val with ne := x.ne + 1, nak := false }
    (f.hdr.seq = x.ne → Settles c s fun e =>
      e = ((d.setTport p.val (if k = 1 then { y with pool := y.pool ++ [(f.hdr.flitClass.toNat, f.msgs)] }
                              else { y with rsps := y.rsps ++ f.msgs })).bump (evTether p.val 1)).sendIdle p.val) ∧
    (2048 ≤ (f.hdr.seq - x.ne).toNat → Settles c s fun e => e = (d.bump (evTether p.val 4)).sendIdle p.val) ∧
    (f.hdr.seq ≠ x.ne → (f.hdr.seq - x.ne).toNat < 2048 → Settles c s fun e => e = d.sendNak p.val) := by
  intro x d y
  have hseq := Dev.sequenced_formed hst hform hnak
  have htaken {e : Dev} (he : s.dev.sequenced p.val f = e) : Settles c s fun e' => e' = e :=
    Laws.settles_ok (exec_sequencedFlit s p hc) ((if_pos hkind).trans he)
  refine ⟨fun hin => htaken ?_, fun hdup => htaken ?_, fun hne hgap => htaken ?_⟩
  · rw [hseq, hkind]
    exact if_pos (by simp [hin, x])
  · rw [hseq]
    exact (if_neg (by simp only [x] at hdup; omega)).trans (if_pos hdup)
  · have hne0 : ¬ (f.hdr.seq - x.ne).toNat = 0 := by bv_omega
    rw [hseq]
    exact (if_neg hne0).trans (if_neg (by simp only [x] at hgap; omega))

/-- Settles O56: what a flit's header brings, and what becomes of a flit by its sequence number. -/
theorem flitsInOrder : Obligations.FlitsInOrder := by
  unfold Obligations.FlitsInOrder
  intro s p x heard
  refine ⟨inactive_port s p, fun hst => ⟨fun h hnak => ?_, fun h hnak => ?_, bad_flit s p hst, sequenced_flit s p hst, ?_⟩⟩
  · exact Laws.settles_ok (exec_idleFlit ..) ((Dev.idleFlit_active hst h).trans (if_neg (by simp [hnak])))
  · exact Laws.settles_ok (exec_idleFlit ..) ((Dev.idleFlit_active hst h).trans (if_pos hnak))
  · intro c k f hc hbad
    refine Laws.settles_ok (exec_sequencedFlit s p hc) ?_
    split
    next hkind => exact Dev.sequenced_unformed (hbad.resolve_left (not_not_intro hkind))
    next => rfl

end Sys2Proof.Machine
end

section
/-! Tether links train: from TD to TS (spec/10 R280 to R282, R293). -/

namespace Sys2Proof.Machine

open Sys2Proof Sys2Proof.Laws

section
variable (s : State) (p : Fin 3)

theorem exec_tetherReceiverDetected (lanes : BitVec 8) : exec (.tetherReceiverDetected p lanes) s = ok (s.dev.receiverFound p.val lanes) s := rfl
theorem exec_tts1 (lane : Fin 8) (set : TrainSet) : exec (.tts1 p lane set) s = ok (s.dev.takeTts1 p.val lane.val set) s := rfl
theorem exec_taLockWindowExpiry : exec (.taLockWindowExpiry p) s = ok (s.dev.lockWindow p.val) s := rfl
theorem exec_tts2 (lane : Fin 8) (set : TrainSet) : exec (.tts2 p lane set) s = ok (s.dev.takeTts2 p.val lane.val set) s := rfl

end

/-! ### Entering a state -/

theorem Dev.tport_tstate (d : Dev) (p : Nat) (st : TState) :
    (d.tstate p st).tport p = { d.tport p with st := st, reached := tstateNum st } := Dev.tport_modTport_self ..

/-- The port in TA: a new nonce, and nothing locked (R280, R281). -/
def Dev.inTa (d : Dev) (p : Nat) : Dev :=
  ((d.random 8).2.tstate p .ta).modTport p fun x => { x with
    nonce := (d.random 8).1, lock := 0, cfg := 0, laneNonce := [], eqAsks := 0, gotUp := false, resume := false, sentAck := false
    gotAck := false }

theorem Dev.toTa_eq (d : Dev) (p : Nat) : d.toTa p = (d.inTa p).say (.ctl p (.tts 0 ((d.inTa p).ownSet p))) := rfl

theorem Dev.inTa_tport (d : Dev) (p : Nat) :
    (d.inTa p).tport p = { d.tport p with
      st := .ta, reached := 1, nonce := (d.random 8).1, lock := 0, cfg := 0, laneNonce := [], eqAsks := 0, gotUp := false, resume := false
      sentAck := false, gotAck := false } := by
  rw [Dev.inTa, Dev.tport_modTport_self, Dev.tport_tstate]
  rfl

theorem Dev.toTa_tport (d : Dev) (p : Nat) : (d.toTa p).tport p = (d.inTa p).tport p := Dev.tport_say ..

/-- TTS1 goes out with the port's new nonce, and with Reset where a width reset runs (R281, R293). -/
theorem Dev.toTa_sends (d : Dev) (p : Nat) :
    ∃ t : TrainSet, t.nonce = (d.random 8).1 ∧ t.reset = (if (d.tport p).resetting then 1 else 0) ∧ Out.ctl p (.tts 0 t) ∈ (d.toTa p).out := by
  refine ⟨(d.inTa p).ownSet p, ?_, ?_, List.mem_append_right _ (List.mem_singleton_self _)⟩
  · show ((d.inTa p).tport p).nonce = _
    rw [Dev.inTa_tport]
  · show (if ((d.inTa p).tport p).resetting then (1 : BitVec 8) else 0) = _
    rw [Dev.inTa_tport]

theorem Dev.toTc_enters (d : Dev) (p : Nat) :
    (d.toTc p).tport p = { d.tport p with st := .tc, reached := 2 } ∧ ∃ t, Out.ctl p (.tts 1 t) ∈ (d.toTc p).out :=
  ⟨(Dev.tport_say ..).trans (Dev.tport_tstate ..), _, List.mem_append_right _ (List.mem_singleton_self _)⟩

theorem Dev.tport_checkScan (d : Dev) (p : Nat) : d.checkScan.tport p = d.tport p := by
  rw [Dev.tport, (Dev.checkScan_chain d).1]; rfl

/-- A width reset takes its port to TA (R293). -/
theorem Dev.startReset_enters (d : Dev) (p : Nat) :
    ((d.startReset p).tport p).st = .ta ∧ ((d.startReset p).tport p).resetting = true ∧ ((d.startReset p).tport p).resetDue = false := by
  rw [Dev.startReset, Dev.tport_checkScan, Dev.toTa_tport, Dev.inTa_tport, Dev.tport_modTport_self]
  exact ⟨rfl, rfl, rfl⟩

/-! ### The commands -/

theorem Dev.receiverFound_trains {d : Dev} {p : Nat} {lanes : BitVec 8} (hclk : d.clocked = true) (hst : (d.tport p).st = .td)
    (hdoze : (d.tport p).doze = 0) (hlink : (d.tport p).retiredLink = false) (hon : d.setting idTetherEnable p ≠ 0) (hlanes : lanes ≠ 0) :
    d.receiverFound p lanes = (d.modTport p fun x => { x with present := lanes }).toTa p := by
  exact if_neg (by simpa [hclk, hst, hdoze, hlink, hon] using hlanes)

theorem receiver_detected (s : State) (p : Fin 3) (lanes : BitVec 8) :
    let x := s.dev.tport p.val
    (s.dev.clocked = true → x.st = .td → x.doze = 0 → x.retiredLink = false → s.dev.setting idTetherEnable p.val ≠ 0 → lanes ≠ 0 →
      Completes (.tetherReceiverDetected p lanes) s fun d => let y := d.tport p.val
        y.st = .ta ∧ y.present = lanes ∧ y.lock = 0 ∧ y.laneNonce = [] ∧ y.nonce = (s.dev.random 8).1 ∧
        ∃ t, t.nonce = y.nonce ∧ t.reset = (if x.resetting then 1 else 0) ∧ Out.ctl p.val (.tts 0 t) ∈ d.out) ∧
    (x.st ≠ .td ∨ lanes = 0 ∨ s.dev.setting idTetherEnable p.val = 0 → Completes (.tetherReceiverDetected p lanes) s fun d => d = s.dev) := by
  intro x
  constructor
  · intro hclk hst hdoze hlink hon hlanes
    refine Laws.completes_ok (exec_tetherReceiverDetected ..) ?_
    rw [Dev.receiverFound_trains hclk hst hdoze hlink hon hlanes]
    obtain ⟨t, hnonce, hreset, hout⟩ := Dev.toTa_sends (s.dev.modTport p.val fun x => { x with present := lanes }) p.val
    rw [Dev.tport_modTport_self] at hreset
    rw [Dev.toTa_tport, Dev.inTa_tport, Dev.tport_modTport_self]
    intro y
    exact ⟨rfl, rfl, rfl, rfl, rfl, t, hnonce, hreset, hout⟩
  · intro hnot
    refine Laws.completes_ok (exec_tetherReceiverDetected ..) (if_pos ?_)
    obtain hst | hlanes | hoff := hnot
    · simp [show (s.dev.tport p.val).st ≠ .td from hst]
    · simp [hlanes]
    · simp [hoff]

/-- A TTS1 on a port in TA, on a lane that it detected and that is not retired (R280, R281). -/
theorem Dev.takeTts1_locks {d : Dev} {p lane : Nat} (set : TrainSet) (hst : (d.tport p).st = .ta)
    (hpresent : (d.tport p).present.getLsbD lane = true) (hretired : (d.tport p).retired.getLsbD lane = false) :
    d.takeTts1 p lane set =
      (let x := d.tport p
       let y := { x with
         lock := x.lock ||| BitVec.ofNat 8 (2 ^ lane), laneNonce := x.laneNonce.put lane set.nonce
         partnerRates := set.rates, partnerWidth := set.width }
       if (y.present &&& ~~~y.retired &&& ~~~y.lock) = 0 then (d.setTport p y).toTc p else d.setTport p y) := by
  unfold Dev.takeTts1
  simp [hst, hpresent, hretired]

/-- A TTS1 leaves a port that it has taken into TA there, or takes it on to TC. -/
theorem Dev.takeTts1_resets {d : Dev} {p lane : Nat} {set : TrainSet}
    (hst : (d.tport p).st = .active ∨ (d.tport p).st = .standby ∨ (d.tport p).st = .retraining) (hreset : set.reset.getLsbD 0 = true) :
    (((d.takeTts1 p lane set).tport p).st = .ta ∨ ((d.takeTts1 p lane set).tport p).st = .tc) ∧
      ((d.takeTts1 p lane set).tport p).resetting = true ∧ ((d.takeTts1 p lane set).tport p).resetDue = false := by
  obtain ⟨hta, hresetting, hdue⟩ := d.startReset_enters p
  unfold Dev.takeTts1
  extract_lets x d1 x1 y d2
  have htd : x.st ≠ .td := by
    obtain h | h | h := hst <;> simp [x, h]
  have hd1 : d1 = d.startReset p := if_pos (by simpa [x, hreset, or_assoc] using hst)
  rw [if_neg (by simp [htd])]
  rw [← hd1] at hta hresetting hdue
  clear_value d1
  split
  · exact ⟨.inl hta, hresetting, hdue⟩
  · have hport : d2.tport p = y := Dev.tport_setTport_self ..
    split
    · rw [(Dev.toTc_enters ..).1, hport]
      exact ⟨.inr rfl, hresetting, hdue⟩
    · rw [hport]
      exact ⟨.inl hta, hresetting, hdue⟩

theorem first_sets (s : State) (p : Fin 3) (lane : Fin 8) (set : TrainSet) :
    let x := s.dev.tport p.val
    (x.st = .ta → x.present.getLsbD lane.val = true → x.retired.getLsbD lane.val = false →
      let y := { x with lock := x.lock ||| BitVec.ofNat 8 (2 ^ lane.val), laneNonce := x.laneNonce.put lane.val set.nonce
                        partnerRates := set.rates, partnerWidth := set.width }
      (y.present &&& ~~~y.retired &&& ~~~y.lock ≠ 0 → Completes (.tts1 p lane set) s fun d =>
        d = s.dev.setTport p.val y) ∧
      (y.present &&& ~~~y.retired &&& ~~~y.lock = 0 → Completes (.tts1 p lane set) s fun d =>
        d.tport p.val = { y with st := .tc, reached := 2 } ∧ ∃ t, Out.ctl p.val (.tts 1 t) ∈ d.out)) ∧
    ((x.st = .active ∨ x.st = .standby ∨ x.st = .retraining) → set.reset.getLsbD 0 = true →
      Completes (.tts1 p lane set) s fun d => ((d.tport p.val).st = .ta ∨ (d.tport p.val).st = .tc) ∧ (d.tport p.val).resetting = true ∧ (d.tport p.val).resetDue = false) ∧
    (x.st = .td → x.doze = 0 → Completes (.tts1 p lane set) s fun d => d = s.dev) := by
  intro x
  refine ⟨?_, fun hst hreset => ?_, fun hst hdoze => ?_⟩
  · intro hst hpresent hretired y
    have hlocks := Dev.takeTts1_locks set hst hpresent hretired
    refine ⟨fun hmore => ?_, fun hall => ?_⟩
    · exact Laws.completes_ok (exec_tts1 ..) (hlocks.trans (if_neg hmore))
    · refine Laws.completes_ok (exec_tts1 ..) ?_
      rw [hlocks.trans (if_pos hall)]
      obtain ⟨hport, hout⟩ := Dev.toTc_enters (s.dev.setTport p.val y) p.val
      rw [Dev.tport_setTport_self] at hport
      exact ⟨hport, hout⟩
  · exact Laws.completes_ok (exec_tts1 ..) (Dev.takeTts1_resets hst hreset)
  · refine Laws.completes_ok (exec_tts1 ..) ?_
    unfold Dev.takeTts1
    simp [show (s.dev.tport p.val).st = .td from hst, show (s.dev.tport p.val).doze = 0 from hdoze]

theorem lock_window (s : State) (p : Fin 3) :
    let x := s.dev.tport p.val
    (x.st = .ta → x.lock ≠ 0 → Completes (.taLockWindowExpiry p) s fun d => d.tport p.val = { x with st := .tc, reached := 2 }) ∧
    (x.st ≠ .ta → Completes (.taLockWindowExpiry p) s fun d => d = s.dev) := by
  intro x
  refine ⟨fun hst hlock => ?_, fun hst => ?_⟩
  · refine Laws.completes_ok (exec_taLockWindowExpiry ..) ?_
    rw [Dev.lockWindow, if_pos (by simpa using ⟨hst, hlock⟩)]
    exact (Dev.toTc_enters ..).1
  · exact Laws.completes_ok (exec_taLockWindowExpiry ..) (if_neg (by simp [show (s.dev.tport p.val).st ≠ .ta from hst]))

/-! ### TTS2 (R280 to R282) -/

/-- What a TTS2 tells a port of its partner, and that its lane is configured. -/
def TPort.told (x : TPort) (lane : Nat) (set : TrainSet) : TPort :=
  { x with
    laneNonce := x.laneNonce.put lane set.nonce, partnerRates := set.rates, partnerWidth := set.width
    partnerPort := BitVec.ofNat 2 set.port.toNat, cfg := x.cfg ||| BitVec.ofNat 8 (2 ^ lane) }

/-- The target rate of a port whose partner advertises the given rates. -/
theorem Dev.targetRate_told (d : Dev) (p lane : Nat) (x : TPort) (set : TrainSet) :
    (d.setTport p (x.told lane set)).targetRate p = if set.rates.getLsbD 1 && d.setting idTetherRate p = 2 then 2 else 1 := by
  have hown : ((d.setTport p (x.told lane set)).ownRates p).getLsbD 1 = decide (d.setting idTetherRate p = 2) := by
    show (if d.setting idTetherRate p = 2 then (3 : BitVec 8) else 1).getLsbD 1 = _
    split
    next h => simp [h]
    next h => simp [h]
  rw [Dev.targetRate, hown, Dev.tport_setTport_self]
  rfl

/-- A TTS2 on a port in TC, on a lane with lock. -/
theorem Dev.takeTts2_eq {d : Dev} {p lane : Nat} (set : TrainSet) (hst : (d.tport p).st = .tc) (hlock : (d.tport p).lock.getLsbD lane = true) :
    d.takeTts2 p lane set =
      (let y := (d.tport p).told lane set
       let z := { y with
         width := y.fit.1, reversed := y.fit.2, rate := if set.rates.getLsbD 1 && d.setting idTetherRate p = 2 then 2 else 1 }
       if y.fit.1 = 0 then (d.setTport p y).toTd p
       else if ((List.range 8).all fun i => !laneUsed 8 y.fit.1 y.fit.2 i || y.cfg.getLsbD i) = true then
         ((d.setTport p z).tstate p .ts).say (.ctl p .electricalIdle)
       else d.setTport p z) := by
  extract_lets y z
  have hz : z = { y with width := y.fit.1, reversed := y.fit.2, rate := (d.setTport p y).targetRate p } := by
    rw [Dev.targetRate_told]
  have hset : d.setTport p z = (d.setTport p y).setTport p z := (Dev.setTport_setTport ..).symm
  rw [hset, hz, Dev.takeTts2]
  exact (if_neg (by simp [hst, hlock])).trans rfl

theorem second_sets (s : State) (p : Fin 3) (lane : Fin 8) (set : TrainSet) :
    let x := s.dev.tport p.val
    let y := { x with laneNonce := x.laneNonce.put lane.val set.nonce, partnerRates := set.rates, partnerWidth := set.width
                      partnerPort := BitVec.ofNat 2 set.port.toNat, cfg := x.cfg ||| BitVec.ofNat 8 (2 ^ lane.val) }
    let rate := if set.rates.getLsbD 1 && s.dev.setting idTetherRate p.val = 2 then 2 else 1
    let z := { y with width := y.fit.1, reversed := y.fit.2, rate := rate }
    let whole := ∀ i < 8, laneUsed 8 y.fit.1 y.fit.2 i = true → y.cfg.getLsbD i = true
    (x.st = .tc → x.lock.getLsbD lane.val = true → y.fit.1 ≠ 0 → ¬ whole → Completes (.tts2 p lane set) s fun d => d = s.dev.setTport p.val z) ∧
    (x.st = .tc → x.lock.getLsbD lane.val = true → y.fit.1 ≠ 0 → whole → Completes (.tts2 p lane set) s fun d =>
      d.tport p.val = { z with st := .ts, reached := 3 } ∧ d.out = s.dev.out ++ [.ctl p.val .electricalIdle]) ∧
    (x.st = .tc → x.lock.getLsbD lane.val = true → y.fit.1 = 0 → x.kept = false → x.returns < 2 → Completes (.tts2 p lane set) s fun d =>
      (d.tport p.val).st = .td ∧ (d.tport p.val).returns = x.returns + 1) ∧
    (x.st ≠ .tc → Completes (.tts2 p lane set) s fun d => d = s.dev) := by
  intro x y rate z whole
  have hall : ((List.range 8).all fun i => !laneUsed 8 y.fit.1 y.fit.2 i || y.cfg.getLsbD i) = true ↔ whole := by
    simp [whole, Decidable.imp_iff_not_or]
  refine ⟨fun hst hlock hfit hnot => ?_, fun hst hlock hfit hwhole => ?_, fun hst hlock hfit _ hfew => ?_, fun hst => ?_⟩
  · exact Laws.completes_ok (exec_tts2 ..) ((Dev.takeTts2_eq set hst hlock).trans ((if_neg hfit).trans (if_neg (mt hall.mp hnot))))
  · refine Laws.completes_ok (exec_tts2 ..) ?_
    rw [(Dev.takeTts2_eq set hst hlock).trans ((if_neg hfit).trans (if_pos (hall.mpr hwhole)))]
    refine ⟨?_, rfl⟩
    rw [Dev.tport_say, Dev.tport_tstate, Dev.tport_setTport_self]
    rfl
  · refine Laws.completes_ok (exec_tts2 ..) ?_
    rw [(Dev.takeTts2_eq set hst hlock).trans (if_pos hfit)]
    obtain ⟨htd, hreturns⟩ := (s.dev.setTport p.val y).toTd_returns p.val
    rw [Dev.tport_setTport_self, if_neg (by simp only [y]; omega)] at htd hreturns
    exact ⟨htd, hreturns⟩
  · exact Laws.completes_ok (exec_tts2 ..) (if_pos (by simp [show (s.dev.tport p.val).st ≠ .tc from hst]))

end Sys2Proof.Machine
end

section
/-! Tether links train: from TS to the handshake, returns to TD, width resets and skips (spec/10 R278, R280, R283, R293, R294). -/

namespace Sys2Proof.Machine

open Sys2Proof Sys2Proof.Laws

section
variable (s : State) (p : Fin 3)

theorem exec_tetherSpeedLock : exec (.tetherSpeedLock p) s = ok (s.dev.speedLock p.val) s := rfl
theorem exec_equalisationRequest (k : Coef) (up done : Bool) :
    exec (.equalisationRequest p k up done) s = ok (s.dev.eqRequest p.val k up done) s := rfl
theorem exec_equalisationTimeLimit (mine : Bool) : exec (.equalisationTimeLimit p mine) s = ok (s.dev.eqLimit p.val mine) s := rfl
theorem exec_thDeskewDone : exec (.thDeskewDone p) s = ok (s.dev.deskewed p.val) s := rfl
theorem exec_tetherWidthResetDone : exec (.tetherWidthResetDone p) s = ok (s.dev.resetDone p.val) s := rfl
theorem exec_tetherTrainStateTimeout : exec (.tetherTrainStateTimeout p) s = ok (s.dev.trainTimeout p.val) s := rfl
theorem exec_partnerLeavesElectricalIdle : exec (.partnerLeavesElectricalIdle p) s = ok (s.dev.partnerStirs p.val) s := rfl
theorem exec_skipBlock (lane : Fin 8) (n : Int) : exec (.skipBlock p lane n) s = ok (s.dev.skipBlock p.val lane.val n) s := rfl

end

theorem Dev.tstate_eq (d : Dev) (p : Nat) (st : TState) : d.tstate p st = d.setTport p { d.tport p with st := st, reached := tstateNum st } := rfl

/-! ### Speed lock and equalisation (R280, R283, R293) -/

theorem speed_lock (s : State) (p : Fin 3) :
    let x := s.dev.tport p.val
    (x.st = .ts → ¬ (x.resetting = true ∧ x.coefRate = x.rate) → Completes (.tetherSpeedLock p) s fun d =>
      d.tport p.val = { x with st := .te, reached := 4, eqAsks := 0, eqDone := (false, false), coefs := (0, 0, 0) }) ∧
    (x.st = .ts → x.resetting = true → x.coefRate = x.rate → Completes (.tetherSpeedLock p) s fun d =>
      d = s.dev.setTport p.val { x with st := .th, reached := 5 }) := by
  intro x
  constructor
  · intro hst hnew
    refine Laws.completes_ok (exec_tetherSpeedLock ..) ?_
    rw [Dev.speedLock]
    have hnot : ¬ (x.resetting && decide (x.coefRate = x.rate)) = true := by simpa using hnew
    refine (congrArg (fun d : Dev => d.tport p.val) ((if_neg (not_not_intro hst)).trans (if_neg hnot))).trans ?_
    rw [Dev.tport_tstate, Dev.tport_setTport_self]
    rfl
  · intro hst hresetting hrate
    refine Laws.completes_ok (exec_tetherSpeedLock ..) ?_
    have hknown : (x.resetting && decide (x.coefRate = x.rate)) = true := by simpa using ⟨hresetting, hrate⟩
    exact (if_neg (not_not_intro hst)).trans (if_pos hknown)

theorem Dev.equalised_half {d : Dev} {p : Nat} (h : (d.tport p).eqDone ≠ (true, true)) : d.equalised p = d := if_neg h

/-- TE ends with both directions done: TH follows, and the coefficients hold for this rate. -/
theorem Dev.equalised_whole {d : Dev} {p : Nat} (h : (d.tport p).eqDone = (true, true)) :
    (d.equalised p).tport p = { d.tport p with coefRate := (d.tport p).rate, st := .th, reached := 5 } := by
  rw [Dev.equalised]
  refine (congrArg (fun e : Dev => e.tport p) (if_pos h)).trans ?_
  rw [Dev.tport_tstate, Dev.tport_setTport_self]
  rfl

/-- A request of the partner's receiver for one more step, on a port in TE whose partner is not done (R283). -/
theorem Dev.eqRequest_step {d : Dev} {p : Nat} (k : Coef) (up : Bool) (hst : (d.tport p).st = .te) (hopen : (d.tport p).eqDone.2 = false) :
    d.eqRequest p k up false =
      (d.setTport p { d.tport p with
        coefs := coefStep (d.tport p).coefs k up, eqAsks := (d.tport p).eqAsks + 1
        eqDone := ((d.tport p).eqDone.1, decide (64 ≤ (d.tport p).eqAsks + 1)) }).equalised p :=
  if_neg (by simp [hst, hopen])

theorem Dev.eqRequest_done {d : Dev} {p : Nat} (k : Coef) (up : Bool) (hst : (d.tport p).st = .te) (hopen : (d.tport p).eqDone.2 = false) :
    d.eqRequest p k up true = (d.setTport p { d.tport p with eqDone := ((d.tport p).eqDone.1, true) }).equalised p :=
  if_neg (by simp [hst, hopen])

theorem Dev.eqRequest_over {d : Dev} {p : Nat} (k : Coef) (up done : Bool) (h : (d.tport p).st ≠ .te ∨ (d.tport p).eqDone.2 = true) :
    d.eqRequest p k up done = d :=
  if_pos (by simpa using h)

theorem Dev.eqLimit_eq {d : Dev} {p : Nat} (mine : Bool) (hst : (d.tport p).st = .te) :
    d.eqLimit p mine =
      (d.setTport p { d.tport p with eqDone := ((d.tport p).eqDone.1 || mine, (d.tport p).eqDone.2 || !mine) }).equalised p :=
  if_neg (not_not_intro hst)

theorem equalisation (s : State) (p : Fin 3) :
    let x := s.dev.tport p.val
    let set (y : TPort) : Dev := s.dev.setTport p.val y
    (∀ k up, x.st = .te → x.eqDone.2 = false → x.eqAsks < 63 → Completes (.equalisationRequest p k up false) s fun d =>
      d = set { x with coefs := coefStep x.coefs k up, eqAsks := x.eqAsks + 1, eqDone := (x.eqDone.1, false) }) ∧
    (∀ k up, x.st = .te → x.eqDone = (false, false) → 63 ≤ x.eqAsks → Completes (.equalisationRequest p k up false) s fun d =>
      d = set { x with coefs := coefStep x.coefs k up, eqAsks := x.eqAsks + 1, eqDone := (false, true) }) ∧
    (∀ k up, x.st = .te → x.eqDone = (true, false) → Completes (.equalisationRequest p k up true) s fun d =>
      d.tport p.val = { x with eqDone := (true, true), coefRate := x.rate, st := .th, reached := 5 }) ∧
    (∀ k up, x.st ≠ .te ∨ x.eqDone.2 = true → ∀ done, Completes (.equalisationRequest p k up done) s fun d => d = s.dev) ∧
    (x.st = .te → x.eqDone = (false, false) →
      Completes (.equalisationTimeLimit p true) s (fun d => d = set { x with eqDone := (true, false) }) ∧
      Completes (.equalisationTimeLimit p false) s (fun d => d = set { x with eqDone := (false, true) })) ∧
    (∀ mine, x.st ≠ .te → Completes (.equalisationTimeLimit p mine) s fun d => d = s.dev) := by
  intro x set
  have hhalf (y : TPort) (h : y.eqDone ≠ (true, true)) : (set y).equalised p.val = set y :=
    Dev.equalised_half (by rw [Dev.tport_setTport_self]; exact h)
  refine ⟨fun k up hst hopen hfew => ?_, fun k up hst hnone hmany => ?_, fun k up hst hmine => ?_, fun k up hover done => ?_,
    fun hst hnone => ⟨?_, ?_⟩, fun mine hst => ?_⟩
  · refine Laws.completes_ok (exec_equalisationRequest ..) ((Dev.eqRequest_step k up hst hopen).trans ?_)
    rw [decide_eq_false (show ¬ 64 ≤ x.eqAsks + 1 by omega)]
    exact hhalf _ (by simp)
  · refine Laws.completes_ok (exec_equalisationRequest ..) ((Dev.eqRequest_step k up hst (congrArg Prod.snd hnone)).trans ?_)
    rw [decide_eq_true (show 64 ≤ x.eqAsks + 1 by omega), show (s.dev.tport p.val).eqDone.1 = false from congrArg Prod.fst hnone]
    exact hhalf _ (by simp)
  · refine Laws.completes_ok (exec_equalisationRequest ..) ?_
    rw [Dev.eqRequest_done k up hst (congrArg Prod.snd hmine), show (s.dev.tport p.val).eqDone.1 = true from congrArg Prod.fst hmine,
      Dev.equalised_whole (by rw [Dev.tport_setTport_self]), Dev.tport_setTport_self]
  · exact Laws.completes_ok (exec_equalisationRequest ..) (Dev.eqRequest_over k up done hover)
  · refine Laws.completes_ok (exec_equalisationTimeLimit ..) ((Dev.eqLimit_eq true hst).trans ?_)
    rw [show (s.dev.tport p.val).eqDone = (false, false) from hnone]
    exact hhalf _ (by simp)
  · refine Laws.completes_ok (exec_equalisationTimeLimit ..) ((Dev.eqLimit_eq false hst).trans ?_)
    rw [show (s.dev.tport p.val).eqDone = (false, false) from hnone]
    exact hhalf _ (by simp)
  · exact Laws.completes_ok (exec_equalisationTimeLimit ..) (if_pos hst)

/-! ### The handshake begins (R280, R311) -/

/-- The port in the handshake, before its LINKUP goes out. -/
def Dev.inHandshake (d : Dev) (p : Nat) : Dev :=
  (d.tstate p .handshake).modTport p fun x => { x with gotUp := false, resume := false, sentAck := false, gotAck := false, samples := [] }

theorem Dev.toHandshake_eq (d : Dev) (p : Nat) : d.toHandshake p = (d.inHandshake p).say (.ctl p (.linkup ((d.inHandshake p).ownLinkup p))) := rfl

theorem Dev.inHandshake_tport (d : Dev) (p : Nat) :
    (d.inHandshake p).tport p = { d.tport p with
      st := .handshake, reached := 6, gotUp := false, resume := false, sentAck := false, gotAck := false, samples := [] } := by
  rw [Dev.inHandshake, Dev.tport_modTport_self, Dev.tport_tstate]
  rfl

theorem Dev.toHandshake_tport (d : Dev) (p : Nat) : (d.toHandshake p).tport p = (d.inHandshake p).tport p := Dev.tport_say ..

theorem Dev.toHandshake_sends (d : Dev) (p : Nat) :
    ∃ m : LinkUp, Out.ctl p (.linkup m) ∈ (d.toHandshake p).out ∧ m.resume = (d.tport p).kept ∧ m.nextExpected = (d.tport p).ne ∧
      m.epoch = (d.tport p).epoch ∧ m.uniqueId = Config.uniqueId := by
  refine ⟨(d.inHandshake p).ownLinkup p, List.mem_append_right _ (List.mem_singleton_self _), ?_, ?_, ?_, rfl⟩
  · show ((d.inHandshake p).tport p).kept = _
    rw [Dev.inHandshake_tport]
  · show ((d.inHandshake p).tport p).ne = _
    rw [Dev.inHandshake_tport]
  · show ((d.inHandshake p).tport p).epoch = _
    rw [Dev.inHandshake_tport]

theorem deskew_done (s : State) (p : Fin 3) :
    let x := s.dev.tport p.val
    (x.st = .th ∨ x.st = .retraining → Completes (.thDeskewDone p) s fun d =>
      d.tport p.val = { x with st := .handshake, reached := 6, gotUp := false, resume := false, sentAck := false, gotAck := false, samples := [] } ∧
      ∃ m : LinkUp, Out.ctl p.val (.linkup m) ∈ d.out ∧ m.resume = x.kept ∧ m.nextExpected = x.ne ∧ m.epoch = x.epoch ∧ m.uniqueId = Config.uniqueId) ∧
    (x.st ≠ .th → x.st ≠ .retraining → Completes (.thDeskewDone p) s fun d => d = s.dev) := by
  intro x
  constructor
  · intro hst
    refine Laws.completes_ok (exec_thDeskewDone ..) ?_
    rw [Dev.deskewed, if_pos (by simpa using hst)]
    exact ⟨(Dev.toHandshake_tport ..).trans (Dev.inHandshake_tport ..), Dev.toHandshake_sends ..⟩
  · intro hth hretraining
    exact Laws.completes_ok (exec_thDeskewDone ..) (if_neg (by simpa using ⟨hth, hretraining⟩))

/-! ### Width resets and time-outs (R280, R293, R294) -/

/-- Width and order of the lanes that a width reset leaves (R293). -/
def TPort.left (x : TPort) : Nat × Bool := widthOf 8 fun i => x.present.getLsbD i && !x.retired.getLsbD i && (x.lock = 0 || x.lock.getLsbD i)

/-- The states from TA to TH. -/
theorem trains_of_mem {x : TPort} {st : TState} (hmem : st ∈ [TState.ta, .tc, .ts, .te, .th]) (hst : x.st = st) :
    x.st = .ta ∨ x.st = .tc ∨ x.st = .ts ∨ x.st = .te ∨ x.st = .th := by
  rw [hst]
  simpa using hmem

theorem Dev.resetDone_eq {d : Dev} {p : Nat} (hon : (d.tport p).st = .ta ∨ (d.tport p).st = .tc ∨ (d.tport p).st = .ts ∨
    (d.tport p).st = .te ∨ (d.tport p).st = .th) (hresetting : (d.tport p).resetting = true) :
    d.resetDone p =
      if (d.tport p).left.1 = 0 then d.toTd p
      else (d.setTport p { d.tport p with
        width := (d.tport p).left.1, reversed := (d.tport p).left.2, rate := d.targetRate p, coefRate := d.targetRate p }).toHandshake p := by
  rw [Dev.resetDone]
  exact (if_neg (by simpa [hresetting, Decidable.or_iff_not_imp_left] using hon)).trans rfl

theorem width_reset_done (s : State) (p : Fin 3) :
    let x := s.dev.tport p.val
    (let r := widthOf 8 fun i => x.present.getLsbD i && !x.retired.getLsbD i && (x.lock = 0 || x.lock.getLsbD i)
     ∀ st ∈ [TState.ta, .tc, .ts, .te, .th], x.st = st → x.resetting = true →
       (r.1 ≠ 0 → Completes (.tetherWidthResetDone p) s fun d =>
         (d.tport p.val).st = .handshake ∧ (d.tport p.val).width = r.1 ∧ (d.tport p.val).reversed = r.2) ∧
       (r.1 = 0 → x.returns < 2 → Completes (.tetherWidthResetDone p) s fun d => (d.tport p.val).st = .td)) ∧
    (x.resetting = false → Completes (.tetherWidthResetDone p) s fun d => d = s.dev) := by
  intro x
  constructor
  · intro r st hmem hst hresetting
    have hdone := Dev.resetDone_eq (trains_of_mem hmem hst) hresetting
    constructor
    · intro hwide
      refine Laws.completes_ok (exec_tetherWidthResetDone ..) ?_
      rw [hdone.trans (if_neg hwide), Dev.toHandshake_tport, Dev.inHandshake_tport, Dev.tport_setTport_self]
      exact ⟨rfl, rfl, rfl⟩
    · intro hnone hfew
      refine Laws.completes_ok (exec_tetherWidthResetDone ..) ?_
      rw [hdone.trans (if_pos hnone), (s.dev.toTd_returns p.val).1]
      exact if_neg (by simp only [x] at hfew; omega)
  · intro hoff
    exact Laws.completes_ok (exec_tetherWidthResetDone ..) (if_pos (by simp [show (s.dev.tport p.val).resetting = false from hoff]))

theorem train_timeout (s : State) (p : Fin 3) :
    let x := s.dev.tport p.val
    (∀ st ∈ [TState.ta, .tc, .ts, .te, .th], x.st = st →
      (x.returns < 2 → Completes (.tetherTrainStateTimeout p) s fun d => (d.tport p.val).st = .td ∧ (d.tport p.val).returns = x.returns + 1) ∧
      (x.returns = 2 → Completes (.tetherTrainStateTimeout p) s fun d => (d.tport p.val).st = .heldDown ∧ (d.tport p.val).returns = 0)) ∧
    (x.st = .active → Completes (.tetherTrainStateTimeout p) s fun d => d = s.dev) := by
  intro x
  constructor
  · intro st hmem hst
    have hlate : s.dev.trainTimeout p.val = s.dev.toTd p.val := by
      refine if_pos ?_
      obtain h | h | h | h | h := trains_of_mem hmem hst <;> simp [show (s.dev.tport p.val).st = _ from h, TState.training]
    obtain ⟨htd, hreturns⟩ := s.dev.toTd_returns p.val
    constructor
    · intro hfew
      have hnot : ¬ 3 ≤ (s.dev.tport p.val).returns + 1 := by simp only [x] at hfew; omega
      refine Laws.completes_ok (exec_tetherTrainStateTimeout ..) ?_
      rw [hlate]
      exact ⟨htd.trans (if_neg hnot), hreturns.trans (if_neg hnot)⟩
    · intro hthird
      have hpos : 3 ≤ (s.dev.tport p.val).returns + 1 := by simp only [x] at hthird; omega
      refine Laws.completes_ok (exec_tetherTrainStateTimeout ..) ?_
      rw [hlate]
      exact ⟨htd.trans (if_pos hpos), hreturns.trans (if_pos hpos)⟩
  · intro hst
    exact Laws.completes_ok (exec_tetherTrainStateTimeout ..) (if_neg (by simp [show (s.dev.tport p.val).st = _ from hst, TState.training]))

/-! ### A partner that stirs, and skips (R278, R280) -/

theorem partner_leaves_idle (s : State) (p : Fin 3) :
    let x := s.dev.tport p.val
    (x.st = .heldDown → x.retiredLink = false → Completes (.partnerLeavesElectricalIdle p) s fun d =>
      d = s.dev.setTport p.val { x with st := .td, returns := 0 }) ∧
    (x.st = .active → Completes (.partnerLeavesElectricalIdle p) s fun d => d = s.dev) := by
  intro x
  constructor
  · intro hst hlink
    exact Laws.completes_ok (exec_partnerLeavesElectricalIdle ..)
      (if_pos (by simp [show (s.dev.tport p.val).st = _ from hst, show (s.dev.tport p.val).retiredLink = _ from hlink]))
  · intro hst
    exact Laws.completes_ok (exec_partnerLeavesElectricalIdle ..)
      ((if_neg (by simp [show (s.dev.tport p.val).st = _ from hst])).trans (if_neg (by simp [show (s.dev.tport p.val).st = _ from hst])))

theorem skip_block (s : State) (p : Fin 3) (lane : Fin 8) (n : Int) :
    let x := s.dev.tport p.val
    x.width ≠ 0 → laneUsed 8 x.width x.reversed lane.val = true →
      (-2 ≤ n → n ≤ 2 → Completes (.skipBlock p lane n) s fun d =>
        d = s.dev.setTport p.val { x with skips := x.skips.put lane.val (x.skips.val lane.val 0 + n) }) ∧
      (2 < n → Completes (.skipBlock p lane n) s fun d => d = s.dev) := by
  intro x hwide hused
  constructor
  · intro hlow hhigh
    refine Laws.completes_ok (exec_skipBlock ..) (if_neg ?_)
    have hused' : laneUsed 8 (s.dev.tport p.val).width (s.dev.tport p.val).reversed lane.val = true := hused
    have hwide' : (s.dev.tport p.val).width ≠ 0 := hwide
    simp [hused', hwide', hlow, hhigh]
  · intro hmuch
    exact Laws.completes_ok (exec_skipBlock ..) (if_pos (by simp [hmuch]))

/-- Settles O57: each state of training, by what ends it. -/
theorem tetherTraining : Obligations.TetherTraining := by
  unfold Obligations.TetherTraining
  refine ⟨⟨receiver_detected, first_sets, lock_window, second_sets⟩, ?_⟩
  intro s p x set
  obtain ⟨hnew, hknown⟩ := speed_lock s p
  obtain ⟨hstep, hlast, hboth, hover, hlimit, hnotTe⟩ := equalisation s p
  obtain ⟨hdeskew, hnotTh⟩ := deskew_done s p
  obtain ⟨hreset, hnoReset⟩ := width_reset_done s p
  obtain ⟨hlate, hnotLate⟩ := train_timeout s p
  obtain ⟨hstirs, hactive⟩ := partner_leaves_idle s p
  exact ⟨hnew, hknown, hstep, hlast, hboth, hover, hlimit, hnotTe, hdeskew, hnotTh, hreset, hnoReset, hlate, hnotLate, hstirs, hactive,
    skip_block s p⟩

end Sys2Proof.Machine
end

section
/-! Standard commands: identity, background operations, limits, time, logs and features (spec/02 R46; spec/09 R268; spec/12 R329, R330, R332,
R333). -/

namespace Sys2Proof.Machine

open Sys2Proof Sys2Proof.Laws

section
variable (s : State) (iss : Issuer) (inp : List Byte)

theorem exec_identify : exec (.identify iss inp) s = ok (s.dev.command iss 0x0001 fun d => d.identify iss inp) s := rfl
theorem exec_backgroundOperationStatus :
    exec (.backgroundOperationStatus iss inp) s = ok (s.dev.command iss 0x0002 fun d => d.bgStatus iss inp) s := rfl
theorem exec_getResponseMessageLimit : exec (.getResponseMessageLimit iss inp) s =
    ok (s.dev.command iss 0x0003 fun d => d.noInput iss inp fun d => d.answerStd iss .success (d.respPower iss)) s := rfl
theorem exec_setResponseMessageLimit :
    exec (.setResponseMessageLimit iss inp) s = ok (s.dev.command iss 0x0004 fun d => d.setRespLimit iss inp) s := rfl
theorem exec_requestAbortBackgroundOperation :
    exec (.requestAbortBackgroundOperation iss inp) s = ok (s.dev.command iss 0x0005 fun d => d.askAbort iss inp) s := rfl
theorem exec_getTimestamp : exec (.getTimestamp iss inp) s =
    ok (s.dev.command iss 0x0300 fun d => d.noInput iss inp fun d => d.answerStd iss .success (leBytes 8 d.timestampNow)) s := rfl
theorem exec_setTimestamp : exec (.setTimestamp iss inp) s = ok (s.dev.command iss 0x0301 fun d => d.setTimestamp iss inp) s := rfl
theorem exec_getSupportedLogs : exec (.getSupportedLogs iss inp) s = ok (s.dev.command iss 0x0400 fun d => d.supportedLogs iss inp) s := rfl
theorem exec_getLog : exec (.getLog iss inp) s = ok (s.dev.command iss 0x0401 fun d => d.getLog iss inp) s := rfl
theorem exec_getSupportedFeatures : exec (.getSupportedFeatures iss inp) s =
    ok (s.dev.command iss 0x0500 fun d => d.sized iss inp 8 fun d =>
      if rsvd inp 6 2 then d.answerStd iss .success (zeros 8) else d.answerStd iss .invalidInput []) s := rfl
theorem exec_getFeature :
    exec (.getFeature iss inp) s = ok (s.dev.command iss 0x0501 fun d => d.sized iss inp 21 fun d => d.answerStd iss .invalidInput []) s := rfl
theorem exec_setFeature : exec (.setFeature iss inp) s =
    ok (s.dev.command iss 0x0502 fun d =>
      if inp.length < 32 then d.answerStd iss .invalidLength [] else d.answerStd iss .invalidInput []) s := rfl
theorem exec_identifyMemoryDevice :
    exec (.identifyMemoryDevice iss inp) s = ok (s.dev.command iss 0x4000 fun d => d.identifyMemory iss inp) s := rfl
theorem exec_getHealthInfo : exec (.getHealthInfo iss inp) s = ok (s.dev.command iss 0x4200 fun d => d.health iss inp) s := rfl
theorem exec_getAlertConfiguration : exec (.getAlertConfiguration iss inp) s = ok (s.dev.command iss 0x4201 fun d => d.getAlerts iss inp) s := rfl

end

section
variable {d : Dev} {iss : Issuer} {inp : List Byte}

/-! ### Inputs of a fixed length -/

theorem Dev.noInput_none (f : Dev → Dev) (h : inp = []) : d.noInput iss inp f = f d := if_neg (not_not_intro h)

theorem Dev.noInput_some (f : Dev → Dev) (h : inp ≠ []) : d.noInput iss inp f = d.answerStd iss .invalidLength [] := if_pos h

theorem Dev.sized_of {n : Nat} (f : Dev → Dev) (h : inp.length = n) : d.sized iss inp n f = f d := if_neg (not_not_intro h)

/-- A command that takes no input refuses one. -/
theorem completes_noInput {s : State} {c : Instr} {op : Nat} {f : Dev → Dev} (htakes : Takes s) (hinp : inp ≠ [])
    (hc : exec c s = ok (s.dev.command iss op fun d => d.noInput iss inp f) s) :
    Completes c s fun d => RepliesStd (s.dev.doorbell (mailDoorbell iss)) d iss .invalidLength [] := by
  refine completes_of_takes htakes hc ?_
  rw [Dev.noInput_some _ hinp]
  exact answerStd_replies ..

/-! ### Background operations (R330) -/

theorem Dev.bgStatus_none (hinp : inp = []) (hbg : (d.mbox (issuerBox iss)).bg = none) : d.bgStatus iss inp = d.answerStd iss .success (zeros 8) := by
  rw [Dev.bgStatus, Dev.noInput_none _ hinp, hbg]

variable {b : Bg}

theorem Dev.bgStatus_ended (hinp : inp = []) (hbg : (d.mbox (issuerBox iss)).bg = some b) (hrun : b.running = false) :
    d.bgStatus iss inp = d.answerStd iss .success ([200, 0] ++ leBytes 2 b.opcode.toNat ++ leBytes 2 b.ret.code ++ zeros 2) := by
  rw [Dev.bgStatus, Dev.noInput_none _ hinp, hbg]
  simp [hrun, flag]

theorem Dev.bgStatus_runs (hinp : inp = []) (hbg : (d.mbox (issuerBox iss)).bg = some b) (hrun : b.running = true) :
    d.bgStatus iss inp = (d.free 7).2.answerStd iss .success
      ([BitVec.ofNat 8 (1 + 2 * ((d.free 7).1.toNat % 101)), 0] ++ leBytes 2 b.opcode.toNat ++ zeros 4) := by
  rw [Dev.bgStatus, Dev.noInput_none _ hinp, hbg]
  simp [hrun, flag, leBytes, zeros]

/-- The commands that a request to abort stops (R330). -/
def stoppable : List (BitVec 16) := [0xCE11#16, 0xCE20#16, 0x4400#16]

theorem contains_stoppable (o : BitVec 16) : [0xCE11, 0xCE20, 0x4400].contains o.toNat = decide (o ∈ stoppable) := by
  simp [stoppable, ← BitVec.toNat_inj]

theorem Dev.askAbort_stops (hinp : inp = []) (hbg : (d.mbox (issuerBox iss)).bg = some b) (hrun : b.running = true) (hstop : b.opcode ∈ stoppable) :
    d.askAbort iss inp =
      (d.modBox (issuerBox iss) fun x => { x with bg := some { b with abort := true } }).answerStd iss .success [] := by
  rw [Dev.askAbort, Dev.noInput_none _ hinp, hbg]
  exact (if_neg (by simp [hrun])).trans (if_pos (by rw [contains_stoppable]; simpa using hstop))

theorem Dev.askAbort_unstoppable (hinp : inp = []) (hbg : (d.mbox (issuerBox iss)).bg = some b) (hrun : b.running = true) (hstop : b.opcode ∉ stoppable) :
    d.askAbort iss inp = d.answerStd iss .unsupported [] := by
  rw [Dev.askAbort, Dev.noInput_none _ hinp, hbg]
  exact (if_neg (by simp [hrun])).trans (if_neg (by rw [contains_stoppable]; simpa using hstop))

theorem Dev.askAbort_idle (hinp : inp = []) (hidle : d.bgBusy iss = false) : d.askAbort iss inp = d.answerStd iss .success [] := by
  rw [Dev.askAbort, Dev.noInput_none _ hinp]
  cases hbg : (d.mbox (issuerBox iss)).bg with
  | none => rfl
  | some b =>
    have hrun : b.running = false := by simpa [Dev.bgBusy, hbg] using hidle
    exact if_pos (by simp [hrun])

/-! ### The response limit (R329, R332) -/

theorem Dev.respPower_two_pow (d : Dev) (iss : Issuer) (k : Nat) :
    (d.modBox (issuerBox iss) fun b => { b with respLimit := 2 ^ k }).respPower iss = [BitVec.ofNat 8 k] := by
  rw [Dev.respPower, Dev.mbox_modBox_self, Nat.log2_two_pow]

theorem Dev.setRespLimit_sets (hlen : inp.length = 1) (h8 : 8 ≤ field inp 0 1) (h20 : field inp 0 1 ≤ 20) :
    d.setRespLimit iss inp =
      (d.modBox (issuerBox iss) fun b => { b with respLimit := 2 ^ min (field inp 0 1) 15 }).answerStd iss .success
        [BitVec.ofNat 8 (min (field inp 0 1) 15)] := by
  rw [Dev.setRespLimit, Dev.sized_of _ hlen]
  refine (if_neg (by simp; omega)).trans ?_
  rw [← d.respPower_two_pow iss]

theorem Dev.setRespLimit_refuses (hlen : inp.length = 1) (h : field inp 0 1 < 8 ∨ 20 < field inp 0 1) :
    d.setRespLimit iss inp = d.answerStd iss .invalidInput [] := by
  rw [Dev.setRespLimit, Dev.sized_of _ hlen]
  exact if_pos (by simpa using h)

/-! ### Logs (R333) -/

theorem Dev.supportedLogs_of {ld : Nat} (hinp : inp = []) (hld : issuerLd iss = some ld) :
    d.supportedLogs iss inp = d.answerStd iss .success
      ([2, 0] ++ zeros 6 ++ uuidBytes uuidCel ++ leBytes 4 celBytes.length ++ uuidBytes Config.vendorLog.toNat ++
        leBytes 4 (d.vendorBytes ld).length) := by
  rw [Dev.supportedLogs, Dev.noInput_none _ hinp, hld]
  rfl

/-- The log of an LD that an input's UUID names. -/
def Dev.logNamed (d : Dev) (ld : Nat) (inp : List Byte) : List Byte :=
  if inp.take 16 = uuidBytes uuidCel then celBytes else d.vendorBytes ld

theorem Dev.getLog_of {ld : Nat} (hlen : inp.length = 24) (hld : issuerLd iss = some ld)
    (hid : inp.take 16 = uuidBytes uuidCel ∨ inp.take 16 = uuidBytes Config.vendorLog.toNat) :
    d.getLog iss inp =
      if (d.logNamed ld inp).length < field inp 16 4 + field inp 20 4 || (d.mbox (issuerBox iss)).respLimit < field inp 20 4 then
        d.answerStd iss .invalidInput []
      else d.answerStd iss .success (slice (d.logNamed ld inp) (field inp 16 4) (field inp 20 4)) := by
  have hlog : (if inp.take 16 = uuidBytes uuidCel then some celBytes
      else if inp.take 16 = uuidBytes Config.vendorLog.toNat then (issuerLd iss).map d.vendorBytes else none) = some (d.logNamed ld inp) := by
    by_cases hcel : inp.take 16 = uuidBytes uuidCel
    · rw [if_pos hcel, Dev.logNamed, if_pos hcel]
    · rw [if_neg hcel, if_pos (hid.resolve_left hcel), Dev.logNamed, if_neg hcel, hld]
      rfl
  rw [Dev.getLog, Dev.sized_of _ hlen]
  dsimp only
  rw [hlog]

/-! ### The timestamp (R46) -/

theorem Dev.timestampNow_doorbell (n : Nat) : (d.doorbell n).timestampNow = d.timestampNow := by
  obtain ⟨ev, lds, out, hsig, -⟩ := signals_doorbell d n
  rw [hsig]
  rfl

end

/-! ### The obligation -/

theorem information_commands (s : State) (iss : Issuer) (inp : List Byte) (htakes : Takes s) :
    let d0 := s.dev.doorbell (mailDoorbell iss)
    let box := issuerBox iss
    let power (d : Dev) : List Byte := [BitVec.ofNat 8 ((d.mbox box).respLimit.log2)]
    (∀ c ∈ [Instr.identify iss inp, .backgroundOperationStatus iss inp, .getResponseMessageLimit iss inp, .requestAbortBackgroundOperation iss inp,
            .getTimestamp iss inp, .getSupportedLogs iss inp, .identifyMemoryDevice iss inp, .getHealthInfo iss inp, .getAlertConfiguration iss inp],
      inp ≠ [] → Completes c s fun d => RepliesStd d0 d iss .invalidLength []) ∧
    (inp = [] →
      (Completes (.identify iss inp) s fun d => RepliesStd d0 d iss .success
        (leBytes 2 Config.vendorId.toNat ++ [0x40, 0x4C] ++ leBytes 4 Config.subsystem.toNat ++ leBytes 8 Config.serial.toNat ++ [15, 3])) ∧
      ((d0.mbox box).bg = none → Completes (.backgroundOperationStatus iss inp) s fun d => RepliesStd d0 d iss .success (zeros 8)) ∧
      (∀ b, (d0.mbox box).bg = some b → b.running = false → Completes (.backgroundOperationStatus iss inp) s fun d =>
        RepliesStd d0 d iss .success ([200, 0] ++ leBytes 2 b.opcode.toNat ++ leBytes 2 b.ret.code ++ zeros 2)) ∧
      (∀ b, (d0.mbox box).bg = some b → b.running = true → Completes (.backgroundOperationStatus iss inp) s fun d =>
        ∃ part ≤ 100, AnsweredStd d iss .success ([BitVec.ofNat 8 (1 + 2 * part), 0] ++ leBytes 2 b.opcode.toNat ++ zeros 4)) ∧
      (Completes (.getResponseMessageLimit iss inp) s fun d => RepliesStd d0 d iss .success (power d0)) ∧
      (∀ b, (d0.mbox box).bg = some b → b.running = true →
        (b.opcode ∈ stoppable → Completes (.requestAbortBackgroundOperation iss inp) s fun d =>
          RepliesStd (d0.modBox box fun x => { x with bg := some { b with abort := true } }) d iss .success []) ∧
        (b.opcode ∉ stoppable → Completes (.requestAbortBackgroundOperation iss inp) s fun d =>
          RepliesStd d0 d iss .unsupported [])) ∧
      (d0.bgBusy iss = false → Completes (.requestAbortBackgroundOperation iss inp) s fun d => RepliesStd d0 d iss .success [])) ∧
    (let n := field inp 0 1
     let set := d0.modBox box fun b => { b with respLimit := 2 ^ min n 15 }
     (inp.length = 1 → 8 ≤ n → n ≤ 20 → Completes (.setResponseMessageLimit iss inp) s fun d =>
       RepliesStd set d iss .success [BitVec.ofNat 8 (min n 15)]) ∧
     (inp.length = 1 → n < 8 ∨ 20 < n → Completes (.setResponseMessageLimit iss inp) s fun d => RepliesStd d0 d iss .invalidInput [])) := by
  intro d0 box power
  refine ⟨?_, fun hinp => ⟨?_, fun hbg => ?_, fun b hbg hrun => ?_, fun b hbg hrun => ?_, ?_, fun b hbg hrun => ⟨fun hstop => ?_, fun hstop => ?_⟩,
    fun hidle => ?_⟩, ?_⟩
  · simp only [List.forall_mem_cons, List.not_mem_nil, false_implies, implies_true, and_true]
    exact ⟨fun h => completes_noInput htakes h (exec_identify s iss inp), fun h => completes_noInput htakes h (exec_backgroundOperationStatus s iss inp),
      fun h => completes_noInput htakes h (exec_getResponseMessageLimit s iss inp),
      fun h => completes_noInput htakes h (exec_requestAbortBackgroundOperation s iss inp),
      fun h => completes_noInput htakes h (exec_getTimestamp s iss inp), fun h => completes_noInput htakes h (exec_getSupportedLogs s iss inp),
      fun h => completes_noInput htakes h (exec_identifyMemoryDevice s iss inp), fun h => completes_noInput htakes h (exec_getHealthInfo s iss inp),
      fun h => completes_noInput htakes h (exec_getAlertConfiguration s iss inp)⟩
  · refine completes_of_takes htakes (exec_identify s iss inp) ?_
    rw [Dev.identify, Dev.noInput_none _ hinp]
    exact answerStd_replies ..
  · refine completes_of_takes htakes (exec_backgroundOperationStatus s iss inp) ?_
    rw [Dev.bgStatus_none hinp hbg]
    exact answerStd_replies ..
  · refine completes_of_takes htakes (exec_backgroundOperationStatus s iss inp) ?_
    rw [Dev.bgStatus_ended hinp hbg hrun]
    exact answerStd_replies ..
  · refine completes_of_takes htakes (exec_backgroundOperationStatus s iss inp) ?_
    rw [Dev.bgStatus_runs hinp hbg hrun]
    exact ⟨(d0.free 7).1.toNat % 101, by omega, (answerStd_replies ..).1⟩
  · refine completes_of_takes htakes (exec_getResponseMessageLimit s iss inp) ?_
    rw [Dev.noInput_none _ hinp]
    exact answerStd_replies ..
  · refine completes_of_takes htakes (exec_requestAbortBackgroundOperation s iss inp) ?_
    rw [Dev.askAbort_stops hinp hbg hrun hstop]
    exact answerStd_replies ..
  · refine completes_of_takes htakes (exec_requestAbortBackgroundOperation s iss inp) ?_
    rw [Dev.askAbort_unstoppable hinp hbg hrun hstop]
    exact answerStd_replies ..
  · refine completes_of_takes htakes (exec_requestAbortBackgroundOperation s iss inp) ?_
    rw [Dev.askAbort_idle hinp hidle]
    exact answerStd_replies ..
  · intro n set
    refine ⟨fun hlen h8 h20 => ?_, fun hlen hout => ?_⟩
    · refine completes_of_takes htakes (exec_setResponseMessageLimit s iss inp) ?_
      rw [Dev.setRespLimit_sets hlen h8 h20]
      exact answerStd_replies ..
    · refine completes_of_takes htakes (exec_setResponseMessageLimit s iss inp) ?_
      rw [Dev.setRespLimit_refuses hlen hout]
      exact answerStd_replies ..

theorem log_command (s : State) (iss : Issuer) (inp : List Byte) (htakes : Takes s) (ld : Nat) (hlen : inp.length = 24) (hld : issuerLd iss = some ld)
    (hid : inp.take 16 = uuidBytes uuidCel ∨ inp.take 16 = uuidBytes Config.vendorLog.toNat) :
    let d0 := s.dev.doorbell (mailDoorbell iss)
    let log := d0.logNamed ld inp
    (field inp 16 4 + field inp 20 4 ≤ log.length → field inp 20 4 ≤ (d0.mbox (issuerBox iss)).respLimit → Completes (.getLog iss inp) s fun d =>
      RepliesStd d0 d iss .success (slice log (field inp 16 4) (field inp 20 4))) ∧
    (log.length < field inp 16 4 + field inp 20 4 → Completes (.getLog iss inp) s fun d => RepliesStd d0 d iss .invalidInput []) := by
  intro d0 log
  have hof := Dev.getLog_of (d := d0) hlen hld hid
  constructor
  · intro hin hlimit
    refine completes_of_takes htakes (exec_getLog s iss inp) ?_
    rw [hof, if_neg (by simpa using ⟨hin, hlimit⟩)]
    exact answerStd_replies ..
  · intro hout
    refine completes_of_takes htakes (exec_getLog s iss inp) ?_
    rw [hof, if_pos (by simp [show (d0.logNamed ld inp).length < _ from hout])]
    exact answerStd_replies ..

/-- Settles O58: each command by its answer. -/
theorem standardInformationAndLogs : Obligations.StandardInformationAndLogs := by
  unfold Obligations.StandardInformationAndLogs
  refine ⟨information_commands, fun s iss inp htakes => ?_⟩
  intro d0
  refine ⟨fun hlen => ?_, fun hinp => ?_, fun ld hinp hld => ?_, fun ld hlen hld hid => log_command s iss inp htakes ld hlen hld hid,
    fun hlen => ⟨fun hr => ?_, fun hr => ?_⟩, fun hlen => ?_, fun hlen => ?_⟩
  · refine completes_of_takes htakes (exec_setTimestamp s iss inp) ?_
    rw [Dev.setTimestamp, Dev.sized_of _ hlen]
    exact ⟨_, answerStd_replies .., rfl⟩
  · have hanswer : Completes (.getTimestamp iss inp) s fun d => RepliesStd d0 d iss .success (leBytes 8 s.dev.timestampNow) := by
      refine completes_of_takes htakes (exec_getTimestamp s iss inp) ?_
      rw [Dev.noInput_none _ hinp, Dev.timestampNow_doorbell]
      exact answerStd_replies ..
    refine ⟨fun h0 => ?_, fun hset => ?_⟩
    · rw [Dev.timestampNow, if_pos h0] at hanswer
      exact hanswer
    · rw [Dev.timestampNow, if_neg hset] at hanswer
      exact hanswer
  · refine completes_of_takes htakes (exec_getSupportedLogs s iss inp) ?_
    rw [Dev.supportedLogs_of hinp hld]
    exact answerStd_replies ..
  · refine completes_of_takes htakes (exec_getSupportedFeatures s iss inp) ?_
    rw [Dev.sized_of _ hlen, if_pos hr]
    exact answerStd_replies ..
  · refine completes_of_takes htakes (exec_getSupportedFeatures s iss inp) ?_
    rw [Dev.sized_of _ hlen, if_neg (by simp [hr])]
    exact answerStd_replies ..
  · refine completes_of_takes htakes (exec_getFeature s iss inp) ?_
    rw [Dev.sized_of _ hlen]
    exact answerStd_replies ..
  · refine completes_of_takes htakes (exec_setFeature s iss inp) ?_
    rw [if_neg (by omega)]
    exact answerStd_replies ..

end Sys2Proof.Machine
end

section
/-! Standard commands: the memory device, its health and alerts, poison and Sanitize (spec/04 R128; spec/12 R333; spec/13 R365, R386). -/

namespace Sys2Proof.Machine

open Sys2Proof Sys2Proof.Laws

section
variable (s : State) (iss : Issuer) (inp : List Byte)

theorem exec_setAlertConfiguration : exec (.setAlertConfiguration iss inp) s = ok (s.dev.command iss 0x4202 fun d => d.setAlerts iss inp) s := rfl
theorem exec_getPoisonList : exec (.getPoisonList iss inp) s = ok (s.dev.command iss 0x4300 fun d => d.poisonList iss inp) s := rfl
theorem exec_injectPoison : exec (.injectPoison iss inp) s = ok (s.dev.command iss 0x4301 fun d => d.injectPoison iss inp) s := rfl
theorem exec_clearPoison : exec (.clearPoison iss inp) s = ok (s.dev.command iss 0x4302 fun d => d.clearPoison iss inp) s := rfl
theorem exec_sanitizeCommand : exec (.sanitizeCommand iss inp) s = ok (s.dev.command iss 0x4400 fun d => d.sanitizeLd iss inp) s := rfl

end

/-! ### Slices of byte lists -/

theorem slice_length {l : List Byte} {off n : Nat} (h : off + n ≤ l.length) : (slice l off n).length = n := by
  rw [slice, List.length_take, List.length_drop]
  omega

theorem slice_middle {l pre x : List Byte} {off n : Nat} (hl : pre ++ x <+: l) (hoff : pre.length = off) (hn : x.length = n) :
    slice l off n = x := by
  obtain ⟨post, rfl⟩ := hl
  subst hoff hn
  rw [slice, List.append_assoc, List.drop_left, List.take_left]

theorem bit_eq_testBit (v n : Nat) : bit v n = v.testBit n := by
  rw [bit, Nat.testBit_eq_decide_div_mod_eq]

/-! ### Alerts -/

/-- The enables that a Set Alert Configuration leaves. -/
def alertEnables (a inp : List Byte) : Byte :=
  (BitVec.ofNat 8 (field a 0 1) &&& ~~~(BitVec.ofNat 8 (field inp 0 1))) ||| BitVec.ofNat 8 (field inp 1 1) &&& BitVec.ofNat 8 (field inp 0 1)

/-- The threshold of alert b that a Set Alert Configuration leaves: n bytes, at off of the alerts and at src of the input. -/
def alertPick (a inp : List Byte) (b off n src : Nat) : List Byte := if bit (field inp 0 1) b then slice inp src n else slice a off n

/-- The alerts that a Set Alert Configuration leaves. -/
def alertsSet (a inp : List Byte) : List Byte :=
  [alertEnables a inp] ++ alertPick a inp 0 1 1 2 ++ alertPick a inp 1 2 2 4 ++ alertPick a inp 2 4 2 6 ++ alertPick a inp 3 6 2 8 ++
    alertPick a inp 4 8 2 10

theorem alertEnables_bit (a inp : List Byte) {b : Nat} (hb : b < 5) :
    (alertEnables a inp).getLsbD b = if bit (field inp 0 1) b then bit (field inp 1 1) b else (a.getD 0 0).getLsbD b := by
  have h8 : b < 8 := by omega
  rw [alertEnables, field_getD a, BitVec.ofNat_toNat, BitVec.setWidth_eq, bit_eq_testBit, bit_eq_testBit]
  simp only [BitVec.getLsbD_or, BitVec.getLsbD_and, BitVec.getLsbD_not, BitVec.getLsbD_ofNat, h8, decide_true, Bool.true_and]
  cases (field inp 0 1).testBit b with
  | false => simp
  | true => simp

section
variable {a inp : List Byte} (ha : a.length = 10) (hlen : inp.length = 12)
include ha hlen

theorem alertPick_length {b off n src : Nat} (hoff : off + n ≤ 10) (hsrc : src + n ≤ 12) : (alertPick a inp b off n src).length = n := by
  unfold alertPick
  split
  · exact slice_length (by omega)
  · exact slice_length (by omega)

theorem alertsSet_life : slice (alertsSet a inp) 1 1 = alertPick a inp 0 1 1 2 :=
  have h0 := List.prefix_append ([alertEnables a inp] ++ alertPick a inp 0 1 1 2) (alertPick a inp 1 2 2 4)
  slice_middle (((h0.trans (List.prefix_append ..)).trans (List.prefix_append ..)).trans (List.prefix_append ..)) rfl
    (alertPick_length ha hlen (by decide) (by decide))

theorem alertsSet_length : (alertsSet a inp).length = 10 := by
  simp only [alertsSet, List.length_append, alertPick_length ha hlen (show 1 + 1 ≤ 10 by decide) (show 2 + 1 ≤ 12 by decide),
    alertPick_length ha hlen (show 2 + 2 ≤ 10 by decide) (show 4 + 2 ≤ 12 by decide),
    alertPick_length ha hlen (show 4 + 2 ≤ 10 by decide) (show 6 + 2 ≤ 12 by decide),
    alertPick_length ha hlen (show 6 + 2 ≤ 10 by decide) (show 8 + 2 ≤ 12 by decide),
    alertPick_length ha hlen (show 8 + 2 ≤ 10 by decide) (show 10 + 2 ≤ 12 by decide), List.length_singleton]

theorem alertsSet_threshold {b : Nat} (hb : b < 4) : slice (alertsSet a inp) (2 + 2 * b) 2 = alertPick a inp (b + 1) (2 + 2 * b) 2 (4 + 2 * b) := by
  have hpick (k off src : Nat) (hoff : off + 2 ≤ 10) (hsrc : src + 2 ≤ 12) := alertPick_length (b := k) ha hlen hoff hsrc
  have hlife := alertPick_length (b := 0) ha hlen (show 1 + 1 ≤ 10 by decide) (show 2 + 1 ≤ 12 by decide)
  have h1 := hpick 1 2 4 (by decide) (by decide)
  have h2 := hpick 2 4 6 (by decide) (by decide)
  have h3 := hpick 3 6 8 (by decide) (by decide)
  have h4 := hpick 4 8 10 (by decide) (by decide)
  have g1 := List.prefix_append ([alertEnables a inp] ++ alertPick a inp 0 1 1 2 ++ alertPick a inp 1 2 2 4) (alertPick a inp 2 4 2 6)
  have g2 := List.prefix_append ([alertEnables a inp] ++ alertPick a inp 0 1 1 2 ++ alertPick a inp 1 2 2 4 ++ alertPick a inp 2 4 2 6)
    (alertPick a inp 3 6 2 8)
  match b, hb with
  | 0, _ => exact slice_middle ((g1.trans (List.prefix_append ..)).trans (List.prefix_append ..)) (by simp [hlife]) h1
  | 1, _ => exact slice_middle (g2.trans (List.prefix_append ..)) (by simp [hlife, h1]) h2
  | 2, _ => exact slice_middle (List.prefix_append ..) (by simp [hlife, h1, h2]) h3
  | 3, _ => exact slice_middle (List.prefix_refl _) (by simp [hlife, h1, h2, h3]) h4

end

section
variable {d : Dev} {iss : Issuer} {inp : List Byte}

theorem Dev.alerts_length (d : Dev) : d.alerts.length = 10 := by
  unfold Dev.alerts
  split
  next h => exact h
  next => rfl

theorem Dev.setAlerts_sets (hlen : inp.length = 12) (hv : field inp 0 1 ≤ 31) (hon : field inp 1 1 ≤ 31) (hr : rsvd inp 3 1 = true) :
    d.setAlerts iss inp = ({ d with host.alerts := alertsSet d.alerts inp } : Dev).answerStd iss .success [] := by
  rw [Dev.setAlerts, Dev.sized_of _ hlen]
  exact if_neg (by simp [hr]; omega)

theorem Dev.setAlerts_refuses (hlen : inp.length = 12) (h : 31 < field inp 0 1 ∨ 31 < field inp 1 1 ∨ rsvd inp 3 1 = false) :
    d.setAlerts iss inp = d.answerStd iss .invalidInput [] := by
  rw [Dev.setAlerts, Dev.sized_of _ hlen]
  exact if_pos (by simpa [or_assoc] using h)

theorem Dev.answerStd_alerts (d : Dev) (iss : Issuer) (ret : Ret) (out : List Byte) : (d.answerStd iss ret out).alerts = d.alerts := by
  obtain ⟨-, b, ev, lds, o, h, -⟩ := answerStd_replies d iss ret out
  rw [h]
  rfl

/-- The alerts that a Set Alert Configuration has left, once it has answered. -/
theorem Dev.setAlerts_alerts (hlen : inp.length = 12) (hv : field inp 0 1 ≤ 31) (hon : field inp 1 1 ≤ 31) (hr : rsvd inp 3 1 = true) :
    (d.setAlerts iss inp).alerts = alertsSet d.alerts inp := by
  rw [Dev.setAlerts_sets hlen hv hon hr, Dev.answerStd_alerts]
  exact if_pos (alertsSet_length d.alerts_length hlen)

/-! ### Poison (R128, R386) -/

variable {ld : Nat} (hld : issuerLd iss = some ld)

include hld in
theorem Dev.poisonList_of (hlen : inp.length = 16) (ha : field inp 0 8 % 64 = 0) :
    d.poisonList iss inp =
      (let l := (d.poisonDpas ld).filter fun a => field inp 0 8 ≤ a && a < field inp 0 8 + 64 * field inp 8 8
       let n := min l.length (((d.mbox (issuerBox iss)).respLimit - 32) / 16)
       d.answerStd iss .success ([BitVec.ofNat 8 (flag (n < l.length)), 0] ++ zeros 8 ++ leBytes 2 n ++ zeros 20 ++
         (l.take n).flatMap fun a => leBytes 8 a ++ leBytes 4 1 ++ zeros 4)) := by
  rw [Dev.poisonList, Dev.sized_of _ hlen, Dev.aboutLd_of hld]
  exact if_neg (not_not_intro ha)

/-- A command that places a line at a DPA: Inject Poison and Clear Poison, where diagnostics are unlocked. -/
def Dev.poisons (d : Dev) (iss : Issuer) (inp : List Byte) (x : Option Line) : Dev :=
  if !d.unlocked then d.answerStd iss .invalidSecurity [] else d.aboutLd iss fun ld => d.placeLine iss ld (field inp 0 8) x

theorem Dev.poisons_locked {x : Option Line} (h : d.unlocked = false) : d.poisons iss inp x = d.answerStd iss .invalidSecurity [] :=
  if_pos (by simp [h])

include hld in
theorem Dev.poisons_unlocked {x : Option Line} (h : d.unlocked = true) : d.poisons iss inp x = d.placeLine iss ld (field inp 0 8) x := by
  rw [Dev.poisons, if_neg (by simp [h]), Dev.aboutLd_of hld]

/-- Inject Poison and Clear Poison, by the line that each writes. -/
theorem poison_takes {s : State} {c : Instr} {x : Option Line} {P : Dev → Prop} (htakes : Takes s)
    (hc : (c, x) ∈ [(Instr.injectPoison iss inp, none), (.clearPoison iss inp, some (BitVec.ofNat 512 (field inp 8 64)))])
    (hlen : inp.length = if x.isNone then 8 else 72) (hP : P ((s.dev.doorbell (mailDoorbell iss)).poisons iss inp x)) : Completes c s P := by
  simp only [List.mem_cons, Prod.mk.injEq, List.not_mem_nil, or_false] at hc
  obtain ⟨rfl, rfl⟩ | ⟨rfl, rfl⟩ := hc
  · refine completes_of_takes htakes (exec_injectPoison s iss inp) ?_
    rw [Dev.injectPoison, Dev.sized_of _ (show inp.length = 8 from hlen)]
    exact hP
  · refine completes_of_takes htakes (exec_clearPoison s iss inp) ?_
    rw [Dev.clearPoison, Dev.sized_of _ (show inp.length = 72 from hlen)]
    exact hP

variable {dpa : Nat} {x : Option Line}

theorem Dev.placeLine_unaligned (h : dpa % 64 ≠ 0) : d.placeLine iss ld dpa x = d.answerStd iss .invalidInput [] := if_pos h

theorem Dev.placeLine_astray (ha : dpa % 64 = 0) (h : d.regionAt ld dpa = none) : d.placeLine iss ld dpa x = d.answerStd iss .invalidPa [] :=
  (if_neg (not_not_intro ha)).trans (if_pos (by simp [h]))

section
variable (ha : dpa % 64 = 0) (hr : d.regionAt ld dpa ≠ none)
include ha hr

theorem Dev.placeLine_retry (h : d.power.quiet = true ∨ d.serviceRoom 3 = false) : d.placeLine iss ld dpa x = d.answerStd iss .retry [] := by
  have hnone : d.jobWrite 256 ld dpa 0xC0 x = none := by
    rw [Dev.jobWrite_issues (Option.isSome_iff_ne_none.mpr hr)]
    exact if_pos (by simpa [Req.cls, jobReq] using h)
  unfold Dev.placeLine
  rw [if_neg (not_not_intro ha), if_neg (by simpa using hr), hnone]

theorem Dev.placeLine_places {e : Dev} (h : d.jobWrite 256 ld dpa 0xC0 x = some e) : d.placeLine iss ld dpa x = e.answerStd iss .success [] := by
  unfold Dev.placeLine
  rw [if_neg (not_not_intro ha), if_neg (by simpa using hr), h]

end

/-- What a job's issue leaves, whether a job holds the slot or none: its request last in the queue, and every other job (R40). -/
theorem Dev.issueJob_frame {slot : Nat} {q : Req} (hquiet : d.power.quiet = false) (hroom : d.serviceRoom q.cls = true) :
    ∃ e, d.issueJob slot q = some e ∧ e.line = d.line ∧ (∀ n ≠ slot, e.job n = d.job n) ∧
      e.path.reqs = d.path.reqs ++ [{ q with
        id := d.fresh.1, src := .job slot, stage := .service, owner := ((d.job slot).bind (·.owner)).getD 32, atBnd := d.clk.bnd
        atClk := d.clk.clk }] := by
  have hmod (e : Dev) (f : Job → Job) :
      (e.modJob slot f).line = e.line ∧ (∀ n ≠ slot, (e.modJob slot f).job n = e.job n) ∧ (e.modJob slot f).path.reqs = e.path.reqs := by
    unfold Dev.modJob
    split
    · exact ⟨rfl, fun n hn => Dev.job_setJob_ne _ _ _ _ hn, rfl⟩
    · exact ⟨rfl, fun _ _ => rfl, rfl⟩
  unfold Dev.issueJob
  rw [if_neg (by simp [hquiet, hroom])]
  obtain ⟨hline, hjob, hreqs⟩ := hmod
    { d.fresh.2 with path.reqs := d.path.reqs ++ [{ q with
        id := d.fresh.1, src := .job slot, stage := .service, owner := ((d.job slot).bind (·.owner)).getD 32, atBnd := d.clk.bnd
        atClk := d.clk.clk }] }
    fun j => { j with sent := true, buf := none }
  exact ⟨_, rfl, hline, hjob, hreqs⟩

end

theorem poison_commands (s : State) (iss : Issuer) (inp : List Byte) (htakes : Takes s) (ld : Nat) (hld : issuerLd iss = some ld) (c : Instr)
    (x : Option Line) (hc : (c, x) ∈ [(Instr.injectPoison iss inp, none), (.clearPoison iss inp, some (BitVec.ofNat 512 (field inp 8 64)))])
    (hlen : inp.length = if x.isNone then 8 else 72) :
    let d0 := s.dev.doorbell (mailDoorbell iss)
    (d0.unlocked = false → Completes c s fun d => RepliesStd d0 d iss .invalidSecurity []) ∧
    (d0.unlocked = true → field inp 0 8 % 64 = 0 → d0.regionAt ld (field inp 0 8) = none → Completes c s fun d =>
      RepliesStd d0 d iss .invalidPa []) ∧
    (d0.unlocked = true → field inp 0 8 % 64 ≠ 0 → Completes c s fun d => RepliesStd d0 d iss .invalidInput []) ∧
    (d0.unlocked = true → field inp 0 8 % 64 = 0 → d0.regionAt ld (field inp 0 8) ≠ none →
      (d0.power.quiet = false → d0.serviceRoom 3 = true → Completes c s fun d =>
        AnsweredStd d iss .success [] ∧ d.line = d0.line ∧ (∀ n < 256, d.job n = d0.job n) ∧ d.path.reqs = d0.path.reqs ++
          [{ jobReq .write ld (field inp 0 8) 0xC0 with
             id := d0.fresh.1, src := .job 256, owner := ((d0.job 256).bind (·.owner)).getD 32, data := x.getD 0, poison := x.isNone, atBnd := d0.clk.bnd, atClk := d0.clk.clk }]) ∧
      (d0.power.quiet = true ∨ d0.serviceRoom 3 = false → Completes c s fun d => RepliesStd d0 d iss .retry [])) := by
  intro d0
  refine ⟨fun hlocked => ?_, fun hopen ha hnone => ?_, fun hopen ha => ?_, fun hopen ha hr => ⟨fun hquiet hroom => ?_, fun hbusy => ?_⟩⟩
  · refine poison_takes htakes hc hlen ?_
    rw [Dev.poisons_locked hlocked]
    exact answerStd_replies ..
  · refine poison_takes htakes hc hlen ?_
    rw [Dev.poisons_unlocked hld hopen, Dev.placeLine_astray ha hnone]
    exact answerStd_replies ..
  · refine poison_takes htakes hc hlen ?_
    rw [Dev.poisons_unlocked hld hopen, Dev.placeLine_unaligned ha]
    exact answerStd_replies ..
  · obtain ⟨e, hissue, hline, hjob, hreqs⟩ := Dev.issueJob_frame (d := d0) (slot := 256)
      (q := { jobReq .write ld (field inp 0 8) 0xC0 with data := x.getD 0, poison := x.isNone, mask := BitVec.allOnes 64 }) hquiet
      (by simpa [Req.cls, jobReq] using hroom)
    refine poison_takes htakes hc hlen ?_
    rw [Dev.poisons_unlocked hld hopen,
      Dev.placeLine_places ha hr ((Dev.jobWrite_issues (Option.isSome_iff_ne_none.mpr hr)).trans hissue)]
    obtain ⟨hanswered, b, hsig⟩ := answerStd_replies e iss .success []
    refine ⟨hanswered, hsig.line.trans hline, fun n hn => ?_, ?_⟩
    · rw [Dev.job, hsig.jobs]
      exact hjob n (by omega)
    · rw [hsig.path]
      exact hreqs
  · refine poison_takes htakes hc hlen ?_
    rw [Dev.poisons_unlocked hld hopen, Dev.placeLine_retry ha hr hbusy]
    exact answerStd_replies ..

/-! ### Sanitize (R365) -/

/-- The regions of an LD by their bases. -/
def Dev.regionsOf (d : Dev) (ld : Nat) : List Region :=
  (d.conf.regions.filter fun r => r.home.isNone && r.ld = ld).mergeSort fun a b => a.base ≤ b.base

/-- The job of a Sanitize: every unit of every region of the LD, with NewKey FFh. -/
def Dev.sanitizeJob (d : Dev) (iss : Issuer) (ld : Nat) : Job :=
  { kind := .sanitize, label := 0xC0, owner := issuerOwner iss, box := some (issuerBox iss)
    body := [BitVec.ofNat 8 ld, 0xFF] ++ zeros 6
    entries := (d.regionsOf ld).map fun r => leBytes 8 (r.base * mib2) ++ leBytes 4 r.size ++ zeros 4
    todo := (d.regionsOf ld).flatMap fun r => (List.range r.size).map (r.base + ·)
    total := ((d.regionsOf ld).flatMap fun r => (List.range r.size).map (r.base + ·)).length }

section
variable {d : Dev} {iss : Issuer} {inp : List Byte} {ld : Nat} (hinp : inp = []) (hld : issuerLd iss = some ld)
include hinp hld

theorem Dev.sanitizeLd_busy (h : d.bgBusy iss = true) : d.sanitizeLd iss inp = d.answerStd iss .busy [] := by
  rw [Dev.sanitizeLd, Dev.noInput_none _ hinp, Dev.aboutLd_of hld]
  exact if_pos h

variable (hfree : d.bgBusy iss = false)
include hfree

theorem Dev.sanitizeLd_empty (h : d.regionsOf ld = []) : d.sanitizeLd iss inp = d.answerStd iss .success [] := by
  rw [Dev.sanitizeLd, Dev.noInput_none _ hinp, Dev.aboutLd_of hld]
  exact (if_neg (by simp [hfree])).trans (if_pos (List.isEmpty_iff.mpr h))

theorem Dev.sanitizeLd_queues {slot : Nat} (h : d.regionsOf ld ≠ []) (hcores : 7 < d.coresUp) (hslot : lowestFree d.jobs.slots.keys 256 = some slot) :
    d.sanitizeLd iss inp = (d.queueJob slot (d.sanitizeJob iss ld)).startBg iss 0x4400 (some slot) := by
  rw [Dev.sanitizeLd, Dev.noInput_none _ hinp, Dev.aboutLd_of hld]
  extract_lets box rs units
  rw [if_neg (by simp [hfree]), if_neg (by rw [List.isEmpty_iff]; exact h), if_neg (by omega), hslot]
  rfl

end

/-- A command that runs in the background has been started, and its interface knows its job. -/
theorem Dev.startBg_starts (d : Dev) (iss : Issuer) (opcode : Nat) (job : Option Nat) :
    Out.mailbox (issuerBox iss) .bgStarted [] ∈ (d.startBg iss opcode job).out ∧ (∀ n, (d.startBg iss opcode job).job n = d.job n) ∧
      ∃ b, ((d.startBg iss opcode job).mbox (issuerBox iss)).bg = some b ∧ b.running = true ∧ b.job = job := by
  have hbox := congrArg Mbox.bg (Dev.mbox_modBox_self d (issuerBox iss) fun x => { x with
    bg := some { opcode := BitVec.ofNat 16 opcode, running := true, ret := .success, out := [], job := job, counts := issuerCounts iss }
    ret := .bgStarted })
  exact ⟨List.mem_append_right _ (List.mem_singleton_self _), fun _ => rfl, _, hbox, rfl, rfl⟩

theorem sanitize_command (s : State) (iss : Issuer) (inp : List Byte) (htakes : Takes s) (ld : Nat) (hld : issuerLd iss = some ld) (hinp : inp = []) :
    let d0 := s.dev.doorbell (mailDoorbell iss)
    let rs := d0.regionsOf ld
    (d0.bgBusy iss = false →
      (rs = [] → Completes (.sanitizeCommand iss inp) s fun d => RepliesStd d0 d iss .success []) ∧
      (∀ slot, rs ≠ [] → 7 < d0.coresUp → lowestFree d0.jobs.slots.keys 256 = some slot → Completes (.sanitizeCommand iss inp) s fun d =>
        Out.mailbox (issuerBox iss) .bgStarted [] ∈ d.out ∧
        ∃ j b, d.job slot = some j ∧ j.kind = .sanitize ∧ j.st = .queued ∧ j.todo = (rs.flatMap fun r => (List.range r.size).map (r.base + ·)) ∧
          (d.mbox (issuerBox iss)).bg = some b ∧ b.running = true ∧ b.job = some slot)) ∧
    (d0.bgBusy iss = true → Completes (.sanitizeCommand iss inp) s fun d => RepliesStd d0 d iss .busy []) := by
  intro d0 rs
  refine ⟨fun hfree => ⟨fun hnone => ?_, fun slot hsome hcores hslot => ?_⟩, fun hbusy => ?_⟩
  · refine completes_of_takes htakes (exec_sanitizeCommand s iss inp) ?_
    rw [Dev.sanitizeLd_empty hinp hld hfree hnone]
    exact answerStd_replies ..
  · refine completes_of_takes htakes (exec_sanitizeCommand s iss inp) ?_
    rw [Dev.sanitizeLd_queues hinp hld hfree hsome hcores hslot]
    obtain ⟨hout, hjob, b, hb, hrun, hbjob⟩ := (d0.queueJob slot (d0.sanitizeJob iss ld)).startBg_starts iss 0x4400 (some slot)
    exact ⟨hout, _, b, (hjob slot).trans (Dev.job_queueJob_self ..), rfl, rfl, rfl, hb, hrun, hbjob⟩
  · refine completes_of_takes htakes (exec_sanitizeCommand s iss inp) ?_
    rw [Dev.sanitizeLd_busy hinp hld hbusy]
    exact answerStd_replies ..

/-- Settles O59: each command by its answer and by what it leaves. -/
theorem standardMemoryCommands : Obligations.StandardMemoryCommands := by
  unfold Obligations.StandardMemoryCommands
  intro s iss inp htakes d0
  refine ⟨fun hinp => ⟨?_, ?_, ?_⟩, fun hlen hv hon hr => ?_, fun hlen hbad => ?_, fun ld hld => ⟨fun hlen ha => ?_, ?_, ?_, ?_⟩⟩
  · refine completes_of_takes htakes (exec_identifyMemoryDevice s iss inp) ?_
    rw [Dev.identifyMemory, Dev.noInput_none _ hinp]
    exact answerStd_replies ..
  · refine completes_of_takes htakes (exec_getHealthInfo s iss inp) ?_
    rw [Dev.health, Dev.noInput_none _ hinp]
    refine ⟨BitVec.ofNat 8 (d0.free 3).1.toNat, ((d0.free 3).2.free 8).1, ?_, (answerStd_replies ..).1⟩
    rw [BitVec.toNat_ofNat]
    omega
  · refine completes_of_takes htakes (exec_getAlertConfiguration s iss inp) ?_
    rw [Dev.getAlerts, Dev.noInput_none _ hinp]
    exact answerStd_replies ..
  · refine completes_of_takes htakes (exec_setAlertConfiguration s iss inp) ?_
    have ha := d0.alerts_length
    rw [Dev.setAlerts_alerts hlen hv hon hr]
    refine ⟨?_, alertsSet_length ha hlen, fun b hb => alertEnables_bit _ _ hb, alertsSet_life ha hlen, fun b hb => alertsSet_threshold ha hlen hb⟩
    rw [Dev.setAlerts_sets hlen hv hon hr]
    exact (answerStd_replies ..).1
  · refine completes_of_takes htakes (exec_setAlertConfiguration s iss inp) ?_
    rw [Dev.setAlerts_refuses hlen hbad]
    exact answerStd_replies ..
  · refine completes_of_takes htakes (exec_getPoisonList s iss inp) ?_
    rw [Dev.poisonList_of hld hlen ha]
    exact answerStd_replies ..
  · exact poison_commands s iss inp htakes ld hld
  · exact fun hinp => (sanitize_command s iss inp htakes ld hld hinp).1
  · exact fun hinp => (sanitize_command s iss inp htakes ld hld hinp).2

end Sys2Proof.Machine
end

section
/-! The commands of the FM-owned LD (spec/09 R251; spec/12 R333). -/

namespace Sys2Proof.Machine

open Sys2Proof Sys2Proof.Laws

section
variable (s : State) (iss : Issuer) (inp : List Byte)

theorem exec_getLdInfo : exec (.getLdInfo iss inp) s = ok (s.dev.command iss 0x5400 fun d => d.ldInfo iss inp) s := rfl
theorem exec_getLdAllocations : exec (.getLdAllocations iss inp) s = ok (s.dev.command iss 0x5401 fun d => d.getAllocations iss inp) s := rfl
theorem exec_setLdAllocations : exec (.setLdAllocations iss inp) s =
    ok (s.dev.command iss 0x5402 fun d => d.fmOwned iss fun l =>
      d.setList iss inp l 16 2 (·.ldAlloc) fun x b => { x with ldAlloc := b }) s := rfl
theorem exec_getQosControl : exec (.getQosControl iss inp) s =
    ok (s.dev.command iss 0x5403 fun d => d.fmOwned iss fun l => d.noInput iss inp fun d =>
      d.answerStd iss .success (if (d.link l).qosControl.length = 7 then (d.link l).qosControl else zeros 7)) s := rfl
theorem exec_setQosControl : exec (.setQosControl iss inp) s =
    ok (s.dev.command iss 0x5404 fun d => d.fmOwned iss fun l => d.setQos iss inp l) s := rfl
theorem exec_getQosStatus : exec (.getQosStatus iss inp) s = ok (s.dev.command iss 0x5405 fun d => d.qosStatus iss inp) s := rfl
theorem exec_getQosAllocatedBw : exec (.getQosAllocatedBw iss inp) s =
    ok (s.dev.command iss 0x5406 fun d => d.fmOwned iss fun l => d.someLds iss inp l fun start n =>
      d.answerStd iss .success ([BitVec.ofNat 8 n, BitVec.ofNat 8 start] ++ slice (kept (d.link l).qosBw 1) start n)) s := rfl
theorem exec_setQosAllocatedBw : exec (.setQosAllocatedBw iss inp) s =
    ok (s.dev.command iss 0x5407 fun d => d.fmOwned iss fun l =>
      d.setList iss inp l 1 0 (·.qosBw) fun x b => { x with qosBw := b }) s := rfl
theorem exec_getQosBwLimit : exec (.getQosBwLimit iss inp) s =
    ok (s.dev.command iss 0x5408 fun d => d.fmOwned iss fun l => d.someLds iss inp l fun start n =>
      d.answerStd iss .success ([BitVec.ofNat 8 n, BitVec.ofNat 8 start] ++ (((d.linkLds l).drop start).take n).map fun ld => (d.ld ld).bwLimit)) s := rfl
theorem exec_setQosBwLimit : exec (.setQosBwLimit iss inp) s =
    ok (s.dev.command iss 0x5409 fun d => d.fmOwned iss fun l => d.setBwLimits iss inp l) s := rfl

end

/-- A command of the FM-owned LD is unsupported for anyone but the management controller. -/
theorem completes_unowned {s : State} {c : Instr} {iss : Issuer} {op : Nat} {f : Dev → Nat → Dev} (htakes : Takes s) (hmc : issuerMc iss = false)
    (hc : exec c s = ok (s.dev.command iss op fun d => d.fmOwned iss (f d)) s) :
    Completes c s fun d => RepliesStd (s.dev.doorbell (mailDoorbell iss)) d iss .unsupported [] := by
  refine completes_of_takes htakes hc ?_
  rw [Dev.fmOwned_other _ (.inl hmc)]
  exact answerStd_replies ..

theorem unowned_commands (s : State) (iss : Issuer) (inp : List Byte) (htakes : Takes s) (hmc : issuerMc iss = false) :
    ∀ c ∈ [Instr.getLdInfo iss inp, .getLdAllocations iss inp, .setLdAllocations iss inp, .getQosControl iss inp, .setQosControl iss inp,
        .getQosStatus iss inp, .getQosAllocatedBw iss inp, .setQosAllocatedBw iss inp, .getQosBwLimit iss inp, .setQosBwLimit iss inp],
      Completes c s fun d => RepliesStd (s.dev.doorbell (mailDoorbell iss)) d iss .unsupported [] := by
  simp only [List.forall_mem_cons, List.not_mem_nil, false_implies, implies_true, and_true]
  exact ⟨completes_unowned htakes hmc (exec_getLdInfo s iss inp), completes_unowned htakes hmc (exec_getLdAllocations s iss inp),
    completes_unowned htakes hmc (exec_setLdAllocations s iss inp), completes_unowned htakes hmc (exec_getQosControl s iss inp),
    completes_unowned htakes hmc (exec_setQosControl s iss inp), completes_unowned htakes hmc (exec_getQosStatus s iss inp),
    completes_unowned htakes hmc (exec_getQosAllocatedBw s iss inp), completes_unowned htakes hmc (exec_setQosAllocatedBw s iss inp),
    completes_unowned htakes hmc (exec_getQosBwLimit s iss inp), completes_unowned htakes hmc (exec_setQosBwLimit s iss inp)⟩

/-- A command of the FM-owned LD, by the management controller, about an LD of an MLD link. -/
theorem completes_owned {s : State} {c : Instr} {iss : Issuer} {op ld l : Nat} {f : Dev → Nat → Dev} {P : Dev → Prop} (htakes : Takes s)
    (hmc : issuerMc iss = true) (hld : issuerLd iss = some ld) (hl : (s.dev.doorbell (mailDoorbell iss)).ldLink ld = some l)
    (hmld : ((s.dev.doorbell (mailDoorbell iss)).link l).mld = true)
    (hc : exec c s = ok (s.dev.command iss op fun d => d.fmOwned iss (f d)) s) (hP : P (f (s.dev.doorbell (mailDoorbell iss)) l)) :
    Completes c s P := by
  refine completes_of_takes htakes hc ?_
  rw [Dev.fmOwned_mld _ hmc hld hl hmld]
  exact hP

/-! ### Lists that a link keeps of its LDs -/

section
variable {d : Dev} {iss : Issuer} {inp : List Byte} {l : Nat}

theorem Dev.someLds_of (f : Nat → Nat → Dev) (hlen : inp.length = 2) (h : field inp 1 1 + field inp 0 1 ≤ (d.linkLds l).length) :
    d.someLds iss inp l f = f (field inp 1 1) (field inp 0 1) := by
  rw [Dev.someLds, Dev.sized_of _ hlen]
  exact if_neg (by omega)

theorem Dev.setList_sets {n skip : Nat} (get : HLink → List Byte) (put : HLink → List Byte → HLink)
    (hlen : inp.length = 2 + skip + n * field inp 0 1) (h : field inp 1 1 + field inp 0 1 ≤ (d.linkLds l).length) (hr : rsvd inp 2 skip = true) :
    d.setList iss inp l n skip get put =
      (d.setLink l (put (d.link l) (overlay (kept (get (d.link l)) n) (n * field inp 1 1) (inp.drop (2 + skip))))).answerStd iss .success inp := by
  unfold Dev.setList
  extract_lets count start
  rw [if_neg (by simp [count]; omega), if_neg (by simp [hr, count, start]; omega)]
  rfl

theorem Dev.setQos_sets (hlen : inp.length = 7) (h : ¬(3 < field inp 0 1 ∨ 127 < field inp 1 1 ∨ 127 < field inp 2 1 ∨ 15 < field inp 3 1)) :
    d.setQos iss inp l = (d.setLink l { d.link l with qosControl := inp }).answerStd iss .success inp := by
  rw [Dev.setQos, Dev.sized_of _ hlen]
  exact if_neg (by simpa [or_assoc] using h)

theorem Dev.setQos_refuses (hlen : inp.length = 7) (h : 3 < field inp 0 1 ∨ 127 < field inp 1 1 ∨ 127 < field inp 2 1 ∨ 15 < field inp 3 1) :
    d.setQos iss inp l = d.answerStd iss .invalidInput [] := by
  rw [Dev.setQos, Dev.sized_of _ hlen]
  exact if_pos (by simpa [or_assoc] using h)

/-! ### Bandwidth limits -/

/-- Of pairs whose first parts are apart, two with one first part are one. -/
theorem eq_of_map_fst_nodup {α β : Type} {l : List (α × β)} (h : (l.map Prod.fst).Nodup) {p q : α × β} (hp : p ∈ l) (hq : q ∈ l)
    (heq : p.1 = q.1) : p = q := by
  induction l with
  | nil => cases hp
  | cons e l ih =>
    obtain ⟨he, hl⟩ := List.nodup_cons.mp h
    obtain rfl | hpl := List.mem_cons.mp hp
    · obtain rfl | hql := List.mem_cons.mp hq
      · rfl
      · exact absurd (List.mem_map.mpr ⟨q, hql, heq.symm⟩) he
    · obtain rfl | hql := List.mem_cons.mp hq
      · exact absurd (List.mem_map.mpr ⟨p, hpl, heq⟩) he
      · exact ih hl hpl hql

/-- The LDs that a Set QoS BW Limit names, each with its limit. -/
def Dev.limitsOf (d : Dev) (l : Nat) (inp : List Byte) : List (Nat × Byte) := ((d.linkLds l).drop (field inp 1 1)).zip (inp.drop 2)

/-- The device with bandwidth limits written. -/
def Dev.limited (d : Dev) (pairs : List (Nat × Byte)) : Dev := each pairs d fun d e => d.modLd e.1 fun x => { x with bwLimit := e.2 }

variable (hlen : inp.length = 2 + field inp 0 1) (h : field inp 1 1 + field inp 0 1 ≤ (d.linkLds l).length)
include hlen h

theorem Dev.setBwLimits_sets : d.setBwLimits iss inp l = (d.limited (d.limitsOf l inp)).answerStd iss .success inp := by
  unfold Dev.setBwLimits
  extract_lets n start
  rw [if_neg (by simp [n]; omega), if_neg (by simp [n, start]; omega)]
  rfl

/-- The LDs named are those of the link from the first on. -/
theorem Dev.limitsOf_fst : (d.limitsOf l inp).map Prod.fst = ((d.linkLds l).drop (field inp 1 1)).take (field inp 0 1) := by
  have hmin : min ((d.linkLds l).drop (field inp 1 1)).length (inp.drop 2).length = field inp 0 1 := by
    rw [List.length_drop, List.length_drop]
    omega
  rw [Dev.limitsOf, List.zip_eq_zip_take_min, hmin, List.map_fst_zip]
  rw [List.length_take, List.length_take, List.length_drop, List.length_drop]
  omega

theorem Dev.limitsOf_nodup : ((d.limitsOf l inp).map Prod.fst).Nodup := by
  rw [Dev.limitsOf_fst hlen h]
  have hlds : (d.linkLds l).Nodup := List.nodup_range.filter _
  exact (hlds.sublist (List.drop_sublist ..)).sublist (List.take_sublist ..)

theorem Dev.limited_names {i k : Nat} (hi : i < field inp 0 1) (hk : (d.linkLds l)[field inp 1 1 + i]? = some k) :
    ((d.limited (d.limitsOf l inp)).ld k).bwLimit = inp.getD (2 + i) 0 := by
  have hnodup := Dev.limitsOf_nodup hlen h
  have hbyte : inp[2 + i]? = some (inp.getD (2 + i) 0) := by
    rw [List.getD_eq_getElem?_getD, List.getElem?_eq_getElem (by omega)]
    rfl
  have hmem : (k, inp.getD (2 + i) 0) ∈ d.limitsOf l inp := by
    refine List.mem_of_getElem? (i := i) (List.getElem?_zip_eq_some.mpr ⟨?_, ?_⟩)
    · rw [List.getElem?_drop]; exact hk
    · rw [List.getElem?_drop]; exact hbyte
  refine each_once (nodup_of_map_fst hnodup) hmem (fun d : Dev => (d.ld k).bwLimit) rfl (fun e _ => ?_) (fun e p hp hne => ?_)
  · exact congrArg Ld.bwLimit (Dev.ld_modLd_self ..)
  · refine congrArg Ld.bwLimit (Dev.ld_modLd_ne _ _ _ _ fun heq => hne ?_)
    exact eq_of_map_fst_nodup hnodup hp hmem heq.symm

theorem Dev.limited_spares {k : Nat} (hk : k ∉ ((d.linkLds l).drop (field inp 1 1)).take (field inp 0 1)) :
    ((d.limited (d.limitsOf l inp)).ld k).bwLimit = (d.ld k).bwLimit := by
  rw [← Dev.limitsOf_fst hlen h] at hk
  refine each_induct (fun e : Dev => (e.ld k).bwLimit = (d.ld k).bwLimit) rfl fun e p hp he => ?_
  have hne : k ≠ p.1 := by
    rintro rfl
    exact hk (List.mem_map_of_mem hp)
  exact (congrArg Ld.bwLimit (Dev.ld_modLd_ne _ _ _ _ hne)).trans he

end

theorem owned_sets (s : State) (iss : Issuer) (inp : List Byte) (htakes : Takes s) (ld l : Nat) (hmc : issuerMc iss = true)
    (hld : issuerLd iss = some ld) (hl : (s.dev.doorbell (mailDoorbell iss)).ldLink ld = some l)
    (hmld : ((s.dev.doorbell (mailDoorbell iss)).link l).mld = true) :
    let d0 := s.dev.doorbell (mailDoorbell iss)
    let x := d0.link l
    let lds := d0.linkLds l
    let a := field inp 0 1
    let b := field inp 1 1
    (inp.length = 4 + 16 * a → b + a ≤ lds.length → rsvd inp 2 2 = true → Completes (.setLdAllocations iss inp) s fun d =>
      RepliesStd (d0.setLink l { x with ldAlloc := overlay (kept x.ldAlloc 16) (16 * b) (inp.drop 4) }) d iss .success inp) ∧
    (inp.length = 7 →
      let bad := 3 < a ∨ 127 < b ∨ 127 < field inp 2 1 ∨ 15 < field inp 3 1
      (¬bad → Completes (.setQosControl iss inp) s fun d => RepliesStd (d0.setLink l { x with qosControl := inp }) d iss .success inp) ∧
      (bad → Completes (.setQosControl iss inp) s fun d => RepliesStd d0 d iss .invalidInput [])) ∧
    (inp.length = 2 + a → b + a ≤ lds.length →
      (Completes (.setQosAllocatedBw iss inp) s fun d =>
        RepliesStd (d0.setLink l { x with qosBw := overlay (kept x.qosBw 1) b (inp.drop 2) }) d iss .success inp) ∧
      (Completes (.setQosBwLimit iss inp) s fun d => AnsweredStd d iss .success inp ∧
        (∀ i < a, ∀ k, lds[b + i]? = some k → (d.ld k).bwLimit = inp.getD (2 + i) 0) ∧
        ∀ k, k ∉ (lds.drop b).take a → (d.ld k).bwLimit = (d0.ld k).bwLimit)) := by
  intro d0 x lds a b
  refine ⟨fun hlen hin hr => ?_, fun hlen => ⟨fun hgood => ?_, fun hbad => ?_⟩, fun hlen hin => ⟨?_, ?_⟩⟩
  · refine completes_owned htakes hmc hld hl hmld (exec_setLdAllocations s iss inp) ?_
    rw [Dev.setList_sets _ _ hlen hin hr]
    exact answerStd_replies ..
  · refine completes_owned htakes hmc hld hl hmld (exec_setQosControl s iss inp) ?_
    rw [Dev.setQos_sets hlen hgood]
    exact answerStd_replies ..
  · refine completes_owned htakes hmc hld hl hmld (exec_setQosControl s iss inp) ?_
    rw [Dev.setQos_refuses hlen hbad]
    exact answerStd_replies ..
  · refine completes_owned htakes hmc hld hl hmld (exec_setQosAllocatedBw s iss inp) ?_
    rw [Dev.setList_sets _ _ (by rw [Nat.one_mul]; exact hlen) hin rfl, Nat.one_mul]
    exact answerStd_replies ..
  · refine completes_owned htakes hmc hld hl hmld (exec_setQosBwLimit s iss inp) ?_
    rw [Dev.setBwLimits_sets hlen hin]
    have hlimit (k : Nat) : (((d0.limited (d0.limitsOf l inp)).answerStd iss .success inp).ld k).bwLimit =
        ((d0.limited (d0.limitsOf l inp)).ld k).bwLimit := by
      obtain ⟨v, hv⟩ := answerStd_ld (d0.limited (d0.limitsOf l inp)) iss .success inp k
      rw [hv]
    exact ⟨(answerStd_replies ..).1, fun i hi k hk => (hlimit k).trans (Dev.limited_names hlen hin hi hk),
      fun k hk => (hlimit k).trans (Dev.limited_spares hlen hin hk)⟩

theorem owned_gets (s : State) (iss : Issuer) (inp : List Byte) (htakes : Takes s) (ld l : Nat) (hmc : issuerMc iss = true)
    (hld : issuerLd iss = some ld) (hl : (s.dev.doorbell (mailDoorbell iss)).ldLink ld = some l)
    (hmld : ((s.dev.doorbell (mailDoorbell iss)).link l).mld = true) :
    let d0 := s.dev.doorbell (mailDoorbell iss)
    let x := d0.link l
    let lds := d0.linkLds l
    let a := field inp 0 1
    let b := field inp 1 1
    (inp = [] →
      (Completes (.getLdInfo iss inp) s fun d => ∃ v : BitVec 64, AnsweredStd d iss .success
        (leBytes 8 v.toNat ++ leBytes 2 lds.length ++ [Config.qosCaps])) ∧
      (x.qosControl.length = 7 → Completes (.getQosControl iss inp) s fun d => RepliesStd d0 d iss .success x.qosControl) ∧
      (Completes (.getQosStatus iss inp) s fun d => ∃ v : Byte, AnsweredStd d iss .success [v])) ∧
    (inp.length = 2 →
      (a + b ≤ lds.length → Completes (.getLdAllocations iss inp) s fun d => RepliesStd d0 d iss .success
        ([BitVec.ofNat 8 lds.length, 0, BitVec.ofNat 8 a, BitVec.ofNat 8 b] ++ slice (kept x.ldAlloc 16) (16 * a) (16 * b))) ∧
      (b + a ≤ lds.length →
        (Completes (.getQosAllocatedBw iss inp) s fun d => RepliesStd d0 d iss .success
          ([BitVec.ofNat 8 a, BitVec.ofNat 8 b] ++ slice (kept x.qosBw 1) b a)) ∧
        (Completes (.getQosBwLimit iss inp) s fun d => RepliesStd d0 d iss .success
          ([BitVec.ofNat 8 a, BitVec.ofNat 8 b] ++ ((lds.drop b).take a).map fun ld => (d0.ld ld).bwLimit)))) := by
  intro d0 x lds a b
  refine ⟨fun hinp => ⟨?_, fun hseven => ?_, ?_⟩, fun hlen => ⟨fun hin => ?_, fun hin => ⟨?_, ?_⟩⟩⟩
  · refine completes_owned htakes hmc hld hl hmld (exec_getLdInfo s iss inp) ?_
    rw [Dev.noInput_none _ hinp]
    exact ⟨(d0.free 64).1, (answerStd_replies ..).1⟩
  · refine completes_owned htakes hmc hld hl hmld (exec_getQosControl s iss inp) ?_
    rw [Dev.noInput_none _ hinp, if_pos hseven]
    exact answerStd_replies ..
  · refine completes_owned htakes hmc hld hl hmld (exec_getQosStatus s iss inp) ?_
    rw [Dev.noInput_none _ hinp]
    exact ⟨(d0.free 8).1, (answerStd_replies ..).1⟩
  · refine completes_owned htakes hmc hld hl hmld (exec_getLdAllocations s iss inp) ?_
    rw [Dev.sized_of _ hlen]
    have hmin : min (field inp 1 1) ((d0.linkLds l).length - field inp 0 1) = field inp 1 1 := by
      simp only [a, b, lds] at hin
      omega
    dsimp only
    rw [hmin]
    exact answerStd_replies ..
  · refine completes_owned htakes hmc hld hl hmld (exec_getQosAllocatedBw s iss inp) ?_
    rw [Dev.someLds_of _ hlen hin]
    exact answerStd_replies ..
  · refine completes_owned htakes hmc hld hl hmld (exec_getQosBwLimit s iss inp) ?_
    rw [Dev.someLds_of _ hlen hin]
    exact answerStd_replies ..

/-- Settles O60: each command by its answer, and the bandwidth limits LD by LD. -/
theorem fmOwnedCommands : Obligations.FmOwnedCommands := by
  unfold Obligations.FmOwnedCommands
  intro s iss inp htakes d0
  refine ⟨fun hmc => unowned_commands s iss inp htakes hmc, fun ld l hmc hld hl hmld => ?_⟩
  obtain ⟨hnone, hsome⟩ := owned_gets s iss inp htakes ld l hmc hld hl hmld
  obtain ⟨halloc, hqos, hbw⟩ := owned_sets s iss inp htakes ld l hmc hld hl hmld
  exact ⟨hnone, hsome, halloc, hqos, hbw⟩

end Sys2Proof.Machine
end
